-- ==== Sys2Proof/Word.lean ====
section
/-!
DEFINITION. The word types of the machine (R9, R27): scalar registers, syllables, bytes, vector
registers and masks are what the manual treats as bits.
-/
namespace Sys2Proof

/-- One byte of any memory space. -/
abbrev Byte := BitVec 8

/-- A scalar register `x0` to `x31`, a control register, a queue entry (R9). -/
abbrev Word := BitVec 64

/-- A syllable (R27): bit 31 is the stop bit, bits 30:27 the class. -/
abbrev Syllable := BitVec 32

/-- A vector register `v0` to `v31`: 512 bytes, byte 0 in bits 7:0 (R169). -/
abbrev VWord := BitVec 4096

/-- A mask register `m0` to `m7` (R9). -/
abbrev MWord := BitVec 1024

/-- A 32-byte sector of memory, or one flit (R5). -/
abbrev Sector := BitVec 256

/-- A GM virtual address of code (R93). -/
abbrev CodeAddr := BitVec 56

end Sys2Proof
end

