-- ==== Sys2Proof/Machine/Bits.lean ====
section
/-!
DEFINITION. Bit fields, sign extension, byte order (R3: little-endian everywhere), the packing of
elements in a register (R67, R169) and CRC-32C (R77).
-/
namespace Sys2Proof.Machine

/-- Bits `hi` down to `lo` of a value, as an unsigned number (R66). -/
def bits (v : Nat) (hi lo : Nat) : Nat := (v >>> lo) % 2 ^ (hi + 1 - lo)

/-- Bit `i` of a value. -/
def bit (v i : Nat) : Bool := (v >>> i) % 2 == 1

/-- A bit as a number. -/
def b2n (b : Bool) : Nat := if b then 1 else 0

/-- The value with bits `hi:lo` replaced by the low bits of `f`. -/
def setBits (v hi lo f : Nat) : Nat :=
  v - ((v >>> lo) % 2 ^ (hi + 1 - lo)) * 2 ^ lo + (f % 2 ^ (hi + 1 - lo)) * 2 ^ lo

/-- The `n`-bit two's complement value of the low `n` bits of `v` (R66 `sext`). -/
def sext (v n : Nat) : Int :=
  if v % 2 ^ n < 2 ^ (n - 1) then ((v % 2 ^ n : Nat) : Int) else ((v % 2 ^ n : Nat) : Int) - (2 ^ n : Nat)

/-- An integer modulo `2^n`, as an unsigned number. -/
def wrapTo (n : Nat) (i : Int) : Nat := (i % (2 ^ n : Nat)).toNat

/-- A 64-bit word from an integer, modulo 2^64 (R97). -/
def toWord (i : Int) : Word := BitVec.ofInt 64 i

/-- The number of bytes rounded up to a multiple of 32 (R77). -/
def ceil32 (n : Nat) : Nat := (n + 31) / 32 * 32

/-- The number a list of bytes stands for, lowest address first (R3). -/
def leNat : List Byte → Nat
  | [] => 0
  | b :: bs => b.toNat + 256 * leNat bs

/-- `n` bytes of a number, lowest first (R3). -/
def leBytes : (n : Nat) → (v : Nat) → List Byte
  | 0, _ => []
  | n + 1, v => BitVec.ofNat 8 v :: leBytes n (v / 256)

/-- Element `i` of width `w` of a packed value (R67, R169). -/
def elem (w : Nat) (v : Nat) (i : Nat) : Nat := (v >>> (w * i)) % 2 ^ w

/-- Elements packed with element 0 in the low bits (R67, R169). -/
def packElems (w : Nat) : List Nat → Nat
  | [] => 0
  | a :: as => a % 2 ^ w + (packElems w as) <<< w

/-- The first `n` elements of width `w` of a packed value. -/
def elems (w n v : Nat) : List Nat := (List.range n).map (elem w v)

/-- The number of one bits among the low `n` bits. -/
def popCount : (n : Nat) → (v : Nat) → Nat
  | 0, _ => 0
  | n + 1, v => v % 2 + popCount n (v / 2)

/-- The number of zero bits below the lowest one bit of the low `n` bits. -/
def trailingZeros : (n : Nat) → (v : Nat) → Nat
  | 0, _ => 0
  | n + 1, v => if v % 2 == 1 then 0 else 1 + trailingZeros n (v / 2)

/-- The number of zero bits above the highest one bit of an `n`-bit value. -/
def leadingZeros (n v : Nat) : Nat := if v == 0 then n else n - 1 - Nat.log2 v

/-- One bit of the reflected CRC-32C (R77: polynomial 0x1EDC6F41, here reflected). -/
def crcBit (c : Nat) : Nat := if c % 2 == 1 then (c >>> 1) ^^^ 0x82F63B78 else c >>> 1

/-- The running CRC register after one byte (R77, R404). -/
def crcByte (c : Nat) (b : Byte) : Nat :=
  crcBit (crcBit (crcBit (crcBit (crcBit (crcBit (crcBit (crcBit (c ^^^ b.toNat))))))))

/-- The running CRC register after bytes in ascending address order (R77). -/
def crcRun (c : Nat) (bs : List Byte) : Nat := bs.foldl crcByte c

/-- CRC-32C of a list of bytes (R77). -/
def crc32c (bs : List Byte) : Nat := crcRun 0xFFFFFFFF bs ^^^ 0xFFFFFFFF

/-- A list with the element at `i` replaced; unchanged when `i` is out of range. -/
def setAt {α : Type} (l : List α) (i : Nat) (a : α) : List α := l.set i a

/-- Insert a key into a strictly rising list. -/
def insertKey (k : Nat) : List Nat → List Nat
  | [] => [k]
  | a :: as => if k < a then k :: a :: as else if k = a then a :: as else a :: insertKey k as

/-- Remove a key from a list. -/
def eraseKey (k : Nat) (l : List Nat) : List Nat := l.filter (fun a => a != k)

/-- The value stored under a key, or the default. -/
def lookupD {α : Type} (l : List (Nat × α)) (k : Nat) (d : α) : α :=
  match l with
  | [] => d
  | (a, v) :: r => if a = k then v else lookupD r k d

/-- The list with `v` stored under `k`, keys strictly rising. -/
def storeAt {α : Type} (l : List (Nat × α)) (k : Nat) (v : α) : List (Nat × α) :=
  match l with
  | [] => [(k, v)]
  | (a, w) :: r =>
    if k < a then (k, v) :: (a, w) :: r
    else if k = a then (k, v) :: r
    else (a, w) :: storeAt r k v

/-- The list with nothing stored under `k`. -/
def eraseAt {α : Type} (l : List (Nat × α)) (k : Nat) : List (Nat × α) :=
  l.filter (fun p => p.1 != k)

end Sys2Proof.Machine
end

