-- ==== Sys2Proof/Syntax.lean ====
section
/-!
DEFINITION. The syntax of the machine: one constructor of `Instr` per row of the opcode table. The
first 242 are the syllables of classes 0 to 13 (R45 to R60); the last 120 are the part's own steps
and the events the outside world makes happen, which no word encodes.
-/
namespace Sys2Proof

/-- A scalar register number `x0` to `x31`; 28 to 31 are the queue ports `q0` to `q3` (R38). -/
abbrev XReg := Fin 32
/-- A vector register number (R38). -/
abbrev VReg := Fin 32
/-- An accumulator tile `c0` to `c31` (R38). -/
abbrev Tile := Fin 32
/-- A statistics register `g0` to `g15` (R38). -/
abbrev GReg := Fin 16
/-- A predicate `p0` to `p7` (R38). -/
abbrev PReg := Fin 8
/-- A mask register `m0` to `m7` (R38). -/
abbrev MReg := Fin 8

/-- The guard of an SA syllable, the condition of a BR syllable, the selector of `SEL` (R45, R103). -/
structure Guard where
  pred : PReg
  neg : Bool
  deriving DecidableEq, Repr

/-- The size field of ME loads, stores and atomics (R51). -/
inductive Size where
  | b1 | b2 | b4 | b8
  deriving DecidableEq, Repr

/-- The sub-op of an atomic (R51, R160). -/
inductive AmoOp where
  | add | and | or | xor | min | max | swap | cas
  deriving DecidableEq, Repr

/-- The element types and formats of R47. -/
inductive ElemTy where
  | f32 | bf16 | e4m3 | e5m2 | i32 | i16 | i8 | i4 | w32 | w16 | w8 | s4o
  deriving DecidableEq, Repr

/-- The source half H of `GADD` and `GWADD` (R204). -/
inductive Half where
  | f32 | bf16lo | bf16hi
  deriving DecidableEq, Repr

/-- The drain modes of `GDRAIN` (R209). -/
inductive DrainMode where
  | raw | mean | var | svar | rstd | norm
  deriving DecidableEq, Repr

/-- The scopes of R18 that an SY syllable may carry. -/
inductive Scope where
  | co | qd | di | pk | pd
  deriving DecidableEq, Repr

/-- The instructions and steps of the part: one constructor per row of the opcode table. -/
inductive Instr where
  /-- R98. Does nothing and occupies no slot, though it counts towards the eight syllables of a bundle. -/
  | nop
  /-- R99. Writes xa plus xb modulo 2^64 to xd, with exposed latency 1, when the guard holds. -/
  | add (g : Guard) (d : XReg) (a : XReg) (b : XReg)
  /-- R99. Writes xa minus xb modulo 2^64 to xd. -/
  | sub (g : Guard) (d : XReg) (a : XReg) (b : XReg)
  /-- R99. Writes the bitwise and of xa and xb to xd. -/
  | and (g : Guard) (d : XReg) (a : XReg) (b : XReg)
  /-- R99. Writes the bitwise or of xa and xb to xd. -/
  | or (g : Guard) (d : XReg) (a : XReg) (b : XReg)
  /-- R99. Writes the bitwise exclusive or of xa and xb to xd. -/
  | xor (g : Guard) (d : XReg) (a : XReg) (b : XReg)
  /-- R99. Writes xa and not xb to xd. -/
  | andn (g : Guard) (d : XReg) (a : XReg) (b : XReg)
  /-- R99. Writes xa shifted left by xb[5:0] to xd. -/
  | sll (g : Guard) (d : XReg) (a : XReg) (b : XReg)
  /-- R99. Writes xa shifted right logically by xb[5:0] to xd. -/
  | srl (g : Guard) (d : XReg) (a : XReg) (b : XReg)
  /-- R99. Writes xa shifted right arithmetically by xb[5:0] to xd. -/
  | sra (g : Guard) (d : XReg) (a : XReg) (b : XReg)
  /-- R99. Writes xa rotated left by xb[5:0] to xd. -/
  | rol (g : Guard) (d : XReg) (a : XReg) (b : XReg)
  /-- R100. Writes the low 64 bits of xa times xb to xd with exposed latency 3. -/
  | mul (g : Guard) (d : XReg) (a : XReg) (b : XReg)
  /-- R100. Writes the high 64 bits of the signed product of xa and xb to xd. -/
  | mulh (g : Guard) (d : XReg) (a : XReg) (b : XReg)
  /-- R100. Writes the high 64 bits of the unsigned product of xa and xb to xd. -/
  | mulhw (g : Guard) (d : XReg) (a : XReg) (b : XReg)
  /-- R101. Starts a signed division on the unpipelined divider, with a scoreboarded quotient in xd. -/
  | div (g : Guard) (d : XReg) (a : XReg) (b : XReg)
  /-- R101. Starts an unsigned division, with a scoreboarded quotient in xd. -/
  | divw (g : Guard) (d : XReg) (a : XReg) (b : XReg)
  /-- R101. Starts a signed division, with a scoreboarded remainder in xd. -/
  | rem (g : Guard) (d : XReg) (a : XReg) (b : XReg)
  /-- R101. Starts an unsigned division, with a scoreboarded remainder in xd. -/
  | remw (g : Guard) (d : XReg) (a : XReg) (b : XReg)
  /-- R99. Writes the signed smaller of xa and xb to xd. -/
  | min (g : Guard) (d : XReg) (a : XReg) (b : XReg)
  /-- R99. Writes the signed larger of xa and xb to xd. -/
  | max (g : Guard) (d : XReg) (a : XReg) (b : XReg)
  /-- R99. Writes the unsigned smaller of xa and xb to xd. -/
  | minw (g : Guard) (d : XReg) (a : XReg) (b : XReg)
  /-- R99. Writes the unsigned larger of xa and xb to xd. -/
  | maxw (g : Guard) (d : XReg) (a : XReg) (b : XReg)
  /-- R102. Writes the number of leading zero bits of xa to xd. -/
  | clz (g : Guard) (d : XReg) (a : XReg)
  /-- R102. Writes the number of trailing zero bits of xa to xd. -/
  | ctz (g : Guard) (d : XReg) (a : XReg)
  /-- R102. Writes the number of one bits of xa to xd. -/
  | popc (g : Guard) (d : XReg) (a : XReg)
  /-- R102. Extracts the bit field of xa described by xb into xd, optionally sign-extended. -/
  | bfx (g : Guard) (d : XReg) (a : XReg) (b : XReg)
  /-- R102. Inserts xa into the bit field of xd described by xb. -/
  | bfi (g : Guard) (d : XReg) (a : XReg) (b : XReg)
  /-- R103. Writes xa or xb to xd according to the selector predicate, popping only the selected port. -/
  | sel (g : Guard) (d : XReg) (a : XReg) (b : XReg)
  /-- R104. Writes 1 to predicate pd when xa equals xb, else 0. -/
  | pcmpEq (g : Guard) (p : PReg) (a : XReg) (b : XReg)
  /-- R104. Writes 1 to predicate pd when xa differs from xb, else 0. -/
  | pcmpNe (g : Guard) (p : PReg) (a : XReg) (b : XReg)
  /-- R104. Writes 1 to predicate pd when xa is signed-less than xb. -/
  | pcmpLt (g : Guard) (p : PReg) (a : XReg) (b : XReg)
  /-- R104. Writes 1 to predicate pd when xa is signed-greater or equal to xb. -/
  | pcmpGe (g : Guard) (p : PReg) (a : XReg) (b : XReg)
  /-- R104. Writes 1 to predicate pd when xa is unsigned-less than xb. -/
  | pcmpLtw (g : Guard) (p : PReg) (a : XReg) (b : XReg)
  /-- R104. Writes 1 to predicate pd when xa is unsigned-greater or equal to xb. -/
  | pcmpGew (g : Guard) (p : PReg) (a : XReg) (b : XReg)
  /-- R105. Writes the and of two predicates to predicate pd. -/
  | pand (g : Guard) (d : PReg) (a : PReg) (b : PReg)
  /-- R105. Writes the or of two predicates to predicate pd. -/
  | por (g : Guard) (d : PReg) (a : PReg) (b : PReg)
  /-- R105. Writes the exclusive or of two predicates to predicate pd. -/
  | pxor (g : Guard) (d : PReg) (a : PReg) (b : PReg)
  /-- R105. Writes the negation of predicate pa to predicate pd. -/
  | pnot (g : Guard) (d : PReg) (a : PReg)
  /-- R106. Writes the filled and free entry counts of the queue bound to port qa to xd without popping or pushing. -/
  | qcount (g : Guard) (d : XReg) (a : Fin 4)
  /-- R107. Writes xa plus the sign-extended immediate to xd. -/
  | addi (d : XReg) (a : XReg) (i : BitVec 12)
  /-- R107. Writes xa and the immediate to xd. -/
  | andi (d : XReg) (a : XReg) (i : BitVec 12)
  /-- R107. Writes xa or the immediate to xd. -/
  | ori (d : XReg) (a : XReg) (i : BitVec 12)
  /-- R107. Writes xa exclusive-or the immediate to xd. -/
  | xori (d : XReg) (a : XReg) (i : BitVec 12)
  /-- R107. Writes xa shifted left by a constant to xd. -/
  | slli (d : XReg) (a : XReg) (h : BitVec 6)
  /-- R107. Writes xa shifted right logically by a constant to xd. -/
  | srli (d : XReg) (a : XReg) (h : BitVec 6)
  /-- R107. Writes xa shifted right arithmetically by a constant to xd. -/
  | srai (d : XReg) (a : XReg) (h : BitVec 6)
  /-- R107. Writes the sign-extended immediate to xd. -/
  | movi (d : XReg) (i : BitVec 12)
  /-- R107. Writes 1 to predicate pd when xa equals the immediate. -/
  | pcmpiEq (p : PReg) (a : XReg) (i : BitVec 12)
  /-- R107. Writes 1 to predicate pd when xa differs from the immediate. -/
  | pcmpiNe (p : PReg) (a : XReg) (i : BitVec 12)
  /-- R107. Writes 1 to predicate pd when xa is signed-less than the immediate. -/
  | pcmpiLt (p : PReg) (a : XReg) (i : BitVec 12)
  /-- R107. Writes 1 to predicate pd when xa is signed-greater or equal to the immediate. -/
  | pcmpiGe (p : PReg) (a : XReg) (i : BitVec 12)
  /-- R107. Writes 1 to predicate pd when xa is unsigned-less than the sign-extended immediate. -/
  | pcmpiLtw (p : PReg) (a : XReg) (i : BitVec 12)
  /-- R107. Writes 1 to predicate pd when xa is unsigned-greater or equal to the sign-extended immediate. -/
  | pcmpiGew (p : PReg) (a : XReg) (i : BitVec 12)
  /-- R108. Supplies the upper bits of the following syllable's immediate and commits together with it. -/
  | lx (u : BitVec 27)
  /-- R110. Branches to a relative target when the predicate holds. -/
  | j (g : Guard) (o : BitVec 19)
  /-- R111. Writes the return address to x27 and branches to a relative target when the predicate holds. -/
  | call (g : Guard) (o : BitVec 19)
  /-- R112. Jumps to the address in xa when taken, trapping on a bad or misaligned address. -/
  | jr (g : Guard) (a : XReg)
  /-- R112. Jumps to the address in x27 when taken. -/
  | ret (g : Guard)
  /-- R113. Decrements xc and branches to the target while the result is nonzero. -/
  | loop (g : Guard) (c : XReg) (o : BitVec 14)
  /-- R137. Loads 1 to 8 bytes from the core's LS into a register with exposed latency 4. -/
  | ldl (z : Size) (d : XReg) (b : XReg) (o : BitVec 9)
  /-- R137. Loads from the quad's QS at its bank grant with exposed latency 8. -/
  | ldq (z : Size) (d : XReg) (b : XReg) (o : BitVec 9)
  /-- R137. Loads from an on-chip physical address with a scoreboarded result. -/
  | ldo (z : Size) (d : XReg) (b : XReg) (o : BitVec 9)
  /-- R137. Loads from a translated GM address through L2, home MSC slice and HBM. -/
  | ldg (z : Size) (d : XReg) (b : XReg) (o : BitVec 9)
  /-- R137. Loads from a folio address, waiting on a far folio as the folio state requires. -/
  | ldf (z : Size) (d : XReg) (b : XReg) (o : BitVec 9)
  /-- R137. Loads from host memory through a granted host window over CXL. -/
  | ldh (z : Size) (d : XReg) (b : XReg) (o : BitVec 9)
  /-- R137. Stores 1 to 8 bytes of a register to the core's LS. -/
  | stl (z : Size) (d : XReg) (b : XReg) (o : BitVec 9)
  /-- R137. Stores to the quad's QS at its bank grant. -/
  | stq (z : Size) (d : XReg) (b : XReg) (o : BitVec 9)
  /-- R137. Stores to an on-chip physical address, including hub registers and BTE apertures. -/
  | sto (z : Size) (d : XReg) (b : XReg) (o : BitVec 9)
  /-- R137. Stores to a translated GM address, staged for a staged node. -/
  | stg (z : Size) (d : XReg) (b : XReg) (o : BitVec 9)
  /-- R137. Stores to a folio address, staged and splitting shared storage first. -/
  | stf (z : Size) (d : XReg) (b : XReg) (o : BitVec 9)
  /-- R137. Stores to host memory through a granted host window over CXL. -/
  | sth (z : Size) (d : XReg) (b : XReg) (o : BitVec 9)
  /-- R161. Performs an indivisible read-modify-write on LS and returns the old value. -/
  | amol (z : Bool) (d : XReg) (b : XReg) (u : AmoOp) (o : BitVec 6)
  /-- R161. Performs an indivisible read-modify-write on QS at its grant and returns the old value. -/
  | amoq (z : Bool) (d : XReg) (b : XReg) (u : AmoOp) (o : BitVec 6)
  /-- R161. Performs an indivisible read-modify-write at an on-chip physical address and returns the old value. -/
  | amoo (z : Bool) (d : XReg) (b : XReg) (u : AmoOp) (o : BitVec 6)
  /-- R161. Performs an indivisible read-modify-write on GM at the home MSC slice and returns the old value. -/
  | amog (z : Bool) (d : XReg) (b : XReg) (u : AmoOp) (o : BitVec 6)
  /-- R140. Starts fills of the covered GM lines into the die's L2 and home slices, skipping untranslatable pages. -/
  | pfg (l : XReg) (b : XReg) (o : BitVec 9)
  /-- R140. Writes every dirty L2 sector of the covered GM lines back to their home slices. -/
  | cwb (l : XReg) (b : XReg) (o : BitVec 9)
  /-- R140. Writes back the covered GM lines to HBM and invalidates them in every L2 and the home slice. -/
  | cinv (l : XReg) (b : XReg) (o : BitVec 9)
  /-- R165. Holds later bundles until earlier HM accesses are complete at the host and other accesses are performed. -/
  | hfence
  /-- R165. Holds later bundles until every earlier engine command of the core is accepted and has performed its reads. -/
  | efence
  /-- R177. Adds the elements of va and vb into vd. -/
  | vadd (t : ElemTy) (d : VReg) (a : VReg) (b : VReg) (k : Bool)
  /-- R177. Subtracts the elements of vb from va into vd. -/
  | vsub (t : ElemTy) (d : VReg) (a : VReg) (b : VReg) (k : Bool)
  /-- R177. Multiplies the elements of va and vb into vd with latency 4. -/
  | vmul (t : ElemTy) (d : VReg) (a : VReg) (b : VReg) (k : Bool)
  /-- R177. Writes a times b plus the old vd element, rounded once. -/
  | vfma (t : ElemTy) (d : VReg) (a : VReg) (b : VReg) (k : Bool)
  /-- R177. Writes a times b minus the old vd element, rounded once. -/
  | vfms (t : ElemTy) (d : VReg) (a : VReg) (b : VReg) (k : Bool)
  /-- R177. Writes the element-wise minimum of va and vb. -/
  | vmin (t : ElemTy) (d : VReg) (a : VReg) (b : VReg) (k : Bool)
  /-- R177. Writes the element-wise maximum of va and vb. -/
  | vmax (t : ElemTy) (d : VReg) (a : VReg) (b : VReg) (k : Bool)
  /-- R177. Writes the element-wise absolute value of va. -/
  | vabs (t : ElemTy) (d : VReg) (a : VReg) (k : Bool)
  /-- R177. Writes the element-wise negation of va. -/
  | vneg (t : ElemTy) (d : VReg) (a : VReg) (k : Bool)
  /-- R178. Writes the bitwise and of va and vb. -/
  | vand (t : ElemTy) (d : VReg) (a : VReg) (b : VReg) (k : Bool)
  /-- R178. Writes the bitwise or of va and vb. -/
  | vor (t : ElemTy) (d : VReg) (a : VReg) (b : VReg) (k : Bool)
  /-- R178. Writes the bitwise exclusive or of va and vb. -/
  | vxor (t : ElemTy) (d : VReg) (a : VReg) (b : VReg) (k : Bool)
  /-- R178. Shifts each element of va left by the matching element of vb. -/
  | vshl (t : ElemTy) (d : VReg) (a : VReg) (b : VReg) (k : Bool)
  /-- R178. Shifts each element of va right by the matching element of vb. -/
  | vshr (t : ElemTy) (d : VReg) (a : VReg) (b : VReg) (k : Bool)
  /-- R179. Selects elements of va where m0 is set and of vb elsewhere. -/
  | vsel (t : ElemTy) (d : VReg) (a : VReg) (b : VReg)
  /-- R180. Converts elements from the source type in vb to the destination type, widening or narrowing registers. -/
  | vcvt (t : ElemTy) (d : VReg) (a : VReg) (e : ElemTy) (k : Bool)
  /-- R179. Writes mask md with element-wise equality of va and vb. -/
  | vcmpEq (t : ElemTy) (d : MReg) (a : VReg) (b : VReg) (k : Bool)
  /-- R179. Writes mask md with element-wise inequality of va and vb. -/
  | vcmpNe (t : ElemTy) (d : MReg) (a : VReg) (b : VReg) (k : Bool)
  /-- R179. Writes mask md where va is less than vb. -/
  | vcmpLt (t : ElemTy) (d : MReg) (a : VReg) (b : VReg) (k : Bool)
  /-- R179. Writes mask md where va is less than or equal to vb. -/
  | vcmpLe (t : ElemTy) (d : MReg) (a : VReg) (b : VReg) (k : Bool)
  /-- R179. Writes mask md where va is greater than vb. -/
  | vcmpGt (t : ElemTy) (d : MReg) (a : VReg) (b : VReg) (k : Bool)
  /-- R179. Writes mask md where va is greater than or equal to vb. -/
  | vcmpGe (t : ElemTy) (d : MReg) (a : VReg) (b : VReg) (k : Bool)
  /-- R181. Adds elements into widened results spread over two or four registers. -/
  | vwadd (t : ElemTy) (d : VReg) (a : VReg) (b : VReg) (k : Bool)
  /-- R181. Multiplies elements into widened results. -/
  | vwmul (t : ElemTy) (d : VReg) (a : VReg) (b : VReg) (k : Bool)
  /-- R181. Adds widened products to the wide destination elements. -/
  | vwfma (t : ElemTy) (d : VReg) (a : VReg) (b : VReg) (k : Bool)
  /-- R182. Writes the correctly rounded reciprocal of each element. -/
  | vrcp (t : ElemTy) (d : VReg) (a : VReg) (k : Bool)
  /-- R182. Writes the correctly rounded reciprocal square root of each element. -/
  | vrsqrt (t : ElemTy) (d : VReg) (a : VReg) (k : Bool)
  /-- R182. Writes EXP2 of each element bit for bit. -/
  | vexp2 (t : ElemTy) (d : VReg) (a : VReg) (k : Bool)
  /-- R182. Writes the correctly rounded base-2 logarithm of each element. -/
  | vlog2 (t : ElemTy) (d : VReg) (a : VReg) (k : Bool)
  /-- R183. Sums the elements of va by the fixed tree into element 0 of vd. -/
  | vredsum (t : ElemTy) (d : VReg) (a : VReg) (k : Bool)
  /-- R183. Reduces the elements of va to their maximum in element 0 of vd. -/
  | vredmax (t : ElemTy) (d : VReg) (a : VReg) (k : Bool)
  /-- R183. Writes the inclusive sequential prefix sums of va. -/
  | vscan (t : ElemTy) (d : VReg) (a : VReg) (k : Bool)
  /-- R184. Writes the low bits of xa to every element of vd. -/
  | vbcast (t : ElemTy) (d : VReg) (a : XReg) (k : Bool)
  /-- R184. Writes element xb of va to scalar xd, extended by type. -/
  | vmovx (t : ElemTy) (d : XReg) (a : VReg) (b : XReg)
  /-- R184. Writes xa into element xb of vd, keeping the others. -/
  | vins (t : ElemTy) (d : VReg) (a : XReg) (b : XReg)
  /-- R185. Permutes elements of va by the indices in vb through the QS crossbar. -/
  | vperm (t : ElemTy) (d : VReg) (a : VReg) (b : VReg) (k : Bool)
  /-- R185. Rotates the elements of va down by xb. -/
  | vrot (t : ElemTy) (d : VReg) (a : VReg) (b : XReg) (k : Bool)
  /-- R186. Writes the and of two masks. -/
  | mand (d : MReg) (a : MReg) (b : MReg)
  /-- R186. Writes the or of two masks. -/
  | mor (d : MReg) (a : MReg) (b : MReg)
  /-- R186. Writes the negation of a mask. -/
  | mnot (d : MReg) (a : MReg)
  /-- R186. Writes the count of set bits among the first n bits of mask ma to xd. -/
  | mpop (t : ElemTy) (d : XReg) (a : MReg)
  /-- R188. Rearranges units of two registers by a pattern through the QS crossbar. -/
  | vshuf (s : XReg) (d : VReg)
  /-- R189. Quantises a block into a data register and a trailer register. -/
  | vqcvt (s : XReg) (t : XReg) (d : Fin 16)
  /-- R190. Expands a quantised block and its trailer into FP32 or BF16 elements. -/
  | vdqcvt (s : XReg) (d : VReg)
  /-- R191. Sets and clears bits of VCFG under a mask at issue. -/
  | vsetcfg (s : XReg) (t : XReg)
  /-- R192. Gathers indexed units from the quad's QS into vd. -/
  | vgatherq (s : XReg) (t : XReg) (d : VReg)
  /-- R192. Scatters units of vd to indexed QS addresses. -/
  | vscatq (s : XReg) (t : XReg) (d : VReg)
  /-- R193. Holds later bundles until the vector unit is idle. -/
  | vfence
  /-- R194. Writes a mask with ones for indices in an unsigned range. -/
  | vmskld (s : XReg) (t : XReg) (d : MReg)
  /-- R141. Loads 512 bytes of LS into a vector register with exposed latency 4. -/
  | vldl (v : VReg) (b : XReg) (o : BitVec 11)
  /-- R141. Loads 512 bytes of QS into a vector register, scoreboarded. -/
  | vldq (v : VReg) (b : XReg) (o : BitVec 11)
  /-- R141. Loads 512 bytes from an on-chip physical address into a vector register. -/
  | vldo (v : VReg) (b : XReg) (o : BitVec 11)
  /-- R141. Loads 512 bytes of GM into a vector register. -/
  | vldg (v : VReg) (b : XReg) (o : BitVec 11)
  /-- R141. Loads 512 bytes of one folio into a vector register. -/
  | vldf (v : VReg) (b : XReg) (o : BitVec 11)
  /-- R141. Loads 512 bytes of host memory into a vector register. -/
  | vldh (v : VReg) (b : XReg) (o : BitVec 11)
  /-- R141. Stores a vector register to 512 bytes of LS. -/
  | vstl (v : VReg) (b : XReg) (o : BitVec 11)
  /-- R141. Stores a vector register to QS at its grant. -/
  | vstq (v : VReg) (b : XReg) (o : BitVec 11)
  /-- R141. Stores a vector register to an on-chip physical address. -/
  | vsto (v : VReg) (b : XReg) (o : BitVec 11)
  /-- R141. Stores a vector register to GM. -/
  | vstg (v : VReg) (b : XReg) (o : BitVec 11)
  /-- R141. Stores a vector register to one folio. -/
  | vstf (v : VReg) (b : XReg) (o : BitVec 11)
  /-- R141. Stores a vector register to host memory. -/
  | vsth (v : VReg) (b : XReg) (o : BitVec 11)
  /-- R142. Loads one row of a skewed QS tile into a vector register in one grant. -/
  | vldqRow (v : VReg) (b : XReg) (o : BitVec 11)
  /-- R142. Stores a vector register to one row of a skewed QS tile. -/
  | vstqRow (v : VReg) (b : XReg) (o : BitVec 11)
  /-- R142. Loads 32 rows of one column of a skewed QS tile. -/
  | vldqCol (v : VReg) (b : XReg) (o : BitVec 11)
  /-- R142. Stores a vector register to 32 rows of one column of a skewed QS tile. -/
  | vstqCol (v : VReg) (b : XReg) (o : BitVec 11)
  /-- R143. Loads a quantised block and its trailer from LS into a register pair after checking the trailer. -/
  | vldlChk (v : Fin 16) (b : XReg) (f : ElemTy) (c : BitVec 7)
  /-- R143. Loads and checks a quantised block from QS, holding the core until the check. -/
  | vldqChk (v : Fin 16) (b : XReg) (f : ElemTy) (c : BitVec 7)
  /-- R143. Loads and checks a quantised block from an on-chip physical address. -/
  | vldoChk (v : Fin 16) (b : XReg) (f : ElemTy) (c : BitVec 7)
  /-- R143. Loads and checks a quantised block from GM. -/
  | vldgChk (v : Fin 16) (b : XReg) (f : ElemTy) (c : BitVec 7)
  /-- R143. Loads and checks a quantised block from a folio. -/
  | vldfChk (v : Fin 16) (b : XReg) (f : ElemTy) (c : BitVec 7)
  /-- R143. Loads and checks a quantised block from host memory. -/
  | vldhChk (v : Fin 16) (b : XReg) (f : ElemTy) (c : BitVec 7)
  /-- R205. Makes the selected lanes of a statistics register empty. -/
  | gclr (g : GReg) (k : Bool)
  /-- R206. Updates each selected lane with one unweighted sample. -/
  | gadd (g : GReg) (v : VReg) (e : Half) (k : Bool)
  /-- R206. Updates each selected lane with one weighted sample. -/
  | gwadd (g : GReg) (v : VReg) (w : VReg) (e : Half) (k : Bool)
  /-- R207. Merges each selected lane of ga into gd. -/
  | gmerge (g : GReg) (h : GReg) (k : Bool)
  /-- R208. Merges lanes of ga in a fixed binary tree of l levels into gd. -/
  | gfold (g : GReg) (h : GReg) (l : BitVec 3)
  /-- R209. Derives raw triples, means, variances, reciprocal deviations or normalised values from gd into vector registers. -/
  | gdrain (g : GReg) (v : VReg) (w : XReg) (c : Bool) (m : DrainMode)
  /-- R210. Loads the planar image of a statistics register from LS or QS. -/
  | gld (g : GReg) (b : XReg) (p : Bool)
  /-- R210. Stores the planar image of a statistics register to LS or QS. -/
  | gst (g : GReg) (b : XReg) (p : Bool)
  /-- R211. Sets the selected lanes of gd from three vector registers bit for bit. -/
  | gset (g : GReg) (v : VReg) (k : Bool)
  /-- R226. Queues a multiply-accumulate of a step-major LS A block with a B panel into a tile. -/
  | mma (t : Tile) (a : XReg) (b : XReg) (f : ElemTy) (w : Bool) (z : Bool)
  /-- R227. Queues a multiply-accumulate of a row-major LS A block, transposed first, into a tile. -/
  | mmat (t : Tile) (a : XReg) (b : XReg) (f : ElemTy) (w : Bool) (z : Bool)
  /-- R228. Translates a GM A block and queues its multiply-accumulate into a tile as 128 loads. -/
  | mmag (t : Tile) (a : XReg) (b : XReg) (f : ElemTy) (w : Bool) (z : Bool)
  /-- R229. Queues the zeroing of a tile and the clearing of its poison mark. -/
  | mzero (t : Tile)
  /-- R232. Queues the drain of a tile to LS with optional scale, bias, statistics update and clear. -/
  | mdrain (t : Tile) (a : XReg) (b : XReg) (f : ElemTy) (q : Bool) (j : Bool) (h : Bool)
  /-- R230. Queues the load of a tile from a C image in LS. -/
  | mldc (t : Tile) (a : XReg) (f : ElemTy)
  /-- R231. Queues the write of a B panel from a 32 KiB LS block, optionally checking its trailer. -/
  | mbwr (a : XReg) (b : XReg) (f : ElemTy) (c : Bool)
  /-- R233. Holds later bundles until a tile or the whole unit is idle, optionally releasing the B panels. -/
  | mwait (t : Tile) (r : Bool) (l : Bool)
  /-- R234. Samples busy, poison or panel-valid bits of the matrix unit into a scalar register. -/
  | mstat (d : XReg) (e : BitVec 2)
  /-- R235. Arms or disarms a one-shot perturbation of one tile element. -/
  | mpert (t : Tile) (a : XReg) (b : XReg) (q : Bool)
  /-- R246. Writes a register of an engine's shadow set. -/
  | erw (a : XReg) (b : XReg) (n : BitVec 5)
  /-- R246. Reads a register of an engine's active or shadow set. -/
  | err (d : XReg) (a : XReg) (n : BitVec 6)
  /-- R246. Arms an engine's shadow set and queues it as a command. -/
  | eswap (a : XReg)
  /-- R250. Makes a transaction barrier word live and initialises it, or frees it with .free. -/
  | binit (a : XReg) (b : XReg) (f : Bool) (p : Bool)
  /-- R251. Announces sectors and arrives at a barrier, returning the old phase. -/
  | barv (d : XReg) (a : XReg) (b : XReg) (p : Bool)
  /-- R252. Holds later bundles until the barrier's phase differs from the given one. -/
  | bwait (a : XReg) (b : XReg) (p : Bool)
  /-- R252. Samples whether the barrier's phase differs from the given one. -/
  | btest (d : XReg) (a : XReg) (b : XReg) (p : Bool)
  /-- R251. Adds a signed delta to a barrier's pending sector count. -/
  | badd (a : XReg) (b : XReg) (p : Bool)
  /-- R257. Releases the oldest rows of a sliding window and starts fetching the next ones. -/
  | wadv (d : XReg) (a : XReg) (b : XReg)
  /-- R257. Reads a window's fetched and released row counts. -/
  | wpos (d : XReg) (a : XReg)
  /-- R258. Flips LS or QS granules, or the vector register file, to engine ownership. -/
  | owne (a : XReg) (b : XReg) (v : Bool) (p : Bool)
  /-- R258. Holds later bundles until started engine accesses to the granules are performed, then flips them to core ownership. -/
  | ownc (a : XReg) (b : XReg) (v : Bool) (p : Bool)
  /-- R255. Releases filled ring slots back to the engines and returns the ring counters. -/
  | rcnt (d : XReg) (a : XReg) (b : XReg)
  /-- R267. Queues a row operation copying rows from source to destination. -/
  | rowcpy (c : XReg) (a : XReg) (b : XReg)
  /-- R267. Queues a row operation filling rows with a 64-bit pattern. -/
  | rowfil (c : XReg) (a : XReg) (b : XReg)
  /-- R267. Queues a bitwise-region row operation writing the and of two source rows. -/
  | rowand (c : XReg) (a : XReg) (b : XReg) (e : XReg)
  /-- R267. Queues a bitwise-region row operation writing the or of two source rows. -/
  | rowor (c : XReg) (a : XReg) (b : XReg) (e : XReg)
  /-- R267. Queues a bitwise-region row operation writing the exclusive or of two source rows. -/
  | rowxor (c : XReg) (a : XReg) (b : XReg) (e : XReg)
  /-- R267. Queues a bitwise-region row operation writing the negation of a source row. -/
  | rownot (c : XReg) (a : XReg) (b : XReg)
  /-- R274. Reports whether two GM addresses share a stack, subarray, bitwise region or format range. -/
  | rowq (d : XReg) (a : XReg) (b : XReg)
  /-- R355. Allocates a folio name in a zeroed frame, evicting if needed. -/
  | foalloc (d : XReg) (a : XReg)
  /-- R356. Allocates a new folio name on the storage of an existing one. -/
  | foshare (d : XReg) (a : XReg) (b : XReg)
  /-- R357. Removes a folio name, freeing its storage when the last share goes. -/
  | fofree (d : XReg) (a : XReg)
  /-- R358. Returns a folio name's frame, share count, pin count and state. -/
  | folook (d : XReg) (a : XReg)
  /-- R360. Pins a folio and makes it near, or degraded if the deadline passes first. -/
  | fopin (d : XReg) (a : XReg) (b : XReg) (q : Bool)
  /-- R361. Decrements a folio name's pin count. -/
  | founpin (d : XReg) (a : XReg)
  /-- R359. Returns a selected folio pool count. -/
  | fopool (d : XReg) (a : XReg)
  /-- R306. Queues a message into a ring slot of a core of a peer package. -/
  | fsend (d : XReg) (a : XReg) (b : XReg) (n : Fin 8)
  /-- R306. Queues a write of local sectors to a remote address. -/
  | fwr (d : XReg) (a : XReg) (b : XReg) (n : Fin 8)
  /-- R306. Queues a remote write followed by a signal to a remote barrier. -/
  | fwrs (d : XReg) (a : XReg) (b : XReg) (n : Fin 8)
  /-- R156. Queues a remote write of at most 8 sectors as a pod-scope SC operation in seat order. -/
  | fwrsSc (d : XReg) (a : XReg) (b : XReg) (n : Fin 8)
  /-- R306. Queues a read of remote sectors into a local destination. -/
  | frd (d : XReg) (a : XReg) (b : XReg) (n : Fin 8)
  /-- R306. Queues one signal packet to a remote barrier. -/
  | fsig (d : XReg) (b : XReg) (n : Fin 8)
  /-- R308. Performs a pod-scope SC atomic on GM at a home package and returns the old value. -/
  | famo (d : XReg) (a : XReg) (b : XReg) (w : Bool) (u : AmoOp)
  /-- R306. Queues a write to every selected pod member, optionally followed by signals. -/
  | fmcast (d : XReg) (a : XReg) (b : XReg) (g : Bool) (n : Fin 8)
  /-- R309. Holds later bundles until a port's or all ports' commands complete, then returns the failure count. -/
  | fwait (d : XReg) (l : Bool) (n : Fin 8)
  /-- R310. Samples the wheel's turn, slot, row and clock. -/
  | fslot (d : XReg)
  /-- R310. Holds later bundles until clock 8 of a slot of the given row. -/
  | fslotWait (a : XReg)
  /-- R311. Returns free credits, held entries and packets sent for one plane and peer. -/
  | fcnt (d : XReg) (a : XReg) (m : BitVec 2)
  /-- R311. Returns the core's seat from the seat map. -/
  | fseat (d : XReg)
  /-- R337. Discards a replay unit's state and starts loading a rigging image in the background. -/
  | rgload (a : XReg) (n : Fin 4)
  /-- R338. Queues a play of the loaded rigging with a base table and play word, returning the instance number. -/
  | rgplay (d : XReg) (a : XReg) (b : XReg) (n : Fin 4)
  /-- R339. Holds later bundles until a unit's accepted plays complete and returns the last completion word. -/
  | rgwait (d : XReg) (n : Fin 4)
  /-- R340. Samples a selected status word of a replay unit. -/
  | rgstat (d : XReg) (a : XReg) (n : Fin 4)
  /-- R339. Waits for a unit's plays to complete, then empties the unit. -/
  | rgfree (n : Fin 4)
  /-- R332. Starts a repartition of 64-byte records across the pod members on a replay unit. -/
  | reshelve (a : XReg) (n : Fin 4)
  /-- R385. Arrives at a barrier of the given scope and holds later bundles until its phase releases. -/
  | bar (c : Scope) (b : Fin 16)
  /-- R386. Takes one ticket of the node's phase and ends the tile task in place, or returns all ones. -/
  | tkt (d : XReg) (c : Scope)
  /-- R387. Takes up to n consecutive tickets and ends the tile task in place. -/
  | tktn (d : XReg) (a : XReg) (c : Scope)
  /-- R393. Submits a child launch descriptor and returns its launch word. -/
  | launch (d : XReg) (a : XReg)
  /-- R393. Holds later bundles until a launch completes, is refused or aborts, then returns its report word 0. -/
  | lwait (d : XReg) (a : XReg)
  /-- R391. Sets the task's remaining-time estimate. -/
  | eta (a : XReg)
  /-- R389. Waits for the core's work to finish, then arrives at the phase barrier and ends the tile task. -/
  | endt
  /-- R390. Ends an exchange task with a slot count that sets when the exchange phase ends. -/
  | ssend (a : XReg)
  /-- R392. Sets the priority of a distributor queue the launch may change. -/
  | prio (a : XReg) (q : Fin 16)
  /-- R388. Writes a selected node, launch, core or location number. -/
  | nodeid (d : XReg) (e : BitVec 3)
  /-- R388. Writes a selected tile coordinate, ticket, superstep or phase value. -/
  | tileid (d : XReg) (e : BitVec 3)
  /-- R411. Raises BREAK with detail n and splits the bundle after it. -/
  | trap (n : BitVec 7)
  /-- R412. Returns from a trap, resuming the bundle at TRAPPC whole or from SRF. -/
  | rft
  /-- R412. Returns from a trap by aborting the launch with the trap's cause. -/
  | rftAbort
  /-- R412. Returns from a trap by replaying the node. -/
  | rftReplay
  /-- R413. Reads a control register into xd with exposed latency 2. -/
  | csrr (d : XReg) (i : BitVec 11)
  /-- R413. Writes xa to a control register at commit. -/
  | csrw (a : XReg) (i : BitVec 11)
  /-- R414. Opens an envelope with an expected bundle count and CRC. -/
  | env (e : BitVec 21)
  /-- R415. Closes the envelope and checks its count and CRC. -/
  | envc
  /-- R416. Invalidates translations of a page, a launch or all, waiting for their users to drain. -/
  | xlinv (d : XReg) (a : XReg) (k : BitVec 2)
  /-- R416. Holds later bundles until every earlier XLINV of the core has completed. -/
  | xlwait
  /-- R417. Returns the old binding of a queue port and installs a new one at commit. -/
  | qmap (d : XReg) (a : XReg) (n : Fin 4)
  /-- R418. Halts the core for an attached debugger, or raises BREAK with detail 0xFF. -/
  | halt
  /-- R411. Raises BREAK with detail 0x80 + n, or halts when a debugger asks for it. -/
  | brk (n : BitVec 7)
  /-- R419. Injects a poisoned sector, an envelope flip or a link injector setting for testing. -/
  | tinj (a : XReg) (e : BitVec 2) (k : BitVec 2)
  /-- R420. Holds later bundles and lowers storage power until a queue entry, a request or a timeout. -/
  | sleep (a : XReg) (l : BitVec 2)
  /-- R34. An exposed result becomes readable when the schedule counter reaches its issue clock plus its latency. -/
  | exposedWriteLand
  /-- R35. A scoreboarded result is written and its register stops being pending. -/
  | scoreboardResultWrite
  /-- R19. A core, quad, die or package barrier releases its members a fixed number of clocks after the last arrival. -/
  | barrierRelease (lnum node : Nat) (c : Scope) (b : Fin 16)
  /-- R20. A pod barrier releases every member on clock 8 of the first slot after the last package's arrival. -/
  | podBarrierRelease (lnum node : Nat) (b : Fin 16)
  /-- R281. A new 128-clock slot of the wheel begins with its guard interval and the next row of the slot table. -/
  | slotStart
  /-- R157. A held pod-scope SC operation is sent in the next slot in which its seat falls. -/
  | seatSlotSend
  /-- R157. A home performs a slot's pod-scope SC operations in seat order once it holds all seat reports and clock 8 of slot s + 2 is reached. -/
  | podScPerform
  /-- R158. A seat report missing one turn after its slot ends is treated as reporting none, and later operations of that slot are discarded. -/
  | seatReportTimeout
  /-- R382. A preemption decision takes effect at the task's next bundle boundary with IE set, as drain, kill or checkpoint. -/
  | preemptionTaken
  /-- R383. After its waits, a checkpointed task's context image is spilled to a vault slot in 4,352 clocks. -/
  | checkpointSpill
  /-- R383. A checkpointed task is bound again on a core of its die and restored in 4,352 clocks. -/
  | checkpointRestore
  /-- R401. A debugger halt request halts the core at the next bundle boundary whatever IE holds. -/
  | haltRequestTaken
  /-- R129. A write of more scratchpad ways starts a scan that writes back and invalidates the ways and moves staged lines. -/
  | mscpartGrow (slice : Fin 128) (ways : Fin 13)
  /-- R129. The grow scan ends: the new ways read zero, WBLINES and SPCUR are set and BUSY clears. -/
  | mscpartGrowComplete (slice : Fin 128)
  /-- R129. A write of fewer scratchpad ways returns them to the cache as invalid ways at once, discarding their contents. -/
  | mscpartShrink (slice : Fin 128) (ways : Fin 13)
  /-- R80. A write of EN = 1 to a format range enables it or refuses it and sets ERR. -/
  | formatRangeEnable (h : Fin 12) (n : Fin 16)
  /-- R80. A write of EN = 0 starts writing back and invalidating every MSC sector of the span homed on the stack. -/
  | formatRangeDisable (h : Fin 12) (n : Fin 16)
  /-- R80. The flush of a disabled format range finishes and EN reads 0. -/
  | formatRangeFlushDone (h : Fin 12) (n : Fin 16)
  /-- R148. A write of the lease length is accepted or refused with ERR. -/
  | cohctlWrite (v : Word)
  /-- R149. When a timestamp would pass 2^62 the package holds every core and subtracts a common amount from all timestamps. -/
  | rebase
  /-- R132. When no marked request remains, an HBM controller marks up to 8 of the oldest requests per source and bank as the next batch. -/
  | hbmBatchMark (h : Fin 12)
  /-- R135. A walker waiting on a MOVING leaf re-reads the entry every 256 clocks. -/
  | walkerMovingRetry
  /-- R122. Each clock the QS banks are granted round-robin to requests that need no bank already granted. -/
  | qsBankGrant
  /-- R195. A VX command finishes and writes its scoreboarded results, letting the next VX command start. -/
  | vxCommandComplete
  /-- R224. A queued MX operation starts when its queue's previous operation has finished and panel order permits. -/
  | matrixOpStart (array : Bool)
  /-- R224. An MX operation finishes, its tile or panel becomes readable and its ranges are released. -/
  | matrixOpComplete (array : Bool)
  /-- R241. A channel reads the next command's template, or its armed shadow set, and runs the start checks. -/
  | bteCommandStart (ch : Fin 64)
  /-- R241. A channel reads one 32-byte source sector and writes it, decrementing the barrier if asked. -/
  | bteSectorTransfer (ch : Fin 64)
  /-- R244. An engine pushes a completion word into the core's completion queue, waiting while it is full. -/
  | completionWordPost
  /-- R238. Writing ones to BTEERR clears the matching channel error bits. -/
  | bteerrClear (v : Word)
  /-- R253. A write of EN = 1 to RNGCFG enables a ring and makes its granules engine-owned, or refuses it. -/
  | ringEnable (n : Fin 16) (v : Word)
  /-- R253. A write of EN = 0 waits for sector writes into the ring, returns its granules to the core and clears its counters. -/
  | ringDisable (n : Fin 16) (v : Word)
  /-- R254. A command writing to a ring claims the slot at the claim position once FREE is above zero. -/
  | ringSlotClaim (ch : Fin 64)
  /-- R258. Once started engine accesses are performed, the granules named by OWNC flip to core ownership. -/
  | owncFlip
  /-- R269. A row operation performs its next row-wide step, fast or fallback, once its bank is free. -/
  | rowStep (port : Fin 8)
  /-- R265. A write of EN = 1 to a bitwise region enables it or refuses it and sets ERR. -/
  | bitwiseRegionEnable (h : Fin 12) (n : Fin 8)
  /-- R265. A write of EN = 0 waits until no bitwise step on the region is in progress, then disables it. -/
  | bitwiseRegionDisable (h : Fin 12) (n : Fin 8)
  /-- R276. A bank's refresh falls due and occupies the bank, possibly after postponement behind a row operation. -/
  | bankRefresh (h : Fin 12) (bank : Fin 512)
  /-- R276. A bank refresh ends after 350 clocks and waiting accesses and row steps proceed. -/
  | bankRefreshEnd (h : Fin 12) (bank : Fin 512)
  /-- R306. A Tether port starts its next command, checking its peer and reading its first sectors. -/
  | fabricCommandStart (port : Fin 8)
  /-- R287. The Tether unit places a packet on the least-loaded lane that reaches its next hop and has credit. -/
  | fabricPacketSend
  /-- R284. A packet arrives; its CRC, destination and link sequence are checked and its acknowledgement and credit fields taken. -/
  | packetReceive (dim : Fin 3) (plane peer : Fin 64) (header : Sector) (payload : List Sector)
  /-- R287. The destination performs the next packet of a stream in SSEQ order and returns its entry. -/
  | streamPacketPerform
  /-- R285. A receiver with credits to return and no packet due sends an acknowledgement at clock 64 of a slot reaching the sender. -/
  | acknowledgementSend (dim : Fin 3) (plane peer : Fin 64)
  /-- R288. A sender whose ACKSEQ has not advanced within one table period replays, suspending the lane after 8 replays. -/
  | linkReplayTimeout (dim : Fin 3) (plane peer : Fin 64)
  /-- R289. A relaying unit forwards a held packet into the next dimension's send queue in stream order. -/
  | packetRelay
  /-- R306. A command not completed FTMO turns after acceptance completes with FABRIC_TIMEOUT. -/
  | fabricCommandTimeout (port : Fin 8)
  /-- R292. A comb line's power stays low or it fails to retune, and the unit substitutes a spare or starts a repair. -/
  | lineLost (dim : Fin 3) (comb : Fin 4) (line : Fin 72)
  /-- R294. A line reported off its grid is paused and its lanes go idle while it retunes. -/
  | lineDrift (dim : Fin 3) (comb : Fin 4) (line : Fin 72)
  /-- R294. A drifted line finishes its thermal retune and resumes. -/
  | lineRetuned (dim : Fin 3) (comb : Fin 4) (line : Fin 72)
  /-- R295. All lines of a comb are lost; its 16 lanes stay idle and REPLACE_REQUEST is raised. -/
  | combLost (dim : Fin 3) (comb : Fin 4)
  /-- R296. A proposal whose acknowledgements are missing when turn T - 2 begins lapses and is proposed again 8 turns later. -/
  | tableProposalLapse (dim : Fin 3)
  /-- R296. Every member switches to the new slot table at clock 0 of turn T. -/
  | tableInstalled (dim : Fin 3)
  /-- R298. A store with GO = 1 makes the microcontroller read, check, repair and propose a slot-table image. -/
  | tutblGo (dim : Fin 3) (v : Word)
  /-- R297. A read of TUEVT returns the oldest fabric event and removes it from the queue. -/
  | tuevtRead (dim : Fin 3)
  /-- R299. A write of LINJCTL arms or disarms the link injector and clears FIRED when EN is set. -/
  | linjctlWrite (dim : Fin 3) (v : Word)
  /-- R322. A queued play starts: it binds its bases, loads the counters and checks every chunk. -/
  | instanceStart (unit : Fin 4)
  /-- R323. A ready SEND step reads its chunk and sends it with its bitmap as one contribution to the peer. -/
  | sendStep (unit : Fin 4) (step : Nat)
  /-- R323. A ready RECV step combines an accepted contribution into the local chunk in the base die, in step order. -/
  | recvStep (unit : Fin 4) (step : Nat)
  /-- R323. A ready COPY step replaces the local chunk with an accepted contribution. -/
  | copyStep (unit : Fin 4) (step : Nat)
  /-- R323. A ready FIN step rescales a partial sum by the member count over the contributor count. -/
  | finStep (unit : Fin 4) (step : Nat)
  /-- R323. A ready NOP step completes at once. -/
  | nopStep (unit : Fin 4) (step : Nat)
  /-- R328. A contribution's lead packet is accepted, held or dropped as late, stray or duplicate. -/
  | leadArrival (src : Fin 64) (addr : Word) (lead : Sector)
  /-- R327. A RECV or COPY step whose lead has not arrived by its deadline is released unchanged. -/
  | stepRelease (unit : Fin 4) (step : Nat)
  /-- R327. A step still missing data one turn after its release clock poisons the missing sectors and completes with FABRIC_TIMEOUT. -/
  | recvDataTimeout (unit : Fin 4) (step : Nat)
  /-- R323. A SEND whose packets are not all acknowledged in time aborts its instance with FABRIC_TIMEOUT. -/
  | sendStepTimeout (unit : Fin 4) (step : Nat)
  /-- R330. An instance whose steps have all completed posts its completion word after its writes are performed. -/
  | instanceComplete (unit : Fin 4)
  /-- R337. A background rigging load finishes, or fails and leaves the unit empty with a completion word. -/
  | riggingLoadComplete (unit : Fin 4)
  /-- R334. Once every member's histograms arrive, each member forms the same totals and receiver ranks. -/
  | reshelveHistogramExchange (unit : Fin 4)
  /-- R335. Records are sent to their receiving members and placed, with overflow kept by their senders. -/
  | reshelveMove (unit : Fin 4)
  /-- R335. Missing histograms or unacknowledged records make the reshelve complete with FABRIC_TIMEOUT. -/
  | reshelveTimeout (unit : Fin 4)
  /-- R346. A write of EN = 1 to FMCTL enables the folio store or refuses it with ERR. -/
  | folioStoreEnable
  /-- R346. A write of EN = 0 to FMCTL disables the folio store unless a folio is allocated. -/
  | folioStoreDisable
  /-- R349. The manager writes back the least recently used evictable folio, writes its shadow and far copy, and frees its frame. -/
  | folioEviction
  /-- R351. A recall brings a far folio into a frame and the waiting accesses proceed. -/
  | folioRecallComplete (storage : Nat)
  /-- R348. A write to shared folio storage gives its name a private frame copy before the write proceeds. -/
  | copyOnWriteSplit (name : BitVec 48)
  /-- R360. A pin's deadline passes before its recall, so the recall is abandoned and a degraded frame is built from the shadow. -/
  | fopinDeadline (storage : Nat)
  /-- R365. A store to DDOOR submits a launch descriptor that the distributor reads, checks and reports on. -/
  | ddoorSubmit (v : Word)
  /-- R369. A peer distributor's launch packet makes this member check the launch and write its own report. -/
  | launchPacket (lnum : Nat) (descriptor : List Word)
  /-- R374. At a compute phase's start the package's tickets are divided among dies by their free-core counts. -/
  | computePhaseStart (lnum node : Nat)
  /-- R374. Each die reports its free-core count every 64 clocks. -/
  | freeCoreReport
  /-- R375. An idle core takes a ticket and starts a tile task at the phase's compute entry. -/
  | ticketDispatch
  /-- R376. A compute phase closes when its tickets are exhausted and its cores have ended, starting any exchange task. -/
  | phaseClose (lnum node : Nat)
  /-- R390. The exchange phase ends at clock 8 of the first qualifying slot and the next superstep starts. -/
  | exchangePhaseEnd (lnum node : Nat)
  /-- R372. A node that finished its last phase commits its staged writes and signals its successors. -/
  | nodeRetire (lnum node : Nat)
  /-- R379. The distributor chooses the highest-ranked launch with ready work and binds or preempts for it. -/
  | selection
  /-- R378. A waiting launch with no bound work gains a token each 64,000-clock interval and becomes overdue past 255. -/
  | tokenAging
  /-- R408. A write of HALT requests a halt of the target core, die or package. -/
  | dbgctlHalt (v : Word)
  /-- R408. A write of STEP runs each halted core of the target for one step. -/
  | dbgctlStep (v : Word)
  /-- R408. A write of RUN releases the target as RFT would resume it. -/
  | dbgctlRun (v : Word)
  /-- R409. A store to DBGMADDR starts a debugger read of OC or B store storage. -/
  | dbgmaddrRead (v : Word)
  /-- R409. A debugger read finishes with its data and status after 40 or 2,000 clocks. -/
  | debugReadComplete
  /-- R405. A write of ATCTL enables an access table and may lock it until reset. -/
  | atctlWrite (target : Fin 161) (v : Word)
  /-- R420. A sleeping core wakes on a queue entry, a request or its timeout, committing or re-executing the SLEEP. -/
  | sleepWake
  /-- R423. A host access through BAR0 reaches a hub register as a privileged 64-bit access or gets a completer abort. -/
  | hostBar0Access (off : BitVec 32) (store : Option Word)
  /-- R426. A host CXL.mem request to exposed device memory is performed at the home MSC slice. -/
  | hostMemRequest (off : BitVec 48) (len : Nat) (store : Option (List Byte))
  /-- R425. A write to a host window's registers changes its grant, completing after granted accesses drain or refused with ERR. -/
  | hostWindowWrite (window : Fin 8) (reg : Fin 3) (v : Word)
  /-- R426. A write of EN = 1 to HDMCTL exposes device memory or is refused with ERR. -/
  | hdmEnable (v : Word)
  /-- R426. A write of EN = 0 to HDMCTL completes after accepted host requests are performed. -/
  | hdmDisable (v : Word)
  /-- R424. Writing 1 to BRSTAT.REPREQ clears the replacement request. -/
  | repreqClear (v : Word)
  /-- R431. A store to FWUPD makes the security controller read, verify and stage a firmware image. -/
  | firmwareUpdate (v : Word)
  /-- R431. The firmware update finishes with RESULT set and BUSY cleared. -/
  | firmwareUpdateDone
  /-- R432. A store to ATTREQ makes the security controller read a nonce and write a signed report. -/
  | attestationRequest (v : Word)
  /-- R432. The attestation request finishes or fails and BUSY clears. -/
  | attestationDone
  /-- R428. Reset starts bring-up: firmware and record checks, removal-list application and HBM training. -/
  | reset
  /-- R429. An HBM stack finishes training, and the fourth puts the package in reduced service. -/
  | hbmStackTrained (h : Fin 12)
  /-- R430. With every stack and comb ready the package switches to 1 GHz and joins its pod's wheel. -/
  | fullServiceEntry (turn : Nat)
  /-- R435. A failed unit without a spare is removed, listed and reported, and its work is recovered. -/
  | unitRemoval (kind : Fin 7) (id : BitVec 16)
  /-- R436. Power above the limit or temperatures above their thresholds make the microcontroller limit the matrix arrays. -/
  | thermalLimit (power : BitVec 16) (tdie thbm : Byte)
  /-- R436. A die at 110 °C or a stack at 105 °C halts the package in state 4. -/
  | thermalTrip (tdie thbm : Byte)
  /-- R437. An input below 38 V for more than 1 ms halts the package in state 4. -/
  | inputUndervoltage
  /-- R4. A write to a register without behaviour of its own stores its writable fields and ignores reserved ones. -/
  | registerWrite (addr : BitVec 40) (v : Word)
  /-- R346. The CXL link becomes unavailable, so FMCTL.FARSTOP is set and folio eviction to the far tier stops. -/
  | cxlLinkLoss
  /-- R346. The CXL link becomes available again, so FARSTOP clears and eviction to the far tier may resume. -/
  | cxlLinkReturn
  /-- R436. Power and temperatures fall back within their limits, and the microcontroller stops spacing out the matrix arrays' steps. -/
  | powerLimitingEnd (power : BitVec 16) (tdie thbm : Byte)
  /-- R134. A die walker finishes a page-table walk for a missed translation, fills the core's translation and releases the held core or command. -/
  | translationWalkComplete (va : CodeAddr)
  /-- R93. An instruction-cache line fill from the die's L2 completes and the stalled fetch proceeds. -/
  | instructionCacheFill (line : CodeAddr)
  /-- R140. Every write-back of a CWB or CINV reaches its home or HBM, and the core's later memory bundles may issue. -/
  | cacheRangeComplete
  /-- R159. The host completes an earlier HM store of a core, making it visible to host agents and letting a waiting HFENCE proceed. -/
  | hostAccessComplete
  /-- R139. The host sends a CXL.cache snoop or invalidation that the controller applies to its 4 MiB cache of host lines. -/
  | cxlCacheSnoop (line : BitVec 52) (data : List Byte)
  deriving DecidableEq, Repr

end Sys2Proof
end

