-- ==== Sys2Proof/WellFormed.lean ====
section
/-!
DEFINITION. What R62 asks of a syllable beyond the places of its fields: codes of the small tables,
element types an instruction accepts, register numbers in range and aligned, assigned control
registers.
-/
namespace Sys2Proof

/-! ### Codes of the small tables -/

def Size.code : Size → Nat
  | .b1 => 0 | .b2 => 1 | .b4 => 2 | .b8 => 3
def Size.ofCode (c : Nat) : Size :=
  match c % 4 with
  | 0 => .b1 | 1 => .b2 | 2 => .b4 | _ => .b8
/-- The access size in bytes (R51). -/
def Size.bytes : Size → Nat
  | .b1 => 1 | .b2 => 2 | .b4 => 4 | .b8 => 8

def AmoOp.code : AmoOp → Nat
  | .add => 0 | .and => 1 | .or => 2 | .xor => 3 | .min => 4 | .max => 5 | .swap => 6 | .cas => 7
def AmoOp.ofCode (c : Nat) : AmoOp :=
  match c % 8 with
  | 0 => .add | 1 => .and | 2 => .or | 3 => .xor | 4 => .min | 5 => .max | 6 => .swap | _ => .cas

def ElemTy.code : ElemTy → Nat
  | .f32 => 0 | .bf16 => 1 | .e4m3 => 2 | .e5m2 => 3 | .i32 => 4 | .i16 => 5 | .i8 => 6 | .i4 => 7
  | .w32 => 8 | .w16 => 9 | .w8 => 10 | .s4o => 12
/-- The type of a code of R47; codes 0xB and 0xD to 0xF are reserved. -/
def ElemTy.ofCode (c : Nat) : Option ElemTy :=
  match c with
  | 0 => some .f32 | 1 => some .bf16 | 2 => some .e4m3 | 3 => some .e5m2
  | 4 => some .i32 | 5 => some .i16 | 6 => some .i8 | 7 => some .i4
  | 8 => some .w32 | 9 => some .w16 | 10 => some .w8 | 12 => some .s4o
  | _ => none
/-- The width of an element in bits (R169). -/
def ElemTy.width : ElemTy → Nat
  | .f32 | .i32 | .w32 => 32
  | .bf16 | .i16 | .w16 => 16
  | .e4m3 | .e5m2 | .i8 | .w8 => 8
  | .i4 | .s4o => 4
/-- The elements of a vector register (R169). -/
def ElemTy.count (t : ElemTy) : Nat := 4096 / t.width
/-- The signed integer types. -/
def ElemTy.isSigned : ElemTy → Bool
  | .i32 | .i16 | .i8 | .i4 => true
  | _ => false

def Half.code : Half → Nat
  | .f32 => 0 | .bf16lo => 1 | .bf16hi => 3
def Half.ofCode (c : Nat) : Option Half :=
  match c with
  | 0 => some .f32 | 1 => some .bf16lo | 3 => some .bf16hi | _ => none

def DrainMode.code : DrainMode → Nat
  | .raw => 0 | .mean => 1 | .var => 2 | .svar => 3 | .rstd => 4 | .norm => 5
def DrainMode.ofCode (c : Nat) : Option DrainMode :=
  match c with
  | 0 => some .raw | 1 => some .mean | 2 => some .var | 3 => some .svar | 4 => some .rstd
  | 5 => some .norm | _ => none

def Scope.code : Scope → Nat
  | .co => 1 | .qd => 2 | .di => 3 | .pk => 4 | .pd => 5
/-- The scope of a code of R18; codes 0, 6 and 7 are illegal. -/
def Scope.ofCode (c : Nat) : Option Scope :=
  match c with
  | 1 => some .co | 2 => some .qd | 3 => some .di | 4 => some .pk | 5 => some .pd | _ => none

/-! ### Types accepted -/

/-- F of R176. -/
def ElemTy.isF : ElemTy → Bool
  | .f32 | .bf16 => true
  | _ => false
/-- I of R176. -/
def ElemTy.isI : ElemTy → Bool
  | .i32 | .i16 | .i8 | .w32 | .w16 | .w8 => true
  | _ => false
def ElemTy.isFI (t : ElemTy) : Bool := t.isF || t.isI
/-- The sources of the widening syllables (R176, R181). -/
def ElemTy.isWide : ElemTy → Bool
  | .bf16 | .i16 | .i8 | .w16 | .w8 => true
  | _ => false
/-- The width ratio of a widening syllable (R181). -/
def ElemTy.wideRatio (t : ElemTy) : Nat := 32 / t.width
/-- The types of `VPERM` (R176). -/
def ElemTy.isPerm : ElemTy → Bool
  | .f32 | .bf16 | .i32 | .i16 | .w32 | .w16 => true
  | _ => false
/-- The five block formats of R77. -/
def ElemTy.isBlock : ElemTy → Bool
  | .e4m3 | .e5m2 | .i8 | .i4 | .s4o => true
  | _ => false
/-- The formats of the `MMA` family and `MBWR` (R225). -/
def ElemTy.isMma : ElemTy → Bool
  | .bf16 | .e4m3 | .e5m2 | .i8 | .i4 | .s4o => true
  | _ => false
def ElemTy.isFloat8 : ElemTy → Bool
  | .e4m3 | .e5m2 => true
  | _ => false
/-- The output formats of `MDRAIN` (R225). -/
def ElemTy.isDrain : ElemTy → Bool
  | .f32 | .bf16 | .e4m3 | .e5m2 | .i32 | .i8 => true
  | _ => false
/-- The formats of `MLDC` (R225). -/
def ElemTy.isLdc : ElemTy → Bool
  | .f32 | .bf16 | .i32 => true
  | _ => false

/-- The types, the ratio and the register alignment of `VCVT` (R171, R180). -/
def cvtOk (t s : ElemTy) (d a : VReg) : Bool :=
  t != .s4o && s != .s4o &&
  (if t.width ≤ s.width then s.width / t.width ≤ 4 && a.val % (s.width / t.width) == 0
   else t.width / s.width ≤ 4 && d.val % (t.width / s.width) == 0)

/-- The control register numbers that the chapters assign (R42). -/
def csrAssigned (n : Nat) : Bool :=
  n ≤ 2 || (0x010 ≤ n && n ≤ 0x013) || (0x020 ≤ n && n ≤ 0x026) || (0x100 ≤ n && n ≤ 0x102) ||
  n == 0x200 || (0x300 ≤ n && n ≤ 0x302) || (0x310 ≤ n && n ≤ 0x32F) || n == 0x400 || n == 0x401 ||
  (0x500 ≤ n && n ≤ 0x502)

/-- The conditions of R62 on a syllable whose fields are in place. -/
def wellFormed (i : Instr) : Bool :=
  match i with
  | .bfi _ d _ _ => d.val < 28
  | .loop _ c _ => 1 ≤ c.val && c.val ≤ 27
  | .amol _ d _ op _ | .amoq _ d _ op _ | .amoo _ d _ op _ | .amog _ d _ op _ => op != .cas || d.val ≤ 26
  | .vadd t _ _ _ _ | .vsub t _ _ _ _ | .vmul t _ _ _ _ | .vfma t _ _ _ _ | .vfms t _ _ _ _
  | .vmin t _ _ _ _ | .vmax t _ _ _ _ => t.isFI
  | .vabs t _ _ _ | .vneg t _ _ _ => t.isFI
  | .vshl t _ _ _ _ | .vshr t _ _ _ _ => t.isI
  | .vcvt t d a s _ => cvtOk t s d a
  | .vcmpEq t _ _ _ _ | .vcmpNe t _ _ _ _ | .vcmpLt t _ _ _ _ | .vcmpLe t _ _ _ _
  | .vcmpGt t _ _ _ _ | .vcmpGe t _ _ _ _ => t.isFI
  | .vwadd t d _ _ _ | .vwmul t d _ _ _ | .vwfma t d _ _ _ => t.isWide && d.val % t.wideRatio == 0
  | .vrcp t _ _ _ | .vrsqrt t _ _ _ | .vexp2 t _ _ _ | .vlog2 t _ _ _ => t.isF
  | .vredsum t _ _ _ | .vredmax t _ _ _ | .vscan t _ _ _ => t.isFI
  | .vperm t _ _ _ _ => t.isPerm
  | .vldlChk _ _ f _ | .vldqChk _ _ f _ | .vldoChk _ _ f _ | .vldgChk _ _ f _ | .vldfChk _ _ f _
  | .vldhChk _ _ f _ => f.isBlock
  | .gfold _ _ l => l.toNat != 0
  | .gdrain _ v w _ m =>
    (m != .raw || v.val ≤ 29) && (m == .rstd || m == .norm || w.val == 0)
  | .gset _ v _ => v.val ≤ 29
  | .mma _ _ _ f w _ | .mmat _ _ _ f w _ | .mmag _ _ _ f w _ => f.isMma && (!w || f.isFloat8)
  | .mdrain _ _ _ f _ _ _ => f.isDrain
  | .mldc _ _ f => f.isLdc
  | .mbwr _ _ f c => f.isMma && (!c || f != .bf16)
  | .mwait t _ l => !l || t.val == 0
  | .mpert t a b q => !q || (t.val == 0 && a.val == 0 && b.val == 0)
  | .binit _ b f _ => !f || b.val == 0
  | .owne a b v _ | .ownc a b v _ => !v || (a.val == 0 && b.val == 0)
  | .fwrs _ _ b _ | .fwrsSc _ _ b _ => b.val ≤ 26
  | .famo _ _ b _ u => u != .cas || b.val ≤ 26
  | .fmcast _ _ b g _ => if g then b.val ≤ 25 else b.val ≤ 26
  | .fwait _ l n => !l || n.val == 0
  | .fcnt _ _ m => m.toNat ≤ 2
  | .tkt _ c | .tktn _ _ c => c == .di || c == .pk
  | .nodeid _ e => e.toNat ≤ 5
  | .tileid _ e => e.toNat ≤ 6
  | .csrr _ n | .csrw _ n => csrAssigned n.toNat
  | .xlinv _ _ k => k.toNat ≤ 2
  | .tinj _ d k => k.toNat ≤ 2 && (k.toNat != 2 || d.toNat ≤ 2)
  | .sleep _ l => l.toNat ≤ 2
  | _ => true

end Sys2Proof
end

