-- ==== Sys2Proof/Decode.lean ====
section
/-!
DEFINITION. Decoding a syllable (R27, R45 to R62) and, after it, the encoder. A word is read as a
natural number below 2^32 with bit 0 its least significant bit. What R62 calls no legal syllable
decodes to none.
-/
namespace Sys2Proof
open Sys2Proof.Machine (bits bit b2n leBytes leNat)

theorem mod_lt_pos (n : Nat) {k : Nat} (h : 0 < k) : n % k < k := Nat.mod_lt n h

/-- The five-bit register field whose low bit is `lo`. -/
def xreg (w lo : Nat) : Fin 32 := ⟨(w >>> lo) % 32, mod_lt_pos _ (by decide)⟩
def fin16 (w lo : Nat) : Fin 16 := ⟨(w >>> lo) % 16, mod_lt_pos _ (by decide)⟩
def fin8 (w lo : Nat) : Fin 8 := ⟨(w >>> lo) % 8, mod_lt_pos _ (by decide)⟩
def fin4 (w lo : Nat) : Fin 4 := ⟨(w >>> lo) % 4, mod_lt_pos _ (by decide)⟩
/-- An immediate field of `n` bits whose low bit is `lo`. -/
def imm (w n lo : Nat) : BitVec n := BitVec.ofNat n (w >>> lo)
/-- A guard whose predicate field and negate bit stand at the places given (R45). -/
def guardAt (w p n : Nat) : Guard := ⟨fin8 w p, bit w n⟩

/-- SA, the scalar register form (R45, R48, R97). -/
def decodeSA (w : Nat) : Option Instr :=
  match bits w 26 21 with
  | 0 => if bits w 20 0 == 0 then some .nop else none
  | 1 => if bits w 1 0 == 0 then some (.add (guardAt w 3 2) (xreg w 16) (xreg w 11) (xreg w 6)) else none
  | 2 => if bits w 1 0 == 0 then some (.sub (guardAt w 3 2) (xreg w 16) (xreg w 11) (xreg w 6)) else none
  | 3 => if bits w 1 0 == 0 then some (.and (guardAt w 3 2) (xreg w 16) (xreg w 11) (xreg w 6)) else none
  | 4 => if bits w 1 0 == 0 then some (.or (guardAt w 3 2) (xreg w 16) (xreg w 11) (xreg w 6)) else none
  | 5 => if bits w 1 0 == 0 then some (.xor (guardAt w 3 2) (xreg w 16) (xreg w 11) (xreg w 6)) else none
  | 6 => if bits w 1 0 == 0 then some (.andn (guardAt w 3 2) (xreg w 16) (xreg w 11) (xreg w 6)) else none
  | 7 => if bits w 1 0 == 0 then some (.sll (guardAt w 3 2) (xreg w 16) (xreg w 11) (xreg w 6)) else none
  | 8 => if bits w 1 0 == 0 then some (.srl (guardAt w 3 2) (xreg w 16) (xreg w 11) (xreg w 6)) else none
  | 9 => if bits w 1 0 == 0 then some (.sra (guardAt w 3 2) (xreg w 16) (xreg w 11) (xreg w 6)) else none
  | 10 => if bits w 1 0 == 0 then some (.rol (guardAt w 3 2) (xreg w 16) (xreg w 11) (xreg w 6)) else none
  | 11 => if bits w 1 0 == 0 then some (.mul (guardAt w 3 2) (xreg w 16) (xreg w 11) (xreg w 6)) else none
  | 12 => if bits w 1 0 == 0 then some (.mulh (guardAt w 3 2) (xreg w 16) (xreg w 11) (xreg w 6)) else none
  | 13 => if bits w 1 0 == 0 then some (.mulhw (guardAt w 3 2) (xreg w 16) (xreg w 11) (xreg w 6)) else none
  | 14 => if bits w 1 0 == 0 then some (.div (guardAt w 3 2) (xreg w 16) (xreg w 11) (xreg w 6)) else none
  | 15 => if bits w 1 0 == 0 then some (.divw (guardAt w 3 2) (xreg w 16) (xreg w 11) (xreg w 6)) else none
  | 16 => if bits w 1 0 == 0 then some (.rem (guardAt w 3 2) (xreg w 16) (xreg w 11) (xreg w 6)) else none
  | 17 => if bits w 1 0 == 0 then some (.remw (guardAt w 3 2) (xreg w 16) (xreg w 11) (xreg w 6)) else none
  | 18 => if bits w 1 0 == 0 then some (.min (guardAt w 3 2) (xreg w 16) (xreg w 11) (xreg w 6)) else none
  | 19 => if bits w 1 0 == 0 then some (.max (guardAt w 3 2) (xreg w 16) (xreg w 11) (xreg w 6)) else none
  | 20 => if bits w 1 0 == 0 then some (.minw (guardAt w 3 2) (xreg w 16) (xreg w 11) (xreg w 6)) else none
  | 21 => if bits w 1 0 == 0 then some (.maxw (guardAt w 3 2) (xreg w 16) (xreg w 11) (xreg w 6)) else none
  | 22 => if bits w 1 0 == 0 && bits w 10 6 == 0 then some (.clz (guardAt w 3 2) (xreg w 16) (xreg w 11)) else none
  | 23 => if bits w 1 0 == 0 && bits w 10 6 == 0 then some (.ctz (guardAt w 3 2) (xreg w 16) (xreg w 11)) else none
  | 24 => if bits w 1 0 == 0 && bits w 10 6 == 0 then some (.popc (guardAt w 3 2) (xreg w 16) (xreg w 11)) else none
  | 25 => if bits w 1 0 == 0 then some (.bfx (guardAt w 3 2) (xreg w 16) (xreg w 11) (xreg w 6)) else none
  | 26 => if bits w 1 0 == 0 then some (.bfi (guardAt w 3 2) (xreg w 16) (xreg w 11) (xreg w 6)) else none
  | 27 => if bits w 1 0 == 0 then some (.sel (guardAt w 3 2) (xreg w 16) (xreg w 11) (xreg w 6)) else none
  | 28 => if bits w 1 0 == 0 && bits w 20 19 == 0 then some (.pcmpEq (guardAt w 3 2) (fin8 w 16) (xreg w 11) (xreg w 6)) else none
  | 29 => if bits w 1 0 == 0 && bits w 20 19 == 0 then some (.pcmpNe (guardAt w 3 2) (fin8 w 16) (xreg w 11) (xreg w 6)) else none
  | 30 => if bits w 1 0 == 0 && bits w 20 19 == 0 then some (.pcmpLt (guardAt w 3 2) (fin8 w 16) (xreg w 11) (xreg w 6)) else none
  | 31 => if bits w 1 0 == 0 && bits w 20 19 == 0 then some (.pcmpGe (guardAt w 3 2) (fin8 w 16) (xreg w 11) (xreg w 6)) else none
  | 32 => if bits w 1 0 == 0 && bits w 20 19 == 0 then some (.pcmpLtw (guardAt w 3 2) (fin8 w 16) (xreg w 11) (xreg w 6)) else none
  | 33 => if bits w 1 0 == 0 && bits w 20 19 == 0 then some (.pcmpGew (guardAt w 3 2) (fin8 w 16) (xreg w 11) (xreg w 6)) else none
  | 34 => if bits w 1 0 == 0 && bits w 10 9 == 0 && bits w 15 14 == 0 && bits w 20 19 == 0 then some (.pand (guardAt w 3 2) (fin8 w 16) (fin8 w 11) (fin8 w 6)) else none
  | 35 => if bits w 1 0 == 0 && bits w 10 9 == 0 && bits w 15 14 == 0 && bits w 20 19 == 0 then some (.por (guardAt w 3 2) (fin8 w 16) (fin8 w 11) (fin8 w 6)) else none
  | 36 => if bits w 1 0 == 0 && bits w 10 9 == 0 && bits w 15 14 == 0 && bits w 20 19 == 0 then some (.pxor (guardAt w 3 2) (fin8 w 16) (fin8 w 11) (fin8 w 6)) else none
  | 37 => if bits w 1 0 == 0 && bits w 10 6 == 0 && bits w 15 14 == 0 && bits w 20 19 == 0 then some (.pnot (guardAt w 3 2) (fin8 w 16) (fin8 w 11)) else none
  | 38 => if bits w 1 0 == 0 && bits w 10 6 == 0 && bits w 15 13 == 7 then some (.qcount (guardAt w 3 2) (xreg w 16) (fin4 w 11)) else none
  | _ => none

/-- SI, the scalar immediate form (R45, R49, R107). -/
def decodeSI (w : Nat) : Option Instr :=
  match bits w 26 22 with
  | 0 => some (.addi (xreg w 17) (xreg w 12) (imm w 12 0))
  | 1 => some (.andi (xreg w 17) (xreg w 12) (imm w 12 0))
  | 2 => some (.ori (xreg w 17) (xreg w 12) (imm w 12 0))
  | 3 => some (.xori (xreg w 17) (xreg w 12) (imm w 12 0))
  | 4 => if bits w 11 6 == 0 then some (.slli (xreg w 17) (xreg w 12) (imm w 6 0)) else none
  | 5 => if bits w 11 6 == 0 then some (.srli (xreg w 17) (xreg w 12) (imm w 6 0)) else none
  | 6 => if bits w 11 6 == 0 then some (.srai (xreg w 17) (xreg w 12) (imm w 6 0)) else none
  | 7 => if bits w 16 12 == 0 then some (.movi (xreg w 17) (imm w 12 0)) else none
  | 8 => if bits w 21 20 == 0 then some (.pcmpiEq (fin8 w 17) (xreg w 12) (imm w 12 0)) else none
  | 9 => if bits w 21 20 == 0 then some (.pcmpiNe (fin8 w 17) (xreg w 12) (imm w 12 0)) else none
  | 10 => if bits w 21 20 == 0 then some (.pcmpiLt (fin8 w 17) (xreg w 12) (imm w 12 0)) else none
  | 11 => if bits w 21 20 == 0 then some (.pcmpiGe (fin8 w 17) (xreg w 12) (imm w 12 0)) else none
  | 12 => if bits w 21 20 == 0 then some (.pcmpiLtw (fin8 w 17) (xreg w 12) (imm w 12 0)) else none
  | 13 => if bits w 21 20 == 0 then some (.pcmpiGew (fin8 w 17) (xreg w 12) (imm w 12 0)) else none
  | _ => none

/-- BR, branches (R45, R50, R109). -/
def decodeBR (w : Nat) : Option Instr :=
  match bits w 26 23 with
  | 0 => some (.j (guardAt w 20 19) (imm w 19 0))
  | 1 => some (.call (guardAt w 20 19) (imm w 19 0))
  | 2 => if bits w 18 5 == 0 then some (.jr (guardAt w 20 19) (xreg w 0)) else none
  | 3 => if bits w 18 0 == 0 then some (.ret (guardAt w 20 19)) else none
  | 4 => some (.loop (guardAt w 20 19) (xreg w 14) (imm w 14 0))
  | _ => none

/-- ME: op and space select the instruction (R46, R51). -/
def decodeME (w : Nat) : Option Instr :=
  match bits w 26 21 with
  | 0 => some (.ldl (Size.ofCode (bits w 20 19)) (xreg w 14) (xreg w 9) (imm w 9 0))
  | 1 => some (.stl (Size.ofCode (bits w 20 19)) (xreg w 14) (xreg w 9) (imm w 9 0))
  | 2 => if bits w 20 20 == 1 then some (.amol (bit w 19) (xreg w 14) (xreg w 9) (AmoOp.ofCode (bits w 8 6)) (imm w 6 0)) else none
  | 7 => if bits w 20 0 == 0 then some .efence else none
  | 8 => some (.ldq (Size.ofCode (bits w 20 19)) (xreg w 14) (xreg w 9) (imm w 9 0))
  | 9 => some (.stq (Size.ofCode (bits w 20 19)) (xreg w 14) (xreg w 9) (imm w 9 0))
  | 10 => if bits w 20 20 == 1 then some (.amoq (bit w 19) (xreg w 14) (xreg w 9) (AmoOp.ofCode (bits w 8 6)) (imm w 6 0)) else none
  | 16 => some (.ldo (Size.ofCode (bits w 20 19)) (xreg w 14) (xreg w 9) (imm w 9 0))
  | 17 => some (.sto (Size.ofCode (bits w 20 19)) (xreg w 14) (xreg w 9) (imm w 9 0))
  | 18 => if bits w 20 20 == 1 then some (.amoo (bit w 19) (xreg w 14) (xreg w 9) (AmoOp.ofCode (bits w 8 6)) (imm w 6 0)) else none
  | 24 => some (.ldg (Size.ofCode (bits w 20 19)) (xreg w 14) (xreg w 9) (imm w 9 0))
  | 25 => some (.stg (Size.ofCode (bits w 20 19)) (xreg w 14) (xreg w 9) (imm w 9 0))
  | 26 => if bits w 20 20 == 1 then some (.amog (bit w 19) (xreg w 14) (xreg w 9) (AmoOp.ofCode (bits w 8 6)) (imm w 6 0)) else none
  | 27 => if bits w 20 19 == 0 then some (.pfg (xreg w 14) (xreg w 9) (imm w 9 0)) else none
  | 28 => if bits w 20 19 == 0 then some (.cwb (xreg w 14) (xreg w 9) (imm w 9 0)) else none
  | 29 => if bits w 20 19 == 0 then some (.cinv (xreg w 14) (xreg w 9) (imm w 9 0)) else none
  | 32 => some (.ldf (Size.ofCode (bits w 20 19)) (xreg w 14) (xreg w 9) (imm w 9 0))
  | 33 => some (.stf (Size.ofCode (bits w 20 19)) (xreg w 14) (xreg w 9) (imm w 9 0))
  | 40 => some (.ldh (Size.ofCode (bits w 20 19)) (xreg w 14) (xreg w 9) (imm w 9 0))
  | 41 => some (.sth (Size.ofCode (bits w 20 19)) (xreg w 14) (xreg w 9) (imm w 9 0))
  | 46 => if bits w 20 0 == 0 then some .hfence else none
  | _ => none

/-- VR (R45, R52, R176). -/
def decodeVR (w : Nat) : Option Instr :=
  match bits w 26 20 with
  | 0 => (ElemTy.ofCode (bits w 19 16)).bind (fun t => some (.vadd t (xreg w 11) (xreg w 6) (xreg w 1) (bit w 0)))
  | 1 => (ElemTy.ofCode (bits w 19 16)).bind (fun t => some (.vsub t (xreg w 11) (xreg w 6) (xreg w 1) (bit w 0)))
  | 2 => (ElemTy.ofCode (bits w 19 16)).bind (fun t => some (.vmul t (xreg w 11) (xreg w 6) (xreg w 1) (bit w 0)))
  | 3 => (ElemTy.ofCode (bits w 19 16)).bind (fun t => some (.vfma t (xreg w 11) (xreg w 6) (xreg w 1) (bit w 0)))
  | 4 => (ElemTy.ofCode (bits w 19 16)).bind (fun t => some (.vfms t (xreg w 11) (xreg w 6) (xreg w 1) (bit w 0)))
  | 5 => (ElemTy.ofCode (bits w 19 16)).bind (fun t => some (.vmin t (xreg w 11) (xreg w 6) (xreg w 1) (bit w 0)))
  | 6 => (ElemTy.ofCode (bits w 19 16)).bind (fun t => some (.vmax t (xreg w 11) (xreg w 6) (xreg w 1) (bit w 0)))
  | 7 => if bits w 5 1 == 0 then (ElemTy.ofCode (bits w 19 16)).bind (fun t => some (.vabs t (xreg w 11) (xreg w 6) (bit w 0))) else none
  | 8 => if bits w 5 1 == 0 then (ElemTy.ofCode (bits w 19 16)).bind (fun t => some (.vneg t (xreg w 11) (xreg w 6) (bit w 0))) else none
  | 9 => (ElemTy.ofCode (bits w 19 16)).bind (fun t => some (.vand t (xreg w 11) (xreg w 6) (xreg w 1) (bit w 0)))
  | 10 => (ElemTy.ofCode (bits w 19 16)).bind (fun t => some (.vor t (xreg w 11) (xreg w 6) (xreg w 1) (bit w 0)))
  | 11 => (ElemTy.ofCode (bits w 19 16)).bind (fun t => some (.vxor t (xreg w 11) (xreg w 6) (xreg w 1) (bit w 0)))
  | 12 => (ElemTy.ofCode (bits w 19 16)).bind (fun t => some (.vshl t (xreg w 11) (xreg w 6) (xreg w 1) (bit w 0)))
  | 13 => (ElemTy.ofCode (bits w 19 16)).bind (fun t => some (.vshr t (xreg w 11) (xreg w 6) (xreg w 1) (bit w 0)))
  | 14 => if bits w 0 0 == 0 then (ElemTy.ofCode (bits w 19 16)).bind (fun t => some (.vsel t (xreg w 11) (xreg w 6) (xreg w 1))) else none
  | 15 => if bits w 5 5 == 0 then (ElemTy.ofCode (bits w 19 16)).bind (fun t => (ElemTy.ofCode (bits w 4 1)).bind (fun e => some (.vcvt t (xreg w 11) (xreg w 6) e (bit w 0)))) else none
  | 16 => if bits w 15 14 == 0 then (ElemTy.ofCode (bits w 19 16)).bind (fun t => some (.vcmpEq t (fin8 w 11) (xreg w 6) (xreg w 1) (bit w 0))) else none
  | 17 => if bits w 15 14 == 0 then (ElemTy.ofCode (bits w 19 16)).bind (fun t => some (.vcmpNe t (fin8 w 11) (xreg w 6) (xreg w 1) (bit w 0))) else none
  | 18 => if bits w 15 14 == 0 then (ElemTy.ofCode (bits w 19 16)).bind (fun t => some (.vcmpLt t (fin8 w 11) (xreg w 6) (xreg w 1) (bit w 0))) else none
  | 19 => if bits w 15 14 == 0 then (ElemTy.ofCode (bits w 19 16)).bind (fun t => some (.vcmpLe t (fin8 w 11) (xreg w 6) (xreg w 1) (bit w 0))) else none
  | 20 => if bits w 15 14 == 0 then (ElemTy.ofCode (bits w 19 16)).bind (fun t => some (.vcmpGt t (fin8 w 11) (xreg w 6) (xreg w 1) (bit w 0))) else none
  | 21 => if bits w 15 14 == 0 then (ElemTy.ofCode (bits w 19 16)).bind (fun t => some (.vcmpGe t (fin8 w 11) (xreg w 6) (xreg w 1) (bit w 0))) else none
  | 22 => (ElemTy.ofCode (bits w 19 16)).bind (fun t => some (.vwadd t (xreg w 11) (xreg w 6) (xreg w 1) (bit w 0)))
  | 23 => (ElemTy.ofCode (bits w 19 16)).bind (fun t => some (.vwmul t (xreg w 11) (xreg w 6) (xreg w 1) (bit w 0)))
  | 24 => (ElemTy.ofCode (bits w 19 16)).bind (fun t => some (.vwfma t (xreg w 11) (xreg w 6) (xreg w 1) (bit w 0)))
  | 25 => if bits w 5 1 == 0 then (ElemTy.ofCode (bits w 19 16)).bind (fun t => some (.vrcp t (xreg w 11) (xreg w 6) (bit w 0))) else none
  | 26 => if bits w 5 1 == 0 then (ElemTy.ofCode (bits w 19 16)).bind (fun t => some (.vrsqrt t (xreg w 11) (xreg w 6) (bit w 0))) else none
  | 27 => if bits w 5 1 == 0 then (ElemTy.ofCode (bits w 19 16)).bind (fun t => some (.vexp2 t (xreg w 11) (xreg w 6) (bit w 0))) else none
  | 28 => if bits w 5 1 == 0 then (ElemTy.ofCode (bits w 19 16)).bind (fun t => some (.vlog2 t (xreg w 11) (xreg w 6) (bit w 0))) else none
  | 29 => if bits w 5 1 == 0 then (ElemTy.ofCode (bits w 19 16)).bind (fun t => some (.vredsum t (xreg w 11) (xreg w 6) (bit w 0))) else none
  | 30 => if bits w 5 1 == 0 then (ElemTy.ofCode (bits w 19 16)).bind (fun t => some (.vredmax t (xreg w 11) (xreg w 6) (bit w 0))) else none
  | 31 => if bits w 5 1 == 0 then (ElemTy.ofCode (bits w 19 16)).bind (fun t => some (.vscan t (xreg w 11) (xreg w 6) (bit w 0))) else none
  | 32 => if bits w 5 1 == 0 then (ElemTy.ofCode (bits w 19 16)).bind (fun t => some (.vbcast t (xreg w 11) (xreg w 6) (bit w 0))) else none
  | 33 => if bits w 0 0 == 0 then (ElemTy.ofCode (bits w 19 16)).bind (fun t => some (.vmovx t (xreg w 11) (xreg w 6) (xreg w 1))) else none
  | 34 => if bits w 0 0 == 0 then (ElemTy.ofCode (bits w 19 16)).bind (fun t => some (.vins t (xreg w 11) (xreg w 6) (xreg w 1))) else none
  | 35 => (ElemTy.ofCode (bits w 19 16)).bind (fun t => some (.vperm t (xreg w 11) (xreg w 6) (xreg w 1) (bit w 0)))
  | 36 => (ElemTy.ofCode (bits w 19 16)).bind (fun t => some (.vrot t (xreg w 11) (xreg w 6) (xreg w 1) (bit w 0)))
  | 37 => if bits w 0 0 == 0 && bits w 5 4 == 0 && bits w 10 9 == 0 && bits w 19 14 == 0 then some (.mand (fin8 w 11) (fin8 w 6) (fin8 w 1)) else none
  | 38 => if bits w 0 0 == 0 && bits w 5 4 == 0 && bits w 10 9 == 0 && bits w 19 14 == 0 then some (.mor (fin8 w 11) (fin8 w 6) (fin8 w 1)) else none
  | 39 => if bits w 5 0 == 0 && bits w 10 9 == 0 && bits w 19 14 == 0 then some (.mnot (fin8 w 11) (fin8 w 6)) else none
  | 40 => if bits w 5 0 == 0 && bits w 10 9 == 0 then (ElemTy.ofCode (bits w 19 16)).bind (fun t => some (.mpop t (xreg w 11) (fin8 w 6))) else none
  | _ => none

/-- VX (R45, R53, R187). -/
def decodeVX (w : Nat) : Option Instr :=
  match bits w 26 19 with
  | 0 => if bits w 3 0 == 0 && bits w 13 9 == 0 then some (.vshuf (xreg w 14) (xreg w 4)) else none
  | 1 => if bits w 4 0 == 0 then some (.vqcvt (xreg w 14) (xreg w 9) (fin16 w 5)) else none
  | 2 => if bits w 3 0 == 0 && bits w 13 9 == 0 then some (.vdqcvt (xreg w 14) (xreg w 4)) else none
  | 3 => if bits w 8 0 == 0 then some (.vsetcfg (xreg w 14) (xreg w 9)) else none
  | 4 => if bits w 3 0 == 0 then some (.vgatherq (xreg w 14) (xreg w 9) (xreg w 4)) else none
  | 5 => if bits w 3 0 == 0 then some (.vscatq (xreg w 14) (xreg w 9) (xreg w 4)) else none
  | 6 => if bits w 18 0 == 0 then some .vfence else none
  | 7 => if bits w 3 0 == 0 && bits w 8 7 == 0 then some (.vmskld (xreg w 14) (xreg w 9) (fin8 w 4)) else none
  | _ => none

/-- VM: op and space select the instruction (R46, R54). -/
def decodeVM (w : Nat) : Option Instr :=
  match bits w 26 21 with
  | 0 => some (.vldl (xreg w 16) (xreg w 11) (imm w 11 0))
  | 1 => some (.vstl (xreg w 16) (xreg w 11) (imm w 11 0))
  | 6 => if bits w 16 16 == 0 then (ElemTy.ofCode (bits w 10 7)).bind (fun f => some (.vldlChk (fin16 w 17) (xreg w 11) f (imm w 7 0))) else none
  | 8 => some (.vldq (xreg w 16) (xreg w 11) (imm w 11 0))
  | 9 => some (.vstq (xreg w 16) (xreg w 11) (imm w 11 0))
  | 10 => some (.vldqRow (xreg w 16) (xreg w 11) (imm w 11 0))
  | 11 => some (.vstqRow (xreg w 16) (xreg w 11) (imm w 11 0))
  | 12 => some (.vldqCol (xreg w 16) (xreg w 11) (imm w 11 0))
  | 13 => some (.vstqCol (xreg w 16) (xreg w 11) (imm w 11 0))
  | 14 => if bits w 16 16 == 0 then (ElemTy.ofCode (bits w 10 7)).bind (fun f => some (.vldqChk (fin16 w 17) (xreg w 11) f (imm w 7 0))) else none
  | 16 => some (.vldo (xreg w 16) (xreg w 11) (imm w 11 0))
  | 17 => some (.vsto (xreg w 16) (xreg w 11) (imm w 11 0))
  | 22 => if bits w 16 16 == 0 then (ElemTy.ofCode (bits w 10 7)).bind (fun f => some (.vldoChk (fin16 w 17) (xreg w 11) f (imm w 7 0))) else none
  | 24 => some (.vldg (xreg w 16) (xreg w 11) (imm w 11 0))
  | 25 => some (.vstg (xreg w 16) (xreg w 11) (imm w 11 0))
  | 30 => if bits w 16 16 == 0 then (ElemTy.ofCode (bits w 10 7)).bind (fun f => some (.vldgChk (fin16 w 17) (xreg w 11) f (imm w 7 0))) else none
  | 32 => some (.vldf (xreg w 16) (xreg w 11) (imm w 11 0))
  | 33 => some (.vstf (xreg w 16) (xreg w 11) (imm w 11 0))
  | 38 => if bits w 16 16 == 0 then (ElemTy.ofCode (bits w 10 7)).bind (fun f => some (.vldfChk (fin16 w 17) (xreg w 11) f (imm w 7 0))) else none
  | 40 => some (.vldh (xreg w 16) (xreg w 11) (imm w 11 0))
  | 41 => some (.vsth (xreg w 16) (xreg w 11) (imm w 11 0))
  | 46 => if bits w 16 16 == 0 then (ElemTy.ofCode (bits w 10 7)).bind (fun f => some (.vldhChk (fin16 w 17) (xreg w 11) f (imm w 7 0))) else none
  | _ => none

/-- MX (R45, R55, R225). -/
def decodeMX (w : Nat) : Option Instr :=
  match bits w 26 22 with
  | 0 => if bits w 2 2 == 0 then (ElemTy.ofCode (bits w 6 3)).bind (fun f => some (.mma (xreg w 17) (xreg w 12) (xreg w 7) f (bit w 1) (bit w 0))) else none
  | 1 => if bits w 2 2 == 0 then (ElemTy.ofCode (bits w 6 3)).bind (fun f => some (.mmat (xreg w 17) (xreg w 12) (xreg w 7) f (bit w 1) (bit w 0))) else none
  | 2 => if bits w 2 2 == 0 then (ElemTy.ofCode (bits w 6 3)).bind (fun f => some (.mmag (xreg w 17) (xreg w 12) (xreg w 7) f (bit w 1) (bit w 0))) else none
  | 3 => if bits w 16 0 == 0 then some (.mzero (xreg w 17)) else none
  | 4 => (ElemTy.ofCode (bits w 6 3)).bind (fun f => some (.mdrain (xreg w 17) (xreg w 12) (xreg w 7) f (bit w 2) (bit w 1) (bit w 0)))
  | 5 => if bits w 2 0 == 0 && bits w 11 7 == 0 then (ElemTy.ofCode (bits w 6 3)).bind (fun f => some (.mldc (xreg w 17) (xreg w 12) f)) else none
  | 6 => if bits w 2 1 == 0 && bits w 21 17 == 0 then (ElemTy.ofCode (bits w 6 3)).bind (fun f => some (.mbwr (xreg w 12) (xreg w 7) f (bit w 0))) else none
  | 7 => if bits w 16 2 == 0 then some (.mwait (xreg w 17) (bit w 1) (bit w 0)) else none
  | 8 => if bits w 11 2 == 0 && bits w 21 17 == 0 then some (.mstat (xreg w 12) (imm w 2 0)) else none
  | 9 => if bits w 6 1 == 0 then some (.mpert (xreg w 17) (xreg w 12) (xreg w 7) (bit w 0)) else none
  | _ => none

/-- AS (R45, R56, R245, R267, R352). -/
def decodeAS (w : Nat) : Option Instr :=
  match bits w 26 22 with
  | 0 => if bits w 6 5 == 0 && bits w 21 17 == 0 then some (.erw (xreg w 12) (xreg w 7) (imm w 5 0)) else none
  | 1 => if bits w 11 6 == 0 then some (.err (xreg w 17) (xreg w 12) (imm w 6 0)) else none
  | 2 => if bits w 11 0 == 0 && bits w 21 17 == 0 then some (.eswap (xreg w 12)) else none
  | 3 => if bits w 6 2 == 0 && bits w 21 17 == 0 then some (.binit (xreg w 12) (xreg w 7) (bit w 1) (bit w 0)) else none
  | 4 => if bits w 6 1 == 0 then some (.barv (xreg w 17) (xreg w 12) (xreg w 7) (bit w 0)) else none
  | 5 => if bits w 6 1 == 0 && bits w 21 17 == 0 then some (.bwait (xreg w 12) (xreg w 7) (bit w 0)) else none
  | 6 => if bits w 6 1 == 0 then some (.btest (xreg w 17) (xreg w 12) (xreg w 7) (bit w 0)) else none
  | 7 => if bits w 6 1 == 0 && bits w 21 17 == 0 then some (.badd (xreg w 12) (xreg w 7) (bit w 0)) else none
  | 8 => if bits w 6 0 == 0 then some (.wadv (xreg w 17) (xreg w 12) (xreg w 7)) else none
  | 9 => if bits w 11 0 == 0 then some (.wpos (xreg w 17) (xreg w 12)) else none
  | 10 => if bits w 6 2 == 0 && bits w 21 17 == 0 then some (.owne (xreg w 12) (xreg w 7) (bit w 1) (bit w 0)) else none
  | 11 => if bits w 6 2 == 0 && bits w 21 17 == 0 then some (.ownc (xreg w 12) (xreg w 7) (bit w 1) (bit w 0)) else none
  | 12 => if bits w 6 0 == 0 then some (.rcnt (xreg w 17) (xreg w 12) (xreg w 7)) else none
  | 13 => if bits w 6 0 == 0 then some (.rowcpy (xreg w 17) (xreg w 12) (xreg w 7)) else none
  | 14 => if bits w 6 0 == 0 then some (.rowfil (xreg w 17) (xreg w 12) (xreg w 7)) else none
  | 15 => if bits w 6 5 == 0 then some (.rowand (xreg w 17) (xreg w 12) (xreg w 7) (xreg w 0)) else none
  | 16 => if bits w 6 5 == 0 then some (.rowor (xreg w 17) (xreg w 12) (xreg w 7) (xreg w 0)) else none
  | 17 => if bits w 6 5 == 0 then some (.rowxor (xreg w 17) (xreg w 12) (xreg w 7) (xreg w 0)) else none
  | 18 => if bits w 6 0 == 0 then some (.rownot (xreg w 17) (xreg w 12) (xreg w 7)) else none
  | 19 => if bits w 6 0 == 0 then some (.rowq (xreg w 17) (xreg w 12) (xreg w 7)) else none
  | 20 => if bits w 11 0 == 0 then some (.foalloc (xreg w 17) (xreg w 12)) else none
  | 21 => if bits w 6 0 == 0 then some (.foshare (xreg w 17) (xreg w 12) (xreg w 7)) else none
  | 22 => if bits w 11 0 == 0 then some (.fofree (xreg w 17) (xreg w 12)) else none
  | 23 => if bits w 11 0 == 0 then some (.folook (xreg w 17) (xreg w 12)) else none
  | 24 => if bits w 6 1 == 0 then some (.fopin (xreg w 17) (xreg w 12) (xreg w 7) (bit w 0)) else none
  | 25 => if bits w 11 0 == 0 then some (.founpin (xreg w 17) (xreg w 12)) else none
  | 26 => if bits w 11 0 == 0 then some (.fopool (xreg w 17) (xreg w 12)) else none
  | _ => none

/-- FB (R45, R57, R303, R336). -/
def decodeFB (w : Nat) : Option Instr :=
  match bits w 26 22 with
  | 0 => if bits w 6 3 == 0 then some (.fsend (xreg w 17) (xreg w 12) (xreg w 7) (fin8 w 0)) else none
  | 1 => if bits w 6 3 == 0 then some (.fwr (xreg w 17) (xreg w 12) (xreg w 7) (fin8 w 0)) else none
  | 2 => if bits w 6 3 == 0 then some (.fwrs (xreg w 17) (xreg w 12) (xreg w 7) (fin8 w 0)) else (if bits w 6 3 == 1 then some (.fwrsSc (xreg w 17) (xreg w 12) (xreg w 7) (fin8 w 0)) else none)
  | 3 => if bits w 6 3 == 0 then some (.frd (xreg w 17) (xreg w 12) (xreg w 7) (fin8 w 0)) else none
  | 4 => if bits w 6 3 == 0 && bits w 16 12 == 0 then some (.fsig (xreg w 17) (xreg w 7) (fin8 w 0)) else none
  | 5 => if bits w 6 4 == 0 then some (.famo (xreg w 17) (xreg w 12) (xreg w 7) (bit w 3) (AmoOp.ofCode (bits w 2 0))) else none
  | 6 => if bits w 3 3 == 0 && bits w 6 5 == 0 then some (.fmcast (xreg w 17) (xreg w 12) (xreg w 7) (bit w 4) (fin8 w 0)) else none
  | 7 => if bits w 16 4 == 0 then some (.fwait (xreg w 17) (bit w 3) (fin8 w 0)) else none
  | 8 => if bits w 16 0 == 0 then some (.fslot (xreg w 17)) else (if bits w 11 0 == 1 && bits w 21 17 == 0 then some (.fslotWait (xreg w 12)) else none)
  | 9 => if bits w 11 2 == 0 then some (.fcnt (xreg w 17) (xreg w 12) (imm w 2 0)) else none
  | 10 => if bits w 16 0 == 0 then some (.fseat (xreg w 17)) else none
  | 11 => if bits w 11 2 == 0 && bits w 21 17 == 0 then some (.rgload (xreg w 12) (fin4 w 0)) else none
  | 12 => if bits w 6 2 == 0 then some (.rgplay (xreg w 17) (xreg w 12) (xreg w 7) (fin4 w 0)) else none
  | 13 => if bits w 16 2 == 0 then some (.rgwait (xreg w 17) (fin4 w 0)) else none
  | 14 => if bits w 11 2 == 0 then some (.rgstat (xreg w 17) (xreg w 12) (fin4 w 0)) else none
  | 15 => if bits w 21 2 == 0 then some (.rgfree (fin4 w 0)) else none
  | 16 => if bits w 11 2 == 0 && bits w 21 17 == 0 then some (.reshelve (xreg w 12) (fin4 w 0)) else none
  | _ => none

/-- SY (R45, R58, R384). -/
def decodeSY (w : Nat) : Option Instr :=
  match bits w 26 22 with
  | 0 => if bits w 8 4 == 0 && bits w 21 12 == 0 then (Scope.ofCode (bits w 11 9)).bind (fun c => some (.bar c (fin16 w 0))) else none
  | 1 => if bits w 8 0 == 0 && bits w 16 12 == 0 then (Scope.ofCode (bits w 11 9)).bind (fun c => some (.tkt (xreg w 17) c)) else none
  | 2 => if bits w 8 0 == 0 then (Scope.ofCode (bits w 11 9)).bind (fun c => some (.tktn (xreg w 17) (xreg w 12) c)) else none
  | 3 => if bits w 11 0 == 512 then some (.launch (xreg w 17) (xreg w 12)) else none
  | 4 => if bits w 11 0 == 512 then some (.lwait (xreg w 17) (xreg w 12)) else none
  | 5 => if bits w 11 0 == 512 && bits w 21 17 == 0 then some (.eta (xreg w 12)) else none
  | 6 => if bits w 21 0 == 512 then some .endt else none
  | 7 => if bits w 11 0 == 512 && bits w 21 17 == 0 then some (.ssend (xreg w 12)) else none
  | 8 => if bits w 11 4 == 32 && bits w 21 17 == 0 then some (.prio (xreg w 12) (fin16 w 0)) else none
  | 9 => if bits w 16 3 == 64 then some (.nodeid (xreg w 17) (imm w 3 0)) else none
  | 10 => if bits w 16 3 == 64 then some (.tileid (xreg w 17) (imm w 3 0)) else none
  | _ => none

/-- ST (R45, R59, R204). -/
def decodeST (w : Nat) : Option Instr :=
  match bits w 26 22 with
  | 0 => if bits w 17 1 == 0 then some (.gclr (fin16 w 18) (bit w 0)) else none
  | 1 => if bits w 8 3 == 0 && bits w 17 14 == 0 then (Half.ofCode (bits w 2 1)).bind (fun e => some (.gadd (fin16 w 18) (xreg w 9) e (bit w 0))) else none
  | 2 => if bits w 3 3 == 0 && bits w 17 14 == 0 then (Half.ofCode (bits w 2 1)).bind (fun e => some (.gwadd (fin16 w 18) (xreg w 9) (xreg w 4) e (bit w 0))) else none
  | 3 => if bits w 13 1 == 0 then some (.gmerge (fin16 w 18) (fin16 w 14) (bit w 0)) else none
  | 4 => if bits w 13 3 == 0 then some (.gfold (fin16 w 18) (fin16 w 14) (imm w 3 0)) else none
  | 5 => if bits w 17 14 == 0 then (DrainMode.ofCode (bits w 2 0)).bind (fun m => some (.gdrain (fin16 w 18) (xreg w 9) (xreg w 4) (bit w 3) m)) else none
  | 6 => if bits w 3 0 == 0 && bits w 8 5 == 0 && bits w 17 14 == 0 then some (.gld (fin16 w 18) (xreg w 9) (bit w 4)) else none
  | 7 => if bits w 3 0 == 0 && bits w 8 5 == 0 && bits w 17 14 == 0 then some (.gst (fin16 w 18) (xreg w 9) (bit w 4)) else none
  | 8 => if bits w 8 1 == 0 && bits w 17 14 == 0 then some (.gset (fin16 w 18) (xreg w 9) (bit w 0)) else none
  | _ => none

/-- SX (R45, R60, R410). -/
def decodeSX (w : Nat) : Option Instr :=
  match bits w 26 21 with
  | 0 => if bits w 20 7 == 0 then some (.trap (imm w 7 0)) else none
  | 1 => if bits w 20 0 == 0 then some .rft else (if bits w 20 0 == 1 then some .rftAbort else (if bits w 20 0 == 2 then some .rftReplay else none))
  | 2 => if bits w 15 11 == 0 then some (.csrr (xreg w 16) (imm w 11 0)) else none
  | 3 => if bits w 20 16 == 0 then some (.csrw (xreg w 11) (imm w 11 0)) else none
  | 4 => some (.env (imm w 21 0))
  | 5 => if bits w 20 0 == 0 then some .envc else none
  | 6 => if bits w 10 2 == 0 then some (.xlinv (xreg w 16) (xreg w 11) (imm w 2 0)) else none
  | 7 => if bits w 20 0 == 0 then some .xlwait else none
  | 8 => if bits w 10 2 == 0 then some (.qmap (xreg w 16) (xreg w 11) (fin4 w 0)) else none
  | 9 => if bits w 20 0 == 0 then some .halt else none
  | 10 => if bits w 20 7 == 0 then some (.brk (imm w 7 0)) else none
  | 11 => if bits w 10 4 == 0 && bits w 20 16 == 0 then some (.tinj (xreg w 11) (imm w 2 2) (imm w 2 0)) else none
  | 12 => if bits w 10 2 == 0 && bits w 20 16 == 0 then some (.sleep (xreg w 11) (imm w 2 0)) else none
  | _ => none

/-- The layout of a syllable by its class (R45); classes 14 and 15 are not instructions. -/
def decodeFields (w : Nat) : Option Instr :=
  match bits w 30 27 with
  | 0 => decodeSA w
  | 1 => decodeSI w
  | 2 => decodeBR w
  | 3 => decodeME w
  | 4 => some (.lx (imm w 27 0))
  | 5 => decodeVR w
  | 6 => decodeVX w
  | 7 => decodeVM w
  | 8 => decodeMX w
  | 9 => decodeAS w
  | 10 => decodeFB w
  | 11 => decodeSY w
  | 12 => decodeST w
  | 13 => decodeSX w
  | _ => none

/-- The instruction of a syllable, or none where R62 raises `ILLEGAL_ENCODING`. -/
def decode (w : Syllable) : Option Instr := (decodeFields w.toNat).filter wellFormed

/-- The stop bit `S` of a syllable (R27). -/
def stopBit (w : Syllable) : Bool := bit w.toNat 31

/-- A syllable read from four bytes, lowest address first (R27). -/
def syllableOf (bs : List Byte) : Syllable := BitVec.ofNat 32 (leNat bs)

/-- Decoding any list of bytes: the instruction of the first four and the bytes after them. -/
def decodeBytes (bs : List Byte) : Option (Instr × List Byte) :=
  if bs.length < 4 then none else (decode (syllableOf (bs.take 4))).map (fun i => (i, bs.drop 4))

/-! ### The encoder -/

/-- A word from the bits its row fixes and its fields, each at the place of its low bit. -/
def pack (base : Nat) (fields : List (Nat × Nat)) : Nat := fields.foldl (fun acc p => acc + p.2 * 2 ^ p.1) base

/-- The bits 30:0 of an instruction's syllable (R45 to R60); none for the part's own steps, which no
word encodes. -/
def encodeFields (i : Instr) : Option Nat :=
  match i with
  | .nop => some (pack 0x00000000 [])
  | .add g d a b => some (pack 0x00200000 [(3, g.pred.val), (2, b2n g.neg), (16, d.val), (11, a.val), (6, b.val)])
  | .sub g d a b => some (pack 0x00400000 [(3, g.pred.val), (2, b2n g.neg), (16, d.val), (11, a.val), (6, b.val)])
  | .and g d a b => some (pack 0x00600000 [(3, g.pred.val), (2, b2n g.neg), (16, d.val), (11, a.val), (6, b.val)])
  | .or g d a b => some (pack 0x00800000 [(3, g.pred.val), (2, b2n g.neg), (16, d.val), (11, a.val), (6, b.val)])
  | .xor g d a b => some (pack 0x00A00000 [(3, g.pred.val), (2, b2n g.neg), (16, d.val), (11, a.val), (6, b.val)])
  | .andn g d a b => some (pack 0x00C00000 [(3, g.pred.val), (2, b2n g.neg), (16, d.val), (11, a.val), (6, b.val)])
  | .sll g d a b => some (pack 0x00E00000 [(3, g.pred.val), (2, b2n g.neg), (16, d.val), (11, a.val), (6, b.val)])
  | .srl g d a b => some (pack 0x01000000 [(3, g.pred.val), (2, b2n g.neg), (16, d.val), (11, a.val), (6, b.val)])
  | .sra g d a b => some (pack 0x01200000 [(3, g.pred.val), (2, b2n g.neg), (16, d.val), (11, a.val), (6, b.val)])
  | .rol g d a b => some (pack 0x01400000 [(3, g.pred.val), (2, b2n g.neg), (16, d.val), (11, a.val), (6, b.val)])
  | .mul g d a b => some (pack 0x01600000 [(3, g.pred.val), (2, b2n g.neg), (16, d.val), (11, a.val), (6, b.val)])
  | .mulh g d a b => some (pack 0x01800000 [(3, g.pred.val), (2, b2n g.neg), (16, d.val), (11, a.val), (6, b.val)])
  | .mulhw g d a b => some (pack 0x01A00000 [(3, g.pred.val), (2, b2n g.neg), (16, d.val), (11, a.val), (6, b.val)])
  | .div g d a b => some (pack 0x01C00000 [(3, g.pred.val), (2, b2n g.neg), (16, d.val), (11, a.val), (6, b.val)])
  | .divw g d a b => some (pack 0x01E00000 [(3, g.pred.val), (2, b2n g.neg), (16, d.val), (11, a.val), (6, b.val)])
  | .rem g d a b => some (pack 0x02000000 [(3, g.pred.val), (2, b2n g.neg), (16, d.val), (11, a.val), (6, b.val)])
  | .remw g d a b => some (pack 0x02200000 [(3, g.pred.val), (2, b2n g.neg), (16, d.val), (11, a.val), (6, b.val)])
  | .min g d a b => some (pack 0x02400000 [(3, g.pred.val), (2, b2n g.neg), (16, d.val), (11, a.val), (6, b.val)])
  | .max g d a b => some (pack 0x02600000 [(3, g.pred.val), (2, b2n g.neg), (16, d.val), (11, a.val), (6, b.val)])
  | .minw g d a b => some (pack 0x02800000 [(3, g.pred.val), (2, b2n g.neg), (16, d.val), (11, a.val), (6, b.val)])
  | .maxw g d a b => some (pack 0x02A00000 [(3, g.pred.val), (2, b2n g.neg), (16, d.val), (11, a.val), (6, b.val)])
  | .clz g d a => some (pack 0x02C00000 [(3, g.pred.val), (2, b2n g.neg), (16, d.val), (11, a.val)])
  | .ctz g d a => some (pack 0x02E00000 [(3, g.pred.val), (2, b2n g.neg), (16, d.val), (11, a.val)])
  | .popc g d a => some (pack 0x03000000 [(3, g.pred.val), (2, b2n g.neg), (16, d.val), (11, a.val)])
  | .bfx g d a b => some (pack 0x03200000 [(3, g.pred.val), (2, b2n g.neg), (16, d.val), (11, a.val), (6, b.val)])
  | .bfi g d a b => some (pack 0x03400000 [(3, g.pred.val), (2, b2n g.neg), (16, d.val), (11, a.val), (6, b.val)])
  | .sel g d a b => some (pack 0x03600000 [(3, g.pred.val), (2, b2n g.neg), (16, d.val), (11, a.val), (6, b.val)])
  | .pcmpEq g p a b => some (pack 0x03800000 [(3, g.pred.val), (2, b2n g.neg), (16, p.val), (11, a.val), (6, b.val)])
  | .pcmpNe g p a b => some (pack 0x03A00000 [(3, g.pred.val), (2, b2n g.neg), (16, p.val), (11, a.val), (6, b.val)])
  | .pcmpLt g p a b => some (pack 0x03C00000 [(3, g.pred.val), (2, b2n g.neg), (16, p.val), (11, a.val), (6, b.val)])
  | .pcmpGe g p a b => some (pack 0x03E00000 [(3, g.pred.val), (2, b2n g.neg), (16, p.val), (11, a.val), (6, b.val)])
  | .pcmpLtw g p a b => some (pack 0x04000000 [(3, g.pred.val), (2, b2n g.neg), (16, p.val), (11, a.val), (6, b.val)])
  | .pcmpGew g p a b => some (pack 0x04200000 [(3, g.pred.val), (2, b2n g.neg), (16, p.val), (11, a.val), (6, b.val)])
  | .pand g d a b => some (pack 0x04400000 [(3, g.pred.val), (2, b2n g.neg), (16, d.val), (11, a.val), (6, b.val)])
  | .por g d a b => some (pack 0x04600000 [(3, g.pred.val), (2, b2n g.neg), (16, d.val), (11, a.val), (6, b.val)])
  | .pxor g d a b => some (pack 0x04800000 [(3, g.pred.val), (2, b2n g.neg), (16, d.val), (11, a.val), (6, b.val)])
  | .pnot g d a => some (pack 0x04A00000 [(3, g.pred.val), (2, b2n g.neg), (16, d.val), (11, a.val)])
  | .qcount g d a => some (pack 0x04C0E000 [(3, g.pred.val), (2, b2n g.neg), (16, d.val), (11, a.val)])
  | .addi d a i => some (pack 0x08000000 [(17, d.val), (12, a.val), (0, i.toNat)])
  | .andi d a i => some (pack 0x08400000 [(17, d.val), (12, a.val), (0, i.toNat)])
  | .ori d a i => some (pack 0x08800000 [(17, d.val), (12, a.val), (0, i.toNat)])
  | .xori d a i => some (pack 0x08C00000 [(17, d.val), (12, a.val), (0, i.toNat)])
  | .slli d a h => some (pack 0x09000000 [(17, d.val), (12, a.val), (0, h.toNat)])
  | .srli d a h => some (pack 0x09400000 [(17, d.val), (12, a.val), (0, h.toNat)])
  | .srai d a h => some (pack 0x09800000 [(17, d.val), (12, a.val), (0, h.toNat)])
  | .movi d i => some (pack 0x09C00000 [(17, d.val), (0, i.toNat)])
  | .pcmpiEq p a i => some (pack 0x0A000000 [(17, p.val), (12, a.val), (0, i.toNat)])
  | .pcmpiNe p a i => some (pack 0x0A400000 [(17, p.val), (12, a.val), (0, i.toNat)])
  | .pcmpiLt p a i => some (pack 0x0A800000 [(17, p.val), (12, a.val), (0, i.toNat)])
  | .pcmpiGe p a i => some (pack 0x0AC00000 [(17, p.val), (12, a.val), (0, i.toNat)])
  | .pcmpiLtw p a i => some (pack 0x0B000000 [(17, p.val), (12, a.val), (0, i.toNat)])
  | .pcmpiGew p a i => some (pack 0x0B400000 [(17, p.val), (12, a.val), (0, i.toNat)])
  | .lx u => some (pack 0x20000000 [(0, u.toNat)])
  | .j g o => some (pack 0x10000000 [(20, g.pred.val), (19, b2n g.neg), (0, o.toNat)])
  | .call g o => some (pack 0x10800000 [(20, g.pred.val), (19, b2n g.neg), (0, o.toNat)])
  | .jr g a => some (pack 0x11000000 [(20, g.pred.val), (19, b2n g.neg), (0, a.val)])
  | .ret g => some (pack 0x11800000 [(20, g.pred.val), (19, b2n g.neg)])
  | .loop g c o => some (pack 0x12000000 [(20, g.pred.val), (19, b2n g.neg), (14, c.val), (0, o.toNat)])
  | .ldl z d b o => some (pack 0x18000000 [(19, z.code), (14, d.val), (9, b.val), (0, o.toNat)])
  | .ldq z d b o => some (pack 0x19000000 [(19, z.code), (14, d.val), (9, b.val), (0, o.toNat)])
  | .ldo z d b o => some (pack 0x1A000000 [(19, z.code), (14, d.val), (9, b.val), (0, o.toNat)])
  | .ldg z d b o => some (pack 0x1B000000 [(19, z.code), (14, d.val), (9, b.val), (0, o.toNat)])
  | .ldf z d b o => some (pack 0x1C000000 [(19, z.code), (14, d.val), (9, b.val), (0, o.toNat)])
  | .ldh z d b o => some (pack 0x1D000000 [(19, z.code), (14, d.val), (9, b.val), (0, o.toNat)])
  | .stl z d b o => some (pack 0x18200000 [(19, z.code), (14, d.val), (9, b.val), (0, o.toNat)])
  | .stq z d b o => some (pack 0x19200000 [(19, z.code), (14, d.val), (9, b.val), (0, o.toNat)])
  | .sto z d b o => some (pack 0x1A200000 [(19, z.code), (14, d.val), (9, b.val), (0, o.toNat)])
  | .stg z d b o => some (pack 0x1B200000 [(19, z.code), (14, d.val), (9, b.val), (0, o.toNat)])
  | .stf z d b o => some (pack 0x1C200000 [(19, z.code), (14, d.val), (9, b.val), (0, o.toNat)])
  | .sth z d b o => some (pack 0x1D200000 [(19, z.code), (14, d.val), (9, b.val), (0, o.toNat)])
  | .amol z d b u o => some (pack 0x18500000 [(19, b2n z), (14, d.val), (9, b.val), (6, u.code), (0, o.toNat)])
  | .amoq z d b u o => some (pack 0x19500000 [(19, b2n z), (14, d.val), (9, b.val), (6, u.code), (0, o.toNat)])
  | .amoo z d b u o => some (pack 0x1A500000 [(19, b2n z), (14, d.val), (9, b.val), (6, u.code), (0, o.toNat)])
  | .amog z d b u o => some (pack 0x1B500000 [(19, b2n z), (14, d.val), (9, b.val), (6, u.code), (0, o.toNat)])
  | .pfg l b o => some (pack 0x1B600000 [(14, l.val), (9, b.val), (0, o.toNat)])
  | .cwb l b o => some (pack 0x1B800000 [(14, l.val), (9, b.val), (0, o.toNat)])
  | .cinv l b o => some (pack 0x1BA00000 [(14, l.val), (9, b.val), (0, o.toNat)])
  | .hfence => some (pack 0x1DC00000 [])
  | .efence => some (pack 0x18E00000 [])
  | .vadd t d a b k => some (pack 0x28000000 [(16, t.code), (11, d.val), (6, a.val), (1, b.val), (0, b2n k)])
  | .vsub t d a b k => some (pack 0x28100000 [(16, t.code), (11, d.val), (6, a.val), (1, b.val), (0, b2n k)])
  | .vmul t d a b k => some (pack 0x28200000 [(16, t.code), (11, d.val), (6, a.val), (1, b.val), (0, b2n k)])
  | .vfma t d a b k => some (pack 0x28300000 [(16, t.code), (11, d.val), (6, a.val), (1, b.val), (0, b2n k)])
  | .vfms t d a b k => some (pack 0x28400000 [(16, t.code), (11, d.val), (6, a.val), (1, b.val), (0, b2n k)])
  | .vmin t d a b k => some (pack 0x28500000 [(16, t.code), (11, d.val), (6, a.val), (1, b.val), (0, b2n k)])
  | .vmax t d a b k => some (pack 0x28600000 [(16, t.code), (11, d.val), (6, a.val), (1, b.val), (0, b2n k)])
  | .vabs t d a k => some (pack 0x28700000 [(16, t.code), (11, d.val), (6, a.val), (0, b2n k)])
  | .vneg t d a k => some (pack 0x28800000 [(16, t.code), (11, d.val), (6, a.val), (0, b2n k)])
  | .vand t d a b k => some (pack 0x28900000 [(16, t.code), (11, d.val), (6, a.val), (1, b.val), (0, b2n k)])
  | .vor t d a b k => some (pack 0x28A00000 [(16, t.code), (11, d.val), (6, a.val), (1, b.val), (0, b2n k)])
  | .vxor t d a b k => some (pack 0x28B00000 [(16, t.code), (11, d.val), (6, a.val), (1, b.val), (0, b2n k)])
  | .vshl t d a b k => some (pack 0x28C00000 [(16, t.code), (11, d.val), (6, a.val), (1, b.val), (0, b2n k)])
  | .vshr t d a b k => some (pack 0x28D00000 [(16, t.code), (11, d.val), (6, a.val), (1, b.val), (0, b2n k)])
  | .vsel t d a b => some (pack 0x28E00000 [(16, t.code), (11, d.val), (6, a.val), (1, b.val)])
  | .vcvt t d a e k => some (pack 0x28F00000 [(16, t.code), (11, d.val), (6, a.val), (1, e.code), (0, b2n k)])
  | .vcmpEq t d a b k => some (pack 0x29000000 [(16, t.code), (11, d.val), (6, a.val), (1, b.val), (0, b2n k)])
  | .vcmpNe t d a b k => some (pack 0x29100000 [(16, t.code), (11, d.val), (6, a.val), (1, b.val), (0, b2n k)])
  | .vcmpLt t d a b k => some (pack 0x29200000 [(16, t.code), (11, d.val), (6, a.val), (1, b.val), (0, b2n k)])
  | .vcmpLe t d a b k => some (pack 0x29300000 [(16, t.code), (11, d.val), (6, a.val), (1, b.val), (0, b2n k)])
  | .vcmpGt t d a b k => some (pack 0x29400000 [(16, t.code), (11, d.val), (6, a.val), (1, b.val), (0, b2n k)])
  | .vcmpGe t d a b k => some (pack 0x29500000 [(16, t.code), (11, d.val), (6, a.val), (1, b.val), (0, b2n k)])
  | .vwadd t d a b k => some (pack 0x29600000 [(16, t.code), (11, d.val), (6, a.val), (1, b.val), (0, b2n k)])
  | .vwmul t d a b k => some (pack 0x29700000 [(16, t.code), (11, d.val), (6, a.val), (1, b.val), (0, b2n k)])
  | .vwfma t d a b k => some (pack 0x29800000 [(16, t.code), (11, d.val), (6, a.val), (1, b.val), (0, b2n k)])
  | .vrcp t d a k => some (pack 0x29900000 [(16, t.code), (11, d.val), (6, a.val), (0, b2n k)])
  | .vrsqrt t d a k => some (pack 0x29A00000 [(16, t.code), (11, d.val), (6, a.val), (0, b2n k)])
  | .vexp2 t d a k => some (pack 0x29B00000 [(16, t.code), (11, d.val), (6, a.val), (0, b2n k)])
  | .vlog2 t d a k => some (pack 0x29C00000 [(16, t.code), (11, d.val), (6, a.val), (0, b2n k)])
  | .vredsum t d a k => some (pack 0x29D00000 [(16, t.code), (11, d.val), (6, a.val), (0, b2n k)])
  | .vredmax t d a k => some (pack 0x29E00000 [(16, t.code), (11, d.val), (6, a.val), (0, b2n k)])
  | .vscan t d a k => some (pack 0x29F00000 [(16, t.code), (11, d.val), (6, a.val), (0, b2n k)])
  | .vbcast t d a k => some (pack 0x2A000000 [(16, t.code), (11, d.val), (6, a.val), (0, b2n k)])
  | .vmovx t d a b => some (pack 0x2A100000 [(16, t.code), (11, d.val), (6, a.val), (1, b.val)])
  | .vins t d a b => some (pack 0x2A200000 [(16, t.code), (11, d.val), (6, a.val), (1, b.val)])
  | .vperm t d a b k => some (pack 0x2A300000 [(16, t.code), (11, d.val), (6, a.val), (1, b.val), (0, b2n k)])
  | .vrot t d a b k => some (pack 0x2A400000 [(16, t.code), (11, d.val), (6, a.val), (1, b.val), (0, b2n k)])
  | .mand d a b => some (pack 0x2A500000 [(11, d.val), (6, a.val), (1, b.val)])
  | .mor d a b => some (pack 0x2A600000 [(11, d.val), (6, a.val), (1, b.val)])
  | .mnot d a => some (pack 0x2A700000 [(11, d.val), (6, a.val)])
  | .mpop t d a => some (pack 0x2A800000 [(16, t.code), (11, d.val), (6, a.val)])
  | .vshuf s d => some (pack 0x30000000 [(14, s.val), (4, d.val)])
  | .vqcvt s t d => some (pack 0x30080000 [(14, s.val), (9, t.val), (5, d.val)])
  | .vdqcvt s d => some (pack 0x30100000 [(14, s.val), (4, d.val)])
  | .vsetcfg s t => some (pack 0x30180000 [(14, s.val), (9, t.val)])
  | .vgatherq s t d => some (pack 0x30200000 [(14, s.val), (9, t.val), (4, d.val)])
  | .vscatq s t d => some (pack 0x30280000 [(14, s.val), (9, t.val), (4, d.val)])
  | .vfence => some (pack 0x30300000 [])
  | .vmskld s t d => some (pack 0x30380000 [(14, s.val), (9, t.val), (4, d.val)])
  | .vldl v b o => some (pack 0x38000000 [(16, v.val), (11, b.val), (0, o.toNat)])
  | .vldq v b o => some (pack 0x39000000 [(16, v.val), (11, b.val), (0, o.toNat)])
  | .vldo v b o => some (pack 0x3A000000 [(16, v.val), (11, b.val), (0, o.toNat)])
  | .vldg v b o => some (pack 0x3B000000 [(16, v.val), (11, b.val), (0, o.toNat)])
  | .vldf v b o => some (pack 0x3C000000 [(16, v.val), (11, b.val), (0, o.toNat)])
  | .vldh v b o => some (pack 0x3D000000 [(16, v.val), (11, b.val), (0, o.toNat)])
  | .vstl v b o => some (pack 0x38200000 [(16, v.val), (11, b.val), (0, o.toNat)])
  | .vstq v b o => some (pack 0x39200000 [(16, v.val), (11, b.val), (0, o.toNat)])
  | .vsto v b o => some (pack 0x3A200000 [(16, v.val), (11, b.val), (0, o.toNat)])
  | .vstg v b o => some (pack 0x3B200000 [(16, v.val), (11, b.val), (0, o.toNat)])
  | .vstf v b o => some (pack 0x3C200000 [(16, v.val), (11, b.val), (0, o.toNat)])
  | .vsth v b o => some (pack 0x3D200000 [(16, v.val), (11, b.val), (0, o.toNat)])
  | .vldqRow v b o => some (pack 0x39400000 [(16, v.val), (11, b.val), (0, o.toNat)])
  | .vstqRow v b o => some (pack 0x39600000 [(16, v.val), (11, b.val), (0, o.toNat)])
  | .vldqCol v b o => some (pack 0x39800000 [(16, v.val), (11, b.val), (0, o.toNat)])
  | .vstqCol v b o => some (pack 0x39A00000 [(16, v.val), (11, b.val), (0, o.toNat)])
  | .vldlChk v b f c => some (pack 0x38C00000 [(17, v.val), (11, b.val), (7, f.code), (0, c.toNat)])
  | .vldqChk v b f c => some (pack 0x39C00000 [(17, v.val), (11, b.val), (7, f.code), (0, c.toNat)])
  | .vldoChk v b f c => some (pack 0x3AC00000 [(17, v.val), (11, b.val), (7, f.code), (0, c.toNat)])
  | .vldgChk v b f c => some (pack 0x3BC00000 [(17, v.val), (11, b.val), (7, f.code), (0, c.toNat)])
  | .vldfChk v b f c => some (pack 0x3CC00000 [(17, v.val), (11, b.val), (7, f.code), (0, c.toNat)])
  | .vldhChk v b f c => some (pack 0x3DC00000 [(17, v.val), (11, b.val), (7, f.code), (0, c.toNat)])
  | .gclr g k => some (pack 0x60000000 [(18, g.val), (0, b2n k)])
  | .gadd g v e k => some (pack 0x60400000 [(18, g.val), (9, v.val), (1, e.code), (0, b2n k)])
  | .gwadd g v w e k => some (pack 0x60800000 [(18, g.val), (9, v.val), (4, w.val), (1, e.code), (0, b2n k)])
  | .gmerge g h k => some (pack 0x60C00000 [(18, g.val), (14, h.val), (0, b2n k)])
  | .gfold g h l => some (pack 0x61000000 [(18, g.val), (14, h.val), (0, l.toNat)])
  | .gdrain g v w c m => some (pack 0x61400000 [(18, g.val), (9, v.val), (4, w.val), (3, b2n c), (0, m.code)])
  | .gld g b p => some (pack 0x61800000 [(18, g.val), (9, b.val), (4, b2n p)])
  | .gst g b p => some (pack 0x61C00000 [(18, g.val), (9, b.val), (4, b2n p)])
  | .gset g v k => some (pack 0x62000000 [(18, g.val), (9, v.val), (0, b2n k)])
  | .mma t a b f w z => some (pack 0x40000000 [(17, t.val), (12, a.val), (7, b.val), (3, f.code), (1, b2n w), (0, b2n z)])
  | .mmat t a b f w z => some (pack 0x40400000 [(17, t.val), (12, a.val), (7, b.val), (3, f.code), (1, b2n w), (0, b2n z)])
  | .mmag t a b f w z => some (pack 0x40800000 [(17, t.val), (12, a.val), (7, b.val), (3, f.code), (1, b2n w), (0, b2n z)])
  | .mzero t => some (pack 0x40C00000 [(17, t.val)])
  | .mdrain t a b f q j h => some (pack 0x41000000 [(17, t.val), (12, a.val), (7, b.val), (3, f.code), (2, b2n q), (1, b2n j), (0, b2n h)])
  | .mldc t a f => some (pack 0x41400000 [(17, t.val), (12, a.val), (3, f.code)])
  | .mbwr a b f c => some (pack 0x41800000 [(12, a.val), (7, b.val), (3, f.code), (0, b2n c)])
  | .mwait t r l => some (pack 0x41C00000 [(17, t.val), (1, b2n r), (0, b2n l)])
  | .mstat d e => some (pack 0x42000000 [(12, d.val), (0, e.toNat)])
  | .mpert t a b q => some (pack 0x42400000 [(17, t.val), (12, a.val), (7, b.val), (0, b2n q)])
  | .erw a b n => some (pack 0x48000000 [(12, a.val), (7, b.val), (0, n.toNat)])
  | .err d a n => some (pack 0x48400000 [(17, d.val), (12, a.val), (0, n.toNat)])
  | .eswap a => some (pack 0x48800000 [(12, a.val)])
  | .binit a b f p => some (pack 0x48C00000 [(12, a.val), (7, b.val), (1, b2n f), (0, b2n p)])
  | .barv d a b p => some (pack 0x49000000 [(17, d.val), (12, a.val), (7, b.val), (0, b2n p)])
  | .bwait a b p => some (pack 0x49400000 [(12, a.val), (7, b.val), (0, b2n p)])
  | .btest d a b p => some (pack 0x49800000 [(17, d.val), (12, a.val), (7, b.val), (0, b2n p)])
  | .badd a b p => some (pack 0x49C00000 [(12, a.val), (7, b.val), (0, b2n p)])
  | .wadv d a b => some (pack 0x4A000000 [(17, d.val), (12, a.val), (7, b.val)])
  | .wpos d a => some (pack 0x4A400000 [(17, d.val), (12, a.val)])
  | .owne a b v p => some (pack 0x4A800000 [(12, a.val), (7, b.val), (1, b2n v), (0, b2n p)])
  | .ownc a b v p => some (pack 0x4AC00000 [(12, a.val), (7, b.val), (1, b2n v), (0, b2n p)])
  | .rcnt d a b => some (pack 0x4B000000 [(17, d.val), (12, a.val), (7, b.val)])
  | .rowcpy c a b => some (pack 0x4B400000 [(17, c.val), (12, a.val), (7, b.val)])
  | .rowfil c a b => some (pack 0x4B800000 [(17, c.val), (12, a.val), (7, b.val)])
  | .rowand c a b e => some (pack 0x4BC00000 [(17, c.val), (12, a.val), (7, b.val), (0, e.val)])
  | .rowor c a b e => some (pack 0x4C000000 [(17, c.val), (12, a.val), (7, b.val), (0, e.val)])
  | .rowxor c a b e => some (pack 0x4C400000 [(17, c.val), (12, a.val), (7, b.val), (0, e.val)])
  | .rownot c a b => some (pack 0x4C800000 [(17, c.val), (12, a.val), (7, b.val)])
  | .rowq d a b => some (pack 0x4CC00000 [(17, d.val), (12, a.val), (7, b.val)])
  | .foalloc d a => some (pack 0x4D000000 [(17, d.val), (12, a.val)])
  | .foshare d a b => some (pack 0x4D400000 [(17, d.val), (12, a.val), (7, b.val)])
  | .fofree d a => some (pack 0x4D800000 [(17, d.val), (12, a.val)])
  | .folook d a => some (pack 0x4DC00000 [(17, d.val), (12, a.val)])
  | .fopin d a b q => some (pack 0x4E000000 [(17, d.val), (12, a.val), (7, b.val), (0, b2n q)])
  | .founpin d a => some (pack 0x4E400000 [(17, d.val), (12, a.val)])
  | .fopool d a => some (pack 0x4E800000 [(17, d.val), (12, a.val)])
  | .fsend d a b n => some (pack 0x50000000 [(17, d.val), (12, a.val), (7, b.val), (0, n.val)])
  | .fwr d a b n => some (pack 0x50400000 [(17, d.val), (12, a.val), (7, b.val), (0, n.val)])
  | .fwrs d a b n => some (pack 0x50800000 [(17, d.val), (12, a.val), (7, b.val), (0, n.val)])
  | .fwrsSc d a b n => some (pack 0x50800008 [(17, d.val), (12, a.val), (7, b.val), (0, n.val)])
  | .frd d a b n => some (pack 0x50C00000 [(17, d.val), (12, a.val), (7, b.val), (0, n.val)])
  | .fsig d b n => some (pack 0x51000000 [(17, d.val), (7, b.val), (0, n.val)])
  | .famo d a b w u => some (pack 0x51400000 [(17, d.val), (12, a.val), (7, b.val), (3, b2n w), (0, u.code)])
  | .fmcast d a b g n => some (pack 0x51800000 [(17, d.val), (12, a.val), (7, b.val), (4, b2n g), (0, n.val)])
  | .fwait d l n => some (pack 0x51C00000 [(17, d.val), (3, b2n l), (0, n.val)])
  | .fslot d => some (pack 0x52000000 [(17, d.val)])
  | .fslotWait a => some (pack 0x52000001 [(12, a.val)])
  | .fcnt d a m => some (pack 0x52400000 [(17, d.val), (12, a.val), (0, m.toNat)])
  | .fseat d => some (pack 0x52800000 [(17, d.val)])
  | .rgload a n => some (pack 0x52C00000 [(12, a.val), (0, n.val)])
  | .rgplay d a b n => some (pack 0x53000000 [(17, d.val), (12, a.val), (7, b.val), (0, n.val)])
  | .rgwait d n => some (pack 0x53400000 [(17, d.val), (0, n.val)])
  | .rgstat d a n => some (pack 0x53800000 [(17, d.val), (12, a.val), (0, n.val)])
  | .rgfree n => some (pack 0x53C00000 [(0, n.val)])
  | .reshelve a n => some (pack 0x54000000 [(12, a.val), (0, n.val)])
  | .bar c b => some (pack 0x58000000 [(9, c.code), (0, b.val)])
  | .tkt d c => some (pack 0x58400000 [(17, d.val), (9, c.code)])
  | .tktn d a c => some (pack 0x58800000 [(17, d.val), (12, a.val), (9, c.code)])
  | .launch d a => some (pack 0x58C00200 [(17, d.val), (12, a.val)])
  | .lwait d a => some (pack 0x59000200 [(17, d.val), (12, a.val)])
  | .eta a => some (pack 0x59400200 [(12, a.val)])
  | .endt => some (pack 0x59800200 [])
  | .ssend a => some (pack 0x59C00200 [(12, a.val)])
  | .prio a q => some (pack 0x5A000200 [(12, a.val), (0, q.val)])
  | .nodeid d e => some (pack 0x5A400200 [(17, d.val), (0, e.toNat)])
  | .tileid d e => some (pack 0x5A800200 [(17, d.val), (0, e.toNat)])
  | .trap n => some (pack 0x68000000 [(0, n.toNat)])
  | .rft => some (pack 0x68200000 [])
  | .rftAbort => some (pack 0x68200001 [])
  | .rftReplay => some (pack 0x68200002 [])
  | .csrr d i => some (pack 0x68400000 [(16, d.val), (0, i.toNat)])
  | .csrw a i => some (pack 0x68600000 [(11, a.val), (0, i.toNat)])
  | .env e => some (pack 0x68800000 [(0, e.toNat)])
  | .envc => some (pack 0x68A00000 [])
  | .xlinv d a k => some (pack 0x68C00000 [(16, d.val), (11, a.val), (0, k.toNat)])
  | .xlwait => some (pack 0x68E00000 [])
  | .qmap d a n => some (pack 0x69000000 [(16, d.val), (11, a.val), (0, n.val)])
  | .halt => some (pack 0x69200000 [])
  | .brk n => some (pack 0x69400000 [(0, n.toNat)])
  | .tinj a e k => some (pack 0x69600000 [(11, a.val), (2, e.toNat), (0, k.toNat)])
  | .sleep a l => some (pack 0x69800000 [(11, a.val), (0, l.toNat)])
  | .exposedWriteLand => none
  | .scoreboardResultWrite => none
  | .barrierRelease _ _ _ _ => none
  | .podBarrierRelease _ _ _ => none
  | .slotStart => none
  | .seatSlotSend => none
  | .podScPerform => none
  | .seatReportTimeout => none
  | .preemptionTaken => none
  | .checkpointSpill => none
  | .checkpointRestore => none
  | .haltRequestTaken => none
  | .mscpartGrow _ _ => none
  | .mscpartGrowComplete _ => none
  | .mscpartShrink _ _ => none
  | .formatRangeEnable _ _ => none
  | .formatRangeDisable _ _ => none
  | .formatRangeFlushDone _ _ => none
  | .cohctlWrite _ => none
  | .rebase => none
  | .hbmBatchMark _ => none
  | .walkerMovingRetry => none
  | .qsBankGrant => none
  | .vxCommandComplete => none
  | .matrixOpStart _ => none
  | .matrixOpComplete _ => none
  | .bteCommandStart _ => none
  | .bteSectorTransfer _ => none
  | .completionWordPost => none
  | .bteerrClear _ => none
  | .ringEnable _ _ => none
  | .ringDisable _ _ => none
  | .ringSlotClaim _ => none
  | .owncFlip => none
  | .rowStep _ => none
  | .bitwiseRegionEnable _ _ => none
  | .bitwiseRegionDisable _ _ => none
  | .bankRefresh _ _ => none
  | .bankRefreshEnd _ _ => none
  | .fabricCommandStart _ => none
  | .fabricPacketSend => none
  | .packetReceive _ _ _ _ _ => none
  | .streamPacketPerform => none
  | .acknowledgementSend _ _ _ => none
  | .linkReplayTimeout _ _ _ => none
  | .packetRelay => none
  | .fabricCommandTimeout _ => none
  | .lineLost _ _ _ => none
  | .lineDrift _ _ _ => none
  | .lineRetuned _ _ _ => none
  | .combLost _ _ => none
  | .tableProposalLapse _ => none
  | .tableInstalled _ => none
  | .tutblGo _ _ => none
  | .tuevtRead _ => none
  | .linjctlWrite _ _ => none
  | .instanceStart _ => none
  | .sendStep _ _ => none
  | .recvStep _ _ => none
  | .copyStep _ _ => none
  | .finStep _ _ => none
  | .nopStep _ _ => none
  | .leadArrival _ _ _ => none
  | .stepRelease _ _ => none
  | .recvDataTimeout _ _ => none
  | .sendStepTimeout _ _ => none
  | .instanceComplete _ => none
  | .riggingLoadComplete _ => none
  | .reshelveHistogramExchange _ => none
  | .reshelveMove _ => none
  | .reshelveTimeout _ => none
  | .folioStoreEnable => none
  | .folioStoreDisable => none
  | .folioEviction => none
  | .folioRecallComplete _ => none
  | .copyOnWriteSplit _ => none
  | .fopinDeadline _ => none
  | .ddoorSubmit _ => none
  | .launchPacket _ _ => none
  | .computePhaseStart _ _ => none
  | .freeCoreReport => none
  | .ticketDispatch => none
  | .phaseClose _ _ => none
  | .exchangePhaseEnd _ _ => none
  | .nodeRetire _ _ => none
  | .selection => none
  | .tokenAging => none
  | .dbgctlHalt _ => none
  | .dbgctlStep _ => none
  | .dbgctlRun _ => none
  | .dbgmaddrRead _ => none
  | .debugReadComplete => none
  | .atctlWrite _ _ => none
  | .sleepWake => none
  | .hostBar0Access _ _ => none
  | .hostMemRequest _ _ _ => none
  | .hostWindowWrite _ _ _ => none
  | .hdmEnable _ => none
  | .hdmDisable _ => none
  | .repreqClear _ => none
  | .firmwareUpdate _ => none
  | .firmwareUpdateDone => none
  | .attestationRequest _ => none
  | .attestationDone => none
  | .reset => none
  | .hbmStackTrained _ => none
  | .fullServiceEntry _ => none
  | .unitRemoval _ _ => none
  | .thermalLimit _ _ _ => none
  | .thermalTrip _ _ => none
  | .inputUndervoltage => none
  | .registerWrite _ _ => none
  | .cxlLinkLoss => none
  | .cxlLinkReturn => none
  | .powerLimitingEnd _ _ _ => none
  | .translationWalkComplete _ => none
  | .instructionCacheFill _ => none
  | .cacheRangeComplete => none
  | .hostAccessComplete => none
  | .cxlCacheSnoop _ _ => none

/-- The syllable of an instruction, with its stop bit. -/
def encode (stop : Bool) (i : Instr) : Option Syllable :=
  (encodeFields i).map (fun n => BitVec.ofNat 32 (b2n stop * 2 ^ 31 + n))

/-- An instruction that a word encodes, as against the part's own steps. -/
def isSyllable (i : Instr) : Bool := (encodeFields i).isSome

/-- The instruction decoded from an instruction of `nbits` bits `w`, numbered as the opcode table
numbers them: laid out as the four little-endian bytes the hardware stores. -/
def decodeTableWord (_nbits w : Nat) : Option Instr := (decodeBytes (leBytes 4 w)).map Prod.fst

end Sys2Proof
end

