-- ==== Sys2Proof/Config.lean ====
section
/-!
DEFINITION. What the manual leaves to the implementation or gives no value for: free values without a
body, so that no proof can rest on one. Each takes `State.free`, a counter that the step advances, or
the operands the value depends on. The log entries named say what each stands for.
-/
namespace Sys2Proof.Config

/-- Which of `n` candidates a replacement policy picks: translations, MSC ways (DESIGN CHOICE, log entry 20). -/
opaque victim : Nat → Nat
/-- The common amount of a rebase (R149; DESIGN CHOICE, log entry 21). -/
opaque rebaseBy : Nat → Nat
/-- A 64-bit word that the manual does not give (DESIGN CHOICE, log entry 22). -/
opaque freeWord : Nat → Word
/-- The layout of the register window: which byte of the registers and held writes, taken one kind after the other, lies at an
offset (R118, R408; DESIGN CHOICE, log entry 25). -/
opaque regWindow : Nat → Option Nat
/-- What the S4O encoder makes of a pair with a quotient that is no number though neither input is a NaN: two nibbles and the
saturations counted, packed (R75; DESIGN CHOICE, log entry 104). -/
opaque s4oPair : Nat → Nat → Nat → Nat
/-- The mode, of the four of R71, that a code of `FRCTL.ROUND` above 3 selects (R79; DESIGN CHOICE, log entry 102). -/
opaque roundCode : Nat → Nat
/-- The stacks above 85 °C where the hottest is: `PWRSTAT` gives the hottest alone (R276, R424; DESIGN CHOICE, log entry 125). -/
opaque hotStacks : Nat → BitVec 12
/-- The states in which the distributor keeps the layers of a core without a task: B store in bits 1:0, LS and ACC in bits 3:2
(R409; DESIGN CHOICE, log entry 126). -/
opaque layers : Nat → BitVec 4
/-- The vendor key in the security controller's boot ROM, x then y (R431; DESIGN CHOICE, log entry 23). -/
opaque vendorKey : List Byte
/-- The private key whose public half is the argument, and the nonces of the security controller's signatures (R25, R432; DESIGN
CHOICE, log entry 23). -/
opaque privateKey : List Byte → Nat
opaque signNonce : Nat → Nat

end Sys2Proof.Config
end

