-- ==== Sys2Proof/Machine/Float.lean ====
section
/-!
DEFINITION. Number formats and arithmetic (R67 to R90): floating-point values are computed exactly
as signed dyadic numbers and rounded once, and codes are natural numbers of the format's width.
-/
namespace Sys2Proof.Machine

/-- The rounding modes of R71, in the order of their codes. -/
inductive RoundMode where
  | rne | rz | ru | rd
  deriving DecidableEq, Repr

/-- The mode a two-bit code names (R71). -/
def RoundMode.ofCode (c : Nat) : RoundMode :=
  match c % 4 with
  | 0 => .rne
  | 1 => .rz
  | 2 => .ru
  | _ => .rd

/-- A floating-point format of R69. -/
structure FpFmt where
  width : Nat
  mbits : Nat
  bias : Nat
  /-- magnitude code of the largest finite value -/
  maxCode : Nat
  /-- magnitude code of infinity, where the format has one -/
  infCode : Option Nat
  /-- the canonical NaN of R70 -/
  nanCode : Nat
  /-- R72: overflow gives the largest finite value and one saturation -/
  saturates : Bool
  deriving DecidableEq, Repr

def fmtF32 : FpFmt := ⟨32, 23, 127, 0x7F7FFFFF, some 0x7F800000, 0x7FC00000, false⟩
def fmtBf16 : FpFmt := ⟨16, 7, 127, 0x7F7F, some 0x7F80, 0x7FC0, false⟩
def fmtE4m3 : FpFmt := ⟨8, 3, 7, 0x7E, none, 0x7F, true⟩
def fmtE5m2 : FpFmt := ⟨8, 2, 15, 0x7B, some 0x7C, 0x7E, true⟩

/-- An exact value: NaN, an infinity, or (-1)^neg * n * 2^e. -/
inductive Fp where
  | nan
  | inf (neg : Bool)
  | fin (neg : Bool) (n : Nat) (e : Int)
  deriving DecidableEq, Repr

/-- The value of a code (R69). -/
def decodeFp (f : FpFmt) (code : Nat) : Fp :=
  let neg := bit code (f.width - 1)
  let mag := code % 2 ^ (f.width - 1)
  if mag > f.maxCode then
    if f.infCode = some mag then .inf neg else .nan
  else
    let ef := mag / 2 ^ f.mbits
    let m := mag % 2 ^ f.mbits
    if ef = 0 then .fin neg m (1 - (f.bias : Int) - f.mbits)
    else .fin neg (2 ^ f.mbits + m) ((ef : Int) - f.bias - f.mbits)

def signBit (f : FpFmt) (neg : Bool) : Nat := if neg then 2 ^ (f.width - 1) else 0

/-- Shift left by an integer amount; a negative amount shifts the other operand. -/
def shlInt (n : Nat) (s : Int) : Nat := if s < 0 then n else n <<< s.toNat

/-- Whether the magnitude is rounded up, from the half bit, the sticky bit and the low bit (R71). -/
def roundsUp (mode : RoundMode) (neg half sticky odd : Bool) : Bool :=
  match mode with
  | .rne => half && (sticky || odd)
  | .rz => false
  | .ru => !neg && (half || sticky)
  | .rd => neg && (half || sticky)

/-- The magnitude code of (n/d + a positive amount below one unit of the last place when `sticky`)
times 2^e, rounded once as though the exponent range had no upper bound (R71, R72). -/
def roundMag (f : FpFmt) (mode : RoundMode) (neg : Bool) (n d : Nat) (e : Int) (sticky : Bool) : Nat :=
  if n = 0 && !sticky then 0
  else
    let a : Int := (Nat.log2 n : Int) - Nat.log2 d
    let a := if shlInt n (-a) < shlInt d a then a - 1 else a
    let qmin : Int := 1 - (f.bias : Int) - f.mbits
    let q : Int := max (a + e - f.mbits) qmin
    let s : Int := e - q + 1
    let num := shlInt n s
    let den := shlInt d (-s)
    let k2 := num / den
    let st := sticky || num % den != 0
    let k := k2 / 2
    let up := roundsUp mode neg (k2 % 2 == 1) st (k % 2 == 1)
    (q - qmin).toNat * 2 ^ f.mbits + k + b2n up

/-- The code of a rounded magnitude, with the overflow rule of R71 or the saturation of R72. -/
def finishRound (f : FpFmt) (mode : RoundMode) (neg : Bool) (mag : Nat) : Nat × Bool :=
  if mag ≤ f.maxCode then (signBit f neg + mag, false)
  else if f.saturates then (signBit f neg + f.maxCode, true)
  else
    let inf := signBit f neg + f.infCode.getD f.maxCode
    let big := signBit f neg + f.maxCode
    match mode with
    | .rne => (inf, false)
    | .rz => (big, false)
    | .ru => (if neg then big else inf, false)
    | .rd => (if neg then inf else big, false)

/-- A quotient n/d times 2^e rounded to a format. -/
def roundQuot (f : FpFmt) (mode : RoundMode) (neg : Bool) (n d : Nat) (e : Int) (sticky : Bool) : Nat × Bool :=
  finishRound f mode neg (roundMag f mode neg n d e sticky)

/-- An exact value rounded to a format, with one saturation where R72 counts one. -/
def encodeFp (f : FpFmt) (mode : RoundMode) (x : Fp) : Nat × Bool :=
  match x with
  | .nan => (f.nanCode, false)
  | .inf neg => if f.saturates then (signBit f neg + f.maxCode, true) else (signBit f neg + f.infCode.getD f.maxCode, false)
  | .fin neg n e => roundQuot f mode neg n 1 e false

/-- Exact sum (R70, R71). The sign of an exact zero follows IEEE 754 (DEDUCED, log entry 9). -/
def addFp (mode : RoundMode) (a b : Fp) : Fp :=
  match a, b with
  | .nan, _ => .nan
  | _, .nan => .nan
  | .inf s, .inf t => if s = t then .inf s else .nan
  | .inf s, _ => .inf s
  | _, .inf t => .inf t
  | .fin s n e, .fin t m g =>
    let k := min e g
    let x : Int := (if s then -1 else 1) * ((n <<< (e - k).toNat : Nat) : Int)
    let y : Int := (if t then -1 else 1) * ((m <<< (g - k).toNat : Nat) : Int)
    let z := x + y
    if z = 0 then .fin (if s = t then s else mode == .rd) 0 k
    else .fin (z < 0) z.natAbs k

def negFp : Fp → Fp
  | .nan => .nan
  | .inf s => .inf (!s)
  | .fin s n e => .fin (!s) n e

/-- Exact product (R70: 0 × ∞ is NaN). -/
def mulFp (a b : Fp) : Fp :=
  match a, b with
  | .nan, _ => .nan
  | _, .nan => .nan
  | .inf s, .inf t => .inf (s != t)
  | .inf s, .fin t m _ => if m = 0 then .nan else .inf (s != t)
  | .fin s n _, .inf t => if n = 0 then .nan else .inf (s != t)
  | .fin s n e, .fin t m g => .fin (s != t) (n * m) (e + g)

/-- A quotient rounded once to a format (R70: 0/0 and ∞/∞ are NaN, x/0 is an infinity). -/
def divFp (f : FpFmt) (mode : RoundMode) (a b : Fp) : Nat × Bool :=
  match a, b with
  | .nan, _ => (f.nanCode, false)
  | _, .nan => (f.nanCode, false)
  | .inf _, .inf _ => (f.nanCode, false)
  | .inf s, .fin t _ _ => encodeFp f mode (.inf (s != t))
  | .fin s _ _, .inf t => (signBit f (s != t), false)
  | .fin s n e, .fin t m g =>
    if m = 0 then (if n = 0 then (f.nanCode, false) else encodeFp f mode (.inf (s != t)))
    else roundQuot f mode (s != t) n m (e - g) false

/-! ### Arithmetic on FP32 codes -/

def dF32 (a : Nat) : Fp := decodeFp fmtF32 a
def dBf16 (a : Nat) : Fp := decodeFp fmtBf16 a
def rF32 (mode : RoundMode) (x : Fp) : Nat := (encodeFp fmtF32 mode x).1

/-- `rne_f32` of the exact sum, difference, product and quotient of two FP32 codes (R66). -/
def f32Add (a b : Nat) : Nat := rF32 .rne (addFp .rne (dF32 a) (dF32 b))
def f32Sub (a b : Nat) : Nat := rF32 .rne (addFp .rne (dF32 a) (negFp (dF32 b)))
def f32Mul (a b : Nat) : Nat := rF32 .rne (mulFp (dF32 a) (dF32 b))
def f32Div (a b : Nat) : Nat := (divFp fmtF32 .rne (dF32 a) (dF32 b)).1

/-- BF16 widened exactly to FP32 (R72). A NaN gives the canonical NaN of R70. -/
def bf16ToF32 (a : Nat) : Nat := a % 65536 * 65536

def isNanCode (f : FpFmt) (a : Nat) : Bool := decodeFp f a == .nan
def isNan32 (a : Nat) : Bool := isNanCode fmtF32 a

def isZeroCode (f : FpFmt) (a : Nat) : Bool := a % 2 ^ (f.width - 1) == 0

/-- A key that orders the non-NaN codes of a format as reals, with −0 below +0 (R177). -/
def orderKey (f : FpFmt) (a : Nat) : Int :=
  let mag : Int := (a % 2 ^ (f.width - 1) : Nat)
  if bit a (f.width - 1) then -mag - 1 else mag

/-- A key in which −0 equals +0 (R179). -/
def valueKey (f : FpFmt) (a : Nat) : Int :=
  let mag : Int := (a % 2 ^ (f.width - 1) : Nat)
  if bit a (f.width - 1) then -mag else mag

/-- `VMIN` and `VMAX` of F types (R177). -/
def fpMin (f : FpFmt) (a b : Nat) : Nat :=
  if isNanCode f a || isNanCode f b then f.nanCode else if orderKey f b < orderKey f a then b else a
def fpMax (f : FpFmt) (a b : Nat) : Nat :=
  if isNanCode f a || isNanCode f b then f.nanCode else if orderKey f a < orderKey f b then b else a

/-- An exact value rounded to an integer (R68, R75 `rnd_int`); `none` for NaN and infinities. -/
def roundInt (mode : RoundMode) (x : Fp) : Option Int :=
  match x with
  | .nan => none
  | .inf _ => none
  | .fin neg n e =>
    let k2 := if 0 ≤ e + 1 then n <<< (e + 1).toNat else n / 2 ^ (-(e + 1)).toNat
    let st := if 0 ≤ e + 1 then false else n % 2 ^ (-(e + 1)).toNat != 0
    let k := k2 / 2
    let k := k + b2n (roundsUp mode neg (k2 % 2 == 1) st (k % 2 == 1))
    some (if neg then -(k : Int) else (k : Int))

/-- Conversion to an integer range with clamping (R68): the value and whether it saturated. -/
def fpToInt (mode : RoundMode) (lo hi : Int) (x : Fp) : Int × Bool :=
  match x with
  | .nan => (0, true)
  | .inf neg => (if neg then lo else hi, true)
  | .fin neg n e =>
    let v := (roundInt mode (.fin neg n e)).getD 0
    if v < lo then (lo, true) else if hi < v then (hi, true) else (v, false)

def intToFp (i : Int) : Fp := .fin (i < 0) i.natAbs 0

/-! ### Reciprocal, reciprocal root and logarithm (R182) -/

/-- Integer square root by binary digits, from bit `k - 1` down. -/
def isqrtAux (n : Nat) : (k : Nat) → (r : Nat) → Nat
  | 0, r => r
  | k + 1, r => if (r + 2 ^ k) * (r + 2 ^ k) ≤ n then isqrtAux n k (r + 2 ^ k) else isqrtAux n k r

def isqrt (n : Nat) : Nat := isqrtAux n (Nat.log2 n / 2 + 1) 0

/-- 1/a rounded once, with the special inputs of R182. -/
def rcpFp (f : FpFmt) (mode : RoundMode) (a : Fp) : Nat :=
  match a with
  | .nan => f.nanCode
  | .inf s => signBit f s
  | .fin s n e => if n = 0 then signBit f s + f.infCode.getD 0 else (roundQuot f mode s 1 n (-e) false).1

/-- 1/√a rounded once, with the special inputs of R182. -/
def rsqrtFp (f : FpFmt) (mode : RoundMode) (a : Fp) : Nat :=
  match a with
  | .nan => f.nanCode
  | .inf s => if s then f.nanCode else 0
  | .fin s n e =>
    if n = 0 then signBit f s + f.infCode.getD 0
    else if s then f.nanCode
    else
      -- 1/√(n·2^e) = √(2^(2k) / (n·2^e)) / 2^k with enough bits k, and a sticky bit
      let k : Int := 80 + (max e 0)
      let num := if e ≤ 2 * k then 2 ^ (2 * k - e).toNat else 1
      let r := isqrt (num / n)
      (roundQuot f mode false r 1 (-k) (decide (r * r * n ≠ num))).1

/-- The first `k` binary digits of log2 of x/2^prec, 1 ≤ x/2^prec < 2, by repeated squaring. -/
def log2Digits (prec : Nat) : (k : Nat) → (x : Nat) → (acc : Nat) → Nat
  | 0, _, acc => acc
  | k + 1, x, acc =>
    let y := (x * x) >>> prec
    if y < 2 ^ (prec + 1) then log2Digits prec k y (2 * acc) else log2Digits prec k (y >>> 1) (2 * acc + 1)

/-- log2 a rounded once, with the special inputs of R182. A logarithm that is no integer is
irrational, so its first 160 digits and a sticky bit decide the rounding (DEDUCED, log entry 10). -/
def log2Fp (f : FpFmt) (mode : RoundMode) (a : Fp) : Nat :=
  match a with
  | .nan => f.nanCode
  | .inf s => if s then f.nanCode else f.infCode.getD 0
  | .fin s n e =>
    if n = 0 then signBit f true + f.infCode.getD 0
    else if s then f.nanCode
    else
      let l := Nat.log2 n
      let ip : Int := l + e
      if n = 2 ^ l then (encodeFp f mode (intToFp ip)).1
      else
        let digits := log2Digits 400 160 (n <<< (400 - l)) 0
        let v : Int := ip * (2 ^ 160 : Nat) + digits
        if 0 ≤ v then (roundQuot f mode false v.toNat 1 (-160) true).1
        else (roundQuot f mode true ((-v).toNat - 1) 1 (-160) true).1

/-! ### The exponential (R88, R89) -/

/-- T[j] = 2^(j/64) rounded RNE to FP32, the 64 values of R88. -/
def exp2Table : List Nat :=
  [0x3F800000, 0x3F8164D2, 0x3F82CD87, 0x3F843A29, 0x3F85AAC3, 0x3F871F62, 0x3F88980F, 0x3F8A14D5,
   0x3F8B95C2, 0x3F8D1ADF, 0x3F8EA43A, 0x3F9031DC, 0x3F91C3D3, 0x3F935A2B, 0x3F94F4F0, 0x3F96942D] ++
  [0x3F9837F0, 0x3F99E046, 0x3F9B8D3A, 0x3F9D3EDA, 0x3F9EF532, 0x3FA0B051, 0x3FA27043, 0x3FA43516,
   0x3FA5FED7, 0x3FA7CD94, 0x3FA9A15B, 0x3FAB7A3A, 0x3FAD583F, 0x3FAF3B79, 0x3FB123F6, 0x3FB311C4] ++
  [0x3FB504F3, 0x3FB6FD92, 0x3FB8FBAF, 0x3FBAFF5B, 0x3FBD08A4, 0x3FBF179A, 0x3FC12C4D, 0x3FC346CD,
   0x3FC5672A, 0x3FC78D75, 0x3FC9B9BE, 0x3FCBEC15, 0x3FCE248C, 0x3FD06334, 0x3FD2A81E, 0x3FD4F35B] ++
  [0x3FD744FD, 0x3FD99D16, 0x3FDBFBB8, 0x3FDE60F5, 0x3FE0CCDF, 0x3FE33F89, 0x3FE5B907, 0x3FE8396A,
   0x3FEAC0C7, 0x3FED4F30, 0x3FEFE4BA, 0x3FF28177, 0x3FF5257D, 0x3FF7D0DF, 0x3FFA83B3, 0x3FFD3E0C]

def f32One : Nat := 0x3F800000
def f32Inf : Nat := 0x7F800000
def f32NegInf : Nat := 0xFF800000
def f32Nan : Nat := 0x7FC00000

/-- `EXP2` of R88, step by step. -/
def exp2F32 (x : Nat) : Nat :=
  match dF32 x with
  | .nan => f32Nan
  | .inf neg => if neg then 0 else f32Inf
  | .fin neg n e =>
    if valueKey fmtF32 x ≥ 0x43000000 then f32Inf            -- x ≥ 128
    else if valueKey fmtF32 x ≤ -0x43160000 then 0           -- x ≤ −150
    else
      let t : Int := (roundInt .rne (.fin neg n (e + 6))).getD 0
      let nn : Int := t / 64
      let j := (t % 64).toNat
      let fr := addFp .rne (.fin neg n e) (.fin (decide (0 < t)) t.natAbs (-6))
      let fc := rF32 .rne fr
      let p := f32Add 0x3E75FDF0 (f32Mul fc 0x3D635847)
      let p := f32Add 0x3F317218 (f32Mul fc p)
      let p := f32Add f32One (f32Mul fc p)
      let y := f32Mul (exp2Table.getD j 0) p
      match dF32 y with
      | .fin s m g => rF32 .rne (.fin s m (g + nn))
      | other => rF32 .rne other

/-- `EXP` of R89. -/
def expF32 (x : Nat) : Nat := exp2F32 (f32Mul x 0x3FB8AA3B)

/-! ### Statistics triples (R85 to R87) -/

/-- A statistics triple (R85), as FP32 codes. -/
structure Triple where
  w : Nat
  mean : Nat
  m2 : Nat
  deriving DecidableEq, Repr

def Triple.empty : Triple := ⟨0, 0, 0⟩

/-- A triple is empty when `W` is +0 or −0 (R85). -/
def Triple.isEmpty (t : Triple) : Bool := isZeroCode fmtF32 t.w

/-- One sample x of weight w added to a triple (R86). -/
def Triple.update (t : Triple) (x w : Nat) : Triple :=
  if isZeroCode fmtF32 w then t
  else
    let w1 := f32Add t.w w
    if isZeroCode fmtF32 w1 then .empty
    else
      let d := f32Sub x t.mean
      let q := f32Div w w1
      let mu1 := f32Add t.mean (f32Mul d q)
      let u := f32Mul (f32Mul w d) (f32Sub x mu1)
      ⟨w1, mu1, f32Add t.m2 u⟩

/-- Triple a merged with triple b, a the left operand (R87). -/
def Triple.merge (a b : Triple) : Triple :=
  if a.isEmpty && b.isEmpty then .empty
  else if a.isEmpty then b
  else if b.isEmpty then a
  else
    let w := f32Add a.w b.w
    if isZeroCode fmtF32 w then .empty
    else
      let d := f32Sub b.mean a.mean
      let mu := f32Add a.mean (f32Mul d (f32Div b.w w))
      let f := f32Div (f32Mul a.w b.w) w
      ⟨w, mu, f32Add (f32Add a.m2 b.m2) (f32Mul (f32Mul d d) f)⟩

/-! ### The softmax-combine triple (R90) -/

/-- A softmax record: m, s and the elements of o. -/
structure Softmax where
  m : Nat
  s : Nat
  o : List Nat
  deriving DecidableEq, Repr

/-- Record a merged with record b (R90). -/
def Softmax.merge (a b : Softmax) : Softmax :=
  if a.m = f32NegInf && b.m = f32NegInf then ⟨f32NegInf, 0, a.o.map (fun _ => 0)⟩
  else if a.m = f32NegInf then b
  else if b.m = f32NegInf then a
  else
    let m := fpMax fmtF32 a.m b.m
    let fa := expF32 (f32Sub a.m m)
    let fb := expF32 (f32Sub b.m m)
    ⟨m, f32Add (f32Mul a.s fa) (f32Mul b.s fb),
     List.zipWith (fun x y => f32Add (f32Mul x fa) (f32Mul y fb)) a.o b.o⟩

/-! ### S4O (R73 to R76) -/

/-- The integer that a nibble beside an outlier marker stands for (R74). -/
def s4oOutlier (h : Nat) : Int :=
  (if bit h 3 then -1 else 1) * ((2 ^ (h % 8 + 4) : Nat) : Int)

/-- A pair decoded to integers (R74, R83). -/
def s4oPair (lo hi : Nat) : Int × Int :=
  if lo ≠ 8 && hi ≠ 8 then (sext lo 4, sext hi 4)
  else if lo = 8 && hi = 8 then (0, 0)
  else if lo = 8 then (s4oOutlier hi, 0)
  else (0, s4oOutlier lo)

/-- The integer of linear element `i` of a packed S4O block (R74). -/
def s4oAt (v : Nat) (i : Nat) : Int :=
  let p := s4oPair (elem 4 v (i / 2 * 2)) (elem 4 v (i / 2 * 2 + 1))
  if i % 2 = 0 then p.1 else p.2

/-- Linear element `i` of a packed S4O block reads +0 whatever its scale: given up or absent (R74). -/
def s4oPlus (v : Nat) (i : Nat) : Bool :=
  (elem 4 v (i / 2 * 2) == 8 || elem 4 v (i / 2 * 2 + 1) == 8) && s4oAt v i == 0

/-- `near_e` of R75 on the magnitude code of an FP32. -/
def nearE (mag : Nat) : Nat :=
  (((List.range 7).filter (fun e => decide (mag ≤ (131 + e) * 2 ^ 23 + 0x400000))).head?).getD 7

/-- `rnd_int` of R75 for an FP32 code that is no NaN; an infinity gives a number beyond every range. -/
def s4oRnd (mode : RoundMode) (y : Nat) : Int :=
  match dF32 y with
  | .inf neg => if neg then -(2 ^ 200 : Nat) else (2 ^ 200 : Nat)
  | other => (roundInt mode other).getD 0

/-- The S4O encoding of a pair of FP32 inputs with block scale s (R75): two nibbles and the saturations counted. R75 states
no value of `rnd_int` for a NaN quotient of inputs that are no NaN (zero by zero, infinity by infinity, a NaN scale): what
such a pair gives is a free value (DESIGN CHOICE, log entry 104). -/
def s4oEncode (mode : RoundMode) (s a b : Nat) : Nat × Nat × Nat :=
  if isNan32 a && isNan32 b then (8, 8, 0)
  else
    let ya := if isNan32 a then 0 else f32Div a s
    let yb := if isNan32 b then 0 else f32Div b s
    let sat := b2n (isNan32 a) + b2n (isNan32 b)
    let na := s4oRnd mode ya
    let nb := s4oRnd mode yb
    let bigA := decide (8 ≤ na.natAbs)
    let bigB := decide (8 ≤ nb.natAbs)
    if isNan32 ya || isNan32 yb then
      let f := Config.s4oPair s a b
      (f % 16, f / 16 % 16, f / 256 % 4)
    else if !bigA && !bigB then (wrapTo 4 na, wrapTo 4 nb, sat)
    else
      let magA := ya % 2 ^ 31
      let magB := yb % 2 ^ 31
      let first := bigA && (!bigB || decide (magB ≤ magA))
      let yo := if first then ya else yb
      let nk := if first then nb else na
      let bigK := if first then bigB else bigA
      let magO := yo % 2 ^ 31
      let e := nearE magO
      let sat := sat + b2n (decide (0x45000000 < magO))
      if bit yo 31 && e = 0 then
        let ck := wrapTo 4 (max (-7) (min 7 nk))
        let sat := sat + 1 + b2n bigK
        if first then (9, ck, sat) else (ck, 9, sat)
      else
        let h := b2n (bit yo 31) * 8 + e
        let sat := sat + b2n (decide (nk ≠ 0))
        if first then (8, h, sat) else (h, 8, sat)

/-- The S4O encoding of a linear block (R75, R76): nibbles in order and the saturations. -/
def s4oBlock (mode : RoundMode) (s : Nat) : List Nat → List Nat × Nat
  | [] => ([], 0)
  | [a] => let p := s4oEncode mode s a 0; ([p.1, p.2.1], p.2.2)
  | a :: b :: r =>
    let p := s4oEncode mode s a b
    let q := s4oBlock mode s r
    (p.1 :: p.2.1 :: q.1, p.2.2 + q.2)

end Sys2Proof.Machine
end

