-- ==== Sys2Proof/Machine/State.lean ====
section
/-!
DEFINITION. The state of one AE-8768 package as its one modelled core sees it: plain data only.
Every register, queue, table and memory the manual names has its field here; `State.reset` is the
package right after reset (R428).
-/
namespace Sys2Proof.Machine

/-! ### Memory -/

/-- A byte-addressed store: the bytes that are not zero, addresses strictly rising, and the 32-byte
sectors (address / 32, strictly rising) that carry the poison mark of R127. -/
structure Mem where
  cells : List Host.Cell := []
  poison : List Nat := []
  deriving DecidableEq, Repr

/-! ### The core -/

/-- The mark a load leaves on its destination, raised by the first reader (R127, R308). -/
inductive Mark where
  | clean
  | poison (addr : Word)
  | fabric (cause : Byte) (val : Word)
  deriving DecidableEq, Repr

/-- A statistics register: 128 triples of weight, mean and sum of squares, FP32 each (R197). -/
structure Stat where
  w : VWord := 0
  m : VWord := 0
  q : VWord := 0
  deriving DecidableEq, Repr

/-- The status word `SW` (R43); `VBUSY` is computed from the vector unit. -/
structure StatusWord where
  causeDetail : Byte := 0
  envOpen : Bool := false
  step : Bool := false
  priv : Bool := true
  ie : Bool := false
  cause : Byte := 0
  srfv : Bool := false
  srf : Fin 8 := 0
  deriving DecidableEq, Repr

/-- Where a result lands: a register, or an entry reserved in a quad queue (R35, R96, R137). -/
inductive Dest where
  | x (r : XReg)
  | p (r : PReg)
  | v (r : VReg)
  | m (r : MReg)
  | g (r : GReg)
  | queue (q : Fin 16) (entry : Nat)
  deriving DecidableEq, Repr

/-- An exposed result in flight (R34); `due` is the schedule clock from which it is readable, or,
in a held level, the distance d of R400. -/
structure Landing where
  dst : Dest
  val : Nat
  mark : Mark := .clean
  due : Nat
  /-- It belongs to the vector unit (R168), and the saturations it adds to `VQSTAT` (R172). -/
  vec : Bool := false
  sat : Nat := 0
  deriving DecidableEq, Repr

/-- A scoreboarded result not yet written (R35). `val` is none while a unit has still to supply it,
`due` is none until the clock of its writing is known. -/
structure Pending where
  id : Nat
  dst : Dest
  val : Option Nat
  mark : Mark := .clean
  due : Option Nat
  vec : Bool := false
  sat : Nat := 0
  absent : Nat := 0
  deriving DecidableEq, Repr

/-- An entry of a quad queue or of the completion queue; reserved and unfilled while `val` is none (R96). -/
structure QEntry where
  id : Nat := 0
  val : Option Word
  mark : Mark := .clean
  deriving DecidableEq, Repr

/-- A value popped at issue for syllable `idx` (R41, R96). -/
structure Pop where
  idx : Nat
  port : Fin 4
  val : Word
  mark : Mark := .clean
  deriving DecidableEq, Repr

/-- An entry reserved at issue for syllable `idx` (R96). -/
structure Push where
  idx : Nat
  port : Fin 4
  queue : Fin 16
  entry : Nat
  deriving DecidableEq, Repr

/-- How a split bundle had issued: the bindings of the ports, the counts of `QCOUNT`, `PRIV`, and the control registers
that its `CSRR`s and `CSRW`s name (R37, R63, R106, R413, R417). -/
structure SplitView where
  qmap : Vector Word 4
  counts : Vector Word 4
  priv : Bool
  csr : List (Nat × Word)
  deriving DecidableEq, Repr

/-- What a trap sets aside (R96, R400): exposed writes with their distances, held pops and reservations, and how a
bundle that it splits had issued. -/
structure HeldLevel where
  writes : List Landing := []
  pops : List Pop := []
  pushes : List Push := []
  /-- How the bundle that it splits had issued. -/
  split : Option SplitView := none
  deriving DecidableEq, Repr

/-- What the core is doing: without a task, running, or halted with `DBGSTAT.WHY` (R375, R408). -/
inductive RunState where
  | idle
  | running
  | halted (why : Fin 5)
  deriving DecidableEq, Repr

/-- The tile task or exchange task bound to the core (R375, R376, R381, R394). -/
structure Task where
  lnum : Nat
  node : Nat
  ticket : Nat
  count : Nat := 1
  xchg : Bool := false
  /-- The tag of its staged writes; a task begun in place by `TKT` has a tag of its own. -/
  tag : Nat := 0
  etaSet : Nat := 0
  etaAge : Nat := 0
  age : Nat := 0
  drain : Bool := false
  /-- It has done one of the things that end restartability (R382). -/
  spoiled : Bool := false
  /-- The clock of its binding (R377). -/
  boundAt : Nat := 0
  deriving DecidableEq, Repr

/-- What one grant of the QS crossbar does: nothing but pass operands (R173); read units into the result at byte
positions; write units; an atomic (R161, R163); an update or a sample of a barrier word (R248, R252). Addresses are OC
addresses. -/
inductive QsDo where
  | pass
  | read (units : List (Nat × Nat × Nat))
  | write (units : List (Nat × List Byte)) (poison : Bool)
  | amo (oc n : Nat) (op : AmoOp) (v swapIn : Nat)
  | update (oc n : Nat) (e : Int)
  | test (oc phase : Nat)
  deriving DecidableEq, Repr

/-- What a request is part of: an ordinary access, a barrier word's update or sample, a permute or shuffle, a gather or
scatter, a statistics image in QS or in LS. -/
inductive QsKind where
  | access
  | barrier
  | permute
  | gather
  | imageQs
  | imageLs
  deriving DecidableEq, Repr

/-- A request of the core that waits for grants of the QS crossbar (R122, R173, R192, R210): the banks that each grant
still to come takes and what it does; `id` names the result it supplies. -/
structure QsReq where
  id : Nat
  kind : QsKind := .access
  parts : List (BitVec 32 × QsDo)
  /-- What its reads have given so far, whether some of it is poisoned, and the address that a mark reports. -/
  got : Nat := 0
  poison : Bool := false
  addr : Word := 0
  /-- Clocks from its last grant to its result. -/
  after : Nat := 0
  /-- The clock from which it may be granted; none while it waits for its turn in the VX unit (R195), which does not come
  before the end of its check (R192). -/
  start : Option Nat := none
  notBefore : Nat := 0
  /-- It is a VX command's request (R195). -/
  vx : Bool := false
  deriving DecidableEq, Repr

/-- A VX command that has issued and waits for the one before it (R195): its results and clocks, or the request that
takes the crossbar. -/
structure VxCmd where
  ids : List Nat
  clocks : Nat := 0
  request : Option Nat := none
  deriving DecidableEq, Repr

/-- A scalar access to QS (R122): OC address, bytes, whether it writes, and whether it has its grant on this clock. -/
structure QsScalar where
  oc : Nat
  n : Nat
  wr : Bool
  granted : Bool := false
  deriving DecidableEq, Repr

/-- The vector unit's control registers, command queue and crossbar requests (R122, R167, R172, R173, R195). -/
structure VecUnit where
  vcfg : Word := 0
  qwait : Word := 0
  vqstat : Word := 0
  /-- Entries of the command queue: the command or access each waits for, or the clock its access is performed. -/
  queue : List (Nat × Option Nat) := []
  /-- The clock on which the last VX command finishes, when no command of the crossbar is between. -/
  vxEnd : Nat := 0
  vxWait : List VxCmd := []
  /-- The core's requests in program order. -/
  qs : List QsReq := []
  scalar : Option QsScalar := none
  /-- What the engines ask the crossbar for on this clock, those of them that were granted, the requester last served,
  and whether `QWAIT` has counted the clock. -/
  asks : List (Nat × BitVec 32) := []
  won : List Nat := []
  last : Nat := 0
  counted : Bool := false
  /-- The LS banks that the core has used on this clock (R119). -/
  lsTaken : BitVec 32 := 0
  /-- A `.chk` load that holds the core: the request or the clock it waits for (R143). -/
  chk : Option (Nat × Nat) := none
  deriving DecidableEq, Repr

/-- The kinds of matrix operation (R214). -/
inductive MxKind where
  | mma | mmat | mmag | mzero | mldc | mbwr | mdrain
  deriving DecidableEq, Repr

/-- An armed perturbation (R235), and the order number of the operation it will change once one has been issued. -/
structure Pert where
  tile : Nat
  row : Nat
  col : Nat
  val : Nat
  op : Option Nat := none
  deriving DecidableEq, Repr

/-- A queued matrix operation (R214, R224): its operands as captured at issue, the ranges it holds and
the clock of its start. -/
structure MxOp where
  kind : MxKind
  tile : Nat
  fmt : ElemTy := .f32
  addr : Nat := 0
  panel : Nat := 0
  /-- `.z` or `.clr`. -/
  z : Bool := false
  /-- `.mixb` or `.bias`. -/
  w : Bool := false
  /-- `.stat`. -/
  stat : Bool := false
  desc : Word := 0
  /-- The operand block read at issue, lowest byte in the low bits, and whether it was poisoned. -/
  block : Nat := 0
  poison : Bool := false
  issued : Nat := 0
  order : Nat := 0
  start : Option Nat := none
  /-- What an `MDRAIN` has read of its tile, and the tile's mark (R232). -/
  drained : Option (Nat × Bool) := none
  /-- The trailer check of an `MBWR.chk` fails (R231). -/
  bad : Bool := false
  /-- Its last step has been taken and its tile written. -/
  done : Bool := false
  deriving DecidableEq, Repr

/-- The matrix unit (R214 to R236): both queues, the B store with its panels, tile marks. -/
structure Matrix where
  msat : Word := 0
  array : List MxOp := []
  transfer : List MxOp := []
  bstore : Mem := {}
  panels : BitVec 128 := 0
  panelPoison : BitVec 128 := 0
  tilePoison : BitVec 32 := 0
  pert : Option Pert := none
  /-- The `MBWR.chk` that holds the core: its order number, and whether its check fails (R231). -/
  chk : Option (Nat × Bool) := none
  order : Nat := 0
  /-- The clock from which each queue may start its next operation. -/
  arrayEnd : Nat := 0
  transferEnd : Nat := 0
  deriving DecidableEq, Repr

/-- An `XLINV` under way (R416): the pending result, k, its operand and the translations removed. -/
structure InvReq where
  id : Option Nat
  kind : Nat
  val : Word
  count : Nat
  deriving DecidableEq, Repr

/-- The control core, its register files and its control registers (R9, R38, R42, R397). -/
structure Core where
  x : Vector Word 32 := Vector.replicate 32 0
  xmark : Vector Mark 32 := Vector.replicate 32 .clean
  p : BitVec 8 := 1
  v : Vector VWord 32 := Vector.replicate 32 0
  vmark : Vector Mark 32 := Vector.replicate 32 .clean
  m : Vector MWord 8 := Vector.replicate 8 0
  g : Vector Stat 16 := Vector.replicate 16 {}
  gmark : Vector Mark 16 := Vector.replicate 16 .clean
  pc : CodeAddr := 0
  sw : StatusWord := {}
  trapPc : CodeAddr := 0
  trapVal : Word := 0
  trapVec : CodeAddr := 0
  trapSw : Word := 0
  trapScr : Word := 0
  qmap : Vector Word 4 := Vector.replicate 4 0
  envExpect : BitVec 16 := 0
  envCount : BitVec 16 := 0
  envCrcExpect : BitVec 32 := 0
  envCrc : BitVec 32 := 0
  envFlip : Bool := false
  cptBase : Word := 0
  bteErr : Word := 0
  rngCfg : Vector Word 16 := Vector.replicate 16 0
  rngCnt : Vector Word 16 := Vector.replicate 16 0
  /-- The program time of R147. -/
  pt : Nat := 0
  run : RunState := .idle
  /-- A trap has been entered and its handler's first bundle not yet fetched (R398). -/
  entering : Bool := false
  task : Option Task := none
  /-- The bundle being executed, at `pc`: its syllables and the index of the next one to commit. -/
  bundle : List Syllable := []
  idx : Nat := 0
  lx : Option (BitVec 27) := none
  pops : List Pop := []
  pushes : List Push := []
  /-- What `QCOUNT` of each port gives in this bundle: the queues before its own pops and pushes (R106). -/
  counts : Vector Word 4 := Vector.replicate 4 0
  /-- The `QMAPn` bindings in force when the bundle issued (R41, R417). -/
  qmapAt : Vector Word 4 := Vector.replicate 4 0
  /-- `SW.PRIV` as the bundle issued (R63). -/
  privAt : Bool := true
  /-- The control registers that the bundle's `CSRR`s and `CSRW`s name, as they stood when it issued (R413). -/
  csrAt : List (Nat × Word) := []
  /-- Target and bubble clocks of a branch taken in the bundle (R92). -/
  target : Option (CodeAddr × Nat) := none
  /-- The clock at which the syllable at `idx` began to wait, and what it waits for. -/
  waiting : Option (Nat × Nat) := none
  /-- A syllable of the bundle has waited: the next bundle issues on the clock on which that wait ends. -/
  waited : Bool := false
  /-- Index from which `RFT` with `SRFV` = 1 resumes the next bundle (R412). -/
  resume : Option Nat := none
  /-- Schedule clocks owed before the next issue: one, and the bubbles of R92. -/
  owed : Nat := 0
  /-- Stall clocks owed before the core is looked at again (R91). -/
  held : Nat := 0
  /-- A bundle has been committed since `STEP` was last looked at (R43, R115). -/
  stepped : Bool := false
  /-- A debugger asked for one step of the halted core (R408). -/
  stepOnce : Bool := false
  sched : Nat := 0
  exposed : List Landing := []
  levels : List HeldLevel := []
  board : List Pending := []
  completions : List QEntry := []
  nextId : Nat := 1
  /-- The clock at which the divider has written its result (R101). -/
  divBusy : Nat := 0
  haltAsked : Bool := false
  preempt : Option Nat := none
  /-- The task that begins in place at the next bundle (R386). -/
  nextTask : Option Task := none
  /-- A checkpoint has been decided and waits: the engines start nothing new (R259, R277, R313). -/
  spilling : Bool := false
  /-- `XLINV`s that wait for engines to let a page go (R135, R416). -/
  inv : List InvReq := []
  /-- HM stores not yet visible to host agents, oldest first, with the mark of what they store (R127, R159). -/
  hmOrder : List (Nat × List Byte × Bool) := []
  /-- A `CWB` or `CINV` not yet complete (R140). -/
  rangeBusy : Bool := false
  /-- Layer states of R409: LS and ACC, B store. -/
  lsLayer : Fin 4 := 0
  /-- An engine access has woken a sleeping LS until this clock (R420). -/
  lsWake : Nat := 0
  bLayer : Fin 4 := 0
  /-- The launch whose task the core last ran (R375). -/
  lastLaunch : Nat := 0
  vu : VecUnit := {}
  mx : Matrix := {}
  deriving DecidableEq, Repr

/-- A page that an engine's command has translated (R135, R241): its GM page, the size and rights of the leaf, and the
DPA of its 4 KiB unit. -/
structure HeldPage where
  page : Nat
  size : Nat := 4096
  dpa : Nat
  rights : BitVec 4 := 15
  deriving DecidableEq, Repr

/-! ### The row engine ports -/

/-- A row operation (R267, R278): op, addresses or pattern, descriptor, issuer and progress. -/
structure RowOp where
  op : Nat
  dst : Word
  a : Word
  b : Word
  desc : Word
  lnum : Nat := 0
  node : Nat := 0
  tag : Nat := 0
  priv : Bool := false
  k : Nat := 0
  pages : List HeldPage := []
  fallback : Bool := false
  poison : Bool := false
  staged : Bool := false
  /-- The clock before which the next step does not begin, and the operand runs of the step that ends on it. -/
  ready : Nat := 0
  runs : List (Nat × Nat) := []
  /-- The clock on which the next step reached its banks, while it waits for them (R266). -/
  reached : Option Nat := none
  started : Bool := false
  armed : Bool := false
  accepted : Nat := 0
  deriving DecidableEq, Repr

/-- A row engine port (R266). -/
structure RowPort where
  queue : List RowOp := []
  post : List Word := []
  deriving DecidableEq, Repr

/-- A `ROWQ` whose answer waits for a translation (R135, R274). -/
structure RowAsk where
  id : Nat
  a : Word
  b : Word
  issued : Nat
  priv : Bool
  deriving DecidableEq, Repr

/-- The row engines: the core's ports; and of the banks, as 512 × stack + bank, the clock at which a refresh ends, the
refreshes postponed with the clock on which the first of them fell due, the 16 rows last activated (R276); the bitwise
regions, as 8 × stack + number, whose disabling waits (R265). -/
structure Rows where
  ports : List (Nat × RowPort) := []
  refresh : List (Nat × Nat) := []
  postponed : List (Nat × Nat × Nat) := []
  recent : List (Nat × List Nat) := []
  disabling : List Nat := []
  asks : List RowAsk := []
  deriving DecidableEq, Repr

/-! ### The Tether fabric -/

/-- A packet as its stream carries it (R284): the fields that no hop changes. -/
structure Packet where
  typ : Nat
  cls : Nat
  src : Nat
  dst : Nat
  sseq : Nat := 0
  launch : Nat := 0
  rspace : Nat := 0
  psn : Nat := 0
  aux : Nat := 0
  addr : Nat := 0
  pay : List Sector := []
  deriving DecidableEq, Repr

/-- A packet waiting for a lane (R287): the dimension and coordinate of its next hop, the pinned lane of
its first hop, and the clock before which it does not leave. -/
structure TxItem where
  pkt : Packet
  dim : Nat
  peer : Nat
  pin : Option Nat := none
  ready : Nat := 0
  deriving DecidableEq, Repr

/-- A packet sent and not yet covered by `ACKSEQ` (R288), with the slot of its last sending; `fate` is what the link
injector did to it: 0 nothing, 1 corrupted, 2 dropped, 3 delayed (R299). -/
structure Sent where
  pkt : Packet
  dim : Nat
  plane : Nat
  peer : Nat
  lseq : Nat
  slot : Nat
  /-- The credits it returns: `CRED` and `CCRED` (R284, R285). -/
  cred : Nat := 0
  ccred : Nat := 0
  /-- It waits to be replayed (R288). -/
  again : Bool := false
  fate : Nat := 0
  /-- The clock before which the injector holds it (R299). -/
  later : Option Nat := none
  /-- Its flits as they left on the lane, header first; none while the injector withholds it (R284, R299). -/
  wire : List Sector := []
  deriving DecidableEq, Repr

/-- One (dimension, plane, peer) (R285, R288, R311). -/
structure Link where
  credit : Nat := 16
  txLseq : Nat := 0
  rxLseq : Nat := 0
  nak : Bool := false
  /-- An acknowledgement of received packets is due to the peer (R285, R288), and credits to return. -/
  ackDue : Bool := false
  owed : Nat := 0
  sent : Nat := 0
  replays : Nat := 0
  suspended : Bool := false
  deriving DecidableEq, Repr

/-- A receive entry (R285, R287); `id` names it, `reserve` marks the reserve entry of its stream. -/
structure RxEntry where
  id : Nat
  dim : Nat
  plane : Nat
  peer : Nat
  pkt : Packet
  reserve : Bool := false
  deriving DecidableEq, Repr

/-- A command of a Tether port (R302, R304, R306). -/
structure FabCmd where
  op : Nat
  desc : Nat
  laddr : Nat := 0
  raddr : Nat := 0
  bar : Nat := 0
  mask : Nat := 0
  flag : Bool := false
  armed : Bool := false
  pin : Option Nat := none
  order : Nat := 0
  accepted : Nat := 0
  lnum : Nat := 0
  node : Nat := 0
  tag : Nat := 0
  priv : Bool := false
  /-- The tag, first ticket and superstep of the task that gave the command, which a kill leaves (R290, R313). -/
  owner : Nat := 0
  ticket : Nat := 0
  superstep : Nat := 0
  deriving DecidableEq, Repr

/-- A packet of a command that awaits its acknowledgement or response: stream, number, sectors, local
destination of a read. -/
structure Await where
  dst : Nat
  cls : Nat
  sseq : Nat
  nsect : Nat
  addr : Nat := 0
  deriving DecidableEq, Repr

/-- A running fabric command (R306, R307): the members still to serve, the next sector, what is awaited. -/
structure FabActive where
  cmd : FabCmd
  targets : List Nat
  next : Nat := 0
  sent : Bool := false
  /-- The packets of it that have been formed (R313). -/
  formed : Nat := 0
  awaiting : List Await := []
  performed : Nat := 0
  /-- Of an `FMCAST`: the sectors that each member has performed (R307). -/
  tally : List (Nat × Nat) := []
  /-- Members that failed, with their causes. -/
  bad : List (Nat × Nat) := []
  poison : Bool := false
  replayed : Bool := false
  /-- GM pages translated so far. -/
  pages : List HeldPage := []
  deriving DecidableEq, Repr

/-- A Tether port (R302, R309): its queue, and the failures since its last wait. -/
structure FabPort where
  queue : List FabCmd := []
  active : Option FabActive := none
  post : List Word := []
  failed : Nat := 0
  deriving DecidableEq, Repr

/-- A pod-scope SC operation at its issuer (R157, R308): where it goes, whether it waits for a slot, and the
result or port that waits for it. -/
structure ScOut where
  pkt : Packet
  slot : Option Nat := none
  result : Option Nat := none
  port : Option Nat := none
  /-- The pinned lane of an `FWRS.sc` (R301). -/
  pin : Option Nat := none
  xa : Word := 0
  since : Nat := 0
  deriving DecidableEq, Repr

/-- A pod-scope SC operation at its home (R157): absolute slot, package, seat. -/
structure ScIn where
  slot : Nat
  pkg : Nat
  seat : Nat
  pkt : Packet
  deriving DecidableEq, Repr

/-- A signal identity applied to a live barrier (R290): the Tether unit that keeps it, the barrier's 16-byte unit and its
phase then. -/
structure SigEntry where
  dim : Nat
  unit : Nat
  phase : Nat
  ident : Nat
  deriving DecidableEq, Repr

/-- A proposed slot table (R296, R298): the turn it takes effect at, its entries as row × 64 + lane with the
line, the proposer's coordinate, and the members that have acknowledged. -/
structure Proposal where
  turn : Nat
  table : List (Nat × Nat)
  proposer : Nat
  own : Bool
  acks : BitVec 64 := 0
  /-- Of another member's: the pieces of its image that have come, and whether it has been loaded and acknowledged (R296). -/
  pieces : Nat := 0
  loaded : Bool := false
  /-- It came from `TUTBL` (R298), not from a repair. -/
  ordered : Bool := false
  deriving DecidableEq, Repr

/-- A Tether unit (R280, R292 to R298): entries of its slot table that differ from the default one, lost
lines, drifted lines, events, the proposal under way. -/
structure TetherUnit where
  table : List (Nat × Nat) := []
  /-- Lost lines, as comb × 128 + line. -/
  lost : List Nat := []
  drifted : List (Nat × Nat) := []
  deadCombs : List Nat := []
  events : List Word := []
  overflow : Bool := false
  proposal : Option Proposal := none
  /-- What waits for the proposal under way to end: a table of `TUTBL`, a repair (R295, R298). -/
  queued : Option (List (Nat × Nat)) := none
  repairDue : Bool := false
  deriving DecidableEq, Repr

/-- The wheel, the Tether units and the core's ports (R280 to R314). -/
structure Fabric where
  ftmo : Word := 64
  fpin : Word := 0
  /-- The absolute slot that began at clock `from_`; the local wheel, or the pod's (R21, R430). -/
  slot0 : Nat := 0
  from_ : Nat := 0
  units : Vector TetherUnit 3 := Vector.replicate 3 {}
  links : List (Nat × Link) := []
  /-- Per (dimension, peer): credits of the credited control entries, and those to return (R285). -/
  ctrl : List (Nat × (Nat × Nat)) := []
  txq : List TxItem := []
  unacked : List Sent := []
  rx : List RxEntry := []
  nextId : Nat := 0
  /-- Next stream numbers, by destination × 4 + class, and next expected ones by source × 4 + class (R286). -/
  txSeq : List (Nat × Nat) := []
  rxSeq : List (Nat × Nat) := []
  /-- Of streams that pass through: by (source × 2 ^ 17 + destination) × 4 + class, the number to be relayed next (R289). -/
  relaySeq : List (Nat × Nat) := []
  /-- Streams in which the packets up to the next command's first are dropped unperformed (R306). -/
  reject : List Nat := []
  /-- Flits on each lane in this slot, by dimension × 64 + lane (R287). -/
  flits : List (Nat × Nat) := []
  ports : List (Nat × FabPort) := []
  /-- By port: commands that have completed with `FABRIC_TIMEOUT` and whose reads may still be answered (R306). -/
  expired : List (Nat × FabActive) := []
  order : Nat := 0
  sc : Option ScOut := none
  scIn : List ScIn := []
  reports : List (Nat × (Nat × Nat)) := []
  scNext : Nat := 0
  signals : List SigEntry := []
  /-- The signals that each tile task has sent, by its tag (R290). -/
  sigCount : List (Nat × Nat) := []
  /-- Packets dropped as misdelivered or as repeated signals. -/
  misdelivered : Nat := 0
  dupSignals : Nat := 0
  /-- Ring slots that arriving messages hold, by stream: ring, slot, sectors written (R306). -/
  messages : List (Nat × (Nat × (Nat × Nat))) := []
  deriving DecidableEq, Repr

/-! ### Replay units -/

/-- An accepted play (R336, R338). -/
structure Play where
  num : Nat
  bases : List Word
  word : Word
  armed : Bool := false
  lnum : Nat := 0
  node : Nat := 0
  tag : Nat := 0
  priv : Bool := false
  deriving DecidableEq, Repr

/-- Where a step stands (R323, R327). -/
inductive StepPhase where
  | waiting
  | active
  | done
  | released
  deriving DecidableEq, Repr

/-- A step in progress: the clock it became ready, sectors sent or combined, the bitmap a `SEND` carries, and
an accepted contribution with the sectors that have arrived (R323, R326). -/
structure StepState where
  phase : StepPhase := .waiting
  ready : Nat := 0
  moved : Nat := 0
  /-- The clock of a `SEND`'s lead, and the packets it awaits. -/
  leadAt : Option Nat := none
  awaiting : List Await := []
  accepted : Bool := false
  /-- Its data came too late: it combines nothing more (R327). -/
  cut : Bool := false
  bitmap : Nat := 0
  need : Nat := 0
  data : List (Nat × (Nat × Bool)) := []
  deriving DecidableEq, Repr

/-- A running instance (R322). -/
structure Instance where
  play : Play
  start : Nat
  counters : List Nat
  steps : List StepState
  status : Nat := 0
  poison : Bool := false
  /-- A released step or a `FIN` left a bitmap of fewer than N bits (R330). -/
  partial_ : Bool := false
  pages : List HeldPage := []
  deriving DecidableEq, Repr

/-- Where a reshelve stands (R332 to R335, R341): reading its descriptor, computing keys and histograms,
waiting for the peers' histograms, moving records. -/
inductive ReshelvePhase where
  | reading
  | counting
  | exchanging
  | moving
  deriving DecidableEq, Repr

/-- A reshelve (R332 to R335): its descriptor (or the address of it), its phase, the clock its phase ends or
began, the histogram sectors held by member x and offset, the records kept in overflow so far, the packets
that await acknowledgement by record. -/
structure Reshelve where
  desc : List Word
  phase : ReshelvePhase := .reading
  start : Nat
  lnum : Nat := 0
  node : Nat := 0
  tag : Nat := 0
  priv : Bool := false
  hist : List (Nat × List (Nat × Nat)) := []
  overs : List Nat := []
  awaiting : List Await := []
  /-- Records that the other members will send here, and those that have come. -/
  due : Nat := 0
  came : Nat := 0
  badw : Bool := false
  poison : Bool := false
  pages : List HeldPage := []
  deriving DecidableEq, Repr

/-- What `CONT` needs (R334, R335): the members' count histograms, the cost histogram H over all of them, the ranks of the
bins, the fill of each receiver, and the address and length of the unit's overflow list. -/
structure Kept where
  cost : List Nat
  counts : List (List Nat)
  ranks : List Nat
  fills : List Nat
  base : Nat
  overflow : Nat
  deriving DecidableEq, Repr

/-- A replay unit (R315 to R317, R331, R337, R341). -/
structure ReplayUnit where
  image : List Word := []
  /-- A background load: its image address, its user and the clock of its end. -/
  loading : Option (Nat × Nat) := none
  loadUser : Nat × Nat × Nat × Bool := (0, 0, 0, false)
  /-- The size of the image being loaded is known, and its clocks counted (R337). -/
  sized : Bool := false
  plays : List Play := []
  inst : Option Instance := none
  reshelve : Option Reshelve := none
  kept : Option Kept := none
  nextNum : Nat := 0
  lastStarted : Nat := 0
  last : Word := 0
  completed : Bool := false
  late : Nat := 0
  /-- Late drops of instances that have not started yet, by number. -/
  lateOf : List (Nat × Nat) := []
  dup : Nat := 0
  stray : Nat := 0
  released : Nat := 0
  bitmaps : List Nat := []
  overflow : Nat := 0
  received : Nat := 0
  /-- Contributions being received or dropped: source x, instance, step, sectors still to come, kept or not. -/
  streams : List (Nat × (Nat × (Nat × (Nat × Bool)))) := []
  post : List Word := []
  deriving DecidableEq, Repr

/-! ### The folio store -/

/-- A folio's storage (R347, R349): its names with their pin counts, its state, frame and far slot, and its
last-use clock; `ready` is the clock of the end of a recall, an eviction or a split. -/
structure Folio where
  names : List (Nat × Nat)
  state : Nat := 1
  frame : Nat := 0
  slot : Option Nat := none
  lastUse : Nat := 0
  ready : Nat := 0
  /-- Poisoned sectors of the far copy, as sector offsets in the folio (R349). -/
  farPoison : List Nat := []
  deriving DecidableEq, Repr

/-- A `FOPIN` that waits (R360): its result, name, deadline clock, tag, `.cq`, and the clock of its issue (R362). -/
structure PinWait where
  id : Option Nat
  name : Nat
  deadline : Option Nat
  tag : Nat
  cq : Bool
  issued : Nat := 0
  deriving DecidableEq, Repr

/-- The folio manager (R345 to R360). -/
structure FolioStore where
  folios : List Folio := []
  waits : List PinWait := []
  /-- The name at which the core's access last waited, and that clock (R349, R351). -/
  held : Option (Nat × Nat) := none
  /-- `FOFREE`s whose results wait for commands that have touched the name: the result and the name. -/
  frees : List (Option Nat × Nat) := []
  /-- Names that each started engine command has touched: command key and name (R357). -/
  touched : List (Nat × Nat) := []
  /-- The name at which each engine command's access waits (R349). -/
  stuck : List (Nat × Nat) := []
  /-- Results of FO syllables that have still to land: the name, and the clock (R363). -/
  results : List (Nat × Nat) := []
  /-- Completion words with the clocks from which they may be posted (R244, R360). -/
  post : List (Nat × Word) := []
  evictions : Nat := 0
  degraded : Nat := 0
  splits : Nat := 0
  deriving DecidableEq, Repr

/-! ### Host attachment, bring-up and service -/

/-- The platform (R422 to R437): flash banks, the removal list, the part-configuration record, the running
and staged images, requests of the security controller, interrupts fired, the matrix arrays' limit. -/
structure Platform where
  banks : List (List Byte) := [[], []]
  removal : List (Nat × Nat) := []
  record : List Byte := []
  running : Nat := 0
  fwAddr : Option Nat := none
  attAddr : Option Nat := none
  /-- MSI-X vectors fired, newest first (R427). -/
  msix : List Nat := []
  /-- Power or thermal limiting is on (R436), and the stacks above 85 °C (R276). -/
  limiting : Bool := false
  hot : BitVec 12 := 0
  /-- The clock from which the package runs at 1 GHz (R11, R430), the clocks for which its cores and engines are still held for
  that, and the pod turn that began with the clock given, while the pod's wheel has not been joined. -/
  fullAt : Option Nat := none
  hold : Nat := 0
  joining : Option (Nat × Nat) := none
  /-- Writes of host windows whose CXL.io completion is owed, each with the stores to host memory that it still waits for, and the
  number of completions returned (R425). -/
  ioWaits : List Nat := []
  ioDone : Nat := 0
  /-- Accepted CXL.mem requests that wait, by DPA, length and data to be stored (R426, R429). -/
  hostWaits : List (Nat × Nat × Option (List Byte)) := []
  /-- Combs that have locked and stacks that have failed in service (R430, R435). -/
  trained : BitVec 12 := 0
  failed : BitVec 12 := 0
  podSize : Nat := 8
  /-- Completer aborts answered and the data of the last host read (R423, R426). -/
  aborts : Nat := 0
  hostData : List Byte := []
  deriving DecidableEq, Repr


/-! ### Block transfers, rings and the engine blocks -/

/-- A command of a channel's queue (R240, R246): its template index, its base delta in bytes, whether
it takes the armed shadow set, and the task it works for. -/
structure Cmd where
  index : Nat
  delta : Int
  armed : Bool := false
  lnum : Nat := 0
  node : Nat := 0
  tag : Nat := 0
  priv : Bool := false
  /-- The clock of its acceptance. -/
  accepted : Nat := 0
  deriving DecidableEq, Repr

/-- A started command (R241): template words, next sector, slots claimed, window rows. While it is `loading` it waits for
its template (R261); `lost` says that its ring has been disabled (R253). -/
structure Active where
  cmd : Cmd
  words : List Word
  loading : Bool := false
  /-- `CPTBASE` as it stood when the command started (R241, R260). -/
  table : Word := 0
  lost : Bool := false
  next : Nat := 0
  total : Nat
  left : Nat
  slow : Bool := false
  poison : Bool := false
  slots : List Nat := []
  fetchTo : Nat := 0
  released : Nat := 0
  /-- GM pages translated so far: virtual page, physical page. -/
  pages : List HeldPage := []
  ready : Nat := 0
  deriving DecidableEq, Repr

/-- A block-transfer channel (R237, R240, R244). -/
structure Channel where
  queue : List Cmd := []
  active : Option Active := none
  /-- It is in window mode (R240, R256). -/
  window : Bool := false
  /-- Completion words that wait for room in the completion queue. -/
  post : List Word := []
  deriving DecidableEq, Repr

/-- The core's engine state (R237 to R263): channels, engine registers by 64 × engine + number, the
armed shadow sets, ring claim positions and slots filled out of order. -/
structure Bte where
  chan : List (Nat × Channel) := []
  eregs : List (Nat × Word) := []
  armed : List Nat := []
  claim : Vector Nat 16 := Vector.replicate 16 0
  /-- Slots filled and not yet counted by `TAIL`, as 256 × ring + slot. -/
  full : List Nat := []
  /-- The channel that last moved a sector of LS or QS (R237; a field of the model, DESIGN CHOICE, log entry 100). -/
  last : Nat := 0
  /-- Granules, and the register file, that an `OWNC` waits to flip (R258). -/
  flips : Option (List Nat × Bool) := none
  deriving DecidableEq, Repr

/-! ### The memory hierarchy behind GM -/

/-- A cached line of the MSC: the way it occupies and which of its four sectors are valid and dirty. -/
structure MscLine where
  line : Nat
  way : Nat
  valid : BitVec 4
  dirty : BitVec 4
  deriving DecidableEq, Repr

/-- A line of the die's L2 (R124): its way, which of its four sectors are valid and dirty, and the write timestamp and
the lease end that it was filled with (R147). -/
structure L2Line where
  line : Nat
  way : Nat
  valid : BitVec 4
  dirty : BitVec 4
  wts : Nat
  rts : Nat
  deriving DecidableEq, Repr

/-- A staged 32-byte sector (R130): the node that staged it, the task tag of its last writer, its seen
bit, and where its line lies. -/
structure Staged where
  sector : Nat
  lnum : Nat
  node : Nat
  tag : Nat
  seen : Bool
  /-- The way of its home slice that the line occupies; none in the spill area of R131. -/
  way : Option Nat
  data : Sector
  poison : Bool
  deriving DecidableEq, Repr

/-- A translation a core holds (R134). -/
structure Xlate where
  vbase : Nat
  size : Nat
  lnum : Nat
  dpa : Nat
  rights : BitVec 4
  deriving DecidableEq, Repr

/-- The timestamps of one location (R147). -/
structure Stamp where
  wts : Nat
  rts : Nat
  deriving DecidableEq, Repr

/-- The partition of one MSC slice (R128, R129); of a grow under way, the set being scanned, the clock on which the
scan leaves it and the lines written back so far. -/
structure SlicePart where
  ways : Nat := 0
  cur : Nat := 0
  busy : Bool := false
  err : Bool := false
  wbLines : Nat := 0
  scan : Nat := 0
  leaves : Nat := 0
  found : Nat := 0
  deriving DecidableEq, Repr

/-- HBM, MSC, L2, staging, translation and timestamps (R124 to R135, R147). -/
structure MemSys where
  hbm : Mem := {}
  msc : Mem := {}
  mscLines : List MscLine := []
  l2 : Mem := {}
  /-- The lines of the die's L2, whose bytes `l2` holds (R124). -/
  l2Lines : List L2Line := []
  staged : List Staged := []
  tlb : List Xlate := []
  /-- A walk that waits at a `MOVING` leaf: the page, and the clock of the next look (R135). -/
  walk : Option (Nat × Nat) := none
  icache : List Nat := []
  /-- Code pages of launches, as launch and DPA / 4096 (R93): mapped execute-only while the launch is resident. -/
  code : List (Nat × Nat) := []
  stamps : List (Nat × Stamp) := []
  /-- The largest timestamp that an engine or the host has given a write (R151; a field of the model, DEDUCED, log entry 99). -/
  engTs : Nat := 0
  slices : List (Nat × SlicePart) := []
  /-- Format ranges, as 16 × stack + number, whose flush is under way (R80). -/
  flushing : List Nat := []
  /-- Lines that a `PFG` has still to fill (R140). -/
  fills : List Nat := []
  /-- Host memory (R139): the controller's coherent cache of its lines shows nothing else (DEDUCED, log entry 33). -/
  host : Mem := {}
  deriving DecidableEq, Repr

/-! ### The distributor -/

/-- A die's range of tickets, low end and past the high end, and the tickets returned to it (R374). -/
structure DieRange where
  lo : Nat := 0
  hi : Nat := 0
  returned : List Nat := []
  deriving DecidableEq, Repr

/-- Another package's arrival at a pod barrier, a phase's barrier or the end of an exchange phase (R20, R376, R377, R390):
its x, which run of the node it belongs to, the phase of the barrier or the superstep, whether it is the end of an
exchange phase, its clock, and the slot count of an `SSEND`. -/
structure Arrival where
  x : Nat
  gen : Nat
  step : Nat
  atEnd : Bool := false
  clock : Nat := 0
  slots : Nat := 0
  deriving DecidableEq, Repr

/-- A barrier of a node and unit (R377). -/
structure Bar where
  scope : Scope
  id : Fin 16
  phase : Nat := 0
  /-- The clock of the package's arrival in the open phase, and of its release once that is known. -/
  arrived : Option Nat := none
  release : Option Nat := none
  /-- The package arrived without a task of its own that came to the barrier (R377). -/
  absent : Bool := false
  /-- Other packages' arrivals at a pod barrier (R20). -/
  others : List Arrival := []
  deriving DecidableEq, Repr

/-- Where a node of a task graph stands (R372, R376). -/
inductive NodePhase where
  | waiting
  | compute
  | closing
  | exchange
  | ending
  | retired
  deriving DecidableEq, Repr

/-- A node record and its progress (R370 to R377, R402). -/
structure Node where
  kernel : Nat := 0
  gx : Nat := 1
  gy : Nat := 1
  gz : Nat := 1
  npred : Nat := 0
  succ : List Nat := []
  unstaged : Bool := false
  noKill : Bool := false
  podPhase : Bool := false
  eta0 : Nat := 0
  args : Word := 0
  entries : List (Nat × Nat) := []
  signals : Nat := 0
  phase : NodePhase := .waiting
  superstep : Nat := 0
  dies : List DieRange := []
  /-- Cores that have taken a ticket of the phase and not ended. -/
  working : Nat := 0
  /-- The clock on which the compute phase's barrier releases, once the package has arrived. -/
  closeAt : Option Nat := none
  closedByEnd : Bool := false
  xchgPending : Bool := false
  /-- Slot count of `SSEND` and the clock of the package's arrival in the exchange phase. -/
  sendSlots : Nat := 0
  sendAt : Option Nat := none
  /-- Other packages' arrivals at the phase barriers and at the ends of exchange phases (R376, R390). -/
  arrivals : List Arrival := []
  /-- How often the node has begun again, modulo 256: arrivals tell by it which run they belong to (R153, R402). -/
  gen : Nat := 0
  /-- The clock on which this package arrived at a pod-scope phase barrier (R20, R376). -/
  podAt : Option Nat := none
  overflowed : Bool := false
  bars : List Bar := []
  replays : Nat := 0
  avoidCore : Bool := false
  /-- The clock on which the node became ready (R372, R375). -/
  readyAt : Nat := 0
  deriving DecidableEq, Repr

/-- A launch (R366 to R369, R378). -/
structure Launch where
  lnum : Nat
  state : Nat := 0
  reason : Nat := 0
  order : Nat := 0
  nodes : List Node := []
  root : Nat := 0
  cpt : Nat := 0
  queue : Nat := 0
  prioq : BitVec 16 := 0
  tokens0 : Nat := 0
  tokens : Nat := 0
  overdue : Bool := false
  waitFrom : Nat := 0
  bound : Bool := false
  priv : Bool := false
  extent : BitVec 64 := 0
  reportHm : Bool := false
  report : Nat := 0
  seats : List Nat := []
  /-- It came through `DDOOR` (R427). -/
  ddoor : Bool := false
  parent : Option Nat := none
  conflict : Nat := 0
  nreplay : Nat := 0
  drains : Nat := 0
  kills : Nat := 0
  ckpts : Nat := 0
  overflow : Bool := false
  /-- The report does not show the overflow yet (R368). -/
  stale : Bool := false
  /-- It became resident on the local wheel, and stays a pod of one (R21, R430). -/
  solo : Bool := false
  /-- Members of `EXTENT` that have not yet answered (R369). -/
  awaiting : BitVec 64 := 0
  deriving DecidableEq, Repr

/-- A checkpointed task in a vault slot: its context image (R10, R383). -/
structure Image where
  core : Core
  store : Mem
  tags : List Nat
  engine : List Nat
  vrEngine : Bool
  bte : Bte
  rows : Rows
  ports : List (Nat × FabPort)
  ftmo : Word
  fpin : Word
  deriving DecidableEq, Repr

/-- A launch submitted while what the distributor has to read of it waits (R80, R135, R365, R429): the sender and number of a
peer's packet, else a store of `DDOOR`; and the store's value or the descriptor's words. -/
structure Submit where
  peer : Option (Nat × Nat)
  words : List Nat
  deriving DecidableEq, Repr

/-- The distributor (R365 to R395). -/
structure Dist where
  launches : List Launch := []
  accepts : Nat := 0
  nextTag : Nat := 1
  vault : List Image := []
  /-- A spill or restore in progress and the clock of its end. -/
  spill : Option (Image × Nat) := none
  restore : Option (Image × Nat) := none
  /-- The free-core counts last reported (R374). -/
  free : Vector Nat 8 := Vector.replicate 8 0
  /-- The clock from which the local wheel's slots are counted (R21). -/
  wheelFrom : Option Nat := none
  /-- The launch that last ran on the quad (R375). -/
  quadLaunch : Nat := 0
  /-- The clock at which the last selection and free-core report were made (R374, R379). -/
  lastSelect : Nat := 0
  /-- A node has become ready since the last selection (R379). -/
  selectDue : Bool := false
  /-- The launch that the selection which decided a preemption chose (R379). -/
  pick : Option Nat := none
  /-- A debugger has halted the die or the package (R408). -/
  frozen : Bool := false
  /-- Submitted launches not read yet, and reports not written yet: root, address, bytes (R80, R135, R368, R429). -/
  submits : List Submit := []
  reports : List (Nat × (Nat × List Byte)) := []
  /-- What the other members of a pod launch are still to be told: kind, launch, argument (R153, R402, R403). -/
  notices : List (Nat × Nat × Nat) := []
  deriving DecidableEq, Repr

/-! ### The debug unit -/

/-- A debugger read in progress: the clock of its end, `SEL` and address, and the status where it reads nothing (R409). -/
structure DebugRead where
  doneAt : Nat
  sel : Nat
  addr : Nat
  status : Nat
  deriving DecidableEq, Repr

/-! ### The part configuration -/

/-- The part-configuration record (R23, R24, R434): what of the package is enabled, and the package's
coordinates (R15). DESIGN CHOICE, log entry 2. -/
structure Part where
  /-- Enabled dies, cores of the package, HBM stacks and MSC slices. -/
  dies : BitVec 8 := 0xFF
  cores : List Nat := [0]
  hbmStacks : BitVec 12 := 0xFFF
  /-- Disabled slices with their substitutes (R126). -/
  slices : List (Nat × Nat) := []
  cx : Fin 64 := 0
  cy : Fin 64 := 0
  cz : Fin 32 := 0
  deriving DecidableEq, Repr

/-! ### The machine -/

/-- The package (R6), as its one modelled core, core 0 of quad 0 and die 0, meets it (DESIGN CHOICE, log entry 1). -/
structure State where
  clock : Nat := 0
  core : Core := {}
  /-- The quad's 16 queues (R40). -/
  queues : Vector (List QEntry) 16 := Vector.replicate 16 []
  /-- On-chip storage by OC address: LS, ACC, QS and the MSC scratchpad windows (R118). -/
  oc : Mem := {}
  /-- 16-byte units (OC address / 16) that carry a live barrier tag (R247). -/
  tags : List Nat := []
  /-- Engine-owned granules (OC address / 4096), and the vector register file's granule (R120). -/
  engine : List Nat := []
  vrEngine : Bool := false
  bte : Bte := {}
  rows : Rows := {}
  fabric : Fabric := {}
  /-- The core's replay units 0 to 3 (R315). -/
  replay : Vector ReplayUnit 4 := Vector.replicate 4 {}
  folios : FolioStore := {}
  plat : Platform := {}
  sys : MemSys := {}
  /-- Hub registers that do not hold their reset value, by OC address (R118). -/
  hub : List (Nat × Word) := []
  dist : Dist := {}
  dbg : Option DebugRead := none
  dbgLast : Word := 0
  dbgStatus : Nat := 0
  part : Part := {}
  /-- What the outside world does next, taken at bundle boundaries. -/
  inputs : List Instr := []
  /-- The number of free values drawn so far (a field of the model, not of the manual). -/
  free : Nat := 0
  deriving DecidableEq, Repr

/-! ### How a step can stop -/

/-- Why the machine stops. -/
inductive Fault where
  /-- Raised by `step`: the package is halted in bring-up state 4 (R436, R437) and does nothing more
  until reset. Safe: the hardware executes nothing either. -/
  | packageHalted
  deriving DecidableEq, Repr

/-- Why an instruction is refused. -/
inductive Refusal where
  /-- Raised by an arm of `exec` whose meaning is not written. Safe: nothing is claimed of it. -/
  | notModelled (mnemonic : String)
  deriving DecidableEq, Repr

/-- The package right after reset (R428): no task on the core, every register at its reset value,
memory with nothing listed. -/
def State.reset : State := {}

end Sys2Proof.Machine
end

