-- ==== Sys2Proof/Machine/Memory.lean ====
section
/-!
DEFINITION. The operations over one byte store `Mem`: reading, writing in canonical form, and the
poison marks of its 32-byte sectors (R3, R127).
-/
namespace Sys2Proof.Machine

/-- Addresses strictly rising. -/
def rising : List Nat → Bool
  | [] => true
  | [_] => true
  | a :: b :: r => decide (a < b) && rising (b :: r)

/-- The canonical form: addresses strictly rising and no entry equal to the zero that an unlisted
address reads as, and the poisoned sectors strictly rising. -/
def Mem.wf (m : Mem) : Bool :=
  rising (m.cells.map Prod.fst) && m.cells.all (fun c => c.2 != 0) && rising m.poison

/-- The byte at an address; an unlisted address reads zero (DESIGN CHOICE, log entry 5). -/
def Mem.byte (m : Mem) (a : Nat) : Byte :=
  match m.cells.find? (fun c => c.1 == a) with
  | some c => c.2
  | none => 0

/-- `n` bytes from `a` on, from cells that start at or above `a`. -/
def readRun : List Host.Cell → (a n : Nat) → List Byte
  | _, _, 0 => []
  | [], a, n + 1 => 0 :: readRun [] (a + 1) n
  | c :: r, a, n + 1 => if c.1 == a then c.2 :: readRun r (a + 1) n else 0 :: readRun (c :: r) (a + 1) n

/-- `n` bytes at `a`, lowest address first. -/
def Mem.read (m : Mem) (a n : Nat) : List Byte :=
  readRun (m.cells.dropWhile (fun c => decide (c.1 < a))) a n

/-- The little-endian number of `n` bytes at `a` (R3). -/
def Mem.readNat (m : Mem) (a n : Nat) : Nat := leNat (m.read a n)

/-- The cells of a run of bytes, without the zeros. -/
def cellsOf : (a : Nat) → List Byte → List Host.Cell
  | _, [] => []
  | a, b :: bs => if b == 0 then cellsOf (a + 1) bs else (a, b) :: cellsOf (a + 1) bs

/-- Write a run of bytes at `a`. -/
def Mem.write (m : Mem) (a : Nat) (bs : List Byte) : Mem :=
  { m with cells := m.cells.filter (fun c => decide (c.1 < a)) ++ cellsOf a bs ++
      m.cells.filter (fun c => decide (a + bs.length ≤ c.1)) }

/-- Write `n` bytes of a number at `a` (R3). -/
def Mem.writeNat (m : Mem) (a n v : Nat) : Mem := m.write a (leBytes n v)

/-- Whether some sector of `n` bytes at `a` is poisoned (R127). -/
def Mem.poisoned (m : Mem) (a n : Nat) : Bool :=
  m.poison.any (fun k => decide (k * 32 < a + n) && decide (a < k * 32 + 32))

/-- Mark or unmark one sector. -/
def Mem.markSector (m : Mem) (sec : Nat) (p : Bool) : Mem :=
  { m with poison := if p then insertKey sec m.poison else eraseKey sec m.poison }

/-- The sectors that `n` bytes at `a` touch. -/
def sectorsOf (a n : Nat) : List Nat := (List.range ((a % 32 + n + 31) / 32)).map (fun i => a / 32 + i)

/-- A store of bytes at `a` (R127): a store of poisoned data marks its sectors; one of clean data clears
the mark of the sectors it covers whole. -/
def Mem.store (m : Mem) (a : Nat) (bs : List Byte) (p : Bool) : Mem :=
  let m := m.write a bs
  if p then (sectorsOf a bs.length).foldl (fun m k => m.markSector k true) m
  else { m with poison := m.poison.filter (fun k => !(decide (a ≤ k * 32) && decide (k * 32 + 32 ≤ a + bs.length))) }

/-- Zero and unmark `n` bytes at `a`. -/
def Mem.clear (m : Mem) (a n : Nat) : Mem :=
  { cells := m.cells.filter (fun c => decide (c.1 < a) || decide (a + n ≤ c.1)),
    poison := m.poison.filter (fun k => decide (k * 32 + 32 ≤ a) || decide (a + n ≤ k * 32)) }

/-- The part of a store inside `n` bytes at `a`. -/
def Mem.slice (m : Mem) (a n : Nat) : Mem :=
  { cells := m.cells.filter (fun c => decide (a ≤ c.1) && decide (c.1 < a + n)),
    poison := m.poison.filter (fun k => decide (a ≤ k * 32) && decide (k * 32 < a + n)) }

/-- A store with the `n` bytes at `a` replaced by those of `src`, which lie at the same addresses. -/
def Mem.graft (m src : Mem) (a n : Nat) : Mem :=
  let c := src.slice a n
  { cells := m.cells.filter (fun x => decide (x.1 < a)) ++ c.cells ++
      m.cells.filter (fun x => decide (a + n ≤ x.1)),
    poison := m.poison.filter (fun k => decide (k * 32 < a)) ++ c.poison ++
      m.poison.filter (fun k => decide (a + n ≤ k * 32)) }

end Sys2Proof.Machine
end

