-- ==== Sys2Proof/Machine/Gm.lean ====
section
/-!
DEFINITION. The memory behind GM: the interleave of HBM, home slices, format ranges, the MSC and the L2,
staging, timestamps (R79 to R81, R124 to R131, R147 to R153).
-/
namespace Sys2Proof.Machine

/-! ### Hub register words -/

/-- The reset value of a hub register that is not zero: `COHCTL.LEASE`, `DBGCTL.SCOPE`, `TUCTL.CREDLIM`,
`PWRSTAT.LIMIT` (R148, R297, R407, R424). -/
def hubReset (a : Nat) : Word :=
  if a == 0x4003000000 then 64
  else if a == 0x4007000000 then 0x1000000000
  else if a == 0x4004000000 || a == 0x4004010000 || a == 0x4004020000 then 16
  else if a == 0x4009000120 then 0xAF000000000
  else 0

def hubGet (s : State) (a : Nat) : Word := lookupD s.hub a (hubReset a)
def hubSet (s : State) (a : Nat) (v : Word) : State := { s with hub := storeAt s.hub a v }
def hubNat (s : State) (a : Nat) : Nat := (hubGet s a).toNat

/-! ### Free values -/

/-- Draw a free value: the state with the counter advanced. -/
def drawn (s : State) : State := { s with free := s.free + 1 }

/-! ### Interleave and homes -/

/-- The enabled stacks in ascending order (R125). -/
def stacksOn (s : State) : List Nat := (List.range 12).filter (fun h => s.part.hbmStacks.getLsbD h)
/-- One past the last device physical address (R125). -/
def dpaEnd (s : State) : Nat := (stacksOn s).length * 2 ^ 36
/-- The stack that holds a DPA (R125). -/
def stackOf (s : State) (d : Nat) : Nat :=
  let l := stacksOn s
  (l[d / 4096 % l.length]?).getD 0
/-- The stack-local address of a DPA (R125). -/
def localOf (s : State) (d : Nat) : Nat := d / 4096 / (stacksOn s).length * 4096 + d % 4096
/-- The logical home slice of a DPA, 16 × die + slice (R126). -/
def logicalHome (d : Nat) : Nat :=
  bits d 13 7 ^^^ bits d 20 14 ^^^ bits d 27 21 ^^^ bits d 34 28 ^^^ bits d 41 35 ^^^ bits d 47 42
/-- The home slice, a disabled one replaced by its substitute (R126). -/
def homeSlice (s : State) (d : Nat) : Nat := lookupD s.part.slices (logicalHome d) (logicalHome d)
/-- The set of a DPA in its slice (R126). -/
def setOf (d : Nat) : Nat := bits d 19 7

def sliceGet (s : State) (k : Nat) : SlicePart := lookupD s.sys.slices k {}
def sliceSet (s : State) (k : Nat) (p : SlicePart) : State :=
  { s with sys := { s.sys with slices := storeAt s.sys.slices k p } }

/-! ### Format ranges -/

/-- The register `r` of format range `n` of controller `h` (R79). -/
def frAddr (h n r : Nat) : Nat := 0x4001000000 + h * 0x1000 + n * 0x40 + r
/-- An enabled format range (R79). -/
structure FormatRange where
  stack : Nat
  num : Nat
  round : RoundMode
  blockLog : Nat
  fmt : Nat
  vbase : Nat
  vlimit : Nat
  sbase : Nat
  scbase : Nat
  deriving DecidableEq, Repr

/-- The fields of a range. `ROUND` has four bits and R71 gives codes 0 to 3: which mode another code selects is a free value
(DESIGN CHOICE, log entry 102). -/
def formatRange (s : State) (h n : Nat) : FormatRange :=
  let c := hubNat s (frAddr h n 0)
  { stack := h, num := n, round := RoundMode.ofCode (if bits c 15 12 < 4 then bits c 15 12 else Config.roundCode (bits c 15 12) % 4), blockLog := bits c 11 8, fmt := bits c 7 4
    vbase := bits (hubNat s (frAddr h n 8)) 47 12, vlimit := bits (hubNat s (frAddr h n 16)) 47 12
    sbase := bits (hubNat s (frAddr h n 24)) 47 7, scbase := bits (hubNat s (frAddr h n 32)) 47 5 }

def frEnabled (s : State) (h n : Nat) : Bool := bit (hubNat s (frAddr h n 0)) 0

/-- The enabled range whose span holds a DPA, on the stack that the interleave gives it (R81). -/
def rangeOf (s : State) (d : Nat) : Option FormatRange :=
  if s.hub.isEmpty then none
  else
    let h := stackOf s d
    ((List.range 16).find? (fun n => frEnabled s h n &&
        decide (bits (hubNat s (frAddr h n 8)) 47 12 ≤ d / 4096) &&
        decide (d / 4096 ≤ bits (hubNat s (frAddr h n 16)) 47 12))).map (formatRange s h)

/-- A DPA lies in the span of an enabled range of some controller, whether it serves the address or not (R271, R274). -/
def inSpan (s : State) (d : Nat) : Bool :=
  !s.hub.isEmpty && (List.range 12).any (fun h => (List.range 16).any (fun n => frEnabled s h n &&
    decide (bits (hubNat s (frAddr h n 8)) 47 12 ≤ d / 4096) && decide (d / 4096 ≤ bits (hubNat s (frAddr h n 16)) 47 12)))

/-- The number of 4 KiB units of `lo` up to, not including, `hi` that lie on stack index `r` of `e`. -/
def unitsOn (e r lo hi : Nat) : Nat := (hi + e - 1 - r) / e - (lo + e - 1 - r) / e

/-- The width in bits of a storage format (R77). -/
def fmtWidth (f : Nat) : Nat := if f == 7 || f == 12 then 4 else 8

/-- The number j of a span line among those that the interleave homes on the range's stack (R81). -/
def rangeLine (s : State) (r : FormatRange) (d : Nat) : Nat :=
  let l := stacksOn s
  let e := l.length
  let idx := (l.takeWhile (fun h => h != r.stack)).length
  unitsOn e idx r.vbase (d / 4096) * 32 + bits d 11 7

/-- The bit address of the storage code of the element at DPA `d` (R81). `SBASE` × 128, like `SCBASE` × 32, is taken as a
device physical address in the linear order of R125, not as a stack-local one (DESIGN CHOICE, log entry 102). -/
def rangeBit (s : State) (r : FormatRange) (d : Nat) : Nat :=
  (r.sbase * 128 + rangeLine s r d * 64 * fmtWidth r.fmt / 8) * 8 + bits d 6 1 * fmtWidth r.fmt

/-- The scale of the element at DPA `d` (R81): the word as HBM holds it, past what the MSC or an L2 holds of its line, and
without its mark (DESIGN CHOICE, log entry 102). -/
def rangeScale (s : State) (r : FormatRange) (d : Nat) : Nat :=
  s.sys.hbm.readNat (r.scbase * 32 + 4 * (((d - r.vbase * 4096) / 2) >>> r.blockLog)) 4

/-- The value of a storage code times a scale, rounded once (R81); an S4O code is element `i` of the block `raw`, and
one that is given up or absent reads +0 (R74). -/
def decodeTo (f : FpFmt) (fmt : Nat) (mode : RoundMode) (code : Nat) (s4o : Option (Nat × Nat)) (scale : Nat) : Nat :=
  match s4o with
  | some (raw, i) => if s4oPlus raw i then 0 else (encodeFp f mode (mulFp (intToFp (s4oAt raw i)) (dF32 scale))).1
  | none =>
    let v : Fp :=
      if fmt == 2 then decodeFp fmtE4m3 code
      else if fmt == 3 then decodeFp fmtE5m2 code
      else if fmt == 6 then intToFp (sext code 8)
      else intToFp (sext code 4)
    (encodeFp f mode (mulFp v (dF32 scale))).1

/-- The 32 bytes of a span sector decoded from its storage (R81). -/
def rangeFill (s : State) (r : FormatRange) (sec : Nat) : Nat :=
  let w := fmtWidth r.fmt
  let b0 := rangeBit s r (sec * 32)
  let raw := s.sys.hbm.readNat (b0 / 8) (2 * w)
  packElems 16 ((List.range 16).map (fun i =>
    let d := sec * 32 + 2 * i
    decodeTo fmtBf16 r.fmt .rne (elem w raw i) (if r.fmt == 12 then some (raw, i) else none) (rangeScale s r d)))

/-- A code of a narrow float or integer format from the FP32 quotient `y` (R68, R72). -/
def encodeNarrow (fmt : Nat) (mode : RoundMode) (y : Nat) : Nat × Nat :=
  if fmt == 2 then ((encodeFp fmtE4m3 mode (dF32 y)).1, b2n (encodeFp fmtE4m3 mode (dF32 y)).2)
  else if fmt == 3 then ((encodeFp fmtE5m2 mode (dF32 y)).1, b2n (encodeFp fmtE5m2 mode (dF32 y)).2)
  else if fmt == 6 then
    let r := fpToInt mode (-128) 127 (dF32 y); (wrapTo 8 r.1, b2n r.2)
  else
    let r := fpToInt mode (-8) 7 (dF32 y); (wrapTo 4 r.1, b2n r.2)

/-- The codes of a span sector and the saturations of encoding it (R81). -/
def rangeEncode (s : State) (r : FormatRange) (sec v : Nat) : Nat × Nat :=
  let w := fmtWidth r.fmt
  let xs := (List.range 16).map (fun i => (rangeScale s r (sec * 32 + 2 * i), bf16ToF32 (elem 16 v i)))
  if r.fmt == 12 then
    let cs := (List.range 8).map (fun k =>
      let a := xs[2 * k]?.getD (0, 0)
      let b := xs[2 * k + 1]?.getD (0, 0)
      s4oEncode r.round a.1 a.2 b.2)
    (packElems 4 (cs.flatMap (fun c => [c.1, c.2.1])), (cs.map (fun c => c.2.2)).foldl (· + ·) 0)
  else
    let cs := xs.map (fun p => encodeNarrow r.fmt r.round (f32Div p.2 p.1))
    (packElems w (cs.map Prod.fst), (cs.map Prod.snd).foldl (· + ·) 0)

/-- Add saturations to a format range's `SATCNT`, which stops at 2^32 - 1 (R79). -/
def addRangeSat (s : State) (r : FormatRange) (n : Nat) : State :=
  if n == 0 then s
  else
    let a := frAddr r.stack r.num 0x28
    hubSet s a (BitVec.ofNat 64 (min (hubNat s a + n) 0xFFFFFFFF))

/-! ### HBM, MSC and L2 -/

/-- A DPA of a stack removed in service (R435). -/
def stackFailed (s : State) (d : Nat) : Bool := s.plat.failed != 0 && s.plat.failed.getLsbD (stackOf s d)

/-- The bank of a DPA, as 512 × stack + bank and channel (bits 19:11), and its row in it (R264). -/
def bankKey (s : State) (d : Nat) : Nat := 512 * stackOf s d + bits (localOf s d) 19 11
def bankRow (s : State) (d : Nat) : Nat := bits (localOf s d) 35 20

/-- Where HBM holds a sector: the storage of the format range that serves it, else its own place (R81). -/
def hbmPlace (s : State) (sec : Nat) : Nat :=
  match rangeOf s (sec * 32) with
  | none => sec * 32
  | some r => rangeBit s r (sec * 32) / 8

/-- An access to HBM activates a row of its bank, whose buffer holds the 16 last (R276). -/
def activate (s : State) (sec : Nat) : State :=
  let d := hbmPlace s sec
  let k := bankKey s d
  let l := lookupD s.rows.recent k []
  { s with rows := { s.rows with recent := storeAt s.rows.recent k ((bankRow s d :: l.filter (fun r => r != bankRow s d)).take 16) } }

/-- Write a sector to HBM, encoding it when an enabled format range serves it (R81); a failed stack discards
it (R435). -/
def hbmWrite (s : State) (sec v : Nat) (p : Bool) : State :=
  if stackFailed s (sec * 32) then s else
  let s := activate s sec
  match rangeOf s (sec * 32) with
  | none => { s with sys := { s.sys with hbm := (s.sys.hbm.store (sec * 32) (leBytes 32 v) p) } }
  | some r =>
    let w := fmtWidth r.fmt
    let c := rangeEncode s r sec v
    let s := addRangeSat s r c.2
    { s with sys := { s.sys with hbm := s.sys.hbm.store (rangeBit s r (sec * 32) / 8) (leBytes (2 * w) c.1) p } }

/-- Read a sector from HBM, decoding it when an enabled format range serves it (R81); a failed stack gives
poison (R435). -/
def hbmRead (s : State) (sec : Nat) : Nat × Bool :=
  if stackFailed s (sec * 32) then (0, true) else
  match rangeOf s (sec * 32) with
  | none => (s.sys.hbm.readNat (sec * 32) 32, s.sys.hbm.poisoned (sec * 32) 32)
  | some r => (rangeFill s r sec, s.sys.hbm.poisoned (rangeBit s r (sec * 32) / 8) (2 * fmtWidth r.fmt))

def mscLine? (s : State) (line : Nat) : Option MscLine := s.sys.mscLines.find? (fun l => l.line == line)
def mscValid (s : State) (sec : Nat) : Bool :=
  match mscLine? s (sec / 4) with
  | some l => l.valid.getLsbD (sec % 4)
  | none => false

/-- Write back the dirty sectors of an MSC line to HBM; the line stays, clean. -/
def mscWriteBack (s : State) (l : MscLine) : State :=
  let s := (List.range 4).foldl (fun s i =>
    if l.dirty.getLsbD i then
      hbmWrite s (l.line * 4 + i) (s.sys.msc.readNat ((l.line * 4 + i) * 32) 32)
        (s.sys.msc.poisoned ((l.line * 4 + i) * 32) 32)
    else s) s
  { s with sys := { s.sys with mscLines := s.sys.mscLines.map (fun k => if k.line == l.line then { k with dirty := 0 } else k) } }

/-- Drop an MSC line. -/
def mscDrop (s : State) (line : Nat) : State :=
  { s with sys := { s.sys with mscLines := s.sys.mscLines.filter (fun k => k.line != line),
                               msc := s.sys.msc.clear (line * 128) 128 } }

/-- Write back and invalidate one MSC line. -/
def mscFlush (s : State) (line : Nat) : State :=
  match mscLine? s line with
  | none => s
  | some l => mscDrop (mscWriteBack s l) line

/-- Ways of a set that staged lines occupy, below the scratchpad ways (R130). -/
def stagedWays (s : State) (slice set : Nat) : List Nat :=
  s.sys.staged.filterMap (fun t =>
    if homeSlice s (t.sector * 32) == slice && setOf (t.sector * 32) == set then t.way else none)

/-- A way for a new line of a set, the least invalid one, else a victim the implementation picks, which
is written back and invalidated (R126, R129; DESIGN CHOICE, log entry 20). Where every way that the scratchpad leaves holds staged
lines the line goes to way 0 beside them: R129 gives no place (DESIGN CHOICE, log entry 124). -/
def mscWay (s : State) (slice set : Nat) : State × Nat :=
  let part := sliceGet s slice
  let cur := if part.busy then max part.cur part.ways else part.cur
  let stagedW := stagedWays s slice set
  let lines := s.sys.mscLines.filter (fun l => homeSlice s (l.line * 128) == slice && setOf (l.line * 128) == set)
  let ways := (List.range (16 - cur)).filter (fun w => !stagedW.contains w)
  match ways.find? (fun w => !lines.any (fun l => l.way == w)) with
  | some w => (s, w)
  | none =>
    let w := (ways[Config.victim s.free % ways.length]?).getD 0
    match lines.find? (fun l => l.way == w) with
    | some l => (mscFlush (drawn s) l.line, w)
    | none => (drawn s, w)

/-- The line present in the MSC, allocated when it is not. -/
def mscAlloc (s : State) (line : Nat) : State :=
  match mscLine? s line with
  | some _ => s
  | none =>
    let r := mscWay s (homeSlice s (line * 128)) (setOf (line * 128))
    { r.1 with sys := { r.1.sys with mscLines := { line := line, way := r.2, valid := 0, dirty := 0 } :: r.1.sys.mscLines } }

/-- Put a sector into the MSC, valid, and dirty or clean (R126); a failed stack takes nothing (R435). -/
def mscPut (s : State) (sec v : Nat) (p dirty : Bool) : State :=
  if stackFailed s (sec * 32) then s else
  let s := mscAlloc s (sec / 4)
  { s with sys := { s.sys with
      msc := s.sys.msc.store (sec * 32) (leBytes 32 v) p
      mscLines := s.sys.mscLines.map (fun k => if k.line == sec / 4 then
        { k with valid := k.valid ||| (1#4 <<< (sec % 4)), dirty := if dirty then k.dirty ||| (1#4 <<< (sec % 4)) else k.dirty } else k) } }

/-- The sector as its home holds it (R270): the MSC's, else HBM's. A span sector is filled into the MSC by
the read (R81); an ordinary clean copy would hold what HBM holds. A failed stack gives poison (R435). -/
def homeRead (s : State) (sec : Nat) : State × Nat × Bool :=
  if stackFailed s (sec * 32) then (s, 0, true)
  else if mscValid s sec then (s, s.sys.msc.readNat (sec * 32) 32, s.sys.msc.poisoned (sec * 32) 32)
  else
    let r := hbmRead s sec
    let s := activate s sec
    if (rangeOf s (sec * 32)).isSome then (mscPut s sec r.1 r.2 false, r) else (s, r)

/-! ### Timestamps -/

/-- The key of a GM line's timestamps, of an on-chip sector's and of a hub register's (R147). -/
def gmKey (dpa : Nat) : Nat := dpa / 128
def ocKey (oc : Nat) : Nat := 2 ^ 48 + oc / 32
def hubKey (a : Nat) : Nat := 2 ^ 49 + a / 8

def stampOf (s : State) (k : Nat) : Stamp := lookupD s.sys.stamps k ⟨0, 0⟩
def setStamp (s : State) (k wts rts : Nat) : State := { s with sys := { s.sys with stamps := storeAt s.sys.stamps k ⟨wts, rts⟩ } }
def setPt (s : State) (ts : Nat) : State := { s with core := { s.core with pt := ts } }

/-- The limit past which the package rebases (R149). -/
def stampLimit : Nat := 2 ^ 62

/-- Subtract one common amount from every timestamp, those of checkpointed tasks and of L2 copies too, and set those
below it to 0 (R147, R149). `COHCTL.REBASED` is set. A clean L2 copy whose lease ended below the amount leaves: at 0 it
would cover a program time of 0 again (DEDUCED, log entry 99). -/
def rebaseBy (s : State) (n : Nat) : State :=
  let s := hubSet s 0x4003000000 (hubGet s 0x4003000000 ||| 0x20000)
  let older (i : Image) : Image := { i with core := { i.core with pt := i.core.pt - n } }
  { s with
    core := { s.core with pt := s.core.pt - n }
    dist := { s.dist with vault := s.dist.vault.map older, spill := s.dist.spill.map (fun p => (older p.1, p.2))
                          restore := s.dist.restore.map (fun p => (older p.1, p.2)) }
    sys := { s.sys with
      stamps := s.sys.stamps.map (fun e => (e.1, ⟨e.2.wts - n, e.2.rts - n⟩))
      l2Lines := s.sys.l2Lines.map (fun l => { l with wts := l.wts - n, rts := l.rts - n, valid := if l.rts < n then l.dirty else l.valid })
      engTs := s.sys.engTs - n } }

def rebaseNow (s : State) : State := rebaseBy (drawn s) (Config.rebaseBy s.free)
/-- The package rebases first when the timestamp about to be made would pass the limit (R149). -/
def stampRoom (s : State) (ts : Nat) : State := if stampLimit < ts then rebaseNow s else s

/-- `COHCTL.LEASE` (R148). -/
def leaseLength (s : State) : Nat := bits (hubNat s 0x4003000000) 15 0

/-- The lease end that a load by a core at `pt` leaves at the home (R147). -/
def leaseEnd (s : State) (k pt : Nat) : Nat :=
  max (stampOf s k).rts (max ((stampOf s k).wts + leaseLength s) (pt + leaseLength s))

/-- The home grants a lease for a core's copy of a line (R147). -/
def grantLease (s : State) (k : Nat) : State :=
  let s := stampRoom s (leaseEnd s k s.core.pt)
  setStamp s k (stampOf s k).wts (leaseEnd s k s.core.pt)
/-- A core load of a GM or FS line at its home (R147). -/
def stampHome (s : State) (k : Nat) : State :=
  let s := grantLease s k
  setPt s (max s.core.pt (stampOf s k).wts)

/-- A core load of a location that no cache copies (R147): the lease is 0. -/
def stampLoad (s : State) (k : Nat) : State :=
  let ts := max s.core.pt (stampOf s k).wts
  setPt (setStamp s k (stampOf s k).wts (max (stampOf s k).rts ts)) ts

/-- The timestamp of a core store, or atomic that writes (R147). -/
def storeTs (s : State) (k : Nat) : Nat := max s.core.pt ((stampOf s k).rts + 1)
def takeStore (s : State) (k : Nat) : State := setPt (setStamp s k (storeTs s k) (storeTs s k)) (storeTs s k)
def stampStore (s : State) (k : Nat) : State := takeStore (stampRoom s (storeTs s k)) k

/-- An engine or host write at the home (R147). -/
def stampEngine (s : State) (k : Nat) : State :=
  let s := stampRoom s ((stampOf s k).rts + 1)
  let ts := (stampOf s k).rts + 1
  let s := setStamp s k ts ts
  { s with sys := { s.sys with engTs := max s.sys.engTs ts } }

/-- The writes of one row step take one timestamp, past every lease of its lines (R269). -/
def stepTs (s : State) (lines : List Nat) : Nat := (lines.map (fun l => (stampOf s l).rts)).foldl max 0 + 1
def stampStep (s : State) (lines : List Nat) : State :=
  let s := stampRoom s (stepTs s lines)
  let ts := stepTs s lines
  let s := lines.foldl (fun s l => setStamp s l ts ts) s
  { s with sys := { s.sys with engTs := max s.sys.engTs ts } }

/-- A load of another package at the home (R154): it extends the line's lease. -/
def stampRemote (s : State) (k : Nat) : State :=
  let s := stampRoom s (leaseEnd s k 0)
  setStamp s k (stampOf s k).wts (leaseEnd s k 0)

/-- An engine's write of LS or QS, the update of a barrier word among them: whoever reads it sees every earlier write
of an engine (R151; DEDUCED, log entry 99). -/
def stampSignal (s : State) (k : Nat) : State :=
  let s := stampRoom s (max ((stampOf s k).rts + 1) s.sys.engTs)
  let ts := max ((stampOf s k).rts + 1) s.sys.engTs
  setStamp s k ts ts

/-- The core has observed a command's completion: each later access sees every write of the command (R151). -/
def observe (s : State) : State := setPt s (max s.core.pt s.sys.engTs)

/-! ### The L2 (R124) -/

def l2Line? (s : State) (line : Nat) : Option L2Line := s.sys.l2Lines.find? (fun l => l.line == line)
def l2Dirty (s : State) (sec : Nat) : Bool :=
  match l2Line? s (sec / 4) with
  | some l => l.dirty.getLsbD (sec % 4)
  | none => false
def l2Value (s : State) (sec : Nat) : Nat × Bool := (s.sys.l2.readNat (sec * 32) 32, s.sys.l2.poisoned (sec * 32) 32)
def onL2 (s : State) (line : Nat) (f : L2Line → L2Line) : State :=
  { s with sys := { s.sys with l2Lines := s.sys.l2Lines.map (fun l => if l.line == line then f l else l) } }

/-- The dirty sectors of an L2 line reach their home slice, with their poison; the line stays, clean (R140, R147). -/
def l2Clean (s : State) (line : Nat) : State :=
  match l2Line? s line with
  | none => s
  | some l =>
    onL2 ((List.range 4).foldl (fun s i =>
      if l.dirty.getLsbD i then mscPut s (line * 4 + i) (l2Value s (line * 4 + i)).1 (l2Value s (line * 4 + i)).2 true else s) s)
      line (fun l => { l with dirty := 0 })

/-- Write back and invalidate an L2 line. -/
def l2Flush (s : State) (line : Nat) : State :=
  let s := l2Clean s line
  { s with sys := { s.sys with l2Lines := s.sys.l2Lines.filter (fun l => l.line != line), l2 := s.sys.l2.clear (line * 128) 128 } }

/-- The home takes back a line's dirty L2 sectors; clean ones stay until their lease passes (R147). -/
def l2TakeBack (s : State) (line : Nat) : State :=
  match l2Line? s line with
  | none => s
  | some l => if l.dirty == 0 then s else onL2 (l2Clean s line) line (fun k => { k with valid := k.valid &&& ~~~l.dirty })

/-- The sets and ways of a die's L2: 256 MiB of 128-byte lines in 16 ways, indexed by the low bits of the line (R13,
R124; the index is a DESIGN CHOICE, log entry 20). -/
def l2Sets : Nat := 2 ^ 17

/-- A way for a new L2 line, the least free one, else a victim's, which is written back and invalidated (R124; DESIGN
CHOICE, log entry 20). -/
def l2Way (s : State) (line : Nat) : State × Nat :=
  let lines := s.sys.l2Lines.filter (fun l => l.line % l2Sets == line % l2Sets)
  match (List.range 16).find? (fun w => !lines.any (fun l => l.way == w)) with
  | some w => (s, w)
  | none =>
    let w := Config.victim s.free % 16
    match lines.find? (fun l => l.way == w) with
    | some l => (l2Flush (drawn s) l.line, w)
    | none => (drawn s, w)

/-- Put a sector into the L2 with its line's timestamps. Clean sectors that were filled under another write timestamp
leave: the line's lease no longer speaks of them (R147). -/
def l2Put (s : State) (sec v : Nat) (p dirty : Bool) (was wts rts : Nat) : State :=
  let line := sec / 4
  let s :=
    match l2Line? s line with
    | some _ => s
    | none =>
      let r := l2Way s line
      { r.1 with sys := { r.1.sys with l2Lines := { line := line, way := r.2, valid := 0, dirty := 0, wts := was, rts := rts } :: r.1.sys.l2Lines } }
  let s := { s with sys := { s.sys with l2 := s.sys.l2.store (sec * 32) (leBytes 32 v) p } }
  onL2 s line (fun l => { l with
    valid := (if l.wts == was then l.valid else l.dirty) ||| (1#4 <<< (sec % 4))
    dirty := if dirty then l.dirty ||| (1#4 <<< (sec % 4)) else l.dirty, wts := wts, rts := rts })

/-- The value of a sector in the package order, without what is staged: a dirty L2 copy, else its home's (R146). -/
def coherentRead (s : State) (sec : Nat) : State × Nat × Bool :=
  if l2Dirty s sec && !stackFailed s (sec * 32) then (s, l2Value s sec) else homeRead s sec

/-- A sector comes from its home into the L2, or stays dirty there, under the lease that the home has granted. -/
def l2Fill (s : State) (sec : Nat) : State × Nat × Bool :=
  let st := stampOf s (gmKey (sec * 32))
  if l2Dirty s sec then (onL2 s (sec / 4) (fun l => { l with wts := st.wts, rts := st.rts }), l2Value s sec)
  else
    let r := homeRead s sec
    (l2Put r.1 sec r.2.1 r.2.2 false st.wts st.wts st.rts, r.2)

/-- A core load of a sector (R147): from the L2 while the lease of a valid copy covers the program time, else from its
home, which fills the L2. A failed stack gives poison (R435). -/
def coreRead (s : State) (sec : Nat) : State × Nat × Bool :=
  if stackFailed s (sec * 32) then (s, 0, true) else
  match (l2Line? s (sec / 4)).filter (fun l => l.valid.getLsbD (sec % 4) && decide (s.core.pt ≤ l.rts)) with
  | some l => (setPt s (max s.core.pt l.wts), l2Value s sec)
  | none => l2Fill (stampHome s (gmKey (sec * 32))) sec

/-- A prefetch of a sector (R140): into its home slice and the L2, unless it is there; no load is performed. -/
def prefetch (s : State) (sec : Nat) : State :=
  let s := if mscValid s sec then s else let r := hbmRead s sec; mscPut (activate s sec) sec r.1 r.2 false
  if (l2Line? s (sec / 4)).any (fun l => l.valid.getLsbD (sec % 4)) then s
  else (l2Fill (grantLease s (gmKey (sec * 32))) sec).1

/-! ### What an access waits for -/

/-- A page whose span is being flushed (R80), or whose stack is still training (R429). -/
def pageWaits (s : State) (d : Nat) : Bool :=
  (!s.sys.flushing.isEmpty && s.sys.flushing.any (fun k =>
    let r := formatRange s (k / 16) (k % 16)
    stackOf s d == r.stack && decide (r.vbase ≤ d / 4096) && decide (d / 4096 ≤ r.vlimit))) ||
  ((bits (hubNat s 0x4009000118) 2 0 == 1 || bits (hubNat s 0x4009000118) 2 0 == 2) && !s.plat.trained.getLsbD (stackOf s d) && !s.plat.failed.getLsbD (stackOf s d))

/-- A line whose set the scan of a grow is in (R129). -/
def setScanned (s : State) (d n : Nat) : Bool :=
  s.sys.slices.any (fun p => p.2.busy &&
    (List.range ((d % 128 + n + 127) / 128)).any (fun j => homeSlice s (d + 128 * j) == p.1 && setOf (d + 128 * j) == p.2.scan))

/-- A step of a row operation is in progress (R269). -/
def stepGoing (s : State) (o : RowOp) : Bool := o.started && decide (s.clock < o.ready) && !o.runs.isEmpty
/-- The operand runs of the steps in progress, with their ports. -/
def goingRuns (s : State) : List (Nat × Nat) :=
  s.rows.ports.flatMap (fun p => match p.2.queue with | o :: _ => if stepGoing s o then o.runs else [] | [] => [])
/-- A line of a row of a step in progress, which waits at its home (R269). -/
def lineStepped (s : State) (d n : Nat) : Bool :=
  (goingRuns s).any (fun r => decide (r.1 / 128 * 128 < d + n) && decide (d / 128 * 128 < r.1 + r.2))

def refreshing (s : State) (k : Nat) : Bool := s.rows.refresh.any (fun e => e.1 == k && decide (s.clock < e.2))
/-- An access has to reach a bank that is being refreshed: its home slice does not hold it, nor, for a read, the buffer of
the rows last activated (R276). -/
def bankWaits (s : State) (d n : Nat) (wr : Bool) : Bool :=
  !s.rows.refresh.isEmpty && (sectorsOf d n).any (fun k =>
    let p := hbmPlace s k
    !mscValid s k && refreshing s (bankKey s p) && (wr || !(lookupD s.rows.recent (bankKey s p) []).contains (bankRow s p)))

/-- An access to `n` bytes at a DPA waits (R80, R129, R269, R276, R429). -/
def dpaWaits (s : State) (d n : Nat) (wr : Bool) : Bool :=
  pageWaits s d || setScanned s d n || lineStepped s d n || bankWaits s d n wr

/-- A page of a run of bytes waits (R80, R129, R269, R276, R429). -/
def runWaits (s : State) (runs : List (Nat × Nat)) (wr : Bool) : Bool := runs.any (fun r => dpaWaits s r.1 r.2 wr)

/-! ### Staging -/

/-- Who makes an access to GM or FS: the node and task it is made for, or nobody's (R130, R151, R152). -/
structure Viewer where
  lnum : Nat := 0
  node : Nat := 0
  tag : Nat := 0
  /-- Whether its writes are staged. -/
  stages : Bool := false
  deriving DecidableEq, Repr

/-- The launch of a number, and a node of a launch. -/
def launchOf (s : State) (lnum : Nat) : Option Launch := s.dist.launches.find? (fun l => l.lnum == lnum)
def nodeOf (s : State) (lnum node : Nat) : Option Node := (launchOf s lnum).bind (fun l => l.nodes[node]?)
def updLaunch (s : State) (lnum : Nat) (f : Launch → Launch) : State :=
  { s with dist := { s.dist with launches := s.dist.launches.map (fun l => if l.lnum == lnum then f l else l) } }
def updNode (s : State) (lnum node : Nat) (f : Node → Node) : State :=
  updLaunch s lnum (fun l => { l with nodes := (l.nodes.zipIdx).map (fun p => if p.2 == node then f p.1 else p.1) })

def stagedAt (s : State) (sec : Nat) : Option Staged := s.sys.staged.find? (fun t => t.sector == sec)
/-- The staged sectors of one line. -/
def stagedLine (s : State) (line : Nat) : List Staged := s.sys.staged.filter (fun t => t.sector / 4 == line)

/-- Whether a line is staged for a node other than the viewer's (R153). -/
def stagedByOther (s : State) (sec : Nat) (v : Viewer) : Option Staged :=
  (stagedLine s (sec / 4)).find? (fun t => !(t.lnum == v.lnum && t.node == v.node))

/-- How an access of a run of bytes is made: by a core through its die's L2, by a core's atomic at the home, by an engine
or the host at the home, by another package at the home, or by a step of a row engine, which leaves a dirty L2 copy alone and
takes one timestamp for all its writes (R147, R151, R154, R163, R269, R270). -/
inductive Via where
  | core
  | atomic
  | engine
  | remote
  | step
  deriving DecidableEq, Repr

def Via.ofEngine (engine : Bool) : Via := if engine then .engine else .core

/-- A task of a node can no longer be restarted (R130, R382), on the core or checkpointed. -/
def spoilTag (s : State) (lnum node tag : Nat) : State :=
  let f (c : Core) : Core := { c with task := c.task.map (fun k =>
    if k.lnum == lnum && k.node == node && k.tag == tag then { k with spoiled := true } else k) }
  { s with
    core := f s.core
    dist := { s.dist with vault := s.dist.vault.map (fun i => { i with core := f i.core })
                          spill := s.dist.spill.map (fun p => ({ p.1 with core := f p.1.core }, p.2))
                          restore := s.dist.restore.map (fun p => ({ p.1 with core := f p.1.core }, p.2)) } }

/-- The sector as the viewer sees it (R130, R152). When another task of the node reads it, its seen bit is set and the
task that wrote it is no longer restartable. An atomic's read takes no timestamp of its own (R147). A failed stack gives
poison (R435). -/
def viewRead (s : State) (sec : Nat) (v : Viewer) (via : Via := .engine) : State × Nat × Bool :=
  if stackFailed s (sec * 32) then (s, 0, true) else
  match (stagedAt s sec).filter (fun t => t.lnum == v.lnum && t.node == v.node) with
  | some t =>
    let s := if t.tag == v.tag then s else
      spoilTag { s with sys := { s.sys with staged := s.sys.staged.map (fun u => if u.sector == sec then { u with seen := true } else u) } }
        t.lnum t.node t.tag
    (if via == .core then stampHome s (gmKey (sec * 32)) else s, t.data.toNat, t.poison)
  | none =>
    if via == .core then coreRead s sec
    else if via == .remote then coherentRead (stampRemote s (gmKey (sec * 32))) sec
    else coherentRead s sec

/-- Replace bytes `off` to `off + bs.length - 1` of a sector's value. -/
def mergeSector (old off : Nat) (bs : List Byte) : Nat := setBits old (8 * (off + bs.length) - 1) (8 * off) (leNat bs)

/-- The poison mark after a store of `n` bytes to a sector (R127). -/
def mergePoison (old : Bool) (n : Nat) (p : Bool) : Bool := p || (old && decide (n < 32))

/-- Whether the node of a viewer is overflowed (R131). -/
def overflowed (s : State) (v : Viewer) : Bool := ((nodeOf s v.lnum v.node).map (·.overflowed)).getD false

/-- A node becomes overflowed, which the launch's report shows from the next clock on (R131, R368). -/
def markOverflow (s : State) (v : Viewer) : State :=
  updLaunch (updNode s v.lnum v.node (fun n => { n with overflowed := true })) v.lnum (fun l => { l with overflow := true, stale := true })

/-- Bytes of a die's spill area in use (R131). -/
def spillUsed (s : State) (die : Nat) : Nat :=
  128 * ((s.sys.staged.filterMap (fun t => if t.way.isNone && homeSlice s (t.sector * 32) / 16 == die then some (t.sector / 4) else none)).eraseDups).length

/-- `DSPILL` of a die (R380). -/
def dspill (s : State) (die : Nat) : Nat := hubNat s (0x4005000140 + 8 * die)

/-- Where a newly staged line goes: a way, the spill area, or nowhere (R130, R131). -/
def stagePlace (s : State) (line : Nat) : State × Option (Option Nat) :=
  match stagedLine s line with
  | t :: _ => (s, some t.way)
  | [] =>
    let slice := homeSlice s (line * 128)
    let set := setOf (line * 128)
    if (stagedWays s slice set).eraseDups.length < 4 then
      let r := mscWay s slice set
      (r.1, some (some r.2))
    else if bit (dspill s (slice / 16)) 0 && decide (spillUsed s (slice / 16) + 128 ≤ 2 ^ 26) then (s, some none)
    else (s, none)

/-- The timestamp of a write of a line (R147). -/
def stampWrite (s : State) (k : Nat) (via : Via) : State :=
  match via with
  | .core | .atomic => stampStore s k
  | .engine | .remote => stampEngine s k
  | .step => s

/-- Write bytes of a sector unstaged: through the die's L2 for a core's store, at the home for its atomics, an engine
and the host, once the home has taken back a dirty L2 copy (R147, R163); a row step's goes to HBM (R270). -/
def plainWrite (s : State) (sec off : Nat) (bs : List Byte) (p : Bool) (via : Via) : State :=
  let k := gmKey (sec * 32)
  if via == .core then
    let r := coherentRead s sec
    let s := stampRoom r.1 (storeTs r.1 k)
    l2Put (takeStore s k) sec (mergeSector r.2.1 off bs) (mergePoison r.2.2 bs.length p) true (stampOf s k).wts (storeTs s k) (storeTs s k)
  else if via == .step then
    let r := homeRead s sec
    hbmWrite r.1 sec (mergeSector r.2.1 off bs) (mergePoison r.2.2 bs.length p)
  else
    let s := l2TakeBack s (sec / 4)
    let r := homeRead s sec
    stampWrite (mscPut r.1 sec (mergeSector r.2.1 off bs) (mergePoison r.2.2 bs.length p) true) k via

/-- Write bytes of a sector for a viewer: staged when its writes are (R130, R131), else unstaged. A line
staged for the viewer's own node keeps taking its writes after an overflow. Tag 0 is that of a killed task's
started commands, whose staged writes are discarded (R260). A task that writes a sector which another task of the node
staged is no longer restartable (R130), and clears the sector's seen bit, of which R130 says nothing then (DESIGN CHOICE, log
entry 123). A failed stack takes nothing (R435). -/
def viewWrite (s : State) (sec off : Nat) (bs : List Byte) (p : Bool) (via : Via) (v : Viewer) : State :=
  if stackFailed s (sec * 32) then s
  else if !v.stages then plainWrite s sec off bs p via
  else if v.tag == 0 then s
  else
    match stagedAt s sec with
    | some t =>
      let s := if t.tag == v.tag then s else spoilTag s v.lnum v.node v.tag
      stampWrite { s with sys := { s.sys with staged := s.sys.staged.map (fun u => if u.sector == sec then
        { u with data := BitVec.ofNat 256 (mergeSector u.data.toNat off bs), poison := mergePoison u.poison bs.length p, tag := v.tag,
                 seen := if u.tag == v.tag then u.seen else false } else u) } } (gmKey (sec * 32)) via
    | none =>
      if overflowed s v && (stagedLine s (sec / 4)).isEmpty then plainWrite s sec off bs p via
      else
        let old := coherentRead s sec
        let place := stagePlace old.1 (sec / 4)
        match place.2 with
        | none => plainWrite (markOverflow place.1 v) sec off bs p via
        | some way =>
          let s := place.1
          stampWrite { s with sys := { s.sys with staged :=
            { sector := sec, lnum := v.lnum, node := v.node, tag := v.tag, seen := false, way := way,
              data := BitVec.ofNat 256 (mergeSector old.2.1 off bs), poison := mergePoison old.2.2 bs.length p } :: s.sys.staged } } (gmKey (sec * 32)) via

/-- The largest timestamp that a core of the package has reached, checkpointed tasks among them (R147, R152). -/
def latestPt (s : State) : Nat :=
  ((s.dist.vault ++ s.dist.spill.toList.map Prod.fst ++ s.dist.restore.toList.map Prod.fst).map (·.core.pt)).foldl max s.core.pt
/-- The timestamp of a commit: past every core's, and past what its lines hold (R147, R152). -/
def commitTs (s : State) (lines : List Nat) : Nat := (lines.map (fun l => (stampOf s l).rts)).foldl max (latestPt s) + 1

/-- The atomic step of a commit (R130, R152): every sector staged for the node becomes an ordinary dirty sector of its
home, all of them at one timestamp, which whoever the node's signal releases has reached. -/
def commitStaged (s : State) (lnum node : Nat) : State :=
  let mine := s.sys.staged.filter (fun t => t.lnum == lnum && t.node == node)
  if mine.isEmpty then s
  else
    let lines := (mine.map (fun t => t.sector / 4)).eraseDups
    let s := stampRoom s (commitTs s lines)
    let ts := commitTs s lines
    let s := { s with sys := { s.sys with staged := s.sys.staged.filter (fun t => !(t.lnum == lnum && t.node == node)) } }
    let s := mine.foldl (fun s t => mscPut (l2TakeBack s (t.sector / 4)) t.sector t.data.toNat t.poison true) s
    setPt (lines.foldl (fun s l => setStamp s l ts ts) s) ts

/-- Throw away the staged sectors of a node (R153, R402). -/
def discardNode (s : State) (lnum node : Nat) : State :=
  { s with sys := { s.sys with staged := s.sys.staged.filter (fun t => !(t.lnum == lnum && t.node == node)) } }
/-- Throw away the staged sectors of one task (R130, R383). -/
def discardTask (s : State) (lnum node tag : Nat) : State :=
  { s with sys := { s.sys with staged := s.sys.staged.filter (fun t => !(t.lnum == lnum && t.node == node && t.tag == tag)) } }

end Sys2Proof.Machine
end

