-- ==== Sys2Proof/Machine/Xlate.lean ====
section
/-!
DEFINITION. Address translation (R133 to R135), access tables (R405, R406) and GM accesses of whole byte
runs for a core, an engine or the distributor.
-/
namespace Sys2Proof.Machine

/-- The trap causes of R396. -/
inductive Cause where
  | illegalEncoding | illegalBundle | privilege | xlateFault | accessDenied | align | ocUnmapped
  | barrierClobber | ownerViolation | poisonConsumed | envelopeMismatch | trailerCheck | fabricTimeout
  | folioAbsent | debugStep | break_ | preempt
  deriving DecidableEq, Repr

/-- The number of a cause (R396). -/
def Cause.code : Cause → Nat
  | .illegalEncoding => 1 | .illegalBundle => 2 | .privilege => 3 | .xlateFault => 4 | .accessDenied => 5
  | .align => 6 | .ocUnmapped => 7 | .barrierClobber => 8 | .ownerViolation => 9 | .poisonConsumed => 10
  | .envelopeMismatch => 11 | .trailerCheck => 12 | .fabricTimeout => 13 | .folioAbsent => 14
  | .debugStep => 15 | .break_ => 16 | .preempt => 17

/-- The cause of a number (R396); `FABRIC_TIMEOUT` for a number that names none. -/
def Cause.ofCode (n : Nat) : Cause :=
  ([.illegalEncoding, .illegalBundle, .privilege, .xlateFault, .accessDenied, .align, .ocUnmapped, .barrierClobber, .ownerViolation,
    .poisonConsumed, .envelopeMismatch, .trailerCheck, .fabricTimeout, .folioAbsent, .debugStep, .break_, .preempt].find?
      (fun c => c.code == n)).getD .fabricTimeout

/-- What an access to memory comes to: a value and a state, a fault with its reason of R136 and the
address it reports, or a wait. -/
inductive Acc (α : Type) where
  | ok (s : State) (a : α)
  | fault (s : State) (c : Cause) (reason : Nat) (addr : Nat)
  | wait (s : State)

def Acc.bind {α β : Type} (a : Acc α) (f : State → α → Acc β) : Acc β :=
  match a with
  | .ok s v => f s v
  | .fault s c r d => .fault s c r d
  | .wait s => .wait s

/-! ### Access tables -/

/-- Who makes an access, for the access tables (R405): class, id and launch; the two controllers of R406
always pass. -/
structure Requester where
  cls : Nat := 0
  id : Nat := 0
  lnum : Nat := 0
  pass : Bool := false
  deriving DecidableEq, Repr

def atBase (target : Nat) : Nat := 0x4008000000 + target * 0x400

/-- Whether target `target` permits an access to a page of its address space (R406). -/
def permits (s : State) (target page : Nat) (q : Requester) (rd wr : Bool) : Bool :=
  let b := atBase target
  if q.pass || !bit (hubNat s (b + 0x3C0)) 0 then true
  else (List.range 30).any (fun n =>
    let base := hubNat s (b + 0x20 * n)
    let lim := hubNat s (b + 0x20 * n + 8)
    let who := hubNat s (b + 0x20 * n + 0x10)
    let rgt := hubNat s (b + 0x20 * n + 0x18)
    bit rgt 2 && (!rd || bit rgt 0) && (!wr || bit rgt 1) &&
    decide (bits base 47 12 ≤ page) && decide (page ≤ bits lim 47 12) &&
    bits who 34 32 == q.cls && decide (bits who 8 0 ≤ q.id) && decide (q.id ≤ bits who 24 16) &&
    (bits who 63 48 == 0xFFFF || bits who 63 48 == q.lnum))

/-- Some access table has been written (R405). -/
def tablesUsed (s : State) : Bool := s.hub.any (fun e => e.1 / 2 ^ 24 == 0x4008)

/-- Whether the home slices and the HBM controllers of the lines of `n` bytes at a DPA permit an access (R126, R405, R406;
DEDUCED, log entry 24). -/
def dpaPermits (s : State) (d n : Nat) (q : Requester) (rd wr : Bool) : Bool :=
  !tablesUsed s || (List.range ((d % 128 + n + 127) / 128)).all (fun j =>
    let a := d / 128 * 128 + 128 * j
    permits s (16 + homeSlice s a) (a / 4096) q rd wr && permits s (stackOf s a) (a / 4096) q rd wr)

/-! ### The walk -/

/-- A leaf: the DPA of the page it maps, its size, its rights `PRIV`, `X`, `W`, `RD`, and `MOVING`. One of size 0 stands for a
table entry that waits as an access to it waits (R80, R129, R269, R276, R429). -/
structure Leaf where
  page : Nat
  size : Nat
  rights : BitVec 4
  moving : Bool
  deriving DecidableEq, Repr

/-- Eight bytes of a table, read coherently through the MSC (R134). -/
def tableRead (s : State) (d : Nat) : Nat :=
  (((coherentRead s (d / 32)).2.1) >>> (8 * (d % 32))) % 2 ^ 64

/-- The page size that a leaf at a level maps: levels 3, 4 and 5 (R133). -/
def levelSize (level : Nat) : Nat := if level == 3 then 2 ^ 30 else if level == 4 then 2 ^ 21 else 2 ^ 12

/-- The walk of R134 from the table at `t`: `fuel` levels are left, the current one is `6 - fuel`. -/
def walkFrom (s : State) (va : Nat) : (fuel : Nat) → (t : Nat) → Option Leaf
  | 0, _ => none
  | fuel + 1, t =>
    let level := 5 - fuel
    let idx := if level == 1 then bits va 55 48 else bits va (47 - 9 * (level - 2)) (39 - 9 * (level - 2))
    let e := tableRead s (t + 8 * idx)
    let ppn := bits e 47 12 * 4096
    if dpaWaits s (t + 8 * idx) 8 false then some ⟨0, 0, 0, true⟩
    else if !bit e 0 || bits e 63 48 != 0 || bits e 11 7 != 0 then none
    else if decide (dpaEnd s ≤ ppn) then none
    else if bit e 4 then
      if level < 3 then none
      else if ppn % levelSize level != 0 then none
      else some ⟨ppn, levelSize level, BitVec.ofNat 4 (bits e 3 1 + 8 * bits e 6 6), bit e 5⟩
    else if level == 5 then none
    else walkFrom s va fuel ppn

/-- The walk of a virtual address from a root table (R133). -/
def walkRoot (s : State) (root va : Nat) : Option Leaf := walkFrom s va 5 root

/-- The right an access needs (R134). -/
structure Need where
  rd : Bool := false
  wr : Bool := false
  ex : Bool := false
  deriving DecidableEq, Repr

/-- Whether a leaf's rights give what an access needs: bit 0 `RD`, 1 `W`, 2 `X`, 3 `PRIV` (R134). -/
def rightsOk (r : BitVec 4) (n : Need) (priv : Bool) : Bool :=
  (!n.rd || r.getLsbD 0) && (!n.wr || r.getLsbD 1) && (!n.ex || r.getLsbD 2) && (!r.getLsbD 3 || priv)

/-- What a translation comes to. -/
inductive Xl where
  | page (dpa : Nat)
  | fault (c : Cause) (reason : Nat)
  | moving
  deriving DecidableEq, Repr

/-- Put a translation into the core's 128 (R134); the entry replaced is the implementation's choice. -/
def tlbFill (s : State) (e : Xlate) : State :=
  if s.sys.tlb.length < 128 then { s with sys := { s.sys with tlb := e :: s.sys.tlb } }
  else
    { drawn s with sys := { s.sys with tlb := s.sys.tlb.set (Config.victim s.free % 128) e } }

def leafPage (l : Leaf) (va : Nat) : Nat := l.page + (va % l.size) / 4096 * 4096

/-- A code page of a resident launch (R93; DEDUCED, log entry 41). -/
def codePage (s : State) (page : Nat) : Bool :=
  s.sys.code.any (fun e => e.2 == page && s.dist.launches.any (fun l => l.lnum == e.1 && l.state == 1))
/-- What a leaf gives an access: code pages are mapped execute-only (R93, R134). -/
def leafGives (s : State) (r : BitVec 4) (dpa : Nat) (n : Need) (priv : Bool) : Bool :=
  rightsOk r n priv && !((n.rd || n.wr) && codePage s (dpa / 4096))
/-- A page becomes one of a launch's code pages. -/
def addCode (s : State) (lnum page : Nat) : State :=
  if s.sys.code.contains (lnum, page) then s else { s with sys := { s.sys with code := (lnum, page) :: s.sys.code } }

/-- A walker that met a `MOVING` leaf for this page looks again only after 256 clocks (R135). -/
def waitsMoving (s : State) (va : Nat) : Bool :=
  match s.sys.walk with
  | some (p, t) => p == va / 4096 && decide (s.clock < t)
  | none => false

/-- The walker re-reads the entry that was `MOVING` (R135): it waits again, or the page's translation is held. -/
def walkRetry (s : State) (lnum root : Nat) : State :=
  match s.sys.walk with
  | none => s
  | some (p, t) =>
    if s.clock < t then s
    else
      match walkRoot s root (p * 4096) with
      | none => { s with sys := { s.sys with walk := none } }
      | some l =>
        if l.size == 0 then s
        else if l.moving then { s with sys := { s.sys with walk := some (p, s.clock + 256) } }
        else tlbFill { s with sys := { s.sys with walk := none } } ⟨p * 4096 / l.size * l.size, l.size, lnum, l.page, l.rights⟩

/-- Translate the page of `va` for the core (R134, R135): held translations first, then a walk from the
launch's root. -/
def translate (s : State) (lnum root va : Nat) (n : Need) (priv : Bool) : State × Xl :=
  match s.sys.tlb.find? (fun e => e.vbase / e.size == va / e.size && e.lnum == lnum) with
  | some e =>
    let d := e.dpa + (va % e.size) / 4096 * 4096
    (s, if leafGives s e.rights d n priv then .page d else .fault .accessDenied 1)
  | none =>
    if waitsMoving s va then (s, .moving)
    else
      match walkRoot s root va with
      | none => (s, .fault .xlateFault 0)
      | some l =>
        if l.size == 0 then (s, .moving)
        else if l.moving then ({ s with sys := { s.sys with walk := some (va / 4096, s.clock + 256) } }, .moving)
        else
          let s := tlbFill s ⟨va / l.size * l.size, l.size, lnum, l.page, l.rights⟩
          (s, if leafGives s l.rights (leafPage l va) n priv then .page (leafPage l va) else .fault .accessDenied 1)

/-- Translate for an engine or the distributor, which hold no translation of the core's (R241, R366). -/
def translateFor (s : State) (root va : Nat) (n : Need) (priv : Bool) : Xl :=
  match walkRoot s root va with
  | none => .fault .xlateFault 0
  | some l => if l.moving then .moving else if leafGives s l.rights (leafPage l va) n priv then .page (leafPage l va) else .fault .accessDenied 1

/-! ### Runs of bytes at a DPA -/

/-- The pieces of a run of `n` bytes at `d`, sector by sector: sector, first byte in it, bytes. -/
def pieces : (fuel : Nat) → (d n : Nat) → List (Nat × Nat × Nat)
  | 0, _, _ => []
  | fuel + 1, d, n =>
    if n == 0 then []
    else
      let k := min n (32 - d % 32)
      (d / 32, d % 32, k) :: pieces fuel (d + k) (n - k)

/-- The pieces of a run of `n` bytes. -/
def runPieces (d n : Nat) : List (Nat × Nat × Nat) := pieces (n / 32 + 2) d n

/-- Read a run of bytes at a DPA as a viewer sees it: bytes and whether any sector is poisoned. -/
def dpaRead (s : State) (d n : Nat) (v : Viewer) (via : Via := .engine) : State × List Byte × Bool :=
  (runPieces d n).foldl (fun acc p =>
    let r := viewRead acc.1 p.1 v via
    (r.1, acc.2.1 ++ leBytes p.2.2 (r.2.1 >>> (8 * p.2.1)), acc.2.2 || r.2.2)) (s, [], false)

/-- Write a run of bytes at a DPA for a viewer. -/
def dpaWrite (s : State) (d : Nat) (bs : List Byte) (p : Bool) (via : Via) (v : Viewer) : State :=
  ((runPieces d bs.length).foldl (fun acc q =>
    (viewWrite acc.1 q.1 q.2.1 (acc.2.take q.2.2) p via v, acc.2.drop q.2.2)) (s, bs)).1

/-- The pages of a run of `n` bytes at `va`: page address and the bytes of the run in it. -/
def pagesOf : (fuel : Nat) → (va n : Nat) → List (Nat × Nat)
  | 0, _, _ => []
  | fuel + 1, va, n =>
    if n == 0 then []
    else
      let k := min n (4096 - va % 4096)
      (va, k) :: pagesOf fuel (va + k) (n - k)

def runPages (va n : Nat) : List (Nat × Nat) := pagesOf (n / 4096 + 2) va n

/-- What reading or writing GM without the core comes to. -/
inductive Got (α : Type) where
  | got (a : α)
  /-- It cannot be read or written. -/
  | bad
  /-- Some page is moving, or some line waits (R80, R129, R135, R269, R276, R429). -/
  | waits
  deriving DecidableEq, Repr

def Got.bind {α β : Type} (g : Got α) (f : α → Got β) : Got β :=
  match g with
  | .got a => f a
  | .bad => .bad
  | .waits => .waits

/-- The DPA runs of `n` bytes of GM at `va`, with a launch's root and privilege (R134, R135). -/
def gmPlaces (s : State) (root va n : Nat) (need : Need) (priv : Bool) : Got (List (Nat × Nat)) :=
  (runPages va n).foldl (fun acc p => acc.bind (fun l =>
    match translateFor s root p.1 need priv with
    | .page d => if dpaWaits s (d + p.1 % 4096) p.2 need.wr then .waits else .got (l ++ [(d + p.1 % 4096, p.2)])
    | .moving => .waits
    | .fault .. => .bad)) (.got [])

/-- Read `n` bytes of GM without the core, with a launch's root and privilege (R366, R241): the bytes, and whether some of
them are poisoned. -/
def gmFetch (s : State) (root va n : Nat) (priv : Bool) (v : Viewer) : Got (List Byte × Bool) :=
  (gmPlaces s root va n { rd := true } priv).bind (fun l => .got (l.foldl (fun acc r =>
    let q := dpaRead s r.1 r.2 v
    (acc.1 ++ q.2.1, acc.2 || q.2.2)) ([], false)))

/-- Write bytes of GM without the core, engine-side. -/
def gmStoreFor (s : State) (root va : Nat) (bs : List Byte) (v : Viewer) : Got State :=
  (gmPlaces s root va bs.length { wr := true } true).bind (fun l => .got (l.foldl (fun acc r =>
    (dpaWrite acc.1 r.1 (acc.2.take r.2) false .engine v, acc.2.drop r.2)) (s, bs)).1)

/-! ### Host windows -/

/-- Whether the host windows grant a launch an access to one host page (R425): 0 granted, 1 no window covers
it, 2 a covering window lacks the right. -/
def windowGrant (s : State) (lnum page : Nat) (folio rd wr : Bool) : Nat :=
  let w (n r : Nat) : Nat := hubNat s (0x4009000000 + 0x20 * n + r)
  let covering := (List.range 8).filter (fun n =>
    let c := w n 0x10
    bit c 0 && bit c 3 == folio && (folio || bits c 63 48 == lnum || bits c 63 48 == 0xFFFF) &&
    decide (bits (w n 0) 51 12 ≤ page) && decide (page ≤ bits (w n 8) 51 12))
  if covering.isEmpty then 1
  else if covering.any (fun n => (!rd || bit (w n 0x10) 1) && (!wr || bit (w n 0x10) 2)) then 0
  else 2

/-- Whether a run of host bytes is granted (R425), and permitted by the CXL controller's access table (R405). -/
def hostGranted (s : State) (lnum a n : Nat) (q : Requester) (rd wr : Bool) : Nat :=
  let ps := (List.range ((a % 4096 + n + 4095) / 4096)).map (fun i => a / 4096 + i)
  if ps.any (fun p => windowGrant s lnum p false rd wr == 1) then 1
  else if ps.any (fun p => windowGrant s lnum p false rd wr == 2) || ps.any (fun p => !permits s 160 p q rd wr) then 2
  else 0

end Sys2Proof.Machine
end

