-- ==== Sys2Proof/Machine/Tasks.lean ====
section
/-!
DEFINITION. What the distributor does to tasks, nodes and launches when one is stopped: kill, node
replay, launch abort, residency reports (R368, R383, R402, R403).
-/
namespace Sys2Proof.Machine

/-- OC addresses of the core's LS and of its quad's QS (R118): core 0, quad 0 (DESIGN CHOICE, log entry 1). -/
def lsBase : Nat := 0x1000000000
def accBase : Nat := 0x1000100000
def qsBase : Nat := 0x2000000000
def vrBase : Nat := 0x1000200000
def regBase : Nat := 0x1000210000
def apertureBase : Nat := 0x1000300000
def engineBase : Nat := 0x1000380000

/-- The task's viewer: its accesses are staged unless its node is unstaged (R130). -/
def viewerOf (s : State) (lnum node tag : Nat) : Viewer :=
  { lnum := lnum, node := node, tag := tag
    stages := ((nodeOf s lnum node).map (fun n => !n.unstaged)).getD false }

def coreViewer (s : State) : Viewer :=
  match s.core.task with
  | some t => viewerOf s t.lnum t.node t.tag
  | none => {}

def coreLnum (s : State) : Nat := (s.core.task.map (·.lnum)).getD 0
def coreRoot (s : State) : Nat := ((launchOf s (coreLnum s)).map (·.root)).getD 0

/-- A core access as the access tables see it (R405): class 0, core 0. -/
def coreReq (s : State) : Requester := { cls := 0, id := 0, lnum := coreLnum s }

/-- Change the task bound to the core. -/
def onTask (s : State) (f : Task → Task) : State :=
  { s with core := { s.core with task := s.core.task.map f } }

/-- The task can no longer be restarted (R382). -/
def spoil (s : State) : State := onTask s (fun t => { t with spoiled := true })

/-! ### Residency reports -/

/-- Word 0 of a launch's report (R368). -/
def reportWord0 (l : Launch) : Nat :=
  l.state * 2 ^ 56 + l.reason * 2 ^ 48 + (if l.state == 3 then 0 else l.lnum)

/-- The eight words of the residency report (R368). -/
def reportWords (l : Launch) : List Nat :=
  [reportWord0 l, l.nreplay * 2 ^ 32 + l.conflict,
   min l.drains 0xFFFF + min l.kills 0xFFFF * 2 ^ 16 + min l.ckpts 0xFFFF * 2 ^ 32 + b2n l.overflow * 2 ^ 48,
   0, 0, 0, 0, 0]

/-- A report in GM is written as soon as the reports before it are and its own page does not wait (R80, R135, R368, R429). -/
def reportGm (s : State) (root a : Nat) (bs : List Byte) : State :=
  let later : State := { s with dist := { s.dist with reports := s.dist.reports ++ [(root, (a, bs))] } }
  if !s.dist.reports.isEmpty then later
  else
    match gmStoreFor s root a bs {} with
    | .got t => t
    | .bad => s
    | .waits => later
/-- The reports that have waited. -/
def reportsDue (s : State) : State :=
  if s.dist.reports.isEmpty then s
  else s.dist.reports.foldl (fun s r => reportGm s r.1 r.2.1 r.2.2) { s with dist := { s.dist with reports := [] } }

/-- Write a report to its place in GM, or in host memory when a window of launch `who` grants it (R366, R368,
R425). The distributor passes the access tables (R406; DEDUCED, log entry 31). -/
def writeReportFor (s : State) (l : Launch) (who : Nat) : State :=
  let bs := (reportWords l).flatMap (fun w => leBytes 8 w)
  if l.reportHm then
    if hostGranted s who l.report 64 { pass := true } false true == 0 then
      { s with sys := { s.sys with host := s.sys.host.write (l.report % 2 ^ 52) bs } }
    else s
  else reportGm s l.root l.report bs

/-- Write the report of a numbered launch (R368). -/
def writeReport (s : State) (lnum : Nat) : State :=
  match launchOf s lnum with
  | none => s
  | some l => writeReportFor s l lnum

/-- Change a launch and write its report. -/
def reportLaunch (s : State) (lnum : Nat) (f : Launch → Launch) : State := writeReport (updLaunch s lnum (fun l => { f l with stale := false })) lnum
/-- The reports of launches with a node that has just become overflowed (R131, R368). -/
def overflowReports (s : State) : State :=
  (s.dist.launches.filter (·.stale)).foldl (fun s l => reportLaunch s l.lnum id) s

/-- Fire an MSI-X vector (R427). -/
def fire (s : State) (v : Nat) : State := { s with plat := { s.plat with msix := v :: s.plat.msix } }
/-- A launch that came through `DDOOR` reaches its end: vector 1 (R427). -/
def fireEnd (s : State) (l : Launch) : State := if l.ddoor then fire s 1 else s

/-! ### Stopping work -/

/-- Everything of a task that a kill discards from the core: results in flight, the vector, statistics
and matrix units' state with the words of the tiles, which then read zero (DESIGN CHOICE, log entry 106), unstarted commands and the flag file (R175, R203, R222, R260, R277, R383). Started
commands run on, and lose their tag, by which what they stage is discarded (R260). A core that a debugger has halted stays
halted (R408). -/
def dropCoreState (s : State) : State :=
  { s with
    core := { s.core with
      exposed := [], levels := [], board := [], bundle := [], idx := 0, lx := none, pops := [], pushes := []
      target := none, waiting := none, resume := none, owed := 0, held := 0, stepped := false
      preempt := none, nextTask := none, spilling := false, inv := [], rangeBusy := false, bteErr := 0
      vu := {}
      mx := { s.core.mx with array := [], transfer := [], panels := 0, panelPoison := 0, tilePoison := 0, pert := none, chk := none }
      task := none, run := match s.core.run with | .halted w => .halted w | _ => .idle }
    oc := s.oc.clear accBase 0x100000
    bte := { s.bte with
      chan := s.bte.chan.map (fun c => (c.1, { c.2 with queue := [], active := c.2.active.map (fun a => { a with cmd := { a.cmd with tag := 0 } }) }))
      armed := [], flips := none }
    rows := { s.rows with asks := [], ports := s.rows.ports.map (fun p => (p.1, { p.2 with queue := (p.2.queue.filter (·.started)).map (fun o => { o with tag := 0 }) })) }
    fabric := { s.fabric with ports := s.fabric.ports.map (fun p => (p.1, { p.2 with
      queue := []
      active := p.2.active.map (fun a => { a with cmd := { a.cmd with tag := 0 } }) })) } }

/-- The quad queues without the core's unfilled reservations (R96). -/
def withdraw (s : State) (ps : List Push) : State :=
  { s with queues := s.queues.map (fun q => q.filter (fun e => !(e.val.isNone && ps.any (fun p => p.entry == e.id)))) }

/-- Every reservation the core holds, in its bundle, in held levels and on results in flight (R96). -/
def coreReservations (c : Core) : List Push :=
  c.pushes ++ c.levels.flatMap (·.pushes) ++
  (c.exposed ++ c.levels.flatMap (·.writes)).filterMap (fun l =>
    match l.dst with | .queue q e => some ⟨0, 0, q, e⟩ | _ => none) ++
  c.board.filterMap (fun l => match l.dst with | .queue q e => some ⟨0, 0, q, e⟩ | _ => none)

/-- Stop the core's task as a kill stops it (R383): nothing of its staged writes or tickets yet. -/
def stopCore (s : State) : State := dropCoreState (withdraw s (coreReservations s.core))

/-- Stop every task of a node: the one on the core and those in the vault (R402). -/
def stopNode (s : State) (lnum node : Nat) : State :=
  let s := if (s.core.task.map (fun t => t.lnum == lnum && t.node == node)).getD false then stopCore s else s
  { s with dist := { s.dist with
      vault := s.dist.vault.filter (fun i => !((i.core.task.map (fun t => t.lnum == lnum && t.node == node)).getD false))
      spill := s.dist.spill.filter (fun i => !((i.1.core.task.map (fun t => t.lnum == lnum && t.node == node)).getD false))
      restore := s.dist.restore.filter (fun i => !((i.1.core.task.map (fun t => t.lnum == lnum && t.node == node)).getD false)) } }

/-- Which of the arrivals are those of a step of the node's present run (R20, R376). -/
def Node.met (n : Node) (l : List Arrival) (step : Nat) (atEnd : Bool) : List Arrival :=
  l.filter (fun e => e.gen == n.gen && e.step == step && e.atEnd == atEnd)

/-- The arrivals at a barrier's open phase, at the barrier of the compute phase, and at the end of the exchange phase. -/
def Node.atBar (n : Node) (k : Bar) : List Arrival := n.met k.others k.phase false
def Node.atClose (n : Node) : List Arrival := n.met n.arrivals n.superstep false
def Node.atEnd (n : Node) : List Arrival := n.met n.arrivals n.superstep true

/-- The list with an arrival, which replaces what it held of the same package, run and step. -/
def noteArrival (l : List Arrival) (a : Arrival) : List Arrival :=
  a :: l.filter (fun e => !(e.x == a.x && e.gen == a.gen && e.step == a.step && e.atEnd == a.atEnd))

/-- A node back before its first phase, ready (R402, R153). Of its barriers there stay the arrivals of packages that have begun
it again before this one. -/
def Node.restart (n : Node) : Node :=
  { n with signals := n.npred, phase := .waiting, superstep := 0, dies := [], working := 0, closeAt := none
           closedByEnd := false, xchgPending := false, sendSlots := 0, sendAt := none, gen := (n.gen + 1) % 256
           bars := (n.bars.filter (fun k => k.scope == .pd)).map (fun k => { scope := .pd, id := k.id, others := k.others.filter (fun e => e.gen != n.gen) })
           arrivals := n.arrivals.filter (fun e => e.gen != n.gen) }

/-- The replay units of a launch that has ended are emptied (R315). -/
def dropUnits (s : State) (lnum : Nat) : State :=
  { s with replay := s.replay.map (fun u => if u.loadUser.1 == lnum then {} else u) }

/-- What one member of a launch on several packages does, the others are to do too (R153, R402, R403): they are told on the next
clock. -/
def noteMembers (s : State) (kind lnum arg : Nat) : State :=
  if ((launchOf s lnum).map (fun l => l.extent &&& ~~~(1#64 <<< s.part.cx.val) != 0)).getD false then
    { s with dist := { s.dist with notices := s.dist.notices ++ [(kind, lnum, arg)] } }
  else s

/-- A launch aborts on this package (R403): every task stopped, staged writes of uncommitted nodes discarded, the report
aborted with its reason. -/
def abortHere (s : State) (lnum reason : Nat) : State :=
  match launchOf s lnum with
  | none => s
  | some l =>
    if 2 ≤ l.state then s else
    let s := (List.range l.nodes.length).foldl (fun s n => discardNode (stopNode s lnum n) lnum n) s
    fireEnd (reportLaunch (dropUnits s lnum) lnum (fun l => { l with state := 4, reason := reason, bound := false })) l

/-- Whether the core's die has another enabled core, for R402. -/
def otherCore (s : State) : Bool := s.part.cores.any (fun c => c != 0 && decide (c < 64))

/-- A launch aborts on every member package (R403). -/
def abortLaunch (s : State) (lnum reason : Nat) : State := noteMembers (abortHere s lnum reason) 10 lnum reason

/-- Discard a node on this package and queue it again (R153, R402). -/
def requeueNode (s : State) (lnum node : Nat) : State :=
  updNode (discardNode (stopNode s lnum node) lnum node) lnum node Node.restart

/-- A node begins again on this package (R402), none of its tickets bound to a core to be avoided. -/
def replayHere (s : State) (lnum node : Nat) (avoid : Bool) : State :=
  let s := requeueNode s lnum node
  let s := updNode s lnum node (fun n => { n with replays := n.replays + 1, avoidCore := avoid })
  reportLaunch s lnum (fun l => { l with nreplay := l.nreplay + 1 })

/-- A conflict replay on this package (R153). -/
def conflictHere (s : State) (lnum node : Nat) : State :=
  reportLaunch (requeueNode s lnum node) lnum (fun l => { l with conflict := l.conflict + 1 })

/-- A node replay on every package of its launch (R402); past four replays the launch aborts with the cause. -/
def nodeReplay (s : State) (lnum node cause : Nat) : State :=
  match nodeOf s lnum node with
  | none => stopCore s
  | some n =>
    if 4 ≤ n.replays then abortLaunch s lnum cause
    else noteMembers (replayHere s lnum node (otherCore s)) 9 lnum node

/-- A recovery cause in a task of a node (R402, R403): replay, or abort for a node that is unstaged or
overflowed. -/
def recoverNode (s : State) (lnum node : Nat) (cause : Cause) : State :=
  match nodeOf s lnum node with
  | none => stopCore s
  | some n => if n.unstaged || n.overflowed then abortLaunch s lnum cause.code else nodeReplay s lnum node cause.code

/-- A recovery cause in the core's task (R402, R403). -/
def recover (s : State) (cause : Cause) : State :=
  match s.core.task with
  | none => stopCore s
  | some t => recoverNode s t.lnum t.node cause

/-- The launch of the core's task aborts (R403). -/
def abortCore (s : State) (reason : Nat) : State :=
  match s.core.task with
  | none => stopCore s
  | some t => abortLaunch s t.lnum reason

end Sys2Proof.Machine
end

