-- ==== Sys2Proof/Machine/Ops.lean ====
section
/-!
DEFINITION. The named operations over the core: registers and queue ports (R38 to R41, R95, R96), exposed
and scoreboarded results (R34, R35), the commit of a syllable (R31, R404), taking a trap and returning
from one (R398 to R400, R412).
-/
namespace Sys2Proof.Machine

/-- Change the core. -/
def onCore (s : State) (f : Core → Core) : State := { s with core := f s.core }

/-! ### Registers -/

/-- `x0` reads zero (R38). -/
def getX (c : Core) (r : XReg) : Word := if r.val = 0 then 0 else c.x[r]
/-- Writes of `x0` are discarded (R38). -/
def setX (c : Core) (r : XReg) (v : Word) (k : Mark) : Core :=
  if r.val = 0 then c else { c with x := c.x.set r v, xmark := c.xmark.set r k }

/-- `p0` reads one (R94). -/
def getP (c : Core) (r : PReg) : Bool := if r.val = 0 then true else c.p.getLsbD r.val
/-- Writes of `p0` are discarded (R94). -/
def setP (c : Core) (r : PReg) (v : Bool) : Core :=
  if r.val = 0 then c
  else { c with p := if v then c.p ||| (1#8 <<< r.val) else c.p &&& ~~~(1#8 <<< r.val) }

/-- A guard or branch condition (R45): `p[g]` xor the negate bit. -/
def holds (c : Core) (g : Guard) : Bool := getP c g.pred ^^ g.neg

/-! ### Queue ports -/

/-- The port of a scalar register number 28 to 31 (R38). -/
def portOf (r : XReg) : Option (Fin 4) := if h : 28 ≤ r.val then some ⟨r.val - 28, by omega⟩ else none
/-- The binding of a port: the one in force when the bundle in flight, or the split bundle to be resumed, issued
(R37, R41, R417). -/
def binding (c : Core) (n : Fin 4) : Nat := (if c.bundle.isEmpty && c.resume.isNone then c.qmap[n] else c.qmapAt[n]).toNat
/-- `QMAPn.KIND` (R39). -/
def kindOf (c : Core) (n : Fin 4) : Nat := bits (binding c n) 3 0
/-- `QMAPn.QUEUE` (R39). -/
def queueOf (c : Core) (n : Fin 4) : Fin 16 := ⟨bits (binding c n) 11 8 % 16, Nat.mod_lt _ (by decide)⟩
/-- The bound port that a scalar register names, if it is bound (R39). -/
def boundPort (c : Core) (r : XReg) : Option (Fin 4) :=
  match portOf r with
  | none => none
  | some n => if kindOf c n == 0 then none else some n

/-- The entries of the queue a port is bound to (R40). -/
def entriesOf (s : State) (n : Fin 4) : List QEntry :=
  if kindOf s.core n == 1 then s.queues[queueOf s.core n] else s.core.completions
/-- The capacity of that queue (R40). -/
def capacityOf (c : Core) (n : Fin 4) : Nat := if kindOf c n == 1 then 32 else 64

def setEntries (s : State) (n : Fin 4) (l : List QEntry) : State :=
  if kindOf s.core n == 1 then { s with queues := s.queues.set (queueOf s.core n) l }
  else { s with core := { s.core with completions := l } }

/-- Fill a reserved entry of a quad queue (R96). -/
def fillEntry (s : State) (q : Fin 16) (entry : Nat) (v : Word) (k : Mark) : State :=
  { s with queues := s.queues.set q (s.queues[q].map (fun e => if e.id == entry then { e with val := some v, mark := k } else e)) }

/-- The value popped at issue for a port in this bundle (R41). -/
def poppedAt (c : Core) (n : Fin 4) : Option Pop := c.pops.find? (fun p => p.port == n)

/-- The value that the syllable at the current index popped for a register (R95, R96). -/
def poppedHere (c : Core) (r : XReg) : Option Pop :=
  (portOf r).bind (fun n => c.pops.find? (fun p => p.port == n && p.idx == c.idx))

/-- A scalar source as the bundle reads it: the value the syllable popped, else the plain register; a bound
port from which nothing was popped gives 0 (R95, R96). -/
def readX (s : State) (r : XReg) : Word :=
  match poppedHere s.core r with
  | some p => p.val
  | none => if (boundPort s.core r).isSome then 0 else getX s.core r
def readMark (s : State) (r : XReg) : Mark :=
  match poppedHere s.core r with
  | some p => p.mark
  | none => if r.val = 0 ∨ (boundPort s.core r).isSome then .clean else s.core.xmark[r]
def readNat (s : State) (r : XReg) : Nat := (readX s r).toNat

/-! ### Results -/

/-- Write a destination (R34, R35). Vector and statistics values are little-endian numbers, W in the low
4,096 bits of a statistics register (R198). -/
def writeDest (s : State) (d : Dest) (v : Nat) (k : Mark) : State :=
  match d with
  | .x r => { s with core := setX s.core r (BitVec.ofNat 64 v) k }
  | .p r => { s with core := setP s.core r (v % 2 == 1) }
  | .v r => { s with core := { s.core with v := s.core.v.set r (BitVec.ofNat 4096 v), vmark := s.core.vmark.set r k } }
  | .m r => { s with core := { s.core with m := s.core.m.set r (BitVec.ofNat 1024 v) } }
  | .g r => { s with core := { s.core with
      g := s.core.g.set r ⟨BitVec.ofNat 4096 v, BitVec.ofNat 4096 (v >>> 4096), BitVec.ofNat 4096 (v >>> 8192)⟩
      gmark := s.core.gmark.set r k } }
  | .queue q e => fillEntry s q e (BitVec.ofNat 64 v) k

/-- Add saturations and absent pairs to `VQSTAT`, each stopping at its largest value (R172). -/
def addVqstat (s : State) (sat absent : Nat) : State :=
  if sat == 0 && absent == 0 then s
  else
    let w := s.core.vu.vqstat.toNat
    let v := min (bits w 31 0 + sat) 0xFFFFFFFF + min (bits w 47 32 + absent) 0xFFFF * 2 ^ 32
    onCore s (fun c => { c with vu := { c.vu with vqstat := BitVec.ofNat 64 v } })

/-- One exposed result lands. -/
def land (s : State) (l : Landing) : State := addVqstat (writeDest s l.dst l.val l.mark) l.sat 0

/-- Every exposed result readable from schedule clock `t` or earlier is written, in order of issue (R34). -/
def landThrough (s : State) (t : Nat) : State :=
  let now := s.core.exposed.filter (fun l => decide (l.due ≤ t))
  let s := { s with core := { s.core with exposed := s.core.exposed.filter (fun l => !decide (l.due ≤ t)) } }
  now.foldl land s

/-- An exposed result of latency `n` (R34). -/
def expose (s : State) (n : Nat) (d : Dest) (v : Nat) : State :=
  onCore s (fun c => { c with exposed := c.exposed ++ [{ dst := d, val := v, due := c.sched + n }] })
def exposeMarked (s : State) (n : Nat) (d : Dest) (v : Nat) (k : Mark) : State :=
  onCore s (fun c => { c with exposed := c.exposed ++ [{ dst := d, val := v, mark := k, due := c.sched + n }] })
/-- An exposed result of the vector unit with the saturations it adds (R168, R172). -/
def exposeVec (s : State) (n : Nat) (d : Dest) (v sat : Nat) (k : Mark) : State :=
  onCore s (fun c => { c with exposed := c.exposed ++ [{ dst := d, val := v, mark := k, due := c.sched + n, vec := true, sat := sat }] })

/-- The queue entry reserved for a port in this bundle (R96). -/
def reservedAt (c : Core) (n : Fin 4) : Option Push := c.pushes.find? (fun p => p.port == n)
/-- The entry that the syllable at the current index reserved for its destination (R96). -/
def reservedHere (c : Core) (r : XReg) : Option Push :=
  (portOf r).bind (fun n => c.pushes.find? (fun p => p.port == n && p.idx == c.idx))
/-- The reservation is used up. -/
def takeReserved (s : State) (e : Push) : State := onCore s (fun c => { c with pushes := c.pushes.filter (fun q => q.entry != e.entry) })

/-- A scalar result with exposed latency `n`: a push of a bound port is filled as the syllable commits
(R95, R96). -/
def exposeX (s : State) (n : Nat) (r : XReg) (v : Word) : State :=
  match reservedHere s.core r with
  | some e => fillEntry (takeReserved s e) e.queue e.entry v .clean
  | none => if (boundPort s.core r).isSome then s else expose s n (.x r) v.toNat

/-- Where a load or another late scalar result goes: the register, or the entry reserved for its port
(R137, R162). The reservation passes to the result. -/
def lateDest (s : State) (r : XReg) : State × Option Dest :=
  match reservedHere s.core r with
  | some e => (takeReserved s e, some (.queue e.queue e.entry))
  | none => if r.val = 0 ∨ (boundPort s.core r).isSome then (s, none) else (s, some (.x r))

/-- A new pending result (R35); `val` and the clocks it still takes may be unknown. Answers its identity. -/
def pend (s : State) (d : Dest) (v : Option Nat) (k : Mark) (clocks : Option Nat) : State × Nat :=
  ({ s with core := { s.core with
      nextId := s.core.nextId + 1
      board := s.core.board ++ [{ id := s.core.nextId, dst := d, val := v, mark := k, due := clocks.map (s.clock + ·) }] } }, s.core.nextId)

/-- A pending result of the vector unit (R168, R195): its value, and the clock `due` on which it is written, when they are
known; else the crossbar supplies them. -/
def pendVec (s : State) (d : Dest) (v : Option Nat) (k : Mark) (due : Option Nat) (sat absent : Nat) : State × Nat :=
  ({ s with core := { s.core with
      nextId := s.core.nextId + 1
      board := s.core.board ++ [{ id := s.core.nextId, dst := d, val := v, mark := k, due := due, vec := true, sat := sat, absent := absent }] } }, s.core.nextId)

/-- A scoreboarded scalar result known at issue, written `n` clocks later (R35). -/
def pendX (s : State) (r : XReg) (v : Word) (k : Mark) (n : Nat) : State :=
  match lateDest s r with
  | (s, some d) => (pend s d (some v.toNat) k (some n)).1
  | (s, none) => s

/-- Supply the value of a pending result, written `n` clocks from now. -/
def supply (s : State) (id : Nat) (v : Nat) (k : Mark) (n : Nat) : State :=
  onCore s (fun c => { c with board := c.board.map (fun p => if p.id == id then { p with val := some v, mark := k, due := some (s.clock + n) } else p) })

/-- A pending result whose value and clock have come. -/
def Pending.isDue (p : Pending) (clock : Nat) : Bool :=
  p.val.isSome && (p.due.map (fun t => decide (t ≤ clock))).getD false

/-- Write every pending result that is due (R35, `SCOREBOARD_RESULT_WRITE`). -/
def writeDue (s : State) : State :=
  let now := s.core.board.filter (fun p => p.isDue s.clock)
  let s := { s with core := { s.core with board := s.core.board.filter (fun p => !p.isDue s.clock) } }
  now.foldl (fun s p => addVqstat (writeDest s p.dst (p.val.getD 0) p.mark) p.sat p.absent) s

/-! ### The status word -/

/-- `SW.VBUSY` (R168): an unlanded result of the vector unit or an entry of its queue. -/
def vbusy (c : Core) : Bool :=
  c.exposed.any (·.vec) || c.levels.any (fun l => l.writes.any (·.vec)) || c.board.any (·.vec) || !c.vu.queue.isEmpty

/-- The vector unit's scoreboarded work, for which `VBUSY`'s waits wait once the drain clocks are over (R168, R438). -/
def vecWork (c : Core) : Bool := c.board.any (·.vec) || !c.vu.queue.isEmpty

/-- The status word as a 64-bit value (R43). -/
def swWord (c : Core) : Word :=
  let w := c.sw
  BitVec.ofNat 64 (w.srf.val + 8 * b2n w.srfv + 2 ^ 8 * w.cause.toNat + 2 ^ 16 * b2n w.ie + 2 ^ 17 * b2n w.priv +
    2 ^ 18 * b2n w.step + 2 ^ 19 * b2n w.envOpen + 2 ^ 20 * b2n (vbusy c) + 2 ^ 24 * w.causeDetail.toNat)

/-- A write of `SW` (R43): the fields marked RW. -/
def swWrite (w : StatusWord) (v : Word) : StatusWord :=
  let n := v.toNat
  { w with
    causeDetail := BitVec.ofNat 8 (bits n 31 24), step := bit n 18, priv := bit n 17, ie := bit n 16
    cause := BitVec.ofNat 8 (bits n 15 8), srfv := bit n 3, srf := ⟨n % 8, Nat.mod_lt _ (by decide)⟩ }

/-! ### Commit -/

/-- What a syllable comes to. -/
inductive Eff where
  /-- It has had its effect. -/
  | done (s : State)
  /-- It waits: nothing of it is committed (R91). -/
  | wait (s : State)
  /-- It traps (R136, R399): cause, cause detail, `TRAPVAL`. -/
  | trap (s : State) (c : Cause) (detail : Nat) (val : Word)
  /-- It has left the bundle for good: a return from a trap, a halt, a task that ended. -/
  | left (s : State)

/-- A wait with a kind, keeping the clock it began at: 0 fences and units, 3 `BAR`, 4 `LWAIT`. -/
def waitFor (s : State) (kind : Nat) : Eff := .wait (onCore s (fun c => { c with waiting := some ((c.waiting.map (·.1)).getD s.clock, kind) }))

/-- Add a word to the envelope's CRC (R404), with the flip that `TINJ` armed (R419). -/
def envAdd (c : Core) (w : Nat) : Core :=
  let w := if c.envFlip then w ^^^ 1 else w
  { c with envCrc := BitVec.ofNat 32 (crcRun c.envCrc.toNat (leBytes 4 w)), envFlip := false }

/-- The words that the syllable at the current index commits: its LX first (R44). -/
def commitWords (c : Core) : List Nat :=
  ((if c.lx.isSome then [c.bundle[c.idx - 1]?] else []) ++ [c.bundle[c.idx]?]).filterMap (fun w => w.map (·.toNat))

/-- The address of the syllable after the bundle. -/
def afterBundle (c : Core) : CodeAddr := c.pc + BitVec.ofNat 56 (4 * c.bundle.length)

/-- The bundle is over: the next one issues one schedule clock later, or after a branch's bubbles (R92). -/
def endBundle (c : Core) : Core :=
  let next := match c.target with | some t => t.1 | none => afterBundle c
  let bubbles := match c.target with | some t => t.2 | none => 0
  { c with pc := next, bundle := [], idx := 0, lx := none, pops := [], pushes := [], target := none, waiting := none
           waited := false, owed := 1 + bubbles }

/-- The task that a `TKT` of the bundle has put in its place begins (R386). -/
def beginNext (now : Nat) (c : Core) : Core :=
  match c.nextTask with
  | some t => { c with task := some { t with boundAt := now, drain := t.drain || (c.task.map (·.drain)).getD false }, nextTask := none }
  | none => c

/-- The clock on which a wait of the bundle ended issues the next bundle (R91, R310, R377): the schedule clock that
the bundle owes has been that clock. -/
def endWait (s : State) : State :=
  let s := onCore s (fun c => { c with sched := c.sched + 1, owed := c.owed - 1, waited := false })
  landThrough s s.core.sched

/-- The core counts and hashes what it commits: an envelope is open, and the bundle is no step of a debugger (R404;
DEDUCED, log entry 112). -/
def counting (c : Core) : Bool := c.sw.envOpen && !c.stepOnce

/-- The mode in which the bundle in flight issued, or in which the next one will (R63). -/
def corePriv (s : State) : Bool := if s.core.bundle.isEmpty then s.core.sw.priv else s.core.privAt

/-- A control register as the bundle in flight sees it: `w`, what it holds, unless the bundle names it; then what it
held as the bundle issued (R172, R413). -/
def csrSeen (s : State) (n : Nat) (w : Word) : Word := ((s.core.csrAt.find? (fun e => e.1 == n)).map (·.2)).getD w

/-- The commit of the syllable at the current index (R31, R44, R404). `open_` says whether an envelope
was open before and after its effect. -/
def commit (s : State) (open_ : Bool) : State :=
  let w := s.core.waited || s.core.waiting.isSome
  let last := decide (s.core.bundle.length ≤ s.core.idx + 1)
  let s := onCore s (fun c =>
    let c := if open_ then (commitWords c).foldl envAdd c else c
    if last then beginNext s.clock (endBundle (if open_ then { c with envCount := c.envCount + 1 } else c))
    else { c with idx := c.idx + 1, lx := none, waiting := none, waited := w })
  if last && w then endWait s else s

/-- One stall clock (R91): nothing issues; the wait is looked at again after it. -/
def stall (s : State) : State := onCore s (fun c => { c with held := 1 })

/-! ### Traps -/

/-- The index that `SRF` names for the syllable at the current index: its LX when it has one (R44). -/
def trapIndex (c : Core) : Nat := if c.lx.isSome then c.idx - 1 else c.idx

/-- How the bundle in flight, or the split bundle still to be resumed, issued (R37, R63, R106, R417). -/
def splitView (c : Core) : Option SplitView :=
  if c.bundle.isEmpty && c.resume.isNone then none else some ⟨c.qmapAt, c.counts, c.privAt, c.csrAt⟩

/-- The exposed results, pops and reservations that an interruption sets aside (R96, R400). -/
def heldLevel (c : Core) (t from_ : Nat) : HeldLevel :=
  { writes := c.exposed.map (fun l => { l with due := l.due - t })
    pops := c.pops.filter (fun p => decide (from_ ≤ p.idx))
    pushes := c.pushes.filter (fun p => decide (from_ ≤ p.idx))
    split := splitView c }

/-- Leave the interrupted schedule for later (R400): results readable by clock `t` are written, the others
held with their distance from `t`, and with them the pops and reservations of the syllables from `from_`
on (R96). -/
def holdSchedule (s : State) (t from_ : Nat) : State :=
  let s := landThrough s t
  onCore s (fun c => { c with
    levels := heldLevel c t from_ :: c.levels
    exposed := [], pops := [], pushes := [], bundle := [], idx := 0, lx := none, target := none, waiting := none, waited := false
    resume := none, owed := 0, stepped := false, vu := { c.vu with scalar := none, chk := none }, mx := { c.mx with chk := none } })

/-- The point that a boundary leaves (R399): the next bundle, or the remainder of the split bundle that the core was about
to resume (R37; DEDUCED, log entry 91). -/
def boundaryPoint (c : Core) : Bool × Nat := (c.resume.isSome, c.resume.getD 0)

/-- Enter the trap handler (R398) with the point of R399. -/
def enterHandler (s : State) (c : Cause) (detail : Nat) (val : Word) (tpc : CodeAddr) (srfv : Bool) (srf t : Nat) : State :=
  let old := swWord s.core
  let s := holdSchedule s t srf
  onCore s (fun k => { k with
    trapSw := old, trapPc := tpc, trapVal := val
    sw := { k.sw with cause := BitVec.ofNat 8 c.code, causeDetail := BitVec.ofNat 8 detail
                      srfv := srfv, srf := ⟨srf % 8, Nat.mod_lt _ (by decide)⟩
                      priv := true, ie := false, step := false, envOpen := false }
    pc := k.trapVec, entering := true })

/-- Halt the core for the debugger (R408) at the point of R399: `TRAPPC` and `SRF` are set, `SW` otherwise
unchanged (R418). -/
def haltCore (s : State) (why : Fin 5) (tpc : CodeAddr) (srfv : Bool) (srf t : Nat) : State :=
  let s := holdSchedule s t srf
  onCore s (fun k => { k with
    trapPc := tpc
    sw := { k.sw with srfv := srfv, srf := ⟨srf % 8, Nat.mod_lt _ (by decide)⟩ }
    pc := tpc, run := .halted why, haltAsked := false, stepOnce := false })

/-- `DBGCTL.ATTACH` and `DBGCTL.BRKHALT` (R407). -/
def dbgAttach (s : State) : Bool := bit (hubNat s 0x4007000000) 0
def dbgBrkHalt (s : State) : Bool := bit (hubNat s 0x4007000000) 1

/-- Take a trap (R396 to R399, R402, R403): recovery causes never reach the handler, a `DEBUG_STEP` goes
to an attached debugger, a trap without a handler aborts the launch. `t` is the schedule clock at which
the interrupted program would issue next. -/
def takeTrap (s : State) (c : Cause) (detail : Nat) (val : Word) (tpc : CodeAddr) (srfv : Bool) (srf t : Nat) : State :=
  match c with
  | .poisonConsumed | .envelopeMismatch => recover s c
  | .debugStep =>
    if dbgAttach s then haltCore s 1 tpc srfv srf t
    else if s.core.trapVec == 0 then abortCore s c.code
    else enterHandler s c detail val tpc srfv srf t
  | _ =>
    if s.core.trapVec == 0 then abortCore s c.code
    else enterHandler s c detail val tpc srfv srf t

/-- A trap of the syllable at the current index splits its bundle there (R399). -/
def trapHere (s : State) (c : Cause) (detail : Nat) (val : Word) : State :=
  takeTrap s c detail val s.core.pc true (trapIndex s.core) s.core.sched

/-- A trap at decode: nothing of the bundle has committed (R63, R399). -/
def trapDecode (s : State) (c : Cause) (detail : Nat) (val : Word) : State :=
  takeTrap s c detail val s.core.pc false 0 s.core.sched

/-- What `QCOUNT` gives for a port (R106): entries filled, and capacity less filled and reserved entries. -/
def countWord (s : State) (n : Fin 4) : Word :=
  if kindOf s.core n == 0 then 0
  else
    let l := entriesOf s n
    BitVec.ofNat 64 ((capacityOf s.core n - l.length) * 2 ^ 32 + (l.filter (fun e => e.val.isSome)).length)

/-- What an effect makes of the state: commit, stall, trap. -/
def settle (old : State) (e : Eff) : State :=
  match e with
  | .done s => commit s (counting old.core && s.core.sw.envOpen)
  | .wait s => stall s
  | .trap s c d v => trapHere s c d v
  | .left s => s

/-- Resume what a trap, a halt or a checkpoint interrupted (R400, R412): the innermost level's held writes
land at their distances from the schedule clock at which the bundle issues again; its pops and
reservations, and the bindings, counts and mode it issued with, stay with a split bundle, and are given up when the
bundle issues whole (R37, R96). -/
def resumeAt (s : State) (pc : CodeAddr) (srfv : Bool) (srf : Nat) (wait : Nat) : State :=
  match s.core.levels with
  | [] => onCore s (fun c => { c with
      pc := pc, bundle := [], idx := 0, lx := none, pops := [], pushes := [], target := none, waiting := none, owed := wait
      resume := if srfv then some srf else none
      qmapAt := c.qmap, counts := Vector.ofFn (countWord s), privAt := c.sw.priv, csrAt := [] })
  | l :: rest =>
    let s := if srfv then s else withdraw s l.pushes
    let view := l.split.getD ⟨s.core.qmap, Vector.ofFn (countWord s), s.core.sw.priv, []⟩
    onCore s (fun c => { c with
      pc := pc, bundle := [], idx := 0, lx := none, target := none, waiting := none, owed := wait
      resume := if srfv then some srf else none
      qmapAt := view.qmap, counts := view.counts, privAt := view.priv, csrAt := view.csr
      exposed := c.exposed ++ l.writes.map (fun w => { w with due := c.sched + wait + w.due })
      levels := rest
      pops := if srfv then l.pops else []
      pushes := if srfv then l.pushes else [] })

/-- The return from a trap (R412): `PRIV`, `IE`, `STEP` and `ENVOPEN` come back from `TRAPSW`, the program
counter from `TRAPPC`, and the interrupted schedule goes on. -/
def returnFromTrap (s : State) : State :=
  let w := s.core.trapSw.toNat
  let srfv := s.core.sw.srfv
  let srf := s.core.sw.srf.val
  let s := onCore s (fun c => { c with
    sw := { c.sw with priv := bit w 17, ie := bit w 16, step := bit w 18, envOpen := bit w 19, srfv := false } })
  resumeAt s s.core.trapPc srfv srf 1

end Sys2Proof.Machine
end

