-- ==== Sys2Proof/Machine/Operands.lean ====
section
/-!
DEFINITION. What each syllable reads and writes, explicit operands and implicit ones (R32, R33, R35, R41),
its slot (R29), and the forms its immediates take (R30).
-/
namespace Sys2Proof.Machine

/-- The registers a syllable names. `xs` and `vs` are the data of stores, which a poisoned register may
supply without a trap (R127); every other source raises its mark. -/
structure Uses where
  xr : List XReg := []
  xs : List XReg := []
  xw : List XReg := []
  pr : List PReg := []
  pw : List PReg := []
  vr : List VReg := []
  vs : List VReg := []
  vw : List VReg := []
  mr : List MReg := []
  mw : List MReg := []
  gr : List GReg := []
  gw : List GReg := []
  tr : List Tile := []
  tw : List Tile := []
  deriving DecidableEq, Repr

/-- Registers `d`, `d + 1`, up to `n` of them (R171). -/
def regRun (d : VReg) (n : Nat) : List VReg := (List.range n).map (fun i => ⟨(d.val + i) % 32, Nat.mod_lt _ (by decide)⟩)
def xNext (d : XReg) (k : Nat) : XReg := ⟨(d.val + k) % 32, Nat.mod_lt _ (by decide)⟩

/-- A masked VR syllable reads `m0` and its destination (R170). -/
def masked (u : Uses) (k : Bool) (d : List VReg) : Uses :=
  if k then { u with mr := 0 :: u.mr, vr := d ++ u.vr } else u

/-- The registers that a conversion reads and writes (R171, R180). -/
def cvtSources (t e : ElemTy) (a : VReg) : List VReg := regRun a (max 1 (e.width / t.width))
def cvtDests (t e : ElemTy) (d : VReg) : List VReg := regRun d (max 1 (t.width / e.width))

/-- Even vector register `2k` of a `.chk` load (R143). -/
def pairReg (v : Fin 16) : VReg := ⟨2 * v.val, by omega⟩

/-- The operands of each syllable. The part's own steps name none. -/
def uses (i : Instr) : Uses :=
  match i with
  | .add g d a b | .sub g d a b | .and g d a b | .or g d a b | .xor g d a b | .andn g d a b
  | .sll g d a b | .srl g d a b | .sra g d a b | .rol g d a b | .mul g d a b | .mulh g d a b
  | .mulhw g d a b | .div g d a b | .divw g d a b | .rem g d a b | .remw g d a b | .min g d a b
  | .max g d a b | .minw g d a b | .maxw g d a b | .bfx g d a b | .sel g d a b =>
    { xr := [a, b], xw := [d], pr := [g.pred] }
  | .bfi g d a b => { xr := [a, b, d], xw := [d], pr := [g.pred] }
  | .clz g d a | .ctz g d a | .popc g d a => { xr := [a], xw := [d], pr := [g.pred] }
  | .pcmpEq g p a b | .pcmpNe g p a b | .pcmpLt g p a b | .pcmpGe g p a b | .pcmpLtw g p a b | .pcmpGew g p a b =>
    { xr := [a, b], pw := [p], pr := [g.pred] }
  | .pand g d a b | .por g d a b | .pxor g d a b => { pw := [d], pr := [g.pred, a, b] }
  | .pnot g d a => { pw := [d], pr := [g.pred, a] }
  | .qcount g d _ => { xw := [d], pr := [g.pred] }
  | .addi d a _ | .andi d a _ | .ori d a _ | .xori d a _ => { xr := [a], xw := [d] }
  | .slli d a _ | .srli d a _ | .srai d a _ => { xr := [a], xw := [d] }
  | .movi d _ => { xw := [d] }
  | .pcmpiEq p a _ | .pcmpiNe p a _ | .pcmpiLt p a _ | .pcmpiGe p a _ | .pcmpiLtw p a _ | .pcmpiGew p a _ =>
    { xr := [a], pw := [p] }
  | .j g _ => { pr := [g.pred] }
  | .call g _ => { pr := [g.pred], xw := [27] }
  | .jr g a => { pr := [g.pred], xr := [a] }
  | .ret g => { pr := [g.pred], xr := [27] }
  | .loop g c _ => { pr := [g.pred], xr := [c], xw := [c] }
  | .ldl _ d b _ | .ldq _ d b _ | .ldo _ d b _ | .ldg _ d b _ | .ldf _ d b _ | .ldh _ d b _ => { xr := [b], xw := [d] }
  | .stl _ d b _ | .stq _ d b _ | .sto _ d b _ | .stg _ d b _ | .stf _ d b _ | .sth _ d b _ => { xr := [b], xs := [d] }
  | .amol _ d b u _ | .amoq _ d b u _ | .amoo _ d b u _ | .amog _ d b u _ =>
    { xr := if u == .cas then [b, d, xNext d 1] else [b, d], xw := [d] }
  | .pfg l b _ | .cwb l b _ | .cinv l b _ => { xr := [l, b] }
  | .vadd _ d a b k | .vsub _ d a b k | .vmul _ d a b k | .vmin _ d a b k | .vmax _ d a b k
  | .vand _ d a b k | .vor _ d a b k | .vxor _ d a b k | .vshl _ d a b k | .vshr _ d a b k
  | .vperm _ d a b k => masked { vr := [a, b], vw := [d] } k [d]
  | .vfma _ d a b k | .vfms _ d a b k => masked { vr := [a, b, d], vw := [d] } k []
  | .vabs _ d a k | .vneg _ d a k | .vrcp _ d a k | .vrsqrt _ d a k | .vexp2 _ d a k | .vlog2 _ d a k =>
    masked { vr := [a], vw := [d] } k [d]
  | .vredsum _ d a k | .vredmax _ d a k | .vscan _ d a k => masked { vr := [a], vw := [d] } k []
  | .vsel _ d a b => { vr := [a, b], vw := [d], mr := [0] }
  | .vcvt t d a e k => masked { vr := cvtSources t e a, vw := cvtDests t e d } k (cvtDests t e d)
  | .vcmpEq _ d a b k | .vcmpNe _ d a b k | .vcmpLt _ d a b k | .vcmpLe _ d a b k | .vcmpGt _ d a b k
  | .vcmpGe _ d a b k => { vr := [a, b], mw := [d], mr := if k then [0, d] else [] }
  | .vwadd t d a b k | .vwmul t d a b k => masked { vr := [a, b], vw := regRun d t.wideRatio } k (regRun d t.wideRatio)
  | .vwfma t d a b k => masked { vr := [a, b] ++ regRun d t.wideRatio, vw := regRun d t.wideRatio } k []
  | .vbcast _ d a k => masked { xr := [a], vw := [d] } k [d]
  | .vmovx _ d a b => { xr := [b], xw := [d], vr := [a] }
  | .vins _ d a b => { xr := [a, b], vr := [d], vw := [d] }
  | .vrot _ d a b k => masked { xr := [b], vr := [a], vw := [d] } k [d]
  | .mand d a b | .mor d a b => { mr := [a, b], mw := [d] }
  | .mnot d a => { mr := [a], mw := [d] }
  | .mpop _ d a => { mr := [a], xw := [d] }
  | .vshuf s d => { xr := [s], vw := [d] }
  | .vqcvt s t d => { xr := [s, t], vw := regRun (pairReg d) 2 }
  | .vdqcvt s d => { xr := [s], vw := [d] }
  | .vsetcfg s t => { xr := [s, t] }
  | .vgatherq s t d => { xr := [s, t], vw := [d] }
  | .vscatq s t d => { xr := [s, t], vs := [d] }
  | .vmskld s t d => { xr := [s, t], mw := [d] }
  | .vldl v b _ | .vldq v b _ | .vldo v b _ | .vldg v b _ | .vldf v b _ | .vldh v b _ | .vldqRow v b _
  | .vldqCol v b _ => { xr := [b], vw := [v] }
  | .vstl v b _ | .vstq v b _ | .vsto v b _ | .vstg v b _ | .vstf v b _ | .vsth v b _ | .vstqRow v b _
  | .vstqCol v b _ => { xr := [b], vs := [v] }
  | .vldlChk v b _ _ | .vldqChk v b _ _ | .vldoChk v b _ _ | .vldgChk v b _ _ | .vldfChk v b _ _
  | .vldhChk v b _ _ => { xr := [b], vw := regRun (pairReg v) 2 }
  | .gclr g k => { gw := [g], gr := if k then [g] else [], mr := if k then [0] else [] }
  | .gadd g v _ k => { gr := [g], gw := [g], vr := [v], mr := if k then [0] else [] }
  | .gwadd g v w _ k => { gr := [g], gw := [g], vr := [v, w], mr := if k then [0] else [] }
  | .gmerge g h k => { gr := [g, h], gw := [g], mr := if k then [0] else [] }
  | .gfold g h _ => { gr := [h], gw := [g] }
  | .gdrain g v w c m =>
    { gr := [g], gw := if c then [g] else []
      vw := if m == .raw then regRun v 3 else [v]
      vr := if m == .norm then [v] else []
      xr := if m == .rstd || m == .norm then [w] else [] }
  | .gld g b _ => { gw := [g], xr := [b] }
  | .gst g b _ => { gr := [g], xr := [b] }
  | .gset g v k => { gw := [g], gr := if k then [g] else [], vr := regRun v 3, mr := if k then [0] else [] }
  | .mma t a b _ _ _ | .mmat t a b _ _ _ | .mmag t a b _ _ _ => { xr := [a, b], tr := [t], tw := [t] }
  | .mzero t => { tw := [t] }
  | .mdrain t a b _ q _ _ => { xr := [a, b], tr := [t], tw := if q then [t] else [] }
  | .mldc t a _ => { xr := [a], tw := [t] }
  | .mbwr a b _ _ => { xr := [a, b] }
  | .mwait _ _ _ => {}
  | .mstat d _ => { xw := [d] }
  | .mpert _ a b q => { xr := if q then [] else [a, b] }
  | .erw a b _ => { xr := [a, b] }
  | .err d a _ => { xr := [a], xw := [d] }
  | .eswap a => { xr := [a] }
  | .binit a b f _ => { xr := if f then [a] else [a, b] }
  | .barv d a b _ | .btest d a b _ => { xr := [a, b], xw := [d] }
  | .bwait a b _ | .badd a b _ => { xr := [a, b] }
  | .wadv d a b | .rcnt d a b => { xr := [a, b], xw := [d] }
  | .wpos d a => { xr := [a], xw := [d] }
  | .owne a b v _ | .ownc a b v _ => { xr := if v then [] else [a, b] }
  | .rowcpy c a b | .rowfil c a b | .rownot c a b => { xr := [c, a, b] }
  | .rowand c a b e | .rowor c a b e | .rowxor c a b e => { xr := [c, a, b, e] }
  | .rowq d a b => { xr := [a, b], xw := [d] }
  | .foalloc d a | .fofree d a | .folook d a | .founpin d a | .fopool d a => { xr := [a], xw := [d] }
  | .foshare d a b | .fopin d a b _ => { xr := [a, b], xw := [d] }
  | .fsend d a b _ | .fwr d a b _ | .frd d a b _ => { xr := [d, a, b] }
  | .fwrs d a b _ | .fwrsSc d a b _ => { xr := [d, a, b, xNext b 1] }
  | .fsig d b _ => { xr := [d, b] }
  | .famo d a b _ u => { xr := if u == .cas then [a, b, xNext b 1] else [a, b], xw := [d] }
  | .fmcast d a b g _ => { xr := if g then [d, a, b, xNext b 1, xNext b 2] else [d, a, b, xNext b 1] }
  | .fwait d _ _ => { xw := [d] }
  | .fslot d | .fseat d => { xw := [d] }
  | .fslotWait a => { xr := [a] }
  | .fcnt d a _ => { xr := [a], xw := [d] }
  | .rgload a _ => { xr := [a] }
  | .rgplay d a b _ => { xr := [a, b], xw := [d] }
  | .rgwait d _ => { xw := [d] }
  | .rgstat d a _ => { xr := [a], xw := [d] }
  | .reshelve a _ => { xr := [a] }
  | .tkt d _ => { xw := [d] }
  | .tktn d a _ | .launch d a | .lwait d a => { xr := [a], xw := [d] }
  | .eta a | .ssend a | .prio a _ => { xr := [a] }
  | .nodeid d _ | .tileid d _ => { xw := [d] }
  | .csrr d _ => { xw := [d] }
  | .csrw a _ => { xr := [a] }
  | .xlinv d a _ | .qmap d a _ => { xr := [a], xw := [d] }
  | .tinj a _ _ | .sleep a _ => { xr := [a] }
  | _ => {}

/-- The guard of an SA syllable or the condition of a branch; `SEL` carries a selector, not a guard (R45,
R103). -/
def guardOf (i : Instr) : Option Guard :=
  match i with
  | .add g _ _ _ | .sub g _ _ _ | .and g _ _ _ | .or g _ _ _ | .xor g _ _ _ | .andn g _ _ _
  | .sll g _ _ _ | .srl g _ _ _ | .sra g _ _ _ | .rol g _ _ _ | .mul g _ _ _ | .mulh g _ _ _
  | .mulhw g _ _ _ | .div g _ _ _ | .divw g _ _ _ | .rem g _ _ _ | .remw g _ _ _ | .min g _ _ _
  | .max g _ _ _ | .minw g _ _ _ | .maxw g _ _ _ | .clz g _ _ | .ctz g _ _ | .popc g _ _
  | .bfx g _ _ _ | .bfi g _ _ _ | .pcmpEq g _ _ _ | .pcmpNe g _ _ _ | .pcmpLt g _ _ _
  | .pcmpGe g _ _ _ | .pcmpLtw g _ _ _ | .pcmpGew g _ _ _ | .pand g _ _ _ | .por g _ _ _
  | .pxor g _ _ _ | .pnot g _ _ | .qcount g _ _ | .j g _ | .call g _ | .jr g _ | .ret g
  | .loop g _ _ => some g
  | _ => none

/-- Whether a syllable has its effect: its guard holds (R94). -/
def enabled (c : Core) (i : Instr) : Bool :=
  match guardOf i with
  | some g => holds c g
  | none => true

/-- The scalar sources that a syllable reads at issue: none with a false guard, only the selected one of
`SEL` (R41, R103). -/
def liveReads (c : Core) (i : Instr) : List XReg :=
  match i with
  | .sel g _ a b => if holds c g then [a] else [b]
  | _ => if enabled c i then (uses i).xr ++ (uses i).xs else []

/-- The scalar destinations that a syllable writes at issue. -/
def liveWrites (c : Core) (i : Instr) : List XReg := if enabled c i then (uses i).xw else []

/-- The data registers of a store (R127): poison in one raises nothing, a fabric fault mark does (R308, R314). -/
def storedX (c : Core) (i : Instr) : List XReg := if enabled c i then (uses i).xs else []

/-- The sources whose mark a syllable raises (R127). -/
def raisingX (c : Core) (i : Instr) : List XReg :=
  match i with
  | .sel g _ a b => if holds c g then [a] else [b]
  | _ => if enabled c i then (uses i).xr else []

/-! ### Slots -/

/-- The slots of R29. -/
inductive Slot where
  | alu | mem | vector | matrix | async | sync | branch | none_
  deriving DecidableEq, Repr

/-- How many syllables a slot takes in one bundle (R29). -/
def Slot.limit : Slot → Nat
  | .alu => 2
  | .none_ => 8
  | _ => 1

/-- The class of a syllable's word (R27). -/
def classOf (w : Syllable) : Nat := bits w.toNat 30 27

/-- The slot of a syllable's class; `NOP` and LX occupy none (R29, R98). -/
def slotOf (w : Syllable) (i : Instr) : Slot :=
  match i with
  | .nop => .none_
  | .lx _ => .none_
  | _ =>
    match classOf w with
    | 0 | 1 => .alu
    | 2 => .branch
    | 3 => .mem
    | 5 | 6 | 7 => .vector
    | 8 => .matrix
    | 9 | 10 => .async
    | _ => .sync

/-! ### Immediates -/

/-- Whether an instruction accepts an LX (R30). -/
def acceptsLx (i : Instr) : Bool :=
  match i with
  | .addi .. | .andi .. | .ori .. | .xori .. | .movi .. | .pcmpiEq .. | .pcmpiNe .. | .pcmpiLt .. | .pcmpiGe ..
  | .pcmpiLtw .. | .pcmpiGew .. | .j .. | .call .. | .loop .. | .ldl .. | .ldq .. | .ldo .. | .ldg .. | .ldf ..
  | .ldh .. | .stl .. | .stq .. | .sto .. | .stg .. | .stf .. | .sth .. | .amol .. | .amoq .. | .amoo .. | .amog ..
  | .pfg .. | .cwb .. | .cinv .. | .env .. => true
  | _ => false

/-- An immediate of `n` bits, combined with the LX before it and sign-extended from its top bit (R30). -/
def immOf (c : Core) (n : Nat) (f : Nat) : Int :=
  match c.lx with
  | some u => sext (u.toNat * 2 ^ n + f) (n + 27)
  | none => sext f n

end Sys2Proof.Machine
end

