-- ==== Sys2Proof/Machine/Issue.lean ====
section
/-!
DEFINITION. The checks of a bundle before any of it commits (R63), what makes it wait before issue (R35,
R41, R91, R101, R140, R167, R215, R217, R438), its pops and reservations at issue (R41, R96), and the frame
in which one syllable runs.
-/
namespace Sys2Proof.Machine

/-- A decoded bundle: index, word, instruction. -/
abbrev Decoded := List (Nat × Syllable × Instr)

/-! ### Rings and granules -/

/-- `RNGCFG` fields (R253). -/
def ringOn (c : Core) (n : Nat) : Bool := bit ((c.rngCfg[n]?).getD 0).toNat 63
def ringSlots (c : Core) (n : Nat) : Nat := bits ((c.rngCfg[n]?).getD 0).toNat 39 32 + 1
def ringSlotG (c : Core) (n : Nat) : Nat := bits ((c.rngCfg[n]?).getD 0).toNat 27 24 + 1
def ringQs (c : Core) (n : Nat) : Bool := bit ((c.rngCfg[n]?).getD 0).toNat 22
def ringBaseG (c : Core) (n : Nat) : Nat := bits ((c.rngCfg[n]?).getD 0).toNat 21 12
/-- The first granule of a ring as an OC granule number. -/
def ringFirst (c : Core) (n : Nat) : Nat := (if ringQs c n then qsBase / 4096 else lsBase / 4096) + ringBaseG c n
/-- The granules of a ring. -/
def ringSpan (c : Core) (n : Nat) : Nat := ringSlots c n * ringSlotG c n
/-- The enabled ring that a granule lies in (R254). -/
def ringOf (c : Core) (gran : Nat) : Option Nat :=
  (List.range 16).find? (fun n => ringOn c n && decide (ringFirst c n ≤ gran) && decide (gran < ringFirst c n + ringSpan c n))

/-- The granules that `n` bytes at an OC address touch. -/
def granulesOf (oc n : Nat) : List Nat := (List.range ((oc % 4096 + n + 4095) / 4096)).map (fun i => oc / 4096 + i)
/-- The 16-byte units that `n` bytes at an OC address touch. -/
def unitsOf (oc n : Nat) : List Nat := (List.range ((oc % 16 + n + 15) / 16)).map (fun i => oc / 16 + i)

/-! ### What the checks and waits need of vector operands -/

def readV (s : State) (r : VReg) : Nat := (s.core.v[r]).toNat
def maskBit (s : State) (i : Nat) : Bool := (s.core.m[0]).getLsbD i
def vreg (n : Nat) : VReg := ⟨n % 32, Nat.mod_lt _ (by decide)⟩

/-- The format code is one of the five of R77. -/
def blockFormat (f : Nat) : Bool := [2, 3, 6, 7, 12].contains f
/-- The length of a data part (R143). -/
def dataLen (cnt fmt : Nat) : Nat := ceil32 ((cnt * fmtWidth fmt + 7) / 8)

/-- The units of a gather or scatter that are accessed: index and address (R192). -/
def gatherUnits (s : State) (b v : Nat) : List (Nat × Nat) :=
  let size := if bit v 8 then 16 else 4
  ((List.range (512 / size)).filter (fun i => !bit v 9 || maskBit s i)).map (fun i => (i, b + size * elem 32 (readV s (vreg (bits v 4 0))) i))

/-- The 32 units of a row or a column of a skewed tile, as QS addresses (R123, R142). -/
def tileUnits (desc : Nat) (off : Int) (col : Bool) : Option (List Nat) :=
  let o := bits desc 21 0
  let r := (bits desc 44 32 : Int) + off
  let c := bits desc 52 48
  if bits desc 63 53 != 0 || bits desc 47 45 != 0 || bits desc 31 22 != 0 || o % 512 != 0 || r < 0 then none
  else
    let at_ (r c : Nat) : Nat := o + 512 * r + 16 * ((r + c) % 32)
    let l := (List.range 32).map (fun j => if col then at_ (r.toNat + j) c else at_ r.toNat j)
    if l.any (fun a => decide (0x3FFFFF < a + 15)) then none else some l

/-! ### Decode checks -/

/-- The syllables of R61, and `CSRW` to a register whose fields R43 or R397 reserve to privileged mode. -/
def privileged (i : Instr) : Bool :=
  match i with
  | .mpert .. | .rft | .rftAbort | .rftReplay | .xlinv .. | .halt | .tinj .. => true
  | .csrw _ n => [0, 1, 2, 0x22, 0x23, 0x24].contains n.toNat
  | _ => false

/-- The first syllable that fails its own checks, in index order: `ILLEGAL_ENCODING`, then `PRIVILEGE`
(R63). -/
def checkEach (priv : Bool) : (k : Nat) → List Syllable → Option (Nat × Syllable × Cause)
  | _, [] => none
  | k, w :: ws =>
    match decode w with
    | none => some (k, w, .illegalEncoding)
    | some i => if privileged i && !priv then some (k, w, .privilege) else checkEach priv (k + 1) ws

/-- The instructions of a bundle whose words all decode. -/
def decodeAll (ws : List Syllable) : Decoded :=
  (ws.zipIdx).filterMap (fun p => (decode p.1).map (fun i => (p.2, p.1, i)))

/-- Whether one list names a register of another. -/
def meets {α : Type} [BEq α] (a b : List α) : Bool := a.any (fun x => b.contains x)

/-- The scalar registers of a list that fall under R32: not `x0`, not a bound port. -/
def plainX (c : Core) (l : List XReg) : List XReg := l.filter (fun r => r.val != 0 && (boundPort c r).isNone)
def plainP (l : List PReg) : List PReg := l.filter (fun r => r.val != 0)

/-- One syllable writes a register that the other reads or writes (R32). -/
def writesInto (c : Core) (a b : Uses) : Bool :=
  meets (plainX c a.xw) (b.xr ++ b.xs ++ b.xw) || meets (plainP a.pw) (b.pr ++ b.pw) ||
  meets a.vw (b.vr ++ b.vs ++ b.vw) || meets a.mw (b.mr ++ b.mw) || meets a.gw (b.gr ++ b.gw) || meets a.tw (b.tr ++ b.tw)

def conflict (c : Core) (a b : Uses) : Bool := writesInto c a b || writesInto c b a

/-- A scalar register as the bundle reads it when it issues, in a state in which it has made its pops (`foresee`). -/
def peekX (s : State) (r : XReg) : Nat :=
  match boundPort s.core r with
  | some n => ((poppedAt s.core n).map (·.val.toNat)).getD 0
  | none => (getX s.core r).toNat

/-- The pending destinations of the board (R35). -/
def pendingDest (c : Core) (d : Dest) : Bool := c.board.any (fun p => p.dst == d)

/-- The value that a bundle about to issue will read from a register is there: a popped entry, or a register that is not
pending. -/
def known (s : State) (r : XReg) : Bool :=
  match boundPort s.core r with
  | some n => (poppedAt s.core n).isSome
  | none => !pendingDest s.core (.x r)

/-- The registers that a block of `n` source elements of `VQCVT` spans: 1, 2 or 4 (R189). -/
def quantSpan (w : Nat) : Nat :=
  let k := (bits w 47 32 * (if bits w 11 8 == 1 then 16 else 32) + 4095) / 4096
  if k ≤ 1 then 1 else if k ≤ 2 then 2 else 4

/-- The vector registers and masks that a VX operand word names as sources (R167). -/
def wordRegs (s : State) (i : Instr) : List VReg × List MReg :=
  let v (n : Nat) : VReg := ⟨n % 32, Nat.mod_lt _ (by decide)⟩
  match i with
  | .vshuf x _ => ([v (bits (peekX s x) 4 0), v (bits (peekX s x) 9 5)], [])
  | .vqcvt x _ _ => (regRun (v (bits (peekX s x) 4 0)) (quantSpan (peekX s x)), [])
  | .vdqcvt x _ => (regRun (v (bits (peekX s x) 4 0)) 2, [])
  | .vgatherq _ t d => if bit (peekX s t) 9 then ([v (bits (peekX s t) 4 0), d], [0]) else ([v (bits (peekX s t) 4 0)], [])
  | .vscatq _ t _ => ([v (bits (peekX s t) 4 0)], if bit (peekX s t) 9 then [0] else [])
  | _ => ([], [])

/-- The registers a `VDQCVT` writes: its span (R190). -/
def wordDests (s : State) (i : Instr) : List VReg :=
  match i with
  | .vdqcvt x d => regRun d (2 ^ (bits (peekX s x) 13 12))
  | _ => []

/-- The scalar register whose word names further operands (R167, R232). -/
def wordReg (i : Instr) : Option XReg :=
  match i with
  | .vshuf x _ | .vqcvt x _ _ | .vdqcvt x _ => some x
  | .vgatherq _ t _ | .vscatq _ t _ => some t
  | .mdrain _ _ b _ _ true _ => some b
  | _ => none

/-- The operands of a syllable with those that its operand word names, once that word is known (R32, R167). -/
def usesAt (s : State) (i : Instr) : Uses :=
  if ((wordReg i).map (known s)).getD false then
    let u := uses i
    { u with vr := u.vr ++ (wordRegs s i).1, mr := u.mr ++ (wordRegs s i).2, vw := u.vw ++ wordDests s i }
  else uses i

/-- The statistics register that an `MDRAIN.stat` names in its descriptor, once that is known (R232). -/
def gregOf (s : State) (i : Instr) : List GReg :=
  match i with
  | .mdrain _ _ b _ _ true _ => if known s b then [⟨bits (peekX s b) 35 32 % 16, Nat.mod_lt _ (by decide)⟩] else []
  | _ => []

/-- The ports a syllable could pop or push, whatever its guard (R41). -/
def portsOf (c : Core) (l : List XReg) : List (Fin 4) := (l.filterMap (boundPort c)).eraseDups

/-- Two pops or two pushes of one port (R41). -/
def portClash (c : Core) (a b : Uses) : Bool :=
  meets (portsOf c (a.xr ++ a.xs)) (portsOf c (b.xr ++ b.xs)) || meets (portsOf c a.xw) (portsOf c b.xw)

/-- A `CSRR` and a `CSRW` of one register, which R413 lets stand in one bundle though both take the slot of R29 (DEDUCED,
DEDUCED, log entry 115). -/
def csrPair (d : Decoded) (e : Nat × Syllable × Instr) : Bool :=
  let other (i : Instr) : Bool :=
    match e.2.2, i with
    | .csrr _ n, .csrw _ m => n == m
    | .csrw _ n, .csrr _ m => n == m
    | _, _ => false
  d.any (fun f => decide (f.1 < e.1) && other f.2.2)

/-- How many earlier syllables of the bundle use the slot of this one. -/
def slotUse (d : Decoded) (k : Nat) (sl : Slot) : Nat := (d.filter (fun e => decide (e.1 ≤ k) && slotOf e.2.1 e.2.2 == sl)).length

/-- A syllable that breaks a rule on its own place (R29, R30, R412, R414, R415). -/
def misplaced (d : Decoded) (k : Nat) (i : Instr) : Bool :=
  let n := d.length
  let next := (d.find? (fun e => e.1 == k + 1)).map (fun e => e.2.2)
  let prev := (d.find? (fun e => decide (e.1 + 1 = k))).map (fun e => e.2.2)
  match i with
  | .lx _ => match next with | none => true | some j => !acceptsLx j
  | .j .. | .call .. | .jr .. | .ret .. | .loop .. => k + 1 != n
  | .rft | .rftAbort | .rftReplay => k + 1 != n
  | .env _ => k + 1 != n || (match prev with | some (.lx _) => false | _ => true)
  | .envc => n != 1
  | _ => false

/-- The operands of the syllable at an index: of one that has committed in a split bundle, and while drain clocks still
have to bring register values home, those it names itself. -/
def usesIn (s : State) (now : Bool) (e : Nat × Syllable × Instr) : Uses :=
  if now && decide (s.core.resume.getD 0 ≤ e.1) then usesAt s e.2.2 else uses e.2.2

/-- Another syllable of the bundle names the statistics register of an `MDRAIN.stat`, which is then the syllable at
fault (R232). -/
def gregClash (s : State) (d : Decoded) (e : Nat × Syllable × Instr) : Bool :=
  decide (s.core.resume.getD 0 ≤ e.1) &&
  d.any (fun f => f.1 != e.1 && meets (gregOf s e.2.2) ((uses f.2.2).gr ++ (uses f.2.2).gw))

/-- A syllable takes a slot beyond its limit (R29). -/
def overSlot (d : Decoded) (e : Nat × Syllable × Instr) : Bool :=
  let n := slotUse d e.1 (slotOf e.2.1 e.2.2)
  decide ((slotOf e.2.1 e.2.2).limit < n) && !(n == 2 && csrPair d e)

/-- The first index at which the bundle as a whole is illegal (R28 to R30, R32, R41, R232, R412 to R415), in a state in which
it has made its pops. What operand words name is looked at when `now`: once the bundle's drain clocks are over (R438). -/
def checkBundle (s : State) (d : Decoded) (closed now : Bool) : Option Nat :=
  let bad (e : Nat × Syllable × Instr) : Bool :=
    misplaced d e.1 e.2.2 || overSlot d e ||
    d.any (fun f => decide (f.1 < e.1) && (conflict s.core (usesIn s now f) (usesIn s now e) || portClash s.core (uses f.2.2) (uses e.2.2))) ||
    (now && gregClash s d e) ||
    (!closed && e.1 == 7)
  (d.find? bad).map (·.1)

/-! ### Waiting before issue -/

/-- The bytes of QS or LS that a grant touches, as OC address and length, and whether it writes. -/
def QsDo.touches : QsDo → List (Nat × Nat × Bool)
  | .pass => []
  | .read us => us.map (fun u => (u.2.1, u.2.2, false))
  | .write us _ => us.map (fun u => (u.1, u.2.length, true))
  | .amo oc n _ _ _ => [(oc, n, true)]
  | .update oc _ _ => [(oc, 16, true)]
  | .test oc _ => [(oc, 16, false)]

/-- The tile is busy because of something other than chained array operations (R215). -/
def tileBusyOther (s : State) (t : Nat) : Bool :=
  s.core.mx.transfer.any (fun o => o.tile == t && (o.kind == .mzero || o.kind == .mldc || (o.kind == .mdrain && o.z && (o.start.map (fun t0 => decide (s.clock < t0 + 64))).getD true)))
/-- A tile with an operation still to complete (R215). -/
def tileBusy (s : State) (t : Nat) : Bool :=
  s.core.mx.array.any (fun o => o.tile == t) ||
  tileBusyOther s t

/-- Whether some register that a syllable names is pending (R35). -/
def namesPending (s : State) (i : Instr) : Bool :=
  let c := s.core
  let u := usesAt s i
  (u.xr ++ u.xs ++ u.xw).any (fun r => (boundPort c r).isNone && r.val != 0 && pendingDest c (.x r)) ||
  (u.pr ++ u.pw).any (fun r => pendingDest c (.p r)) ||
  (u.vr ++ u.vs ++ u.vw).any (fun r => pendingDest c (.v r)) ||
  (u.mr ++ u.mw).any (fun r => pendingDest c (.m r)) ||
  (u.gr ++ u.gw ++ gregOf s i).any (fun r => pendingDest c (.g r)) ||
  (match i with
   | .mma t .. | .mmat t .. | .mmag t .. => tileBusyOther s t.val
   | .mzero t | .mldc t .. | .mdrain t .. => tileBusy s t.val
   | _ => false)

/-- The memory, statistics-memory and asynchronous syllables (R140, R192, R210). -/
def isMemSlot (w : Syllable) : Bool := classOf w == 3 || classOf w == 7
def isAsync (w : Syllable) : Bool := classOf w == 9
def isStat (w : Syllable) : Bool := classOf w == 12

/-- A byte range of LS that a syllable reads or writes: first byte, length, whether it writes (R217). -/
structure LsUse where
  lo : Int
  len : Nat
  wr : Bool
  deriving DecidableEq, Repr

/-- The scaled effective address of an ME or VM syllable before it issues, without an LX. -/
def peekAddr (s : State) (b : XReg) (lx : Option (BitVec 27)) (n off scale : Nat) : Int :=
  (peekX s b : Int) + immOf { s.core with lx := lx } n off * (scale : Int)

/-- The LS ranges of a matrix operation (R217, R224): `MMAT` releases its A block 36 clocks after issue. -/
def opRanges (s : State) (o : MxOp) : List LsUse :=
  let before (k : Nat) : Bool := (o.start.map (fun t0 => decide (s.clock < t0 + k))).getD true
  match o.kind with
  | .mma => if before 128 then [⟨o.addr, 16384, false⟩] else []
  | .mmat => if s.clock < o.issued + 36 then [⟨o.addr, 16384, false⟩] else []
  | .mldc => if before 64 then [⟨o.addr, if o.fmt == .bf16 then 16384 else 32768, false⟩] else []
  | .mbwr => [⟨o.addr, if o.w then 32800 else 32768, false⟩]
  | .mdrain => ⟨o.addr, 1024 * o.fmt.width, true⟩ :: (if o.w then [⟨bits o.desc.toNat 50 40 * 512, 512, false⟩] else [])
  | _ => []

/-- The ranges held by earlier matrix operations. -/
def heldRanges (s : State) : List LsUse := (s.core.mx.array ++ s.core.mx.transfer).flatMap (opRanges s)

/-- What a `.chk` load with its trailer at `a` reads (R143). -/
def chkUse (s : State) (base : Nat) (a : Int) (f : Nat) : LsUse :=
  let t := s.oc.readNat (base + a.toNat) 32
  let len := dataLen (bits t 95 64) (if blockFormat (bits t 163 160) then bits t 163 160 else f)
  ⟨a - len, len + 32, false⟩

/-- The LS accesses of a syllable about to issue. -/
def lsUses (s : State) (lx : Option (BitVec 27)) (i : Instr) : List LsUse :=
  match i with
  | .ldl z _ b o => [⟨peekAddr s b lx 9 o.toNat z.bytes, z.bytes, false⟩]
  | .stl z _ b o => [⟨peekAddr s b lx 9 o.toNat z.bytes, z.bytes, true⟩]
  | .amol z _ b _ o => [⟨peekAddr s b lx 6 o.toNat (if z then 8 else 4), if z then 8 else 4, true⟩]
  | .vldl _ b o => [⟨peekAddr s b none 11 o.toNat 512, 512, false⟩]
  | .vstl _ b o => [⟨peekAddr s b none 11 o.toNat 512, 512, true⟩]
  | .vldlChk _ b f o => [chkUse s lsBase (peekAddr s b none 7 (o.toNat % 128) 32) f.code]
  | .gld _ b false => [⟨peekX s b, 1536, false⟩]
  | .gst _ b false => [⟨peekX s b, 1536, true⟩]
  | .binit a _ _ false | .barv _ a _ false | .badd a _ false => [⟨peekX s a, 16, true⟩]
  | .bwait a _ false | .btest _ a _ false => [⟨peekX s a, 16, false⟩]
  | .rgplay _ a _ _ => [⟨peekX s a, 64, false⟩]
  | .mma _ a _ _ _ _ | .mmat _ a _ _ _ _ => [⟨peekX s a, 16384, false⟩]
  | .mldc _ a f => [⟨peekX s a, if f == .bf16 then 16384 else 32768, false⟩]
  | .mbwr a _ _ c => [⟨peekX s a, if c then 32800 else 32768, false⟩]
  | .mdrain _ a b f _ _ h => ⟨peekX s a, 1024 * f.width, true⟩ :: (if h then [⟨bits (peekX s b) 50 40 * 512, 512, false⟩] else [])
  | _ => []

/-- The QS accesses of a syllable about to issue. -/
def qsUses (s : State) (lx : Option (BitVec 27)) (i : Instr) : List LsUse :=
  let units (l : List Nat) (n : Nat) (wr : Bool) : List LsUse := l.map (fun a => ⟨(a : Int), n, wr⟩)
  let tile (b : XReg) (o : BitVec 11) (col wr : Bool) : List LsUse := units ((tileUnits (peekX s b) (sext o.toNat 11) col).getD []) 16 wr
  let gather (a t : XReg) (wr : Bool) : List LsUse :=
    units ((gatherUnits s (peekX s a) (peekX s t)).map (·.2)) (if bit (peekX s t) 8 then 16 else 4) wr
  match i with
  | .ldq z _ b o => [⟨peekAddr s b lx 9 o.toNat z.bytes, z.bytes, false⟩]
  | .stq z _ b o => [⟨peekAddr s b lx 9 o.toNat z.bytes, z.bytes, true⟩]
  | .amoq z _ b _ o => [⟨peekAddr s b lx 6 o.toNat (if z then 8 else 4), if z then 8 else 4, true⟩]
  | .vldq _ b o => [⟨peekAddr s b none 11 o.toNat 512, 512, false⟩]
  | .vstq _ b o => [⟨peekAddr s b none 11 o.toNat 512, 512, true⟩]
  | .vldqChk _ b f o => [chkUse s qsBase (peekAddr s b none 7 (o.toNat % 128) 32) f.code]
  | .vldqRow _ b o => tile b o false false
  | .vldqCol _ b o => tile b o true false
  | .vstqRow _ b o => tile b o false true
  | .vstqCol _ b o => tile b o true true
  | .vgatherq a t _ => gather a t false
  | .vscatq a t _ => gather a t true
  | .gld _ b true => [⟨peekX s b, 1536, false⟩]
  | .gst _ b true => [⟨peekX s b, 1536, true⟩]
  | .binit a _ _ true | .barv _ a _ true | .badd a _ true => [⟨peekX s a, 16, true⟩]
  | .bwait a _ true | .btest _ a _ true => [⟨peekX s a, 16, false⟩]
  | _ => []

/-- The first engine-owned granule that accesses to a store of `size` bytes at OC `base` touch lies in a ring: they wait
until it is core-owned (R91, R120). -/
def ringStops (s : State) (base size : Nat) (us : List LsUse) : Bool :=
  if s.engine.isEmpty then false
  else
    let gs := (us.filter (fun u => decide (0 ≤ u.lo) && decide (u.lo + (u.len : Int) ≤ (size : Int)))).flatMap (fun u => granulesOf (base + u.lo.toNat) u.len)
    ((gs.find? (fun g => s.engine.contains g)).map (fun g => (ringOf s.core g).isSome)).getD false

def LsUse.meets (a b : LsUse) : Bool :=
  decide (a.lo < b.lo + b.len) && decide (b.lo < a.lo + a.len) && (a.wr || b.wr)

/-- Operations of a queue that have not started (R214). -/
def notStarted (l : List MxOp) : Nat := (l.filter (fun o => o.start.isNone)).length

def chanOf (s : State) (k : Nat) : Channel := lookupD s.bte.chan k {}
/-- A channel holds 16 commands, the one started among them, so that a core has at most 1,024 in flight (R237, R240). -/
def chanHolds (s : State) (k : Nat) : Nat :=
  (chanOf s k).queue.length + b2n ((chanOf s k).active.isSome || !(chanOf s k).post.isEmpty)
def chanFull (s : State) (k : Nat) : Bool := decide (16 ≤ chanHolds s k)
def rowPortOf (s : State) (k : Nat) : RowPort := lookupD s.rows.ports k {}
def rowFull (s : State) (k : Nat) : Bool := decide (4 ≤ ((rowPortOf s k).queue.filter (fun o => !o.started)).length)

/-- A row descriptor's port (R268). -/
def rowPortNum (v : Nat) : Nat := bits v 18 16

/-- A Tether port's queue of 16, and a replay unit's of 4, is full (R302, R315). -/
def fabFull (s : State) (n : Nat) : Bool := decide (16 ≤ (lookupD s.fabric.ports n {}).queue.length)
def replayOf (s : State) (n : Nat) : ReplayUnit := (s.replay[n]?).getD {}
def playsFull (s : State) (n : Nat) : Bool := decide (4 ≤ (replayOf s n).plays.length)
/-- A replay unit has an instance or a reshelve running or queued (R337, R341). -/
def replayBusy (s : State) (n : Nat) : Bool :=
  let u := replayOf s n
  u.inst.isSome || !u.plays.isEmpty || u.reshelve.isSome

/-- A pod-scope SC operation of the core has not been acknowledged (R157). -/
def scPending (s : State) : Bool :=
  s.fabric.sc.isSome || s.fabric.ports.any (fun p => p.2.queue.any (fun c => c.op == 2 && c.flag) ||
    (p.2.active.map (fun a => a.cmd.op == 2 && a.cmd.flag)).getD false)

/-- The syllables that start a command of an engine, whose reads come after every earlier access of the core (R151). -/
def startsCommand (i : Instr) : Bool :=
  match i with
  | .eswap .. | .rowcpy .. | .rowfil .. | .rownot .. | .rowand .. | .rowor .. | .rowxor .. | .launch .. | .fsend .. | .fwr .. | .fwrs ..
  | .fwrsSc .. | .frd .. | .fsig .. | .famo .. | .fmcast .. | .rgload .. | .rgplay .. | .reshelve .. | .mmag .. => true
  | _ => false

/-- An access that waits for the core's SC operation: GM, FS, OC or a fabric syllable (R157, R308), or a syllable that starts
a command (R151). -/
def afterSc (w : Syllable) (i : Instr) : Bool :=
  ((classOf w == 3 || classOf w == 7) && decide (2 ≤ bits w.toNat 26 24) && decide (bits w.toNat 26 24 ≤ 4)) ||
  classOf w == 10 || startsCommand i

/-- A `STO` to a channel's aperture starts a command too (R240): the channel. -/
def apertureOf (s : State) (lx : Option (BitVec 27)) (i : Instr) : Option Nat :=
  match i with
  | .sto z _ b o =>
    let a := peekAddr s b lx 9 o.toNat z.bytes
    if (apertureBase : Int) ≤ a ∧ a < (apertureBase : Int) + 512 then some ((a.toNat - apertureBase) / 8) else none
  | _ => none

/-- The granules of the ring that a `CSRW` of `RNGCFG` enables, as a range of its store (R253). -/
def enables (s : State) (i : Instr) : Option (Bool × LsUse) :=
  match i with
  | .csrw a n =>
    let v := peekX s a
    if 0x310 ≤ n.toNat ∧ n.toNat < 0x320 ∧ bit v 63 = true ∧ ringOn s.core (n.toNat - 0x310) = false then
      some (bit v 22, ⟨bits v 21 12 * 4096, (bits v 39 32 + 1) * (bits v 27 24 + 1) * 4096, true⟩)
    else none
  | _ => none

/-- Granules that `OWNE`, a release or the enabling of a ring flips to the engines meet an MX range still held or an access
of the core that waits for its grant or its clock (R150, R210, R217, R253, R255, R258). -/
def oweWaits (s : State) (qs : Bool) (a n : Nat) : Bool :=
  let base := if qs then qsBase else lsBase
  (!qs && (heldRanges s).any (fun h => h.meets ⟨a, n * 4096, true⟩)) ||
  s.core.vu.qs.any (fun q => q.parts.any (fun p => p.2.touches.any (fun t =>
    decide (t.1 < base + a + n * 4096) && decide (base + a < t.1 + t.2.1))))

/-- What an earlier access of the core, of the same bundle or of one before, makes a syllable wait for: a gather or scatter, a
statistics image, a matrix operation's range, a pod-scope SC operation, a QS access still to be granted (R146, R151, R157,
R192, R210, R217, R253). -/
def behindEarlier (s : State) (lx : Option (BitVec 27)) (w : Syllable) (i : Instr) : Bool :=
  (isMemSlot w && s.core.vu.qs.any (fun q => q.kind == .gather)) ||
  ((isMemSlot w || isStat w) && s.core.vu.qs.any (fun q => q.kind == .imageQs || q.kind == .imageLs)) ||
  (!(lsUses s lx i).isEmpty && s.core.vu.qs.any (fun q => q.kind == .imageLs)) ||
  (lsUses s lx i).any (fun u => (heldRanges s).any (fun h => h.meets u)) ||
  (afterSc w i && scPending s) ||
  ((startsCommand i || (apertureOf s lx i).isSome) && s.core.vu.qs.any (fun q => q.kind != .permute)) ||
  ((enables s i).map (fun e => oweWaits s e.1 e.2.lo.toNat (e.2.len / 4096))).getD false

/-- What a unit other than the register files makes a syllable wait for before it issues (R91). For `MSATCNT` the matrix queues are
empty when the result of the last operation is readable, not when that ceases to occupy its queue (R220, R224; DESIGN CHOICE, log
entry 127). -/
def unitBusy (s : State) (lx : Option (BitVec 27)) (w : Syllable) (i : Instr) : Bool :=
  behindEarlier s lx w i ||
  ringStops s lsBase 0x100000 (lsUses s lx i) || ringStops s qsBase 0x400000 (qsUses s lx i) ||
  ((isMemSlot w || isAsync w) && s.core.rangeBusy) ||
  ((classOf w == 5 || classOf w == 6 || classOf w == 7) && decide (16 ≤ s.core.vu.queue.length)) ||
  ((apertureOf s lx i).map (chanFull s)).getD false ||
  (match i with
   | .div .. | .divw .. | .rem .. | .remw .. => enabled s.core i && decide (s.clock < s.core.divBusy)
   | .mma .. | .mmat .. | .mmag .. => decide (4 ≤ notStarted s.core.mx.array)
   | .mzero .. | .mdrain .. | .mldc .. | .mbwr .. => decide (4 ≤ notStarted s.core.mx.transfer)
   | .csrr _ n | .csrw _ n =>
     ((n.toNat == 0x100 || n.toNat == 0x101 || n.toNat == 0x102) && vecWork s.core) ||
     (n.toNat == 0x200 && !(s.core.mx.array.isEmpty && s.core.mx.transfer.isEmpty))
   | .erw a _ _ => s.bte.armed.contains (peekX s a)
   | .eswap a =>
     let e := peekX s a
     s.bte.armed.contains e || (decide (e < 64) && chanFull s e) || (decide (64 ≤ e) && decide (e < 72) && rowFull s (e - 64)) ||
       (decide (72 ≤ e) && decide (e < 80) && fabFull s (e - 72)) || (decide (80 ≤ e) && decide (e < 84) && playsFull s (e - 80))
   | .fsend _ _ _ n | .fwr _ _ _ n | .fwrs _ _ _ n | .fwrsSc _ _ _ n | .frd _ _ _ n | .fsig _ _ n | .fmcast _ _ _ _ n => fabFull s n.val
   | .rgload _ n | .reshelve _ n => replayBusy s n.val
   | .rgplay _ _ _ n => playsFull s n.val
   | .rowcpy c .. | .rowfil c .. | .rownot c .. | .rowand c .. | .rowor c .. | .rowxor c .. => rowFull s (rowPortNum (peekX s c))
   | .owne a b v p => !v && oweWaits s p (peekX s a) (peekX s b)
   | _ => false)

/-- A bundle preceded by drain clocks (R438). -/
def needsDrain (i : Instr) : Bool :=
  match i with
  | .csrr _ n | .csrw _ n => n.toNat == 0x100 || n.toNat == 0x101 || n.toNat == 0x102
  | .vfence | .endt | .ssend _ => true
  | _ => false

/-- The ports whose queues a bundle must still pop and push at issue (R41, R96), in the order in which they take entries:
by syllable, then by register field. R41 gives two ports that are bound to one queue no order (DESIGN CHOICE, log entry
116). -/
def popsNeeded (c : Core) (d : Decoded) : List (Nat × Fin 4) :=
  d.flatMap (fun e => (portsOf c (liveReads c e.2.2)).filterMap (fun n => if (poppedAt c n).isSome then none else some (e.1, n)))
def pushesNeeded (c : Core) (d : Decoded) : List (Nat × Fin 4) :=
  d.flatMap (fun e => (portsOf c (liveWrites c e.2.2)).filterMap (fun n =>
    if kindOf c n != 1 || (reservedAt c n).isSome then none else some (e.1, n)))

/-- A pop at issue. Who takes a completion word has observed the completion (R151). -/
def popAt (s : State) (p : Nat × Fin 4) : State :=
  match entriesOf s p.2 with
  | e :: r =>
    let s := if kindOf s.core p.2 == 2 then observe s else s
    onCore (setEntries s p.2 r) (fun c => { c with pops := { idx := p.1, port := p.2, val := e.val.getD 0, mark := e.mark } :: c.pops })
  | [] => s
def reserveAt (s : State) (p : Nat × Fin 4) : State :=
  let id := s.core.nextId
  let q := queueOf s.core p.2
  let s := setEntries s p.2 (entriesOf s p.2 ++ [{ id := id, val := none }])
  onCore s (fun c => { c with nextId := id + 1, pushes := { idx := p.1, port := p.2, queue := q, entry := id } :: c.pushes })

/-- Every pop finds a filled entry, ports bound to one queue taking one entry each (R41, R96). -/
def popsReady : State → List (Nat × Fin 4) → Bool
  | _, [] => true
  | s, p :: r => ((entriesOf s p.2).head?.map (fun e => e.val.isSome)).getD false && popsReady (popAt s p) r
/-- Every push finds room, ports bound to one queue taking one place each (R41, R96). -/
def pushesReady : State → List (Nat × Fin 4) → Bool
  | _, [] => true
  | s, p :: r => decide ((entriesOf s p.2).length < capacityOf s.core p.2) && pushesReady (reserveAt s p) r

/-- Whether every queue popped holds filled entries and every queue pushed has room, as the queues stand (R41). -/
def queuesReady (s : State) (d : Decoded) : Bool :=
  popsReady s (popsNeeded s.core d) && pushesReady s (pushesNeeded s.core d)

/-- The LX in front of index `k`. -/
def lxBefore (d : Decoded) (k : Nat) : Option (BitVec 27) :=
  match d.find? (fun e => decide (e.1 + 1 = k)) with
  | some (_, _, .lx u) => some u
  | _ => none

/-- A store to a channel's aperture and an `ESWAP` of the same channel need two places in its queue (R237, R246). -/
def chanCrowded (s : State) (d : Decoded) : Bool :=
  d.any (fun e => ((apertureOf s (lxBefore d e.1) e.2.2).map (fun k =>
    decide (15 ≤ chanHolds s k) && d.any (fun f => match f.2.2 with | .eswap a => peekX s a == k | _ => false))).getD false)

/-- The state in which a bundle about to issue has made those of its pops that find a filled entry. -/
def foresee (s : State) (d : Decoded) : State :=
  (popsNeeded s.core d).foldl (fun s p => if ((entriesOf s p.2).head?.map (fun e => e.val.isSome)).getD false then popAt s p else s) s

/-- A new pod-scope operation waits while the package joins its pod's wheel: an SC operation, or the first arrival of a pod barrier's
phase (R430). -/
def podWaits (s : State) (i : Instr) : Bool :=
  s.plat.joining.isSome &&
  (match i with
   | .famo .. | .fwrsSc .. => true
   | .bar .pd b => !((s.core.task.bind (fun t => nodeOf s t.lnum t.node)).map (fun n => n.bars.any (fun k => k.scope == .pd && k.id == b && k.arrived.isSome))).getD false
   | _ => false)

/-- Whether a bundle, or what is left of one, waits before issue. -/
def blocked (s : State) (d : Decoded) : Bool :=
  let t := foresee s d
  d.any (fun e => podWaits t e.2.2) || d.any (fun e => namesPending t e.2.2 || unitBusy t (lxBefore d e.1) e.2.1 e.2.2) || chanCrowded t d || !queuesReady s d

/-! ### Issue -/

/-- The bundle issues from index `start` on: all its pops, then all its reservations (R41). The remainder of a split
bundle keeps the bindings, counts and mode with which the bundle issued (R37, R63, R106). -/
def issue (s : State) (ws : List Syllable) (d : Decoded) (start : Nat) : State :=
  let pops := popsNeeded s.core d
  let pushes := pushesNeeded s.core d
  let fresh := s.core.resume.isNone
  let counts := if fresh then Vector.ofFn (countWord s) else s.core.counts
  let qmap := if fresh then s.core.qmap else s.core.qmapAt
  let priv := if fresh then s.core.sw.priv else s.core.privAt
  let s := pushes.foldl reserveAt (pops.foldl popAt s)
  let csr := if fresh then [] else s.core.csrAt
  onCore s (fun c => { c with bundle := ws, idx := start, lx := none, waiting := none, waited := false, resume := none, entering := false, counts := counts, qmapAt := qmap, privAt := priv, csrAt := csr
                              stepped := c.sw.step || c.stepOnce })

/-! ### One syllable -/

/-- The syllable's bundle is in flight, or it is issued as a bundle of its own. -/
def ready (i : Instr) (s : State) : Option State :=
  if s.core.bundle.isEmpty then
    let w : Syllable := (encode true i).getD 0
    let d : Decoded := [(0, w, i)]
    if blocked s d then none else some (issue s [w] d 0)
  else some s

def Mark.isFabric : Mark → Bool
  | .fabric .. => true
  | _ => false

/-- The mark that the sources of a syllable raise, if any (R127, R174, R200, R308). A masked `GCLR` or `GSET` keeps
the mark of the register it keeps lanes of (R200); the data register of a store raises a fabric fault mark alone. -/
def raised (s : State) (i : Instr) : Mark :=
  let u := uses i
  let ms := (raisingX s.core i).map (readMark s) ++ ((storedX s.core i).map (readMark s)).filter Mark.isFabric ++ (u.vr ++ (wordRegs s i).1).map (fun r => s.core.vmark[r]) ++
    (match i with | .gclr .. | .gset .. => [] | _ => u.gr.map (fun r => s.core.gmark[r]))
  (ms.find? (fun k => k != .clean)).getD .clean

/-- A count that would pass the envelope's bound, looked at before the first syllable of a bundle (R404);
the bundle of an `ENVC` is not counted. -/
def envelopeFull (s : State) (i : Instr) : Bool :=
  counting s.core && s.core.idx == 0 && decide (s.core.envExpect ≤ s.core.envCount) && (match i with | .envc => false | _ => true)

/-- `TRAPVAL` of an envelope mismatch (R396). -/
def envVal (c : Core) : Word := BitVec.ofNat 64 (c.envCrc.toNat * 2 ^ 32 + c.envCount.toNat)

/-- The word of the syllable at the current index. -/
def wordHere (c : Core) : Word := BitVec.ofNat 64 ((c.bundle[c.idx]?).getD 0).toNat

/-- A syllable that runs behind an access of its own bundle waits as it would behind one of an earlier bundle (R146, R157,
R210, R217; DEDUCED, log entry 117). -/
def orderHolds (s : State) (i : Instr) : Bool := behindEarlier s s.core.lx ((s.core.bundle[s.core.idx]?).getD 0) i

/-- The trap of a mark that a syllable meets (R127, R308): the cause in the mark. The manual gives a fabric mark's cause no
detail: it is a free value (DESIGN CHOICE, log entry 22). -/
def markTrap (s : State) (k : Mark) : State :=
  match k with
  | .clean => s
  | .poison a => trapHere s .poisonConsumed 0 a
  | .fabric c v => trapHere (drawn s) (Cause.ofCode c.toNat) (bits (Config.freeWord s.free).toNat 7 0) v

/-- One syllable runs: its bundle is in flight; a privileged one in a bundle that issued in unprivileged mode is refused as
at decode (R61, R63); a bound of the envelope is looked at; a false guard leaves it without effect (R94); then
`pre` may stop it, then a mark that it meets is raised; otherwise `body` says what it does. -/
def sylPre (pre : State → Option Eff) (i : Instr) (s : State) (body : State → Eff) : Host.Outcome State Fault Refusal :=
  match ready i s with
  | none => .next (stall s)
  | some t =>
    if privileged i && !t.core.privAt then .next (trapDecode t .privilege t.core.idx (wordHere t.core))
    else if envelopeFull t i then .next (trapHere t .envelopeMismatch 1 (envVal t.core))
    else if !enabled t.core i then .next (settle t (.done t))
    else
      match pre t with
      | some e => .next (settle t e)
      | none =>
        if raised t i != .clean then .next (markTrap t (raised t i))
        else if orderHolds t i then .next (stall t)
        else .next (settle t (body t))

/-- One syllable without a check of its own before its marks. -/
def syl (i : Instr) (s : State) (body : State → Eff) : Host.Outcome State Fault Refusal := sylPre (fun _ => none) i s body

/-- A push to a port bound to the completion queue is denied at the pushing syllable (R40, R95). -/
def pushDenied (s : State) (r : XReg) : Bool :=
  match boundPort s.core r with
  | some n => kindOf s.core n == 2 && (reservedHere s.core r).isNone
  | none => false

/-- A syllable with one scalar destination, which may be a bound port (R95). The manual gives no `TRAPVAL`
for the denial: it is a free value (DESIGN CHOICE, log entry 22). -/
def guardPush (s : State) (r : XReg) (k : Eff) : Eff :=
  if pushDenied s r then .trap (drawn s) .accessDenied 1 (Config.freeWord s.free) else k

end Sys2Proof.Machine
end

