-- ==== Sys2Proof/Machine/Branch.lean ====
section
/-!
DEFINITION. The BR syllables (R92, R109 to R113).
-/
namespace Sys2Proof.Machine
open Sys2Proof

/-- The address of the syllable at the current index. -/
def addrHere (c : Core) : CodeAddr := c.pc + BitVec.ofNat 56 (4 * c.idx)

/-- A relative target (R109): the address of the BR syllable plus four times the signed offset. -/
def relTarget (c : Core) (off : Int) : CodeAddr := addrHere c + BitVec.ofInt 56 (4 * off)

/-- The branch is taken, with its bubble clocks (R92). -/
def takeBranch (s : State) (t : CodeAddr) (bubbles : Nat) : State := onCore s (fun c => { c with target := some (t, bubbles) })

def execJ (g : Guard) (o : BitVec 19) (s : State) :=
  syl (.j g o) s (fun s => .done (takeBranch s (relTarget s.core (immOf s.core 19 o.toNat)) 1))

/-- `CALL` writes the address after it into `x27` (R111). -/
def execCall (g : Guard) (o : BitVec 19) (s : State) :=
  syl (.call g o) s (fun s =>
    let s := expose s 1 (.x 27) (addrHere s.core + 4).toNat
    .done (takeBranch s (relTarget s.core (immOf s.core 19 o.toNat)) 1))

/-- A jump to the address in a register (R112). -/
def jumpTo (s : State) (t : Word) : Eff :=
  if bits t.toNat 63 56 != 0 then .trap s .xlateFault s.core.idx t
  else if bits t.toNat 1 0 != 0 then .trap s .align s.core.idx t
  else .done (takeBranch s (BitVec.ofNat 56 t.toNat) 3)

def execJr (g : Guard) (a : XReg) (s : State) := syl (.jr g a) s (fun s => jumpTo s (readX s a))
def execRet (g : Guard) (s : State) := syl (.ret g) s (fun s => jumpTo s (readX s 27))

/-- The bubbles of a taken `LOOP` by its displacement in syllables (R92). -/
def loopBubbles (off : Int) : Nat := if -63 ≤ off ∧ off ≤ 0 then 0 else 1

/-- `LOOP` decrements its counter and branches while the result is not zero (R113). -/
def execLoop (g : Guard) (c : XReg) (o : BitVec 14) (s : State) :=
  syl (.loop g c o) s (fun s =>
    let v := readX s c - 1
    let off := immOf s.core 14 o.toNat
    let s := expose s 1 (.x c) v.toNat
    .done (if v = 0 then s else takeBranch s (relTarget s.core off) (loopBubbles off)))

end Sys2Proof.Machine
end

