-- ==== Sys2Proof/Machine/Crypto.lean ====
section
/-!
DEFINITION. SHA-384, and ECDSA signatures and their verification over the 384-bit brainpool curve of RFC 5639 (R25). The
manual names the algorithms and not their constants, which are those of the standards (PRESUMED, log entry 111).
-/
namespace Sys2Proof.Machine

/-! ### SHA-384 -/

/-- The largest number whose k-th power is at most `n`, from bit `b` down. -/
def rootFloor (k n : Nat) : (b : Nat) → Nat → Nat
  | 0, acc => acc
  | b + 1, acc => rootFloor k n b (if (acc + 2 ^ b) ^ k ≤ n then acc + 2 ^ b else acc)

/-- The first 80 primes. -/
def shaPrimes : List Nat :=
  [2, 3, 5, 7, 11, 13, 17, 19, 23, 29, 31, 37, 41, 43, 47, 53, 59, 61, 67, 71] ++
  [73, 79, 83, 89, 97, 101, 103, 107, 109, 113, 127, 131, 137, 139, 149, 151, 157, 163, 167, 173] ++
  [179, 181, 191, 193, 197, 199, 211, 223, 227, 229, 233, 239, 241, 251, 257, 263, 269, 271, 277, 281] ++
  [283, 293, 307, 311, 313, 317, 331, 337, 347, 349, 353, 359, 367, 373, 379, 383, 389, 397, 401, 409]

/-- The round constants: the first 64 bits of the fractions of the primes' cube roots. -/
def shaK : List Word := shaPrimes.map (fun p => BitVec.ofNat 64 (rootFloor 3 (p * 2 ^ 192) 68 0))
/-- The initial state of SHA-384: the same of the square roots of the 9th to the 16th. -/
def shaInit : List Word := ((shaPrimes.drop 8).take 8).map (fun p => BitVec.ofNat 64 (rootFloor 2 (p * 2 ^ 128) 68 0))

def rotr (w : Word) (n : Nat) : Word := (w >>> n) ||| (w <<< (64 - n))
/-- Word `i` of a list. -/
def nthWord (l : List Word) (i : Nat) : Word := (l[i]?).getD 0

/-- The message schedule, newest word first. -/
def shaExtend : (n : Nat) → List Word → List Word
  | 0, w => w
  | n + 1, w =>
    let a := nthWord w 1
    let b := nthWord w 14
    let s1 := rotr a 19 ^^^ rotr a 61 ^^^ (a >>> 6)
    let s0 := rotr b 1 ^^^ rotr b 8 ^^^ (b >>> 7)
    shaExtend n ((s1 + nthWord w 6 + s0 + nthWord w 15) :: w)

/-- One round on the state a to h. -/
def shaRound (st : List Word) (kw : Word × Word) : List Word :=
  let a := nthWord st 0
  let e := nthWord st 4
  let t1 := nthWord st 7 + (rotr e 14 ^^^ rotr e 18 ^^^ rotr e 41) + ((e &&& nthWord st 5) ^^^ (~~~e &&& nthWord st 6)) + kw.1 + kw.2
  let t2 := (rotr a 28 ^^^ rotr a 34 ^^^ rotr a 39) + ((a &&& nthWord st 1) ^^^ (a &&& nthWord st 2) ^^^ (nthWord st 1 &&& nthWord st 2))
  [t1 + t2, a, nthWord st 1, nthWord st 2, nthWord st 3 + t1, e, nthWord st 5, nthWord st 6]

/-- A big-endian number. -/
def beNat (bs : List Byte) : Nat := bs.foldl (fun n b => n * 256 + b.toNat) 0
def beBytes (n v : Nat) : List Byte := (leBytes n v).reverse

/-- One block of 128 bytes. -/
def shaBlock (st : List Word) (block : List Byte) : List Word :=
  let w := (List.range 16).map (fun i => BitVec.ofNat 64 (beNat ((block.drop (8 * i)).take 8)))
  let w := (shaExtend 64 w.reverse).reverse
  List.zipWith (· + ·) st ((shaK.zip w).foldl shaRound st)

def shaBlocks : (n : Nat) → List Byte → List Word → List Word
  | 0, _, st => st
  | n + 1, bs, st => shaBlocks n (bs.drop 128) (shaBlock st (bs.take 128))

/-- The SHA-384 of a byte string (R25). -/
def sha384 (m : List Byte) : List Byte :=
  let zeros := (128 - (m.length + 17) % 128) % 128
  let padded := m ++ [0x80] ++ List.replicate zeros 0 ++ beBytes 16 (8 * m.length)
  ((shaBlocks (padded.length / 128) padded shaInit).take 6).flatMap (fun w => beBytes 8 w.toNat)

/-! ### The curve -/

/-- The field, the curve y² = x³ + a x + b, its base point and its order (brainpoolP384r1 of RFC 5639). -/
def curveP : Nat := 0x8CB91E82A3386D280F5D6F7E50E641DF152F7109ED5456B412B1DA197FB71123ACD3A729901D1A71874700133107EC53
def curveA : Nat := 0x7BC382C63D8C150C3C72080ACE05AFA0C2BEA28E4FB22787139165EFBA91F90F8AA5814A503AD4EB04A8C7DD22CE2826
def curveB : Nat := 0x04A8C7DD22CE28268B39B55416F0447C2FB77DE107DCD2A62E880EA53EEB62D57CB4390295DBC9943AB78696FA504C11
def curveG : Nat × Nat :=
  (0x1D1C64F068CF45FFA2A63A81B7C13F6B8847A3E77EF14FE3DB7FCAFE0CBD10E8E826E03436D646AAEF87B2E247D4AF1E,
   0x8ABE1D7520F9C2A45CB1EB8E95CFD55262B70B29FEEC5864E19C054FF99129280E4646217791811142820341263C5315)
def curveN : Nat := 0x8CB91E82A3386D280F5D6F7E50E641DF152F7109ED5456B31F166E6CAC0425A7CF3AB6AF6B7FC3103B883202E9046565

/-- x ^ e modulo m, from the low bits of e up. -/
def powMod (m : Nat) : (fuel : Nat) → (x e acc : Nat) → Nat
  | 0, _, _, acc => acc
  | fuel + 1, x, e, acc => powMod m fuel (x * x % m) (e / 2) (if e % 2 == 1 then acc * x % m else acc)
/-- The inverse modulo a prime of at most 384 bits. -/
def invMod (m x : Nat) : Nat := powMod m 384 (x % m) (m - 2) 1

/-- The sum of two points; none is the point at infinity. -/
def addPoint : Option (Nat × Nat) → Option (Nat × Nat) → Option (Nat × Nat)
  | none, q => q
  | p, none => p
  | some (x1, y1), some (x2, y2) =>
    if x1 == x2 && (y1 + y2) % curveP == 0 then none
    else
      let l := if x1 == x2 then (3 * x1 * x1 + curveA) * invMod curveP (2 * y1) % curveP
        else (y2 + curveP - y1) * invMod curveP (x2 + curveP - x1) % curveP
      let x3 := (l * l + 2 * curveP - x1 - x2) % curveP
      some (x3, (l * (x1 + curveP - x3) + curveP - y1) % curveP)

/-- k times a point. -/
def mulPoint : (fuel : Nat) → (k : Nat) → (p acc : Option (Nat × Nat)) → Option (Nat × Nat)
  | 0, _, _, acc => acc
  | fuel + 1, k, p, acc => mulPoint fuel (k / 2) (addPoint p p) (if k % 2 == 1 then addPoint acc p else acc)

/-- Whether `sig`, r then s, is a signature of `msg` under a public key, x then y, all big-endian (R25). -/
def ecdsaVerify (key msg sig : List Byte) : Bool :=
  let x := beNat (key.take 48)
  let y := beNat ((key.drop 48).take 48)
  let r := beNat (sig.take 48)
  let s := beNat ((sig.drop 48).take 48)
  let e := beNat (sha384 msg)
  let w := invMod curveN s
  decide (x < curveP) && decide (y < curveP) && (y * y) % curveP == (x * x * x + curveA * x + curveB) % curveP &&
  decide (0 < r) && decide (r < curveN) && decide (0 < s) && decide (s < curveN) &&
  (match addPoint (mulPoint 384 (e * w % curveN) (some curveG) none) (mulPoint 384 (r * w % curveN) (some (x, y)) none) with
   | some q => q.1 % curveN == r
   | none => false)

/-- The signature, r then s, big-endian, of `msg` with private key `d` and a nonce (R25). A nonce that gives a zero is passed over
for the next number. -/
def ecdsaSign (d : Nat) (msg : List Byte) : (fuel : Nat) → (nonce : Nat) → List Byte
  | 0, _ => []
  | fuel + 1, nonce =>
    let k := nonce % (curveN - 1) + 1
    let r := ((mulPoint 384 k (some curveG) none).map (fun q => q.1 % curveN)).getD 0
    let s := invMod curveN k * (beNat (sha384 msg) + r * d) % curveN
    if r == 0 || s == 0 then ecdsaSign d msg fuel (nonce + 1) else beBytes 48 r ++ beBytes 48 s

end Sys2Proof.Machine
end

