-- ==== Sys2Proof/Machine/Spaces.lean ====
section
/-!
DEFINITION. The checks of an access to LS, QS, OC and GM (R116 to R123, R134, R136), for the core and for
its engines, and where the bytes then lie.
-/
namespace Sys2Proof.Machine

/-- Where the bytes of a checked access lie. -/
inductive Place where
  /-- On-chip storage at an OC address. -/
  | oc (a : Nat)
  /-- The vector register file at a byte offset. -/
  | vregs (off : Nat)
  /-- The register window at a byte offset (R118). -/
  | regs (off : Nat)
  /-- The BTE aperture of a channel (R240). -/
  | aperture (k : Nat)
  /-- The engine register blocks at a byte offset (R246). -/
  | blocks (off : Nat)
  /-- A hub register (R118). -/
  | hub (a : Nat)
  /-- GM or FS: runs of bytes at DPAs. -/
  | gm (runs : List (Nat × Nat))
  /-- Host memory (R139). -/
  | host (a : Nat)
  deriving DecidableEq, Repr

/-! ### Owner bits and tags -/

/-- Whether `n` bytes at an OC address meet a live barrier word (R121). -/
def meetsTag (s : State) (oc n : Nat) : Bool := s.tags.any (fun t => decide (t * 16 < oc + n) && decide (oc < t * 16 + 16))

/-- The owner check of a core access (R120): an engine-owned granule of a ring makes it wait. -/
def ownedByCore (s : State) (oc n addr : Nat) : Acc Unit :=
  match (granulesOf oc n).find? (fun g => s.engine.contains g) with
  | none => .ok s ()
  | some g => if (ringOf s.core g).isSome then .wait s else .fault s .ownerViolation 7 addr

/-- The owner check of an engine-side access (R120). -/
def ownedByEngine (s : State) (oc n : Nat) : Bool := (granulesOf oc n).all (fun g => s.engine.contains g)

/-- A core access to LS or QS at byte `a` of a store of `size` bytes at OC `base` (R117, R120, R121). -/
def localCheck (s : State) (base size : Nat) (a : Int) (n : Nat) (wr : Bool) : Acc Place :=
  let addr := (toWord a).toNat
  if a < 0 ∨ (size : Int) < a + (n : Int) then .fault s .ocUnmapped 0 addr
  else
    let oc := base + a.toNat
    (ownedByCore s oc n addr).bind (fun s _ =>
      if wr && meetsTag s oc n then .fault s .barrierClobber 8 addr else .ok s (.oc oc))

/-! ### The on-chip map -/

/-- An enabled core: its number is in the part configuration and its die enabled (R23). -/
def coreOn (s : State) (c : Nat) : Bool := s.part.cores.contains c && s.part.dies.getLsbD (c / 64)
/-- An enabled quad: one of its cores is enabled (R23). -/
def quadOn (s : State) (q : Nat) : Bool := (List.range 4).any (fun i => coreOn s (4 * q + i))
/-- An enabled MSC slice: its die is enabled and no substitute stands for it (R23, R126). -/
def sliceOn (s : State) (k : Nat) : Bool := s.part.dies.getLsbD (k / 16) && !(s.part.slices.any (fun p => p.1 == k))

/-- What an OC access comes to before its rights are looked at: a window and the offset in it. -/
inductive Window where
  | ls (c : Nat) (off : Nat) | acc (c : Nat) (off : Nat) | vr (c : Nat) (off : Nat) | reg (c : Nat) (off : Nat)
  | apert (c : Nat) (off : Nat) | block (c : Nat) (off : Nat) | qs (q : Nat) (off : Nat)
  | scratch (slice : Nat) (off : Nat) | hub (a : Nat)
  deriving DecidableEq, Repr

/-- The window of one byte (R118). -/
def windowAt (a : Nat) : Option Window :=
  if 0x1000000000 ≤ a ∧ a < 0x1000000000 + 512 * 0x400000 then
    let c := (a - 0x1000000000) / 0x400000
    let o := (a - 0x1000000000) % 0x400000
    if o < 0x100000 then some (.ls c o)
    else if o < 0x200000 then some (.acc c (o - 0x100000))
    else if o < 0x204000 then some (.vr c (o - 0x200000))
    else if 0x210000 ≤ o ∧ o < 0x220000 then some (.reg c (o - 0x210000))
    else if 0x300000 ≤ o ∧ o < 0x300200 then some (.apert c (o - 0x300000))
    else if 0x380000 ≤ o ∧ o < 0x390000 then some (.block c (o - 0x380000))
    else none
  else if 0x2000000000 ≤ a ∧ a < 0x2000000000 + 128 * 0x400000 then
    some (.qs ((a - 0x2000000000) / 0x400000) ((a - 0x2000000000) % 0x400000))
  else if 0x3000000000 ≤ a ∧ a < 0x3000000000 + 8 * 0x10000000 then
    some (.scratch ((a - 0x3000000000) / 0x1000000) ((a - 0x3000000000) % 0x1000000))
  else if 0x4001000000 ≤ a ∧ a < 0x400A000000 then some (.hub a)
  else none

/-- Two bytes lie in the same window. -/
def Window.same : Window → Window → Bool
  | .ls a _, .ls b _ | .acc a _, .acc b _ | .vr a _, .vr b _ | .reg a _, .reg b _ | .apert a _, .apert b _
  | .block a _, .block b _ | .qs a _, .qs b _ | .scratch a _, .scratch b _ => a == b
  | .hub _, .hub _ => true
  | _, _ => false

/-- Whether the unit of a window is enabled (R23). -/
def Window.on (s : State) : Window → Bool
  | .ls c _ | .acc c _ | .vr c _ | .reg c _ | .apert c _ | .block c _ => coreOn s c
  | .qs q _ => quadOn s q
  | .scratch k _ => sliceOn s k
  | .hub _ => true

/-- A core that is halted or holds no tile task (R118). -/
def coreQuiet (s : State) (c : Nat) : Bool :=
  if c == 0 then (match s.core.run with | .halted _ => true | _ => s.core.task.isNone) else true

/-- The hub block's access table (R405). -/
def hubTarget (a : Nat) : Nat := if 0x4009000000 ≤ a then 160 else 144 + ((a - 0x4001000000) / 0x1000000)

/-- Who issues an OC access: the core, or an engine of it. -/
structure OcUser where
  core : Bool := true
  priv : Bool := false
  req : Requester := {}
  deriving DecidableEq, Repr

/-- The check of an OC access of `n` bytes (R23, R117, R118, R120, R121, R129, R406). -/
def ocCheck (s : State) (u : OcUser) (a : Int) (n : Nat) (rd wr : Bool) : Acc Place :=
  let addr := (toWord a).toNat
  let bad (c : Cause) (r : Nat) : Acc Place := .fault s c r addr
  if a < 0 ∨ (2 ^ 40 : Int) ≤ a then bad .ocUnmapped 0
  else
    let a := a.toNat
    match windowAt a, windowAt (a + n - 1) with
    | some w, some w' =>
      if !(w.same w') || !(w.on s) then bad .ocUnmapped 0
      else
        match w with
        | .ls c o =>
          if !ownedByEngine s a n then bad .ownerViolation 7
          else if wr && meetsTag s a n then bad .barrierClobber 8
          else .ok s (.oc (lsBase + c * 0x400000 + o))
        | .qs q o =>
          if !ownedByEngine s a n then bad .ownerViolation 7
          else if wr && meetsTag s a n then bad .barrierClobber 8
          else .ok s (.oc (qsBase + q * 0x400000 + o))
        | .acc c _ => if coreQuiet s c then .ok s (.oc a) else bad .accessDenied 5
        | .vr c o => if c == 0 && !s.vrEngine then bad .ownerViolation 7 else .ok s (if c == 0 then .vregs o else .oc a)
        | .reg c o => if coreQuiet s c then .ok s (if c == 0 then .regs o else .oc a) else bad .accessDenied 5
        | .apert c o =>
          if c != 0 || !u.core then bad .accessDenied 1
          else if n != 8 then bad .align 6
          else .ok s (.aperture (o / 8))
        | .block c o => if !u.priv then bad .accessDenied 1 else .ok s (if c == 0 then .blocks o else .oc a)
        | .scratch k o =>
          if (sliceGet s k).cur * 2 ^ 20 ≤ o ∨ (sliceGet s k).cur * 2 ^ 20 < o + n then bad .ocUnmapped 0
          else if !permits s (16 + k) (a / 4096) u.req rd wr then bad .accessDenied 1
          else .ok s (.oc a)
        | .hub a =>
          -- the size of the access is looked at before its privilege (DESIGN CHOICE, log entry 101)
          if n != 8 then bad .align 6
          else if wr && (!u.priv || (0x4009000000 ≤ a && u.req.cls != 4) || (0x4004008000 ≤ a && a < 0x4004008200)) then bad .accessDenied 1
          else if !permits s (hubTarget a) (a / 4096) u.req rd wr then bad .accessDenied 1
          else .ok s (.hub a)
    | _, _ => bad .ocUnmapped 0

/-! ### GM -/

/-- Translate a run of bytes of GM for the core, page by page in ascending order (R117, R134, R135, R406). A fault reports
`addr`, or when `each` the address in the page that fails (R136, R228). -/
def gmRuns (s : State) (need : Need) (addr : Nat) (each : Bool) : List (Nat × Nat) → Acc (List (Nat × Nat))
  | [] => .ok s []
  | (va, k) :: r =>
    let at_ := if each then va else addr
    match translate s (coreLnum s) (coreRoot s) va need (corePriv s) with
    | (s, .page d) =>
      let q := coreReq s
      let d := d + va % 4096
      if !(dpaPermits s d k q (need.rd || need.ex) need.wr) then .fault s .accessDenied 1 at_
      else if dpaWaits s d k need.wr then .wait s
      else (gmRuns s need addr each r).bind (fun s l => .ok s ((d, k) :: l))
    | (s, .fault c x) => .fault s c x at_
    | (s, .moving) => .wait s

/-- The check of a GM access of the core (R117, R134). -/
def gmCheck (s : State) (a : Int) (n : Nat) (need : Need) (each : Bool := false) : Acc Place :=
  let addr := (toWord a).toNat
  if a < 0 ∨ (2 ^ 56 : Int) ≤ a + n - 1 then .fault s .xlateFault 0 (if each && decide (0 ≤ a) && decide (a < (2 ^ 56 : Int)) then 2 ^ 56 else addr)
  else (gmRuns s need addr each (runPages a.toNat n)).bind (fun s l => .ok s (.gm l))

/-- The line that some other node has staged, met by a store of the core (R153). -/
def stagedClash (s : State) (v : Viewer) (runs : List (Nat × Nat)) : Option Staged :=
  (runs.flatMap (fun r => (runPieces r.1 r.2).map (fun p => p.1))).findSome? (fun sec => stagedByOther s sec v)

/-- The age of a node: launch order, then node number (R153). -/
def olderThan (s : State) (a b : Nat × Nat) : Bool :=
  let o (l : Nat) : Nat := ((launchOf s l).map (·.order)).getD 0
  decide (o a.1 < o b.1) || (o a.1 == o b.1 && decide (a.2 < b.2))

/-- A write or atomic of a task of one node, by the core or one of its commands, to lines that other nodes have staged
(R153): an older node's discards the younger node and goes on, a younger node's waits. -/
def settleClash (fuel : Nat) (s : State) (v : Viewer) (runs : List (Nat × Nat)) : Acc Unit :=
  match fuel with
  | 0 => .ok s ()
  | fuel + 1 =>
    match stagedClash s v runs with
    | none => .ok s ()
    | some t =>
      if olderThan s (v.lnum, v.node) (t.lnum, t.node) then
        settleClash fuel (noteMembers (conflictHere s t.lnum t.node) 11 t.lnum t.node) v runs
      else .wait s

end Sys2Proof.Machine
end

