-- ==== Sys2Proof/Machine/Place.lean ====
section
/-!
DEFINITION. Reading and writing the bytes of a checked access, and the checks of an engine's access to any
space (R120, R121, R134, R139, R151, R241).
-/
namespace Sys2Proof.Machine

/-- The vector register file as bytes, `v`n at n × 512 (R118). -/
def vregsNat (c : Core) : Nat := packElems 4096 (c.v.toList.map (·.toNat))
def vregsRead (c : Core) (off n : Nat) : List Byte :=
  (List.range n).map (fun i => BitVec.ofNat 8 ((((c.v[(off + i) / 512]?).getD 0).toNat) >>> (8 * ((off + i) % 512))))
/-- Some register that the bytes touch carries a mark (R127). -/
def vregsPoisoned (c : Core) (off n : Nat) : Bool :=
  (List.range n).any (fun i => ((c.vmark[(off + i) / 512]?).getD .clean) != .clean)
/-- Bytes written to the register file by an engine. A poisoned write marks the registers it meets; R127 speaks of stores to
sectors only, and a clean write leaves a register's mark as it is (DESIGN CHOICE, log entry 118). -/
def vregsWrite (c : Core) (off : Nat) (bs : List Byte) (p : Bool) : Core :=
  (bs.zipIdx).foldl (fun c b =>
    let r : VReg := ⟨(off + b.2) / 512 % 32, Nat.mod_lt _ (by decide)⟩
    let k := (off + b.2) % 512
    { c with v := c.v.set r (BitVec.ofNat 4096 (setBits (c.v[r]).toNat (8 * k + 7) (8 * k) b.1.toNat))
             vmark := if p then c.vmark.set r (.poison (BitVec.ofNat 64 (vrBase + off))) else c.vmark }) c

/-! ### The register window (R118, R408) -/

/-- The scalar, predicate, mask and statistics registers as bytes, one kind after the other (R118). -/
def regImage (c : Core) : List Byte :=
  c.x.toList.flatMap (fun v => leBytes 8 v.toNat) ++ leBytes 8 c.p.toNat ++ c.m.toList.flatMap (fun v => leBytes 128 v.toNat) ++
  c.g.toList.flatMap (fun g => leBytes 512 g.w.toNat ++ leBytes 512 g.m.toNat ++ leBytes 512 g.q.toNat)
/-- The bytes of the held writes (R400, R408): for each its destination's kind and number, its distance and its value. -/
def heldImage (c : Core) : List Byte :=
  let code (d : Dest) : Nat × Nat × Nat :=
    match d with
    | .x r => (0, r.val, 8) | .p r => (1, r.val, 1) | .v r => (2, r.val, 512) | .m r => (3, r.val, 128) | .g r => (4, r.val, 1536)
    | .queue q e => (5, q.val + 16 * e, 8)
  c.levels.flatMap (fun l => l.writes.flatMap (fun w => leBytes 8 (code w.dst).1 ++ leBytes 8 (code w.dst).2.1 ++ leBytes 8 w.due ++ leBytes (code w.dst).2.2 w.val))
/-- A byte of the register window: the byte of the registers, or past them of the held writes, that the layout puts there;
the manual names a layout and gives none, so it is free (DESIGN CHOICE, log entry 25). -/
def regByte (c : Core) (off : Nat) : Byte :=
  match Config.regWindow off with
  | some k => ((regImage c ++ heldImage c)[k]?).getD 0
  | none => 0
/-- Byte `k` of the registers is replaced; `x0` and `p0` take no write, and of the predicates only the byte that holds them. -/
def setRegByte (c : Core) (k : Nat) (b : Byte) : Core :=
  let put (old i : Nat) : Nat := setBits old (8 * i + 7) (8 * i) b.toNat
  if k < 256 then setX c ⟨k / 8 % 32, Nat.mod_lt _ (by decide)⟩ (BitVec.ofNat 64 (put ((c.x[k / 8]?).getD 0).toNat (k % 8))) .clean
  else if k = 256 then { c with p := b ||| 1 }
  else if k < 264 then c
  else if k < 264 + 1024 then
    let r : MReg := ⟨(k - 264) / 128 % 8, Nat.mod_lt _ (by decide)⟩
    { c with m := c.m.set r (BitVec.ofNat 1024 (put (c.m[r]).toNat ((k - 264) % 128))) }
  else if k < 1288 + 24576 then
    let r : GReg := ⟨(k - 1288) / 1536 % 16, Nat.mod_lt _ (by decide)⟩
    let o := (k - 1288) % 1536
    let g := c.g[r]
    { c with g := c.g.set r (if o < 512 then { g with w := BitVec.ofNat 4096 (put g.w.toNat o) } else if o < 1024 then { g with m := BitVec.ofNat 4096 (put g.m.toNat (o - 512)) }
        else { g with q := BitVec.ofNat 4096 (put g.q.toNat (o - 1024)) }) }
  else c
/-- A store to the register window: each byte goes to the byte of the registers that the layout puts there. -/
def regsWrite (c : Core) (off : Nat) (bs : List Byte) : Core :=
  (bs.zipIdx).foldl (fun c b => match Config.regWindow (off + b.2) with | some k => setRegByte c k b.1 | none => c) c

/-! ### Engine registers -/

/-- Register `n` of the active set, or `n - 32` of the shadow set, of engine `e` (R246). -/
def eregGet (s : State) (e n : Nat) : Word := lookupD s.bte.eregs (e * 64 + n) 0
def eregSet (s : State) (e n : Nat) (v : Word) : State := { s with bte := { s.bte with eregs := storeAt s.bte.eregs (e * 64 + n) v } }

/-- The shadow registers that a write changes: the eight template words of a channel, the five registers of
a row port, the six of a Tether port, the bases and the play word of a replay unit (R246, R278, R302, R317). -/
def shadowWritable (e n : Nat) : Bool :=
  if e < 64 then decide (n < 8) else if e < 72 then decide (n < 5) else if e < 80 then decide (n < 6)
  else decide (n < 8) || n == 9

/-- The bits of a shadow register that are fields: those of the template, the row descriptor and op, the fabric
descriptor and flags, and the play word; a reserved field reads zero (R4, R239, R268, R278, R302, R304, R336). -/
def shadowMask (e n : Nat) : Word :=
  if e < 64 then
    (if n == 2 then 0x00FFFFFFFFFFFFFF else if n == 5 then 0x003FFFFF101F1F77 else if n == 6 then 0xFFFF else if n == 7 then 0
     else BitVec.allOnes 64)
  else if e < 72 then (if n == 3 then 0x0000FFFF0017FFFF else if n == 4 then 0x1F else BitVec.allOnes 64)
  else if e < 80 then (if n == 0 then 0xFFFFFF0FFFFFFFFF else if n == 5 then 0x7F else BitVec.allOnes 64)
  else if n == 9 then 0x7FFFFFFFFFFFFFFF else BitVec.allOnes 64

/-- A write of shadow register `n` (R246): a read-only one ignores it, a reserved field stays zero. -/
def shadowSet (s : State) (e n : Nat) (v : Word) : State :=
  if shadowWritable e n then eregSet s e (32 + n) (v &&& shadowMask e n) else s

/-- The byte of the engine blocks at an offset (R246). -/
def blockByte (s : State) (off : Nat) : Byte :=
  BitVec.ofNat 8 ((eregGet s (off / 0x200) (off % 0x200 / 8)).toNat >>> (8 * (off % 8)))

/-- What a store to the engine blocks does: each shadow register takes the bytes that fall in it, everything else ignores
them (R118, R246). -/
def blockStore (s : State) (off : Nat) (bs : List Byte) : State :=
  (List.range ((off % 8 + bs.length + 7) / 8)).foldl (fun s j =>
    let r := off / 8 + j
    let e := r / 64
    let n := r % 64
    let v := BitVec.ofNat 64 (leNat ((List.range 8).map (fun i =>
      if off ≤ 8 * r + i ∧ 8 * r + i < off + bs.length then (bs[8 * r + i - off]?).getD 0 else blockByte s (8 * r + i))))
    if 32 ≤ n ∧ e < 84 then shadowSet s e (n - 32) v else s) s

/-- Status of a channel as an aperture load shows it (R240). -/
def apertureWord (s : State) (k : Nat) : Word :=
  let c := lookupD s.bte.chan k {}
  BitVec.ofNat 64 (min c.queue.length 31 + 32 * b2n (c.active.isSome || !c.post.isEmpty) + 64 * b2n (s.bte.armed.contains k) +
    128 * b2n (bit s.core.bteErr.toNat k) + 256 * b2n c.window)

end Sys2Proof.Machine
end

