-- ==== Sys2Proof/Machine/Barrier.lean ====
section
/-!
DEFINITION. Transaction barriers (R247 to R252) and the counters of rings (R253 to R255).
-/
namespace Sys2Proof.Machine

/-- A barrier word (R247); the pending counts are kept modulo 2^36 and 2^20. -/
structure BarrierWord where
  sreload : Nat
  areload : Nat
  spend : Nat
  apend : Nat
  phase : Nat
  deriving DecidableEq, Repr

def BarrierWord.ofNat (v : Nat) : BarrierWord :=
  ⟨bits v 119 84, bits v 83 64, bits v 63 28, bits v 27 8, bits v 3 0⟩
def BarrierWord.toNat (b : BarrierWord) : Nat :=
  b.phase % 16 + b.apend % 2 ^ 20 * 2 ^ 8 + b.spend % 2 ^ 36 * 2 ^ 28 + b.areload % 2 ^ 20 * 2 ^ 64 + b.sreload % 2 ^ 36 * 2 ^ 84

/-- The end of every update (R248): both counts zero advance the phase and reload them. -/
def BarrierWord.check (b : BarrierWord) : BarrierWord :=
  if b.apend == 0 && b.spend == 0 then { b with phase := (b.phase + 1) % 16, apend := b.areload, spend := b.sreload } else b

/-- One update (R248): `n` arrivals taken, `e` sectors added, modulo their widths. -/
def BarrierWord.update (b : BarrierWord) (n : Nat) (e : Int) : BarrierWord :=
  ({ b with apend := wrapTo 20 ((b.apend : Int) - n), spend := wrapTo 36 ((b.spend : Int) + e) } : BarrierWord).check

/-- The OC address of byte `a` of LS, or of QS when `qs` (R118). -/
def localOc (qs : Bool) (a : Nat) : Nat := (if qs then qsBase else lsBase) + a

def barrierAt (s : State) (oc : Nat) : BarrierWord := BarrierWord.ofNat (s.oc.readNat oc 16)
def barrierSet (s : State) (oc : Nat) (b : BarrierWord) : State := { s with oc := s.oc.writeNat oc 16 b.toNat }
def barrierLive (s : State) (oc : Nat) : Bool := s.tags.contains (oc / 16)
/-- An update of the barrier at an OC address (R248); who then reads the word sees every earlier write of the engines
(R151). -/
def barrierUpdate (s : State) (oc n : Nat) (e : Int) : State :=
  stampSignal (barrierSet s oc ((barrierAt s oc).update n e)) (ocKey oc)

/-! ### Rings -/

/-- `RNGCNT` from its counters (R253). -/
def rngWord (tail head free filled : Nat) : Word :=
  BitVec.ofNat 64 (tail * 2 ^ 48 + head * 2 ^ 32 + free * 2 ^ 16 + filled)
def rngTail (w : Word) : Nat := bits w.toNat 55 48
def rngHead (w : Word) : Nat := bits w.toNat 39 32
def rngFree (w : Word) : Nat := bits w.toNat 24 16
def rngFilled (w : Word) : Nat := bits w.toNat 8 0

def ringCnt (s : State) (n : Nat) : Word := (s.core.rngCnt[n]?).getD 0
def setRingCnt (s : State) (n : Nat) (w : Word) : State :=
  if h : n < 16 then onCore s (fun c => { c with rngCnt := c.rngCnt.set n w }) else s
def setRingCfg (s : State) (n : Nat) (w : Word) : State :=
  if h : n < 16 then onCore s (fun c => { c with rngCfg := c.rngCfg.set n w }) else s
def ringClaimOf (s : State) (n : Nat) : Nat := (s.bte.claim[n]?).getD 0
def setClaim (s : State) (n v : Nat) : State :=
  if h : n < 16 then { s with bte := { s.bte with claim := s.bte.claim.set n v } } else s

/-- Give granules to the engines, or to the core (R120, R150). -/
def flipTo (s : State) (engine : Bool) (gs : List Nat) : State :=
  { s with engine := gs.foldl (fun l g => if engine then insertKey g l else eraseKey g l) s.engine }

/-- The granules of slot `j` of a ring (R254). -/
def slotGranules (c : Core) (n j : Nat) : List Nat :=
  (List.range (ringSlotG c n)).map (fun i => ringFirst c n + j * ringSlotG c n + i)
/-- The OC address of slot `j`. -/
def slotOc (c : Core) (n j : Nat) : Nat := (ringFirst c n + j * ringSlotG c n) * 4096
/-- The slot size of a ring in sectors (R254). -/
def slotSectors (c : Core) (n : Nat) : Nat := ringSlotG c n * 128

/-- Whether a ring being enabled would meet an enabled one, leave its space or hold an engine-owned granule
(R253). -/
def ringRefused (s : State) (n : Nat) (w : Word) : Bool :=
  let c := { s.core with rngCfg := if h : n < 16 then s.core.rngCfg.set n (w &&& ~~~(1#64 <<< 63)) else s.core.rngCfg }
  let first := ringFirst c n
  let span := ringSpan c n
  bits w.toNat 39 32 == 0 ||
  decide ((if ringQs c n then 1024 else 256) < ringBaseG c n + span) ||
  (List.range 16).any (fun m => m != n && ringOn s.core m && decide (ringFirst s.core m < first + span) && decide (first < ringFirst s.core m + ringSpan s.core m)) ||
  (List.range span).any (fun i => s.engine.contains (first + i))

/-- The writable bits of `RNGCFG` but `EN` (R253). -/
def rngMask : Word := 0x000000FF0F7FF000

/-- A write of `RNGCFG` with `EN` = 1 (R253): the ring is enabled with every granule engine-owned, or refused. -/
def enableRing (s : State) (n : Nat) (v : Word) : State :=
  if ringOn s.core n then s
  else
    let w := v &&& rngMask
    if ringRefused s n w then setRingCfg s n (w ||| (1#64 <<< 62))
    else
      let s := setRingCfg s n (w ||| (1#64 <<< 63))
      let s := flipTo s true ((List.range (ringSpan s.core n)).map (fun i => ringFirst s.core n + i))
      let s := setRingCnt s n (rngWord 0 0 (ringSlots s.core n) 0)
      let s := setClaim s n 0
      { s with bte := { s.bte with full := s.bte.full.filter (fun x => x / 256 != n) } }

/-- Started commands and fabric messages that still have sectors to write into a ring that is disabled (R253). -/
def loseRing (s : State) (n : Nat) : State :=
  let bound (a : Active) : Bool := bit ((a.words[5]?).getD 0).toNat 20 && bits ((a.words[5]?).getD 0).toNat 19 16 == n
  { s with
    bte := { s.bte with chan := s.bte.chan.map (fun c => (c.1, { c.2 with active := c.2.active.map (fun a => if bound a then { a with lost := true } else a) })) }
    fabric := { s.fabric with messages := s.fabric.messages.filter (fun m => m.2.1 != n) } }

/-- A write of `RNGCFG` with `EN` = 0 (R253). On a ring that is disabled already, `ERR` stays what the last write of
`EN` = 1 made it. -/
def disableRing (s : State) (n : Nat) (v : Word) : State :=
  if ringOn s.core n then
    let gs := (List.range (ringSpan s.core n)).map (fun i => ringFirst s.core n + i)
    let s := setRingCfg s n (((s.core.rngCfg[n]?).getD 0) &&& rngMask)
    let s := flipTo s false gs
    let s := setClaim (setRingCnt s n 0) n 0
    loseRing { s with bte := { s.bte with full := s.bte.full.filter (fun x => x / 256 != n) } } n
  else setRingCfg s n ((v &&& rngMask) ||| (((s.core.rngCfg[n]?).getD 0) &&& (1#64 <<< 62)))

/-- Claim the slot at the claim position, when one is free (R254). -/
def claimSlot (s : State) (n : Nat) : Option (State × Nat) :=
  let w := ringCnt s n
  if rngFree w == 0 then none
  else
    let j := ringClaimOf s n
    let s := setRingCnt s n (rngWord (rngTail w) (rngHead w) (rngFree w - 1) (rngFilled w))
    some (setClaim s n ((j + 1) % ringSlots s.core n), j)

/-- `TAIL` advances over filled slots in order, each then counted by `FILLED` (R254). -/
def advanceTail : (fuel : Nat) → State → Nat → State
  | 0, s, _ => s
  | fuel + 1, s, n =>
    let w := ringCnt s n
    if s.bte.full.contains (256 * n + rngTail w) then
      let s := { s with bte := { s.bte with full := eraseKey (256 * n + rngTail w) s.bte.full } }
      advanceTail fuel (setRingCnt s n (rngWord ((rngTail w + 1) % ringSlots s.core n) (rngHead w) (rngFree w) (rngFilled w + 1))) n
    else s

/-- A slot's last sector has been written (R254): its granules flip to the core. -/
def fillSlot (s : State) (n j : Nat) : State :=
  let s := flipTo s false (slotGranules s.core n j)
  advanceTail 256 { s with bte := { s.bte with full := insertKey (256 * n + j) s.bte.full } } n

/-- Release `m` slots from `HEAD` (R255). -/
def releaseSlots : (m : Nat) → State → Nat → State
  | 0, s, _ => s
  | m + 1, s, n =>
    let w := ringCnt s n
    let s := flipTo s true (slotGranules s.core n (rngHead w))
    releaseSlots m (setRingCnt s n (rngWord (rngTail w) ((rngHead w + 1) % ringSlots s.core n) (rngFree w + 1) (rngFilled w - 1))) n

end Sys2Proof.Machine
end

