-- ==== Sys2Proof/Machine/Engine.lean ====
section
/-!
DEFINITION. An engine's access to any space (R120, R134, R151, R241), completion words (R244).
-/
namespace Sys2Proof.Machine

/-- For whom an engine works: the launch, node and task of its command, and whether it was privileged. -/
structure EngUser where
  lnum : Nat := 0
  node : Nat := 0
  tag : Nat := 0
  priv : Bool := false
  /-- The command it is, for R357: 1 + channel, 101 + Tether port, 0 for a core access. -/
  cmd : Nat := 0
  deriving DecidableEq, Repr

def EngUser.viewer (s : State) (u : EngUser) : Viewer := viewerOf s u.lnum u.node u.tag
def EngUser.req (u : EngUser) : Requester := { cls := 1, id := 0, lnum := u.lnum }
def EngUser.root (s : State) (u : EngUser) : Nat := ((launchOf s u.lnum).map (·.root)).getD 0

/-- The user that the core's task makes of a command it starts. -/
def coreUser (s : State) : EngUser :=
  match s.core.task with
  | some t => { lnum := t.lnum, node := t.node, tag := t.tag, priv := corePriv s }
  | none => { priv := corePriv s }

/-- The lane that `FPIN` pins (R301). -/
def pinNow (s : State) : Option Nat :=
  let w := (csrSeen s 0x401 s.fabric.fpin).toNat
  if bit w 6 then some (bits w 5 0) else none

/-- A fabric command as the core's task gives it (R290, R301, R306): its user, its pin, its order and the clock of its
acceptance. -/
def fabGiven (s : State) (c : FabCmd) : FabCmd :=
  let u := coreUser s
  { c with
    pin := pinNow s, order := s.fabric.order, accepted := s.clock, lnum := u.lnum, node := u.node, tag := u.tag, priv := u.priv
    owner := u.tag, ticket := (s.core.task.map (·.ticket)).getD 0, superstep := ((nodeOf s u.lnum u.node).map (·.superstep)).getD 0 }

/-- Post a completion word (R244), or hold it while the queue of 64 is full. -/
def canPost (s : State) : Bool := decide (s.core.completions.length < 64)
def pushCompletion (s : State) (w : Word) : State :=
  onCore s (fun c => { c with completions := c.completions ++ [{ val := some w }] })

/-- A completion word (R244). -/
def completionWord (detail flags status unit engine tag : Nat) : Word :=
  BitVec.ofNat 64 (min detail 0xFFFF * 2 ^ 48 + flags % 256 * 2 ^ 40 + status % 256 * 2 ^ 32 + unit % 64 * 2 ^ 20 +
    engine % 16 * 2 ^ 16 + tag % 2 ^ 16)

/-- The page of an engine access, held or translated now; its rights are looked at for each access (R134, R135, R241). -/
def engPage (s : State) (u : EngUser) (pages : List HeldPage) (va : Nat) (need : Need) : State × Xl × List HeldPage :=
  let gives (p : HeldPage) : Xl := if leafGives s p.rights p.dpa need u.priv then .page p.dpa else .fault .accessDenied 1
  match pages.find? (fun p => p.page == va / 4096) with
  | some p => (s, gives p, pages)
  | none =>
    match walkRoot s (u.root s) va with
    | none => (s, .fault .xlateFault 0, pages)
    | some l =>
      if l.moving then (s, .moving, pages)
      else
        let p : HeldPage := { page := va / 4096, size := l.size, dpa := leafPage l va, rights := l.rights }
        (s, gives p, p :: pages)

end Sys2Proof.Machine
end

