-- ==== Sys2Proof/Machine/Image.lean ====
section
/-!
DEFINITION. The fields of a rigging image (R318 to R320).
-/
namespace Sys2Proof.Machine

def imgWord (l : List Word) (i : Nat) : Nat := ((l[i]?).getD 0).toNat
/-- Fields of the header (R318). -/
def imgSteps (l : List Word) : Nat := bits (imgWord l 0) 43 32 + 1
def imgChunks (l : List Word) : Nat := bits (imgWord l 0) 31 20 + 1
def imgOp (l : List Word) : Nat := bits (imgWord l 0) 19 16
def imgRid (l : List Word) : Nat := bits (imgWord l 0) 15 0
def imgMembers (l : List Word) : Nat := imgWord l 1
def imgElems (l : List Word) : Nat := bits (imgWord l 2) 23 0
/-- Size in bytes that word 0 gives (R318). -/
def imgBytes (w0 : Nat) : Nat := 64 + 8 * (bits w0 31 20 + 1) + 8 * (bits w0 43 32 + 1)

/-- A chunk table entry: `OWN`, base index, offset (R319). -/
def chunkWord (l : List Word) (c : Nat) : Nat := imgWord l (8 + c)
def stepWord (l : List Word) (k : Nat) : Nat := imgWord l (8 + imgChunks l + k)

/-- Fields of a step (R320). -/
def stepKind (w : Nat) : Nat := bits w 3 0
def stepPeer (w : Nat) : Nat := bits w 9 4
def stepChunk (w : Nat) : Nat := bits w 21 10
def stepTarget (w : Nat) : Nat := bits w 33 22
def stepWait (w : Nat) : Option Nat := if bit w 39 then some (bits w 38 34) else none
def stepDone (w : Nat) : Option Nat := if bit w 45 then some (bits w 44 40) else none

end Sys2Proof.Machine
end

