-- ==== Sys2Proof/Machine/Wheel.lean ====
section
/-!
DEFINITION. The wheel, slot tables, lost and drifted lines, and the sending side of the Tether units (R11,
R20, R21, R280 to R289, R291 to R299).
-/
namespace Sys2Proof.Machine

/-! ### Slots and coordinates -/

/-- `BRSTAT` and its `STATE` and `FABRIC` (R424). -/
def brstat : Nat := 0x4009000118
def bringState (s : State) : Nat := bits (hubNat s brstat) 2 0
def fabricOn (s : State) : Bool := bit (hubNat s brstat) 3

/-- The absolute slot, and the clock within it (R281). -/
def absSlot (s : State) : Nat := s.fabric.slot0 + (s.clock - s.fabric.from_) / 128
def slotClock (s : State) : Nat := (s.clock - s.fabric.from_) % 128
/-- The first clock of an absolute slot. -/
def slotStartOf (s : State) (n : Nat) : Nat := s.fabric.from_ + (n - s.fabric.slot0) * 128

/-- A clock of this package as the wheel counts it, and back: 128 for each absolute slot (R20, R281). -/
def wheelTime (s : State) (clock : Nat) : Nat := s.fabric.slot0 * 128 + (clock - s.fabric.from_)
def clockOfWheel (s : State) (t : Nat) : Nat := s.fabric.from_ + (t - s.fabric.slot0 * 128)

/-- The ports of a plane of dimension D (R280). -/
def planePorts (s : State) (dim : Nat) : Nat := if dim == 0 then s.plat.podSize else if dim == 1 then 64 else 32
/-- The row of the slot table in force (R282). -/
def rowNow (s : State) (dim : Nat) : Nat := absSlot s % 64 % planePorts s dim
/-- The package's coordinate in a dimension. -/
def ownCoord (s : State) (dim : Nat) : Nat :=
  if dim == 0 then s.part.cx.val else if dim == 1 then s.part.cy.val else s.part.cz.val
/-- A package in the `SRC` format (R284). -/
def pkgCode (x y z : Nat) : Nat := x * 2 ^ 11 + y * 2 ^ 5 + z
def ownPkg (s : State) : Nat := pkgCode s.part.cx.val s.part.cy.val s.part.cz.val
/-- The coordinate in a dimension of a package code. -/
def coordOf (p dim : Nat) : Nat := if dim == 0 then bits p 16 11 else if dim == 1 then bits p 10 5 else bits p 4 0
/-- A member of the package's pod by its x (R280). -/
def podPkg (s : State) (x : Nat) : Nat := pkgCode x s.part.cy.val s.part.cz.val
/-- The x coordinates of the pod's members: the package alone while the fabric does not run (R21). -/
def podMembers (s : State) : List Nat := if fabricOn s then List.range s.plat.podSize else [s.part.cx.val]

/-! ### Units -/

/-- The nanoseconds from reset to a clock: one lasts 2 ns during bring-up, at 500 MHz, and 1 ns afterwards (R11, R430). -/
def nanoseconds (s : State) (clock : Nat) : Nat :=
  match s.plat.fullAt with
  | some f => if clock ≤ f then 2 * clock else f + clock
  | none => 2 * clock

def unitOf (s : State) (dim : Nat) : TetherUnit := (s.fabric.units[dim]?).getD {}
def setUnit (s : State) (dim : Nat) (u : TetherUnit) : State :=
  if h : dim < 3 then { s with fabric := { s.fabric with units := s.fabric.units.set dim u } } else s
def unitBase (dim : Nat) : Nat := 0x4004000000 + dim * 0x10000

/-- Report an event: turn, line, lane, kind; a full queue of 64 shows kind 15 once (R292, R297). -/
def fabricEvent (s : State) (dim line lane kind : Nat) : State :=
  let u := unitOf s dim
  if u.events.length < 64 then
    setUnit s dim { u with events := u.events ++ [BitVec.ofNat 64 (absSlot s / 64 % 2 ^ 32 * 2 ^ 32 + line * 2 ^ 20 + lane * 2 ^ 14 + kind)] }
  else setUnit s dim { u with overflow := true }

/-- Take the oldest event (R297); after an overflow, event 15 follows the last one kept. -/
def takeEvent (s : State) (dim : Nat) : State × Word :=
  let u := unitOf s dim
  match u.events with
  | e :: r =>
    let more := if u.overflow && r.isEmpty then [BitVec.ofNat 64 (absSlot s / 64 % 2 ^ 32 * 2 ^ 32 + 15)] else []
    (setUnit s dim { u with events := r ++ more, overflow := if r.isEmpty then false else u.overflow }, e)
  | [] => (s, 0)

/-- The line that the table in force gives a lane in a row (R282). -/
def tableLine (s : State) (dim row lane : Nat) : Nat :=
  lookupD (unitOf s dim).table (row * 64 + lane) ((row + lane) % planePorts s dim)

/-- A comb's line is lost (R292). -/
def lineLost (s : State) (dim comb line : Nat) : Bool := (unitOf s dim).lost.contains (comb * 128 + line)
/-- The lowest working line of a comb that routes as `line` does (R293). -/
def spareFor (s : State) (dim comb line : Nat) : Option Nat :=
  let n := planePorts s dim
  (List.range 72).find? (fun j => j != 64 && j % n == line % n && !lineLost s dim comb j)
/-- The line that a comb's line is carried by: itself, its spare when it is lost, or none (R293). -/
def carrier (s : State) (dim comb line : Nat) : Option Nat :=
  if lineLost s dim comb line then spareFor s dim comb line else some line

/-- The line a lane uses in a row: its spare for a lost one; none when the lane is idle (R280, R293 to R295). -/
def laneLine (s : State) (dim row lane : Nat) : Option Nat :=
  let u := unitOf s dim
  let c := lane / 16
  match carrier s dim c (tableLine s dim row lane) with
  | none => none
  | some l =>
    if u.deadCombs.contains c || (u.drifted.any (fun p => p.1 == c * 128 + l)) then none
    else if l % planePorts s dim == 0 then none
    else some l

/-- The lanes that reach a peer in the current slot (R280). -/
def lanesTo (s : State) (dim peer : Nat) : List Nat :=
  (List.range 64).filter (fun k =>
    match laneLine s dim (rowNow s dim) k with
    | some l => (ownCoord s dim + l) % planePorts s dim == peer
    | none => false)

/-! ### Links -/

def linkKey (dim plane peer : Nat) : Nat := dim * 4096 + plane * 64 + peer
def linkOf (s : State) (k : Nat) : Link := lookupD s.fabric.links k {}
def setLink (s : State) (k : Nat) (l : Link) : State := { s with fabric := { s.fabric with links := storeAt s.fabric.links k l } }
/-- Credits of the credited control entries, and those to return, per (dimension, peer) (R285). -/
def ctrlOf (s : State) (dim peer : Nat) : Nat × Nat := lookupD s.fabric.ctrl (dim * 64 + peer) (4, 0)
def setCtrl (s : State) (dim peer : Nat) (c : Nat × Nat) : State :=
  { s with fabric := { s.fabric with ctrl := storeAt s.fabric.ctrl (dim * 64 + peer) c } }

/-- FREE of R285. -/
def freeOf (s : State) (dim plane peer : Nat) : Nat :=
  (linkOf s (linkKey dim plane peer)).credit + bits (hubNat s (unitBase dim)) 4 0 - 16

/-- Whether a packet takes a receive buffer of the 16: not the control class and no acknowledgement (R284, R285). -/
def Packet.credited (p : Packet) : Bool := p.cls != 3 && p.typ != 7
/-- Whether it takes a credited control entry: a control packet that is no pod-scope SC operation, response or
seat report (R285). -/
def Packet.ctrlCredited (p : Packet) : Bool := p.cls == 3 && p.typ == 10

/-- The flits of a packet (R284). -/
def Packet.flits (p : Packet) : Nat := 1 + p.pay.length
/-- An acknowledgement of a link alone: bit 8 of its `AUX` (R285, R288; DESIGN CHOICE, log entry 30). -/
def Packet.linkAck (p : Packet) : Bool := p.typ == 7 && bit p.aux 8
/-- A packet that waits for no `ACKSEQ` of its own: an acknowledgement of a link alone that returns no credit. The manual does not
say that one needs no acknowledgement, but else every link would acknowledge for ever (DEDUCED, log entry 96). -/
def Sent.quiet (u : Sent) : Bool := u.pkt.linkAck && u.cred == 0 && u.ccred == 0

/-! ### Headers -/

/-- The CRC of a header and its payload (R284). -/
def packetCrc (header : Nat) (pay : List Sector) : Nat :=
  crc32c (leBytes 32 (header % 2 ^ 224) ++ pay.flatMap (fun f => leBytes 32 f.toNat))

/-- The header that a packet carries on a link, its CRC formed last (R284). -/
def headerOf (p : Packet) (lseq ackseq : Nat) (nak : Bool) (cred ccred : Nat) : Nat :=
  let h := p.addr % 2 ^ 64 + p.aux % 2 ^ 32 * 2 ^ 64 + ccred % 8 * 2 ^ 96 + p.psn % 256 * 2 ^ 99 + p.rspace % 8 * 2 ^ 107 +
    p.launch % 2 ^ 16 * 2 ^ 110 + cred % 32 * 2 ^ 126 + b2n nak * 2 ^ 131 + ackseq % 4096 * 2 ^ 132 + lseq % 4096 * 2 ^ 144 +
    p.sseq % 2 ^ 24 * 2 ^ 156 + p.dst % 2 ^ 17 * 2 ^ 180 + p.src % 2 ^ 17 * 2 ^ 197 + p.pay.length % 16 * 2 ^ 214 +
    p.cls % 4 * 2 ^ 218 + p.typ % 16 * 2 ^ 220
  h + packetCrc h p.pay * 2 ^ 224

/-- The next hop of a packet: X first, then Y, then Z (R16, R289). -/
def nextHop (s : State) (dst : Nat) : Option (Nat × Nat) :=
  ([0, 1, 2].find? (fun d => coordOf dst d != ownCoord s d)).map (fun d => (d, coordOf dst d))

/-- Whether a package code names a package of the system (R16, R306). -/
def inSystem (s : State) (p : Nat) : Bool := decide (coordOf p 0 < s.plat.podSize)

/-- The next number of a stream (R286). -/
def takeSeq (s : State) (dst cls : Nat) : State × Nat :=
  let k := dst * 4 + cls
  let n := lookupD s.fabric.txSeq k 0
  ({ s with fabric := { s.fabric with txSeq := storeAt s.fabric.txSeq k ((n + 1) % 2 ^ 24) } }, n)

/-- Enqueue a packet of the package's own in its stream (R286); one to an unreachable package is dropped. -/
def enqueue (s : State) (p : Packet) (pin : Option Nat) (ready : Nat) : State × Nat :=
  let r := takeSeq s p.dst p.cls
  match nextHop s p.dst with
  | none => r
  | some (d, peer) =>
    ({ r.1 with fabric := { r.1.fabric with txq := r.1.fabric.txq ++ [{ pkt := { p with sseq := r.2 }, dim := d, peer := peer, pin := pin, ready := ready }] } }, r.2)

/-- Enqueue a control packet of the management plane (R285; DESIGN CHOICE, log entry 30). -/
def sendControl (s : State) (dst aux launch addr : Nat) (pay : List Sector) : State :=
  (enqueue s { typ := 10, cls := 3, src := ownPkg s, dst := dst, launch := launch, aux := aux, addr := addr, pay := pay } none s.clock).1

/-- An acknowledgement of a packet of a stream, with a status (R284, R306; DESIGN CHOICE, log entry 30). It takes no number. -/
def sendAck (s : State) (p : Packet) (status : Nat) : State :=
  match nextHop s p.src with
  | none => s
  | some (d, peer) =>
    { s with fabric := { s.fabric with txq := s.fabric.txq ++ [{
        pkt := { typ := 7, cls := p.cls, src := ownPkg s, dst := p.src, sseq := p.sseq, aux := status }
        dim := d, peer := peer, ready := s.clock }] } }

/-! ### Sending -/

def flitsOn (s : State) (dim lane : Nat) : Nat := lookupD s.fabric.flits (dim * 64 + lane) 0

/-- A link whose packets still have to be replayed: its next ones wait behind them (R288). -/
def replaying (s : State) (dim plane peer : Nat) : Bool :=
  s.fabric.unacked.any (fun u => u.again && u.dim == dim && u.plane == plane && u.peer == peer)

/-- The lane a packet takes now (R287): fewest flits of this slot, then the lowest. -/
def laneFor (s : State) (i : TxItem) : Option Nat :=
  let ok (k : Nat) : Bool :=
    (i.pin.isNone || i.pin == some k) && !(linkOf s (linkKey i.dim k i.peer)).suspended && !replaying s i.dim k i.peer &&
    (!i.pkt.credited || decide (0 < freeOf s i.dim k i.peer)) &&
    decide (flitsOn s i.dim k + i.pkt.flits ≤ 104)
  ((lanesTo s i.dim i.peer).filter ok).foldl (fun best k =>
    match best with
    | none => some k
    | some b => if flitsOn s i.dim k < flitsOn s i.dim b then some k else some b) none

/-- The link injector's view of `n` flits sent on a lane (R299): what happens to the packet, and which flit is the target. -/
def injectOn (s : State) (dim lane n : Nat) : State × Nat × Nat :=
  let a := unitBase dim + 0x10
  let w := hubNat s a
  if !bit w 63 || bit w 60 || bits w 37 32 != lane then (s, 0, 0)
  else if n < bits w 31 0 then (hubSet s a (BitVec.ofNat 64 (w - n)), 0, 0)
  else (hubSet s a (BitVec.ofNat 64 (w - bits w 31 0 + 2 ^ 60)), bits w 62 61 + 1, bits w 31 0 - 1)

/-- A list with bit 0 of one flit inverted (R299). -/
def flipFlit (l : List Sector) (k : Nat) : List Sector := l.zipIdx.map (fun f => if f.2 == k then f.1 ^^^ 1 else f.1)

/-- A packet leaves on its lane with what the link has to report, unless the injector withholds it (R281, R284, R285, R288,
R299, R311). -/
def emit (s : State) (u : Sent) : State × Sent :=
  let k := linkKey u.dim u.plane u.peer
  let l := linkOf s k
  let flits := BitVec.ofNat 256 (headerOf u.pkt u.lseq ((l.rxLseq + 4095) % 4096) l.nak u.cred u.ccred) :: u.pkt.pay
  let r := injectOn s u.dim u.plane u.pkt.flits
  let u := { u with again := false, slot := absSlot s, fate := r.2.1, later := none }
  if r.2.1 == 2 then (r.1, { u with wire := [] })
  else if r.2.1 == 3 then (r.1, { u with wire := [], later := some (s.clock + bits (hubNat s (unitBase u.dim + 0x18)) 15 0) })
  else
    let s := setLink r.1 k { linkOf r.1 k with sent := ((linkOf r.1 k).sent + 1) % 2 ^ 32, nak := false, ackDue := false }
    ({ s with fabric := { s.fabric with flits := storeAt s.fabric.flits (u.dim * 64 + u.plane) (flitsOn s u.dim u.plane + u.pkt.flits) } },
     { u with wire := if r.2.1 == 1 then flipFlit flits r.2.2 else flits })

/-- Return a receive entry's credit (R285, R289). -/
def returnEntry (s : State) (id : Nat) : State :=
  match s.fabric.rx.find? (fun e => e.id == id) with
  | none => s
  | some e =>
    let s := { s with fabric := { s.fabric with rx := s.fabric.rx.filter (fun x => x.id != id) } }
    if e.reserve then s
    else if e.pkt.credited then
      let k := linkKey e.dim e.plane e.peer
      let l := linkOf s k
      setLink s k { l with owed := l.owed + 1 }
    else if e.pkt.ctrlCredited then
      let c := ctrlOf s e.dim e.peer
      setCtrl s e.dim e.peer (c.1, c.2 + 1)
    else s

/-- A lead of this package leaves (R323, R326): it carries its chunk's bitmap as it stands now, and its `SEND` counts its
turns from now. -/
def leadLeaves (s : State) (p : Packet) : State × Packet :=
  if !(p.typ == 9 && p.aux == 1 && p.src == ownPkg s) then (s, p) else
  match (s.replay.toList.zipIdx).findSome? (fun e => (e.1.inst.bind (fun i =>
      if imgRid e.1.image == bits p.addr 63 48 && i.play.num % 256 == bits p.addr 47 40 then
        (i.steps.zipIdx).findSome? (fun t => if t.1.leadAt.isNone && t.1.awaiting.any (fun w => w.dst == p.dst && w.cls == p.cls && w.sseq == p.sseq)
          then some (e.2, t.2, (e.1.bitmaps[stepChunk (stepWord e.1.image t.2)]?).getD 0) else none)
      else none))) with
  | none => (s, p)
  | some (n, k, bm) =>
    let go (u : ReplayUnit) : ReplayUnit := { u with inst := u.inst.map (fun i => { i with steps := (i.steps.zipIdx).map (fun t =>
      if t.2 == k then { t.1 with leadAt := some s.clock } else t.1) }) }
    ({ s with replay := Vector.ofFn (fun j => if j.val == n then go s.replay[j] else s.replay[j]) },
     { p with pay := [BitVec.ofNat 256 (setBits (((p.pay.head?).getD 0).toNat) 63 0 bm)] })

/-- Put a packet on a lane (R285, R287, R288): it takes a credit and the link's next number, and returns credits. -/
def putOn (s : State) (i : TxItem) (lane : Nat) : State :=
  let h := leadLeaves s i.pkt
  let s := h.1
  let i := { i with pkt := h.2 }
  let k := linkKey i.dim lane i.peer
  let l := linkOf s k
  let c := ctrlOf s i.dim i.peer
  let u : Sent := { pkt := i.pkt, dim := i.dim, plane := lane, peer := i.peer, lseq := l.txLseq, slot := absSlot s, cred := min 16 l.owed, ccred := min 4 c.2 }
  let s := setLink s k { l with
    credit := if i.pkt.credited then l.credit - 1 else l.credit
    txLseq := (l.txLseq + 1) % 4096, owed := l.owed - u.cred }
  let s := setCtrl s i.dim i.peer (if i.pkt.ctrlCredited then c.1 - 1 else c.1, c.2 - u.ccred)
  let r := emit s u
  { r.1 with fabric := { r.1.fabric with unacked := r.1.fabric.unacked ++ [r.2] } }

/-- A packet sent before leaves again: a replay, or one that the injector has held long enough, in a later slot that reaches
its peer with room for it (R281, R288, R299). -/
def canResend (s : State) (u : Sent) : Bool :=
  (u.again || (match u.later with | some t => decide (t ≤ s.clock) && decide (u.slot < absSlot s) | none => false)) &&
  (lanesTo s u.dim u.peer).contains u.plane && decide (flitsOn s u.dim u.plane + u.pkt.flits ≤ 104)

/-- One pass over the packets that are to leave again, in the order of their `LSEQ` on each link (R288). -/
def resendPass : List Sent → List Nat → State → List Sent → State
  | [], _, s, kept => { s with fabric := { s.fabric with unacked := kept.reverse } }
  | u :: rest, blocked, s, kept =>
    let k := linkKey u.dim u.plane u.peer
    if !blocked.contains k && canResend s u then
      let r := emit s u
      resendPass rest blocked r.1 (r.2 :: kept)
    else resendPass rest (if u.again then k :: blocked else blocked) s (u :: kept)

/-- One pass over the send queue, in `SSEQ` order within each stream (R287): every packet that finds a lane
leaves, in clocks 8 to 127 of a slot (R281, R312). -/
def sendPass : List TxItem → List (Nat × Nat × Nat) → State → List TxItem → State
  | [], _, s, kept => { s with fabric := { s.fabric with txq := kept.reverse } }
  | i :: rest, blocked, s, kept =>
    let stream := (i.pkt.src, i.pkt.dst, i.pkt.cls + if i.pkt.typ == 7 then 4 else 0)
    if blocked.contains stream || s.clock < i.ready || (i.pkt.ctrlCredited && (ctrlOf s i.dim i.peer).1 == 0) then
      sendPass rest (stream :: blocked) s (i :: kept)
    else
      match laneFor s i with
      | none => sendPass rest (stream :: blocked) s (i :: kept)
      | some k => sendPass rest blocked (putOn s i k) kept

/-- The packets that leave on a clock: replays first, then new ones (R281, R287, R288). -/
def sendPackets (s : State) : State :=
  if !fabricOn s || slotClock s < 8 then s
  else
    let s := if s.fabric.unacked.any (canResend s) then resendPass s.fabric.unacked [] s [] else s
    if s.fabric.txq.isEmpty then s else sendPass s.fabric.txq [] s []

/-! ### Link replay -/

/-- A packet of the package's own that a command awaits: a write, a read request, a signal or a send of its stream, or the
pod-scope operation of an `FWRS.sc` (R286, R306). -/
def Packet.awaitedBy (p : Packet) (own : Nat) (a : FabActive) : Bool :=
  p.src == own && (p.typ == 0 || p.typ == 1 || p.typ == 3 || p.typ == 6) &&
  a.awaiting.any (fun w => p.dst == w.dst && p.cls == w.cls && ((a.cmd.op == 2 && a.cmd.flag && p.typ == 0) || p.sseq == w.sseq))
/-- Commands some of whose packets were replayed (R307). -/
def markReplayed (s : State) (us : List Sent) : State :=
  { s with fabric := { s.fabric with ports := s.fabric.ports.map (fun p => (p.1, { p.2 with active := p.2.active.map (fun a =>
      { a with replayed := a.replayed || us.any (fun u => u.pkt.awaitedBy (ownPkg s) a) }) })) } }

/-- Replay every unacknowledged packet of a link (R288); past 8 replays the lane is suspended for the peer and
the packets go back to the send queue; the credits that they carried are still to be returned. -/
def replayLink (s : State) (dim plane peer : Nat) : State :=
  let k := linkKey dim plane peer
  let l := linkOf s k
  let mine := s.fabric.unacked.filter (fun u => u.dim == dim && u.plane == plane && u.peer == peer)
  let others := s.fabric.unacked.filter (fun u => !(u.dim == dim && u.plane == plane && u.peer == peer))
  let s := markReplayed s mine
  if mine.all (·.again) then s
  else if 8 ≤ l.replays then
    let s := setLink s k { l with suspended := true, replays := 0, owed := l.owed + (mine.map (·.cred)).foldl (· + ·) 0 }
    let c := ctrlOf s dim peer
    let s := setCtrl s dim peer (c.1, c.2 + (mine.map (·.ccred)).foldl (· + ·) 0)
    let s := { s with fabric := { s.fabric with
      unacked := others
      txq := (mine.filter (fun u => !u.pkt.linkAck)).map (fun u => { pkt := u.pkt, dim := dim, peer := peer, ready := s.clock }) ++ s.fabric.txq } }
    fabricEvent s dim 0 plane 6
  else
    let s := setLink s k { l with replays := l.replays + 1 }
    { s with fabric := { s.fabric with unacked := others ++ mine.map (fun u => { u with again := true, later := none }) } }

/-- Links whose oldest unacknowledged packet is one table period old (R288). -/
def linkTimeouts (s : State) : State :=
  let old := (s.fabric.unacked.filter (fun u => !u.again && !u.quiet && decide (u.slot + planePorts s u.dim < absSlot s))).map (fun u => (u.dim, u.plane, u.peer))
  old.eraseDups.foldl (fun s k => replayLink s k.1 k.2.1 k.2.2) s

/-- The package at a coordinate of a dimension, the others being this package's. -/
def peerPkg (s : State) (dim x : Nat) : Nat :=
  if dim == 0 then podPkg s x else if dim == 1 then pkgCode s.part.cx.val x s.part.cz.val else pkgCode s.part.cx.val s.part.cy.val x

/-- The acknowledgement that returns credits and `ACKSEQ` when no packet is due by clock 64 (R285, R288). It takes the link's next
number and is kept and replayed as every packet is. -/
def creditAck (s : State) (dim plane peer : Nat) : State :=
  let k := linkKey dim plane peer
  let l := linkOf s k
  let c := ctrlOf s dim peer
  if l.owed == 0 && c.2 == 0 && !l.nak && !l.ackDue then s
  else if !fabricOn s || slotClock s < 8 || l.suspended || replaying s dim plane peer || !(lanesTo s dim peer).contains plane || 104 ≤ flitsOn s dim plane then s
  else
    let p : Packet := { typ := 7, cls := 3, src := ownPkg s, dst := peerPkg s dim peer, aux := 0x100 }
    let u : Sent := { pkt := p, dim := dim, plane := plane, peer := peer, lseq := l.txLseq, slot := absSlot s, cred := min 16 l.owed, ccred := min 4 c.2 }
    let s := setCtrl (setLink s k { l with txLseq := (l.txLseq + 1) % 4096, owed := l.owed - u.cred }) dim peer (c.1, c.2 - u.ccred)
    let r := emit s u
    { r.1 with fabric := { r.1.fabric with unacked := r.1.fabric.unacked ++ [r.2] } }

/-- The credited control entries to return to a peer go on the lowest plane that reaches it (R285). -/
def ctrlAck (s : State) (dim peer : Nat) : State :=
  match (lanesTo s dim peer).find? (fun k => !(linkOf s (linkKey dim k peer)).suspended && decide (flitsOn s dim k < 104)) with
  | some k => if (ctrlOf s dim peer).2 == 0 then s else creditAck s dim k peer
  | none => s

/-- The acknowledgements of clock 64 of a slot (R285). -/
def creditAcks (s : State) : State :=
  let s := s.fabric.links.foldl (fun s e =>
    let l := linkOf s e.1
    if l.owed == 0 && !l.nak && !l.ackDue then s else creditAck s (e.1 / 4096) (e.1 / 64 % 64) (e.1 % 64)) s
  s.fabric.ctrl.foldl (fun s e => ctrlAck s (e.1 / 64) (e.1 % 64)) s

/-! ### Slot tables, lines and repairs -/

/-- A line of a comb that works, itself or through a spare (R293, R295). -/
def lineWorks (s : State) (dim comb line : Nat) : Bool :=
  !(unitOf s dim).deadCombs.contains comb && (carrier s dim comb line).isSome

def entryOf (s : State) (dim : Nat) (t : List (Nat × Nat)) (row lane : Nat) : Nat :=
  lookupD t (row * 64 + lane) ((row + lane) % planePorts s dim)

/-- The repair of one lane in one row for lost lines without a spare (R295): the exchange of two entries. -/
def repairEntry (s : State) (dim : Nat) (t : List (Nat × Nat)) (row lane : Nat) : List (Nat × Nat) :=
  let j := entryOf s dim t row lane
  let c := lane / 16
  if lineWorks s dim c j || (unitOf s dim).deadCombs.contains c then t
  else
    match (List.range 64).find? (fun k => k / 16 != c && lineWorks s dim c (entryOf s dim t row k) && lineWorks s dim (k / 16) j) with
    | none => t
    | some k => storeAt (storeAt t (row * 64 + lane) (entryOf s dim t row k)) (row * 64 + k) j

/-- A table with R295 applied for every line lost now. -/
def repairTable (s : State) (dim : Nat) (t : List (Nat × Nat)) : List (Nat × Nat) :=
  if (unitOf s dim).lost.any (fun p => (spareFor s dim (p / 128) (p % 128)).isNone) then
    (List.range (planePorts s dim)).foldl (fun t r => (List.range 64).foldl (fun t k => repairEntry s dim t r k) t) t
  else t

/-- A lane of a comb in service that the table gives a line of its comb which no exchange has repaired (R295). -/
def laneUnrepaired (s : State) (dim : Nat) (t : List (Nat × Nat)) (comb line : Nat) : Bool :=
  !(unitOf s dim).deadCombs.contains comb && !lineWorks s dim comb line &&
  (List.range (planePorts s dim)).any (fun r => (List.range 16).any (fun k => entryOf s dim t r (16 * comb + k) == line))

/-- The acknowledgements a proposal needs: every other member (R296). -/
def proposalMembers (s : State) (dim : Nat) : List Nat :=
  if fabricOn s then (List.range (planePorts s dim)).filter (fun x => x != ownCoord s dim) else []

/-- A list cut into pieces of `n`. -/
def chunksOf {α : Type} (n : Nat) : (fuel : Nat) → List α → List (List α)
  | 0, _ => []
  | fuel + 1, l => if l.isEmpty then [] else l.take n :: chunksOf n fuel (l.drop n)

/-- The image of a table as payload flits, 32 lines each (R283). -/
def tableImage (s : State) (dim : Nat) (t : List (Nat × Nat)) : List Sector :=
  (List.range (planePorts s dim * 2)).map (fun f =>
    BitVec.ofNat 256 (packElems 8 ((List.range 32).map (fun i => entryOf s dim t (f / 2) (f % 2 * 32 + i)))))

/-- Send a proposal to the members, the image in packets of 8 flits (R296; the packets' form is DESIGN CHOICE, log entry 30). -/
def sendProposal (s : State) (dim turn : Nat) : State :=
  let parts := chunksOf 8 16 (tableImage s dim (((unitOf s dim).proposal.map (·.table)).getD []))
  (proposalMembers s dim).foldl (fun s x =>
    (parts.zipIdx).foldl (fun s p =>
      sendControl s (peerPkg s dim x) (5 + 2 ^ 8 * dim + 2 ^ 16 * p.2 + if p.2 + 1 = parts.length then 2 ^ 24 else 0) 0 turn p.1) s) s

/-- Propose a table for a dimension (R296): the turn lies at least 8 turns ahead. While a proposal is under way the new
one waits for its end. -/
def propose (s : State) (dim : Nat) (t : List (Nat × Nat)) (ordered : Bool) : State :=
  let u := unitOf s dim
  if u.proposal.isSome then setUnit s dim (if ordered then { u with queued := some t } else { u with repairDue := true })
  else
    let turn := absSlot s / 64 + 8 + 1
    sendProposal (setUnit s dim { u with proposal := some { turn := turn, table := t, proposer := ownCoord s dim, own := true, ordered := ordered } }) dim turn

/-- The proposal under way is over: what has waited for its end is proposed (R295, R298). -/
def proposalOver (s : State) (dim : Nat) : State :=
  let s := setUnit s dim { unitOf s dim with proposal := none }
  let u := unitOf s dim
  match u.queued with
  | some t => propose (setUnit s dim { u with queued := none, repairDue := false }) dim (repairTable s dim t) true
  | none => if u.repairDue then propose (setUnit s dim { u with repairDue := false }) dim (repairTable s dim u.table) false else s

/-- `TUTSTAT` of a unit (R297): bit 0 `BUSY`, bit 1 `ERR`. -/
def setTutstat (s : State) (dim v : Nat) : State := hubSet s (unitBase dim + 0x28) (BitVec.ofNat 64 v)

/-- `TUTSTAT.BUSY` (R297). -/
def tutBusy (s : State) (dim : Nat) : Bool := bit (hubNat s (unitBase dim + 0x28)) 0

/-- A store to `TUTBL` with `GO` = 1 (R298). -/
def tutblStart (s : State) (dim : Nat) (v : Word) : State :=
  if tutBusy s dim then s
  else
    let n := planePorts s dim
    let a := bits v.toNat 47 6 * 64
    let r := dpaRead s a (n * 64) {}
    let bad := decide (4096 < a % 4096 + n * 64) || decide (dpaEnd s < a + n * 64) || r.2.2 || r.2.1.any (fun b => b.toNat == 64 || decide (71 < b.toNat))
    if bad then setTutstat r.1 dim 2
    else
      let t := ((r.2.1.zipIdx).filterMap (fun p =>
        if p.1.toNat == (p.2 / 64 + p.2 % 64) % n then none else some (p.2, p.1.toNat)))
      propose (setTutstat r.1 dim 1) dim (repairTable r.1 dim t) true

/-- A store to `TUTBL` (R297, R298): one with `GO` = 1 is ignored while a proposal is in progress. -/
def tutblStore (s : State) (dim : Nat) (v : Word) : State :=
  if bit v.toNat 0 && tutBusy s dim then s
  else
    let s := hubSet s (unitBase dim + 0x20) (v &&& 0x0000FFFFFFFFFFC0)
    if bit v.toNat 0 then tutblStart s dim v else s

/-- A proposal without every acknowledgement when turn T - 2 begins lapses, and is made again 8 turns later; another member's
that has not all come, and so has not been acknowledged, lapses here (R296). -/
def proposalLapse (s : State) (dim : Nat) : State :=
  match (unitOf s dim).proposal with
  | none => s
  | some p =>
    if absSlot s < (p.turn - 2) * 64 then s
    else if !p.own then (if p.loaded then s else proposalOver s dim)
    else if (proposalMembers s dim).any (fun x => !p.acks.getLsbD x) then
      sendProposal (setUnit s dim { unitOf s dim with proposal := some { p with turn := p.turn + 8, acks := 0 } }) dim (p.turn + 8)
    else s

/-- The switch to a new table at clock 0 of its turn (R296, R298). -/
def installTable (s : State) (dim : Nat) : State :=
  match (unitOf s dim).proposal with
  | none => s
  | some p =>
    if absSlot s < p.turn * 64 || (!p.own && !p.loaded) then s
    else
      let s := setUnit s dim { unitOf s dim with table := p.table }
      let s := if p.own && p.ordered then setTutstat s dim 0 else s
      proposalOver (fabricEvent s dim 0 0 5) dim

/-- `REPLACE_REQUEST` (R24, R424, R427, R435). -/
def replaceRequest (s : State) : State :=
  let s := fire s 0
  hubSet s brstat (hubGet s brstat ||| 0x100)

/-- A unit without a spare is removed (R24, R434, R435): the removal list, `UNITKIND`, `UNITID`, `REMOVED`, `REPREQ`, vector 0. -/
def noteRemoval (s : State) (kind id : Nat) : State :=
  let s := { s with plat := { s.plat with removal := s.plat.removal ++ [(kind, id)] } }
  let w := setBits (setBits (hubNat s brstat) 43 40 kind) 39 24 id
  replaceRequest (hubSet s brstat (BitVec.ofNat 64 (setBits w 23 16 (min 255 (bits w 23 16 + 1)))))

/-- The number of a comb's line in the removal list, with 127 for a whole comb (DEDUCED, log entry 37). -/
def combUnit (dim comb line : Nat) : Nat := 512 * dim + 128 * comb + line

/-- All lines of a comb are lost (R292, R295, R435). -/
def loseComb (s : State) (dim comb : Nat) : State :=
  if (unitOf s dim).deadCombs.contains comb then s
  else
    let s := fabricEvent s dim 0 (comb * 16) 3
    let u := unitOf s dim
    noteRemoval (setUnit s dim { u with deadCombs := comb :: u.deadCombs }) 6 (combUnit dim comb 127)

/-- What a lost line comes to (R293, R295, R435): its spare is reported, or a repaired table is proposed; a line for which no
exchange exists leaves its lane idle and is a unit removed. -/
def standIn (s : State) (dim comb line : Nat) : State :=
  match spareFor s dim comb line with
  | some _ => fabricEvent s dim line (comb * 16) 4
  | none =>
    let t := repairTable s dim (unitOf s dim).table
    let s := if laneUnrepaired s dim t comb line then noteRemoval s 6 (combUnit dim comb line) else s
    propose s dim t false

/-- A line is lost (R292, R293, R295), and with it, where it stood in for others, their spare. With a comb's last line the
comb is lost. -/
def loseLine (s : State) (dim comb line : Nat) : State :=
  if lineLost s dim comb line then s else
  let before := (unitOf s dim).lost.filter (fun p => p / 128 == comb && p != comb * 128 + line && spareFor s dim comb (p % 128) == some line)
  let s := fabricEvent s dim line (comb * 16) 1
  let u := unitOf s dim
  let s := setUnit s dim { u with
    drifted := u.drifted.filter (fun p => p.1 != comb * 128 + line)
    lost := (comb * 128 + line) :: u.lost.filter (· != comb * 128 + line) }
  if (List.range 72).all (fun j => j == 64 || lineLost s dim comb j) then loseComb s dim comb
  else (before.map (· % 128)).foldl (fun s j => standIn s dim comb j) (standIn s dim comb line)

/-- A line off its grid is paused (R294). -/
def driftLine (s : State) (dim comb line : Nat) : State :=
  let s := fabricEvent s dim line (comb * 16) 2
  let u := unitOf s dim
  setUnit s dim { u with drifted := (comb * 128 + line, s.clock) :: u.drifted.filter (fun p => p.1 != comb * 128 + line) }
def retuneLine (s : State) (dim comb line : Nat) : State :=
  let u := unitOf s dim
  setUnit s dim { u with drifted := u.drifted.filter (fun p => p.1 != comb * 128 + line) }

end Sys2Proof.Machine
end

