-- ==== Sys2Proof/Machine/Dist.lean ====
section
/-!
DEFINITION. The distributor (R365 to R395): launches and their checks, nodes and phases, tickets, task start,
barriers, priority and selection, preemption, checkpoint and restore.
-/
namespace Sys2Proof.Machine

/-! ### Descriptors -/

/-- Bits that must be zero in each word of a launch descriptor, and alignments (R366). -/
def descriptorBad (w : List Nat) : Bool :=
  let g (i : Nat) : Nat := (w[i]?).getD 0
  bits (g 0) 5 0 != 0 || bits (g 1) 63 48 != 0 || bits (g 1) 11 0 != 0 || bits (g 2) 63 56 != 0 || bits (g 2) 11 0 != 0 ||
  bits (g 3) 35 1 != 0 || bits (g 5) 62 56 != 0 || bits (g 5) 5 0 != 0 || bits (g 6) 63 56 != 0 || bits (g 6) 5 0 != 0 || g 7 != 0

/-- Bytes and words of GM read for the distributor with a root; poisoned ones cannot be read. -/
def gmBytes (s : State) (root va n : Nat) (priv : Bool) : Got (List Byte) :=
  (gmFetch s root va n priv {}).bind (fun r => if r.2 then .bad else .got r.1)
def gmWords (s : State) (root va n : Nat) (priv : Bool) : Got (List Nat) :=
  (gmBytes s root va (8 * n) priv).bind (fun bs => .got ((List.range n).map (fun i => leNat ((bs.drop (8 * i)).take 8))))

/-- A node record's reserved bits (R370). -/
def nodeBad (w : List Nat) : Bool :=
  let g (i : Nat) : Nat := (w[i]?).getD 0
  bits (g 0) 63 56 != 0 || decide (1 < bits (g 1) 63 48) || bits (g 2) 63 32 != 0 || bits (g 3) 63 56 != 0 ||
  bits (g 4) 31 3 != 0 || g 6 != 0 || g 7 != 0 || bits (g 0) 5 0 != 0

/-- A kernel header's entries are malformed (R367, R371; DEDUCED, log entry 32). -/
def headerBad (h0 : Nat) (entries : List (Nat × Nat)) : Bool :=
  bits h0 55 48 != 0 || entries.any (fun e => bits e.1 63 56 != 0 || bits e.2 63 56 != 0 || e.1 % 4 != 0 || e.2 % 4 != 0)

/-- A node read from its record, its kernel header and its successor list; bad when something cannot be read
or breaks R370. The second value says that the header is malformed or the grid too large (R367 reason 6). -/
def readNode (s : State) (root : Nat) (priv : Bool) (w : List Nat) : Got (Node × Bool) :=
  let g (i : Nat) : Nat := (w[i]?).getD 0
  if nodeBad w then .bad
  else
    (gmWords s root (g 0) 1 priv).bind (fun hw =>
      let h0 := (hw[0]?).getD 0
      let steps := bits h0 63 56 + 1
      (gmWords s root (g 0 + 8) (2 * steps) priv).bind (fun es =>
        let entries := (List.range steps).map (fun i => ((es[2 * i]?).getD 0, (es[2 * i + 1]?).getD 0))
        let nsucc := bits (g 2) 31 16
        (gmBytes s root (bits (g 3) 55 0) (2 * nsucc) priv).bind (fun sb =>
          let ext := if bits (g 1) 63 48 == 1 then g 1 else h0
          let gx := bits ext 15 0 + 1
          let gy := bits ext 31 16 + 1
          let gz := bits ext 47 32 + 1
          .got ({ kernel := g 0, gx := gx, gy := gy, gz := gz, npred := bits (g 2) 15 0
                  succ := (List.range nsucc).map (fun i => leNat ((sb.drop (2 * i)).take 2))
                  unstaged := bit (g 4) 0, noKill := bit (g 4) 1, podPhase := bit (g 4) 2, eta0 := bits (g 4) 63 32
                  args := BitVec.ofNat 64 (g 5), entries := entries },
                headerBad h0 entries || decide (2 ^ 32 < gx * gy * gz)))))

/-- Read every node record of a table. -/
def readNodes (s : State) (root graph : Nat) (priv : Bool) : (k n : Nat) → Got (List (Node × Bool))
  | _, 0 => .got []
  | k, n + 1 =>
    (gmWords s root (graph + 64 * k) 8 priv).bind (fun w =>
      (readNode s root priv w).bind (fun a => (readNodes s root graph priv (k + 1) n).bind (fun r => .got (a :: r))))

/-- The successor lists give each node exactly `NPRED` predecessors, and some node has none (R367 reason 7). -/
def graphBad (ns : List Node) : Bool :=
  ns.all (fun n => n.npred != 0) ||
  (ns.zipIdx).any (fun p => (ns.map (fun m => (m.succ.filter (· == p.2)).length)).foldl (· + ·) 0 != p.1.npred) ||
  ns.any (fun n => n.succ.any (fun k => decide (ns.length ≤ k)))

/-- One seat is given to two cores (R291). -/
def seatsClash (bs : List Nat) : Bool :=
  (List.range 8).any (fun k => decide (1 < (bs.filter (fun b => bit b 3 && b % 8 == k)).length))

/-- How a launch reaches the distributor (R365). -/
inductive LaunchFrom where
  | door
  | child (parent : Nat) (priv : Bool)
  | peer (lnum : Nat)
  deriving DecidableEq, Repr

/-- The checks of R367, in table order: the launch as described, and the reason it is refused for, or 0; none while something
that has to be read waits. -/
def checkLaunch (s : State) (from_ : LaunchFrom) (w : List Nat) : Option (Launch × Nat) :=
  let g (i : Nat) : Nat := (w[i]?).getD 0
  let root := bits (g 1) 47 12 * 4096
  let priv := bit (g 3) 0
  let extent := BitVec.ofNat 64 (g 4)
  let base : Launch := {
    lnum := 0, root := root, cpt := bits (g 2) 55 12 * 4096, queue := bits (g 3) 47 44, prioq := BitVec.ofNat 16 (bits (g 3) 63 48)
    tokens0 := bits (g 3) 43 36, tokens := bits (g 3) 43 36, priv := priv, extent := extent, reportHm := bit (g 5) 63, report := bits (g 5) 55 0
    ddoor := from_ == .door
    parent := match from_ with | .child p _ => some p | _ => none }
  let read : Got (List (Node × Bool) × List Nat) :=
    (readNodes s root (bits (g 0) 55 0) priv 0 (bits (g 0) 63 56 + 1)).bind (fun ns =>
      (if g 6 == 0 then .got [] else gmBytes s root (g 6) 512 priv).bind (fun bs => .got (ns, bs.map (·.toNat))))
  if descriptorBad w then some (base, 1)
  else
    match read with
    | .bad => some (base, 1)
    | .waits => none
    | .got (ns, seats) =>
        let l := { base with nodes := ns.map Prod.fst, seats := seats }
        let own := s.part.cx.val
        let parent := base.parent.bind (launchOf s)
        let pmask : BitVec 64 := match parent with
          | some p => if p.extent == 0 then 1#64 <<< own else p.extent
          | none => 0
        let cmask : BitVec 64 := if extent == 0 then 1#64 <<< own else extent
        if !fabricOn s && (List.range 64).any (fun x => extent.getLsbD x && x != own) then some (l, 2)
        else if seatsClash seats then some (l, 3)
        else if (match from_, parent with
            | .child _ up, some p => (priv && !up) || (root != p.root && !p.priv) || cmask &&& ~~~pmask != 0
            | _, _ => false) then some (l, 4)
        else if s.part.dies == 0 || bringState s == 0 || bringState s == 4 || bits (hubNat s brstat) 7 4 < 4 then some (l, 5)
        else if ns.any Prod.snd then some (l, 6)
        else if graphBad (ns.map Prod.fst) then some (l, 7)
        else some (l, 0)

/-! ### Numbering and residency -/

/-- The next launch number (R369): the acceptance count, past numbers in use, 0 and 0xFFFF. -/
def nextLnum : (fuel : Nat) → State → Nat → Nat × Nat
  | 0, s, n => (s.part.cx.val * 1024 + n % 1024, n + 1)
  | fuel + 1, s, n =>
    let k := s.part.cx.val * 1024 + n % 1024
    if k == 0 || k == 0xFFFF || s.dist.launches.any (fun l => l.lnum == k && l.state < 2) then nextLnum fuel s (n + 1)
    else (k, n + 1)

/-- Install a seat map in `SEATMAP` (R291, R300). -/
def installSeats (s : State) (bs : List Nat) : State :=
  if bs.isEmpty then s
  else (List.range 64).foldl (fun s w =>
    hubSet s (0x4004008000 + 8 * w) (BitVec.ofNat 64 (packElems 8 ((List.range 8).map (fun b => ((bs[8 * w + b]?).getD 0) % 16))))) s

/-- Put a launch among the distributor's, replacing a finished one of its number. -/
def addLaunch (s : State) (l : Launch) : State :=
  { s with dist := { s.dist with launches := s.dist.launches.filter (fun k => k.lnum != l.lnum) ++ [l] } }

/-- The package's range of a node's T tickets (R373): a package outside `EXTENT` has none. -/
def packageRange (s : State) (l : Launch) (n : Node) : Nat × Nat :=
  let xs := if l.extent == 0 then [s.part.cx.val] else (List.range 64).filter (fun x => l.extent.getLsbD x)
  let t := n.gx * n.gy * n.gz
  if !xs.contains s.part.cx.val then (t, t) else
  let p := xs.length
  let i := (xs.takeWhile (· != s.part.cx.val)).length
  let lo := i * (t / p) + min i (t % p)
  (lo, lo + t / p + if i < t % p then 1 else 0)

/-- The tickets each die receives of `r` (R374). -/
def dieShares (s : State) (r : Nat) : List Nat :=
  let f (d : Nat) : Nat := if s.part.dies.getLsbD d then (s.dist.free[d]?).getD 0 else 0
  let total := ((List.range 8).map f).foldl (· + ·) 0
  let wt (d : Nat) : Nat := if total == 0 then b2n (s.part.dies.getLsbD d) else f d
  let sum := ((List.range 8).map wt).foldl (· + ·) 0
  let base (d : Nat) : Nat := if sum == 0 then 0 else r * wt d / sum
  let left := r - ((List.range 8).map base).foldl (· + ·) 0
  let order := (List.range 8).filter (fun d => wt d != 0)
  (List.range 8).map (fun d => base d + if (order.takeWhile (· != d)).length < left && order.contains d then 1 else 0)

/-- Contiguous ranges of the shares, in ascending die (R374). -/
def rangesFrom : Nat → List Nat → List DieRange
  | _, [] => []
  | lo, n :: r => { lo := lo, hi := lo + n } :: rangesFrom (lo + n) r

/-- Other packages of a launch's extent. -/
def otherMembers (s : State) (lnum : Nat) : List Nat :=
  match launchOf s lnum with
  | none => []
  | some l => (List.range 64).filter (fun x => l.extent.getLsbD x && x != s.part.cx.val)

/-- This package's part of a compute phase is closed (R376): the barrier releases 64 clocks later, or at pod
scope once every package has arrived. -/
def closePart (s : State) (lnum node : Nat) (byEnd : Bool) : State :=
  match nodeOf s lnum node with
  | none => s
  | some n =>
    let at_ := if byEnd then s.clock + 64 else s.clock
    if n.podPhase then
      let s := updNode s lnum node (fun n => { n with phase := .closing, closedByEnd := byEnd, podAt := some at_ })
      (otherMembers s lnum).foldl (fun s x => sendControl s (podPkg s x) (4 + 2 ^ 8 * n.gen) lnum (node + 2 ^ 16 * n.superstep) [BitVec.ofNat 256 (wheelTime s at_)]) s
    else updNode s lnum node (fun n => { n with phase := .closing, closedByEnd := byEnd, closeAt := some at_ })

/-- The start of a compute phase (R374); a package without a ticket is closed at once (R376). -/
def phaseStart (s : State) (lnum node : Nat) : State :=
  match launchOf s lnum, nodeOf s lnum node with
  | some l, some n =>
    let r := packageRange s l n
    let dies := rangesFrom r.1 (dieShares s (r.2 - r.1))
    let s := updNode s lnum node (fun n => { n with phase := .compute, dies := dies, working := 0, closeAt := none, closedByEnd := false,
                                                    sendAt := none, sendSlots := 0, xchgPending := false, podAt := none })
    if r.1 == r.2 then closePart s lnum node false else s
  | _, _ => s

/-- A node with all its signals starts its first compute phase (R372). -/
def startReady (s : State) (lnum : Nat) : State :=
  match launchOf s lnum with
  | none => s
  | some l => (List.range l.nodes.length).foldl (fun s k =>
      match nodeOf s lnum k with
      | some n =>
        if n.phase == .waiting && n.npred ≤ n.signals then
          phaseStart (updNode { s with dist := { s.dist with selectDue := true } } lnum k (fun n => { n with readyAt := s.clock })) lnum k
        else s
      | none => s) s

/-- The pages of a launch's entries are its first code pages (R93; DEDUCED, log entry 41). -/
def codeEntries (s : State) (l : Launch) : State :=
  let s := { s with sys := { s.sys with code := s.sys.code.filter (fun e => e.1 != l.lnum) } }
  (l.nodes.flatMap (fun n => n.entries.flatMap (fun e => [e.1, e.2]))).foldl (fun s a =>
    if a == 0 then s
    else match translateFor s l.root a { ex := true } true with
      | .page d => addCode s l.lnum (d / 4096)
      | _ => s) s

/-- A launch becomes resident (R291, R369, R372): its seat map is installed and its first nodes are ready. -/
def makeResident (s : State) (lnum : Nat) : State :=
  match launchOf s lnum with
  | none => s
  | some l =>
    let s := codeEntries (installSeats s l.seats) l
    startReady (reportLaunch s lnum (fun l => { l with state := 1, waitFrom := s.clock, solo := !fabricOn s })) lnum

/-- Words of a descriptor as payload flits (DESIGN CHOICE, log entry 30). -/
def descFlits (w : List Nat) : List Sector :=
  [BitVec.ofNat 256 (packElems 64 (w.take 4)), BitVec.ofNat 256 (packElems 64 (w.drop 4))]

/-- Accept or refuse a launch (R367 to R369), none while what has to be read of it waits. Answers its number and the reason of
a refusal. The local wheel's slots are counted from the clock on which the first launch is accepted (R21; DESIGN CHOICE, log
entry 97). -/
def submitWords (s : State) (from_ : LaunchFrom) (w : List Nat) (readable : Bool) : Option (State × Nat × Nat) :=
  (if readable then checkLaunch s from_ w else some ({ lnum := 0 }, 1)).map (fun c =>
  let refuse (s : State) (l : Launch) (reason : Nat) : State × Nat × Nat :=
    let l := { l with state := 3, reason := reason }
    let s := if readable then writeReportFor s l 0xFFFF else s
    (fireEnd s l, 0, reason)
  if c.2 != 0 then refuse s c.1 c.2
  else
    let n := match from_ with | .peer k => (k, s.dist.accepts) | _ => nextLnum 1024 s s.dist.accepts
    let others := (List.range 64).filter (fun x => c.1.extent.getLsbD x && x != s.part.cx.val)
    let awaiting : BitVec 64 := match from_ with
      | .peer k => 1#64 <<< (k / 1024)
      | _ => others.foldl (fun m x => m ||| (1#64 <<< x)) 0
    let l := { c.1 with lnum := n.1, order := s.dist.accepts, waitFrom := s.clock, awaiting := awaiting,
                        nodes := c.1.nodes.map (fun k => { k with signals := 0 }) }
    if l.reportHm && hostGranted s l.lnum l.report 64 { pass := true } false true != 0 then refuse s l 1
    else
      let s := if s.dist.wheelFrom.isNone && !fabricOn s then { s with fabric := { s.fabric with from_ := s.clock, scNext := s.fabric.slot0 } } else s
      let s := { s with dist := { s.dist with accepts := n.2, wheelFrom := some (s.dist.wheelFrom.getD s.clock) } }
      let s := writeReport (addLaunch s l) l.lnum
      let s := match from_ with
        | .peer _ => s
        | _ => others.foldl (fun s x => sendControl s (podPkg s x) 1 l.lnum 0 (descFlits w)) s
      let s := if awaiting == 0 then makeResident s l.lnum else s
      (s, l.lnum, 0))

/-- The eight words of a descriptor's bytes (R366). -/
def descWords (bs : List Byte) : List Nat := (List.range 8).map (fun i => leNat ((bs.drop (8 * i)).take 8))

/-- A descriptor given to `DDOOR` is read and its launch submitted (R365, R380, R425); none while something that has to be read
waits. -/
def doorNow (s : State) (v : Nat) : Option State :=
  let a := bits v 55 0
  let bs : Got (List Byte) :=
    if bit v 63 then
      (if hostGranted s 0xFFFF a 64 { pass := true } true false == 0 then .got (s.sys.host.read a 64) else .bad)
    else if dpaEnd s < a + 64 then .bad
    else if dpaWaits s a 64 false then .waits
    else let r := dpaRead s a 64 {}; if r.2.2 then .bad else .got r.2.1
  if a % 64 != 0 then some (fire s 1)
  else
    match bs with
    | .waits => none
    | .bad => some (fire s 1)
    | .got bs => (submitWords s .door (descWords bs) true).map (·.1)

/-- A peer distributor's launch is checked here, answered, and reported here (R369). -/
def peerNow (s : State) (src lnum : Nat) (w : List Nat) : Option State :=
  (submitWords s (.peer lnum) w true).map (fun r => sendControl r.1 src 2 lnum r.2.2 [])

/-- A submitted launch, or the note that it waits (R80, R135, R365, R429). -/
def submit (s : State) (q : Submit) : State :=
  let r := match q.peer with | none => doorNow s ((q.words.head?).getD 0) | some (src, lnum) => peerNow s src lnum q.words
  r.getD { s with dist := { s.dist with submits := s.dist.submits ++ [q] } }
/-- The launches that have waited, in order. -/
def submitsDue (s : State) : State :=
  if s.dist.submits.isEmpty then s else s.dist.submits.foldl submit { s with dist := { s.dist with submits := [] } }

/-- A store to `DDOOR` (R365, R380). -/
def submitDoor (s : State) (v : Word) : State := submit s { peer := none, words := [v.toNat] }

/-! ### Tickets -/

/-- Dies in the order of a steal from die 0 (R374). -/
def stealOrder (s : State) : List Nat := (List.range 8).filter (fun d => d != 0 && s.part.dies.getLsbD d)

def dieOf (n : Node) (d : Nat) : DieRange := (n.dies[d]?).getD {}
def setDie (n : Node) (d : Nat) (r : DieRange) : Node := { n with dies := n.dies.set d r }
def dieHas (r : DieRange) : Bool := r.lo < r.hi || !r.returned.isEmpty

def leastOf (l : List Nat) : Nat := l.foldl min (l.headD 0)
def mostOf (l : List Nat) : Nat := l.foldl max (l.headD 0)

/-- Up to `k` tickets from the own die's counter: a returned ticket alone first, then the low end (R374). -/
def takeOwn (n : Node) (k : Nat) : Option (Node × Nat × Nat) :=
  let r := dieOf n 0
  if !r.returned.isEmpty then
    let t := leastOf r.returned
    some (setDie n 0 { r with returned := r.returned.erase t }, t, 1)
  else if r.lo < r.hi then
    let m := min k (r.hi - r.lo)
    some (setDie n 0 { r with lo := r.lo + m }, r.lo, m)
  else none

/-- Up to `k` tickets stolen from a victim: the high end, then returned ones, highest first (R374). -/
def stealFrom (n : Node) (d k : Nat) : Option (Node × Nat × Nat) :=
  let r := dieOf n d
  if r.lo < r.hi then
    let m := min k (r.hi - r.lo)
    some (setDie n d { r with hi := r.hi - m }, r.hi - m, m)
  else if !r.returned.isEmpty then
    let t := mostOf r.returned
    some (setDie n d { r with returned := r.returned.erase t }, t, 1)
  else none

/-- Take tickets (R374, R386, R387): the node, the first ticket, the count, whether they were stolen. -/
def takeTickets (s : State) (n : Node) (steal : Bool) (k : Nat) : Option (Node × Nat × Nat × Bool) :=
  match takeOwn n k with
  | some (m, t, c) => some (m, t, c, false)
  | none =>
    if steal then ((stealOrder s).findSome? (fun d => stealFrom n d k)).map (fun r => (r.1, r.2.1, r.2.2, true)) else none

def hasTickets (n : Node) : Bool := n.phase == .compute && n.dies.any dieHas

/-! ### Starting tasks -/

/-- The clocks that layers which sleep take to wake (R409, R420): 4 from state 1, 200 from state 2, and as many from state 3, for
which R420 has no count (DESIGN CHOICE, log entry 126). -/
def wakeClocks (c : Core) : Nat := if c.lsLayer == 0 && c.bLayer == 0 then 0 else if c.lsLayer ≤ 1 && c.bLayer ≤ 1 then 4 else 200

/-- Zero a core's registers and put its units in the state of a fresh task (R375), its layers on (R409). -/
def freshCore (s : State) (l : Launch) (args ticket : Word) (entry : Nat) : State :=
  let s := (List.range 16).foldl (fun s n => disableRing s n 0) s
  let s := { s with
    engine := s.engine.filter (fun g => !(lsBase / 4096 ≤ g && g < lsBase / 4096 + 256))
    vrEngine := false
    tags := s.tags.filter (fun t => !(lsBase / 16 ≤ t && t < lsBase / 16 + 65536))
    bte := { s.bte with chan := s.bte.chan.map (fun c => (c.1, { c.2 with post := [] })) }
    rows := { s.rows with ports := s.rows.ports.map (fun p => (p.1, { p.2 with post := [] })) }
    fabric := { s.fabric with ports := s.fabric.ports.map (fun p => (p.1, { p.2 with post := [], failed := 0 })) }
    replay := s.replay.map (fun u => { u with post := [] }) }
  let new := s.core.lastLaunch != l.lnum
  let s := if new then { s with oc := (s.oc.clear lsBase 0x200000) } else s
  let s := if s.dist.quadLaunch != l.lnum then
      { s with oc := s.oc.clear qsBase 0x400000
               engine := s.engine.filter (fun g => !(qsBase / 4096 ≤ g && g < qsBase / 4096 + 1024))
               tags := s.tags.filter (fun t => !(qsBase / 16 ≤ t && t < qsBase / 16 + 262144))
               dist := { s.dist with quadLaunch := l.lnum } }
    else s
  onCore s (fun c => { c with
    x := ((Vector.replicate 32 (0 : Word)).set 1 args).set 2 ticket, xmark := Vector.replicate 32 .clean
    p := 1, v := Vector.replicate 32 0, vmark := Vector.replicate 32 .clean, m := Vector.replicate 8 0
    g := Vector.replicate 16 {}, gmark := Vector.replicate 16 .clean
    pc := BitVec.ofNat 56 entry
    sw := { priv := l.priv, ie := true }
    trapVec := BitVec.ofNat 56 (hubNat s 0x4005000110 / 4 * 4)
    qmap := Vector.replicate 4 0, cptBase := BitVec.ofNat 64 l.cpt, bteErr := 0, completions := []
    vu := { c.vu with vcfg := 0 }
    mx := { c.mx with panels := 0, panelPoison := 0, tilePoison := if new then 0 else c.mx.tilePoison }
    exposed := [], levels := [], bundle := [], idx := 0, lx := none, pops := [], pushes := [], target := none, waiting := none
    lsLayer := 0, bLayer := 0, nextTask := none
    resume := none, owed := 0, held := (if new then 2048 else 0) + wakeClocks c, stepped := false, run := .running, lastLaunch := l.lnum })

/-- A new tag for a task's staged writes. -/
def freshTag (s : State) : State × Nat := ({ s with dist := { s.dist with nextTag := s.dist.nextTag + 1 } }, s.dist.nextTag)

/-- A launch's work is bound (R378). -/
def boundLaunch (s : State) (lnum : Nat) : State :=
  updLaunch s lnum (fun l => { l with tokens := l.tokens0, overdue := false, bound := true, waitFrom := s.clock })

/-- Start a tile task or an exchange task on the core (R375, R376). -/
def startTask (s : State) (lnum node ticket count : Nat) (xchg : Bool) : State :=
  match launchOf s lnum, nodeOf s lnum node with
  | some l, some n =>
    let e := (n.entries[n.superstep]?).getD (0, 0)
    let s := freshCore s l n.args (BitVec.ofNat 64 ticket) (if xchg then e.2 else e.1)
    let r := freshTag s
    let s := boundLaunch r.1 lnum
    onCore s (fun c => { c with
      task := some { lnum := lnum, node := node, ticket := ticket, count := count, xchg := xchg, tag := r.2, etaSet := n.eta0, boundAt := s.clock } })
  | _, _ => s

/-- The earliest ready of some nodes of a launch (R375). -/
def earliestNode (l : Launch) (ks : List Nat) : Option Nat :=
  let at_ (k : Nat) : Nat := ((l.nodes[k]?).map (·.readyAt)).getD 0
  ks.foldl (fun best k => match best with | none => some k | some b => if at_ k < at_ b then some k else some b) none

/-- The nodes of a launch with work, in node order. -/
def readyNodes (l : Launch) : List Nat := (List.range l.nodes.length).filter (fun k =>
  match l.nodes[k]? with | some n => hasTickets n || n.xchgPending | none => false)

/-- The core is kept for an exchange task that its `ENDT` will start (R376). -/
def coreReserved (s : State) : Bool :=
  s.dist.launches.any (fun l => l.state == 1 && l.nodes.any (fun n => n.phase == .closing && n.closedByEnd && ((n.entries[n.superstep]?).map (fun e => e.2 != 0)).getD false))

/-- No command that the core started is running (R260). -/
def enginesIdle (s : State) : Bool :=
  s.bte.chan.all (fun c => c.2.active.isNone) && s.rows.ports.all (fun p => p.2.queue.isEmpty) && s.fabric.ports.all (fun p => p.2.active.isNone)

/-- The core can take a task: idle, not kept nor held back by a debugger, the commands of a killed task at their end, and
nothing being spilled from or restored to it (R260, R376, R408). -/
def coreFree (s : State) : Bool :=
  s.core.run == .idle && s.core.task.isNone && !s.dist.frozen && enginesIdle s && s.dist.spill.isNone && s.dist.restore.isNone && !coreReserved s &&
  s.part.cores.contains 0 && s.part.dies.getLsbD 0

/-- A checkpointed task of a launch in the vault (R383). -/
def vaultTask (s : State) (lnum : Nat) : Option Image := s.dist.vault.find? (fun i => (i.core.task.map (·.lnum)) == some lnum)

/-- Bind a checkpointed task again: its restore takes 4,352 clocks (R383). -/
def bindRestore (s : State) (i : Image) : State :=
  let s := { s with dist := { s.dist with vault := s.dist.vault.erase i, restore := some (i, s.clock + 4352) } }
  boundLaunch s ((i.core.task.map (·.lnum)).getD 0)

/-- Give the idle core work of a launch: an exchange task, a checkpointed task, then a ticket of the earliest
ready node (R375, R376, R379, R383). A node being replayed avoids the core its error arose on (R402). -/
def dispatchFrom (s : State) (lnum : Nat) : State :=
  match launchOf s lnum with
  | none => s
  | some l =>
    match (List.range l.nodes.length).find? (fun k => ((l.nodes[k]?).map (·.xchgPending)).getD false) with
    | some k =>
      startTask (updNode s lnum k (fun n => { n with xchgPending := false, working := 1 })) lnum k 0xFFFFFFFF 1 true
    | none =>
      match vaultTask s lnum with
      | some i => bindRestore s i
      | none =>
        match earliestNode l ((readyNodes l).filter (fun k => ((l.nodes[k]?).map (fun n => !n.avoidCore)).getD false)) with
        | none => s
        | some k =>
          match nodeOf s lnum k with
          | none => s
          | some n =>
            match takeTickets s n true 1 with
            | none => s
            | some (m, t, c, _) =>
              startTask (updNode s lnum k (fun _ => { m with working := m.working + 1 })) lnum k t c false

/-! ### Priority and selection -/

/-- Ready work of a launch (R379). -/
def hasWork (s : State) (l : Launch) : Bool := l.state == 1 && (!(readyNodes l).isEmpty || (vaultTask s l.lnum).isSome)

/-- Effective priority (R378). -/
def effPrio (s : State) (l : Launch) : Nat := 16 * bits (hubNat s (0x4005000000 + 8 * l.queue)) 3 0 + l.tokens

/-- `a` ranks above `b` (R378). -/
def ranksAbove (s : State) (a b : Launch) : Bool :=
  (a.overdue && !b.overdue) || (a.overdue == b.overdue && decide (effPrio s b < effPrio s a))

/-- `a` is chosen before `b` (R379): the earliest accepted among the overdue and among equals. -/
def chosenBefore (s : State) (a b : Launch) : Bool :=
  if a.overdue && b.overdue then decide (a.order < b.order)
  else ranksAbove s a b || (!ranksAbove s b a && decide (a.order < b.order))

/-- The launch that a selection chooses (R379). -/
def chosen (s : State) : Option Launch :=
  (s.dist.launches.filter (hasWork s)).foldl (fun best l =>
    match best with
    | none => some l
    | some b => if chosenBefore s l b then some l else some b) none

/-- The remaining estimate r of the core's task (R381, R394). -/
def taskRemain (s : State) : Nat := match s.core.task with | some t => t.etaSet - t.etaAge | none => 0

/-- The core's task waits in `LWAIT` (R381): marked by the kind of its wait. -/
def inLwait (s : State) : Bool := (s.core.waiting.map (·.2)) == some 4
/-- The core waits in `BAR` (R385). -/
def inBar (s : State) : Bool := (s.core.waiting.map (·.2)) == some 3 || (s.core.waiting.map (·.2)) == some 5

/-- A launch with an exchange task that has still to start (R376). -/
def exchangeDue (s : State) : Option Nat := (s.dist.launches.find? (fun l => l.state == 1 && l.nodes.any (·.xchgPending))).map (·.lnum)

/-- The launch that a core which a preemption frees is for: the one that the selection chose, while it has work (R379). -/
def picked (s : State) : Option Launch := s.dist.pick.bind (fun n => (launchOf s n).filter (hasWork s))

/-- A free core takes an exchange task that waits for one, ahead of any other work (R376), else work of the launch for which a
preemption has freed it, else of the launch that a selection would choose (R375, R379). -/
def dispatchNow (s : State) : State :=
  if !coreFree s then s
  else
    match exchangeDue s with
    | some n => dispatchFrom s n
    | none =>
      match (picked s).orElse (fun _ => chosen s) with
      | some l => dispatchFrom { s with dist := { s.dist with pick := none } } l.lnum
      | none => s

/-- A selection (R379): bind to the free core, or decide a preemption of the core's task (R381). A decision stands until the core
is free; a draining task's is taken anew. -/
def selectNow (s : State) : State :=
  let s := { s with dist := { s.dist with lastSelect := s.clock, selectDue := false } }
  if coreFree s then dispatchNow s
  else
    match s.core.task with
    | none => s
    | some t =>
      if s.core.preempt.isSome then s
      else
        let s := { s with dist := { s.dist with pick := none } }
        match chosen s with
        | none => s
        | some l =>
          if !inLwait s && t.lnum == l.lnum then s
          else
            let lower := match launchOf s t.lnum with | some k => ranksAbove s l k | none => true
            if !(lower || inLwait s) then s
            else
              let s := { s with dist := { s.dist with pick := some l.lnum } }
              if t.drain && !inLwait s then s else onCore s (fun c => { c with preempt := some l.tokens })

/-- One clock of aging (R378). -/
def ageLaunches (s : State) : State :=
  { s with dist := { s.dist with launches := s.dist.launches.map (fun l =>
      let boundNow := (s.core.task.map (·.lnum)) == some l.lnum
      if !hasWork s l || boundNow then { l with waitFrom := s.clock, bound := boundNow }
      else if l.waitFrom + 64000 ≤ s.clock then
        { l with tokens := min 255 (l.tokens + 1), overdue := l.overdue || l.tokens == 255, waitFrom := s.clock, bound := false }
      else { l with bound := false }) } }

/-! ### Restartable and checkpointable -/

/-- An open phase of the task's node in a unit of the core (R377). -/
def isMember (s : State) : Bool :=
  match s.core.task with
  | none => false
  | some t => ((nodeOf s t.lnum t.node).map (fun n => n.bars.any (fun b => b.arrived.isSome || !(n.atBar b).isEmpty))).getD false

/-- A replay unit has an instance running or queued (R343). -/
def unitsBusy (s : State) : Bool := s.replay.toList.any (fun u => u.inst.isSome || !u.plays.isEmpty || u.reshelve.isSome)

/-- A task is restartable (R382). -/
def restartable (s : State) : Bool :=
  match s.core.task with
  | none => false
  | some t => !t.spoiled && ((nodeOf s t.lnum t.node).map (fun n => !n.unstaged && !n.overflowed)).getD false

/-- A started BTE command's destination is QS (R259). -/
def qsBound (s : State) : Bool :=
  (List.range 16).any (fun n => ringOn s.core n && ringQs s.core n) ||
  s.bte.chan.any (fun c => match c.2.active with | some a => bits ((a.words[5]?).getD 0).toNat 6 4 == 1 && !bit ((a.words[5]?).getD 0).toNat 20 | none => false)

/-- A task is checkpointable (R382: R222, R259, R343, R377). The vault of the die holds 64 images (R10). -/
def checkpointable (s : State) : Bool :=
  s.core.mx.panels == 0 && !qsBound s && !unitsBusy s && !isMember s && decide (s.dist.vault.length < 64)

/-- `TASKST` (R394). -/
def taskStatus (s : State) : Nat :=
  match s.core.task with
  | none => 0
  | some t => 16 * b2n t.drain + 8 * b2n t.xchg + 4 * b2n (isMember s) + 2 * b2n (checkpointable s) + b2n (restartable s)

/-! ### Ends of tasks and phases -/

/-- Some task of a node is in the vault or on its way there or back. -/
def nodeInVault (s : State) (lnum node : Nat) : Bool :=
  let mine (i : Image) : Bool := (i.core.task.map (fun t => t.lnum == lnum && t.node == node)).getD false
  s.dist.vault.any mine || (s.dist.spill.map (fun p => mine p.1)).getD false || (s.dist.restore.map (fun p => mine p.1)).getD false

/-- Clock 8 of the first slot that opens at a boundary strictly after a clock (R20). -/
def slotAfter (s : State) (clock : Nat) : Nat :=
  if clock < s.fabric.from_ then s.fabric.from_ + 8 else s.fabric.from_ + ((clock - s.fabric.from_) / 128 + 1) * 128 + 8

/-- A phase barrier at which the package has arrived while it joins its pod's wheel releases on that (R430). -/
def heldForPod (s : State) (arrived : Nat) : Bool := (s.plat.joining.map (fun j => decide (j.2 < arrived))).getD false

/-- The release of a pod-scope phase barrier, once every member has arrived (R20, R376). -/
def podClose (s : State) (lnum node : Nat) : State :=
  match nodeOf s lnum node with
  | none => s
  | some n =>
    match n.podAt, n.closeAt with
    | some a, none =>
      if n.phase == .closing && (otherMembers s lnum).all (fun x => n.atClose.any (fun e => e.x == x)) && !heldForPod s a then
        updNode s lnum node (fun n => { n with closeAt := some (slotAfter s (n.atClose.foldl (fun m e => max m e.clock) a)) })
      else s
    | _, _ => s

/-- This package arrives at a pod barrier: 64 clocks after its own members have, if it has any (R20, R377). `absent` says that no
task of its own stands at the barrier. -/
def packageArrives (s : State) (lnum node : Nat) (b : Fin 16) (absent : Bool) : State :=
  let s := updNode s lnum node (fun n =>
    let old := (n.bars.find? (fun k => k.scope == .pd && k.id == b)).getD { scope := .pd, id := b }
    { n with bars := { old with arrived := some (s.clock + 64), release := none, absent := absent } :: n.bars.filter (fun k => !(k.scope == .pd && k.id == b)) })
  let n := (nodeOf s lnum node).getD {}
  let k := (n.bars.find? (fun k => k.scope == .pd && k.id == b)).getD { scope := .pd, id := b }
  (otherMembers s lnum).foldl (fun s x => sendControl s (podPkg s x) (3 + 2 ^ 8 * n.gen) lnum (node + 2 ^ 16 * b.val + 2 ^ 32 * k.phase) [BitVec.ofNat 256 (wheelTime s (s.clock + 64))]) s

/-- A task of a node has ended: at the pod barriers with an open phase at which it has not arrived, it counts as arrived
(R377). -/
def leaveBars (s : State) (lnum node : Nat) : State :=
  match nodeOf s lnum node with
  | none => s
  | some n => (n.bars.filter (fun k => k.scope == .pd && k.arrived.isNone && !(n.atBar k).isEmpty)).foldl (fun s k => packageArrives s lnum node k.id true) s

/-- Another package has arrived at a pod barrier: this one, with no task of the node bound on the clock of the first arrival, has
no member of the phase and arrives too (R377; DEDUCED, log entry 110). A task bound later that stands at the barrier already is a
member of the next phase only. -/
def arriveEmpty (s : State) (lnum node : Nat) (b : Fin 16) : State :=
  match nodeOf s lnum node with
  | none => s
  | some n =>
    match n.bars.find? (fun k => k.scope == .pd && k.id == b && !(n.atBar k).isEmpty) with
    | none => s
    | some k =>
      let first := ((n.atBar k).map (·.clock)).foldl min (((n.atBar k).head?.map (·.clock)).getD 0)
      let member := (s.core.task.map (fun t => t.lnum == lnum && t.node == node && decide (t.boundAt ≤ first))).getD false
      if member || decide (s.clock < first) then s
      else if k.arrived.isNone then packageArrives s lnum node b true
      else if k.absent || k.release.isSome then s
      else if k.arrived.getD 0 ≤ first then s
      else updNode s lnum node (fun n => { n with bars := n.bars.map (fun j => if j.scope == .pd && j.id == b then { j with absent := true } else j) })

/-- The core's task is over (R389): the core becomes idle, or halts again after a debugger's step (R408). -/
def idleCore (s : State) : State :=
  onCore s (fun c => { c with
    task := none, nextTask := none, run := if c.stepOnce then .halted 4 else .idle, stepOnce := false, bundle := [], idx := 0, lx := none, pops := [], pushes := [], target := none, waiting := none
    resume := none, owed := 0, stepped := false, preempt := none })

/-- The end of a tile task by `ENDT` (R376, R389). -/
def endTile (s : State) : State :=
  match s.core.task with
  | none => idleCore s
  | some t =>
    let s := leaveBars (updNode (idleCore s) t.lnum t.node (fun n => { n with working := n.working - 1 })) t.lnum t.node
    match nodeOf s t.lnum t.node with
    | some n => if n.phase == .compute && n.working == 0 && !hasTickets n then closePart s t.lnum t.node true else s
    | none => s

/-- The end of an exchange task with a slot count (R390). -/
def endExchange (s : State) (slots : Nat) : State :=
  match s.core.task with
  | none => idleCore s
  | some t =>
    let s := leaveBars (updNode (idleCore s) t.lnum t.node (fun n => { n with working := 0, sendSlots := max n.sendSlots slots, sendAt := some s.clock, phase := .ending })) t.lnum t.node
    match nodeOf s t.lnum t.node with
    | some n => if n.podPhase then (otherMembers s t.lnum).foldl (fun s x => sendControl s (podPkg s x) (7 + 2 ^ 8 * n.gen) t.lnum (t.node + 2 ^ 16 * n.superstep + 2 ^ 32 * slots) [BitVec.ofNat 256 (wheelTime s s.clock)]) s else s
    | none => s

/-- The node retires (R372): its staged writes commit, then each successor is signalled; the launch completes
with its last node. -/
def retireNode (s : State) (lnum node : Nat) : State :=
  match nodeOf s lnum node with
  | none => s
  | some n =>
    let s := commitStaged s lnum node
    let s := updNode s lnum node (fun n => { n with phase := .retired })
    let s := n.succ.foldl (fun s k => updNode s lnum k (fun m => { m with signals := m.signals + 1 })) s
    match launchOf s lnum with
    | none => s
    | some l =>
      if l.nodes.all (fun m => m.phase == .retired) then fireEnd (reportLaunch (dropUnits s lnum) lnum (fun l => { l with state := 2 })) l
      else startReady s lnum

/-- The next superstep, or retirement (R372, R376). -/
def nextSuperstep (s : State) (lnum node : Nat) : State :=
  match nodeOf s lnum node with
  | none => s
  | some n =>
    if n.superstep + 1 < n.entries.length then phaseStart (updNode s lnum node (fun n => { n with superstep := n.superstep + 1, arrivals := n.arrivals.filter (fun e => e.gen != n.gen || decide (n.superstep < e.step)) })) lnum node
    else updNode s lnum node (fun n => { n with phase := .ending, sendAt := none, closeAt := none })

/-- The release of a compute phase's barrier (R376): the exchange task, or the next superstep. -/
def phaseCloseNow (s : State) (lnum node : Nat) : State :=
  match nodeOf s lnum node with
  | none => s
  | some n =>
    match n.closeAt with
    | none => s
    | some t =>
      if n.phase != .closing || s.clock < t then s
      else if ((n.entries[n.superstep]?).map Prod.snd).getD 0 == 0 then nextSuperstep s lnum node
      else
        let s := updNode s lnum node (fun n => { n with phase := .exchange, xchgPending := true })
        if coreFree s then dispatchFrom s lnum else s

/-- The end of an exchange phase (R390). -/
def exchangeEnd (s : State) (lnum node : Nat) : State :=
  match nodeOf s lnum node with
  | none => s
  | some n =>
    match n.phase, n.sendAt, n.closeAt with
    | .ending, some a, some rel =>
      let others := otherMembers s lnum
      if n.podPhase && !others.all (fun x => n.atEnd.any (fun e => e.x == x)) then s
      else
        let slots := n.atEnd.foldl (fun m e => max m e.slots) n.sendSlots
        let last := n.atEnd.foldl (fun m e => max m e.clock) a
        let b := (rel - s.fabric.from_) / 128
        let here := (s.clock - s.fabric.from_) / 128
        if slotClock s == 8 && b + slots ≤ here && last < s.fabric.from_ + here * 128 then nextSuperstep s lnum node else s
    | _, _, _ => s

/-- Whether a node has finished its last phase and is to retire (R372). -/
def retires (n : Node) : Bool := n.phase == .ending && n.sendAt.isNone && n.closeAt.isNone

/-! ### Barriers -/

/-- Clocks from the last arrival to the release (R19). -/
def barClocksOf : Scope → Nat
  | .co => 1 | .qd => 6 | .di => 20 | .pk => 64 | .pd => 64

/-- The core's task arrives at a barrier (R377, R385): it is the unit's one bound task. At pod scope the
package arrives 64 clocks later (R20). -/
def arriveAt (s : State) (lnum node : Nat) (c : Scope) (b : Fin 16) : State :=
  if c == .pd then packageArrives s lnum node b false
  else
    updNode s lnum node (fun n =>
      let old := (n.bars.find? (fun k => k.scope == c && k.id == b)).getD { scope := c, id := b }
      { n with bars := { old with arrived := some s.clock, release := some (s.clock + barClocksOf c) } :: n.bars.filter (fun k => !(k.scope == c && k.id == b)) })

/-- The barrier record of a node. -/
def barOf (s : State) (lnum node : Nat) (c : Scope) (b : Fin 16) : Option Bar :=
  (nodeOf s lnum node).bind (fun n => n.bars.find? (fun k => k.scope == c && k.id == b))

/-- The release of a phase whose clock has come (R19): the next phase opens. -/
def releaseBar (s : State) (lnum node : Nat) (c : Scope) (b : Fin 16) : State :=
  match barOf s lnum node c b with
  | none => s
  | some k =>
    match k.release with
    | some t =>
      if t ≤ s.clock then
        updNode s lnum node (fun n => { n with bars := n.bars.map (fun k => if k.scope == c && k.id == b then
          { k with phase := k.phase + 1, arrived := none, release := none, absent := false, others := k.others.filter (fun e => e.gen != n.gen || decide (k.phase < e.step)) } else k) })
      else s
    | none => s

/-- A pod barrier whose members have all arrived gets its release (R20). -/
def podRelease (s : State) (lnum node : Nat) (b : Fin 16) : State :=
  match nodeOf s lnum node, barOf s lnum node .pd b with
  | some n, some k =>
    match k.arrived, k.release with
    | some a, none =>
      if (otherMembers s lnum).all (fun x => (n.atBar k).any (fun e => e.x == x)) then
        let last := (n.atBar k).foldl (fun m e => max m e.clock) a
        updNode s lnum node (fun n => { n with bars := n.bars.map (fun k => if k.scope == .pd && k.id == b then
          { k with release := some (slotAfter s last) } else k) })
      else s
    | _, _ => s
  | _, _ => s

/-! ### Preemption outcomes -/

/-- Return a killed task's tickets to its die's counter (R374, R383), with those of the task that was to begin in place. -/
def returnTickets (n : Node) (t : Task) (next : Option Task) : Node :=
  let more := match next with | some k => (List.range k.count).map (fun i => k.ticket + i) | none => []
  if t.xchg then { n with xchgPending := true, working := 0 }
  else setDie { n with working := n.working - 1 } 0
    { dieOf n 0 with returned := (dieOf n 0).returned ++ (List.range t.count).map (fun i => t.ticket + i) ++ more }

/-- Kill the core's task (R383). -/
def killTask (s : State) : State :=
  match s.core.task with
  | none => s
  | some t =>
    let next := s.core.nextTask
    let s := discardTask (stopCore s) t.lnum t.node t.tag
    let s := updNode s t.lnum t.node (fun n => returnTickets n t next)
    reportLaunch s t.lnum (fun l => { l with kills := l.kills + 1 })

/-- Drain the core's task (R383). A wait that the decision cut short is executed again (R166). -/
def drainTask (s : State) : State :=
  match s.core.task with
  | none => s
  | some t =>
    reportLaunch (onCore s (fun c => { c with preempt := none, waiting := none, task := c.task.map (fun k => { k with drain := true }) })) t.lnum
      (fun l => { l with drains := l.drains + 1 })

/-- What a checkpoint waits for before the image spills (R144, R164, R175, R203, R222, R259, R277, R313, R363). -/
def spillReady (s : State) : Bool :=
  s.core.board.isEmpty && s.core.vu.queue.isEmpty && s.core.vu.qs.isEmpty && s.core.mx.array.isEmpty && s.core.mx.transfer.isEmpty && !s.core.rangeBusy &&
  s.core.inv.isEmpty && s.core.hmOrder.isEmpty && s.fabric.sc.isNone &&
  s.folios.waits.isEmpty && s.folios.frees.isEmpty && s.folios.post.isEmpty &&
  s.bte.chan.all (fun c => c.2.post.isEmpty && (match c.2.active with
    | none => true
    | some a =>
      let w5 := ((a.words[5]?).getD 0).toNat
      !a.loading && bit w5 28 && decide (a.fetchTo * (ringSlotG s.core (bits w5 19 16) * 128) ≤ a.next))) &&
  s.rows.ports.all (fun p => p.2.post.isEmpty && p.2.queue.all (fun o => !o.started)) &&
  s.fabric.ports.all (fun p => p.2.active.isNone && p.2.post.isEmpty)

/-- The image of the core at a bundle boundary (R10, R383): `CAUSE` is `PREEMPT`, `TRAPPC` the next bundle, the
exposed writes held with their distances. A window keeps its position and no translation (R135, R259). -/
def imageOf (s : State) (srfv : Bool) (srf : Nat) : Image :=
  let t := s.core.sched
  let c := s.core
  { core := { c with
      sw := { c.sw with cause := 17, srfv := srfv, srf := ⟨srf % 8, Nat.mod_lt _ (by decide)⟩ }
      trapPc := c.pc
      levels := { writes := c.exposed.map (fun l => { l with due := l.due - t }), pops := c.pops, pushes := c.pushes
                  split := if srfv then some ⟨c.qmapAt, c.counts, c.privAt, c.csrAt⟩ else none } :: c.levels
      exposed := [], bundle := [], idx := 0, lx := none, pops := [], pushes := [], target := none, waiting := none, resume := none
      owed := 0, held := 0, preempt := none, spilling := false, completions := c.completions
      mx := { c.mx with bstore := {}, panels := 0, panelPoison := 0 } }
    store := s.oc.slice lsBase 0x200000
    tags := s.tags.filter (fun t => lsBase / 16 ≤ t && t < lsBase / 16 + 65536)
    engine := s.engine.filter (fun g => lsBase / 4096 ≤ g && g < lsBase / 4096 + 256)
    vrEngine := s.vrEngine
    bte := { s.bte with chan := s.bte.chan.map (fun c => (c.1, { c.2 with active := c.2.active.map (fun a => { a with pages := [] }) })) }
    rows := s.rows, ports := s.fabric.ports, ftmo := s.fabric.ftmo, fpin := s.fabric.fpin }

/-- A checkpoint waits, and the engines start nothing new meanwhile (R259, R277, R313, R383). -/
def awaitSpill (s : State) : State := onCore s (fun c => { c with spilling := true })

/-- Begin the spill of the core's task (R383). -/
def beginSpill (s : State) : State :=
  match s.core.task with
  | none => s
  | some t =>
    let i := imageOf s (s.core.waiting.isSome || s.core.resume.isSome) (s.core.resume.getD s.core.idx)
    let s := dropCoreState s
    let s := { s with
      bte := {}, rows := { s.rows with ports := [] }, fabric := { s.fabric with ports := [] }
      dist := { s.dist with spill := some (i, s.clock + 4352) } }
    reportLaunch s t.lnum (fun l => { l with ckpts := l.ckpts + 1 })

/-- The spill is over (R383). -/
def endSpill (s : State) : State :=
  match s.dist.spill with
  | some (i, t) => if t ≤ s.clock then { s with dist := { s.dist with spill := none, vault := s.dist.vault ++ [i] } } else s
  | none => s

/-- What a killed task's started commands still do on the core goes on beside what the restored task brings back (R260,
R277, R313). -/
def joinEngines (s : State) (i : Image) : State :=
  let ks := ((s.bte.chan.map (·.1)) ++ (i.bte.chan.map (·.1))).eraseDups
  { s with
    bte := { i.bte with last := s.bte.last, chan := ks.foldl (fun l k =>
      let a := lookupD s.bte.chan k {}
      let b := lookupD i.bte.chan k {}
      storeAt l k { b with active := (a.active.orElse (fun _ => b.active)), post := a.post ++ b.post }) [] }
    rows := { s.rows with ports := (List.range 8).foldl (fun l k =>
      let a := lookupD s.rows.ports k {}
      let b := lookupD i.rows.ports k {}
      storeAt l k { b with queue := a.queue ++ b.queue, post := a.post ++ b.post }) [] }
    fabric := { s.fabric with ftmo := i.ftmo, fpin := i.fpin, ports := (List.range 8).foldl (fun l k =>
      let a := lookupD s.fabric.ports k {}
      let b := lookupD i.ports k {}
      storeAt l k { b with active := a.active.orElse (fun _ => b.active), post := a.post ++ b.post }) [] } }

/-- A channel that still works for a killed task is the one whose window the restored task brings back. -/
def channelTaken (s : State) (i : Image) : Bool :=
  i.bte.chan.any (fun c => c.2.active.isSome && (lookupD s.bte.chan c.1 {}).active.isSome)

/-- The restore is over (R259, R383): the core resumes as `RFT` would resume it. -/
def endRestore (s : State) : State :=
  match s.dist.restore with
  | some (i, t) =>
    if s.clock < t || channelTaken s i then s
    else
      let s := joinEngines s i
      let s := { s with
        dist := { s.dist with restore := none }
        oc := s.oc.graft i.store lsBase 0x200000
        tags := (i.tags ++ s.tags.filter (fun t => !(lsBase / 16 ≤ t && t < lsBase / 16 + 65536))).foldl (fun l t => insertKey t l) []
        engine := (i.engine ++ s.engine.filter (fun g => !(lsBase / 4096 ≤ g && g < lsBase / 4096 + 256))).foldl (fun l g => insertKey g l) []
        vrEngine := i.vrEngine
        core := { i.core with run := .running, lsLayer := 0, bLayer := 0, task := i.core.task.map (fun t => { t with boundAt := s.clock }), pt := max i.core.pt s.core.pt, nextId := max i.core.nextId s.core.nextId, sched := s.core.sched } }
      let w := s.core.sw
      let s := onCore s (fun c => { c with sw := { c.sw with srfv := false } })
      resumeAt s s.core.trapPc w.srfv w.srf.val 0
  | none => s

/-- The three outcomes of a decision (R382, R383). -/
inductive PreemptOutcome where
  | drain
  | kill
  | checkpoint
  deriving DecidableEq, Repr

/-- What a decision with a newcomer's tokens comes to (R382). -/
def outcomeOf (s : State) (tokens : Nat) (t : Task) : PreemptOutcome :=
  let h := 64 * (tokens + 1)
  let noKill := ((nodeOf s t.lnum t.node).map (·.noKill)).getD false
  if taskRemain s ≤ h && !inLwait s then .drain
  else if restartable s && !noKill && decide (t.age < 2 * 4352) && !isMember s && !unitsBusy s then .kill
  else if checkpointable s then .checkpoint
  else .drain

/-- A preemption decision applied at a bundle boundary with `IE` = 1 (R382), once a `CWB` or `CINV` under way is complete
(R140); a checkpoint that still has to wait stays decided. Answers whether the core must not issue. -/
def applyPreempt (s : State) : State :=
  match s.core.preempt, s.core.task with
  | some tokens, some t =>
    if s.core.rangeBusy then s
    else if s.core.spilling then (if spillReady s then beginSpill s else s)
    else
      match outcomeOf s tokens t with
      | .drain => drainTask s
      | .kill => killTask s
      | .checkpoint => if spillReady s then beginSpill s else awaitSpill s
  | _, _ => onCore s (fun c => { c with preempt := none })

/-- Whether the task's preemption is by checkpoint: decided, or what the decision comes to now (R382). -/
def checkpointDue (s : State) : Bool :=
  match s.core.preempt, s.core.task with
  | some tokens, some t => s.core.spilling || outcomeOf s tokens t == .checkpoint
  | _, _ => false

/-- Report the free-core count of the core's die (R374). -/
def reportFree (s : State) : State :=
  { s with dist := { s.dist with free := Vector.ofFn (fun d => if d.val == 0 && coreFree s then 1 else 0) } }

end Sys2Proof.Machine
end

