-- ==== Sys2Proof/Machine/Folio.lean ====
section
/-!
DEFINITION. The folio store (R345 to R364): frames, eviction and shadows, recall and degraded frames,
copy-on-write, accesses by state, and the FO syllables.
-/
namespace Sys2Proof.Machine
open Sys2Proof

/-! ### Registers -/

def fmBase : Nat := 0x4006000000
def folioOn (s : State) : Bool := bit (hubNat s fmBase) 0
def farStop (s : State) : Bool := bit (hubNat s fmBase) 2
def frameCount (s : State) : Nat := bits (hubNat s (fmBase + 0x10)) 23 0
def farCount (s : State) : Nat := bits (hubNat s (fmBase + 0x28)) 23 0
/-- The DPA of frame `f` (R345), of shadow slot `k` and the host address of far slot `k` (R346). -/
def frameDpa (s : State) (f : Nat) : Nat := bits (hubNat s (fmBase + 8)) 47 16 * 65536 + 65536 * f
def shadowDpa (s : State) (k : Nat) : Nat := bits (hubNat s (fmBase + 0x18)) 47 7 * 128 + 16640 * k
def farHost (s : State) (k : Nat) : Nat := bits (hubNat s (fmBase + 0x20)) 51 16 * 65536 + 65536 * k

/-! ### The table of names -/

def folioNamed (s : State) (name : Nat) : Option Folio := s.folios.folios.find? (fun f => f.names.any (fun p => p.1 == name))
/-- A name that a `FOFREE` has removed while commands still use its storage (R357) is kept under a number beyond the
48 bits of names, in which no later access finds it. -/
def goneName (s : State) (name : Nat) : Nat := name + 2 ^ 48 * (s.clock + 1)
/-- The share count: the names that have not been removed (R346, R357). -/
def shareCount (f : Folio) : Nat := (f.names.filter (fun p => decide (p.1 < 2 ^ 48))).length
/-- The name by which an access finds its storage: a command goes on with what it had touched (R357). -/
def nameFor (s : State) (cmd name : Nat) : Nat :=
  if cmd == 0 then name
  else match s.folios.touched.find? (fun t => t.1 == cmd && decide (2 ^ 48 ≤ t.2) && t.2 % 2 ^ 48 == name) with
    | some t => t.2
    | none => name
def setFolio (s : State) (name : Nat) (g : Folio → Folio) : State :=
  { s with folios := { s.folios with folios := s.folios.folios.map (fun f => if f.names.any (fun p => p.1 == name) then g f else f) } }
def pinOf (f : Folio) (name : Nat) : Nat := lookupD f.names name 0
def allUnpinned (f : Folio) : Bool := f.names.all (fun p => p.2 == 0)
/-- Whether a storage holds a frame: near, recalling, evicting, degraded. -/
def hasFrame (f : Folio) : Bool := f.state == 1 || f.state == 3 || f.state == 5

def usedFrames (s : State) : List Nat := (s.folios.folios.filter hasFrame).map (·.frame)
def usedSlots (s : State) : List Nat := s.folios.folios.filterMap (·.slot)
def lowestFree (used : List Nat) (n : Nat) : Option Nat := (List.range (used.length + 1)).find? (fun k => k < n && !used.contains k)
def freeFrame (s : State) : Option Nat := lowestFree (usedFrames s) (frameCount s)
def freeSlot (s : State) : Option Nat := lowestFree (usedSlots s) (farCount s)

/-! ### Moving 64 KiB -/

/-- Write back and invalidate the L2 and MSC copies of a frame, as `CINV` does (R349). -/
def flushFrame (s : State) (f : Nat) : State :=
  (List.range 512).foldl (fun s j =>
    let line := frameDpa s f / 128 + j
    mscFlush (l2Flush s line) line) s

/-- Whether a line of a frame is staged (R349, R357, R358). -/
def frameStaged (s : State) (f : Nat) : Bool :=
  let lo := frameDpa s f / 32
  s.sys.staged.any (fun t => decide (lo ≤ t.sector) && decide (t.sector < lo + 2048))

/-- The folio manager's own accesses (R405, R406), of class 3, to `n` bytes at a DPA; to a far slot over CXL, in windows with
`FOLIO` = 1 (R425). -/
def managerOk (s : State) (d n : Nat) (wr : Bool) : Bool := dpaPermits s d n { cls := 3 } (!wr) wr
def managerFar (s : State) (k : Nat) (wr : Bool) : Bool :=
  (List.range 16).all (fun j => windowGrant s 0 (farHost s k / 4096 + j) true (!wr) wr == 0 && permits s 160 (farHost s k / 4096 + j) { cls := 3 } (!wr) wr)

/-- The 2,048 sectors of a frame as HBM holds them after a flush. -/
def frameSectors (s : State) (f : Nat) : List (Nat × Bool) :=
  (List.range 2048).map (fun j => hbmRead s (frameDpa s f / 32 + j))
/-- Put sectors into a frame, its cached copies dropped. -/
def putFrame (s : State) (f : Nat) (l : List (Nat × Bool)) : State :=
  ((flushFrame s f, frameDpa s f / 32) |> fun a => l.foldl (fun acc v => (hbmWrite acc.1 acc.2 v.1 v.2, acc.2 + 1)) a).1

/-! ### Shadows -/

/-- The 8th largest of a list of magnitudes, counting repeats; 0 when there are fewer (R350). -/
def nthLargest : (n : Nat) → List Nat → Nat
  | 0, _ => 0
  | n + 1, l =>
    match l with
    | [] => 0
    | a :: r =>
      let m := r.foldl max a
      if n == 0 then m else nthLargest n (l.erase m)

/-- The scale of a block of FP32 elements (R350). -/
def shadowScale (xs : List Nat) : Nat :=
  let mags := (xs.map (fun x => x % 2 ^ 31)).filter (fun m => decide (m < 0x7F800000))
  let m := nthLargest 8 mags
  let m := if m == 0 then mags.foldl max 0 else m
  let q := f32Div m 0x40E00000
  if q % 2 ^ 31 == 0 then f32One else q

/-- The shadow of a folio (R350): 16,384 bytes of codes and 256 bytes of scales. -/
def shadowOf (l : List (Nat × Bool)) : List Byte :=
  let xs := l.flatMap (fun v => (List.range 16).map (fun i => if v.2 then f32Nan else bf16ToF32 (elem 16 v.1 i)))
  let blocks := (List.range 64).map (fun b => (xs.drop (512 * b)).take 512)
  let scales := blocks.map shadowScale
  let codes := (blocks.zip scales).flatMap (fun p => (s4oBlock .rne p.2 p.1).1)
  leBytes 16384 (packElems 4 codes) ++ scales.flatMap (leBytes 4)

/-- The degraded frame of a shadow (R350): BF16 elements, absent and given-up ones +0. -/
def degradedOf (sh : List Byte) : List (Nat × Bool) :=
  let codes := leNat (sh.take 16384)
  (List.range 2048).map (fun j =>
    (packElems 16 ((List.range 16).map (fun i =>
      let e := 16 * j + i
      decodeTo fmtBf16 12 .rne 0 (some (codes, e)) (leNat ((sh.drop (16384 + 4 * (e / 512))).take 4)))), false))

/-- Read a run of HBM bytes for the manager. -/
def hbmBytes (s : State) (d n : Nat) : List Byte :=
  ((List.range ((d % 32 + n + 31) / 32)).flatMap (fun j => leBytes 32 (hbmRead s (d / 32 + j)).1)).drop (d % 32) |>.take n
/-- Write a run of bytes at a 32-byte multiple. -/
def hbmPut (s : State) (d : Nat) (bs : List Byte) : State :=
  ((List.range ((bs.length + 31) / 32)).foldl (fun s j => hbmWrite (mscDrop s ((d / 32 + j) / 4)) (d / 32 + j) (leNat ((bs.drop (32 * j)).take 32)) false) s)

/-! ### Eviction, recall, degradation -/

/-- The core's access waits at a name: it comes back on each clock until it is performed (R349, R351). -/
def coreWaitsAt (s : State) (name : Nat) : Bool :=
  match s.folios.held with | some (n, c) => n == name && decide (s.clock ≤ c + 1) | none => false

/-- An access of the core or of a command waits at a storage (R349). -/
def accessWaits (s : State) (f : Folio) : Bool := f.names.any (fun p => coreWaitsAt s p.1 || s.folios.stuck.any (fun t => t.2 == p.1))

/-- Evictable (R349). -/
def evictable (s : State) (f : Folio) : Bool :=
  f.state == 1 && decide (f.ready ≤ s.clock) && allUnpinned f && !frameStaged s f.frame &&
  !accessWaits s f && !f.names.any (fun p => s.folios.waits.any (fun w => w.name == p.1))

/-- The storage to evict: the smallest last-use clock, then the lowest frame (R349). -/
def evictChoice (s : State) : Option Folio :=
  (s.folios.folios.filter (evictable s)).foldl (fun best f =>
    match best with
    | none => some f
    | some b => if f.lastUse < b.lastUse || (f.lastUse == b.lastUse && f.frame < b.frame) then some f else some b) none

/-- Evict one storage (R349): shadow, far copy, frame freed. None when nothing can be evicted. -/
def evictOne (s : State) : Option (State × Nat) :=
  match evictChoice s, freeSlot s with
  | some f, some k =>
    if farStop s || !managerOk s (frameDpa s f.frame) 65536 false || !managerOk s (shadowDpa s k) 16640 true || !managerFar s k true then none
    else
      let s := flushFrame s f.frame
      let l := frameSectors s f.frame
      let s := hbmPut s (shadowDpa s k) (shadowOf l)
      let s := { s with sys := { s.sys with host := s.sys.host.write (farHost s k) (l.flatMap (fun v => leBytes 32 v.1)) } }
      let poison := ((l.zipIdx).filter (fun p => p.1.2)).map (·.2)
      let name := (f.names.head?.map (·.1)).getD 0
      let s := setFolio s name (fun f => { f with state := 4, slot := some k, ready := s.clock + 2000, farPoison := poison })
      some ({ s with folios := { s.folios with evictions := s.folios.evictions + 1 } }, f.frame)
  | _, _ => none

/-- A frame, free or freed by an eviction, and the clocks the eviction adds (R349, R362). -/
def obtainFrame (s : State) : Option (State × Nat × Nat) :=
  match freeFrame s with
  | some f => some (s, f, 0)
  | none => (evictOne s).map (fun r => (r.1, r.2, 2000))

/-- A frame that the manager may write (R406). -/
def writableFrame (s : State) : Option (State × Nat × Nat) := (obtainFrame s).filter (fun r => managerOk r.1 (frameDpa r.1 r.2.1) 65536 true)

/-- Start a recall (R351, R362). None when no frame can be had, or the far slot not read (R406). -/
def startRecall (s : State) (name : Nat) : Option State :=
  let slot := ((folioNamed s name).bind (·.slot)).getD 0
  if !managerFar s slot false then none else
  (writableFrame s).map (fun r => setFolio r.1 name (fun f => { f with state := 3, frame := r.2.1, ready := r.1.clock + 1600 + r.2.2 }))

/-- A recall ends (R349, R351): the frame holds the far copy with its poison marks, the far slot is free. -/
def finishRecall (s : State) (name : Nat) : State :=
  match folioNamed s name with
  | none => s
  | some f =>
    let base := farHost s (f.slot.getD 0)
    let l := (List.range 2048).map (fun j => (s.sys.host.readNat (base + 32 * j) 32, f.farPoison.contains j))
    setFolio (putFrame s f.frame l) name (fun f => { f with state := 1, slot := none, farPoison := [] })

/-- Build the degraded frame (R360): the recall's frame is used, or one is obtained. None without a frame. -/
def degrade (s : State) (name : Nat) : Option State :=
  match folioNamed s name with
  | none => none
  | some f =>
    let fr := if !managerOk s (shadowDpa s (f.slot.getD 0)) 16640 false then none else if f.state == 3 then some (s, f.frame, 0) else writableFrame s
    fr.map (fun r =>
      let s := r.1
      let s := putFrame s r.2.1 (degradedOf (hbmBytes s (shadowDpa s (f.slot.getD 0)) 16640))
      setFolio s name (fun f => { f with state := 5, frame := r.2.1, ready := s.clock + 600 + r.2.2 }))

/-- A degraded storage whose names are all unpinned is far again, once its frame is built and what waited for it has gone on
(R360). -/
def undegrade (s : State) (name : Nat) : State :=
  match folioNamed s name with
  | none => s
  | some f => if f.state == 5 && allUnpinned f && decide (f.ready ≤ s.clock) && !accessWaits s f && !f.names.any (fun p => s.folios.waits.any (fun w => w.name == p.1)) then setFolio (flushFrame s f.frame) name (fun f => { f with state := 2, ready := s.clock }) else s

/-! ### Copy-on-write -/

/-- A sector staged for a node stands in the new frame too, in a way of its line there, with its tag and seen bit (R348); without
a place the node overflows, and the sector is written unstaged (R131). -/
def stageCopy (v : Viewer) (s : State) (t : Staged) : State :=
  let place := stagePlace s (t.sector / 4)
  match place.2 with
  | some way => { place.1 with sys := { place.1.sys with staged := { t with way := way } :: place.1.sys.staged } }
  | none => hbmWrite (markOverflow place.1 v) t.sector t.data.toNat t.poison

/-- Give a name a frame of its own (R348): the copy takes what the writer's node sees, its staged sectors
staged again in the new frame. None when no frame can be had. -/
def splitFolio (s : State) (name : Nat) (v : Viewer) : Option State :=
  match folioNamed s name with
  | none => none
  | some f =>
    if !managerOk s (frameDpa s f.frame) 65536 false then none else
    (writableFrame s).map (fun r =>
      let s := r.1
      let lo := frameDpa s f.frame / 32
      let new := frameDpa s r.2.1 / 32
      let l := (List.range 2048).map (fun j => let q := coherentRead s (lo + j); (q.2.1, q.2.2))
      let mine := s.sys.staged.filter (fun t => v.stages && t.lnum == v.lnum && t.node == v.node && decide (lo ≤ t.sector) && decide (t.sector < lo + 2048))
      let s := putFrame s r.2.1 l
      let s := mine.foldl (fun s t => stageCopy v s { t with sector := t.sector - lo + new }) s
      let pin := pinOf f name
      let s := setFolio s name (fun f => { f with names := f.names.filter (fun p => p.1 != name) })
      { s with folios := { s.folios with
        folios := s.folios.folios ++ [{ names := [(name, pin)], state := 1, frame := r.2.1, lastUse := s.clock, ready := s.clock + 600 + r.2.2 }]
        splits := s.folios.splits + 1 } })

/-! ### Accesses -/

/-- An access reaches the manager: a command is noted as a whole with its first access to the name (R357), the core's for as
long as it waits (R349). -/
def folioMeet (s : State) (cmd name : Nat) : State :=
  { s with folios :=
    if cmd == 0 then { s.folios with held := some (name, s.clock) }
    else if s.folios.touched.contains (cmd, name) then s.folios else { s.folios with touched := (cmd, name) :: s.folios.touched } }

/-- The access of the core or of a command waits no longer. -/
def folioLeave (s : State) (cmd : Nat) : State :=
  { s with folios := if cmd == 0 then { s.folios with held := none } else { s.folios with stuck := s.folios.stuck.filter (fun t => t.1 != cmd) } }
/-- The access waits (R349, R351). -/
def folioStuck (s : State) (cmd name : Nat) : Acc Place :=
  .wait (if cmd == 0 || s.folios.stuck.contains (cmd, name) then s
    else { s with folios := { s.folios with stuck := (cmd, name) :: s.folios.stuck.filter (fun t => t.1 != cmd) } })

/-- An FS access by the state of its folio (R351), for a core (`cmd` 0) or a command. -/
def folioCheck (s : State) (v : Viewer) (q : Requester) (cmd : Nat) (addr n : Nat) (need : Need) : Acc Place :=
  let name := nameFor s cmd (addr / 65536)
  let off := addr % 65536
  if !folioOn s then .fault s .folioAbsent 0 addr
  else if 65536 < off + n then .fault s .align 4 addr
  else
    match folioNamed s name with
    | none => .fault s .folioAbsent 0 addr
    | some f =>
      let s := folioMeet s cmd name
      if s.clock < f.ready then folioStuck s cmd name
      else
        let s := setFolio s name (fun f => { f with lastUse := s.clock })
        let d := frameDpa s f.frame + off
        let go : Acc Place :=
          if !dpaPermits s d n q need.rd need.wr then .fault (folioLeave s cmd) .accessDenied 1 addr
          else if dpaWaits s d n need.wr then folioStuck s cmd name
          else .ok (folioLeave s cmd) (.gm [(d, n)])
        if f.state == 1 then
          if need.wr && decide (1 < shareCount f) then
            match splitFolio s name v with
            | some s => folioStuck s cmd name
            | none => .fault (folioLeave s cmd) .folioAbsent 0 addr
          else go
        else if f.state == 2 then
          match startRecall s name with
          | some s => folioStuck s cmd name
          | none => .fault (folioLeave s cmd) .folioAbsent 0 addr
        else if f.state == 5 then (if need.wr then .fault (folioLeave s cmd) .accessDenied 1 addr else go)
        else folioStuck s cmd name

/-- A command has ended: what it touched is let go (R357). -/
def untouch (s : State) (cmd : Nat) : State :=
  { s with folios := { s.folios with touched := s.folios.touched.filter (fun t => t.1 != cmd), stuck := s.folios.stuck.filter (fun t => t.1 != cmd) } }

/-! ### Releasing names -/

/-- Remove a name (R357): at share count 0 the frame and slots are free. -/
def dropName (s : State) (name : Nat) : State :=
  let s := setFolio s name (fun f => { f with names := f.names.filter (fun p => p.1 != name) })
  { s with folios := { s.folios with folios := s.folios.folios.filter (fun f => !f.names.isEmpty) } }

/-! ### Waiting pins -/

/-- The completion word of a `FOPIN` (R360). -/
def pinWord (code tag : Nat) (degraded : Bool) : Word :=
  completionWord code (b2n degraded) (if code == 0 || code == 4 then 0 else Cause.folioAbsent.code) 0 4 tag

/-- A pin is delivered with `DEGRADED` (R359, R360). -/
def deliver (s : State) : State := { s with folios := { s.folios with degraded := s.folios.degraded + 1 } }

/-- A pin is over: its result lands on the next clock, but no earlier than `floor` clocks after issue (R362), and with `.cq` the
word is posted (R360). -/
def endPin (s : State) (w : PinWait) (word : Word) (floor : Nat) : State :=
  let n := max 1 (w.issued + floor - s.clock)
  let s := { s with folios := { s.folios with waits := s.folios.waits.filter (fun x => x != w) } }
  let s := match w.id with | some id => supply s id word.toNat .clean n | none => s
  if w.cq then { s with folios := { s.folios with post := s.folios.post ++ [(s.clock + n, word)] } } else s

/-- A pin's deadline has passed, or its recall finds no frame: the degraded frame is built, or the pin is withdrawn with code 3
(R360). -/
def pinDegrade (s : State) (w : PinWait) : State :=
  (degrade s w.name).getD
    (endPin (setFolio s w.name (fun f => { f with names := f.names.map (fun p => if p.1 == w.name then (p.1, p.2 - 1) else p) })) w (pinWord 3 w.tag false) 30)

/-- Look at one waiting pin (R360). -/
def pinTick (s : State) (w : PinWait) : State :=
  match folioNamed s w.name with
  | none => endPin s w (pinWord 2 w.tag false) 30
  | some f =>
    if f.state == 1 && f.ready ≤ s.clock then endPin s w (pinWord 0 w.tag false) 1600
    else if f.state == 5 then (if f.ready ≤ s.clock + 1 then endPin (deliver s) w (pinWord 0 w.tag true) 30 else s)
    else if (w.deadline.map (fun d => decide (d ≤ s.clock))).getD false && (f.state == 2 || f.state == 3) then pinDegrade s w
    else if f.state == 2 && f.ready ≤ s.clock then (startRecall s w.name).getD (pinDegrade s w)
    else s

/-- The first completion word that waits is posted when its clock has come and the queue has room (R244, R360). -/
def folioPost (s : State) : State :=
  match s.folios.post with
  | (c, w) :: r => if decide (c ≤ s.clock) && canPost s then pushCompletion { s with folios := { s.folios with post := r } } w else s
  | [] => s

/-- One clock of the folio manager (R349, R351, R357, R360). -/
def folioTick (s : State) : State :=
  if s.folios.folios.isEmpty && s.folios.post.isEmpty && s.folios.frees.isEmpty && s.folios.waits.isEmpty && s.folios.results.isEmpty then s
  else
    let due := s.folios.folios.filter (fun f => decide (f.ready ≤ s.clock))
    let s := due.foldl (fun s f =>
      let name := (f.names.head?.map (·.1)).getD 0
      if f.state == 3 then finishRecall s name
      else if f.state == 4 then setFolio s name (fun f => { f with state := 2 })
      else s) s
    let s := s.folios.waits.foldl pinTick s
    let s := s.folios.frees.foldl (fun s p =>
      if s.folios.touched.any (fun t => t.2 == p.2) then s
      else
        let s := dropName { s with folios := { s.folios with frees := s.folios.frees.filter (fun q => q != p) } } p.2
        match p.1 with | some id => supply s id 0 .clean (max 1 (p.2 / 2 ^ 48 + 29 - s.clock)) | none => s) s
    let s := (s.folios.folios.filter (fun f => f.state == 5)).foldl (fun s f => undegrade s ((f.names.head?.map (·.1)).getD 0)) s
    folioPost { s with folios := { s.folios with results := s.folios.results.filter (fun r => decide (s.clock < r.2)) } }

/-! ### The FO syllables -/

/-- The name that a register's value gives (R352). -/
def nameOf (v : Word) : Nat := bits v.toNat 63 16

/-- A result of the manager for a name, `n` clocks after issue at the earliest (R362). -/
def folioResult (s : State) (name : Nat) (d : XReg) (v : Nat) (n : Nat) : Eff :=
  .done { pendX s d (BitVec.ofNat 64 v) .clean n with folios := { s.folios with results := (name, s.clock + n) :: s.folios.results } }

def execFoalloc (d a : XReg) (s : State) := syl (.foalloc d a) s (fun s => guardPush s d (
  let name := nameOf (readX s a)
  let s := spoil s
  if !folioOn s then folioResult s name d 9 600
  else if (folioNamed s name).isSome then folioResult s name d 1 600
  else
    match writableFrame s with
    | none => folioResult s name d 3 600
    | some (s, f, more) =>
      let s := putFrame s f ((List.range 2048).map (fun _ => (0, false)))
      let s := { s with folios := { s.folios with folios := s.folios.folios ++
        [{ names := [(name, 0)], state := 1, frame := f, lastUse := s.clock, ready := s.clock + 600 + more }] } }
      folioResult s name d 0 (600 + more)))

def execFoshare (d a b : XReg) (s : State) := syl (.foshare d a b) s (fun s => guardPush s d (
  let old := nameOf (readX s a)
  let new := nameOf (readX s b)
  let s := spoil s
  if !folioOn s then folioResult s old d 9 30
  else
    match folioNamed s old with
    | none => folioResult s old d 2 30
    | some f =>
      if (folioNamed s new).isSome then folioResult s old d 1 30
      else if 65535 ≤ shareCount f then folioResult s old d 7 30
      else folioResult (setFolio s old (fun f => { f with names := f.names ++ [(new, 0)] })) old d 0 30))

def execFofree (d a : XReg) (s : State) := syl (.fofree d a) s (fun s => guardPush s d (
  let name := nameOf (readX s a)
  let s := spoil s
  if !folioOn s then folioResult s name d 9 30
  else
    match folioNamed s name with
    | none => folioResult s name d 2 30
    | some f =>
      if pinOf f name != 0 then folioResult s name d 4 30
      else if shareCount f == 1 && hasFrame f && frameStaged s f.frame then folioResult s name d 8 30
      else if s.folios.touched.any (fun t => t.2 == name) then
        let gone := goneName s name
        let s := setFolio s name (fun f => { f with names := f.names.map (fun p => if p.1 == name then (gone, p.2) else p) })
        let s := { s with folios := { s.folios with touched := s.folios.touched.map (fun t => if t.2 == name then (t.1, gone) else t) } }
        match lateDest s d with
        | (s, some dst) =>
          let r := pend s dst none .clean none
          .done { r.1 with folios := { r.1.folios with frees := r.1.folios.frees ++ [(some r.2, gone)] } }
        | (s, none) => .done { s with folios := { s.folios with frees := s.folios.frees ++ [(none, gone)] } }
      else folioResult (dropName s name) name d 0 30))

/-- The state word of a name (R358). -/
def lookWord (s : State) (name : Nat) : Nat :=
  match folioNamed s name with
  | none => 0
  | some f =>
    (if hasFrame f || f.state == 4 then (if f.state == 3 then 0 else f.frame) * 2 ^ 32 else 0) + shareCount f * 2 ^ 16 + pinOf f name * 2 ^ 8 +
    8 * b2n (hasFrame f && frameStaged s f.frame) + f.state

def execFolook (d a : XReg) (s : State) := syl (.folook d a) s (fun s => guardPush s d (
  folioResult s (nameOf (readX s a)) d (if folioOn s then lookWord s (nameOf (readX s a)) else 0) 20))

/-- `FOPIN` (R360). It raises no trap (R364): bits `[47:32]` of the deadline word, which R360 gives as zero, are not looked at
(DEDUCED, log entry 109). -/
def execFopin (d a b : XReg) (q : Bool) (s : State) := syl (.fopin d a b q) s (fun s => guardPush s d (
  let name := nameOf (readX s a)
  let w := (readX s b).toNat
  let tag := bits w 63 48
  let s := spoil s
  let finish (s : State) (code n : Nat) (deg : Bool) : Eff :=
    let word := pinWord code tag deg
    let s := if deg then deliver s else s
    let s := if q then { s with folios := { s.folios with post := s.folios.post ++ [(s.clock + n, word)] } } else s
    folioResult s name d word.toNat n
  if !folioOn s then finish s 9 30 false
  else
      match folioNamed s name with
      | none => finish s 2 30 false
      | some f =>
        if pinOf f name == 255 then finish s 5 30 false
        else
          let s := setFolio s name (fun f => { f with lastUse := s.clock, names := f.names.map (fun p => if p.1 == name then (p.1, p.2 + 1) else p) })
          if f.state == 1 then finish s 0 (max 30 (f.ready - s.clock)) false
          else if f.state == 5 then finish s 0 (30 + (f.ready - s.clock)) true
          else
            let s := if f.state == 2 && f.ready ≤ s.clock then (startRecall s name).getD s else s
            let failed := f.state == 2 && ((folioNamed s name).map (fun g => g.state == 2)).getD false && f.ready ≤ s.clock
            let dl := if failed then some s.clock else if bits w 31 0 == 0 then none else some (s.clock + bits w 31 0)
            match lateDest s d with
            | (s, some dst) =>
              let r := pend s dst none .clean none
              .done { r.1 with folios := { r.1.folios with waits := r.1.folios.waits ++ [⟨some r.2, name, dl, tag, q, s.clock⟩] } }
            | (s, none) => .done { s with folios := { s.folios with waits := s.folios.waits ++ [⟨none, name, dl, tag, q, s.clock⟩] } }))

def execFounpin (d a : XReg) (s : State) := syl (.founpin d a) s (fun s => guardPush s d (
  let name := nameOf (readX s a)
  let s := spoil s
  if !folioOn s then folioResult s name d 9 20
  else
    match folioNamed s name with
    | none => folioResult s name d 2 20
    | some f =>
      if pinOf f name == 0 then folioResult s name d 6 20
      else folioResult (undegrade (setFolio s name (fun f => { f with names := f.names.map (fun p => if p.1 == name then (p.1, p.2 - 1) else p) })) name) name d 0 20))

/-- The count that a `FOPOOL` selector names (R359). -/
def poolCount (s : State) (sel : Nat) : Nat :=
  if sel == 0 then frameCount s - (usedFrames s).length
  else if sel == 1 then frameCount s
  else if sel == 2 then (s.folios.folios.filter (fun f => f.state == 2)).length
  else if sel == 3 then farCount s - (usedSlots s).length
  else if sel == 4 then s.folios.evictions
  else if sel == 5 then s.folios.degraded
  else s.folios.splits

def execFopool (d a : XReg) (s : State) := syl (.fopool d a) s (fun s =>
  let v := readX s a
  if 6 < v.toNat then .trap s .illegalEncoding (0x40 + s.core.idx) v
  else guardPush s d (.done (pendX s d (BitVec.ofNat 64 (if folioOn s then poolCount s v.toNat else 0)) .clean 20)))

end Sys2Proof.Machine
end

