-- ==== Sys2Proof/Machine/Hub.lean ====
section
/-!
DEFINITION. The hub registers (R4, R79, R80, R128, R129, R148, R265, R297, R298, R300, R346, R365, R380, R405,
R407 to R409, R424 to R426), and host memory (R139, R159, R425).
-/
namespace Sys2Proof.Machine

/-! ### Format ranges and bitwise regions -/

/-- Whether two page intervals share a page. -/
def pagesMeet (a b c d : Nat) : Bool := decide (a ≤ d) && decide (c ≤ b)

def bwAddr (h n r : Nat) : Nat := 0x4001000000 + h * 0x1000 + 0x400 + n * 0x20 + r
def bwOn (s : State) (h n : Nat) : Bool := bit (hubNat s (bwAddr h n 0)) 0
def bwBase (s : State) (h n : Nat) : Nat := bits (hubNat s (bwAddr h n 8)) 47 12
def bwLimit (s : State) (h n : Nat) : Nat := bits (hubNat s (bwAddr h n 0x10)) 47 12

/-- The legal storage formats of a range (R79). -/
def frFormatOk (f : Nat) : Bool := f == 2 || f == 3 || f == 6 || f == 7 || f == 12

/-- A write of `EN` = 1 to a format range: enabled, or refused with `ERR` (R80). -/
def frEnable (s : State) (h n : Nat) : State :=
  let a := frAddr h n 0
  let r := formatRange s h n
  let bad := !frFormatOk r.fmt || decide (r.blockLog < 5) || decide (12 < r.blockLog) || decide (r.vlimit < r.vbase) ||
    (List.range 16).any (fun m => m != n && frEnabled s h m &&
      pagesMeet r.vbase r.vlimit (formatRange s h m).vbase (formatRange s h m).vlimit) ||
    (List.range 8).any (fun m => bwOn s h m && pagesMeet r.vbase r.vlimit (bwBase s h m) (bwLimit s h m))
  hubSet s a (BitVec.ofNat 64 (setBits (hubNat s a) 1 0 (if bad then 2 else 1)))

/-- A write of `EN` = 0 to an enabled range starts its flush (R80). -/
def frDisable (s : State) (h n : Nat) : State :=
  if frEnabled s h n then { s with sys := { s.sys with flushing := insertKey (16 * h + n) s.sys.flushing } } else s

/-- The flush of a range: every MSC line of the span homed on its stack is written back and invalidated, and
`EN` reads 0 (R80). -/
def frFlushed (s : State) (h n : Nat) : State :=
  if !s.sys.flushing.contains (16 * h + n) then s
  else
    let r := formatRange s h n
    let mine := s.sys.mscLines.filter (fun l => stackOf s (l.line * 128) == h && decide (r.vbase ≤ l.line / 32) && decide (l.line / 32 ≤ r.vlimit))
    let s := mine.foldl (fun s l => mscFlush s l.line) s
    let a := frAddr h n 0
    let s := hubSet s a (BitVec.ofNat 64 (setBits (hubNat s a) 0 0 0))
    { s with sys := { s.sys with flushing := eraseKey (16 * h + n) s.sys.flushing } }

/-- A bitwise step on a row of a region is in progress (R265). -/
def bwInUse (s : State) (h n : Nat) : Bool :=
  s.rows.ports.any (fun p => match p.2.queue with
    | o :: _ => stepGoing s o && decide (15 ≤ o.op) && o.runs.any (fun r =>
        stackOf s r.1 == h && decide (bwBase s h n ≤ r.1 / 4096) && decide (r.1 / 4096 ≤ bwLimit s h n))
    | [] => false)

/-- A write of `EN` = 1 to a bitwise region (R265). -/
def bwEnable (s : State) (h n : Nat) : State :=
  let a := bwAddr h n 0
  let bad := decide (bwLimit s h n < bwBase s h n) || (List.range 16).any (fun m => frEnabled s h m &&
    pagesMeet (bwBase s h n) (bwLimit s h n) (formatRange s h m).vbase (formatRange s h m).vlimit)
  hubSet s a (if bad then 2 else 1)

def bwOff (s : State) (h n : Nat) : State := hubSet s (bwAddr h n 0) (BitVec.ofNat 64 (setBits (hubNat s (bwAddr h n 0)) 0 0 0))
def bwLeaving (s : State) (h n : Nat) : Bool := s.rows.disabling.contains (8 * h + n)
/-- A write of `EN` = 0 to a bitwise region waits until the steps in progress on it end; those that start after it find
it disabled (R265). -/
def bwDisable (s : State) (h n : Nat) : State :=
  if bwInUse s h n then { s with rows := { s.rows with disabling := insertKey (8 * h + n) s.rows.disabling } } else bwOff s h n
/-- A write of `EN` = 1 while `EN` reads 1: one behind a write of `EN` = 0 that still waits takes that back. -/
def bwStay (s : State) (h n : Nat) : State := { s with rows := { s.rows with disabling := eraseKey (8 * h + n) s.rows.disabling } }
/-- Writes of `EN` = 0 whose steps have ended take effect (R265). -/
def bwSettle (s : State) : State :=
  s.rows.disabling.foldl (fun s k => if bwInUse s (k / 8) (k % 8) then s else bwOff (bwStay s (k / 8) (k % 8)) (k / 8) (k % 8)) s

/-- A store to the first block (R79, R80, R265). While `EN` = 1, R80's rule that writes to other fields are ignored goes
before R79's that a write of `FRSAT` clears it, and a write of `EN` = 1 during a flush, while `EN` still reads 1, has no
effect: neither is stated (DESIGN CHOICE, log entry 102). -/
def formatStore (s : State) (a : Nat) (v : Word) : State :=
  let h := (a - 0x4001000000) / 0x1000
  let o := a % 0x1000
  if 12 ≤ h then s
  else if o < 0x400 then
    let n := o / 0x40
    let r := o % 0x40
    let on := frEnabled s h n
    if r == 0 then
      let s := if on then s else hubSet s a (BitVec.ofNat 64 (setBits (hubNat s a) 15 4 (bits v.toNat 15 4)))
      if bit v.toNat 0 then (if on then s else frEnable s h n) else frDisable s h n
    else if on then s
    else if r == 0x28 then hubSet s a 0
    else if r == 8 || r == 0x10 then hubSet s a (v &&& 0x0000FFFFFFFFF000)
    else if r == 0x18 then hubSet s a (v &&& 0x0000FFFFFFFFFF80)
    else if r == 0x20 then hubSet s a (v &&& 0x0000FFFFFFFFFFE0)
    else s
  else if o < 0x500 then
    let n := (o - 0x400) / 0x20
    let r := o % 0x20
    if r == 0 then (if bit v.toNat 0 then (if bwOn s h n then bwStay s h n else bwEnable s h n) else bwDisable s h n)
    else if (r == 8 || r == 0x10) && !bwOn s h n then hubSet s a (v &&& 0x0000FFFFFFFFF000)
    else s
  else s

/-! ### MSC partitions -/

/-- `MSCPART` of a slice (R128). -/
def mscpartWord (s : State) (k : Nat) : Word :=
  let p := sliceGet s k
  BitVec.ofNat 64 (p.ways + p.cur * 2 ^ 8 + b2n p.busy * 2 ^ 16 + b2n p.err * 2 ^ 17 + p.wbLines * 2 ^ 24)

/-- Ways of a set that hold staged lines. -/
def moveStaged (s : State) (k n : Nat) (acc : State × Nat) (line : Nat) : State × Nat :=
  let s' := acc.1
  let set := setOf (line * 128)
  let used := stagedWays s' k set
  match (List.range (16 - n)).find? (fun w => !used.contains w) with
  | none => acc
  | some w =>
    let victim := s'.sys.mscLines.find? (fun l => homeSlice s (l.line * 128) == k && setOf (l.line * 128) == set && l.way == w)
    let dirty := match victim with | some l => b2n (l.dirty != 0) | none => 0
    let s' := match victim with | some l => mscFlush s' l.line | none => s'
    ({ s' with sys := { s'.sys with staged := s'.sys.staged.map (fun t => if t.sector / 4 == line then { t with way := some w } else t) } }, acc.2 + dirty)

/-- The scan of one set by a grow (R129): ways 16 - n and up are emptied, their staged lines moved. It answers the lines
written back. -/
def growScan (s : State) (k n set : Nat) : State × Nat :=
  let cur := (sliceGet s k).cur
  let inWays (w : Nat) : Bool := decide (16 - n ≤ w) && decide (w < 16 - cur)
  let here (line : Nat) : Bool := homeSlice s (line * 128) == k && setOf (line * 128) == set
  let lines := s.sys.mscLines.filter (fun l => here l.line && inWays l.way)
  let r := lines.foldl (fun acc l => (mscFlush acc.1 l.line, acc.2 + b2n (l.dirty != 0))) (s, 0)
  let staged := ((s.sys.staged.filter (fun t => here (t.sector / 4) && (t.way.map inWays).getD false)).map (fun t => t.sector / 4)).eraseDups
  staged.foldl (moveStaged s k n) r

/-- The bytes of a scratchpad window from way j up (R129). -/
def scratchClear (s : State) (k from_ upto : Nat) : State :=
  { s with oc := s.oc.clear (0x3000000000 + k * 0x1000000 + from_ * 2 ^ 20) ((upto - from_) * 2 ^ 20) }

/-- The scan of a grow enters a set: one clock, and 4 for each line written back (R129). -/
def mscScanSet (s : State) (k set : Nat) : State :=
  let r := growScan s k (sliceGet s k).ways set
  sliceSet r.1 k { sliceGet r.1 k with scan := set, leaves := s.clock + 1 + 4 * r.2, found := (sliceGet r.1 k).found + r.2 }

/-- A grow begins (R129). -/
def mscGrow (s : State) (k n : Nat) : State :=
  mscScanSet (sliceSet s k { sliceGet s k with ways := n, busy := true, err := false, found := 0 }) k 0

/-- The grow ends (R129): the new ways read zero, `WBLINES` holds the lines written back. -/
def mscGrowDone (s : State) (k : Nat) : State :=
  let p := sliceGet s k
  if !p.busy then s
  else sliceSet (scratchClear s k p.cur p.ways) k { p with cur := p.ways, busy := false, wbLines := p.found }

/-- One clock of a slice's grow (R129): the scan leaves a set for the next one, or ends behind the last. -/
def mscGrowClock (s : State) (k : Nat) : State :=
  let p := sliceGet s k
  if !p.busy || decide (s.clock < p.leaves) then s
  else if p.scan == 8191 then mscGrowDone s k
  else mscScanSet s k (p.scan + 1)

/-- A shrink (R129). -/
def mscShrink (s : State) (k n : Nat) : State :=
  let p := sliceGet s k
  sliceSet (scratchClear s k n p.cur) k { p with ways := n, cur := n, wbLines := 0, err := false }

/-- A write of `MSCPART` (R129). -/
def mscpartStore (s : State) (k : Nat) (v : Word) : State :=
  let p := sliceGet s k
  let n := bits v.toNat 4 0
  if p.busy || decide (12 < n) then sliceSet s k { p with err := true }
  else if n == p.cur then sliceSet s k { p with err := false }
  else if p.cur < n then mscGrow s k n
  else mscShrink s k n

/-! ### Coherence -/

/-- A write of `COHCTL` (R148). -/
def cohctlStore (s : State) (v : Word) : State :=
  let a := 0x4003000000
  let n := bits v.toNat 15 0
  let old := hubNat s a
  if n < 8 || 1024 < n then hubSet s a (BitVec.ofNat 64 (setBits old 16 16 1))
  else hubSet s a (BitVec.ofNat 64 (setBits (setBits old 16 16 0) 15 0 n))

/-! ### The Tether units -/

/-- A write of `LINJCTL` (R297, R299). -/
def linjStore (s : State) (dim : Nat) (v : Word) : State :=
  let a := unitBase dim + 0x10
  let v := v.toNat
  let act := if bits v 62 61 == 3 then 0 else bits v 62 61
  let fired := if bit v 63 then 0 else b2n (bit (hubNat s a) 60)
  hubSet s a (BitVec.ofNat 64 (b2n (bit v 63) * 2 ^ 63 + act * 2 ^ 61 + fired * 2 ^ 60 + bits v 37 32 * 2 ^ 32 + bits v 31 0))

def tetherStore (s : State) (a : Nat) (v : Word) : State :=
  let d := (a - 0x4004000000) / 0x10000
  let o := a % 0x10000
  if 3 ≤ d then s
  else if o == 0 then
    let n := bits v.toNat 4 0
    hubSet s a (if n == 0 || 16 < n then 16 else BitVec.ofNat 64 n)
  else if o == 0x10 then linjStore s d v
  else if o == 0x18 then hubSet s a (v &&& 0xFFFF)
  else if o == 0x20 then
    tutblStore s d v
  else s

/-! ### The distributor -/

def distStore (s : State) (a : Nat) (v : Word) : State :=
  let o := a % 0x1000000
  if o < 0x80 && o % 8 == 0 then hubSet s a (v &&& 0xF)
  else if o == 0x100 then submitDoor s v
  else if o == 0x110 then hubSet s a (v &&& 0x00FFFFFFFFFFFFFC)
  else if 0x140 ≤ o && o < 0x180 && o % 8 == 0 then
    (if s.dist.launches.any (fun l => l.state == 1) then s else hubSet s a (v &&& 0x0000FFFFFC000001))
  else s

/-- `DSTAT` (R380). -/
def dstatWord (s : State) : Word :=
  let n (k : Nat) : Nat := (s.dist.launches.filter (fun l => l.state == k)).length
  BitVec.ofNat 64 (n 0 * 2 ^ 16 + n 1)

/-! ### The folio manager -/

/-- The host windows with `FOLIO` = 1 cover pages `p` to `q` (R346, R425), as `wins` gives them. -/
def folioCovers (s : State) (q : Nat) : (fuel : Nat) → (p : Nat) → Bool
  | 0, _ => false
  | fuel + 1, p =>
    if q < p then true
    else
      let w (n r : Nat) : Nat := hubNat s (0x4009000000 + 0x20 * n + r)
      match (List.range 8).find? (fun n =>
        let c := w n 0x10
        bit c 0 && bit c 3 && bit c 2 && bit c 1 && decide (bits (w n 0) 51 12 ≤ p) && decide (p ≤ bits (w n 8) 51 12)) with
      | some n => folioCovers s q fuel (bits (w n 8) 51 12 + 1)
      | none => false

/-- A write of `EN` = 1 to `FMCTL` (R346). -/
def folioEnable (s : State) : State :=
  let n := frameCount s
  let k := farCount s
  let lo := frameDpa s 0
  let sl := shadowDpa s 0
  let bad := n == 0 || decide (dpaEnd s < lo + n * 65536) || decide (dpaEnd s < sl + k * 16640) ||
    (k != 0 && decide (lo < sl + k * 16640) && decide (sl < lo + n * 65536)) ||
    (k != 0 && !folioCovers s ((farHost s 0 + k * 65536 - 1) / 4096) 9 (farHost s 0 / 4096))
  hubSet s fmBase (BitVec.ofNat 64 (setBits (hubNat s fmBase) 1 0 (if bad then 2 else 1)))

/-- A write of `EN` = 0 to `FMCTL` (R346): refused while a folio is allocated. `ERR` tells of the last write. -/
def folioDisable (s : State) : State :=
  hubSet s fmBase (BitVec.ofNat 64 (setBits (hubNat s fmBase) 1 0 (if !folioOn s || s.folios.folios.isEmpty then 0 else 3)))

def folioStore (s : State) (a : Nat) (v : Word) : State :=
  let o := a % 0x1000000
  if o == 0 then (if bit v.toNat 0 then (if folioOn s then hubSet s fmBase (BitVec.ofNat 64 (setBits (hubNat s fmBase) 1 1 0)) else folioEnable s) else folioDisable s)
  else if folioOn s then s
  else if o == 8 then hubSet s a (v &&& 0x0000FFFFFFFF0000)
  else if o == 0x10 || o == 0x28 then hubSet s a (v &&& 0xFFFFFF)
  else if o == 0x18 then hubSet s a (v &&& 0x0000FFFFFFFFFF80)
  else if o == 0x20 then hubSet s a (v &&& 0x000FFFFFFFFF0000)
  else s

/-! ### The debug unit -/

def dbgctl : Nat := 0x4007000000
/-- Whether `DBGCTL`'s scope and target take in core 0 (R407). -/
def dbgTargets (w : Nat) : Bool :=
  if bits w 39 36 == 1 then bits w 35 27 == 0 else if bits w 39 36 == 3 then bits w 29 27 == 0 else true

/-- Release a halted core as `RFT` would resume it (R408). One without a task becomes idle, and after a step halts again. -/
def releaseCore (s : State) (once : Bool) : State :=
  match s.core.run with
  | .halted _ =>
    if s.core.task.isNone then onCore s (fun c => { c with run := if once then .halted 4 else .idle })
    else
      let w := s.core.sw
      let s := onCore s (fun c => { c with run := .running, stepOnce := once, sw := { c.sw with srfv := false } })
      resumeAt s s.core.trapPc w.srfv w.srf.val 0
  | _ => s

/-- Ask for a halt (R401, R408); a core without a task halts at once. -/
def askHalt (s : State) : State :=
  match s.core.run with
  | .halted _ => s
  | .idle => onCore s (fun c => { c with run := .halted 0 })
  | .running => onCore s (fun c => { c with haltAsked := true })

/-- A write of `DBGCTL` (R407, R408). -/
def dbgctlStore (s : State) (v : Word) : State :=
  let v := v.toNat
  let sc := if bits v 39 36 == 1 || bits v 39 36 == 3 || bits v 39 36 == 4 then bits v 39 36 else 1
  let w := sc * 2 ^ 36 + bits v 35 27 * 2 ^ 27 + bits v 1 0
  let s := hubSet s dbgctl (BitVec.ofNat 64 w)
  if !dbgTargets w then s
  else
    let wide := sc != 1
    let s := if bit v 2 then askHalt { s with dist := { s.dist with frozen := s.dist.frozen || wide } } else s
    let s := if bit v 3 then releaseCore { s with dist := { s.dist with frozen := s.dist.frozen && !wide } } false else s
    if bit v 4 then releaseCore s true else s

/-- The state of the core's LS layer now: an engine access wakes a sleeping one for 200 clocks (R409, R420). -/
def lsState (s : State) : Nat := if s.clock < s.core.lsWake then 0 else s.core.lsLayer.val

/-- `DBGSTAT` of the target core (R407, R409); only core 0 is modelled (DESIGN CHOICE, log entry 1). -/
def dbgstatWord (s : State) : Word :=
  if bits (hubNat s dbgctl) 35 27 != 0 then 0
  else
    let h := match s.core.run with | .halted w => 1 + 2 * w.val | _ => 0
    BitVec.ofNat 64 (s.core.bLayer.val * 2 ^ 6 + lsState s * 2 ^ 4 + h)

/-- A load of a hub register; a read of `TUEVT` takes the event (R297). -/
def hubLoad (s : State) (a : Nat) : State × Word :=
  if 0x4002000000 ≤ a ∧ a < 0x4003000000 then
    let d := (a - 0x4002000000) / 0x1000
    (s, if d < 8 ∧ a % 0x100 = 0 then mscpartWord s (16 * d + a % 0x1000 / 0x100) else 0)
  else if a == 0x4004000008 then takeEvent s 0
  else if a == 0x4004010008 then takeEvent s 1
  else if a == 0x4004020008 then takeEvent s 2
  else if a == 0x4005000108 then (s, dstatWord s)
  else if a == 0x4007000008 then (s, dbgstatWord s)
  else if a == 0x4007000018 then (s, s.dbgLast)
  else if a == 0x4007000020 then (s, BitVec.ofNat 64 (4 * b2n s.dbg.isSome + s.dbgStatus))
  else (s, hubGet s a)

/-- The layer state that a debugger read meets: the B store's, or that of LS and ACC; 0 for every other place (R409). -/
def readLayer (s : State) (sel addr : Nat) : Nat :=
  if sel == 1 then s.core.bLayer.val
  else match windowAt addr with
    | some (.ls _ _) | some (.acc _ _) => lsState s
    | _ => 0

/-- What a debugger read comes to now: its status, and the data where that is 0 (R408, R409). A hub register reads as a load of it
does. -/
def debugData (s : State) (sel addr : Nat) : State × Nat × Word :=
  let word := BitVec.ofNat 64 (s.oc.readNat addr 8)
  let quiet (w : Word) : State × Nat × Word := if coreQuiet s 0 then (s, 0, w) else (s, 2, 0)
  if sel == 1 then (if bits addr 30 22 != 0 then (s, 3, 0) else quiet (BitVec.ofNat 64 (s.core.mx.bstore.readNat (bits addr 21 0) 8)))
  else
    match windowAt addr with
    | none => (s, 3, 0)
    | some w =>
      if !w.on s then (s, 3, 0)
      else
        match w with
        | .ls _ _ | .acc _ _ => quiet word
        | .vr _ o => quiet (BitVec.ofNat 64 (leNat (vregsRead s.core o 8)))
        | .reg _ o => quiet (BitVec.ofNat 64 (leNat ((List.range 8).map (fun i => regByte s.core (o + i)))))
        | .apert _ o => (s, 0, apertureWord s (o / 8))
        | .block _ o => (s, 0, eregGet s (o / 0x200) (o % 0x200 / 8))
        | .hub a => let r := hubLoad s a; (r.1, 0, r.2)
        | .qs .. => (s, 0, word)
        | .scratch k o => if (sliceGet s k).cur * 2 ^ 20 ≤ o then (s, 3, 0) else (s, 0, word)

/-- A debugger read begins (R409): it ends after 40 clocks, or after the 2,000 for which it wakes a sleeping layer; a collapsed
layer gives nothing, and a read of a collapsed B store invalidates every panel. -/
def dbgRead (s : State) (v : Word) : State :=
  let v := v.toNat
  let sel := if 2 ≤ bits v 41 40 then 0 else bits v 41 40
  let addr := bits v 39 0 / 8 * 8
  let s := hubSet s 0x4007000010 (BitVec.ofNat 64 (sel * 2 ^ 40 + bits v 39 0))
  let st := (debugData s sel addr).2.1
  let layer := if st == 0 then readLayer s sel addr else 0
  let s := { s with dbg := some { doneAt := s.clock + (if layer == 1 || layer == 2 then 2000 else 40), sel := sel, addr := addr
                                  status := if layer == 3 then 1 else st } }
  if layer == 3 && sel == 1 then onCore s (fun c => { c with mx := { c.mx with panels := 0, panelPoison := 0 } }) else s

/-- The debugger read under way ends, and gives the data as they are then (R409). -/
def dbgReadDone (s : State) : State :=
  match s.dbg with
  | some r =>
    if s.clock < r.doneAt then s
    else if r.status == 1 then { s with dbg := none, dbgLast := BitVec.allOnes 64, dbgStatus := 1 }
    else if r.status != 0 then { s with dbg := none, dbgLast := 0, dbgStatus := r.status }
    else let d := debugData s r.sel r.addr; { d.1 with dbg := none, dbgLast := d.2.2, dbgStatus := d.2.1 }
  | none => s

def debugStore (s : State) (a : Nat) (v : Word) : State :=
  if a == dbgctl then dbgctlStore s v else if a == 0x4007000010 then dbgRead s v else s

/-! ### Access tables -/

/-- The numbers that name a target (R405). -/
def atTarget (t : Nat) : Bool := t < 12 || (16 ≤ t && t ≤ 150) || t == 160

/-- A store to an access table (R405). -/
def atStore (s : State) (a : Nat) (v : Word) : State :=
  let t := (a - 0x4008000000) / 0x400
  let o := a % 0x400
  let lock := bit (hubNat s (atBase t + 0x3C0)) 1
  if !atTarget t || lock then s
  else if o == 0x3C0 then hubSet s a (v &&& 3)
  else if 0x3C0 ≤ o then s
  else if o % 0x20 == 0 || o % 0x20 == 8 then hubSet s a (v &&& 0x0000FFFFFFFFF000)
  else if o % 0x20 == 0x10 then hubSet s a (v &&& 0xFFFF000701FF01FF)
  else hubSet s a (v &&& 7)

/-! ### The CXL controller -/

/-- A far slot lies in a window of the folio manager (R425). -/
def slotCovered (s : State) (k : Nat) : Bool := folioCovers s ((farHost s k + 65535) / 4096) 9 (farHost s k / 4096)
/-- A write takes some allocated far slot its window while the store is enabled (R425). -/
def uncovers (s t : State) : Bool := folioOn s && (usedSlots s).any (fun k => slotCovered s k && !slotCovered t k)

/-- A write disables or narrows a window or removes a right from it (R425). -/
def narrows (r : Nat) (old v : Nat) : Bool :=
  if r == 0 then decide (old < v) else if r == 8 then decide (v < old)
  else (List.range 3).any (fun i => bit old i && !bit v i) || (!bit old 3 && bit v 3) || (bits old 63 48 != bits v 63 48 && bits v 63 48 != 0xFFFF)
/-- The stores that have been granted and are not yet at the host, up to the last that lies in a window (R425). -/
def storesOwed (s : State) (n : Nat) : Nat :=
  let page (r : Nat) : Nat := bits (hubNat s (0x4009000000 + 0x20 * n + r)) 51 12
  ((s.core.hmOrder.zipIdx).filter (fun w => decide (page 0 ≤ w.1.1 / 4096) && decide (w.1.1 / 4096 ≤ page 8))).foldl (fun m w => max m (w.2 + 1)) 0

/-- A write of a host window's register (R424, R425): it holds for the accesses that come after it, and its completion returns
when those granted before have reached the host. -/
def windowStore (s : State) (n r : Nat) (v : Word) : State :=
  let a := 0x4009000000 + 0x20 * n + r
  let ctl := 0x4009000000 + 0x20 * n + 0x10
  let mask : Word := if r == 0x10 then 0xFFFF00000000000F else 0x000FFFFFFFFFF000
  let t := hubSet s a (v &&& mask)
  let owed := if narrows r (hubNat s a) (v &&& mask).toNat then storesOwed s n else 0
  let answer (s : State) (k : Nat) : State := { s with plat := if k == 0 then { s.plat with ioDone := s.plat.ioDone + 1 } else { s.plat with ioWaits := s.plat.ioWaits ++ [k] } }
  if uncovers s t then answer (hubSet s ctl (hubGet s ctl ||| 0x10)) 0
  else answer (hubSet t ctl (hubGet t ctl &&& ~~~0x10)) owed

/-- A write of `EN` = 1 to `HDMCTL` (R426). -/
def hdmOn (s : State) : State :=
  let base := bits (hubNat s 0x4009000100) 47 30
  let size := bits (hubNat s 0x4009000108) 47 30
  hubSet s 0x4009000110 (if size == 0 || dpaEnd s < (base + size) * 2 ^ 30 then 2 else 1)
def hdmOff (s : State) : State := hubSet s 0x4009000110 (hubGet s 0x4009000110 &&& 2)

/-- A write of 1 to `BRSTAT.REPREQ` clears it (R424, R435). -/
def clearRepreq (s : State) : State := hubSet s brstat (hubGet s brstat &&& ~~~0x100)

/-- A store to `FWUPD` (R431) and to `ATTREQ` (R432); one while busy is ignored. -/
def firmwareStart (s : State) (v : Word) : State :=
  if bit (hubNat s 0x4009000130) 0 then s
  else { hubSet s 0x4009000130 (hubGet s 0x4009000130 ||| 1) with plat := { s.plat with fwAddr := some (bits v.toNat 51 6 * 64) } }
def attestStart (s : State) (v : Word) : State :=
  if bit (hubNat s 0x4009000140) 0 then s
  else { hubSet s 0x4009000140 1 with plat := { s.plat with attAddr := some (bits v.toNat 51 6 * 64) } }

def cxlStore (s : State) (a : Nat) (v : Word) : State :=
  let o := a % 0x1000000
  if o < 0x100 then
    (if o % 0x20 == 0 || o % 0x20 == 8 || o % 0x20 == 0x10 then windowStore s (o / 0x20) (o % 0x20) v else s)
  else if o == 0x100 || o == 0x108 then
    (if bit (hubNat s 0x4009000110) 0 then s else hubSet s a (v &&& 0x0000FFFFC0000000))
  else if o == 0x110 then (if bit v.toNat 0 then (if bit (hubNat s a) 0 then s else hdmOn s) else hdmOff s)
  else if o == 0x118 then (if bit v.toNat 8 then clearRepreq s else s)
  else if o == 0x120 then hubSet s a (BitVec.ofNat 64 (setBits (hubNat s a) 47 32 (max 1000 (min 2800 (bits v.toNat 47 32)))))
  else if o == 0x128 then firmwareStart s v
  else if o == 0x138 then attestStart s v
  else s

/-! ### Loads and stores of hub registers -/

/-- A store to a hub register: its writable fields take it, what it starts begins (R4). -/
def hubStore (s : State) (a : Nat) (v : Word) : State :=
  if a < 0x4002000000 then formatStore s a v
  else if a < 0x4003000000 then
    (let d := (a - 0x4002000000) / 0x1000
     if d < 8 ∧ a % 0x100 = 0 then mscpartStore s (16 * d + a % 0x1000 / 0x100) v else s)
  else if a == 0x4003000000 then cohctlStore s v
  else if a < 0x4004000000 then s
  else if a < 0x4005000000 then tetherStore s a v
  else if a < 0x4006000000 then distStore s a v
  else if a < 0x4007000000 then folioStore s a v
  else if a < 0x4008000000 then debugStore s a v
  else if a < 0x4009000000 then atStore s a v
  else cxlStore s a v

/-! ### Host memory -/

/-- The check of an HM access (R116, R425, R406). -/
def hmCheck (s : State) (lnum : Nat) (q : Requester) (a : Int) (n : Nat) (need : Need) : Acc Place :=
  let addr := (toWord a).toNat
  if a < 0 ∨ (2 ^ 52 : Int) < a + n then .fault s .accessDenied 0 addr
  else
    match hostGranted s lnum a.toNat n q need.rd need.wr with
    | 0 => .ok s (.host a.toNat)
    | 1 => .fault s .accessDenied 0 addr
    | _ => .fault s .accessDenied 1 addr

/-- Host memory as the core reads it: its own stores not yet visible lie over it (R159). -/
def hostView (s : State) : Mem := s.core.hmOrder.foldl (fun (m : Mem) w => m.store w.1 w.2.1 w.2.2) s.sys.host
def hostRead (s : State) (a n : Nat) : List Byte := (hostView s).read a n
def hostPoisoned (s : State) (a n : Nat) : Bool := (hostView s).poisoned a n

/-- A store to host memory: a core's waits in order to become visible (R159), an engine's is performed. -/
def hostWrite (s : State) (a : Nat) (bs : List Byte) (poison engine : Bool) : State :=
  if engine then { s with sys := { s.sys with host := s.sys.host.store a bs poison } }
  else onCore s (fun c => { c with hmOrder := c.hmOrder ++ [(a, bs, poison)] })

/-- The oldest HM store of the core becomes visible to the host (R159). -/
def hostComplete (s : State) : State :=
  match s.core.hmOrder with
  | [] => s
  | w :: r =>
    let s := onCore { s with sys := { s.sys with host := s.sys.host.store w.1 w.2.1 w.2.2 } } (fun c => { c with hmOrder := r })
    { s with plat := { s.plat with ioWaits := (s.plat.ioWaits.filter (fun k => decide (1 < k))).map (· - 1)
                                   ioDone := s.plat.ioDone + (s.plat.ioWaits.filter (fun k => decide (k ≤ 1))).length } }

end Sys2Proof.Machine
end

