-- ==== Sys2Proof/Machine/Access.lean ====
section
/-!
DEFINITION. The checks of an access to any space, for the core and for an engine, and reading and writing
the bytes of a checked access (R116, R120, R121, R134, R138, R139, R147, R151).
-/
namespace Sys2Proof.Machine

/-- The check of a core access of `n` bytes at address `a` of a space (R137): R117, R118, R120, R121, R134 in
that order. A fault on GM reports the access, or when `each` the address in the page that fails (R228). -/
def coreCheck (s : State) (space : Nat) (a : Int) (n : Nat) (need : Need) (each : Bool := false) : Acc Place :=
  match space with
  | 0 => localCheck s lsBase 0x100000 a n need.wr
  | 1 => localCheck s qsBase 0x400000 a n need.wr
  | 2 => ocCheck s { core := true, priv := corePriv s, req := coreReq s } a n need.rd need.wr
  | 3 => gmCheck s a n need each
  | 4 => folioCheck s (coreViewer s) (coreReq s) 0 (toWord a).toNat n need
  | _ => hmCheck s (coreLnum s) (coreReq s) a n need

/-- The check of an engine access of a 32-byte sector (R120, R121, R241, R242): LS and QS are engine-side. -/
def engAccess (s : State) (u : EngUser) (pages : List HeldPage) (space : Nat) (a : Int) (n : Nat) (need : Need) :
    Acc (Place × List HeldPage) :=
  let addr := (toWord a).toNat
  let side (base size : Nat) : Acc (Place × List HeldPage) :=
    if a < 0 ∨ (size : Int) < a + (n : Int) then .fault s .ocUnmapped 0 addr
    else if !ownedByEngine s (base + a.toNat) n then .fault s .ownerViolation 7 addr
    else if need.wr && meetsTag s (base + a.toNat) n then .fault s .barrierClobber 8 addr
    else .ok s (.oc (base + a.toNat), pages)
  match space with
  | 0 => side lsBase 0x100000
  | 1 => side qsBase 0x400000
  | 2 => (ocCheck s { core := false, priv := u.priv, req := u.req } a n need.rd need.wr).bind (fun s p => .ok s (p, pages))
  | 3 =>
    if a < 0 ∨ (2 ^ 56 : Int) ≤ a + n - 1 then .fault s .xlateFault 0 addr
    else
      match engPage s u pages a.toNat need with
      | (s, .page d, pages) =>
        let d := d + a.toNat % 4096
        if !dpaPermits s d n u.req need.rd need.wr then .fault s .accessDenied 1 addr
        else if dpaWaits s d n need.wr then .wait s
        else if need.wr then (settleClash 16 s (u.viewer s) [(d, n)]).bind (fun s _ => .ok s (.gm [(d, n)], pages))
        else .ok s (.gm [(d, n)], pages)
      | (s, .fault c r, _) => .fault s c r addr
      | (s, .moving, _) => .wait s
  | 4 => (folioCheck s (u.viewer s) u.req u.cmd addr n need).bind (fun s p =>
      match p with
      | .gm runs => if need.wr then (settleClash 16 s (u.viewer s) runs).bind (fun s _ => .ok s (p, pages)) else .ok s (p, pages)
      | _ => .ok s (p, pages))
  | _ => (hmCheck s u.lnum u.req a n need).bind (fun s p => .ok s (p, pages))

/-- The timestamps of a core access to on-chip storage (R147). -/
def stampOc (s : State) (a n : Nat) (wr : Bool) : State :=
  (sectorsOf a n).foldl (fun s k => if wr then stampStore s (ocKey (32 * k)) else stampLoad s (ocKey (32 * k))) s

/-- The MSC scratchpad windows (R118). -/
def isScratch (a : Nat) : Bool := decide (0x3000000000 ≤ a) && decide (a < 0x3080000000)
/-- The timestamps of an engine's or the host's write to on-chip storage: package order in MSC scratchpad, hand-offs in
LS and QS (R145, R147, R151). -/
def stampOcEngine (s : State) (a n : Nat) : State :=
  (sectorsOf a n).foldl (fun s k => if isScratch a then stampEngine s (ocKey (32 * k)) else stampSignal s (ocKey (32 * k))) s

/-- The LS banks that `n` bytes at an OC address need (R119). -/
def lsBanks (oc n : Nat) : BitVec 32 :=
  if lsBase ≤ oc ∧ oc < lsBase + 0x100000 then (sectorsOf oc n).foldl (fun m k => m ||| (1#32 <<< (k % 32))) 0 else 0
/-- The core uses LS banks on this clock (R119). -/
def takeLs (s : State) (oc n : Nat) : State :=
  if lsBanks oc n == 0 then s else onCore s (fun c => { c with vu := { c.vu with lsTaken := c.vu.lsTaken ||| lsBanks oc n } })

/-! ### Apertures -/

def setChan (s : State) (k : Nat) (c : Channel) : State := { s with bte := { s.bte with chan := storeAt s.bte.chan k c } }

/-- Accept a command at a channel's tail (R237, R240, R246). -/
def bteAccept (s : State) (k index : Nat) (delta : Int) (armed : Bool) : State :=
  let u := coreUser s
  let c := chanOf s k
  setChan s k { c with queue := c.queue ++ [{ index := index, delta := delta, armed := armed, lnum := u.lnum, node := u.node, tag := u.tag, priv := u.priv, accepted := s.clock }] }

/-- A store to a channel's aperture (R240). -/
def apertureStore (s : State) (k : Nat) (v : Word) : State :=
  bteAccept s k (bits v.toNat 11 0) (sext (bits v.toNat 63 12) 52 * 4096) false

/-! ### Bytes -/

/-- Read runs of GM one after the other. -/
def gmRead (s : State) (runs : List (Nat × Nat)) (v : Viewer) (via : Via) : State × List Byte × Bool :=
  runs.foldl (fun acc r =>
    let q := dpaRead acc.1 r.1 r.2 v via
    (q.1, acc.2.1 ++ q.2.1, acc.2.2 || q.2.2)) (s, [], false)
/-- Write runs of GM one after the other. -/
def gmWrite (s : State) (runs : List (Nat × Nat)) (bs : List Byte) (p : Bool) (v : Viewer) (via : Via) : State :=
  (runs.foldl (fun acc r => (dpaWrite acc.1 r.1 (acc.2.take r.2) p via v, acc.2.drop r.2)) (s, bs)).1

/-- An engine access to a sleeping LS wakes it for 200 clocks (R420). -/
def wakeLs (s : State) (a : Nat) (engine : Bool) : State :=
  if engine && s.core.lsLayer == 2 && decide (lsBase ≤ a) && decide (a < lsBase + 0x200000) then onCore s (fun c => { c with lsWake := s.clock + 200 }) else s

/-- Read the bytes of a checked access: the state, the bytes, and whether some of them are poisoned. -/
def placeRead (s : State) (p : Place) (n : Nat) (engine : Bool) (v : Viewer) : State × List Byte × Bool :=
  match p with
  | .oc a => (if engine then wakeLs s a true else takeLs (stampOc s a n false) a n, s.oc.read a n, s.oc.poisoned a n)
  | .vregs off => (s, vregsRead s.core off n, vregsPoisoned s.core off n)
  | .regs off => (s, (List.range n).map (fun i => regByte s.core (off + i)), false)
  | .aperture k => (s, leBytes n (apertureWord s k).toNat, false)
  | .blocks off => (s, (List.range n).map (fun i => blockByte s (off + i)), false)
  | .hub a =>
    let r := hubLoad (if engine then s else stampLoad s (hubKey a)) a
    (r.1, leBytes n r.2.toNat, false)
  | .gm runs => gmRead s runs v (.ofEngine engine)
  | .host a => (s, hostRead s a n, hostPoisoned s a n)

/-- Write the bytes of a checked access. -/
def placeWrite (s : State) (p : Place) (bs : List Byte) (poison engine : Bool) (v : Viewer) : State :=
  match p with
  | .oc a =>
    let s := wakeLs (if engine then stampOcEngine s a bs.length else takeLs (stampOc s a bs.length true) a bs.length) a engine
    { s with oc := s.oc.store a bs poison }
  | .vregs off => onCore s (fun c => vregsWrite c off bs poison)
  | .regs off => onCore s (fun c => regsWrite c off bs)
  | .aperture k => if engine then s else apertureStore s k (BitVec.ofNat 64 (leNat bs))
  | .blocks off => blockStore s off bs
  | .hub a => hubStore (if engine then stampEngine s (hubKey a) else stampStore s (hubKey a)) a (BitVec.ofNat 64 (leNat bs))
  | .gm runs => gmWrite s runs bs poison v (.ofEngine engine)
  | .host a => hostWrite s a bs poison engine

/-- Write the bytes of a core's atomic: GM at its home slice (R163). -/
def placeAtomic (s : State) (p : Place) (bs : List Byte) (poison : Bool) (v : Viewer) : State :=
  match p with
  | .gm runs => gmWrite s runs bs poison v .atomic
  | p => placeWrite s p bs poison false v

end Sys2Proof.Machine
end

