-- ==== Sys2Proof/Machine/Crossbar.lean ====
section
/-!
DEFINITION. The quad's QS crossbar (R122, R173): requests, the round robin of their grants and what a grant performs;
the order of VX commands (R195).
-/
namespace Sys2Proof.Machine
open Sys2Proof

def onVu (s : State) (f : VecUnit → VecUnit) : State := onCore s (fun c => { c with vu := f c.vu })

/-- The banks that `n` bytes at an OC address of QS need (R122). -/
def bankMask (oc n : Nat) : BitVec 32 := (unitsOf oc n).foldl (fun m u => m ||| (1#32 <<< (u % 32))) 0

/-- The new value of an atomic of `n` bytes, or none when it does not write (R160, R161). -/
def amoNew (u : AmoOp) (n old v swapIn : Nat) : Option Nat :=
  let m := 2 ^ (8 * n)
  match u with
  | .add => some ((old + v) % m)
  | .and => some (old &&& v)
  | .or => some (old ||| v)
  | .xor => some (old ^^^ v)
  | .min => some (if sext old (8 * n) ≤ sext v (8 * n) then old else v)
  | .max => some (if sext old (8 * n) ≤ sext v (8 * n) then v else old)
  | .swap => some v
  | .cas => if old = v then some (swapIn % m) else none

/-- A load that goes to the home for its value takes the home's timestamps (R147). -/
def loadAtHome (s : State) (p : Place) : State :=
  match p with
  | .gm runs => (runs.flatMap (fun r => sectorsOf r.1 r.2)).foldl (fun s k => stampHome s (gmKey (32 * k))) s
  | _ => s

/-- An atomic on a checked place: one access with one timestamp (R147, R161 to R163). It answers the old value and
whether it was poisoned; any value written is then written poisoned. A `cas` that fails is a load: it gives the value of a
leased L2 copy where a load would, with that copy's timestamp. Where the copy holds the value compared with and the home
holds another, the home's value is given (DEDUCED, log entry 119). -/
def atomicAt (s : State) (p : Place) (n : Nat) (op : AmoOp) (v swapIn : Nat) (w : Viewer) : State × Nat × Bool :=
  let l := placeRead s p n false w
  if op == .cas && leNat l.2.1 != v then (l.1, leNat l.2.1, l.2.2)
  else
    let r := placeRead s p n true w
    let old := leNat r.2.1
    match amoNew op n old v swapIn with
    | some new => (placeAtomic r.1 p (leBytes n new) r.2.2 w, old, r.2.2)
    | none => (loadAtHome r.1 p, old, r.2.2)

/-! ### Requests -/

/-- A waiting request of the core meets `n` bytes at an OC address, one of the two writing: program order holds between
them (R146). -/
def meetsWaiting (s : State) (oc n : Nat) (wr : Bool) : Bool :=
  s.core.vu.qs.any (fun q => q.parts.any (fun p => p.2.touches.any (fun t =>
    (wr || t.2.2) && decide (t.1 < oc + n) && decide (oc < t.1 + t.2.1))))

/-- An atomic takes the timestamp of a store, but for a `cas` that will not write (R147); one that stands behind a waiting
access to its bytes counts as one that writes (DEDUCED, log entry 119). -/
def amoWrites (s : State) (oc n : Nat) (op : AmoOp) (v swapIn : Nat) : Bool :=
  meetsWaiting s oc n true || (amoNew op n (s.oc.readNat oc n) v swapIn).isSome

/-- The accesses of a request take their timestamps as it is made, in program order, though its grants come later (R146,
R147). -/
def stampDo (s : State) (d : QsDo) : State :=
  match d with
  | .read us => us.foldl (fun s u => stampOc s u.2.1 u.2.2 false) s
  | .write us _ => us.foldl (fun s u => stampOc s u.1 u.2.length true) s
  | .amo oc n op v w => stampOc s oc n (amoWrites s oc n op v w)
  | .pass | .update .. | .test .. => s

/-- A request joins the core's requests. -/
def askQs (s : State) (q : QsReq) : State := onVu (q.parts.foldl (fun s p => stampDo s p.2) s) (fun u => { u with qs := u.qs ++ [q] })

/-- An identity for a request that supplies no result. -/
def freshId (s : State) : State × Nat := (onCore s (fun c => { c with nextId := c.nextId + 1 }), s.core.nextId)

/-- One more clock on which a request of the core waits (R173). -/
def countWait (s : State) : State :=
  if s.core.vu.counted then s else onVu s (fun u => { u with qwait := u.qwait + 1, counted := true })

/-! ### The round robin (R122) -/

/-- The core's accesses to QS storage in program order, and its permutes: each list waits for its first one. -/
def nextAccess (u : VecUnit) (clock : Nat) : Option QsReq :=
  ((u.qs.find? (fun q => q.kind != .permute && q.kind != .imageLs)).filter (fun q => (q.start.map (fun t => decide (t ≤ clock))).getD false))
def nextPermute (u : VecUnit) (clock : Nat) : Option QsReq :=
  u.qs.find? (fun q => q.kind == .permute && (q.start.map (fun t => decide (t ≤ clock))).getD false)

/-- Who asks for which banks on this clock but the core's scalar access: requester 1 is the core's other accesses, 2 its
permutes and shuffles, from 3 on its engines (DESIGN CHOICE, log entry 100). -/
def otherWants (s : State) : List (Nat × BitVec 32) :=
  let u := s.core.vu
  ((nextAccess u s.clock).toList.map (fun q => (1, (q.parts.head?.map Prod.fst).getD 0))) ++
  ((nextPermute u s.clock).toList.map (fun _ => (2, BitVec.allOnes 32))) ++
  u.asks.map (fun c => (3 + c.1, c.2))

/-- The grants of one clock, in turn from the requester after the one last served: to each that needs no bank already
granted. `got` are those that have been made. -/
def roundRobin (last : Nat) (ws got : List (Nat × BitVec 32)) : List (Nat × BitVec 32) :=
  (ws.filter (fun w => decide (last < w.1)) ++ ws.filter (fun w => decide (w.1 ≤ last))).foldl
    (fun got w => if got.all (fun g => (g.2 &&& w.2) == 0) then got ++ [w] else got) got

/-- A scalar access, requester 0, gets its banks on this clock: its turn comes before those that would take them, and no
access that it must follow waits (R122, R146). -/
def scalarWins (s : State) (oc n : Nat) (wr : Bool) : Bool :=
  !meetsWaiting s oc n wr && (roundRobin s.core.vu.last ((0, bankMask oc n) :: otherWants s) []).any (fun g => g.1 == 0)

/-- A scalar access to QS on its clock (R122): it is performed on the clock of its grant, and holds the core until then. -/
def scalarGrant (s : State) (p : Place) (n : Nat) (wr : Bool) (k : State → Eff) : Eff :=
  match p with
  | .oc oc =>
    if scalarWins s oc n wr then k (onVu s (fun u => { u with scalar := some ⟨oc, n, wr, true⟩ }))
    else .wait (countWait (onVu s (fun u => { u with scalar := some ⟨oc, n, wr, false⟩ })))
  | _ => k s

/-! ### Grants -/

/-- What a request has still to do when it gets a grant: its timestamps were taken as it was made. -/
def performGrant (s : State) (q : QsReq) (d : QsDo) : State × QsReq :=
  match d with
  | .pass => (s, q)
  | .read us =>
    us.foldl (fun acc u =>
      (takeLs acc.1 u.2.1 u.2.2, { acc.2 with
        got := setBits acc.2.got (8 * (u.1 + u.2.2) - 1) (8 * u.1) (s.oc.readNat u.2.1 u.2.2), poison := acc.2.poison || s.oc.poisoned u.2.1 u.2.2 })) (s, q)
  | .write us p => (us.foldl (fun s u => takeLs { s with oc := s.oc.store u.1 u.2 p } u.1 u.2.length) s, q)
  | .amo oc n op v w =>
    let old := s.oc.readNat oc n
    let po := s.oc.poisoned oc n
    (match amoNew op n old v w with | some new => { s with oc := s.oc.store oc (leBytes n new) po } | none => s, { q with got := old, poison := po })
  | .update oc n e => (barrierUpdate s oc n e, { q with got := (barrierAt s oc).phase })
  | .test oc ph => (observe s, { q with got := b2n ((barrierAt s oc).phase != ph) })

/-- VX commands begin one after the other (R195): the first one at clock `t`, each next one when it has finished; a command
that takes the crossbar is the last to begin until it has its last grant, which does not come before the end of its check
(R192). A command holds its queue entry until it has finished (R167). -/
def vxGo : List VxCmd → (s : State) → (t : Nat) → State
  | [], s, t => onVu s (fun u => { u with vxWait := [], vxEnd := t })
  | c :: r, s, t =>
    match c.request with
    | some id => onVu s (fun u => { u with vxWait := r, vxEnd := t, qs := u.qs.map (fun q => if q.id == id then { q with start := some (max (t + 1) q.notBefore) } else q) })
    | none =>
      vxGo r (onCore s (fun k => { k with
        board := k.board.map (fun p => if c.ids.contains p.id then { p with due := some (t + c.clocks) } else p)
        vu := { k.vu with queue := k.vu.queue.map (fun e => if c.ids.contains e.1 then (e.1, some (t + c.clocks)) else e) } })) (t + c.clocks)

/-- A VX command takes the crossbar now or next. -/
def vxOpen (s : State) : Bool := s.core.vu.qs.any (fun q => q.vx && q.start.isSome)

/-- A VX command issues (R195): it begins at once when the one before it has an end. -/
def vxIssue (s : State) (c : VxCmd) : State :=
  if s.core.vu.vxWait.isEmpty && !vxOpen s then vxGo [c] s (max s.clock s.core.vu.vxEnd)
  else onVu s (fun u => { u with vxWait := u.vxWait ++ [c] })

/-- The last grant of a request: its result is known, and the next VX command begins when it has finished (R195). -/
def finishQs (s : State) (q : QsReq) : State :=
  let k : Mark := if q.poison then .poison q.addr else .clean
  let s := onCore s (fun c => { c with board := c.board.map (fun p =>
    if p.id == q.id then (match p.val with
      | some _ => { p with due := some (s.clock + q.after) }
      | none => { p with val := some q.got, mark := k, due := some (s.clock + q.after) }) else p) })
  if q.vx then vxGo s.core.vu.vxWait s (s.clock + q.after) else s

/-- A request gets a grant. -/
def serveQs (s : State) (q : QsReq) : State :=
  match q.parts with
  | [] => s
  | (_, d) :: rest =>
    let r := performGrant s q d
    let q1 := { r.2 with parts := rest }
    if rest.isEmpty then finishQs (onVu r.1 (fun u => { u with qs := u.qs.filter (fun o => o.id != q.id) })) q1
    else onVu r.1 (fun u => { u with qs := u.qs.map (fun o => if o.id == q.id then q1 else o) })

/-! ### A clock of the crossbar -/

/-- The requests of the core that R173 counts, and wait for a grant on this clock: scalar, vector, permute, shuffle, gather
and scatter requests. -/
def qsWaiting (s : State) (got : List (Nat × BitVec 32)) : Bool :=
  let u := s.core.vu
  let counts (q : QsReq) : Bool := (q.kind == .access || q.kind == .gather || q.kind == .permute) && (q.start.map (fun t => decide (t ≤ s.clock))).getD false
  let served (q : QsReq) : Bool :=
    (got.any (fun g => g.1 == 1) && (nextAccess u s.clock).any (fun n => n.id == q.id)) ||
    (got.any (fun g => g.1 == 2) && (nextPermute u s.clock).any (fun n => n.id == q.id))
  u.qs.any (fun q => counts q && !served q) || u.scalar.any (fun r => !r.granted)

/-- The grants of this clock: a scalar access that the core has made has its banks already. -/
def clockGrants (s : State) : List (Nat × BitVec 32) :=
  roundRobin s.core.vu.last (otherWants s) ((s.core.vu.scalar.filter (·.granted)).toList.map (fun r => (0, bankMask r.oc r.n)))

/-- The end of a clock in the crossbar, when all that the core has asked for on it is known (R122, R173), and the next plane
of an image in LS (R210). -/
def grantQs (s : State) : State :=
  let ls := s.core.vu.qs.find? (fun q => q.kind == .imageLs && (q.start.map (fun t => decide (t ≤ s.clock))).getD false)
  let a := nextAccess s.core.vu s.clock
  let p := nextPermute s.core.vu s.clock
  let got := clockGrants s
  let granted (r : Nat) : Bool := got.any (fun g => g.1 == r)
  let wait := !s.core.vu.counted && qsWaiting s got
  let s := onVu s (fun u => { u with
    won := got.filterMap (fun g => if 3 ≤ g.1 then some (g.1 - 3) else none)
    last := (got.getLast?.map Prod.fst).getD u.last
    counted := false, qwait := if wait then u.qwait + 1 else u.qwait
    scalar := none })
  let s := match a with | some q => if granted 1 then serveQs s q else s | none => s
  let s := match p with | some q => if granted 2 then serveQs s q else s | none => s
  match ls with | some q => serveQs s q | none => s

/-! ### The command queue (R167) -/

/-- An entry of the command queue: until result or request `id` is done, or until a clock. -/
def occupy (s : State) (id : Nat) (until_ : Option Nat) : State := onVu s (fun u => { u with queue := u.queue ++ [(id, until_)] })

/-- Entries of the command queue whose work is done leave it (R167). -/
def dropQueue (s : State) : State :=
  onVu s (fun u => { u with queue := u.queue.filter (fun e =>
    match e.2 with
    | some t => decide (s.clock < t)
    | none => s.core.board.any (fun p => p.id == e.1) || u.qs.any (fun q => q.id == e.1) || u.chk.any (fun c => c.1 == e.1) ||
        u.vxWait.any (fun c => c.ids.contains e.1)) })

/-- A VM or VX access occupies an entry of the command queue until its request or result `id` is done. -/
def askHeld (s : State) (q : QsReq) : State := occupy (askQs s q) q.id none

end Sys2Proof.Machine
end

