-- ==== Sys2Proof/Machine/Async.lean ====
section
/-!
DEFINITION. Block transfers (R237 to R244) and the AS syllables with ops 0 to 12 (R245 to R258).
-/
namespace Sys2Proof.Machine
open Sys2Proof

/-! ### Templates -/

/-- The fields of a template's words (R239). -/
structure Template where
  saddr : Nat
  daddr : Nat
  nplanes : Nat
  nrows : Nat
  len : Nat
  dstride : Int
  sstride : Int
  dpstride : Int
  spstride : Int
  baddr : Nat
  win : Bool
  dring : Bool
  ring : Nat
  bqs : Bool
  bar : Bool
  cq : Bool
  delta : Nat
  dspace : Nat
  sspace : Nat
  tag : Nat
  reserved : Bool
  deriving DecidableEq, Repr

def word (ws : List Word) (i : Nat) : Nat := ((ws[i]?).getD 0).toNat

/-- A template from its eight words (R239). -/
def template (ws : List Word) : Template :=
  let w5 := word ws 5
  { saddr := word ws 0, daddr := word ws 1
    nplanes := bits (word ws 2) 55 40 + 1, nrows := bits (word ws 2) 39 24 + 1, len := bits (word ws 2) 23 0
    dstride := sext (bits (word ws 3) 63 32) 32, sstride := sext (bits (word ws 3) 31 0) 32
    dpstride := sext (bits (word ws 4) 63 32) 32, spstride := sext (bits (word ws 4) 31 0) 32
    baddr := bits w5 53 32, win := bit w5 28, dring := bit w5 20, ring := bits w5 19 16, bqs := bit w5 12
    bar := bit w5 11, cq := bit w5 10, delta := bits w5 9 8, dspace := bits w5 6 4, sspace := bits w5 2 0
    tag := bits (word ws 6) 15 0
    reserved := bits (word ws 2) 63 56 != 0 || bits w5 63 54 != 0 || bits w5 31 29 != 0 || bits w5 27 21 != 0 ||
      bits w5 15 13 != 0 || bit w5 7 || bit w5 3 || bits (word ws 6) 63 16 != 0 || word ws 7 != 0 }

/-- Sectors of a command. -/
def Template.sectors (t : Template) : Nat := t.len / 32 * t.nrows * t.nplanes

/-- Source and destination addresses after the base delta (R241). -/
def Template.sa (t : Template) (delta : Int) : Int := (t.saddr : Int) + (if t.delta == 1 || t.delta == 3 then delta else 0)
def Template.da (t : Template) (delta : Int) : Int := (t.daddr : Int) + (if t.delta == 2 || t.delta == 3 then delta else 0)

/-- Source and destination address of sector `n` (R241). -/
def Template.place (t : Template) (base pstride stride : Int) (n : Nat) : Int :=
  let per := t.len / 32
  let b := n % per
  let r := n / per % t.nrows
  let p := n / per / t.nrows
  base + (p : Int) * pstride + (r : Int) * stride + 32 * (b : Int)

/-- Some `base + r × stride`, for `r` below `n`, lies strictly between two bounds. -/
def hitsRow (base stride : Int) (n : Nat) (lo hi : Int) : Bool :=
  if stride == 0 then decide (0 < n) && decide (lo < base) && decide (base < hi)
  else
    let (base, stride, lo, hi) := if 0 < stride then (base, stride, lo, hi) else (-base, -stride, -hi, -lo)
    let r := max 0 ((lo - base) / stride + 1)
    decide (r < n) && decide (base + r * stride < hi)

/-- A run of `len` bytes at `d` shares a byte with the source range of a command. -/
def Template.inSource (t : Template) (delta d : Int) (len : Nat) : Bool :=
  (List.range t.nplanes).any (fun p => hitsRow (t.sa delta + (p : Int) * t.spstride) t.sstride t.nrows (d - t.len) (d + len))

/-- A space with LS and QS taken as the parts of OC that they are: the space, and what an address gains (R116, R118). -/
def ocSpace (space : Nat) : Nat × Int := if space == 0 then (2, lsBase) else if space == 1 then (2, qsBase) else (space, 0)

/-- Some destination byte lies in the command's own source range (R241): rows of the destination, or the slots of its ring
that it will fill. -/
def Template.overlaps (s : State) (t : Template) (delta : Int) : Bool :=
  let src := ocSpace t.sspace
  if t.dring then
    src.1 == 2 &&
    (List.range (min (ringSlots s.core t.ring) (t.sectors / slotSectors s.core t.ring))).any (fun j =>
      t.inSource delta (((slotOc s.core t.ring ((ringClaimOf s t.ring + j) % ringSlots s.core t.ring) : Nat) : Int) - src.2) (slotSectors s.core t.ring * 32))
  else
    let dst := ocSpace t.dspace
    src.1 == dst.1 && (List.range t.nplanes).any (fun p => (List.range t.nrows).any (fun r =>
      t.inSource delta (t.da delta + dst.2 - src.2 + (p : Int) * t.dpstride + (r : Int) * t.dstride) t.len))

/-- The start checks of R242 and R256. -/
def startCheck (s : State) (t : Template) (delta : Int) : Option Cause :=
  let total := t.len * t.nrows * t.nplanes
  if t.reserved || decide (6 ≤ t.sspace) || decide (6 ≤ t.dspace) || t.len == 0 || t.len % 32 != 0 ||
     decide (2 ^ 35 ≤ t.sectors) ||
     (t.dring && (!ringOn s.core t.ring || total % (slotSectors s.core t.ring * 32) != 0)) ||
     (t.win && (t.sspace != 3 || !t.dring || t.nplanes != 1 || t.len != slotSectors s.core t.ring * 32))
  then some .illegalEncoding
  else if t.sa delta % 32 != 0 || (!t.dring && t.da delta % 32 != 0) || t.sstride % 32 != 0 || t.dstride % 32 != 0 ||
     t.spstride % 32 != 0 || t.dpstride % 32 != 0 || (t.bar && t.baddr % 16 != 0)
  then some .align
  else none

/-! ### Channels -/

def setErrBit (s : State) (k : Nat) : State := onCore s (fun c => { c with bteErr := c.bteErr ||| (1#64 <<< k) })

/-- A channel posts a word, or holds it until the completion queue has room (R244). -/
def chanPost (s : State) (k : Nat) (w : Word) : State :=
  if canPost s then pushCompletion s w
  else let c := chanOf s k; setChan s k { c with post := c.post ++ [w] }

def cmdUser (k : Nat) (c : Cmd) : EngUser := { lnum := c.lnum, node := c.node, tag := c.tag, priv := c.priv, cmd := 1 + k }

/-- A command aborts (R243): its barrier is released for the sectors not written, unless the barrier itself
is what failed; its error bit is set and a completion word posted. Active register 8 keeps the count of the sectors not
written, which R246 gives for a started command only (DESIGN CHOICE, log entry 121). -/
def bteAbort (s : State) (k : Nat) (t : Template) (written : Nat) (release : Bool) (flags : Nat) (cause : Cause) : State :=
  let oc := localOc t.bqs t.baddr
  let s := if release && t.bar && t.baddr % 16 == 0 && barrierLive s oc
    then barrierUpdate s oc 0 (-((t.sectors - written : Nat) : Int)) else s
  let s := setErrBit s k
  let s := untouch s (1 + k)
  let c := chanOf s k
  let s := setChan s k { c with active := none, window := false }
  chanPost s k (completionWord written flags cause.code k 0 t.tag)

/-- The destinations that end a task's restartability: OC, HM, QS, a ring in QS, or a barrier in QS (R260). -/
def bteSpoils (s : State) (t : Template) : Bool :=
  (if t.dring then ringQs s.core t.ring else t.dspace == 2 || t.dspace == 5 || t.dspace == 1) || (t.bar && t.bqs)

/-- A command has its template (R241, R256): the start checks, then it moves its first sector or aborts. The active set
takes the fields of the template; a reserved one reads zero (R4, R246). -/
def bteBegin (s : State) (k : Nat) (cmd : Cmd) (ws : List Word) : State :=
  let t := template ws
  let s := (List.range 8).foldl (fun s i => eregSet s k i ((ws[i]?).getD 0 &&& shadowMask k i)) s
  let s := eregSet s k 8 (BitVec.ofNat 64 t.sectors)
  let s := if bteSpoils s t then spoilTag s cmd.lnum cmd.node cmd.tag else s
  match startCheck s t cmd.delta with
  | some cause => bteAbort s k t 0 true 0 cause
  | none =>
    let a : Active := { cmd := cmd, words := ws, total := t.sectors, left := t.sectors, slow := t.overlaps s cmd.delta
                        fetchTo := if t.win then min (ringSlots s.core t.ring) t.nrows else 0
                        ready := s.clock }
    let c := chanOf s k
    setChan s k { c with active := some a, window := t.win }

/-- A channel starts its next command (R237, R246): an armed one has its template in the shadow set, another one waits for
its template. -/
def bteStart (s : State) (k : Nat) : State :=
  let c := chanOf s k
  match c.queue with
  | [] => s
  | cmd :: rest =>
    if c.active.isSome || !c.post.isEmpty then s
    else if cmd.armed then
      bteBegin { (setChan s k { c with queue := rest }) with bte := { (setChan s k { c with queue := rest }).bte with armed := eraseKey k s.bte.armed } }
        k cmd ((List.range 8).map (fun i => eregGet s k (32 + i)))
    else setChan s k { c with queue := rest, active := some { cmd := cmd, words := [], loading := true, table := s.core.cptBase, total := 0, left := 0, ready := s.clock } }

/-- A started command reads its template (R241, R242): a GM load with the launch's tables, which waits at a `MOVING` leaf
(R135). A command whose template faults has no `TAG` and no flags: its completion word holds zeros there (DESIGN CHOICE, log
entry 121). -/
def bteLoad (s : State) (k : Nat) (cmd : Cmd) (table : Word) : State :=
  let u := cmdUser k cmd
  match engAccess s u [] 3 ((table.toNat + 64 * cmd.index : Nat) : Int) 64 { rd := true } with
  | .wait s => s
  | .fault s cause _ _ =>
    let s := setErrBit s k
    chanPost (setChan s k { chanOf s k with active := none }) k (completionWord 0 0 cause.code k 0 0)
  | .ok s (p, _) =>
    let r := placeRead s p 64 true (u.viewer s)
    bteBegin (setChan r.1 k { chanOf r.1 k with active := none }) k cmd
      ((List.range 8).map (fun i => BitVec.ofNat 64 (leNat ((r.2.1.drop (8 * i)).take 8))))

/-- The flags of a BTE completion word (R244). -/
def bteFlags (a : Active) : Nat := b2n a.poison + 2 * b2n a.slow

/-- A command is over: its last sector is written and, for a window, every row released (R241, R256). -/
def bteFinish (s : State) (k : Nat) (a : Active) : State :=
  let t := template a.words
  let s := untouch s (1 + k)
  let c := chanOf s k
  let s := setChan s k { c with active := none, window := t.win && t.cq && !canPost s }
  let s := eregSet s k 8 0
  if t.cq then chanPost s k (completionWord 0 (bteFlags a) 0 k 0 t.tag) else s

/-- The sectors that the command may move now: all of them, or those of the window's fetched rows. -/
def bteLimit (s : State) (a : Active) : Nat :=
  let t := template a.words
  if t.win then a.fetchTo * slotSectors s.core t.ring else a.total

/-- The last sector decrement or slot of a sector written: barrier, ring slot, count (R241, R254). -/
def bteAdvance (s : State) (k : Nat) (a : Active) (t : Template) (poison : Bool) : State :=
  let a := { a with next := a.next + 1, left := a.left - 1, poison := a.poison || poison
                    ready := if a.slow then s.clock + 8 else s.clock }
  let s := eregSet s k 8 (BitVec.ofNat 64 a.left)
  let c := chanOf s k
  let s := setChan s k { c with active := some a }
  let s := if t.dring && a.next % slotSectors s.core t.ring == 0
    then fillSlot s t.ring ((a.slots[(a.next - 1) / slotSectors s.core t.ring]?).getD 0) else s
  if a.next = a.total ∧ !t.win then bteFinish s k a else s

/-- The ring slot that a command's next sector needs: claimed when it is not held yet (R254); none while no slot is
free. -/
def claimFor (s : State) (t : Template) (a : Active) : Option (State × Active) :=
  if t.dring && decide (a.slots.length ≤ a.next / slotSectors s.core t.ring) then
    (claimSlot s t.ring).map (fun r => (r.1, { a with slots := a.slots ++ [r.2] }))
  else some (s, a)

/-- A channel moves one sector (R241), claiming a ring slot first when it needs one (R254). -/
def bteSector (s : State) (k : Nat) : State :=
  match (chanOf s k).active with
  | none => s
  | some a =>
    let t := template a.words
    let u := cmdUser k a.cmd
    if a.loading then bteLoad s k a.cmd a.table
    else if bteLimit s a ≤ a.next ∨ s.clock < a.ready then s
    else if t.dring && (a.lost || !ringOn s.core t.ring) then bteAbort s k t a.next true (bteFlags a) .accessDenied
    else
      let q := slotSectors s.core t.ring
      match claimFor s t a with
      | none => s
      | some (s, a) =>
        let c := chanOf s k
        let s := setChan s k { c with active := some a }
        let src := t.place (t.sa a.cmd.delta) t.spstride t.sstride a.next
        match engAccess s u a.pages t.sspace src 32 { rd := true } with
        | .wait s => s
        | .fault s cause _ _ => bteAbort s k t a.next true (bteFlags a) cause
        | .ok s (from_, pages) =>
          let slot := slotOc s.core t.ring ((a.slots[a.next / q]?).getD 0) + 32 * (a.next % q)
          let dst : Acc (Place × List HeldPage) :=
            if t.dring then (if meetsTag s slot 32 then .fault s .barrierClobber 8 slot else .ok s (.oc slot, pages))
            else engAccess s u pages t.dspace (t.place (t.da a.cmd.delta) t.dpstride t.dstride a.next) 32 { wr := true }
          match dst with
          | .wait s => s
          | .fault s cause _ _ => bteAbort s k t a.next true (bteFlags a) cause
          | .ok s (into, pages) =>
            let r := placeRead s from_ 32 true (u.viewer s)
            let s := placeWrite r.1 into r.2.1 r.2.2 true (u.viewer s)
            let oc := localOc t.bqs t.baddr
            if t.bar && !barrierLive s oc then bteAbort s k t (a.next + 1) false (bteFlags { a with poison := a.poison || r.2.2 }) .barrierClobber
            else
              let s := if t.bar then barrierUpdate s oc 0 (-1) else s
              bteAdvance s k { a with pages := pages } t r.2.2

/-- A channel that waits to post posts when the completion queue has room (R244). -/
def btePost (s : State) (k : Nat) : State :=
  let c := chanOf s k
  match c.post with
  | [] => s
  | w :: r => if canPost s then pushCompletion (setChan s k { c with post := r, window := false }) w else s

/-- An OC address lies in the core's LS or its quad's QS (R118). -/
def ownStore (x : Nat) : Bool :=
  (decide (lsBase ≤ x) && decide (x < lsBase + 0x100000)) || (decide (qsBase ≤ x) && decide (x < qsBase + 0x400000))
/-- The OC address of a place in the core's LS or its quad's QS, reached by its own space code or through OC (R116, R118). -/
def ownSide (space : Nat) (a : Int) : Option Nat :=
  let c := ocSpace space
  if c.1 == 2 && decide (0 ≤ a + c.2) && ownStore (a + c.2).toNat then some (a + c.2).toNat else none

/-- The QS banks and the LS banks that sectors at OC addresses need (R119, R122). -/
def sideBanks (l : List Nat) : BitVec 32 × BitVec 32 :=
  ((l.filter (fun x => decide (qsBase ≤ x))).foldl (fun m x => m ||| bankMask x 32) 0, l.foldl (fun m x => m ||| lsBanks x 32) 0)
/-- A requester of the crossbar may reach sectors on this clock: it has been granted their QS banks, once, and no LS bank of
theirs is taken (R119, R122). -/
def bankTurn (s : State) (r : Nat) (l : List Nat) : Option State :=
  let b := sideBanks l
  let u := s.core.vu
  if (b.2 &&& u.lsTaken) != 0 || (b.1 != 0 && !(u.won.contains r && (b.1 &&& ~~~(lookupD u.asks r 0)) == 0)) then none
  else some (onVu s (fun u => { u with lsTaken := u.lsTaken ||| b.2, won := if b.1 == 0 then u.won else u.won.filter (· != r) }))

/-- A channel's next sector: how many of its sides lie in LS or QS, and the QS and LS banks they need. -/
structure Move where
  sides : Nat := 0
  qs : BitVec 32 := 0
  ls : BitVec 32 := 0
  deriving DecidableEq, Repr

/-- The sector that a channel moves next; nothing for one that waits (R237). The slot of a ring that it has still to claim
is the one at the claim position. -/
def nextMove (s : State) (k : Nat) : Move :=
  match (chanOf s k).active with
  | none => {}
  | some a =>
    if a.loading || decide (bteLimit s a ≤ a.next) || decide (s.clock < a.ready) then {}
    else
      let t := template a.words
      let q := slotSectors s.core t.ring
      let src := ownSide t.sspace (t.place (t.sa a.cmd.delta) t.spstride t.sstride a.next)
      let dst :=
        if t.dring then some (slotOc s.core t.ring ((a.slots[a.next / q]?).getD (ringClaimOf s t.ring)) + 32 * (a.next % q))
        else ownSide t.dspace (t.place (t.da a.cmd.delta) t.dpstride t.dstride a.next)
      let l := src.toList ++ dst.toList
      { sides := l.length, qs := (sideBanks l).1, ls := (sideBanks l).2 }

/-- What the channels ask the crossbar for on this clock (R122). -/
def chanWants (s : State) : List (Nat × BitVec 32) :=
  (s.bte.chan.map (fun c => (c.1, (nextMove s c.1).qs))).filter (fun c => c.2 != 0)

/-- The events of one clock of a channel: post, load a template, move one sector, or start a command that was accepted
before the last bundle boundary; none is started while a checkpoint waits (R237, R259, R261). -/
def bteClock (s : State) (k : Nat) : State :=
  let c := chanOf s k
  if !c.post.isEmpty then btePost s k
  else if c.active.isSome then bteSector s k
  else if s.core.spilling || !(c.queue.head?.map (fun q => q.armed || decide (q.accepted + 1 ≤ s.clock))).getD false then s
  else bteStart s k

/-- The LS banks that the matrix unit uses on a clock (R119, R224, R226, R230 to R232): a step of `MMA` reads 128 bytes of its
A block, `MLDC` one row of its image, `MDRAIN` writes one row six clocks after it has read it; of `MMAT` and `MBWR`, for
which no clocks are given, 512 bytes a clock (DESIGN CHOICE, log entry 122). -/
def mxBanks (s : State) : BitVec 32 :=
  let at_ (a n : Nat) : BitVec 32 := lsBanks (lsBase + a) n
  let use (o : MxOp) : BitVec 32 :=
    match o.start with
    | none => if o.kind == .mmat && decide (o.issued + 4 ≤ s.clock) && decide (s.clock < o.issued + 36) then at_ (o.addr + 512 * (s.clock - o.issued - 4)) 512 else 0
    | some t0 =>
      let k := s.clock - t0
      match o.kind with
      | .mma => if k < 128 then at_ (o.addr + 128 * k) 128 else 0
      | .mldc => if k < 64 then at_ (o.addr + 16 * o.fmt.width * k) (16 * o.fmt.width) else 0
      | .mbwr => if k < 64 then at_ (o.addr + 512 * k) 512 else 0
      | .mdrain => (if k == 0 && o.w then at_ (bits o.desc.toNat 50 40 * 512) 512 else 0) |||
          (if 6 ≤ k ∧ k < 70 then at_ (o.addr + 16 * o.fmt.width * (k - 6)) (16 * o.fmt.width) else 0)
      | _ => 0
  (s.core.mx.array ++ s.core.mx.transfer).foldl (fun m o => m ||| use o) 0

/-- The channels that move a sector of LS or QS on this clock (R237), in turn from the one after the channel that moved
last: together they move at most four, one that needs QS banks when it has been granted them (R122), one that needs LS
banks when neither the core (R119) nor an earlier one takes them. -/
def bteTurn (s : State) : List Nat :=
  let ks := s.bte.chan.map (·.1)
  let turn := ks.filter (fun k => decide (s.bte.last < k)) ++ ks.filter (fun k => decide (k ≤ s.bte.last))
  (turn.foldl (fun (acc : List Nat × Nat × BitVec 32) k =>
    let m := nextMove s k
    if m.sides == 0 || acc.2.1 < m.sides || (m.qs != 0 && !s.core.vu.won.contains k) || (m.ls &&& acc.2.2) != 0 then acc
    else (acc.1 ++ [k], acc.2.1 - m.sides, acc.2.2 ||| m.ls)) ([], 4, s.core.vu.lsTaken)).1

/-- One clock of the core's channels: each posts, loads, starts or moves, in ascending channel number, which is the order of
the updates and claims of one clock (R237, R248, R254). -/
def bteAll (s : State) : State :=
  let turn := bteTurn s
  let go := (s.bte.chan.map (·.1)).filter (fun k => (nextMove s k).sides == 0 || turn.contains k)
  let s := onVu s (fun u => { u with lsTaken := turn.foldl (fun m k => m ||| (nextMove s k).ls) u.lsTaken })
  go.foldl bteClock { s with bte := { s.bte with last := (turn.getLast?).getD s.bte.last } }

/-! ### The AS syllables -/

/-- An operand value outside its range (R187, R245). -/
def badOperand (s : State) (v : Word) : Eff := .trap s .illegalEncoding (0x40 + s.core.idx) v

/-- The engine that an operand names: 0 to 83 (R246). -/
def engineOk (v : Word) : Bool := decide (v.toNat < 84)

/-- Register `n` of an engine's block (R246, R278, R302, R317): active registers 0 to 31, shadow ones from 32. -/
def engineReg (s : State) (e n : Nat) : Word := eregGet s e n

/-- The shadow registers of an engine. -/
def shadowReg (s : State) (e n : Nat) : Word := eregGet s e (32 + n)

/-- `ESWAP` arms an engine's shadow set and accepts it at the tail of the engine's queue (R246, R278, R302,
R317). -/
def armEngine (s : State) (e : Nat) : State :=
  let s := { s with bte := { s.bte with armed := insertKey e s.bte.armed } }
  let u := coreUser s
  let r (n : Nat) : Nat := (shadowReg s e n).toNat
  if e < 64 then
    -- an idle channel with an empty queue starts at once (R246)
    let idle := (chanOf s e).queue.isEmpty && (chanOf s e).active.isNone && (chanOf s e).post.isEmpty
    let s := bteAccept s e 0 0 true
    if idle then bteStart s e else s
  else if e < 72 then
    let p := rowPortOf s (e - 64)
    let o : RowOp := { op := r 4, dst := shadowReg s e 0, a := shadowReg s e 1, b := shadowReg s e 2, desc := shadowReg s e 3
                       lnum := u.lnum, node := u.node, tag := u.tag, priv := u.priv, armed := true, accepted := s.clock }
    { s with rows := { s.rows with ports := storeAt s.rows.ports (e - 64) { p with queue := p.queue ++ [o] } } }
  else if e < 80 then
    let p := lookupD s.fabric.ports (e - 72) {}
    let v := r 5
    let op := v % 8
    let legal := decide (v < 128) && (if op == 2 then bits v 6 4 == 0 else if op == 6 then !bit v 3 && bits v 6 5 == 0 else bits v 6 3 == 0)
    let c := fabGiven s { op := if legal then op else 5, flag := bit v (if op == 2 then 3 else 4), desc := r 0, laddr := r 1, raddr := r 2, bar := r 3, mask := r 4, armed := true }
    { s with fabric := { s.fabric with order := s.fabric.order + 1, ports := storeAt s.fabric.ports (e - 72) { p with queue := p.queue ++ [c] } } }
  else if h : e - 80 < 4 then
    let q := s.replay[e - 80]
    let p : Play := { num := q.nextNum, bases := (List.range 8).map (shadowReg s e), word := shadowReg s e 9, armed := true
                      lnum := u.lnum, node := u.node, tag := u.tag, priv := u.priv }
    spoil { s with replay := s.replay.set (e - 80) { q with plays := q.plays ++ [p], nextNum := (q.nextNum + 1) % 256 } }
  else s

/-- An armed set leaves the queue: its shadow set is disarmed and copied into the active set (R246). -/
def disarm (s : State) (e : Nat) : State :=
  let s := (List.range 32).foldl (fun s n => if shadowWritable e n then eregSet s e n (shadowReg s e n) else s) s
  { s with bte := { s.bte with armed := eraseKey e s.bte.armed } }

def execErw (a b : XReg) (n : BitVec 5) (s : State) := syl (.erw a b n) s (fun s =>
  let e := readX s a
  if !engineOk e then badOperand s e
  else .done (shadowSet s e.toNat n.toNat (readX s b)))

def execErr (d a : XReg) (n : BitVec 6) (s : State) := syl (.err d a n) s (fun s =>
  let e := readX s a
  if !engineOk e then badOperand s e
  else guardPush s d (.done (pendX s d (engineReg s e.toNat n.toNat) .clean 4)))

def execEswap (a : XReg) (s : State) := syl (.eswap a) s (fun s =>
  let e := readX s a
  if !engineOk e then badOperand s e else .done (armEngine s e.toNat))

/-- The check of a barrier syllable's word: space, owner, alignment 16 (R249). -/
def barrierCheck (s : State) (a : Word) (qs : Bool) (k : State → Nat → Eff) : Eff :=
  let code := b2n qs
  let base := if qs then qsBase else lsBase
  match localCheck s base (if qs then 0x400000 else 0x100000) (a.toNat : Int) 16 false with
  | .fault s c r ad => .trap s c (0x80 + 8 * r + code) (BitVec.ofNat 64 ad)
  | .wait s => .wait s
  | .ok s _ =>
    if a.toNat % 16 != 0 then .trap s .align (0x80 + 8 * 2 + code) a
    else k s (base + a.toNat)

/-- The clocks of a barrier result: 4 in LS, 10 in QS (R245). -/
def barClocks (qs : Bool) : Nat := if qs then 10 else 4

def execBinit (a b : XReg) (f p : Bool) (s : State) := syl (.binit a b f p) s (fun s =>
  let v := readX s b
  if !f && bits v.toNat 63 56 != 0 then badOperand s v
  else barrierCheck s (readX s a) p (fun s oc =>
    if f then .done { s with tags := eraseKey (oc / 16) s.tags }
    else if barrierLive s oc then .trap s .barrierClobber 2 (readX s a)
    else
      let s := stampSignal (barrierSet s oc ⟨bits v.toNat 55 20, bits v.toNat 19 0, bits v.toNat 55 20, bits v.toNat 19 0, 0⟩) (ocKey oc)
      .done { s with tags := insertKey (oc / 16) s.tags }))

/-- A barrier syllable on a unit that must be live (R249). -/
def liveCheck (s : State) (a : Word) (qs : Bool) (k : State → Nat → Eff) : Eff :=
  barrierCheck s a qs (fun s oc => if barrierLive s oc then k s oc else .trap s .barrierClobber 1 a)

/-- An update or a sample of a barrier word in QS is performed at its grant (R122, R245, R251). -/
def askBarrier (s : State) (oc : Nat) (d : Option XReg) (w : QsDo) : State :=
  let ask (r : State × Nat) : State := askQs r.1 { id := r.2, kind := .barrier, parts := [(bankMask oc 16, w)], after := barClocks true, start := some s.clock }
  match d.bind (fun d => (lateDest s d).2.map (fun dst => ((lateDest s d).1, dst))) with
  | some (s, dst) => ask (pend s dst none .clean none)
  | none => ask (freshId (match d with | some d => (lateDest s d).1 | none => s))

def execBarv (d a b : XReg) (p : Bool) (s : State) := syl (.barv d a b p) s (fun s =>
  let v := readX s b
  if bits v.toNat 63 56 != 0 then badOperand s v
  else liveCheck s (readX s a) p (fun s oc => guardPush s d (
    let n := bits v.toNat 19 0
    let e : Int := bits v.toNat 55 20
    if p then .done (askBarrier s oc (some d) (.update oc n e))
    else .done (pendX (barrierUpdate (observe s) oc n e) d (BitVec.ofNat 64 (barrierAt s oc).phase) .clean (barClocks p)))))

def execBwait (a b : XReg) (p : Bool) (s : State) := syl (.bwait a b p) s (fun s =>
  liveCheck s (readX s a) p (fun s oc =>
    if (barrierAt s oc).phase != bits (readX s b).toNat 3 0 && !(p && meetsWaiting s oc 16 false) then .done (observe s) else waitFor s 0))

def execBtest (d a b : XReg) (p : Bool) (s : State) := syl (.btest d a b p) s (fun s =>
  liveCheck s (readX s a) p (fun s oc => guardPush s d (
    let ph := bits (readX s b).toNat 3 0
    if p then .done (askBarrier s oc (some d) (.test oc ph))
    else .done (pendX (observe s) d (BitVec.ofNat 64 (b2n ((barrierAt s oc).phase != ph))) .clean (barClocks p)))))

def execBadd (a b : XReg) (p : Bool) (s : State) := syl (.badd a b p) s (fun s =>
  let v := readX s b
  if toWord (sext (bits v.toNat 35 0) 36) != v then badOperand s v
  else liveCheck s (readX s a) p (fun s oc =>
    let e := sext (bits v.toNat 35 0) 36
    .done (if p then askBarrier s oc none (.update oc 0 e) else barrierUpdate (observe s) oc 0 e)))

/-! ### Windows and rings -/

/-- The running window of a channel. -/
def windowOf (s : State) (k : Nat) : Option Active :=
  match (chanOf s k).active with
  | some a => if (template a.words).win then some a else none
  | none => none

/-- The `m` oldest slots of a ring meet an access of the core that has still to be performed (R150, R255, R257). -/
def releaseWaits (s : State) (n m : Nat) : Bool :=
  (List.range m).any (fun j =>
    oweWaits s (ringQs s.core n) (slotOc s.core n ((rngHead (ringCnt s n) + j) % ringSlots s.core n) - (if ringQs s.core n then qsBase else lsBase))
      (ringSlotG s.core n))

def execWadv (d a b : XReg) (s : State) := syl (.wadv d a b) s (fun s =>
  let k := readX s a
  if 64 ≤ k.toNat then badOperand s k
  else guardPush s d (
    match windowOf s k.toNat with
    | none => .done (pendX s d 0 .clean 2)
    | some w =>
      let t := template w.words
      let m := min (readX s b).toNat (rngFilled (ringCnt s t.ring))
      if releaseWaits s t.ring m then .wait s else
      let s := releaseSlots m (observe s) t.ring
      let w := { w with released := w.released + m, fetchTo := min t.nrows (w.fetchTo + m) }
      let c := chanOf s k.toNat
      let s := setChan s k.toNat { c with active := some w }
      let s := if w.released = t.nrows ∧ w.next = w.total then bteFinish s k.toNat w else s
      .done (pendX s d (BitVec.ofNat 64 m) .clean 2)))

def execWpos (d a : XReg) (s : State) := syl (.wpos d a) s (fun s =>
  let k := readX s a
  if 64 ≤ k.toNat then badOperand s k
  else guardPush s d (
    match windowOf s k.toNat with
    | none => .done (pendX s d 0xFFFFFFFFFFFFFFFF .clean 2)
    | some w => .done (pendX s d (BitVec.ofNat 64 (w.fetchTo * 2 ^ 32 + w.released)) .clean 2)))

/-- A ring bound to a running window (R255). -/
def ringInWindow (s : State) (n : Nat) : Bool :=
  (List.range 64).any (fun k => match windowOf s k with | some w => (template w.words).ring == n | none => false)

def execRcnt (d a b : XReg) (s : State) := syl (.rcnt d a b) s (fun s =>
  let n := readX s a
  if 16 ≤ n.toNat then badOperand s n
  else if !ringOn s.core n.toNat then guardPush s d (.done (pendX s d 0 .clean 2))
  else if (readX s b).toNat != 0 && ringInWindow s n.toNat then
    .trap (drawn s) .accessDenied 4 (Config.freeWord s.free)
  else guardPush s d (
    let m := min (readX s b).toNat (rngFilled (ringCnt s n.toNat))
    if releaseWaits s n.toNat m then .wait s else
    let s := releaseSlots m (observe s) n.toNat
    .done (pendX s d (ringCnt s n.toNat) .clean 2)))

/-! ### Owner flips -/

/-- The granules that `OWNE` and `OWNC` name, or the trap that their operands raise (R258). -/
def flipRange (s : State) (a b : Word) (qs : Bool) (k : State → List Nat → Eff) : Eff :=
  let lim := if qs then 1024 else 256
  let base := if qs then qsBase else lsBase
  if b.toNat = 0 ∨ lim < b.toNat then badOperand s b
  else if lim * 4096 < a.toNat + b.toNat * 4096 then .trap s .ocUnmapped (0x80 + b2n qs) a
  else if a.toNat % 4096 != 0 then .trap s .align (0x80 + 16 + b2n qs) a
  else
    let gs := (List.range b.toNat).map (fun i => (base + a.toNat) / 4096 + i)
    if gs.any (fun g => (ringOf s.core g).isSome) then .trap s .accessDenied 5 a else k s gs

/-- A vector register written by an ST syllable is pending (R258). -/
def statVectorPending (c : Core) : Bool := c.board.any (fun p => match p.dst with | .v _ => true | _ => false)

def execOwne (a b : XReg) (v p : Bool) (s : State) := syl (.owne a b v p) s (fun s =>
  if v then
    if vbusy s.core || statVectorPending s.core then .trap s .ownerViolation 1 (BitVec.ofNat 64 vrBase)
    else .done { s with vrEngine := true }
  else flipRange s (readX s a) (readX s b) p (fun s gs =>
    if oweWaits s p (readX s a).toNat gs.length then .wait s else .done (flipTo s true gs)))

/-- The flips that an `OWNC` asked for take effect (R258). -/
def performFlips (s : State) : State :=
  match s.bte.flips with
  | none => s
  | some (gs, vr) =>
    let s := observe (flipTo s false gs)
    { s with vrEngine := if vr then false else s.vrEngine, bte := { s.bte with flips := none } }

/-- `OWNC` holds later bundles until the engine accesses started are performed, then flips (R258). -/
def execOwnc (a b : XReg) (v p : Bool) (s : State) := syl (.ownc a b v p) s (fun s =>
  let go (s : State) (gs : List Nat) : Eff :=
    if s.core.waiting.isSome then (if s.bte.flips.isSome then .wait s else .done s)
    else .wait (onCore { s with bte := { s.bte with flips := some (gs, v) } } (fun c => { c with waiting := some (s.clock, 0) }))
  if v then go s []
  else if s.core.waiting.isSome then go s [] else flipRange s (readX s a) (readX s b) p go)

end Sys2Proof.Machine
end

