-- ==== Sys2Proof/Machine/MemInstr.lean ====
section
/-!
DEFINITION. The ME syllables: scalar loads and stores, atomics, cache ranges and fences (R137 to R140, R160
to R166).
-/
namespace Sys2Proof.Machine
open Sys2Proof

/-- Typical clocks of the scoreboarded loads (R13, R36; PRESUMED, log entry 3). -/
def loadClocks (space : Nat) : Nat :=
  if space == 2 then 60 else if space == 5 then 900 else 36

/-- The effective address of an ME syllable: the base, plus the offset scaled by the access (R137, R138). For
FS the name of the base stands and the offset does not carry into it; an offset outside 0 to 65,535 is an
error, reported with the offset's low 16 bits (DEDUCED, log entry 34). -/
def meAddr (s : State) (space : Nat) (b : XReg) (bitsN off scale : Nat) : Except Word Int :=
  let d := immOf s.core bitsN off * (scale : Int)
  let x := (readX s b).toNat
  if space == 4 then
    let o := ((x % 65536 : Nat) : Int) + d
    let base := ((x / 65536 * 65536 : Nat) : Int)
    if 0 ≤ o ∧ o ≤ 65535 then .ok (base + o) else .error (toWord (base + o % 65536))
  else .ok ((x : Int) + d)

/-- `SW.CAUSEDETAIL` of a memory fault (R136). -/
def memDetail (reason space : Nat) : Nat := 0x80 + 8 * reason + space

/-- A misaligned FS access waits for nothing and splits nothing: it raises what the checks of its folio raise, else
`ALIGN` (R137, R138, R348). A scalar access lies in its folio when its first byte does (R138). -/
def folioMisaligned (s : State) (a : Int) (n : Nat) (need : Need) : Eff :=
  match coreCheck s 4 a (if n ≤ 8 then 1 else n) need with
  | .fault _ c r ad => .trap s c (memDetail r 4) (BitVec.ofNat 64 ad)
  | _ => .trap s .align (memDetail 2 4) (toWord a)

/-- A checked access of an ME or VM syllable: the checks of its space, then alignment, then, for a store to a
staged line of another node, R153. -/
def memAccess (s : State) (space : Nat) (a : Except Word Int) (n align : Nat) (need : Need) (k : State → Place → Int → Eff)
    (each : Bool := false) : Eff :=
  match a with
  | .error w => .trap s .align (memDetail 4 space) w
  | .ok a =>
    if space == 4 && a % (align : Int) != 0 then folioMisaligned s a n need
    else match coreCheck s space a n need each with
    | .fault s c r ad => .trap s c (memDetail r space) (BitVec.ofNat 64 ad)
    | .wait s => .wait s
    | .ok s p =>
      if a % (align : Int) != 0 then .trap s .align (memDetail 2 space) (toWord a)
      else
        match p with
        | .gm runs =>
          if need.wr then
            match settleClash 16 s (coreViewer s) runs with
            | .wait s => .wait s
            | .fault s c r ad => .trap s c (memDetail r space) (BitVec.ofNat 64 ad)
            | .ok s _ => k s p a
          else k s p a
        | _ => k s p a

/-- The access of an ME syllable, aligned to its own size (R137). -/
def meAccess (s : State) (space : Nat) (a : Except Word Int) (n : Nat) (need : Need) (k : State → Place → Int → Eff) : Eff :=
  memAccess s space a n n need k

/-- The mark that a load leaves (R127). -/
def loadMark (poison : Bool) (a : Int) : Mark := if poison then .poison (toWord a) else .clean

/-- A scalar access to QS is performed at its grant (R122), one elsewhere at once. -/
def granted (s : State) (space : Nat) (p : Place) (n : Nat) (wr : Bool) (k : State → Eff) : Eff :=
  if space == 1 then scalarGrant s p n wr k else k s

/-- A scalar load (R137): `LDL` and `LDQ` are exposed, the others scoreboarded. -/
def load (i : Instr) (space : Nat) (z : Size) (d b : XReg) (o : BitVec 9) (s : State) : Host.Outcome State Fault Refusal :=
  syl i s (fun s => guardPush s d (
    meAccess s space (meAddr s space b 9 o.toNat z.bytes) z.bytes { rd := true } (fun s p a =>
      granted s space p z.bytes false (fun s =>
      let r := placeRead s p z.bytes false (coreViewer s)
      let v := BitVec.ofNat 64 (leNat r.2.1)
      let k := loadMark r.2.2 a
      let s := r.1
      if space == 0 || space == 1 then
        match lateDest s d with
        | (s, some dst) => .done (exposeMarked s (if space == 0 then 4 else 8) dst v.toNat k)
        | (s, none) => .done s
      else .done (pendX s d v k (loadClocks space))))))

/-- A scalar store (R137): a poisoned register writes poisoned sectors (R127). -/
def store (i : Instr) (space : Nat) (z : Size) (d b : XReg) (o : BitVec 9) (s : State) : Host.Outcome State Fault Refusal :=
  syl i s (fun s =>
    meAccess s space (meAddr s space b 9 o.toNat z.bytes) z.bytes { wr := true } (fun s p _ =>
      granted s space p z.bytes true (fun s =>
      .done (placeWrite s p (leBytes z.bytes (readX s d).toNat) (readMark s d != .clean) false (coreViewer s)))))

def execLdl (z : Size) (d b : XReg) (o : BitVec 9) (s : State) := load (.ldl z d b o) 0 z d b o s
def execLdq (z : Size) (d b : XReg) (o : BitVec 9) (s : State) := load (.ldq z d b o) 1 z d b o s
def execLdo (z : Size) (d b : XReg) (o : BitVec 9) (s : State) := load (.ldo z d b o) 2 z d b o s
def execLdg (z : Size) (d b : XReg) (o : BitVec 9) (s : State) := load (.ldg z d b o) 3 z d b o s
def execLdf (z : Size) (d b : XReg) (o : BitVec 9) (s : State) := load (.ldf z d b o) 4 z d b o s
def execLdh (z : Size) (d b : XReg) (o : BitVec 9) (s : State) := load (.ldh z d b o) 5 z d b o s
def execStl (z : Size) (d b : XReg) (o : BitVec 9) (s : State) := store (.stl z d b o) 0 z d b o s
def execStq (z : Size) (d b : XReg) (o : BitVec 9) (s : State) := store (.stq z d b o) 1 z d b o s
def execSto (z : Size) (d b : XReg) (o : BitVec 9) (s : State) := store (.sto z d b o) 2 z d b o s
def execStg (z : Size) (d b : XReg) (o : BitVec 9) (s : State) := store (.stg z d b o) 3 z d b o s
def execStf (z : Size) (d b : XReg) (o : BitVec 9) (s : State) := store (.stf z d b o) 4 z d b o s
def execSth (z : Size) (d b : XReg) (o : BitVec 9) (s : State) := store (.sth z d b o) 5 z d b o s

/-! ### Atomics -/

/-- The windows that `AMOO` may reach (R162). -/
def amooWindow (s : State) (a : Int) : Bool :=
  if a < 0 ∨ (2 ^ 40 : Int) ≤ a then true
  else
    match windowAt a.toNat with
    | some w =>
      if !w.on s then true
      else match w with | .ls .. | .qs .. | .scratch .. => true | _ => false
    | none => true

/-- Typical clocks of an atomic's result (R163; PRESUMED, log entry 3). -/
def amoClocks (space : Nat) : Nat := if space == 0 then 6 else if space == 1 then 12 else if space == 2 then 60 else 90

/-- An `AMOQ` waits for its grant, at which it is performed (R122, R163). -/
def amoQs (s : State) (oc n : Nat) (d : XReg) (u : AmoOp) (v swapIn : Nat) (a : Int) : State :=
  let ask (r : State × Nat) : State := askQs r.1
    { id := r.2, parts := [(bankMask oc n, .amo oc n u v swapIn)], addr := toWord a, after := amoClocks 1, start := some s.clock }
  match lateDest s d with
  | (s, some dst) => ask (pend s dst none .clean none)
  | (s, none) => ask (freshId s)

/-- An atomic (R160 to R164). -/
def amo (i : Instr) (space : Nat) (z : Bool) (d b : XReg) (u : AmoOp) (o : BitVec 6) (s : State) : Host.Outcome State Fault Refusal :=
  let n := if z then 8 else 4
  syl i s (fun s => guardPush s d (
    let a := meAddr s space b 6 o.toNat n
    if space == 2 && !amooWindow s (a.toOption.getD 0) then .trap s .accessDenied (memDetail 6 2) (toWord (a.toOption.getD 0))
    else
      meAccess s space a n { rd := true, wr := true } (fun s p a =>
        let v := (readX s d).toNat % 2 ^ (8 * n)
        let w := (readX s (xNext d 1)).toNat
        let s := if space == 0 then s else spoil s
        match p, space == 1 with
        | .oc oc, true => .done (amoQs s oc n d u v w a)
        | _, _ =>
          let r := atomicAt s p n u v w (coreViewer s)
          .done (pendX r.1 d (BitVec.ofNat 64 r.2.1) (loadMark r.2.2 a) (amoClocks space)))))

def execAmol (z : Bool) (d b : XReg) (u : AmoOp) (o : BitVec 6) (s : State) := amo (.amol z d b u o) 0 z d b u o s
def execAmoq (z : Bool) (d b : XReg) (u : AmoOp) (o : BitVec 6) (s : State) := amo (.amoq z d b u o) 1 z d b u o s
def execAmoo (z : Bool) (d b : XReg) (u : AmoOp) (o : BitVec 6) (s : State) := amo (.amoo z d b u o) 2 z d b u o s
def execAmog (z : Bool) (d b : XReg) (u : AmoOp) (o : BitVec 6) (s : State) := amo (.amog z d b u o) 3 z d b u o s

/-! ### Cache ranges -/

/-- The lines of a byte range that lie in the page at `va`, as DPAs, given the page's DPA. -/
def linesIn (dpa va k : Nat) : List Nat := (List.range ((k + 127) / 128)).map (fun j => (dpa + va % 4096) / 128 + j)

/-- Fill a line into the L2 and its home slice unless it is present (R140). -/
def fillNow (s : State) (line : Nat) : State := (List.range 4).foldl (fun s j => prefetch s (line * 4 + j)) s
/-- `PFG` asks for a line: the fill is made at once, or runs on afterwards while the line waits (R80, R129, R140, R269, R276,
R429). -/
def fillLine (s : State) (line : Nat) : State :=
  if dpaWaits s (line * 128) 128 false then { s with sys := { s.sys with fills := insertKey line s.sys.fills } } else fillNow s line
/-- The fills that have waited. -/
def fillsDue (s : State) : State :=
  if s.sys.fills.isEmpty then s else s.sys.fills.foldl fillLine { s with sys := { s.sys with fills := [] } }
/-- Write a line's dirty L2 sectors to its home; the copies stay, clean (R140). -/
def writeBackLine (s : State) (line : Nat) : State := l2Clean s line
/-- Write a line back to HBM and invalidate it (R140); what is staged for it stays. -/
def invalidateLine (s : State) (line : Nat) : State := mscFlush (l2Flush s line) line

/-- Page by page in ascending order, an effect on every covered line; a page that fails is skipped by `PFG`
and raised by the others, the lines before it done (R140). `CWB` and `CINV` wait at a line that waits (R80, R129, R269, R276,
R429). -/
def rangeWalk (need : Need) (skip : Bool) (f : State → Nat → State) : State → List (Nat × Nat) → Acc Unit
  | s, [] => .ok s ()
  | s, (va, k) :: r =>
    if 2 ^ 56 ≤ va then (if skip then rangeWalk need skip f s r else .fault s .xlateFault 0 va)
    else match translate s (coreLnum s) (coreRoot s) va need (corePriv s) with
    | (s, .page d) =>
      if !skip && (linesIn d va k).any (fun l => dpaWaits s (l * 128) 128 true) then .wait s
      else rangeWalk need skip f ((linesIn d va k).foldl f s) r
    | (s, .fault c x) => if skip then rangeWalk need skip f s r else .fault s c x va
    | (s, .moving) => if skip then rangeWalk need skip f s r else .wait s

/-- `PFG`, `CWB` and `CINV` (R140). -/
def cacheRange (i : Instr) (l b : XReg) (o : BitVec 9) (need : Need) (skip : Bool) (f : State → Nat → State) (s : State) :
    Host.Outcome State Fault Refusal :=
  syl i s (fun s =>
    let a0 := ((readX s b).toNat : Int) + immOf s.core 9 o.toNat * 128
    let len := if l.val = 0 then 128 else bits (readX s l).toNat 39 0
    let a := a0 / 128 * 128
    if len = 0 then .done s
    else if a < 0 then
      (if skip then .done s else .trap s .xlateFault (memDetail 0 3) (toWord a))
    else
      match rangeWalk need skip f s (runPages a.toNat ((len + 127) / 128 * 128)) with
      | .ok s _ => .done (if skip then s else onCore s (fun c => { c with rangeBusy := true }))
      | .wait s => .wait s
      | .fault s c r ad => .trap s c (memDetail r 3) (BitVec.ofNat 64 ad))

/-- `PFG` takes `RD`, as a load does, and skips a page that lacks it: R134 names no right for it (DESIGN CHOICE, log entry
103). -/
def execPfg (l b : XReg) (o : BitVec 9) (s : State) := cacheRange (.pfg l b o) l b o { rd := true } true fillLine s
def execCwb (l b : XReg) (o : BitVec 9) (s : State) := cacheRange (.cwb l b o) l b o { rd := true } false writeBackLine s
def execCinv (l b : XReg) (o : BitVec 9) (s : State) := cacheRange (.cinv l b o) l b o { wr := true } false invalidateLine s

/-! ### Fences -/

/-- Every earlier access of the core has been performed, HM stores visible to host agents (R157, R159, R165). -/
def accessesDone (s : State) : Bool :=
  s.core.hmOrder.isEmpty && !s.core.rangeBusy && s.core.vu.qs.isEmpty && (heldRanges s).isEmpty

def execHfence (s : State) := syl .hfence s (fun s =>
  if accessesDone s then .done s else waitFor s 0)

/-- The steps of a row operation (R268). -/
def rowSteps (o : RowOp) : Nat := bits o.desc.toNat 47 32 + 1

/-- Every copy, row, folio and fabric command that the core started has been accepted and has performed its reads (R165):
a window has read all its rows, a row operation has begun its last step, and no result of a folio command is pending; what
others move it does not wait for (R166). -/
def readsDone (s : State) : Bool :=
  s.bte.chan.all (fun c => c.2.queue.isEmpty && (c.2.active.map (fun a => !a.loading && decide (a.total ≤ a.next))).getD true) &&
  s.rows.ports.all (fun p => p.2.queue.all (fun o => o.op == 14 || (o.started && decide (rowSteps o ≤ o.k)))) &&
  s.folios.waits.isEmpty && s.folios.frees.isEmpty && s.folios.results.isEmpty &&
  s.fabric.ports.all (fun p => p.2.queue.isEmpty && (match p.2.active with
    | some f => f.targets.isEmpty && f.sent && !(f.cmd.op == 3 && !f.awaiting.isEmpty)
    | none => true))

def execEfence (s : State) := syl .efence s (fun s =>
  if readsDone s then .done s else waitFor s 0)

end Sys2Proof.Machine
end

