-- ==== Sys2Proof/Machine/Row.lean ====
section
/-!
DEFINITION. The row engines: starting operations, their steps, refresh, and the row syllables (R264 to R279).
-/
namespace Sys2Proof.Machine
open Sys2Proof

/-! ### Ports -/

def setRowPort (s : State) (k : Nat) (p : RowPort) : State := { s with rows := { s.rows with ports := storeAt s.rows.ports k p } }
def rowUser (o : RowOp) : EngUser := { lnum := o.lnum, node := o.node, tag := o.tag, priv := o.priv }
def rowViewer (s : State) (o : RowOp) : Viewer := (rowUser o).viewer s

/-- Reserved bits of a row descriptor (R268). -/
def rowDescBad (v : Nat) : Bool := bits v 63 48 != 0 || bits v 31 21 != 0 || bit v 19
/-- The first faulty address operand, which must be a multiple of 32 (R268). -/
def rowMisaligned (op : Nat) (d a b : Word) : Option Word :=
  ([d] ++ (if op == 14 then [] else [a]) ++ (if 15 ≤ op && op ≤ 17 then [b] else [])).find? (fun w => w.toNat % 32 != 0)

/-- The operand addresses of step k: destination, then sources (R267, R269). -/
def rowOperands (o : RowOp) (k : Nat) : Nat × List Nat :=
  let at_ (w : Word) : Nat := (w.toNat + 2048 * k) % 2 ^ 64
  (at_ o.dst, (if o.op == 14 then [] else [at_ o.a]) ++ (if 15 ≤ o.op && o.op ≤ 17 then [at_ o.b] else []))

/-- An operation is over: its word is posted, on success only with `CQ` (R273). -/
def rowEnd (s : State) (k : Nat) (o : RowOp) (status : Nat) : State :=
  let p := rowPortOf s k
  let s := if o.armed && !o.started then { s with bte := { s.bte with armed := eraseKey (64 + k) s.bte.armed } } else s
  let s := eregSet s (64 + k) 8 0
  let s := setRowPort s k { p with queue := p.queue.drop 1 }
  let flags := b2n o.poison + 2 * b2n o.fallback + 4 * b2n o.staged
  if status == 0 && !bit o.desc.toNat 20 then s
  else
    let w := completionWord o.k flags status k 1 (bits o.desc.toNat 15 0)
    if canPost s then pushCompletion s w
    else let p := rowPortOf s k; setRowPort s k { p with post := p.post ++ [w] }

/-- Translate a run of 2,048 bytes, page by page, keeping the pages of the operation (R269, R135). -/
def rowRun (s : State) (o : RowOp) (va : Nat) (need : Need) : Acc (List (Nat × Nat) × RowOp) :=
  (runPages va 2048).foldl (fun acc p =>
    acc.bind (fun s r =>
      if 2 ^ 56 ≤ p.1 then .fault s .xlateFault 0 p.1
      else
        match engPage s (rowUser o) r.2.pages p.1 need with
        | (s, .page d, pages) =>
          let d := d + p.1 % 4096
          if !dpaPermits s d p.2 (rowUser o).req need.rd need.wr then .fault s .accessDenied 1 p.1
          else .ok s (r.1 ++ [(d, p.2)], { r.2 with pages := pages })
        | (s, .fault c x, _) => .fault s c x p.1
        | (s, .moving, _) => .wait s)) (.ok s ([], o))

/-- The operands of the next step, translated: the destination's runs, then each source's (R269). -/
def rowPlan (s : State) (o : RowOp) : Acc (List (Nat × Nat) × List (List (Nat × Nat)) × RowOp) :=
  let ad := rowOperands o o.k
  (rowRun s o ad.1 { wr := true }).bind (fun s r =>
    (ad.2.foldl (fun (acc : Acc (List (List (Nat × Nat)) × RowOp)) va => acc.bind (fun s q => (rowRun s q.2 va { rd := true }).bind (fun s t => .ok s (q.1 ++ [t.1], t.2)))) (.ok s ([], r.2))).bind (fun s q =>
      .ok s (r.1, q.1, q.2)))

/-- The banks that hold some runs of at most 2,048 bytes, or the storage of those that a format range serves (R81, R264). -/
def runBanks (s : State) (runs : List (Nat × Nat)) : List Nat :=
  (runs.flatMap (fun r => [bankKey s (hbmPlace s (r.1 / 32)), bankKey s (hbmPlace s ((r.1 + r.2 - 1) / 32))])).eraseDups
/-- The banks of the next step, as far as its pages translate. -/
def nextBanks (s : State) (o : RowOp) : List Nat :=
  match rowPlan s o with
  | .ok _ (dst, srcs, _) => runBanks s (dst ++ srcs.flatten)
  | _ => []
/-- The banks of the step in progress. -/
def goingBanks (s : State) (o : RowOp) : List Nat := if stepGoing s o then runBanks s o.runs else []

/-- The subarray of the row that holds a DPA: its stack, bank and channel, and bits 35:29 (R264). -/
def subarrayOf (s : State) (d : Nat) : Nat × Nat := (bankKey s d, bits (localOf s d) 35 29)

/-- A DPA lies in a bitwise region of its stack that is enabled and not being disabled (R265). -/
def inBitwise (s : State) (d : Nat) : Bool :=
  let h := stackOf s d
  (List.range 8).any (fun n => bwOn s h n && !bwLeaving s h n && decide (bwBase s h n ≤ d / 4096) && decide (d / 4096 ≤ bwLimit s h n))

def runSectors (runs : List (Nat × Nat)) : List Nat := runs.flatMap (fun r => (List.range (r.2 / 32)).map (fun i => r.1 / 32 + i))

/-- The conditions of a fast step (R271), once the MSC sectors over its rows have gone to HBM (R269). -/
def fastStep (s : State) (o : RowOp) (dst : List (Nat × Nat)) (srcs : List (List (Nat × Nat))) : Bool :=
  let all := dst ++ srcs.flatten
  match dst with
  | (d, _) :: _ =>
    all.all (fun r => r.1 % 2048 == 0 && r.2 == 2048 && stackOf s r.1 == stackOf s d && !inSpan s r.1 && !stackFailed s r.1) &&
    srcs.all (fun l => l.all (fun r => subarrayOf s r.1 == subarrayOf s d)) &&
    !(runSectors all).any (fun k => s.sys.hbm.poisoned (k * 32) 32) &&
    !(rowViewer s o).stages
  | [] => false

/-- Dirty MSC sectors over a list of sectors (R269). -/
def dirtyCount (s : State) (l : List Nat) : Nat :=
  (l.filter (fun k => match mscLine? s (k / 4) with | some x => x.dirty.getLsbD (k % 4) | none => false)).length

/-- Step `k` of a `ROWFIL` is the first in its subarray (R267): the operation keeps the pages of its earlier steps. -/
def firstInSubarray (s : State) (o : RowOp) (d : Nat) : Bool :=
  !(List.range o.k).any (fun j =>
    let va := (rowOperands o j).1
    (o.pages.find? (fun p => p.page == va / 4096)).any (fun p => subarrayOf s (p.dpa + va % 4096) == subarrayOf s d))

/-- The clocks of a fast step (R267, R275). -/
def rowClocks (s : State) (o : RowOp) (d : Nat) : Nat :=
  if o.op == 13 then 40
  else if o.op == 14 then (if firstInSubarray s o d then 80 else 40)
  else if o.op == 18 then 56 else 96

/-- The value of destination sector `j` of a step (R267). -/
def rowValue (o : RowOp) (j : Nat) (srcs : List (List (Nat × Bool))) : Nat × Bool :=
  let g (i : Nat) : Nat × Bool := ((((srcs[i]?).getD [])[j]?).getD (0, false))
  let p := (g 0).2 || (g 1).2
  if o.op == 14 then (packElems 64 (List.replicate 4 o.a.toNat), false)
  else if o.op == 13 then g 0
  else if o.op == 15 then ((g 0).1 &&& (g 1).1, p)
  else if o.op == 16 then ((g 0).1 ||| (g 1).1, p)
  else if o.op == 17 then ((g 0).1 ^^^ (g 1).1, p)
  else (2 ^ 256 - 1 - (g 0).1, (g 0).2)

/-- Write the sectors of a step at their homes, without touching a dirty L2 copy (R270), with one timestamp (R269); in a
staged node they are staged (R272), but for what does not go into the staging store (R131). A failed stack takes nothing
(R272). -/
def rowWrites (s : State) (l : List (Nat × Nat × Bool)) (o : RowOp) : State :=
  stampStep (if (rowViewer s o).stages then l.foldl (fun s p => viewWrite s p.1 0 (leBytes 32 p.2.1) p.2.2 .step (rowViewer s o)) s
    else l.foldl (fun s p => hbmWrite s p.1 p.2.1 p.2.2) s) ((l.map (fun p => gmKey (p.1 * 32))).eraseDups)

/-- A source sector as the row engine reads it: the node's own staged value, else the home's (R152, R270). -/
def rowRead (s : State) (sec : Nat) (o : RowOp) : State × Nat × Bool :=
  match stagedAt s sec with
  | some t => if t.lnum == o.lnum && t.node == o.node then viewRead s sec (rowViewer s o) else homeRead s sec
  | none => homeRead s sec

def rowReads (s : State) (runs : List (Nat × Nat)) (o : RowOp) : State × List (Nat × Bool) :=
  (runSectors runs).foldl (fun acc k => let r := rowRead acc.1 k o; (r.1, acc.2 ++ [r.2])) (s, [])

/-- The MSC lines over some sectors are written back and invalidated (R269). -/
def flushSectors (s : State) (l : List Nat) : State := (l.map (· / 4)).eraseDups.foldl mscFlush s

/-- Fast or fallback step k on translated operands (R269 to R272). Its bytes change as it begins; until it ends no other
access reaches the lines of its rows. `POISON` and `STAGED` tell of sectors that were written so (R273). -/
def rowPerform (s : State) (port : Nat) (o : RowOp) (dst : List (Nat × Nat)) (srcs : List (List (Nat × Nat))) : State :=
  let secs := runSectors (dst ++ srcs.flatten)
  let extra := 4 * dirtyCount s secs
  let s := flushSectors s secs
  let fast := fastStep s o dst srcs
  let clocks := rowClocks s o ((dst.head?.map (·.1)).getD 0) * (if fast then 1 else 16) + extra
  let r := srcs.foldl (fun acc l => let q := rowReads acc.1 l o; (q.1, acc.2 ++ [q.2])) (s, [])
  let l := ((runSectors dst).zipIdx).map (fun p => (p.1, rowValue o p.2 r.2))
  let s := rowWrites r.1 l o
  let s := flushSectors s (runSectors dst)
  let staged := (rowViewer s o).stages && (runSectors dst).any (fun k => (stagedAt s k).isSome)
  let o := { o with
    k := o.k + 1, started := true, ready := s.clock + clocks, runs := dst ++ srcs.flatten, reached := none
    fallback := o.fallback || !fast, poison := o.poison || l.any (fun p => p.2.2 && !stackFailed s (p.1 * 32)), staged := o.staged || staged }
  let p := rowPortOf s port
  let s := eregSet s (64 + port) 8 (BitVec.ofNat 64 (rowSteps o - o.k))
  setRowPort s port { p with queue := o :: p.queue.drop 1 }

/-- An operation starts (R246, R277, R278): the active set takes its registers, an armed shadow set is disarmed, and a task
of an unstaged node is no longer restartable. -/
def rowStart (s : State) (port : Nat) (o : RowOp) : State :=
  let s := ([o.dst, o.a, o.b, o.desc, BitVec.ofNat 64 o.op].zipIdx).foldl (fun s p => eregSet s (64 + port) p.2 p.1) s
  let s := if o.armed then { s with bte := { s.bte with armed := eraseKey (64 + port) s.bte.armed } } else s
  if ((nodeOf s o.lnum o.node).map (·.unstaged)).getD true then spoilTag s o.lnum o.node o.tag else s

/-- An illegal value in an armed set (R278). -/
def rowIllegal (port : Nat) (o : RowOp) : Bool :=
  o.armed && !o.started && (decide (o.op < 13) || decide (18 < o.op) || rowDescBad o.desc.toNat ||
    bits o.desc.toNat 18 16 != port || (rowMisaligned o.op o.dst o.a o.b).isSome)

/-- The interval of a bank's refreshes (R276). -/
def refreshEvery (s : State) (k : Nat) : Nat := if s.plat.hot.getLsbD (k / 512) then 1950 else 3900
/-- A refresh has been postponed by 4 of the bank's intervals (R276). -/
def refreshPressing (s : State) (k first : Nat) : Bool := decide (first + 4 * refreshEvery s k ≤ s.clock)

/-- The next step's banks are free: none is being refreshed, has to be refreshed before it or has a step in progress, and no
step of another port that wants one of them reached it before (R266, R275, R276). -/
def banksFree (s : State) (port : Nat) (banks : List Nat) (reached : Nat) : Bool :=
  !banks.any (fun b => refreshing s b || s.rows.postponed.any (fun p => p.1 == b && refreshPressing s b p.2.1)) &&
  s.rows.ports.all (fun p => p.1 == port || (match p.2.queue with
    | o :: _ => !meets (goingBanks s o) banks && (match o.reached with
        | some t => !(decide (t < reached) || (t == reached && decide (p.1 < port))) || !meets (nextBanks s o) banks
        | none => true)
    | [] => true))

/-- A step waits before it reaches its banks: at a page or set that waits, and at lines staged for another node (R80, R129,
R153, R269, R429). -/
def rowAdmit (s : State) (o : RowOp) (dst : List (Nat × Nat)) (srcs : List (List (Nat × Nat))) : Acc Unit :=
  if (dst ++ srcs.flatten).any (fun r => pageWaits s r.1 || setScanned s r.1 r.2) then .wait s
  else settleClash 16 s (rowViewer s o) dst

/-- The next step of a port's operation, or its end (R266, R269, R275, R277, R278). -/
def rowStepNow (s : State) (port : Nat) : State :=
  let p := rowPortOf s port
  match p.queue with
  | [] => s
  | o :: rest =>
    if !p.post.isEmpty || s.clock < o.accepted + 64 || s.clock < o.ready || (!o.started && s.core.spilling) then s
    else if rowIllegal port o then rowEnd s port o Cause.illegalEncoding.code
    else if rowSteps o ≤ o.k then rowEnd s port o 0
    else
      match rowPlan s o with
      | .wait s => s
      | .fault s c _ _ => rowEnd s port o c.code
      | .ok s (dst, srcs, o) =>
        let s := setRowPort s port { p with queue := o :: rest }
        if 15 ≤ o.op && !(dst ++ srcs.flatten).all (fun r => inBitwise s r.1) then rowEnd s port o Cause.accessDenied.code
        else
          match rowAdmit s o dst srcs with
          | .wait s => s
          | .fault s c _ _ => rowEnd s port o c.code
          | .ok s _ =>
            let reached := o.reached.getD s.clock
            if !banksFree s port (runBanks s (dst ++ srcs.flatten)) reached then
              setRowPort s port { rowPortOf s port with queue := { o with reached := some reached } :: rest }
            else rowPerform (if o.started then s else rowStart s port o) port o dst srcs

/-- A port that waits to post (R244, R273). -/
def rowPost (s : State) (port : Nat) : State :=
  let p := rowPortOf s port
  match p.post with
  | w :: r => if canPost s then pushCompletion (setRowPort s port { p with post := r }) w else s
  | [] => s

def rowClock (s : State) (port : Nat) : State := if (rowPortOf s port).post.isEmpty then rowStepNow s port else rowPost s port

/-! ### Refresh -/

/-- A step is in progress on a bank (R276). -/
def bankStepped (s : State) (k : Nat) : Bool :=
  s.rows.ports.any (fun p => match p.2.queue with | o :: _ => (goingBanks s o).contains k | [] => false)
/-- A row operation that has begun goes on in a bank with its next step (R276). -/
def bankHeld (s : State) (k : Nat) : Bool :=
  s.rows.ports.any (fun p => match p.2.queue with
    | o :: _ => o.started && decide (o.k < rowSteps o) && (nextBanks s o).contains k
    | [] => false)

/-- Refreshes occupy a bank from now on, those that were postponed made up (R276). -/
def refreshStart (s : State) (k n : Nat) : State :=
  { s with rows := { s.rows with refresh := storeAt s.rows.refresh k (max s.clock (lookupD s.rows.refresh k 0) + 350 * n), postponed := eraseAt s.rows.postponed k } }

/-- A refresh due since clock `first` may begin: no step is in progress on its bank, and no operation goes on there, unless the
refresh has been postponed by 4 intervals (R276). -/
def refreshMay (s : State) (k first : Nat) : Bool :=
  !bankStepped s k && (!bankHeld s k || refreshPressing s k first)

/-- A bank's refresh falls due: it occupies the bank, or is postponed (R276). -/
def refreshDue (s : State) (h bank : Nat) : State :=
  let k := 512 * h + bank
  let p := lookupD s.rows.postponed k (s.clock, 0)
  if refreshMay s k p.1 then refreshStart s k (p.2 + 1)
  else { s with rows := { s.rows with postponed := storeAt s.rows.postponed k (p.1, p.2 + 1) } }

/-- A bank's refresh is over once its clocks are (R276). -/
def refreshEnd (s : State) (h bank : Nat) : State :=
  if refreshing s (512 * h + bank) then s else { s with rows := { s.rows with refresh := eraseAt s.rows.refresh (512 * h + bank) } }

/-- The banks whose refresh falls due on this clock: bank k, as 512 × stack + bank, at the end of its interval less k clocks.
R276 gives the interval and no phase (DESIGN CHOICE, log entry 107). -/
def dueBanks (s : State) : List Nat :=
  [3900, 1950].flatMap (fun n => ((List.range 4).map (fun j => n - 1 - s.clock % n + n * j)).filter (fun k =>
    decide (k < 6144) && s.part.hbmStacks.getLsbD (k / 512) && refreshEvery s k == n))

/-- One clock of the banks' refreshes (R276): those whose clocks are over end, those due and those postponed begin. -/
def refreshTick (s : State) : State :=
  let s := { s with rows := { s.rows with refresh := s.rows.refresh.filter (fun e => decide (s.clock < e.2)) } }
  let s := s.rows.postponed.foldl (fun s e => if refreshMay s e.1 e.2.1 then refreshStart s e.1 e.2.2 else s) s
  (dueBanks s).foldl (fun s k => refreshDue s (k / 512) (k % 512)) s

/-! ### The row syllables -/

/-- A row syllable (R267, R268). -/
def rowSyl (i : Instr) (op : Nat) (c a b e : XReg) (s : State) : Host.Outcome State Fault Refusal :=
  syl i s (fun s =>
    let desc := readX s c
    let d := readX s a
    let x := readX s b
    let y := readX s e
    if rowDescBad desc.toNat then .trap s .illegalEncoding (0x40 + s.core.idx) desc
    else
      match rowMisaligned op d x y with
      | some w => .trap s .align (0x80 + 8 * 2 + 3) w
      | none =>
        let u := coreUser s
        let k := rowPortNum desc.toNat
        let p := rowPortOf s k
        .done (setRowPort s k { p with queue := p.queue ++
          [{ op := op, dst := d, a := x, b := y, desc := desc, lnum := u.lnum, node := u.node, tag := u.tag, priv := u.priv, accepted := s.clock }] }))

def execRowcpy (c a b : XReg) (s : State) := rowSyl (.rowcpy c a b) 13 c a b 0 s
def execRowfil (c a b : XReg) (s : State) := rowSyl (.rowfil c a b) 14 c a b 0 s
def execRowand (c a b e : XReg) (s : State) := rowSyl (.rowand c a b e) 15 c a b e s
def execRowor (c a b e : XReg) (s : State) := rowSyl (.rowor c a b e) 16 c a b e s
def execRowxor (c a b e : XReg) (s : State) := rowSyl (.rowxor c a b e) 17 c a b e s
def execRownot (c a b : XReg) (s : State) := rowSyl (.rownot c a b) 18 c a b 0 s

/-- The DPA of a GM address as `ROWQ` translates it (R274): none yet for a page that is moving (R135). -/
def rowqPage (s : State) (priv : Bool) (w : Word) : Option (Option Nat) :=
  if 2 ^ 56 ≤ w.toNat then some none
  else
    match translate s (coreLnum s) (coreRoot s) w.toNat {} priv with
    | (_, .page d) => some (some (d + w.toNat % 4096))
    | (_, .fault ..) => some none
    | (_, .moving) => none

/-- The answer of `ROWQ` (R274), once both addresses have been translated. -/
def rowqWord (s : State) (priv : Bool) (a b : Word) : Option Nat :=
  match rowqPage s priv a, rowqPage s priv b with
  | some (some x), some (some y) =>
    some (b2n (subarrayOf s (x / 2048 * 2048) == subarrayOf s (y / 2048 * 2048)) + 2 * b2n (stackOf s x == stackOf s y) +
      4 * b2n (inSpan s x || inSpan s y) + 8 * b2n (inBitwise s x && inBitwise s y))
  | some none, some _ | some _, some none => some 16
  | _, _ => none

/-- The answers of `ROWQ`s that waited at a moving page, at the earliest 40 clocks after issue (R135, R274). -/
def rowAnswers (s : State) : State :=
  s.rows.asks.foldl (fun s q =>
    match rowqWord s q.priv q.a q.b with
    | none => s
    | some v => supply { s with rows := { s.rows with asks := s.rows.asks.erase q } } q.id v .clean (max 1 (q.issued + 40 - s.clock))) s

/-- `ROWQ` (R274). -/
def execRowq (d a b : XReg) (s : State) := syl (.rowq d a b) s (fun s =>
  guardPush s d (
    match rowqWord s (corePriv s) (readX s a) (readX s b) with
    | some v => .done (pendX s d (BitVec.ofNat 64 v) .clean 40)
    | none =>
      match lateDest s d with
      | (t, some dst) =>
        let q := pend t dst none .clean none
        .done { q.1 with rows := { q.1.rows with asks := q.1.rows.asks ++ [{ id := q.2, a := readX s a, b := readX s b, issued := s.clock, priv := corePriv s }] } }
      | (t, none) => .done t))

end Sys2Proof.Machine
end

