-- ==== Sys2Proof/Machine/Fabric.lean ====
section
/-!
DEFINITION. Fabric commands at their ports, arriving packets, signals, pod-scope SC operations, and the FB
syllables with ops 0 to 10 (R154 to R158, R284 to R290, R302 to R314).
-/
namespace Sys2Proof.Machine
open Sys2Proof

/-! ### Commands -/

def fabPort (s : State) (n : Nat) : FabPort := lookupD s.fabric.ports n {}
def setFabPort (s : State) (n : Nat) (p : FabPort) : State := { s with fabric := { s.fabric with ports := storeAt s.fabric.ports n p } }
def fabUser (n : Nat) (c : FabCmd) : EngUser := { lnum := c.lnum, node := c.node, tag := c.tag, priv := c.priv, cmd := 101 + n }

/-- Fields of a fabric descriptor (R304). -/
def descPkg (d : Nat) : Nat := pkgCode (bits d 63 58) (bits d 57 52) (bits d 51 47)
def descRspace (d : Nat) : Nat := bits d 46 44
def descLspace (d : Nat) : Nat := bits d 43 41
def descCq (d : Nat) : Bool := bit d 40
def descSect (d : Nat) : Nat := bits d 35 16 + 1
def descTag (d : Nat) : Nat := bits d 15 0

/-- A remote address has no bit outside its space's form, and is a multiple of 32 (R305). -/
def remoteBad (space a : Nat) : Bool :=
  a % 32 != 0 ||
  (if space == 0 then bits a 63 41 != 0 || bits a 31 20 != 0
   else if space == 1 then bits a 63 39 != 0 || bits a 31 22 != 0
   else if space == 2 then bits a 63 40 != 0
   else if space == 3 then bits a 63 56 != 0
   else false)

/-- A barrier word breaks R305. -/
def barWordBad (b : Nat) : Bool := bits b 63 32 != 0 || b % 16 != 0 || (bit b 22 && bits b 31 30 != 0)

/-- The operands of a command, each with whether it breaks R304 or R305: descriptor, local address, remote
address or endpoint, barrier word. -/
def fabParts (c : FabCmd) : List (Bool × Nat) :=
  let d := c.desc
  if c.op == 4 then [(bits d 46 41 != 0 || bits d 39 16 != 0, d), (barWordBad c.bar, c.bar)]
  else
    [(bits d 39 36 != 0 || decide (4 < descLspace d) || decide (4 < descRspace d) || (c.op == 0 && descRspace d != 0) ||
        (c.op == 2 && c.flag && decide (8 < descSect d)) || (c.op == 6 && descPkg d != 0), d),
     (c.laddr % 32 != 0, c.laddr),
     (if c.op == 0 then bits c.raddr 63 20 != 0 || bits c.raddr 15 9 != 0 else remoteBad (descRspace d) c.raddr, c.raddr),
     ((c.op == 2 || (c.op == 6 && c.flag)) && barWordBad c.bar, c.bar)]

/-- The first operand that breaks R304 or R305. An armed set is checked the same way (R302). -/
def fabOperand (c : FabCmd) : Option Word := ((fabParts c).find? (·.1)).map (fun p => BitVec.ofNat 64 p.2)

/-- The stream class of a command's packets (R306): 0 data, 1 signal, 3 control. -/
def fabClass (c : FabCmd) : Nat := if c.op == 4 then 1 else if c.op == 2 && c.flag then 3 else 0

/-- The members a command serves, in order (R306). -/
def fabTargets (s : State) (c : FabCmd) : List Nat :=
  if c.op == 6 then ((List.range 64).filter (fun x => bit c.mask x)).map (podPkg s) else [descPkg c.desc]

/-- Whether the command sends a signal after its data (R306). -/
def fabSignals (c : FabCmd) : Bool := c.op == 2 && !c.flag || (c.op == 6 && c.flag)

/-! ### Completion -/

/-- The members of an `FMCAST` that have performed every sector (R307), whatever became of the signal. -/
def membersDone (s : State) (a : FabActive) : Nat :=
  ((fabTargets s a.cmd).filter (fun x => descSect a.cmd.desc ≤ lookupD a.tally x 0)).length
/-- Sectors have been performed at a member. -/
def FabActive.served (a : FabActive) (dst k : Nat) : FabActive :=
  { a with performed := a.performed + k, tally := storeAt a.tally dst (lookupD a.tally dst 0 + k) }

/-- A command is over: completion word, the port's failure count (R307, R309). -/
def fabComplete (s : State) (n : Nat) (a : FabActive) (status : Nat) : State :=
  let p := fabPort s n
  let detail := if a.cmd.op == 6 then membersDone s a else a.performed
  let s := untouch s (101 + n)
  let s := eregSet s (72 + n) 8 0
  let s := setFabPort s n { p with active := none, failed := if status == 0 then p.failed else p.failed + 1 }
  if status == 0 && !descCq a.cmd.desc then s
  else
    let w := completionWord detail (b2n a.poison + 2 * b2n a.replayed) status n 2 (descTag a.cmd.desc)
    if canPost s then pushCompletion s w else let p := fabPort s n; setFabPort s n { p with post := p.post ++ [w] }

/-- The first failing cause: for `FMCAST` that of the lowest member that failed (R307). -/
def fabStatus (a : FabActive) : Nat :=
  if a.cmd.op == 6 then
    let low := (a.bad.map (·.1)).foldl min ((a.bad.head?.map (·.1)).getD 0)
    ((a.bad.find? (fun b => b.1 == low)).map (·.2)).getD 0
  else ((a.bad.head?).map (·.2)).getD 0

/-! ### Signals -/

/-- The signals that the task of a command has sent (R290). -/
def signalsOf (s : State) (c : FabCmd) : Nat := lookupD s.fabric.sigCount c.owner 0
/-- The identity of the next signal of a command's task (R290). -/
def signalIdent (s : State) (c : FabCmd) : Nat :=
  ownPkg s * 2 ^ 111 + c.lnum * 2 ^ 95 + c.node * 2 ^ 79 + c.superstep % 256 * 2 ^ 71 + c.ticket * 2 ^ 32 + signalsOf s c

/-- The OC address of the barrier that a barrier word names on this package (R305). -/
def barWordOc (b : Nat) : Nat :=
  if bit b 22 then qsBase + bits b 29 23 * 0x400000 + bits b 21 0 else lsBase + bits b 31 23 * 0x400000 + bits b 19 0

/-- The barrier that a barrier word names is live; an LS address beyond the store names none (R248, R305). -/
def barWordLive (s : State) (b : Nat) : Bool := (bit b 22 || bits b 21 20 == 0) && barrierLive s (barWordOc b)

/-- The identity table of a unit is full (R290). -/
def signalsFull (s : State) (dim : Nat) : Bool := decide (16384 ≤ (s.fabric.signals.filter (fun e => e.dim == dim)).length)
/-- The Tether unit by which packets of a package arrive, the last that their path crosses (R16, R289). -/
def arrivalUnit (s : State) (src : Nat) : Nat :=
  if coordOf src 2 != ownCoord s 2 then 2 else if coordOf src 1 != ownCoord s 1 then 1 else 0

/-- Entries of the identity table that a barrier's current phase keeps (R290). -/
def keepSignals (s : State) : State :=
  { s with fabric := { s.fabric with signals := s.fabric.signals.filter (fun e =>
      let ph := (barrierAt s (e.unit * 16)).phase
      s.tags.contains e.unit && (e.phase == ph || (e.phase + 1) % 16 == ph)) } }

/-- Perform a signal that a unit has received (R248, R290): the status of the sender's command. -/
def applySignal (s : State) (dim word ident : Nat) : State × Nat :=
  let oc := barWordOc word
  let s := keepSignals s
  if !barWordLive s word then (s, Cause.barrierClobber.code)
  else if s.fabric.signals.any (fun e => e.unit == oc / 16 && e.ident == ident) then
    ({ s with fabric := { s.fabric with dupSignals := s.fabric.dupSignals + 1 } }, 0)
  else
    let ph := (barrierAt s oc).phase
    let s := { s with fabric := { s.fabric with signals := { dim := dim, unit := oc / 16, phase := ph, ident := ident } :: s.fabric.signals } }
    (barrierUpdate s oc 1 0, 0)

/-- The signal's payload flit (R290). -/
def signalFlit (word ident : Nat) : Sector := BitVec.ofNat 256 (ident + word % 2 ^ 32 * 2 ^ 128)

/-- A task's count of signals has run out (R290). -/
def signalsSpent (s : State) (c : FabCmd) : Bool := decide (2 ^ 32 - 1 ≤ signalsOf s c)

/-! ### Performing a packet at its destination -/

/-- The user of an arriving packet (R154, R306): the launch it names, nobody's node. -/
def packetUser (s : State) (p : Packet) : EngUser :=
  { lnum := p.launch, node := 0xFFFFFFFF, tag := 0, priv := ((launchOf s p.launch).map (·.priv)).getD false }

/-- An arriving access is class 2 with the source's x (R405). -/
def packetReq (p : Packet) : Requester := { cls := 2, id := coordOf p.src 0, lnum := p.launch }

/-- The commands of a stream, one at a time, as the folio manager knows them (R357). -/
def packetKey (p : Packet) : Nat := 1000 + p.src * 8 + p.cls

/-- The place of one sector of an arriving access (R305, R306). -/
def remotePlace (s : State) (p : Packet) (a : Nat) (need : Need) : Acc Place :=
  let side (oc : Nat) : Acc Place :=
    if !ownedByEngine s oc 32 then .fault s .ownerViolation 7 a
    else if need.wr && meetsTag s oc 32 then .fault s .barrierClobber 8 a
    else .ok s (.oc oc)
  if p.rspace == 0 then
    (if !coreOn s (bits a 40 32) || decide (0x100000 < bits a 31 0 + 32) then .fault s .ocUnmapped 0 a else side (lsBase + bits a 40 32 * 0x400000 + bits a 19 0))
  else if p.rspace == 1 then
    (if !quadOn s (bits a 38 32) || decide (0x400000 < bits a 31 0 + 32) then .fault s .ocUnmapped 0 a else side (qsBase + bits a 38 32 * 0x400000 + bits a 21 0))
  else if p.rspace == 2 then ocCheck s { core := false, priv := (packetUser s p).priv, req := packetReq p } (a : Int) 32 need.rd need.wr
  else if p.rspace == 3 then
    let u := packetUser s p
    match translateFor s (u.root s) a need u.priv with
    | .page d =>
      let d := d + a % 4096
      if !dpaPermits s d 32 (packetReq p) need.rd need.wr then .fault s .accessDenied 1 a
      else if dpaWaits s d 32 need.wr || (need.wr && (stagedClash s { lnum := u.lnum, node := u.node } [(d, 32)]).isSome) then .wait s
      else .ok s (.gm [(d, 32)])
    | .fault c r => .fault s c r a
    | .moving => .wait s
  else
    let u := packetUser s p
    (folioCheck s {} (packetReq p) (packetKey p) a 32 need).bind (fun s q =>
      match q with
      | .gm runs => if need.wr && (stagedClash s { lnum := u.lnum, node := u.node } runs).isSome then .wait s else .ok s q
      | _ => .ok s q)

/-- The last packet of a command, or one that ends it, lets the folios go that the command has touched (R357). -/
def packetLeaves (s : State) (p : Packet) (failed : Bool) : State := if failed || bit p.aux 0 then untouch s (packetKey p) else s
/-- A packet's accesses are over. -/
def packetDone {α : Type} (p : Packet) (a : Acc α) : Acc α :=
  match a with
  | .ok s v => .ok (packetLeaves s p false) v
  | .fault s c r d => .fault (packetLeaves s p true) c r d
  | .wait s => .wait s

/-- Perform writes of a packet's sectors in order; all are checked before any is written (R306). -/
def writePacket (s : State) (p : Packet) : Acc Unit :=
  let places := (List.range p.pay.length).foldl (fun acc i =>
    acc.bind (fun s l => (remotePlace s p (p.addr + 32 * i) { wr := true }).bind (fun s q => .ok s (l ++ [q])))) (Acc.ok s [])
  packetDone p (places.bind (fun s l =>
    .ok ((l.zip p.pay).zipIdx.foldl (fun s q => placeWrite s q.1.1 (leBytes 32 q.1.2.toNat) (bit p.psn q.2) true {}) s) ()))

/-- The first packet of a command: bit 1 of its `AUX` (R306; DESIGN CHOICE, log entry 30). -/
def firstOf (p : Packet) : Bool := bit p.aux 1

/-- A message under way in a stream is discarded (R306). Its slot goes back to the ring when it is the last one claimed
(DESIGN CHOICE, log entry 94). -/
def dropMessage (s : State) (key : Nat) : State :=
  match s.fabric.messages.find? (fun m => m.1 == key) with
  | none => s
  | some (_, ring, slot, _) =>
    let s := { s with fabric := { s.fabric with messages := s.fabric.messages.filter (fun m => m.1 != key) } }
    if ringOn s.core ring && (slot + 1) % ringSlots s.core ring == ringClaimOf s ring then
      let w := ringCnt s ring
      setClaim (setRingCnt s ring (rngWord (rngTail w) (rngHead w) (rngFree w + 1) (rngFilled w))) ring slot
    else s

/-- A message packet to a ring slot (R254, R306). AUX holds core and ring; `LAST` ends the message. -/
def sendPacketIn (s : State) (p : Packet) : Acc Unit :=
  let core := bits p.aux 16 8
  let ring := bits p.aux 23 20
  let key := p.src * 4 + p.cls
  let s := if firstOf p then dropMessage s key else s
  if core != 0 || !ringOn s.core ring then .fault (dropMessage s key) .accessDenied 1 p.addr
  else
    let held := s.fabric.messages.find? (fun m => m.1 == key)
    let start : Option (State × Nat × Nat) :=
      match held with
      | some m => some (s, m.2.2.1, m.2.2.2)
      | none => (claimSlot s ring).map (fun r => (r.1, r.2, 0))
    if held.isNone && !firstOf p then .fault s .accessDenied 1 p.addr
    else match start with
    | none => .wait s
    | some (s, slot, done) =>
      let rest := s.fabric.messages.filter (fun m => m.1 != key)
      if slotSectors s.core ring < done + p.pay.length then
        .fault (dropMessage { s with fabric := { s.fabric with messages := (key, (ring, (slot, done))) :: rest } } key) .accessDenied 1 p.addr
      else
        let oc := slotOc s.core ring slot + 32 * done
        let s := (p.pay.zipIdx).foldl (fun s q => { s with oc := s.oc.store (oc + 32 * q.2) (leBytes 32 q.1.toNat) (bit p.psn q.2) }) s
        if bit p.aux 0 then .ok (fillSlot { s with fabric := { s.fabric with messages := rest } } ring slot) ()
        else .ok { s with fabric := { s.fabric with messages := (key, (ring, (slot, done + p.pay.length))) :: rest } } ()

/-- The sectors of a read (R306). -/
def readPacket (s : State) (p : Packet) (n : Nat) : Acc (List (Nat × Bool)) :=
  packetDone p ((List.range n).foldl (fun acc i =>
    acc.bind (fun s l => (remotePlace s p (p.addr + 32 * i) { rd := true }).bind (fun s q =>
      let r := match q with | .gm runs => gmRead s runs {} .remote | _ => placeRead s q 32 true {}
      .ok r.1 (l ++ [(leNat r.2.1, r.2.2)])))) (Acc.ok s []))

/-- The atomic of a pod-scope operation at its home (R158, R160, R308): the old value or a cause. -/
def amoAt (s : State) (p : Packet) : Acc Nat :=
  let n := if bit p.aux 3 then 8 else 4
  let v := ((p.pay.head?).getD 0).toNat
  let a := bits p.addr 55 0
  let u := packetUser s p
  match translateFor s (u.root s) a { rd := true, wr := true } u.priv with
  | .page d =>
    let d := d + a % 4096
    if !dpaPermits s d n (packetReq p) true true then .fault s .accessDenied 1 a
    else if dpaWaits s d n true || (stagedClash s { lnum := u.lnum, node := u.node } [(d, n)]).isSome then .wait s
    else
      let r := dpaRead s d n {}
      let old := leNat r.2.1
      if r.2.2 then .fault r.1 .poisonConsumed 0 a
      else
        match amoNew (AmoOp.ofCode (bits p.aux 2 0)) n old (bits v 63 0 % 2 ^ (8 * n)) (bits v 127 64) with
        | some new => .ok (dpaWrite r.1 d (leBytes n new) false .engine {}) old
        | none => .ok (dpaRead s d n {} .remote).1 old
  | .fault c r => .fault s c r a
  | .moving => .wait s

/-! ### The banks that ports and arriving packets need (R119, R122) -/

/-- The OC address of a remote LS, QS or OC address (R305). -/
def remoteOc (space a : Nat) : Option Nat :=
  if space == 0 then some (lsBase + bits a 40 32 * 0x400000 + bits a 19 0)
  else if space == 1 then some (qsBase + bits a 38 32 * 0x400000 + bits a 21 0)
  else if space == 2 then some a else none
/-- The sectors of the core's LS or its quad's QS that `k` sectors of a packet are written to or read from. -/
def packetSides (s : State) (p : Packet) (k : Nat) : List Nat :=
  if p.typ == 6 then
    (let ring := bits p.aux 23 20
     let at_ := ((s.fabric.messages.find? (fun m => m.1 == p.src * 4 + p.cls && !firstOf p)).map (fun m => m.2.2)).getD (ringClaimOf s ring, 0)
     if bits p.aux 16 8 != 0 || !ringOn s.core ring then [] else (List.range k).map (fun i => slotOc s.core ring at_.1 + 32 * (at_.2 + i)))
  else if p.typ == 0 || p.typ == 1 then ((List.range k).filterMap (fun i => remoteOc p.rspace (p.addr + 32 * i))).filter ownStore
  else []
/-- The same of the local side of a command. -/
def localSides (c : FabCmd) (at_ k : Nat) : List Nat := (List.range k).filterMap (fun i => ownSide (descLspace c.desc) ((c.laddr + 32 * (at_ + i) : Nat) : Int))

/-! ### Acknowledgements and responses at the sender -/

/-- Change an active command. -/
def onFab (s : State) (n : Nat) (f : FabActive → FabActive) : State :=
  let p := fabPort s n
  setFabPort s n { p with active := p.active.map f }

/-- Every port in turn. -/
def eachPort (s : State) (f : State → Nat → State) : State := (List.range 8).foldl f s

/-- An acknowledgement for packets of a stream up to a number (R306, R307; DESIGN CHOICE, log entry 30). -/
def ackStream (s : State) (src cls sseq status : Nat) : State :=
  eachPort s (fun s n =>
    match (fabPort s n).active with
    | none => s
    | some a =>
      let hit (w : Await) : Bool := w.dst == src && w.cls == cls && w.sseq == sseq
      match a.awaiting.find? hit with
      | none => s
      | some w =>
        onFab s n (fun a => { (if status == 0 then a.served src w.nsect else a) with
          awaiting := if status == 0 then a.awaiting.filter (fun x => !hit x) else a.awaiting.filter (fun x => !(x.dst == src && x.cls == cls))
          bad := if status == 0 || a.bad.any (fun b => b.1 == src) then a.bad else a.bad ++ [(src, status)] }))

/-- A failure for a member (R306, R307). -/
def failTarget (a : FabActive) (dst status : Nat) : FabActive :=
  { a with bad := if a.bad.any (fun b => b.1 == dst) then a.bad else a.bad ++ [(dst, status)], awaiting := a.awaiting.filter (fun w => w.dst != dst) }

/-- The signal of a command to a member, sent after its data, aborted or not (R306). One to this package itself is kept by
unit X (DEDUCED, log entry 95). -/
def sendSignal (s : State) (n : Nat) (a : FabActive) (dst : Nat) : State :=
  let ident := signalIdent s a.cmd
  let s := { s with fabric := { s.fabric with sigCount := storeAt s.fabric.sigCount a.cmd.owner (signalsOf s a.cmd + 1) } }
  if dst == ownPkg s then
    let r := applySignal s 0 a.cmd.bar ident
    onFab r.1 n (fun a => if r.2 == 0 then a else failTarget a dst r.2)
  else
    let r := enqueue s { typ := 3, cls := fabClass a.cmd, src := ownPkg s, dst := dst, launch := a.cmd.lnum, pay := [signalFlit a.cmd.bar ident] } a.cmd.pin s.clock
    onFab r.1 n (fun a => { a with formed := a.formed + 1, awaiting := a.awaiting ++ [{ dst := dst, cls := fabClass a.cmd, sseq := r.2, nsect := 0 }] })

/-- The acknowledgement of the pod-scope SC operation that this package sent in slot `slot` modulo 2^16 (R157, R308). An
`FWRS.sc` sends its signal when its sectors have been performed (R155, R306; DEDUCED, log entry 35). -/
def scAnswer (s : State) (slot status old : Nat) : State :=
  match s.fabric.sc with
  | none => s
  | some o =>
    if o.slot.map (· % 2 ^ 16) != some (slot % 2 ^ 16) then s else
    let s := { s with fabric := { s.fabric with sc := none } }
    let s := match o.result with
      | some id => supply s id old (if status == 0 then .clean else .fabric (BitVec.ofNat 8 status) o.xa) 1
      | none => s
    match o.port with
    | some n =>
      let s := onFab s n (fun a => { a with awaiting := [], performed := if status == 0 then descSect a.cmd.desc else 0
                                            bad := if status == 0 then a.bad else [(o.pkt.dst, status)] })
      (match (fabPort s n).active with
       | some a => sendSignal s n a o.pkt.dst
       | none => s)
    | none => s

/-! ### Sending a command's packets -/

/-- Read up to 8 local sectors of a command (R306). -/
def readLocal (s : State) (n : Nat) (a : FabActive) (k : Nat) : Acc (List (Nat × Bool) × List HeldPage) :=
  (List.range k).foldl (fun acc i =>
    acc.bind (fun s r =>
      (engAccess s (fabUser n a.cmd) r.2 (descLspace a.cmd.desc) ((a.cmd.laddr + 32 * (a.next + i) : Nat) : Int) 32 { rd := true }).bind (fun s q =>
        let v := placeRead s q.1 32 true ((fabUser n a.cmd).viewer s)
        .ok v.1 (r.1 ++ [(leNat v.2.1, v.2.2)], q.2)))) (.ok s ([], a.pages))

/-- A packet of a command to a member. -/
def cmdPacket (s : State) (a : FabActive) (typ cls dst aux addr : Nat) (l : List (Nat × Bool)) : Packet :=
  { typ := typ, cls := cls, src := ownPkg s, dst := dst, launch := a.cmd.lnum, rspace := descRspace a.cmd.desc
    psn := packElems 1 (l.map (fun v => b2n v.2)), aux := aux, addr := addr, pay := l.map (fun v => BitVec.ofNat 256 v.1) }

/-- The next member, or nothing more to send. -/
def nextTarget (a : FabActive) : FabActive :=
  { a with targets := a.targets.drop 1, next := 0, sent := (a.targets.drop 1).isEmpty }

/-- Perform one packet of a command on this package itself (R306). -/
def localPacket (s : State) (n : Nat) (p : Packet) (k : Nat) : State :=
  let out := if p.typ == 6 then sendPacketIn s p else writePacket s p
  match out with
  | .ok s _ => onFab s n (fun a => { a.served p.dst k with next := a.next + k, formed := a.formed + 1, poison := a.poison || p.psn != 0 })
  | .fault s c _ _ => onFab s n (fun a => { failTarget a p.dst c.code with next := descSect a.cmd.desc })
  | .wait s => s

/-- Write the sectors of a read's response locally, staged for a staged node (R306). -/
def writeSectors (s : State) (n : Nat) (a : FabActive) (addr : Nat) (l : List (Nat × Bool)) : Acc (List HeldPage) :=
  (l.zipIdx).foldl (fun acc v =>
    acc.bind (fun s pages =>
      (engAccess s (fabUser n a.cmd) pages (descLspace a.cmd.desc) ((addr + 32 * v.2 : Nat) : Int) 32 { wr := true }).bind (fun s q =>
        .ok (placeWrite s q.1 (leBytes 32 v.1.1) v.1.2 true ((fabUser n a.cmd).viewer s)) q.2))) (Acc.ok s a.pages)
/-- The same for a port's command, which takes note of it. -/
def writeLocal (s : State) (n : Nat) (addr : Nat) (l : List (Nat × Bool)) : Acc Unit :=
  match (fabPort s n).active with
  | none => .ok s ()
  | some a =>
    match writeSectors s n a addr l with
    | .ok s pages => .ok (onFab s n (fun a => { a with pages := pages, performed := a.performed + l.length, poison := a.poison || l.any (·.2) })) ()
    | .fault s c _ _ => .ok (onFab s n (fun a => { failTarget a (descPkg a.cmd.desc) c.code with targets := [], sent := true, awaiting := [] })) ()
    | .wait s => .wait s

/-- A remote read of this package's own memory (R306). -/
def localRead (s : State) (n : Nat) (a : FabActive) (k : Nat) : State :=
  let p := cmdPacket s a 1 0 (ownPkg s) (b2n (decide (descSect a.cmd.desc ≤ a.next + k))) (a.cmd.raddr + 32 * a.next) []
  match readPacket s p k with
  | .ok s l =>
    let addr := a.cmd.laddr + 32 * a.next
    match writeLocal s n addr l with
    | .ok s _ | .fault s _ _ _ => onFab s n (fun a => { a with next := a.next + k, formed := a.formed + 1 })
    | .wait s => s
  | .fault s c _ _ => onFab s n (fun a => { failTarget a p.dst c.code with next := descSect a.cmd.desc })
  | .wait s => s

/-- The sectors that a command has still to send (R302). -/
def fabLeft (a : FabActive) : Nat := if a.cmd.op == 4 then 0 else a.targets.length * descSect a.cmd.desc - a.next

/-- What the next packet of a port's command reaches of LS and QS: what it reads here and, addressed to this package, where it is
performed (R122, R306). -/
def fabSides (s : State) (n : Nat) : List Nat :=
  let p := fabPort s n
  match p.active, p.queue with
  | some a, _ =>
    (match a.targets with
     | [] => []
     | dst :: _ =>
       let k := min 8 (descSect a.cmd.desc - a.next)
       let aux := 2 * b2n (a.next == 0) + (if a.cmd.op == 0 then bits a.cmd.raddr 8 0 * 2 ^ 8 + bits a.cmd.raddr 19 16 * 2 ^ 20 else 0)
       if a.sent || a.cmd.op == 4 then []
       else (if a.cmd.op == 3 && dst != ownPkg s then [] else localSides a.cmd a.next k) ++
         (if dst == ownPkg s then packetSides s (cmdPacket s a (if a.cmd.op == 0 then 6 else 0) 0 dst aux (a.cmd.raddr + 32 * a.next) []) k else []))
  | none, c :: _ => if c.op == 2 && c.flag then localSides c 0 (descSect c.desc) else []
  | none, [] => []
/-- What the Tether ports ask the crossbar for on this clock (R122): requesters 64 to 71. -/
def portWants (s : State) : List (Nat × BitVec 32) :=
  ((List.range 8).map (fun n => (64 + n, (sideBanks (fabSides s n)).1))).filter (fun c => c.2 != 0)

/-- Form and send the next packet of a command (R286, R306), or move to its next member. -/
def fabSend (s : State) (n : Nat) (a : FabActive) : State :=
  match a.targets with
  | [] => onFab s n (fun a => { a with sent := true })
  | dst :: _ =>
    let failed := a.bad.any (fun b => b.1 == dst)
    let total := if a.cmd.op == 4 then 0 else descSect a.cmd.desc
    if !inSystem s dst then onFab s n (fun a => nextTarget (failTarget a dst Cause.accessDenied.code))
    else if !fabricOn s && dst != ownPkg s then onFab s n (fun a => nextTarget (failTarget a dst Cause.fabricTimeout.code))
    else if failed || total ≤ a.next then
      if (fabSignals a.cmd || a.cmd.op == 4) && dst == ownPkg s && signalsFull (keepSignals s) 0 then s
      else
        let s := if fabSignals a.cmd || a.cmd.op == 4 then sendSignal s n a dst else s
        onFab s n nextTarget
    else
      let k := min 8 (total - a.next)
      let ends := b2n (decide (total ≤ a.next + k)) + 2 * b2n (a.next == 0)
      if a.cmd.op == 3 then
        if dst == ownPkg s then localRead s n a k
        else
          let r := enqueue s (cmdPacket s a 1 0 dst (k * 2 ^ 8 + ends) (a.cmd.raddr + 32 * a.next) []) a.cmd.pin s.clock
          onFab r.1 n (fun a => { a with next := a.next + k, formed := a.formed + 1, awaiting := a.awaiting ++ [{ dst := dst, cls := 0, sseq := r.2, nsect := k, addr := a.cmd.laddr + 32 * a.next }] })
      else
        match readLocal s n a k with
        | .wait s => s
        | .fault s c _ _ => onFab s n (fun a => { failTarget a dst c.code with next := total })
        | .ok s (l, pages) =>
          let s := onFab s n (fun a => { a with pages := pages, poison := a.poison || l.any (·.2) })
          let typ := if a.cmd.op == 0 then 6 else 0
          let aux := ends + (if a.cmd.op == 0 then bits a.cmd.raddr 8 0 * 2 ^ 8 + bits a.cmd.raddr 19 16 * 2 ^ 20 else 0)
          let addr := if a.cmd.op == 0 then 32 * a.next else a.cmd.raddr + 32 * a.next
          let p := cmdPacket s a typ (fabClass a.cmd) dst aux addr l
          if dst == ownPkg s then localPacket s n p k
          else
            let r := enqueue s p a.cmd.pin s.clock
            onFab r.1 n (fun a => { a with next := a.next + k, formed := a.formed + 1, awaiting := a.awaiting ++ [{ dst := dst, cls := fabClass a.cmd, sseq := r.2, nsect := k }] })

/-- A command is in the midst of numbering its packets to a destination and class: nothing else takes a number of that
stream between them (R286). -/
def midStream (s : State) (dst cls : Nat) : Bool :=
  (List.range 8).any (fun n => match (fabPort s n).active with
    | some a => !a.sent && a.targets.head? == some dst && fabClass a.cmd == cls && decide (0 < a.next)
    | none => false)

/-- An earlier command of the core to a destination and class still has packets to number (R286). -/
def earlierUnsent (s : State) (a : FabActive) : Bool :=
  (List.range 8).any (fun n =>
    let p := fabPort s n
    let clash (c : FabCmd) : Bool := decide (c.order < a.cmd.order) && fabClass c == fabClass a.cmd &&
      (fabTargets s c).any (fun t => a.targets.contains t)
    (match p.active with | some b => !b.sent && clash b.cmd | none => false) || p.queue.any clash)

/-! ### Pod-scope SC operations -/

/-- `SEATMAP`'s byte of core 0 (R300). -/
def ownSeat (s : State) : Nat := bits (hubNat s 0x4004008000) 7 0
def hasSeat (s : State) : Bool := bit (ownSeat s) 3

/-- Send the held SC operation in this slot (R157): it takes the slot's seat number. To this package itself it
joins the home's operations. -/
def sendSc (s : State) : State :=
  match s.fabric.sc with
  | none => s
  | some o =>
    if o.slot.isSome || s.clock ≤ o.since || !accessesDone s then s
    else
      let s := match o.port with | some k => eregSet s (72 + k) 8 0 | none => s
      let n := absSlot s
      let seat := ownSeat s % 8
      let s := { s with fabric := { s.fabric with sc := some { o with slot := some n } } }
      let p := { o.pkt with aux := o.pkt.aux % 2 ^ 13 + seat * 2 ^ 13 + n % 2 ^ 16 * 2 ^ 16 }
      if o.pkt.dst == ownPkg s then
        { s with fabric := { s.fabric with scIn := s.fabric.scIn ++ [{ slot := n, pkg := s.part.cx.val, seat := seat, pkt := p }] } }
      else (enqueue s p o.pin s.clock).1

/-- The seat reports that follow a slot (R157): one to each other member. -/
def sendReports (s : State) : State :=
  let n := absSlot s - 1
  ((podMembers s).filter (fun x => x != s.part.cx.val)).foldl (fun s x =>
    let k := match s.fabric.sc with | some o => b2n (o.slot == some n && coordOf o.pkt.dst 0 == x) | none => 0
    (enqueue s { typ := 8, cls := 3, src := ownPkg s, dst := podPkg s x, aux := k, addr := n } none s.clock).1) s

/-- Whether a home holds what slot `n` needs of a member (R157). -/
def slotHeard (s : State) (n x : Nat) : Bool :=
  x == s.part.cx.val ||
  (match s.fabric.reports.find? (fun r => r.1 == n && r.2.1 == x) with
   | some r => decide (r.2.2 ≤ (s.fabric.scIn.filter (fun o => o.slot == n && o.pkg == x)).length)
   | none => false)

/-- Answer an SC operation (R157): its issuer's result, or a response packet. -/
def scReply (s : State) (o : ScIn) (status old : Nat) : State :=
  if o.pkt.src == ownPkg s then scAnswer s o.slot status old
  else (enqueue s { typ := 5, cls := 3, src := ownPkg s, dst := o.pkt.src, aux := status % 256 + o.slot % 2 ^ 16 * 2 ^ 16, addr := old } none s.clock).1

/-- The operations of a slot that came from members whose reports did not come are discarded, and time out at their issuers
(R158). -/
def discardSc (s : State) (n : Nat) (xs : List Nat) : State :=
  let mine := s.fabric.scIn.filter (fun o => o.slot == n && xs.contains o.pkg)
  mine.foldl (fun s o => scReply s o Cause.fabricTimeout.code 0)
    { s with fabric := { s.fabric with scIn := s.fabric.scIn.filter (fun o => !(o.slot == n && xs.contains o.pkg)) } }

/-- Perform one SC operation at its home (R156, R157), or wait for its page or folio. -/
def scDo (s : State) (o : ScIn) : Acc Unit :=
  let out : Acc Nat := if o.pkt.typ == 4 then amoAt s o.pkt else (writePacket s o.pkt).bind (fun s _ => .ok s 0)
  match out with
  | .ok s old => .ok (scReply s o 0 old) ()
  | .fault s c _ _ => .ok (scReply s o c.code 0) ()
  | .wait s => .wait s

/-- The operation of a list with the lowest seat number (R156). -/
def lowestSeat (l : List ScIn) : Option ScIn :=
  l.foldl (fun best o =>
    match best with
    | none => some o
    | some b => if o.pkg < b.pkg || (o.pkg == b.pkg && o.seat < b.seat) then some o else some b) none

/-- The sectors of LS or QS that an SC operation writes at its home. -/
def scSides (s : State) (o : ScIn) : List Nat := packetSides s o.pkt o.pkt.pay.length
/-- What the home of pod-scope SC operations asks the crossbar for on this clock (R122): requester 73. -/
def scWants (s : State) : List (Nat × BitVec 32) :=
  ((lowestSeat (s.fabric.scIn.filter (fun o => o.slot == s.fabric.scNext))).toList.map (fun o => (73, (sideBanks (scSides s o)).1))).filter (fun c => c.2 != 0)

/-- Perform the operations of the home's next slot in seat order (R157, R158). -/
def performSlot : (fuel : Nat) → State → State
  | 0, s => s
  | fuel + 1, s =>
    let n := s.fabric.scNext
    match lowestSeat (s.fabric.scIn.filter (fun o => o.slot == n)) with
    | some o =>
      (match (match bankTurn s 73 (scSides s o) with | some s => scDo s o | none => .wait s) with
       | .ok s _ | .fault s _ _ _ => performSlot fuel { s with fabric := { s.fabric with scIn := s.fabric.scIn.filter (fun x => x != o) } }
       | .wait s => s)
    | none => { s with fabric := { s.fabric with scNext := n + 1, reports := s.fabric.reports.filter (fun r => decide (n < r.1)) } }

/-- The home's SC operations whose clock has come (R157). -/
def scPerform (s : State) : State :=
  if s.clock < slotStartOf s (s.fabric.scNext + 2) + 8 then s
  else if (podMembers s).all (slotHeard s s.fabric.scNext) then performSlot 65 s
  else s

/-- An SC operation of a slot that has passed is dropped and times out at its issuer (R158). -/
def acceptSc (s : State) (p : Packet) : State :=
  let here := absSlot s
  let low := bits p.aux 31 16
  let n := here - (here + 2 ^ 16 - low) % 2 ^ 16
  let o : ScIn := { slot := n, pkg := coordOf p.src 0, seat := bits p.aux 15 13, pkt := p }
  if n < s.fabric.scNext then scReply s o Cause.fabricTimeout.code 0
  else { s with fabric := { s.fabric with scIn := s.fabric.scIn ++ [o] } }

/-! ### A port's clock -/

/-- The pod of a launch: this package alone for one that became resident before the fabric ran (R21, R430). -/
def podOfLaunch (s : State) (lnum : Nat) : List Nat :=
  if ((launchOf s lnum).map (·.solo)).getD false then [s.part.cx.val] else podMembers s
/-- The trap of a pod-scope operation of a launch that may not be sent (R158): detail 2 outside the pod, 3 without a seat. -/
def scRefusal (s : State) (lnum pkg : Nat) : Option Nat :=
  if coordOf pkg 1 != s.part.cy.val || coordOf pkg 2 != s.part.cz.val || !(podOfLaunch s lnum).contains (coordOf pkg 0) then some 2
  else if !hasSeat s then some 3 else none

/-- The active registers 0 to 5 of a command that a syllable gave (R302). -/
def fabRegs (c : FabCmd) : List Nat :=
  [c.desc, c.laddr, c.raddr, c.bar, c.mask, c.op + (if c.flag then (if c.op == 2 then 8 else 16) else 0)]

/-- A command starts (R302, R306, R312): its first packet leaves no earlier than 16 clocks after acceptance. -/
def fabStart (s : State) (n : Nat) : State :=
  let old := s
  let p := fabPort s n
  match p.queue with
  | [] => s
  | c :: rest =>
    if s.clock < c.accepted + 16 || !p.post.isEmpty || s.core.spilling || (c.op == 2 && c.flag && (s.fabric.sc.isSome || s.plat.joining.isSome)) then s
    else
      let a : FabActive := { cmd := c, targets := fabTargets s c }
      let s := if c.armed then disarm s (72 + n) else (fabRegs c).zipIdx.foldl (fun s r => eregSet s (72 + n) r.2 (BitVec.ofNat 64 r.1)) s
      let s := setFabPort s n { p with queue := rest, active := some a }
      let s := eregSet s (72 + n) 8 (BitVec.ofNat 64 (fabLeft a))
      let s := if c.op == 0 || (c.op == 3 && descLspace c.desc != 3 && descLspace c.desc != 4) then
        onTask s (fun t => if t.tag == c.tag then { t with spoiled := true } else t) else s
      if (c.armed && (c.op == 5 || decide (6 < c.op))) || (fabOperand c).isSome then
        fabComplete s n a Cause.illegalEncoding.code
      else if (fabSignals c || c.op == 4 || c.op == 2) && signalsSpent s c then fabComplete s n a Cause.accessDenied.code
      else if c.op == 2 && c.flag then
        (if (scRefusal s c.lnum (descPkg c.desc)).isSome then fabComplete s n a Cause.accessDenied.code
         else
          match (match bankTurn s (64 + n) (localSides c 0 (descSect c.desc)) with | some s => readLocal s n a (descSect c.desc) | none => .wait s) with
          | .ok s (l, _) =>
            let pk := cmdPacket s a 0 3 (descPkg c.desc) 3 c.raddr l
            let s := onFab s n (fun a => { a with targets := [], sent := true, poison := l.any (·.2), awaiting := [{ dst := descPkg c.desc, cls := 3, sseq := 0, nsect := 0 }] })
            { s with fabric := { s.fabric with sc := some { pkt := pk, port := some n, pin := c.pin, since := s.clock } } }
          | .fault s e _ _ => sendSignal (onFab s n (fun a => { failTarget a (descPkg c.desc) e.code with targets := [], sent := true })) n a (descPkg c.desc)
          | .wait t => { t with fabric := old.fabric, bte := old.bte })
      else s

/-- `FTMO` turns have passed since the command was accepted, and it is not complete (R306). -/
def fabLate (s : State) (a : FabActive) : Bool :=
  decide (a.cmd.accepted + 8192 * s.fabric.ftmo.toNat ≤ s.clock) && (!a.sent || !a.awaiting.isEmpty)
/-- The members to which an expired command still owes its signal (R306). -/
def signalsOwed (s : State) (n : Nat) (a : FabActive) : List Nat :=
  (if fabSignals a.cmd then a.targets else if a.cmd.op == 2 && (s.fabric.sc.bind (·.port)) == some n then [descPkg a.cmd.desc] else []).filter
    (fun d => inSystem s d && (fabricOn s || d == ownPkg s))
/-- The reads of other packages that an expired command still awaits are remembered: a response that comes later is written
(R306). -/
def keepReads (s : State) (n : Nat) (a : FabActive) : State :=
  let l := a.awaiting.filter (fun w => a.cmd.op == 3 && w.dst != ownPkg s)
  if l.isEmpty then s else { s with fabric := { s.fabric with expired := s.fabric.expired ++ [(n, { a with awaiting := l, pages := [] })] } }
/-- The port and the read that a response answers. -/
def awaitedRead (s : State) (p : Packet) : Option (Nat × FabActive × Await) :=
  (List.range 8).findSome? (fun n => ((fabPort s n).active).bind (fun a =>
    (a.awaiting.find? (fun w => a.cmd.op == 3 && w.dst == p.src && w.cls == p.cls && w.sseq == bits p.aux 31 8)).map (fun w => (n, a, w))))
/-- The same of a command that has expired. -/
def expiredRead (s : State) (p : Packet) : Option (Nat × FabActive × Await) :=
  s.fabric.expired.findSome? (fun e =>
    (e.2.awaiting.find? (fun w => w.dst == p.src && w.cls == p.cls && w.sseq == bits p.aux 31 8)).map (fun w => (e.1, e.2, w)))
/-- A read of an expired command has been answered. -/
def dropExpired (s : State) (n : Nat) (a : FabActive) (w : Await) : State :=
  let rest := a.awaiting.filter (fun x => x != w)
  { s with fabric := { s.fabric with expired := s.fabric.expired.filter (fun e => !(e.1 == n && e.2 == a)) ++ (if rest.isEmpty then [] else [(n, { a with awaiting := rest })]) } }

/-- Such a command completes with `FABRIC_TIMEOUT`, or with the failure it has met before; what it owes in signals is sent
(R306, R307). -/
def fabExpire (s : State) (n : Nat) (a : FabActive) : State :=
  let owed := signalsOwed s n a
  let s := owed.foldl (fun s d => sendSignal s n a d) s
  let s := keepReads s n a
  fabComplete (if (s.fabric.sc.bind (·.port)) == some n then { s with fabric := { s.fabric with sc := none } } else s) n a
    (if fabStatus a == 0 then Cause.fabricTimeout.code else fabStatus a)

/-- One clock of a Tether port (R302, R306): post, start, send, time out or complete. -/
def fabClock (s : State) (n : Nat) : State :=
  let p := fabPort s n
  match p.post with
  | w :: r => if canPost s then pushCompletion (setFabPort s n { p with post := r }) w else s
  | [] =>
    match p.active with
    | none => fabStart s n
    | some a =>
      if fabLate s a then fabExpire s n a
      else if a.sent && a.awaiting.isEmpty then fabComplete s n a (fabStatus a)
      else if a.sent || earlierUnsent s a then s
      else
        let s := match bankTurn s (64 + n) (fabSides s n) with | some s => fabSend s n a | none => s
        eregSet s (72 + n) 8 (BitVec.ofNat 64 (((fabPort s n).active.map fabLeft).getD 0))

/-! ### FB syllables -/

/-- Accept a command at a port (R303). -/
def fabAccept (s : State) (n : Fin 8) (c : FabCmd) : State :=
  let p := fabPort s n
  let c := fabGiven s c
  setFabPort { s with fabric := { s.fabric with order := s.fabric.order + 1 } } n { p with queue := p.queue ++ [c] }

/-- A syllable that queues a fabric command (R303 to R306). -/
def fabSyl (i : Instr) (n : Fin 8) (c : State → FabCmd) (s : State) : Host.Outcome State Fault Refusal :=
  syl i s (fun s =>
    match fabOperand (c s) with
    | some w => badOperand s w
    | none => .done (fabAccept s n (c s)))

def execFsend (d a b : XReg) (n : Fin 8) (s : State) :=
  fabSyl (.fsend d a b n) n (fun s => { op := 0, desc := readNat s d, laddr := readNat s a, raddr := readNat s b }) s
def execFwr (d a b : XReg) (n : Fin 8) (s : State) :=
  fabSyl (.fwr d a b n) n (fun s => { op := 1, desc := readNat s d, laddr := readNat s a, raddr := readNat s b }) s
def execFwrs (d a b : XReg) (n : Fin 8) (s : State) :=
  fabSyl (.fwrs d a b n) n (fun s => { op := 2, desc := readNat s d, laddr := readNat s a, raddr := readNat s b, bar := readNat s (xNext b 1) }) s
def execFrd (d a b : XReg) (n : Fin 8) (s : State) :=
  fabSyl (.frd d a b n) n (fun s => { op := 3, desc := readNat s d, laddr := readNat s a, raddr := readNat s b }) s
def execFsig (d b : XReg) (n : Fin 8) (s : State) :=
  fabSyl (.fsig d b n) n (fun s => { op := 4, desc := readNat s d, bar := readNat s b }) s
def execFmcast (d a b : XReg) (g : Bool) (n : Fin 8) (s : State) :=
  fabSyl (.fmcast d a b g n) n (fun s => { op := 6, desc := readNat s d, laddr := readNat s a, raddr := readNat s b, mask := readNat s (xNext b 1)
                                           bar := if g then readNat s (xNext b 2) else 0, flag := g }) s

/-- A pod-scope SC operation that may not be sent traps with its remote address in `TRAPVAL` (R158, R396; DEDUCED, log entry 130). -/
def execFwrsSc (d a b : XReg) (n : Fin 8) (s : State) := syl (.fwrsSc d a b n) s (fun s =>
  let c : FabCmd := { op := 2, flag := true, desc := readNat s d, laddr := readNat s a, raddr := readNat s b, bar := readNat s (xNext b 1) }
  match fabOperand c with
  | some w => badOperand s w
  | none =>
    match scRefusal s (coreLnum s) (descPkg c.desc) with
    | some k => .trap s .accessDenied k (BitVec.ofNat 64 c.raddr)
    | none => .done (fabAccept s n c))

def execFamo (d a b : XReg) (w : Bool) (u : AmoOp) (s : State) := syl (.famo d a b w u) s (fun s =>
  let t := readX s a
  let n := if w then 8 else 4
  if bits t.toNat 63 62 != 0 || bits t.toNat 55 0 % n != 0 then badOperand s t
  else
    let home := podPkg s (bits t.toNat 61 56)
    match scRefusal s (coreLnum s) home with
    | some k => .trap s .accessDenied k t
    | none => guardPush s d (
      let s := spoil s
      let r := match lateDest s d with
        | (s, some dst) => let q := pend s dst none .clean none; (q.1, some q.2)
        | (s, none) => (s, none)
      let pay : Sector := BitVec.ofNat 256 ((readX r.1 b).toNat + (if u == .cas then (readX r.1 (xNext b 1)).toNat * 2 ^ 64 else 0))
      let pk : Packet := { typ := 4, cls := 3, src := ownPkg s, dst := home, launch := coreLnum s, rspace := 3, aux := u.code + 8 * b2n w, addr := bits t.toNat 55 0, pay := [pay] }
      .done { r.1 with fabric := { r.1.fabric with sc := some { pkt := pk, result := r.2, xa := t, since := s.clock } } }))

/-- Every command of the ports waited for has completed (R309). -/
def portsIdle (s : State) (ns : List Nat) : Bool := ns.all (fun n => (fabPort s n).queue.isEmpty && (fabPort s n).active.isNone && (fabPort s n).post.isEmpty)

def execFwait (d : XReg) (l : Bool) (n : Fin 8) (s : State) := syl (.fwait d l n) s (fun s => guardPush s d (
  let ns := if l then List.range 8 else [n.val]
  if portsIdle s ns then
    let k := (ns.map (fun n => (fabPort s n).failed)).foldl (· + ·) 0
    let s := ns.foldl (fun s n => setFabPort s n { fabPort s n with failed := 0 }) s
    .done (pendX s d (BitVec.ofNat 64 k) .clean 1)
  else waitFor s 0))

/-- `FSLOT` (R310). -/
def slotWord (s : State) : Nat := absSlot s / 64 % 2 ^ 32 * 2 ^ 32 + absSlot s % 64 * 2 ^ 16 + rowNow s 0 * 2 ^ 8 + slotClock s

def execFslot (d : XReg) (s : State) := syl (.fslot d) s (fun s => guardPush s d (.done (pendX s d (BitVec.ofNat 64 (slotWord s)) .clean 2)))

def execFslotWait (a : XReg) (s : State) := syl (.fslotWait a) s (fun s =>
  let began := (s.core.waiting.map (·.1)).getD s.clock
  if decide (began < s.clock) && slotClock s == 8 && rowNow s 0 == bits (readX s a).toNat 5 0 % planePorts s 0 then .done s else waitFor s 0)

def execFcnt (d a : XReg) (m : BitVec 2) (s : State) := syl (.fcnt d a m) s (fun s =>
  let v := readX s a
  if bits v.toNat 63 14 != 0 || bits v.toNat 7 6 != 0 then badOperand s v
  else
    let dim := m.toNat
    let plane := bits v.toNat 5 0
    let peer := bits v.toNat 13 8
    let held := (s.fabric.rx.filter (fun e => e.pkt.credited && e.dim == dim && e.plane == plane && e.peer == peer && !e.reserve)).length
    let w := freeOf s dim plane peer % 32 + held % 32 * 2 ^ 16 + (linkOf s (linkKey dim plane peer)).sent * 2 ^ 32
    guardPush s d (.done (pendX s d (BitVec.ofNat 64 w) .clean 2)))

def execFseat (d : XReg) (s : State) := syl (.fseat d) s (fun s =>
  guardPush s d (.done (pendX s d (BitVec.ofNat 64 (ownSeat s % 16)) .clean 2)))

/-! ### Control registers -/

/-- `FTMO` and `FPIN` (R301). -/
def fabricCsr (s : State) (n : Nat) : Word := if n == 0x400 then s.fabric.ftmo else s.fabric.fpin
def fabricCsrWrite (s : State) (n : Nat) (v : Word) : State :=
  if n == 0x400 then { s with fabric := { s.fabric with ftmo := if v &&& 0xFFF == 0 then 1 else v &&& 0xFFF } }
  else { s with fabric := { s.fabric with fpin := v &&& 0x7F } }

end Sys2Proof.Machine
end

