-- ==== Sys2Proof/Machine/Rigging.lean ====
section
/-!
DEFINITION. Replay units: rigging images, instances and their steps, contributions (R315 to R331, R336 to
R344).
-/
namespace Sys2Proof.Machine
open Sys2Proof

def setReplay (s : State) (n : Nat) (u : ReplayUnit) : State :=
  if h : n < 4 then { s with replay := s.replay.set n u } else s
def onUnit (s : State) (n : Nat) (f : ReplayUnit → ReplayUnit) : State := setReplay s n (f (replayOf s n))
def playUser (p : Play) : EngUser := { lnum := p.lnum, node := p.node, tag := p.tag, priv := p.priv }

/-! ### The image -/

def stepBad (l : List Word) (w : Nat) : Bool :=
  bits w 63 46 != 0 || decide (4 < stepKind w) || decide (imgChunks l ≤ stepChunk w) ||
  (stepKind w != 0 && stepTarget w != 0) ||
  (if 3 ≤ stepKind w then stepPeer w != 0 else !bit (imgMembers l) (stepPeer w))

/-- An image that R318 to R320 and R337 refuse. -/
def imageBad (l : List Word) : Bool :=
  let w0 := imgWord l 0
  bits w0 63 44 != 0 || decide (5 < imgOp l) || imgRid l == 0 || bits (imgWord l 2) 63 24 != 0 || imgWord l 7 != 0 ||
  decide (65536 < imgBytes w0) ||
  (List.range (imgChunks l)).any (fun c => bits (chunkWord l c) 63 52 != 0) ||
  (List.range (imgSteps l)).any (fun k => stepBad l (stepWord l k))

/-- The identities that a unit holds (R315): its image's, or its reshelve's. -/
def unitRid (u : ReplayUnit) : Nat :=
  if !u.image.isEmpty then imgRid u.image
  else match u.reshelve with | some r => bits (imgWord r.desc 5) 63 48 | none => 0
def ridUnit (s : State) (rid : Nat) : Option Nat := (List.range 4).find? (fun n => rid != 0 && unitRid (replayOf s n) == rid)

/-- Read words of GM for an engine user: a poisoned sector gives `POISON_CONSUMED`; where an engine access waits, so does the
whole (R80, R135, R429). -/
def engWords (s : State) (u : EngUser) (va n : Nat) : Acc (List Word) :=
  ((List.range ((8 * n + 31) / 32)).foldl (fun (acc : Acc (List Word × Bool)) i =>
    acc.bind (fun s l => (engAccess s u [] 3 ((va + 32 * i : Nat) : Int) 32 { rd := true }).bind (fun s q =>
      let v := placeRead s q.1 32 true (u.viewer s)
      .ok v.1 (l.1 ++ (List.range 4).map (fun j => BitVec.ofNat 64 (leNat ((v.2.1.drop (8 * j)).take 8))), l.2 || v.2.2)))) (.ok s ([], false))).bind (fun s l =>
    if l.2 then .fault s .poisonConsumed 0 va else .ok s (l.1.take n))

/-! ### Completion words -/

/-- Post a unit's word, at once or when the queue has room (R244, R330). -/
def rigPost (s : State) (n : Nat) (w : Word) : State :=
  if canPost s && (replayOf s n).post.isEmpty then pushCompletion s w else onUnit s n (fun u => { u with post := u.post ++ [w] })

/-- The clocks that an image's size adds to its load (R337). -/
def sizeClocks (h : List Word) : Nat := (min 65536 (imgBytes (imgWord h 0)) + 31) / 32

/-- A background load goes on (R337): where the size could not be read before, its clocks are still to come; then the image is
there. -/
def loadEnd (s : State) (n : Nat) : State :=
  let u := replayOf s n
  match u.loading with
  | none => s
  | some (a, t) =>
    let user : EngUser := { lnum := u.loadUser.1, node := u.loadUser.2.1, tag := u.loadUser.2.2.1, priv := u.loadUser.2.2.2 }
    let fail (s : State) (c : Cause) : State := rigPost (onUnit s n (fun u => { u with loading := none, image := [] })) n (completionWord 0 0 c.code n 3 0)
    if s.clock < t then s
    else
      match engWords s user a 8 with
      | .wait _ => s
      | .fault s c _ _ => fail s c
      | .ok s h =>
        if !u.sized then onUnit s n (fun u => { u with loading := some (a, s.clock + sizeClocks h), sized := true })
        else if 65536 < imgBytes (imgWord h 0) then fail s .illegalEncoding
        else
          match engWords s user a (imgBytes (imgWord h 0) / 8) with
          | .wait _ => s
          | .fault s c _ _ => fail s c
          | .ok s l =>
            if imageBad l then fail s .illegalEncoding
            else if (ridUnit s (imgRid l)).isSome then fail s .accessDenied
            else onUnit s n (fun u => { u with loading := none, image := l })

/-! ### Instances -/

/-- Wire sectors of a chunk (R321). -/
def wireSectors (op elems : Nat) : Nat :=
  if op == 1 then elems / 16 else if op == 3 then elems / 128 * 48 else if op == 4 then 1 + elems / 8 else elems / 8

/-- Bytes of a local chunk that count for its span (R321). -/
def chunkBad (op elems a : Nat) : Bool :=
  a % 32 != 0 || (op == 3 && (a % 2048 != 0 || elems % 128 != 0)) || (op == 1 && elems % 16 != 0) ||
  (op == 4 && (elems % 8 != 0 || decide (elems < 8) || decide (1016 < elems) || decide (4096 < a % 4096 + 32 + 4 * elems))) ||
  elems % 8 != 0

/-- The GM address of a chunk (R319). -/
def chunkAddr (u : ReplayUnit) (p : Play) (c : Nat) : Nat :=
  let w := chunkWord u.image c
  ((p.bases[bits w 50 48]?).getD 0).toNat + bits w 47 0

def onInst (s : State) (n : Nat) (f : Instance → Instance) : State := onUnit s n (fun u => { u with inst := u.inst.map f })
def onStep (s : State) (n k : Nat) (f : StepState → StepState) : State :=
  onInst s n (fun i => { i with steps := (i.steps.zipIdx).map (fun p => if p.2 == k then f p.1 else p.1) })
def bitmapOf (u : ReplayUnit) (c : Nat) : Nat := (u.bitmaps[c]?).getD 0
def memberCount (u : ReplayUnit) : Nat := popCount 64 (imgMembers u.image)

/-- Deadline D and grace G of a play (R336). -/
def playD (p : Play) : Nat := if bits p.word.toNat 31 0 == 0 then 2 ^ 32 else bits p.word.toNat 31 0
def playG (p : Play) : Nat := bits p.word.toNat 60 48

/-- An instance's completion word (R330). -/
def instWord (n : Nat) (u : ReplayUnit) (i : Instance) : Word :=
  completionWord u.released
    (b2n i.poison + 2 * b2n i.partial_ + 4 * b2n (u.dup != 0) + 8 * b2n (u.late != 0)) i.status n 3 (bits i.play.word.toNat 47 32)

/-- The instance is over (R323, R330): its word is kept, and posted with `CQ` or a nonzero status. -/
def instEnd (s : State) (n : Nat) : State :=
  let u := replayOf s n
  match u.inst with
  | none => s
  | some i =>
    let w := instWord n u i
    let s := onUnit s n (fun u => { u with inst := none, completed := true, last := w })
    let s := eregSet s (80 + n) 8 0
    if i.status != 0 || bit i.play.word.toNat 61 then rigPost s n w else s

/-- A released step or a `FIN` leaves a bitmap of fewer than N bits (R330). -/
def shortBitmap (u : ReplayUnit) (c : Nat) : Bool := decide (popCount 64 (bitmapOf u c) < memberCount u)

/-- An instance aborts (R329): its steps that still wait, of whatever kind, count as released, but for those whose contribution has
been accepted (DEDUCED, log entry 113), and it completes with the status. -/
def instAbort (s : State) (n status : Nat) : State :=
  let u := replayOf s n
  match u.inst with
  | none => s
  | some i =>
    let open_ := (i.steps.zipIdx).filter (fun p => p.1.phase == .waiting && !p.1.accepted)
    let short := open_.any (fun p => shortBitmap u (stepChunk (stepWord u.image p.2)))
    let s := onUnit s n (fun u => { u with released := u.released + open_.length })
    instEnd (onInst s n (fun i => { i with status := status, partial_ := i.partial_ || short
                                           steps := i.steps.map (fun t => if t.phase == .waiting then { t with phase := .released } else t) })) n

/-- An instance meets a fault (R329). Reason 255 says that a buffer lies on a stack out of service, which the rigging refuses
(R22): the manual names no status for it, which is a free value that is not 0 (DESIGN CHOICE, log entry 108). -/
def instFault (s : State) (n : Nat) (c : Cause) (reason : Nat) : State :=
  if reason == 255 then instAbort (drawn s) n (max 1 (bits (Config.freeWord s.free).toNat 7 0)) else instAbort s n c.code

/-- The active set takes a play's bases and word, and an armed shadow set is disarmed (R246, R317). -/
def playStart (s : State) (n : Nat) (p : Play) : State :=
  let s := if p.armed then { s with bte := { s.bte with armed := eraseKey (80 + n) s.bte.armed } } else s
  eregSet ((p.bases.zipIdx).foldl (fun s b => eregSet s (80 + n) b.2 b.1) s) (80 + n) 9 p.word

/-- A play reaches the head of the queue (R322). -/
def instStart (s : State) (n : Nat) : State :=
  let u := replayOf s n
  match u.plays with
  | [] => s
  | p :: rest =>
    if u.inst.isSome || u.reshelve.isSome || u.loading.isSome || !u.post.isEmpty then s
    else
      let s := playStart s n p
      let chunks := List.range (imgChunks u.image)
      let start : ReplayUnit := { u with
        plays := rest, lastStarted := p.num, completed := false, late := lookupD u.lateOf p.num 0, lateOf := eraseAt u.lateOf p.num
        dup := 0, stray := 0, released := 0
        bitmaps := chunks.map (fun c => if bit (chunkWord u.image c) 51 then 2 ^ s.part.cx.val else 0)
        inst := some {
          play := p, start := s.clock
          counters := (List.range 32).map (fun k => bits (imgWord u.image (3 + k / 8)) (8 * (k % 8) + 7) (8 * (k % 8)))
          steps := (List.range (imgSteps u.image)).map (fun _ => {}) } }
      if u.image.isEmpty then
        instEnd (onInst (setReplay s n { start with bitmaps := [], inst := start.inst.map (fun i => { i with steps := [] }) }) n
          (fun i => { i with status := Cause.illegalEncoding.code })) n
      else
        let s := eregSet (setReplay s n start) (80 + n) 8 (BitVec.ofNat 64 (imgSteps u.image))
        if p.bases.any (fun b => b.toNat % 32 != 0) || chunks.any (fun c => chunkBad (imgOp u.image) (imgElems u.image) (chunkAddr u p c)) then
          instAbort s n Cause.align.code
        else s

/-- Whether a step is ready (R323). -/
def stepReady (u : ReplayUnit) (i : Instance) (k : Nat) : Bool :=
  match stepWait (stepWord u.image k) with
  | some c => (i.counters[c]?).getD 0 == 0
  | none => true

/-- A step completes (R323): its counter is decremented modulo 256. -/
def stepEnd (s : State) (n k : Nat) (phase : StepPhase) : State :=
  let w := stepWord (replayOf s n).image k
  let s := onStep s n k (fun t => { t with phase := phase })
  let s := eregSet s (80 + n) 8 (engineReg s (80 + n) 8 - 1)
  match stepDone w with
  | some c => onInst s n (fun i => { i with counters := (i.counters.zipIdx).map (fun p => if p.2 == c then (p.1 + 255) % 256 else p.1) })
  | none => s

/-! ### Sectors of a chunk -/

/-- The pages of an instance. -/
def instPages (s : State) (n : Nat) : List HeldPage := (((replayOf s n).inst).map (·.pages)).getD []

/-- The DPA of a 32-byte sector of a chunk, as an engine access of the play (R322, R325). A buffer on a stack out of service is
refused at the first access to a sector there, and not when the play starts: the manual does not say when (R22; DESIGN CHOICE, log
entry 108). -/
def chunkSector (s : State) (n : Nat) (va : Nat) (need : Need) : Acc Nat :=
  match ((replayOf s n).inst) with
  | none => .fault s .xlateFault 0 va
  | some i =>
    (engAccess s (playUser i.play) i.pages 3 (va : Int) 32 need).bind (fun s q =>
      let s := onInst s n (fun i => { i with pages := q.2 })
      match q.1 with
      | .gm ((d, _) :: _) => if stackFailed s d then .fault s .accessDenied 255 va else .ok s d
      | _ => .fault s .xlateFault 0 va)

/-- Read local sectors for a `SEND` or a `FIN`, at their homes (R151, R323). -/
def chunkRead (s : State) (n : Nat) (vas : List Nat) : Acc (List (Nat × Bool)) :=
  vas.foldl (fun acc va => acc.bind (fun s l => (chunkSector s n va { rd := true }).bind (fun s d =>
    let u := ((replayOf s n).inst.map (fun i => (playUser i.play).viewer s)).getD {}
    let r := dpaRead s d 32 u
    .ok r.1 (l ++ [(leNat r.2.1, r.2.2)])))) (.ok s [])

/-- Replace local sectors, each by a function of its value, in the base die (R325): a dirty MSC copy goes back
first, a dirty L2 copy is not seen. Every sector is checked before any is written. -/
def chunkMerge (s : State) (n : Nat) (vas : List Nat) (f : List (Nat × Bool) → List (Nat × Bool)) : Acc Unit :=
  let ds := vas.foldl (fun (acc : Acc (List Nat)) va => acc.bind (fun s l => (chunkSector s n va { rd := true, wr := true }).bind (fun s d => .ok s (l ++ [d])))) (.ok s [])
  ds.bind (fun s l =>
    let s := flushSectors s (l.map (· / 32))
    let old := l.map (fun d => hbmRead s (d / 32))
    let new := f old
    let s := (l.zip new).foldl (fun s p => stampEngine (hbmWrite s (p.1 / 32) p.2.1 p.2.2) (gmKey p.1)) s
    .ok (onInst s n (fun i => { i with poison := i.poison || new.any (·.2) })) ())

/-- The local addresses behind wire sector `w` of a chunk at `a` (R321). -/
def wireLocal (op a w : Nat) : List Nat :=
  if op == 1 then [a + 64 * w, a + 64 * w + 32] else if op == 3 then [a + 2048 * (w / 48) + 32 * (w % 48)] else [a + 32 * w]

/-- The wire sector that local values give (R321): BF16 rounds each element. -/
def wireValue (op : Nat) (l : List (Nat × Bool)) : Nat × Bool :=
  let p := l.any (·.2)
  if op == 1 then
    (packElems 16 (l.flatMap (fun v => (elems 32 8 v.1).map (fun x => (encodeFp fmtBf16 .rne (dF32 x)).1))), p)
  else (((l.head?).map (·.1)).getD 0, p)

/-- The units in which a chunk is combined (R342): sectors of the wire in each, and their number. -/
def unitSectors (op elems : Nat) : Nat := if op == 3 then 48 else if op == 4 then 1 + elems / 8 else 1
def unitClocks (op elems : Nat) : Nat := if op == 3 then 16 else if op == 4 then 24 + elems / 8 else 1

/-- One element of `SUM`, `MAX` and `BOR` (R321). -/
def combine32 (op l r : Nat) : Nat :=
  if op == 0 || op == 1 then f32Add l r else if op == 2 then fpMax fmtF32 l r else l ||| r

/-- A record of R90 from its sectors, and back (R321). -/
def softOf (l : List Nat) : Softmax :=
  { m := elem 32 ((l[0]?).getD 0) 0, s := elem 32 ((l[0]?).getD 0) 1, o := (l.drop 1).flatMap (elems 32 8) }
def softSectors (r : Softmax) : List Nat :=
  (r.m + r.s * 2 ^ 32) :: (List.range (r.o.length / 8)).map (fun j => packElems 32 ((r.o.drop (8 * j)).take 8))

/-- Triples of a planar block of 48 sectors, and back (R198). -/
def tripleOf (l : List Nat) (i : Nat) : Triple :=
  let g (p : Nat) : Nat := elem 32 ((l[16 * p + i / 8]?).getD 0) (i % 8)
  ⟨g 0, g 1, g 2⟩
def tripleSectors (ts : List Triple) : List Nat :=
  let plane (f : Triple → Nat) : List Nat := (List.range 16).map (fun j => packElems 32 (((ts.drop (8 * j)).take 8).map f))
  plane (·.w) ++ plane (·.mean) ++ plane (·.m2)

/-- local ⊕ received for one unit (R321): the local sectors' new values. `copy` replaces. -/
def combineUnit (op : Nat) (copy : Bool) (loc recv : List Nat) : List Nat :=
  if op == 1 then
    let r := (recv.head?).getD 0
    (loc.zipIdx).map (fun p => packElems 32 ((List.range 8).map (fun i =>
      let w := bf16ToF32 (elem 16 r (8 * p.2 + i))
      if copy then w else f32Add (elem 32 p.1 i) w)))
  else if copy then recv
  else if op == 3 then tripleSectors ((List.range 128).map (fun i => (tripleOf loc i).merge (tripleOf recv i)))
  else if op == 4 then softSectors ((softOf loc).merge (softOf recv))
  else (loc.zip recv).map (fun p => packElems 32 ((List.range 8).map (fun i => combine32 op (elem 32 p.1 i) (elem 32 p.2 i))))

/-- The wire sectors of unit `m`, and the local addresses they touch. -/
def unitWire (op elems m : Nat) : List Nat := (List.range (unitSectors op elems)).map (fun i => m * unitSectors op elems + i)
def unitLocal (op elems a m : Nat) : List Nat := (unitWire op elems m).flatMap (wireLocal op a)
def unitCount (op elems : Nat) : Nat := wireSectors op elems / unitSectors op elems

/-! ### Contributions -/

/-- The address field of a contribution's packet (R326). -/
def contribAddr (rid inst tstep off : Nat) : Nat := rid * 2 ^ 48 + inst % 256 * 2 ^ 40 + tstep % 4096 * 2 ^ 28 + off % 2 ^ 28

/-- The release slot has passed (R328). -/
def slotPassed (s : State) (rs : Nat) : Bool :=
  let d := (absSlot s % 2 ^ 32 + 2 ^ 32 - rs) % 2 ^ 32
  decide (0 < d) && decide (d < 2 ^ 31)

/-- What follows a lead from a source: kept, or dropped with it (R328). -/
def setStream (s : State) (n src inst k left : Nat) (keep : Bool) : State :=
  onUnit s n (fun u => { u with streams := (src, (inst, (k, (left, keep)))) :: u.streams.filter (fun e => !(e.1 == src && e.2.2.1 == k)) })

/-- A lead that arrives (R328): none while it waits in its receive entry. -/
def leadArrives (s : State) (src addr : Nat) (lead : Nat) : Option State :=
  let rid := bits addr 63 48
  let i := bits addr 47 40
  let k := bits addr 39 28
  let bm := bits lead 63 0
  let rs := bits lead 95 64
  let left := bits lead 127 96
  match ridUnit s rid with
  | none => if slotPassed s rs then some s else none
  | some n =>
    let u := replayOf s n
    let drop (f : ReplayUnit → ReplayUnit) : Option State := some (setStream (onUnit s n f) n src i k left false)
    let ever := u.inst.isSome || u.completed
    let age := (u.lastStarted + 256 - i) % 256
    if !ever || (age != 0 && decide (127 < age)) then
      (if slotPassed s rs then drop (fun u => { u with lateOf := storeAt u.lateOf i (lookupD u.lateOf i 0 + 1) }) else none)
    else if age != 0 || u.inst.isNone then drop (fun u => { u with late := u.late + 1 })
    else
      match u.inst with
      | none => none
      | some ins =>
        let w := stepWord u.image k
        let t := (ins.steps[k]?).getD {}
        if imgSteps u.image ≤ k || !(stepKind w == 1 || stepKind w == 2) || stepPeer w != src then drop (fun u => { u with stray := u.stray + 1 })
        else if t.phase == .released then drop (fun u => { u with late := u.late + 1 })
        else if t.accepted || t.phase == .done then drop (fun u => { u with dup := u.dup + 1 })
        else if stepKind w == 1 && bm &&& bitmapOf u (stepChunk w) != 0 then drop (fun u => { u with dup := u.dup + 1 })
        else
          some (setStream (onStep s n k (fun t => { t with accepted := true, bitmap := bm, need := left, leadAt := some (s.clock + 40) })) n src i k left true)

/-- Data sectors that follow a lead (R326, R328). -/
def dataArrives (s : State) (src addr : Nat) (pay : List Sector) (psn : Nat) : State :=
  match ridUnit s (bits addr 63 48) with
  | none => s
  | some n =>
    match (replayOf s n).streams.find? (fun e => e.1 == src && e.2.2.1 == bits addr 39 28) with
    | none => s
    | some (_, i, k, left, keep) =>
      let s := setStream s n src i k (left - pay.length) keep
      if !keep || (replayOf s n).lastStarted != i || (replayOf s n).inst.isNone then s
      else
        let off := bits addr 27 0
        onStep s n k (fun t => { t with data := t.data ++ (pay.zipIdx).map (fun p => (off + p.2, (p.1.toNat, bit psn p.2))) })

/-! ### Steps -/

/-- The chunk of a step, with op and element count. -/
def stepPlace (u : ReplayUnit) (i : Instance) (k : Nat) : Nat := chunkAddr u i.play (stepChunk (stepWord u.image k))

/-- A packet of a contribution to PEER, over the fabric or to the own x (R323, R326). -/
def contribPacket (s : State) (u : ReplayUnit) (i : Instance) (k off : Nat) (lead : Bool) (pay : List (Nat × Bool)) : Packet :=
  let w := stepWord u.image k
  { typ := 9, cls := 2, src := ownPkg s, dst := podPkg s (stepPeer w), launch := i.play.lnum, aux := b2n lead
    psn := packElems 1 (pay.map (fun v => b2n v.2)), addr := contribAddr (imgRid u.image) i.play.num (stepTarget w) off
    pay := pay.map (fun v => BitVec.ofNat 256 v.1) }

def sendContrib (s : State) (n k : Nat) (p : Packet) : State :=
  let r := enqueue s p none s.clock
  onStep r.1 n k (fun t => { t with awaiting := t.awaiting ++ [{ dst := p.dst, cls := 2, sseq := r.2, nsect := p.pay.length }] })

/-- The lead of a `SEND` (R326): no earlier than 16 clocks after the instance's start (R342). One for another package takes the
chunk's bitmap as it leaves on its lane (R323). -/
def sendLead (s : State) (n k : Nat) (u : ReplayUnit) (i : Instance) : State :=
  let w := stepWord u.image k
  let total := wireSectors (imgOp u.image) (imgElems u.image)
  let bm := bitmapOf u (stepChunk w)
  let rel := (s.fabric.slot0 + (i.start + playD i.play - s.fabric.from_) / 128) % 2 ^ 32
  let flit := bm + rel * 2 ^ 64 + total * 2 ^ 96
  if stepPeer w == s.part.cx.val then
    match leadArrives s (stepPeer w) (contribAddr (imgRid u.image) i.play.num (stepTarget w) 0) flit with
    | none => s
    | some s => onStep s n k (fun t => { t with phase := .active, leadAt := some s.clock })
  else
    sendContrib (onStep s n k (fun t => { t with phase := .active })) n k (contribPacket s u i k 0 true [(flit, false)])

/-- The next data packet of a `SEND`: up to 8 wire sectors read at their homes (R323). -/
def sendData (s : State) (n k : Nat) (u : ReplayUnit) (i : Instance) (t : StepState) : State :=
  let op := imgOp u.image
  let total := wireSectors op (imgElems u.image)
  let a := stepPlace u i k
  let m := min 8 (total - t.moved)
  let out := (List.range m).foldl (fun (acc : Acc (List (Nat × Bool))) j =>
    acc.bind (fun s l => (chunkRead s n (wireLocal op a (t.moved + j))).bind (fun s v => .ok s (l ++ [wireValue op v])))) (.ok s [])
  match out with
  | .wait s => s
  | .fault s c r _ => instFault s n c r
  | .ok s l =>
    let s := onStep s n k (fun t => { t with moved := t.moved + m })
    let s := onInst s n (fun i => { i with poison := i.poison || l.any (·.2) })
    let p := contribPacket s u i k t.moved false l
    if stepPeer (stepWord u.image k) == s.part.cx.val then dataArrives s s.part.cx.val p.addr p.pay p.psn else sendContrib s n k p

/-- Another `SEND` to the same step of the same peer still has data to send: contributions to one step leave one
after the other, so that their data packets, which name only the step, are told apart (R326). -/
def sameTarget (u : ReplayUnit) (i : Instance) (k : Nat) : Bool :=
  let w := stepWord u.image k
  (i.steps.zipIdx).any (fun p =>
    let v := stepWord u.image p.2
    p.2 != k && stepKind v == 0 && stepPeer v == stepPeer w && stepTarget v == stepTarget w && p.1.phase == .active &&
    decide (p.1.moved < wireSectors (imgOp u.image) (imgElems u.image)))

/-- A `SEND` step (R323). -/
def sendRun (s : State) (n k : Nat) : State :=
  let u := replayOf s n
  match u.inst with
  | none => s
  | some i =>
    match i.steps[k]? with
    | none => s
    | some t =>
      let peer := stepPeer (stepWord u.image k)
      let far := peer != s.part.cx.val
      match t.phase with
      | .waiting =>
        if !stepReady u i k || sameTarget u i k then s
        else if far && !fabricOn s then instAbort s n Cause.fabricTimeout.code
        else if s.clock < i.start + 16 then s
        else sendLead s n k u i
      | .active =>
        if far && !fabricOn s then instAbort s n Cause.fabricTimeout.code
        else if t.moved < wireSectors (imgOp u.image) (imgElems u.image) then sendData s n k u i t
        else if t.awaiting.isEmpty then stepEnd s n k .done
        else s
      | _ => s

/-- A `SEND` to another package whose packets are not all acknowledged in time, or have not all been sent, aborts the instance
(R323). -/
def sendTimeout (s : State) (n k : Nat) : State :=
  let u := replayOf s n
  match u.inst with
  | none => s
  | some i =>
    match i.steps[k]? with
    | some t =>
      (match t.phase, t.leadAt with
       | .active, some c =>
         if stepKind (stepWord u.image k) == 0 && stepPeer (stepWord u.image k) != s.part.cx.val && decide (c + 8192 * s.fabric.ftmo.toNat ≤ s.clock) then
           instAbort s n Cause.fabricTimeout.code
         else s
       | _, _ => s)
    | none => s

/-- Every lower-numbered `RECV` or `COPY` on the same chunk has completed (R324). -/
def earlierDone (u : ReplayUnit) (i : Instance) (k : Nat) : Bool :=
  (List.range k).all (fun j =>
    let w := stepWord u.image j
    !((stepKind w == 1 || stepKind w == 2) && stepChunk w == stepChunk (stepWord u.image k)) ||
    (match i.steps[j]? with | some t => t.phase == .done || t.phase == .released | none => true))

/-- The clock at which a `RECV` or `COPY` is released without a lead (R327). -/
def releaseClock (i : Instance) (t : StepState) : Nat := max (i.start + playD i.play) (t.ready + 128 * playG i.play)

/-- The clock at which a step became ready, while it is (R323, R327): a counter that wraps makes one that has combined nothing
wait again. -/
def markReady (s : State) (n k : Nat) : State :=
  let u := replayOf s n
  match u.inst with
  | none => s
  | some i =>
    match i.steps[k]? with
    | some t =>
      if t.phase == .waiting && t.moved == 0 then
        onStep s n k (fun t => { t with ready := if !stepReady u i k then 0 else if t.ready == 0 then s.clock else t.ready })
      else s
    | none => s

/-- The bitmap of a step's chunk after its combination (R323). -/
def takeBitmap (s : State) (n k : Nat) (t : StepState) : State :=
  let w := stepWord (replayOf s n).image k
  onUnit s n (fun u => { u with bitmaps := (u.bitmaps.zipIdx).map (fun p => if p.2 == stepChunk w then
    (if stepKind w == 1 then p.1 ||| t.bitmap else t.bitmap) else p.1) })

/-- A `RECV` or `COPY` that is ready combines its contribution now: it has been accepted, and its turn on the chunk has come
(R323, R324). -/
def combines (u : ReplayUnit) (i : Instance) (k : Nat) (t : StepState) : Bool :=
  t.phase == .waiting && t.ready != 0 && t.accepted && !t.cut && earlierDone u i k

/-- The sectors that a `RECV` (or, with `copy`, a `COPY`) leaves of the local sectors `old` and the received ones: the
result of the operation, and, sector by sector, the mark of the received sector and for a `RECV` of the local one (R325). -/
def recvValues (op : Nat) (copy : Bool) (got old : List (Nat × Bool)) : List (Nat × Bool) :=
  let bad (j : Nat) : Bool := ((got[if op == 1 then 0 else j]?).map (·.2)).getD false
  (((combineUnit op copy (old.map (·.1)) (got.map (·.1))).zip old).zipIdx).map (fun p => (p.1.1, bad p.2 || (p.1.2.2 && !copy)))

/-- The base die combines the next unit of a contribution that has come (R323 to R325, R342). -/
def recvMerge (s : State) (n k : Nat) : State :=
  let u := replayOf s n
  match u.inst with
  | none => s
  | some i =>
    match i.steps[k]? with
    | none => s
    | some t =>
      let w := stepWord u.image k
      let op := imgOp u.image
      let el := imgElems u.image
      if !combines u i k t || decide (unitCount op el ≤ t.moved) || decide (s.clock < t.leadAt.getD 0) then s
      else
        let wires := unitWire op el t.moved
        let got := wires.filterMap (fun j => (t.data.find? (fun e => e.1 == j)).map (·.2))
        if got.length < wires.length then s
        else
          let locs := unitLocal op el (stepPlace u i k) t.moved
          match chunkMerge s n locs (recvValues op (stepKind w == 2) got) with
          | .wait s => s
          | .fault s c r _ => instFault s n c r
          | .ok s _ => onStep s n k (fun t => { t with moved := t.moved + 1, leadAt := some (s.clock + unitClocks op el) })

/-- A `RECV` or `COPY` goes on (R323): its completion, or its next unit. -/
def recvRun (s : State) (n k : Nat) : State :=
  let s := markReady s n k
  let u := replayOf s n
  match u.inst with
  | none => s
  | some i =>
    match i.steps[k]? with
    | none => s
    | some t =>
      if combines u i k t && decide (unitCount (imgOp u.image) (imgElems u.image) ≤ t.moved) then stepEnd (takeBitmap s n k t) n k .done
      else recvMerge s n k

/-- A step whose lead was not accepted in time is released (R327). -/
def stepReleased (s : State) (n k : Nat) : State :=
  let u := replayOf s n
  match u.inst with
  | none => s
  | some i =>
    match i.steps[k]? with
    | none => s
    | some t =>
      let w := stepWord u.image k
      if (stepKind w == 1 || stepKind w == 2) && t.phase == .waiting && !t.accepted && t.ready != 0 && decide (releaseClock i t ≤ s.clock) then
        let short := shortBitmap u (stepChunk w)
        let s := onUnit s n (fun u => { u with released := u.released + 1 })
        stepEnd (onInst s n (fun i => { i with partial_ := i.partial_ || short })) n k .released
      else s

/-- An accepted contribution whose data has not all come one turn after the release clock is cut off, however late its step
may combine (R324, R327): what is not combined is written poisoned. -/
def recvTimeout (s : State) (n k : Nat) : State :=
  let u := replayOf s n
  match u.inst with
  | none => s
  | some i =>
    match i.steps[k]? with
    | none => s
    | some t =>
      let op := imgOp u.image
      let el := imgElems u.image
      if t.phase != .waiting || t.ready == 0 || !t.accepted || (!t.cut && (decide (t.need ≤ t.data.length) || decide (s.clock < releaseClock i t + 8192))) then s
      else if !t.cut then onStep s n k (fun t => { t with cut := true })
      else if !earlierDone u i k then s
      else
        let locs := (List.range (unitCount op el - t.moved)).flatMap (fun m => unitLocal op el (stepPlace u i k) (t.moved + m))
        match chunkMerge s n locs (fun old => old.map (fun p => (p.1, true))) with
        | .wait s => s
        | .fault s c r _ => instFault s n c r
        | .ok s _ => stepEnd (takeBitmap (onInst s n (fun i => { i with status := Cause.fabricTimeout.code })) n k t) n k .done

/-- The factor of a `FIN` (R323): rne_f32(N / c). -/
def finFactor (n c : Nat) : Nat := (divFp fmtF32 .rne (intToFp n) (intToFp c)).1

/-- The elements of the sectors times the factor of N members of which c contributed; the marks stay (R127, R323). -/
def finValues (big c : Nat) (old : List (Nat × Bool)) : List (Nat × Bool) :=
  old.map (fun p => (packElems 32 ((elems 32 8 p.1).map (fun x => f32Mul x (finFactor big c))), p.2))

/-- A `FIN` step (R323): one sector a clock (R342), by the bitmap as it stood when the step began. -/
def finRun (s : State) (n k : Nat) : State :=
  let u := replayOf s n
  match u.inst with
  | none => s
  | some i =>
    match i.steps[k]? with
    | none => s
    | some t =>
      let w := stepWord u.image k
      let op := imgOp u.image
      let bm := if t.phase == .active then t.bitmap else bitmapOf u (stepChunk w)
      let c := popCount 64 bm
      let big := memberCount u
      let scale := bit i.play.word.toNat 62 && decide (op ≤ 1) && decide (0 < c) && decide (c < big)
      let total := if scale then imgElems u.image / 8 else 0
      if t.phase != .active && (t.phase != .waiting || !stepReady u i k) then s
      else if total ≤ t.moved then
        stepEnd (onInst s n (fun i => { i with partial_ := i.partial_ || decide (c < big) })) n k .done
      else
        match chunkMerge s n [stepPlace u i k + 32 * t.moved] (finValues big c) with
        | .wait s => onStep s n k (fun t => { t with phase := .active, bitmap := bm })
        | .fault s c r _ => instFault s n c r
        | .ok s _ => onStep s n k (fun t => { t with phase := .active, bitmap := bm, moved := t.moved + 1 })

/-- A `NOP` step (R323). -/
def nopRun (s : State) (n k : Nat) : State :=
  let u := replayOf s n
  match u.inst with
  | none => s
  | some i =>
    match i.steps[k]? with
    | some t => if t.phase == .waiting && stepReady u i k then stepEnd s n k .done else s
    | none => s

/-- One clock of one step, by its kind (R323). -/
def stepRun (s : State) (n k : Nat) : State :=
  let w := stepWord (replayOf s n).image k
  if stepKind w == 0 then sendTimeout (sendRun s n k) n k
  else if stepKind w == 1 || stepKind w == 2 then recvTimeout (stepReleased (recvRun s n k) n k) n k
  else if stepKind w == 3 then finRun s n k
  else nopRun s n k

/-- Every step of the instance has completed (R323). -/
def instDone (i : Instance) : Bool := i.steps.all (fun t => t.phase == .done || t.phase == .released)

/-- An instance whose steps have all completed completes (R323, R330). -/
def instFinish (s : State) (n : Nat) : State :=
  match (replayOf s n).inst with
  | some i => if instDone i then instEnd s n else s
  | none => s

/-- Acknowledgements of collective packets (R323, R335). -/
def ackRig (s : State) (src sseq : Nat) : State :=
  (List.range 4).foldl (fun s n => onUnit s n (fun u =>
    let hit (w : Await) : Bool := w.dst == src && w.sseq == sseq
    { u with
      inst := u.inst.map (fun i => { i with steps := i.steps.map (fun t => { t with awaiting := t.awaiting.filter (fun w => !hit w) }) })
      reshelve := u.reshelve.map (fun r => { r with awaiting := r.awaiting.filter (fun w => !hit w) }) })) s

end Sys2Proof.Machine
end

