-- ==== Sys2Proof/Machine/Reshelve.lean ====
section
/-!
DEFINITION. Reshelve (R332 to R335, R341) and the FB syllables with ops 11 to 16 (R336 to R344).
-/
namespace Sys2Proof.Machine
open Sys2Proof

/-! ### The descriptor -/

def dIn (d : List Word) : Nat := bits (imgWord d 0) 55 0
def dRec (d : List Word) : Nat := bits (imgWord d 1) 31 0
def dOut (d : List Word) : Nat := bits (imgWord d 2) 55 0
def dCap (d : List Word) : Nat := bits (imgWord d 3) 31 0
def dOvf (d : List Word) : Nat := bits (imgWord d 4) 55 0
def dRid (d : List Word) : Nat := bits (imgWord d 5) 63 48
def dTag (d : List Word) : Nat := bits (imgWord d 5) 47 32
def dCq (d : List Word) : Bool := bit (imgWord d 5) 24
def dCont (d : List Word) : Bool := bit (imgWord d 5) 23
def dKeyW (d : List Word) : Bool := bit (imgWord d 5) 22
def dKeyOff (d : List Word) : Nat := bits (imgWord d 5) 21 16
def dMembers (d : List Word) : List Nat := (List.range 64).filter (fun x => bit (imgWord d 6) x)
/-- Corners of the box (R332): lo and hi of axis a. -/
def dLo (d : List Word) (a : Nat) : Nat := if a == 0 then bits (imgWord d 7) 31 0 else if a == 1 then bits (imgWord d 7) 63 32 else bits (imgWord d 8) 31 0
def dHi (d : List Word) (a : Nat) : Nat := if a == 0 then bits (imgWord d 8) 63 32 else if a == 1 then bits (imgWord d 9) 31 0 else bits (imgWord d 9) 63 32

def finite32 (x : Nat) : Bool := match dF32 x with | .fin .. => true | _ => false

/-- A descriptor that R332 refuses. -/
def descBad (s : State) (d : List Word) : Bool :=
  let w5 := imgWord d 5
  bits (imgWord d 0) 63 56 != 0 || bits (imgWord d 2) 63 56 != 0 || bits (imgWord d 4) 63 56 != 0 ||
  bits (imgWord d 1) 63 32 != 0 || bits (imgWord d 3) 63 32 != 0 || decide (2 ^ 24 < dRec d) ||
  dIn d % 64 != 0 || dOut d % 64 != 0 || dOvf d % 64 != 0 ||
  bits w5 31 25 != 0 || bit w5 15 || bits w5 7 6 != 0 || decide (7 < dKeyOff d) || decide (15 < bits w5 13 8) || decide (13 < bits w5 5 0) ||
  (List.range 6).any (fun i => imgWord d (10 + i) != 0) ||
  (List.range 3).any (fun a => !finite32 (dLo d a) || !finite32 (dHi d a) || decide (valueKey fmtF32 (dHi d a) ≤ valueKey fmtF32 (dLo d a))) ||
  !bit (imgWord d 6) s.part.cx.val

/-! ### Keys and histograms -/

/-- FP32 of a small natural number. -/
def natF32 (n : Nat) : Nat := rF32 .rne (intToFp n)

/-- The scale of an axis, once per operation (R333). -/
def keyScale (d : List Word) (a : Nat) : Nat := f32Div (natF32 2097152) (f32Sub (dHi d a) (dLo d a))
/-- The quantised coordinate of an axis (R333). -/
def keyQuant (d : List Word) (a p : Nat) : Nat :=
  let t := f32Mul (f32Sub p (dLo d a)) (keyScale d a)
  if isNan32 t || decide (valueKey fmtF32 t < 0) then 0
  else if valueKey fmtF32 (natF32 2097151) ≤ valueKey fmtF32 t then 2097151
  else (((roundInt .rd (dF32 t)).getD 0).toNat)

/-- One axis of one round of the Hilbert transform (R333). -/
def hilbertAxis (q : Nat) (x : List Nat) (i : Nat) : List Nat :=
  let x0 := (x[0]?).getD 0
  let xi := (x[i]?).getD 0
  let p := q - 1
  if xi &&& q != 0 then setAt x 0 (x0 ^^^ p)
  else
    let t := (x0 ^^^ xi) &&& p
    if i == 0 then setAt x 0 (x0 ^^^ t ^^^ t) else setAt (setAt x 0 (x0 ^^^ t)) i (xi ^^^ t)

/-- The key of three quantised coordinates (R333). -/
def hilbertKey (q0 q1 q2 : Nat) : Nat :=
  let qs := (List.range 20).map (fun j => 2 ^ (20 - j))
  let x := qs.foldl (fun x q => [0, 1, 2].foldl (hilbertAxis q) x) [q0, q1, q2]
  let x0 := (x[0]?).getD 0
  let x1 := (x[1]?).getD 0 ^^^ x0
  let x2 := (x[2]?).getD 0 ^^^ x1
  let tt := qs.foldl (fun t q => if x2 &&& q != 0 then t ^^^ (q - 1) else t) 0
  let ys := [x0 ^^^ tt, x1 ^^^ tt, x2 ^^^ tt]
  ((List.range 21).flatMap (fun j => [0, 1, 2].map (fun i => b2n (bit ((ys[i]?).getD 0) j) * 2 ^ (3 * j + 2 - i)))).foldl (· + ·) 0

/-- The key of a 64-byte record (R333). -/
def recordKey (d : List Word) (r : Nat) : Nat :=
  let o := bits (imgWord d 5) 5 0
  hilbertKey (keyQuant d 0 (elem 32 r o)) (keyQuant d 1 (elem 32 r (o + 1))) (keyQuant d 2 (elem 32 r (o + 2)))

/-- The cost of a record, and whether it is a bad weight (R333). -/
def recordCost (d : List Word) (r : Nat) : Nat × Bool :=
  if !bit (imgWord d 5) 14 then (f32One, false)
  else
    let c := elem 32 r (bits (imgWord d 5) 13 8)
    if !finite32 c || decide (valueKey fmtF32 c < 0) then (0, true) else (c, false)

def reshUser (r : Reshelve) : EngUser := { lnum := r.lnum, node := r.node, tag := r.tag, priv := r.priv }

/-- Read `k` records from an address, with their poison (R333, R335). -/
def readRecords (s : State) (u : EngUser) (pages : List HeldPage) (va : Nat) : Nat → Acc (List HeldPage × List (Nat × (Bool × Bool)))
  | 0 => .ok s (pages, [])
  | k + 1 =>
    (engAccess s u pages 3 (va : Int) 32 { rd := true }).bind (fun s q =>
      let a := placeRead s q.1 32 true (u.viewer s)
      (engAccess a.1 u q.2 3 ((va + 32 : Nat) : Int) 32 { rd := true }).bind (fun s q =>
        let b := placeRead s q.1 32 true (u.viewer s)
        (readRecords b.1 u q.2 (va + 64) k).bind (fun s r =>
          .ok s (r.1, (leNat a.2.1 + leNat b.2.1 * 2 ^ 256, (a.2.2, b.2.2)) :: r.2))))

/-- Write a record at an address (R335). -/
def writeRecord (s : State) (u : EngUser) (va v : Nat) (p : Bool × Bool) : Acc Unit :=
  (engAccess s u [] 3 (va : Int) 32 { wr := true }).bind (fun s q =>
    (engAccess s u [] 3 ((va + 32 : Nat) : Int) 32 { wr := true }).bind (fun s q2 =>
      let w := { u.viewer s with stages := false }
      .ok (placeWrite (placeWrite s q.1 (leBytes 32 v) p.1 true w) q2.1 (leBytes 32 (v / 2 ^ 256)) p.2 true w) ()))

def onResh (s : State) (n : Nat) (f : Reshelve → Reshelve) : State := onUnit s n (fun u => { u with reshelve := u.reshelve.map f })

/-- The reshelve is over (R330, R335). -/
def reshEnd (s : State) (n status : Nat) : State :=
  let u := replayOf s n
  match u.reshelve with
  | none => s
  | some r =>
    let k := r.overs.length
    let w := completionWord k (b2n r.poison + 16 * b2n (k != 0) + 32 * b2n r.badw) status n 3 (if r.phase == .reading then 0 else dTag r.desc)
    let s := onUnit s n (fun u => { u with reshelve := none, last := w, overflow := k, received := r.came })
    if status != 0 || dCq r.desc then rigPost s n w else s

/-- A unit without its image and what a reshelve has kept (R337, R339, R341). Its plays, its numbers, the words it has still to
post and what `RGSTAT` shows of its last instance stand (R316, R331). -/
def ReplayUnit.emptied (u : ReplayUnit) : ReplayUnit :=
  { u with image := [], loading := none, sized := false, kept := none, completed := false, lateOf := [], streams := [] }
/-- A reshelve without `CONT` discards the unit's image and what an earlier one kept (R341). -/
def dropImage (s : State) (n : Nat) : State := onUnit s n ReplayUnit.emptied

/-- The descriptor has been read (R332, R341). -/
def reshRead (s : State) (n : Nat) : State :=
  match (replayOf s n).reshelve with
  | none => s
  | some r =>
    let a := imgWord r.desc 0
    if r.phase != .reading || s.clock < r.start then s
    else
      match engWords s (reshUser r) a 16 with
      | .wait _ => s
      | .fault s c _ _ => reshEnd (dropImage s n) n c.code
      | .ok s d =>
        let s := if dCont d then s else dropImage s n
        let other := ridUnit s (dRid d)
        let s := onResh s n (fun r => { r with desc := d, phase := .counting, start := s.clock + ((if dCont d then (((replayOf s n).kept.map (·.overflow)).getD 0) else dRec d) + 1) / 2 })
        if descBad s d || (dCont d && (replayOf s n).kept.isNone) then reshEnd s n Cause.illegalEncoding.code
        else if other.isSome then reshEnd s n Cause.accessDenied.code
        else s

/-- The input of a reshelve: address and number of records; with `CONT` the previous overflow list (R335). -/
def reshInput (u : ReplayUnit) (r : Reshelve) : Nat × Nat :=
  if dCont r.desc then ((u.kept.map (·.base)).getD 0, (u.kept.map (·.overflow)).getD 0) else (dIn r.desc, dRec r.desc)

/-- Words of a histogram as sectors from an offset. -/
def wordSectors (off : Nat) (l : List Nat) : List (Nat × Nat) :=
  (List.range ((l.length + 7) / 8)).map (fun j => (off + j, packElems 32 ((l.drop (8 * j)).take 8)))

/-- Send sectors to every other member, 8 to a packet; collective packets with `AUX` 2 for histograms (log
entry 30). -/
def reshBroadcast (s : State) (r : Reshelve) (l : List (Nat × Nat)) : State :=
  ((dMembers r.desc).filter (fun x => x != s.part.cx.val)).foldl (fun s x =>
    (chunksOf 8 256 l).foldl (fun s c =>
      (enqueue s { typ := 9, cls := 2, src := ownPkg s, dst := podPkg s x, launch := r.lnum, aux := 2
                   addr := dRid r.desc * 2 ^ 48 + ((c.head?).map (·.1)).getD 0, pay := c.map (fun p => BitVec.ofNat 256 p.2) } none s.clock).1) s) s

/-- The member that each record goes to, by rank. -/
def rankOf (ranks : List Nat) (d : List Word) (r : Nat) : Nat := (ranks[recordKey d r / 2 ^ 51]?).getD 0

/-- Histograms of the input (R333), and their exchange (R334); with `CONT` the counts per destination only. -/
def reshCount (s : State) (n : Nat) : State :=
  let u := replayOf s n
  match u.reshelve with
  | none => s
  | some r =>
    if r.phase != .counting || s.clock < r.start then s
    else
      let inp := reshInput u r
      match readRecords s (reshUser r) r.pages inp.1 inp.2 with
      | .wait s => s
      | .fault s c _ _ => reshEnd s n c.code
      | .ok s (pages, recs) =>
        let own : List (Nat × Nat) :=
          if dCont r.desc then
            let ranks := (u.kept.map (·.ranks)).getD []
            let c := recs.foldl (fun (m : List Nat) e => let k := rankOf ranks r.desc e.1; setAt m k ((m[k]?).getD 0 + 1)) (List.replicate 64 0)
            wordSectors 0 c
          else
            let h := recs.foldl (fun (m : List (Nat × (Nat × Nat))) e =>
              let b := recordKey r.desc e.1 / 2 ^ 51
              let old := lookupD m b (0, 0)
              storeAt m b (f32Add old.1 (recordCost r.desc e.1).1, (old.2 + 1) % 2 ^ 32)) []
            wordSectors 0 ((List.range 4096).map (fun b => (lookupD h b (0, 0)).1)) ++
            wordSectors 512 ((List.range 4096).map (fun b => (lookupD h b (0, 0)).2))
        let r := { r with phase := .exchanging, start := s.clock, pages := pages, hist := storeAt r.hist s.part.cx.val own
                          badw := !dCont r.desc && recs.any (fun e => (recordCost r.desc e.1).2)
                          poison := recs.any (fun e => e.2.1 || e.2.2) }
        reshBroadcast (onResh s n (fun _ => r)) r own

/-- Word `i` of a member's histogram sectors. -/
def histWord (h : List (Nat × Nat)) (i : Nat) : Nat := elem 32 (lookupD h (i / 8) 0) (i % 8)

/-- The cost H of every bin over all members (R334). -/
def binCosts (hs : List (List (Nat × Nat))) : List Nat :=
  (List.range 4096).map (fun b =>
    match hs with
    | [] => 0
    | h :: r => r.foldl (fun a g => f32Add a (histWord g b)) (histWord h b))
/-- The ranks of the bins among `p` members (R334): C, L and T from H. -/
def binRanks (p : Nat) (tot : List Nat) : List Nat :=
  let cum := (tot.foldl (fun (acc : List Nat × Nat) h => let c := f32Add acc.2 h; (c :: acc.1, c)) ([], 0)).1.reverse
  let l := (cum[4095]?).getD 0
  let t (r : Nat) : Nat := f32Div (f32Mul (natF32 r) l) (natF32 p)
  let ts := (List.range p).map t
  (List.range 4096).map (fun b =>
    if valueKey fmtF32 l > 0 && !isNan32 l then
      let prev := if b == 0 then 0 else (cum[b - 1]?).getD 0
      (((ts.drop 1).filter (fun x => decide (valueKey fmtF32 x ≤ valueKey fmtF32 prev))).length)
    else b * p / 4096)

/-- Records that a member sends to each rank (R335). -/
def destCounts (cont : Bool) (ranks : List Nat) (p : Nat) (h : List (Nat × Nat)) : List Nat :=
  (List.range p).map (fun k =>
    if cont then histWord h k
    else (((ranks.zipIdx).filter (fun e => e.1 == k)).map (fun e => histWord h (4096 + e.2))).foldl (· + ·) 0)

/-- Every member's histograms are here. -/
def histsHere (r : Reshelve) : Bool :=
  (dMembers r.desc).all (fun x => decide ((if dCont r.desc then 8 else 1024) ≤ (lookupD r.hist x []).length))

/-- Take one record to its member (R335): sent, placed here, or kept. -/
def placeRecord (s : State) (n : Nat) (r : Reshelve) (idx dst pos v : Nat) (p : Bool × Bool) : Acc Unit :=
  if dCap r.desc ≤ pos then .ok (onResh s n (fun r => { r with overs := r.overs ++ [idx] })) ()
  else if dst == s.part.cx.val then
    (writeRecord s (reshUser r) (dOut r.desc + 64 * pos) v p).bind (fun s _ => .ok (onResh s n (fun r => { r with came := r.came + 1 })) ())
  else
    let q := enqueue s { typ := 9, cls := 2, src := ownPkg s, dst := podPkg s dst, launch := r.lnum, aux := 4
                         psn := b2n p.1 + 2 * b2n p.2, addr := dRid r.desc * 2 ^ 48 + pos % 2 ^ 48
                         pay := [BitVec.ofNat 256 v, BitVec.ofNat 256 (v / 2 ^ 256)] } none s.clock
    .ok (onResh q.1 n (fun r => { r with awaiting := r.awaiting ++ [{ dst := podPkg s dst, cls := 2, sseq := q.2, nsect := 2, addr := idx }] })) ()

/-- Move every record of the input (R335). -/
def moveRecords (n : Nat) (r : Reshelve) (ranks members : List Nat) (va : Nat) :
    State → List (Nat × (Bool × Bool)) → (idx : Nat) → (next : List Nat) → Acc Unit
  | s, [], _, _ => .ok s ()
  | s, (v, p) :: rest, idx, next =>
    let key := recordKey r.desc v
    let k := (ranks[key / 2 ^ 51]?).getD 0
    let w := if dKeyW r.desc then setBits v (64 * dKeyOff r.desc + 63) (64 * dKeyOff r.desc) key else v
    let s1 := if dKeyW r.desc then writeRecord s (reshUser r) (va + 64 * idx) w p else .ok s ()
    (s1.bind (fun s _ => placeRecord s n r idx ((members[k]?).getD 0) ((next[k]?).getD 0) w p)).bind (fun s _ =>
      moveRecords n r ranks members va s rest (idx + 1) (setAt next k ((next[k]?).getD 0 + 1)))

/-- The exchange is over and the records move (R334, R335). -/
def reshStartMove (s : State) (n : Nat) : State :=
  let before := s
  let u := replayOf s n
  match u.reshelve with
  | none => s
  | some r =>
    if r.phase != .exchanging || !histsHere r then s
    else
      let members := dMembers r.desc
      let p := members.length
      let hs := members.map (fun x => lookupD r.hist x [])
      let old : Kept := (if dCont r.desc then u.kept else none).getD
        { cost := binCosts hs, counts := hs.map (fun h => (List.range 4096).map (fun b => histWord h (4096 + b)))
          ranks := binRanks p (binCosts hs), fills := List.replicate p 0, base := 0, overflow := 0 }
      let ranks := old.ranks
      let fill0 := old.fills
      let counts := hs.map (destCounts (dCont r.desc) ranks p)
      let mine := (members.takeWhile (· != s.part.cx.val)).length
      let next := (List.range p).map (fun k => (fill0[k]?).getD 0 + ((counts.take mine).map (fun cs => (cs[k]?).getD 0)).foldl (· + ·) 0)
      let fills := (List.range p).map (fun k => min (dCap r.desc) ((fill0[k]?).getD 0 + (counts.map (fun cs => (cs[k]?).getD 0)).foldl (· + ·) 0))
      let due := (fills[mine]?).getD 0 - (fill0[mine]?).getD 0
      let s := onUnit s n (fun u => { u with kept := some { old with fills := fills, overflow := 0 } })
      let s := onResh s n (fun r => { r with phase := .moving, start := s.clock, due := due, overs := [] })
      let inp := reshInput u r
      match (readRecords s (reshUser r) r.pages inp.1 inp.2).bind (fun s q => moveRecords n r ranks members inp.1 s q.2 0 next) with
      | .ok s _ => s
      | .fault s c _ _ => reshEnd s n c.code
      | .wait _ => before

/-- Keep some records in the overflow list, in ascending index (R335): all are read before one is written, as the list may take
the place of the one they come from. -/
def keepOverflow (s : State) (n : Nat) (r : Reshelve) (idxs : List Nat) : Acc Unit :=
  let base := (reshInput (replayOf s n) r).1
  let got : Acc (List (Nat × (Bool × Bool))) := idxs.foldl (fun acc k => acc.bind (fun s l =>
    (readRecords s (reshUser r) [] (base + 64 * k) 1).bind (fun s q => .ok s (l ++ q.2)))) (.ok s [])
  got.bind (fun s l => (l.zipIdx).foldl (fun acc e => acc.bind (fun s _ =>
    writeRecord s (reshUser r) (dOvf r.desc + 64 * e.2) e.1.1 e.1.2)) (.ok s ()))

/-- The end of the move (R335): the records kept are listed. -/
def reshFinish (s : State) (n status : Nat) : State :=
  match (replayOf s n).reshelve with
  | none => s
  | some r =>
    let ovs := (r.overs ++ r.awaiting.map (·.addr)).foldl (fun l i => insertKey i l) []
    match keepOverflow s n r ovs with
    | .ok s _ =>
      let s := onResh s n (fun r => { r with overs := ovs, awaiting := [] })
      reshEnd (onUnit s n (fun u => { u with kept := u.kept.map (fun k => { k with base := dOvf r.desc, overflow := ovs.length }) })) n status
    | .fault s c _ _ => reshEnd s n c.code
    | .wait _ => s

/-- The move is complete once its records are acknowledged and those due here have come. -/
def reshMoveDone (s : State) (n : Nat) : State :=
  match (replayOf s n).reshelve with
  | some r => if r.phase == .moving && r.awaiting.isEmpty && decide (r.due ≤ r.came) then reshFinish s n 0 else s
  | none => s

/-- Missing histograms or acknowledgements (R335). -/
def reshTimeout (s : State) (n : Nat) : State :=
  match (replayOf s n).reshelve with
  | some r =>
    if s.clock < r.start + 8192 * s.fabric.ftmo.toNat then s
    else if r.phase == .exchanging then reshEnd s n Cause.fabricTimeout.code
    else if r.phase == .moving then reshFinish s n Cause.fabricTimeout.code
    else s
  | none => s

/-- A histogram packet (R334): it waits until a unit holds its identity, and while that still moves the records of the reshelve
before (R335). -/
def histArrives (s : State) (src addr : Nat) (pay : List Sector) : Option State :=
  match ridUnit s (bits addr 63 48) with
  | none => none
  | some n =>
    let add (h : List (Nat × Nat)) : List (Nat × Nat) := (pay.zipIdx).foldl (fun l p => storeAt l (bits addr 47 0 + p.2) p.1.toNat) h
    if ((replayOf s n).reshelve.map (·.phase)) == some .moving then none
    else some (onResh s n (fun r => { r with hist := storeAt r.hist src (add (lookupD r.hist src [])) }))

/-- A record packet (R335): placed by a moving reshelve, dropped when there is none. -/
def recordArrives (s : State) (addr : Nat) (pay : List Sector) (psn : Nat) : Option State :=
  match ridUnit s (bits addr 63 48) with
  | none => some s
  | some n =>
    match (replayOf s n).reshelve with
    | none => some s
    | some r =>
      if r.phase != .moving then none
      else
        let v := ((pay[0]?).getD 0).toNat + ((pay[1]?).getD 0).toNat * 2 ^ 256
        match writeRecord s (reshUser r) (dOut r.desc + 64 * bits addr 47 0) v (bit psn 0, bit psn 1) with
        | .ok s _ => some (onResh s n (fun r => { r with came := r.came + 1 }))
        | .fault s c _ _ => some (reshEnd s n c.code)
        | .wait _ => none

/-- One clock of a reshelve. -/
def reshClock (s : State) (n : Nat) : State :=
  reshTimeout (reshMoveDone (reshStartMove (reshCount (reshRead s n) n) n) n) n

/-- The base dies go on combining what has come while the core is halted (R343). -/
def replayMerges (s : State) (n : Nat) : State :=
  let u := replayOf s n
  (List.range ((u.inst.map (·.steps.length)).getD 0)).foldl (fun s k =>
    if stepKind (stepWord u.image k) == 1 || stepKind (stepWord u.image k) == 2 then recvMerge s n k else s) s

/-- One clock of a replay unit (R322, R323, R337, R343). -/
def replayClock (s : State) (n : Nat) : State :=
  let u := replayOf s n
  match u.post with
  | w :: r => if canPost s then pushCompletion (onUnit s n (fun u => { u with post := r })) w else s
  | [] =>
    let s := reshClock (instStart (loadEnd s n) n) n
    match (replayOf s n).inst with
    | none => s
    | some i => instFinish ((List.range i.steps.length).foldl (fun s k => stepRun s n k) s) n

/-! ### FB syllables -/

/-- A GM address operand that must be a multiple of 64 (R336). -/
def mult64 (s : State) (a : XReg) (space : Nat) (k : State → Nat → Eff) : Eff :=
  let v := readX s a
  if v.toNat % 64 != 0 then .trap s .align (memDetail 2 space) v else k s v.toNat

/-- The task stays until its instances are over (R343). -/
def execRgload (a : XReg) (n : Fin 4) (s : State) := syl (.rgload a n) s (fun s => mult64 s a 3 (fun s v =>
  let u := coreUser s
  let size := match engWords s u v 1 with
    | .ok _ h => some (sizeClocks h)
    | _ => none
  .done (onUnit s n (fun o => { o.emptied with
    nextNum := 0, lastStarted := 0, loading := some (v, s.clock + 64 + size.getD 0), sized := size.isSome, loadUser := (u.lnum, u.node, u.tag, u.priv) }))))

/-- A play with a poisoned base table is accepted: the manual raises poison at a read of a marked register alone, and no such cause
here (R127, R338, R344). -/
def execRgplay (d a b : XReg) (n : Fin 4) (s : State) := syl (.rgplay d a b n) s (fun s => guardPush s d (mult64 s a 0 (fun s v =>
  let w := readX s b
  if bit w.toNat 63 then badOperand s w
  else
    match coreCheck s 0 (v : Int) 64 { rd := true } with
    | .fault s c r ad => .trap s c (memDetail r 0) (BitVec.ofNat 64 ad)
    | .wait s => .wait s
    | .ok s p =>
      let r := placeRead s p 64 false (coreViewer s)
      let u := coreUser s
      let num := (replayOf s n).nextNum
      let play : Play := { num := num, bases := (List.range 8).map (fun i => BitVec.ofNat 64 (leNat ((r.2.1.drop (8 * i)).take 8)))
                           word := w, lnum := u.lnum, node := u.node, tag := u.tag, priv := u.priv }
      let s := spoil (onUnit r.1 n (fun o => { o with plays := o.plays ++ [play], nextNum := (num + 1) % 256 }))
      .done (pendX s d (BitVec.ofNat 64 num) .clean 2))))

/-- Every play that the unit accepted has completed, whether or not its word could be posted yet (R339). -/
def unitQuiet (s : State) (n : Nat) : Bool := !replayBusy s n

def execRgwait (d : XReg) (n : Fin 4) (s : State) := syl (.rgwait d n) s (fun s => guardPush s d (
  if unitQuiet s n then .done (pendX s d (replayOf s n).last .clean 1) else waitFor s 0))

def execRgfree (n : Fin 4) (s : State) := syl (.rgfree n) s (fun s =>
  if unitQuiet s n then .done (onUnit s n ReplayUnit.emptied) else waitFor s 0)

/-- The word that a selector of `RGSTAT` gives (R340). -/
def rgstatWord (u : ReplayUnit) (k : Nat) : Option Nat :=
  let running := u.inst.isSome || u.reshelve.isSome
  if k == 0 then
    some (unitRid u + u.lastStarted * 2 ^ 16 + b2n running * 2 ^ 24 + min u.plays.length 7 * 2 ^ 25 + b2n (!u.image.isEmpty) * 2 ^ 28)
  else if k == 1 then some (u.late % 2 ^ 32 + u.dup % 2 ^ 32 * 2 ^ 32)
  else if k == 2 then some (u.stray % 2 ^ 32 + u.released % 2 ^ 32 * 2 ^ 32)
  else if k == 3 then some (u.overflow % 2 ^ 32 + u.received % 2 ^ 32 * 2 ^ 32)
  else if 0x1000 ≤ k && !u.image.isEmpty && decide (k - 0x1000 < imgChunks u.image) then some (bitmapOf u (k - 0x1000))
  else none

def execRgstat (d a : XReg) (n : Fin 4) (s : State) := syl (.rgstat d a n) s (fun s => guardPush s d (
  match rgstatWord (replayOf s n) (readNat s a) with
  | some w => .done (pendX s d (BitVec.ofNat 64 w) .clean 2)
  | none => badOperand s (readX s a)))

def execReshelve (a : XReg) (n : Fin 4) (s : State) := syl (.reshelve a n) s (fun s => mult64 s a 3 (fun s v =>
  let u := coreUser s
  .done (spoil (onUnit s n (fun o => { o with
      loading := none, loadUser := (u.lnum, u.node, u.tag, u.priv)
      reshelve := some { desc := [BitVec.ofNat 64 v], start := s.clock + 1, lnum := u.lnum, node := u.node, tag := u.tag, priv := u.priv } })))))

end Sys2Proof.Machine
end

