-- ==== Sys2Proof/Machine/Packets.lean ====
section
/-!
DEFINITION. Packets that arrive: the header, link checks, receive entries, relaying, and performing each
stream in order (R284 to R290, R296, R306, R369).
-/
namespace Sys2Proof.Machine
open Sys2Proof

/-! ### Headers -/

/-- The fields of a header that no hop changes (R284). -/
def packetOf (h : Nat) (pay : List Sector) : Packet :=
  { typ := bits h 223 220, cls := bits h 219 218, src := bits h 213 197, dst := bits h 196 180, sseq := bits h 179 156
    launch := bits h 125 110, rspace := bits h 109 107, psn := bits h 106 99, aux := bits h 95 64, addr := bits h 63 0, pay := pay }

/-! ### Link fields -/

/-- Take `ACKSEQ` and `NAK` (R284, R288). -/
def takeFields (s : State) (dim plane peer h : Nat) : State :=
  let k := linkKey dim plane peer
  let ack := bits h 143 132
  let mine (u : Sent) : Bool := u.dim == dim && u.plane == plane && u.peer == peer
  let covered (u : Sent) : Bool := mine u && decide ((ack + 4096 - u.lseq) % 4096 < 2048)
  let moved := s.fabric.unacked.any covered
  let s := { s with fabric := { s.fabric with unacked := s.fabric.unacked.filter (fun u => !covered u) } }
  let l := linkOf s k
  let s := setLink s k { l with replays := if moved then 0 else l.replays }
  if bit h 131 then replayLink s dim plane peer else s

/-- Take `CRED` and `CCRED` (R284, R285), once for each packet that the link accepts (DEDUCED, log entry 96). -/
def takeCredits (s : State) (dim plane peer h : Nat) : State :=
  let k := linkKey dim plane peer
  let l := linkOf s k
  let s := setLink s k { l with credit := min 16 (l.credit + bits h 130 126) }
  let c := ctrlOf s dim peer
  setCtrl s dim peer (min 4 (c.1 + bits h 98 96), c.2)

/-! ### Receive entries -/

/-- A stream, also one that only passes through, and how far ahead of the next one to be relayed a packet of that is (R286,
R289). -/
def relayKey (p : Packet) : Nat := (p.src * 2 ^ 17 + p.dst) * 4 + p.cls
def relayAhead (s : State) (p : Packet) : Nat := (p.sseq + 2 ^ 24 - lookupD s.fabric.relaySeq (relayKey p) 0) % 2 ^ 24

def streamKey (p : Packet) : Nat := p.src * 4 + p.cls
/-- Whether a packet of this package has been performed already, and whether it is the next of its stream (R287). -/
def performedBefore (s : State) (p : Packet) : Bool :=
  let n := lookupD s.fabric.rxSeq (streamKey p) 0
  decide (2 ^ 23 ≤ (p.sseq + 2 ^ 24 - n) % 2 ^ 24)
def nextInStream (s : State) (p : Packet) : Bool := p.sseq == lookupD s.fabric.rxSeq (streamKey p) 0

/-- Entries that packets of a peer hold: on a plane, or of the control buffer per source (R285). -/
def entriesHeld (s : State) (dim plane peer : Nat) (p : Packet) : Nat :=
  (s.fabric.rx.filter (fun e => !e.reserve &&
    (if p.credited then e.pkt.credited && e.dim == dim && e.plane == plane && e.peer == peer
     else if p.ctrlCredited then e.pkt.ctrlCredited && e.dim == dim && e.peer == peer
     else !e.pkt.credited && !e.pkt.ctrlCredited && e.pkt.src == p.src))).length
def entryRoom (p : Packet) : Nat := if p.credited then 16 else if p.ctrlCredited then 4 else 32

/-- An entry's credit goes back at once (R285). -/
def returnNow (s : State) (dim plane peer : Nat) (p : Packet) : State :=
  if p.credited then
    let k := linkKey dim plane peer
    let l := linkOf s k
    setLink s k { l with owed := l.owed + 1 }
  else if p.ctrlCredited then
    let c := ctrlOf s dim peer
    setCtrl s dim peer (c.1, c.2 + 1)
  else s

/-- A packet that the link has accepted takes an entry, or, when it is the next of its stream to be performed or relayed here,
the reserve entry of that (R285, R287); none when there is no entry for it. -/
def acceptPacket (s : State) (dim plane peer : Nat) (p : Packet) : Option State :=
  let own := p.dst == ownPkg s
  if own && performedBefore s p then some (returnNow s dim plane peer p)
  else
    let full := decide (entryRoom p ≤ entriesHeld s dim plane peer p)
    let next := if own then nextInStream s p else relayAhead s p == 0
    if full && !(next && !s.fabric.rx.any (fun e => e.reserve && relayKey e.pkt == relayKey p)) then none
    else
      some { s with fabric := { s.fabric with
          nextId := s.fabric.nextId + 1
          rx := s.fabric.rx ++ [{ id := s.fabric.nextId, dim := dim, plane := plane, peer := peer, pkt := p, reserve := full }] } }

/-- An acknowledgement of a stream's packet reaches its sender, or is relayed (R284, R289, R306). -/
def takeAck (s : State) (p : Packet) : State :=
  if p.dst == ownPkg s then
    (if p.cls == 2 then ackRig s p.src p.sseq else ackStream s p.src p.cls p.sseq (bits p.aux 7 0))
  else
    match nextHop s p.dst with
    | some (d, peer) => { s with fabric := { s.fabric with txq := s.fabric.txq ++ [{ pkt := p, dim := d, peer := peer, ready := s.clock }] } }
    | none => s

/-- A packet arrives on a plane (R284, R288): one that the link has accepted before is acknowledged again (DEDUCED, log entry
96). -/
def receivePacket (s : State) (dim plane peer h : Nat) (pay : List Sector) : State :=
  if !fabricOn s then s
  else
    let k := linkKey dim plane peer
    let p := packetOf h pay
    if bits h 217 214 != pay.length || decide (8 < pay.length) || bits h 255 224 != packetCrc h pay then
      setLink s k { linkOf s k with nak := true }
    else if coordOf p.dst dim != ownCoord s dim then
      { s with fabric := { s.fabric with misdelivered := s.fabric.misdelivered + 1 } }
    else
      let s := takeFields s dim plane peer h
      let l := linkOf s k
      let lseq := bits h 155 144
      if lseq != l.rxLseq then
        setLink s k (if (lseq + 4096 - l.rxLseq) % 4096 < 2048 then { l with nak := true } else { l with ackDue := true })
      else
        let t := takeCredits (setLink s k { l with rxLseq := (l.rxLseq + 1) % 4096, ackDue := l.ackDue || !p.linkAck || bits h 130 126 != 0 || bits h 98 96 != 0 }) dim plane peer h
        if 11 ≤ p.typ || p.linkAck then t
        else if p.typ == 7 then takeAck t p
        else (acceptPacket t dim plane peer p).getD s

/-! ### Relaying -/

/-- An entry of a packet that only passes through and is next in its stream, or has been relayed before (R289). -/
def relayable (s : State) : Option RxEntry :=
  s.fabric.rx.find? (fun e => e.pkt.dst != ownPkg s && (relayAhead s e.pkt == 0 || decide (2 ^ 23 ≤ relayAhead s e.pkt)))

/-- The next dimension's send queue takes a relayed packet, in `SSEQ` order, and its entry is returned (R289); a second copy
is dropped. -/
def relayOne (s : State) : State :=
  match relayable s with
  | none => s
  | some e =>
    match nextHop s e.pkt.dst with
    | none => returnEntry s e.id
    | some (d, peer) =>
      if relayAhead s e.pkt != 0 then returnEntry s e.id
      else returnEntry { s with fabric := { s.fabric with
        relaySeq := storeAt s.fabric.relaySeq (relayKey e.pkt) ((e.pkt.sseq + 1) % 2 ^ 24)
        txq := s.fabric.txq ++ [{ pkt := e.pkt, dim := d, peer := peer, ready := s.clock }] } } e.id

/-! ### Performing -/

/-- `LAST`: the last packet of a command (R284). -/
def lastOf (p : Packet) : Bool := bit p.aux 0

/-- A packet that the commands of R306 number consecutively in their stream (R286). -/
def ofCommand (p : Packet) : Bool := p.typ == 0 || p.typ == 1 || p.typ == 6
/-- A packet of a rejected command's, which follows it in its stream: a command's packets are consecutive, so it is one that
no command begins with (R286, R306). -/
def followsReject (s : State) (p : Packet) : Bool := s.fabric.reject.contains (streamKey p) && ofCommand p && !firstOf p
def clearReject (s : State) (p : Packet) : State :=
  { s with fabric := { s.fabric with reject := s.fabric.reject.filter (· != streamKey p) } }
def noteReject (s : State) (p : Packet) : State :=
  if lastOf p then clearReject s p
  else { s with fabric := { s.fabric with reject := streamKey p :: (clearReject s p).fabric.reject } }

/-- A response to a read request: the request's number in `AUX` `[31:8]`, its status, its sectors (DESIGN CHOICE, log entry 30). -/
def respond (s : State) (p : Packet) (status : Nat) (l : List (Nat × Bool)) : State :=
  (enqueue s { typ := 2, cls := p.cls, src := ownPkg s, dst := p.src, launch := p.launch, aux := p.sseq * 2 ^ 8 + status
               psn := packElems 1 (l.map (fun v => b2n v.2)), addr := p.addr, pay := l.map (fun v => BitVec.ofNat 256 v.1) } none s.clock).1

/-- A response arrives (R306), to a command that may have expired in the meantime. -/
def takeResponse (s : State) (p : Packet) : Acc Unit :=
  let status := bits p.aux 7 0
  let l := (p.pay.zipIdx).map (fun q => (q.1.toNat, bit p.psn q.2))
  match awaitedRead s p with
  | some (n, _, w) =>
    if status != 0 then .ok (ackStream s p.src p.cls w.sseq status) ()
    else
      (writeLocal s n w.addr l).bind (fun s _ =>
        .ok (onFab s n (fun a => { a with awaiting := a.awaiting.filter (fun x => x != w) })) ())
  | none =>
    match expiredRead s p with
    | none => .ok s ()
    | some (n, a, w) =>
      let gone (s : State) : State := dropExpired s n a w
      if status != 0 then .ok (gone s) ()
      else
        match writeSectors s n a w.addr l with
        | .wait s => .wait s
        | .ok s _ | .fault s _ _ _ => .ok (gone s) ()

/-- A member's slot-table proposal arrives in pieces (R296, R298; DESIGN CHOICE, log entry 30). The proposal of the member
with the lowest coordinate prevails for a turn; a repair of this package's that it beats is proposed again after it (R295). Pieces
that come once turn T − 2 has begun are too late. It is acknowledged when every piece has come. -/
def takeProposal (s : State) (p : Packet) : State :=
  let dim := bits p.aux 15 8
  let idx := bits p.aux 23 16
  let u := unitOf s dim
  let from_ := coordOf p.src dim
  let turn := p.addr
  let lose := match u.proposal with
    | some q => (q.turn == turn && decide (from_ < q.proposer)) || (!q.own && q.proposer == from_ && decide (q.turn < turn))
    | none => true
  let same := match u.proposal with | some q => !q.own && q.turn == turn && q.proposer == from_ | none => false
  if (!lose && !same) || decide ((turn - 2) * 64 ≤ absSlot s) then s
  else
    let beaten := (u.proposal.filter (·.own)).isSome
    let s := if beaten && (u.proposal.map (·.ordered)).getD false then setTutstat s dim 2 else s
    let old : Proposal := if same then u.proposal.getD { turn := turn, table := [], proposer := from_, own := false } else { turn := turn, table := [], proposer := from_, own := false }
    let lines := p.pay.flatMap (fun f => elems 8 32 f.toNat)
    let new := ((lines.zipIdx).foldl (fun t e => storeAt t (idx * 256 + e.2) e.1) old.table)
    let pieces := old.pieces ||| 2 ^ idx
    let whole := pieces == 2 ^ (planePorts s dim / 4) - 1
    let u := unitOf s dim
    let s := setUnit s dim { u with
      repairDue := u.repairDue || (beaten && !(u.proposal.map (·.ordered)).getD false)
      proposal := some { old with table := new, pieces := pieces, loaded := whole } }
    if whole then sendControl s p.src (6 + 2 ^ 8 * dim) 0 turn [] else s

/-- A member's acknowledgement of a proposal (R296). -/
def takeProposalAck (s : State) (p : Packet) : State :=
  let dim := bits p.aux 15 8
  let u := unitOf s dim
  match u.proposal with
  | some q => if q.own && q.turn == p.addr && decide (absSlot s < (q.turn - 2) * 64) then setUnit s dim { u with proposal := some { q with acks := q.acks ||| (1#64 <<< coordOf p.src dim) } } else s
  | none => s

/-- A peer distributor's launch arrives (R369). -/
def peerLaunch (s : State) (src lnum : Nat) (w : List Nat) : State := submit s { peer := some (src, lnum), words := w }

/-- The other members of a launch are told of it: by the accepting distributor that every member has accepted it, by any member
that it aborts or that a node begins again (R153, R369, R402, R403; DESIGN CHOICE, log entry 30). -/
def tellMembers (s : State) (kind lnum arg : Nat) : State :=
  (otherMembers s lnum).foldl (fun s x => sendControl s (podPkg s x) kind lnum arg []) s

/-- What has been noted for the other members is sent. -/
def sendNotices (s : State) : State :=
  s.dist.notices.foldl (fun s n => tellMembers s n.1 n.2.1 n.2.2) { s with dist := { s.dist with notices := [] } }

/-- A member's answer to a launch of this package's (R369): the launch becomes resident with the last, and with a refusal every
member aborts it with cause `ACCESS_DENIED`. -/
def launchAnswer (s : State) (p : Packet) : State :=
  let s := updLaunch s p.launch (fun l => { l with awaiting := l.awaiting &&& ~~~(1#64 <<< coordOf p.src 0) })
  match launchOf s p.launch with
  | some l =>
    if l.state != 0 then s
    else if p.addr != 0 then abortLaunch s l.lnum Cause.accessDenied.code
    else if l.awaiting == 0 then makeResident (tellMembers s 8 l.lnum 0) l.lnum
    else s
  | none => s

/-- The accepting distributor's word on a launch that this package has accepted (R369). -/
def launchVerdict (s : State) (p : Packet) : State :=
  match launchOf s p.launch with
  | some l =>
    if l.state != 0 || l.awaiting != 1#64 <<< coordOf p.src 0 then s
    else makeResident (updLaunch s l.lnum (fun l => { l with awaiting := 0 })) l.lnum
  | none => s

/-- A member's arrival at a pod barrier, a phase's barrier or an exchange phase's end (R20, R376, R377, R390). -/
def memberArrival (s : State) (p : Packet) (kind : Nat) : State :=
  let node := bits p.addr 15 0
  let x := coordOf p.src 0
  let gen := bits p.aux 15 8
  let at_ := clockOfWheel s (((p.pay.head?).map (·.toNat)).getD (wheelTime s s.clock))
  if kind == 3 then
    let b : Fin 16 := ⟨bits p.addr 31 16 % 16, Nat.mod_lt _ (by decide)⟩
    updNode s p.launch node (fun n =>
      let a : Arrival := { x := x, gen := gen, step := bits p.addr 63 32, clock := at_ }
      let old := (n.bars.find? (fun k => k.scope == .pd && k.id == b)).getD { scope := .pd, id := b }
      { n with bars := { old with others := noteArrival old.others a } :: n.bars.filter (fun k => !(k.scope == .pd && k.id == b)) })
  else
    let a : Arrival := { x := x, gen := gen, step := bits p.addr 31 16, atEnd := kind == 7, clock := at_, slots := bits p.addr 63 32 }
    updNode s p.launch node (fun n => { n with arrivals := noteArrival n.arrivals a })

/-- A control packet of the management plane (DESIGN CHOICE, log entry 30). -/
def takeControl (s : State) (p : Packet) : State :=
  let kind := bits p.aux 7 0
  if kind == 1 then peerLaunch s p.src p.launch (p.pay.flatMap (fun f => elems 64 4 f.toNat))
  else if kind == 2 then launchAnswer s p
  else if kind == 3 || kind == 4 || kind == 7 then memberArrival s p kind
  else if kind == 5 then takeProposal s p
  else if kind == 6 then takeProposalAck s p
  else if kind == 8 then launchVerdict s p
  else if kind == 9 then replayHere s p.launch (bits p.addr 15 0) false
  else if kind == 10 then abortHere s p.launch (p.addr % 256)
  else if kind == 11 then conflictHere s p.launch (bits p.addr 15 0)
  else s

/-- Perform an arrived packet (R287, R290, R306, R328), or let it wait in its entry. -/
def performPacket (s : State) (p : Packet) : Acc Unit :=
  let out (r : Option State) : Acc Unit := match r with | some s => .ok s () | none => .wait s
  if followsReject s p then .ok (noteReject s p) ()
  else
    let s := if ofCommand p then clearReject s p else s
    let settle (out : Acc Unit) : Acc Unit :=
      match out with
      | .ok s _ => .ok (sendAck s p 0) ()
      | .fault s c _ _ => .ok (sendAck (noteReject s p) p c.code) ()
      | .wait s => .wait s
    if p.typ == 0 then
      (if p.cls == 3 then .ok (acceptSc s p) () else settle (writePacket s p))
    else if p.typ == 1 then
      (if midStream s p.src p.cls then .wait s
       else match readPacket s p (bits p.aux 15 8) with
       | .ok s l => .ok (respond s p 0 l) ()
       | .fault s c _ _ => .ok (respond (noteReject s p) p c.code []) ()
       | .wait s => .wait s)
    else if p.typ == 2 then takeResponse s p
    else if p.typ == 3 then
      (if signalsFull (keepSignals s) (arrivalUnit s p.src) then .wait s
       else
         let f := ((p.pay.head?).getD 0).toNat
         let r := applySignal s (arrivalUnit s p.src) (bits f 159 128) (bits f 127 0)
         .ok (sendAck r.1 p r.2) ())
    else if p.typ == 4 then .ok (acceptSc s p) ()
    else if p.typ == 5 then .ok (scAnswer s (bits p.aux 31 16) (bits p.aux 7 0) p.addr) ()
    else if p.typ == 6 then settle (sendPacketIn s p)
    else if p.typ == 8 then
      .ok { s with fabric := { s.fabric with reports := (p.addr, (coordOf p.src 0, p.aux)) :: s.fabric.reports } } ()
    else if p.typ == 9 then
      (let lead := bit p.aux 0
       out ((
         if p.aux == 2 then histArrives s (coordOf p.src 0) p.addr p.pay
         else if p.aux == 4 then recordArrives s p.addr p.pay p.psn
         else if lead then leadArrives s (coordOf p.src 0) p.addr ((p.pay.head?).getD 0).toNat
         else some (dataArrives s (coordOf p.src 0) p.addr p.pay p.psn)).map (fun s => sendAck s p 0)))
    else if p.typ == 10 then .ok (takeControl s p) ()
    else .ok s ()

/-- The sectors of LS or QS that an arriving packet reaches: those it writes or reads, or that a read's response writes (R122,
R306). -/
def arrivalSides (s : State) (p : Packet) : List Nat :=
  if followsReject s p || (p.typ == 0 && p.cls == 3) then []
  else if p.typ == 2 then
    (((awaitedRead s p).orElse (fun _ => expiredRead s p)).map (fun r =>
      (List.range p.pay.length).filterMap (fun i => ownSide (descLspace r.2.1.cmd.desc) ((r.2.2.addr + 32 * i : Nat) : Int)))).getD []
  else packetSides s p (if p.typ == 1 then bits p.aux 15 8 else p.pay.length)
/-- What arriving packets ask the crossbar for on this clock (R122): requester 72, for the first that needs it. -/
def arrivalWants (s : State) : List (Nat × BitVec 32) :=
  (((s.fabric.rx.filter (fun e => e.pkt.dst == ownPkg s && nextInStream s e.pkt)).map (fun e => (sideBanks (arrivalSides s e.pkt)).1)).find? (· != 0)).toList.map (fun m => (72, m))

/-- The first entry whose packet is next in its stream and can be performed now (R287): its effect, its stream
one further, its entry returned. Waits when there is none; the packets that wait may have started recalls (R351). -/
def performFirst (s : State) : List RxEntry → Acc Unit
  | [] => .wait s
  | e :: rest =>
    if e.pkt.dst == ownPkg s && nextInStream s e.pkt then
      match (match bankTurn s 72 (arrivalSides s e.pkt) with | some s => performPacket s e.pkt | none => .wait s) with
      | .ok t _ | .fault t _ _ _ =>
        let k := streamKey e.pkt
        .ok (returnEntry { t with fabric := { t.fabric with rxSeq := storeAt t.fabric.rxSeq k ((e.pkt.sseq + 1) % 2 ^ 24) } } e.id) ()
      | .wait t => performFirst t rest
    else performFirst s rest

/-- Entries whose packets have been performed in the meantime are duplicates, and go back (R287). -/
def dropDuplicates (s : State) : State :=
  (s.fabric.rx.filter (fun e => e.pkt.dst == ownPkg s && performedBefore s e.pkt)).foldl (fun s e => returnEntry s e.id) s

def performOne (s : State) : State :=
  dropDuplicates (match performFirst s s.fabric.rx with | .ok t _ | .wait t | .fault t _ _ _ => t)

/-- Everything that can be performed or relayed in a clock. -/
def performAll : (fuel : Nat) → State → State
  | 0, s => s
  | fuel + 1, s =>
    match performFirst s s.fabric.rx with
    | .ok t _ | .fault t _ _ _ => performAll fuel t
    | .wait t => t

/-- The receiving side's clock. -/
def receiveClock (s : State) : State :=
  if s.fabric.rx.isEmpty then s
  else (List.range s.fabric.rx.length).foldl (fun s _ => relayOne s) (dropDuplicates (performAll s.fabric.rx.length s))

end Sys2Proof.Machine
end

