-- ==== Sys2Proof/Machine/System.lean ====
section
/-!
DEFINITION. The SX syllables and the control registers (R42, R43, R397, R410 to R420).
-/
namespace Sys2Proof.Machine
open Sys2Proof

/-! ### Breakpoints and halts -/

/-- The point of R399 for `TRAP`, `BRK` and `HALT`: the syllable commits, and the rest of its bundle, or the
next bundle, comes after the trap. -/
def afterSyllable (s : State) (k : State → CodeAddr → Bool → Nat → Nat → State) : State :=
  let last := s.core.idx + 1 ≥ s.core.bundle.length
  let t := commit s (counting s.core)
  if last then k t t.core.pc false 0 (t.core.sched + t.core.owed)
  else k t t.core.pc true t.core.idx t.core.sched

/-- `BREAK` with a detail and the syllable's word (R396, R411). -/
def breakWith (s : State) (detail : Nat) : State :=
  let w := wordHere s.core
  afterSyllable s (fun t pc srfv srf clk => takeTrap t .break_ detail w pc srfv srf clk)

/-- A breakpoint (R396, R411): with `ATTACH` and `BRKHALT` the debugger takes it, and the core halts with `WHY` 2, else `BREAK` goes
to the handler. -/
def breakpoint (s : State) (detail : Nat) : Eff :=
  if dbgAttach s && dbgBrkHalt s then .left (afterSyllable s (fun t pc srfv srf clk => haltCore t 2 pc srfv srf clk))
  else .left (breakWith s detail)

/-- R396 delivers `BREAK` to an attached debugger whatever raised it, so that `TRAP` halts as `BRK` does (DEDUCED, log entry 63). -/
def execTrap (n : BitVec 7) (s : State) := syl (.trap n) s (fun s => breakpoint s n.toNat)
def execBrk (n : BitVec 7) (s : State) := syl (.brk n) s (fun s => breakpoint s (0x80 + n.toNat))
def execHalt (s : State) := syl .halt s (fun s =>
  if dbgAttach s then .left (afterSyllable s (fun t pc srfv srf clk => haltCore t 3 pc srfv srf clk))
  else .left (breakWith s 0xFF))

/-! ### Return from a trap -/
def execRft (s : State) := syl .rft s (fun s => .left (returnFromTrap s))
def execRftAbort (s : State) := syl .rftAbort s (fun s => .left (abortCore (returnFromTrap s) s.core.sw.cause.toNat))
def execRftReplay (s : State) := syl .rftReplay s (fun s =>
  match s.core.task with
  | some t => .left (nodeReplay (returnFromTrap s) t.lnum t.node s.core.sw.cause.toNat)
  | none => .left (returnFromTrap s))

/-! ### Control registers -/

/-- `PENDX.HELD`: exposed writes held in every level (R397, R400; DEDUCED, log entry 26). -/
def heldCount (c : Core) : Nat := (c.levels.map (fun l => l.writes.length)).foldl (· + ·) 0

/-- The value of a control register (R42, R172, R220, R238, R253, R394, R397). -/
def csrRead (s : State) (n : Nat) : Word :=
  let c := s.core
  if n == 0 then swWord c
  else if n == 1 then c.trapPc.setWidth 64
  else if n == 2 then c.trapVal
  else if n == 0x10 then c.qmap[0] else if n == 0x11 then c.qmap[1]
  else if n == 0x12 then c.qmap[2] else if n == 0x13 then c.qmap[3]
  else if n == 0x20 then BitVec.ofNat 64 (c.envExpect.toNat * 2 ^ 32 + c.envCount.toNat)
  else if n == 0x21 then BitVec.ofNat 64 (c.envCrcExpect.toNat * 2 ^ 32 + c.envCrc.toNat)
  else if n == 0x22 then c.trapVec.setWidth 64
  else if n == 0x23 then c.trapSw
  else if n == 0x24 then c.trapScr
  else if n == 0x25 then BitVec.ofNat 64 (b2n c.envFlip)
  else if n == 0x26 then BitVec.ofNat 64 (heldCount c % 256)
  else if n == 0x100 then c.vu.vcfg else if n == 0x101 then c.vu.qwait else if n == 0x102 then c.vu.vqstat
  else if n == 0x200 then c.mx.msat
  else if n == 0x300 then BitVec.ofNat 64 apertureBase
  else if n == 0x301 then c.cptBase
  else if n == 0x302 then c.bteErr
  else if 0x310 ≤ n ∧ n ≤ 0x31F then (c.rngCfg[n - 0x310]?).getD 0
  else if 0x320 ≤ n ∧ n ≤ 0x32F then (c.rngCnt[n - 0x320]?).getD 0
  else if n == 0x400 ∨ n == 0x401 then fabricCsr s n
  else if n == 0x500 then BitVec.ofNat 64 (taskRemain s)
  else if n == 0x501 then BitVec.ofNat 64 ((c.task.map (·.age)).getD 0)
  else if n == 0x502 then BitVec.ofNat 64 (taskStatus s)
  else 0

/-- A write of `QMAPn` (R39): `KIND` 3 to 15 stores 0. -/
def qmapValue (v : Word) : Word :=
  BitVec.ofNat 64 (bits v.toNat 11 8 * 2 ^ 8 + (if bits v.toNat 3 0 ≤ 2 then bits v.toNat 3 0 else 0))

/-- What a write of a control register does; read-only fields ignore it (R42). -/
def csrWrite (s : State) (n : Nat) (v : Word) : State :=
  if n == 0 then onCore s (fun c => { c with sw := swWrite c.sw v })
  else if n == 1 then onCore s (fun c => { c with trapPc := BitVec.ofNat 56 v.toNat })
  else if n == 2 then onCore s (fun c => { c with trapVal := v })
  else if h : 0x10 ≤ n ∧ n ≤ 0x13 then onCore s (fun c => { c with qmap := c.qmap.set (n - 0x10) (qmapValue v) (by omega) })
  else if n == 0x22 then onCore s (fun c => { c with trapVec := BitVec.ofNat 56 (v.toNat / 4 * 4) })
  else if n == 0x23 then onCore s (fun c => { c with trapSw := v })
  else if n == 0x24 then onCore s (fun c => { c with trapScr := v })
  else if n == 0x100 then onCore s (fun c => { c with vu := { c.vu with vcfg := v &&& 0x103 } })
  else if n == 0x101 then onCore s (fun c => { c with vu := { c.vu with qwait := v } })
  else if n == 0x102 then onCore s (fun c => { c with vu := { c.vu with vqstat := v &&& 0xFFFFFFFFFFFF } })
  else if n == 0x200 then onCore s (fun c => { c with mx := { c.mx with msat := v &&& 0xFFFFFFFF } })
  else if n == 0x301 then onCore s (fun c => { c with cptBase := v &&& 0x00FFFFFFFFFFF000 })
  else if n == 0x302 then onCore s (fun c => { c with bteErr := c.bteErr &&& ~~~v })
  else if 0x310 ≤ n ∧ n ≤ 0x31F then (if bit v.toNat 63 then enableRing s (n - 0x310) v else disableRing s (n - 0x310) v)
  else if n == 0x400 ∨ n == 0x401 then fabricCsrWrite s n v
  else s

def execCsrr (d : XReg) (n : BitVec 11) (s : State) := syl (.csrr d n) s (fun s => guardPush s d (.done (exposeX s 2 d (csrSeen s n.toNat (csrRead s n.toNat)))))
def execCsrw (a : XReg) (n : BitVec 11) (s : State) := syl (.csrw a n) s (fun s => .done (csrWrite s n.toNat (readX s a)))

def execQmap (d a : XReg) (n : Fin 4) (s : State) := syl (.qmap d a n) s (fun s => guardPush s d (
  let old := s.core.qmap[n]
  let v := qmapValue (readX s a)
  .done (onCore (exposeX s 2 d old) (fun c => { c with qmap := c.qmap.set n v }))))

/-! ### Envelopes -/

def execEnv (e : BitVec 21) (s : State) := syl (.env e) s (fun s =>
  if s.core.sw.envOpen then .trap s .envelopeMismatch 2 (envVal s.core)
  else
    let v := ((s.core.lx.map (·.toNat)).getD 0) * 2 ^ 21 + e.toNat
    .done (onCore s (fun c => { c with
      envExpect := BitVec.ofNat 16 v, envCrcExpect := BitVec.ofNat 32 (v >>> 16), envCount := 0, envCrc := 0xFFFFFFFF
      sw := { c.sw with envOpen := true } })))

def execEnvc (s : State) := syl .envc s (fun s =>
  let c := s.core
  if !c.sw.envOpen then .trap s .envelopeMismatch 3 (envVal c)
  else if c.envCount != c.envExpect then .trap s .envelopeMismatch 0 (envVal c)
  else if c.envCrc ^^^ 0xFFFFFFFF != c.envCrcExpect then .trap s .envelopeMismatch 4 (envVal c)
  else .done (onCore s (fun c => { c with sw := { c.sw with envOpen := false } })))

/-! ### Translations -/

/-- Whether an `XLINV` covers a held translation (R416). -/
def invCovers (k : Nat) (v : Word) (e : Xlate) : Bool :=
  if k == 0 then e.vbase / e.size == v.toNat / e.size else if k == 1 then e.lnum == bits v.toNat 15 0 else true

/-- `XLINV` removes the core's translations at once; its result is written once no started command holds one
of them (R135, R416). -/
def execXlinv (d a : XReg) (k : BitVec 2) (s : State) := syl (.xlinv d a k) s (fun s => guardPush s d (
  let v := readX s a
  let n := (s.sys.tlb.filter (invCovers k.toNat v)).length
  let s := { s with sys := { s.sys with tlb := s.sys.tlb.filter (fun e => !invCovers k.toNat v e) } }
  match lateDest s d with
  | (s, some dst) =>
    let r := pend s dst none .clean none
    .done (onCore r.1 (fun c => { c with inv := c.inv ++ [⟨some r.2, k.toNat, v, n⟩] }))
  | (s, none) => .done (onCore s (fun c => { c with inv := c.inv ++ [⟨none, k.toNat, v, n⟩] }))))

def execXlwait (s : State) := syl .xlwait s (fun s =>
  if s.core.inv.isEmpty then .done s else waitFor s 0)

/-! ### Injection and sleep -/

/-- Mark the sector of GM that holds a DPA poisoned, at its home and in HBM, where a format range keeps its codes in its storage
(R81, R419). -/
def poisonGm (s : State) (d : Nat) : State :=
  let s := l2Flush s (d / 128)
  { s with sys := { s.sys with hbm := s.sys.hbm.markSector (hbmPlace s (d / 32) / 32) true
                               msc := if mscValid s (d / 32) then s.sys.msc.markSector (d / 32) true else s.sys.msc } }

def execTinj (a : XReg) (e k : BitVec 2) (s : State) := syl (.tinj a e k) s (fun s =>
  let v := readX s a
  if k.toNat == 0 then
    match gmCheck s (v.toNat : Int) 1 { wr := true } with
    | .ok s (.gm runs) => .done (match runs with | r :: _ => poisonGm s r.1 | [] => s)
    | .ok s _ => .done s
    | .wait s => .wait s
    | .fault s c r ad => .trap s c (0x80 + 8 * r + 3) (BitVec.ofNat 64 ad)
  else if k.toNat == 1 then .done (onCore s (fun c => { c with envFlip := true }))
  else .done (linjStore s e.toNat v))

/-- Some quad queue bound to a port of the core holds an entry (R420). -/
def boundQueueFilled (s : State) : Bool :=
  (List.finRange 4).any (fun n => bits s.core.qmap[n].toNat 3 0 == 1 && !(entriesOf s n).isEmpty)

/-- The conditions that keep a core asleep (R420). -/
def keepsSleeping (s : State) (since limit : Nat) : Bool :=
  s.core.completions.isEmpty && !boundQueueFilled s && !s.core.haltAsked && !(s.core.preempt.isSome && s.core.sw.ie) &&
  (limit == 0 || decide (s.clock < since + limit))

/-- An engine access to LS or ACC is in progress: a channel's or a Tether port's next sector lies there, or the matrix unit uses
it; and one to the B store (R420). -/
def lsBusy (s : State) : Bool :=
  s.bte.chan.any (fun c => (nextMove s c.1).ls != 0) || (List.range 8).any (fun n => (sideBanks (fabSides s n)).2 != 0) ||
  !s.core.mx.array.isEmpty || !s.core.mx.transfer.isEmpty
def bstoreBusy (s : State) : Bool := s.core.mx.transfer.any (fun o => o.kind == .mbwr) || !s.core.mx.array.isEmpty

/-- The layers of R409 at a sleep level: a layer that an engine uses enters state 2 once it does so no more; a collapsed B store
loses every panel (R420). -/
def sleepLayers (s : State) (lv : Nat) : State :=
  onCore s (fun c => { c with
    lsLayer := if lv == 0 then 1 else if lsBusy s then c.lsLayer else 2
    bLayer := if lv == 0 then 1 else if lv == 2 then 3 else if bstoreBusy s then c.bLayer else 2
    mx := if lv == 2 then { c.mx with panels := 0, panelPoison := 0, bstore := {} } else c.mx })

/-- The wake of a sleeping core (R420): layers on, after 4 clocks from state 1 or 200 from state 2. -/
def wakeLayers (s : State) : State :=
  onCore s (fun c => { c with held := wakeClocks c, lsLayer := 0, bLayer := 0 })

/-- A sleep that a halt or a preemption ends wakes the core too (R420). -/
def wakeCut (s : State) : State := if s.core.lsLayer == 0 && s.core.bLayer == 0 then s else wakeLayers s

/-- What a `SLEEP` comes to now (R420): it begins, goes on or ends. -/
def sleepRun (l : BitVec 2) (limit : Nat) (s : State) : Eff :=
  match s.core.waiting with
  | none => if keepsSleeping s s.clock limit then .wait (onCore (sleepLayers s l.toNat) (fun c => { c with waiting := some (s.clock, 0) })) else .done s
  | some w => if keepsSleeping s w.1 limit then .wait (sleepLayers s l.toNat) else .done (wakeLayers s)

def execSleep (a : XReg) (l : BitVec 2) (s : State) := syl (.sleep a l) s (fun s => sleepRun l (readX s a).toNat s)

end Sys2Proof.Machine
end

