-- ==== Sys2Proof/Machine/Sync.lean ====
section
/-!
DEFINITION. The SY syllables: barriers, tickets, launches and ends of tasks (R384 to R395).
-/
namespace Sys2Proof.Machine
open Sys2Proof

/-! ### Barriers -/

/-- The core's arrival stands in an open phase of the barrier. -/
def arrivedAt (s : State) (t : Task) (c : Scope) (b : Fin 16) : Bool :=
  ((barOf s t.lnum t.node c b).map (fun k => k.arrived.isSome)).getD false

/-- The open phase of a pod barrier at which the package has arrived without the core's task: the task is a member of the next
one (R377). -/
def bypassed (s : State) (t : Task) (c : Scope) (b : Fin 16) : Bool :=
  ((barOf s t.lnum t.node c b).map (fun k => k.arrived.isSome && k.absent)).getD false

/-- `BAR` (R385): it arrives, and waits until its phase has released. An exchange task is the only member of its
quad, die and package. -/
def execBar (c : Scope) (b : Fin 16) (s : State) := syl (.bar c b) s (fun s =>
  match s.core.task with
  | none => .done s
  | some t =>
    if t.xchg && (c == .qd || c == .di || c == .pk) then .done s
    else if bypassed s t c b then waitFor s 5
    else if arrivedAt s t c b then waitFor s 3
    else if (s.core.waiting.map (·.2)) == some 3 then .done s
    else waitFor (arriveAt s t.lnum t.node c b) 3)

/-! ### Tickets -/

/-- Take up to `k` tickets of the task's node (R386, R387): a draining task, an exchange task and a task in a
closed phase get none. -/
def askTickets (s : State) (steal : Bool) (k : Nat) : Option (State × Nat × Nat × Bool) :=
  match s.core.task with
  | none => none
  | some t =>
    match nodeOf s t.lnum t.node with
    | none => none
    | some n =>
      if t.drain || t.xchg || n.phase != .compute then none
      else (takeTickets s n steal k).map (fun r => (updNode s t.lnum t.node (fun _ => r.1), r.2.1, r.2.2.1, r.2.2.2))

/-- The task is to end in place: a new one with the tickets and a tag of its own begins at the next bundle (R386). -/
def taskInPlace (s : State) (ticket count : Nat) : State :=
  let r := freshTag s
  onCore r.1 (fun c => { c with nextTask := c.task.map (fun t =>
    { t with ticket := ticket, count := count, tag := r.2, etaSet := ((nodeOf s t.lnum t.node).map (·.eta0)).getD 0, etaAge := 0, age := 0, spoiled := false }) })

/-- The result of `TKT` and `TKTN`: 20 clocks from the own die, 60 after a steal or a search of the dies. -/
def ticketResult (s : State) (d : XReg) (steal : Bool) (k : Nat) (word : Nat → Nat → Nat) : Eff :=
  match askTickets s steal k with
  | some (s, t, c, stolen) =>
    .done (taskInPlace (pendX s d (BitVec.ofNat 64 (word t c)) .clean (if stolen then 60 else 20)) t c)
  | none => .done (pendX s d (BitVec.allOnes 64) .clean (if steal then 60 else 20))

def execTkt (d : XReg) (c : Scope) (s : State) := syl (.tkt d c) s (fun s => guardPush s d (
  ticketResult s d (c == .pk) 1 (fun t _ => t)))

def execTktn (d a : XReg) (c : Scope) (s : State) := syl (.tktn d a c) s (fun s =>
  let n := readX s a
  if n.toNat == 0 || decide (64 < n.toNat) then badOperand s n
  else guardPush s d (ticketResult s d (c == .pk) n.toNat (fun t k => t + k * 2 ^ 32)))

/-! ### Launches -/

/-- Clocks of the distributor's checks of a `LAUNCH`, typical (PRESUMED, log entry 3). -/
def launchClocks : Nat := 64

/-- The descriptor that a `LAUNCH` names, as the core's task sees it; none while it waits. -/
def childDescriptor (s : State) (va : Nat) : Option (List Nat × Bool) :=
  match gmFetch s (coreRoot s) va 64 (corePriv s) (coreViewer s) with
  | .got (bs, po) => some (descWords bs, !po)
  | .bad => some ([], false)
  | .waits => none

/-- `LAUNCH` (R393). While something that the distributor has to read of the launch waits, the syllable waits (R80, R135, R429;
DEDUCED, log entry 31). -/
def execLaunch (d a : XReg) (s : State) := syl (.launch d a) s (fun s => guardPush s d (mult64 s a 3 (fun s v =>
  match (childDescriptor s v).bind (fun w => submitWords s (.child (coreLnum s) (corePriv s)) w.1 w.2) with
  | none => .wait s
  | some r =>
    let word := (if r.2.2 != 0 then 3 * 2 ^ 56 + r.2.2 * 2 ^ 48 else r.2.1)
    .done (pendX (spoil r.1) d (BitVec.ofNat 64 word) .clean launchClocks))))

def execLwait (d a : XReg) (s : State) := syl (.lwait d a) s (fun s => guardPush s d (
  let n := bits (readX s a).toNat 15 0
  match launchOf s n with
  | none => .done (pendX s d 0 .clean 1)
  | some l =>
    if l.lnum != coreLnum s && l.parent != some (coreLnum s) then .done (pendX s d 0 .clean 1)
    else if 2 ≤ l.state then .done (pendX s d (BitVec.ofNat 64 (reportWord0 l)) .clean 1)
    else waitFor s 4))

/-! ### Estimates and priority -/

def execEta (a : XReg) (s : State) := syl (.eta a) s (fun s =>
  .done (onTask s (fun t => { t with etaSet := min (readX s a).toNat (2 ^ 32 - 1), etaAge := 0 })))

/-- `PRIO` (R392). The manual gives no `TRAPVAL` for its denial: a free value (DESIGN CHOICE, log entry 22). -/
def execPrio (a : XReg) (q : Fin 16) (s : State) := syl (.prio a q) s (fun s =>
  let v := readX s a
  if bits v.toNat 63 4 != 0 then badOperand s v
  else if !(((launchOf s (coreLnum s)).map (fun l => l.prioq.getLsbD q.val)).getD false) then
    .trap (drawn s) .accessDenied 7 (Config.freeWord s.free)
  else .done (hubSet s (0x4005000000 + 8 * q.val) (v &&& 0xF)))

/-! ### Ends of tasks -/

/-- What `ENDT` waits for (R389; DEDUCED, log entry 36). -/
def workDone (s : State) : Bool :=
  s.core.board.isEmpty && s.core.vu.queue.isEmpty && s.core.mx.array.isEmpty && s.core.mx.transfer.isEmpty && s.core.inv.isEmpty &&
  s.bte.chan.all (fun c => c.2.queue.isEmpty && c.2.active.isNone && c.2.post.isEmpty) &&
  s.rows.ports.all (fun p => p.2.queue.isEmpty && p.2.post.isEmpty) &&
  s.fabric.ports.all (fun p => p.2.queue.isEmpty && p.2.active.isNone && p.2.post.isEmpty) && s.fabric.sc.isNone && !unitsBusy s &&
  s.replay.toList.all (fun u => u.post.isEmpty && u.loading.isNone) && s.folios.post.isEmpty

/-- The end of the core's task, with a slot count for an exchange task (R389, R390). -/
def endWith (s : State) (slots : Nat) : Eff :=
  if !workDone s then waitFor s 0
  else
    match s.core.task with
    | some t => if t.xchg then .left (endExchange s slots) else .left (endTile s)
    | none => .left (idleCore s)

def execEndt (s : State) := syl .endt s (fun s =>
  if s.core.sw.envOpen then .trap s .envelopeMismatch 5 (envVal s.core) else endWith s 0)

/-- The core's task is an exchange task. -/
def inExchange (s : State) : Bool := (s.core.task.map (·.xchg)).getD false

def execSsend (a : XReg) (s : State) := syl (.ssend a) s (fun s =>
  let v := readX s a
  if bits v.toNat 63 16 != 0 then badOperand s v
  else if s.core.sw.envOpen && !inExchange s then .trap s .envelopeMismatch 5 (envVal s.core)
  else endWith s v.toNat)

/-! ### Identities -/

/-- `NODEID` (R388): the modelled core is core 0 of die 0 and quad 0 (DESIGN CHOICE, log entry 1). -/
def nodeidWord (s : State) (k : Nat) : Nat :=
  if k == 0 then (s.core.task.map (·.node)).getD 0
  else if k == 1 then coreLnum s
  else if k == 3 then ownPkg s
  else 0

/-- `TILEID` (R373, R376, R388). -/
def tileidWord (s : State) (k : Nat) : Nat :=
  match s.core.task with
  | none => 0
  | some t =>
    let n := (nodeOf s t.lnum t.node).getD {}
    if k == 0 then (if t.xchg then 0 else t.ticket % n.gx)
    else if k == 1 then (if t.xchg then 0 else t.ticket / n.gx % n.gy)
    else if k == 2 then (if t.xchg then 0 else t.ticket / (n.gx * n.gy))
    else if k == 3 then t.ticket
    else if k == 4 then (if t.xchg then 0 else t.count)
    else if k == 5 then n.superstep
    else b2n t.xchg

def execNodeid (d : XReg) (e : BitVec 3) (s : State) := syl (.nodeid d e) s (fun s => guardPush s d (
  .done (exposeX s 1 d (BitVec.ofNat 64 (nodeidWord s e.toNat)))))
def execTileid (d : XReg) (e : BitVec 3) (s : State) := syl (.tileid d e) s (fun s => guardPush s d (
  .done (exposeX s 1 d (BitVec.ofNat 64 (tileidWord s e.toNat)))))

end Sys2Proof.Machine
end

