-- ==== Sys2Proof/Machine/Vector.lean ====
section
/-!
DEFINITION. The VR, VX and VM syllables (R84, R141 to R143, R167 to R196).
-/
namespace Sys2Proof.Machine
open Sys2Proof

/-! ### The frame -/

/-- A syllable that names a vector register while the register file is engine-owned (R174). -/
def fileOwned (s : State) (i : Instr) : Option Eff :=
  let u := uses i
  let named := !(u.vr ++ u.vs ++ u.vw ++ (wordRegs s i).1).isEmpty
  if s.vrEngine && named then some (.trap s .ownerViolation 0 (BitVec.ofNat 64 vrBase)) else none

/-- A vector-slot syllable. -/
def vsyl (i : Instr) (s : State) (body : State → Eff) : Host.Outcome State Fault Refusal := sylPre (fun s => fileOwned s i) i s body

/-- `VCFG.ROUND` and `VCFG.ISAT` (R172). -/
def vround (s : State) : RoundMode := RoundMode.ofCode (bits (csrSeen s 0x100 s.core.vu.vcfg).toNat 1 0)
def visat (s : State) : Bool := bit (csrSeen s 0x100 s.core.vu.vcfg).toNat 8

/-! ### Elements -/

end Sys2Proof.Machine
namespace Sys2Proof
open Sys2Proof.Machine
/-- The format of an F type or of a narrow float. -/
def ElemTy.fmt : ElemTy → FpFmt
  | .bf16 => fmtBf16
  | .e4m3 => fmtE4m3
  | .e5m2 => fmtE5m2
  | _ => fmtF32
def ElemTy.isFloat (t : ElemTy) : Bool := t.isF || t.isFloat8
end Sys2Proof
namespace Sys2Proof.Machine
open Sys2Proof

end Sys2Proof.Machine
namespace Sys2Proof
open Sys2Proof.Machine
/-- An integer element (R169, R177). -/
def ElemTy.int (t : ElemTy) (x : Nat) : Int := if t.isSigned then sext x t.width else (x % 2 ^ t.width : Nat)
def ElemTy.lo (t : ElemTy) : Int := if t.isSigned then -(2 ^ (t.width - 1) : Nat) else 0
def ElemTy.hi (t : ElemTy) : Int := if t.isSigned then (2 ^ (t.width - 1) : Nat) - 1 else (2 ^ t.width : Nat) - 1
end Sys2Proof
namespace Sys2Proof.Machine
open Sys2Proof

/-- A result clamped to the type's range, one saturation for a clamp. -/
def clampTo (t : ElemTy) (r : Int) : Nat × Bool :=
  if r < t.lo then (wrapTo t.width t.lo, true) else if t.hi < r then (wrapTo t.width t.hi, true) else (wrapTo t.width r, false)
/-- An exact integer result wrapped or clamped (R177). -/
def intResult (t : ElemTy) (isat : Bool) (r : Int) : Nat × Bool := if isat then clampTo t r else (wrapTo t.width r, false)
/-- An exact F result rounded once (R177). -/
def fpResult (t : ElemTy) (m : RoundMode) (x : Fp) : Nat × Bool := encodeFp t.fmt m x

/-- The results of n elements, of which a mask keeps the old ones (R170), with the saturations. -/
def maskedLanes (s : State) (k : Bool) (w n old : Nat) (f : Nat → Nat × Bool) : Nat × Nat :=
  let l := (List.range n).map (fun i => if !k || maskBit s i then f i else (elem w old i, false))
  (packElems w (l.map (·.1)), ((l.map (fun r => b2n r.2)).foldl (· + ·) 0))

/-- A VR syllable with one vector result of type t (R170, R176). -/
def vrOp (i : Instr) (t : ElemTy) (d : VReg) (k : Bool) (lat : Nat) (s : State) (f : State → Nat → Nat × Bool) : Host.Outcome State Fault Refusal :=
  vsyl i s (fun s =>
    let r := maskedLanes s k t.width t.count (readV s d) (f s)
    .done (exposeVec s lat (.v d) r.1 r.2 .clean))

/-! ### Element-wise arithmetic (R177, R178) -/

/-- Two operands and the old destination of an element, by the kind of the type. -/
def arith (t : ElemTy) (fp : RoundMode → Fp → Fp → Fp → Fp) (int : Int → Int → Int → Int) (d a b : VReg) (s : State) (i : Nat) : Nat × Bool :=
  let x := elem t.width (readV s a) i
  let y := elem t.width (readV s b) i
  let z := elem t.width (readV s d) i
  if t.isF then fpResult t (vround s) (fp (vround s) (decodeFp t.fmt x) (decodeFp t.fmt y) (decodeFp t.fmt z))
  else intResult t (visat s) (int (t.int x) (t.int y) (t.int z))

def execVadd (t : ElemTy) (d a b : VReg) (k : Bool) (s : State) := vrOp (.vadd t d a b k) t d k 2 s (arith t (fun m x y _ => addFp m x y) (fun x y _ => x + y) d a b)
def execVsub (t : ElemTy) (d a b : VReg) (k : Bool) (s : State) := vrOp (.vsub t d a b k) t d k 2 s (arith t (fun m x y _ => addFp m x (negFp y)) (fun x y _ => x - y) d a b)
def execVmul (t : ElemTy) (d a b : VReg) (k : Bool) (s : State) := vrOp (.vmul t d a b k) t d k 4 s (arith t (fun _ x y _ => mulFp x y) (fun x y _ => x * y) d a b)
def execVfma (t : ElemTy) (d a b : VReg) (k : Bool) (s : State) := vrOp (.vfma t d a b k) t d k 4 s (arith t (fun m x y z => addFp m (mulFp x y) z) (fun x y z => x * y + z) d a b)
def execVfms (t : ElemTy) (d a b : VReg) (k : Bool) (s : State) := vrOp (.vfms t d a b k) t d k 4 s (arith t (fun m x y z => addFp m (mulFp x y) (negFp z)) (fun x y z => x * y - z) d a b)

/-- Minimum and maximum of two elements (R177). -/
def elemMin (t : ElemTy) (x y : Nat) : Nat := if t.isF then fpMin t.fmt x y else if t.int y < t.int x then y else x
def elemMax (t : ElemTy) (x y : Nat) : Nat := if t.isF then fpMax t.fmt x y else if t.int x < t.int y then y else x

def execVmin (t : ElemTy) (d a b : VReg) (k : Bool) (s : State) := vrOp (.vmin t d a b k) t d k 2 s (fun s i => (elemMin t (elem t.width (readV s a) i) (elem t.width (readV s b) i), false))
def execVmax (t : ElemTy) (d a b : VReg) (k : Bool) (s : State) := vrOp (.vmax t d a b k) t d k 2 s (fun s i => (elemMax t (elem t.width (readV s a) i) (elem t.width (readV s b) i), false))

/-- `VABS` and `VNEG` on F types only touch the sign bit (R177). -/
def execVabs (t : ElemTy) (d a : VReg) (k : Bool) (s : State) := vrOp (.vabs t d a k) t d k 2 s (fun s i =>
  let x := elem t.width (readV s a) i
  if t.isF then (x % 2 ^ (t.width - 1), false) else intResult t (visat s) (t.int x).natAbs)
def execVneg (t : ElemTy) (d a : VReg) (k : Bool) (s : State) := vrOp (.vneg t d a k) t d k 2 s (fun s i =>
  let x := elem t.width (readV s a) i
  if t.isF then (x ^^^ 2 ^ (t.width - 1), false) else intResult t (visat s) (-(t.int x)))

def bitwise (t : ElemTy) (f : Nat → Nat → Nat) (a b : VReg) (s : State) (i : Nat) : Nat × Bool :=
  (f (elem t.width (readV s a) i) (elem t.width (readV s b) i), false)
def execVand (t : ElemTy) (d a b : VReg) (k : Bool) (s : State) := vrOp (.vand t d a b k) t d k 2 s (bitwise t (· &&& ·) a b)
def execVor (t : ElemTy) (d a b : VReg) (k : Bool) (s : State) := vrOp (.vor t d a b k) t d k 2 s (bitwise t (· ||| ·) a b)
def execVxor (t : ElemTy) (d a b : VReg) (k : Bool) (s : State) := vrOp (.vxor t d a b k) t d k 2 s (bitwise t (· ^^^ ·) a b)

/-- Shifts by the unsigned element of vb (R178). -/
def shiftLeft (w x n : Nat) : Nat := if w ≤ n then 0 else (x <<< n) % 2 ^ w
def shiftRight (t : ElemTy) (x n : Nat) : Nat :=
  if t.isSigned then wrapTo t.width (t.int x / (2 ^ (min n t.width) : Nat)) else if t.width ≤ n then 0 else x >>> n
def execVshl (t : ElemTy) (d a b : VReg) (k : Bool) (s : State) := vrOp (.vshl t d a b k) t d k 2 s (bitwise t (shiftLeft t.width) a b)
def execVshr (t : ElemTy) (d a b : VReg) (k : Bool) (s : State) := vrOp (.vshr t d a b k) t d k 2 s (bitwise t (shiftRight t) a b)

def execVsel (t : ElemTy) (d a b : VReg) (s : State) := vrOp (.vsel t d a b) t d false 2 s (fun s i =>
  (elem t.width (readV s (if maskBit s i then a else b)) i, false))

/-! ### Conversions (R180) -/

/-- One element converted, with whether it saturated. -/
def convert (t e : ElemTy) (m : RoundMode) (x : Nat) : Nat × Bool :=
  if t.isFloat then
    if e.isFloat then encodeFp t.fmt m (decodeFp e.fmt x) else encodeFp t.fmt m (intToFp (e.int x))
  else
    if e.isFloat then let r := fpToInt m t.lo t.hi (decodeFp e.fmt x); (wrapTo t.width r.1, r.2)
    else clampTo t (e.int x)

/-- Results of type t spread over registers from d, element i in register d + i mod r (R170, R171): each is
computed by `f`. -/
def wideResult (s : State) (t : ElemTy) (d : VReg) (r : Nat) (k : Bool) (lat : Nat) (f : Nat → Nat × Bool) : State :=
  (List.range r).foldl (fun acc j =>
    let dj : VReg := ⟨(d.val + j) % 32, Nat.mod_lt _ (by decide)⟩
    let l := (List.range t.count).map (fun p => if !k || maskBit s (p * r + j) then f (p * r + j) else (elem t.width (readV s dj) p, false))
    exposeVec acc lat (.v dj) (packElems t.width (l.map (·.1))) ((l.map (fun x => b2n x.2)).foldl (· + ·) 0) .clean) s

/-- Element i of a source spread over r registers from a (R171). -/
def spreadElem (s : State) (w : Nat) (a : VReg) (r i : Nat) : Nat :=
  elem w (readV s ⟨(a.val + i % r) % 32, Nat.mod_lt _ (by decide)⟩) (i / r)

def execVcvt (t : ElemTy) (d a : VReg) (e : ElemTy) (k : Bool) (s : State) := vsyl (.vcvt t d a e k) s (fun s =>
  let r := max 1 (t.width / e.width)
  let q := max 1 (e.width / t.width)
  .done (wideResult s t d r k 2 (fun i => convert t e (vround s) (spreadElem s e.width a q i))))

/-! ### Comparisons (R179) -/

/-- A comparison of two elements by the kind of the type: F, and integers. -/
def compareElem (t : ElemTy) (nan : Bool) (f : Int → Int → Bool) (x y : Nat) : Bool :=
  if t.isF then (if isNanCode t.fmt x || isNanCode t.fmt y then nan else f (valueKey t.fmt x) (valueKey t.fmt y))
  else f (t.int x) (t.int y)

def vcmpOp (i : Instr) (t : ElemTy) (d : MReg) (a b : VReg) (k nan : Bool) (f : Int → Int → Bool) (s : State) : Host.Outcome State Fault Refusal :=
  vsyl i s (fun s =>
    let r := packElems 1 ((List.range t.count).map (fun j =>
      b2n (if !k || maskBit s j then compareElem t nan f (elem t.width (readV s a) j) (elem t.width (readV s b) j) else (s.core.m[d]).getLsbD j)))
    .done (exposeVec s 2 (.m d) r 0 .clean))

def execVcmpEq (t : ElemTy) (d : MReg) (a b : VReg) (k : Bool) (s : State) := vcmpOp (.vcmpEq t d a b k) t d a b k false (fun x y => decide (x = y)) s
def execVcmpNe (t : ElemTy) (d : MReg) (a b : VReg) (k : Bool) (s : State) := vcmpOp (.vcmpNe t d a b k) t d a b k true (fun x y => decide (x ≠ y)) s
def execVcmpLt (t : ElemTy) (d : MReg) (a b : VReg) (k : Bool) (s : State) := vcmpOp (.vcmpLt t d a b k) t d a b k false (fun x y => decide (x < y)) s
def execVcmpLe (t : ElemTy) (d : MReg) (a b : VReg) (k : Bool) (s : State) := vcmpOp (.vcmpLe t d a b k) t d a b k false (fun x y => decide (x ≤ y)) s
def execVcmpGt (t : ElemTy) (d : MReg) (a b : VReg) (k : Bool) (s : State) := vcmpOp (.vcmpGt t d a b k) t d a b k false (fun x y => decide (y < x)) s
def execVcmpGe (t : ElemTy) (d : MReg) (a b : VReg) (k : Bool) (s : State) := vcmpOp (.vcmpGe t d a b k) t d a b k false (fun x y => decide (y ≤ x)) s

/-! ### Widening (R181) -/

end Sys2Proof.Machine
namespace Sys2Proof
open Sys2Proof.Machine
/-- The type of a widening result. -/
def ElemTy.wide (t : ElemTy) : ElemTy := if t.isF then .f32 else if t.isSigned then .i32 else .w32
end Sys2Proof
namespace Sys2Proof.Machine
open Sys2Proof

def widen (i : Instr) (t : ElemTy) (d a b : VReg) (k : Bool) (fp : RoundMode → Fp → Fp → Fp → Fp) (int : Int → Int → Int → Int) (s : State) :
    Host.Outcome State Fault Refusal :=
  vsyl i s (fun s =>
    let r := t.wideRatio
    let w := t.wide
    .done (wideResult s w d r k 4 (fun j =>
      let x := elem t.width (readV s a) j
      let y := elem t.width (readV s b) j
      let z := spreadElem s 32 d r j
      if t.isF then fpResult w (vround s) (fp (vround s) (decodeFp t.fmt x) (decodeFp t.fmt y) (dF32 z))
      else intResult w (visat s) (int (t.int x) (t.int y) (w.int z)))))

def execVwadd (t : ElemTy) (d a b : VReg) (k : Bool) (s : State) := widen (.vwadd t d a b k) t d a b k (fun m x y _ => addFp m x y) (fun x y _ => x + y) s
def execVwmul (t : ElemTy) (d a b : VReg) (k : Bool) (s : State) := widen (.vwmul t d a b k) t d a b k (fun _ x y _ => mulFp x y) (fun x y _ => x * y) s
def execVwfma (t : ElemTy) (d a b : VReg) (k : Bool) (s : State) := widen (.vwfma t d a b k) t d a b k (fun m x y z => addFp m (mulFp x y) z) (fun x y z => x * y + z) s

/-! ### Reciprocals, powers, logarithms (R182) -/

def execVrcp (t : ElemTy) (d a : VReg) (k : Bool) (s : State) := vrOp (.vrcp t d a k) t d k 8 s (fun s i => (rcpFp t.fmt (vround s) (decodeFp t.fmt (elem t.width (readV s a) i)), false))
def execVrsqrt (t : ElemTy) (d a : VReg) (k : Bool) (s : State) := vrOp (.vrsqrt t d a k) t d k 8 s (fun s i => (rsqrtFp t.fmt (vround s) (decodeFp t.fmt (elem t.width (readV s a) i)), false))
def execVlog2 (t : ElemTy) (d a : VReg) (k : Bool) (s : State) := vrOp (.vlog2 t d a k) t d k 8 s (fun s i => (log2Fp t.fmt (vround s) (decodeFp t.fmt (elem t.width (readV s a) i)), false))
/-- R88's FP32 result, rounded once more for BF16. -/
def exp2Elem (t : ElemTy) (m : RoundMode) (x : Nat) : Nat :=
  if t == .bf16 then (encodeFp fmtBf16 m (dF32 (exp2F32 (bf16ToF32 x)))).1 else exp2F32 x
def execVexp2 (t : ElemTy) (d a : VReg) (k : Bool) (s : State) := vrOp (.vexp2 t d a k) t d k 8 s (fun s i => (exp2Elem t (vround s) (elem t.width (readV s a) i), false))

/-! ### Reductions (R84, R183) -/

/-- Neighbours combined in pairs. -/
def pairUp (f : Nat → Nat → Nat) : List Nat → List Nat
  | a :: b :: r => f a b :: pairUp f r
  | l => l
/-- The fixed binary tree of R84, over at most 2^k lanes. -/
def treeReduce (f : Nat → Nat → Nat) : (k : Nat) → List Nat → Nat
  | 0, l => l.headD 0
  | k + 1, l => treeReduce f k (pairUp f l)

/-- The sum of two elements in a reduction: F rounds once, I wraps. -/
def elemAdd (t : ElemTy) (m : RoundMode) (x y : Nat) : Nat :=
  if t.isF then (fpResult t m (addFp m (decodeFp t.fmt x) (decodeFp t.fmt y))).1 else (x + y) % 2 ^ t.width
/-- The identities of a masked sum and of a masked maximum (R183). -/
def sumIdentity (t : ElemTy) : Nat := if t.isF then 2 ^ (t.width - 1) else 0
def maxIdentity (t : ElemTy) : Nat :=
  if t.isF then signBit t.fmt true + t.fmt.infCode.getD 0 else wrapTo t.width t.lo
/-- The inputs of a reduction, masked ones replaced by the identity. -/
def reduceInputs (s : State) (t : ElemTy) (a : VReg) (k : Bool) (e : Nat) : List Nat :=
  (List.range t.count).map (fun i => if !k || maskBit s i then elem t.width (readV s a) i else e)

def reduceOp (i : Instr) (d : VReg) (s : State) (f : State → Nat) : Host.Outcome State Fault Refusal :=
  vsyl i s (fun s => .done (exposeVec s 6 (.v d) (f s) 0 .clean))

def execVredsum (t : ElemTy) (d a : VReg) (k : Bool) (s : State) := reduceOp (.vredsum t d a k) d s (fun s =>
  treeReduce (elemAdd t (vround s)) 10 (reduceInputs s t a k (sumIdentity t)))
def execVredmax (t : ElemTy) (d a : VReg) (k : Bool) (s : State) := reduceOp (.vredmax t d a k) d s (fun s =>
  treeReduce (elemMax t) 10 (reduceInputs s t a k (maxIdentity t)))
/-- Inclusive sequential sums (R84). Lane 0 takes no part in an addition: it is its input as it is, the payload of a NaN
included (DESIGN CHOICE, log entry 104). -/
def scanList (f : Nat → Nat → Nat) : Option Nat → List Nat → List Nat
  | _, [] => []
  | none, x :: r => x :: scanList f (some x) r
  | some p, x :: r => f p x :: scanList f (some (f p x)) r
def execVscan (t : ElemTy) (d a : VReg) (k : Bool) (s : State) := reduceOp (.vscan t d a k) d s (fun s =>
  packElems t.width (scanList (elemAdd t (vround s)) none (reduceInputs s t a k (sumIdentity t))))

/-! ### Moves (R184 to R186) -/

def execVbcast (t : ElemTy) (d : VReg) (a : XReg) (k : Bool) (s : State) := vrOp (.vbcast t d a k) t d k 2 s (fun s _ => (readNat s a % 2 ^ t.width, false))

def execVins (t : ElemTy) (d : VReg) (a b : XReg) (s : State) := vrOp (.vins t d a b) t d false 2 s (fun s i =>
  (if i == readNat s b % t.count then readNat s a % 2 ^ t.width else elem t.width (readV s d) i, false))

/-- A scalar result of the vector unit (R168, R184). -/
def vecToX (s : State) (d : XReg) (v : Word) : Eff :=
  guardPush s d (
    match reservedHere s.core d with
    | some e => .done (fillEntry (takeReserved s e) e.queue e.entry v .clean)
    | none => if (boundPort s.core d).isSome then .done s else .done (exposeVec s 6 (.x d) v.toNat 0 .clean))

def execVmovx (t : ElemTy) (d : XReg) (a : VReg) (b : XReg) (s : State) := vsyl (.vmovx t d a b) s (fun s =>
  let x := elem t.width (readV s a) (readNat s b % t.count)
  vecToX s d (if t.isSigned then BitVec.ofInt 64 (t.int x) else BitVec.ofNat 64 x))

def execVrot (t : ElemTy) (d a : VReg) (b : XReg) (k : Bool) (s : State) := vrOp (.vrot t d a b k) t d k 2 s (fun s i =>
  (elem t.width (readV s a) ((i + readNat s b) % t.count), false))

def maskOp (i : Instr) (d : MReg) (s : State) (f : State → MWord) : Host.Outcome State Fault Refusal :=
  vsyl i s (fun s => .done (exposeVec s 2 (.m d) (f s).toNat 0 .clean))
def execMand (d a b : MReg) (s : State) := maskOp (.mand d a b) d s (fun s => s.core.m[a] &&& s.core.m[b])
def execMor (d a b : MReg) (s : State) := maskOp (.mor d a b) d s (fun s => s.core.m[a] ||| s.core.m[b])
def execMnot (d a : MReg) (s : State) := maskOp (.mnot d a) d s (fun s => ~~~(s.core.m[a]))
def execMpop (t : ElemTy) (d : XReg) (a : MReg) (s : State) := vsyl (.mpop t d a) s (fun s =>
  vecToX s d (BitVec.ofNat 64 (popCount t.count (s.core.m[a]).toNat)))

/-! ### Permutes and VX results (R173, R195) -/

/-- A VX command with vector results that takes `n` clocks from its turn (R195); it occupies an entry of the command
queue (R167). -/
def vxResults (s : State) (n : Nat) (l : List (Dest × Nat)) (sat absent : Nat) : State :=
  let r := (l.zipIdx).foldl (fun (acc : State × List Nat) p =>
    let q := pendVec acc.1 p.1.1 (some p.1.2) .clean none (if p.2 == 0 then sat else 0) (if p.2 == 0 then absent else 0)
    (q.1, acc.2 ++ [q.2])) (s, [])
  vxIssue (occupy r.1 (r.2.getLastD 0) none) { ids := r.2, clocks := n }

/-- A request for one full grant, whose result appears 6 clocks after it (R173). -/
def fullGrant (id : Nat) : QsReq := { id := id, kind := .permute, parts := [(BitVec.allOnes 32, .pass)], after := 6 }

def execVperm (t : ElemTy) (d a b : VReg) (k : Bool) (s : State) := vsyl (.vperm t d a b k) s (fun s =>
  let r := maskedLanes s k t.width t.count (readV s d) (fun i => (elem t.width (readV s a) (elem t.width (readV s b) i % t.count), false))
  let q := pendVec s (.v d) (some r.1) .clean none 0 0
  .done (askQs q.1 { fullGrant q.2 with start := some s.clock }))

/-! ### VX syllables -/

/-- The result of `VSHUF` (R188), or none for an operand word that breaks it. -/
def shuffle (pat p n w a b : Nat) : Option Nat :=
  let x (i : Nat) : Nat := elem w a i
  let y (i : Nat) : Nat := elem w b i
  let ab (i : Nat) : Nat := if i < n then x i else y (i - n)
  let out (f : Nat → Nat) : Option Nat := some (packElems w ((List.range n).map f))
  if pat == 5 then
    (if [2, 4, 8, 16, 32, 64, 128, 256].contains p && decide (p ≤ n / 2) then out (fun k => x (k % p * (n / p) + k / p)) else none)
  else if pat == 6 then (if p ≤ n then out (fun i => ab (i + p)) else none)
  else if p != 0 then none
  else if pat == 0 then out (fun k => if k % 2 == 0 then x (k / 2) else y (k / 2))
  else if pat == 1 then out (fun k => if k % 2 == 0 then x (n / 2 + k / 2) else y (n / 2 + k / 2))
  else if pat == 2 then out (fun i => ab (2 * i))
  else if pat == 3 then out (fun i => ab (2 * i + 1))
  else if pat == 4 then out (fun i => x (n - 1 - i))
  else none

def execVshuf (x : XReg) (d : VReg) (s : State) := vsyl (.vshuf x d) s (fun s =>
  let w := readX s x
  let v := w.toNat
  let bytes := if bits v 11 10 == 3 then 16 else 2 ^ bits v 11 10
  match (if bits v 63 32 != 0 then none else shuffle (bits v 15 12) (bits v 31 16) (512 / bytes) (8 * bytes) (readV s (vreg (bits v 4 0))) (readV s (vreg (bits v 9 5)))) with
  | none => badOperand s w
  | some r =>
    let q := pendVec s (.v d) (some r) .clean none 0 0
    .done (vxIssue (askHeld q.1 { fullGrant q.2 with vx := true }) { ids := [], request := some q.2 }))

/-- The codes of a linear block under a format (R67, R72, R68, R75), and the saturations (R189). -/
def quantise (df : Nat) (m : RoundMode) (sc : Nat) (xs : List Nat) : List Nat × Nat :=
  if df == 12 then s4oBlock m sc xs
  else
    let cs := xs.map (fun x => encodeNarrow df m (f32Div x sc))
    (cs.map (·.1), (cs.map (·.2)).foldl (· + ·) 0)

/-- The largest magnitude of R77 and the largest finite magnitude of R189, as FP32 codes. -/
def maxMag (xs : List Nat) : Nat := (xs.filter (fun x => !isNan32 x)).foldl (fun a x => max a (x % 2 ^ 31)) 0
def maxFinite (xs : List Nat) : Nat := (xs.filter finite32).foldl (fun a x => max a (x % 2 ^ 31)) 0

/-- QMAX of a format (R189). -/
def qmax (df : Nat) : Nat := if df == 2 then 448 else if df == 3 then 57344 else if df == 6 then 127 else 7

/-- The 32 bytes of a trailer (R77). -/
def trailer (df sc n sat mag : Nat) (data : List Byte) : Nat :=
  mag + sat * 2 ^ 32 + n * 2 ^ 64 + sc * 2 ^ 96 + crc32c data * 2 ^ 128 + df * 2 ^ 160

/-- The data part and the trailer of a quantised block (R189): as register values, with the saturations. -/
def quantBlock (df : Nat) (m : RoundMode) (auto : Bool) (given : Nat) (xs : List Nat) : Nat × Nat × Nat :=
  let n := xs.length
  let f := maxFinite xs
  let sc0 := f32Div f (natF32 (qmax df))
  let sc := if auto then (if f == 0 || isZeroCode fmtF32 sc0 then f32One else sc0) else given
  let q := quantise df m sc xs
  let data := packElems (fmtWidth df) q.1
  let len := ceil32 ((n * fmtWidth df + 7) / 8)
  (data, trailer df sc n q.2 (maxMag xs) (leBytes len data), q.2)

def execVqcvt (x y : XReg) (d : Fin 16) (s : State) := vsyl (.vqcvt x y d) s (fun s =>
  let w := readX s x
  let v := w.toNat
  let st := bits v 11 8
  let df := bits v 15 12
  let n := bits v 47 32
  let sw := if st == 0 then 32 else 16
  let regs0 := (n * sw + 4095) / 4096
  let regs := if regs0 ≤ 1 then 1 else if regs0 == 2 then 2 else 4
  let limit := min (4 * 4096 / sw) (4096 / fmtWidth df)
  let va := bits v 4 0
  if bits v 63 48 != 0 || bits v 31 17 != 0 || bits v 7 5 != 0 || decide (1 < st) || !([2, 3, 6, 7, 12] : List Nat).contains df || n == 0 ||
      decide (limit < n) || va % regs != 0 then badOperand s w
  else
    let k := readX s y
    let sc := bits k.toNat 31 0
    if !bit v 16 && (bits k.toNat 63 32 != 0 || !finite32 sc || decide (valueKey fmtF32 sc ≤ 0)) then badOperand s k
    else
      let xs := (List.range n).map (fun j =>
        let c := elem sw (readV s (vreg (va + j / (4096 / sw)))) (j % (4096 / sw))
        if st == 0 then c else bf16ToF32 c)
      let r := quantBlock df (vround s) (bit v 16) sc xs
      let dr := pairReg d
      .done (vxResults s (12 + 4 * (regs - 1)) [(.v dr, r.1), (.v (vreg (dr.val + 1)), r.2.1)] r.2.2 0))

/-- The value of code j of a quantised block (R74, R190). -/
def blockValue (fmt data j : Nat) : Fp :=
  if fmt == 2 then decodeFp fmtE4m3 (elem 8 data j)
  else if fmt == 3 then decodeFp fmtE5m2 (elem 8 data j)
  else if fmt == 6 then intToFp (sext (elem 8 data j) 8)
  else if fmt == 7 then intToFp (sext (elem 4 data j) 4)
  else intToFp (s4oAt data j)

/-- The absent pairs among the first n elements of an S4O block (R190). -/
def absentPairs (data n : Nat) : Nat :=
  ((List.range ((n + 1) / 2)).filter (fun k => elem 4 data (2 * k) == 8 && elem 4 data (2 * k + 1) == 8)).length

def execVdqcvt (x : XReg) (d : VReg) (s : State) := vsyl (.vdqcvt x d) s (fun s =>
  let w := readX s x
  let v := w.toNat
  let va := bits v 4 0
  let st := bits v 11 8
  let span := 2 ^ bits v 13 12
  if bits v 63 14 != 0 || bits v 7 5 != 0 || va % 2 != 0 || decide (1 < st) || bits v 13 12 == 3 || d.val % span != 0 then badOperand s w
  else
    let t := readV s (vreg (va + 1)) % 2 ^ 256
    let fmt := bits t 163 160
    let cnt := bits t 95 64
    let sat := bits t 63 32
    let dw := if st == 0 then 32 else 16
    let per := 4096 / dw
    if !blockFormat fmt || bits t 255 164 != 0 || decide (cnt < sat) || decide (512 < dataLen cnt fmt) || decide (span * per < cnt) then
      .trap s .trailerCheck s.core.idx (BitVec.ofNat 64 (va + 1))
    else
      let data := readV s (vreg va)
      let f := if st == 0 then fmtF32 else fmtBf16
      let sc := dF32 (bits t 127 96)
      let regs := (List.range span).map (fun r => (Dest.v (vreg (d.val + r)), packElems dw ((List.range per).map (fun p =>
        let j := r * per + p
        if j < cnt && !(fmt == 12 && s4oPlus data j) then (encodeFp f (vround s) (mulFp (blockValue fmt data j) sc)).1 else 0))))
      .done (vxResults s (8 + 4 * (span - 1)) regs 0 (if fmt == 12 then absentPairs data cnt else 0)))

def execVsetcfg (x y : XReg) (s : State) := vsyl (.vsetcfg x y) s (fun s =>
  let set := readX s x &&& readX s y
  if set &&& ~~~0x103 != 0 then badOperand s set
  else .done (onVu s (fun u => { u with vcfg := (u.vcfg &&& ~~~(readX s y)) ||| set })))

/-- The grant that takes a bank unit: its rank among the distinct bank units of its bank (R192). -/
def unitRank (units : List Nat) (u : Nat) : Nat := ((units.takeWhile (fun w => w != u)).filter (fun w => w % 32 == u % 32)).length

/-- The grants of a gather or scatter whose units lie at the given OC addresses, in ascending unit (R192): units that share a
bank unit share a grant, and there are as many grants as the most distinct bank units in one bank. `f` says what a grant
does for its units. -/
def gatherParts (us : List (Nat × Nat)) (f : List (Nat × Nat) → QsDo) : List (BitVec 32 × QsDo) :=
  let units := (us.map (fun u => u.2 / 16)).eraseDups
  let grants := (units.map (fun u => unitRank units u + 1)).foldl max 0
  (List.range grants).map (fun k =>
    let mine := us.filter (fun u => unitRank units (u.2 / 16) == k)
    (mine.foldl (fun m u => m ||| (1#32 <<< (u.2 / 16 % 32))) 0, f mine))

/-- The core is held for the 2 stall clocks of a gather's check (R192). -/
def checkClocks (s : State) : State := onCore s (fun c => { c with held := c.held + 2 })

/-- The checks of R192 in ascending unit, then the alignment of the base; `k` gets each unit's OC address. -/
def gatherCheck (s : State) (b : Word) (size : Nat) (wr : Bool) (us : List (Nat × Nat)) (k : State → List (Nat × Nat) → Eff) : Eff :=
  let r := us.foldl (fun (acc : Acc Unit) u => acc.bind (fun s _ =>
    (localCheck s qsBase 0x400000 (u.2 : Int) size wr).bind (fun s _ => .ok s ()))) (.ok s ())
  match r with
  | .fault s c x ad => .trap (checkClocks s) c (memDetail x 1) (BitVec.ofNat 64 ad)
  | .wait s => .wait s
  | .ok s _ =>
    if b.toNat % size != 0 then .trap (checkClocks s) .align (memDetail 2 1) b
    else k (checkClocks s) (us.map (fun u => (u.1, qsBase + u.2)))

/-- The operand word of a gather or scatter (R192). -/
def gatherBad (v : Nat) : Bool := bits v 63 10 != 0 || bits v 7 5 != 0

/-- A gather or scatter takes the crossbar in its turn (R195), after the 2 stall clocks of its check; one that accesses no
unit has no last grant and finishes `clocks` after its turn comes (DESIGN CHOICE, log entry 120). -/
def gatherIssue (s : State) (id : Nat) (q : QsReq) (clocks : Nat) : State :=
  let q := { q with id := id, kind := .gather, vx := true, after := clocks, notBefore := s.clock + 3 }
  if q.parts.isEmpty then vxIssue (occupy s id none) { ids := [id], clocks := clocks }
  else vxIssue (askHeld s q) { ids := [], request := some id }

def execVgatherq (x y : XReg) (d : VReg) (s : State) := vsyl (.vgatherq x y d) s (fun s =>
  let b := readX s x
  let w := readX s y
  let size := if bit w.toNat 8 then 16 else 4
  if gatherBad w.toNat then badOperand s w
  else
    let us := gatherUnits s b.toNat w.toNat
    gatherCheck s b size false us (fun s l =>
      let parts := gatherParts l (fun us => .read (us.map (fun u => (size * u.1, u.2, size))))
      let q := pendVec s (.v d) (if parts.isEmpty then some (readV s d) else none) .clean none 0 0
      .done (gatherIssue q.1 q.2 { id := q.2, parts := parts, got := readV s d, addr := b } 8)))

def execVscatq (x y : XReg) (d : VReg) (s : State) := vsyl (.vscatq x y d) s (fun s =>
  let b := readX s x
  let w := readX s y
  let size := if bit w.toNat 8 then 16 else 4
  if gatherBad w.toNat then badOperand s w
  else
    let us := gatherUnits s b.toNat w.toNat
    gatherCheck s b size true us (fun s l =>
      let v := readV s d
      let parts := gatherParts l (fun us => .write (us.map (fun u => (u.2, leBytes size (v >>> (8 * size * u.1))))) (s.core.vmark[d] != .clean))
      let q := freshId s
      .done (gatherIssue q.1 q.2 { id := q.2, parts := parts } 0)))

/-- `VFENCE` (R168, R193): after its drain clocks the unit's scoreboarded work has to end. -/
def vecIdle (s : State) : Bool := !s.core.board.any (·.vec) && s.core.vu.queue.isEmpty
def execVfence (s : State) := vsyl .vfence s (fun s => if vecIdle s then .done s else waitFor s 0)

def execVmskld (x y : XReg) (d : MReg) (s : State) := vsyl (.vmskld x y d) s (fun s =>
  let lo := readNat s x
  let hi := readNat s y
  .done (vxResults s 2 [(.m d, packElems 1 ((List.range 1024).map (fun i => b2n (decide (lo ≤ i) && decide (i < hi)))))] 0 0))

/-! ### VM syllables (R141 to R143) -/

/-- A vector load from LS is exposed; one from elsewhere is scoreboarded and holds an entry (R141, R167). -/
def vecLoaded (s : State) (d : VReg) (v : Nat) (k : Mark) (exposed : Bool) (clocks : Nat) : State :=
  if exposed then exposeVec s clocks (.v d) v 0 k
  else
    let q := pendVec s (.v d) (some v) k (some (s.clock + clocks)) 0 0
    occupy q.1 q.2 none

/-- A vector load from QS is performed at its one grant and lands 8 clocks after it (R122, R141, R142): `us` says which
bytes of the register come from where. -/
def qsLoad (s : State) (d : VReg) (us : List (Nat × Nat × Nat)) (addr : Word) : State :=
  let q := pendVec s (.v d) none .clean none 0 0
  askHeld q.1 { id := q.2, parts := [(BitVec.allOnes 32, .read us)], addr := addr, after := 8, start := some s.clock }

/-- A vector store to QS is performed at its one grant, with the bytes the register held at issue (R122, R141, R142). -/
def qsStore (s : State) (us : List (Nat × List Byte)) (poison : Bool) : State :=
  let q := freshId s
  askHeld q.1 { id := q.2, parts := [(BitVec.allOnes 32, .write us poison)], start := some s.clock }

def vmLoad (i : Instr) (space : Nat) (d : VReg) (b : XReg) (o : BitVec 11) (s : State) : Host.Outcome State Fault Refusal :=
  vsyl i s (fun s => memAccess s space (meAddr s space b 11 o.toNat 512) 512 32 { rd := true } (fun s p a =>
    match p, space == 1 with
    | .oc oc, true => .done (qsLoad s d [(0, oc, 512)] (toWord a))
    | _, _ =>
      let r := placeRead s p 512 false (coreViewer s)
      .done (vecLoaded r.1 d (leNat r.2.1) (loadMark r.2.2 a) (space == 0) (if space == 0 then 4 else loadClocks space))))

/-- A vector store that is performed at issue holds its entry for that clock, unless it goes to LS (R167). -/
def vmStored (s : State) (space : Nat) : State := if space == 0 then s else occupy s 0 (some (s.clock + 1))

def vmStore (i : Instr) (space : Nat) (d : VReg) (b : XReg) (o : BitVec 11) (s : State) : Host.Outcome State Fault Refusal :=
  vsyl i s (fun s => memAccess s space (meAddr s space b 11 o.toNat 512) 512 32 { wr := true } (fun s p _ =>
    let po := s.core.vmark[d] != .clean
    match p, space == 1 with
    | .oc oc, true => .done (qsStore s [(oc, leBytes 512 (readV s d))] po)
    | _, _ => .done (vmStored (placeWrite s p (leBytes 512 (readV s d)) po false (coreViewer s)) space)))

def execVldl (v : VReg) (b : XReg) (o : BitVec 11) (s : State) := vmLoad (.vldl v b o) 0 v b o s
def execVldq (v : VReg) (b : XReg) (o : BitVec 11) (s : State) := vmLoad (.vldq v b o) 1 v b o s
def execVldo (v : VReg) (b : XReg) (o : BitVec 11) (s : State) := vmLoad (.vldo v b o) 2 v b o s
def execVldg (v : VReg) (b : XReg) (o : BitVec 11) (s : State) := vmLoad (.vldg v b o) 3 v b o s
def execVldf (v : VReg) (b : XReg) (o : BitVec 11) (s : State) := vmLoad (.vldf v b o) 4 v b o s
def execVldh (v : VReg) (b : XReg) (o : BitVec 11) (s : State) := vmLoad (.vldh v b o) 5 v b o s
def execVstl (v : VReg) (b : XReg) (o : BitVec 11) (s : State) := vmStore (.vstl v b o) 0 v b o s
def execVstq (v : VReg) (b : XReg) (o : BitVec 11) (s : State) := vmStore (.vstq v b o) 1 v b o s
def execVsto (v : VReg) (b : XReg) (o : BitVec 11) (s : State) := vmStore (.vsto v b o) 2 v b o s
def execVstg (v : VReg) (b : XReg) (o : BitVec 11) (s : State) := vmStore (.vstg v b o) 3 v b o s
def execVstf (v : VReg) (b : XReg) (o : BitVec 11) (s : State) := vmStore (.vstf v b o) 4 v b o s
def execVsth (v : VReg) (b : XReg) (o : BitVec 11) (s : State) := vmStore (.vsth v b o) 5 v b o s

/-- Check the units of a tile access in order (R120, R121, R142); `k` gets their OC addresses. R142 gives the access no one
effective address: `TRAPVAL` of a unit that fails holds that unit's address (DESIGN CHOICE, log entry 104). -/
def tileAccess (i : Instr) (b : XReg) (o : BitVec 11) (col wr : Bool) (s : State) (k : State → List Nat → Eff) : Host.Outcome State Fault Refusal :=
  vsyl i s (fun s =>
    let d := readX s b
    match tileUnits d.toNat (sext o.toNat 11) col with
    | none => .trap s .align (memDetail 3 1) d
    | some l =>
      match l.foldl (fun (acc : Acc Unit) (a : Nat) => acc.bind (fun s _ => (localCheck s qsBase 0x400000 (a : Int) 16 wr).bind (fun s _ => .ok s ()))) (.ok s ()) with
      | .fault s c x ad => .trap s c (memDetail x 1) (BitVec.ofNat 64 ad)
      | .wait s => .wait s
      | .ok s _ => k s (l.map (qsBase + ·)))

/-- The load of a row or a column. R127 has a marked register report the load's address, of which a tile access has 32: the
mark reports the tile descriptor (DESIGN CHOICE, log entry 104). -/
def tileLoad (i : Instr) (d : VReg) (b : XReg) (o : BitVec 11) (col : Bool) (s : State) : Host.Outcome State Fault Refusal :=
  tileAccess i b o col false s (fun s l => .done (qsLoad s d ((l.zipIdx).map (fun p => (16 * p.2, p.1, 16))) (readX s b)))

def tileStore (i : Instr) (d : VReg) (b : XReg) (o : BitVec 11) (col : Bool) (s : State) : Host.Outcome State Fault Refusal :=
  tileAccess i b o col true s (fun s l =>
    .done (qsStore s ((l.zipIdx).map (fun p => (p.1, leBytes 16 (readV s d >>> (128 * p.2))))) (s.core.vmark[d] != .clean)))

def execVldqRow (v : VReg) (b : XReg) (o : BitVec 11) (s : State) := tileLoad (.vldqRow v b o) v b o false s
def execVstqRow (v : VReg) (b : XReg) (o : BitVec 11) (s : State) := tileStore (.vstqRow v b o) v b o false s
def execVldqCol (v : VReg) (b : XReg) (o : BitVec 11) (s : State) := tileLoad (.vldqCol v b o) v b o true s
def execVstqCol (v : VReg) (b : XReg) (o : BitVec 11) (s : State) := tileStore (.vstqCol v b o) v b o true s

/-- The checks of R78 over a data part of `len` bytes: `expect` is the format the load expects. -/
def trailerBad (t expect : Nat) (data : List Byte) : Bool :=
  let fmt := bits t 163 160
  let cnt := bits t 95 64
  let d := leNat data
  crc32c data != bits t 159 128 || fmt != expect || bits t 255 164 != 0 || decide (cnt < bits t 63 32) ||
  (fmt == 12 && cnt % 2 == 1 && elem 4 d cnt != 0 && !(elem 4 d (cnt - 1) == 8 && elem 4 d cnt != 8))

/-- The byte ranges of a `.chk` load with its trailer at `a` (R143): the trailer, and before it the data part that the
trailer describes. A `FORMAT` that is none of the five gives the data part the width of the format that the load expects
(DESIGN CHOICE, log entry 105). The checks of R136 of both come before that of the trailer. -/
def chkRanges (s : State) (space : Nat) (a : Except Word Int) (f : ElemTy) (k : State → Place → Int → Nat → Option (Place × Nat) → Eff) : Eff :=
  memAccess s space a 32 32 { rd := true } (fun s p a =>
    let q := placeRead s p 32 false (coreViewer s)
    let t := leNat q.2.1
    let fmt := bits t 163 160
    let len := dataLen (bits t 95 64) (if blockFormat fmt then fmt else f.code)
    if len == 0 then k s p a 0 none
    else
      let da : Except Word Int := if space == 4 && decide (a % 65536 < len) then .error (toWord (a / 65536 * 65536 + (a - len) % 65536)) else .ok (a - len)
      memAccess s space da len 32 { rd := true } (fun s d _ => k s p a len (some (d, len))))

/-- Read the bytes of a `.chk` load and make its check (R78, R143): a failing load leaves the pair unchanged; `k` gets the
data part and the trailer with their marks. -/
def chkBytes (s : State) (p : Place) (a : Int) (len : Nat) (d : Option (Place × Nat)) (f : ElemTy)
    (k : State → (Nat × Mark) → (Nat × Mark) → Eff) : Eff :=
  let q := placeRead s p 32 false (coreViewer s)
  let t := leNat q.2.1
  let bad : Eff := .trap q.1 .trailerCheck s.core.idx (toWord a)
  if !blockFormat (bits t 163 160) || decide (512 < len) then bad
  else
    let r := match d with | some (d, n) => placeRead q.1 d n false (coreViewer q.1) | none => (q.1, [], false)
    if trailerBad t f.code r.2.1 then bad
    else k r.1 (leNat r.2.1, loadMark r.2.2 a) (t, loadMark q.2.2 a)

/-- The pair of registers of a `.chk` load is written; the load's one queue entry lasts until then (R167). -/
def chkLoaded (s : State) (v : Fin 16) (exposed : Bool) (clocks : Nat) (d t : Nat × Mark) : State :=
  let r := pairReg v
  let s := if exposed then exposeVec s clocks (.v r) d.1 0 d.2 else (pendVec s (.v r) (some d.1) d.2 (some (s.clock + clocks)) 0 0).1
  vecLoaded s (vreg (r.val + 1)) t.1 t.2 exposed clocks

/-- The check of a `.chk` load is over: it gives back the queue entry it held (R143, R167). -/
def chkOver (s : State) : State :=
  onVu s (fun u => { u with chk := none, queue := u.queue.filter (fun e => !u.chk.any (fun c => c.1 == e.1)) })

/-- The grants of a `.chk` load from QS, in ascending address (R143): one for the data part, one for the trailer; their
bytes are read as the check is made. -/
def chkParts (p : Place) (d : Option (Place × Nat)) : List (BitVec 32 × QsDo) :=
  let part (p : Place) (n : Nat) : List (BitVec 32 × QsDo) :=
    match p with | .oc oc => [(bankMask oc n, .read [(0, oc, n)])] | _ => []
  (match d with | some (d, n) => part d (min n 512) | none => []) ++ part p 32

/-- A `.chk` load (R143): from LS it is performed at issue. From elsewhere it holds the core until the check: from QS until
its grants, else until the bytes have come. -/
def chkLoad (i : Instr) (space : Nat) (v : Fin 16) (b : XReg) (f : ElemTy) (c : BitVec 7) (s : State) : Host.Outcome State Fault Refusal :=
  vsyl i s (fun s =>
    let addr := meAddr s space b 7 c.toNat 32
    let finish (s : State) (clocks : Nat) : Eff :=
      chkRanges (chkOver s) space addr f (fun s p a len d =>
        chkBytes s p a len d f (fun s x y => .done (chkLoaded s v (space == 0) clocks x y)))
    match s.core.vu.chk with
    | some (id, t) =>
      if space == 1 then (if s.core.vu.qs.any (fun q => q.id == id) then .wait s else finish s 8)
      else if s.clock < t then .wait s else finish s 0
    | none =>
      if space == 0 then finish s 6
      else
        chkRanges s space addr f (fun s p _ _ d =>
          match p, space == 1 with
          | .oc oc, true =>
            if meetsWaiting s oc 32 false then .wait (countWait s)
            else
              let q := freshId s
              let s := askHeld q.1 { id := q.2, parts := chkParts p d, start := some s.clock }
              .wait (onVu s (fun u => { u with chk := some (q.2, 0) }))
          | _, _ =>
            let q := freshId s
            .wait (onVu (occupy q.1 q.2 none) (fun u => { u with chk := some (q.2, s.clock + loadClocks space) }))))

def execVldlChk (v : Fin 16) (b : XReg) (f : ElemTy) (c : BitVec 7) (s : State) := chkLoad (.vldlChk v b f c) 0 v b f c s
def execVldqChk (v : Fin 16) (b : XReg) (f : ElemTy) (c : BitVec 7) (s : State) := chkLoad (.vldqChk v b f c) 1 v b f c s
def execVldoChk (v : Fin 16) (b : XReg) (f : ElemTy) (c : BitVec 7) (s : State) := chkLoad (.vldoChk v b f c) 2 v b f c s
def execVldgChk (v : Fin 16) (b : XReg) (f : ElemTy) (c : BitVec 7) (s : State) := chkLoad (.vldgChk v b f c) 3 v b f c s
def execVldfChk (v : Fin 16) (b : XReg) (f : ElemTy) (c : BitVec 7) (s : State) := chkLoad (.vldfChk v b f c) 4 v b f c s
def execVldhChk (v : Fin 16) (b : XReg) (f : ElemTy) (c : BitVec 7) (s : State) := chkLoad (.vldhChk v b f c) 5 v b f c s

end Sys2Proof.Machine
end

