-- ==== Sys2Proof/Machine/Stats.lean ====
section
/-!
DEFINITION. The ST syllables (R85 to R87, R197 to R213).
-/
namespace Sys2Proof.Machine
open Sys2Proof

/-- Lane i of a statistics register (R197). -/
def laneOf (g : Stat) (i : Nat) : Triple := ⟨elem 32 g.w.toNat i, elem 32 g.m.toNat i, elem 32 g.q.toNat i⟩
def lanesOf (s : State) (g : GReg) : List Triple := (List.range 128).map (laneOf s.core.g[g])
/-- The planar image of 128 lanes (R198). -/
def planar (l : List Triple) : Nat :=
  packElems 32 (l.map (·.w)) + packElems 32 (l.map (·.mean)) * 2 ^ 4096 + packElems 32 (l.map (·.m2)) * 2 ^ 8192

/-- The lanes that a syllable changes; the others keep gd (R204). -/
def statLanes (s : State) (g : GReg) (k : Bool) (f : Nat → Triple → Triple) : List Triple :=
  ((lanesOf s g).zipIdx).map (fun p => if !k || maskBit s p.2 then f p.2 p.1 else p.1)

/-- A statistics register written `n` clocks from issue (R201). -/
def pendStat (s : State) (g : GReg) (l : List Triple) (k : Mark) (n : Nat) : State := (pend s (.g g) (some (planar l)) k (some n)).1

/-- An ST syllable (R202). -/
def statSyl (i : Instr) (s : State) (body : State → Eff) : Host.Outcome State Fault Refusal := vsyl i s body

/-- A masked `GCLR` or `GSET` keeps the mark of gd, an unmasked one clears it (R200). -/
def keptMark (s : State) (g : GReg) (k : Bool) : Mark := if k then s.core.gmark[g] else .clean

def execGclr (g : GReg) (k : Bool) (s : State) := statSyl (.gclr g k) s (fun s =>
  .done (pendStat s g (statLanes s g k (fun _ _ => .empty)) (keptMark s g k) 2))

/-- A sample of lane i (R206). -/
def sampleOf (v : Nat) (h : Half) (i : Nat) : Nat :=
  match h with
  | .f32 => elem 32 v i
  | .bf16lo => bf16ToF32 (elem 16 v i)
  | .bf16hi => bf16ToF32 (elem 16 v (128 + i))

def execGadd (g : GReg) (v : VReg) (e : Half) (k : Bool) (s : State) := statSyl (.gadd g v e k) s (fun s =>
  .done (pendStat s g (statLanes s g k (fun i t => t.update (sampleOf (readV s v) e i) f32One)) .clean 6))
def execGwadd (g : GReg) (v w : VReg) (e : Half) (k : Bool) (s : State) := statSyl (.gwadd g v w e k) s (fun s =>
  .done (pendStat s g (statLanes s g k (fun i t => t.update (sampleOf (readV s v) e i) (elem 32 (readV s w) i))) .clean 6))

def execGmerge (g h : GReg) (k : Bool) (s : State) := statSyl (.gmerge g h k) s (fun s =>
  .done (pendStat s g (statLanes s g k (fun i t => t.merge (laneOf s.core.g[h] i))) .clean 8))

/-- Level k of the tree of R208: lane j × 2^k takes its partner, which becomes empty. -/
def foldLevel (l : List Triple) (k : Nat) : List Triple :=
  (l.zipIdx).map (fun p =>
    if p.2 % 2 ^ k == 0 then p.1.merge ((l[p.2 + 2 ^ (k - 1)]?).getD .empty)
    else if p.2 % 2 ^ k == 2 ^ (k - 1) then .empty else p.1)

def execGfold (g h : GReg) (l : BitVec 3) (s : State) := statSyl (.gfold g h l) s (fun s =>
  .done (pendStat s g ((List.range l.toNat).foldl (fun acc k => foldLevel acc (k + 1)) (lanesOf s h)) .clean (4 + 8 * l.toNat)))

/-! ### Draining (R209) -/

/-- The variance of a lane. -/
def Triple.var (t : Triple) : Nat := if t.isEmpty then 0 else f32Div t.m2 t.w
def Triple.meanOf (t : Triple) : Nat := if t.isEmpty then 0 else t.mean
/-- `SVAR`: divided by W − 1. -/
def Triple.svar (t : Triple) : Nat := if t.isEmpty then 0 else f32Div t.m2 (f32Sub t.w f32One)
/-- `RSTD`: 1/√(v + e), the sum rounded, the root rounded once. -/
def Triple.rstd (t : Triple) (e : Nat) : Nat := rsqrtFp fmtF32 .rne (dF32 (f32Add t.var e))
/-- `NORM` of an element x. -/
def Triple.norm (t : Triple) (e x : Nat) : Nat := f32Mul (f32Sub x t.meanOf) (t.rstd e)

/-- Clocks of a drain (R201). -/
def drainClocks (m : DrainMode) : Nat :=
  match m with | .raw | .mean => 2 | .var | .svar => 8 | .rstd => 12 | .norm => 16

/-- The vector results of a drain. -/
def drainResults (s : State) (g : GReg) (v : VReg) (e : Nat) (m : DrainMode) : List (Dest × Nat) :=
  let l := lanesOf s g
  let one (f : Triple → Nat) : List (Dest × Nat) := [(.v v, packElems 32 (l.map f))]
  match m with
  | .raw => [(.v v, packElems 32 (l.map (·.w))), (.v (vreg (v.val + 1)), packElems 32 (l.map (·.mean))), (.v (vreg (v.val + 2)), packElems 32 (l.map (·.m2)))]
  | .mean => one Triple.meanOf
  | .var => one Triple.var
  | .svar => one Triple.svar
  | .rstd => one (fun t => t.rstd e)
  | .norm => [(.v v, packElems 32 ((l.zipIdx).map (fun p => p.1.norm e (elem 32 (readV s v) p.2))))]

def execGdrain (g : GReg) (v : VReg) (w : XReg) (c : Bool) (m : DrainMode) (s : State) := statSyl (.gdrain g v w c m) s (fun s =>
  let n := drainClocks m
  let t := (drainResults s g v (bits (readNat s w) 31 0) m).foldl (fun acc r => (pend acc r.1 (some r.2) .clean (some n)).1) s
  .done (if c then pendStat t g (List.replicate 128 .empty) .clean n else t))

/-! ### Saving, restoring and setting (R210, R211) -/

/-- The checks of an image in the order of R210: its alignment, its end, then each plane (R117, R120, R121, R136, R399).
`TRAPVAL` of a plane that fails holds that plane's address: R210 gives the planes no address of their own to report (DESIGN
CHOICE, log entry 104). `k` gets its OC address. -/
def imageAccess (s : State) (qs : Bool) (a : Word) (wr : Bool) (k : State → Nat → Eff) : Eff :=
  let base := if qs then qsBase else lsBase
  let size := if qs then 0x400000 else 0x100000
  let sp := b2n qs
  if a.toNat % 512 != 0 then .trap s .align (memDetail 2 sp) a
  else if size < a.toNat + 1536 then .trap s .ocUnmapped (memDetail 0 sp) a
  else
    let r := (List.range 3).foldl (fun (acc : Acc Unit) j => acc.bind (fun s _ =>
      (localCheck s base size ((a.toNat + 512 * j : Nat) : Int) 512 wr).bind (fun s _ => .ok s ()))) (.ok s ())
    match r with
    | .fault s c x ad => .trap s c (memDetail x sp) (BitVec.ofNat 64 ad)
    | .wait s => .wait s
    | .ok s _ => k s (base + a.toNat)

/-- The three accesses of an image, in plane order (R210): each one full grant in QS; in LS one on the issue clock and on each
of the two clocks after. No later memory or ST syllable issues until they are performed. -/
def askImage (s : State) (qs : Bool) (id after : Nat) (addr : Word) (f : Nat → QsDo) : State :=
  let q : QsReq := { id := id, kind := if qs then .imageQs else .imageLs, parts := (List.range 3).map (fun j => (BitVec.allOnes 32, f j))
                     addr := addr, after := after, start := some (if qs then s.clock else s.clock + 1) }
  if qs then askQs s q else serveQs (askQs s q) q

def execGld (g : GReg) (b : XReg) (p : Bool) (s : State) := statSyl (.gld g b p) s (fun s =>
  let a := readX s b
  imageAccess s p a false (fun s oc =>
    let q := pend s (.g g) none .clean none
    .done (askImage q.1 p q.2 (if p then 10 else 4) a (fun j => .read [(512 * j, oc + 512 * j, 512)]))))

def execGst (g : GReg) (b : XReg) (p : Bool) (s : State) := statSyl (.gst g b p) s (fun s =>
  imageAccess s p (readX s b) true (fun s oc =>
    let image := planar (lanesOf s g)
    let q := freshId s
    .done (askImage q.1 p q.2 0 (readX s b) (fun j => .write [(oc + 512 * j, leBytes 512 (image >>> (4096 * j)))] false))))

def execGset (g : GReg) (v : VReg) (k : Bool) (s : State) := statSyl (.gset g v k) s (fun s =>
  .done (pendStat s g (statLanes s g k (fun i _ =>
    ⟨elem 32 (readV s v) i, elem 32 (readV s (vreg (v.val + 1))) i, elem 32 (readV s (vreg (v.val + 2))) i⟩)) (keptMark s g k) 2))

end Sys2Proof.Machine
end

