-- ==== Sys2Proof/Machine/Matrix.lean ====
section
/-!
DEFINITION. The matrix unit and the MX syllables (R82, R83, R214 to R236).
-/
namespace Sys2Proof.Machine
open Sys2Proof

def onMx (s : State) (f : Matrix → Matrix) : State := onCore s (fun c => { c with mx := f c.mx })

/-! ### Operand blocks (R214, R218, R219) -/

/-- Products per multiply-accumulator and step, and K (R214). -/
def mxG (f : ElemTy) : Nat := match f with | .bf16 => 1 | .i4 | .s4o => 4 | _ => 2
def mxK (f : ElemTy) : Nat := 128 * mxG f
/-- The linear index of A element (i, k) (R218). -/
def aIndex (rowMajor : Bool) (f : ElemTy) (i k : Nat) : Nat :=
  if rowMajor then mxK f * i + k else mxG f * (64 * (k / mxG f) + i) + k % mxG f
/-- The other float format of an operand with `.mixb` (R226). -/
def mixFmt (f : ElemTy) (mixb : Bool) : ElemTy := if mixb then (if f == .e4m3 then .e5m2 else .e4m3) else f
/-- The integer of linear element n of a packed block (R67, R83, R219). -/
def blockInt (f : ElemTy) (v n : Nat) : Int := if f == .s4o then s4oAt v n else sext (elem f.width v n) f.width
def blockFp (f : ElemTy) (v n : Nat) : Fp := decodeFp f.fmt (elem f.width v n)

/-- Panel p of column slice j, 256 bytes; an invalid panel reads as zeros (R214, R216). -/
def panelSlice (mx : Matrix) (p j : Nat) : Nat := if mx.panels.getLsbD p then mx.bstore.readNat (32768 * j + 256 * p) 256 else 0
/-- The integer of B element (k, j): an S4O pair is decoded from two slices together (R219). -/
def bInt (f : ElemTy) (mx : Matrix) (p k j : Nat) : Int :=
  if f == .s4o then
    let r := s4oPair (elem 4 (panelSlice mx p (j / 2 * 2)) k) (elem 4 (panelSlice mx p (j / 2 * 2 + 1)) k)
    if j % 2 == 0 then r.1 else r.2
  else sext (elem f.width (panelSlice mx p j) k) f.width
def bFp (f : ElemTy) (mx : Matrix) (p k j : Nat) : Fp := decodeFp f.fmt (elem f.width (panelSlice mx p j) k)

/-! ### Multiply-accumulate (R226) -/

/-- One step of a floating-point element (R82): one rounding, a pair added exactly before it. -/
def stepFp (f : ElemTy) (c : Nat) (prod : Nat → Fp) (st : Nat) : Nat :=
  if mxG f == 1 then rF32 .rne (addFp .rne (dF32 c) (prod st))
  else rF32 .rne (addFp .rne (dF32 c) (addFp .rne (prod (2 * st)) (prod (2 * st + 1))))

/-- Element (i, j) after an operation (R226). -/
def mmaElem (o : MxOp) (mx : Matrix) (c i j : Nat) : Nat :=
  let row := o.kind == .mmat
  if o.fmt.isFloat then
    let prod (k : Nat) : Fp := mulFp (blockFp o.fmt o.block (aIndex row o.fmt i k)) (bFp (mixFmt o.fmt o.w) mx o.panel k j)
    (List.range 128).foldl (fun c st => stepFp o.fmt c prod st) c
  else
    wrapTo 32 ((List.range (mxK o.fmt)).foldl (fun (a : Int) k => a + blockInt o.fmt o.block (aIndex row o.fmt i k) * bInt o.fmt mx o.panel k j) (c : Int))

/-! ### Tiles -/

def tileAddr (t : Nat) : Nat := accBase + 0x8000 * t
def tileGet (s : State) (t : Nat) : Nat := s.oc.readNat (tileAddr t) 32768
/-- Write the words of a tile and its poison mark (R214, R221). -/
def tileSet (s : State) (t : Nat) (l : List Nat) (poison : Bool) : State :=
  onMx { s with oc := s.oc.writeNat (tileAddr t) 32768 (packElems 32 l) } (fun m =>
    { m with tilePoison := BitVec.ofNat 32 (setBits m.tilePoison.toNat t t (b2n poison)) })
def tileWords (s : State) (t : Nat) : List Nat := elems 32 8192 (tileGet s t)

/-- The perturbation armed for an operation is applied once, and disarmed (R235). -/
def perturb (s : State) (o : MxOp) : State :=
  match s.core.mx.pert with
  | none => s
  | some p =>
    if p.op != some o.order then s
    else
      let n := tileGet s p.tile
      let e := 128 * p.row + p.col
      let c := elem 32 n e
      let integer := (o.kind == .mma || o.kind == .mmat || o.kind == .mmag) && !o.fmt.isFloat
      let c' := if integer then (c + p.val) % 2 ^ 32 else f32Add c p.val
      onMx { s with oc := s.oc.writeNat (tileAddr p.tile) 32768 (setBits n (32 * e + 31) (32 * e) c') } (fun m => { m with pert := none })

/-! ### What the operations do -/

/-- The results of the array (R221, R226). -/
def arrayResult (s : State) (o : MxOp) : State :=
  let mx := s.core.mx
  let old := tileGet s o.tile
  let l := (List.range 8192).map (fun n => mmaElem o mx (if o.z then 0 else elem 32 old n) (n / 128) (n % 128))
  let po := o.poison || mx.panelPoison.getLsbD o.panel || (!o.z && mx.tilePoison.getLsbD o.tile)
  perturb (tileSet s o.tile l po) o

/-- The rounding mode, the scale and the other fields of a drain (R232). -/
def drainValue (o : MxOp) (bias x : Nat) : Nat :=
  let d := o.desc.toNat
  let m := RoundMode.ofCode (bits d 37 36)
  let srcInt := bit d 38
  let f : Fp := if srcInt then intToFp (sext x 32) else dF32 x
  let v := if bit d 39 then rF32 m (mulFp f (dF32 (bits d 31 0))) else if srcInt then rF32 m f else x
  if o.w then rF32 m (addFp m (dF32 v) (dF32 bias)) else v

/-- A drain that copies bits (R232). -/
def drainRaw (o : MxOp) : Bool :=
  let d := o.desc.toNat
  !bit d 39 && !o.w && !o.stat && o.fmt == (if bit d 38 then .i32 else .f32)

/-- Add saturations to `MSATCNT` (R220). -/
def addMsat (m : Matrix) (n : Nat) : Matrix := { m with msat := BitVec.ofNat 64 (min (m.msat.toNat + n) 0xFFFFFFFF) }

/-- By t0 + 64 an `MDRAIN` has read its tile, and one with `.clr` has zeroed it, which is then readable (R224, R232, R235). -/
def drainRead (s : State) (o : MxOp) : State :=
  let po := s.core.mx.tilePoison.getLsbD o.tile
  let x := (tileGet s o.tile, po)
  let s := onMx s (fun m => { m with transfer := m.transfer.map (fun e => if e.order == o.order then { e with drained := some x } else e) })
  if o.z then perturb (tileSet s o.tile (List.replicate 8192 0) po) o else s

/-- The results of a drain (R212, R221, R232). -/
def drainResult (s : State) (o : MxOp) : State :=
  let x := elems 32 8192 ((o.drained.map (·.1)).getD 0)
  let m := RoundMode.ofCode (bits o.desc.toNat 37 36)
  let po := (o.drained.map (·.2)).getD false
  let vs := if drainRaw o then x else (x.zipIdx).map (fun p => drainValue o (elem 32 o.block (p.2 % 128)) p.1)
  let out := if drainRaw o then x.map (fun v => (v, false)) else vs.map (fun v => convert o.fmt .f32 m v)
  let s := onMx s (fun k => addMsat k ((out.map (fun r => b2n r.2)).foldl (· + ·) 0))
  let s := placeWrite s (.oc (lsBase + o.addr)) (leBytes (1024 * o.fmt.width) (packElems o.fmt.width (out.map (·.1)))) po false (coreViewer s)
  if o.stat then
      let g : GReg := ⟨bits o.desc.toNat 35 32 % 16, Nat.mod_lt _ (by decide)⟩
      let l := ((lanesOf s g).zipIdx).map (fun p => (List.range 64).foldl (fun t i => t.update ((vs[128 * i + p.2]?).getD 0) f32One) p.1)
      onCore s (fun c => { c with board := c.board.map (fun b =>
        if b.dst == .g g && b.val.isNone then { b with val := some (planar l), mark := if po then .poison (BitVec.ofNat 64 o.addr) else .clean, due := some s.clock } else b) })
    else s

/-- The panel that `MBWR` writes (R214, R231). -/
def panelResult (s : State) (o : MxOp) : State :=
  if o.bad then s else
  let k := mxK o.fmt
  let w := o.fmt.width
  let b := (List.range 128).foldl (fun (b : Mem) j =>
    b.writeNat (32768 * j + 256 * o.panel) 256 (packElems w ((List.range k).map (fun i => elem w o.block (128 * i + j))))) s.core.mx.bstore
  onMx s (fun m => { m with bstore := b, panels := m.panels ||| (1#128 <<< o.panel)
                            panelPoison := BitVec.ofNat 128 (setBits m.panelPoison.toNat o.panel o.panel (b2n o.poison)) })

/-- The C image as tile words (R230). -/
def imageWords (o : MxOp) : List Nat :=
  if o.fmt == .bf16 then (elems 16 8192 o.block).map bf16ToF32 else elems 32 8192 o.block

/-- What a finished operation writes. -/
def mxResult (s : State) (o : MxOp) : State :=
  match o.kind with
  | .mma | .mmat | .mmag => arrayResult s o
  | .mzero => perturb (tileSet s o.tile (List.replicate 8192 0) false) o
  | .mldc => perturb (tileSet s o.tile (imageWords o) o.poison) o
  | .mbwr => panelResult s o
  | .mdrain => drainResult s o

/-! ### The queues (R214 to R216, R224, R232) -/

/-- Clocks from an operation's start until its queue may start another, until it writes, and until its result
is readable and it leaves (R224). -/
def mxOccupies (k : MxKind) : Nat := match k with | .mma | .mmat | .mmag => 128 | .mzero => 8 | _ => 64
def mxWrites (k : MxKind) : Nat := match k with | .mma | .mmat | .mmag => 128 | .mzero => 8 | .mldc => 66 | .mbwr => 64 | .mdrain => 70
def mxLeaves (k : MxKind) : Nat := match k with | .mma | .mmat | .mmag => 134 | .mzero => 8 | .mldc => 66 | .mbwr => 64 | .mdrain => 70
/-- Clocks from issue before the first step (R224); the lines of an `MMAG` take a typical load (PRESUMED, log entry 3). -/
def mxLead (k : MxKind) : Nat := match k with | .mma => 4 | .mmat | .mmag => 36 | _ => 1

/-- Its last step has been taken (R216). -/
def stepsTaken (s : State) (o : MxOp) : Bool := (o.start.map (fun t => decide (t + 128 ≤ s.clock))).getD false

/-- Whether an operation may start now, whatever its queue does (R216, R224, R232). -/
def mxMayStart (s : State) (o : MxOp) : Bool :=
  decide (o.issued + mxLead o.kind ≤ s.clock) &&
  (match o.kind with
   | .mma | .mmat | .mmag =>
     !(s.core.mx.transfer.any (fun e => decide (e.order < o.order) &&
       ((e.kind == .mbwr && e.panel == o.panel) ||
        (e.kind == .mdrain && e.tile == o.tile && (e.start.map (fun t => decide (s.clock < t + 64))).getD true))))
   | .mbwr => !(s.core.mx.array.any (fun e => decide (e.order < o.order) && e.panel == o.panel && !stepsTaken s e))
   | _ => true)

def mxQueue (m : Matrix) (array : Bool) : List MxOp := if array then m.array else m.transfer
def mxSetQueue (m : Matrix) (array : Bool) (l : List MxOp) : Matrix := if array then { m with array := l } else { m with transfer := l }

/-- The next operation of a queue starts (`MATRIX_OP_START`, R224). -/
def mxStart (s : State) (array : Bool) : State :=
  let m := s.core.mx
  match (mxQueue m array).find? (fun o => o.start.isNone) with
  | none => s
  | some o =>
    if decide ((if array then m.arrayEnd else m.transferEnd) ≤ s.clock) && mxMayStart s o then
      let t := s.clock + mxOccupies o.kind
      onMx s (fun m =>
        let m := mxSetQueue m array ((mxQueue m array).map (fun e => if e.order == o.order then { e with start := some s.clock } else e))
        if array then { m with arrayEnd := t } else { m with transferEnd := t })
    else s

/-- The operations of a queue whose results are due are written, and those whose results are readable leave it
(`MATRIX_OP_COMPLETE`, R224). -/
def mxComplete (s : State) (array : Bool) : State :=
  let passed (o : MxOp) (n : Nat) : Bool := (o.start.map (fun t => decide (t + n ≤ s.clock))).getD false
  let due := (mxQueue s.core.mx array).filter (fun o => !o.done && passed o (mxWrites o.kind))
  let s := ((mxQueue s.core.mx array).filter (fun o => o.kind == .mdrain && o.drained.isNone && passed o 64)).foldl drainRead s
  let due := due.map (fun o => ((mxQueue s.core.mx array).find? (fun e => e.order == o.order)).getD o)
  let s := due.foldl mxResult s
  onMx s (fun m => mxSetQueue m array
    (((mxQueue m array).map (fun o => if passed o (mxWrites o.kind) then { o with done := true } else o)).filter (fun o => !(passed o (mxLeaves o.kind)))))

/-- One clock of the matrix unit. -/
def mxClock (s : State) : State :=
  if s.core.mx.array.isEmpty && s.core.mx.transfer.isEmpty then s
  else mxStart (mxStart (mxComplete (mxComplete s true) false) true) false

/-- An operation is accepted at issue: it takes the next order number, and an armed perturbation of a tile that
it writes (R214, R235). -/
def mxAccept (s : State) (array writes : Bool) (o : MxOp) : State :=
  let o := { o with issued := s.clock, order := s.core.mx.order }
  onMx s (fun m =>
    let m := mxSetQueue m array (mxQueue m array ++ [o])
    { m with order := m.order + 1
             pert := m.pert.map (fun p => if writes && p.op.isNone && p.tile == o.tile then { p with op := some o.order } else p) })

/-! ### The syllables -/

/-- A panel selector (R225). -/
def selectorBad (w : Word) : Bool := decide (128 ≤ w.toNat)

/-- `MMA`, `MMAT` and `MMAG` (R226 to R228): the A block is taken at issue, where its range is held or its loads
stand. -/
def mmaIssue (i : Instr) (kind : MxKind) (space : Nat) (t : Tile) (a b : XReg) (f : ElemTy) (w z : Bool) (s : State) : Host.Outcome State Fault Refusal :=
  syl i s (fun s =>
    let p := readX s b
    let x := readX s a
    if selectorBad p then badOperand s p
    else memAccess s space (.ok (x.toNat : Int)) 16384 128 { rd := true } (fun s pl _ =>
      let r := placeRead s pl 16384 false (coreViewer s)
      .done (mxAccept r.1 true true { kind := kind, tile := t.val, fmt := f, addr := x.toNat, panel := p.toNat, z := z, w := w
                                      block := leNat r.2.1, poison := r.2.2 })) (space == 3))

def execMma (t : Tile) (a b : XReg) (f : ElemTy) (w z : Bool) (s : State) := mmaIssue (.mma t a b f w z) .mma 0 t a b f w z s
def execMmat (t : Tile) (a b : XReg) (f : ElemTy) (w z : Bool) (s : State) := mmaIssue (.mmat t a b f w z) .mmat 0 t a b f w z s
def execMmag (t : Tile) (a b : XReg) (f : ElemTy) (w z : Bool) (s : State) := mmaIssue (.mmag t a b f w z) .mmag 3 t a b f w z s

def execMzero (t : Tile) (s : State) := syl (.mzero t) s (fun s => .done (mxAccept s false true { kind := .mzero, tile := t.val }))

def execMldc (t : Tile) (a : XReg) (f : ElemTy) (s : State) := syl (.mldc t a f) s (fun s =>
  let x := readX s a
  let n := if f == .bf16 then 16384 else 32768
  memAccess s 0 (.ok (x.toNat : Int)) n 512 { rd := true } (fun s pl _ =>
    let r := placeRead s pl n false (coreViewer s)
    .done (mxAccept r.1 false true { kind := .mldc, tile := t.val, fmt := f, addr := x.toNat, block := leNat r.2.1, poison := r.2.2 })))

/-- `MBWR` (R231): with `.chk`, the trailer behind the block is checked; the core is held until the check is complete, at the
end of the operation. -/
def execMbwr (a b : XReg) (f : ElemTy) (c : Bool) (s : State) := syl (.mbwr a b f c) s (fun s =>
  match s.core.mx.chk with
  | some (o, bad) =>
    if s.core.mx.transfer.any (fun e => e.order == o) then .wait s
    else
      let s := onMx s (fun m => { m with chk := none })
      if bad then .trap s .trailerCheck s.core.idx (BitVec.ofNat 64 ((readX s a).toNat + 32768)) else .done s
  | none =>
  let p := readX s b
  let x := readX s a
  let n := if c then 32800 else 32768
  if selectorBad p then badOperand s p
  else memAccess s 0 (.ok (x.toNat : Int)) n 512 { rd := true } (fun s pl _ =>
    let r := placeRead s pl n false (coreViewer s)
    let data := r.2.1.take 32768
    let tr := leNat (r.2.1.drop 32768)
    let bad := c && (trailerBad tr f.code data || bits tr 95 64 != 128 * mxK f)
    let s := mxAccept r.1 false false { kind := .mbwr, tile := 32, fmt := f, addr := x.toNat, panel := p.toNat, w := c, block := leNat data, poison := r.2.2, bad := bad }
    if c then .wait (onMx s (fun m => { m with chk := some (r.1.core.mx.order, bad) })) else .done s))

/-- The statistics register that a drain descriptor names (R232). -/
def drainReg (w : Word) : GReg := ⟨bits w.toNat 35 32 % 16, Nat.mod_lt _ (by decide)⟩

/-- The checks of an `MDRAIN` in the order of R225: its destination and its bias block lie in LS and are core-owned, no live
barrier word is in the destination, which is aligned. -/
def drainCheck (s : State) (x : Word) (n : Nat) (bias : Option Nat) : Acc Unit :=
  let ls (s : State) (a : Nat) (n : Nat) (wr : Bool) : Acc Unit := (localCheck s lsBase 0x100000 (a : Int) n wr).bind (fun s _ => .ok s ())
  (ls s x.toNat n false).bind (fun s _ =>
    (match bias with | some b => ls s b 512 false | none => .ok s ()).bind (fun s _ =>
      (ls s x.toNat n true).bind (fun s _ =>
        if x.toNat % 512 != 0 then .fault s .align 2 x.toNat else .ok s ())))

/-- `MDRAIN` with `.clr` (`q`), `.stat` (`j`) and `.bias` (`h`) (R232); one that updates a marked statistics register raises its mark (R200). -/
def execMdrain (t : Tile) (a b : XReg) (f : ElemTy) (q j h : Bool) (s : State) := syl (.mdrain t a b f q j h) s (fun s =>
  let w := readX s b
  let d := w.toNat
  let x := readX s a
  if bits d 63 51 != 0 || (bit d 39 && !finite32 (bits d 31 0)) then badOperand s w
  else
    match if j then s.core.gmark[drainReg w] else .clean with
    | .poison ad => .trap s .poisonConsumed 0 ad
    | .fabric c v => .trap (drawn s) (Cause.ofCode c.toNat) (bits (Config.freeWord s.free).toNat 7 0) v
    | .clean =>
      match drainCheck s x (1024 * f.width) (if h then some (bits d 50 40 * 512) else none) with
      | .fault s c r ad => .trap s c (memDetail r 0) (BitVec.ofNat 64 ad)
      | .wait s => .wait s
      | .ok s _ =>
        let r := if h then placeRead s (.oc (lsBase + bits d 50 40 * 512)) 512 false (coreViewer s) else (s, [], false)
        let s := if j then (pend r.1 (.g (drainReg w)) none .clean none).1 else r.1
        .done (mxAccept s false q { kind := .mdrain, tile := t.val, fmt := f, addr := x.toNat, z := q, w := h, stat := j, desc := w, block := leNat r.2.1 }))

/-- Both queues are empty, no tile is busy and no range is held (R233). -/
def mxIdle (s : State) : Bool := s.core.mx.array.isEmpty && s.core.mx.transfer.isEmpty

/-- `MWAIT` (R233). -/
def execMwait (t : Tile) (r l : Bool) (s : State) := syl (.mwait t r l) s (fun s =>
  let ready := (if l then mxIdle s else !tileBusy s t.val) && (!r || s.core.mx.array.all (stepsTaken s))
  if ready then .done (if r then onMx s (fun m => { m with panels := 0, panelPoison := 0 }) else s) else waitFor s 0)

/-- The words of `MSTAT` (R234). -/
def mstatWord (s : State) (k : Nat) : Nat :=
  let m := s.core.mx
  if k == 0 then packElems 1 ((List.range 32).map (fun t => b2n (tileBusy s t))) +
    b2n (m.array.any (fun o => !stepsTaken s o)) * 2 ^ 32 +
    b2n (m.transfer.any (fun o => (o.start.map (fun t => decide (s.clock < t + mxOccupies o.kind))).getD true)) * 2 ^ 33 + b2n m.pert.isSome * 2 ^ 34
  else if k == 1 then m.tilePoison.toNat + b2n (m.panelPoison != 0) * 2 ^ 32
  else if k == 2 then bits m.panels.toNat 63 0
  else bits m.panels.toNat 127 64

def execMstat (d : XReg) (e : BitVec 2) (s : State) := syl (.mstat d e) s (fun s => guardPush s d (
  .done (pendX s d (BitVec.ofNat 64 (mstatWord s e.toNat)) .clean 2)))

def execMpert (t : Tile) (a b : XReg) (q : Bool) (s : State) := syl (.mpert t a b q) s (fun s =>
  if q then .done (onMx s (fun m => { m with pert := none }))
  else
    let x := readX s a
    let v := readX s b
    if x &&& ~~~0x7F3F != 0 then badOperand s x
    else if bits v.toNat 63 32 != 0 then badOperand s v
    else .done (onMx s (fun m => { m with pert := some { tile := t.val, row := bits x.toNat 5 0, col := bits x.toNat 14 8, val := v.toNat } })))

end Sys2Proof.Machine
end

