-- ==== Sys2Proof/Machine/Platform.lean ====
section
/-!
DEFINITION. Bring-up, firmware and attestation, service and limits, and the host's side (R423 to R437).
-/
namespace Sys2Proof.Machine
open Sys2Proof

def onPlat (s : State) (f : Platform → Platform) : State := { s with plat := f s.plat }
/-- Change a field of a hub register. -/
def hubField (s : State) (a hi lo v : Nat) : State := hubSet s a (BitVec.ofNat 64 (setBits (hubNat s a) hi lo v))

/-- `BRSTAT.STATE` changes: vector 2 (R424, R427, R428). -/
def setBring (s : State) (n : Nat) : State := if bringState s == n then s else fire (hubField s brstat 2 0 n) 2
/-- The package halts in state 4, which it leaves only by reset (R428): nothing is performed any further. -/
def haltPackage (s : State) (why : Nat) : State := if bringState s == 4 then s else setBring (hubField s brstat 15 12 why) 4
/-- The CXL link is down: it is lost, or the package has halted (R355, R428). -/
def linkDown (s : State) : Bool := bringState s == 4 || bit (hubNat s fmBase) 2

/-! ### Firmware images and the record (R25, R431, R433) -/

/-- A little-endian field of a byte image. -/
def byteField (l : List Byte) (a n : Nat) : Nat := leNat ((l.drop a).take n)
def imgVersion (l : List Byte) : Nat := byteField l 8 8
def imgSecver (l : List Byte) : Nat := byteField l 16 8
def imgLength (l : List Byte) : Nat := byteField l 24 8
/-- The signature of an image verifies over its header fields and body with the vendor key (R25, R431). -/
def imageSigned (l : List Byte) : Bool :=
  decide (128 + imgLength l ≤ l.length) && ecdsaVerify Config.vendorKey (l.take 32 ++ (l.drop 128).take (imgLength l)) ((l.drop 32).take 96)
/-- `MINSECVER` of the record. -/
def minSecver (s : State) : Nat := byteField s.plat.record 0x1B0 8
/-- An image that the package may run (R431). -/
def imageRuns (s : State) (l : List Byte) : Bool := byteField l 0 8 == 1 && imageSigned l && decide (minSecver s ≤ imgSecver l)
/-- The bank that runs at reset (R431): the higher version of those that verify. -/
def bankToRun (s : State) : Option Nat :=
  let a := (s.plat.banks[0]?).getD []
  let b := (s.plat.banks[1]?).getD []
  if imageRuns s a && imageRuns s b then some (if imgVersion a < imgVersion b then 1 else 0)
  else if imageRuns s a then some 0 else if imageRuns s b then some 1 else none

/-- `IDKEY` and `OPKEY` of a record (R433). -/
def idKey (r : List Byte) : List Byte := (r.drop 0x1B8).take 96
def opKey (r : List Byte) : List Byte := (r.drop 0x218).take 96
/-- The record is accepted (R25, R433): the vendor's signature and the operator's verify. -/
def recordGood (r : List Byte) : Bool :=
  decide (r.length = 840) && byteField r 0 2 == 2 && byteField r 2 1 == 0xB1 &&
  ecdsaVerify Config.vendorKey (r.take 0x278) ((r.drop 0x278).take 96) && ecdsaVerify (opKey r) ((r.drop 0x2D8).take 16) ((r.drop 0x2E8).take 96)

/-- The numbers of the set bits of a mask. -/
def bitList (n v : Nat) : List Nat := (List.range n).filter (fun i => bit v i)

/-- The part that a record enables (R23, R433). -/
def partOf (r : List Byte) : Part :=
  let co := byteField r 0x2D8 8
  { dies := BitVec.ofNat 8 (byteField r 0x10 1), cores := bitList 512 (byteField r 0x20 64), hbmStacks := BitVec.ofNat 12 (byteField r 0x12 2)
    slices := ((List.range 128).filter (fun k => !bit (byteField r 0x60 16) k)).map (fun k => (k, byteField r (0x70 + k) 1))
    cx := ⟨bits co 16 11 % 64, Nat.mod_lt _ (by decide)⟩, cy := ⟨bits co 10 5 % 64, Nat.mod_lt _ (by decide)⟩, cz := ⟨bits co 4 0 % 32, Nat.mod_lt _ (by decide)⟩ }

/-- The next enabled slice of a slice's die, in ascending order modulo 16 (R434). -/
def nextSlice (p : Part) (k : Nat) : Nat :=
  (((List.range 15).map (fun i => k / 16 * 16 + (k + 1 + i) % 16)).find? (fun j => !p.slices.any (fun e => e.1 == j))).getD k

/-- A unit of the removal list disabled (R434, R435). -/
def removePart (p : Part) (kind id : Nat) : Part :=
  if kind == 1 then { p with dies := p.dies &&& ~~~(1#8 <<< id) }
  else if kind == 2 then { p with cores := p.cores.filter (· != id) }
  else if kind == 3 then { p with cores := p.cores.filter (fun c => c / 4 != id) }
  else if kind == 4 then { p with hbmStacks := p.hbmStacks &&& ~~~(1#12 <<< id) }
  else if kind == 5 then { p with slices := storeAt (p.slices.map (fun e => if e.2 == id then (e.1, nextSlice p id) else e)) id (nextSlice p id) }
  else p

/-- A comb or a line out of service from bring-up on (R293, R295, R433). -/
def dropLine (s : State) (dim comb line : Nat) : State :=
  setUnit s dim { unitOf s dim with lost := (comb * 128 + line) :: (unitOf s dim).lost.filter (· != comb * 128 + line) }
def dropComb (s : State) (dim comb : Nat) : State := setUnit s dim { unitOf s dim with deadCombs := comb :: (unitOf s dim).deadCombs }
/-- The comb lines that a record's `COMBMASK` leaves out. -/
def applyCombs (s : State) (r : List Byte) : State :=
  (List.range 12).foldl (fun s k =>
    let dim := k / 4
    let m := byteField r (0x0F0 + 64 * dim + 16 * (k % 4)) 16 % 2 ^ 72
    if m == 0 then dropComb s dim (k % 4)
    else ((List.range 72).filter (fun j => !bit m j)).foldl (fun s j => dropLine s dim (k % 4) j) s) s
/-- A comb or a line of the removal list, by its number there (R434; `combUnit`). -/
def removeComb (s : State) (id : Nat) : State :=
  if 3 ≤ id / 512 then s else if id % 128 == 127 then dropComb s (id / 512) (id / 128 % 4) else if id % 128 < 72 then dropLine s (id / 512) (id / 128 % 4) (id % 128) else s

/-- The pod size of a record (R433). A `PODN` that is no pod size gives 8, as before a record is read (DESIGN CHOICE, log
entry 98). -/
def podOf (r : List Byte) : Nat := if [8, 16, 32, 64].contains (byteField r 0x2E0 8) then byteField r 0x2E0 8 else 8

/-- Bring-up in state 0 (R428, R431, R433, R434): firmware, record, removal list; then HBM training, if at least four stacks are
left to train (R429). -/
def bringUp (s : State) : State :=
  if bringState s != 0 then s
  else
    match bankToRun s with
    | none => haltPackage s 1
    | some b =>
      if !recordGood s.plat.record then haltPackage s 2
      else
        let r := s.plat.record
        let p := s.plat.removal.foldl (fun p e => removePart p e.1 e.2) (partOf r)
        let s := onPlat { s with part := p } (fun k => { k with running := b, podSize := podOf r })
        let s := (s.plat.removal.filter (fun e => e.1 == 6)).foldl (fun s e => removeComb s e.2) (applyCombs s r)
        let s := hubField s 0x4009000130 63 48 (imgVersion ((s.plat.banks[b]?).getD []) % 2 ^ 16)
        if popCount 12 p.hbmStacks.toNat < 4 then haltPackage s 4 else setBring s 1

/-- `RESET` (R428): every register at its reset value; the flash, the record, host memory and what the host does
next stay. -/
def resetPackage (s : State) : State :=
  let n : State := State.reset
  bringUp { n with
    plat := { n.plat with banks := s.plat.banks, removal := s.plat.removal, record := s.plat.record }
    sys := { n.sys with host := s.sys.host }, inputs := s.inputs, free := s.free }

/-- An HBM stack has finished training (R429): with the fourth the package gives reduced service. -/
def stackTrained (s : State) (h : Nat) : State :=
  if (bringState s != 1 && bringState s != 2) || !s.part.hbmStacks.getLsbD h then s
  else
    let s := onPlat s (fun p => { p with trained := p.trained ||| (1#12 <<< h) })
    let n := popCount 12 s.plat.trained.toNat
    let s := hubField s brstat 7 4 n
    if bringState s == 1 && decide (4 ≤ n) then setBring s 2 else s

/-- A pod-scope SC operation in flight, or an open phase of a pod barrier or of a pod-scope phase's barrier that had begun by
`since` (R430). -/
def podBusy (s : State) (since : Nat) : Bool :=
  let began (c : Option Nat) : Bool := (c.map (fun c => decide (c ≤ since))).getD false
  s.fabric.sc.isSome || !s.fabric.scIn.isEmpty ||
  s.dist.launches.any (fun l => l.nodes.any (fun n => n.bars.any (fun b => b.scope == .pd && b.arrived.isSome) ||
    (n.podPhase && ((n.phase == .closing && began n.podAt) || (n.phase == .ending && began n.sendAt)))))

/-- The entry into full service (R430), once every stack is trained or has failed; that every comb has locked the event itself
says (DEDUCED, log entry 129). Cores and engines are held until the package runs at 1 GHz, which takes at most 20,000 ns: how
many of these clocks of 2 ns is a free value. `turn` is the pod's turn that begins with this clock. -/
def enterFull (s : State) (turn : Nat) : State :=
  if bringState s != 2 || s.part.hbmStacks &&& ~~~(s.plat.trained ||| s.plat.failed) != 0 then s
  else
    let h := (Config.freeWord s.free).toNat % 10001
    onPlat (setBring (drawn s) 3) (fun p => { p with fullAt := some (s.clock + h), hold := h, joining := some (turn, s.clock) })

/-- The package joins the wheel of its pod at a turn boundary of that, when it runs at 1 GHz and what was under way on the local
wheel is over (R430). -/
def joinPod (s : State) : State :=
  match s.plat.joining with
  | none => s
  | some (turn, c) =>
    let t := nanoseconds s s.clock - nanoseconds s c
    if s.plat.hold != 0 || t % 8192 != 0 || podBusy s c then s
    else
      let s := onPlat { s with fabric := { s.fabric with slot0 := (turn + t / 8192) * 64, from_ := s.clock, scNext := (turn + t / 8192) * 64 } } (fun p => { p with joining := none })
      fire (hubField s brstat 3 3 1) 2
/-- A clock of the change to full service. -/
def serviceClock (s : State) : State := joinPod (if s.plat.hold == 0 then s else onPlat s (fun p => { p with hold := p.hold - 1 }))

/-! ### Units that fail (R434, R435) -/

/-- The tasks bound to the core or on their way to and from it, and those in the die's vault (R10, R383). -/
def coreTasks (s : State) : List (Nat × Nat) :=
  (s.core.task.toList ++ (s.dist.spill.toList.map Prod.fst ++ s.dist.restore.toList.map Prod.fst).filterMap (·.core.task)).map (fun t => (t.lnum, t.node))
def vaultTasks (s : State) : List (Nat × Nat) := (s.dist.vault.filterMap (·.core.task)).map (fun t => (t.lnum, t.node))
/-- Tasks recover as after `POISON_CONSUMED` (R402, R403, R435). -/
def recoverTasks (s : State) (ts : List (Nat × Nat)) : State :=
  ts.eraseDups.foldl (fun s t => recoverNode s t.1 t.2 .poisonConsumed) s

/-- The dirty sectors of a failed die's L2 reach HBM, poisoned where they cannot be read: which those are is a free value
(R435; DESIGN CHOICE, log entry 38). -/
def loseL2 (s : State) : State :=
  let lost := s.sys.l2Lines
  let s := lost.foldl (fun s l => (List.range 4).foldl (fun s j =>
    if l.dirty.getLsbD j then
      let readable := (Config.freeWord s.free).getLsbD 0
      let s := drawn s
      if readable then s else { s with sys := { s.sys with l2 := s.sys.l2.markSector (l.line * 4 + j) true } }
    else s) s) s
  lost.foldl (fun s l => if l.dirty == 0 then l2Flush s l.line else mscFlush (l2Flush s l.line) l.line) s

/-- The dirty sectors of some MSC lines reach HBM, poisoned where they cannot be read: which those are is a free
value (R435; DESIGN CHOICE, log entry 38). -/
def loseLines (s : State) (ls : List MscLine) : State :=
  ls.foldl (fun s l =>
    let readable := (Config.freeWord s.free).getLsbD 0
    let s := drawn s
    let secs := (List.range 4).map (fun j => l.line * 4 + j)
    let dirty := secs.filter (fun k => l.dirty.getLsbD (k % 4))
    let s := mscFlush s l.line
    if readable then s else { s with sys := { s.sys with hbm := dirty.foldl (fun m k => m.markSector k true) s.sys.hbm } }) s

/-- What happens to the work that a removed unit held (R435). -/
def removeWork (s : State) (kind id : Nat) : State :=
  if kind == 1 then
    let s := if id == 0 then loseL2 s else s
    let s := loseLines s (s.sys.mscLines.filter (fun l => homeSlice s (l.line * 128) / 16 == id))
    if id == 0 then recoverTasks s (coreTasks s ++ vaultTasks s) else s
  else if kind == 2 then (if id == 0 then recoverTasks s (coreTasks s) else s)
  else if kind == 3 then (if id == 0 then recoverTasks s (coreTasks s) else s)
  else if kind == 4 then onPlat s (fun p => { p with failed := p.failed ||| (1#12 <<< id) })
  else if kind == 5 then loseLines s (s.sys.mscLines.filter (fun l => homeSlice s (l.line * 128) == id))
  else s

/-- A failed comb or line (R293, R295, R435). -/
def removeLine (s : State) (id : Nat) : State :=
  if 3 ≤ id / 512 then s
  else if id % 128 == 127 then loseComb s (id / 512) (id / 128 % 4)
  else if id % 128 < 72 then loseLine s (id / 512) (id / 128 % 4) (id % 128) else s

/-- A failed unit is removed (R435). A failed stack keeps its addresses until reset. In training, too few stacks
halt the package (R429). -/
def removeUnit (s : State) (kind id : Nat) : State :=
  if kind == 6 then removeLine s id else
  let s := removeWork s kind id
  let s := if kind == 4 then s else { s with part := removePart s.part kind id }
  let s := noteRemoval s kind id
  if bringState s == 1 && decide (popCount 12 (s.part.hbmStacks &&& ~~~s.plat.failed).toNat < 4) then haltPackage s 4 else s

/-! ### Power and temperature (R436, R437) -/

/-- The sensors' readings in `PWRSTAT` (R424). -/
def readings (s : State) (power tdie thbm : Nat) : State :=
  hubField (hubField (hubField s 0x4009000120 31 16 power) 0x4009000120 15 8 tdie) 0x4009000120 7 0 thbm
def overLimits (s : State) (power tdie thbm : Nat) : Bool :=
  decide (min 2800 (bits (hubNat s 0x4009000120) 47 32) < power) || decide (100 < tdie) || decide (95 < thbm)

/-- The stacks above 85 °C: none unless the hottest is, else those of a free mask (R276; DESIGN CHOICE, log entry 125). -/
def hotNow (s : State) (thbm : Nat) : State :=
  if 85 < thbm then onPlat (drawn s) (fun p => { p with hot := Config.hotStacks s.free }) else onPlat s (fun p => { p with hot := 0 })
/-- New readings above a limit: the matrix arrays are limited, and vector 4 fires when that begins (R427, R436). -/
def beginLimiting (s : State) (power tdie thbm : Nat) : State :=
  let s := hotNow (readings s power tdie thbm) thbm
  if overLimits s power tdie thbm && !s.plat.limiting then fire (onPlat s (fun p => { p with limiting := true })) 4 else s
/-- New readings within the limits: limiting ends (R436). -/
def endLimiting (s : State) (power tdie thbm : Nat) : State :=
  let s := hotNow (readings s power tdie thbm) thbm
  if overLimits s power tdie thbm then s else onPlat s (fun p => { p with limiting := false })
/-- A die at 110 °C or a stack at 105 °C (R436). -/
def thermalHalt (s : State) (tdie thbm : Nat) : State :=
  let s := hubField (hubField s 0x4009000120 15 8 tdie) 0x4009000120 7 0 thbm
  if 110 ≤ tdie ∨ 105 ≤ thbm then haltPackage s 3 else s

/-! ### The security controller (R431, R432) -/

/-- The image that a `FWUPD` names, as host memory holds it. -/
def hostImage (s : State) (a : Nat) : List Byte :=
  let h := s.sys.host.read a 128
  h ++ s.sys.host.read (a + 128) (imgLength h)

/-- A firmware update ends (R431): vector 3. While the CXL link is down the image cannot be read (DESIGN CHOICE, log entry 128). -/
def firmwareEnd (s : State) : State :=
  match s.plat.fwAddr with
  | none => s
  | some a =>
    if linkDown s then s else
    let l := hostImage s a
    let old := hubNat s 0x4009000130
    let fin (s : State) (r : Nat) : State :=
      fire (onPlat (hubSet s 0x4009000130 (BitVec.ofNat 64 (setBits (setBits (hubNat s 0x4009000130) 2 1 r) 0 0 0))) (fun p => { p with fwAddr := none })) 3
    if !imageSigned l then fin s 2
    else if imgSecver l < minSecver s then fin s 3
    else
      let s := onPlat s (fun p => { p with banks := p.banks.set (1 - p.running) l })
      fin (hubSet s 0x4009000130 (BitVec.ofNat 64 (setBits old 47 32 (imgVersion l % 2 ^ 16)))) 1

/-- Exactly n bytes. -/
def bytesOf (n : Nat) (l : List Byte) : List Byte := (l ++ List.replicate n 0).take n

/-- The attestation report before its signature (R432). -/
def reportBytes (s : State) (nonce : List Byte) : List Byte :=
  let r := s.plat.record
  let img := (s.plat.banks[s.plat.running]?).getD []
  leBytes 8 1 ++ leBytes 8 (byteField r 8 8) ++ leBytes 8 (byteField r 2 1 + byteField r 0 2 % 256 * 256) ++ leBytes 8 (byteField r 0x2D8 8) ++
  leBytes 8 (imgVersion img) ++ bytesOf 48 (sha384 img) ++ bytesOf 48 (sha384 (r.take 0x348)) ++ bytesOf 48 nonce ++
  leBytes 8 s.plat.removal.length

/-- An attestation request ends (R432): vector 3. An access beyond the host's space, or while the CXL link is down, fails. -/
def attestEnd (s : State) : State :=
  match s.plat.attAddr with
  | none => s
  | some a =>
    let s := onPlat s (fun p => { p with attAddr := none })
    if linkDown s || decide (2 ^ 52 < a + 64 + 288) then fire (hubSet s 0x4009000140 2) 3
    else
      let m := reportBytes s (s.sys.host.read a 48)
      let sig := ecdsaSign (Config.privateKey (idKey s.plat.record)) m 4 (Config.signNonce s.free)
      let s := { drawn s with sys := { s.sys with host := s.sys.host.write (a + 64) (m ++ bytesOf 96 sig) } }
      fire (hubSet s 0x4009000140 0) 3

/-! ### The host's accesses (R423, R426) -/

/-- A completer abort. -/
def hostAbort (s : State) : State := onPlat s (fun p => { p with aborts := p.aborts + 1 })

/-- An access through BAR0 (R423): privileged, class 4, 64 bits; no answer while the link is down (R428). -/
def bar0 (s : State) (off : Nat) (store : Option Word) : State :=
  let a := 0x4000000000 + off
  if linkDown s then s
  else if a % 8 != 0 then hostAbort s
  else match ocCheck s { core := false, priv := true, req := { cls := 4 } } (a : Int) 8 store.isNone store.isSome with
  | .ok s (.hub a) =>
    (match store with
     | some v => hubStore s a v
     | none => let r := hubLoad s a; onPlat r.1 (fun p => { p with hostData := leBytes 8 r.2.toNat }))
  | _ => hostAbort s

/-- An accepted CXL.mem request is performed at the home MSC slice (R147, R426). -/
def hostPerform (s : State) (d n : Nat) (store : Option (List Byte)) : State :=
  match store with
  | some l => dpaWrite s d l false .engine {}
  | none => let r := dpaRead s d n {}; onPlat r.1 (fun p => { p with hostData := r.2.1 })
/-- A request's pages wait (R80, R129, R429). -/
def hostBlocked (s : State) (d n : Nat) (wr : Bool) : Bool := (runPages d n).any (fun p => dpaWaits s p.1 p.2 wr)
/-- The oldest request that waits is performed when it can be, whatever has become of `HDMCTL.EN` (R426, R429). -/
def hostRetry (s : State) : State :=
  match s.plat.hostWaits with
  | (d, n, store) :: rest => if hostBlocked s d n store.isSome then s else hostPerform (onPlat s (fun p => { p with hostWaits := rest })) d n store
  | [] => s

/-- A CXL.mem request (R426), as class 4: one that cannot be performed yet, or comes behind such a one, waits. -/
def hostMem (s : State) (off len : Nat) (store : Option (List Byte)) : State :=
  let base := bits (hubNat s 0x4009000100) 47 30 * 2 ^ 30
  let size := bits (hubNat s 0x4009000108) 47 30 * 2 ^ 30
  let n := match store with | some l => l.length | none => len
  if linkDown s then s
  else if !bit (hubNat s 0x4009000110) 0 || decide (size < off + n) || !((runPages (base + off) n).all (fun p => dpaPermits s p.1 p.2 { cls := 4 } store.isNone store.isSome)) then hostAbort s
  else if !s.plat.hostWaits.isEmpty || hostBlocked s (base + off) n store.isSome then onPlat s (fun p => { p with hostWaits := p.hostWaits ++ [(base + off, n, store)] })
  else hostPerform s (base + off) n store

/-- The host changes a line of its own memory (R139): what the controller held of it is gone. -/
def hostLine (s : State) (line : Nat) (data : List Byte) : State :=
  { s with sys := { s.sys with host := s.sys.host.write (line / 64 * 64) (data.take 64) } }

end Sys2Proof.Machine
end

