-- ==== Sys2Proof/Machine/Units.lean ====
section
/-!
DEFINITION. What the units other than the core do in a clock, each as one function of the state, and the clock that
performs them all (R11, R35, R91, R122, R195, R224, R237, R269, R281, R306, R322, R341, R374, R378).
-/
namespace Sys2Proof.Machine
open Sys2Proof

/-! ### The wheel -/

/-- Clock 0 of a slot (R281, R157): every lane is empty again, the seat reports of the slot before leave. -/
def slotBegin (s : State) : State :=
  if slotClock s != 0 then s else sendReports { s with fabric := { s.fabric with flits := [] } }
/-- A held pod-scope SC operation leaves at the start of a slot in which its core's seat falls (R157). -/
def seatSend (s : State) : State := if slotClock s == 0 then sendSc s else s
/-- A member whose report for the home's next slot is a turn late counts as reporting none (R158). -/
def seatTimeout (s : State) : State :=
  let n := s.fabric.scNext
  if s.clock < slotStartOf s (n + 1) + 64 * 128 then s
  else
    let missing := (podMembers s).filter (fun x => x != s.part.cx.val && !(s.fabric.reports.any (fun r => r.1 == n && r.2.1 == x)))
    discardSc { s with fabric := { s.fabric with reports := s.fabric.reports ++ missing.map (fun x => (n, (x, 0))) } } n missing
/-- Turn T − 2 begins (R296). -/
def lapseTurn (s : State) (dim : Nat) : State :=
  match (unitOf s dim).proposal with
  | some p => if slotClock s == 0 && decide ((p.turn - 2) * 64 ≤ absSlot s) then proposalLapse s dim else s
  | none => s
/-- Clock 0 of turn T (R296). -/
def installTurn (s : State) (dim : Nat) : State :=
  match (unitOf s dim).proposal with
  | some p => if slotClock s == 0 && decide (p.turn * 64 ≤ absSlot s) then installTable s dim else s
  | none => s
/-- The replay of one link whose oldest packet is one table period old (R288). -/
def linkTimeout (s : State) (dim plane peer : Nat) : State :=
  if s.fabric.unacked.any (fun u => !u.again && !u.quiet && u.dim == dim && u.plane == plane && u.peer == peer && decide (u.slot + planePorts s dim < absSlot s)) then
    replayLink s dim plane peer
  else s
/-- A drifted line not retuned within 50,000 ns is lost (R11, R292, R294). -/
def driftTimeout (s : State) (dim : Nat) : State :=
  (unitOf s dim).drifted.foldl (fun s p =>
    if nanoseconds s p.2 + 50000 ≤ nanoseconds s s.clock then loseLine s dim (p.1 / 128) (p.1 % 128) else s) s

/-- What the wheel and the lines bring on a clock. -/
def slotWork (s : State) : State :=
  let s := (List.range 3).foldl driftTimeout s
  if slotClock s == 64 then creditAcks s
  else if slotClock s != 0 then s
  else
    let s := (List.range 3).foldl (fun s d => installTurn (lapseTurn s d) d) s
    linkTimeouts (seatSend (slotBegin s))

/-! ### Posting (R244) -/

def fabPost (s : State) (n : Nat) : State :=
  let p := fabPort s n
  match p.post with
  | w :: r => if canPost s then pushCompletion (setFabPort s n { p with post := r }) w else s
  | [] => s
def replayPost (s : State) (n : Nat) : State :=
  match (replayOf s n).post with
  | w :: r => if canPost s then pushCompletion (onUnit s n (fun u => { u with post := r })) w else s
  | [] => s
/-- Every unit that waits to post a completion word posts it when the queue has room (R244). -/
def postWords (s : State) : State :=
  folioPost ((List.range 4).foldl replayPost ((List.range 8).foldl fabPost ((List.range 8).foldl rowPost ((List.range 64).foldl btePost s))))

/-! ### The core's engines -/

/-- The engines of a core that a debugger has halted stand still (R408). -/
def coreHalted (s : State) : Bool := match s.core.run with | .halted _ => true | _ => false
/-- So do those of every core while the package changes to full service (R430). -/
def enginesStand (s : State) : Bool := coreHalted s || s.plat.hold != 0

/-- The core's flips, row ports, Tether ports and replay units; of these only the combinations of the base dies go on while the core
is halted (R343, R408). -/
def engineClock (s : State) : State :=
  if enginesStand s then (if coreHalted s then (List.range 4).foldl replayMerges s else s)
  else
    let s := performFlips s
    let s := (s.rows.ports.map (·.1)).foldl rowClock s
    let s := (s.fabric.ports.map (·.1)).foldl fabClock s
    (List.range 4).foldl replayClock s

/-! ### Translations and ranges -/

/-- A started command holds a translation that `covers` takes in (R135). -/
def pagesHeld (s : State) (covers : Nat → HeldPage → Bool) : Bool :=
  let any (l : Nat) (ps : List HeldPage) : Bool := ps.any (fun p => covers l p)
  s.bte.chan.any (fun c => (c.2.active.map (fun a => any a.cmd.lnum a.pages)).getD false) ||
  s.rows.ports.any (fun p => p.2.queue.any (fun o => o.started && any o.lnum o.pages)) ||
  s.fabric.ports.any (fun p => (p.2.active.map (fun a => any a.cmd.lnum a.pages)).getD false) ||
  s.replay.toList.any (fun u => (u.inst.map (fun i => any i.play.lnum i.pages)).getD false || (u.reshelve.map (fun r => any r.lnum r.pages)).getD false)
/-- The pages that an `XLINV` names (R416): one page, those of a launch, all. -/
def invPage (r : InvReq) (lnum : Nat) (p : HeldPage) : Bool :=
  if r.kind == 0 then p.page * 4096 / p.size == r.val.toNat / p.size else if r.kind == 1 then lnum == bits r.val.toNat 15 0 else true
/-- `XLINV`s whose pages no started command holds are complete (R135, R416). -/
def invComplete (s : State) : State :=
  let now := s.core.inv.filter (fun r => !pagesHeld s (invPage r))
  let s := onCore s (fun c => { c with inv := c.inv.filter (fun r => !now.contains r) })
  now.foldl (fun s r => match r.id with | some id => supply s id r.count .clean 1 | none => s) s

/-- A `CWB` or `CINV` is complete (R140). -/
def rangeDone (s : State) : State := onCore s (fun c => { c with rangeBusy := false })

/-- A die walker's walk fills the core's translation (R134). -/
def walkDone (s : State) (va : Nat) : State :=
  (translate s (coreLnum s) (coreRoot s) va {} true).1

/-- The lines of one of the 128 sets of the instruction cache (R93). -/
def setLines (s : State) (line : Nat) : List Nat := s.sys.icache.filter (fun k => k % 128 == line % 128)
/-- A line of the 64 KiB, 4-way instruction cache is filled (R93); which line of a full set it replaces is the
implementation's choice (DESIGN CHOICE, log entry 20). -/
def lineFill (s : State) (addr : Nat) : State :=
  let line := addr / 128
  let old := setLines s line
  let put (s : State) (l : List Nat) : State := { s with sys := { s.sys with icache := insertKey line l } }
  if s.sys.icache.contains line || decide (old.length < 4) then put s s.sys.icache
  else put (drawn s) (s.sys.icache.filter (fun k => k != (old[Config.victim s.free % old.length]?).getD line))

/-! ### The vector unit -/

/-- A VX command has finished (R195): its results are written and its entry leaves the queue. -/
def vxDone (s : State) : State := dropQueue (writeDue s)

/-! ### The distributor -/

/-- The release of a barrier; the package's part of pod barriers stands still while its core is halted (R19, R408). -/
def barRelease (s : State) (lnum node : Nat) (c : Scope) (b : Fin 16) : State := if coreHalted s then s else releaseBar s lnum node c b
def podBarRelease (s : State) (lnum node : Nat) (b : Fin 16) : State := barRelease (podRelease s lnum node b) lnum node .pd b
def closeNow (s : State) (lnum node : Nat) : State := if s.dist.frozen then s else phaseCloseNow (podClose s lnum node) lnum node
/-- A node whose last phase is over retires (R372). -/
def retireNow (s : State) (lnum node : Nat) : State :=
  match nodeOf s lnum node with
  | some n => if retires n then retireNode s lnum node else s
  | none => s
/-- The barriers, phases and retirements of one node whose clocks have come. -/
def nodeClock (s : State) (lnum node : Nat) : State :=
  let bars := ((nodeOf s lnum node).map (·.bars)).getD []
  let s := bars.foldl (fun s b => if b.scope == .pd then podBarRelease (if s.dist.frozen then s else arriveEmpty s lnum node b.id) lnum node b.id else barRelease s lnum node b.scope b.id) s
  retireNow (if s.dist.frozen then s else exchangeEnd (closeNow s lnum node) lnum node) lnum node

/-- A task's age and the clocks of its remaining estimate (R381, R391, R394) run while it is bound to a core. -/
def ageTask (s : State) : State := onTask s (fun t => { t with age := t.age + 1, etaAge := t.etaAge + 1 })

/-- Nodes of resident launches that have become ready again after a replay begin (R372, R402). -/
def startWaiting (s : State) : State :=
  (s.dist.launches.filter (fun l => l.state == 1 && l.nodes.any (fun n => n.phase == .waiting && decide (n.npred ≤ n.signals)))).foldl
    (fun s l => startReady s l.lnum) s

/-- The distributor keeps the layers of a core without a task as it chooses: the B store collapsed, or while no launch is resident
LS and ACC too, as the rule allows; a layer that an engine uses does not sleep, and a collapsed layer holds nothing (R409, R420).
Where its choice falls is a free value (DESIGN CHOICE, log entry 126). -/
def distLayers (s : State) : State :=
  if s.core.run != .idle || s.core.task.isSome || !enginesIdle s then s
  else
    let w := (Config.layers s.free).toNat
    let b : Fin 4 := ⟨w % 4, Nat.mod_lt _ (by decide)⟩
    let l : Fin 4 := if w / 4 == 3 && s.dist.launches.any (fun l => l.state == 1) then 2 else ⟨w / 4 % 4, Nat.mod_lt _ (by decide)⟩
    let s := onCore (drawn s) (fun c => { c with lsLayer := l, bLayer := b })
    let s := if b == 3 then onCore s (fun c => { c with mx := { c.mx with panels := 0, panelPoison := 0, bstore := {} } }) else s
    if l == 3 then onCore { s with oc := s.oc.clear lsBase 0x200000 } (fun c => { c with lastLaunch := 0, mx := { c.mx with tilePoison := 0 } }) else s

/-- One clock of the distributor. -/
def distClock (s : State) : State :=
  let s := overflowReports (reportsDue (submitsDue s))
  let s := if s.clock % 64 == 0 then distLayers (reportFree s) else s
  if s.dist.launches.isEmpty then s
  else
    let s := startWaiting (ageLaunches (ageTask (sendNotices s)))
    let s := s.dist.launches.foldl (fun s l => if l.state == 1 then (List.range l.nodes.length).foldl (fun s k => nodeClock s l.lnum k) s else s) s
    let s := endRestore (endSpill s)
    if s.dist.selectDue || s.dist.lastSelect + 4096 ≤ s.clock || coreFree s then selectNow s else s

/-! ### The debug unit and the sensors -/

def mscDue (s : State) : State :=
  s.sys.slices.foldl (fun s p => mscGrowClock s p.1) s
def flushDue (s : State) : State := s.sys.flushing.foldl (fun s k => frFlushed s (k / 16) (k % 16)) s

/-! ### A clock -/

/-- The end of a clock, when the core has acted on it: the grants of the crossbar, and the channels, which use the banks that
the core has left free (R119, R122, R237). -/
def clockEnd (s : State) : State := if enginesStand s then grantQs s else bteAll (grantQs s)

/-- What the engines ask the crossbar for on the clock that begins, and the LS banks that the matrix unit uses on it. -/
def clockAsks (s : State) : State :=
  let asks := (if enginesStand s then [] else chanWants s ++ portWants s) ++ arrivalWants s ++ scWants s
  let banks := mxBanks s
  onVu s (fun u => { u with asks := asks, lsTaken := banks })

/-- One clock of everything but the core's issue (R11, R91). -/
def tick (s : State) : State :=
  let s := clockEnd s
  let s := serviceClock (bringUp { s with clock := s.clock + 1 })
  let s := vxDone (mxClock s)
  let s := engineClock (refreshTick (slotWork s))
  let s := sendPackets (receiveClock s)
  let s := scPerform (seatTimeout s)
  let s := folioTick s
  let s := walkRetry s (coreLnum s) (coreRoot s)
  let s := invComplete (hostComplete (rangeDone s))
  let s := rowAnswers (bwSettle (flushDue (mscDue (fillsDue (dbgReadDone s)))))
  let s := if s.plat.fwAddr.isSome then firmwareEnd s else s
  let s := hostRetry s
  let s := if s.plat.attAddr.isSome then attestEnd s else s
  clockAsks (keepSignals (distClock s))

end Sys2Proof.Machine
end

