-- ==== Sys2Proof/Machine/Events.lean ====
section
/-!
DEFINITION. The events of the part (the rows of the opcode table that carry no bits): each is one step of a unit or
of the world outside, whole and indivisible. Each does to the state what its rule says when its moment has come,
and leaves the state as it is when it has not.
-/
namespace Sys2Proof.Machine
open Sys2Proof

/-- An event always leaves a next state. -/
abbrev Stepped := Host.Outcome State Fault Refusal

/-! ### The core's results -/

def execExposedWriteLand (s : State) : Stepped := .next (landThrough s s.core.sched)
def execScoreboardResultWrite (s : State) : Stepped := .next (writeDue s)
def execQsBankGrant (s : State) : Stepped := .next (grantQs s)
def execVxCommandComplete (s : State) : Stepped := .next (vxDone s)
def execMatrixOpStart (array : Bool) (s : State) : Stepped := .next (mxStart s array)
def execMatrixOpComplete (array : Bool) (s : State) : Stepped := .next (mxComplete s array)
def execTranslationWalkComplete (va : CodeAddr) (s : State) : Stepped := .next (walkDone s va.toNat)
def execInstructionCacheFill (line : CodeAddr) (s : State) : Stepped := .next (lineFill s line.toNat)
def execCacheRangeComplete (s : State) : Stepped := .next (rangeDone s)
def execHostAccessComplete (s : State) : Stepped := .next (hostComplete s)

/-! ### Barriers and the wheel -/

def execBarrierRelease (lnum node : Nat) (c : Scope) (b : Fin 16) (s : State) : Stepped := .next (barRelease s lnum node c b)
def execPodBarrierRelease (lnum node : Nat) (b : Fin 16) (s : State) : Stepped := .next (podBarRelease s lnum node b)
def execSlotStart (s : State) : Stepped := .next (slotBegin s)
def execSeatSlotSend (s : State) : Stepped := .next (seatSend s)
def execPodScPerform (s : State) : Stepped := .next (scPerform s)
def execSeatReportTimeout (s : State) : Stepped := .next (seatTimeout s)

/-! ### Preemption, halts and sleep -/

/-- Between bundles, the core could issue next (R399, R401). -/
def atBoundary (s : State) : Bool := s.core.bundle.isEmpty && s.core.owed == 0
/-- The bundle before the boundary raised no `DEBUG_STEP`, which would be entered first (R401). -/
def boundaryFree (s : State) : Bool := atBoundary s && !s.core.stepped

/-- A preemption decision is taken with `IE` = 1, at a boundary or in a wait that R166 names; `BAR` is not cut
(R382, R385, R401). -/
def takePreempt (s : State) : State :=
  if s.core.preempt.isSome && s.core.sw.ie && s.core.run == .running && (boundaryFree s || (s.core.waiting.isSome && !inBar s)) then applyPreempt (if s.core.waiting.isSome then wakeCut s else s) else s
def execPreemptionTaken (s : State) : Stepped := .next (takePreempt s)

/-- A halt request is taken at a boundary, after a `DEBUG_STEP` that the bundle before it raised, or in a wait, which is
re-executed (R166, R401, R408). -/
def takeHalt (s : State) : State :=
  if !s.core.haltAsked || s.core.run != .running then s
  else if s.core.waiting.isSome then haltCore (wakeCut s) 0 s.core.pc true (trapIndex s.core) s.core.sched
  else if boundaryFree s then haltCore s 0 s.core.pc (boundaryPoint s.core).1 (boundaryPoint s.core).2 s.core.sched
  else s
def execHaltRequestTaken (s : State) : Stepped := .next (takeHalt s)

/-- The spill of a task whose preemption is by checkpoint begins once its waits are over, and ends 4,352 clocks later (R382,
R383). -/
def spillStep (s : State) : State :=
  if s.dist.spill.isSome then endSpill s
  else if s.core.sw.ie && boundaryFree s && checkpointDue s && spillReady s then beginSpill s else s
def execCheckpointSpill (s : State) : Stepped := .next (spillStep s)
/-- A checkpointed task is bound again, and resumes 4,352 clocks later (R383). -/
def restoreStep (s : State) : State :=
  if s.dist.restore.isSome then endRestore s
  else
    match (chosen s).bind (fun l => vaultTask s l.lnum) with
    | some i => if coreFree s then bindRestore s i else s
    | none => s
def execCheckpointRestore (s : State) : Stepped := .next (restoreStep s)

/-- A sleeping core wakes (R420): for a halt request or a preemption the `SLEEP` is not committed; otherwise it
commits. -/
def wakeStep (s : State) : State :=
  match (s.core.bundle[s.core.idx]?).bind decode with
  | some (.sleep a l) =>
    if s.core.waiting.isNone then s
    else if s.core.haltAsked then takeHalt s
    else if s.core.preempt.isSome && s.core.sw.ie then takePreempt s
    else settle s (sleepRun l (readX s a).toNat s)
  | _ => s
def execSleepWake (s : State) : Stepped := .next (wakeStep s)

/-! ### The memory system -/

/-- A grow of a slice's scratchpad (R129). -/
def growNow (s : State) (k n : Nat) : State := if (sliceGet s k).busy || n ≤ (sliceGet s k).cur then s else mscGrow s k n
/-- A shrink (R129). -/
def shrinkNow (s : State) (k n : Nat) : State := if (sliceGet s k).busy || (sliceGet s k).cur ≤ n then s else mscShrink s k n
def execMscpartGrow (slice : Fin 128) (ways : Fin 13) (s : State) : Stepped := .next (growNow s slice.val ways.val)
def execMscpartGrowComplete (slice : Fin 128) (s : State) : Stepped :=
  .next (if (sliceGet s slice.val).scan == 8191 && decide ((sliceGet s slice.val).leaves ≤ s.clock) then mscGrowDone s slice.val else s)
def execMscpartShrink (slice : Fin 128) (ways : Fin 13) (s : State) : Stepped := .next (shrinkNow s slice.val ways.val)
def execFormatRangeEnable (h : Fin 12) (n : Fin 16) (s : State) : Stepped := .next (if frEnabled s h.val n.val then s else frEnable s h.val n.val)
def execFormatRangeDisable (h : Fin 12) (n : Fin 16) (s : State) : Stepped := .next (if frEnabled s h.val n.val then frDisable s h.val n.val else s)
def execFormatRangeFlushDone (h : Fin 12) (n : Fin 16) (s : State) : Stepped :=
  .next (if s.sys.flushing.contains (16 * h.val + n.val) then frFlushed s h.val n.val else s)
def execCohctlWrite (v : Word) (s : State) : Stepped := .next (cohctlStore s v)
def execRebase (s : State) : Stepped := .next (rebaseNow s)
/-- Marking a batch (R132) orders the requests that wait at an HBM controller. Here every request is performed in
the step that makes it, so none waits, the batch is empty and nothing changes (DEDUCED, log entry 39). -/
def execHbmBatchMark (_ : Fin 12) (s : State) : Stepped := .next s
def execWalkerMovingRetry (s : State) : Stepped := .next (walkRetry s (coreLnum s) (coreRoot s))

/-! ### Engines -/

def execBteCommandStart (ch : Fin 64) (s : State) : Stepped := .next (bteStart s ch.val)
def execBteSectorTransfer (ch : Fin 64) (s : State) : Stepped := .next (bteSector s ch.val)
def execCompletionWordPost (s : State) : Stepped := .next (postWords s)
def execBteerrClear (v : Word) (s : State) : Stepped := .next (onCore s (fun c => { c with bteErr := c.bteErr &&& ~~~v }))
def execRingEnable (n : Fin 16) (v : Word) (s : State) : Stepped := .next (enableRing s n.val v)
def execRingDisable (n : Fin 16) (v : Word) (s : State) : Stepped := .next (disableRing s n.val v)
/-- The claim of a ring slot for a command's next sector (R254). -/
def ringClaim (s : State) (k : Nat) : State :=
  match (chanOf s k).active with
  | none => s
  | some a =>
    match claimFor s (template a.words) a with
    | some (s, a) => setChan s k { chanOf s k with active := some a }
    | none => s
def execRingSlotClaim (ch : Fin 64) (s : State) : Stepped := .next (ringClaim s ch.val)
def execOwncFlip (s : State) : Stepped := .next (performFlips s)
def execRowStep (port : Fin 8) (s : State) : Stepped := .next (rowStepNow s port.val)
def execBitwiseRegionEnable (h : Fin 12) (n : Fin 8) (s : State) : Stepped := .next (if bwOn s h.val n.val then bwStay s h.val n.val else bwEnable s h.val n.val)
def execBitwiseRegionDisable (h : Fin 12) (n : Fin 8) (s : State) : Stepped := .next (bwDisable s h.val n.val)
def execBankRefresh (h : Fin 12) (bank : Fin 512) (s : State) : Stepped := .next (refreshDue s h.val bank.val)
def execBankRefreshEnd (h : Fin 12) (bank : Fin 512) (s : State) : Stepped := .next (refreshEnd s h.val bank.val)

/-! ### The Tether fabric -/

/-- A command begins only on an idle port (R306). -/
def fabBegin (s : State) (n : Nat) : State := if (fabPort s n).active.isSome then s else fabStart s n
def execFabricCommandStart (port : Fin 8) (s : State) : Stepped := .next (fabBegin s port.val)
def execFabricPacketSend (s : State) : Stepped := .next (sendPackets s)
def execPacketReceive (dim : Fin 3) (plane peer : Fin 64) (header : Sector) (payload : List Sector) (s : State) : Stepped :=
  .next (receivePacket s dim.val plane.val peer.val header.toNat payload)
def execStreamPacketPerform (s : State) : Stepped := .next (performOne s)
def execAcknowledgementSend (dim : Fin 3) (plane peer : Fin 64) (s : State) : Stepped := .next (creditAck s dim.val plane.val peer.val)
def execLinkReplayTimeout (dim : Fin 3) (plane peer : Fin 64) (s : State) : Stepped := .next (linkTimeout s dim.val plane.val peer.val)
def execPacketRelay (s : State) : Stepped := .next (relayOne s)
/-- A command that is not complete `FTMO` turns after its acceptance (R306). -/
def fabTimeout (s : State) (n : Nat) : State :=
  match (fabPort s n).active with
  | some a => if fabLate s a then fabExpire s n a else s
  | none => s
def execFabricCommandTimeout (port : Fin 8) (s : State) : Stepped := .next (fabTimeout s port.val)
def execLineLost (dim : Fin 3) (comb : Fin 4) (line : Fin 72) (s : State) : Stepped := .next (loseLine s dim.val comb.val line.val)
def execLineDrift (dim : Fin 3) (comb : Fin 4) (line : Fin 72) (s : State) : Stepped := .next (driftLine s dim.val comb.val line.val)
def execLineRetuned (dim : Fin 3) (comb : Fin 4) (line : Fin 72) (s : State) : Stepped := .next (retuneLine s dim.val comb.val line.val)
def execCombLost (dim : Fin 3) (comb : Fin 4) (s : State) : Stepped := .next (loseComb s dim.val comb.val)
def execTableProposalLapse (dim : Fin 3) (s : State) : Stepped := .next (proposalLapse s dim.val)
def execTableInstalled (dim : Fin 3) (s : State) : Stepped := .next (installTable s dim.val)
def execTutblGo (dim : Fin 3) (v : Word) (s : State) : Stepped := .next (if bit v.toNat 0 then tutblStore s dim.val v else s)
def execTuevtRead (dim : Fin 3) (s : State) : Stepped := .next (takeEvent s dim.val).1
def execLinjctlWrite (dim : Fin 3) (v : Word) (s : State) : Stepped := .next (linjStore s dim.val v)

/-! ### Replay units -/

/-- Whether step `k` of a unit's image has one of the kinds. -/
def kindIs (s : State) (n k : Nat) (ks : List Nat) : Bool := ks.contains (stepKind (stepWord (replayOf s n).image k))
def execInstanceStart (unit : Fin 4) (s : State) : Stepped := .next (instStart s unit.val)
def execSendStep (unit : Fin 4) (step : Nat) (s : State) : Stepped := .next (if kindIs s unit.val step [0] then sendRun s unit.val step else s)
def execRecvStep (unit : Fin 4) (step : Nat) (s : State) : Stepped := .next (if kindIs s unit.val step [1] then recvRun s unit.val step else s)
def execCopyStep (unit : Fin 4) (step : Nat) (s : State) : Stepped := .next (if kindIs s unit.val step [2] then recvRun s unit.val step else s)
def execFinStep (unit : Fin 4) (step : Nat) (s : State) : Stepped := .next (if kindIs s unit.val step [3] then finRun s unit.val step else s)
def execNopStep (unit : Fin 4) (step : Nat) (s : State) : Stepped :=
  .next (if kindIs s unit.val step [0, 1, 2, 3] then s else nopRun s unit.val step)
def execLeadArrival (src : Fin 64) (addr : Word) (lead : Sector) (s : State) : Stepped :=
  .next ((leadArrives s src.val addr.toNat lead.toNat).getD s)
def execStepRelease (unit : Fin 4) (step : Nat) (s : State) : Stepped := .next (stepReleased (markReady s unit.val step) unit.val step)
def execRecvDataTimeout (unit : Fin 4) (step : Nat) (s : State) : Stepped := .next (recvTimeout s unit.val step)
def execSendStepTimeout (unit : Fin 4) (step : Nat) (s : State) : Stepped := .next (sendTimeout s unit.val step)
def execInstanceComplete (unit : Fin 4) (s : State) : Stepped := .next (instFinish s unit.val)
def execRiggingLoadComplete (unit : Fin 4) (s : State) : Stepped := .next (loadEnd s unit.val)
def execReshelveHistogramExchange (unit : Fin 4) (s : State) : Stepped := .next (reshStartMove (reshCount s unit.val) unit.val)
def execReshelveMove (unit : Fin 4) (s : State) : Stepped := .next (reshMoveDone s unit.val)
def execReshelveTimeout (unit : Fin 4) (s : State) : Stepped := .next (reshTimeout s unit.val)

/-! ### The folio store -/

def execFolioStoreEnable (s : State) : Stepped := .next (if folioOn s then s else folioEnable s)
def execFolioStoreDisable (s : State) : Stepped := .next (folioDisable s)
def execFolioEviction (s : State) : Stepped := .next (((evictOne s).map (·.1)).getD s)
/-- The first name of a storage by its place in the manager's list. -/
def storageName (s : State) (k : Nat) : Option Nat := (s.folios.folios[k]?).bind (fun f => f.names.head?.map (·.1))
def recallDone (s : State) (k : Nat) : State :=
  match s.folios.folios[k]?, storageName s k with
  | some f, some name => if f.state == 3 && decide (f.ready ≤ s.clock) then finishRecall s name else s
  | _, _ => s
def execFolioRecallComplete (storage : Nat) (s : State) : Stepped := .next (recallDone s storage)
/-- A name that shares its frame gets one of its own (R348). -/
def splitNow (s : State) (name : Nat) : State :=
  match folioNamed s name with
  | some f => if f.state == 1 && decide (1 < shareCount f) then (splitFolio s name (coreViewer s)).getD s else s
  | none => s
def execCopyOnWriteSplit (name : BitVec 48) (s : State) : Stepped := .next (splitNow s name.toNat)
/-- The pins that wait for a storage are looked at (R360). -/
def pinDeadline (s : State) (k : Nat) : State :=
  match s.folios.folios[k]? with
  | some f => (s.folios.waits.filter (fun w => f.names.any (fun p => p.1 == w.name))).foldl pinTick s
  | none => s
def execFopinDeadline (storage : Nat) (s : State) : Stepped := .next (pinDeadline s storage)
def execCxlLinkLoss (s : State) : Stepped := .next (hubField s fmBase 2 2 1)
def execCxlLinkReturn (s : State) : Stepped := .next (hubField s fmBase 2 2 0)

/-! ### The distributor -/

def execDdoorSubmit (v : Word) (s : State) : Stepped := .next (submitDoor s v)
/-- A peer's launch packet (R369): the launch's number names the package that accepted it. -/
def launchSender (s : State) (lnum : Nat) : Nat := podPkg s (lnum / 1024 % 64)
def execLaunchPacket (lnum : Nat) (descriptor : List Word) (s : State) : Stepped :=
  .next (peerLaunch s (launchSender s lnum) lnum (descriptor.map (·.toNat)))
def execComputePhaseStart (lnum node : Nat) (s : State) : Stepped := .next (phaseStart s lnum node)
def execFreeCoreReport (s : State) : Stepped := .next (reportFree s)
def execTicketDispatch (s : State) : Stepped := .next (dispatchNow s)
def execPhaseClose (lnum node : Nat) (s : State) : Stepped := .next (closeNow s lnum node)
def execExchangePhaseEnd (lnum node : Nat) (s : State) : Stepped := .next (exchangeEnd s lnum node)
def execNodeRetire (lnum node : Nat) (s : State) : Stepped := .next (retireNow s lnum node)
def execSelection (s : State) : Stepped := .next (selectNow s)
def execTokenAging (s : State) : Stepped := .next (ageLaunches s)

/-! ### The debug unit and the access tables -/

/-- A write of `DBGCTL` of which only one command bit counts (R407, R408). -/
def dbgCommand (v : Word) (b : Nat) : Word := (v &&& ~~~0x1C) ||| (1#64 <<< b)
def execDbgctlHalt (v : Word) (s : State) : Stepped := .next (dbgctlStore s (dbgCommand v 2))
def execDbgctlStep (v : Word) (s : State) : Stepped := .next (dbgctlStore s (dbgCommand v 4))
def execDbgctlRun (v : Word) (s : State) : Stepped := .next (dbgctlStore s (dbgCommand v 3))
def execDbgmaddrRead (v : Word) (s : State) : Stepped := .next (dbgRead s v)
def execDebugReadComplete (s : State) : Stepped := .next (dbgReadDone s)
def execAtctlWrite (target : Fin 161) (v : Word) (s : State) : Stepped := .next (atStore s (atBase target.val + 0x3C0) v)

/-! ### The host and the platform -/

def execHostBar0Access (off : BitVec 32) (store : Option Word) (s : State) : Stepped := .next (bar0 s off.toNat store)
def execHostMemRequest (off : BitVec 48) (len : Nat) (store : Option (List Byte)) (s : State) : Stepped := .next (hostMem s off.toNat len store)
def execHostWindowWrite (window : Fin 8) (reg : Fin 3) (v : Word) (s : State) : Stepped := .next (windowStore s window.val (8 * reg.val) v)
def execHdmEnable (_ : Word) (s : State) : Stepped := .next (if bit (hubNat s 0x4009000110) 0 then s else hdmOn s)
def execHdmDisable (_ : Word) (s : State) : Stepped := .next (hdmOff s)
def execRepreqClear (v : Word) (s : State) : Stepped := .next (if bit v.toNat 8 then clearRepreq s else s)
def execFirmwareUpdate (v : Word) (s : State) : Stepped := .next (firmwareStart s v)
def execFirmwareUpdateDone (s : State) : Stepped := .next (firmwareEnd s)
def execAttestationRequest (v : Word) (s : State) : Stepped := .next (attestStart s v)
def execAttestationDone (s : State) : Stepped := .next (attestEnd s)
def execReset (s : State) : Stepped := .next (resetPackage s)
def execHbmStackTrained (h : Fin 12) (s : State) : Stepped := .next (stackTrained s h.val)
def execFullServiceEntry (turn : Nat) (s : State) : Stepped := .next (enterFull s turn)
def execUnitRemoval (kind : Fin 7) (id : BitVec 16) (s : State) : Stepped := .next (removeUnit s kind.val id.toNat)
def execThermalLimit (power : BitVec 16) (tdie thbm : Byte) (s : State) : Stepped := .next (beginLimiting s power.toNat tdie.toNat thbm.toNat)
def execThermalTrip (tdie thbm : Byte) (s : State) : Stepped := .next (thermalHalt s tdie.toNat thbm.toNat)
def execInputUndervoltage (s : State) : Stepped := .next (haltPackage s 5)
/-- A store of the host or the microcontroller to a hub register (R4, R118). -/
def registerStore (s : State) (a : Nat) (v : Word) : State :=
  match windowAt a with
  | some (.hub a) => if a % 8 == 0 then hubStore s a v else s
  | _ => s
def execRegisterWrite (addr : BitVec 40) (v : Word) (s : State) : Stepped := .next (registerStore s addr.toNat v)
def execPowerLimitingEnd (power : BitVec 16) (tdie thbm : Byte) (s : State) : Stepped := .next (endLimiting s power.toNat tdie.toNat thbm.toNat)
def execCxlCacheSnoop (line : BitVec 52) (data : List Byte) (s : State) : Stepped := .next (hostLine s line.toNat data)

end Sys2Proof.Machine
end

