-- ==== Sys2Proof/Machine/Fetch.lean ====
section
/-!
DEFINITION. What the core does between two effects: taking the next input, the clocks it owes, bundle boundaries
(R115, R401, R408), fetching a bundle (R26, R93), checking it (R63), its drain clocks (R438) and its issue.
-/
namespace Sys2Proof.Machine
open Sys2Proof

/-! ### Fetching a bundle -/

/-- What fetching comes to: the syllables of a bundle and whether a stop bit closed it, a fault and the address that
failed, or a stall. -/
inductive Fetched where
  | bundle (s : State) (ws : List Syllable) (closed : Bool)
  | fault (s : State) (c : Cause) (va : CodeAddr)
  | stalled (s : State)

/-- The stop bit of a syllable (R26). -/
def stops (w : Syllable) : Bool := w.getLsbD 31

/-- The word of four bytes, lowest address first (R3, R26). -/
def wordOf (bs : List Byte) : Syllable := BitVec.ofNat 32 (leNat bs)

/-- One syllable at `va` (R93): its page must give the execute right; a line that the instruction cache lacks is
filled first, for a stall clock. -/
def fetchOne (s : State) (va : CodeAddr) : Acc Syllable :=
  (gmCheck s (va.toNat : Int) 4 { ex := true }).bind (fun s p =>
    if !s.sys.icache.contains (va.toNat / 128) then .wait (lineFill s va.toNat)
    else match p with
      | .gm runs => .ok (runs.foldl (fun s r => addCode s (coreLnum s) (r.1 / 4096)) s) (wordOf (runs.flatMap (fun r => (dpaRead s r.1 r.2 (coreViewer s)).2.1)))
      | _ => .wait s)

/-- Up to `fuel` further syllables from `va` on, until one carries the stop bit (R26, R28). -/
def fetchMore : (fuel : Nat) → State → CodeAddr → List Syllable → Fetched
  | 0, s, _, ws => .bundle s ws false
  | fuel + 1, s, va, ws =>
    match fetchOne s va with
    | .ok s w => if stops w then .bundle s (ws ++ [w]) true else fetchMore fuel s (va + 4) (ws ++ [w])
    | .fault s c _ _ => .fault s c va
    | .wait s => .stalled s

/-- The bundle at the program counter. -/
def fetch (s : State) : Fetched := fetchMore 8 s s.core.pc []

/-! ### Traps before issue -/

/-- A fetch that fails (R93): detail 0, `TRAPVAL` the address whose fetch failed. The fetch at `TRAPVEC` itself
aborts the launch with the cause of the trap it was to serve (R398). -/
def fetchFault (s : State) (c : Cause) (va : CodeAddr) : State :=
  if s.core.entering then abortCore s s.core.sw.cause.toNat else trapDecode s c 0 (va.setWidth 64)

/-- An `SRF` beyond the last syllable (R412); `TRAPVAL` has no syllable to name: a free value (DESIGN CHOICE, log entry 22). -/
def resumeFault (s : State) (k : Nat) : State := trapDecode (drawn s) .illegalBundle k (Config.freeWord s.free)

/-- A fault found at decode, at syllable `k` (R63, R396). -/
def decodeFault (s : State) (c : Cause) (k : Nat) (w : Syllable) : State := trapDecode s c k (w.setWidth 64)

/-! ### Clocks -/

/-- A clock of the schedule on which nothing issues: the clock between two bundles, a bubble or a drain clock
(R91, R92, R438). -/
def scheduleClock (s : State) : State :=
  let s := onCore s (fun c => { c with sched := c.sched + 1, owed := c.owed - 1 })
  tick (landThrough s s.core.sched)

/-- A stall clock (R91). -/
def stallClock (s : State) : State := tick (onCore s (fun c => { c with held := c.held - 1 }))

/-- The drain clocks that bring every exposed result home (R438). -/
def drainSpan (c : Core) : Nat := (c.exposed.map (fun l => l.due - c.sched)).foldl max 0

/-! ### The front end -/

/-- What a step does: it passes to a state, runs one instruction, or stops. -/
inductive Front where
  | pass (s : State)
  | run (s : State) (i : Instr)
  | stop (f : Fault)

/-- Whether the outside world may act now: no bundle is between two of its syllables. -/
def open_ (s : State) : Bool := s.core.bundle.isEmpty || decide (0 < s.core.held)

/-- The syllables that are left of a decoded bundle from index `k` on. -/
def restFrom (d : Decoded) (k : Nat) : Decoded := d.filter (fun e => decide (k ≤ e.1))

/-- The control registers that the `CSRR`s and `CSRW`s of a bundle name, as they stand (R413). -/
def csrsNamed (s : State) (d : Decoded) : List (Nat × Word) :=
  d.filterMap (fun e => match e.2.2 with
    | .csrr _ n => some (n.toNat, csrRead s n.toNat)
    | .csrw _ n => some (n.toNat, csrRead s n.toNat)
    | _ => none)

/-- A fetched bundle issues: with the control registers it names as they stand, or, where it is the remainder of a split
bundle, as they stood when that issued (R37, R413). -/
def issueBundle (s : State) (ws : List Syllable) (d : Decoded) (start : Nat) : State :=
  let t := issue s ws d start
  if s.core.resume.isNone then onCore t (fun c => { c with csrAt := csrsNamed s d }) else t

/-- A bundle about to issue is preceded by drain clocks (R438): the remainder of a split bundle, which they preceded, is
not. -/
def drains (s : State) (d : Decoded) : Bool :=
  s.core.resume.isNone && d.any (fun e => needsDrain e.2.2) && decide (0 < drainSpan s.core)

/-- A checked bundle drains, waits or issues (R41, R91, R412, R438). -/
def issueOrWait (s : State) (ws : List Syllable) : Front :=
  let d := decodeAll ws
  let k := s.core.resume.getD 0
  let r := restFrom d k
  if drains s r then .pass (onCore s (fun c => { c with owed := drainSpan c }))
  else if blocked s r then .pass (stall s)
  else
    match r with
    | e :: _ => .run (issueBundle s ws r k) e.2.2
    | [] => .pass (stall s)

/-- The checks of a fetched bundle (R63). What an operand word names is looked at when the word is there: when a queue gives
it, and when the drain clocks have brought it home (R232, R438); an `SRF` beyond the last syllable is an illegal bundle
(R412). -/
def checkFetched (s : State) (ws : List Syllable) (closed : Bool) : Front :=
  let k := s.core.resume.getD 0
  match checkEach (if s.core.resume.isSome then s.core.privAt else s.core.sw.priv) 0 ws with
  | some (n, w, c) => .pass (decodeFault s c n w)
  | none =>
    let d := decodeAll ws
    match checkBundle (foresee s (restFrom d k)) d closed (!drains s (restFrom d k)) with
    | some n => .pass (decodeFault s .illegalBundle n ((ws[n]?).getD 0))
    | none => if ws.length ≤ k then .pass (resumeFault s k) else issueOrWait s ws

/-- The next bundle is fetched and checked. -/
def nextBundle (s : State) : Front :=
  match fetch s with
  | .stalled s => .pass (stall s)
  | .fault s c va => .pass (fetchFault s c va)
  | .bundle s ws closed => checkFetched s ws closed

/-- A step over a bundle is complete (R43, R115, R408). -/
def stepOver (s : State) : State :=
  let p := boundaryPoint s.core
  if s.core.stepOnce then haltCore s 4 s.core.pc p.1 p.2 s.core.sched
  else takeTrap s .debugStep 0 0 s.core.pc p.1 p.2 s.core.sched

/-- A bundle boundary: a step that is complete, a halt request, a preemption, else the next bundle (R401). -/
def boundary (s : State) : Front :=
  if s.core.stepped then .pass (stepOver s)
  else if s.core.haltAsked then .pass (takeHalt s)
  else if s.core.preempt.isSome && s.core.sw.ie then
    let t := takePreempt s
    .pass (if t.core.preempt.isSome then tick t else t)
  else nextBundle s

/-- The bundle in flight goes on with its next syllable; a wait ends for a halt request or a preemption (R166). -/
def goOn (s : State) : Front :=
  if s.core.waiting.isSome && s.core.haltAsked then .pass (takeHalt s)
  else if s.core.waiting.isSome && s.core.preempt.isSome && s.core.sw.ie && !inBar s then
    let t := takePreempt s
    .pass (if t.core.preempt.isSome then tick t else t)
  else
    match (s.core.bundle[s.core.idx]?).bind decode with
    | some i => .run s i
    | none => .pass (decodeFault s .illegalEncoding s.core.idx ((s.core.bundle[s.core.idx]?).getD 0))

/-- `RESET` (R428). -/
def isReset : Instr → Bool
  | .reset => true
  | _ => false

/-- What the next step does. A package in state 4 performs nothing and answers nothing but `RESET` (R428, R436, R437; DESIGN CHOICE,
DESIGN CHOICE, log entry 128). -/
def front (s : State) : Front :=
  match s.inputs with
  | i :: r =>
    if bringState s == 4 && !isReset i then .pass { s with inputs := r }
    else if open_ s then (if isSyllable i then .pass { s with inputs := r } else .run { s with inputs := r } i)
    else goOn s
  | [] =>
    if bringState s == 4 then .stop .packageHalted
    else if 0 < s.core.held then .pass (stallClock s)
    else if s.core.run != .running then .pass (tick s)
    else if !s.core.bundle.isEmpty then goOn s
    else if 0 < s.plat.hold then .pass (stall s)
    else if 0 < s.core.owed then .pass (scheduleClock s)
    else boundary s

/-! ### Placing an instruction where the next step fetches it -/

/-- `ADDI x0, x0, 0`, which an LX may stand before, with the stop bit (R30). -/
def closer : Syllable := ((encode true (.addi 0 0 0)).getD 0)

/-- The word of an instruction with the stop bit, so that it closes its bundle. -/
def stopped (w : Nat) : Syllable := BitVec.ofNat 32 (w % 2 ^ 31 + 2 ^ 31)

/-- The bundle that holds an instruction word where the manual lets it stand: an LX before a syllable that takes it
(R30), an `ENV` behind its LX (R414), any other word alone; and the index of the word in it. -/
def bundleFor (w : Nat) : List Syllable × Nat :=
  match decode (BitVec.ofNat 32 w) with
  | some (.lx _) => ([BitVec.ofNat 32 (w % 2 ^ 31), closer], 0)
  | some (.env _) => ([(encode false (.lx 0)).getD 0, stopped w], 1)
  | _ => ([stopped w], 0)

/-- The bytes of a bundle as the hardware stores them (R3). -/
def bundleBytes (ws : List Syllable) : List Byte := ws.flatMap (fun w => leBytes 4 w.toNat)

/-- A launch of one node whose only tile task is bound to the core, on a package in reduced service: what a fetch
needs of the distributor (R375, R428). -/
def residentTask (s : State) : State :=
  let l : Launch := { lnum := 1, state := 1, order := 1, priv := true, bound := true, nodes := [{ phase := .compute, working := 1, npred := 0 }] }
  hubField (hubField { s with
    dist := { s.dist with launches := [l], accepts := 1, wheelFrom := some s.clock }
    plat := { s.plat with trained := s.part.hbmStacks }
    core := { s.core with task := some { lnum := 1, node := 0, ticket := 0 }, run := .running, lastLaunch := 1 } } brstat 7 4 (popCount 12 s.part.hbmStacks.toNat)) brstat 2 0 2

/-- The code of a bundle at device address 0, mapped execute-only at the program counter's page, held by the core's
translations and its instruction cache. -/
def placeBytes (s : State) (bs : List Byte) : State :=
  let va := s.core.pc.toNat
  { s with sys := { s.sys with
      hbm := s.sys.hbm.write (va % 4096) bs, msc := {}, mscLines := [], l2 := {}, l2Lines := [], staged := [], walk := none
      tlb := [⟨va / 4096 * 4096, 4096, 1, 0, 4#4⟩], icache := [va / 128] } }

/-- A bundle boundary at which nothing is owed, asked for or in flight. -/
def atRest (s : State) : State :=
  { onCore s (fun c => { c with
      bundle := [], idx := 0, lx := none, waiting := none, resume := none, owed := 0, held := 0, stepped := false, stepOnce := false
      haltAsked := false, preempt := none, entering := false, target := none, pops := [], pushes := []
      sw := { c.sw with priv := true } }) with inputs := [] }

end Sys2Proof.Machine
end

