-- ==== Sys2Proof/Machine/Scalar.lean ====
section
/-!
DEFINITION. The SA, SI and LX syllables (R97 to R108).
-/
namespace Sys2Proof.Machine
open Sys2Proof

/-- A one-clock scalar result (R36, R95). -/
def alu (i : Instr) (d : XReg) (s : State) (f : State → Word) : Host.Outcome State Fault Refusal :=
  syl i s (fun s => guardPush s d (.done (exposeX s 1 d (f s))))

/-- A one-clock predicate result (R94). -/
def pred (i : Instr) (p : PReg) (s : State) (f : State → Bool) : Host.Outcome State Fault Refusal :=
  syl i s (fun s => .done (expose s 1 (.p p) (b2n (f s))))

def execNop (s : State) := syl .nop s .done

/-! ### R99 -/
def execAdd (g : Guard) (d a b : XReg) (s : State) := alu (.add g d a b) d s (fun s => readX s a + readX s b)
def execSub (g : Guard) (d a b : XReg) (s : State) := alu (.sub g d a b) d s (fun s => readX s a - readX s b)
def execAnd (g : Guard) (d a b : XReg) (s : State) := alu (.and g d a b) d s (fun s => readX s a &&& readX s b)
def execOr (g : Guard) (d a b : XReg) (s : State) := alu (.or g d a b) d s (fun s => readX s a ||| readX s b)
def execXor (g : Guard) (d a b : XReg) (s : State) := alu (.xor g d a b) d s (fun s => readX s a ^^^ readX s b)
def execAndn (g : Guard) (d a b : XReg) (s : State) := alu (.andn g d a b) d s (fun s => readX s a &&& ~~~(readX s b))

/-- Shift amounts are B[5:0] (R99). -/
def shamt (b : Word) : Nat := b.toNat % 64

def execSll (g : Guard) (d a b : XReg) (s : State) := alu (.sll g d a b) d s (fun s => readX s a <<< shamt (readX s b))
def execSrl (g : Guard) (d a b : XReg) (s : State) := alu (.srl g d a b) d s (fun s => readX s a >>> shamt (readX s b))
def execSra (g : Guard) (d a b : XReg) (s : State) := alu (.sra g d a b) d s (fun s => (readX s a).sshiftRight (shamt (readX s b)))
def execRol (g : Guard) (d a b : XReg) (s : State) := alu (.rol g d a b) d s (fun s => (readX s a).rotateLeft (shamt (readX s b)))
def execMin (g : Guard) (d a b : XReg) (s : State) :=
  alu (.min g d a b) d s (fun s => if (readX s a).toInt ≤ (readX s b).toInt then readX s a else readX s b)
def execMax (g : Guard) (d a b : XReg) (s : State) :=
  alu (.max g d a b) d s (fun s => if (readX s a).toInt ≤ (readX s b).toInt then readX s b else readX s a)
def execMinw (g : Guard) (d a b : XReg) (s : State) :=
  alu (.minw g d a b) d s (fun s => if (readX s a).toNat ≤ (readX s b).toNat then readX s a else readX s b)
def execMaxw (g : Guard) (d a b : XReg) (s : State) :=
  alu (.maxw g d a b) d s (fun s => if (readX s a).toNat ≤ (readX s b).toNat then readX s b else readX s a)

/-! ### R100 -/

/-- A three-clock product (R100). Two multiplies of one bundle both issue, with latency 3 (DESIGN CHOICE, log entry 93). -/
def mulRes (i : Instr) (d : XReg) (s : State) (f : State → Word) : Host.Outcome State Fault Refusal :=
  syl i s (fun s => guardPush s d (.done (exposeX s 3 d (f s))))

def execMul (g : Guard) (d a b : XReg) (s : State) := mulRes (.mul g d a b) d s (fun s => readX s a * readX s b)
def execMulh (g : Guard) (d a b : XReg) (s : State) :=
  mulRes (.mulh g d a b) d s (fun s => BitVec.ofInt 64 ((readX s a).toInt * (readX s b).toInt / 2 ^ 64))
def execMulhw (g : Guard) (d a b : XReg) (s : State) :=
  mulRes (.mulhw g d a b) d s (fun s => BitVec.ofNat 64 ((readX s a).toNat * (readX s b).toNat / 2 ^ 64))

/-! ### R101 -/

/-- Quotient and remainder of R101, rounding towards zero. -/
def divide (signed : Bool) (a b : Word) : Word × Word :=
  if b = 0 then (0xFFFFFFFFFFFFFFFF, a)
  else if signed then (BitVec.ofInt 64 (a.toInt.tdiv b.toInt), BitVec.ofInt 64 (a.toInt.tmod b.toInt))
  else (BitVec.ofNat 64 (a.toNat / b.toNat), BitVec.ofNat 64 (a.toNat % b.toNat))

/-- The clocks a division takes (R101). -/
def divClocks (signed : Bool) (a b : Word) : Nat :=
  let m := if signed then a.toInt.natAbs else a.toNat
  if b = 0 ∨ m < 2 ^ 16 then 12 else if m < 2 ^ 40 then 24 else 40

/-- A division on the unpipelined divider: its result is pending (R101). The second division of one bundle waits at its
own place until the first has written its result (DEDUCED, log entry 92). -/
def divRes (i : Instr) (d a b : XReg) (signed rem : Bool) (s : State) : Host.Outcome State Fault Refusal :=
  syl i s (fun s => if s.clock < s.core.divBusy then .wait s else guardPush s d (
    let x := readX s a
    let y := readX s b
    let n := divClocks signed x y
    let r := divide signed x y
    let s := onCore s (fun c => { c with divBusy := s.clock + n })
    .done (pendX s d (if rem then r.2 else r.1) .clean n)))

def execDiv (g : Guard) (d a b : XReg) (s : State) := divRes (.div g d a b) d a b true false s
def execDivw (g : Guard) (d a b : XReg) (s : State) := divRes (.divw g d a b) d a b false false s
def execRem (g : Guard) (d a b : XReg) (s : State) := divRes (.rem g d a b) d a b true true s
def execRemw (g : Guard) (d a b : XReg) (s : State) := divRes (.remw g d a b) d a b false true s

/-! ### R102 -/
def execClz (g : Guard) (d a : XReg) (s : State) := alu (.clz g d a) d s (fun s => BitVec.ofNat 64 (leadingZeros 64 (readX s a).toNat))
def execCtz (g : Guard) (d a : XReg) (s : State) := alu (.ctz g d a) d s (fun s => BitVec.ofNat 64 (trailingZeros 64 (readX s a).toNat))
def execPopc (g : Guard) (d a : XReg) (s : State) := alu (.popc g d a) d s (fun s => BitVec.ofNat 64 (popCount 64 (readX s a).toNat))

/-- The position, length and signedness of a field descriptor (R102). -/
def fieldPos (b : Word) : Nat := bits b.toNat 5 0
def fieldLen (b : Word) : Nat := if bits b.toNat 13 8 == 0 then 64 else bits b.toNat 13 8

/-- `BFX` (R102). -/
def extractField (a b : Word) : Word :=
  let f := (a.toNat >>> fieldPos b) % 2 ^ fieldLen b
  if bit b.toNat 16 then BitVec.ofInt 64 (sext f (fieldLen b)) else BitVec.ofNat 64 f
/-- `BFI` (R102). -/
def insertField (d a b : Word) : Word :=
  let mask : Word := BitVec.ofNat 64 ((2 ^ fieldLen b - 1) <<< fieldPos b)
  (d &&& ~~~mask) ||| ((a <<< fieldPos b) &&& mask)

def execBfx (g : Guard) (d a b : XReg) (s : State) := alu (.bfx g d a b) d s (fun s => extractField (readX s a) (readX s b))
def execBfi (g : Guard) (d a b : XReg) (s : State) :=
  alu (.bfi g d a b) d s (fun s => insertField (readX s d) (readX s a) (readX s b))

/-! ### R103 to R106 -/
def execSel (g : Guard) (d a b : XReg) (s : State) :=
  alu (.sel g d a b) d s (fun s => if holds s.core g then readX s a else readX s b)

def execPcmpEq (g : Guard) (p : PReg) (a b : XReg) (s : State) := pred (.pcmpEq g p a b) p s (fun s => readX s a == readX s b)
def execPcmpNe (g : Guard) (p : PReg) (a b : XReg) (s : State) := pred (.pcmpNe g p a b) p s (fun s => readX s a != readX s b)
def execPcmpLt (g : Guard) (p : PReg) (a b : XReg) (s : State) := pred (.pcmpLt g p a b) p s (fun s => (readX s a).slt (readX s b))
def execPcmpGe (g : Guard) (p : PReg) (a b : XReg) (s : State) := pred (.pcmpGe g p a b) p s (fun s => !(readX s a).slt (readX s b))
def execPcmpLtw (g : Guard) (p : PReg) (a b : XReg) (s : State) := pred (.pcmpLtw g p a b) p s (fun s => (readX s a).ult (readX s b))
def execPcmpGew (g : Guard) (p : PReg) (a b : XReg) (s : State) := pred (.pcmpGew g p a b) p s (fun s => !(readX s a).ult (readX s b))

def execPand (g : Guard) (d a b : PReg) (s : State) := pred (.pand g d a b) d s (fun s => getP s.core a && getP s.core b)
def execPor (g : Guard) (d a b : PReg) (s : State) := pred (.por g d a b) d s (fun s => getP s.core a || getP s.core b)
def execPxor (g : Guard) (d a b : PReg) (s : State) := pred (.pxor g d a b) d s (fun s => getP s.core a ^^ getP s.core b)
def execPnot (g : Guard) (d a : PReg) (s : State) := pred (.pnot g d a) d s (fun s => !getP s.core a)

def execQcount (g : Guard) (d : XReg) (a : Fin 4) (s : State) := alu (.qcount g d a) d s (fun s => s.core.counts[a])

/-! ### R107 -/

/-- The immediate I of an SI syllable, as a 64-bit word (R107). -/
def immI (s : State) (i : BitVec 12) : Word := BitVec.ofInt 64 (immOf s.core 12 i.toNat)

def execAddi (d a : XReg) (i : BitVec 12) (s : State) := alu (.addi d a i) d s (fun s => readX s a + immI s i)
def execAndi (d a : XReg) (i : BitVec 12) (s : State) := alu (.andi d a i) d s (fun s => readX s a &&& immI s i)
def execOri (d a : XReg) (i : BitVec 12) (s : State) := alu (.ori d a i) d s (fun s => readX s a ||| immI s i)
def execXori (d a : XReg) (i : BitVec 12) (s : State) := alu (.xori d a i) d s (fun s => readX s a ^^^ immI s i)
def execSlli (d a : XReg) (h : BitVec 6) (s : State) := alu (.slli d a h) d s (fun s => readX s a <<< h.toNat)
def execSrli (d a : XReg) (h : BitVec 6) (s : State) := alu (.srli d a h) d s (fun s => readX s a >>> h.toNat)
def execSrai (d a : XReg) (h : BitVec 6) (s : State) := alu (.srai d a h) d s (fun s => (readX s a).sshiftRight h.toNat)
def execMovi (d : XReg) (i : BitVec 12) (s : State) := alu (.movi d i) d s (fun s => immI s i)
def execPcmpiEq (p : PReg) (a : XReg) (i : BitVec 12) (s : State) := pred (.pcmpiEq p a i) p s (fun s => readX s a == immI s i)
def execPcmpiNe (p : PReg) (a : XReg) (i : BitVec 12) (s : State) := pred (.pcmpiNe p a i) p s (fun s => readX s a != immI s i)
def execPcmpiLt (p : PReg) (a : XReg) (i : BitVec 12) (s : State) := pred (.pcmpiLt p a i) p s (fun s => (readX s a).slt (immI s i))
def execPcmpiGe (p : PReg) (a : XReg) (i : BitVec 12) (s : State) := pred (.pcmpiGe p a i) p s (fun s => !(readX s a).slt (immI s i))
def execPcmpiLtw (p : PReg) (a : XReg) (i : BitVec 12) (s : State) := pred (.pcmpiLtw p a i) p s (fun s => (readX s a).ult (immI s i))
def execPcmpiGew (p : PReg) (a : XReg) (i : BitVec 12) (s : State) := pred (.pcmpiGew p a i) p s (fun s => !(readX s a).ult (immI s i))

/-! ### R108 -/

/-- An LX holds its bits for the next syllable and commits together with it (R44, R108); one that no
syllable of its bundle follows makes the bundle illegal (R30). -/
def execLx (u : BitVec 27) (s : State) : Host.Outcome State Fault Refusal :=
  match ready (.lx u) s with
  | none => .next (stall s)
  | some t =>
    if envelopeFull t (.lx u) then .next (trapHere t .envelopeMismatch 1 (envVal t.core))
    else if t.core.idx + 1 < t.core.bundle.length then
      .next (onCore t (fun c => { c with lx := some u, idx := c.idx + 1, waiting := none }))
    else .next (trapDecode t .illegalBundle t.core.idx (wordHere t.core))

end Sys2Proof.Machine
end

