-- ==== Sys2Proof/Machine/Dispatch.lean ====
section
/-!
DEFINITION. What every instruction and every step of the part does: one arm per constructor, each one call of the
meaning that the machine's files give it.
-/
namespace Sys2Proof.Machine

def exec (i : Instr) (s : State) : Host.Outcome State Fault Refusal :=
  match i with
  | .nop => Sys2Proof.Machine.execNop s
  | .add g d a b => Sys2Proof.Machine.execAdd g d a b s
  | .sub g d a b => Sys2Proof.Machine.execSub g d a b s
  | .and g d a b => Sys2Proof.Machine.execAnd g d a b s
  | .or g d a b => Sys2Proof.Machine.execOr g d a b s
  | .xor g d a b => Sys2Proof.Machine.execXor g d a b s
  | .andn g d a b => Sys2Proof.Machine.execAndn g d a b s
  | .sll g d a b => Sys2Proof.Machine.execSll g d a b s
  | .srl g d a b => Sys2Proof.Machine.execSrl g d a b s
  | .sra g d a b => Sys2Proof.Machine.execSra g d a b s
  | .rol g d a b => Sys2Proof.Machine.execRol g d a b s
  | .mul g d a b => Sys2Proof.Machine.execMul g d a b s
  | .mulh g d a b => Sys2Proof.Machine.execMulh g d a b s
  | .mulhw g d a b => Sys2Proof.Machine.execMulhw g d a b s
  | .div g d a b => Sys2Proof.Machine.execDiv g d a b s
  | .divw g d a b => Sys2Proof.Machine.execDivw g d a b s
  | .rem g d a b => Sys2Proof.Machine.execRem g d a b s
  | .remw g d a b => Sys2Proof.Machine.execRemw g d a b s
  | .min g d a b => Sys2Proof.Machine.execMin g d a b s
  | .max g d a b => Sys2Proof.Machine.execMax g d a b s
  | .minw g d a b => Sys2Proof.Machine.execMinw g d a b s
  | .maxw g d a b => Sys2Proof.Machine.execMaxw g d a b s
  | .clz g d a => Sys2Proof.Machine.execClz g d a s
  | .ctz g d a => Sys2Proof.Machine.execCtz g d a s
  | .popc g d a => Sys2Proof.Machine.execPopc g d a s
  | .bfx g d a b => Sys2Proof.Machine.execBfx g d a b s
  | .bfi g d a b => Sys2Proof.Machine.execBfi g d a b s
  | .sel g d a b => Sys2Proof.Machine.execSel g d a b s
  | .pcmpEq g p a b => Sys2Proof.Machine.execPcmpEq g p a b s
  | .pcmpNe g p a b => Sys2Proof.Machine.execPcmpNe g p a b s
  | .pcmpLt g p a b => Sys2Proof.Machine.execPcmpLt g p a b s
  | .pcmpGe g p a b => Sys2Proof.Machine.execPcmpGe g p a b s
  | .pcmpLtw g p a b => Sys2Proof.Machine.execPcmpLtw g p a b s
  | .pcmpGew g p a b => Sys2Proof.Machine.execPcmpGew g p a b s
  | .pand g d a b => Sys2Proof.Machine.execPand g d a b s
  | .por g d a b => Sys2Proof.Machine.execPor g d a b s
  | .pxor g d a b => Sys2Proof.Machine.execPxor g d a b s
  | .pnot g d a => Sys2Proof.Machine.execPnot g d a s
  | .qcount g d a => Sys2Proof.Machine.execQcount g d a s
  | .addi d a imm => Sys2Proof.Machine.execAddi d a imm s
  | .andi d a imm => Sys2Proof.Machine.execAndi d a imm s
  | .ori d a imm => Sys2Proof.Machine.execOri d a imm s
  | .xori d a imm => Sys2Proof.Machine.execXori d a imm s
  | .slli d a h => Sys2Proof.Machine.execSlli d a h s
  | .srli d a h => Sys2Proof.Machine.execSrli d a h s
  | .srai d a h => Sys2Proof.Machine.execSrai d a h s
  | .movi d imm => Sys2Proof.Machine.execMovi d imm s
  | .pcmpiEq p a imm => Sys2Proof.Machine.execPcmpiEq p a imm s
  | .pcmpiNe p a imm => Sys2Proof.Machine.execPcmpiNe p a imm s
  | .pcmpiLt p a imm => Sys2Proof.Machine.execPcmpiLt p a imm s
  | .pcmpiGe p a imm => Sys2Proof.Machine.execPcmpiGe p a imm s
  | .pcmpiLtw p a imm => Sys2Proof.Machine.execPcmpiLtw p a imm s
  | .pcmpiGew p a imm => Sys2Proof.Machine.execPcmpiGew p a imm s
  | .lx u => Sys2Proof.Machine.execLx u s
  | .j g o => Sys2Proof.Machine.execJ g o s
  | .call g o => Sys2Proof.Machine.execCall g o s
  | .jr g a => Sys2Proof.Machine.execJr g a s
  | .ret g => Sys2Proof.Machine.execRet g s
  | .loop g c o => Sys2Proof.Machine.execLoop g c o s
  | .ldl z d b o => Sys2Proof.Machine.execLdl z d b o s
  | .ldq z d b o => Sys2Proof.Machine.execLdq z d b o s
  | .ldo z d b o => Sys2Proof.Machine.execLdo z d b o s
  | .ldg z d b o => Sys2Proof.Machine.execLdg z d b o s
  | .ldf z d b o => Sys2Proof.Machine.execLdf z d b o s
  | .ldh z d b o => Sys2Proof.Machine.execLdh z d b o s
  | .stl z d b o => Sys2Proof.Machine.execStl z d b o s
  | .stq z d b o => Sys2Proof.Machine.execStq z d b o s
  | .sto z d b o => Sys2Proof.Machine.execSto z d b o s
  | .stg z d b o => Sys2Proof.Machine.execStg z d b o s
  | .stf z d b o => Sys2Proof.Machine.execStf z d b o s
  | .sth z d b o => Sys2Proof.Machine.execSth z d b o s
  | .amol z d b u o => Sys2Proof.Machine.execAmol z d b u o s
  | .amoq z d b u o => Sys2Proof.Machine.execAmoq z d b u o s
  | .amoo z d b u o => Sys2Proof.Machine.execAmoo z d b u o s
  | .amog z d b u o => Sys2Proof.Machine.execAmog z d b u o s
  | .pfg l b o => Sys2Proof.Machine.execPfg l b o s
  | .cwb l b o => Sys2Proof.Machine.execCwb l b o s
  | .cinv l b o => Sys2Proof.Machine.execCinv l b o s
  | .hfence => Sys2Proof.Machine.execHfence s
  | .efence => Sys2Proof.Machine.execEfence s
  | .vadd t d a b k => Sys2Proof.Machine.execVadd t d a b k s
  | .vsub t d a b k => Sys2Proof.Machine.execVsub t d a b k s
  | .vmul t d a b k => Sys2Proof.Machine.execVmul t d a b k s
  | .vfma t d a b k => Sys2Proof.Machine.execVfma t d a b k s
  | .vfms t d a b k => Sys2Proof.Machine.execVfms t d a b k s
  | .vmin t d a b k => Sys2Proof.Machine.execVmin t d a b k s
  | .vmax t d a b k => Sys2Proof.Machine.execVmax t d a b k s
  | .vabs t d a k => Sys2Proof.Machine.execVabs t d a k s
  | .vneg t d a k => Sys2Proof.Machine.execVneg t d a k s
  | .vand t d a b k => Sys2Proof.Machine.execVand t d a b k s
  | .vor t d a b k => Sys2Proof.Machine.execVor t d a b k s
  | .vxor t d a b k => Sys2Proof.Machine.execVxor t d a b k s
  | .vshl t d a b k => Sys2Proof.Machine.execVshl t d a b k s
  | .vshr t d a b k => Sys2Proof.Machine.execVshr t d a b k s
  | .vsel t d a b => Sys2Proof.Machine.execVsel t d a b s
  | .vcvt t d a e k => Sys2Proof.Machine.execVcvt t d a e k s
  | .vcmpEq t d a b k => Sys2Proof.Machine.execVcmpEq t d a b k s
  | .vcmpNe t d a b k => Sys2Proof.Machine.execVcmpNe t d a b k s
  | .vcmpLt t d a b k => Sys2Proof.Machine.execVcmpLt t d a b k s
  | .vcmpLe t d a b k => Sys2Proof.Machine.execVcmpLe t d a b k s
  | .vcmpGt t d a b k => Sys2Proof.Machine.execVcmpGt t d a b k s
  | .vcmpGe t d a b k => Sys2Proof.Machine.execVcmpGe t d a b k s
  | .vwadd t d a b k => Sys2Proof.Machine.execVwadd t d a b k s
  | .vwmul t d a b k => Sys2Proof.Machine.execVwmul t d a b k s
  | .vwfma t d a b k => Sys2Proof.Machine.execVwfma t d a b k s
  | .vrcp t d a k => Sys2Proof.Machine.execVrcp t d a k s
  | .vrsqrt t d a k => Sys2Proof.Machine.execVrsqrt t d a k s
  | .vexp2 t d a k => Sys2Proof.Machine.execVexp2 t d a k s
  | .vlog2 t d a k => Sys2Proof.Machine.execVlog2 t d a k s
  | .vredsum t d a k => Sys2Proof.Machine.execVredsum t d a k s
  | .vredmax t d a k => Sys2Proof.Machine.execVredmax t d a k s
  | .vscan t d a k => Sys2Proof.Machine.execVscan t d a k s
  | .vbcast t d a k => Sys2Proof.Machine.execVbcast t d a k s
  | .vmovx t d a b => Sys2Proof.Machine.execVmovx t d a b s
  | .vins t d a b => Sys2Proof.Machine.execVins t d a b s
  | .vperm t d a b k => Sys2Proof.Machine.execVperm t d a b k s
  | .vrot t d a b k => Sys2Proof.Machine.execVrot t d a b k s
  | .mand d a b => Sys2Proof.Machine.execMand d a b s
  | .mor d a b => Sys2Proof.Machine.execMor d a b s
  | .mnot d a => Sys2Proof.Machine.execMnot d a s
  | .mpop t d a => Sys2Proof.Machine.execMpop t d a s
  | .vshuf q d => Sys2Proof.Machine.execVshuf q d s
  | .vqcvt q t d => Sys2Proof.Machine.execVqcvt q t d s
  | .vdqcvt q d => Sys2Proof.Machine.execVdqcvt q d s
  | .vsetcfg q t => Sys2Proof.Machine.execVsetcfg q t s
  | .vgatherq q t d => Sys2Proof.Machine.execVgatherq q t d s
  | .vscatq q t d => Sys2Proof.Machine.execVscatq q t d s
  | .vfence => Sys2Proof.Machine.execVfence s
  | .vmskld q t d => Sys2Proof.Machine.execVmskld q t d s
  | .vldl v b o => Sys2Proof.Machine.execVldl v b o s
  | .vldq v b o => Sys2Proof.Machine.execVldq v b o s
  | .vldo v b o => Sys2Proof.Machine.execVldo v b o s
  | .vldg v b o => Sys2Proof.Machine.execVldg v b o s
  | .vldf v b o => Sys2Proof.Machine.execVldf v b o s
  | .vldh v b o => Sys2Proof.Machine.execVldh v b o s
  | .vstl v b o => Sys2Proof.Machine.execVstl v b o s
  | .vstq v b o => Sys2Proof.Machine.execVstq v b o s
  | .vsto v b o => Sys2Proof.Machine.execVsto v b o s
  | .vstg v b o => Sys2Proof.Machine.execVstg v b o s
  | .vstf v b o => Sys2Proof.Machine.execVstf v b o s
  | .vsth v b o => Sys2Proof.Machine.execVsth v b o s
  | .vldqRow v b o => Sys2Proof.Machine.execVldqRow v b o s
  | .vstqRow v b o => Sys2Proof.Machine.execVstqRow v b o s
  | .vldqCol v b o => Sys2Proof.Machine.execVldqCol v b o s
  | .vstqCol v b o => Sys2Proof.Machine.execVstqCol v b o s
  | .vldlChk v b f c => Sys2Proof.Machine.execVldlChk v b f c s
  | .vldqChk v b f c => Sys2Proof.Machine.execVldqChk v b f c s
  | .vldoChk v b f c => Sys2Proof.Machine.execVldoChk v b f c s
  | .vldgChk v b f c => Sys2Proof.Machine.execVldgChk v b f c s
  | .vldfChk v b f c => Sys2Proof.Machine.execVldfChk v b f c s
  | .vldhChk v b f c => Sys2Proof.Machine.execVldhChk v b f c s
  | .gclr g k => Sys2Proof.Machine.execGclr g k s
  | .gadd g v e k => Sys2Proof.Machine.execGadd g v e k s
  | .gwadd g v w e k => Sys2Proof.Machine.execGwadd g v w e k s
  | .gmerge g h k => Sys2Proof.Machine.execGmerge g h k s
  | .gfold g h l => Sys2Proof.Machine.execGfold g h l s
  | .gdrain g v w c m => Sys2Proof.Machine.execGdrain g v w c m s
  | .gld g b p => Sys2Proof.Machine.execGld g b p s
  | .gst g b p => Sys2Proof.Machine.execGst g b p s
  | .gset g v k => Sys2Proof.Machine.execGset g v k s
  | .mma t a b f w z => Sys2Proof.Machine.execMma t a b f w z s
  | .mmat t a b f w z => Sys2Proof.Machine.execMmat t a b f w z s
  | .mmag t a b f w z => Sys2Proof.Machine.execMmag t a b f w z s
  | .mzero t => Sys2Proof.Machine.execMzero t s
  | .mdrain t a b f q j h => Sys2Proof.Machine.execMdrain t a b f q j h s
  | .mldc t a f => Sys2Proof.Machine.execMldc t a f s
  | .mbwr a b f c => Sys2Proof.Machine.execMbwr a b f c s
  | .mwait t r l => Sys2Proof.Machine.execMwait t r l s
  | .mstat d e => Sys2Proof.Machine.execMstat d e s
  | .mpert t a b q => Sys2Proof.Machine.execMpert t a b q s
  | .erw a b n => Sys2Proof.Machine.execErw a b n s
  | .err d a n => Sys2Proof.Machine.execErr d a n s
  | .eswap a => Sys2Proof.Machine.execEswap a s
  | .binit a b f p => Sys2Proof.Machine.execBinit a b f p s
  | .barv d a b p => Sys2Proof.Machine.execBarv d a b p s
  | .bwait a b p => Sys2Proof.Machine.execBwait a b p s
  | .btest d a b p => Sys2Proof.Machine.execBtest d a b p s
  | .badd a b p => Sys2Proof.Machine.execBadd a b p s
  | .wadv d a b => Sys2Proof.Machine.execWadv d a b s
  | .wpos d a => Sys2Proof.Machine.execWpos d a s
  | .owne a b v p => Sys2Proof.Machine.execOwne a b v p s
  | .ownc a b v p => Sys2Proof.Machine.execOwnc a b v p s
  | .rcnt d a b => Sys2Proof.Machine.execRcnt d a b s
  | .rowcpy c a b => Sys2Proof.Machine.execRowcpy c a b s
  | .rowfil c a b => Sys2Proof.Machine.execRowfil c a b s
  | .rowand c a b e => Sys2Proof.Machine.execRowand c a b e s
  | .rowor c a b e => Sys2Proof.Machine.execRowor c a b e s
  | .rowxor c a b e => Sys2Proof.Machine.execRowxor c a b e s
  | .rownot c a b => Sys2Proof.Machine.execRownot c a b s
  | .rowq d a b => Sys2Proof.Machine.execRowq d a b s
  | .foalloc d a => Sys2Proof.Machine.execFoalloc d a s
  | .foshare d a b => Sys2Proof.Machine.execFoshare d a b s
  | .fofree d a => Sys2Proof.Machine.execFofree d a s
  | .folook d a => Sys2Proof.Machine.execFolook d a s
  | .fopin d a b q => Sys2Proof.Machine.execFopin d a b q s
  | .founpin d a => Sys2Proof.Machine.execFounpin d a s
  | .fopool d a => Sys2Proof.Machine.execFopool d a s
  | .fsend d a b n => Sys2Proof.Machine.execFsend d a b n s
  | .fwr d a b n => Sys2Proof.Machine.execFwr d a b n s
  | .fwrs d a b n => Sys2Proof.Machine.execFwrs d a b n s
  | .fwrsSc d a b n => Sys2Proof.Machine.execFwrsSc d a b n s
  | .frd d a b n => Sys2Proof.Machine.execFrd d a b n s
  | .fsig d b n => Sys2Proof.Machine.execFsig d b n s
  | .famo d a b w u => Sys2Proof.Machine.execFamo d a b w u s
  | .fmcast d a b g n => Sys2Proof.Machine.execFmcast d a b g n s
  | .fwait d l n => Sys2Proof.Machine.execFwait d l n s
  | .fslot d => Sys2Proof.Machine.execFslot d s
  | .fslotWait a => Sys2Proof.Machine.execFslotWait a s
  | .fcnt d a m => Sys2Proof.Machine.execFcnt d a m s
  | .fseat d => Sys2Proof.Machine.execFseat d s
  | .rgload a n => Sys2Proof.Machine.execRgload a n s
  | .rgplay d a b n => Sys2Proof.Machine.execRgplay d a b n s
  | .rgwait d n => Sys2Proof.Machine.execRgwait d n s
  | .rgstat d a n => Sys2Proof.Machine.execRgstat d a n s
  | .rgfree n => Sys2Proof.Machine.execRgfree n s
  | .reshelve a n => Sys2Proof.Machine.execReshelve a n s
  | .bar c b => Sys2Proof.Machine.execBar c b s
  | .tkt d c => Sys2Proof.Machine.execTkt d c s
  | .tktn d a c => Sys2Proof.Machine.execTktn d a c s
  | .launch d a => Sys2Proof.Machine.execLaunch d a s
  | .lwait d a => Sys2Proof.Machine.execLwait d a s
  | .eta a => Sys2Proof.Machine.execEta a s
  | .endt => Sys2Proof.Machine.execEndt s
  | .ssend a => Sys2Proof.Machine.execSsend a s
  | .prio a q => Sys2Proof.Machine.execPrio a q s
  | .nodeid d e => Sys2Proof.Machine.execNodeid d e s
  | .tileid d e => Sys2Proof.Machine.execTileid d e s
  | .trap n => Sys2Proof.Machine.execTrap n s
  | .rft => Sys2Proof.Machine.execRft s
  | .rftAbort => Sys2Proof.Machine.execRftAbort s
  | .rftReplay => Sys2Proof.Machine.execRftReplay s
  | .csrr d imm => Sys2Proof.Machine.execCsrr d imm s
  | .csrw a imm => Sys2Proof.Machine.execCsrw a imm s
  | .env e => Sys2Proof.Machine.execEnv e s
  | .envc => Sys2Proof.Machine.execEnvc s
  | .xlinv d a k => Sys2Proof.Machine.execXlinv d a k s
  | .xlwait => Sys2Proof.Machine.execXlwait s
  | .qmap d a n => Sys2Proof.Machine.execQmap d a n s
  | .halt => Sys2Proof.Machine.execHalt s
  | .brk n => Sys2Proof.Machine.execBrk n s
  | .tinj a e k => Sys2Proof.Machine.execTinj a e k s
  | .sleep a l => Sys2Proof.Machine.execSleep a l s
  | .exposedWriteLand => Sys2Proof.Machine.execExposedWriteLand s
  | .scoreboardResultWrite => Sys2Proof.Machine.execScoreboardResultWrite s
  | .barrierRelease lnum node c b => Sys2Proof.Machine.execBarrierRelease lnum node c b s
  | .podBarrierRelease lnum node b => Sys2Proof.Machine.execPodBarrierRelease lnum node b s
  | .slotStart => Sys2Proof.Machine.execSlotStart s
  | .seatSlotSend => Sys2Proof.Machine.execSeatSlotSend s
  | .podScPerform => Sys2Proof.Machine.execPodScPerform s
  | .seatReportTimeout => Sys2Proof.Machine.execSeatReportTimeout s
  | .preemptionTaken => Sys2Proof.Machine.execPreemptionTaken s
  | .checkpointSpill => Sys2Proof.Machine.execCheckpointSpill s
  | .checkpointRestore => Sys2Proof.Machine.execCheckpointRestore s
  | .haltRequestTaken => Sys2Proof.Machine.execHaltRequestTaken s
  | .mscpartGrow slice ways => Sys2Proof.Machine.execMscpartGrow slice ways s
  | .mscpartGrowComplete slice => Sys2Proof.Machine.execMscpartGrowComplete slice s
  | .mscpartShrink slice ways => Sys2Proof.Machine.execMscpartShrink slice ways s
  | .formatRangeEnable h n => Sys2Proof.Machine.execFormatRangeEnable h n s
  | .formatRangeDisable h n => Sys2Proof.Machine.execFormatRangeDisable h n s
  | .formatRangeFlushDone h n => Sys2Proof.Machine.execFormatRangeFlushDone h n s
  | .cohctlWrite v => Sys2Proof.Machine.execCohctlWrite v s
  | .rebase => Sys2Proof.Machine.execRebase s
  | .hbmBatchMark h => Sys2Proof.Machine.execHbmBatchMark h s
  | .walkerMovingRetry => Sys2Proof.Machine.execWalkerMovingRetry s
  | .qsBankGrant => Sys2Proof.Machine.execQsBankGrant s
  | .vxCommandComplete => Sys2Proof.Machine.execVxCommandComplete s
  | .matrixOpStart array => Sys2Proof.Machine.execMatrixOpStart array s
  | .matrixOpComplete array => Sys2Proof.Machine.execMatrixOpComplete array s
  | .bteCommandStart ch => Sys2Proof.Machine.execBteCommandStart ch s
  | .bteSectorTransfer ch => Sys2Proof.Machine.execBteSectorTransfer ch s
  | .completionWordPost => Sys2Proof.Machine.execCompletionWordPost s
  | .bteerrClear v => Sys2Proof.Machine.execBteerrClear v s
  | .ringEnable n v => Sys2Proof.Machine.execRingEnable n v s
  | .ringDisable n v => Sys2Proof.Machine.execRingDisable n v s
  | .ringSlotClaim ch => Sys2Proof.Machine.execRingSlotClaim ch s
  | .owncFlip => Sys2Proof.Machine.execOwncFlip s
  | .rowStep port => Sys2Proof.Machine.execRowStep port s
  | .bitwiseRegionEnable h n => Sys2Proof.Machine.execBitwiseRegionEnable h n s
  | .bitwiseRegionDisable h n => Sys2Proof.Machine.execBitwiseRegionDisable h n s
  | .bankRefresh h bank => Sys2Proof.Machine.execBankRefresh h bank s
  | .bankRefreshEnd h bank => Sys2Proof.Machine.execBankRefreshEnd h bank s
  | .fabricCommandStart port => Sys2Proof.Machine.execFabricCommandStart port s
  | .fabricPacketSend => Sys2Proof.Machine.execFabricPacketSend s
  | .packetReceive dim plane peer header payload => Sys2Proof.Machine.execPacketReceive dim plane peer header payload s
  | .streamPacketPerform => Sys2Proof.Machine.execStreamPacketPerform s
  | .acknowledgementSend dim plane peer => Sys2Proof.Machine.execAcknowledgementSend dim plane peer s
  | .linkReplayTimeout dim plane peer => Sys2Proof.Machine.execLinkReplayTimeout dim plane peer s
  | .packetRelay => Sys2Proof.Machine.execPacketRelay s
  | .fabricCommandTimeout port => Sys2Proof.Machine.execFabricCommandTimeout port s
  | .lineLost dim comb line => Sys2Proof.Machine.execLineLost dim comb line s
  | .lineDrift dim comb line => Sys2Proof.Machine.execLineDrift dim comb line s
  | .lineRetuned dim comb line => Sys2Proof.Machine.execLineRetuned dim comb line s
  | .combLost dim comb => Sys2Proof.Machine.execCombLost dim comb s
  | .tableProposalLapse dim => Sys2Proof.Machine.execTableProposalLapse dim s
  | .tableInstalled dim => Sys2Proof.Machine.execTableInstalled dim s
  | .tutblGo dim v => Sys2Proof.Machine.execTutblGo dim v s
  | .tuevtRead dim => Sys2Proof.Machine.execTuevtRead dim s
  | .linjctlWrite dim v => Sys2Proof.Machine.execLinjctlWrite dim v s
  | .instanceStart unit => Sys2Proof.Machine.execInstanceStart unit s
  | .sendStep unit step => Sys2Proof.Machine.execSendStep unit step s
  | .recvStep unit step => Sys2Proof.Machine.execRecvStep unit step s
  | .copyStep unit step => Sys2Proof.Machine.execCopyStep unit step s
  | .finStep unit step => Sys2Proof.Machine.execFinStep unit step s
  | .nopStep unit step => Sys2Proof.Machine.execNopStep unit step s
  | .leadArrival src addr lead => Sys2Proof.Machine.execLeadArrival src addr lead s
  | .stepRelease unit step => Sys2Proof.Machine.execStepRelease unit step s
  | .recvDataTimeout unit step => Sys2Proof.Machine.execRecvDataTimeout unit step s
  | .sendStepTimeout unit step => Sys2Proof.Machine.execSendStepTimeout unit step s
  | .instanceComplete unit => Sys2Proof.Machine.execInstanceComplete unit s
  | .riggingLoadComplete unit => Sys2Proof.Machine.execRiggingLoadComplete unit s
  | .reshelveHistogramExchange unit => Sys2Proof.Machine.execReshelveHistogramExchange unit s
  | .reshelveMove unit => Sys2Proof.Machine.execReshelveMove unit s
  | .reshelveTimeout unit => Sys2Proof.Machine.execReshelveTimeout unit s
  | .folioStoreEnable => Sys2Proof.Machine.execFolioStoreEnable s
  | .folioStoreDisable => Sys2Proof.Machine.execFolioStoreDisable s
  | .folioEviction => Sys2Proof.Machine.execFolioEviction s
  | .folioRecallComplete storage => Sys2Proof.Machine.execFolioRecallComplete storage s
  | .copyOnWriteSplit name => Sys2Proof.Machine.execCopyOnWriteSplit name s
  | .fopinDeadline storage => Sys2Proof.Machine.execFopinDeadline storage s
  | .ddoorSubmit v => Sys2Proof.Machine.execDdoorSubmit v s
  | .launchPacket lnum descriptor => Sys2Proof.Machine.execLaunchPacket lnum descriptor s
  | .computePhaseStart lnum node => Sys2Proof.Machine.execComputePhaseStart lnum node s
  | .freeCoreReport => Sys2Proof.Machine.execFreeCoreReport s
  | .ticketDispatch => Sys2Proof.Machine.execTicketDispatch s
  | .phaseClose lnum node => Sys2Proof.Machine.execPhaseClose lnum node s
  | .exchangePhaseEnd lnum node => Sys2Proof.Machine.execExchangePhaseEnd lnum node s
  | .nodeRetire lnum node => Sys2Proof.Machine.execNodeRetire lnum node s
  | .selection => Sys2Proof.Machine.execSelection s
  | .tokenAging => Sys2Proof.Machine.execTokenAging s
  | .dbgctlHalt v => Sys2Proof.Machine.execDbgctlHalt v s
  | .dbgctlStep v => Sys2Proof.Machine.execDbgctlStep v s
  | .dbgctlRun v => Sys2Proof.Machine.execDbgctlRun v s
  | .dbgmaddrRead v => Sys2Proof.Machine.execDbgmaddrRead v s
  | .debugReadComplete => Sys2Proof.Machine.execDebugReadComplete s
  | .atctlWrite target v => Sys2Proof.Machine.execAtctlWrite target v s
  | .sleepWake => Sys2Proof.Machine.execSleepWake s
  | .hostBar0Access off store => Sys2Proof.Machine.execHostBar0Access off store s
  | .hostMemRequest off len store => Sys2Proof.Machine.execHostMemRequest off len store s
  | .hostWindowWrite window reg v => Sys2Proof.Machine.execHostWindowWrite window reg v s
  | .hdmEnable v => Sys2Proof.Machine.execHdmEnable v s
  | .hdmDisable v => Sys2Proof.Machine.execHdmDisable v s
  | .repreqClear v => Sys2Proof.Machine.execRepreqClear v s
  | .firmwareUpdate v => Sys2Proof.Machine.execFirmwareUpdate v s
  | .firmwareUpdateDone => Sys2Proof.Machine.execFirmwareUpdateDone s
  | .attestationRequest v => Sys2Proof.Machine.execAttestationRequest v s
  | .attestationDone => Sys2Proof.Machine.execAttestationDone s
  | .reset => Sys2Proof.Machine.execReset s
  | .hbmStackTrained h => Sys2Proof.Machine.execHbmStackTrained h s
  | .fullServiceEntry turn => Sys2Proof.Machine.execFullServiceEntry turn s
  | .unitRemoval kind id => Sys2Proof.Machine.execUnitRemoval kind id s
  | .thermalLimit power tdie thbm => Sys2Proof.Machine.execThermalLimit power tdie thbm s
  | .thermalTrip tdie thbm => Sys2Proof.Machine.execThermalTrip tdie thbm s
  | .inputUndervoltage => Sys2Proof.Machine.execInputUndervoltage s
  | .registerWrite addr v => Sys2Proof.Machine.execRegisterWrite addr v s
  | .cxlLinkLoss => Sys2Proof.Machine.execCxlLinkLoss s
  | .cxlLinkReturn => Sys2Proof.Machine.execCxlLinkReturn s
  | .powerLimitingEnd power tdie thbm => Sys2Proof.Machine.execPowerLimitingEnd power tdie thbm s
  | .translationWalkComplete va => Sys2Proof.Machine.execTranslationWalkComplete va s
  | .instructionCacheFill line => Sys2Proof.Machine.execInstructionCacheFill line s
  | .cacheRangeComplete => Sys2Proof.Machine.execCacheRangeComplete s
  | .hostAccessComplete => Sys2Proof.Machine.execHostAccessComplete s
  | .cxlCacheSnoop line data => Sys2Proof.Machine.execCxlCacheSnoop line data s

end Sys2Proof.Machine
end

