-- ==== Sys2Proof/Machine/Step.lean ====
section
/-!
DEFINITION. One step of the machine, and the placing of an instruction that the next step runs.
-/
namespace Sys2Proof.Machine
open Sys2Proof

/-- One step: the front end passes on, stops, or runs one instruction: the next syllable of the bundle, or what the
world outside does next. -/
def step (s : State) : Host.Outcome State Fault Refusal :=
  match front s with
  | .pass s => .next s
  | .run s i => exec i s
  | .stop f => .fault f

/-- The instruction of word `w`, in the bundle it may stand in, placed where the next step fetches it: a resident
task on the core, its code page and its line. An `ENV` is placed behind its LX, which has been executed (log
entry 40). -/
def State.withFetchWord (s : State) (_nbits w : Nat) : State :=
  let b := bundleFor w
  let s := placeBytes (residentTask (atRest s)) (bundleBytes b.1)
  if b.2 = 0 then s
  else { s with core := { s.core with bundle := b.1, idx := b.2, lx := some 0 } }

end Sys2Proof.Machine
end

