-- ==== Sys2Proof/Safety.lean ====
section
/-!
DEFINITION. The terms in which claims are stated: when a syllable has its own effect, what completing means, what a
frame keeps, and, as tables over the instructions, the results the manual gives.
-/
namespace Sys2Proof.Machine
open Sys2Proof

/-- The syllable `i`, in a bundle in flight, has its own effect: it may run in the mode in which its bundle issued (R61), its
guard holds (R94), it does not pass the bound of an open envelope (R404), no source of it carries a mark (R127), and no
pod-scope operation of its bundle that came before it is still to be acknowledged (R157). -/
abbrev Flows (i : Instr) (s : State) : Prop :=
  s.core.bundle ≠ [] ∧ (privileged i = true → s.core.privAt = true) ∧ envelopeFull s i = false ∧
  enabled s.core i = true ∧ raised s i = .clean ∧ orderHolds s i = false

/-- The same of a vector-slot syllable, which names no vector register that an engine owns (R174). -/
abbrev VFlows (i : Instr) (s : State) : Prop := Flows i s ∧ fileOwned s i = none

/-- The syllable at the current index has committed after the change from `s` to `t` (R31, R404): it counts in the
envelope that was open before and after it. -/
def committed (s t : State) : State := commit t (counting s.core && t.core.sw.envOpen)

/-- The bundle in flight reads the queue ports as its issue left them: `d` is a register, or a port for which an entry
of a quad queue is reserved (R40, R95). -/
abbrev MayWrite (s : State) (d : XReg) : Prop := pushDenied s d = false

/-- Every byte store of the machine has its canonical form. -/
def State.memWf (s : State) : Bool := s.oc.wf && s.sys.hbm.wf && s.sys.msc.wf && s.sys.l2.wf && s.sys.host.wf

/-- So has the B store of the core, and every store of the images of checkpointed and restored tasks. -/
def State.memInv (s : State) : Bool :=
  s.memWf && s.core.mx.bstore.wf &&
    (s.dist.vault ++ s.dist.spill.toList.map Prod.fst ++ s.dist.restore.toList.map Prod.fst).all (fun i => i.store.wf && i.core.mx.bstore.wf)

/-! ### Frames -/

/-- No exposed result in flight goes to `d` (R34). -/
def NotInFlight (s : State) (d : Dest) : Prop := ∀ l ∈ s.core.exposed, l.dst ≠ d

/-- Every register that is not in `w` and that no exposed result in flight goes to is as it was. -/
structure RegistersKept (s t : State) (w : List Dest) : Prop where
  x : ∀ r : XReg, Dest.x r ∉ w → NotInFlight s (.x r) → t.core.x[r] = s.core.x[r]
  p : ∀ r : PReg, Dest.p r ∉ w → NotInFlight s (.p r) → getP t.core r = getP s.core r
  v : ∀ r : VReg, Dest.v r ∉ w → NotInFlight s (.v r) → t.core.v[r] = s.core.v[r]
  m : ∀ r : MReg, Dest.m r ∉ w → NotInFlight s (.m r) → t.core.m[r] = s.core.m[r]
  g : ∀ r : GReg, Dest.g r ∉ w → NotInFlight s (.g r) → t.core.g[r] = s.core.g[r]

/-- The status word, the trap registers, the control registers and every other part of the core but its register
files, its program counter, its bundle, the count and CRC of an envelope and its clocks and results in flight are as
they were; so is the task, unless one has been given to begin in place at the next bundle (R386). -/
def specialsKept (c d : Core) : Prop :=
  d.sw = c.sw ∧ d.trapPc = c.trapPc ∧ d.trapVal = c.trapVal ∧ d.trapVec = c.trapVec ∧ d.trapSw = c.trapSw ∧
  d.trapScr = c.trapScr ∧ d.qmap = c.qmap ∧ d.envExpect = c.envExpect ∧ d.envCrcExpect = c.envCrcExpect ∧
  d.cptBase = c.cptBase ∧ d.bteErr = c.bteErr ∧ d.rngCfg = c.rngCfg ∧ d.rngCnt = c.rngCnt ∧ d.vu.vcfg = c.vu.vcfg ∧
  d.vu.qwait = c.vu.qwait ∧ d.mx = c.mx ∧ d.run = c.run ∧ d.levels = c.levels ∧
  (c.nextTask = none → d.task = c.task ∧ d.nextTask = none)

/-- The count and the CRC of an envelope are as they were (R404). -/
def envelopeKept (c d : Core) : Prop := d.envCount = c.envCount ∧ d.envCrc = c.envCrc

/-- What the commit of the syllable at the index of `c` makes of the count and the CRC of an envelope (R404): one more
bundle at the last syllable, and the CRC run over the words of the syllable, where the core is counting; else nothing. -/
def envelopeCounted (c d : Core) : Prop :=
  d.envCount = c.envCount + (if counting c && decide (c.bundle.length ≤ c.idx + 1) then 1 else 0) ∧
  d.envCrc = (if counting c then ((commitWords c).foldl envAdd c).envCrc else c.envCrc)

/-- Memory, engines, the fabric, the distributor and everything else outside the core and its quad's queues. -/
def outsideKept (s t : State) : Prop := t = { s with core := t.core, queues := t.queues }

/-! ### Tables of results

Each table gives, for the syllables it is about, what the manual says they compute from the operands they read. -/

/-- Scalar results: destination, value, exposed latency (R36, R99, R100, R102, R103, R106, R107, R388, R42). -/
def scalarResult (s : State) : Instr → Option (XReg × Word × Nat)
  | .add _ d a b => some (d, readX s a + readX s b, 1)
  | .sub _ d a b => some (d, readX s a - readX s b, 1)
  | .and _ d a b => some (d, readX s a &&& readX s b, 1)
  | .or _ d a b => some (d, readX s a ||| readX s b, 1)
  | .xor _ d a b => some (d, readX s a ^^^ readX s b, 1)
  | .andn _ d a b => some (d, readX s a &&& ~~~(readX s b), 1)
  | .sll _ d a b => some (d, readX s a <<< (readNat s b % 64), 1)
  | .srl _ d a b => some (d, readX s a >>> (readNat s b % 64), 1)
  | .sra _ d a b => some (d, (readX s a).sshiftRight (readNat s b % 64), 1)
  | .rol _ d a b => some (d, (readX s a).rotateLeft (readNat s b % 64), 1)
  | .mul _ d a b => some (d, BitVec.ofNat 64 (readNat s a * readNat s b), 3)
  | .mulh _ d a b => some (d, BitVec.ofInt 64 ((readX s a).toInt * (readX s b).toInt / 2 ^ 64), 3)
  | .mulhw _ d a b => some (d, BitVec.ofNat 64 (readNat s a * readNat s b / 2 ^ 64), 3)
  | .min _ d a b => some (d, if (readX s b).slt (readX s a) then readX s b else readX s a, 1)
  | .max _ d a b => some (d, if (readX s a).slt (readX s b) then readX s b else readX s a, 1)
  | .minw _ d a b => some (d, BitVec.ofNat 64 (min (readNat s a) (readNat s b)), 1)
  | .maxw _ d a b => some (d, BitVec.ofNat 64 (max (readNat s a) (readNat s b)), 1)
  | .clz _ d a => some (d, BitVec.ofNat 64 (leadingZeros 64 (readNat s a)), 1)
  | .ctz _ d a => some (d, BitVec.ofNat 64 (trailingZeros 64 (readNat s a)), 1)
  | .popc _ d a => some (d, BitVec.ofNat 64 (popCount 64 (readNat s a)), 1)
  | .bfx _ d a b => some (d, extractField (readX s a) (readX s b), 1)
  | .bfi _ d a b => some (d, insertField (readX s d) (readX s a) (readX s b), 1)
  | .sel g d a b => some (d, if holds s.core g then readX s a else readX s b, 1)
  | .qcount _ d a => some (d, s.core.counts[a], 1)
  | .addi d a i => some (d, readX s a + immI s i, 1)
  | .andi d a i => some (d, readX s a &&& immI s i, 1)
  | .ori d a i => some (d, readX s a ||| immI s i, 1)
  | .xori d a i => some (d, readX s a ^^^ immI s i, 1)
  | .slli d a h => some (d, readX s a <<< h.toNat, 1)
  | .srli d a h => some (d, readX s a >>> h.toNat, 1)
  | .srai d a h => some (d, (readX s a).sshiftRight h.toNat, 1)
  | .movi d i => some (d, immI s i, 1)
  | .nodeid d e => some (d, BitVec.ofNat 64 (nodeidWord s e.toNat), 1)
  | .tileid d e => some (d, BitVec.ofNat 64 (tileidWord s e.toNat), 1)
  | .csrr d n => some (d, csrSeen s n.toNat (csrRead s n.toNat), 2)
  | _ => none

/-- Divisions: destination, value, clocks on the divider (R101): the quotient rounds towards zero, a remainder has the
dividend's sign, a division by zero gives all ones and the dividend. -/
def divisionResult (s : State) : Instr → Option (XReg × Word × Nat)
  | .div _ d a b => some (d, if readX s b = 0 then BitVec.allOnes 64 else (readX s a).sdiv (readX s b), divClocks true (readX s a) (readX s b))
  | .divw _ d a b => some (d, if readX s b = 0 then BitVec.allOnes 64 else readX s a / readX s b, divClocks false (readX s a) (readX s b))
  | .rem _ d a b => some (d, if readX s b = 0 then readX s a else (readX s a).srem (readX s b), divClocks true (readX s a) (readX s b))
  | .remw _ d a b => some (d, if readX s b = 0 then readX s a else readX s a % readX s b, divClocks false (readX s a) (readX s b))
  | _ => none

/-- Predicate results (R104, R105, R107). -/
def predicateResult (s : State) : Instr → Option (PReg × Bool)
  | .pcmpEq _ p a b => some (p, decide (readX s a = readX s b))
  | .pcmpNe _ p a b => some (p, decide (readX s a ≠ readX s b))
  | .pcmpLt _ p a b => some (p, decide ((readX s a).toInt < (readX s b).toInt))
  | .pcmpGe _ p a b => some (p, decide ((readX s b).toInt ≤ (readX s a).toInt))
  | .pcmpLtw _ p a b => some (p, decide (readNat s a < readNat s b))
  | .pcmpGew _ p a b => some (p, decide (readNat s b ≤ readNat s a))
  | .pcmpiEq p a i => some (p, decide (readX s a = immI s i))
  | .pcmpiNe p a i => some (p, decide (readX s a ≠ immI s i))
  | .pcmpiLt p a i => some (p, decide ((readX s a).toInt < (immI s i).toInt))
  | .pcmpiGe p a i => some (p, decide ((immI s i).toInt ≤ (readX s a).toInt))
  | .pcmpiLtw p a i => some (p, decide (readNat s a < (immI s i).toNat))
  | .pcmpiGew p a i => some (p, decide ((immI s i).toNat ≤ readNat s a))
  | .pand _ d a b => some (d, getP s.core a && getP s.core b)
  | .por _ d a b => some (d, getP s.core a || getP s.core b)
  | .pxor _ d a b => some (d, getP s.core a != getP s.core b)
  | .pnot _ d a => some (d, !getP s.core a)
  | _ => none

/-- Taken branches: the target and its bubble clocks, and the register that is written (R92, R109 to R113). A `JR` or
`RET` whose register holds no address of a syllable is not in the table: it traps. -/
def branchResult (s : State) : Instr → Option (Option (XReg × Word) × Option (CodeAddr × Nat))
  | .j _ o => some (none, some (relTarget s.core (immOf s.core 19 o.toNat), 1))
  | .call _ o => some (some (27, (addrHere s.core + 4).setWidth 64), some (relTarget s.core (immOf s.core 19 o.toNat), 1))
  | .jr _ a => if readNat s a < 2 ^ 56 ∧ readNat s a % 4 = 0 then some (none, some ((readX s a).setWidth 56, 3)) else none
  | .ret _ => if readNat s 27 < 2 ^ 56 ∧ readNat s 27 % 4 = 0 then some (none, some ((readX s 27).setWidth 56, 3)) else none
  | .loop _ c o => some (some (c, readX s c - 1),
      if readX s c = 1 then none
      else some (relTarget s.core (immOf s.core 14 o.toNat), if -63 ≤ immOf s.core 14 o.toNat ∧ immOf s.core 14 o.toNat ≤ 0 then 0 else 1))
  | _ => none

/-! ### Vector results -/

/-- Element j of a vector register, the value of a code, and an exact value rounded to a type (R169, R177). -/
def lane (s : State) (t : ElemTy) (r : VReg) (j : Nat) : Nat := elem t.width (readV s r) j
def laneFp (s : State) (t : ElemTy) (r : VReg) (j : Nat) : Fp := decodeFp t.fmt (lane s t r j)
def laneInt (s : State) (t : ElemTy) (r : VReg) (j : Nat) : Int := t.int (lane s t r j)
def rounded (s : State) (t : ElemTy) (x : Fp) : Nat × Bool := encodeFp t.fmt (vround s) x
/-- An exact integer modulo 2^w, or clamped and counted with `VCFG.ISAT` (R177). -/
def fitted (s : State) (t : ElemTy) (x : Int) : Nat × Bool :=
  if bit (csrSeen s 0x100 s.core.vu.vcfg).toNat 8 = true then
    (if x < t.lo then (wrapTo t.width t.lo, true) else if t.hi < x then (wrapTo t.width t.hi, true) else (wrapTo t.width x, false))
  else (wrapTo t.width x, false)
/-- A result by the kind of the type. -/
def byKind (s : State) (t : ElemTy) (x : Fp) (n : Int) : Nat × Bool := if t.isF then rounded s t x else fitted s t n
/-- Element i of sources or destinations spread over r registers (R171). -/
def spreadLane (s : State) (w : Nat) (a : VReg) (r i : Nat) : Nat := elem w (readV s (vreg (a.val + i % r))) (i / r)

/-- Element-wise results: the type of the result, its first register, over how many registers it is spread, whether it
is masked, its latency, and each element with whether it saturated (R177 to R182, R184, R185). -/
def laneResult (s : State) : Instr → Option (ElemTy × VReg × Nat × Bool × Nat × (Nat → Nat × Bool))
  | .vadd t d a b k => some (t, d, 1, k, 2, fun j => byKind s t (addFp (vround s) (laneFp s t a j) (laneFp s t b j)) (laneInt s t a j + laneInt s t b j))
  | .vsub t d a b k => some (t, d, 1, k, 2, fun j => byKind s t (addFp (vround s) (laneFp s t a j) (negFp (laneFp s t b j))) (laneInt s t a j - laneInt s t b j))
  | .vmul t d a b k => some (t, d, 1, k, 4, fun j => byKind s t (mulFp (laneFp s t a j) (laneFp s t b j)) (laneInt s t a j * laneInt s t b j))
  | .vfma t d a b k => some (t, d, 1, k, 4, fun j => byKind s t (addFp (vround s) (mulFp (laneFp s t a j) (laneFp s t b j)) (laneFp s t d j))
      (laneInt s t a j * laneInt s t b j + laneInt s t d j))
  | .vfms t d a b k => some (t, d, 1, k, 4, fun j => byKind s t (addFp (vround s) (mulFp (laneFp s t a j) (laneFp s t b j)) (negFp (laneFp s t d j)))
      (laneInt s t a j * laneInt s t b j - laneInt s t d j))
  | .vmin t d a b k => some (t, d, 1, k, 2, fun j =>
      (if t.isF then fpMin t.fmt (lane s t a j) (lane s t b j) else if laneInt s t b j < laneInt s t a j then lane s t b j else lane s t a j, false))
  | .vmax t d a b k => some (t, d, 1, k, 2, fun j =>
      (if t.isF then fpMax t.fmt (lane s t a j) (lane s t b j) else if laneInt s t a j < laneInt s t b j then lane s t b j else lane s t a j, false))
  | .vabs t d a k => some (t, d, 1, k, 2, fun j => if t.isF then (lane s t a j % 2 ^ (t.width - 1), false) else fitted s t ((laneInt s t a j).natAbs : Int))
  | .vneg t d a k => some (t, d, 1, k, 2, fun j => if t.isF then (lane s t a j ^^^ 2 ^ (t.width - 1), false) else fitted s t (-laneInt s t a j))
  | .vand t d a b k => some (t, d, 1, k, 2, fun j => (lane s t a j &&& lane s t b j, false))
  | .vor t d a b k => some (t, d, 1, k, 2, fun j => (lane s t a j ||| lane s t b j, false))
  | .vxor t d a b k => some (t, d, 1, k, 2, fun j => (lane s t a j ^^^ lane s t b j, false))
  | .vshl t d a b k => some (t, d, 1, k, 2, fun j => (lane s t a j * 2 ^ lane s t b j % 2 ^ t.width, false))
  | .vshr t d a b k => some (t, d, 1, k, 2, fun j => (wrapTo t.width (laneInt s t a j / (2 ^ (min (lane s t b j) t.width) : Nat)), false))
  | .vsel t d a b => some (t, d, 1, false, 2, fun j => (if maskBit s j then lane s t a j else lane s t b j, false))
  | .vcvt t d a e k => some (t, d, max 1 (t.width / e.width), k, 2, fun j => convert t e (vround s) (spreadLane s e.width a (max 1 (e.width / t.width)) j))
  | .vwadd t d a b k => some (t.wide, d, t.wideRatio, k, 4, fun j =>
      if t.isF then rounded s .f32 (addFp (vround s) (laneFp s t a j) (laneFp s t b j)) else fitted s t.wide (laneInt s t a j + laneInt s t b j))
  | .vwmul t d a b k => some (t.wide, d, t.wideRatio, k, 4, fun j =>
      if t.isF then rounded s .f32 (mulFp (laneFp s t a j) (laneFp s t b j)) else fitted s t.wide (laneInt s t a j * laneInt s t b j))
  | .vwfma t d a b k => some (t.wide, d, t.wideRatio, k, 4, fun j =>
      let c := spreadLane s 32 d t.wideRatio j
      if t.isF then rounded s .f32 (addFp (vround s) (mulFp (laneFp s t a j) (laneFp s t b j)) (decodeFp fmtF32 c))
      else fitted s t.wide (laneInt s t a j * laneInt s t b j + t.wide.int c))
  | .vrcp t d a k => some (t, d, 1, k, 8, fun j => (rcpFp t.fmt (vround s) (laneFp s t a j), false))
  | .vrsqrt t d a k => some (t, d, 1, k, 8, fun j => (rsqrtFp t.fmt (vround s) (laneFp s t a j), false))
  | .vlog2 t d a k => some (t, d, 1, k, 8, fun j => (log2Fp t.fmt (vround s) (laneFp s t a j), false))
  | .vexp2 t d a k => some (t, d, 1, k, 8, fun j =>
      (if t = .bf16 then (encodeFp fmtBf16 (vround s) (decodeFp fmtF32 (exp2F32 (bf16ToF32 (lane s t a j))))).1 else exp2F32 (lane s t a j), false))
  | .vbcast t d a k => some (t, d, 1, k, 2, fun _ => (readNat s a % 2 ^ t.width, false))
  | .vins t d a b => some (t, d, 1, false, 2, fun j => (if j = readNat s b % t.count then readNat s a % 2 ^ t.width else lane s t d j, false))
  | .vrot t d a b k => some (t, d, 1, k, 2, fun j => (lane s t a ((j + readNat s b) % t.count), false))
  | _ => none

/-- The results of r registers from d on, in flight for n clocks: the value and the saturations of each (R168, R171). -/
def exposeLanes (s : State) (d : VReg) (r n : Nat) (v c : Nat → Nat) : State :=
  onCore s (fun k => { k with
    exposed := k.exposed ++ (List.range r).map (fun q => { dst := .v (vreg (d.val + q)), val := v q, due := k.sched + n, vec := true, sat := c q }) })

/-- A condition on two elements (R179): −0 equals +0, and a NaN makes every condition false but `ne`. -/
def laneCompares (s : State) (t : ElemTy) (a b : VReg) (nan : Bool) (f : Int → Int → Bool) (j : Nat) : Bool :=
  if t.isF then
    (if isNanCode t.fmt (lane s t a j) || isNanCode t.fmt (lane s t b j) then nan else f (valueKey t.fmt (lane s t a j)) (valueKey t.fmt (lane s t b j)))
  else f (laneInt s t a j) (laneInt s t b j)
/-- The bits a comparison writes: old bits where masked out, zeros from n on (R179). -/
def compareBits (s : State) (t : ElemTy) (d : MReg) (k : Bool) (f : Nat → Bool) (j : Nat) : Bool :=
  decide (j < t.count) && (if k && !maskBit s j then (s.core.m[d]).getLsbD j else f j)

/-- Mask results, bit by bit (R179, R186). -/
def maskResult (s : State) : Instr → Option (MReg × (Nat → Bool))
  | .vcmpEq t d a b k => some (d, compareBits s t d k (laneCompares s t a b false (fun x y => x == y)))
  | .vcmpNe t d a b k => some (d, compareBits s t d k (laneCompares s t a b true (fun x y => x != y)))
  | .vcmpLt t d a b k => some (d, compareBits s t d k (laneCompares s t a b false (fun x y => decide (x < y))))
  | .vcmpLe t d a b k => some (d, compareBits s t d k (laneCompares s t a b false (fun x y => decide (x ≤ y))))
  | .vcmpGt t d a b k => some (d, compareBits s t d k (laneCompares s t a b false (fun x y => decide (y < x))))
  | .vcmpGe t d a b k => some (d, compareBits s t d k (laneCompares s t a b false (fun x y => decide (y ≤ x))))
  | .mand d a b => some (d, fun j => (s.core.m[a]).getLsbD j && (s.core.m[b]).getLsbD j)
  | .mor d a b => some (d, fun j => (s.core.m[a]).getLsbD j || (s.core.m[b]).getLsbD j)
  | .mnot d a => some (d, fun j => decide (j < 1024) && !(s.core.m[a]).getLsbD j)
  | _ => none

/-- Reductions (R84, R183): the inputs by the tree, or their inclusive sums. -/
def reductionResult (s : State) : Instr → Option (VReg × Nat)
  | .vredsum t d a k => some (d, treeReduce (elemAdd t (vround s)) 10
      ((List.range t.count).map (fun i => if !k || maskBit s i then lane s t a i else if t.isF then 2 ^ (t.width - 1) else 0)))
  | .vredmax t d a k => some (d, treeReduce (elemMax t) 10
      ((List.range t.count).map (fun i => if !k || maskBit s i then lane s t a i else maxIdentity t)))
  | .vscan t d a k => some (d, packElems t.width (scanList (elemAdd t (vround s)) none
      ((List.range t.count).map (fun i => if !k || maskBit s i then lane s t a i else if t.isF then 2 ^ (t.width - 1) else 0))))
  | _ => none

/-- A vector result for a scalar register goes to the register, or to the entry reserved for its port (R168, R184). -/
def exposeVecX (s : State) (d : XReg) (v : Word) : State :=
  match reservedHere s.core d with
  | some e => fillEntry (takeReserved s e) e.queue e.entry v .clean
  | none => if (boundPort s.core d).isSome then s else exposeVec s 6 (.x d) v.toNat 0 .clean

/-! ### Completing, waiting, trapping -/

/-- The syllable has its effect and commits: `u` is the state that its effect leaves. -/
abbrev Completes (i : Instr) (s u : State) : Prop := exec i s = .next (committed s u)

/-- The syllable traps at its place in the bundle (R136, R399), in the state that its checks left. -/
abbrev Traps (i : Instr) (s t : State) (c : Cause) (detail : Nat) (val : Word) : Prop := exec i s = .next (trapHere t c detail val)

/-- The syllable is held (R91, R122): a stall clock is owed, nothing of it is committed, and it is looked at again. -/
def Held (s t : State) : Prop :=
  t.core.held = 1 ∧ t.core.idx = s.core.idx ∧ t.core.bundle = s.core.bundle ∧ t.core.pc = s.core.pc ∧
    t.core.exposed = s.core.exposed ∧ t.core.board = s.core.board ∧ RegistersKept s t [] ∧ outsideKept s t
def Stalls (i : Instr) (s : State) : Prop := ∃ t, exec i s = .next t ∧ Held s t

/-- The syllable waits (R91): it is held, and a halt request or a preemption may end its wait. -/
def Waits (i : Instr) (s : State) : Prop := ∃ t, exec i s = .next t ∧ Held s t ∧ t.core.waiting.isSome = true

/-! ### Steps -/

/-- The core goes on with the bundle in flight: no input is due, no stall clock is owed. -/
abbrev MidBundle (s : State) : Prop :=
  s.inputs = [] ∧ bringState s ≠ 4 ∧ s.core.held = 0 ∧ s.core.run = .running ∧ s.core.bundle ≠ []

/-- The core stands at a bundle boundary at which the next bundle is fetched. -/
abbrev AtFetch (s : State) : Prop :=
  s.inputs = [] ∧ bringState s ≠ 4 ∧ s.core.held = 0 ∧ s.core.run = .running ∧ s.core.bundle = [] ∧ s.plat.hold = 0 ∧ s.core.owed = 0 ∧
  s.core.stepped = false ∧ s.core.haltAsked = false ∧ (s.core.preempt = none ∨ s.core.sw.ie = false)

/-! ### Traps -/

/-- The causes that a handler or a debugger takes: all but the two of node replay (R396). -/
abbrev Handled (c : Cause) : Prop := c ≠ .poisonConsumed ∧ c ≠ .envelopeMismatch

/-- The address of the bundle after the one in flight (R92). -/
def nextPc (c : Core) : CodeAddr := match c.target with | some t => t.1 | none => c.pc + BitVec.ofNat 56 (4 * c.bundle.length)
/-- The syllable at the current index is the last of its bundle. -/
def lastHere (c : Core) : Bool := decide (c.bundle.length ≤ c.idx + 1)

/-- The handler is entered for `BREAK` after the syllable in flight (R399, R411). -/
def BreakTaken (s t : State) (detail : Nat) : Prop :=
  t.core.pc = s.core.trapVec ∧ t.core.trapVal = BitVec.ofNat 64 ((s.core.bundle[s.core.idx]?).getD 0).toNat ∧
  t.core.sw.cause = 16 ∧ t.core.sw.causeDetail = BitVec.ofNat 8 detail ∧ t.core.sw.priv = true ∧ t.core.sw.ie = false ∧
  t.core.sw.step = false ∧ t.core.sw.envOpen = false ∧ t.core.bundle = [] ∧
  t.core.trapPc = (if lastHere s.core then nextPc s.core else s.core.pc) ∧ t.core.sw.srfv = !lastHere s.core ∧
  (t.core.sw.srf.val = if lastHere s.core then 0 else (s.core.idx + 1) % 8) ∧ RegistersKept s t [] ∧ outsideKept s t

/-- The core is halted after the syllable in flight (R399, R408, R418). -/
def HaltTaken (s t : State) (why : Fin 5) : Prop :=
  t.core.run = .halted why ∧ t.core.bundle = [] ∧ t.core.trapPc = (if lastHere s.core then nextPc s.core else s.core.pc) ∧
  t.core.sw = { s.core.sw with srfv := !lastHere s.core, srf := t.core.sw.srf } ∧
  (t.core.sw.srf.val = if lastHere s.core then 0 else (s.core.idx + 1) % 8) ∧ t.core.trapVal = s.core.trapVal ∧
  RegistersKept s t [] ∧ outsideKept s t

/-- What the return from a trap restores (R412). -/
def Returned (s t : State) : Prop :=
  t.core.pc = s.core.trapPc ∧
  t.core.sw = { s.core.sw with priv := bit s.core.trapSw.toNat 17, ie := bit s.core.trapSw.toNat 16, step := bit s.core.trapSw.toNat 18
                               envOpen := bit s.core.trapSw.toNat 19, srfv := false } ∧
  t.core.resume = (if s.core.sw.srfv then some s.core.sw.srf.val else none) ∧ t.core.bundle = [] ∧ t.core.owed = 1 ∧
  t.core.levels = s.core.levels.tail ∧
  (∀ l v, s.core.levels.head? = some l → l.split = some v → t.core.qmapAt = v.qmap ∧ t.core.counts = v.counts ∧ t.core.privAt = v.priv ∧ t.core.csrAt = v.csr) ∧
  t.core.exposed = s.core.exposed ++ ((s.core.levels.head?.map (·.writes)).getD []).map (fun w => { w with due := s.core.sched + 1 + w.due }) ∧
  t.core.x = s.core.x ∧ t.core.p = s.core.p ∧ t.core.v = s.core.v ∧ t.core.m = s.core.m ∧ t.core.g = s.core.g ∧
  t.core.trapPc = s.core.trapPc ∧ t.core.trapVal = s.core.trapVal ∧ t.core.trapSw = s.core.trapSw ∧ outsideKept s t

/-- The layers in which `SLEEP` of level `l` leaves the core (R420): an LS or a B store that an engine's access is in
progress in does not enter state 2; level 2 collapses the B store. -/
def Asleep (s t : State) (l : BitVec 2) : Prop :=
  t.core.lsLayer = (if l = 0 then 1 else if lsBusy s then s.core.lsLayer else 2) ∧
  t.core.bLayer = (if l = 0 then 1 else if l = 2 then 3 else if bstoreBusy s then s.core.bLayer else 2) ∧
  (l = 2 → t.core.mx.panels = 0) ∧ (l ≠ 2 → t.core.mx = s.core.mx) ∧ t.core.idx = s.core.idx ∧ RegistersKept s t [] ∧ outsideKept s t

/-! ### Memory -/

/-- The scalar loads: size, destination, base, offset, and clocks of the result (R36, R137). -/
def loadOf : Instr → Option (Nat × Size × XReg × XReg × BitVec 9)
  | .ldl z d b o => some (0, z, d, b, o)
  | .ldq z d b o => some (1, z, d, b, o)
  | .ldo z d b o => some (2, z, d, b, o)
  | .ldg z d b o => some (3, z, d, b, o)
  | .ldf z d b o => some (4, z, d, b, o)
  | .ldh z d b o => some (5, z, d, b, o)
  | _ => none
def storeOf : Instr → Option (Nat × Size × XReg × XReg × BitVec 9)
  | .stl z d b o => some (0, z, d, b, o)
  | .stq z d b o => some (1, z, d, b, o)
  | .sto z d b o => some (2, z, d, b, o)
  | .stg z d b o => some (3, z, d, b, o)
  | .stf z d b o => some (4, z, d, b, o)
  | .sth z d b o => some (5, z, d, b, o)
  | _ => none
/-- The atomics: space, size in bytes, data register, base, sub-op, offset (R160). -/
def atomicOf : Instr → Option (Nat × Nat × XReg × XReg × AmoOp × BitVec 6)
  | .amol z d b u o => some (0, if z then 8 else 4, d, b, u, o)
  | .amoq z d b u o => some (1, if z then 8 else 4, d, b, u, o)
  | .amoo z d b u o => some (2, if z then 8 else 4, d, b, u, o)
  | .amog z d b u o => some (3, if z then 8 else 4, d, b, u, o)
  | _ => none

/-- The first byte of LS or QS in the on-chip map, and its size (R117, R118). -/
def localBase (space : Nat) : Nat := if space = 0 then 0x1000000000 else 0x2000000000
def localSize (space : Nat) : Nat := if space = 0 then 0x100000 else 0x400000

/-- `n` bytes at `a` of LS (space 0) or QS (space 1) lie in it, are aligned to `al` and owned by the core (R117, R120). -/
abbrev LocalOk (s : State) (space : Nat) (a : Int) (n al : Nat) : Prop :=
  0 ≤ a ∧ a + n ≤ localSize space ∧ a % al = 0 ∧ ∀ g ∈ granulesOf (localBase space + a.toNat) n, g ∉ s.engine

/-- The same, and no live barrier word lies there (R121). -/
abbrev LocalStoreOk (s : State) (space : Nat) (a : Int) (n al : Nat) : Prop :=
  LocalOk s space a n al ∧ meetsTag s (localBase space + a.toNat) n = false

/-- The effective address of R137. -/
def effAddr (s : State) (b : XReg) (w off n : Nat) : Int := (readNat s b : Int) + immOf s.core w off * n

/-- What the checks and the conflict rule of an access come to, for a store (R153). -/
def cleared (s : State) (p : Place) : Acc Unit :=
  match p with
  | .gm runs => settleClash 16 s (coreViewer s) runs
  | _ => .ok s ()

/-- Loads and stores as one table: space, bytes, base, offset, what it needs, the register a load fills (R137). -/
def accessOf (i : Instr) : Option (Nat × Nat × XReg × BitVec 9 × Need × Option XReg) :=
  match loadOf i, storeOf i with
  | some (sp, z, d, b, o), _ => some (sp, z.bytes, b, o, { rd := true }, some d)
  | none, some (sp, z, _, b, o) => some (sp, z.bytes, b, o, { wr := true }, none)
  | none, none => none

/-- The mark of a load whose bytes are poisoned (R127). -/
def poisonAt (p : Bool) (a : Int) : Mark := if p then .poison (toWord a) else .clean

/-- A scalar access of `n` bytes at an OC address gets its grant of the crossbar on this clock, if it is one of QS (R122):
its turn in the round robin comes before those of whoever else asks for a bank it needs, and no request that it must follow
waits. -/
abbrev Granted (s : State) (space oc n : Nat) (wr : Bool) : Prop := space = 1 → scalarWins s oc n wr = true

/-- The distributor but for the timestamps of the tasks in its vault and on their way, which a rebase reduces (R149). -/
def untimed (d : Dist) : Dist :=
  let f (i : Image) : Image := { i with core := { i.core with pt := 0 } }
  { d with vault := d.vault.map f, spill := d.spill.map (fun p => (f p.1, p.2)), restore := d.restore.map (fun p => (f p.1, p.2)) }

/-- The engines, the fabric, the folio store, the platform, the barrier words, the queues and the distributor (but for the
timestamps that a rebase reduces) are as they were, and so is the hub but for the flag of a rebase (R149). -/
def unitsKept (s t : State) : Prop :=
  t.tags = s.tags ∧ t.engine = s.engine ∧ t.vrEngine = s.vrEngine ∧ t.bte = s.bte ∧ t.rows.ports = s.rows.ports ∧ t.fabric = s.fabric ∧
  t.replay = s.replay ∧ t.folios = s.folios ∧ t.plat = s.plat ∧ t.part = s.part ∧ t.queues = s.queues ∧ untimed t.dist = untimed s.dist ∧
  ∀ a, a ≠ 0x4003000000 → hubGet t a = hubGet s a

/-- The bytes of GM and FS in HBM, the MSC and the L2, the staged sectors and host memory are as they were. -/
def farKept (s t : State) : Prop :=
  t.sys.hbm = s.sys.hbm ∧ t.sys.msc = s.sys.msc ∧ t.sys.l2 = s.sys.l2 ∧ t.sys.staged = s.sys.staged ∧ t.sys.host = s.sys.host

/-- The bytes `bs` stand in the sector `v` from byte `off` on, and every other byte of it is that of the sector `w`. -/
def sectorTakes (v w off : Nat) (bs : List Byte) : Prop :=
  ∀ j, j < 32 → v / 256 ^ j % 256 = if off ≤ j ∧ j < off + bs.length then ((bs[j - off]?).getD 0).toNat else w / 256 ^ j % 256

/-! ### Vector memory -/

/-- The 512-byte loads and stores: space, register, base, offset (R141). -/
def vloadOf : Instr → Option (Nat × VReg × XReg × BitVec 11)
  | .vldl v b o => some (0, v, b, o)
  | .vldq v b o => some (1, v, b, o)
  | .vldo v b o => some (2, v, b, o)
  | .vldg v b o => some (3, v, b, o)
  | .vldf v b o => some (4, v, b, o)
  | .vldh v b o => some (5, v, b, o)
  | _ => none
def vstoreOf : Instr → Option (Nat × VReg × XReg × BitVec 11)
  | .vstl v b o => some (0, v, b, o)
  | .vstq v b o => some (1, v, b, o)
  | .vsto v b o => some (2, v, b, o)
  | .vstg v b o => some (3, v, b, o)
  | .vstf v b o => some (4, v, b, o)
  | .vsth v b o => some (5, v, b, o)
  | _ => none
/-- The row and column accesses of a skewed tile: whether it is a column, register, base, offset (R142). -/
def tileLoadOf : Instr → Option (Bool × VReg × XReg × BitVec 11)
  | .vldqRow v b o => some (false, v, b, o)
  | .vldqCol v b o => some (true, v, b, o)
  | _ => none
def tileStoreOf : Instr → Option (Bool × VReg × XReg × BitVec 11)
  | .vstqRow v b o => some (false, v, b, o)
  | .vstqCol v b o => some (true, v, b, o)
  | _ => none
/-- The checked loads: space, register pair, base, expected format, offset (R143). -/
def chkOf : Instr → Option (Nat × Fin 16 × XReg × ElemTy × BitVec 7)
  | .vldlChk v b f c => some (0, v, b, f, c)
  | .vldqChk v b f c => some (1, v, b, f, c)
  | .vldoChk v b f c => some (2, v, b, f, c)
  | .vldgChk v b f c => some (3, v, b, f, c)
  | .vldfChk v b f c => some (4, v, b, f, c)
  | .vldhChk v b f c => some (5, v, b, f, c)
  | _ => none

/-- Element sizes of a gather or scatter, and its units: index and QS address (R192). -/
def unitSize (w : Word) : Nat := if w.getLsbD 8 then 16 else 4
def unitList (s : State) (b w : Word) : List (Nat × Nat) :=
  ((List.range (512 / unitSize w)).filter (fun i => !(w.getLsbD 9) || maskBit s i)).map (fun i =>
    (i, b.toNat + unitSize w * elem 32 (readV s (vreg (w.toNat % 32))) i))

/-! ### Statistics -/

/-- Statistics results: register, clocks, mark, and each lane (R200, R204 to R208, R211). -/
def statResult (s : State) : Instr → Option (GReg × Nat × Mark × (Nat → Triple))
  | .gclr g k => some (g, 2, if k then s.core.gmark[g] else .clean, fun i => if k && !maskBit s i then laneOf s.core.g[g] i else ⟨0, 0, 0⟩)
  | .gadd g v e k => some (g, 6, .clean, fun i =>
      if k && !maskBit s i then laneOf s.core.g[g] i else (laneOf s.core.g[g] i).update (sampleOf (readV s v) e i) f32One)
  | .gwadd g v w e k => some (g, 6, .clean, fun i =>
      if k && !maskBit s i then laneOf s.core.g[g] i else (laneOf s.core.g[g] i).update (sampleOf (readV s v) e i) (elem 32 (readV s w) i))
  | .gmerge g h k => some (g, 8, .clean, fun i =>
      if k && !maskBit s i then laneOf s.core.g[g] i else (laneOf s.core.g[g] i).merge (laneOf s.core.g[h] i))
  | .gset g v k => some (g, 2, if k then s.core.gmark[g] else .clean, fun i =>
      if k && !maskBit s i then laneOf s.core.g[g] i
      else ⟨elem 32 (readV s v) i, elem 32 (readV s (vreg (v.val + 1))) i, elem 32 (readV s (vreg (v.val + 2))) i⟩)
  | _ => none

/-! ### Matrix -/

/-- The multiply-accumulates: kind, space of the A block, tile, operands, format, `.mixb`, `.z` (R226 to R228). -/
def mmaOf : Instr → Option (MxKind × Nat × Tile × XReg × XReg × ElemTy × Bool × Bool)
  | .mma t a b f w z => some (.mma, 0, t, a, b, f, w, z)
  | .mmat t a b f w z => some (.mmat, 0, t, a, b, f, w, z)
  | .mmag t a b f w z => some (.mmag, 3, t, a, b, f, w, z)
  | _ => none

/-! ### Engines and fabric -/

/-- The folio manager answers `v` about a name, in `d` after `n` clocks, and its result is pending until then (R352, R362). -/
def folioAnswer (s : State) (name : Nat) (d : XReg) (v n : Nat) : State :=
  { pendX s d (BitVec.ofNat 64 v) .clean n with folios := { s.folios with results := (name, s.clock + n) :: s.folios.results } }

/-- The row syllables: the op of their command and their operands (R267). -/
def rowOf : Instr → Option (Nat × XReg × XReg × XReg × XReg)
  | .rowcpy c a b => some (13, c, a, b, 0)
  | .rowfil c a b => some (14, c, a, b, 0)
  | .rowand c a b e => some (15, c, a, b, e)
  | .rowor c a b e => some (16, c, a, b, e)
  | .rowxor c a b e => some (17, c, a, b, e)
  | .rownot c a b => some (18, c, a, b, 0)
  | _ => none
/-- The fabric commands that a syllable queues: port and command (R303 to R305). -/
def fabricOf (s : State) : Instr → Option (Fin 8 × FabCmd)
  | .fsend d a b n => some (n, { op := 0, desc := readNat s d, laddr := readNat s a, raddr := readNat s b })
  | .fwr d a b n => some (n, { op := 1, desc := readNat s d, laddr := readNat s a, raddr := readNat s b })
  | .fwrs d a b n => some (n, { op := 2, desc := readNat s d, laddr := readNat s a, raddr := readNat s b, bar := readNat s (xNext b 1) })
  | .frd d a b n => some (n, { op := 3, desc := readNat s d, laddr := readNat s a, raddr := readNat s b })
  | .fsig d b n => some (n, { op := 4, desc := readNat s d, bar := readNat s b })
  | .fmcast d a b g n => some (n, { op := 6, desc := readNat s d, laddr := readNat s a, raddr := readNat s b, mask := readNat s (xNext b 1)
                                    bar := if g then readNat s (xNext b 2) else 0, flag := g })
  | _ => none

/-- Unit `n` runs instance `i`, whose step `k` stands at `t` (R322, R323). -/
abbrev StepAt (s : State) (n k : Nat) (i : Instance) (t : StepState) : Prop := (replayOf s n).inst = some i ∧ i.steps[k]? = some t

/-- Step `k` of the running instance of unit `n` is in phase `p` (R323, R327). -/
abbrev StepPhaseIs (s : State) (n k : Nat) (p : StepPhase) : Prop := ∃ i t, StepAt s n k i t ∧ t.phase = p

/-- A `FIN` step by bitmap `b` writes nothing: no rescaling is asked for, the operation has none, or all or none of the
members contributed (R323). -/
def finIdle (u : ReplayUnit) (i : Instance) (b : Nat) : Bool :=
  !(bit i.play.word.toNat 62) || decide (1 < imgOp u.image) || popCount 64 b == 0 || decide (memberCount u ≤ popCount 64 b)

/-- A barrier word of LS or QS that the core may touch: in the space, aligned and core-owned (R249). -/
abbrev BarrierOk (s : State) (qs : Bool) (a : Nat) : Prop := LocalOk s (b2n qs) (a : Int) 16 16

end Sys2Proof.Machine
end

