-- ==== Sys2Proof/Certificates/Slice0/Obligations.lean ====
section
/-!
DEFINITION. The statements of this model, one `def Obligations.<Name> : Prop` each. The terms they use, and the tables of
results that they quantify over, are in `Sys2Proof/Safety.lean`.
-/
open Sys2Proof Sys2Proof.Machine

/-- Scalar syllables write the value the tables give. For every scalar syllable of the tables of Safety.lean
(scalarResult, divisionResult, predicateResult) that has its own effect, exec answers the state in which the tabled
value of the operands is in flight to the destination: an exposed result after its latency (1, 2 or 3 clocks), a
quotient or remainder on the divider, when it is free, after 12, 24 or 40 clocks, a predicate after one clock. A
division waits while the divider is taken. (States R99, R104, R105.)
-/
def Obligations.ScalarResults : Prop :=
  ∀ (i : Instr) (s : State), Flows i s →
    (∀ (d : XReg) (v : Word) (n : Nat), scalarResult s i = some (d, v, n) → MayWrite s d → Completes i s (exposeX s n d v)) ∧
    (∀ (d : XReg) (v : Word) (n : Nat), divisionResult s i = some (d, v, n) → MayWrite s d →
      (s.core.divBusy ≤ s.clock → Completes i s (pendX (onCore s (fun c => { c with divBusy := s.clock + n })) d v .clean n) ∧ n ∈ [12, 24, 40]) ∧
      (s.clock < s.core.divBusy → exec i s = .next (stall s))) ∧
    (∀ (p : PReg) (b : Bool), predicateResult s i = some (p, b) → Completes i s (expose s 1 (.p p) (b2n b)))

/-- Branches set the target, the bubble clocks and the link or counter. For every taken branch, exec answers the state
in which the bundle goes to the tabled target after the tabled bubble clocks, with the link register or the loop
counter in flight; a LOOP whose counter reaches zero does not go to its target. J has no other effect. (States R110.)
-/
def Obligations.Branches : Prop :=
  ∀ (i : Instr) (s : State) (w : Option (XReg × Word)) (t : Option (CodeAddr × Nat)), branchResult s i = some (w, t) → Flows i s →
    Completes i s (onCore (match w with | some (r, v) => expose s 1 (.x r) v.toNat | none => s) (fun c => { c with target := t.or c.target }))

/-- Frame of the scalar syllables and of every way a result is left. When a scalar, division, predicate or branch
syllable answers a next state, every register but its destination (and those that results already in flight go to),
every special, control and exception register, all memory and everything outside the core are unchanged; the count and
the CRC of an open envelope take the syllable in, and are else unchanged. The
operations by which other syllables leave a scalar, vector, mask or scoreboarded result change no register, no special
register and nothing outside the core at issue. (Drawn from R30, R34, R38, R99, R101, R104, R109, R404; it does not
state the whole of each.) -/
def Obligations.RegisterFrames : Prop :=
  ∀ (i : Instr) (s t : State),
    (∀ d v n, scalarResult s i = some (d, v, n) → Flows i s → MayWrite s d → exec i s = .next t →
      RegistersKept s t [.x d] ∧ specialsKept s.core t.core ∧ envelopeCounted s.core t.core ∧ outsideKept s t) ∧
    (∀ d v n, divisionResult s i = some (d, v, n) → Flows i s → MayWrite s d → exec i s = .next t →
      RegistersKept s t [.x d] ∧ specialsKept s.core t.core ∧
      (if s.core.divBusy ≤ s.clock then envelopeCounted s.core t.core else envelopeKept s.core t.core) ∧ outsideKept s t) ∧
    (∀ p b, predicateResult s i = some (p, b) → Flows i s → exec i s = .next t →
      RegistersKept s t [.p p] ∧ specialsKept s.core t.core ∧ envelopeCounted s.core t.core ∧ outsideKept s t) ∧
    (∀ w a, branchResult s i = some (w, a) → Flows i s → exec i s = .next t →
      RegistersKept s t (match w with | some (r, _) => [.x r] | none => []) ∧ specialsKept s.core t.core ∧ envelopeCounted s.core t.core ∧
      outsideKept s t) ∧
    (∀ (d : XReg) (v : Word) (k : Mark) (n : Nat), ∀ u ∈ [pendX s d v k n, exposeX s n d v, exposeVecX s d v],
      RegistersKept s u [] ∧ specialsKept s.core u.core ∧ envelopeKept s.core u.core ∧ outsideKept s u) ∧
    (∀ (d : Dest) (v : Option Nat) (k : Mark) (n : Option Nat),
      let u := (pend s d v k n).1
      RegistersKept s u [] ∧ specialsKept s.core u.core ∧ envelopeKept s.core u.core ∧ outsideKept s u) ∧
    (∀ (d : VReg) (r n : Nat) (v c : Nat → Nat),
      let u := exposeLanes s d r n v c
      RegistersKept s u [] ∧ specialsKept s.core u.core ∧ envelopeKept s.core u.core ∧ outsideKept s u)

/-- A step in a bundle runs the decoded syllable. Where the core goes on with a bundle in flight and the word at the
current index decodes to i, step is exec of i at that state. (While it waits, provided that no halt request and no
preemption interrupts the wait.) (Drawn from R28, R31; it does not state the whole of each.) -/
def Obligations.StepRunsTheSyllable : Prop :=
  ∀ (s : State) (i : Instr), MidBundle s → (s.core.bundle[s.core.idx]?).bind decode = some i →
    (s.core.waiting.isSome → s.core.haltAsked = false ∧ (s.core.preempt = none ∨ s.core.sw.ie = false ∨ inBar s = true)) →
    step s = exec i s

/-- A step at a bundle boundary fetches, checks, issues and runs the first syllable. At a bundle boundary, when the
fetch gives the words of a bundle, the checks of each syllable and of the bundle pass, no drain is owed and nothing
holds the bundle, step issues it and is exec of its first syllable to be run. A bundle that issues whole keeps the
control registers that its CSRRs and CSRWs name, the mode and the port bindings as they stand then. A fetched bundle has at most eight
syllables, only the last of which can carry the stop bit; it is marked closed exactly when the last carries it, and
otherwise has eight. (Drawn from R27, R28, R29, R44, R63, R413; it does not state the whole of each.) -/
def Obligations.StepIssuesTheBundle : Prop :=
  (∀ (s t : State) (ws : List Syllable) (c : Bool) (n : Nat) (w : Syllable) (i : Instr) (r : Decoded), AtFetch s →
    fetch s = .bundle t ws c → checkEach (if t.core.resume.isSome then t.core.privAt else t.core.sw.priv) 0 ws = none →
    checkBundle (foresee t ((n, w, i) :: r)) (decodeAll ws) c true = none →
    restFrom (decodeAll ws) (t.core.resume.getD 0) = (n, w, i) :: r → t.core.resume.getD 0 < ws.length →
    (t.core.resume = none → ((n, w, i) :: r).any (fun e => needsDrain e.2.2) = true → drainSpan t.core = 0) → blocked t ((n, w, i) :: r) = false →
    step s = exec i (issueBundle t ws ((n, w, i) :: r) (t.core.resume.getD 0))) ∧
  (∀ (s : State) (ws : List Syllable) (d : Decoded) (k : Nat), s.core.resume = none →
    (issueBundle s ws d k).core.csrAt = csrsNamed s d ∧ (issueBundle s ws d k).core.privAt = s.core.sw.priv ∧
    (issueBundle s ws d k).core.qmapAt = s.core.qmap) ∧
  (∀ (s t : State) (ws : List Syllable) (c : Bool), fetch s = .bundle t ws c →
    ws.length ≤ 8 ∧ ws.dropLast.all (fun w => !stopBit w) = true ∧
    (c = true → ∃ l w, ws = l ++ [w] ∧ stopBit w = true) ∧ (c = false → ws.length = 8 ∧ ws.all (fun w => !stopBit w) = true))

/-- A step takes an input first, else counts an owed clock. When an input stands in the list and its event may be
taken, step is exec of that event with the rest of the list; a halted package drops every input but RESET. With no
input and the package not halted: an owed stall clock is counted, an idle or halted core lets a clock pass, a core that
full service holds is stalled between two bundles, and a schedule clock owed between two bundles is counted.
That inputs come as a list, between syllables, is the choice of the model (log entry 40), and so is it that a halted
package drops them (log entry 128). (Drawn from R91, R92, R428, R430; it does not state the whole of each.) -/
def Obligations.StepTakesInputsAndClocks : Prop :=
  ∀ s : State,
    (∀ (i : Instr) (r : List Instr), s.inputs = i :: r → open_ s = true → isSyllable i = false → bringState s ≠ 4 ∨ i = .reset →
      step s = exec i { s with inputs := r }) ∧
    (∀ (i : Instr) (r : List Instr), s.inputs = i :: r → bringState s = 4 → i ≠ .reset → step s = .next { s with inputs := r }) ∧
    (s.inputs = [] → bringState s ≠ 4 →
      (0 < s.core.held → step s = .next (stallClock s)) ∧
      (s.core.held = 0 → s.core.run ≠ .running → step s = .next (tick s)) ∧
      (s.core.held = 0 → s.core.run = .running → s.core.bundle = [] → 0 < s.plat.hold → step s = .next (stall s)) ∧
      (s.core.held = 0 → s.core.run = .running → s.core.bundle = [] → s.plat.hold = 0 → 0 < s.core.owed → step s = .next (scheduleClock s)))

/-- Every step keeps the byte memories in canonical form. If every byte memory of a state, those of checkpointed tasks
and of the B store among them, has its cells at strictly rising addresses, none of them zero, and its poison marks
rising, then so it is in the state that any step answers. That memory is a list in this form is the choice of the
model (log entry 5). (Drawn from R3, R127; it does not state the whole of each.) -/
def Obligations.MemoryStaysCanonical : Prop :=
  ∀ s t : State, s.memInv = true → step s = .next t → t.memInv = true

/-- Exposed results land at their clock, the last issued prevailing, and a commit moves on. When the schedule clock n
has come and no exposed result is overdue, landing through n removes exactly the results due by n; every register that
none of them goes to keeps its value, x0 and p0 among them, and nothing outside the core changes; a register for which
one is due holds the value and the mark of the one issued last. A commit that is not the last of its bundle advances
the index, clears the LX prefix and changes neither the program counter nor the schedule. The last one ends the
bundle, moves the program counter past it or to the branch target, counts the bundle in an open envelope, owes one
schedule clock and the bubble clocks of the branch, and begins the task that a ticket syllable has put in place. What
an open envelope counts runs its CRC over the words of the syllable. No register, special register or anything outside
the core changes. (Drawn from R31, R34, R44, R91, R92, R386, R404; it does not state the whole of each.) -/
def Obligations.CommitMovesOn : Prop :=
  (∀ (s : State) (n : Nat), (∀ l ∈ s.core.exposed, n ≤ l.due) →
      (landThrough s n).core.exposed = s.core.exposed.filter (fun l => decide (n < l.due)) ∧
      RegistersKept s (landThrough s n) [] ∧ (landThrough s n).core.x[0] = s.core.x[0] ∧
      (landThrough s n).core.p.getLsbD 0 = s.core.p.getLsbD 0 ∧ outsideKept s (landThrough s n) ∧
      (∀ (a b : List Landing) (l : Landing), s.core.exposed = a ++ l :: b → l.due = n →
        (∀ k ∈ b, k.due = n → k.dst ≠ l.dst) →
        match l.dst with
        | .x r => r ≠ 0 → (landThrough s n).core.x[r] = BitVec.ofNat 64 l.val ∧ (landThrough s n).core.xmark[r] = l.mark
        | .p r => r ≠ 0 → getP (landThrough s n).core r = (l.val % 2 == 1)
        | .v r => (landThrough s n).core.v[r] = BitVec.ofNat 4096 l.val ∧ (landThrough s n).core.vmark[r] = l.mark
        | .m r => (landThrough s n).core.m[r] = BitVec.ofNat 1024 l.val
        | .g r => (landThrough s n).core.g[r] = ⟨BitVec.ofNat 4096 l.val, BitVec.ofNat 4096 (l.val >>> 4096), BitVec.ofNat 4096 (l.val >>> 8192)⟩
        | .queue _ _ => True)) ∧
  (∀ (s : State) (b : Bool),
      (s.core.idx + 1 < s.core.bundle.length →
        (commit s b).core.idx = s.core.idx + 1 ∧ (commit s b).core.lx = none ∧ (commit s b).core.bundle = s.core.bundle ∧
        (commit s b).core.pc = s.core.pc ∧ (commit s b).core.sched = s.core.sched ∧ (commit s b).core.exposed = s.core.exposed ∧
        (commit s b).core.envCount = s.core.envCount) ∧
      (s.core.bundle.length ≤ s.core.idx + 1 →
        (commit s b).core.bundle = [] ∧
        (commit s b).core.pc = (match s.core.target with | some t => t.1 | none => s.core.pc + BitVec.ofNat 56 (4 * s.core.bundle.length)) ∧
        (commit s b).core.envCount = s.core.envCount + (if b then 1 else 0) ∧
        (s.core.waited = false → s.core.waiting = none →
          (commit s b).core.sched = s.core.sched ∧ (commit s b).core.exposed = s.core.exposed ∧
          (commit s b).core.owed = 1 + (match s.core.target with | some t => t.2 | none => 0)) ∧
        (s.core.waited = true ∨ s.core.waiting.isSome = true →
          (commit s b).core.sched = s.core.sched + 1 ∧ (commit s b).core.owed = (match s.core.target with | some t => t.2 | none => 0)) ∧
        (∀ k : Task, s.core.nextTask = some k → (commit s b).core.nextTask = none ∧
          (commit s b).core.task = some { k with boundAt := s.clock, drain := k.drain || (s.core.task.map (·.drain)).getD false })) ∧
      (b = true → (commit s b).core.envCrc = ((commitWords s.core).foldl envAdd s.core).envCrc) ∧
      (b = false → (commit s b).core.envCrc = s.core.envCrc) ∧
      RegistersKept s (commit s b) [] ∧ specialsKept s.core (commit s b).core ∧ outsideKept s (commit s b))

/-- False guards, NOP and LX. A guarded syllable whose guard is false commits with no effect, and so does NOP; an LX
commits by giving its 27 bits to the next syllable, whose immediate is then the sign-extended combination of both, and
without it the sign-extended field; an LX that would pass the bound of an open envelope goes to recovery. (Drawn from
R30, R94, R98, R108, R404; it does not state the whole of each.) -/
def Obligations.GuardsNopAndLx : Prop :=
  ∀ (s : State), s.core.bundle ≠ [] →
    (∀ (i : Instr) (g : Guard), guardOf i = some g → holds s.core g = false → envelopeFull s i = false → Completes i s s) ∧
    (envelopeFull s .nop = false → Completes .nop s s) ∧
    (∀ u : BitVec 27, envelopeFull s (.lx u) = true → exec (.lx u) s = .next (recover s .envelopeMismatch)) ∧
    (∀ u : BitVec 27, envelopeFull s (.lx u) = false → s.core.idx + 1 < s.core.bundle.length →
      exec (.lx u) s = .next (onCore s (fun c => { c with lx := some u, idx := c.idx + 1, waiting := none }))) ∧
    (∀ (u : BitVec 27) (n f : Nat), immOf { s.core with lx := some u } n f = sext (u.toNat * 2 ^ n + f) (n + 27)) ∧
    (∀ (n f : Nat), immOf { s.core with lx := none } n f = sext f n)

/-- x0 reads zero, p0 reads one, and their writes are discarded. In every state x0 reads 0 and p0 reads 1, guards on
p0 hold or fail accordingly, a write of x0 or p0 changes nothing, and a write of any other scalar or predicate
register is read back from it. (Drawn from R38, R94; it does not state the whole of each.) -/
def Obligations.HardwiredRegisters : Prop :=
  ∀ (s : State) (v : Nat) (k : Mark),
    getX s.core 0 = 0 ∧ getP s.core 0 = true ∧ holds s.core ⟨0, false⟩ = true ∧ holds s.core ⟨0, true⟩ = false ∧
    writeDest s (.x 0) v k = s ∧ writeDest s (.p 0) v k = s ∧
    (∀ r : XReg, r ≠ 0 → getX (writeDest s (.x r) v k).core r = BitVec.ofNat 64 v) ∧
    (∀ r : PReg, r ≠ 0 → getP (writeDest s (.p r) v k).core r = (v % 2 == 1))

/-- Taking a trap. With a handler address, a handled cause saves SW in TRAPSW, the address in TRAPPC and the value in
TRAPVAL, sets CAUSE, CAUSEDETAIL, SRF and SRFV, enters privileged mode with interrupts, single step and envelope
closed, goes to TRAPVEC, and holds the exposed results that the interrupted program could not yet read, with the
clocks they still have; no register and nothing outside the core changes. POISON_CONSUMED and ENVELOPE_MISMATCH go to
recovery: node replay, or launch abort where the node is unstaged or overflowed or has been replayed four times.
Without a handler the launch is aborted. DEBUG_STEP halts the core for an attached debugger. (Drawn from R396, R397,
R398, R399, R400, R402, R403, R408; it does not state the whole of each.) -/
def Obligations.TrapEntry : Prop :=
  ∀ (s : State) (c : Cause) (detail : Nat) (val : Word) (tpc : CodeAddr) (srfv : Bool) (srf t : Nat),
    (Handled c → s.core.trapVec ≠ 0 → (c = .debugStep → dbgAttach s = false) →
      ∃ u, takeTrap s c detail val tpc srfv srf t = u ∧
        u.core.trapSw = swWord s.core ∧ u.core.trapPc = tpc ∧ u.core.trapVal = val ∧
        u.core.sw = { s.core.sw with cause := BitVec.ofNat 8 c.code, causeDetail := BitVec.ofNat 8 detail, srfv := srfv
                                     srf := ⟨srf % 8, Nat.mod_lt _ (by decide)⟩, priv := true, ie := false, step := false, envOpen := false } ∧
        u.core.pc = s.core.trapVec ∧ u.core.bundle = [] ∧ u.core.exposed = [] ∧
        (∃ l, u.core.levels = l :: s.core.levels ∧
          l.writes = (s.core.exposed.filter (fun w => decide (t < w.due))).map (fun w => { w with due := w.due - t }) ∧
          l.pops = s.core.pops.filter (fun p => decide (srf ≤ p.idx)) ∧ l.pushes = s.core.pushes.filter (fun p => decide (srf ≤ p.idx)) ∧
          l.split = splitView s.core) ∧ u.core.resume = none ∧
        RegistersKept s u [] ∧ outsideKept s u ∧
        u.core.trapVec = s.core.trapVec ∧ u.core.trapScr = s.core.trapScr ∧ u.core.qmap = s.core.qmap ∧ u.core.mx = { s.core.mx with chk := none } ∧ u.core.task = s.core.task) ∧
    (¬ Handled c → takeTrap s c detail val tpc srfv srf t = recover s c) ∧
    (Handled c → c ≠ .debugStep → s.core.trapVec = 0 → takeTrap s c detail val tpc srfv srf t = abortCore s c.code) ∧
    (dbgAttach s = true → takeTrap s .debugStep detail val tpc srfv srf t = haltCore s 1 tpc srfv srf t) ∧
    (∀ k : Task, s.core.task = some k → abortCore s c.code = abortLaunch s k.lnum c.code) ∧
    (∀ (k : Task) (n : Node), s.core.task = some k → nodeOf s k.lnum k.node = some n →
      recover s c = if n.unstaged || n.overflowed then abortLaunch s k.lnum c.code else nodeReplay s k.lnum k.node c.code) ∧
    (∀ (l : Nat) (n : Node) (node : Nat), nodeOf s l node = some n → 4 ≤ n.replays → nodeReplay s l node c.code = abortLaunch s l c.code)

/-- TRAP, BRK and HALT. TRAP n raises BREAK with detail n, BRK n with detail 0x80 + n, each committing, with its own
word in TRAPVAL and the handler entered at the split of the bundle; with a debugger attached and BRKHALT set, each of
them halts the core with WHY 2 instead, leaving SW but its index fields. HALT halts an attached core with WHY 3 and
otherwise raises BREAK with detail 0xFF. Where no handler address is set, the raised BREAK aborts the launch after the
syllable has committed. That TRAP halts an attached core as BRK does is the row of BREAK in the table of causes as the
model reads it (log entry 63); where a core halts inside a bundle, SW takes the index fields of the split. (Drawn from
R396, R398, R399, R408, R411, R418; it does not state the whole of each.) -/
def Obligations.BreakpointsAndHalts : Prop :=
  ∀ (s : State) (n : BitVec 7),
    (∀ (i : Instr) (d : Nat), (i = .trap n ∧ d = n.toNat) ∨ (i = .brk n ∧ d = 0x80 + n.toNat) → Flows i s →
      ((dbgAttach s && dbgBrkHalt s) = true → ∃ t, exec i s = .next t ∧ HaltTaken s t 2) ∧
      ((dbgAttach s && dbgBrkHalt s) = false → s.core.trapVec ≠ 0 → ∃ t, exec i s = .next t ∧ BreakTaken s t d) ∧
      ((dbgAttach s && dbgBrkHalt s) = false → s.core.trapVec = 0 → exec i s = .next (abortCore (committed s s) 16))) ∧
    (Flows .halt s →
      (dbgAttach s = true → ∃ t, exec .halt s = .next t ∧ HaltTaken s t 3) ∧
      (dbgAttach s = false → s.core.trapVec ≠ 0 → ∃ t, exec .halt s = .next t ∧ BreakTaken s t 0xFF) ∧
      (dbgAttach s = false → s.core.trapVec = 0 → exec .halt s = .next (abortCore (committed s s) 16)))

/-- The returns from a trap. RFT restores PRIV, IE, STEP and ENVOPEN from TRAPSW, goes to TRAPPC at the syllable that
SRF names where SRFV is set, and lets the held results go on from the next issue; no register changes. RFT.abort then
aborts the launch and RFT.replay replays the node, with the cause in SW. (Drawn from R400, R402, R403, R412; it does
not state the whole of each.) -/
def Obligations.ReturnsFromTraps : Prop :=
  ∀ s : State,
    (Flows .rft s → ∃ t, exec .rft s = .next t ∧ Returned s t) ∧
    (Flows .rftAbort s → ∃ t, Returned s t ∧ exec .rftAbort s = .next (abortCore t s.core.sw.cause.toNat)) ∧
    (∀ k : Task, s.core.task = some k → Flows .rftReplay s →
      ∃ t, Returned s t ∧ exec .rftReplay s = .next (nodeReplay t k.lnum k.node s.core.sw.cause.toNat))

/-- Privileged syllables trap in unprivileged mode. The privileged syllables are MPERT, the forms of RFT, XLINV, HALT,
TINJ and CSRW of the control registers that their maps reserve to privileged mode, and no other. In a bundle
that issued in unprivileged mode such a syllable takes the PRIVILEGE trap with its word in TRAPVAL, both when it is run
and when its bundle is checked.
(Drawn from R43, R61, R63, R397; it does not state the whole of each.) -/
def Obligations.PrivilegedSyllables : Prop :=
  ∀ (i : Instr) (s : State), isSyllable i = true → s.core.bundle ≠ [] →
    (privileged i = true ↔ (match i with
      | .mpert .. | .rft | .rftAbort | .rftReplay | .xlinv .. | .halt | .tinj .. => True
      | .csrw _ n => n.toNat ∈ [0, 1, 2, 0x22, 0x23, 0x24]
      | _ => False)) ∧
    (privileged i = true → s.core.privAt = false →
      exec i s = .next (trapDecode s .privilege s.core.idx (wordHere s.core))) ∧
    (∀ (k : Nat) (w : Syllable) (ws : List Syllable), privileged i = true → decode w = some i → checkEach false k (w :: ws) = some (k, w, .privilege))

/-- What a write of each control register stores. CSRW of each control register completes with the state in which the
register reads back the written value limited to its writable fields (SW, TRAPPC, TRAPVAL, TRAPSCR, TRAPSW, TRAPVEC,
QMAP0 to QMAP3, VCFG, QWAIT and the rest); a write of RNGCFG with EN enables a disabled ring, or is refused with ERR
and leaves it off, and one without EN disables an enabled ring or keeps the fields of a disabled one; writes of
read-only registers change nothing; no scalar or vector register, no memory changes. QMAP returns the old binding with
latency 2 and stores the new one, the other syllables of the bundle using the old binding, and leaves the other ports.
(Drawn from R39, R43, R128, R172, R220, R245, R253, R301, R397, R404, R417; it does not state the whole of each.) -/
def Obligations.ControlRegisterWrites : Prop :=
  (∀ (a : XReg) (n : BitVec 11) (s : State) (v : Word), readX s a = v → Flows (.csrw a n) s →
    Completes (.csrw a n) s (csrWrite s n.toNat v) ∧
    (n.toNat = 0 → (csrWrite s 0 v).core.sw = { s.core.sw with
      srf := ⟨v.toNat % 8, Nat.mod_lt _ (by decide)⟩, srfv := v.getLsbD 3, cause := v.extractLsb' 8 8, ie := v.getLsbD 16, priv := v.getLsbD 17
      step := v.getLsbD 18, causeDetail := v.extractLsb' 24 8 }) ∧
    (∀ k : Fin 4, n.toNat = 0x10 + k.val → csrRead (csrWrite s (0x10 + k.val) v) (0x10 + k.val) = qmapValue v ∧
      (∀ m : Fin 4, m ≠ k → (csrWrite s (0x10 + k.val) v).core.qmap[m] = s.core.qmap[m])) ∧
    (∀ k : Fin 16, n.toNat = 0x310 + k.val →
      let t := csrWrite s (0x310 + k.val) v
      let old := csrRead s (0x310 + k.val)
      (ringOn s.core k = false → v.getLsbD 63 = true → ringRefused s k (v &&& rngMask) = false →
        csrRead t (0x310 + k.val) = (v &&& rngMask) ||| (1#64 <<< 63) ∧ ∀ i, i < ringSpan t.core k → ringFirst t.core k + i ∈ t.engine) ∧
      (ringOn s.core k = false → v.getLsbD 63 = true → ringRefused s k (v &&& rngMask) = true →
        csrRead t (0x310 + k.val) = (v &&& rngMask) ||| (1#64 <<< 62) ∧ t.engine = s.engine) ∧
      (ringOn s.core k = true → v.getLsbD 63 = true → t = s) ∧
      (ringOn s.core k = false → v.getLsbD 63 = false → csrRead t (0x310 + k.val) = (v &&& rngMask) ||| (old &&& (1#64 <<< 62)) ∧ t.engine = s.engine) ∧
      (ringOn s.core k = true → v.getLsbD 63 = false → csrRead t (0x310 + k.val) = old &&& rngMask ∧ csrRead t (0x320 + k.val) = 0 ∧
        ∀ i, i < ringSpan s.core k → ringFirst s.core k + i ∉ t.engine)) ∧
    (n.toNat = 1 → csrRead (csrWrite s 1 v) 1 = v &&& 0x00FFFFFFFFFFFFFF) ∧
    (n.toNat ∈ [2, 0x23, 0x24, 0x101] → csrRead (csrWrite s n.toNat v) n.toNat = v) ∧
    (n.toNat = 0x22 → csrRead (csrWrite s 0x22 v) 0x22 = v &&& 0x00FFFFFFFFFFFFFC) ∧
    (n.toNat = 0x100 → csrRead (csrWrite s 0x100 v) 0x100 = v &&& 0x103) ∧
    (n.toNat = 0x102 → csrRead (csrWrite s 0x102 v) 0x102 = v &&& 0x0000FFFFFFFFFFFF) ∧
    (n.toNat = 0x200 → csrRead (csrWrite s 0x200 v) 0x200 = v &&& 0xFFFFFFFF) ∧
    (n.toNat = 0x301 → csrRead (csrWrite s 0x301 v) 0x301 = v &&& 0x00FFFFFFFFFFF000) ∧
    (n.toNat = 0x302 → csrRead (csrWrite s 0x302 v) 0x302 = csrRead s 0x302 &&& ~~~v) ∧
    (n.toNat = 0x400 → csrRead (csrWrite s 0x400 v) 0x400 = (if v &&& 0xFFF = 0 then 1 else v &&& 0xFFF)) ∧
    (n.toNat = 0x401 → csrRead (csrWrite s 0x401 v) 0x401 = v &&& 0x7F) ∧
    (n.toNat ∈ [0x20, 0x21, 0x25, 0x26, 0x300, 0x500, 0x501, 0x502] ∨ (0x320 ≤ n.toNat ∧ n.toNat ≤ 0x32F) → csrWrite s n.toNat v = s) ∧
    (csrWrite s n.toNat v).core.x = s.core.x ∧ (csrWrite s n.toNat v).core.v = s.core.v ∧ (csrWrite s n.toNat v).oc = s.oc ∧
    (csrWrite s n.toNat v).sys = s.sys) ∧
  (∀ (d a : XReg) (n : Fin 4) (s : State), Flows (.qmap d a n) s → MayWrite s d →
    ∃ u, Completes (.qmap d a n) s u ∧
      u = onCore (exposeX s 2 d s.core.qmap[n]) (fun c => { c with qmap := c.qmap.set n (qmapValue (readX s a)) }) ∧
      u.core.qmapAt = s.core.qmapAt ∧
      bits u.core.qmap[n].toNat 11 8 = bits (readNat s a) 11 8 ∧
      bits u.core.qmap[n].toNat 3 0 = (if bits (readNat s a) 3 0 ≤ 2 then bits (readNat s a) 3 0 else 0) ∧
      (∀ m : Fin 4, m ≠ n → u.core.qmap[m] = s.core.qmap[m]))

/-- Opening and closing an envelope. ENV with no envelope open stores the expected count and CRC, clears the count,
sets the CRC to all ones and opens the envelope; ENVC with an open envelope whose count and CRC agree closes it; each
of them otherwise goes to recovery with ENVELOPE_MISMATCH. (Drawn from R404, R414, R415; it does not state the whole
of each.) -/
def Obligations.Envelopes : Prop :=
  ∀ s : State,
    (∀ e : BitVec 21, Flows (.env e) s → s.core.sw.envOpen = false →
      ∃ u, Completes (.env e) s u ∧
        let v := ((s.core.lx.map (·.toNat)).getD 0) * 2 ^ 21 + e.toNat
        u = { s with core := { s.core with
          envExpect := BitVec.ofNat 16 (v % 2 ^ 16), envCrcExpect := BitVec.ofNat 32 (v / 2 ^ 16), envCount := 0, envCrc := 0xFFFFFFFF
          sw := { s.core.sw with envOpen := true } } }) ∧
    (∀ e : BitVec 21, Flows (.env e) s → s.core.sw.envOpen = true → exec (.env e) s = .next (recover s .envelopeMismatch)) ∧
    (Flows .envc s → s.core.sw.envOpen = true → s.core.envCount = s.core.envExpect → s.core.envCrc ^^^ 0xFFFFFFFF = s.core.envCrcExpect →
      Completes .envc s { s with core := { s.core with sw := { s.core.sw with envOpen := false } } }) ∧
    (Flows .envc s → (s.core.sw.envOpen = false ∨ s.core.envCount ≠ s.core.envExpect ∨ s.core.envCrc ^^^ 0xFFFFFFFF ≠ s.core.envCrcExpect) →
      exec .envc s = .next (recover s .envelopeMismatch))

/-- XLINV, XLWAIT and TINJ. XLINV drops exactly the covered translations, records the invalidation and its pending
count, and changes no register, memory or distributor; XLWAIT passes when no invalidation is pending and else waits;
TINJ marks the sector at a checked address, arms ENVFLIP, or writes LINJCTL. (Drawn from R135, R416, R419; it does not
state the whole of each.) -/
def Obligations.TranslationsAndInjection : Prop :=
  ∀ s : State,
    (∀ (d a : XReg) (k : BitVec 2), Flows (.xlinv d a k) s → MayWrite s d →
      ∃ u r, Completes (.xlinv d a k) s u ∧
        u.sys = { s.sys with tlb := s.sys.tlb.filter (fun e => !invCovers k.toNat (readX s a) e) } ∧
        u.core.inv = s.core.inv ++ [⟨r, k.toNat, readX s a, (s.sys.tlb.filter (invCovers k.toNat (readX s a))).length⟩] ∧
        (d.val ≠ 0 → boundPort s.core d = none → reservedHere s.core d = none → r = some s.core.nextId ∧ u.core.board = s.core.board ++ [{ id := s.core.nextId, dst := .x d, val := none, due := none }]) ∧
        u.core.x = s.core.x ∧ u.oc = s.oc ∧ u.dist = s.dist) ∧
    (Flows .xlwait s → (s.core.inv = [] → Completes .xlwait s s) ∧ (s.core.inv ≠ [] → Waits .xlwait s)) ∧
    (∀ (a : XReg) (e : BitVec 2) (r : Nat × Nat) (l : List (Nat × Nat)) (t : State), Flows (.tinj a e 0) s →
      gmCheck s (readNat s a : Int) 1 { wr := true } = .ok t (.gm (r :: l)) → Completes (.tinj a e 0) s (poisonGm t r.1)) ∧
    (∀ (a : XReg) (e : BitVec 2), Flows (.tinj a e 1) s → Completes (.tinj a e 1) s { s with core := { s.core with envFlip := true } }) ∧
    (∀ (a : XReg) (e : BitVec 2), Flows (.tinj a e 2) s → Completes (.tinj a e 2) s (linjStore s e.toNat (readX s a)))

/-- SLEEP waits while nothing wakes it. SLEEP completes at once when something wakes it at issue; otherwise it waits,
in its layer (the deepest layer drops the matrix panels), until something wakes it or its limit has passed, and then
completes with the wake clocks of its layer. (Drawn from R420; it does not state the whole of each.) -/
def Obligations.Sleep : Prop :=
  ∀ (s : State) (a : XReg) (l : BitVec 2), Flows (.sleep a l) s →
    (s.core.waiting = none → keepsSleeping s s.clock (readNat s a) = false → Completes (.sleep a l) s s) ∧
    (s.core.waiting = none → keepsSleeping s s.clock (readNat s a) = true → ∃ t, exec (.sleep a l) s = .next t ∧ t.core.waiting = some (s.clock, 0) ∧
      t.core.held = 1 ∧ Asleep s t l) ∧
    (∀ w, s.core.waiting = some w → keepsSleeping s w.1 (readNat s a) = true → ∃ t, exec (.sleep a l) s = .next t ∧ t.core.waiting = some w ∧
      t.core.held = 1 ∧ Asleep s t l) ∧
    (∀ w, s.core.waiting = some w → keepsSleeping s w.1 (readNat s a) = false → Completes (.sleep a l) s (wakeLayers s)) ∧
    ((wakeLayers s).core.lsLayer = 0 ∧ (wakeLayers s).core.bLayer = 0 ∧ (wakeLayers s).core.held =
      (if s.core.lsLayer = 0 ∧ s.core.bLayer = 0 then 0 else if s.core.lsLayer ≤ 1 ∧ s.core.bLayer ≤ 1 then 4 else 200))

/-- Loads and stores of LS and QS. A legal load of LS, or of QS with its grant, leaves its bytes, lowest address first,
in flight for 4 or 8 clocks with the poison mark of its sectors, and changes no memory and no other register. A legal
store changes exactly its bytes: each byte of the stored range holds the byte of the data register, every other byte
reads as before, and no register, tag, owner, engine or other memory changes. An access of QS without its grant holds
the core. (Drawn from R3, R36, R117, R120, R121, R122, R127, R137; it does not state the whole of each.) -/
def Obligations.LocalLoadsAndStores : Prop :=
  ∀ (i : Instr) (s : State) (sp : Nat) (z : Size) (d b : XReg) (o : BitVec 9), sp ≤ 1 → Flows i s →
    let a := effAddr s b 9 o.toNat z.bytes
    let oc := localBase sp + a.toNat
    (loadOf i = some (sp, z, d, b, o) → MayWrite s d → LocalOk s sp a z.bytes z.bytes → Granted s sp oc z.bytes false →
      ∃ u, Completes i s u ∧
        u.core.exposed = s.core.exposed ++ (match (lateDest s d).2 with
          | some dst => [{ dst := dst, val := leNat (s.oc.read oc z.bytes), due := s.core.sched + (if sp = 0 then 4 else 8)
                           mark := if s.oc.poisoned oc z.bytes then .poison (toWord a) else .clean }]
          | none => []) ∧
        u.oc = s.oc ∧ u.tags = s.tags ∧ u.engine = s.engine ∧ u.queues = s.queues ∧ (∀ a, a ≠ 0x4003000000 → hubGet u a = hubGet s a) ∧ u.dist = s.dist ∧ u.bte = s.bte ∧
        RegistersKept s (committed s u) (match (lateDest s d).2 with | some dst => [dst] | none => []) ∧ specialsKept s.core (committed s u).core) ∧
    (storeOf i = some (sp, z, d, b, o) → LocalStoreOk s sp a z.bytes z.bytes → Granted s sp oc z.bytes true →
      ∃ t, exec i s = .next t ∧
        (∀ k, oc ≤ k → k < oc + z.bytes → t.oc.byte k = BitVec.ofNat 8 (readNat s d / 256 ^ (k - oc))) ∧
        (∀ k, k < oc ∨ oc + z.bytes ≤ k → t.oc.byte k = s.oc.byte k) ∧
        RegistersKept s t [] ∧ specialsKept s.core t.core ∧
        t.tags = s.tags ∧ t.engine = s.engine ∧ t.vrEngine = s.vrEngine ∧ t.bte = s.bte ∧ t.rows = s.rows ∧ t.fabric = s.fabric ∧ t.replay = s.replay ∧
        t.folios = s.folios ∧ t.plat = s.plat ∧ (∀ a, a ≠ 0x4003000000 → hubGet t a = hubGet s a) ∧ untimed t.dist = untimed s.dist ∧ t.part = s.part ∧ t.sys.hbm = s.sys.hbm ∧ t.sys.msc = s.sys.msc ∧
        t.sys.l2 = s.sys.l2 ∧ t.sys.staged = s.sys.staged ∧ t.sys.host = s.sys.host) ∧
    (loadOf i = some (sp, z, d, b, o) → MayWrite s d → LocalOk s sp a z.bytes z.bytes → ¬ Granted s sp oc z.bytes false → Stalls i s) ∧
    (storeOf i = some (sp, z, d, b, o) → LocalStoreOk s sp a z.bytes z.bytes → ¬ Granted s sp oc z.bytes true → Stalls i s)

/-- Effective addresses and the checks of LS and QS. The effective address is the base plus the scaled offset; an FS
address keeps the block field of its base, and an offset outside 0 to 65,535 is an error. A core access outside LS or
QS faults with OC_UNMAPPED, one that meets an engine-owned granule faults with OWNER_VIOLATION or, in a ring, waits, a
store on a live barrier word faults with BARRIER_CLOBBER, in that order, and every other access passes. That an
effective address is an exact integer, and what TRAPVAL holds for an FS address outside its folio, are the model's
readings (log entries 7 and 34). (Drawn from R117, R118, R120, R121, R127, R137, R138; it does not state the whole of
each.) -/
def Obligations.AddressesAndLocalChecks : Prop :=
  (∀ (s : State) (sp : Nat) (b : XReg) (w off n : Nat),
    (sp ≠ 4 → meAddr s sp b w off n = .ok (effAddr s b w off n)) ∧
    (∀ o : Int, o = ((readNat s b % 65536 : Nat) : Int) + immOf s.core w off * n →
      (0 ≤ o → o < 65536 → meAddr s 4 b w off n = .ok (((readNat s b / 65536 * 65536 : Nat) : Int) + o)) ∧
      (o < 0 ∨ 65536 ≤ o → ∃ v, meAddr s 4 b w off n = .error v ∧ v.toNat / 65536 = readNat s b / 65536 ∧ (v.toNat % 65536 : Int) = o % 65536))) ∧
  (∀ (s : State) (sp n : Nat) (a : Int) (need : Need), sp ≤ 1 →
    (a < 0 ∨ (localSize sp : Int) < a + n → coreCheck s sp a n need = .fault s .ocUnmapped 0 (toWord a).toNat) ∧
    (0 ≤ a → a + n ≤ localSize sp →
      let oc := localBase sp + a.toNat
      ((∃ g ∈ granulesOf oc n, g ∈ s.engine) → (∀ g ∈ granulesOf oc n, g ∈ s.engine → ringOf s.core g = none) →
        coreCheck s sp a n need = .fault s .ownerViolation 7 (toWord a).toNat) ∧
      ((∃ g ∈ granulesOf oc n, g ∈ s.engine) → (∀ g ∈ granulesOf oc n, g ∈ s.engine → ringOf s.core g ≠ none) →
        coreCheck s sp a n need = .wait s) ∧
      ((∀ g ∈ granulesOf oc n, g ∉ s.engine) → need.wr = true → meetsTag s oc n = true →
        coreCheck s sp a n need = .fault s .barrierClobber 8 (toWord a).toNat) ∧
      ((∀ g ∈ granulesOf oc n, g ∉ s.engine) → (need.wr = true → meetsTag s oc n = false) →
        coreCheck s sp a n need = .ok s (.oc oc))))

/-- Atomics read, combine, store and return the old value. An atomic of LS, OC or GM whose checks pass completes with
the old value of its place as its result and the combined value stored there, one of QS with a request that does so at
its grant; CAS stores only when the old value equals the expected one, and is a load of its place where the load
already shows another value (the choice of the model, log entry 119). Add is modulo the width, min and max are signed,
and the logical operations and swap are exact. Which store the comparison of CAS looks at, and the timestamps of an
atomic of QS, are the model's readings (log entries 88 and 119). (Drawn from R122, R160, R161, R162, R163; it does not
state the whole of each.) -/
def Obligations.Atomics : Prop :=
  (∀ (i : Instr) (s t u : State) (sp n : Nat) (d b : XReg) (k : AmoOp) (o : BitVec 6) (p : Place), atomicOf i = some (sp, n, d, b, k, o) →
    Flows i s → MayWrite s d → (sp = 2 → amooWindow s (effAddr s b 6 o.toNat n) = true) →
    coreCheck s sp (effAddr s b 6 o.toNat n) n { rd := true, wr := true } = .ok t p → effAddr s b 6 o.toNat n % n = 0 →
    cleared t p = .ok u () →
    let a := effAddr s b 6 o.toNat n
    let v := readNat u d % 2 ^ (8 * n)
    let w := if sp = 0 then u else spoil u
    (sp ≠ 1 → let r := atomicAt w p n k v (readNat u (xNext d 1)) (coreViewer w)
      Completes i s (pendX r.1 d (BitVec.ofNat 64 r.2.1) (poisonAt r.2.2 a) (amoClocks sp))) ∧
    (∀ x, sp = 1 → p = .oc x →
      ∃ id y, Completes i s (askQs y { id := id, parts := [(bankMask x n, .amo x n k v (readNat u (xNext d 1)))], addr := toWord a, after := 12, start := some s.clock }) ∧
        y.oc = s.oc ∧ y.core.x = s.core.x ∧
        (∀ dst, (lateDest w d).2 = some dst → y.core.board = s.core.board ++ [{ id := id, dst := dst, val := none, due := none }]))) ∧
  (∀ (s : State) (q : QsReq) (oc n v c : Nat) (k : AmoOp),
    let old := leNat (s.oc.read oc n)
    let r := performGrant s q (.amo oc n k v c)
    r.2 = { q with got := old, poison := s.oc.poisoned oc n } ∧ r.1 = { s with oc := r.1.oc } ∧
    r.1.oc = (match amoNew k n old v c with
      | some new => s.oc.store oc (leBytes n new) (s.oc.poisoned oc n)
      | none => s.oc)) ∧
  (∀ (s : State) (p : Place) (n v c : Nat) (k : AmoOp) (w : Viewer),
    let l := placeRead s p n false w
    let r := placeRead s p n true w
    (k = .cas → leNat l.2.1 ≠ v → atomicAt s p n k v c w = (l.1, leNat l.2.1, l.2.2)) ∧
    (k ≠ .cas ∨ leNat l.2.1 = v → (atomicAt s p n k v c w).2 = (leNat r.2.1, r.2.2) ∧
      (atomicAt s p n k v c w).1 = (match amoNew k n (leNat r.2.1) v c with
        | some new => placeAtomic r.1 p (leBytes n new) r.2.2 w
        | none => loadAtHome r.1 p))) ∧
  (∀ (n old v w : Nat), n = 4 ∨ n = 8 → old < 2 ^ (8 * n) → v < 2 ^ (8 * n) →
    amoNew .add n old v w = some ((old + v) % 2 ^ (8 * n)) ∧ amoNew .and n old v w = some (old &&& v) ∧
    amoNew .or n old v w = some (old ||| v) ∧ amoNew .xor n old v w = some (old ^^^ v) ∧
    amoNew .swap n old v w = some v ∧ amoNew .cas n old v w = (if old = v then some (w % 2 ^ (8 * n)) else none) ∧
    (∃ m, amoNew .min n old v w = some m ∧ sext m (8 * n) = min (sext old (8 * n)) (sext v (8 * n)) ∧ (m = old ∨ m = v)) ∧
    (∃ m, amoNew .max n old v w = some m ∧ sext m (8 * n) = max (sext old (8 * n)) (sext v (8 * n)) ∧ (m = old ∨ m = v)))

/-- Element-wise vector syllables. Every element of the result registers is the tabled value of the elements of the
sources modulo its width, a masked-out element keeps the old value, the results are in flight for the tabled clocks,
and each register counts the saturations of its unmasked elements. (Drawn from R169, R170, R171, R177, R178, R180,
R181, R182, R184, R185; it does not state the whole of each.) -/
def Obligations.VectorLanes : Prop :=
  ∀ (i : Instr) (s : State) (t : ElemTy) (d : VReg) (r : Nat) (k : Bool) (n : Nat) (f : Nat → Nat × Bool),
    laneResult s i = some (t, d, r, k, n, f) → VFlows i s →
    ∃ (v c : Nat → Nat), Completes i s (exposeLanes s d r n v c) ∧
      ∀ q, q < r → v q < 2 ^ (t.width * t.count) ∧
        (∀ p, p < t.count → elem t.width (v q) p =
          if k && !maskBit s (p * r + q) then elem t.width (readV s (vreg (d.val + q))) p else (f (p * r + q)).1 % 2 ^ t.width) ∧
        c q = ((List.range t.count).filter (fun p => (!k || maskBit s (p * r + q)) && (f (p * r + q)).2)).length

/-- Vector comparisons, reductions and results for scalar registers. A comparison or a mask operation writes the
tabled bit for each of the 1,024 bits; a reduction or scan writes the value of the reduction tree over the unmasked
elements; VMOVX and MPOP give a scalar register the named element, extended by its type, and the number of mask bits.
(Drawn from R84, R168, R179, R183, R184, R186; it does not state the whole of each.) -/
def Obligations.VectorMasksAndReductions : Prop :=
  (∀ (i : Instr) (s : State) (d : MReg) (f : Nat → Bool), maskResult s i = some (d, f) → VFlows i s →
    ∃ v, Completes i s (exposeVec s 2 (.m d) v 0 .clean) ∧ v < 2 ^ 1024 ∧ ∀ j, j < 1024 → v.testBit j = f j) ∧
  (∀ (i : Instr) (s : State) (d : VReg) (v : Nat), reductionResult s i = some (d, v) → VFlows i s →
    Completes i s (exposeVec s 6 (.v d) v 0 .clean)) ∧
  (∀ (t : ElemTy) (d : XReg) (a : VReg) (b : XReg) (m : MReg) (s : State), MayWrite s d →
    (VFlows (.vmovx t d a b) s → Completes (.vmovx t d a b) s (exposeVecX s d
      (if t.isSigned then BitVec.ofInt 64 (laneInt s t a (readNat s b % t.count)) else BitVec.ofNat 64 (lane s t a (readNat s b % t.count))))) ∧
    (VFlows (.mpop t d m) s → Completes (.mpop t d m) s (exposeVecX s d (BitVec.ofNat 64 (popCount t.count (s.core.m[m]).toNat)))))

/-- Words written out from the layouts decode to their syllables. One word of each class, written field by field from
its layout, decodes to the syllable it stands for; words of classes 14 and 15, reserved SA op values and space codes 6
and 7 of class 3 decode to nothing. (Drawn from R45, R48, R49, R50, R51, R52, R53, R54, R55, R56, R57, R58; it does
not state the whole of each.) -/
def Obligations.WordsOfTheManual : Prop :=
  decode (BitVec.ofNat 32 0b0_0000_000001_00101_00110_00111_010_1_00) = some (.add ⟨2, true⟩ 5 6 7) ∧
  decode (BitVec.ofNat 32 0b1_0001_00000_00101_00110_111111111111) = some (.addi 5 6 0xFFF) ∧
  decode (BitVec.ofNat 32 0b1_0010_0100_011_0_11010_11111111111110) = some (.loop ⟨3, false⟩ 26 0x3FFE) ∧
  decode (BitVec.ofNat 32 0b0_0011_011_000_11_00101_00110_111111111) = some (.ldg .b8 5 6 0x1FF) ∧
  decode (BitVec.ofNat 32 0b0_0100_101010101010101010101010101) = some (.lx 0x5555555) ∧
  decode (BitVec.ofNat 32 0b0_0101_0000011_0001_00101_00110_00111_1) = some (.vfma .bf16 5 6 7 true) ∧
  decode (BitVec.ofNat 32 0b0_0110_00000111_00101_00110_00011_0000) = some (.vmskld 5 6 3) ∧
  decode (BitVec.ofNat 32 0b0_0111_001_100_00101_00110_11111111111) = some (.vldqCol 5 6 0x7FF) ∧
  decode (BitVec.ofNat 32 0b0_1000_00011_00101_00000_00000_0000_000) = some (.mzero 5) ∧
  decode (BitVec.ofNat 32 0b0_1001_00100_00101_00110_00111_0000001) = some (.barv 5 6 7 true) ∧
  decode (BitVec.ofNat 32 0b0_1010_00011_00101_00110_00111_0000010) = some (.frd 5 6 7 2) ∧
  decode (BitVec.ofNat 32 0b1_1011_00110_00000_00000_001_000000000) = some .endt ∧
  decode (BitVec.ofNat 32 0b0_1100_00011_0101_0110_00000_00000_0000) = some (.gmerge 5 6 false) ∧
  decode (BitVec.ofNat 32 0b1_1101_000001_00000_00000_00000000000) = some .rft ∧
  (∀ w : Syllable, w.extractLsb' 27 4 = 14 ∨ w.extractLsb' 27 4 = 15 → decode w = none) ∧
  (∀ w : Syllable, w.extractLsb' 27 4 = 0 → 39 ≤ (w.extractLsb' 21 6).toNat → decode w = none) ∧
  (∀ w : Syllable, w.extractLsb' 27 4 = 3 → 6 ≤ (w.extractLsb' 24 3).toNat → decode w = none)

/-- Every well-formed syllable has a word that decodes to it. For every well-formed syllable, with every operand at
every value that its encoding admits, and either stop bit, encode gives a word, that word decodes to the same
syllable, and its stop bit is the given one. (Drawn from R45, R48, R49, R50, R51, R52, R53, R54, R55, R56, R57, R58;
it does not state the whole of each.) -/
def Obligations.DecodeUndoesEncode : Prop :=
  ∀ (i : Instr) (stop : Bool), isSyllable i = true → wellFormed i = true →
    ∃ w, encode stop i = some w ∧ decode w = some i ∧ stopBit w = stop

/-- What reset leaves where the manual gives a value. In State.reset the control registers, the queue maps, the
statistics lanes, the lease, the credit limits, the format ranges, the MSC partitions, the power limit and the host
windows read the values that their maps give for reset, and every memory, the B store and the stores of tasks that are
not running (there are none) are in canonical form. Values that the model chose are not stated. (Drawn from R39, R43,
R79, R128, R148, R172, R197, R220, R238, R297, R301, R407; it does not state the whole of each.) -/
def Obligations.ResetState : Prop :=
  let s := State.reset
  csrRead s 0 = 0x20000 ∧ csrRead s 1 = 0 ∧ csrRead s 2 = 0 ∧ csrRead s 0x20 = 0 ∧ csrRead s 0x23 = 0 ∧ csrRead s 0x24 = 0 ∧ csrRead s 0x25 = 0 ∧
  csrRead s 0x100 = 0 ∧ csrRead s 0x101 = 0 ∧ csrRead s 0x102 = 0 ∧ csrRead s 0x200 = 0 ∧ csrRead s 0x302 = 0 ∧
  csrRead s 0x400 = 64 ∧ csrRead s 0x401 = 0 ∧ csrRead s 0x501 = 0 ∧
  (∀ n : Fin 16, csrRead s (0x310 + n) = 0 ∧ csrRead s (0x320 + n) = 0) ∧ (∀ n : Fin 4, s.core.qmap[n] = 0) ∧
  (∀ (g : GReg) (i : Fin 128), (laneOf s.core.g[g] i).isEmpty = true) ∧
  hubNat s 0x4003000000 = 64 ∧ (∀ d : Fin 3, hubNat s (unitBase d) = 16 ∧ hubNat s (unitBase d + 0x10) = 0) ∧
  (∀ (h : Fin 12) (n : Fin 16), hubNat s (frAddr h n 0) = 0) ∧ (∀ k : Fin 128, (sliceGet s k).cur = 0 ∧ (sliceGet s k).busy = false) ∧
  bits (hubNat s 0x4009000120) 47 32 = 2800 ∧ hubNat s 0x4009000110 = 0 ∧ (∀ n : Fin 8, hubNat s (0x4009000010 + 0x20 * n.val) = 0) ∧
  s.memInv = true

/-- Loads and stores trap with the cause and code of their check. A load or store of any space whose effective address
is an error, whose check fails, or which passes it but is not aligned to its size, traps with that cause, the code of
the reason and the space, and the address in TRAPVAL. (Drawn from R136, R137, R138; it does not state the whole of
each.) -/
def Obligations.AccessFaults : Prop :=
  ∀ (i : Instr) (s t : State) (sp n : Nat) (b : XReg) (o : BitVec 9) (need : Need) (d : Option XReg),
    accessOf i = some (sp, n, b, o, need, d) → Flows i s → (∀ r, d = some r → MayWrite s r) →
    (∀ w, meAddr s sp b 9 o.toNat n = .error w → Traps i s s .align (memDetail 4 sp) w) ∧
    (∀ (a : Int) (c : Cause) (r ad : Nat), meAddr s sp b 9 o.toNat n = .ok a → (sp = 4 → a % n = 0) → coreCheck s sp a n need = .fault t c r ad →
      Traps i s t c (memDetail r sp) (BitVec.ofNat 64 ad)) ∧
    (∀ (a : Int) (p : Place), meAddr s sp b 9 o.toNat n = .ok a → sp ≠ 4 → coreCheck s sp a n need = .ok t p → a % n ≠ 0 →
      Traps i s t .align (memDetail 2 sp) (toWord a)) ∧
    (∀ (a : Int) (p : Place), meAddr s sp b 9 o.toNat n = .ok a → sp = 4 → coreCheck s 4 a 1 need = .ok t p → a % n ≠ 0 →
      Traps i s s .align (memDetail 2 4) (toWord a))

/-- Loads and stores of every space complete. A load of OC, GM, FS or HM that passes its checks completes with the
bytes of its place, lowest address first, as a scoreboarded result after the clocks of its space, marked where a
sector is poisoned; a store of any space but QS that passes them, and has settled what other nodes have staged there,
completes with its bytes written to its place (of QS: LocalLoadsAndStores). What a store leaves: a store to an OC
address changes its bytes there and no others, one to the vector register window its register, one of HM joins the
stores on their way to the host and changes its bytes of what the task sees there, one of GM or FS changes its bytes of
its sector (in the L2, where its line is held there, or in the node's staged copy) and no other sector, each of them no
register, no engine and no other memory. (Drawn from R127, R137, R153; it does not state the whole of each.) -/
def Obligations.AccessesComplete : Prop :=
  (∀ (i : Instr) (s t u : State) (sp : Nat) (z : Size) (d b : XReg) (o : BitVec 9) (a : Int) (p : Place), Flows i s →
    meAddr s sp b 9 o.toNat z.bytes = .ok a → a % z.bytes = 0 →
    (loadOf i = some (sp, z, d, b, o) → 2 ≤ sp → MayWrite s d → coreCheck s sp a z.bytes { rd := true } = .ok t p →
      Completes i s (pendX (placeRead t p z.bytes false (coreViewer t)).1 d
        (BitVec.ofNat 64 (leNat (placeRead t p z.bytes false (coreViewer t)).2.1))
        (poisonAt (placeRead t p z.bytes false (coreViewer t)).2.2 a) (loadClocks sp))) ∧
    (storeOf i = some (sp, z, d, b, o) → coreCheck s sp a z.bytes { wr := true } = .ok t p → cleared t p = .ok u () →
      sp ≠ 1 → Completes i s (placeWrite u p (leBytes z.bytes (readNat u d)) (readMark u d != .clean) false (coreViewer u)))) ∧
  (∀ (s : State) (bs : List Byte) (m : Bool), bs.length ∈ [1, 2, 4, 8] →
    (∀ x : Nat, let t := placeWrite s (.oc x) bs m false (coreViewer s)
      (∀ k, x ≤ k → k < x + bs.length → t.oc.byte k = (bs[k - x]?).getD 0) ∧ (∀ k, k < x ∨ x + bs.length ≤ k → t.oc.byte k = s.oc.byte k) ∧
      RegistersKept s t [] ∧ specialsKept s.core t.core ∧ unitsKept s t ∧ farKept s t) ∧
    (∀ x : Nat, x % bs.length = 0 → let t := placeWrite s (.vregs x) bs m false (coreViewer s)
      RegistersKept s t [.v (vreg (x / 512))] ∧ specialsKept s.core t.core ∧ outsideKept s t ∧ t.queues = s.queues) ∧
    (∀ x : Nat, let t := placeWrite s (.host x) bs m false (coreViewer s)
      t = onCore s (fun c => { c with hmOrder := c.hmOrder ++ [(x, bs, m)] }) ∧
      (∀ k, x ≤ k → k < x + bs.length → (hostView t).byte k = (bs[k - x]?).getD 0) ∧
      (∀ k, k < x ∨ x + bs.length ≤ k → (hostView t).byte k = (hostView s).byte k)) ∧
    (∀ x : Nat, x % bs.length = 0 → stackFailed s (x / 32 * 32) = false →
      let t := placeWrite s (.gm [(x, bs.length)]) bs m false (coreViewer s)
      ((coreViewer s).stages = false → rangeOf s (x / 32 * 32) = none → (l2Line? s (x / 128)).isSome = true →
        sectorTakes (coherentRead t (x / 32)).2.1 (coherentRead s (x / 32)).2.1 (x % 32) bs ∧
        (∀ k, k ≠ x / 32 → (coherentRead t k).2 = (coherentRead s k).2) ∧
        t.sys.hbm = s.sys.hbm ∧ t.sys.msc = s.sys.msc ∧ t.sys.staged = s.sys.staged ∧ t.sys.host = s.sys.host ∧ t.oc = s.oc ∧
        RegistersKept s t [] ∧ specialsKept s.core t.core ∧ unitsKept s t) ∧
      (∀ e : Staged, (coreViewer s).stages = true → (coreViewer s).tag ≠ 0 → stagedAt s (x / 32) = some e → e.tag = (coreViewer s).tag →
        (∃ f, stagedAt t (x / 32) = some f ∧ f.tag = e.tag ∧ f.lnum = e.lnum ∧ f.node = e.node ∧ sectorTakes f.data.toNat e.data.toNat (x % 32) bs) ∧
        (∀ k, k ≠ x / 32 → stagedAt t k = stagedAt s k) ∧
        t.sys.hbm = s.sys.hbm ∧ t.sys.msc = s.sys.msc ∧ t.sys.l2 = s.sys.l2 ∧ t.sys.host = s.sys.host ∧ t.oc = s.oc ∧
        RegistersKept s t [] ∧ specialsKept s.core t.core ∧ unitsKept s t)))

/-- Cache ranges and fences. PFG, CWB and CINV with a legal range complete with the fill, write-back or invalidation
of every covered line, and with an empty range do nothing; HFENCE, EFENCE and VFENCE complete when what they order is
done and wait otherwise. What EFENCE and VFENCE wait for, that PFG needs the right RD, and TRAPVAL of a range that
faults are the model's choices (log entries 36, 53, 69 and 103). (Drawn from R140, R159, R165, R193; it does not state
the whole of each.) -/
def Obligations.CacheRangesAndFences : Prop :=
  ∀ s : State,
    (∀ (l b : XReg) (o : BitVec 9) (n : Nat) (a : Nat), n = (if l.val = 0 then 128 else bits (readNat s l) 39 0) → 0 < n →
      (a : Int) = ((readNat s b : Int) + immOf s.core 9 o.toNat * 128) / 128 * 128 →
      (∀ u, Flows (.pfg l b o) s → rangeWalk { rd := true } true fillLine s (runPages a ((n + 127) / 128 * 128)) = .ok u () →
        Completes (.pfg l b o) s u) ∧
      (∀ u, Flows (.cwb l b o) s → rangeWalk { rd := true } false writeBackLine s (runPages a ((n + 127) / 128 * 128)) = .ok u () →
        Completes (.cwb l b o) s (onCore u (fun c => { c with rangeBusy := true }))) ∧
      (∀ u, Flows (.cinv l b o) s → rangeWalk { wr := true } false invalidateLine s (runPages a ((n + 127) / 128 * 128)) = .ok u () →
        Completes (.cinv l b o) s (onCore u (fun c => { c with rangeBusy := true })))) ∧
    (∀ (i : Instr) (l b : XReg) (o : BitVec 9), i = .pfg l b o ∨ i = .cwb l b o ∨ i = .cinv l b o → l.val ≠ 0 → bits (readNat s l) 39 0 = 0 →
      Flows i s → Completes i s s) ∧
    (Flows .hfence s → (accessesDone s = true → Completes .hfence s s) ∧ (accessesDone s = false → Waits .hfence s)) ∧
    (Flows .efence s → (readsDone s = true → Completes .efence s s) ∧ (readsDone s = false → Waits .efence s)) ∧
    (VFlows .vfence s → (vecIdle s = true → Completes .vfence s s) ∧ (vecIdle s = false → Waits .vfence s))

/-- Reading after writing, and what a write leaves alone. A store of bytes to a byte memory leaves exactly them at its
addresses, every other byte as before, keeps the canonical form, marks every sector that poisoned data touches and
clears the mark of those that clean data covers whole. A core store to the on-chip memories does the same and changes
no register and no other memory. A core store within a GM sector outside every format range, of a line that the L2
holds or has a free way for, changes, as a coherent read sees it, exactly its bytes of that sector and no other sector
outside a format range. (Drawn from R3, R124, R127, R139; it does not state the whole of each.) -/
def Obligations.MemoryLaws : Prop :=
  (∀ (m : Mem) (a : Nat) (bs : List Byte) (p : Bool), m.wf = true →
    (m.store a bs p).wf = true ∧ (m.store a bs p).read a bs.length = bs ∧
    (∀ k, k < a ∨ a + bs.length ≤ k → (m.store a bs p).byte k = m.byte k) ∧
    (∀ k n j, j < n → (((m.store a bs p).read k n)[j]?).getD 0 = (m.store a bs p).byte (k + j)) ∧
    (∀ k, k ∈ (m.store a bs true).poison ↔ k ∈ m.poison ∨ (k * 32 < a + bs.length ∧ a < k * 32 + 32 ∧ bs ≠ [])) ∧
    (∀ k, k ∈ (m.store a bs false).poison ↔ k ∈ m.poison ∧ ¬(a ≤ k * 32 ∧ k * 32 + 32 ≤ a + bs.length))) ∧
  (∀ (s : State) (a : Nat) (bs : List Byte) (p : Bool) (v : Viewer), s.oc.wf = true →
    let t := placeWrite s (.oc a) bs p false v
    t.oc.read a bs.length = bs ∧ (∀ k, k < a ∨ a + bs.length ≤ k → t.oc.byte k = s.oc.byte k) ∧
    RegistersKept s t [] ∧ specialsKept s.core t.core ∧ t.sys.l2 = s.sys.l2 ∧ t.sys.msc = s.sys.msc ∧ t.sys.hbm = s.sys.hbm ∧
    t.sys.host = s.sys.host ∧ t.tags = s.tags ∧ t.engine = s.engine ∧ ∀ k, k ≠ 0x4003000000 → hubGet t k = hubGet s k) ∧
  (∀ (s : State) (sec off : Nat) (bs : List Byte) (p : Bool), s.sys.l2.wf = true → stackFailed s (sec * 32) = false → rangeOf s (sec * 32) = none → off + bs.length ≤ 32 → bs ≠ [] →
    ((∃ l ∈ s.sys.l2Lines, l.line = sec / 4) ∨ ∃ w, w < 16 ∧ ∀ l ∈ s.sys.l2Lines, l.line % l2Sets = sec / 4 % l2Sets → l.way ≠ w) →
    let t := plainWrite s sec off bs p .core
    (∀ j, j < 32 → elem 8 (coherentRead t sec).2.1 j =
      (if off ≤ j ∧ j < off + bs.length then ((bs[j - off]?).getD 0).toNat else elem 8 (coherentRead s sec).2.1 j)) ∧
    (∀ k, k ≠ sec → rangeOf s (k * 32) = none → (coherentRead t k).2.1 = (coherentRead s k).2.1) ∧
    t.sys.hbm = s.sys.hbm ∧ t.sys.msc = s.sys.msc ∧ t.oc = s.oc ∧ RegistersKept s t [] ∧ specialsKept s.core t.core)

/-- Vector loads and stores of 512 bytes. A legal vector load reads 512 bytes, element 0 lowest, and leaves them
exposed for 4 clocks from LS or as a queued scoreboarded result from elsewhere; a legal vector store writes them to
its place; one of QS asks for one grant of all banks, at which it does so. What TRAPVAL and a mark report for an
access in several units is the model's choice (log entry 104). (Drawn from R36, R122, R141; it does not state the
whole of each.) -/
def Obligations.VectorMemory : Prop :=
  ∀ (i : Instr) (s t u : State) (sp : Nat) (d : VReg) (b : XReg) (o : BitVec 11) (a : Int) (p : Place), VFlows i s →
    meAddr s sp b 11 o.toNat 512 = .ok a → a % 32 = 0 →
    (vloadOf i = some (sp, d, b, o) → coreCheck s sp a 512 { rd := true } = .ok t p →
      let r := placeRead t p 512 false (coreViewer t)
      (sp = 0 → Completes i s (exposeVec r.1 4 (.v d) (leNat r.2.1) 0 (poisonAt r.2.2 a))) ∧
      (2 ≤ sp → Completes i s (vecLoaded r.1 d (leNat r.2.1) (poisonAt r.2.2 a) false (loadClocks sp))) ∧
      (∀ x, sp = 1 → p = .oc x → Completes i s (qsLoad t d [(0, x, 512)] (toWord a)))) ∧
    (vstoreOf i = some (sp, d, b, o) → coreCheck s sp a 512 { wr := true } = .ok t p → cleared t p = .ok u () →
      (sp ≠ 1 → Completes i s (vmStored (placeWrite u p (leBytes 512 (readV u d)) (u.core.vmark[d] != .clean) false (coreViewer u)) sp)) ∧
      (∀ x, sp = 1 → p = .oc x → Completes i s (qsStore u [(x, leBytes 512 (readV u d))] (u.core.vmark[d] != .clean)))) ∧
    (∀ (us : List (Nat × Nat × Nat)) (w : Word), (qsLoad s d us w).core.vu.qs = s.core.vu.qs ++ [{ id := s.core.nextId, parts := [(BitVec.allOnes 32, .read us)], addr := w, after := 8, start := some s.clock }] ∧
      (qsLoad s d us w).core.board = s.core.board ++ [{ id := s.core.nextId, dst := .v d, val := none, due := none, vec := true }]) ∧
    (∀ (us : List (Nat × List Byte)) (k : Bool), (qsStore s us k).core.vu.qs = s.core.vu.qs ++ [{ id := s.core.nextId, parts := [(BitVec.allOnes 32, .write us k)], start := some s.clock }] ∧
      (qsStore s us k).core.board = s.core.board) ∧
    (∀ (q : QsReq) (us : List (Nat × Nat × Nat)), (performGrant s q (.read us)).1.oc = s.oc ∧
      (performGrant s q (.read us)).2.got = us.foldl (fun g u => setBits g (8 * (u.1 + u.2.2) - 1) (8 * u.1) (leNat (s.oc.read u.2.1 u.2.2))) q.got ∧
      (performGrant s q (.read us)).2.poison = (q.poison || us.any (fun u => s.oc.poisoned u.2.1 u.2.2))) ∧
    (∀ (q : QsReq) (us : List (Nat × List Byte)) (k : Bool), (performGrant s q (.write us k)).1.oc = us.foldl (fun m u => m.store u.1 u.2 k) s.oc)

/-- Rows and columns of a skewed tile, gathers and scatters. A row or a column of a skewed tile is 32 units of 16
bytes of QS, unit j being element j of the register, read or written exactly there at the grant of all banks. A gather takes each
selected unit of its register from the QS address of its index and keeps the others; a scatter writes each there. Both
hold the core for two clocks more and then take grants, each selected unit in one, none of which needs two units of one
bank. (Drawn from R122, R123, R142, R192; it does not state the whole of each.) -/
def Obligations.TilesAndGathers : Prop :=
  (
    ∀ (i : Instr) (s : State) (c : Bool) (d : VReg) (b : XReg) (o : BitVec 11) (l : List Nat), VFlows i s →
      tileUnits (readNat s b) (sext o.toNat 11) c = some l → (∀ a ∈ l, LocalOk s 1 (a : Int) 16 1) →
      (tileLoadOf i = some (c, d, b, o) →
        Completes i s (qsLoad s d ((l.zipIdx).map (fun a => (16 * a.2, 0x2000000000 + a.1, 16))) (readX s b))) ∧
      (tileStoreOf i = some (c, d, b, o) → (∀ a ∈ l, meetsTag s (0x2000000000 + a) 16 = false) →
        Completes i s (qsStore s ((l.zipIdx).map (fun a => (0x2000000000 + a.1, leBytes 16 (readV s d >>> (128 * a.2))))) (s.core.vmark[d] != .clean))) ∧
      l.length = 32) ∧
  (
    ∀ (s : State) (x y : XReg) (d : VReg), gatherBad (readNat s y) = false → readNat s x % unitSize (readX s y) = 0 →
      (∀ u ∈ unitList s (readX s x) (readX s y), LocalOk s 1 (u.2 : Int) (unitSize (readX s y)) 1) →
      let w := unitSize (readX s y)
      let us := unitList s (readX s x) (readX s y)
      let os := us.map (fun u => (u.1, 0x2000000000 + u.2))
      let c := checkClocks s
      (VFlows (.vgatherq x y d) s →
        let parts := gatherParts os (fun us => .read (us.map (fun u => (w * u.1, u.2, w))))
        Completes (.vgatherq x y d) s (gatherIssue (pendVec c (.v d) (if us = [] then some (readV s d) else none) .clean none 0 0).1 s.core.nextId
          { id := s.core.nextId, parts := parts, got := readV s d, addr := readX s x } 8)) ∧
      (VFlows (.vscatq x y d) s → (∀ u ∈ us, meetsTag s (0x2000000000 + u.2) w = false) →
        let parts := gatherParts os (fun us => .write (us.map (fun u => (u.2, leBytes w (readV s d >>> (8 * w * u.1))))) (s.core.vmark[d] != .clean))
        Completes (.vscatq x y d) s (gatherIssue (freshId c).1 s.core.nextId { id := s.core.nextId, parts := parts } 0)) ∧
      c.core.held = s.core.held + 2) ∧
  (∀ (us : List (Nat × Nat)) (f : List (Nat × Nat) → QsDo), ∃ gs : List (List (Nat × Nat)),
    (gatherParts us f).map (·.2) = gs.map f ∧ (∀ u, u ∈ us ↔ ∃ g ∈ gs, u ∈ g) ∧
    (∀ g ∈ gs, ∀ u ∈ g, ∀ v ∈ g, u.2 / 16 % 32 = v.2 / 16 % 32 → u.2 / 16 = v.2 / 16))

/-- Checked loads of a quantised tile. A checked load checks the trailer at its address and the data part before it;
from elsewhere than LS it then holds the core, and an entry of the command queue, until its grants or its bytes have
come. A block that passes the check goes to the register pair, one that fails it, or whose trailer has no legal form,
raises TRAILER_CHECK at its address. The width of the data part under a trailer of no legal form is the model's choice
(log entry 105). (Drawn from R78, R143; it does not state the whole of each.) -/
def Obligations.CheckedLoads : Prop :=
  ∀ (i : Instr) (s t t' : State) (sp : Nat) (v : Fin 16) (b : XReg) (f : ElemTy) (c : BitVec 7) (a : Int) (p p' : Place),
    chkOf i = some (sp, v, b, f, c) → VFlows i s → meAddr s sp b 7 c.toNat 32 = .ok a → a % 32 = 0 →
    let s0 := chkOver s
    coreCheck s0 sp a 32 { rd := true } = .ok t p →
    let tr := leNat (placeRead t p 32 false (coreViewer t)).2.1
    let len := dataLen (bits tr 95 64) (if blockFormat (bits tr 163 160) then bits tr 163 160 else f.code)
    0 < len → (sp = 4 → (len : Int) ≤ a % 65536) →
    coreCheck (placeRead t p 32 false (coreViewer t)).1 sp (a - len) len { rd := true } = .ok t' p' →
    (2 ≤ sp → s.core.vu.chk = none →
      exec i s = .next (stall (onVu (occupy (freshId t').1 t'.core.nextId none) (fun u => { u with chk := some (t'.core.nextId, t'.clock + loadClocks sp) })))) ∧
    (sp = 1 → s.core.vu.chk = none → ∃ w, exec i s = .next (stall w) ∧ (w.core.vu.chk = none ∨ ∃ q ∈ w.core.vu.qs, w.core.vu.chk = some (q.id, 0) ∧
      q.parts.length = 2 ∧ ∀ e ∈ q.parts, ∃ us, e.2 = .read us)) ∧
    (∀ id n, s.core.vu.chk = some (id, n) → (sp = 1 → s.core.vu.qs.any (fun q => q.id == id) = true) → (sp ≠ 1 → s.clock < n) → exec i s = .next (stall s)) ∧
    ((sp = 0 ∧ s.core.vu.chk = none) ∨ (sp ≠ 0 ∧ ∃ id n, s.core.vu.chk = some (id, n) ∧ (sp = 1 → s.core.vu.qs.any (fun q => q.id == id) = false) ∧ (sp ≠ 1 → n ≤ s.clock)) →
      let q := placeRead t' p 32 false (coreViewer t')
      let r := placeRead q.1 p' len false (coreViewer q.1)
      let x := leNat q.2.1
      (blockFormat (bits x 163 160) = false ∨ 512 < len → Traps i s q.1 .trailerCheck t'.core.idx (toWord a)) ∧
      (blockFormat (bits x 163 160) = true → len ≤ 512 → trailerBad x f.code r.2.1 = true → Traps i s q.1 .trailerCheck t'.core.idx (toWord a)) ∧
      (blockFormat (bits x 163 160) = true → len ≤ 512 → trailerBad x f.code r.2.1 = false →
        Completes i s (chkLoaded r.1 v (sp == 0) (if sp = 0 then 6 else if sp = 1 then 8 else 0)
          (leNat r.2.1, poisonAt r.2.2 a) (x, poisonAt q.2.2 a))))

/-- Permutations and the commands of the vector unit. VPERM takes each element from the place its index names; VSHUF,
VMSKLD and VSETCFG complete with the tabled results after their clocks, and VSETCFG of a reserved bit traps. (Drawn
from R84, R187, R188, R189, R190, R191; it does not state the whole of each.) -/
def Obligations.VectorCommands : Prop :=
  ∀ s : State,
    (∀ (t : ElemTy) (d a b : VReg) (k : Bool), VFlows (.vperm t d a b k) s →
      ∃ v, Completes (.vperm t d a b k) s (askQs (pendVec s (.v d) (some v) .clean none 0 0).1 { fullGrant s.core.nextId with start := some s.clock }) ∧
        v < 2 ^ 4096 ∧ ∀ j, j < t.count → elem t.width v j =
          if k && !maskBit s j then lane s t d j else lane s t a (lane s t b j % t.count)) ∧
    (∀ (x : XReg) (d : VReg) (v : Nat), VFlows (.vshuf x d) s → bits (readNat s x) 63 32 = 0 →
      (let n := 512 / (if bits (readNat s x) 11 10 = 3 then 16 else 2 ^ bits (readNat s x) 11 10)
       shuffle (bits (readNat s x) 15 12) (bits (readNat s x) 31 16) n (4096 / n)
         (readV s (vreg (bits (readNat s x) 4 0))) (readV s (vreg (bits (readNat s x) 9 5))) = some v) →
      Completes (.vshuf x d) s (vxIssue (askHeld (pendVec s (.v d) (some v) .clean none 0 0).1 { fullGrant s.core.nextId with vx := true })
        { ids := [], request := some s.core.nextId })) ∧
    (∀ (x y : XReg) (d : MReg), VFlows (.vmskld x y d) s →
      ∃ v, Completes (.vmskld x y d) s (vxResults s 2 [(.m d, v)] 0 0) ∧ v < 2 ^ 1024 ∧
        ∀ j, j < 1024 → v.testBit j = (decide (readNat s x ≤ j) && decide (j < readNat s y))) ∧
    (∀ x y : XReg, VFlows (.vsetcfg x y) s →
      ((readX s x &&& readX s y) &&& ~~~0x103 = 0 →
        Completes (.vsetcfg x y) s (onVu s (fun u => { u with vcfg := (u.vcfg &&& ~~~(readX s y)) ||| (readX s x &&& readX s y) }))) ∧
      ((readX s x &&& readX s y) &&& ~~~0x103 ≠ 0 →
        Traps (.vsetcfg x y) s s .illegalEncoding (0x40 + s.core.idx) (readX s x &&& readX s y)))

/-- Quantising and restoring a tile. VQCVT of n elements leaves the data part and the trailer that quantBlock gives in
the register pair; VDQCVT leaves each element as its block value times the scale, rounded to the destination type,
zero beyond the count, and counts the absent pairs. (Drawn from R77, R189, R190; it does not state the whole of each.) -/
def Obligations.Quantisation : Prop :=
  ∀ (s : State) (x : XReg),
    (∀ (y : XReg) (d : Fin 16) (n st df va sc sw regs : Nat), VFlows (.vqcvt x y d) s →
      readNat s x = va + 2 ^ 8 * st + 2 ^ 12 * df + 2 ^ 16 * b2n (bit (readNat s x) 16) + 2 ^ 32 * n → st ≤ 1 → df ∈ [2, 3, 6, 7, 12] →
      sw = (if st = 0 then 32 else 16) → regs = (if n * sw ≤ 4096 then 1 else if n * sw ≤ 8192 then 2 else 4) →
      0 < n → n ≤ 16384 / sw → n ≤ 4096 / fmtWidth df → va < 32 → va % regs = 0 →
      sc = bits (readNat s y) 31 0 →
      (bit (readNat s x) 16 = false → bits (readNat s y) 63 32 = 0 ∧ finite32 sc = true ∧ 0 < valueKey fmtF32 sc) →
      let xs := (List.range n).map (fun j =>
        let c := elem sw (readV s (vreg (va + j / (4096 / sw)))) (j % (4096 / sw))
        if st = 0 then c else bf16ToF32 c)
      let r := quantBlock df (vround s) (bit (readNat s x) 16) sc xs
      Completes (.vqcvt x y d) s (vxResults s (12 + 4 * (regs - 1)) [(.v (pairReg d), r.1), (.v (vreg ((pairReg d).val + 1)), r.2.1)] r.2.2 0)) ∧
    (∀ (d : VReg) (va st sp fmt cnt : Nat), VFlows (.vdqcvt x d) s → readNat s x = va + 2 ^ 8 * st + 2 ^ 12 * sp → va < 32 → va % 2 = 0 → st ≤ 1 → sp ≤ 2 →
      d.val % 2 ^ sp = 0 →
      let t := readV s (vreg (va + 1)) % 2 ^ 256
      let data := readV s (vreg va)
      let dw := if st = 0 then 32 else 16
      fmt = bits t 163 160 → cnt = bits t 95 64 → blockFormat fmt = true → bits t 255 164 = 0 → bits t 63 32 ≤ cnt → dataLen cnt fmt ≤ 512 → cnt ≤ 2 ^ sp * (4096 / dw) →
      Completes (.vdqcvt x d) s (vxResults s (8 + 4 * (2 ^ sp - 1))
        ((List.range (2 ^ sp)).map (fun r => (Dest.v (vreg (d.val + r)), packElems dw ((List.range (4096 / dw)).map (fun p =>
          let j := r * (4096 / dw) + p
          if j < cnt ∧ ¬(fmt = 12 ∧ s4oPlus data j = true)
          then (encodeFp (if st = 0 then fmtF32 else fmtBf16) (vround s) (mulFp (blockValue fmt data j) (decodeFp fmtF32 (bits t 127 96)))).1 else 0)))))
        0 (if fmt = 12 then absentPairs data cnt else 0)))

/-- Envelope bound, engine-owned vector registers and marked sources, in that order. A syllable that would pass the
bound of an open envelope goes to recovery; else one that names a vector register while an engine owns the file raises
OWNER_VIOLATION at the register window; else one with a poisoned source goes to recovery with POISON_CONSUMED, and one
with a source that a failed fabric operation marked raises the cause in the mark (the detail is a free value, log
entry 22). Which operands count as read, and that the owner is looked at before the marks, are the model's readings
(log entries 46, 47 and 70). (Drawn from R61, R127, R174, R404; it does not state the whole of each.) -/
def Obligations.MarksAndOwners : Prop :=
  ∀ (i : Instr) (s : State), isSyllable i = true → (∀ u, i ≠ .lx u) → s.core.bundle ≠ [] → (privileged i = true → s.core.privAt = true) →
    (envelopeFull s i = true → exec i s = .next (recover s .envelopeMismatch)) ∧
    (envelopeFull s i = false → enabled s.core i = true →
      (s.vrEngine = true → (uses i).vr ++ (uses i).vs ++ (uses i).vw ++ (wordRegs s i).1 ≠ [] → Traps i s s .ownerViolation 0 0x1000200000) ∧
      (s.vrEngine = false →
        (∀ a, raised s i = .poison a → exec i s = .next (recover s .poisonConsumed)) ∧
        (∀ c v, raised s i = .fabric c v → Traps i s (drawn s) (Cause.ofCode c.toNat) (bits (Config.freeWord s.free).toNat 7 0) v)))

/-- Statistics syllables lane by lane. GCLR, GADD, GWADD, GMERGE and GSET write each lane of their register as the
table gives it, keeping the lanes that a mask leaves out; GFOLD folds the 128 lanes level by level, lane j times 2^L
holding the merge of its neighbours and the others empty; merging with an empty lane and a sample of weight zero
change nothing. (States R205, R208.) -/
def Obligations.StatisticsUpdates : Prop :=
  ∀ (s : State),
    (∀ (i : Instr) (g : GReg) (n : Nat) (k : Mark) (f : Nat → Triple), statResult s i = some (g, n, k, f) → VFlows i s →
      Completes i s (pend s (.g g) (some (planar ((List.range 128).map f))) k (some n)).1) ∧
    (∀ (g h : GReg) (l : BitVec 3), VFlows (.gfold g h l) s →
      Completes (.gfold g h l) s
        (pend s (.g g) (some (planar ((List.range l.toNat).foldl (fun a k => foldLevel a (k + 1)) (lanesOf s h)))) .clean (some (4 + 8 * l.toNat))).1) ∧
    (∀ (a : List Triple) (k j : Nat), j < a.length → (foldLevel a (k + 1))[j]? = some (
      if j % 2 ^ (k + 1) = 0 then ((a[j]?).getD .empty).merge ((a[j + 2 ^ k]?).getD .empty)
      else if j % 2 ^ (k + 1) = 2 ^ k then .empty else (a[j]?).getD .empty)) ∧
    (∀ t : Triple, t.isEmpty = false → t.merge .empty = t ∧ Triple.empty.merge t = t) ∧
    (∀ (t : Triple) (x : Nat), t.update x 0 = t)

/-- Drains and memory images of a statistics register. GDRAIN writes the vector registers that its mode names, with
the clocks of the mode, and with .clr empties the register. The image of a statistics register is 1,536 bytes,
weights, means, then sums of squares: GLD reads it and GST writes it plane by plane, one at each grant, those of LS
from the issue clock on. (Drawn from R198, R201, R209, R210; it does not state the whole of each.) -/
def Obligations.StatisticsDrainsAndImages : Prop :=
  (
    ∀ (s : State) (g : GReg) (v : VReg) (w : XReg) (c : Bool) (m : DrainMode), VFlows (.gdrain g v w c m) s →
      let e := bits (readNat s w) 31 0
      let out (f : Triple → Nat) : Nat := packElems 32 ((lanesOf s g).map f)
      let fin (t : State) (n : Nat) : State := if c then (pend t (.g g) (some 0) .clean (some n)).1 else t
      match m with
      | .raw => Completes (.gdrain g v w c m) s (fin (pend (pend (pend s (.v v) (some (out (·.w))) .clean (some 2)).1
          (.v (vreg (v.val + 1))) (some (out (·.mean))) .clean (some 2)).1 (.v (vreg (v.val + 2))) (some (out (·.m2))) .clean (some 2)).1 2)
      | .mean => Completes (.gdrain g v w c m) s (fin (pend s (.v v) (some (out Triple.meanOf)) .clean (some 2)).1 2)
      | .var => Completes (.gdrain g v w c m) s (fin (pend s (.v v) (some (out Triple.var)) .clean (some 8)).1 8)
      | .svar => Completes (.gdrain g v w c m) s (fin (pend s (.v v) (some (out Triple.svar)) .clean (some 8)).1 8)
      | .rstd => Completes (.gdrain g v w c m) s (fin (pend s (.v v) (some (out (fun t => t.rstd e))) .clean (some 12)).1 12)
      | .norm => Completes (.gdrain g v w c m) s (fin (pend s (.v v)
          (some (packElems 32 ((List.range 128).map (fun i => (laneOf s.core.g[g] i).norm e (elem 32 (readV s v) i))))) .clean (some 16)).1 16)) ∧
  (
    ∀ (s : State) (g : GReg) (b : XReg) (q : Bool), LocalOk s (b2n q) (readNat s b : Int) 1536 512 →
      let oc := localBase (b2n q) + readNat s b
      (VFlows (.gld g b q) s → Completes (.gld g b q) s
        (askImage (pend s (.g g) none .clean none).1 q s.core.nextId (if q then 10 else 4) (readX s b) (fun j => .read [(512 * j, oc + 512 * j, 512)]))) ∧
      (VFlows (.gst g b q) s → (∀ j, j < 3 → meetsTag s (oc + 512 * j) 512 = false) → Completes (.gst g b q) s
        (askImage (freshId s).1 q s.core.nextId 0 (readX s b) (fun j => .write [(oc + 512 * j, leBytes 512 (planar (lanesOf s g) >>> (4096 * j)))] false)))) ∧
  (
    ∀ (s : State) (id n : Nat) (a : Word) (f : Nat → QsDo),
      let r (q : Bool) : QsReq := { id := id, kind := if q then .imageQs else .imageLs, parts := [(BitVec.allOnes 32, f 0), (BitVec.allOnes 32, f 1), (BitVec.allOnes 32, f 2)]
                                    addr := a, after := n, start := some (if q then s.clock else s.clock + 1) }
      (askImage s true id n a f).core.vu.qs = s.core.vu.qs ++ [r true] ∧
      askImage s false id n a f = serveQs (askQs s (r false)) (r false) ∧
      (∀ (q : QsReq) (m : BitVec 32) (d e : QsDo) (k : BitVec 32) (l : List (BitVec 32 × QsDo)), q.parts = (m, d) :: (k, e) :: l → ∃ t,
        serveQs s q = onVu (performGrant s q d).1 (fun u => { u with qs := u.qs.map (fun o => if o.id == q.id then t else o) }) ∧
        t.parts = (k, e) :: l ∧ t.got = (performGrant s q d).2.got ∧ t.poison = (performGrant s q d).2.poison))

/-- Matrix syllables are accepted with their operands. A matrix syllable whose operands are legal and whose ranges
pass their checks is accepted at the tail of its queue with the operands it has read: MMA, MMAT, MMAG, MZERO, MLDC,
MBWR (whose checked form holds the core until its operation has left, and then traps on a bad trailer) and MDRAIN. A panel number of 128 or more traps. Nothing else of the
queues changes. (Drawn from R214, R217, R226, R227, R228, R229, R230, R231, R232; it does not state the whole of
each.) -/
def Obligations.MatrixOperations : Prop :=
  ∀ (s : State),
    (∀ (i : Instr) (k : MxKind) (sp : Nat) (t : Tile) (a b : XReg) (f : ElemTy) (w z : Bool) (u : State) (p : Place),
      mmaOf i = some (k, sp, t, a, b, f, w, z) → Flows i s → readNat s b < 128 → readNat s a % 128 = 0 →
      coreCheck s sp (readNat s a : Int) 16384 { rd := true } (sp == 3) = .ok u p →
      let r := placeRead u p 16384 false (coreViewer u)
      Completes i s (mxAccept r.1 true true { kind := k, tile := t.val, fmt := f, addr := readNat s a, panel := readNat s b, z := z, w := w
                                              block := leNat r.2.1, poison := r.2.2 })) ∧
    (∀ (i : Instr) (k : MxKind) (sp : Nat) (t : Tile) (a b : XReg) (f : ElemTy) (w z : Bool), mmaOf i = some (k, sp, t, a, b, f, w, z) → Flows i s →
      128 ≤ readNat s b → Traps i s s .illegalEncoding (0x40 + s.core.idx) (readX s b)) ∧
    (∀ t : Tile, Flows (.mzero t) s → Completes (.mzero t) s (mxAccept s false true { kind := .mzero, tile := t.val })) ∧
    (∀ (t : Tile) (a : XReg) (f : ElemTy), Flows (.mldc t a f) s → LocalOk s 0 (readNat s a : Int) (if f = .bf16 then 16384 else 32768) 512 →
      let n := if f = .bf16 then 16384 else 32768
      ∃ u, u.oc = s.oc ∧ u.core.mx = s.core.mx ∧ RegistersKept s u [] ∧
        Completes (.mldc t a f) s (mxAccept u false true { kind := .mldc, tile := t.val, fmt := f, addr := readNat s a
                                                           block := leNat (s.oc.read (0x1000000000 + readNat s a) n)
                                                           poison := s.oc.poisoned (0x1000000000 + readNat s a) n })) ∧
    (∀ (a b : XReg) (f : ElemTy) (c : Bool), Flows (.mbwr a b f c) s → readNat s b < 128 → LocalOk s 0 (readNat s a : Int) (if c then 32800 else 32768) 512 →
      let bytes := s.oc.read (0x1000000000 + readNat s a) (if c then 32800 else 32768)
      let tr := leNat (bytes.drop 32768)
      let bad := c && (trailerBad tr f.code (bytes.take 32768) || bits tr 95 64 != 128 * mxK f)
      s.core.mx.chk = none →
      ∃ u, u.oc = s.oc ∧ u.core.mx = s.core.mx ∧ RegistersKept s u [] ∧
        (let t := mxAccept u false false { kind := .mbwr, tile := 32, fmt := f, addr := readNat s a, panel := readNat s b, w := c, block := leNat (bytes.take 32768), poison := s.oc.poisoned (0x1000000000 + readNat s a) (if c then 32800 else 32768), bad := bad }
         (c = false → Completes (.mbwr a b f c) s t) ∧
         (c = true → exec (.mbwr a b f c) s = .next (stall (onMx t (fun m => { m with chk := some (s.core.mx.order, bad) })))))) ∧
    (∀ (a b : XReg) (f : ElemTy) (c : Bool) (o : Nat) (bad : Bool), Flows (.mbwr a b f c) s → s.core.mx.chk = some (o, bad) →
      let t := onMx s (fun m => { m with chk := none })
      (s.core.mx.transfer.any (fun e => e.order == o) = true → exec (.mbwr a b f c) s = .next (stall s)) ∧
      (s.core.mx.transfer.any (fun e => e.order == o) = false → bad = false → Completes (.mbwr a b f c) s t) ∧
      (s.core.mx.transfer.any (fun e => e.order == o) = false → bad = true →
        Traps (.mbwr a b f c) s t .trailerCheck s.core.idx (BitVec.ofNat 64 (readNat s a + 32768)))) ∧
    (∀ (t : Tile) (a b : XReg) (f : ElemTy) (q j h : Bool), Flows (.mdrain t a b f q j h) s → bits (readNat s b) 63 51 = 0 →
      (bit (readNat s b) 39 = true → finite32 (bits (readNat s b) 31 0) = true) → (j = true → s.core.gmark[drainReg (readX s b)] = .clean) →
      LocalStoreOk s 0 (readNat s a : Int) (1024 * f.width) 512 → (h = true → LocalOk s 0 ((bits (readNat s b) 50 40 * 512 : Nat) : Int) 512 512) →
      ∃ u, u.oc = s.oc ∧ u.core.mx = s.core.mx ∧ RegistersKept s u [] ∧
        u.core.board = s.core.board ++ (if j then [{ id := s.core.nextId, dst := .g (drainReg (readX s b)), val := none, due := none }] else []) ∧
        Completes (.mdrain t a b f q j h) s (mxAccept u false q { kind := .mdrain, tile := t.val, fmt := f, addr := readNat s a, z := q, w := h, stat := j, desc := readX s b, block := if h then leNat (s.oc.read (0x1000000000 + bits (readNat s b) 50 40 * 512) 512) else 0 })) ∧
    (∀ (array writes : Bool) (o : MxOp),
      (mxAccept s array writes o).core.mx.order = s.core.mx.order + 1 ∧
      mxQueue (mxAccept s array writes o).core.mx array = mxQueue s.core.mx array ++ [{ o with issued := s.clock, order := s.core.mx.order }] ∧
      mxQueue (mxAccept s array writes o).core.mx (!array) = mxQueue s.core.mx !array)

/-- MWAIT, MSTAT and MPERT. MWAIT completes when the tile, or the unit, is idle and, with .brel, every array operation
has taken its last step, invalidating the panels, and waits otherwise; MSTAT writes the selected word; MPERT arms or
disarms the perturbation. (Drawn from R216, R233, R234, R235; it does not state the whole of each.) -/
def Obligations.MatrixWaits : Prop :=
  ∀ (s : State),
    (∀ (t : Tile) (r l : Bool), Flows (.mwait t r l) s →
      ((if l then mxIdle s else !tileBusy s t.val) = true → (r = true → s.core.mx.array.all (stepsTaken s) = true) →
        Completes (.mwait t r l) s (if r then onMx s (fun m => { m with panels := 0, panelPoison := 0 }) else s)) ∧
      ((if l then mxIdle s else !tileBusy s t.val) = false ∨ (r = true ∧ s.core.mx.array.all (stepsTaken s) = false) → Waits (.mwait t r l) s)) ∧
    (∀ (d : XReg) (e : BitVec 2), Flows (.mstat d e) s → MayWrite s d → Completes (.mstat d e) s (pendX s d (BitVec.ofNat 64 (mstatWord s e.toNat)) .clean 2)) ∧
    (∀ (t : Tile) (a b : XReg), (Flows (.mpert t a b true) s → Completes (.mpert t a b true) s (onMx s (fun m => { m with pert := none }))) ∧
      (∀ r c : Nat, Flows (.mpert t a b false) s → r < 64 → c < 128 → readNat s a = r + 2 ^ 8 * c → readNat s b < 2 ^ 32 →
        Completes (.mpert t a b false) s (onMx s (fun m => { m with pert := some { tile := t.val, row := r, col := c, val := readNat s b } }))))

/-- The elements of a matrix product. An element of an integer product is its accumulator plus the exact sum of the
products modulo 2^32; a BF16 one takes the products in ascending k with one rounding a step; one of an 8-bit float
format takes them in pairs, added exactly before the one rounding, with B in the other format where .mixb says so; a finished operation with
no perturbation armed writes each of the 8,192 elements of its tile so. (Drawn from R82, R83, R226; it does not state
the whole of each.) -/
def Obligations.MatrixElements : Prop :=
  ∀ (o : MxOp) (mx : Matrix) (c i j : Nat),
    (o.fmt.isFloat = false → mmaElem o mx c i j =
      wrapTo 32 ((c : Int) + ((List.range (mxK o.fmt)).map (fun k =>
        blockInt o.fmt o.block (aIndex (decide (o.kind = .mmat)) o.fmt i k) * bInt o.fmt mx o.panel k j)).sum)) ∧
    (o.fmt = .bf16 → o.w = false → mmaElem o mx c i j = (List.range 128).foldl (fun c k => rF32 .rne (addFp .rne (decodeFp fmtF32 c)
      (mulFp (decodeFp fmtBf16 (elem 16 o.block (aIndex (decide (o.kind = .mmat)) .bf16 i k))) (decodeFp fmtBf16 (elem 16 (panelSlice mx o.panel j) k))))) c) ∧
    (∀ g : ElemTy, (o.fmt = .e4m3 ∧ g = (if o.w then .e5m2 else .e4m3)) ∨ (o.fmt = .e5m2 ∧ g = (if o.w then .e4m3 else .e5m2)) →
      let p (k : Nat) : Fp := mulFp (decodeFp o.fmt.fmt (elem 8 o.block (aIndex (decide (o.kind = .mmat)) o.fmt i k)))
        (decodeFp g.fmt (elem 8 (panelSlice mx o.panel j) k))
      mmaElem o mx c i j = (List.range 128).foldl (fun c k => rF32 .rne (addFp .rne (decodeFp fmtF32 c) (addFp .rne (p (2 * k)) (p (2 * k + 1))))) c) ∧
    (∀ s : State, s.oc.wf = true → s.core.mx = mx → mx.pert = none → ∀ e, e < 8192 →
      elem 32 (tileGet (arrayResult s o) o.tile) e =
        mmaElem o mx (if o.z then 0 else elem 32 (tileGet s o.tile) e) (e / 128) (e % 128) % 2 ^ 32)

/-- Engine registers and arming a shadow set. ERW writes a writable shadow register of a named engine and traps beyond
engine 83, ERR reads a register of it after 4 clocks, and ESWAP accepts the shadow set as a command at the tail of its
queue, which starts at once on an idle channel. (Drawn from R246, R278, R302, R317; it does not state the whole of each.) -/
def Obligations.EngineRegisters : Prop :=
  ∀ (s : State) (a b d : XReg),
    (∀ n : BitVec 5, Flows (.erw a b n) s →
      (readNat s a < 84 → Completes (.erw a b n) s
        (if shadowWritable (readNat s a) n.toNat then eregSet s (readNat s a) (32 + n.toNat) (readX s b &&& shadowMask (readNat s a) n.toNat) else s)) ∧
      (84 ≤ readNat s a → Traps (.erw a b n) s s .illegalEncoding (0x40 + s.core.idx) (readX s a))) ∧
    (∀ n : BitVec 6, Flows (.err d a n) s → readNat s a < 84 → MayWrite s d →
      Completes (.err d a n) s (pendX s d (eregGet s (readNat s a) n.toNat) .clean 4)) ∧
    (Flows (.eswap a) s → readNat s a < 84 → Completes (.eswap a) s (armEngine s (readNat s a))) ∧
    (∀ e, e < 64 →
      let t := bteAccept { s with bte := { s.bte with armed := insertKey e s.bte.armed } } e 0 0 true
      t.bte.armed = insertKey e s.bte.armed ∧ t.core = s.core ∧
      (chanOf t e).queue = (chanOf s e).queue ++ [{ index := 0, delta := 0, armed := true, lnum := (coreUser s).lnum, node := (coreUser s).node
                                                    tag := (coreUser s).tag, priv := (coreUser s).priv, accepted := s.clock }] ∧
      armEngine s e = (if (chanOf s e).queue = [] ∧ (chanOf s e).active = none ∧ (chanOf s e).post = [] then bteStart t e else t)) ∧
    (∀ (e n : Nat) (v : Word), eregGet (eregSet s e n v) e n = v)

/-- Barrier words and their syllables. BINIT makes a word live with its counts or frees it; BARV and BADD update it
and BARV returns the old phase, those of a word in QS at their grant; BWAIT passes, and BTEST answers one, when the
phase differs from the given one. An
update takes n arrivals and adds e sectors; when both pending counts are then zero, the phase advances modulo 16 and
both are reloaded. (Drawn from R247, R248, R249, R250, R251, R252; it does not state the whole of each.) -/
def Obligations.BarrierSyllables : Prop :=
  ∀ (s : State) (a b d : XReg) (q : Bool), BarrierOk s q (readNat s a) →
    let oc := localOc q (readNat s a)
    (Flows (.binit a b false q) s → bits (readNat s b) 63 56 = 0 → barrierLive s oc = false →
      let t := stampSignal (barrierSet s oc ⟨bits (readNat s b) 55 20, bits (readNat s b) 19 0, bits (readNat s b) 55 20, bits (readNat s b) 19 0, 0⟩) (ocKey oc)
      Completes (.binit a b false q) s { t with tags := insertKey (oc / 16) t.tags }) ∧
    (Flows (.binit a b true q) s → Completes (.binit a b true q) s { s with tags := eraseKey (oc / 16) s.tags }) ∧
    (Flows (.barv d a b q) s → MayWrite s d → bits (readNat s b) 63 56 = 0 → barrierLive s oc = true →
      Completes (.barv d a b q) s (if q then askBarrier s oc (some d) (.update oc (bits (readNat s b) 19 0) (bits (readNat s b) 55 20))
        else pendX (barrierUpdate (observe s) oc (bits (readNat s b) 19 0) (bits (readNat s b) 55 20)) d (BitVec.ofNat 64 (barrierAt s oc).phase) .clean 4)) ∧
    (Flows (.bwait a b q) s → barrierLive s oc = true → (q = true → meetsWaiting s oc 16 false = false) →
      ((barrierAt s oc).phase ≠ readNat s b % 16 → Completes (.bwait a b q) s (observe s)) ∧
      ((barrierAt s oc).phase = readNat s b % 16 → Waits (.bwait a b q) s)) ∧
    (Flows (.bwait a b true) s → q = true → barrierLive s oc = true → meetsWaiting s oc 16 false = true → Waits (.bwait a b true) s) ∧
    (Flows (.btest d a b q) s → MayWrite s d → barrierLive s oc = true →
      Completes (.btest d a b q) s (if q then askBarrier s oc (some d) (.test oc (readNat s b % 16))
        else pendX (observe s) d (BitVec.ofNat 64 (b2n (decide ((barrierAt s oc).phase ≠ readNat s b % 16)))) .clean 4)) ∧
    (∀ e : Int, Flows (.badd a b q) s → barrierLive s oc = true → readX s b = BitVec.ofInt 64 e → -(2 ^ 35) ≤ e → e < 2 ^ 35 →
      Completes (.badd a b q) s (if q then askBarrier s oc none (.update oc 0 e) else barrierUpdate (observe s) oc 0 e)) ∧
    (∀ (r : QsReq) (x n : Nat) (e : Int), performGrant s r (.update x n e) = (barrierUpdate s x n e, { r with got := (barrierAt s x).phase })) ∧
    (∀ (r : QsReq) (x ph : Nat), performGrant s r (.test x ph) = (observe s, { r with got := b2n (decide ((barrierAt s x).phase ≠ ph)) })) ∧
    (∀ (w : BarrierWord) (n : Nat) (e : Int), w.update n e =
      let ap := wrapTo 20 (w.apend - n)
      let sp := wrapTo 36 (w.spend + e)
      if ap = 0 ∧ sp = 0 then { w with phase := (w.phase + 1) % 16, apend := w.areload, spend := w.sreload } else { w with apend := ap, spend := sp })

/-- Windows, rings and ownership. WADV releases rows of the running window, WPOS answers its position, RCNT releases
ring slots and answers the counts; OWNE gives granules, or the vector register file when no result is pending for it,
to the engines; a release, or a gift, of what an earlier access of the core still holds is held; OWNC asks for them
back, waits until the flip is performed, and completes. TRAPVAL of a refused OWNC is a free value (log entry 22), and
a gift is held in place behind earlier accesses of its own bundle by the model's reading (log entry 117). (Drawn from
R253, R254, R255, R256, R257, R258; it does not state the whole of each.) -/
def Obligations.WindowsRingsOwners : Prop :=
  ∀ (s : State) (a b d : XReg),
    (Flows (.wadv d a b) s → MayWrite s d → readNat s a < 64 →
      (windowOf s (readNat s a) = none → Completes (.wadv d a b) s (pendX s d 0 .clean 2)) ∧
      (∀ w, windowOf s (readNat s a) = some w →
        let t := template w.words
        let m := min (readNat s b) (rngFilled (ringCnt s t.ring))
        let v := { w with released := w.released + m, fetchTo := min t.nrows (w.fetchTo + m) }
        let r := releaseSlots m (observe s) t.ring
        let r := setChan r (readNat s a) { chanOf r (readNat s a) with active := some v }
        (releaseWaits s t.ring m = false →
          Completes (.wadv d a b) s (pendX (if v.released = t.nrows ∧ v.next = v.total then bteFinish r (readNat s a) v else r) d (BitVec.ofNat 64 m) .clean 2)) ∧
        (releaseWaits s t.ring m = true → Stalls (.wadv d a b) s))) ∧
    (Flows (.wpos d a) s → MayWrite s d → readNat s a < 64 →
      Completes (.wpos d a) s (pendX s d (match windowOf s (readNat s a) with
        | some w => BitVec.ofNat 64 (w.fetchTo * 2 ^ 32 + w.released) | none => BitVec.allOnes 64) .clean 2)) ∧
    (Flows (.rcnt d a b) s → MayWrite s d → readNat s a < 16 →
      (ringOn s.core (readNat s a) = false → Completes (.rcnt d a b) s (pendX s d 0 .clean 2)) ∧
      (ringOn s.core (readNat s a) = true → readNat s b = 0 ∨ ringInWindow s (readNat s a) = false →
        let m := min (readNat s b) (rngFilled (ringCnt s (readNat s a)))
        let r := releaseSlots m (observe s) (readNat s a)
        (releaseWaits s (readNat s a) m = false → Completes (.rcnt d a b) s (pendX r d (ringCnt r (readNat s a)) .clean 2)) ∧
        (releaseWaits s (readNat s a) m = true → Stalls (.rcnt d a b) s)) ∧
      (ringOn s.core (readNat s a) = true → readNat s b ≠ 0 → ringInWindow s (readNat s a) = true →
        Traps (.rcnt d a b) s (drawn s) .accessDenied 4 (Config.freeWord s.free))) ∧
    (∀ q : Bool, Flows (.owne a b true q) s →
      (vbusy s.core = false → statVectorPending s.core = false → Completes (.owne a b true q) s { s with vrEngine := true }) ∧
      (vbusy s.core = true ∨ statVectorPending s.core = true → Traps (.owne a b true q) s s .ownerViolation 1 (BitVec.ofNat 64 vrBase))) ∧
    (∀ q : Bool, Flows (.ownc a b true q) s → s.core.waiting = none → ∃ t, exec (.ownc a b true q) s = .next t ∧ t.bte.flips = some ([], true) ∧
        t.core.held = 1 ∧ t.core.waiting = some (s.clock, 0) ∧ t.core.idx = s.core.idx) ∧
    (∀ q : Bool, 0 < readNat s b → readNat s a % 4096 = 0 → readNat s a + readNat s b * 4096 ≤ localSize (b2n q) →
      let gs := (List.range (readNat s b)).map (fun i => (localBase (b2n q) + readNat s a) / 4096 + i)
      (∀ g ∈ gs, ringOf s.core g = none) →
      (Flows (.owne a b false q) s →
        (oweWaits s q (readNat s a) (readNat s b) = false → Completes (.owne a b false q) s (flipTo s true gs)) ∧
        (oweWaits s q (readNat s a) (readNat s b) = true → Stalls (.owne a b false q) s)) ∧
      (Flows (.ownc a b false q) s → s.core.waiting = none → ∃ t, exec (.ownc a b false q) s = .next t ∧ t.bte.flips = some (gs, false) ∧
        t.core.held = 1 ∧ t.core.waiting = some (s.clock, 0) ∧ t.core.idx = s.core.idx)) ∧
    (∀ v q : Bool, Flows (.ownc a b v q) s → s.core.waiting.isSome = true →
      (s.bte.flips = none → Completes (.ownc a b v q) s s) ∧ (s.bte.flips ≠ none → Waits (.ownc a b v q) s)) ∧
    (∀ (gs : List Nat) (v : Bool), s.bte.flips = some (gs, v) →
      (performFlips s).bte.flips = none ∧ (∀ g, g ∈ (performFlips s).engine ↔ g ∈ s.engine ∧ g ∉ gs) ∧ (performFlips s).vrEngine = (!v && s.vrEngine)) ∧
    (∀ (gs : List Nat) (g : Nat), g ∈ (flipTo s true gs).engine ↔ g ∈ s.engine ∨ g ∈ gs)

/-- Row syllables queue at their port; ROWQ. A row syllable with a legal descriptor and aligned addresses queues its
operation at the tail of its port; ROWQ answers after 40 clocks how the rows of two addresses lie: same subarray, same
stack, either in the span of a format range, both in bitwise regions, or only bit 4 when a translation fails; a walk that waits at
a moving page leaves the answer for later. (Drawn from R267,
R268, R274; it does not state the whole of each.) -/
def Obligations.RowOperations : Prop :=
  ∀ (s : State),
    (∀ (i : Instr) (op : Nat) (c a b e : XReg), rowOf i = some (op, c, a, b, e) → Flows i s → rowDescBad (readNat s c) = false →
      readNat s a % 32 = 0 → (op ≠ 14 → readNat s b % 32 = 0) → (15 ≤ op → op ≤ 17 → readNat s e % 32 = 0) →
      let k := bits (readNat s c) 18 16
      Completes i s { s with rows := { s.rows with ports := storeAt s.rows.ports k { rowPortOf s k with
        queue := (rowPortOf s k).queue ++ [{ op := op, dst := readX s a, a := readX s b, b := readX s e, desc := readX s c, lnum := (coreUser s).lnum
                                             node := (coreUser s).node, tag := (coreUser s).tag, priv := (coreUser s).priv, accepted := s.clock }] } } }) ∧
    (∀ (d a b : XReg), Flows (.rowq d a b) s → MayWrite s d →
      (∀ v, rowqWord s s.core.privAt (readX s a) (readX s b) = some v → Completes (.rowq d a b) s (pendX s d (BitVec.ofNat 64 v) .clean 40)) ∧
      (∀ (t : State) (e : Dest), rowqWord s s.core.privAt (readX s a) (readX s b) = none → lateDest s d = (t, some e) →
        Completes (.rowq d a b) s { (pend t e none .clean none).1 with rows := { t.rows with asks := t.rows.asks ++
          [{ id := t.core.nextId, a := readX s a, b := readX s b, issued := s.clock, priv := s.core.privAt }] } })) ∧
    (∀ (p : Bool) (a b : Word) (x y : Nat), rowqPage s p a = some (some x) → rowqPage s p b = some (some y) →
      rowqWord s p a b = some (b2n (subarrayOf s (x / 2048 * 2048) == subarrayOf s (y / 2048 * 2048)) + 2 * b2n (stackOf s x == stackOf s y) +
        4 * b2n (inSpan s x || inSpan s y) + 8 * b2n (inBitwise s x && inBitwise s y))) ∧
    (∀ (p : Bool) (a b : Word), rowqPage s p a ≠ none → rowqPage s p b ≠ none → rowqPage s p a = some none ∨ rowqPage s p b = some none →
      rowqWord s p a b = some 16) ∧
    (∀ (p : Bool) (a b : Word), rowqPage s p a = none ∨ rowqPage s p b = none → rowqWord s p a b = none)

/-- The folio syllables. With the store on, FOALLOC, FOSHARE, FOFREE, FOLOOK, FOPIN, FOUNPIN and FOPOOL complete with
the manager performed on the named folio, the returned code or word, and the clocks of each, under the conditions in
which each succeeds. That FOPIN raises no trap, the clocks of FOALLOC, and when FOPIN.cq posts its word are the
model's choices (log entries 59 and 109). (Drawn from R345, R352, R353, R354, R355, R356, R358, R359; it does not
state the whole of each.) -/
def Obligations.FolioCalls : Prop :=
  ∀ (s : State) (d a b : XReg), folioOn s = true → MayWrite s d →
    let n := readNat s a / 2 ^ 16
    (∀ (u : State) (f more : Nat), Flows (.foalloc d a) s → folioNamed s n = none → writableFrame (spoil s) = some (u, f, more) →
      let r := putFrame u f (List.replicate 2048 (0, false))
      let r := { r with folios := { r.folios with folios := r.folios.folios ++ [{ names := [(n, 0)], state := 1, frame := f, lastUse := r.clock, ready := r.clock + 600 + more }] } }
      Completes (.foalloc d a) s (folioAnswer r n d 0 (600 + more))) ∧
    (∀ f, Flows (.foalloc d a) s → folioNamed s n = some f → Completes (.foalloc d a) s (folioAnswer (spoil s) n d 1 600)) ∧
    (Flows (.foalloc d a) s → folioNamed s n = none → writableFrame (spoil s) = none → Completes (.foalloc d a) s (folioAnswer (spoil s) n d 3 600)) ∧
    (∀ f, Flows (.foshare d a b) s → folioNamed s n = some f → folioNamed s (readNat s b / 2 ^ 16) = none → shareCount f < 65535 →
      Completes (.foshare d a b) s (folioAnswer (setFolio (spoil s) n (fun f => { f with names := f.names ++ [(readNat s b / 2 ^ 16, 0)] })) n d 0 30)) ∧
    (∀ f, Flows (.fofree d a) s → folioNamed s n = some f → pinOf f n = 0 → (shareCount f = 1 → hasFrame f = true → frameStaged s f.frame = false) →
      (∀ t ∈ s.folios.touched, t.2 ≠ n) → Completes (.fofree d a) s (folioAnswer (dropName (spoil s) n) n d 0 30)) ∧
    (Flows (.folook d a) s → Completes (.folook d a) s (folioAnswer s n d (lookWord s n) 20)) ∧
    (∀ (q : Bool) (f : Folio), Flows (.fopin d a b q) s → folioNamed s n = some f → pinOf f n < 255 → f.state = 1 →
      let w := pinWord 0 (bits (readNat s b) 63 48) false
      let r := setFolio (spoil s) n (fun f => { f with lastUse := s.clock, names := f.names.map (fun p => if p.1 == n then (p.1, p.2 + 1) else p) })
      let m := max 30 (f.ready - s.clock)
      Completes (.fopin d a b q) s (folioAnswer (if q then { r with folios := { r.folios with post := r.folios.post ++ [(s.clock + m, w)] } } else r) n d w.toNat m)) ∧
    (∀ f, Flows (.founpin d a) s → folioNamed s n = some f → pinOf f n ≠ 0 →
      let r := undegrade (setFolio (spoil s) n (fun f => { f with names := f.names.map (fun p => if p.1 == n then (p.1, p.2 - 1) else p) })) n
      Completes (.founpin d a) s (folioAnswer r n d 0 20)) ∧
    (Flows (.fopool d a) s → readNat s a ≤ 6 → Completes (.fopool d a) s (pendX s d (BitVec.ofNat 64 (poolCount s (readNat s a))) .clean 20))

/-- Fabric syllables queue their command at a port. FSEND, FWR, FWRS, FRD, FSIG and FMCAST with legal operands queue
their command at the tail of their port with the issuing task, and trap with an illegal operand. A pod-scope FWRS.sc
and FAMO that may be sent are held for the seat of the core, FAMO with its scoreboarded result. TRAPVAL of FAMO and of
a pod-scope FWRS.sc holds the remote address, and an illegal operand traps with the detail of the syllable's index, by
the model's readings (log entries 73 and 130). (Drawn from R301, R302, R303, R304, R305, R306, R307, R308; it does not
state the whole of each.) -/
def Obligations.FabricCommands : Prop :=
  ∀ (s : State),
    (∀ (i : Instr) (n : Fin 8) (c : FabCmd), fabricOf s i = some (n, c) → Flows i s →
      (fabOperand c = none → Completes i s (fabAccept s n c)) ∧
      (∀ w, fabOperand c = some w → Traps i s s .illegalEncoding (0x40 + s.core.idx) w)) ∧
    (∀ (d a b : XReg) (n : Fin 8), Flows (.fwrsSc d a b n) s →
      let c : FabCmd := { op := 2, flag := true, desc := readNat s d, laddr := readNat s a, raddr := readNat s b, bar := readNat s (xNext b 1) }
      fabOperand c = none → (scRefusal s (coreLnum s) (descPkg c.desc) = none → Completes (.fwrsSc d a b n) s (fabAccept s n c)) ∧
        (∀ k, scRefusal s (coreLnum s) (descPkg c.desc) = some k → Traps (.fwrsSc d a b n) s s .accessDenied k (readX s b))) ∧
    (∀ (n : Fin 8) (c : FabCmd), (fabPort (fabAccept s n c) n).queue = (fabPort s n).queue ++
      [{ c with pin := if bit (csrSeen s 0x401 s.fabric.fpin).toNat 6 then some (bits (csrSeen s 0x401 s.fabric.fpin).toNat 5 0) else none, order := s.fabric.order, accepted := s.clock
                lnum := (coreUser s).lnum, node := (coreUser s).node, tag := (coreUser s).tag, priv := (coreUser s).priv
                owner := (coreUser s).tag, ticket := (s.core.task.map (·.ticket)).getD 0
                superstep := ((nodeOf s (coreUser s).lnum (coreUser s).node).map (·.superstep)).getD 0 }]) ∧
    (∀ (d a b : XReg) (w : Bool) (k : AmoOp) (e : Nat), Flows (.famo d a b w k) s → bits (readNat s a) 63 62 = 0 →
      bits (readNat s a) 55 0 % (if w then 8 else 4) = 0 → scRefusal s (coreLnum s) (podPkg s (bits (readNat s a) 61 56)) = some e →
      Traps (.famo d a b w k) s s .accessDenied e (readX s a)) ∧
    (∀ (d a b : XReg) (w : Bool) (k : AmoOp), Flows (.famo d a b w k) s → MayWrite s d → bits (readNat s a) 63 62 = 0 →
      bits (readNat s a) 55 0 % (if w then 8 else 4) = 0 → scRefusal s (coreLnum s) (podPkg s (bits (readNat s a) 61 56)) = none →
      ∃ u o, Completes (.famo d a b w k) s u ∧ u.fabric.sc = some o ∧ o.xa = readX s a ∧ o.since = s.clock ∧ o.slot = none ∧ RegistersKept s u [] ∧
        o.pkt = { typ := 4, cls := 3, src := ownPkg s, dst := podPkg s (bits (readNat s a) 61 56), launch := coreLnum s, rspace := 3, aux := k.code + 8 * b2n w
                  addr := bits (readNat s a) 55 0
                  pay := [BitVec.ofNat 256 (readNat s b + (if k = .cas then readNat s (xNext b 1) * 2 ^ 64 else 0))] } ∧
        (reservedHere s.core d = none → boundPort s.core d = none → d.val ≠ 0 → o.result = some s.core.nextId ∧
          u.core.board = s.core.board ++ [{ id := s.core.nextId, dst := .x d, val := none, due := none }]))

/-- FWAIT, FSLOT, FCNT and FSEAT. FWAIT completes with the failures of its ports when they are idle and waits
otherwise; FSLOT answers turn, slot, row and clock; FSLOT.wait passes at clock 8 of a slot of its row after issue;
FCNT answers the credits and counts of a link; FSEAT answers the seat. (Drawn from R291, R309, R310, R311; it does not
state the whole of each.) -/
def Obligations.FabricReads : Prop :=
  ∀ (s : State) (d a : XReg), MayWrite s d →
    (∀ (l : Bool) (n : Fin 8), Flows (.fwait d l n) s →
      let ns := if l then List.range 8 else [n.val]
      (portsIdle s ns = true → Completes (.fwait d l n) s (pendX (ns.foldl (fun s n => setFabPort s n { fabPort s n with failed := 0 }) s) d
        (BitVec.ofNat 64 ((ns.map (fun n => (fabPort s n).failed)).foldl (· + ·) 0)) .clean 1)) ∧
      (portsIdle s ns = false → Waits (.fwait d l n) s)) ∧
    (Flows (.fslot d) s → Completes (.fslot d) s (pendX s d
      (BitVec.ofNat 64 (absSlot s / 64 % 2 ^ 32 * 2 ^ 32 + absSlot s % 64 * 2 ^ 16 + rowNow s 0 * 2 ^ 8 + slotClock s)) .clean 2)) ∧
    (∀ w, Flows (.fslotWait a) s → s.core.waiting = some w →
      (w.1 < s.clock → slotClock s = 8 → rowNow s 0 = bits (readNat s a) 5 0 % planePorts s 0 → Completes (.fslotWait a) s s) ∧
      (slotClock s ≠ 8 ∨ rowNow s 0 ≠ bits (readNat s a) 5 0 % planePorts s 0 → Waits (.fslotWait a) s)) ∧
    (Flows (.fslotWait a) s → s.core.waiting = none → Waits (.fslotWait a) s) ∧
    (∀ m : BitVec 2, Flows (.fcnt d a m) s → bits (readNat s a) 63 14 = 0 → bits (readNat s a) 7 6 = 0 →
      let plane := bits (readNat s a) 5 0
      let peer := bits (readNat s a) 13 8
      Completes (.fcnt d a m) s (pendX s d (BitVec.ofNat 64 (freeOf s m.toNat plane peer % 32 +
        (s.fabric.rx.filter (fun e => e.pkt.credited && e.dim == m.toNat && e.plane == plane && e.peer == peer && !e.reserve)).length % 32 * 2 ^ 16 +
        (linkOf s (linkKey m.toNat plane peer)).sent * 2 ^ 32)) .clean 2)) ∧
    (Flows (.fseat d) s → Completes (.fseat d) s (pendX s d (BitVec.ofNat 64 (ownSeat s % 16)) .clean 2))

/-- The calls of a replay unit. RGLOAD of an aligned address starts a load and of another traps; RGPLAY queues a play
with the bases it reads and gives its number; RGWAIT, RGFREE and RGSTAT answer when the unit is quiet, else wait;
RESHELVE starts with an aligned descriptor. That a poisoned base table of RGPLAY is accepted as its words say, and
that the last completion word outlives the image, are the model's readings (log entries 49 and 50). (Drawn from R336,
R337, R338, R339, R340, R341; it does not state the whole of each.) -/
def Obligations.RiggingCalls : Prop :=
  ∀ (s : State) (n : Fin 4),
    (∀ a : XReg, Flows (.rgload a n) s → readNat s a % 64 = 0 →
      ∃ t b, Completes (.rgload a n) s (onUnit s n (fun o => { o with
          image := [], kept := none, completed := false, lateOf := [], streams := [], nextNum := 0, lastStarted := 0, loading := some (readNat s a, t), sized := b
          loadUser := ((coreUser s).lnum, (coreUser s).node, (coreUser s).tag, (coreUser s).priv) })) ∧
        s.clock + 64 ≤ t ∧ t ≤ s.clock + 64 + 2048 ∧ (b = false → t = s.clock + 64)) ∧
    (∀ a : XReg, Flows (.rgload a n) s → readNat s a % 64 ≠ 0 → Traps (.rgload a n) s s .align (memDetail 2 3) (readX s a)) ∧
    (∀ (d a b : XReg), Flows (.rgplay d a b n) s → MayWrite s d → LocalOk s 0 (readNat s a : Int) 64 64 → bit (readNat s b) 63 = false →
      ∃ u, Completes (.rgplay d a b n) s u ∧ u.oc = s.oc ∧ RegistersKept s u [] ∧ (replayOf u n).nextNum = ((replayOf s n).nextNum + 1) % 256 ∧
        (replayOf u n).plays = (replayOf s n).plays ++ [{ num := (replayOf s n).nextNum
                                                          bases := (List.range 8).map (fun i => BitVec.ofNat 64 (leNat (((s.oc.read (0x1000000000 + readNat s a) 64).drop (8 * i)).take 8)))
                                                          word := readX s b, lnum := (coreUser s).lnum, node := (coreUser s).node
                                                          tag := (coreUser s).tag, priv := (coreUser s).priv }]) ∧
    (∀ d : XReg, Flows (.rgwait d n) s → MayWrite s d →
      (unitQuiet s n = true → Completes (.rgwait d n) s (pendX s d (replayOf s n).last .clean 1)) ∧ (unitQuiet s n = false → Waits (.rgwait d n) s)) ∧
    (Flows (.rgfree n) s → (unitQuiet s n = true → Completes (.rgfree n) s (onUnit s n (fun o => { o with
        image := [], loading := none, sized := false, kept := none, completed := false, lateOf := [], streams := [] }))) ∧
      (unitQuiet s n = false → Waits (.rgfree n) s)) ∧
    (∀ d a : XReg, Flows (.rgstat d a n) s → MayWrite s d →
      (∀ w, rgstatWord (replayOf s n) (readNat s a) = some w → Completes (.rgstat d a n) s (pendX s d (BitVec.ofNat 64 w) .clean 2)) ∧
      (rgstatWord (replayOf s n) (readNat s a) = none → Traps (.rgstat d a n) s s .illegalEncoding (0x40 + s.core.idx) (readX s a))) ∧
    (∀ a : XReg, Flows (.reshelve a n) s → readNat s a % 64 = 0 →
      ∃ u r, Completes (.reshelve a n) s u ∧ (replayOf u n).reshelve = some r ∧ r.desc = [readX s a] ∧ r.phase = .reading ∧ r.start = s.clock + 1 ∧
        (replayOf u n).image = (replayOf s n).image ∧ (replayOf u n).kept = (replayOf s n).kept ∧ (replayOf u n).nextNum = (replayOf s n).nextNum ∧
        u.core.x = s.core.x ∧ u.oc = s.oc)

/-- Barriers of a scope, and tickets. BAR arrives, waits while the phase is not released and then completes (one at a pod
barrier at which its package has already arrived without it waits for the next phase, log entry 110); an
exchange task passes quad, die and package barriers at once. TKT and TKTN that obtain tickets begin the next task in
place with the tickets as result, else answer all ones; TKTN of an illegal count traps. Own tickets come from the low
end of the counter. (Drawn from R377, R385, R386, R387; it does not state the whole of each.) -/
def Obligations.BarriersAndTickets : Prop :=
  ∀ (s : State),
    (∀ (c : Scope) (b : Fin 16) (t : Task), Flows (.bar c b) s → s.core.task = some t → (t.xchg = false ∨ c = .co ∨ c = .pd) → bypassed s t c b = false →
      (arrivedAt s t c b = false → s.core.waiting = none → ∃ u, exec (.bar c b) s = .next u ∧ u.core.held = 1 ∧ u.core.waiting = some (s.clock, 3) ∧
        u.core.idx = s.core.idx ∧ u.dist = (arriveAt s t.lnum t.node c b).dist) ∧
      (arrivedAt s t c b = true → Waits (.bar c b) s) ∧
      (arrivedAt s t c b = false → s.core.waiting.map (·.2) = some 3 → Completes (.bar c b) s s)) ∧
    (∀ (c : Scope) (b : Fin 16) (t : Task), Flows (.bar c b) s → s.core.task = some t → (t.xchg = false ∨ c = .co ∨ c = .pd) →
      bypassed s t c b = true → Waits (.bar c b) s) ∧
    (∀ (c : Scope) (b : Fin 16) (t : Task), Flows (.bar c b) s → s.core.task = some t → t.xchg = true → c ∈ [Scope.qd, Scope.di, Scope.pk] →
      Completes (.bar c b) s s) ∧
    (∀ (d : XReg) (c : Scope), Flows (.tkt d c) s → MayWrite s d →
      (∀ (u : State) (t n : Nat) (st : Bool), askTickets s (c == .pk) 1 = some (u, t, n, st) →
        Completes (.tkt d c) s (taskInPlace (pendX u d (BitVec.ofNat 64 t) .clean (if st then 60 else 20)) t n)) ∧
      (askTickets s (c == .pk) 1 = none → Completes (.tkt d c) s (pendX s d (BitVec.allOnes 64) .clean (if c = .pk then 60 else 20)))) ∧
    (∀ (d a : XReg) (c : Scope), Flows (.tktn d a c) s → MayWrite s d →
      (1 ≤ readNat s a → readNat s a ≤ 64 → (∀ (u : State) (t n : Nat) (st : Bool), askTickets s (c == .pk) (readNat s a) = some (u, t, n, st) →
          Completes (.tktn d a c) s (taskInPlace (pendX u d (BitVec.ofNat 64 (t + n * 2 ^ 32)) .clean (if st then 60 else 20)) t n)) ∧
        (askTickets s (c == .pk) (readNat s a) = none → Completes (.tktn d a c) s (pendX s d (BitVec.allOnes 64) .clean (if c = .pk then 60 else 20)))) ∧
      (readNat s a = 0 ∨ 64 < readNat s a → Traps (.tktn d a c) s s .illegalEncoding (0x40 + s.core.idx) (readX s a))) ∧
    (∀ (n m : Node) (k t c : Nat), takeOwn n k = some (m, t, c) → (dieOf n 0).returned = [] → t = (dieOf n 0).lo ∧ c = min k ((dieOf n 0).hi - (dieOf n 0).lo) ∧ 0 < (dieOf n 0).hi - (dieOf n 0).lo)

/-- Launches, estimates, priorities and the end of a task. LAUNCH of an aligned descriptor that reads clean submits it
(read with the viewer of the task, the choice of the model, log entry 45) and answers the number or the refusal, and
waits while something it has to read waits (the choice of the model, log entry 31); LWAIT answers the report of an own
or parent launch when it has ended; ETA and PRIO set the estimate and the priority; ENDT and SSEND wait for started
work and then end the task. ENDT in an open envelope takes its mismatch. What ENDT and SSEND wait for, and the address
of a refused PRIO (a free value), are the model's choices too (log entries 22 and 36). (Drawn from R380, R386, R389,
R390, R391, R392; it does not state the whole of each.) -/
def Obligations.LaunchesAndEnds : Prop :=
  ∀ (s : State),
    (∀ (d a : XReg) (bs : List Byte), Flows (.launch d a) s → MayWrite s d → readNat s a % 64 = 0 →
      gmFetch s (coreRoot s) (readNat s a) 64 s.core.privAt (coreViewer s) = .got (bs, false) →
      let w := (List.range 8).map (fun i => leNat ((bs.drop (8 * i)).take 8))
      (∀ (t : State) (n k : Nat), submitWords s (.child (coreLnum s) s.core.privAt) w true = some (t, n, k) →
        Completes (.launch d a) s (pendX (spoil t) d (BitVec.ofNat 64 (if k = 0 then n else 3 * 2 ^ 56 + k * 2 ^ 48)) .clean 64)) ∧
      (submitWords s (.child (coreLnum s) s.core.privAt) w true = none → Stalls (.launch d a) s)) ∧
    (∀ (d a : XReg), Flows (.launch d a) s → MayWrite s d → readNat s a % 64 = 0 →
      gmFetch s (coreRoot s) (readNat s a) 64 s.core.privAt (coreViewer s) = .waits → Stalls (.launch d a) s) ∧
    (∀ (d a : XReg), Flows (.lwait d a) s → MayWrite s d →
      (launchOf s (readNat s a % 2 ^ 16) = none → Completes (.lwait d a) s (pendX s d 0 .clean 1)) ∧
      (∀ l, launchOf s (readNat s a % 2 ^ 16) = some l →
        (l.lnum ≠ coreLnum s → l.parent ≠ some (coreLnum s) → Completes (.lwait d a) s (pendX s d 0 .clean 1)) ∧
        (l.lnum = coreLnum s ∨ l.parent = some (coreLnum s) →
          (2 ≤ l.state → Completes (.lwait d a) s (pendX s d (BitVec.ofNat 64 (reportWord0 l)) .clean 1)) ∧
          (l.state < 2 → Waits (.lwait d a) s)))) ∧
    (∀ a : XReg, Flows (.eta a) s → Completes (.eta a) s (onTask s (fun t => { t with etaSet := min (readNat s a) (2 ^ 32 - 1), etaAge := 0 }))) ∧
    (∀ (a : XReg) (q : Fin 16) (l : Launch), Flows (.prio a q) s → readNat s a < 16 → launchOf s (coreLnum s) = some l → l.prioq.getLsbD q.val = true →
      Completes (.prio a q) s (hubSet s (0x4005000000 + 8 * q.val) (readX s a))) ∧
    (Flows .endt s → s.core.sw.envOpen = true → Traps .endt s s .envelopeMismatch 5 (envVal s.core)) ∧
    (Flows .endt s → s.core.sw.envOpen = false → (workDone s = false → Waits .endt s) ∧
      (∀ t, workDone s = true → s.core.task = some t → exec .endt s = .next (if t.xchg then endExchange s 0 else endTile s))) ∧
    (∀ a : XReg, Flows (.ssend a) s → readNat s a < 2 ^ 16 → (s.core.sw.envOpen = false ∨ inExchange s = true) →
      (workDone s = false → Waits (.ssend a) s) ∧
      (∀ t, workDone s = true → s.core.task = some t → exec (.ssend a) s = .next (if t.xchg then endExchange s (readNat s a) else endTile s))) ∧
    (∀ t, s.core.task = some t → (endTile s).core.task = none ∧ (endTile s).core.run = (if s.core.stepOnce then .halted 4 else .idle) ∧ (endTile s).core.bundle = [] ∧ (endTile s).core.x = s.core.x)

/-- Results, crossbar grants, vector commands and matrix operations at their moment. Exposed and scoreboarded results
that are due are written; the grants of the QS crossbar on one clock share no bank and leave out only requests that
need a bank already granted; a granted read of one part supplies its result and fixes when it is due; finished vector
commands leave their queue, and a matrix operation that may start takes its unit for its clocks and, when its clocks
have passed, writes its tile. (Drawn from R34, R35, R122, R173, R188, R194, R195, R224; it does not state the whole of
each.) -/
def Obligations.ResultEvents : Prop :=
  ∀ s : State,
    (exec .exposedWriteLand s = .next (landThrough s s.core.sched) ∧ ∀ l ∈ (landThrough s s.core.sched).core.exposed, s.core.sched < l.due) ∧
    (exec .scoreboardResultWrite s = .next (writeDue s) ∧ (writeDue s).core.board = s.core.board.filter (fun p => !p.isDue s.clock)) ∧
    exec .qsBankGrant s = .next (grantQs s) ∧
    (∀ (n : Nat) (ws : List (Nat × BitVec 32)), (roundRobin n ws []).Pairwise (fun a b => a.2 &&& b.2 = 0) ∧ (∀ w ∈ roundRobin n ws [], w ∈ ws) ∧
      (∀ w ∈ ws, w ∈ roundRobin n ws [] ∨ ∃ g ∈ roundRobin n ws [], g.2 &&& w.2 ≠ 0)) ∧
    ((clockGrants s).Pairwise (fun a b => a.2 &&& b.2 = 0) ∧ (∀ r, s.core.vu.scalar = some r → r.granted = true → (0, bankMask r.oc r.n) ∈ clockGrants s) ∧
      ∀ c ∈ (grantQs s).core.vu.won, ∃ b, (c, b) ∈ s.core.vu.asks ∧ (3 + c, b) ∈ clockGrants s) ∧
    (∀ (q : QsReq) (m : BitVec 32) (us : List (Nat × Nat × Nat)), nextAccess s.core.vu s.clock = some q → q.parts = [(m, .read us)] → q.vx = false →
      s.core.vu.scalar = none → nextPermute s.core.vu s.clock = none → s.core.vu.qs.find? (fun q => q.kind == .imageLs) = none → s.core.vu.asks = [] →
      let t := grantQs s
      let g := (performGrant s q (.read us)).2
      t.core.vu.qs = s.core.vu.qs.filter (fun o => o.id != q.id) ∧ t.oc = s.oc ∧ RegistersKept s t [] ∧
      t.core.board = s.core.board.map (fun p => if p.id = q.id then
        (if p.val.isSome then { p with due := some (s.clock + q.after) }
         else { p with val := some g.got, mark := if g.poison then .poison q.addr else .clean, due := some (s.clock + q.after) }) else p)) ∧
    exec .vxCommandComplete s = .next (dropQueue (writeDue s)) ∧
    (∀ (array : Bool) (o : MxOp), (mxQueue s.core.mx array).find? (fun o => o.start.isNone) = some o →
      (if array then s.core.mx.arrayEnd else s.core.mx.transferEnd) ≤ s.clock → mxMayStart s o = true →
      ∃ t, exec (.matrixOpStart array) s = .next t ∧
        mxQueue t.core.mx array = (mxQueue s.core.mx array).map (fun e => if e.order = o.order then { e with start := some s.clock } else e) ∧
        (if array then t.core.mx.arrayEnd else t.core.mx.transferEnd) = s.clock + mxOccupies o.kind ∧ RegistersKept s t [] ∧ outsideKept s t) ∧
    (∀ (array : Bool) (o : MxOp) (t : Nat), mxQueue s.core.mx array = [o] → o.done = false → (o.kind = .mdrain → o.drained.isSome = true) → o.start = some t →
      t + mxWrites o.kind ≤ s.clock →
      exec (.matrixOpComplete array) s =
        .next (onMx (mxResult s o) (fun m => mxSetQueue m array (if t + mxLeaves o.kind ≤ s.clock then [] else [{ o with done := true }]))))

/-- Preemption, halt requests, checkpoints and wake-ups. A pending preemption is taken at a boundary or in a wait and
drains, kills or checkpoints the task as the decision table says; a halt request halts the core; a spill and a restore
begin and end with the context kept and given back; SLEEP wakes. How a wait is cut, and what a kill and a checkpoint
leave behind, are the model's choices (log entries 44, 83 and 106). (Drawn from R382, R383, R399, R401, R408, R420; it
does not state the whole of each.) -/
def Obligations.CoreEvents : Prop :=
  ∀ s : State,
    (s.core.preempt.isSome = true → s.core.sw.ie = true → s.core.run = .running →
      (boundaryFree s = true → s.core.waiting = none → exec .preemptionTaken s = .next (applyPreempt s)) ∧
      (s.core.waiting.isSome = true → inBar s = false → exec .preemptionTaken s = .next (applyPreempt (wakeCut s)))) ∧
    (∀ (k : Nat) (t : Task), s.core.preempt = some k → s.core.task = some t →
      (s.core.rangeBusy = true → applyPreempt s = s) ∧
      (s.core.rangeBusy = false → s.core.spilling = true → applyPreempt s = if spillReady s then beginSpill s else s)) ∧
    (∀ (k : Nat) (t : Task), s.core.preempt = some k → s.core.task = some t → s.core.rangeBusy = false → s.core.spilling = false →
      let kills := restartable s && !(((nodeOf s t.lnum t.node).map (·.noKill)).getD false) && decide (t.age < 8704) && !isMember s && !unitsBusy s
      let ends := decide (taskRemain s ≤ 64 * (k + 1)) && !inLwait s
      (ends = true → applyPreempt s = drainTask s) ∧ (ends = false → kills = true → applyPreempt s = killTask s) ∧
      (ends = false → kills = false → checkpointable s = true → spillReady s = true → applyPreempt s = beginSpill s) ∧
      (ends = false → kills = false → checkpointable s = true → spillReady s = false → applyPreempt s = awaitSpill s) ∧
      (ends = false → kills = false → checkpointable s = false → applyPreempt s = drainTask s) ∧
      checkpointDue s = (!ends && !kills && checkpointable s)) ∧
    (s.core.haltAsked = true → s.core.run = .running →
      (s.core.waiting.isSome = true → exec .haltRequestTaken s = .next (haltCore (wakeCut s) 0 s.core.pc true (trapIndex s.core) s.core.sched)) ∧
      (s.core.waiting = none → boundaryFree s = true → exec .haltRequestTaken s =
        .next (haltCore s 0 s.core.pc s.core.resume.isSome (s.core.resume.getD 0) s.core.sched))) ∧
    (s.dist.spill = none → s.core.sw.ie = true → boundaryFree s = true → spillReady s = true →
      exec .checkpointSpill s = .next (if checkpointDue s then beginSpill s else s)) ∧
    (∀ i t, s.dist.spill = some (i, t) → t ≤ s.clock →
      exec .checkpointSpill s = .next { s with dist := { s.dist with spill := none, vault := s.dist.vault ++ [i] } }) ∧
    (∀ l i, s.dist.restore = none → chosen s = some l → vaultTask s l.lnum = some i → coreFree s = true →
      exec .checkpointRestore s = .next (bindRestore s i) ∧ (bindRestore s i).dist.restore = some (i, s.clock + 4352) ∧
      (bindRestore s i).dist.vault = s.dist.vault.erase i) ∧
    (∀ i t, s.dist.restore = some (i, t) → t ≤ s.clock → channelTaken s i = false → ∃ u, exec .checkpointRestore s = .next u ∧ u.dist.restore = none ∧
      u.core.x = i.core.x ∧ u.core.p = i.core.p ∧ u.core.v = i.core.v ∧ u.core.m = i.core.m ∧ u.core.g = i.core.g ∧ u.core.run = .running ∧
      u.core.pc = i.core.trapPc ∧ u.core.task = i.core.task.map (fun k => { k with boundAt := s.clock }) ∧ u.vrEngine = i.vrEngine ∧ u.core.trapVec = i.core.trapVec ∧ u.core.trapSw = i.core.trapSw) ∧
    (∀ (a : XReg) (l : BitVec 2) (w : Nat × Nat), (s.core.bundle[s.core.idx]?).bind decode = some (.sleep a l) → s.core.waiting = some w →
      s.core.haltAsked = false → (s.core.preempt = none ∨ s.core.sw.ie = false) → keepsSleeping s w.1 (readNat s a) = false →
      exec .sleepWake s = .next (committed s (wakeLayers s)))

/-- The steps of the memory system. MSC partitions grow and shrink, format ranges are enabled and flushed, COHCTL is
written within its bounds, timestamps are rebased, a walk at a moving leaf is retried and a finished one fills the
TLB, the instruction cache takes a line, cache ranges end, host accesses are performed in order. The clocks of a walk,
what a rebase subtracts (a free value), the wait of a host access at a training stack and the window of a format
range's store are the model's choices (log entries 3, 21, 58 and 102). (Drawn from R79, R80, R126, R129, R132, R135,
R139, R140, R148, R149, R433; it does not state the whole of each.) -/
def Obligations.MemoryEvents : Prop :=
  ∀ s : State,
    (∀ (k : Fin 128) (n : Fin 13), (sliceGet s k).busy = false →
      ((sliceGet s k).cur < n.val → exec (.mscpartGrow k n) s = .next (mscGrow s k n)) ∧
      (n.val < (sliceGet s k).cur → ∃ t, exec (.mscpartShrink k n) s = .next t ∧ (sliceGet t k).cur = n.val ∧ (sliceGet t k).ways = n.val ∧
        (∀ a, a < 0x3000000000 + k.val * 0x1000000 + n.val * 2 ^ 20 → t.oc.byte a = s.oc.byte a))) ∧
    (∀ k : Fin 128, (sliceGet s k).busy = true → (sliceGet s k).scan = 8191 → (sliceGet s k).leaves ≤ s.clock → ∃ t, exec (.mscpartGrowComplete k) s = .next t ∧
      (sliceGet t k).cur = (sliceGet s k).ways ∧ (sliceGet t k).busy = false) ∧
    (∀ (h : Fin 12) (n : Fin 16),
      (frEnabled s h n = false → exec (.formatRangeEnable h n) s = .next (frEnable s h n) ∧
        bits (hubNat (frEnable s h n) (frAddr h n 0)) 1 0 ∈ [1, 2] ∧ outsideKept { s with hub := (frEnable s h n).hub } (frEnable s h n)) ∧
      (frEnabled s h n = true → exec (.formatRangeDisable h n) s =
        .next { s with sys := { s.sys with flushing := insertKey (16 * h.val + n.val) s.sys.flushing } }) ∧
      (16 * h.val + n.val ∈ s.sys.flushing → exec (.formatRangeFlushDone h n) s = .next (frFlushed s h n) ∧ frEnabled (frFlushed s h n) h n = false)) ∧
    (∀ v : Word, ∃ t, exec (.cohctlWrite v) s = .next t ∧ outsideKept { s with hub := t.hub } t ∧
      (8 ≤ bits v.toNat 15 0 → bits v.toNat 15 0 ≤ 1024 → bits (hubNat t 0x4003000000) 16 0 = bits v.toNat 15 0) ∧
      (bits v.toNat 15 0 < 8 ∨ 1024 < bits v.toNat 15 0 → bits (hubNat t 0x4003000000) 15 0 = bits (hubNat s 0x4003000000) 15 0 ∧ bit (hubNat t 0x4003000000) 16 = true)) ∧
    (∃ t, exec .rebase s = .next t ∧ bit (hubNat t 0x4003000000) 17 = true ∧ (∃ n, t.core.pt = s.core.pt - n ∧
      t.sys.stamps = s.sys.stamps.map (fun e => (e.1, ⟨e.2.wts - n, e.2.rts - n⟩))) ∧ t.oc = s.oc ∧ RegistersKept s t []) ∧
    (∀ h : Fin 12, exec (.hbmBatchMark h) s = .next s) ∧
    (∀ (p t : Nat) (l : Leaf), s.sys.walk = some (p, t) → t ≤ s.clock → walkRoot s (coreRoot s) (p * 4096) = some l →
      (l.size = 0 → exec .walkerMovingRetry s = .next s) ∧
      (l.size ≠ 0 → l.moving = true → exec .walkerMovingRetry s = .next { s with sys := { s.sys with walk := some (p, s.clock + 256) } }) ∧
      (l.size ≠ 0 → l.moving = false → exec .walkerMovingRetry s = .next (tlbFill { s with sys := { s.sys with walk := none } }
        ⟨p * 4096 / l.size * l.size, l.size, coreLnum s, l.page, l.rights⟩))) ∧
    (∀ va : CodeAddr, exec (.translationWalkComplete va) s = .next (translate s (coreLnum s) (coreRoot s) va.toNat {} true).1) ∧
    (∀ a : CodeAddr, ∃ t, exec (.instructionCacheFill a) s = .next t ∧ a.toNat / 128 ∈ t.sys.icache ∧
      ((setLines s (a.toNat / 128)).length < 4 → t = { s with sys := { s.sys with icache := insertKey (a.toNat / 128) s.sys.icache } })) ∧
    exec .cacheRangeComplete s = .next (onCore s (fun c => { c with rangeBusy := false })) ∧
    (∀ w r, s.core.hmOrder = w :: r → exec .hostAccessComplete s =
      .next { s with core := { s.core with hmOrder := r }, sys := { s.sys with host := s.sys.host.store w.1 w.2.1 w.2.2 }
                     plat := { s.plat with ioWaits := (s.plat.ioWaits.filter (fun k => decide (1 < k))).map (· - 1)
                                           ioDone := s.plat.ioDone + (s.plat.ioWaits.filter (fun k => decide (k ≤ 1))).length } }) ∧
    (∀ (l : BitVec 52) (d : List Byte), exec (.cxlCacheSnoop l d) s =
      .next { s with sys := { s.sys with host := s.sys.host.write (l.toNat / 64 * 64) (d.take 64) } })

/-- The steps of the block-transfer engine and the row engine. A command starts when its channel is free, a sector is
read and written at the addresses of its template, completion words are posted, rings are enabled and disabled, slots
claimed, ownership flips performed, row operations step and end, bitwise regions are enabled and disabled, banks are
refreshed or postponed. (Drawn from R241, R244, R245, R253, R254, R258, R269, R270, R272, R273, R280, R281; it does
not state the whole of each.) -/
def Obligations.EngineEvents : Prop :=
  ∀ s : State,
    (∀ (k : Fin 64) (c : Cmd) (r : List Cmd), (chanOf s k).queue = c :: r → (chanOf s k).active = none → (chanOf s k).post = [] →
      exec (.bteCommandStart k) s = .next (bteStart s k) ∧ RegistersKept s (bteStart s k) [] ∧
      (c.armed = false → bteStart s k = setChan s k { chanOf s k with queue := r, active := some { cmd := c, words := [], loading := true, table := s.core.cptBase, total := 0, left := 0, ready := s.clock } })) ∧
    (∀ (k : Fin 64) (a b : Active) (u v w : State) (p q : Place) (g h : List HeldPage), (chanOf s k).active = some a → a.loading = false →
      a.next < bteLimit s a → a.ready ≤ s.clock → (template a.words).dring = false → (template a.words).bar = false →
      let t := template a.words
      let x := cmdUser k a.cmd
      b = { a with pages := h } → u = setChan s k { chanOf s k with active := some a } →
      engAccess u x a.pages t.sspace (t.place (t.sa a.cmd.delta) t.spstride t.sstride a.next) 32 { rd := true } = .ok v (p, g) →
      engAccess v x g t.dspace (t.place (t.da a.cmd.delta) t.dpstride t.dstride a.next) 32 { wr := true } = .ok w (q, h) →
      let d := placeRead w p 32 true (x.viewer w)
      exec (.bteSectorTransfer k) s = .next (bteAdvance (placeWrite d.1 q d.2.1 d.2.2 true (x.viewer w)) k b t d.2.2)) ∧
    exec .completionWordPost s = .next (folioPost ((List.range 4).foldl replayPost ((List.range 8).foldl fabPost ((List.range 8).foldl rowPost ((List.range 64).foldl btePost s))))) ∧
    (∀ v : Word, exec (.bteerrClear v) s = .next (onCore s (fun c => { c with bteErr := c.bteErr &&& ~~~v }))) ∧
    (∀ (n : Fin 16) (v : Word), ringOn s.core n = false →
      (ringRefused s n (v &&& rngMask) = true → exec (.ringEnable n v) s = .next (setRingCfg s n ((v &&& rngMask) ||| (1#64 <<< 62)))) ∧
      (ringRefused s n (v &&& rngMask) = false → ∃ t, exec (.ringEnable n v) s = .next t ∧ ringOn t.core n = true ∧ rngFree (ringCnt t n) = ringSlots t.core n ∧
        rngFilled (ringCnt t n) = 0 ∧ ∀ i, i < ringSpan t.core n → ringFirst t.core n + i ∈ t.engine)) ∧
    (∀ (n : Fin 16) (v : Word), ringOn s.core n = true → ∃ t, exec (.ringDisable n v) s = .next t ∧ ringOn t.core n = false ∧ ringCnt t n = 0 ∧
      ∀ i, i < ringSpan s.core n → ringFirst s.core n + i ∉ t.engine) ∧
    (∀ (k : Fin 64) (a b : Active) (t : State), (chanOf s k).active = some a → claimFor s (template a.words) a = some (t, b) →
      exec (.ringSlotClaim k) s = .next (setChan t k { chanOf t k with active := some b })) ∧
    exec .owncFlip s = .next (performFlips s) ∧
    (∀ (k : Fin 8) (o : RowOp) (r : List RowOp), (rowPortOf s k).queue = o :: r → (rowPortOf s k).post = [] → o.accepted + 64 ≤ s.clock → o.ready ≤ s.clock →
      exec (.rowStep k) s = .next (rowStepNow s k) ∧ (o.started = true → rowIllegal k o = false → rowSteps o ≤ o.k → rowStepNow s k = rowEnd s k o 0)) ∧
    (∀ (h : Fin 12) (n : Fin 8),
      (bwOn s h n = false → ∃ t, exec (.bitwiseRegionEnable h n) s = .next t ∧ hubNat t (bwAddr h n 0) ∈ [1, 2] ∧ outsideKept { s with hub := t.hub } t) ∧
      (bwInUse s h n = false → ∃ t, exec (.bitwiseRegionDisable h n) s = .next t ∧ bwOn t h n = false ∧ outsideKept { s with hub := t.hub, rows := t.rows } t) ∧
      (bwInUse s h n = true → exec (.bitwiseRegionDisable h n) s =
        .next { s with rows := { s.rows with disabling := insertKey (8 * h.val + n.val) s.rows.disabling } })) ∧
    (∀ (h : Fin 12) (b : Fin 512),
      let k := 512 * h.val + b.val
      let p := lookupD s.rows.postponed k (s.clock, 0)
      let may : Prop := bankStepped s k = false ∧ (bankHeld s k = false ∨ p.1 + 4 * refreshEvery s k ≤ s.clock)
      (¬ may → exec (.bankRefresh h b) s = .next { s with rows := { s.rows with postponed := storeAt s.rows.postponed k (p.1, p.2 + 1) } }) ∧
      (may → exec (.bankRefresh h b) s = .next { s with rows := { s.rows with
        refresh := storeAt s.rows.refresh k (max s.clock (lookupD s.rows.refresh k 0) + 350 * (p.2 + 1)), postponed := eraseAt s.rows.postponed k } }) ∧
      exec (.bankRefreshEnd h b) s = .next (if refreshing s k then s else { s with rows := { s.rows with refresh := eraseAt s.rows.refresh k } }))

/-- The steps of the Tether fabric. Slot starts send seat reports, seats their held operation, pod slots are performed
when every report is in, commands start, packets are sent, received, refused with a bad CRC, performed, acknowledged,
replayed and relayed, commands time out, lines and combs are lost, table proposals made and installed, event and
injection registers accessed. The contents of link acknowledgements and table pieces, the numbers of lines and when
credits are taken are the model's choices (log entries 30, 37 and 96). (Drawn from R284, R286, R289, R291, R293, R295,
R297, R299, R306, R313; it does not state the whole of each.) -/
def Obligations.FabricEvents : Prop :=
  ∀ s : State,
    (slotClock s = 0 → exec .slotStart s = .next (sendReports { s with fabric := { s.fabric with flits := [] } }) ∧ exec .seatSlotSend s = .next (sendSc s)) ∧
    (slotStartOf s (s.fabric.scNext + 2) + 8 ≤ s.clock → (podMembers s).all (slotHeard s s.fabric.scNext) = true →
      exec .podScPerform s = .next (performSlot 65 s)) ∧
    (slotStartOf s (s.fabric.scNext + 1) + 8192 ≤ s.clock → ∃ l, exec .seatReportTimeout s =
        .next (discardSc { s with fabric := { s.fabric with reports := l } } s.fabric.scNext
          ((podMembers s).filter (fun x => x != s.part.cx.val && !s.fabric.reports.any (fun r => r.1 == s.fabric.scNext && r.2.1 == x)))) ∧
      ∀ x ∈ podMembers s, x ≠ s.part.cx.val → l.any (fun r => r.1 == s.fabric.scNext && r.2.1 == x) = true) ∧
    (∀ (n : Nat) (l : List Nat), s.fabric.scIn.all (fun o => !(o.slot == n && l.contains o.pkg)) = true → discardSc s n l = s) ∧
    (∀ n : Fin 8, (fabPort s n).active = none → exec (.fabricCommandStart n) s = .next (fabStart s n) ∧
      ((fabPort s n).queue = [] → fabStart s n = s)) ∧
    (fabricOn s = true → 8 ≤ slotClock s → s.fabric.txq ≠ [] →
      (s.fabric.unacked.any (canResend s) = false → exec .fabricPacketSend s = .next (sendPass s.fabric.txq [] s [])) ∧
      (s.fabric.unacked.any (canResend s) = true → let t := resendPass s.fabric.unacked [] s []
        t.fabric.txq ≠ [] → exec .fabricPacketSend s = .next (sendPass t.fabric.txq [] t []))) ∧
    (∀ (d : Fin 3) (p q : Fin 64) (h : Sector) (l : List Sector), fabricOn s = true →
      (bits h.toNat 217 214 ≠ l.length ∨ 8 < l.length ∨ bits h.toNat 255 224 ≠ packetCrc h.toNat l →
        exec (.packetReceive d p q h l) s = .next (setLink s (linkKey d p q) { linkOf s (linkKey d p q) with nak := true })) ∧
      (bits h.toNat 217 214 = l.length → l.length ≤ 8 → bits h.toNat 255 224 = packetCrc h.toNat l → coordOf (bits h.toNat 196 180) d ≠ ownCoord s d →
        exec (.packetReceive d p q h l) s = .next { s with fabric := { s.fabric with misdelivered := s.fabric.misdelivered + 1 } }) ∧
      exec (.packetReceive d p q h l) s = .next (receivePacket s d p q h.toNat l)) ∧
    (∀ t, performFirst s s.fabric.rx = .ok t () ∨ performFirst s s.fabric.rx = .wait t → exec .streamPacketPerform s = .next (dropDuplicates t)) ∧
    (∀ (d : Fin 3) (p q : Fin 64), (linkOf s (linkKey d p q)).ackDue = true → (linkOf s (linkKey d p q)).suspended = false → replaying s d p q = false →
      p.val ∈ lanesTo s d q → fabricOn s = true → 8 ≤ slotClock s → flitsOn s d p < 104 → ∃ t, exec (.acknowledgementSend d p q) s = .next t ∧
        (linkOf t (linkKey d p q)).owed = (linkOf s (linkKey d p q)).owed - 16 ∧ ctrlOf t d q = ((ctrlOf s d q).1, (ctrlOf s d q).2 - 4) ∧
        (∃ u, t.fabric.unacked = s.fabric.unacked ++ [u] ∧ u.lseq = (linkOf s (linkKey d p q)).txLseq ∧ u.dim = d.val ∧ u.plane = p.val ∧ u.peer = q.val ∧
          u.pkt.typ = 7 ∧ u.cred = min 16 (linkOf s (linkKey d p q)).owed ∧ u.ccred = min 4 (ctrlOf s d q).2 ∧
          (bit (hubNat s (unitBase d + 0x10)) 63 = false → (linkOf t (linkKey d p q)).ackDue = false ∧ (linkOf t (linkKey d p q)).nak = false ∧
            flitsOn t d p = flitsOn s d p + 1 ∧
            u.wire = [BitVec.ofNat 256 (headerOf u.pkt u.lseq (((linkOf s (linkKey d p q)).rxLseq + 4095) % 4096) (linkOf s (linkKey d p q)).nak u.cred u.ccred)]))) ∧
    (∀ (d : Fin 3) (p q : Fin 64), s.fabric.unacked.any (fun u => !u.again && !u.quiet && u.dim == d.val && u.plane == p.val && u.peer == q.val && decide (u.slot + planePorts s d < absSlot s)) = true →
      exec (.linkReplayTimeout d p q) s = .next (replayLink s d p q)) ∧
    (∀ (e : RxEntry) (d q : Nat), relayable s = some e → relayAhead s e.pkt = 0 → nextHop s e.pkt.dst = some (d, q) → exec .packetRelay s =
      .next (returnEntry { s with fabric := { s.fabric with
        relaySeq := storeAt s.fabric.relaySeq (relayKey e.pkt) ((e.pkt.sseq + 1) % 2 ^ 24)
        txq := s.fabric.txq ++ [{ pkt := e.pkt, dim := d, peer := q, ready := s.clock }] } } e.id)) ∧
    (relayable s = none → exec .packetRelay s = .next s) ∧
    (∀ (n : Fin 8) (a : FabActive), (fabPort s n).active = some a → fabLate s a = true → exec (.fabricCommandTimeout n) s = .next (fabExpire s n a)) ∧
    (∀ (d : Fin 3) (c : Fin 4) (l : Fin 72), (lineLost s d c l = true → exec (.lineLost d c l) s = .next s) ∧
      (lineLost s d c l = false → ∃ t, exec (.lineLost d c l) s = .next t ∧ lineLost t d c l = true ∧
        (∀ x ∈ (unitOf t d).drifted, x.1 ≠ c.val * 128 + l.val) ∧
        ((unitOf s d).events.length < 64 → ∃ r, (unitOf t d).events = (unitOf s d).events ++
          BitVec.ofNat 64 (absSlot s / 64 % 2 ^ 32 * 2 ^ 32 + l.val * 2 ^ 20 + c.val * 16 * 2 ^ 14 + 1) :: r) ∧
        t.core = s.core ∧ t.oc = s.oc ∧ t.sys = s.sys) ∧
      (∃ t, exec (.lineDrift d c l) s = .next t ∧ (c.val * 128 + l.val, s.clock) ∈ (unitOf t d).drifted) ∧
      (∃ t, exec (.lineRetuned d c l) s = .next t ∧ ∀ x ∈ (unitOf t d).drifted, x.1 ≠ c.val * 128 + l.val)) ∧
    (∀ (d : Fin 3) (c : Fin 4),
      ((unitOf s d).deadCombs.contains c.val = true → exec (.combLost d c) s = .next s) ∧
      ((unitOf s d).deadCombs.contains c.val = false → ∃ t, exec (.combLost d c) s = .next t ∧ (unitOf t d).deadCombs = c.val :: (unitOf s d).deadCombs ∧
        bits (hubNat t brstat) 43 40 = 6 ∧ bits (hubNat t brstat) 39 24 = combUnit d c 127 ∧ bit (hubNat t brstat) 8 = true ∧ 0 ∈ t.plat.msix ∧
        t.core = s.core ∧ t.oc = s.oc ∧ t.sys = s.sys)) ∧
    (∀ (d : Fin 3) (p : Proposal), (unitOf s d).proposal = some p →
      (p.own = true → (p.turn - 2) * 64 ≤ absSlot s → (proposalMembers s d).any (fun x => !p.acks.getLsbD x) = true → exec (.tableProposalLapse d) s =
        .next (sendProposal (setUnit s d { unitOf s d with proposal := some { p with turn := p.turn + 8, acks := 0 } }) d (p.turn + 8))) ∧
      (p.turn * 64 ≤ absSlot s → (p.own = true ∨ p.loaded = true) → (unitOf s d).queued = none → (unitOf s d).repairDue = false →
        ∃ t, exec (.tableInstalled d) s = .next t ∧ (unitOf t d).table = p.table ∧ (unitOf t d).proposal = none) ∧
      (absSlot s < p.turn * 64 ∨ p.own = false ∧ p.loaded = false → exec (.tableInstalled d) s = .next s)) ∧
    (∀ (d : Fin 3) (v : Word), bit v.toNat 0 = true →
      (bit (hubNat s (unitBase d + 0x28)) 0 = true → exec (.tutblGo d v) s = .next s) ∧
      (bit (hubNat s (unitBase d + 0x28)) 0 = false →
        exec (.tutblGo d v) s = .next (tutblStart (hubSet s (unitBase d + 0x20) (v &&& 0x0000FFFFFFFFFFC0)) d v))) ∧
    (∀ (d : Fin 3) (e : Word) (r : List Word), (unitOf s d).events = e :: r → (unitOf s d).overflow = false →
      exec (.tuevtRead d) s = .next (setUnit s d { unitOf s d with events := r })) ∧
    (∀ (d : Fin 3) (v : Word), exec (.linjctlWrite d v) s = .next (linjStore s d v))

/-- The steps of a replay unit. An instance starts with the first play. A SEND waits behind another to its target,
sends its lead with the bitmap as it stands and the slot of its deadline, ends when all its sectors are acknowledged
and aborts the instance when its peer is not on the fabric or its time is over. A RECV or COPY without a contribution
waits, combines a unit of the sectors that have come, ends with its bitmap when all are combined, and is released or
cut when its time is over. A FIN with nothing to rescale ends, another multiplies the elements of its next sector. A
NOP ends. A step that ends counts down its own counter and the steps open, and leaves the other steps. An abort ends
the instance, its waiting steps released. A lead that is due is accepted, the instance ends with its completion word,
a load that reads clean and well-formed installs its image and one that has to wait waits, and the phases of a
reshelve follow each other. That a SEND waits behind another, which steps an abort releases, the status of a refused
buffer (a free value) and what histograms wait for are the model's choices (log entries 43, 48, 108 and 113). (Drawn
from R317, R318, R321, R323, R325, R326, R327, R329, R334, R336, R337, R341; it does not state the whole of each.) -/
def Obligations.ReplayEvents : Prop :=
  ∀ (s : State) (n : Fin 4),
    (∀ (p : Play) (r : List Play), (replayOf s n).plays = p :: r → (replayOf s n).inst = none → (replayOf s n).reshelve = none →
      (replayOf s n).loading = none → (replayOf s n).post = [] →
      ∃ t, exec (.instanceStart n) s = .next t ∧ (replayOf t n).plays = r ∧ (replayOf t n).lastStarted = p.num) ∧
    (∀ (k : Nat) (i : Instance) (t : StepState), StepAt s n k i t →
      let u := replayOf s n
      let w := stepWord u.image k
      let far := stepPeer w ≠ s.part.cx.val
      let cut := instAbort s n Cause.fabricTimeout.code
      (∀ p : StepPhase, let v := stepEnd s n k p
        StepPhaseIs v n k p ∧ (∀ j, j ≠ k → ((replayOf v n).inst.bind (fun a => a.steps[j]?)) = i.steps[j]?) ∧
        eregGet v (80 + n) 8 = eregGet s (80 + n) 8 - 1 ∧
        (∀ c m, stepDone w = some c → i.counters[c]? = some m → ((replayOf v n).inst.bind (fun a => a.counters[c]?)) = some ((m + 255) % 256)) ∧
        v.core = s.core ∧ v.oc = s.oc ∧ v.sys = s.sys) ∧
      (stepKind w = 0 →
        (t.phase = .waiting → (stepReady u i k = false ∨ sameTarget u i k = true) → exec (.sendStep n k) s = .next s) ∧
        (far → fabricOn s = false → (t.phase = .waiting ∧ stepReady u i k = true ∧ sameTarget u i k = false ∨ t.phase = .active) →
          exec (.sendStep n k) s = .next cut) ∧
        (∀ h, far → fabricOn s = true → t.phase = .waiting → stepReady u i k = true → sameTarget u i k = false → i.start + 16 ≤ s.clock →
          nextHop s (podPkg s (stepPeer w)) = some h → ∃ v e, exec (.sendStep n k) s = .next v ∧ StepPhaseIs v n k .active ∧
            v.fabric.txq = s.fabric.txq ++ [e] ∧ e.dim = h.1 ∧ e.peer = h.2 ∧ e.pkt.typ = 9 ∧
            e.pkt.addr = contribAddr (imgRid u.image) i.play.num (stepTarget w) 0 ∧
            e.pkt.pay = [BitVec.ofNat 256 (bitmapOf u (stepChunk w) + (s.fabric.slot0 + (i.start + playD i.play - s.fabric.from_) / 128) % 2 ^ 32 * 2 ^ 64 +
              wireSectors (imgOp u.image) (imgElems u.image) * 2 ^ 96)]) ∧
        (t.phase = .active → (far → fabricOn s = true) → wireSectors (imgOp u.image) (imgElems u.image) ≤ t.moved → t.awaiting = [] →
          exec (.sendStep n k) s = .next (stepEnd s n k .done)) ∧
        (∀ c, t.phase = .active → far → t.leadAt = some c → c + 8192 * s.fabric.ftmo.toNat ≤ s.clock → exec (.sendStepTimeout n k) s = .next cut)) ∧
      (stepKind w = 1 ∨ stepKind w = 2 → let run := if stepKind w = 1 then exec (.recvStep n k) s else exec (.copyStep n k) s
        (t.accepted = false → run = .next (markReady s n k)) ∧
        (t.moved ≠ 0 → combines u i k t = true → unitCount (imgOp u.image) (imgElems u.image) ≤ t.moved →
          run = .next (stepEnd (takeBitmap s n k t) n k .done) ∧
          ∀ b, u.bitmaps[stepChunk w]? = some b →
            bitmapOf (replayOf (takeBitmap s n k t) n) (stepChunk w) = (if stepKind w = 1 then b ||| t.bitmap else t.bitmap)) ∧
        (∀ (got : List (Nat × Bool)) (v : State), t.moved ≠ 0 → combines u i k t = true → t.moved < unitCount (imgOp u.image) (imgElems u.image) → t.leadAt.getD 0 ≤ s.clock →
          (unitWire (imgOp u.image) (imgElems u.image) t.moved).map (fun j => (t.data.find? (fun e => e.1 == j)).map (·.2)) = got.map some →
          chunkMerge s n (unitLocal (imgOp u.image) (imgElems u.image) (stepPlace u i k) t.moved) (recvValues (imgOp u.image) (stepKind w == 2) got) = .ok v () →
          run = .next (onStep v n k (fun t => { t with moved := t.moved + 1, leadAt := some (v.clock + unitClocks (imgOp u.image) (imgElems u.image)) }))) ∧
        (stepReady u i k = true → t.moved = 0 → t.phase = .waiting → t.accepted = false → t.ready ≠ 0 → releaseClock i t ≤ s.clock →
          ∃ v, exec (.stepRelease n k) s = .next v ∧ StepPhaseIs v n k .released ∧ (replayOf v n).released = u.released + 1 ∧
            eregGet v (80 + n) 8 = eregGet s (80 + n) 8 - 1) ∧
        (t.phase = .waiting → t.ready ≠ 0 → t.accepted = true → t.cut = false → t.data.length < t.need → releaseClock i t + 8192 ≤ s.clock →
          exec (.recvDataTimeout n k) s = .next (onStep s n k (fun t => { t with cut := true })))) ∧
      (stepKind w = 3 →
        (t.phase = .waiting → stepReady u i k = true → finIdle u i (bitmapOf u (stepChunk w)) = true →
          exec (.finStep n k) s = .next (stepEnd (onInst s n (fun a => { a with partial_ := a.partial_ || shortBitmap u (stepChunk w) })) n k .done)) ∧
        (t.phase = .active → finIdle u i t.bitmap = false → t.moved < imgElems u.image / 8 → ∀ v,
          chunkMerge s n [stepPlace u i k + 32 * t.moved] (finValues (memberCount u) (popCount 64 t.bitmap)) = .ok v () →
          exec (.finStep n k) s = .next (onStep v n k (fun a => { a with phase := .active, bitmap := t.bitmap, moved := a.moved + 1 })))) ∧
      (stepKind w = 4 → t.phase = .waiting → stepReady u i k = true → exec (.nopStep n k) s = .next (stepEnd s n k .done))) ∧
    (∀ (va d : Nat) (f : List (Nat × Bool) → List (Nat × Bool)) (v : State), chunkSector s n va { rd := true, wr := true } = .ok v d →
      stackFailed (flushSectors v [d / 32]) (d / 32 * 32) = false → rangeOf (flushSectors v [d / 32]) (d / 32 * 32) = none → (flushSectors v [d / 32]).sys.hbm.wf = true →
      ∀ (x : Nat) (b : Bool), f [hbmRead (flushSectors v [d / 32]) (d / 32)] = [(x, b)] →
      ∃ t, chunkMerge s n [va] f = .ok t () ∧ hbmRead t (d / 32) = (x % 2 ^ 256, b)) ∧
    (∀ (i : Instance) (m : Nat), (replayOf s n).inst = some i → let v := instAbort s n m
      (replayOf v n).inst = none ∧ (replayOf v n).completed = true ∧ eregGet v (80 + n) 8 = 0 ∧
      (replayOf v n).released = (replayOf s n).released + (i.steps.filter (fun t => t.phase == .waiting && !t.accepted)).length ∧
      ∃ p, (replayOf v n).last = completionWord (replayOf v n).released p m n 3 (bits i.play.word.toNat 47 32)) ∧
    (∀ (x : Fin 64) (a : Word) (l : Sector),
      (∀ t, leadArrives s x a.toNat l.toNat = some t → exec (.leadArrival x a l) s = .next t) ∧
      (∀ (i : Instance) (t : StepState), ridUnit s (bits a.toNat 63 48) = some n.val → StepAt s n (bits a.toNat 39 28) i t → (replayOf s n).lastStarted = bits a.toNat 47 40 →
        bits a.toNat 39 28 < imgSteps (replayOf s n).image →
        stepKind (stepWord (replayOf s n).image (bits a.toNat 39 28)) = 2 → stepPeer (stepWord (replayOf s n).image (bits a.toNat 39 28)) = x.val →
        t.phase = .waiting → t.accepted = false → ∃ v, exec (.leadArrival x a l) s = .next v ∧
          ((replayOf v n).inst.bind (fun j => j.steps[bits a.toNat 39 28]?)) =
            some { t with accepted := true, bitmap := bits l.toNat 63 0, need := bits l.toNat 127 96, leadAt := some (s.clock + 40) })) ∧
    (∀ i : Instance, (replayOf s n).inst = some i → instDone i = true → ∃ t, exec (.instanceComplete n) s = .next t ∧
      (replayOf t n).inst = none ∧ (replayOf t n).completed = true ∧ (replayOf t n).last = instWord n (replayOf s n) i) ∧
    (∀ a c : Nat, (replayOf s n).loading = some (a, c) → c ≤ s.clock →
      let u : EngUser := { lnum := (replayOf s n).loadUser.1, node := (replayOf s n).loadUser.2.1, tag := (replayOf s n).loadUser.2.2.1, priv := (replayOf s n).loadUser.2.2.2 }
      (∀ v, engWords s u a 8 = .wait v → exec (.riggingLoadComplete n) s = .next s) ∧
      (∀ v h, engWords s u a 8 = .ok v h → (replayOf s n).sized = false →
        exec (.riggingLoadComplete n) s = .next (onUnit v n (fun u => { u with loading := some (a, v.clock + sizeClocks h), sized := true }))) ∧
      (∀ v h t l, engWords s u a 8 = .ok v h → (replayOf s n).sized = true → imgBytes (imgWord h 0) ≤ 65536 →
        engWords v u a (imgBytes (imgWord h 0) / 8) = .ok t l → imageBad l = false → ridUnit t (imgRid l) = none →
        ∃ q, exec (.riggingLoadComplete n) s = .next q ∧ (replayOf q n).loading = none ∧ (replayOf q n).image = l)) ∧
    (∀ r : Reshelve, (replayOf s n).reshelve = some r →
      (r.phase = .counting → s.clock < r.start → exec (.reshelveHistogramExchange n) s = .next s) ∧
      (r.phase = .exchanging → histsHere r = false → exec (.reshelveHistogramExchange n) s = .next s) ∧
      (r.phase = .moving → r.awaiting = [] → r.due ≤ r.came → exec (.reshelveMove n) s = .next (reshFinish s n 0)) ∧
      (r.phase = .moving → r.start + 8192 * s.fabric.ftmo.toNat ≤ s.clock → exec (.reshelveTimeout n) s = .next (reshFinish s n Cause.fabricTimeout.code)) ∧
      (r.phase = .exchanging → r.start + 8192 * s.fabric.ftmo.toNat ≤ s.clock → exec (.reshelveTimeout n) s = .next (reshEnd s n Cause.fabricTimeout.code)) ∧
      (∀ m, let v := reshEnd s n m
        (replayOf v n).reshelve = none ∧ (replayOf v n).overflow = r.overs.length ∧ (replayOf v n).received = r.came ∧
        ∃ p g, (replayOf v n).last = completionWord r.overs.length p m n 3 g))

/-- The steps of the folio manager, the debug unit and the access tables. The store is enabled and disabled, folios
are evicted, recalled, split and waited for, the link is lost and comes back, debug commands halt, run, step and read,
a read answers the word of its window or B store, its status, and no word where there is none or the core is in use,
and an access table is locked by its control bit. (Drawn from R346, R348, R349, R360, R405, R407, R408, R409; it does
not state the whole of each.) -/
def Obligations.FolioAndDebugEvents : Prop :=
  ∀ s : State,
    (folioOn s = false → ∃ t, exec .folioStoreEnable s = .next t ∧ bits (hubNat t fmBase) 1 0 ∈ [1, 2] ∧ outsideKept { s with hub := t.hub } t) ∧
    (folioOn s = true → ∃ t, exec .folioStoreDisable s = .next t ∧ bits (hubNat t fmBase) 1 0 = (if s.folios.folios = [] then 0 else 3) ∧
      outsideKept { s with hub := t.hub } t) ∧
    (∀ (t : State) (f : Nat), evictOne s = some (t, f) → exec .folioEviction s = .next t ∧ t.folios.evictions = s.folios.evictions + 1) ∧
    (∀ (k : Nat) (f : Folio) (n : Nat), s.folios.folios[k]? = some f → storageName s k = some n → f.state = 3 → f.ready ≤ s.clock →
      exec (.folioRecallComplete k) s = .next (finishRecall s n)) ∧
    (∀ (n : BitVec 48) (f : Folio) (t : State), folioNamed s n.toNat = some f → f.state = 1 → 1 < shareCount f → splitFolio s n.toNat (coreViewer s) = some t →
      exec (.copyOnWriteSplit n) s = .next t) ∧
    (∀ (k : Nat) (f : Folio), s.folios.folios[k]? = some f →
      exec (.fopinDeadline k) s = .next ((s.folios.waits.filter (fun w => f.names.any (fun p => p.1 == w.name))).foldl pinTick s)) ∧
    (∃ t, exec .cxlLinkLoss s = .next t ∧ bit (hubNat t fmBase) 2 = true ∧ outsideKept { s with hub := t.hub } t) ∧
    (∃ t, exec .cxlLinkReturn s = .next t ∧ bit (hubNat t fmBase) 2 = false ∧ outsideKept { s with hub := t.hub } t) ∧
    (∀ v : Word, exec (.dbgctlHalt v) s = .next (dbgctlStore s (dbgCommand v 2)) ∧ exec (.dbgctlRun v) s = .next (dbgctlStore s (dbgCommand v 3)) ∧
      exec (.dbgctlStep v) s = .next (dbgctlStore s (dbgCommand v 4)) ∧ exec (.dbgmaddrRead v) s = .next (dbgRead s v)) ∧
    (∀ r : DebugRead, s.dbg = some r → r.doneAt ≤ s.clock →
      exec .debugReadComplete s = .next (let d := debugData s r.sel r.addr
        if r.status = 0 then { d.1 with dbg := none, dbgLast := d.2.2, dbgStatus := d.2.1 }
        else { s with dbg := none, dbgLast := if r.status = 1 then BitVec.allOnes 64 else 0, dbgStatus := r.status })) ∧
    (∀ a : Nat, (∀ x, windowAt a = some (.hub x) → (debugData s 0 a).2.1 = 0 ∧ (debugData s 0 a).2.2 = (hubLoad s x).2) ∧
      (∀ q o, windowAt a = some (.ls q o) → (Window.ls q o).on s = true →
        (debugData s 0 a).2 = if coreQuiet s 0 then (0, BitVec.ofNat 64 (s.oc.readNat a 8)) else (2, 0)) ∧
      (windowAt a = none → (debugData s 0 a).2 = (3, 0)) ∧
      (a < 2 ^ 22 → (debugData s 1 a).2 = if coreQuiet s 0 then (0, BitVec.ofNat 64 (s.core.mx.bstore.readNat a 8)) else (2, 0))) ∧
    (∀ (k : Fin 161) (v : Word), atTarget k = true → ∃ t, exec (.atctlWrite k v) s = .next t ∧ outsideKept { s with hub := t.hub } t ∧
      (bit (hubNat s (atBase k + 0x3C0)) 1 = false → hubGet t (atBase k + 0x3C0) = v &&& 3) ∧
      (bit (hubNat s (atBase k + 0x3C0)) 1 = true → t = s))

/-- The steps of the tile distributor. Launches are submitted from the doorbell and from packets, phases start and
close, free cores are reported, a free core takes an exchange task that is due, else a ticket of the chosen launch,
nodes retire, a selection dispatches or preempts by rank, waiting launches gain tokens, barriers are released. What
makes a selection due, where exchange tasks run and the contents of the packets are the model's choices (log entries
30, 42, 52 and 60). (Drawn from R365, R369, R373, R376, R377, R378, R379, R380, R381; it does not state the whole of
each.) -/
def Obligations.DistributorEvents : Prop :=
  ∀ s : State,
    (∀ v : Word, (bits v.toNat 55 0 % 64 ≠ 0 → exec (.ddoorSubmit v) s = .next (fire s 1)) ∧
      (∀ t, doorNow s v.toNat = some t → exec (.ddoorSubmit v) s = .next t) ∧
      (doorNow s v.toNat = none → exec (.ddoorSubmit v) s = .next { s with dist := { s.dist with submits := s.dist.submits ++ [{ peer := none, words := [v.toNat] }] } })) ∧
    (∀ (n : Nat) (w : List Word),
      (∀ r, submitWords s (.peer n) (w.map (·.toNat)) true = some r → exec (.launchPacket n w) s = .next (sendControl r.1 (launchSender s n) 2 n r.2.2 [])) ∧
      (submitWords s (.peer n) (w.map (·.toNat)) true = none → exec (.launchPacket n w) s =
        .next { s with dist := { s.dist with submits := s.dist.submits ++ [{ peer := some (launchSender s n, n), words := w.map (·.toNat) }] } })) ∧
    (∀ (l k : Nat) (a : Launch) (n : Node), launchOf s l = some a → nodeOf s l k = some n →
      let r := packageRange s a n
      ∃ t m, exec (.computePhaseStart l k) s = .next t ∧ nodeOf t l k = some m ∧ m.dies = rangesFrom r.1 (dieShares s (r.2 - r.1)) ∧ m.working = 0 ∧
        m.superstep = n.superstep ∧ m.xchgPending = false ∧ m.phase = (if r.1 = r.2 then .closing else .compute) ∧
        (n.podPhase = false → m.closeAt = if r.1 = r.2 then some s.clock else none) ∧ t.core = s.core ∧ t.oc = s.oc ∧ t.sys = s.sys) ∧
    (∃ t, exec .freeCoreReport s = .next t ∧ t.dist.free[0] = (if coreFree s then 1 else 0)) ∧
    (∀ l : Launch, coreFree s = true → exchangeDue s = none → (picked s = some l ∨ picked s = none ∧ chosen s = some l) →
      exec .ticketDispatch s = .next (dispatchFrom { s with dist := { s.dist with pick := none } } l.lnum)) ∧
    (∀ (n k j c : Nat) (l : Launch) (a m : Node) (q : Bool), launchOf s n = some l → l.nodes.all (fun a => !a.xchgPending) = true → vaultTask s n = none →
      earliestNode l ((readyNodes l).filter (fun k => ((l.nodes[k]?).map (fun n => !n.avoidCore)).getD false)) = some k → nodeOf s n k = some a →
      takeTickets s a true 1 = some (m, j, c, q) → ∃ b, (dispatchFrom s n).core.task = some b ∧ b.lnum = n ∧ b.node = k ∧ b.ticket = j ∧ b.count = c ∧ b.xchg = false ∧
        (dispatchFrom s n).core.run = .running ∧ (dispatchFrom s n).core.x[1] = m.args ∧ (dispatchFrom s n).core.x[2] = BitVec.ofNat 64 j ∧
        (dispatchFrom s n).core.pc = BitVec.ofNat 56 (((m.entries[m.superstep]?).getD (0, 0)).1) ∧
        (nodeOf (dispatchFrom s n) n k).map (·.working) = some (m.working + 1)) ∧
    (∀ n : Nat, coreFree s = true → exchangeDue s = some n → exec .ticketDispatch s = .next (dispatchFrom s n)) ∧
    (∀ (l k : Nat) (a : Launch) (n : Node) (c : Nat), launchOf s l = some a → nodeOf s l k = some n → n.phase = .closing → n.podAt = none → n.closeAt = some c → s.dist.frozen = false →
      (s.clock < c → exec (.phaseClose l k) s = .next s) ∧
      (c ≤ s.clock → ((n.entries[n.superstep]?).map Prod.snd).getD 0 ≠ 0 → coreFree s = false → ∃ t m, exec (.phaseClose l k) s = .next t ∧ nodeOf t l k = some m ∧
        m.phase = .exchange ∧ m.xchgPending = true ∧ m.superstep = n.superstep ∧ t.core = s.core ∧ t.oc = s.oc ∧ t.sys = s.sys) ∧
      (c ≤ s.clock → ((n.entries[n.superstep]?).map Prod.snd).getD 0 = 0 → ∃ t m, exec (.phaseClose l k) s = .next t ∧ nodeOf t l k = some m ∧
        (if n.superstep + 1 < n.entries.length then m.superstep = n.superstep + 1 ∧ (m.phase = .compute ∨ m.phase = .closing) else m.phase = .ending ∧ m.closeAt = none ∧ m.sendAt = none))) ∧
    (∀ (l k : Nat) (a : Launch) (n : Node) (c r : Nat), launchOf s l = some a → nodeOf s l k = some n → n.phase = .ending → n.sendAt = some c → n.closeAt = some r →
      let ended : Prop := (r - s.fabric.from_) / 128 + n.atEnd.foldl (fun m e => max m e.slots) n.sendSlots ≤ (s.clock - s.fabric.from_) / 128 ∧
        n.atEnd.foldl (fun m e => max m e.clock) c < s.fabric.from_ + (s.clock - s.fabric.from_) / 128 * 128 ∧ slotClock s = 8 ∧
        (n.podPhase = true → (otherMembers s l).all (fun x => n.atEnd.any (fun e => e.x == x)) = true)
      (¬ ended → exec (.exchangePhaseEnd l k) s = .next s) ∧
      (ended → ∃ t m, exec (.exchangePhaseEnd l k) s = .next t ∧ nodeOf t l k = some m ∧ m.sendAt = none ∧
        (if n.superstep + 1 < n.entries.length then m.superstep = n.superstep + 1 ∧ (m.phase = .compute ∨ m.phase = .closing) else m.phase = .ending ∧ m.closeAt = none))) ∧
    (∀ (l k : Nat) (n : Node), nodeOf s l k = some n →
      (retires n = false → exec (.nodeRetire l k) s = .next s) ∧
      (retires n = true → ∃ t, exec (.nodeRetire l k) s = .next t ∧ (nodeOf t l k).map (·.phase) = some .retired ∧
        (∀ x ∈ t.sys.staged, ¬ (x.lnum = l ∧ x.node = k)) ∧
        ((∀ j m, j ≠ k → nodeOf s l j = some m → m.phase = .retired) → (launchOf t l).map (·.state) = some 2))) ∧
    (let b := { s with dist := { s.dist with lastSelect := s.clock, selectDue := false } }
     let e := { b with dist := { b.dist with pick := none } }
     (coreFree b = true → exec .selection s = .next (dispatchNow b) ∧ (exchangeDue b = none → picked b = none → chosen b = none → dispatchNow b = b) ∧
       ∀ n : Nat, exchangeDue b = some n → dispatchNow b = dispatchFrom b n) ∧
     (∀ t : Task, coreFree b = false → s.core.task = some t →
       (s.core.preempt.isSome = true → exec .selection s = .next b) ∧
       (s.core.preempt = none → chosen e = none → exec .selection s = .next e) ∧
       (∀ l k : Launch, s.core.preempt = none → chosen e = some l → inLwait s = false → t.drain = false → t.lnum ≠ l.lnum → launchOf e t.lnum = some k →
         (ranksAbove e l k = false → exec .selection s = .next e) ∧
         (ranksAbove e l k = true → exec .selection s =
           .next (onCore { b with dist := { b.dist with pick := some l.lnum } } (fun c => { c with preempt := some l.tokens })))))) ∧
    (∃ t, exec .tokenAging s = .next t ∧ t.dist.launches.length = s.dist.launches.length ∧
      ∀ (i : Nat) (l : Launch), s.dist.launches[i]? = some l → hasWork s l = true → (s.core.task.map (·.lnum)) ≠ some l.lnum → l.waitFrom + 64000 ≤ s.clock →
        (t.dist.launches[i]?).map (·.tokens) = some (min 255 (l.tokens + 1))) ∧
    (∀ (l k : Nat) (c : Scope) (b : Fin 16), coreHalted s = false → exec (.barrierRelease l k c b) s = .next (releaseBar s l k c b)) ∧
    (∀ (l k : Nat) (b : Fin 16), coreHalted (podRelease s l k b) = false → exec (.podBarrierRelease l k b) s = .next (releaseBar (podRelease s l k b) l k .pd b)) ∧
    (∀ (l k : Nat) (c : Scope) (b : Fin 16) (r : Bar) (t : Nat), barOf s l k c b = some r → r.release = some t → t ≤ s.clock →
      ∀ q, barOf (releaseBar s l k c b) l k c b = some q → q.phase = r.phase + 1 ∧ q.arrived = none ∧ q.release = none)

/-- The host and the platform. Host accesses reach BAR0 and CXL.mem through the access checks, host windows and the
device memory window are configured, firmware updates and attestation run, reset, training, full service and removals
change the state of the package, power and temperature limit or halt it. What RESET keeps, which inputs a halted or
cut-off package answers, the signatures of the part (their key and nonce are free values) and how full service is
entered are the model's choices (log entries 23, 54, 55, 56, 57, 128 and 129). (Drawn from R4, R363, R423, R426, R427,
R428, R431, R432, R434, R435, R436; it does not state the whole of each.) -/
def Obligations.PlatformEvents : Prop :=
  ∀ s : State,
    (∀ (o : BitVec 32) (v : Option Word) (k : BitVec 48) (n : Nat) (w : Option (List Byte)), linkDown s = true →
      exec (.hostBar0Access o v) s = .next s ∧ exec (.hostMemRequest k n w) s = .next s) ∧
    (∀ (o : BitVec 32) (v : Option Word) (t : State) (a : Nat), linkDown s = false → o.toNat % 8 = 0 →
      ocCheck s { core := false, priv := true, req := { cls := 4 } } ((0x4000000000 + o.toNat : Nat) : Int) 8 v.isNone v.isSome = .ok t (.hub a) →
      exec (.hostBar0Access o v) s = .next (match v with
        | some v => hubStore t a v
        | none => onPlat (hubLoad t a).1 (fun p => { p with hostData := leBytes 8 (hubLoad t a).2.toNat }))) ∧
    (∀ (o : BitVec 48) (n : Nat) (w : Option (List Byte)), exec (.hostMemRequest o n w) s = .next (hostMem s o.toNat n w) ∧
      (linkDown s = false → bit (hubNat s 0x4009000110) 0 = false → hostMem s o.toNat n w = hostAbort s)) ∧
    (∀ (k : Fin 8) (r : Fin 3) (v : Word), exec (.hostWindowWrite k r v) s = .next (windowStore s k (8 * r.val) v)) ∧
    (∀ v : Word, (bit (hubNat s 0x4009000110) 0 = false → ∃ t, exec (.hdmEnable v) s = .next t ∧ hubNat t 0x4009000110 ∈ [1, 2] ∧ outsideKept { s with hub := t.hub } t) ∧
      (∃ t, exec (.hdmDisable v) s = .next t ∧ bit (hubNat t 0x4009000110) 0 = false ∧ outsideKept { s with hub := t.hub } t)) ∧
    (∀ v : Word, bit v.toNat 8 = true → ∃ t, exec (.repreqClear v) s = .next t ∧ bit (hubNat t brstat) 8 = false ∧ outsideKept { s with hub := t.hub } t) ∧
    (∀ v : Word, bit (hubNat s 0x4009000130) 0 = false → ∃ t, exec (.firmwareUpdate v) s = .next t ∧ bit (hubNat t 0x4009000130) 0 = true ∧
      t.plat = { s.plat with fwAddr := some (bits v.toNat 51 6 * 64) }) ∧
    (s.plat.fwAddr ≠ none → linkDown s = true → exec .firmwareUpdateDone s = .next s) ∧
    (∀ a : Nat, s.plat.fwAddr = some a → linkDown s = false → ∃ t, exec .firmwareUpdateDone s = .next t ∧ bit (hubNat t 0x4009000130) 0 = false ∧ t.plat.fwAddr = none ∧
      bits (hubNat t 0x4009000130) 2 1 = (if imageSigned (hostImage s a) = false then 2 else if imgSecver (hostImage s a) < minSecver s then 3 else 1)) ∧
    (∀ v : Word, bit (hubNat s 0x4009000140) 0 = false → ∃ t, exec (.attestationRequest v) s = .next t ∧ hubNat t 0x4009000140 = 1 ∧
      t.plat = { s.plat with attAddr := some (bits v.toNat 51 6 * 64) }) ∧
    (∀ a : Nat, s.plat.attAddr = some a → ∃ t, exec .attestationDone s = .next t ∧ t.plat.attAddr = none ∧
      hubNat t 0x4009000140 = (if linkDown s = true ∨ 2 ^ 52 < a + 64 + 288 then 2 else 0) ∧ (linkDown s = true → t.sys = s.sys)) ∧
    exec .reset s = .next (resetPackage s) ∧
    (∀ h : Fin 12, (bringState s = 1 ∨ bringState s = 2) → s.part.hbmStacks.getLsbD h = true → ∃ t, exec (.hbmStackTrained h) s = .next t ∧
      t.plat.trained = s.plat.trained ||| (1#12 <<< h.val) ∧
      bringState t = (if bringState s = 1 ∧ 4 ≤ popCount 12 (s.plat.trained ||| (1#12 <<< h.val)).toNat then 2 else bringState s)) ∧
    (∀ n : Nat, bringState s = 2 → s.part.hbmStacks &&& ~~~(s.plat.trained ||| s.plat.failed) = 0 → ∃ t, exec (.fullServiceEntry n) s = .next t ∧
      bringState t = 3 ∧ t.plat.hold ≤ 10000 ∧ t.plat.fullAt = some (s.clock + t.plat.hold) ∧ t.plat.joining = some (n, s.clock) ∧ t.fabric = s.fabric) ∧
    (∀ n c : Nat, s.plat.joining = some (n, c) → let d := nanoseconds s s.clock - nanoseconds s c
      (s.plat.hold ≠ 0 ∨ d % 8192 ≠ 0 ∨ podBusy s c = true → joinPod s = s) ∧
      (s.plat.hold = 0 → d % 8192 = 0 → podBusy s c = false → (joinPod s).plat.joining = none ∧ (joinPod s).fabric.slot0 = (n + d / 8192) * 64 ∧
        (joinPod s).fabric.scNext = (n + d / 8192) * 64 ∧ (joinPod s).fabric.from_ = s.clock ∧ bit (hubNat (joinPod s) brstat) 3 = true)) ∧
    (∀ (k : Fin 7) (i : BitVec 16), exec (.unitRemoval k i) s = .next (removeUnit s k i.toNat)) ∧
    (∀ (p : BitVec 16) (d h : Byte),
      (∃ t, exec (.thermalLimit p d h) s = .next t ∧ (overLimits (readings s p.toNat d.toNat h.toNat) p.toNat d.toNat h.toNat = true → t.plat.limiting = true)) ∧
      (∃ t, exec (.powerLimitingEnd p d h) s = .next t ∧ (overLimits (readings s p.toNat d.toNat h.toNat) p.toNat d.toNat h.toNat = false → t.plat.limiting = false)) ∧
      (∃ t, exec (.thermalTrip d h) s = .next t ∧ (110 ≤ d.toNat ∨ 105 ≤ h.toNat → bringState t = 4 ∧ (bringState s ≠ 4 → bits (hubNat t brstat) 15 12 = 3)))) ∧
    (∃ t, exec .inputUndervoltage s = .next t ∧ bringState t = 4 ∧ (bringState s ≠ 4 → bits (hubNat t brstat) 15 12 = 5)) ∧
    (∀ (a : BitVec 40) (v : Word) (x : Nat), windowAt a.toNat = some (.hub x) → x % 8 = 0 → exec (.registerWrite a v) s = .next (hubStore s x v))
end

