-- ==== Sys2Proof/Laws/Memory.lean ====
section
/-!
SUPPORT. The laws of a byte store: what a write, a store, a clearing and a graft leave at every address, and that each
keeps the canonical form.
-/
namespace Sys2Proof.Machine
open Sys2Proof

/-! ### Rising lists -/

theorem rising_cons {a : Nat} {l : List Nat} : rising (a :: l) = true ↔ (∀ x ∈ l, a < x) ∧ rising l = true := by
  induction l generalizing a with
  | nil => simp [rising]
  | cons b r ih =>
    simp only [rising, Bool.and_eq_true, decide_eq_true_eq, List.mem_cons, forall_eq_or_imp]
    rw [ih]
    constructor
    · rintro ⟨h1, h2, h3⟩
      exact ⟨⟨h1, fun x hx => h1.trans (h2 x hx)⟩, h2, h3⟩
    · rintro ⟨⟨h1, -⟩, h2, h3⟩
      exact ⟨h1, h2, h3⟩

theorem rising_iff (l : List Nat) : rising l = true ↔ l.Pairwise (· < ·) := by
  induction l with
  | nil => simp [rising]
  | cons a l ih => rw [rising_cons, List.pairwise_cons, ih]

theorem insertKey_mem {k x : Nat} {l : List Nat} : x ∈ insertKey k l ↔ x = k ∨ x ∈ l := by
  induction l with
  | nil => simp [insertKey]
  | cons a l ih =>
    unfold insertKey
    split
    · simp
    · split
      · rename_i h; simp_all
      · simp only [List.mem_cons, ih]; tauto

theorem rising_insertKey {k : Nat} {l : List Nat} (h : rising l = true) : rising (insertKey k l) = true := by
  induction l with
  | nil => simp [insertKey, rising]
  | cons a l ih =>
    have h' := rising_cons.mp h
    unfold insertKey
    split
    · rename_i hk
      rw [rising_cons]; refine ⟨fun x hx => ?_, h⟩
      rcases List.mem_cons.mp hx with rfl | hx
      · simpa using hk
      · exact lt_trans (by simpa using hk) (h'.1 x hx)
    · split
      · exact h
      · rename_i h1 h2
        rw [rising_cons]; refine ⟨fun x hx => ?_, ih h'.2⟩
        rcases insertKey_mem.mp hx with rfl | hx
        · simp at h1 h2; omega
        · exact h'.1 x hx

theorem rising_filter {p : Nat → Bool} {l : List Nat} (h : rising l = true) : rising (l.filter p) = true := by
  rw [rising_iff] at *; exact h.filter p

theorem rising_append {a b : List Nat} (ha : rising a = true) (hb : rising b = true) (h : ∀ x ∈ a, ∀ y ∈ b, x < y) : rising (a ++ b) = true := by
  rw [rising_iff] at *; exact List.pairwise_append.mpr ⟨ha, hb, h⟩

/-! ### The canonical form -/

theorem Mem.wf_iff (m : Mem) : m.wf = true ↔
    (m.cells.map Prod.fst).Pairwise (· < ·) ∧ (∀ c ∈ m.cells, c.2 ≠ 0) ∧ m.poison.Pairwise (· < ·) := by
  simp only [Mem.wf, Bool.and_eq_true, rising_iff, List.all_eq_true, bne_iff_ne, and_assoc]

theorem cellsOf_mem {a : Nat} {bs : List Byte} {c : Host.Cell} (h : c ∈ cellsOf a bs) : a ≤ c.1 ∧ c.1 < a + bs.length ∧ c.2 ≠ 0 := by
  induction bs generalizing a with
  | nil => simp [cellsOf] at h
  | cons b bs ih =>
    unfold cellsOf at h
    split at h
    · have := ih h; simp only [List.length_cons]; exact ⟨by omega, by omega, this.2.2⟩
    · rename_i hb
      rcases List.mem_cons.mp h with rfl | h
      · simp at hb; simp [hb]
      · have := ih h; simp only [List.length_cons]; exact ⟨by omega, by omega, this.2.2⟩

theorem cellsOf_rising (a : Nat) (bs : List Byte) : ((cellsOf a bs).map Prod.fst).Pairwise (· < ·) := by
  induction bs generalizing a with
  | nil => simp [cellsOf]
  | cons b bs ih =>
    unfold cellsOf
    split
    · exact ih _
    · rw [List.map_cons, List.pairwise_cons]
      refine ⟨fun x hx => ?_, ih _⟩
      obtain ⟨c, hc, rfl⟩ := List.mem_map.mp hx
      have := cellsOf_mem hc; omega

theorem map_filter_pairwise {l : List Host.Cell} (p : Host.Cell → Bool) (h : (l.map Prod.fst).Pairwise (· < ·)) :
    ((l.filter p).map Prod.fst).Pairwise (· < ·) := by
  rw [List.pairwise_map] at *; exact h.filter p

theorem Mem.wf_parts {m : Mem} {mid : List Host.Cell} {a n : Nat} {ps : List Nat} (h : m.wf = true)
    (h1 : (mid.map Prod.fst).Pairwise (· < ·)) (h2 : ∀ c ∈ mid, a ≤ c.1 ∧ c.1 < a + n ∧ c.2 ≠ 0) (h3 : ps.Pairwise (· < ·)) :
    ({ cells := m.cells.filter (fun c => decide (c.1 < a)) ++ mid ++ m.cells.filter (fun c => decide (a + n ≤ c.1)), poison := ps } : Mem).wf = true := by
  rw [Mem.wf_iff] at *
  obtain ⟨k1, k2, k3⟩ := h
  refine ⟨?_, ?_, h3⟩
  · rw [List.map_append, List.map_append, List.pairwise_append, List.pairwise_append]
    refine ⟨⟨map_filter_pairwise _ k1, h1, ?_⟩, map_filter_pairwise _ k1, ?_⟩
    · intro x hx y hy
      obtain ⟨c, hc, rfl⟩ := List.mem_map.mp hx
      obtain ⟨d, hd, rfl⟩ := List.mem_map.mp hy
      have := (List.mem_filter.mp hc).2; simp at this
      have := h2 d hd; omega
    · intro x hx y hy
      obtain ⟨d, hd, rfl⟩ := List.mem_map.mp hy
      have hd := (List.mem_filter.mp hd).2; simp at hd
      rcases List.mem_append.mp hx with hx | hx <;> obtain ⟨c, hc, rfl⟩ := List.mem_map.mp hx
      · have := (List.mem_filter.mp hc).2; simp at this; omega
      · have := h2 c hc; omega
  · intro c hc
    rcases List.mem_append.mp hc with hc | hc
    · rcases List.mem_append.mp hc with hc | hc
      · exact k2 c (List.mem_filter.mp hc).1
      · exact (h2 c hc).2.2
    · exact k2 c (List.mem_filter.mp hc).1

theorem Mem.wf_write {m : Mem} (h : m.wf = true) (a : Nat) (bs : List Byte) : (m.write a bs).wf = true :=
  Mem.wf_parts h (cellsOf_rising a bs) (fun _ hc => cellsOf_mem hc) ((Mem.wf_iff m).mp h).2.2
theorem Mem.wf_writeNat {m : Mem} (h : m.wf = true) (a n v : Nat) : (m.writeNat a n v).wf = true := Mem.wf_write h _ _

theorem Mem.wf_markSector {m : Mem} (h : m.wf = true) (k : Nat) (p : Bool) : (m.markSector k p).wf = true := by
  rw [Mem.wf_iff] at *
  refine ⟨h.1, h.2.1, ?_⟩
  rw [← rising_iff]
  cases p
  · exact rising_filter ((rising_iff _).mpr h.2.2)
  · exact rising_insertKey ((rising_iff _).mpr h.2.2)

theorem Mem.wf_markSectors {m : Mem} (h : m.wf = true) (l : List Nat) (p : Bool) : (l.foldl (fun m k => m.markSector k p) m).wf = true := by
  induction l generalizing m with
  | nil => exact h
  | cons k l ih => exact ih (Mem.wf_markSector h k p)

theorem Mem.wf_store {m : Mem} (h : m.wf = true) (a : Nat) (bs : List Byte) (p : Bool) : (m.store a bs p).wf = true := by
  have hw := Mem.wf_write h a bs
  unfold Mem.store
  cases p
  · rw [Mem.wf_iff] at *; exact ⟨hw.1, hw.2.1, hw.2.2.filter _⟩
  · exact Mem.wf_markSectors hw _ _

theorem Mem.wf_filter {m : Mem} (h : m.wf = true) (p : Host.Cell → Bool) (q : Nat → Bool) :
    ({ cells := m.cells.filter p, poison := m.poison.filter q } : Mem).wf = true := by
  rw [Mem.wf_iff] at *
  exact ⟨map_filter_pairwise _ h.1, fun c hc => h.2.1 c (List.mem_filter.mp hc).1, h.2.2.filter _⟩
theorem Mem.wf_clear {m : Mem} (h : m.wf = true) (a n : Nat) : (m.clear a n).wf = true := Mem.wf_filter h _ _
theorem Mem.wf_slice {m : Mem} (h : m.wf = true) (a n : Nat) : (m.slice a n).wf = true := Mem.wf_filter h _ _
theorem Mem.wf_empty : ({} : Mem).wf = true := rfl

theorem Mem.wf_graft {m src : Mem} (h : m.wf = true) (k : src.wf = true) (a n : Nat) : (m.graft src a n).wf = true := by
  have hs := (Mem.wf_iff _).mp (Mem.wf_slice k a n)
  have hm := (Mem.wf_iff _).mp h
  refine Mem.wf_parts h hs.1 (fun c hc => ?_) ?_
  · have h1 := (List.mem_filter.mp hc).2; simp at h1
    exact ⟨h1.1, h1.2, hs.2.1 c hc⟩
  · rw [List.pairwise_append, List.pairwise_append]
    refine ⟨⟨hm.2.2.filter _, hs.2.2, ?_⟩, hm.2.2.filter _, ?_⟩
    · intro x hx y hy
      have h1 := (List.mem_filter.mp hx).2; have h2 := (List.mem_filter.mp hy).2; simp at h1 h2; omega
    · intro x hx y hy
      have h2 := (List.mem_filter.mp hy).2; simp at h2
      rcases List.mem_append.mp hx with hx | hx
      · have h1 := (List.mem_filter.mp hx).2; simp at h1; omega
      · have h1 := (List.mem_filter.mp hx).2; simp at h1; omega

/-! ### Bytes -/

theorem Mem.byte_congr {m k : Mem} (h : m.cells = k.cells) (a : Nat) : m.byte a = k.byte a := by unfold Mem.byte; rw [h]

theorem find_none {l : List Host.Cell} {k : Nat} (h : ∀ c ∈ l, c.1 ≠ k) : l.find? (fun c => c.1 == k) = none := by
  rw [List.find?_eq_none]; intro c hc; simpa using h c hc

theorem find_filter {l : List Host.Cell} {k : Nat} {p : Host.Cell → Bool} (h : ∀ c ∈ l, c.1 = k → p c = true) :
    (l.filter p).find? (fun c => c.1 == k) = l.find? (fun c => c.1 == k) := by
  induction l with
  | nil => rfl
  | cons a l ih =>
    have ih := ih (fun c hc => h c (List.mem_cons_of_mem _ hc))
    by_cases hk : a.1 = k
    · simp [h a (List.mem_cons_self) hk, hk]
    · cases hp : p a <;> simp [hp, hk, ih]

theorem find_cellsOf {a k : Nat} {bs : List Byte} (h1 : a ≤ k) (h2 : k < a + bs.length) :
    (match (cellsOf a bs).find? (fun c => c.1 == k) with | some c => c.2 | none => 0) = (bs[k - a]?).getD 0 := by
  induction bs generalizing a with
  | nil => simp at h2; omega
  | cons b bs ih =>
    unfold cellsOf
    by_cases hk : k = a
    · subst hk
      by_cases hb : b = 0
      · have : (cellsOf (k + 1) bs).find? (fun c => c.1 == k) = none := find_none (fun c hc => by have := cellsOf_mem hc; omega)
        subst hb; simp [this]
      · have : (b == 0) = false := by simpa using hb
        simp only [this, Bool.false_eq_true, if_false]; simp
    · have h3 : k - a = (k - (a + 1)) + 1 := by omega
      rw [h3, List.getElem?_cons_succ, ← ih (a := a + 1) (by omega) (by simp only [List.length_cons] at h2; omega)]
      have hne : ((a, b).1 == k) = false := by simp; omega
      by_cases hb : (b == 0) = true
      · simp only [hb, if_true]
      · rw [if_neg hb, List.find?_cons, hne]

/-- A write leaves its bytes where it wrote them. -/
theorem Mem.byte_write_in {m : Mem} {a k : Nat} {bs : List Byte} (h1 : a ≤ k) (h2 : k < a + bs.length) :
    (m.write a bs).byte k = (bs[k - a]?).getD 0 := by
  have e1 : (m.cells.filter (fun c => decide (c.1 < a))).find? (fun c => c.1 == k) = none :=
    find_none (fun c hc => by have := (List.mem_filter.mp hc).2; simp at this; omega)
  have e2 : (m.cells.filter (fun c => decide (a + bs.length ≤ c.1))).find? (fun c => c.1 == k) = none :=
    find_none (fun c hc => by have := (List.mem_filter.mp hc).2; simp at this; omega)
  rw [← find_cellsOf h1 h2]
  have e : (m.write a bs).cells.find? (fun c => c.1 == k) = (cellsOf a bs).find? (fun c => c.1 == k) := by
    simp [Mem.write, List.find?_append, e1, e2]
  exact congrArg (fun o : Option Host.Cell => (match o with | some c => c.2 | none => 0 : Byte)) e

/-- A write leaves every other byte alone. -/
theorem Mem.byte_write_out {m : Mem} {a k : Nat} {bs : List Byte} (h : k < a ∨ a + bs.length ≤ k) : (m.write a bs).byte k = m.byte k := by
  have e0 : (cellsOf a bs).find? (fun c => c.1 == k) = none := find_none (fun c hc => by have := cellsOf_mem hc; omega)
  rcases h with h | h
  · have e2 : (m.cells.filter (fun c => decide (a + bs.length ≤ c.1))).find? (fun c => c.1 == k) = none :=
      find_none (fun c hc => by have := (List.mem_filter.mp hc).2; simp at this; omega)
    have e1 : (m.cells.filter (fun c => decide (c.1 < a))).find? (fun c => c.1 == k) = m.cells.find? (fun c => c.1 == k) :=
      find_filter (fun c _ hk => by simp; omega)
    simp only [Mem.byte, Mem.write, List.find?_append, e0, e1, e2, Option.or_none]
  · have e2 : (m.cells.filter (fun c => decide (c.1 < a))).find? (fun c => c.1 == k) = none :=
      find_none (fun c hc => by have := (List.mem_filter.mp hc).2; simp at this; omega)
    have e1 : (m.cells.filter (fun c => decide (a + bs.length ≤ c.1))).find? (fun c => c.1 == k) = m.cells.find? (fun c => c.1 == k) :=
      find_filter (fun c _ hk => by simp; omega)
    simp only [Mem.byte, Mem.write, List.find?_append, e0, e1, e2, Option.none_or]

theorem Mem.markSectors_cells (m : Mem) (l : List Nat) (p : Bool) : (l.foldl (fun m k => m.markSector k p) m).cells = m.cells := by
  induction l generalizing m with
  | nil => rfl
  | cons k l ih => exact ih (m.markSector k p)

theorem Mem.store_cells (m : Mem) (a : Nat) (bs : List Byte) (p : Bool) : (m.store a bs p).cells = (m.write a bs).cells := by
  unfold Mem.store; cases p
  · rfl
  · exact Mem.markSectors_cells _ _ _
theorem Mem.byte_store_in {m : Mem} {a k : Nat} {bs : List Byte} {p : Bool} (h1 : a ≤ k) (h2 : k < a + bs.length) :
    (m.store a bs p).byte k = (bs[k - a]?).getD 0 := (Mem.byte_congr (Mem.store_cells m a bs p) k).trans (Mem.byte_write_in h1 h2)
theorem Mem.byte_store_out {m : Mem} {a k : Nat} {bs : List Byte} {p : Bool} (h : k < a ∨ a + bs.length ≤ k) :
    (m.store a bs p).byte k = m.byte k := (Mem.byte_congr (Mem.store_cells m a bs p) k).trans (Mem.byte_write_out h)

theorem leBytes_length (n v : Nat) : (leBytes n v).length = n := by
  induction n generalizing v with
  | zero => rfl
  | succ n ih => simp [leBytes, ih]
theorem leBytes_get (n v k : Nat) (h : k < n) : ((leBytes n v)[k]?).getD 0 = BitVec.ofNat 8 (v / 256 ^ k) := by
  induction n generalizing v k with
  | zero => omega
  | succ n ih =>
    cases k with
    | zero => simp [leBytes]
    | succ k => simp only [leBytes, List.getElem?_cons_succ]; rw [ih (v / 256) k (by omega), Nat.div_div_eq_div_mul, pow_succ, Nat.mul_comm]
theorem leNat_leBytes (n v : Nat) : leNat (leBytes n v) = v % 256 ^ n := by
  induction n generalizing v with
  | zero => simp [leBytes, leNat, Nat.mod_one]
  | succ n ih =>
    simp only [leBytes, leNat, ih, BitVec.toNat_ofNat]
    rw [show 256 ^ (n + 1) = 256 * 256 ^ n by ring, Nat.mod_mul]

theorem readRun_length (l : List Host.Cell) (a n : Nat) : (readRun l a n).length = n := by
  induction n generalizing l a with
  | zero => simp [readRun]
  | succ n ih =>
    cases l with
    | nil => simp [readRun, ih]
    | cons c r => unfold readRun; split <;> simp [ih]
theorem Mem.read_length (m : Mem) (a n : Nat) : (m.read a n).length = n := readRun_length _ _ _

theorem readRun_get {l : List Host.Cell} {a n k : Nat} (hl : (l.map Prod.fst).Pairwise (· < ·)) (ha : ∀ c ∈ l, a ≤ c.1) (h : k < n) :
    ((readRun l a n)[k]?).getD 0 = (match l.find? (fun c => c.1 == a + k) with | some c => c.2 | none => 0) := by
  induction n generalizing l a k with
  | zero => omega
  | succ n ih =>
    cases l with
    | nil =>
      cases k with
      | zero => simp [readRun]
      | succ k =>
        have := ih (l := []) (a := a + 1) (k := k) (by simp) (by simp) (by omega)
        simpa [readRun] using this
    | cons c r =>
      have hr : (r.map Prod.fst).Pairwise (· < ·) := (List.pairwise_cons.mp (by simpa using hl)).2
      have hc : ∀ d ∈ r, c.1 < d.1 := fun d hd => (List.pairwise_cons.mp (by simpa using hl)).1 d.1 (List.mem_map_of_mem hd)
      have hca := ha c (List.mem_cons_self)
      unfold readRun
      by_cases hk : c.1 = a
      · simp only [hk, beq_self_eq_true, if_true]
        cases k with
        | zero => simp [hk]
        | succ k =>
          rw [List.getElem?_cons_succ, ih hr (fun d hd => by have := hc d hd; omega) (by omega)]
          have : ¬ c.1 = a + (k + 1) := by omega
          simp only [List.find?_cons]
          have e : a + 1 + k = a + (k + 1) := by omega
          have hb : (c.1 == a + (k + 1)) = false := by simpa using this
          rw [hb, e]
      · have hk' : (c.1 == a) = false := by simpa using hk
        simp only [hk', Bool.false_eq_true, if_false]
        cases k with
        | zero =>
          have : (c :: r).find? (fun d => d.1 == a) = none := find_none (fun d hd => by
            rcases List.mem_cons.mp hd with rfl | hd
            · exact hk
            · have := hc d hd; omega)
          simp [this]
        | succ k =>
          rw [List.getElem?_cons_succ, ih hl (fun d hd => by
            rcases List.mem_cons.mp hd with rfl | hd
            · omega
            · have := hc d hd; omega) (by omega)]
          have e : a + 1 + k = a + (k + 1) := by omega
          rw [e]

/-- Reading a run gives the bytes at its addresses. -/
theorem Mem.read_get {m : Mem} {a n k : Nat} (hm : m.wf = true) (h : k < n) : ((m.read a n)[k]?).getD 0 = m.byte (a + k) := by
  have hw := ((Mem.wf_iff m).mp hm).1
  have hsub : m.cells.dropWhile (fun c => decide (c.1 < a)) <:+ m.cells := List.dropWhile_suffix _
  have hd : ((m.cells.dropWhile (fun c => decide (c.1 < a))).map Prod.fst).Pairwise (· < ·) := by
    rw [List.pairwise_map] at *; exact hw.sublist hsub.sublist
  have hge : ∀ l : List Host.Cell, (l.map Prod.fst).Pairwise (· < ·) → ∀ c ∈ l.dropWhile (fun c => decide (c.1 < a)), a ≤ c.1 := by
    intro l
    induction l with
    | nil => simp
    | cons c r ih =>
      intro hl
      have hl' := List.pairwise_cons.mp (by simpa using hl : (c.1 :: r.map Prod.fst).Pairwise (· < ·))
      by_cases hc : c.1 < a
      · simp only [List.dropWhile_cons, hc, decide_true, if_true]; exact ih hl'.2
      · simp only [List.dropWhile_cons, hc, decide_false, Bool.false_eq_true, if_false]
        intro d hd
        rcases List.mem_cons.mp hd with rfl | hd
        · omega
        · have := hl'.1 d.1 (List.mem_map_of_mem hd); omega
  have hf : ∀ l : List Host.Cell, (l.dropWhile (fun c => decide (c.1 < a))).find? (fun c => c.1 == a + k) = l.find? (fun c => c.1 == a + k) := by
    intro l
    induction l with
    | nil => rfl
    | cons c r ih =>
      by_cases hc : c.1 < a
      · have : (c.1 == a + k) = false := by simp; omega
        simp only [List.dropWhile_cons, hc, decide_true, if_true, List.find?_cons, this, ih]
      · simp [hc]
  unfold Mem.read
  rw [readRun_get hd (hge _ hw) h, hf]
  rfl

/-- What was written at a place is read there. -/
theorem Mem.read_write {m : Mem} (hm : m.wf = true) (a : Nat) (bs : List Byte) : (m.write a bs).read a bs.length = bs := by
  apply List.ext_getElem?
  intro k
  by_cases h : k < bs.length
  · have h1 := Mem.read_get (a := a) (Mem.wf_write hm a bs) h
    rw [Mem.byte_write_in (by omega) (by omega), Nat.add_sub_cancel_left] at h1
    have h2 : k < ((m.write a bs).read a bs.length).length := by rw [Mem.read_length]; exact h
    rw [List.getElem?_eq_getElem h, List.getElem?_eq_getElem h2] at *
    simpa using h1
  · rw [List.getElem?_eq_none (by rw [Mem.read_length]; omega), List.getElem?_eq_none (by omega)]

/-- Canonical stores with equal bytes have equal cells. -/
theorem Mem.ext_cells {m k : Mem} (hm : m.wf = true) (hk : k.wf = true) (h : ∀ a, m.byte a = k.byte a) : m.cells = k.cells := by
  have key : ∀ l r : List Host.Cell, (l.map Prod.fst).Pairwise (· < ·) → (r.map Prod.fst).Pairwise (· < ·) → (∀ c ∈ l, c.2 ≠ 0) → (∀ c ∈ r, c.2 ≠ 0) →
      (∀ a, (⟨l, []⟩ : Mem).byte a = (⟨r, []⟩ : Mem).byte a) → ∀ c ∈ l, c ∈ r := by
    intro l r hl hr nl nr hb c hc
    have h1 : (⟨l, []⟩ : Mem).byte c.1 = c.2 := by
      unfold Mem.byte
      have : l.find? (fun d => d.1 == c.1) = some c := by
        rw [List.find?_eq_some_iff_append]
        refine ⟨by simp, ?_⟩
        obtain ⟨as, bs, rfl⟩ := List.append_of_mem hc
        refine ⟨as, bs, rfl, fun d hd => ?_⟩
        rw [List.map_append, List.pairwise_append] at hl
        have := hl.2.2 d.1 (List.mem_map_of_mem hd) c.1 (by simp)
        simp; omega
      simp [this]
    rw [hb] at h1
    unfold Mem.byte at h1
    split at h1
    · rename_i d hd
      have h2 := List.find?_some hd
      have h3 := List.mem_of_find?_eq_some hd
      simp at h2
      have : d = c := Prod.ext h2 h1
      exact this ▸ h3
    · exact absurd h1.symm (nl c hc)
  obtain ⟨m1, m2, -⟩ := (Mem.wf_iff m).mp hm
  obtain ⟨k1, k2, -⟩ := (Mem.wf_iff k).mp hk
  have hb : ∀ a, (⟨m.cells, []⟩ : Mem).byte a = (⟨k.cells, []⟩ : Mem).byte a := h
  have s1 := key _ _ m1 k1 m2 k2 hb
  have s2 := key _ _ k1 m1 k2 m2 (fun a => (hb a).symm)
  have p1 : m.cells.Pairwise (fun a b => a.1 < b.1) := by rwa [List.pairwise_map] at m1
  have p2 : k.cells.Pairwise (fun a b => a.1 < b.1) := by rwa [List.pairwise_map] at k1
  have n1 : m.cells.Nodup := p1.imp (fun h e => by rw [e] at h; exact lt_irrefl _ h)
  have n2 : k.cells.Nodup := p2.imp (fun h e => by rw [e] at h; exact lt_irrefl _ h)
  have hp : m.cells.Perm k.cells := (List.perm_ext_iff_of_nodup n1 n2).mpr (fun c => ⟨s1 c, s2 c⟩)
  exact hp.eq_of_pairwise (fun a b _ _ h1 h2 => by omega) p1 p2

end Sys2Proof.Machine
end

