-- ==== Sys2Proof/Laws/Syllable.lean ====
section
/-!
SUPPORT. The frame in which a syllable runs: what `syl` answers when the syllable has its own effect, when its guard
is false and when it may not run.
-/
namespace Sys2Proof.Machine
open Sys2Proof

theorem ready_inFlight {s : State} (i : Instr) (h : s.core.bundle ≠ []) : ready i s = some s := by
  simp [ready, h]

theorem sylPre_flows {pre : State → Option Eff} {i : Instr} {s : State} {body : State → Eff} (h : Flows i s) (hp : pre s = none) :
    sylPre pre i s body = .next (settle s (body s)) := by
  obtain ⟨hb, hpr, he, hen, hr, hsc⟩ := h
  have : (privileged i && !s.core.privAt) = false := by
    cases hq : privileged i <;> simp_all
  simp [sylPre, ready_inFlight i hb, this, he, hen, hp, hr, hsc]

theorem syl_flows {i : Instr} {s : State} {body : State → Eff} (h : Flows i s) : syl i s body = .next (settle s (body s)) :=
  sylPre_flows h rfl

theorem vsyl_flows {i : Instr} {s : State} {body : State → Eff} (h : VFlows i s) : vsyl i s body = .next (settle s (body s)) :=
  sylPre_flows h.1 h.2

theorem sylPre_disabled {pre : State → Option Eff} {i : Instr} {s : State} {body : State → Eff} (hb : s.core.bundle ≠ [])
    (hp : privileged i = true → s.core.privAt = true) (he : envelopeFull s i = false) (hg : enabled s.core i = false) :
    sylPre pre i s body = .next (settle s (.done s)) := by
  have : (privileged i && !s.core.privAt) = false := by cases hq : privileged i <;> simp_all
  simp [sylPre, ready_inFlight i hb, this, he, hg]

theorem sylPre_denied {pre : State → Option Eff} {i : Instr} {s : State} {body : State → Eff} (hb : s.core.bundle ≠ [])
    (hp : privileged i = true) (hs : s.core.privAt = false) :
    sylPre pre i s body = .next (trapDecode s .privilege s.core.idx (wordHere s.core)) := by
  simp [sylPre, ready_inFlight i hb, hp, hs]

theorem settle_done (s t : State) : settle s (.done t) = committed s t := rfl
theorem settle_left (s t : State) : settle s (.left t) = t := rfl
theorem settle_wait (s t : State) : settle s (.wait t) = stall t := rfl
theorem settle_trap (s t : State) (c : Cause) (n : Nat) (v : Word) : settle s (.trap t c n v) = trapHere t c n v := rfl

theorem guardPush_ok {s : State} {d : XReg} {e : Eff} (h : MayWrite s d) : guardPush s d e = e := by simp [guardPush, h]

end Sys2Proof.Machine
end

