-- ==== Sys2Proof/Laws/Commit.lean ====
section
/-!
SUPPORT. What a result that lands, the commit of a syllable and an exposed result change, and what they keep.
-/
set_option linter.unusedSimpArgs false
namespace Sys2Proof.Machine
open Sys2Proof

/-! what landing keeps -/

/-- `t` is `s` but for register files, queues, VQSTAT, results in flight. -/
structure Landed (s t : State) (ds : List Dest) : Prop where
  x : ∀ r : XReg, Dest.x r ∉ ds → t.core.x[r] = s.core.x[r]
  p : ∀ r : PReg, Dest.p r ∉ ds → getP t.core r = getP s.core r
  v : ∀ r : VReg, Dest.v r ∉ ds → t.core.v[r] = s.core.v[r]
  m : ∀ r : MReg, Dest.m r ∉ ds → t.core.m[r] = s.core.m[r]
  g : ∀ r : GReg, Dest.g r ∉ ds → t.core.g[r] = s.core.g[r]
  rest : t = { s with queues := t.queues, core := { s.core with x := t.core.x, xmark := t.core.xmark, p := t.core.p, v := t.core.v, vmark := t.core.vmark, m := t.core.m, g := t.core.g, gmark := t.core.gmark, vu := { s.core.vu with vqstat := t.core.vu.vqstat } } }

theorem Landed.refl (s : State) (ds) : Landed s s ds := ⟨fun _ _ => rfl, fun _ _ => rfl, fun _ _ => rfl, fun _ _ => rfl, fun _ _ => rfl, rfl⟩
theorem Landed.trans {a b c : State} {d e f : List Dest} (h : Landed a b d) (k : Landed b c e) (hd : ∀ x, x ∈ d → x ∈ f) (he : ∀ x, x ∈ e → x ∈ f) : Landed a c f where
  x r hr := (k.x r (fun m => hr (he _ m))).trans (h.x r (fun m => hr (hd _ m)))
  p r hr := (k.p r (fun m => hr (he _ m))).trans (h.p r (fun m => hr (hd _ m)))
  v r hr := (k.v r (fun m => hr (he _ m))).trans (h.v r (fun m => hr (hd _ m)))
  m r hr := (k.m r (fun m => hr (he _ m))).trans (h.m r (fun m => hr (hd _ m)))
  g r hr := (k.g r (fun m => hr (he _ m))).trans (h.g r (fun m => hr (hd _ m)))
  rest := by rw [k.rest, h.rest]

theorem getP_setP_ne {c : Core} {r q : PReg} {b : Bool} (h : q ≠ r) : getP (setP c r b) q = getP c q := by
  have hv : q.val ≠ r.val := fun e => h (Fin.ext e)
  have hr := r.isLt
  have hq := q.isLt
  unfold getP setP
  by_cases h0 : r.val = 0
  · simp [h0]
  · by_cases hq0 : q.val = 0
    · simp [hq0]
    · simp only [h0, hq0, if_false]
      have hs : (1#8 <<< r.val).getLsbD q.val = false := by
        rw [BitVec.getLsbD_shiftLeft, BitVec.getLsbD_one]
        by_cases hl : q.val < r.val
        · simp [hl]
        · have : q.val - r.val ≠ 0 := by omega
          simp [this]
      cases b
      · simp only [Bool.false_eq_true, if_false, BitVec.getLsbD_and, BitVec.getLsbD_not, hs, hq, decide_true, Bool.not_false, Bool.and_self, Bool.and_true]
      · simp only [if_true, BitVec.getLsbD_or, hs, Bool.or_false]

theorem writeDest_landed (s : State) (d : Dest) (v : Nat) (k : Mark) : Landed s (writeDest s d v k) [d] := by
  cases d with
  | x r =>
    unfold writeDest setX
    by_cases h : r.val = 0
    · simpa [h] using Landed.refl s [.x r]
    · simp only [h, if_false]
      refine ⟨fun q hq => ?_, fun _ _ => rfl, fun _ _ => rfl, fun _ _ => rfl, fun _ _ => rfl, rfl⟩
      have : q ≠ r := fun e => hq (by simp [e])
      have hv : r.val ≠ q.val := fun e => this (Fin.ext e.symm)
      simp [Vector.getElem_set, hv]
  | p r =>
    refine ⟨fun _ _ => ?_, fun q hq => getP_setP_ne (fun e => hq (by simp [e])), fun _ _ => ?_, fun _ _ => ?_, fun _ _ => ?_, ?_⟩ <;>
      (simp only [writeDest, setP]; split <;> rfl)
  | v r =>
    refine ⟨fun _ _ => rfl, fun _ _ => rfl, fun q hq => ?_, fun _ _ => rfl, fun _ _ => rfl, rfl⟩
    have hv : r.val ≠ q.val := fun e => hq (by simp [Fin.ext e])
    simp [writeDest, Vector.getElem_set, hv]
  | m r =>
    refine ⟨fun _ _ => rfl, fun _ _ => rfl, fun _ _ => rfl, fun q hq => ?_, fun _ _ => rfl, rfl⟩
    have hv : r.val ≠ q.val := fun e => hq (by simp [Fin.ext e])
    simp [writeDest, Vector.getElem_set, hv]
  | g r =>
    refine ⟨fun _ _ => rfl, fun _ _ => rfl, fun _ _ => rfl, fun _ _ => rfl, fun q hq => ?_, rfl⟩
    have hv : r.val ≠ q.val := fun e => hq (by simp [Fin.ext e])
    simp [writeDest, Vector.getElem_set, hv]
  | queue q e => exact ⟨fun _ _ => rfl, fun _ _ => rfl, fun _ _ => rfl, fun _ _ => rfl, fun _ _ => rfl, rfl⟩

theorem setVqstat_landed (s : State) (w : Word) : Landed s (onCore s (fun c => { c with vu := { c.vu with vqstat := w } })) [] :=
  ⟨fun _ _ => rfl, fun _ _ => rfl, fun _ _ => rfl, fun _ _ => rfl, fun _ _ => rfl, rfl⟩

theorem addVqstat_landed (s : State) (a b : Nat) : Landed s (addVqstat s a b) [] := by
  unfold addVqstat; split
  · exact Landed.refl _ _
  · exact setVqstat_landed s _

theorem land_landed (s : State) (l : Landing) : Landed s (land s l) [l.dst] :=
  (writeDest_landed s l.dst l.val l.mark).trans (addVqstat_landed _ _ _) (fun _ h => h) (fun _ h => by simp at h)

theorem foldl_land_landed (l : List Landing) : ∀ s : State, Landed s (l.foldl land s) (l.map (·.dst)) := by
  induction l with
  | nil => exact fun s => Landed.refl s _
  | cons a l ih =>
    intro s
    refine (land_landed s a).trans (ih (land s a)) (fun d h => ?_) (fun d h => ?_)
    · simp at h; simp [h]
    · simp only [List.map_cons, List.mem_cons]; exact .inr h

/-- `landThrough` says: -/
theorem landThrough_landed (s : State) (t : Nat) :
    Landed { s with core := { s.core with exposed := s.core.exposed.filter (fun l => !decide (l.due ≤ t)) } } (landThrough s t)
      ((s.core.exposed.filter (fun l => decide (l.due ≤ t))).map (·.dst)) := foldl_land_landed _ _
/-- The pipeline fields of a core: what a commit may change beside landing. -/
def withPipe (c d : Core) : Core :=
  { c with pc := d.pc, bundle := d.bundle, idx := d.idx, lx := d.lx, pops := d.pops, pushes := d.pushes, target := d.target
           task := d.task, nextTask := d.nextTask, waiting := d.waiting, waited := d.waited, owed := d.owed, envCount := d.envCount, envCrc := d.envCrc, envFlip := d.envFlip }

theorem foldl_envAdd (l : List Nat) : ∀ c : Core, l.foldl envAdd c = withPipe c (l.foldl envAdd c) := by
  induction l with
  | nil => exact fun c => rfl
  | cons a l ih => intro c; simp only [List.foldl_cons]; rw [ih]; rfl

theorem envAdds_task (c : Core) (l : List Nat) : (l.foldl envAdd c).task = c.task ∧ (l.foldl envAdd c).nextTask = c.nextTask := by
  induction l generalizing c with
  | nil => exact ⟨rfl, rfl⟩
  | cons a l ih => exact ih (envAdd c a)

/-- The core after a commit at clock `now`, before a wait's clock. -/
def commitCore (c : Core) (b : Bool) (now : Nat) : Core :=
  let d := if b then (commitWords c).foldl envAdd c else c
  if decide (c.bundle.length ≤ c.idx + 1) then beginNext now (endBundle (if b then { d with envCount := d.envCount + 1 } else d))
  else { d with idx := d.idx + 1, lx := none, waiting := none, waited := c.waited || c.waiting.isSome }

theorem commit_def (s : State) (b : Bool) : commit s b =
    if decide (s.core.bundle.length ≤ s.core.idx + 1) && (s.core.waited || s.core.waiting.isSome)
    then endWait { s with core := commitCore s.core b s.clock } else { s with core := commitCore s.core b s.clock } := rfl

/-- What the beginning of a task in place keeps: all but the task (R386). -/
theorem beginNext_eq (now : Nat) (c : Core) : beginNext now c = { c with task := (beginNext now c).task, nextTask := none } := by
  unfold beginNext; cases h : c.nextTask <;> simp
  cases c; simp_all

theorem beginNext_none {now : Nat} {c : Core} (h : c.nextTask = none) : beginNext now c = c := by simp [beginNext, h]

theorem commitCore_pipe (c : Core) (b : Bool) (now : Nat) : commitCore c b now = withPipe c (commitCore c b now) := by
  unfold commitCore
  by_cases hl : c.bundle.length ≤ c.idx + 1 <;> cases b <;> simp only [hl, decide_true, decide_false, if_true, if_false, Bool.false_eq_true]
  · rw [beginNext_eq]; rfl
  · rw [foldl_envAdd, beginNext_eq]; rfl
  · rfl
  · rw [foldl_envAdd]; rfl

/-- With no task given to begin in place, a commit keeps the task. -/
theorem commitCore_task (c : Core) (b : Bool) (now : Nat) (h : c.nextTask = none) :
    (commitCore c b now).task = c.task ∧ (commitCore c b now).nextTask = none := by
  unfold commitCore
  by_cases hl : c.bundle.length ≤ c.idx + 1 <;> cases b <;>
    simp [hl, endBundle, beginNext, h, envAdds_task]

theorem commit_eq (s : State) (b : Bool) : ∃ d : Core, (s.core.nextTask = none → d.task = s.core.task ∧ d.nextTask = none) ∧
    (commit s b = { s with core := withPipe s.core d } ∨ commit s b = endWait { s with core := withPipe s.core d }) := by
  refine ⟨commitCore s.core b s.clock, commitCore_task _ _ _, ?_⟩
  rw [commit_def, ← commitCore_pipe]; split
  · exact .inr rfl
  · exact .inl rfl

theorem RegistersKept.of_eq {s t : State} {w : List Dest} (hx : t.core.x = s.core.x) (hp : t.core.p = s.core.p) (hv : t.core.v = s.core.v)
    (hm : t.core.m = s.core.m) (hg : t.core.g = s.core.g) : RegistersKept s t w :=
  ⟨fun _ _ _ => by rw [hx], fun _ _ _ => by unfold getP; rw [hp], fun _ _ _ => by rw [hv], fun _ _ _ => by rw [hm], fun _ _ _ => by rw [hg]⟩

theorem landThrough_kept (s : State) (n : Nat) : RegistersKept s (landThrough s n) [] := by
  have h := landThrough_landed s n
  have key : ∀ d : Dest, NotInFlight s d → d ∉ (s.core.exposed.filter (fun l => decide (l.due ≤ n))).map (·.dst) := by
    intro d hd hm
    simp only [List.mem_map, List.mem_filter] at hm
    obtain ⟨l, ⟨hl, -⟩, rfl⟩ := hm
    exact hd l hl rfl
  exact ⟨fun r _ hr => h.x r (key _ hr), fun r _ hr => h.p r (key _ hr), fun r _ hr => h.v r (key _ hr), fun r _ hr => h.m r (key _ hr), fun r _ hr => h.g r (key _ hr)⟩

theorem commit_kept (s : State) (b : Bool) : RegistersKept s (commit s b) [] ∧ specialsKept s.core (commit s b).core ∧ outsideKept s (commit s b) := by
  obtain ⟨d, ht, h | h⟩ := commit_eq s b
  · rw [h]; exact ⟨.of_eq rfl rfl rfl rfl rfl, by simpa [specialsKept, withPipe] using ht, rfl⟩
  · rw [h]
    have hk := landThrough_kept (onCore { s with core := withPipe s.core d } (fun c => { c with sched := c.sched + 1, owed := c.owed - 1, waited := false })) (s.core.sched + 1)
    have hr := (landThrough_landed (onCore { s with core := withPipe s.core d } (fun c => { c with sched := c.sched + 1, owed := c.owed - 1, waited := false })) (s.core.sched + 1)).rest
    have hE : endWait { s with core := withPipe s.core d } = landThrough (onCore { s with core := withPipe s.core d } (fun c => { c with sched := c.sched + 1, owed := c.owed - 1, waited := false })) (s.core.sched + 1) := rfl
    rw [hE]
    refine ⟨⟨hk.x, hk.p, hk.v, hk.m, hk.g⟩, ?_, ?_⟩
    · rw [hr]; simpa [specialsKept, withPipe, onCore] using ht
    · unfold outsideKept; rw [hr]; rfl
theorem RegistersKept.comp {s u t : State} {w : List Dest} (h : RegistersKept s u w) (k : RegistersKept u t [])
    (hi : ∀ d, d ∉ w → NotInFlight s d → NotInFlight u d) : RegistersKept s t w :=
  ⟨fun r hw hn => (k.x r (by simp) (hi _ hw hn)).trans (h.x r hw hn), fun r hw hn => (k.p r (by simp) (hi _ hw hn)).trans (h.p r hw hn),
   fun r hw hn => (k.v r (by simp) (hi _ hw hn)).trans (h.v r hw hn), fun r hw hn => (k.m r (by simp) (hi _ hw hn)).trans (h.m r hw hn),
   fun r hw hn => (k.g r (by simp) (hi _ hw hn)).trans (h.g r hw hn)⟩

theorem specialsKept.comp {a b c : Core} (h : specialsKept a b) (k : specialsKept b c) : specialsKept a c := by
  unfold specialsKept at *; simp_all
theorem outsideKept.comp {a b c : State} (h : outsideKept a b) (k : outsideKept b c) : outsideKept a c := by
  unfold outsideKept at *; rw [k, h]

/-- `u` differs from `s` at most by results in flight to `w`, reservations and queues. -/
structure Exposes (s u : State) (w : List Dest) : Prop where
  regs : RegistersKept s u w
  specials : specialsKept s.core u.core
  outside : outsideKept s u
  flight : ∀ d, d ∉ w → NotInFlight s d → NotInFlight u d

theorem Exposes.commit {s u : State} {w : List Dest} (h : Exposes s u w) (b : Bool) :
    RegistersKept s (commit u b) w ∧ specialsKept s.core (commit u b).core ∧ outsideKept s (commit u b) :=
  let k := commit_kept u b
  ⟨h.regs.comp k.1 h.flight, h.specials.comp k.2.1, h.outside.comp k.2.2⟩

theorem expose_exposes (s : State) (n : Nat) (d : Dest) (v : Nat) : Exposes s (expose s n d v) [d] :=
  ⟨.of_eq rfl rfl rfl rfl rfl, by simp [specialsKept, expose, onCore], rfl, fun e he hn l hl => by
    simp only [expose, onCore, List.mem_append, List.mem_singleton] at hl
    rcases hl with hl | rfl
    · exact hn l hl
    · intro hh; exact he (by simp [← hh])⟩

theorem Exposes.refl (s : State) (w) : Exposes s s w := ⟨.of_eq rfl rfl rfl rfl rfl, by simp [specialsKept], rfl, fun _ _ h => h⟩

theorem exposeX_exposes (s : State) (n : Nat) (r : XReg) (v : Word) : Exposes s (exposeX s n r v) [.x r] := by
  unfold exposeX
  split
  · exact ⟨.of_eq rfl rfl rfl rfl rfl, by simp [specialsKept, fillEntry, takeReserved, onCore], rfl, fun _ _ h => h⟩
  · split
    · exact .refl _ _
    · exact expose_exposes s n _ _
end Sys2Proof.Machine
end

