-- ==== Sys2Proof/Laws/Schedule.lean ====
section
/-!
SUPPORT. What the commit of one syllable and of the last syllable of a bundle leaves, and what holding the interrupted
schedule leaves (R31, R92, R400, R404).
-/
set_option linter.unusedSimpArgs false
namespace Sys2Proof.Machine
open Sys2Proof

theorem withPipe_env (c : Core) (l : List Nat) : (l.foldl envAdd c).idx = c.idx ∧ (l.foldl envAdd c).bundle = c.bundle ∧
    (l.foldl envAdd c).pc = c.pc ∧ (l.foldl envAdd c).sched = c.sched ∧ (l.foldl envAdd c).exposed = c.exposed ∧
    (l.foldl envAdd c).envCount = c.envCount ∧ (l.foldl envAdd c).target = c.target ∧ (l.foldl envAdd c).sw = c.sw := by
  induction l generalizing c with
  | nil => simp
  | cons a l ih => exact ih (envAdd c a)

/-- The commit of a syllable that others of its bundle follow. -/
theorem commit_inner {s : State} {b : Bool} (h : s.core.idx + 1 < s.core.bundle.length) :
    (commit s b).core.idx = s.core.idx + 1 ∧ (commit s b).core.lx = none ∧ (commit s b).core.bundle = s.core.bundle ∧
      (commit s b).core.pc = s.core.pc ∧ (commit s b).core.sched = s.core.sched ∧ (commit s b).core.exposed = s.core.exposed ∧
      (commit s b).core.envCount = s.core.envCount ∧ (commit s b).core.sw = s.core.sw := by
  have hl : ¬ s.core.bundle.length ≤ s.core.idx + 1 := by omega
  have e := withPipe_env s.core (commitWords s.core)
  rw [commit_def]
  simp only [hl, decide_false, Bool.false_and, Bool.false_eq_true, if_false, commitCore]
  cases b
  · simp
  · simp [e]

/-- The commit of the last syllable of a bundle. -/
theorem commit_last {s : State} {b : Bool} (h : s.core.bundle.length ≤ s.core.idx + 1) :
    (commit s b).core.bundle = [] ∧
      (commit s b).core.pc = (match s.core.target with | some t => t.1 | none => s.core.pc + BitVec.ofNat 56 (4 * s.core.bundle.length)) ∧
      (commit s b).core.envCount = s.core.envCount + (if b then 1 else 0) ∧ (commit s b).core.sw = s.core.sw ∧
      (s.core.waited = false → s.core.waiting = none →
        (commit s b).core.sched = s.core.sched ∧ (commit s b).core.exposed = s.core.exposed ∧
        (commit s b).core.owed = 1 + (match s.core.target with | some t => t.2 | none => 0)) ∧
      (s.core.waited = true ∨ s.core.waiting.isSome = true →
        (commit s b).core.sched = s.core.sched + 1 ∧ (commit s b).core.owed = (match s.core.target with | some t => t.2 | none => 0)) := by
  have e := withPipe_env s.core (commitWords s.core)
  rw [commit_def]
  have hc : commitCore s.core b s.clock = beginNext s.clock (endBundle (if b then { (commitWords s.core).foldl envAdd s.core with envCount := s.core.envCount + 1 } else s.core)) := by
    unfold commitCore; cases b <;> simp [h, e]
  have key : ∀ c : Core, c = commitCore s.core b s.clock → c.bundle = [] ∧ c.pc = (match s.core.target with | some t => t.1 | none => s.core.pc + BitVec.ofNat 56 (4 * s.core.bundle.length)) ∧
      c.envCount = s.core.envCount + (if b then 1 else 0) ∧ c.sw = s.core.sw ∧ c.sched = s.core.sched ∧ c.exposed = s.core.exposed ∧ c.owed = 1 + (match s.core.target with | some t => t.2 | none => 0) := by
    intro c hcc; rw [hcc, hc, beginNext_eq]
    cases b <;> cases ht : s.core.target <;> simp [endBundle, e, afterBundle, ht]
  obtain ⟨k1, k2, k3, k4, k5, k6, k7⟩ := key _ rfl
  by_cases hw : s.core.waited = true ∨ s.core.waiting.isSome = true
  · have hw' : (s.core.waited || s.core.waiting.isSome) = true := by simpa using hw
    simp only [h, decide_true, hw', Bool.and_self, if_true]
    set u : State := { s with core := commitCore s.core b s.clock }
    have hr := (landThrough_landed (onCore u (fun c => { c with sched := c.sched + 1, owed := c.owed - 1, waited := false })) (u.core.sched + 1)).rest
    have hE : endWait u = landThrough (onCore u (fun c => { c with sched := c.sched + 1, owed := c.owed - 1, waited := false })) (u.core.sched + 1) := rfl
    rw [hE, hr]
    refine ⟨k1, k2, k3, k4, fun h1 h2 => ?_, fun _ => ⟨?_, ?_⟩⟩
    · rcases hw with hw | hw <;> simp_all
    · show (commitCore s.core b s.clock).sched + 1 = _; rw [k5]
    · show (commitCore s.core b s.clock).owed - 1 = _; rw [k7]; omega
  · have hw' : (s.core.waited || s.core.waiting.isSome) = false := by simpa using hw
    simp only [h, decide_true, hw', Bool.and_false, Bool.false_eq_true, if_false]
    exact ⟨k1, k2, k3, k4, fun _ _ => ⟨k5, k6, k7⟩, fun h => absurd h hw⟩

theorem commit_crc (s : State) : (commit s false).core.envCrc = s.core.envCrc := by
  have h : (commitCore s.core false s.clock).envCrc = s.core.envCrc := by
    unfold commitCore; simp only [Bool.false_eq_true, if_false]; split
    · rw [beginNext_eq]; rfl
    · rfl
  rw [commit_def]; split
  · have hr := (landThrough_landed (onCore { s with core := commitCore s.core false s.clock } (fun c => { c with sched := c.sched + 1, owed := c.owed - 1, waited := false })) ((commitCore s.core false s.clock).sched + 1)).rest
    have hE : endWait { s with core := commitCore s.core false s.clock } = landThrough (onCore { s with core := commitCore s.core false s.clock } (fun c => { c with sched := c.sched + 1, owed := c.owed - 1, waited := false })) ((commitCore s.core false s.clock).sched + 1) := rfl
    rw [hE, hr]; exact h
  · exact h
theorem holdSchedule_exposed (s : State) (t : Nat) : (landThrough s t).core.exposed = s.core.exposed.filter (fun l => !decide (l.due ≤ t)) := by
  rw [(landThrough_landed s t).rest]

/-- What holding the interrupted schedule leaves (R400). -/
theorem holdSchedule_spec (s : State) (t n : Nat) : ∃ c : Core, holdSchedule s t n = { s with core := c, queues := (holdSchedule s t n).queues } ∧
    c = { s.core with
      x := c.x, xmark := c.xmark, p := c.p, v := c.v, vmark := c.vmark, m := c.m, g := c.g, gmark := c.gmark
      vu := { s.core.vu with vqstat := c.vu.vqstat, scalar := none, chk := none }, mx := { s.core.mx with chk := none }
      levels := { writes := (s.core.exposed.filter (fun w => !decide (w.due ≤ t))).map (fun w => { w with due := w.due - t })
                  pops := s.core.pops.filter (fun p => decide (n ≤ p.idx)), pushes := s.core.pushes.filter (fun p => decide (n ≤ p.idx))
                  split := splitView s.core } :: s.core.levels
      exposed := [], pops := [], pushes := [], bundle := [], idx := 0, lx := none, target := none, waiting := none, waited := false
      resume := none, owed := 0, stepped := false } ∧ RegistersKept s (holdSchedule s t n) [] := by
  have hk := landThrough_kept s t
  have hr := (landThrough_landed s t).rest
  have he := holdSchedule_exposed s t
  refine ⟨(holdSchedule s t n).core, ?_, ?_, ⟨hk.x, hk.p, hk.v, hk.m, hk.g⟩⟩
  · unfold holdSchedule onCore; generalize landThrough s t = L at *; rw [hr]
  · unfold holdSchedule heldLevel onCore; generalize landThrough s t = L at *
    rw [← he]
    rw [hr]; rfl
/-- A commit puts nothing into flight. -/
theorem commit_flight (s : State) (b : Bool) (d : Dest) (h : NotInFlight s d) : NotInFlight (commit s b) d := by
  obtain ⟨c, h2⟩ : ∃ c, c = commitCore s.core b s.clock := ⟨_, rfl⟩
  have hc : c.exposed = s.core.exposed := by rw [h2, commitCore_pipe]; rfl
  have h0 : NotInFlight { s with core := c } d := fun l hl => h l (by rw [← hc]; exact hl)
  rw [commit_def, ← h2]; split
  · intro l hl
    have hE : endWait { s with core := c } = landThrough (onCore { s with core := c } (fun c => { c with sched := c.sched + 1, owed := c.owed - 1, waited := false })) (c.sched + 1) := rfl
    rw [hE, holdSchedule_exposed] at hl
    exact h0 l (List.mem_filter.mp hl).1
  · exact h0

end Sys2Proof.Machine
end

