-- ==== Sys2Proof/Laws/Access.lean ====
section
/-!
SUPPORT. What the checks and the performance of an access to memory come to, once for all instructions.
-/
set_option linter.unusedSimpArgs false
namespace Sys2Proof.Machine
open Sys2Proof

/-! ### Keyed lists -/

theorem lookupD_storeAt_ne {α : Type} (l : List (Nat × α)) (k j : Nat) (v d : α) (h : j ≠ k) : lookupD (storeAt l k v) j d = lookupD l j d := by
  induction l with
  | nil => simp [storeAt, lookupD]; intro e; exact absurd e.symm h
  | cons a l ih =>
    unfold storeAt
    split
    · simp only [lookupD]; split <;> simp_all
    · split
      · simp only [lookupD]; split <;> simp_all
      · simp only [lookupD]; rw [ih]

/-! ### Timestamps -/

/-- `t` is `s` but for timestamps (those of images and L2 copies too), the record of a rebase and the count of free
values (R147, R149). -/
structure Stamped (s t : State) : Prop where
  eq : t = { s with core := { s.core with pt := t.core.pt }, free := t.free, hub := t.hub
                    dist := { s.dist with vault := t.dist.vault, spill := t.dist.spill, restore := t.dist.restore }
                    sys := { s.sys with stamps := t.sys.stamps, l2Lines := t.sys.l2Lines, engTs := t.sys.engTs } }
  hub : ∀ a, a ≠ 0x4003000000 → hubGet t a = hubGet s a
  dist : untimed t.dist = untimed s.dist

theorem Stamped.refl (s : State) : Stamped s s := ⟨rfl, fun _ _ => rfl, rfl⟩
theorem Stamped.trans {a b c : State} (h : Stamped a b) (k : Stamped b c) : Stamped a c :=
  ⟨by rw [k.eq, h.eq], fun x hx => (k.hub x hx).trans (h.hub x hx), k.dist.trans h.dist⟩

theorem rebaseBy_stamped (s : State) (n : Nat) : Stamped s (rebaseBy s n) :=
  ⟨rfl, fun _ h => lookupD_storeAt_ne _ _ _ _ _ h, by simp [rebaseBy, hubSet, untimed, Function.comp_def]⟩
theorem rebaseNow_stamped (s : State) : Stamped s (rebaseNow s) :=
  Stamped.trans (b := drawn s) ⟨rfl, fun _ _ => rfl, rfl⟩ (rebaseBy_stamped _ _)
theorem stampRoom_stamped (s : State) (n : Nat) : Stamped s (stampRoom s n) := by
  unfold stampRoom
  split
  · exact rebaseNow_stamped s
  · exact .refl s
theorem stampStore_stamped (s : State) (k : Nat) : Stamped s (stampStore s k) :=
  (stampRoom_stamped s _).trans ⟨rfl, fun _ _ => rfl, rfl⟩
theorem stampLoad_stamped (s : State) (k : Nat) : Stamped s (stampLoad s k) := ⟨rfl, fun _ _ => rfl, rfl⟩
theorem stampOc_stamped (s : State) (a n : Nat) (w : Bool) : Stamped s (stampOc s a n w) := by
  unfold stampOc
  generalize sectorsOf a n = l
  induction l generalizing s with
  | nil => exact .refl s
  | cons k l ih =>
    rw [List.foldl_cons]
    refine Stamped.trans ?_ (ih _)
    split
    · exact stampStore_stamped _ _
    · exact stampLoad_stamped _ _

/-! ### Checks -/

/-- The check of a core access to LS or QS passes (R117, R120, R121). -/
theorem localCheck_ok {s : State} {base size n : Nat} {a : Int} {wr : Bool} (h0 : 0 ≤ a) (h1 : a + n ≤ size)
    (h2 : ∀ g ∈ granulesOf (base + a.toNat) n, g ∉ s.engine) (h3 : wr = true → meetsTag s (base + a.toNat) n = false) :
    localCheck s base size a n wr = .ok s (.oc (base + a.toNat)) := by
  have e : (granulesOf (base + a.toNat) n).find? (fun g => s.engine.contains g) = none := by
    rw [List.find?_eq_none]; intro g hg; simpa using h2 g hg
  have hb : ¬ (a < 0 ∨ (size : Int) < a + (n : Int)) := by omega
  have ht : (wr && meetsTag s (base + a.toNat) n) = false := by
    cases wr
    · rfl
    · simpa using h3 rfl
  simp only [localCheck, hb, if_false, ownedByCore, e, Acc.bind, ht, Bool.false_eq_true]

/-- A checked and aligned access runs its continuation: behind R153 when it stores. -/
theorem memAccess_load {s t : State} {sp n al : Nat} {a : Int} {p : Place} {need : Need} {k : State → Place → Int → Eff}
    (hc : coreCheck s sp a n need = .ok t p) (ha : a % (al : Int) = 0) (hw : need.wr = false) :
    memAccess s sp (.ok a) n al need k = k t p a := by
  simp only [memAccess, hc, ha, bne_self_eq_false, Bool.and_false, Bool.false_eq_true, if_false]
  cases p <;> simp only [hw, Bool.false_eq_true, if_false]

/-- The same of an access to a place outside GM. -/
theorem memAccess_local {s t : State} {sp n al : Nat} {a : Int} {x : Nat} {need : Need} {k : State → Place → Int → Eff}
    (hc : coreCheck s sp a n need = .ok t (.oc x)) (ha : a % (al : Int) = 0) :
    memAccess s sp (.ok a) n al need k = k t (.oc x) a := by
  simp only [memAccess, hc, ha, bne_self_eq_false, Bool.and_false, Bool.false_eq_true, if_false]

/-- A checked store whose lines no other node holds staged (R153). -/
theorem memAccess_gm {s t u : State} {sp n al : Nat} {a : Int} {r : List (Nat × Nat)} {need : Need} {k : State → Place → Int → Eff}
    (hc : coreCheck s sp a n need = .ok t (.gm r)) (ha : a % (al : Int) = 0) (hw : need.wr = true)
    (hs : settleClash 16 t (coreViewer t) r = .ok u ()) :
    memAccess s sp (.ok a) n al need k = k u (.gm r) a := by
  simp only [memAccess, hc, ha, bne_self_eq_false, Bool.and_false, Bool.false_eq_true, if_false, hw, if_true, hs]

theorem meAddr_eff {s : State} {sp : Nat} {b : XReg} {w off n : Nat} (h : sp ≠ 4) :
    meAddr s sp b w off n = .ok (((readX s b).toNat : Int) + immOf s.core w off * (n : Int)) := by
  have : (sp == 4) = false := by simpa using h
  simp only [meAddr, this]; rfl

end Sys2Proof.Machine
end

