-- ==== Sys2Proof/Laws/PerInstr.lean ====
section
/-!
SUPPORT. Decoding what the encoder writes, one lemma per constructor (R45 to R62).
-/
namespace Sys2Proof
open Sys2Proof.Machine (bits bit b2n)

theorem b2n_lt (b : Bool) : b2n b < 2 := by cases b <;> decide
theorem Size.code_lt (z : Size) : z.code < 4 := by cases z <;> decide
theorem AmoOp.code_lt (z : AmoOp) : z.code < 8 := by cases z <;> decide
theorem ElemTy.code_lt (z : ElemTy) : z.code < 16 := by cases z <;> decide
theorem Half.code_lt (z : Half) : z.code < 4 := by cases z <;> decide
theorem DrainMode.code_lt (z : DrainMode) : z.code < 8 := by cases z <;> decide
theorem Scope.code_lt (z : Scope) : z.code < 8 := by cases z <;> decide
theorem Size.ofCode_code (z : Size) : Size.ofCode z.code = z := by cases z <;> rfl
theorem AmoOp.ofCode_code (z : AmoOp) : AmoOp.ofCode z.code = z := by cases z <;> rfl
theorem ElemTy.ofCode_code (z : ElemTy) : ElemTy.ofCode z.code = some z := by cases z <;> rfl
theorem Half.ofCode_code (z : Half) : Half.ofCode z.code = some z := by cases z <;> rfl
theorem DrainMode.ofCode_code (z : DrainMode) : DrainMode.ofCode z.code = some z := by cases z <;> rfl
theorem Scope.ofCode_code (z : Scope) : Scope.ofCode z.code = some z := by cases z <;> rfl

theorem bits_eq {N hi lo v : Nat} (h : N / 2 ^ lo % 2 ^ (hi + 1 - lo) = v) : bits N hi lo = v := by
  simpa only [bits, Nat.shiftRight_eq_div_pow] using h
theorem bit_eq {N i : Nat} {b : Bool} (h : N / 2 ^ i % 2 = b2n b) : bit N i = b := by
  unfold bit; rw [Nat.shiftRight_eq_div_pow, h]; cases b <;> rfl
theorem xreg_eq {N lo : Nat} {r : Fin 32} (h : N / 2 ^ lo % 32 = r.val) : xreg N lo = r :=
  Fin.ext (by simpa only [xreg, Nat.shiftRight_eq_div_pow] using h)
theorem fin16_eq {N lo : Nat} {r : Fin 16} (h : N / 2 ^ lo % 16 = r.val) : fin16 N lo = r :=
  Fin.ext (by simpa only [fin16, Nat.shiftRight_eq_div_pow] using h)
theorem fin8_eq {N lo : Nat} {r : Fin 8} (h : N / 2 ^ lo % 8 = r.val) : fin8 N lo = r :=
  Fin.ext (by simpa only [fin8, Nat.shiftRight_eq_div_pow] using h)
theorem fin4_eq {N lo : Nat} {r : Fin 4} (h : N / 2 ^ lo % 4 = r.val) : fin4 N lo = r :=
  Fin.ext (by simpa only [fin4, Nat.shiftRight_eq_div_pow] using h)
theorem imm_eq {N n lo : Nat} {v : BitVec n} (h : N / 2 ^ lo % 2 ^ n = v.toNat) : imm N n lo = v := by
  apply BitVec.eq_of_toNat_eq; simpa only [imm, BitVec.toNat_ofNat, Nat.shiftRight_eq_div_pow] using h
theorem guardAt_eq {N p n : Nat} {g : Guard} (h : N / 2 ^ p % 8 = g.pred.val) (k : N / 2 ^ n % 2 = b2n g.neg) :
    guardAt N p n = g := by
  unfold guardAt; rw [fin8_eq h, bit_eq k]

end Sys2Proof

namespace Sys2Proof.Laws.RoundTrip
open Sys2Proof
open Sys2Proof.Machine (bits bit b2n)

/-- The word of a well-formed instruction decodes to it, with its stop bit; the part's own steps have no word. -/
def Statement (i : Instr) : Prop :=
  ∀ (stop : Bool) (w : Syllable), wellFormed i = true → encode stop i = some w → decode w = some i ∧ stopBit w = stop

theorem of_fields {i : Instr} {n : Nat} (h : encodeFields i = some n) (hn : n < 2147483648)
    (hd : ∀ N : Nat, N % 2147483648 = n → decodeFields N = some i) : Statement i := by
  intro stop w hw he
  have hb := b2n_lt stop
  simp only [encode, h, Option.map_some, Option.some.injEq] at he
  have hv : w.toNat = b2n stop * 2147483648 + n := by
    rw [← he, BitVec.toNat_ofNat]; exact Nat.mod_eq_of_lt (by omega)
  refine ⟨?_, ?_⟩
  · simp [decode, hd w.toNat (by omega), Option.filter, hw]
  · exact bit_eq (by omega)

/-- A word as segments from the top bit down, each a width and a value. -/
def hz (l : List (Nat × Nat)) (acc : Nat) : Nat := l.foldl (fun a p => a * 2 ^ p.1 + p.2) acc
def widths (l : List (Nat × Nat)) : Nat := l.foldl (fun a p => a + p.1) 0
def Fits (l : List (Nat × Nat)) : Prop := ∀ p ∈ l, p.2 < 2 ^ p.1

theorem all_nil : Fits [] := fun _ h => nomatch h
theorem all_cons {w v : Nat} {l : List (Nat × Nat)} (h : v < 2 ^ w) (k : Fits l) : Fits ((w, v) :: l) :=
  fun p hp => by
    rcases List.mem_cons.1 hp with rfl | hp
    · exact h
    · exact k p hp

theorem widths_acc (l : List (Nat × Nat)) (a : Nat) : l.foldl (fun a p => a + p.1) a = a + widths l := by
  induction l generalizing a with
  | nil => simp [widths]
  | cons p l ih => simp only [widths, List.foldl]; rw [ih, ih (0 + p.1)]; omega
theorem widths_cons (p : Nat × Nat) (l : List (Nat × Nat)) : widths (p :: l) = p.1 + widths l := by
  simp only [widths, List.foldl]; rw [widths_acc]; simp [widths]
theorem hz_acc (l : List (Nat × Nat)) (a : Nat) : hz l a = a * 2 ^ widths l + hz l 0 := by
  induction l generalizing a with
  | nil => simp [hz, widths]
  | cons p l ih =>
    have h : ∀ b, hz (p :: l) b = hz l (b * 2 ^ p.1 + p.2) := fun _ => rfl
    rw [h, h, ih, ih (0 * 2 ^ p.1 + p.2), widths_cons, Nat.pow_add]; ring
theorem hz_lt (l : List (Nat × Nat)) (h : Fits l) : hz l 0 < 2 ^ widths l := by
  induction l with
  | nil => simp [hz, widths]
  | cons p l ih =>
    have hp := h p (by simp)
    have hl := ih (fun q hq => h q (by simp [hq]))
    have e : hz (p :: l) 0 = hz l (0 * 2 ^ p.1 + p.2) := rfl
    rw [e, hz_acc, widths_cons, Nat.pow_add]
    have : (0 * 2 ^ p.1 + p.2 + 1) * 2 ^ widths l ≤ 2 ^ p.1 * 2 ^ widths l := Nat.mul_le_mul_right _ (by omega)
    rw [Nat.add_mul] at this; omega
theorem hz_one (w v : Nat) : hz [(w, v)] 0 = v := by simp [hz]
theorem hz_append (a b : List (Nat × Nat)) (q : Nat) : hz (a ++ b) q = hz b (hz a q) := by simp [hz, List.foldl_append]

theorem seg {N q v : Nat} (pre mid post : List (Nat × Nat)) (hall : Fits (pre ++ mid ++ post)) (hN : N = hz (pre ++ mid ++ post) q)
    (hv : hz mid 0 = v) : N / 2 ^ widths post % 2 ^ widths mid = v := by
  have hm : Fits mid := fun p hp => hall p (by simp [hp])
  have hp : Fits post := fun p hp => hall p (by simp [hp])
  rw [hN, List.append_assoc, hz_append, hz_append, hz_acc post, Nat.add_comm, Nat.add_mul_div_right _ _ (Nat.two_pow_pos _),
    Nat.div_eq_of_lt (hz_lt post hp), Nat.zero_add, hz_acc mid, Nat.add_comm, Nat.add_mul_mod_self_right, Nat.mod_eq_of_lt (hz_lt mid hm), hv]
theorem bits_seg {N q v hi lo : Nat} (pre mid post : List (Nat × Nat)) (hall : Fits (pre ++ mid ++ post)) (hN : N = hz (pre ++ mid ++ post) q)
    (hv : hz mid 0 = v) (hl : widths post = lo) (hw : widths mid = hi + 1 - lo) : bits N hi lo = v :=
  by
  have := seg pre mid post hall hN hv
  rw [hl, hw] at this; exact bits_eq this

theorem of_segs {i : Instr} {n : Nat} (h : encodeFields i = some n) (l : List (Nat × Nat)) (hw : widths l = 31) (_ : True)
    (hall : Fits l) (hn : n = hz l 0) (hd : ∀ N q : Nat, N = hz l q → decodeFields N = some i) : Statement i := by
  have hlt := hz_lt l hall
  rw [hw] at hlt
  refine of_fields h (by omega) (fun N hN => hd N (N / 2147483648) ?_)
  rw [hz_acc, hw, ← hn, ← hN]; omega

theorem of_none {i : Instr} (h : encodeFields i = none) : Statement i := by
  intro stop w _ he; simp [encode, h] at he


theorem nop : Statement (.nop) := by
  have hall : Fits [(4, 0), (6, 0), (21, 0)] := all_cons (by decide) (all_cons (by decide) (all_cons (by decide) (all_nil)))
  refine of_segs rfl [(4, 0), (6, 0), (21, 0)] rfl trivial hall (by simp only [pack, hz, List.foldl]; omega) (fun N Q hN => ?_)
  have e0 : bits N 30 27 = 0 := bits_seg [] [(4, 0)] [(6, 0), (21, 0)] hall hN rfl rfl rfl
  have e1 : bits N 26 21 = 0 := bits_seg [(4, 0)] [(6, 0)] [(21, 0)] hall hN rfl rfl rfl
  have e2 : bits N 20 0 = 0 := bits_seg [(4, 0), (6, 0)] [(21, 0)] [] hall hN rfl rfl rfl
  rw [decodeFields, e0]; show decodeSA N = _; rw [decodeSA, e1]; show (if bits N 20 0 == 0 then some Instr.nop else none) = _
  simp only [e2, beq_self_eq_true, ↓reduceIte]

theorem add (g : Guard) (d : XReg) (a : XReg) (b : XReg) : Statement (.add g d a b) := by
  have hall : Fits [(4, 0), (6, 1), (5, d.val), (5, a.val), (5, b.val), (3, g.pred.val), (1, b2n g.neg), (2, 0)] := all_cons (by decide) (all_cons (by decide) (all_cons (d.isLt) (all_cons (a.isLt) (all_cons (b.isLt) (all_cons (g.pred.isLt) (all_cons (b2n_lt g.neg) (all_cons (by decide) (all_nil))))))))
  refine of_segs rfl [(4, 0), (6, 1), (5, d.val), (5, a.val), (5, b.val), (3, g.pred.val), (1, b2n g.neg), (2, 0)] rfl trivial hall (by simp only [pack, hz, List.foldl]; omega) (fun N Q hN => ?_)
  have e0 : bits N 30 27 = 0 := bits_seg [] [(4, 0)] [(6, 1), (5, d.val), (5, a.val), (5, b.val), (3, g.pred.val), (1, b2n g.neg), (2, 0)] hall hN rfl rfl rfl
  have e1 : bits N 26 21 = 1 := bits_seg [(4, 0)] [(6, 1)] [(5, d.val), (5, a.val), (5, b.val), (3, g.pred.val), (1, b2n g.neg), (2, 0)] hall hN rfl rfl rfl
  have e2 : bits N 1 0 = 0 := bits_seg [(4, 0), (6, 1), (5, d.val), (5, a.val), (5, b.val), (3, g.pred.val), (1, b2n g.neg)] [(2, 0)] [] hall hN rfl rfl rfl
  have e3 : guardAt N 3 2 = g := guardAt_eq (seg [(4, 0), (6, 1), (5, d.val), (5, a.val), (5, b.val)] [(3, g.pred.val)] [(1, b2n g.neg), (2, 0)] hall hN (hz_one _ _)) (seg [(4, 0), (6, 1), (5, d.val), (5, a.val), (5, b.val), (3, g.pred.val)] [(1, b2n g.neg)] [(2, 0)] hall hN (hz_one _ _))
  have e4 : xreg N 16 = d := xreg_eq (seg [(4, 0), (6, 1)] [(5, d.val)] [(5, a.val), (5, b.val), (3, g.pred.val), (1, b2n g.neg), (2, 0)] hall hN (hz_one _ _))
  have e5 : xreg N 11 = a := xreg_eq (seg [(4, 0), (6, 1), (5, d.val)] [(5, a.val)] [(5, b.val), (3, g.pred.val), (1, b2n g.neg), (2, 0)] hall hN (hz_one _ _))
  have e6 : xreg N 6 = b := xreg_eq (seg [(4, 0), (6, 1), (5, d.val), (5, a.val)] [(5, b.val)] [(3, g.pred.val), (1, b2n g.neg), (2, 0)] hall hN (hz_one _ _))
  rw [decodeFields, e0]; show decodeSA N = _; rw [decodeSA, e1]; show (if bits N 1 0 == 0 then some (Instr.add (guardAt N 3 2) (xreg N 16) (xreg N 11) (xreg N 6)) else none) = _
  simp only [e2, e3, e4, e5, e6, beq_self_eq_true, ↓reduceIte]

theorem sub (g : Guard) (d : XReg) (a : XReg) (b : XReg) : Statement (.sub g d a b) := by
  have hall : Fits [(4, 0), (6, 2), (5, d.val), (5, a.val), (5, b.val), (3, g.pred.val), (1, b2n g.neg), (2, 0)] := all_cons (by decide) (all_cons (by decide) (all_cons (d.isLt) (all_cons (a.isLt) (all_cons (b.isLt) (all_cons (g.pred.isLt) (all_cons (b2n_lt g.neg) (all_cons (by decide) (all_nil))))))))
  refine of_segs rfl [(4, 0), (6, 2), (5, d.val), (5, a.val), (5, b.val), (3, g.pred.val), (1, b2n g.neg), (2, 0)] rfl trivial hall (by simp only [pack, hz, List.foldl]; omega) (fun N Q hN => ?_)
  have e0 : bits N 30 27 = 0 := bits_seg [] [(4, 0)] [(6, 2), (5, d.val), (5, a.val), (5, b.val), (3, g.pred.val), (1, b2n g.neg), (2, 0)] hall hN rfl rfl rfl
  have e1 : bits N 26 21 = 2 := bits_seg [(4, 0)] [(6, 2)] [(5, d.val), (5, a.val), (5, b.val), (3, g.pred.val), (1, b2n g.neg), (2, 0)] hall hN rfl rfl rfl
  have e2 : bits N 1 0 = 0 := bits_seg [(4, 0), (6, 2), (5, d.val), (5, a.val), (5, b.val), (3, g.pred.val), (1, b2n g.neg)] [(2, 0)] [] hall hN rfl rfl rfl
  have e3 : guardAt N 3 2 = g := guardAt_eq (seg [(4, 0), (6, 2), (5, d.val), (5, a.val), (5, b.val)] [(3, g.pred.val)] [(1, b2n g.neg), (2, 0)] hall hN (hz_one _ _)) (seg [(4, 0), (6, 2), (5, d.val), (5, a.val), (5, b.val), (3, g.pred.val)] [(1, b2n g.neg)] [(2, 0)] hall hN (hz_one _ _))
  have e4 : xreg N 16 = d := xreg_eq (seg [(4, 0), (6, 2)] [(5, d.val)] [(5, a.val), (5, b.val), (3, g.pred.val), (1, b2n g.neg), (2, 0)] hall hN (hz_one _ _))
  have e5 : xreg N 11 = a := xreg_eq (seg [(4, 0), (6, 2), (5, d.val)] [(5, a.val)] [(5, b.val), (3, g.pred.val), (1, b2n g.neg), (2, 0)] hall hN (hz_one _ _))
  have e6 : xreg N 6 = b := xreg_eq (seg [(4, 0), (6, 2), (5, d.val), (5, a.val)] [(5, b.val)] [(3, g.pred.val), (1, b2n g.neg), (2, 0)] hall hN (hz_one _ _))
  rw [decodeFields, e0]; show decodeSA N = _; rw [decodeSA, e1]; show (if bits N 1 0 == 0 then some (Instr.sub (guardAt N 3 2) (xreg N 16) (xreg N 11) (xreg N 6)) else none) = _
  simp only [e2, e3, e4, e5, e6, beq_self_eq_true, ↓reduceIte]

theorem and (g : Guard) (d : XReg) (a : XReg) (b : XReg) : Statement (.and g d a b) := by
  have hall : Fits [(4, 0), (6, 3), (5, d.val), (5, a.val), (5, b.val), (3, g.pred.val), (1, b2n g.neg), (2, 0)] := all_cons (by decide) (all_cons (by decide) (all_cons (d.isLt) (all_cons (a.isLt) (all_cons (b.isLt) (all_cons (g.pred.isLt) (all_cons (b2n_lt g.neg) (all_cons (by decide) (all_nil))))))))
  refine of_segs rfl [(4, 0), (6, 3), (5, d.val), (5, a.val), (5, b.val), (3, g.pred.val), (1, b2n g.neg), (2, 0)] rfl trivial hall (by simp only [pack, hz, List.foldl]; omega) (fun N Q hN => ?_)
  have e0 : bits N 30 27 = 0 := bits_seg [] [(4, 0)] [(6, 3), (5, d.val), (5, a.val), (5, b.val), (3, g.pred.val), (1, b2n g.neg), (2, 0)] hall hN rfl rfl rfl
  have e1 : bits N 26 21 = 3 := bits_seg [(4, 0)] [(6, 3)] [(5, d.val), (5, a.val), (5, b.val), (3, g.pred.val), (1, b2n g.neg), (2, 0)] hall hN rfl rfl rfl
  have e2 : bits N 1 0 = 0 := bits_seg [(4, 0), (6, 3), (5, d.val), (5, a.val), (5, b.val), (3, g.pred.val), (1, b2n g.neg)] [(2, 0)] [] hall hN rfl rfl rfl
  have e3 : guardAt N 3 2 = g := guardAt_eq (seg [(4, 0), (6, 3), (5, d.val), (5, a.val), (5, b.val)] [(3, g.pred.val)] [(1, b2n g.neg), (2, 0)] hall hN (hz_one _ _)) (seg [(4, 0), (6, 3), (5, d.val), (5, a.val), (5, b.val), (3, g.pred.val)] [(1, b2n g.neg)] [(2, 0)] hall hN (hz_one _ _))
  have e4 : xreg N 16 = d := xreg_eq (seg [(4, 0), (6, 3)] [(5, d.val)] [(5, a.val), (5, b.val), (3, g.pred.val), (1, b2n g.neg), (2, 0)] hall hN (hz_one _ _))
  have e5 : xreg N 11 = a := xreg_eq (seg [(4, 0), (6, 3), (5, d.val)] [(5, a.val)] [(5, b.val), (3, g.pred.val), (1, b2n g.neg), (2, 0)] hall hN (hz_one _ _))
  have e6 : xreg N 6 = b := xreg_eq (seg [(4, 0), (6, 3), (5, d.val), (5, a.val)] [(5, b.val)] [(3, g.pred.val), (1, b2n g.neg), (2, 0)] hall hN (hz_one _ _))
  rw [decodeFields, e0]; show decodeSA N = _; rw [decodeSA, e1]; show (if bits N 1 0 == 0 then some (Instr.and (guardAt N 3 2) (xreg N 16) (xreg N 11) (xreg N 6)) else none) = _
  simp only [e2, e3, e4, e5, e6, beq_self_eq_true, ↓reduceIte]

theorem or (g : Guard) (d : XReg) (a : XReg) (b : XReg) : Statement (.or g d a b) := by
  have hall : Fits [(4, 0), (6, 4), (5, d.val), (5, a.val), (5, b.val), (3, g.pred.val), (1, b2n g.neg), (2, 0)] := all_cons (by decide) (all_cons (by decide) (all_cons (d.isLt) (all_cons (a.isLt) (all_cons (b.isLt) (all_cons (g.pred.isLt) (all_cons (b2n_lt g.neg) (all_cons (by decide) (all_nil))))))))
  refine of_segs rfl [(4, 0), (6, 4), (5, d.val), (5, a.val), (5, b.val), (3, g.pred.val), (1, b2n g.neg), (2, 0)] rfl trivial hall (by simp only [pack, hz, List.foldl]; omega) (fun N Q hN => ?_)
  have e0 : bits N 30 27 = 0 := bits_seg [] [(4, 0)] [(6, 4), (5, d.val), (5, a.val), (5, b.val), (3, g.pred.val), (1, b2n g.neg), (2, 0)] hall hN rfl rfl rfl
  have e1 : bits N 26 21 = 4 := bits_seg [(4, 0)] [(6, 4)] [(5, d.val), (5, a.val), (5, b.val), (3, g.pred.val), (1, b2n g.neg), (2, 0)] hall hN rfl rfl rfl
  have e2 : bits N 1 0 = 0 := bits_seg [(4, 0), (6, 4), (5, d.val), (5, a.val), (5, b.val), (3, g.pred.val), (1, b2n g.neg)] [(2, 0)] [] hall hN rfl rfl rfl
  have e3 : guardAt N 3 2 = g := guardAt_eq (seg [(4, 0), (6, 4), (5, d.val), (5, a.val), (5, b.val)] [(3, g.pred.val)] [(1, b2n g.neg), (2, 0)] hall hN (hz_one _ _)) (seg [(4, 0), (6, 4), (5, d.val), (5, a.val), (5, b.val), (3, g.pred.val)] [(1, b2n g.neg)] [(2, 0)] hall hN (hz_one _ _))
  have e4 : xreg N 16 = d := xreg_eq (seg [(4, 0), (6, 4)] [(5, d.val)] [(5, a.val), (5, b.val), (3, g.pred.val), (1, b2n g.neg), (2, 0)] hall hN (hz_one _ _))
  have e5 : xreg N 11 = a := xreg_eq (seg [(4, 0), (6, 4), (5, d.val)] [(5, a.val)] [(5, b.val), (3, g.pred.val), (1, b2n g.neg), (2, 0)] hall hN (hz_one _ _))
  have e6 : xreg N 6 = b := xreg_eq (seg [(4, 0), (6, 4), (5, d.val), (5, a.val)] [(5, b.val)] [(3, g.pred.val), (1, b2n g.neg), (2, 0)] hall hN (hz_one _ _))
  rw [decodeFields, e0]; show decodeSA N = _; rw [decodeSA, e1]; show (if bits N 1 0 == 0 then some (Instr.or (guardAt N 3 2) (xreg N 16) (xreg N 11) (xreg N 6)) else none) = _
  simp only [e2, e3, e4, e5, e6, beq_self_eq_true, ↓reduceIte]

theorem xor (g : Guard) (d : XReg) (a : XReg) (b : XReg) : Statement (.xor g d a b) := by
  have hall : Fits [(4, 0), (6, 5), (5, d.val), (5, a.val), (5, b.val), (3, g.pred.val), (1, b2n g.neg), (2, 0)] := all_cons (by decide) (all_cons (by decide) (all_cons (d.isLt) (all_cons (a.isLt) (all_cons (b.isLt) (all_cons (g.pred.isLt) (all_cons (b2n_lt g.neg) (all_cons (by decide) (all_nil))))))))
  refine of_segs rfl [(4, 0), (6, 5), (5, d.val), (5, a.val), (5, b.val), (3, g.pred.val), (1, b2n g.neg), (2, 0)] rfl trivial hall (by simp only [pack, hz, List.foldl]; omega) (fun N Q hN => ?_)
  have e0 : bits N 30 27 = 0 := bits_seg [] [(4, 0)] [(6, 5), (5, d.val), (5, a.val), (5, b.val), (3, g.pred.val), (1, b2n g.neg), (2, 0)] hall hN rfl rfl rfl
  have e1 : bits N 26 21 = 5 := bits_seg [(4, 0)] [(6, 5)] [(5, d.val), (5, a.val), (5, b.val), (3, g.pred.val), (1, b2n g.neg), (2, 0)] hall hN rfl rfl rfl
  have e2 : bits N 1 0 = 0 := bits_seg [(4, 0), (6, 5), (5, d.val), (5, a.val), (5, b.val), (3, g.pred.val), (1, b2n g.neg)] [(2, 0)] [] hall hN rfl rfl rfl
  have e3 : guardAt N 3 2 = g := guardAt_eq (seg [(4, 0), (6, 5), (5, d.val), (5, a.val), (5, b.val)] [(3, g.pred.val)] [(1, b2n g.neg), (2, 0)] hall hN (hz_one _ _)) (seg [(4, 0), (6, 5), (5, d.val), (5, a.val), (5, b.val), (3, g.pred.val)] [(1, b2n g.neg)] [(2, 0)] hall hN (hz_one _ _))
  have e4 : xreg N 16 = d := xreg_eq (seg [(4, 0), (6, 5)] [(5, d.val)] [(5, a.val), (5, b.val), (3, g.pred.val), (1, b2n g.neg), (2, 0)] hall hN (hz_one _ _))
  have e5 : xreg N 11 = a := xreg_eq (seg [(4, 0), (6, 5), (5, d.val)] [(5, a.val)] [(5, b.val), (3, g.pred.val), (1, b2n g.neg), (2, 0)] hall hN (hz_one _ _))
  have e6 : xreg N 6 = b := xreg_eq (seg [(4, 0), (6, 5), (5, d.val), (5, a.val)] [(5, b.val)] [(3, g.pred.val), (1, b2n g.neg), (2, 0)] hall hN (hz_one _ _))
  rw [decodeFields, e0]; show decodeSA N = _; rw [decodeSA, e1]; show (if bits N 1 0 == 0 then some (Instr.xor (guardAt N 3 2) (xreg N 16) (xreg N 11) (xreg N 6)) else none) = _
  simp only [e2, e3, e4, e5, e6, beq_self_eq_true, ↓reduceIte]

theorem andn (g : Guard) (d : XReg) (a : XReg) (b : XReg) : Statement (.andn g d a b) := by
  have hall : Fits [(4, 0), (6, 6), (5, d.val), (5, a.val), (5, b.val), (3, g.pred.val), (1, b2n g.neg), (2, 0)] := all_cons (by decide) (all_cons (by decide) (all_cons (d.isLt) (all_cons (a.isLt) (all_cons (b.isLt) (all_cons (g.pred.isLt) (all_cons (b2n_lt g.neg) (all_cons (by decide) (all_nil))))))))
  refine of_segs rfl [(4, 0), (6, 6), (5, d.val), (5, a.val), (5, b.val), (3, g.pred.val), (1, b2n g.neg), (2, 0)] rfl trivial hall (by simp only [pack, hz, List.foldl]; omega) (fun N Q hN => ?_)
  have e0 : bits N 30 27 = 0 := bits_seg [] [(4, 0)] [(6, 6), (5, d.val), (5, a.val), (5, b.val), (3, g.pred.val), (1, b2n g.neg), (2, 0)] hall hN rfl rfl rfl
  have e1 : bits N 26 21 = 6 := bits_seg [(4, 0)] [(6, 6)] [(5, d.val), (5, a.val), (5, b.val), (3, g.pred.val), (1, b2n g.neg), (2, 0)] hall hN rfl rfl rfl
  have e2 : bits N 1 0 = 0 := bits_seg [(4, 0), (6, 6), (5, d.val), (5, a.val), (5, b.val), (3, g.pred.val), (1, b2n g.neg)] [(2, 0)] [] hall hN rfl rfl rfl
  have e3 : guardAt N 3 2 = g := guardAt_eq (seg [(4, 0), (6, 6), (5, d.val), (5, a.val), (5, b.val)] [(3, g.pred.val)] [(1, b2n g.neg), (2, 0)] hall hN (hz_one _ _)) (seg [(4, 0), (6, 6), (5, d.val), (5, a.val), (5, b.val), (3, g.pred.val)] [(1, b2n g.neg)] [(2, 0)] hall hN (hz_one _ _))
  have e4 : xreg N 16 = d := xreg_eq (seg [(4, 0), (6, 6)] [(5, d.val)] [(5, a.val), (5, b.val), (3, g.pred.val), (1, b2n g.neg), (2, 0)] hall hN (hz_one _ _))
  have e5 : xreg N 11 = a := xreg_eq (seg [(4, 0), (6, 6), (5, d.val)] [(5, a.val)] [(5, b.val), (3, g.pred.val), (1, b2n g.neg), (2, 0)] hall hN (hz_one _ _))
  have e6 : xreg N 6 = b := xreg_eq (seg [(4, 0), (6, 6), (5, d.val), (5, a.val)] [(5, b.val)] [(3, g.pred.val), (1, b2n g.neg), (2, 0)] hall hN (hz_one _ _))
  rw [decodeFields, e0]; show decodeSA N = _; rw [decodeSA, e1]; show (if bits N 1 0 == 0 then some (Instr.andn (guardAt N 3 2) (xreg N 16) (xreg N 11) (xreg N 6)) else none) = _
  simp only [e2, e3, e4, e5, e6, beq_self_eq_true, ↓reduceIte]

theorem sll (g : Guard) (d : XReg) (a : XReg) (b : XReg) : Statement (.sll g d a b) := by
  have hall : Fits [(4, 0), (6, 7), (5, d.val), (5, a.val), (5, b.val), (3, g.pred.val), (1, b2n g.neg), (2, 0)] := all_cons (by decide) (all_cons (by decide) (all_cons (d.isLt) (all_cons (a.isLt) (all_cons (b.isLt) (all_cons (g.pred.isLt) (all_cons (b2n_lt g.neg) (all_cons (by decide) (all_nil))))))))
  refine of_segs rfl [(4, 0), (6, 7), (5, d.val), (5, a.val), (5, b.val), (3, g.pred.val), (1, b2n g.neg), (2, 0)] rfl trivial hall (by simp only [pack, hz, List.foldl]; omega) (fun N Q hN => ?_)
  have e0 : bits N 30 27 = 0 := bits_seg [] [(4, 0)] [(6, 7), (5, d.val), (5, a.val), (5, b.val), (3, g.pred.val), (1, b2n g.neg), (2, 0)] hall hN rfl rfl rfl
  have e1 : bits N 26 21 = 7 := bits_seg [(4, 0)] [(6, 7)] [(5, d.val), (5, a.val), (5, b.val), (3, g.pred.val), (1, b2n g.neg), (2, 0)] hall hN rfl rfl rfl
  have e2 : bits N 1 0 = 0 := bits_seg [(4, 0), (6, 7), (5, d.val), (5, a.val), (5, b.val), (3, g.pred.val), (1, b2n g.neg)] [(2, 0)] [] hall hN rfl rfl rfl
  have e3 : guardAt N 3 2 = g := guardAt_eq (seg [(4, 0), (6, 7), (5, d.val), (5, a.val), (5, b.val)] [(3, g.pred.val)] [(1, b2n g.neg), (2, 0)] hall hN (hz_one _ _)) (seg [(4, 0), (6, 7), (5, d.val), (5, a.val), (5, b.val), (3, g.pred.val)] [(1, b2n g.neg)] [(2, 0)] hall hN (hz_one _ _))
  have e4 : xreg N 16 = d := xreg_eq (seg [(4, 0), (6, 7)] [(5, d.val)] [(5, a.val), (5, b.val), (3, g.pred.val), (1, b2n g.neg), (2, 0)] hall hN (hz_one _ _))
  have e5 : xreg N 11 = a := xreg_eq (seg [(4, 0), (6, 7), (5, d.val)] [(5, a.val)] [(5, b.val), (3, g.pred.val), (1, b2n g.neg), (2, 0)] hall hN (hz_one _ _))
  have e6 : xreg N 6 = b := xreg_eq (seg [(4, 0), (6, 7), (5, d.val), (5, a.val)] [(5, b.val)] [(3, g.pred.val), (1, b2n g.neg), (2, 0)] hall hN (hz_one _ _))
  rw [decodeFields, e0]; show decodeSA N = _; rw [decodeSA, e1]; show (if bits N 1 0 == 0 then some (Instr.sll (guardAt N 3 2) (xreg N 16) (xreg N 11) (xreg N 6)) else none) = _
  simp only [e2, e3, e4, e5, e6, beq_self_eq_true, ↓reduceIte]

theorem srl (g : Guard) (d : XReg) (a : XReg) (b : XReg) : Statement (.srl g d a b) := by
  have hall : Fits [(4, 0), (6, 8), (5, d.val), (5, a.val), (5, b.val), (3, g.pred.val), (1, b2n g.neg), (2, 0)] := all_cons (by decide) (all_cons (by decide) (all_cons (d.isLt) (all_cons (a.isLt) (all_cons (b.isLt) (all_cons (g.pred.isLt) (all_cons (b2n_lt g.neg) (all_cons (by decide) (all_nil))))))))
  refine of_segs rfl [(4, 0), (6, 8), (5, d.val), (5, a.val), (5, b.val), (3, g.pred.val), (1, b2n g.neg), (2, 0)] rfl trivial hall (by simp only [pack, hz, List.foldl]; omega) (fun N Q hN => ?_)
  have e0 : bits N 30 27 = 0 := bits_seg [] [(4, 0)] [(6, 8), (5, d.val), (5, a.val), (5, b.val), (3, g.pred.val), (1, b2n g.neg), (2, 0)] hall hN rfl rfl rfl
  have e1 : bits N 26 21 = 8 := bits_seg [(4, 0)] [(6, 8)] [(5, d.val), (5, a.val), (5, b.val), (3, g.pred.val), (1, b2n g.neg), (2, 0)] hall hN rfl rfl rfl
  have e2 : bits N 1 0 = 0 := bits_seg [(4, 0), (6, 8), (5, d.val), (5, a.val), (5, b.val), (3, g.pred.val), (1, b2n g.neg)] [(2, 0)] [] hall hN rfl rfl rfl
  have e3 : guardAt N 3 2 = g := guardAt_eq (seg [(4, 0), (6, 8), (5, d.val), (5, a.val), (5, b.val)] [(3, g.pred.val)] [(1, b2n g.neg), (2, 0)] hall hN (hz_one _ _)) (seg [(4, 0), (6, 8), (5, d.val), (5, a.val), (5, b.val), (3, g.pred.val)] [(1, b2n g.neg)] [(2, 0)] hall hN (hz_one _ _))
  have e4 : xreg N 16 = d := xreg_eq (seg [(4, 0), (6, 8)] [(5, d.val)] [(5, a.val), (5, b.val), (3, g.pred.val), (1, b2n g.neg), (2, 0)] hall hN (hz_one _ _))
  have e5 : xreg N 11 = a := xreg_eq (seg [(4, 0), (6, 8), (5, d.val)] [(5, a.val)] [(5, b.val), (3, g.pred.val), (1, b2n g.neg), (2, 0)] hall hN (hz_one _ _))
  have e6 : xreg N 6 = b := xreg_eq (seg [(4, 0), (6, 8), (5, d.val), (5, a.val)] [(5, b.val)] [(3, g.pred.val), (1, b2n g.neg), (2, 0)] hall hN (hz_one _ _))
  rw [decodeFields, e0]; show decodeSA N = _; rw [decodeSA, e1]; show (if bits N 1 0 == 0 then some (Instr.srl (guardAt N 3 2) (xreg N 16) (xreg N 11) (xreg N 6)) else none) = _
  simp only [e2, e3, e4, e5, e6, beq_self_eq_true, ↓reduceIte]

theorem sra (g : Guard) (d : XReg) (a : XReg) (b : XReg) : Statement (.sra g d a b) := by
  have hall : Fits [(4, 0), (6, 9), (5, d.val), (5, a.val), (5, b.val), (3, g.pred.val), (1, b2n g.neg), (2, 0)] := all_cons (by decide) (all_cons (by decide) (all_cons (d.isLt) (all_cons (a.isLt) (all_cons (b.isLt) (all_cons (g.pred.isLt) (all_cons (b2n_lt g.neg) (all_cons (by decide) (all_nil))))))))
  refine of_segs rfl [(4, 0), (6, 9), (5, d.val), (5, a.val), (5, b.val), (3, g.pred.val), (1, b2n g.neg), (2, 0)] rfl trivial hall (by simp only [pack, hz, List.foldl]; omega) (fun N Q hN => ?_)
  have e0 : bits N 30 27 = 0 := bits_seg [] [(4, 0)] [(6, 9), (5, d.val), (5, a.val), (5, b.val), (3, g.pred.val), (1, b2n g.neg), (2, 0)] hall hN rfl rfl rfl
  have e1 : bits N 26 21 = 9 := bits_seg [(4, 0)] [(6, 9)] [(5, d.val), (5, a.val), (5, b.val), (3, g.pred.val), (1, b2n g.neg), (2, 0)] hall hN rfl rfl rfl
  have e2 : bits N 1 0 = 0 := bits_seg [(4, 0), (6, 9), (5, d.val), (5, a.val), (5, b.val), (3, g.pred.val), (1, b2n g.neg)] [(2, 0)] [] hall hN rfl rfl rfl
  have e3 : guardAt N 3 2 = g := guardAt_eq (seg [(4, 0), (6, 9), (5, d.val), (5, a.val), (5, b.val)] [(3, g.pred.val)] [(1, b2n g.neg), (2, 0)] hall hN (hz_one _ _)) (seg [(4, 0), (6, 9), (5, d.val), (5, a.val), (5, b.val), (3, g.pred.val)] [(1, b2n g.neg)] [(2, 0)] hall hN (hz_one _ _))
  have e4 : xreg N 16 = d := xreg_eq (seg [(4, 0), (6, 9)] [(5, d.val)] [(5, a.val), (5, b.val), (3, g.pred.val), (1, b2n g.neg), (2, 0)] hall hN (hz_one _ _))
  have e5 : xreg N 11 = a := xreg_eq (seg [(4, 0), (6, 9), (5, d.val)] [(5, a.val)] [(5, b.val), (3, g.pred.val), (1, b2n g.neg), (2, 0)] hall hN (hz_one _ _))
  have e6 : xreg N 6 = b := xreg_eq (seg [(4, 0), (6, 9), (5, d.val), (5, a.val)] [(5, b.val)] [(3, g.pred.val), (1, b2n g.neg), (2, 0)] hall hN (hz_one _ _))
  rw [decodeFields, e0]; show decodeSA N = _; rw [decodeSA, e1]; show (if bits N 1 0 == 0 then some (Instr.sra (guardAt N 3 2) (xreg N 16) (xreg N 11) (xreg N 6)) else none) = _
  simp only [e2, e3, e4, e5, e6, beq_self_eq_true, ↓reduceIte]

theorem rol (g : Guard) (d : XReg) (a : XReg) (b : XReg) : Statement (.rol g d a b) := by
  have hall : Fits [(4, 0), (6, 10), (5, d.val), (5, a.val), (5, b.val), (3, g.pred.val), (1, b2n g.neg), (2, 0)] := all_cons (by decide) (all_cons (by decide) (all_cons (d.isLt) (all_cons (a.isLt) (all_cons (b.isLt) (all_cons (g.pred.isLt) (all_cons (b2n_lt g.neg) (all_cons (by decide) (all_nil))))))))
  refine of_segs rfl [(4, 0), (6, 10), (5, d.val), (5, a.val), (5, b.val), (3, g.pred.val), (1, b2n g.neg), (2, 0)] rfl trivial hall (by simp only [pack, hz, List.foldl]; omega) (fun N Q hN => ?_)
  have e0 : bits N 30 27 = 0 := bits_seg [] [(4, 0)] [(6, 10), (5, d.val), (5, a.val), (5, b.val), (3, g.pred.val), (1, b2n g.neg), (2, 0)] hall hN rfl rfl rfl
  have e1 : bits N 26 21 = 10 := bits_seg [(4, 0)] [(6, 10)] [(5, d.val), (5, a.val), (5, b.val), (3, g.pred.val), (1, b2n g.neg), (2, 0)] hall hN rfl rfl rfl
  have e2 : bits N 1 0 = 0 := bits_seg [(4, 0), (6, 10), (5, d.val), (5, a.val), (5, b.val), (3, g.pred.val), (1, b2n g.neg)] [(2, 0)] [] hall hN rfl rfl rfl
  have e3 : guardAt N 3 2 = g := guardAt_eq (seg [(4, 0), (6, 10), (5, d.val), (5, a.val), (5, b.val)] [(3, g.pred.val)] [(1, b2n g.neg), (2, 0)] hall hN (hz_one _ _)) (seg [(4, 0), (6, 10), (5, d.val), (5, a.val), (5, b.val), (3, g.pred.val)] [(1, b2n g.neg)] [(2, 0)] hall hN (hz_one _ _))
  have e4 : xreg N 16 = d := xreg_eq (seg [(4, 0), (6, 10)] [(5, d.val)] [(5, a.val), (5, b.val), (3, g.pred.val), (1, b2n g.neg), (2, 0)] hall hN (hz_one _ _))
  have e5 : xreg N 11 = a := xreg_eq (seg [(4, 0), (6, 10), (5, d.val)] [(5, a.val)] [(5, b.val), (3, g.pred.val), (1, b2n g.neg), (2, 0)] hall hN (hz_one _ _))
  have e6 : xreg N 6 = b := xreg_eq (seg [(4, 0), (6, 10), (5, d.val), (5, a.val)] [(5, b.val)] [(3, g.pred.val), (1, b2n g.neg), (2, 0)] hall hN (hz_one _ _))
  rw [decodeFields, e0]; show decodeSA N = _; rw [decodeSA, e1]; show (if bits N 1 0 == 0 then some (Instr.rol (guardAt N 3 2) (xreg N 16) (xreg N 11) (xreg N 6)) else none) = _
  simp only [e2, e3, e4, e5, e6, beq_self_eq_true, ↓reduceIte]

theorem mul (g : Guard) (d : XReg) (a : XReg) (b : XReg) : Statement (.mul g d a b) := by
  have hall : Fits [(4, 0), (6, 11), (5, d.val), (5, a.val), (5, b.val), (3, g.pred.val), (1, b2n g.neg), (2, 0)] := all_cons (by decide) (all_cons (by decide) (all_cons (d.isLt) (all_cons (a.isLt) (all_cons (b.isLt) (all_cons (g.pred.isLt) (all_cons (b2n_lt g.neg) (all_cons (by decide) (all_nil))))))))
  refine of_segs rfl [(4, 0), (6, 11), (5, d.val), (5, a.val), (5, b.val), (3, g.pred.val), (1, b2n g.neg), (2, 0)] rfl trivial hall (by simp only [pack, hz, List.foldl]; omega) (fun N Q hN => ?_)
  have e0 : bits N 30 27 = 0 := bits_seg [] [(4, 0)] [(6, 11), (5, d.val), (5, a.val), (5, b.val), (3, g.pred.val), (1, b2n g.neg), (2, 0)] hall hN rfl rfl rfl
  have e1 : bits N 26 21 = 11 := bits_seg [(4, 0)] [(6, 11)] [(5, d.val), (5, a.val), (5, b.val), (3, g.pred.val), (1, b2n g.neg), (2, 0)] hall hN rfl rfl rfl
  have e2 : bits N 1 0 = 0 := bits_seg [(4, 0), (6, 11), (5, d.val), (5, a.val), (5, b.val), (3, g.pred.val), (1, b2n g.neg)] [(2, 0)] [] hall hN rfl rfl rfl
  have e3 : guardAt N 3 2 = g := guardAt_eq (seg [(4, 0), (6, 11), (5, d.val), (5, a.val), (5, b.val)] [(3, g.pred.val)] [(1, b2n g.neg), (2, 0)] hall hN (hz_one _ _)) (seg [(4, 0), (6, 11), (5, d.val), (5, a.val), (5, b.val), (3, g.pred.val)] [(1, b2n g.neg)] [(2, 0)] hall hN (hz_one _ _))
  have e4 : xreg N 16 = d := xreg_eq (seg [(4, 0), (6, 11)] [(5, d.val)] [(5, a.val), (5, b.val), (3, g.pred.val), (1, b2n g.neg), (2, 0)] hall hN (hz_one _ _))
  have e5 : xreg N 11 = a := xreg_eq (seg [(4, 0), (6, 11), (5, d.val)] [(5, a.val)] [(5, b.val), (3, g.pred.val), (1, b2n g.neg), (2, 0)] hall hN (hz_one _ _))
  have e6 : xreg N 6 = b := xreg_eq (seg [(4, 0), (6, 11), (5, d.val), (5, a.val)] [(5, b.val)] [(3, g.pred.val), (1, b2n g.neg), (2, 0)] hall hN (hz_one _ _))
  rw [decodeFields, e0]; show decodeSA N = _; rw [decodeSA, e1]; show (if bits N 1 0 == 0 then some (Instr.mul (guardAt N 3 2) (xreg N 16) (xreg N 11) (xreg N 6)) else none) = _
  simp only [e2, e3, e4, e5, e6, beq_self_eq_true, ↓reduceIte]

theorem mulh (g : Guard) (d : XReg) (a : XReg) (b : XReg) : Statement (.mulh g d a b) := by
  have hall : Fits [(4, 0), (6, 12), (5, d.val), (5, a.val), (5, b.val), (3, g.pred.val), (1, b2n g.neg), (2, 0)] := all_cons (by decide) (all_cons (by decide) (all_cons (d.isLt) (all_cons (a.isLt) (all_cons (b.isLt) (all_cons (g.pred.isLt) (all_cons (b2n_lt g.neg) (all_cons (by decide) (all_nil))))))))
  refine of_segs rfl [(4, 0), (6, 12), (5, d.val), (5, a.val), (5, b.val), (3, g.pred.val), (1, b2n g.neg), (2, 0)] rfl trivial hall (by simp only [pack, hz, List.foldl]; omega) (fun N Q hN => ?_)
  have e0 : bits N 30 27 = 0 := bits_seg [] [(4, 0)] [(6, 12), (5, d.val), (5, a.val), (5, b.val), (3, g.pred.val), (1, b2n g.neg), (2, 0)] hall hN rfl rfl rfl
  have e1 : bits N 26 21 = 12 := bits_seg [(4, 0)] [(6, 12)] [(5, d.val), (5, a.val), (5, b.val), (3, g.pred.val), (1, b2n g.neg), (2, 0)] hall hN rfl rfl rfl
  have e2 : bits N 1 0 = 0 := bits_seg [(4, 0), (6, 12), (5, d.val), (5, a.val), (5, b.val), (3, g.pred.val), (1, b2n g.neg)] [(2, 0)] [] hall hN rfl rfl rfl
  have e3 : guardAt N 3 2 = g := guardAt_eq (seg [(4, 0), (6, 12), (5, d.val), (5, a.val), (5, b.val)] [(3, g.pred.val)] [(1, b2n g.neg), (2, 0)] hall hN (hz_one _ _)) (seg [(4, 0), (6, 12), (5, d.val), (5, a.val), (5, b.val), (3, g.pred.val)] [(1, b2n g.neg)] [(2, 0)] hall hN (hz_one _ _))
  have e4 : xreg N 16 = d := xreg_eq (seg [(4, 0), (6, 12)] [(5, d.val)] [(5, a.val), (5, b.val), (3, g.pred.val), (1, b2n g.neg), (2, 0)] hall hN (hz_one _ _))
  have e5 : xreg N 11 = a := xreg_eq (seg [(4, 0), (6, 12), (5, d.val)] [(5, a.val)] [(5, b.val), (3, g.pred.val), (1, b2n g.neg), (2, 0)] hall hN (hz_one _ _))
  have e6 : xreg N 6 = b := xreg_eq (seg [(4, 0), (6, 12), (5, d.val), (5, a.val)] [(5, b.val)] [(3, g.pred.val), (1, b2n g.neg), (2, 0)] hall hN (hz_one _ _))
  rw [decodeFields, e0]; show decodeSA N = _; rw [decodeSA, e1]; show (if bits N 1 0 == 0 then some (Instr.mulh (guardAt N 3 2) (xreg N 16) (xreg N 11) (xreg N 6)) else none) = _
  simp only [e2, e3, e4, e5, e6, beq_self_eq_true, ↓reduceIte]

theorem mulhw (g : Guard) (d : XReg) (a : XReg) (b : XReg) : Statement (.mulhw g d a b) := by
  have hall : Fits [(4, 0), (6, 13), (5, d.val), (5, a.val), (5, b.val), (3, g.pred.val), (1, b2n g.neg), (2, 0)] := all_cons (by decide) (all_cons (by decide) (all_cons (d.isLt) (all_cons (a.isLt) (all_cons (b.isLt) (all_cons (g.pred.isLt) (all_cons (b2n_lt g.neg) (all_cons (by decide) (all_nil))))))))
  refine of_segs rfl [(4, 0), (6, 13), (5, d.val), (5, a.val), (5, b.val), (3, g.pred.val), (1, b2n g.neg), (2, 0)] rfl trivial hall (by simp only [pack, hz, List.foldl]; omega) (fun N Q hN => ?_)
  have e0 : bits N 30 27 = 0 := bits_seg [] [(4, 0)] [(6, 13), (5, d.val), (5, a.val), (5, b.val), (3, g.pred.val), (1, b2n g.neg), (2, 0)] hall hN rfl rfl rfl
  have e1 : bits N 26 21 = 13 := bits_seg [(4, 0)] [(6, 13)] [(5, d.val), (5, a.val), (5, b.val), (3, g.pred.val), (1, b2n g.neg), (2, 0)] hall hN rfl rfl rfl
  have e2 : bits N 1 0 = 0 := bits_seg [(4, 0), (6, 13), (5, d.val), (5, a.val), (5, b.val), (3, g.pred.val), (1, b2n g.neg)] [(2, 0)] [] hall hN rfl rfl rfl
  have e3 : guardAt N 3 2 = g := guardAt_eq (seg [(4, 0), (6, 13), (5, d.val), (5, a.val), (5, b.val)] [(3, g.pred.val)] [(1, b2n g.neg), (2, 0)] hall hN (hz_one _ _)) (seg [(4, 0), (6, 13), (5, d.val), (5, a.val), (5, b.val), (3, g.pred.val)] [(1, b2n g.neg)] [(2, 0)] hall hN (hz_one _ _))
  have e4 : xreg N 16 = d := xreg_eq (seg [(4, 0), (6, 13)] [(5, d.val)] [(5, a.val), (5, b.val), (3, g.pred.val), (1, b2n g.neg), (2, 0)] hall hN (hz_one _ _))
  have e5 : xreg N 11 = a := xreg_eq (seg [(4, 0), (6, 13), (5, d.val)] [(5, a.val)] [(5, b.val), (3, g.pred.val), (1, b2n g.neg), (2, 0)] hall hN (hz_one _ _))
  have e6 : xreg N 6 = b := xreg_eq (seg [(4, 0), (6, 13), (5, d.val), (5, a.val)] [(5, b.val)] [(3, g.pred.val), (1, b2n g.neg), (2, 0)] hall hN (hz_one _ _))
  rw [decodeFields, e0]; show decodeSA N = _; rw [decodeSA, e1]; show (if bits N 1 0 == 0 then some (Instr.mulhw (guardAt N 3 2) (xreg N 16) (xreg N 11) (xreg N 6)) else none) = _
  simp only [e2, e3, e4, e5, e6, beq_self_eq_true, ↓reduceIte]

theorem div (g : Guard) (d : XReg) (a : XReg) (b : XReg) : Statement (.div g d a b) := by
  have hall : Fits [(4, 0), (6, 14), (5, d.val), (5, a.val), (5, b.val), (3, g.pred.val), (1, b2n g.neg), (2, 0)] := all_cons (by decide) (all_cons (by decide) (all_cons (d.isLt) (all_cons (a.isLt) (all_cons (b.isLt) (all_cons (g.pred.isLt) (all_cons (b2n_lt g.neg) (all_cons (by decide) (all_nil))))))))
  refine of_segs rfl [(4, 0), (6, 14), (5, d.val), (5, a.val), (5, b.val), (3, g.pred.val), (1, b2n g.neg), (2, 0)] rfl trivial hall (by simp only [pack, hz, List.foldl]; omega) (fun N Q hN => ?_)
  have e0 : bits N 30 27 = 0 := bits_seg [] [(4, 0)] [(6, 14), (5, d.val), (5, a.val), (5, b.val), (3, g.pred.val), (1, b2n g.neg), (2, 0)] hall hN rfl rfl rfl
  have e1 : bits N 26 21 = 14 := bits_seg [(4, 0)] [(6, 14)] [(5, d.val), (5, a.val), (5, b.val), (3, g.pred.val), (1, b2n g.neg), (2, 0)] hall hN rfl rfl rfl
  have e2 : bits N 1 0 = 0 := bits_seg [(4, 0), (6, 14), (5, d.val), (5, a.val), (5, b.val), (3, g.pred.val), (1, b2n g.neg)] [(2, 0)] [] hall hN rfl rfl rfl
  have e3 : guardAt N 3 2 = g := guardAt_eq (seg [(4, 0), (6, 14), (5, d.val), (5, a.val), (5, b.val)] [(3, g.pred.val)] [(1, b2n g.neg), (2, 0)] hall hN (hz_one _ _)) (seg [(4, 0), (6, 14), (5, d.val), (5, a.val), (5, b.val), (3, g.pred.val)] [(1, b2n g.neg)] [(2, 0)] hall hN (hz_one _ _))
  have e4 : xreg N 16 = d := xreg_eq (seg [(4, 0), (6, 14)] [(5, d.val)] [(5, a.val), (5, b.val), (3, g.pred.val), (1, b2n g.neg), (2, 0)] hall hN (hz_one _ _))
  have e5 : xreg N 11 = a := xreg_eq (seg [(4, 0), (6, 14), (5, d.val)] [(5, a.val)] [(5, b.val), (3, g.pred.val), (1, b2n g.neg), (2, 0)] hall hN (hz_one _ _))
  have e6 : xreg N 6 = b := xreg_eq (seg [(4, 0), (6, 14), (5, d.val), (5, a.val)] [(5, b.val)] [(3, g.pred.val), (1, b2n g.neg), (2, 0)] hall hN (hz_one _ _))
  rw [decodeFields, e0]; show decodeSA N = _; rw [decodeSA, e1]; show (if bits N 1 0 == 0 then some (Instr.div (guardAt N 3 2) (xreg N 16) (xreg N 11) (xreg N 6)) else none) = _
  simp only [e2, e3, e4, e5, e6, beq_self_eq_true, ↓reduceIte]

theorem divw (g : Guard) (d : XReg) (a : XReg) (b : XReg) : Statement (.divw g d a b) := by
  have hall : Fits [(4, 0), (6, 15), (5, d.val), (5, a.val), (5, b.val), (3, g.pred.val), (1, b2n g.neg), (2, 0)] := all_cons (by decide) (all_cons (by decide) (all_cons (d.isLt) (all_cons (a.isLt) (all_cons (b.isLt) (all_cons (g.pred.isLt) (all_cons (b2n_lt g.neg) (all_cons (by decide) (all_nil))))))))
  refine of_segs rfl [(4, 0), (6, 15), (5, d.val), (5, a.val), (5, b.val), (3, g.pred.val), (1, b2n g.neg), (2, 0)] rfl trivial hall (by simp only [pack, hz, List.foldl]; omega) (fun N Q hN => ?_)
  have e0 : bits N 30 27 = 0 := bits_seg [] [(4, 0)] [(6, 15), (5, d.val), (5, a.val), (5, b.val), (3, g.pred.val), (1, b2n g.neg), (2, 0)] hall hN rfl rfl rfl
  have e1 : bits N 26 21 = 15 := bits_seg [(4, 0)] [(6, 15)] [(5, d.val), (5, a.val), (5, b.val), (3, g.pred.val), (1, b2n g.neg), (2, 0)] hall hN rfl rfl rfl
  have e2 : bits N 1 0 = 0 := bits_seg [(4, 0), (6, 15), (5, d.val), (5, a.val), (5, b.val), (3, g.pred.val), (1, b2n g.neg)] [(2, 0)] [] hall hN rfl rfl rfl
  have e3 : guardAt N 3 2 = g := guardAt_eq (seg [(4, 0), (6, 15), (5, d.val), (5, a.val), (5, b.val)] [(3, g.pred.val)] [(1, b2n g.neg), (2, 0)] hall hN (hz_one _ _)) (seg [(4, 0), (6, 15), (5, d.val), (5, a.val), (5, b.val), (3, g.pred.val)] [(1, b2n g.neg)] [(2, 0)] hall hN (hz_one _ _))
  have e4 : xreg N 16 = d := xreg_eq (seg [(4, 0), (6, 15)] [(5, d.val)] [(5, a.val), (5, b.val), (3, g.pred.val), (1, b2n g.neg), (2, 0)] hall hN (hz_one _ _))
  have e5 : xreg N 11 = a := xreg_eq (seg [(4, 0), (6, 15), (5, d.val)] [(5, a.val)] [(5, b.val), (3, g.pred.val), (1, b2n g.neg), (2, 0)] hall hN (hz_one _ _))
  have e6 : xreg N 6 = b := xreg_eq (seg [(4, 0), (6, 15), (5, d.val), (5, a.val)] [(5, b.val)] [(3, g.pred.val), (1, b2n g.neg), (2, 0)] hall hN (hz_one _ _))
  rw [decodeFields, e0]; show decodeSA N = _; rw [decodeSA, e1]; show (if bits N 1 0 == 0 then some (Instr.divw (guardAt N 3 2) (xreg N 16) (xreg N 11) (xreg N 6)) else none) = _
  simp only [e2, e3, e4, e5, e6, beq_self_eq_true, ↓reduceIte]

theorem rem (g : Guard) (d : XReg) (a : XReg) (b : XReg) : Statement (.rem g d a b) := by
  have hall : Fits [(4, 0), (6, 16), (5, d.val), (5, a.val), (5, b.val), (3, g.pred.val), (1, b2n g.neg), (2, 0)] := all_cons (by decide) (all_cons (by decide) (all_cons (d.isLt) (all_cons (a.isLt) (all_cons (b.isLt) (all_cons (g.pred.isLt) (all_cons (b2n_lt g.neg) (all_cons (by decide) (all_nil))))))))
  refine of_segs rfl [(4, 0), (6, 16), (5, d.val), (5, a.val), (5, b.val), (3, g.pred.val), (1, b2n g.neg), (2, 0)] rfl trivial hall (by simp only [pack, hz, List.foldl]; omega) (fun N Q hN => ?_)
  have e0 : bits N 30 27 = 0 := bits_seg [] [(4, 0)] [(6, 16), (5, d.val), (5, a.val), (5, b.val), (3, g.pred.val), (1, b2n g.neg), (2, 0)] hall hN rfl rfl rfl
  have e1 : bits N 26 21 = 16 := bits_seg [(4, 0)] [(6, 16)] [(5, d.val), (5, a.val), (5, b.val), (3, g.pred.val), (1, b2n g.neg), (2, 0)] hall hN rfl rfl rfl
  have e2 : bits N 1 0 = 0 := bits_seg [(4, 0), (6, 16), (5, d.val), (5, a.val), (5, b.val), (3, g.pred.val), (1, b2n g.neg)] [(2, 0)] [] hall hN rfl rfl rfl
  have e3 : guardAt N 3 2 = g := guardAt_eq (seg [(4, 0), (6, 16), (5, d.val), (5, a.val), (5, b.val)] [(3, g.pred.val)] [(1, b2n g.neg), (2, 0)] hall hN (hz_one _ _)) (seg [(4, 0), (6, 16), (5, d.val), (5, a.val), (5, b.val), (3, g.pred.val)] [(1, b2n g.neg)] [(2, 0)] hall hN (hz_one _ _))
  have e4 : xreg N 16 = d := xreg_eq (seg [(4, 0), (6, 16)] [(5, d.val)] [(5, a.val), (5, b.val), (3, g.pred.val), (1, b2n g.neg), (2, 0)] hall hN (hz_one _ _))
  have e5 : xreg N 11 = a := xreg_eq (seg [(4, 0), (6, 16), (5, d.val)] [(5, a.val)] [(5, b.val), (3, g.pred.val), (1, b2n g.neg), (2, 0)] hall hN (hz_one _ _))
  have e6 : xreg N 6 = b := xreg_eq (seg [(4, 0), (6, 16), (5, d.val), (5, a.val)] [(5, b.val)] [(3, g.pred.val), (1, b2n g.neg), (2, 0)] hall hN (hz_one _ _))
  rw [decodeFields, e0]; show decodeSA N = _; rw [decodeSA, e1]; show (if bits N 1 0 == 0 then some (Instr.rem (guardAt N 3 2) (xreg N 16) (xreg N 11) (xreg N 6)) else none) = _
  simp only [e2, e3, e4, e5, e6, beq_self_eq_true, ↓reduceIte]

theorem remw (g : Guard) (d : XReg) (a : XReg) (b : XReg) : Statement (.remw g d a b) := by
  have hall : Fits [(4, 0), (6, 17), (5, d.val), (5, a.val), (5, b.val), (3, g.pred.val), (1, b2n g.neg), (2, 0)] := all_cons (by decide) (all_cons (by decide) (all_cons (d.isLt) (all_cons (a.isLt) (all_cons (b.isLt) (all_cons (g.pred.isLt) (all_cons (b2n_lt g.neg) (all_cons (by decide) (all_nil))))))))
  refine of_segs rfl [(4, 0), (6, 17), (5, d.val), (5, a.val), (5, b.val), (3, g.pred.val), (1, b2n g.neg), (2, 0)] rfl trivial hall (by simp only [pack, hz, List.foldl]; omega) (fun N Q hN => ?_)
  have e0 : bits N 30 27 = 0 := bits_seg [] [(4, 0)] [(6, 17), (5, d.val), (5, a.val), (5, b.val), (3, g.pred.val), (1, b2n g.neg), (2, 0)] hall hN rfl rfl rfl
  have e1 : bits N 26 21 = 17 := bits_seg [(4, 0)] [(6, 17)] [(5, d.val), (5, a.val), (5, b.val), (3, g.pred.val), (1, b2n g.neg), (2, 0)] hall hN rfl rfl rfl
  have e2 : bits N 1 0 = 0 := bits_seg [(4, 0), (6, 17), (5, d.val), (5, a.val), (5, b.val), (3, g.pred.val), (1, b2n g.neg)] [(2, 0)] [] hall hN rfl rfl rfl
  have e3 : guardAt N 3 2 = g := guardAt_eq (seg [(4, 0), (6, 17), (5, d.val), (5, a.val), (5, b.val)] [(3, g.pred.val)] [(1, b2n g.neg), (2, 0)] hall hN (hz_one _ _)) (seg [(4, 0), (6, 17), (5, d.val), (5, a.val), (5, b.val), (3, g.pred.val)] [(1, b2n g.neg)] [(2, 0)] hall hN (hz_one _ _))
  have e4 : xreg N 16 = d := xreg_eq (seg [(4, 0), (6, 17)] [(5, d.val)] [(5, a.val), (5, b.val), (3, g.pred.val), (1, b2n g.neg), (2, 0)] hall hN (hz_one _ _))
  have e5 : xreg N 11 = a := xreg_eq (seg [(4, 0), (6, 17), (5, d.val)] [(5, a.val)] [(5, b.val), (3, g.pred.val), (1, b2n g.neg), (2, 0)] hall hN (hz_one _ _))
  have e6 : xreg N 6 = b := xreg_eq (seg [(4, 0), (6, 17), (5, d.val), (5, a.val)] [(5, b.val)] [(3, g.pred.val), (1, b2n g.neg), (2, 0)] hall hN (hz_one _ _))
  rw [decodeFields, e0]; show decodeSA N = _; rw [decodeSA, e1]; show (if bits N 1 0 == 0 then some (Instr.remw (guardAt N 3 2) (xreg N 16) (xreg N 11) (xreg N 6)) else none) = _
  simp only [e2, e3, e4, e5, e6, beq_self_eq_true, ↓reduceIte]

theorem min (g : Guard) (d : XReg) (a : XReg) (b : XReg) : Statement (.min g d a b) := by
  have hall : Fits [(4, 0), (6, 18), (5, d.val), (5, a.val), (5, b.val), (3, g.pred.val), (1, b2n g.neg), (2, 0)] := all_cons (by decide) (all_cons (by decide) (all_cons (d.isLt) (all_cons (a.isLt) (all_cons (b.isLt) (all_cons (g.pred.isLt) (all_cons (b2n_lt g.neg) (all_cons (by decide) (all_nil))))))))
  refine of_segs rfl [(4, 0), (6, 18), (5, d.val), (5, a.val), (5, b.val), (3, g.pred.val), (1, b2n g.neg), (2, 0)] rfl trivial hall (by simp only [pack, hz, List.foldl]; omega) (fun N Q hN => ?_)
  have e0 : bits N 30 27 = 0 := bits_seg [] [(4, 0)] [(6, 18), (5, d.val), (5, a.val), (5, b.val), (3, g.pred.val), (1, b2n g.neg), (2, 0)] hall hN rfl rfl rfl
  have e1 : bits N 26 21 = 18 := bits_seg [(4, 0)] [(6, 18)] [(5, d.val), (5, a.val), (5, b.val), (3, g.pred.val), (1, b2n g.neg), (2, 0)] hall hN rfl rfl rfl
  have e2 : bits N 1 0 = 0 := bits_seg [(4, 0), (6, 18), (5, d.val), (5, a.val), (5, b.val), (3, g.pred.val), (1, b2n g.neg)] [(2, 0)] [] hall hN rfl rfl rfl
  have e3 : guardAt N 3 2 = g := guardAt_eq (seg [(4, 0), (6, 18), (5, d.val), (5, a.val), (5, b.val)] [(3, g.pred.val)] [(1, b2n g.neg), (2, 0)] hall hN (hz_one _ _)) (seg [(4, 0), (6, 18), (5, d.val), (5, a.val), (5, b.val), (3, g.pred.val)] [(1, b2n g.neg)] [(2, 0)] hall hN (hz_one _ _))
  have e4 : xreg N 16 = d := xreg_eq (seg [(4, 0), (6, 18)] [(5, d.val)] [(5, a.val), (5, b.val), (3, g.pred.val), (1, b2n g.neg), (2, 0)] hall hN (hz_one _ _))
  have e5 : xreg N 11 = a := xreg_eq (seg [(4, 0), (6, 18), (5, d.val)] [(5, a.val)] [(5, b.val), (3, g.pred.val), (1, b2n g.neg), (2, 0)] hall hN (hz_one _ _))
  have e6 : xreg N 6 = b := xreg_eq (seg [(4, 0), (6, 18), (5, d.val), (5, a.val)] [(5, b.val)] [(3, g.pred.val), (1, b2n g.neg), (2, 0)] hall hN (hz_one _ _))
  rw [decodeFields, e0]; show decodeSA N = _; rw [decodeSA, e1]; show (if bits N 1 0 == 0 then some (Instr.min (guardAt N 3 2) (xreg N 16) (xreg N 11) (xreg N 6)) else none) = _
  simp only [e2, e3, e4, e5, e6, beq_self_eq_true, ↓reduceIte]

theorem max (g : Guard) (d : XReg) (a : XReg) (b : XReg) : Statement (.max g d a b) := by
  have hall : Fits [(4, 0), (6, 19), (5, d.val), (5, a.val), (5, b.val), (3, g.pred.val), (1, b2n g.neg), (2, 0)] := all_cons (by decide) (all_cons (by decide) (all_cons (d.isLt) (all_cons (a.isLt) (all_cons (b.isLt) (all_cons (g.pred.isLt) (all_cons (b2n_lt g.neg) (all_cons (by decide) (all_nil))))))))
  refine of_segs rfl [(4, 0), (6, 19), (5, d.val), (5, a.val), (5, b.val), (3, g.pred.val), (1, b2n g.neg), (2, 0)] rfl trivial hall (by simp only [pack, hz, List.foldl]; omega) (fun N Q hN => ?_)
  have e0 : bits N 30 27 = 0 := bits_seg [] [(4, 0)] [(6, 19), (5, d.val), (5, a.val), (5, b.val), (3, g.pred.val), (1, b2n g.neg), (2, 0)] hall hN rfl rfl rfl
  have e1 : bits N 26 21 = 19 := bits_seg [(4, 0)] [(6, 19)] [(5, d.val), (5, a.val), (5, b.val), (3, g.pred.val), (1, b2n g.neg), (2, 0)] hall hN rfl rfl rfl
  have e2 : bits N 1 0 = 0 := bits_seg [(4, 0), (6, 19), (5, d.val), (5, a.val), (5, b.val), (3, g.pred.val), (1, b2n g.neg)] [(2, 0)] [] hall hN rfl rfl rfl
  have e3 : guardAt N 3 2 = g := guardAt_eq (seg [(4, 0), (6, 19), (5, d.val), (5, a.val), (5, b.val)] [(3, g.pred.val)] [(1, b2n g.neg), (2, 0)] hall hN (hz_one _ _)) (seg [(4, 0), (6, 19), (5, d.val), (5, a.val), (5, b.val), (3, g.pred.val)] [(1, b2n g.neg)] [(2, 0)] hall hN (hz_one _ _))
  have e4 : xreg N 16 = d := xreg_eq (seg [(4, 0), (6, 19)] [(5, d.val)] [(5, a.val), (5, b.val), (3, g.pred.val), (1, b2n g.neg), (2, 0)] hall hN (hz_one _ _))
  have e5 : xreg N 11 = a := xreg_eq (seg [(4, 0), (6, 19), (5, d.val)] [(5, a.val)] [(5, b.val), (3, g.pred.val), (1, b2n g.neg), (2, 0)] hall hN (hz_one _ _))
  have e6 : xreg N 6 = b := xreg_eq (seg [(4, 0), (6, 19), (5, d.val), (5, a.val)] [(5, b.val)] [(3, g.pred.val), (1, b2n g.neg), (2, 0)] hall hN (hz_one _ _))
  rw [decodeFields, e0]; show decodeSA N = _; rw [decodeSA, e1]; show (if bits N 1 0 == 0 then some (Instr.max (guardAt N 3 2) (xreg N 16) (xreg N 11) (xreg N 6)) else none) = _
  simp only [e2, e3, e4, e5, e6, beq_self_eq_true, ↓reduceIte]

theorem minw (g : Guard) (d : XReg) (a : XReg) (b : XReg) : Statement (.minw g d a b) := by
  have hall : Fits [(4, 0), (6, 20), (5, d.val), (5, a.val), (5, b.val), (3, g.pred.val), (1, b2n g.neg), (2, 0)] := all_cons (by decide) (all_cons (by decide) (all_cons (d.isLt) (all_cons (a.isLt) (all_cons (b.isLt) (all_cons (g.pred.isLt) (all_cons (b2n_lt g.neg) (all_cons (by decide) (all_nil))))))))
  refine of_segs rfl [(4, 0), (6, 20), (5, d.val), (5, a.val), (5, b.val), (3, g.pred.val), (1, b2n g.neg), (2, 0)] rfl trivial hall (by simp only [pack, hz, List.foldl]; omega) (fun N Q hN => ?_)
  have e0 : bits N 30 27 = 0 := bits_seg [] [(4, 0)] [(6, 20), (5, d.val), (5, a.val), (5, b.val), (3, g.pred.val), (1, b2n g.neg), (2, 0)] hall hN rfl rfl rfl
  have e1 : bits N 26 21 = 20 := bits_seg [(4, 0)] [(6, 20)] [(5, d.val), (5, a.val), (5, b.val), (3, g.pred.val), (1, b2n g.neg), (2, 0)] hall hN rfl rfl rfl
  have e2 : bits N 1 0 = 0 := bits_seg [(4, 0), (6, 20), (5, d.val), (5, a.val), (5, b.val), (3, g.pred.val), (1, b2n g.neg)] [(2, 0)] [] hall hN rfl rfl rfl
  have e3 : guardAt N 3 2 = g := guardAt_eq (seg [(4, 0), (6, 20), (5, d.val), (5, a.val), (5, b.val)] [(3, g.pred.val)] [(1, b2n g.neg), (2, 0)] hall hN (hz_one _ _)) (seg [(4, 0), (6, 20), (5, d.val), (5, a.val), (5, b.val), (3, g.pred.val)] [(1, b2n g.neg)] [(2, 0)] hall hN (hz_one _ _))
  have e4 : xreg N 16 = d := xreg_eq (seg [(4, 0), (6, 20)] [(5, d.val)] [(5, a.val), (5, b.val), (3, g.pred.val), (1, b2n g.neg), (2, 0)] hall hN (hz_one _ _))
  have e5 : xreg N 11 = a := xreg_eq (seg [(4, 0), (6, 20), (5, d.val)] [(5, a.val)] [(5, b.val), (3, g.pred.val), (1, b2n g.neg), (2, 0)] hall hN (hz_one _ _))
  have e6 : xreg N 6 = b := xreg_eq (seg [(4, 0), (6, 20), (5, d.val), (5, a.val)] [(5, b.val)] [(3, g.pred.val), (1, b2n g.neg), (2, 0)] hall hN (hz_one _ _))
  rw [decodeFields, e0]; show decodeSA N = _; rw [decodeSA, e1]; show (if bits N 1 0 == 0 then some (Instr.minw (guardAt N 3 2) (xreg N 16) (xreg N 11) (xreg N 6)) else none) = _
  simp only [e2, e3, e4, e5, e6, beq_self_eq_true, ↓reduceIte]

theorem maxw (g : Guard) (d : XReg) (a : XReg) (b : XReg) : Statement (.maxw g d a b) := by
  have hall : Fits [(4, 0), (6, 21), (5, d.val), (5, a.val), (5, b.val), (3, g.pred.val), (1, b2n g.neg), (2, 0)] := all_cons (by decide) (all_cons (by decide) (all_cons (d.isLt) (all_cons (a.isLt) (all_cons (b.isLt) (all_cons (g.pred.isLt) (all_cons (b2n_lt g.neg) (all_cons (by decide) (all_nil))))))))
  refine of_segs rfl [(4, 0), (6, 21), (5, d.val), (5, a.val), (5, b.val), (3, g.pred.val), (1, b2n g.neg), (2, 0)] rfl trivial hall (by simp only [pack, hz, List.foldl]; omega) (fun N Q hN => ?_)
  have e0 : bits N 30 27 = 0 := bits_seg [] [(4, 0)] [(6, 21), (5, d.val), (5, a.val), (5, b.val), (3, g.pred.val), (1, b2n g.neg), (2, 0)] hall hN rfl rfl rfl
  have e1 : bits N 26 21 = 21 := bits_seg [(4, 0)] [(6, 21)] [(5, d.val), (5, a.val), (5, b.val), (3, g.pred.val), (1, b2n g.neg), (2, 0)] hall hN rfl rfl rfl
  have e2 : bits N 1 0 = 0 := bits_seg [(4, 0), (6, 21), (5, d.val), (5, a.val), (5, b.val), (3, g.pred.val), (1, b2n g.neg)] [(2, 0)] [] hall hN rfl rfl rfl
  have e3 : guardAt N 3 2 = g := guardAt_eq (seg [(4, 0), (6, 21), (5, d.val), (5, a.val), (5, b.val)] [(3, g.pred.val)] [(1, b2n g.neg), (2, 0)] hall hN (hz_one _ _)) (seg [(4, 0), (6, 21), (5, d.val), (5, a.val), (5, b.val), (3, g.pred.val)] [(1, b2n g.neg)] [(2, 0)] hall hN (hz_one _ _))
  have e4 : xreg N 16 = d := xreg_eq (seg [(4, 0), (6, 21)] [(5, d.val)] [(5, a.val), (5, b.val), (3, g.pred.val), (1, b2n g.neg), (2, 0)] hall hN (hz_one _ _))
  have e5 : xreg N 11 = a := xreg_eq (seg [(4, 0), (6, 21), (5, d.val)] [(5, a.val)] [(5, b.val), (3, g.pred.val), (1, b2n g.neg), (2, 0)] hall hN (hz_one _ _))
  have e6 : xreg N 6 = b := xreg_eq (seg [(4, 0), (6, 21), (5, d.val), (5, a.val)] [(5, b.val)] [(3, g.pred.val), (1, b2n g.neg), (2, 0)] hall hN (hz_one _ _))
  rw [decodeFields, e0]; show decodeSA N = _; rw [decodeSA, e1]; show (if bits N 1 0 == 0 then some (Instr.maxw (guardAt N 3 2) (xreg N 16) (xreg N 11) (xreg N 6)) else none) = _
  simp only [e2, e3, e4, e5, e6, beq_self_eq_true, ↓reduceIte]

theorem clz (g : Guard) (d : XReg) (a : XReg) : Statement (.clz g d a) := by
  have hall : Fits [(4, 0), (6, 22), (5, d.val), (5, a.val), (5, 0), (3, g.pred.val), (1, b2n g.neg), (2, 0)] := all_cons (by decide) (all_cons (by decide) (all_cons (d.isLt) (all_cons (a.isLt) (all_cons (by decide) (all_cons (g.pred.isLt) (all_cons (b2n_lt g.neg) (all_cons (by decide) (all_nil))))))))
  refine of_segs rfl [(4, 0), (6, 22), (5, d.val), (5, a.val), (5, 0), (3, g.pred.val), (1, b2n g.neg), (2, 0)] rfl trivial hall (by simp only [pack, hz, List.foldl]; omega) (fun N Q hN => ?_)
  have e0 : bits N 30 27 = 0 := bits_seg [] [(4, 0)] [(6, 22), (5, d.val), (5, a.val), (5, 0), (3, g.pred.val), (1, b2n g.neg), (2, 0)] hall hN rfl rfl rfl
  have e1 : bits N 26 21 = 22 := bits_seg [(4, 0)] [(6, 22)] [(5, d.val), (5, a.val), (5, 0), (3, g.pred.val), (1, b2n g.neg), (2, 0)] hall hN rfl rfl rfl
  have e2 : bits N 1 0 = 0 := bits_seg [(4, 0), (6, 22), (5, d.val), (5, a.val), (5, 0), (3, g.pred.val), (1, b2n g.neg)] [(2, 0)] [] hall hN rfl rfl rfl
  have e3 : bits N 10 6 = 0 := bits_seg [(4, 0), (6, 22), (5, d.val), (5, a.val)] [(5, 0)] [(3, g.pred.val), (1, b2n g.neg), (2, 0)] hall hN rfl rfl rfl
  have e4 : guardAt N 3 2 = g := guardAt_eq (seg [(4, 0), (6, 22), (5, d.val), (5, a.val), (5, 0)] [(3, g.pred.val)] [(1, b2n g.neg), (2, 0)] hall hN (hz_one _ _)) (seg [(4, 0), (6, 22), (5, d.val), (5, a.val), (5, 0), (3, g.pred.val)] [(1, b2n g.neg)] [(2, 0)] hall hN (hz_one _ _))
  have e5 : xreg N 16 = d := xreg_eq (seg [(4, 0), (6, 22)] [(5, d.val)] [(5, a.val), (5, 0), (3, g.pred.val), (1, b2n g.neg), (2, 0)] hall hN (hz_one _ _))
  have e6 : xreg N 11 = a := xreg_eq (seg [(4, 0), (6, 22), (5, d.val)] [(5, a.val)] [(5, 0), (3, g.pred.val), (1, b2n g.neg), (2, 0)] hall hN (hz_one _ _))
  rw [decodeFields, e0]; show decodeSA N = _; rw [decodeSA, e1]; show (if bits N 1 0 == 0 && bits N 10 6 == 0 then some (Instr.clz (guardAt N 3 2) (xreg N 16) (xreg N 11)) else none) = _
  simp only [e2, e3, e4, e5, e6, beq_self_eq_true, ↓reduceIte, Bool.and_self]

theorem ctz (g : Guard) (d : XReg) (a : XReg) : Statement (.ctz g d a) := by
  have hall : Fits [(4, 0), (6, 23), (5, d.val), (5, a.val), (5, 0), (3, g.pred.val), (1, b2n g.neg), (2, 0)] := all_cons (by decide) (all_cons (by decide) (all_cons (d.isLt) (all_cons (a.isLt) (all_cons (by decide) (all_cons (g.pred.isLt) (all_cons (b2n_lt g.neg) (all_cons (by decide) (all_nil))))))))
  refine of_segs rfl [(4, 0), (6, 23), (5, d.val), (5, a.val), (5, 0), (3, g.pred.val), (1, b2n g.neg), (2, 0)] rfl trivial hall (by simp only [pack, hz, List.foldl]; omega) (fun N Q hN => ?_)
  have e0 : bits N 30 27 = 0 := bits_seg [] [(4, 0)] [(6, 23), (5, d.val), (5, a.val), (5, 0), (3, g.pred.val), (1, b2n g.neg), (2, 0)] hall hN rfl rfl rfl
  have e1 : bits N 26 21 = 23 := bits_seg [(4, 0)] [(6, 23)] [(5, d.val), (5, a.val), (5, 0), (3, g.pred.val), (1, b2n g.neg), (2, 0)] hall hN rfl rfl rfl
  have e2 : bits N 1 0 = 0 := bits_seg [(4, 0), (6, 23), (5, d.val), (5, a.val), (5, 0), (3, g.pred.val), (1, b2n g.neg)] [(2, 0)] [] hall hN rfl rfl rfl
  have e3 : bits N 10 6 = 0 := bits_seg [(4, 0), (6, 23), (5, d.val), (5, a.val)] [(5, 0)] [(3, g.pred.val), (1, b2n g.neg), (2, 0)] hall hN rfl rfl rfl
  have e4 : guardAt N 3 2 = g := guardAt_eq (seg [(4, 0), (6, 23), (5, d.val), (5, a.val), (5, 0)] [(3, g.pred.val)] [(1, b2n g.neg), (2, 0)] hall hN (hz_one _ _)) (seg [(4, 0), (6, 23), (5, d.val), (5, a.val), (5, 0), (3, g.pred.val)] [(1, b2n g.neg)] [(2, 0)] hall hN (hz_one _ _))
  have e5 : xreg N 16 = d := xreg_eq (seg [(4, 0), (6, 23)] [(5, d.val)] [(5, a.val), (5, 0), (3, g.pred.val), (1, b2n g.neg), (2, 0)] hall hN (hz_one _ _))
  have e6 : xreg N 11 = a := xreg_eq (seg [(4, 0), (6, 23), (5, d.val)] [(5, a.val)] [(5, 0), (3, g.pred.val), (1, b2n g.neg), (2, 0)] hall hN (hz_one _ _))
  rw [decodeFields, e0]; show decodeSA N = _; rw [decodeSA, e1]; show (if bits N 1 0 == 0 && bits N 10 6 == 0 then some (Instr.ctz (guardAt N 3 2) (xreg N 16) (xreg N 11)) else none) = _
  simp only [e2, e3, e4, e5, e6, beq_self_eq_true, ↓reduceIte, Bool.and_self]

theorem popc (g : Guard) (d : XReg) (a : XReg) : Statement (.popc g d a) := by
  have hall : Fits [(4, 0), (6, 24), (5, d.val), (5, a.val), (5, 0), (3, g.pred.val), (1, b2n g.neg), (2, 0)] := all_cons (by decide) (all_cons (by decide) (all_cons (d.isLt) (all_cons (a.isLt) (all_cons (by decide) (all_cons (g.pred.isLt) (all_cons (b2n_lt g.neg) (all_cons (by decide) (all_nil))))))))
  refine of_segs rfl [(4, 0), (6, 24), (5, d.val), (5, a.val), (5, 0), (3, g.pred.val), (1, b2n g.neg), (2, 0)] rfl trivial hall (by simp only [pack, hz, List.foldl]; omega) (fun N Q hN => ?_)
  have e0 : bits N 30 27 = 0 := bits_seg [] [(4, 0)] [(6, 24), (5, d.val), (5, a.val), (5, 0), (3, g.pred.val), (1, b2n g.neg), (2, 0)] hall hN rfl rfl rfl
  have e1 : bits N 26 21 = 24 := bits_seg [(4, 0)] [(6, 24)] [(5, d.val), (5, a.val), (5, 0), (3, g.pred.val), (1, b2n g.neg), (2, 0)] hall hN rfl rfl rfl
  have e2 : bits N 1 0 = 0 := bits_seg [(4, 0), (6, 24), (5, d.val), (5, a.val), (5, 0), (3, g.pred.val), (1, b2n g.neg)] [(2, 0)] [] hall hN rfl rfl rfl
  have e3 : bits N 10 6 = 0 := bits_seg [(4, 0), (6, 24), (5, d.val), (5, a.val)] [(5, 0)] [(3, g.pred.val), (1, b2n g.neg), (2, 0)] hall hN rfl rfl rfl
  have e4 : guardAt N 3 2 = g := guardAt_eq (seg [(4, 0), (6, 24), (5, d.val), (5, a.val), (5, 0)] [(3, g.pred.val)] [(1, b2n g.neg), (2, 0)] hall hN (hz_one _ _)) (seg [(4, 0), (6, 24), (5, d.val), (5, a.val), (5, 0), (3, g.pred.val)] [(1, b2n g.neg)] [(2, 0)] hall hN (hz_one _ _))
  have e5 : xreg N 16 = d := xreg_eq (seg [(4, 0), (6, 24)] [(5, d.val)] [(5, a.val), (5, 0), (3, g.pred.val), (1, b2n g.neg), (2, 0)] hall hN (hz_one _ _))
  have e6 : xreg N 11 = a := xreg_eq (seg [(4, 0), (6, 24), (5, d.val)] [(5, a.val)] [(5, 0), (3, g.pred.val), (1, b2n g.neg), (2, 0)] hall hN (hz_one _ _))
  rw [decodeFields, e0]; show decodeSA N = _; rw [decodeSA, e1]; show (if bits N 1 0 == 0 && bits N 10 6 == 0 then some (Instr.popc (guardAt N 3 2) (xreg N 16) (xreg N 11)) else none) = _
  simp only [e2, e3, e4, e5, e6, beq_self_eq_true, ↓reduceIte, Bool.and_self]

theorem bfx (g : Guard) (d : XReg) (a : XReg) (b : XReg) : Statement (.bfx g d a b) := by
  have hall : Fits [(4, 0), (6, 25), (5, d.val), (5, a.val), (5, b.val), (3, g.pred.val), (1, b2n g.neg), (2, 0)] := all_cons (by decide) (all_cons (by decide) (all_cons (d.isLt) (all_cons (a.isLt) (all_cons (b.isLt) (all_cons (g.pred.isLt) (all_cons (b2n_lt g.neg) (all_cons (by decide) (all_nil))))))))
  refine of_segs rfl [(4, 0), (6, 25), (5, d.val), (5, a.val), (5, b.val), (3, g.pred.val), (1, b2n g.neg), (2, 0)] rfl trivial hall (by simp only [pack, hz, List.foldl]; omega) (fun N Q hN => ?_)
  have e0 : bits N 30 27 = 0 := bits_seg [] [(4, 0)] [(6, 25), (5, d.val), (5, a.val), (5, b.val), (3, g.pred.val), (1, b2n g.neg), (2, 0)] hall hN rfl rfl rfl
  have e1 : bits N 26 21 = 25 := bits_seg [(4, 0)] [(6, 25)] [(5, d.val), (5, a.val), (5, b.val), (3, g.pred.val), (1, b2n g.neg), (2, 0)] hall hN rfl rfl rfl
  have e2 : bits N 1 0 = 0 := bits_seg [(4, 0), (6, 25), (5, d.val), (5, a.val), (5, b.val), (3, g.pred.val), (1, b2n g.neg)] [(2, 0)] [] hall hN rfl rfl rfl
  have e3 : guardAt N 3 2 = g := guardAt_eq (seg [(4, 0), (6, 25), (5, d.val), (5, a.val), (5, b.val)] [(3, g.pred.val)] [(1, b2n g.neg), (2, 0)] hall hN (hz_one _ _)) (seg [(4, 0), (6, 25), (5, d.val), (5, a.val), (5, b.val), (3, g.pred.val)] [(1, b2n g.neg)] [(2, 0)] hall hN (hz_one _ _))
  have e4 : xreg N 16 = d := xreg_eq (seg [(4, 0), (6, 25)] [(5, d.val)] [(5, a.val), (5, b.val), (3, g.pred.val), (1, b2n g.neg), (2, 0)] hall hN (hz_one _ _))
  have e5 : xreg N 11 = a := xreg_eq (seg [(4, 0), (6, 25), (5, d.val)] [(5, a.val)] [(5, b.val), (3, g.pred.val), (1, b2n g.neg), (2, 0)] hall hN (hz_one _ _))
  have e6 : xreg N 6 = b := xreg_eq (seg [(4, 0), (6, 25), (5, d.val), (5, a.val)] [(5, b.val)] [(3, g.pred.val), (1, b2n g.neg), (2, 0)] hall hN (hz_one _ _))
  rw [decodeFields, e0]; show decodeSA N = _; rw [decodeSA, e1]; show (if bits N 1 0 == 0 then some (Instr.bfx (guardAt N 3 2) (xreg N 16) (xreg N 11) (xreg N 6)) else none) = _
  simp only [e2, e3, e4, e5, e6, beq_self_eq_true, ↓reduceIte]

theorem bfi (g : Guard) (d : XReg) (a : XReg) (b : XReg) : Statement (.bfi g d a b) := by
  have hall : Fits [(4, 0), (6, 26), (5, d.val), (5, a.val), (5, b.val), (3, g.pred.val), (1, b2n g.neg), (2, 0)] := all_cons (by decide) (all_cons (by decide) (all_cons (d.isLt) (all_cons (a.isLt) (all_cons (b.isLt) (all_cons (g.pred.isLt) (all_cons (b2n_lt g.neg) (all_cons (by decide) (all_nil))))))))
  refine of_segs rfl [(4, 0), (6, 26), (5, d.val), (5, a.val), (5, b.val), (3, g.pred.val), (1, b2n g.neg), (2, 0)] rfl trivial hall (by simp only [pack, hz, List.foldl]; omega) (fun N Q hN => ?_)
  have e0 : bits N 30 27 = 0 := bits_seg [] [(4, 0)] [(6, 26), (5, d.val), (5, a.val), (5, b.val), (3, g.pred.val), (1, b2n g.neg), (2, 0)] hall hN rfl rfl rfl
  have e1 : bits N 26 21 = 26 := bits_seg [(4, 0)] [(6, 26)] [(5, d.val), (5, a.val), (5, b.val), (3, g.pred.val), (1, b2n g.neg), (2, 0)] hall hN rfl rfl rfl
  have e2 : bits N 1 0 = 0 := bits_seg [(4, 0), (6, 26), (5, d.val), (5, a.val), (5, b.val), (3, g.pred.val), (1, b2n g.neg)] [(2, 0)] [] hall hN rfl rfl rfl
  have e3 : guardAt N 3 2 = g := guardAt_eq (seg [(4, 0), (6, 26), (5, d.val), (5, a.val), (5, b.val)] [(3, g.pred.val)] [(1, b2n g.neg), (2, 0)] hall hN (hz_one _ _)) (seg [(4, 0), (6, 26), (5, d.val), (5, a.val), (5, b.val), (3, g.pred.val)] [(1, b2n g.neg)] [(2, 0)] hall hN (hz_one _ _))
  have e4 : xreg N 16 = d := xreg_eq (seg [(4, 0), (6, 26)] [(5, d.val)] [(5, a.val), (5, b.val), (3, g.pred.val), (1, b2n g.neg), (2, 0)] hall hN (hz_one _ _))
  have e5 : xreg N 11 = a := xreg_eq (seg [(4, 0), (6, 26), (5, d.val)] [(5, a.val)] [(5, b.val), (3, g.pred.val), (1, b2n g.neg), (2, 0)] hall hN (hz_one _ _))
  have e6 : xreg N 6 = b := xreg_eq (seg [(4, 0), (6, 26), (5, d.val), (5, a.val)] [(5, b.val)] [(3, g.pred.val), (1, b2n g.neg), (2, 0)] hall hN (hz_one _ _))
  rw [decodeFields, e0]; show decodeSA N = _; rw [decodeSA, e1]; show (if bits N 1 0 == 0 then some (Instr.bfi (guardAt N 3 2) (xreg N 16) (xreg N 11) (xreg N 6)) else none) = _
  simp only [e2, e3, e4, e5, e6, beq_self_eq_true, ↓reduceIte]

theorem sel (g : Guard) (d : XReg) (a : XReg) (b : XReg) : Statement (.sel g d a b) := by
  have hall : Fits [(4, 0), (6, 27), (5, d.val), (5, a.val), (5, b.val), (3, g.pred.val), (1, b2n g.neg), (2, 0)] := all_cons (by decide) (all_cons (by decide) (all_cons (d.isLt) (all_cons (a.isLt) (all_cons (b.isLt) (all_cons (g.pred.isLt) (all_cons (b2n_lt g.neg) (all_cons (by decide) (all_nil))))))))
  refine of_segs rfl [(4, 0), (6, 27), (5, d.val), (5, a.val), (5, b.val), (3, g.pred.val), (1, b2n g.neg), (2, 0)] rfl trivial hall (by simp only [pack, hz, List.foldl]; omega) (fun N Q hN => ?_)
  have e0 : bits N 30 27 = 0 := bits_seg [] [(4, 0)] [(6, 27), (5, d.val), (5, a.val), (5, b.val), (3, g.pred.val), (1, b2n g.neg), (2, 0)] hall hN rfl rfl rfl
  have e1 : bits N 26 21 = 27 := bits_seg [(4, 0)] [(6, 27)] [(5, d.val), (5, a.val), (5, b.val), (3, g.pred.val), (1, b2n g.neg), (2, 0)] hall hN rfl rfl rfl
  have e2 : bits N 1 0 = 0 := bits_seg [(4, 0), (6, 27), (5, d.val), (5, a.val), (5, b.val), (3, g.pred.val), (1, b2n g.neg)] [(2, 0)] [] hall hN rfl rfl rfl
  have e3 : guardAt N 3 2 = g := guardAt_eq (seg [(4, 0), (6, 27), (5, d.val), (5, a.val), (5, b.val)] [(3, g.pred.val)] [(1, b2n g.neg), (2, 0)] hall hN (hz_one _ _)) (seg [(4, 0), (6, 27), (5, d.val), (5, a.val), (5, b.val), (3, g.pred.val)] [(1, b2n g.neg)] [(2, 0)] hall hN (hz_one _ _))
  have e4 : xreg N 16 = d := xreg_eq (seg [(4, 0), (6, 27)] [(5, d.val)] [(5, a.val), (5, b.val), (3, g.pred.val), (1, b2n g.neg), (2, 0)] hall hN (hz_one _ _))
  have e5 : xreg N 11 = a := xreg_eq (seg [(4, 0), (6, 27), (5, d.val)] [(5, a.val)] [(5, b.val), (3, g.pred.val), (1, b2n g.neg), (2, 0)] hall hN (hz_one _ _))
  have e6 : xreg N 6 = b := xreg_eq (seg [(4, 0), (6, 27), (5, d.val), (5, a.val)] [(5, b.val)] [(3, g.pred.val), (1, b2n g.neg), (2, 0)] hall hN (hz_one _ _))
  rw [decodeFields, e0]; show decodeSA N = _; rw [decodeSA, e1]; show (if bits N 1 0 == 0 then some (Instr.sel (guardAt N 3 2) (xreg N 16) (xreg N 11) (xreg N 6)) else none) = _
  simp only [e2, e3, e4, e5, e6, beq_self_eq_true, ↓reduceIte]

theorem pcmpEq (g : Guard) (p : PReg) (a : XReg) (b : XReg) : Statement (.pcmpEq g p a b) := by
  have hall : Fits [(4, 0), (6, 28), (2, 0), (3, p.val), (5, a.val), (5, b.val), (3, g.pred.val), (1, b2n g.neg), (2, 0)] := all_cons (by decide) (all_cons (by decide) (all_cons (by decide) (all_cons (p.isLt) (all_cons (a.isLt) (all_cons (b.isLt) (all_cons (g.pred.isLt) (all_cons (b2n_lt g.neg) (all_cons (by decide) (all_nil)))))))))
  refine of_segs rfl [(4, 0), (6, 28), (2, 0), (3, p.val), (5, a.val), (5, b.val), (3, g.pred.val), (1, b2n g.neg), (2, 0)] rfl trivial hall (by simp only [pack, hz, List.foldl]; omega) (fun N Q hN => ?_)
  have e0 : bits N 30 27 = 0 := bits_seg [] [(4, 0)] [(6, 28), (2, 0), (3, p.val), (5, a.val), (5, b.val), (3, g.pred.val), (1, b2n g.neg), (2, 0)] hall hN rfl rfl rfl
  have e1 : bits N 26 21 = 28 := bits_seg [(4, 0)] [(6, 28)] [(2, 0), (3, p.val), (5, a.val), (5, b.val), (3, g.pred.val), (1, b2n g.neg), (2, 0)] hall hN rfl rfl rfl
  have e2 : bits N 1 0 = 0 := bits_seg [(4, 0), (6, 28), (2, 0), (3, p.val), (5, a.val), (5, b.val), (3, g.pred.val), (1, b2n g.neg)] [(2, 0)] [] hall hN rfl rfl rfl
  have e3 : bits N 20 19 = 0 := bits_seg [(4, 0), (6, 28)] [(2, 0)] [(3, p.val), (5, a.val), (5, b.val), (3, g.pred.val), (1, b2n g.neg), (2, 0)] hall hN rfl rfl rfl
  have e4 : guardAt N 3 2 = g := guardAt_eq (seg [(4, 0), (6, 28), (2, 0), (3, p.val), (5, a.val), (5, b.val)] [(3, g.pred.val)] [(1, b2n g.neg), (2, 0)] hall hN (hz_one _ _)) (seg [(4, 0), (6, 28), (2, 0), (3, p.val), (5, a.val), (5, b.val), (3, g.pred.val)] [(1, b2n g.neg)] [(2, 0)] hall hN (hz_one _ _))
  have e5 : fin8 N 16 = p := fin8_eq (seg [(4, 0), (6, 28), (2, 0)] [(3, p.val)] [(5, a.val), (5, b.val), (3, g.pred.val), (1, b2n g.neg), (2, 0)] hall hN (hz_one _ _))
  have e6 : xreg N 11 = a := xreg_eq (seg [(4, 0), (6, 28), (2, 0), (3, p.val)] [(5, a.val)] [(5, b.val), (3, g.pred.val), (1, b2n g.neg), (2, 0)] hall hN (hz_one _ _))
  have e7 : xreg N 6 = b := xreg_eq (seg [(4, 0), (6, 28), (2, 0), (3, p.val), (5, a.val)] [(5, b.val)] [(3, g.pred.val), (1, b2n g.neg), (2, 0)] hall hN (hz_one _ _))
  rw [decodeFields, e0]; show decodeSA N = _; rw [decodeSA, e1]; show (if bits N 1 0 == 0 && bits N 20 19 == 0 then some (Instr.pcmpEq (guardAt N 3 2) (fin8 N 16) (xreg N 11) (xreg N 6)) else none) = _
  simp only [e2, e3, e4, e5, e6, e7, beq_self_eq_true, ↓reduceIte, Bool.and_self]

theorem pcmpNe (g : Guard) (p : PReg) (a : XReg) (b : XReg) : Statement (.pcmpNe g p a b) := by
  have hall : Fits [(4, 0), (6, 29), (2, 0), (3, p.val), (5, a.val), (5, b.val), (3, g.pred.val), (1, b2n g.neg), (2, 0)] := all_cons (by decide) (all_cons (by decide) (all_cons (by decide) (all_cons (p.isLt) (all_cons (a.isLt) (all_cons (b.isLt) (all_cons (g.pred.isLt) (all_cons (b2n_lt g.neg) (all_cons (by decide) (all_nil)))))))))
  refine of_segs rfl [(4, 0), (6, 29), (2, 0), (3, p.val), (5, a.val), (5, b.val), (3, g.pred.val), (1, b2n g.neg), (2, 0)] rfl trivial hall (by simp only [pack, hz, List.foldl]; omega) (fun N Q hN => ?_)
  have e0 : bits N 30 27 = 0 := bits_seg [] [(4, 0)] [(6, 29), (2, 0), (3, p.val), (5, a.val), (5, b.val), (3, g.pred.val), (1, b2n g.neg), (2, 0)] hall hN rfl rfl rfl
  have e1 : bits N 26 21 = 29 := bits_seg [(4, 0)] [(6, 29)] [(2, 0), (3, p.val), (5, a.val), (5, b.val), (3, g.pred.val), (1, b2n g.neg), (2, 0)] hall hN rfl rfl rfl
  have e2 : bits N 1 0 = 0 := bits_seg [(4, 0), (6, 29), (2, 0), (3, p.val), (5, a.val), (5, b.val), (3, g.pred.val), (1, b2n g.neg)] [(2, 0)] [] hall hN rfl rfl rfl
  have e3 : bits N 20 19 = 0 := bits_seg [(4, 0), (6, 29)] [(2, 0)] [(3, p.val), (5, a.val), (5, b.val), (3, g.pred.val), (1, b2n g.neg), (2, 0)] hall hN rfl rfl rfl
  have e4 : guardAt N 3 2 = g := guardAt_eq (seg [(4, 0), (6, 29), (2, 0), (3, p.val), (5, a.val), (5, b.val)] [(3, g.pred.val)] [(1, b2n g.neg), (2, 0)] hall hN (hz_one _ _)) (seg [(4, 0), (6, 29), (2, 0), (3, p.val), (5, a.val), (5, b.val), (3, g.pred.val)] [(1, b2n g.neg)] [(2, 0)] hall hN (hz_one _ _))
  have e5 : fin8 N 16 = p := fin8_eq (seg [(4, 0), (6, 29), (2, 0)] [(3, p.val)] [(5, a.val), (5, b.val), (3, g.pred.val), (1, b2n g.neg), (2, 0)] hall hN (hz_one _ _))
  have e6 : xreg N 11 = a := xreg_eq (seg [(4, 0), (6, 29), (2, 0), (3, p.val)] [(5, a.val)] [(5, b.val), (3, g.pred.val), (1, b2n g.neg), (2, 0)] hall hN (hz_one _ _))
  have e7 : xreg N 6 = b := xreg_eq (seg [(4, 0), (6, 29), (2, 0), (3, p.val), (5, a.val)] [(5, b.val)] [(3, g.pred.val), (1, b2n g.neg), (2, 0)] hall hN (hz_one _ _))
  rw [decodeFields, e0]; show decodeSA N = _; rw [decodeSA, e1]; show (if bits N 1 0 == 0 && bits N 20 19 == 0 then some (Instr.pcmpNe (guardAt N 3 2) (fin8 N 16) (xreg N 11) (xreg N 6)) else none) = _
  simp only [e2, e3, e4, e5, e6, e7, beq_self_eq_true, ↓reduceIte, Bool.and_self]

theorem pcmpLt (g : Guard) (p : PReg) (a : XReg) (b : XReg) : Statement (.pcmpLt g p a b) := by
  have hall : Fits [(4, 0), (6, 30), (2, 0), (3, p.val), (5, a.val), (5, b.val), (3, g.pred.val), (1, b2n g.neg), (2, 0)] := all_cons (by decide) (all_cons (by decide) (all_cons (by decide) (all_cons (p.isLt) (all_cons (a.isLt) (all_cons (b.isLt) (all_cons (g.pred.isLt) (all_cons (b2n_lt g.neg) (all_cons (by decide) (all_nil)))))))))
  refine of_segs rfl [(4, 0), (6, 30), (2, 0), (3, p.val), (5, a.val), (5, b.val), (3, g.pred.val), (1, b2n g.neg), (2, 0)] rfl trivial hall (by simp only [pack, hz, List.foldl]; omega) (fun N Q hN => ?_)
  have e0 : bits N 30 27 = 0 := bits_seg [] [(4, 0)] [(6, 30), (2, 0), (3, p.val), (5, a.val), (5, b.val), (3, g.pred.val), (1, b2n g.neg), (2, 0)] hall hN rfl rfl rfl
  have e1 : bits N 26 21 = 30 := bits_seg [(4, 0)] [(6, 30)] [(2, 0), (3, p.val), (5, a.val), (5, b.val), (3, g.pred.val), (1, b2n g.neg), (2, 0)] hall hN rfl rfl rfl
  have e2 : bits N 1 0 = 0 := bits_seg [(4, 0), (6, 30), (2, 0), (3, p.val), (5, a.val), (5, b.val), (3, g.pred.val), (1, b2n g.neg)] [(2, 0)] [] hall hN rfl rfl rfl
  have e3 : bits N 20 19 = 0 := bits_seg [(4, 0), (6, 30)] [(2, 0)] [(3, p.val), (5, a.val), (5, b.val), (3, g.pred.val), (1, b2n g.neg), (2, 0)] hall hN rfl rfl rfl
  have e4 : guardAt N 3 2 = g := guardAt_eq (seg [(4, 0), (6, 30), (2, 0), (3, p.val), (5, a.val), (5, b.val)] [(3, g.pred.val)] [(1, b2n g.neg), (2, 0)] hall hN (hz_one _ _)) (seg [(4, 0), (6, 30), (2, 0), (3, p.val), (5, a.val), (5, b.val), (3, g.pred.val)] [(1, b2n g.neg)] [(2, 0)] hall hN (hz_one _ _))
  have e5 : fin8 N 16 = p := fin8_eq (seg [(4, 0), (6, 30), (2, 0)] [(3, p.val)] [(5, a.val), (5, b.val), (3, g.pred.val), (1, b2n g.neg), (2, 0)] hall hN (hz_one _ _))
  have e6 : xreg N 11 = a := xreg_eq (seg [(4, 0), (6, 30), (2, 0), (3, p.val)] [(5, a.val)] [(5, b.val), (3, g.pred.val), (1, b2n g.neg), (2, 0)] hall hN (hz_one _ _))
  have e7 : xreg N 6 = b := xreg_eq (seg [(4, 0), (6, 30), (2, 0), (3, p.val), (5, a.val)] [(5, b.val)] [(3, g.pred.val), (1, b2n g.neg), (2, 0)] hall hN (hz_one _ _))
  rw [decodeFields, e0]; show decodeSA N = _; rw [decodeSA, e1]; show (if bits N 1 0 == 0 && bits N 20 19 == 0 then some (Instr.pcmpLt (guardAt N 3 2) (fin8 N 16) (xreg N 11) (xreg N 6)) else none) = _
  simp only [e2, e3, e4, e5, e6, e7, beq_self_eq_true, ↓reduceIte, Bool.and_self]

theorem pcmpGe (g : Guard) (p : PReg) (a : XReg) (b : XReg) : Statement (.pcmpGe g p a b) := by
  have hall : Fits [(4, 0), (6, 31), (2, 0), (3, p.val), (5, a.val), (5, b.val), (3, g.pred.val), (1, b2n g.neg), (2, 0)] := all_cons (by decide) (all_cons (by decide) (all_cons (by decide) (all_cons (p.isLt) (all_cons (a.isLt) (all_cons (b.isLt) (all_cons (g.pred.isLt) (all_cons (b2n_lt g.neg) (all_cons (by decide) (all_nil)))))))))
  refine of_segs rfl [(4, 0), (6, 31), (2, 0), (3, p.val), (5, a.val), (5, b.val), (3, g.pred.val), (1, b2n g.neg), (2, 0)] rfl trivial hall (by simp only [pack, hz, List.foldl]; omega) (fun N Q hN => ?_)
  have e0 : bits N 30 27 = 0 := bits_seg [] [(4, 0)] [(6, 31), (2, 0), (3, p.val), (5, a.val), (5, b.val), (3, g.pred.val), (1, b2n g.neg), (2, 0)] hall hN rfl rfl rfl
  have e1 : bits N 26 21 = 31 := bits_seg [(4, 0)] [(6, 31)] [(2, 0), (3, p.val), (5, a.val), (5, b.val), (3, g.pred.val), (1, b2n g.neg), (2, 0)] hall hN rfl rfl rfl
  have e2 : bits N 1 0 = 0 := bits_seg [(4, 0), (6, 31), (2, 0), (3, p.val), (5, a.val), (5, b.val), (3, g.pred.val), (1, b2n g.neg)] [(2, 0)] [] hall hN rfl rfl rfl
  have e3 : bits N 20 19 = 0 := bits_seg [(4, 0), (6, 31)] [(2, 0)] [(3, p.val), (5, a.val), (5, b.val), (3, g.pred.val), (1, b2n g.neg), (2, 0)] hall hN rfl rfl rfl
  have e4 : guardAt N 3 2 = g := guardAt_eq (seg [(4, 0), (6, 31), (2, 0), (3, p.val), (5, a.val), (5, b.val)] [(3, g.pred.val)] [(1, b2n g.neg), (2, 0)] hall hN (hz_one _ _)) (seg [(4, 0), (6, 31), (2, 0), (3, p.val), (5, a.val), (5, b.val), (3, g.pred.val)] [(1, b2n g.neg)] [(2, 0)] hall hN (hz_one _ _))
  have e5 : fin8 N 16 = p := fin8_eq (seg [(4, 0), (6, 31), (2, 0)] [(3, p.val)] [(5, a.val), (5, b.val), (3, g.pred.val), (1, b2n g.neg), (2, 0)] hall hN (hz_one _ _))
  have e6 : xreg N 11 = a := xreg_eq (seg [(4, 0), (6, 31), (2, 0), (3, p.val)] [(5, a.val)] [(5, b.val), (3, g.pred.val), (1, b2n g.neg), (2, 0)] hall hN (hz_one _ _))
  have e7 : xreg N 6 = b := xreg_eq (seg [(4, 0), (6, 31), (2, 0), (3, p.val), (5, a.val)] [(5, b.val)] [(3, g.pred.val), (1, b2n g.neg), (2, 0)] hall hN (hz_one _ _))
  rw [decodeFields, e0]; show decodeSA N = _; rw [decodeSA, e1]; show (if bits N 1 0 == 0 && bits N 20 19 == 0 then some (Instr.pcmpGe (guardAt N 3 2) (fin8 N 16) (xreg N 11) (xreg N 6)) else none) = _
  simp only [e2, e3, e4, e5, e6, e7, beq_self_eq_true, ↓reduceIte, Bool.and_self]

theorem pcmpLtw (g : Guard) (p : PReg) (a : XReg) (b : XReg) : Statement (.pcmpLtw g p a b) := by
  have hall : Fits [(4, 0), (6, 32), (2, 0), (3, p.val), (5, a.val), (5, b.val), (3, g.pred.val), (1, b2n g.neg), (2, 0)] := all_cons (by decide) (all_cons (by decide) (all_cons (by decide) (all_cons (p.isLt) (all_cons (a.isLt) (all_cons (b.isLt) (all_cons (g.pred.isLt) (all_cons (b2n_lt g.neg) (all_cons (by decide) (all_nil)))))))))
  refine of_segs rfl [(4, 0), (6, 32), (2, 0), (3, p.val), (5, a.val), (5, b.val), (3, g.pred.val), (1, b2n g.neg), (2, 0)] rfl trivial hall (by simp only [pack, hz, List.foldl]; omega) (fun N Q hN => ?_)
  have e0 : bits N 30 27 = 0 := bits_seg [] [(4, 0)] [(6, 32), (2, 0), (3, p.val), (5, a.val), (5, b.val), (3, g.pred.val), (1, b2n g.neg), (2, 0)] hall hN rfl rfl rfl
  have e1 : bits N 26 21 = 32 := bits_seg [(4, 0)] [(6, 32)] [(2, 0), (3, p.val), (5, a.val), (5, b.val), (3, g.pred.val), (1, b2n g.neg), (2, 0)] hall hN rfl rfl rfl
  have e2 : bits N 1 0 = 0 := bits_seg [(4, 0), (6, 32), (2, 0), (3, p.val), (5, a.val), (5, b.val), (3, g.pred.val), (1, b2n g.neg)] [(2, 0)] [] hall hN rfl rfl rfl
  have e3 : bits N 20 19 = 0 := bits_seg [(4, 0), (6, 32)] [(2, 0)] [(3, p.val), (5, a.val), (5, b.val), (3, g.pred.val), (1, b2n g.neg), (2, 0)] hall hN rfl rfl rfl
  have e4 : guardAt N 3 2 = g := guardAt_eq (seg [(4, 0), (6, 32), (2, 0), (3, p.val), (5, a.val), (5, b.val)] [(3, g.pred.val)] [(1, b2n g.neg), (2, 0)] hall hN (hz_one _ _)) (seg [(4, 0), (6, 32), (2, 0), (3, p.val), (5, a.val), (5, b.val), (3, g.pred.val)] [(1, b2n g.neg)] [(2, 0)] hall hN (hz_one _ _))
  have e5 : fin8 N 16 = p := fin8_eq (seg [(4, 0), (6, 32), (2, 0)] [(3, p.val)] [(5, a.val), (5, b.val), (3, g.pred.val), (1, b2n g.neg), (2, 0)] hall hN (hz_one _ _))
  have e6 : xreg N 11 = a := xreg_eq (seg [(4, 0), (6, 32), (2, 0), (3, p.val)] [(5, a.val)] [(5, b.val), (3, g.pred.val), (1, b2n g.neg), (2, 0)] hall hN (hz_one _ _))
  have e7 : xreg N 6 = b := xreg_eq (seg [(4, 0), (6, 32), (2, 0), (3, p.val), (5, a.val)] [(5, b.val)] [(3, g.pred.val), (1, b2n g.neg), (2, 0)] hall hN (hz_one _ _))
  rw [decodeFields, e0]; show decodeSA N = _; rw [decodeSA, e1]; show (if bits N 1 0 == 0 && bits N 20 19 == 0 then some (Instr.pcmpLtw (guardAt N 3 2) (fin8 N 16) (xreg N 11) (xreg N 6)) else none) = _
  simp only [e2, e3, e4, e5, e6, e7, beq_self_eq_true, ↓reduceIte, Bool.and_self]

theorem pcmpGew (g : Guard) (p : PReg) (a : XReg) (b : XReg) : Statement (.pcmpGew g p a b) := by
  have hall : Fits [(4, 0), (6, 33), (2, 0), (3, p.val), (5, a.val), (5, b.val), (3, g.pred.val), (1, b2n g.neg), (2, 0)] := all_cons (by decide) (all_cons (by decide) (all_cons (by decide) (all_cons (p.isLt) (all_cons (a.isLt) (all_cons (b.isLt) (all_cons (g.pred.isLt) (all_cons (b2n_lt g.neg) (all_cons (by decide) (all_nil)))))))))
  refine of_segs rfl [(4, 0), (6, 33), (2, 0), (3, p.val), (5, a.val), (5, b.val), (3, g.pred.val), (1, b2n g.neg), (2, 0)] rfl trivial hall (by simp only [pack, hz, List.foldl]; omega) (fun N Q hN => ?_)
  have e0 : bits N 30 27 = 0 := bits_seg [] [(4, 0)] [(6, 33), (2, 0), (3, p.val), (5, a.val), (5, b.val), (3, g.pred.val), (1, b2n g.neg), (2, 0)] hall hN rfl rfl rfl
  have e1 : bits N 26 21 = 33 := bits_seg [(4, 0)] [(6, 33)] [(2, 0), (3, p.val), (5, a.val), (5, b.val), (3, g.pred.val), (1, b2n g.neg), (2, 0)] hall hN rfl rfl rfl
  have e2 : bits N 1 0 = 0 := bits_seg [(4, 0), (6, 33), (2, 0), (3, p.val), (5, a.val), (5, b.val), (3, g.pred.val), (1, b2n g.neg)] [(2, 0)] [] hall hN rfl rfl rfl
  have e3 : bits N 20 19 = 0 := bits_seg [(4, 0), (6, 33)] [(2, 0)] [(3, p.val), (5, a.val), (5, b.val), (3, g.pred.val), (1, b2n g.neg), (2, 0)] hall hN rfl rfl rfl
  have e4 : guardAt N 3 2 = g := guardAt_eq (seg [(4, 0), (6, 33), (2, 0), (3, p.val), (5, a.val), (5, b.val)] [(3, g.pred.val)] [(1, b2n g.neg), (2, 0)] hall hN (hz_one _ _)) (seg [(4, 0), (6, 33), (2, 0), (3, p.val), (5, a.val), (5, b.val), (3, g.pred.val)] [(1, b2n g.neg)] [(2, 0)] hall hN (hz_one _ _))
  have e5 : fin8 N 16 = p := fin8_eq (seg [(4, 0), (6, 33), (2, 0)] [(3, p.val)] [(5, a.val), (5, b.val), (3, g.pred.val), (1, b2n g.neg), (2, 0)] hall hN (hz_one _ _))
  have e6 : xreg N 11 = a := xreg_eq (seg [(4, 0), (6, 33), (2, 0), (3, p.val)] [(5, a.val)] [(5, b.val), (3, g.pred.val), (1, b2n g.neg), (2, 0)] hall hN (hz_one _ _))
  have e7 : xreg N 6 = b := xreg_eq (seg [(4, 0), (6, 33), (2, 0), (3, p.val), (5, a.val)] [(5, b.val)] [(3, g.pred.val), (1, b2n g.neg), (2, 0)] hall hN (hz_one _ _))
  rw [decodeFields, e0]; show decodeSA N = _; rw [decodeSA, e1]; show (if bits N 1 0 == 0 && bits N 20 19 == 0 then some (Instr.pcmpGew (guardAt N 3 2) (fin8 N 16) (xreg N 11) (xreg N 6)) else none) = _
  simp only [e2, e3, e4, e5, e6, e7, beq_self_eq_true, ↓reduceIte, Bool.and_self]

theorem pand (g : Guard) (d : PReg) (a : PReg) (b : PReg) : Statement (.pand g d a b) := by
  have hall : Fits [(4, 0), (6, 34), (2, 0), (3, d.val), (2, 0), (3, a.val), (2, 0), (3, b.val), (3, g.pred.val), (1, b2n g.neg), (2, 0)] := all_cons (by decide) (all_cons (by decide) (all_cons (by decide) (all_cons (d.isLt) (all_cons (by decide) (all_cons (a.isLt) (all_cons (by decide) (all_cons (b.isLt) (all_cons (g.pred.isLt) (all_cons (b2n_lt g.neg) (all_cons (by decide) (all_nil)))))))))))
  refine of_segs rfl [(4, 0), (6, 34), (2, 0), (3, d.val), (2, 0), (3, a.val), (2, 0), (3, b.val), (3, g.pred.val), (1, b2n g.neg), (2, 0)] rfl trivial hall (by simp only [pack, hz, List.foldl]; omega) (fun N Q hN => ?_)
  have e0 : bits N 30 27 = 0 := bits_seg [] [(4, 0)] [(6, 34), (2, 0), (3, d.val), (2, 0), (3, a.val), (2, 0), (3, b.val), (3, g.pred.val), (1, b2n g.neg), (2, 0)] hall hN rfl rfl rfl
  have e1 : bits N 26 21 = 34 := bits_seg [(4, 0)] [(6, 34)] [(2, 0), (3, d.val), (2, 0), (3, a.val), (2, 0), (3, b.val), (3, g.pred.val), (1, b2n g.neg), (2, 0)] hall hN rfl rfl rfl
  have e2 : bits N 1 0 = 0 := bits_seg [(4, 0), (6, 34), (2, 0), (3, d.val), (2, 0), (3, a.val), (2, 0), (3, b.val), (3, g.pred.val), (1, b2n g.neg)] [(2, 0)] [] hall hN rfl rfl rfl
  have e3 : bits N 10 9 = 0 := bits_seg [(4, 0), (6, 34), (2, 0), (3, d.val), (2, 0), (3, a.val)] [(2, 0)] [(3, b.val), (3, g.pred.val), (1, b2n g.neg), (2, 0)] hall hN rfl rfl rfl
  have e4 : bits N 15 14 = 0 := bits_seg [(4, 0), (6, 34), (2, 0), (3, d.val)] [(2, 0)] [(3, a.val), (2, 0), (3, b.val), (3, g.pred.val), (1, b2n g.neg), (2, 0)] hall hN rfl rfl rfl
  have e5 : bits N 20 19 = 0 := bits_seg [(4, 0), (6, 34)] [(2, 0)] [(3, d.val), (2, 0), (3, a.val), (2, 0), (3, b.val), (3, g.pred.val), (1, b2n g.neg), (2, 0)] hall hN rfl rfl rfl
  have e6 : guardAt N 3 2 = g := guardAt_eq (seg [(4, 0), (6, 34), (2, 0), (3, d.val), (2, 0), (3, a.val), (2, 0), (3, b.val)] [(3, g.pred.val)] [(1, b2n g.neg), (2, 0)] hall hN (hz_one _ _)) (seg [(4, 0), (6, 34), (2, 0), (3, d.val), (2, 0), (3, a.val), (2, 0), (3, b.val), (3, g.pred.val)] [(1, b2n g.neg)] [(2, 0)] hall hN (hz_one _ _))
  have e7 : fin8 N 16 = d := fin8_eq (seg [(4, 0), (6, 34), (2, 0)] [(3, d.val)] [(2, 0), (3, a.val), (2, 0), (3, b.val), (3, g.pred.val), (1, b2n g.neg), (2, 0)] hall hN (hz_one _ _))
  have e8 : fin8 N 11 = a := fin8_eq (seg [(4, 0), (6, 34), (2, 0), (3, d.val), (2, 0)] [(3, a.val)] [(2, 0), (3, b.val), (3, g.pred.val), (1, b2n g.neg), (2, 0)] hall hN (hz_one _ _))
  have e9 : fin8 N 6 = b := fin8_eq (seg [(4, 0), (6, 34), (2, 0), (3, d.val), (2, 0), (3, a.val), (2, 0)] [(3, b.val)] [(3, g.pred.val), (1, b2n g.neg), (2, 0)] hall hN (hz_one _ _))
  rw [decodeFields, e0]; show decodeSA N = _; rw [decodeSA, e1]; show (if bits N 1 0 == 0 && bits N 10 9 == 0 && bits N 15 14 == 0 && bits N 20 19 == 0 then some (Instr.pand (guardAt N 3 2) (fin8 N 16) (fin8 N 11) (fin8 N 6)) else none) = _
  simp only [e2, e3, e4, e5, e6, e7, e8, e9, beq_self_eq_true, ↓reduceIte, Bool.and_self]

theorem por (g : Guard) (d : PReg) (a : PReg) (b : PReg) : Statement (.por g d a b) := by
  have hall : Fits [(4, 0), (6, 35), (2, 0), (3, d.val), (2, 0), (3, a.val), (2, 0), (3, b.val), (3, g.pred.val), (1, b2n g.neg), (2, 0)] := all_cons (by decide) (all_cons (by decide) (all_cons (by decide) (all_cons (d.isLt) (all_cons (by decide) (all_cons (a.isLt) (all_cons (by decide) (all_cons (b.isLt) (all_cons (g.pred.isLt) (all_cons (b2n_lt g.neg) (all_cons (by decide) (all_nil)))))))))))
  refine of_segs rfl [(4, 0), (6, 35), (2, 0), (3, d.val), (2, 0), (3, a.val), (2, 0), (3, b.val), (3, g.pred.val), (1, b2n g.neg), (2, 0)] rfl trivial hall (by simp only [pack, hz, List.foldl]; omega) (fun N Q hN => ?_)
  have e0 : bits N 30 27 = 0 := bits_seg [] [(4, 0)] [(6, 35), (2, 0), (3, d.val), (2, 0), (3, a.val), (2, 0), (3, b.val), (3, g.pred.val), (1, b2n g.neg), (2, 0)] hall hN rfl rfl rfl
  have e1 : bits N 26 21 = 35 := bits_seg [(4, 0)] [(6, 35)] [(2, 0), (3, d.val), (2, 0), (3, a.val), (2, 0), (3, b.val), (3, g.pred.val), (1, b2n g.neg), (2, 0)] hall hN rfl rfl rfl
  have e2 : bits N 1 0 = 0 := bits_seg [(4, 0), (6, 35), (2, 0), (3, d.val), (2, 0), (3, a.val), (2, 0), (3, b.val), (3, g.pred.val), (1, b2n g.neg)] [(2, 0)] [] hall hN rfl rfl rfl
  have e3 : bits N 10 9 = 0 := bits_seg [(4, 0), (6, 35), (2, 0), (3, d.val), (2, 0), (3, a.val)] [(2, 0)] [(3, b.val), (3, g.pred.val), (1, b2n g.neg), (2, 0)] hall hN rfl rfl rfl
  have e4 : bits N 15 14 = 0 := bits_seg [(4, 0), (6, 35), (2, 0), (3, d.val)] [(2, 0)] [(3, a.val), (2, 0), (3, b.val), (3, g.pred.val), (1, b2n g.neg), (2, 0)] hall hN rfl rfl rfl
  have e5 : bits N 20 19 = 0 := bits_seg [(4, 0), (6, 35)] [(2, 0)] [(3, d.val), (2, 0), (3, a.val), (2, 0), (3, b.val), (3, g.pred.val), (1, b2n g.neg), (2, 0)] hall hN rfl rfl rfl
  have e6 : guardAt N 3 2 = g := guardAt_eq (seg [(4, 0), (6, 35), (2, 0), (3, d.val), (2, 0), (3, a.val), (2, 0), (3, b.val)] [(3, g.pred.val)] [(1, b2n g.neg), (2, 0)] hall hN (hz_one _ _)) (seg [(4, 0), (6, 35), (2, 0), (3, d.val), (2, 0), (3, a.val), (2, 0), (3, b.val), (3, g.pred.val)] [(1, b2n g.neg)] [(2, 0)] hall hN (hz_one _ _))
  have e7 : fin8 N 16 = d := fin8_eq (seg [(4, 0), (6, 35), (2, 0)] [(3, d.val)] [(2, 0), (3, a.val), (2, 0), (3, b.val), (3, g.pred.val), (1, b2n g.neg), (2, 0)] hall hN (hz_one _ _))
  have e8 : fin8 N 11 = a := fin8_eq (seg [(4, 0), (6, 35), (2, 0), (3, d.val), (2, 0)] [(3, a.val)] [(2, 0), (3, b.val), (3, g.pred.val), (1, b2n g.neg), (2, 0)] hall hN (hz_one _ _))
  have e9 : fin8 N 6 = b := fin8_eq (seg [(4, 0), (6, 35), (2, 0), (3, d.val), (2, 0), (3, a.val), (2, 0)] [(3, b.val)] [(3, g.pred.val), (1, b2n g.neg), (2, 0)] hall hN (hz_one _ _))
  rw [decodeFields, e0]; show decodeSA N = _; rw [decodeSA, e1]; show (if bits N 1 0 == 0 && bits N 10 9 == 0 && bits N 15 14 == 0 && bits N 20 19 == 0 then some (Instr.por (guardAt N 3 2) (fin8 N 16) (fin8 N 11) (fin8 N 6)) else none) = _
  simp only [e2, e3, e4, e5, e6, e7, e8, e9, beq_self_eq_true, ↓reduceIte, Bool.and_self]

theorem pxor (g : Guard) (d : PReg) (a : PReg) (b : PReg) : Statement (.pxor g d a b) := by
  have hall : Fits [(4, 0), (6, 36), (2, 0), (3, d.val), (2, 0), (3, a.val), (2, 0), (3, b.val), (3, g.pred.val), (1, b2n g.neg), (2, 0)] := all_cons (by decide) (all_cons (by decide) (all_cons (by decide) (all_cons (d.isLt) (all_cons (by decide) (all_cons (a.isLt) (all_cons (by decide) (all_cons (b.isLt) (all_cons (g.pred.isLt) (all_cons (b2n_lt g.neg) (all_cons (by decide) (all_nil)))))))))))
  refine of_segs rfl [(4, 0), (6, 36), (2, 0), (3, d.val), (2, 0), (3, a.val), (2, 0), (3, b.val), (3, g.pred.val), (1, b2n g.neg), (2, 0)] rfl trivial hall (by simp only [pack, hz, List.foldl]; omega) (fun N Q hN => ?_)
  have e0 : bits N 30 27 = 0 := bits_seg [] [(4, 0)] [(6, 36), (2, 0), (3, d.val), (2, 0), (3, a.val), (2, 0), (3, b.val), (3, g.pred.val), (1, b2n g.neg), (2, 0)] hall hN rfl rfl rfl
  have e1 : bits N 26 21 = 36 := bits_seg [(4, 0)] [(6, 36)] [(2, 0), (3, d.val), (2, 0), (3, a.val), (2, 0), (3, b.val), (3, g.pred.val), (1, b2n g.neg), (2, 0)] hall hN rfl rfl rfl
  have e2 : bits N 1 0 = 0 := bits_seg [(4, 0), (6, 36), (2, 0), (3, d.val), (2, 0), (3, a.val), (2, 0), (3, b.val), (3, g.pred.val), (1, b2n g.neg)] [(2, 0)] [] hall hN rfl rfl rfl
  have e3 : bits N 10 9 = 0 := bits_seg [(4, 0), (6, 36), (2, 0), (3, d.val), (2, 0), (3, a.val)] [(2, 0)] [(3, b.val), (3, g.pred.val), (1, b2n g.neg), (2, 0)] hall hN rfl rfl rfl
  have e4 : bits N 15 14 = 0 := bits_seg [(4, 0), (6, 36), (2, 0), (3, d.val)] [(2, 0)] [(3, a.val), (2, 0), (3, b.val), (3, g.pred.val), (1, b2n g.neg), (2, 0)] hall hN rfl rfl rfl
  have e5 : bits N 20 19 = 0 := bits_seg [(4, 0), (6, 36)] [(2, 0)] [(3, d.val), (2, 0), (3, a.val), (2, 0), (3, b.val), (3, g.pred.val), (1, b2n g.neg), (2, 0)] hall hN rfl rfl rfl
  have e6 : guardAt N 3 2 = g := guardAt_eq (seg [(4, 0), (6, 36), (2, 0), (3, d.val), (2, 0), (3, a.val), (2, 0), (3, b.val)] [(3, g.pred.val)] [(1, b2n g.neg), (2, 0)] hall hN (hz_one _ _)) (seg [(4, 0), (6, 36), (2, 0), (3, d.val), (2, 0), (3, a.val), (2, 0), (3, b.val), (3, g.pred.val)] [(1, b2n g.neg)] [(2, 0)] hall hN (hz_one _ _))
  have e7 : fin8 N 16 = d := fin8_eq (seg [(4, 0), (6, 36), (2, 0)] [(3, d.val)] [(2, 0), (3, a.val), (2, 0), (3, b.val), (3, g.pred.val), (1, b2n g.neg), (2, 0)] hall hN (hz_one _ _))
  have e8 : fin8 N 11 = a := fin8_eq (seg [(4, 0), (6, 36), (2, 0), (3, d.val), (2, 0)] [(3, a.val)] [(2, 0), (3, b.val), (3, g.pred.val), (1, b2n g.neg), (2, 0)] hall hN (hz_one _ _))
  have e9 : fin8 N 6 = b := fin8_eq (seg [(4, 0), (6, 36), (2, 0), (3, d.val), (2, 0), (3, a.val), (2, 0)] [(3, b.val)] [(3, g.pred.val), (1, b2n g.neg), (2, 0)] hall hN (hz_one _ _))
  rw [decodeFields, e0]; show decodeSA N = _; rw [decodeSA, e1]; show (if bits N 1 0 == 0 && bits N 10 9 == 0 && bits N 15 14 == 0 && bits N 20 19 == 0 then some (Instr.pxor (guardAt N 3 2) (fin8 N 16) (fin8 N 11) (fin8 N 6)) else none) = _
  simp only [e2, e3, e4, e5, e6, e7, e8, e9, beq_self_eq_true, ↓reduceIte, Bool.and_self]

theorem pnot (g : Guard) (d : PReg) (a : PReg) : Statement (.pnot g d a) := by
  have hall : Fits [(4, 0), (6, 37), (2, 0), (3, d.val), (2, 0), (3, a.val), (5, 0), (3, g.pred.val), (1, b2n g.neg), (2, 0)] := all_cons (by decide) (all_cons (by decide) (all_cons (by decide) (all_cons (d.isLt) (all_cons (by decide) (all_cons (a.isLt) (all_cons (by decide) (all_cons (g.pred.isLt) (all_cons (b2n_lt g.neg) (all_cons (by decide) (all_nil))))))))))
  refine of_segs rfl [(4, 0), (6, 37), (2, 0), (3, d.val), (2, 0), (3, a.val), (5, 0), (3, g.pred.val), (1, b2n g.neg), (2, 0)] rfl trivial hall (by simp only [pack, hz, List.foldl]; omega) (fun N Q hN => ?_)
  have e0 : bits N 30 27 = 0 := bits_seg [] [(4, 0)] [(6, 37), (2, 0), (3, d.val), (2, 0), (3, a.val), (5, 0), (3, g.pred.val), (1, b2n g.neg), (2, 0)] hall hN rfl rfl rfl
  have e1 : bits N 26 21 = 37 := bits_seg [(4, 0)] [(6, 37)] [(2, 0), (3, d.val), (2, 0), (3, a.val), (5, 0), (3, g.pred.val), (1, b2n g.neg), (2, 0)] hall hN rfl rfl rfl
  have e2 : bits N 1 0 = 0 := bits_seg [(4, 0), (6, 37), (2, 0), (3, d.val), (2, 0), (3, a.val), (5, 0), (3, g.pred.val), (1, b2n g.neg)] [(2, 0)] [] hall hN rfl rfl rfl
  have e3 : bits N 10 6 = 0 := bits_seg [(4, 0), (6, 37), (2, 0), (3, d.val), (2, 0), (3, a.val)] [(5, 0)] [(3, g.pred.val), (1, b2n g.neg), (2, 0)] hall hN rfl rfl rfl
  have e4 : bits N 15 14 = 0 := bits_seg [(4, 0), (6, 37), (2, 0), (3, d.val)] [(2, 0)] [(3, a.val), (5, 0), (3, g.pred.val), (1, b2n g.neg), (2, 0)] hall hN rfl rfl rfl
  have e5 : bits N 20 19 = 0 := bits_seg [(4, 0), (6, 37)] [(2, 0)] [(3, d.val), (2, 0), (3, a.val), (5, 0), (3, g.pred.val), (1, b2n g.neg), (2, 0)] hall hN rfl rfl rfl
  have e6 : guardAt N 3 2 = g := guardAt_eq (seg [(4, 0), (6, 37), (2, 0), (3, d.val), (2, 0), (3, a.val), (5, 0)] [(3, g.pred.val)] [(1, b2n g.neg), (2, 0)] hall hN (hz_one _ _)) (seg [(4, 0), (6, 37), (2, 0), (3, d.val), (2, 0), (3, a.val), (5, 0), (3, g.pred.val)] [(1, b2n g.neg)] [(2, 0)] hall hN (hz_one _ _))
  have e7 : fin8 N 16 = d := fin8_eq (seg [(4, 0), (6, 37), (2, 0)] [(3, d.val)] [(2, 0), (3, a.val), (5, 0), (3, g.pred.val), (1, b2n g.neg), (2, 0)] hall hN (hz_one _ _))
  have e8 : fin8 N 11 = a := fin8_eq (seg [(4, 0), (6, 37), (2, 0), (3, d.val), (2, 0)] [(3, a.val)] [(5, 0), (3, g.pred.val), (1, b2n g.neg), (2, 0)] hall hN (hz_one _ _))
  rw [decodeFields, e0]; show decodeSA N = _; rw [decodeSA, e1]; show (if bits N 1 0 == 0 && bits N 10 6 == 0 && bits N 15 14 == 0 && bits N 20 19 == 0 then some (Instr.pnot (guardAt N 3 2) (fin8 N 16) (fin8 N 11)) else none) = _
  simp only [e2, e3, e4, e5, e6, e7, e8, beq_self_eq_true, ↓reduceIte, Bool.and_self]

theorem qcount (g : Guard) (d : XReg) (a : Fin 4) : Statement (.qcount g d a) := by
  have hall : Fits [(4, 0), (6, 38), (5, d.val), (3, 7), (2, a.val), (5, 0), (3, g.pred.val), (1, b2n g.neg), (2, 0)] := all_cons (by decide) (all_cons (by decide) (all_cons (d.isLt) (all_cons (by decide) (all_cons (a.isLt) (all_cons (by decide) (all_cons (g.pred.isLt) (all_cons (b2n_lt g.neg) (all_cons (by decide) (all_nil)))))))))
  refine of_segs rfl [(4, 0), (6, 38), (5, d.val), (3, 7), (2, a.val), (5, 0), (3, g.pred.val), (1, b2n g.neg), (2, 0)] rfl trivial hall (by simp only [pack, hz, List.foldl]; omega) (fun N Q hN => ?_)
  have e0 : bits N 30 27 = 0 := bits_seg [] [(4, 0)] [(6, 38), (5, d.val), (3, 7), (2, a.val), (5, 0), (3, g.pred.val), (1, b2n g.neg), (2, 0)] hall hN rfl rfl rfl
  have e1 : bits N 26 21 = 38 := bits_seg [(4, 0)] [(6, 38)] [(5, d.val), (3, 7), (2, a.val), (5, 0), (3, g.pred.val), (1, b2n g.neg), (2, 0)] hall hN rfl rfl rfl
  have e2 : bits N 1 0 = 0 := bits_seg [(4, 0), (6, 38), (5, d.val), (3, 7), (2, a.val), (5, 0), (3, g.pred.val), (1, b2n g.neg)] [(2, 0)] [] hall hN rfl rfl rfl
  have e3 : bits N 10 6 = 0 := bits_seg [(4, 0), (6, 38), (5, d.val), (3, 7), (2, a.val)] [(5, 0)] [(3, g.pred.val), (1, b2n g.neg), (2, 0)] hall hN rfl rfl rfl
  have e4 : bits N 15 13 = 7 := bits_seg [(4, 0), (6, 38), (5, d.val)] [(3, 7)] [(2, a.val), (5, 0), (3, g.pred.val), (1, b2n g.neg), (2, 0)] hall hN rfl rfl rfl
  have e5 : guardAt N 3 2 = g := guardAt_eq (seg [(4, 0), (6, 38), (5, d.val), (3, 7), (2, a.val), (5, 0)] [(3, g.pred.val)] [(1, b2n g.neg), (2, 0)] hall hN (hz_one _ _)) (seg [(4, 0), (6, 38), (5, d.val), (3, 7), (2, a.val), (5, 0), (3, g.pred.val)] [(1, b2n g.neg)] [(2, 0)] hall hN (hz_one _ _))
  have e6 : xreg N 16 = d := xreg_eq (seg [(4, 0), (6, 38)] [(5, d.val)] [(3, 7), (2, a.val), (5, 0), (3, g.pred.val), (1, b2n g.neg), (2, 0)] hall hN (hz_one _ _))
  have e7 : fin4 N 11 = a := fin4_eq (seg [(4, 0), (6, 38), (5, d.val), (3, 7)] [(2, a.val)] [(5, 0), (3, g.pred.val), (1, b2n g.neg), (2, 0)] hall hN (hz_one _ _))
  rw [decodeFields, e0]; show decodeSA N = _; rw [decodeSA, e1]; show (if bits N 1 0 == 0 && bits N 10 6 == 0 && bits N 15 13 == 7 then some (Instr.qcount (guardAt N 3 2) (xreg N 16) (fin4 N 11)) else none) = _
  simp [e2, e3, e4, e5, e6, e7, beq_self_eq_true, ↓reduceIte, Bool.and_self]

theorem addi (d : XReg) (a : XReg) (i : BitVec 12) : Statement (.addi d a i) := by
  have hall : Fits [(4, 1), (5, 0), (5, d.val), (5, a.val), (12, i.toNat)] := all_cons (by decide) (all_cons (by decide) (all_cons (d.isLt) (all_cons (a.isLt) (all_cons (i.isLt) (all_nil)))))
  refine of_segs rfl [(4, 1), (5, 0), (5, d.val), (5, a.val), (12, i.toNat)] rfl trivial hall (by simp only [pack, hz, List.foldl]; omega) (fun N Q hN => ?_)
  have e0 : bits N 30 27 = 1 := bits_seg [] [(4, 1)] [(5, 0), (5, d.val), (5, a.val), (12, i.toNat)] hall hN rfl rfl rfl
  have e1 : bits N 26 22 = 0 := bits_seg [(4, 1)] [(5, 0)] [(5, d.val), (5, a.val), (12, i.toNat)] hall hN rfl rfl rfl
  have e2 : xreg N 17 = d := xreg_eq (seg [(4, 1), (5, 0)] [(5, d.val)] [(5, a.val), (12, i.toNat)] hall hN (hz_one _ _))
  have e3 : xreg N 12 = a := xreg_eq (seg [(4, 1), (5, 0), (5, d.val)] [(5, a.val)] [(12, i.toNat)] hall hN (hz_one _ _))
  have e4 : imm N 12 0 = i := imm_eq (seg [(4, 1), (5, 0), (5, d.val), (5, a.val)] [(12, i.toNat)] [] hall hN (hz_one _ _))
  rw [decodeFields, e0]; show decodeSI N = _; rw [decodeSI, e1]; show (some (Instr.addi (xreg N 17) (xreg N 12) (imm N 12 0))) = _
  simp only [e2, e3, e4]

theorem andi (d : XReg) (a : XReg) (i : BitVec 12) : Statement (.andi d a i) := by
  have hall : Fits [(4, 1), (5, 1), (5, d.val), (5, a.val), (12, i.toNat)] := all_cons (by decide) (all_cons (by decide) (all_cons (d.isLt) (all_cons (a.isLt) (all_cons (i.isLt) (all_nil)))))
  refine of_segs rfl [(4, 1), (5, 1), (5, d.val), (5, a.val), (12, i.toNat)] rfl trivial hall (by simp only [pack, hz, List.foldl]; omega) (fun N Q hN => ?_)
  have e0 : bits N 30 27 = 1 := bits_seg [] [(4, 1)] [(5, 1), (5, d.val), (5, a.val), (12, i.toNat)] hall hN rfl rfl rfl
  have e1 : bits N 26 22 = 1 := bits_seg [(4, 1)] [(5, 1)] [(5, d.val), (5, a.val), (12, i.toNat)] hall hN rfl rfl rfl
  have e2 : xreg N 17 = d := xreg_eq (seg [(4, 1), (5, 1)] [(5, d.val)] [(5, a.val), (12, i.toNat)] hall hN (hz_one _ _))
  have e3 : xreg N 12 = a := xreg_eq (seg [(4, 1), (5, 1), (5, d.val)] [(5, a.val)] [(12, i.toNat)] hall hN (hz_one _ _))
  have e4 : imm N 12 0 = i := imm_eq (seg [(4, 1), (5, 1), (5, d.val), (5, a.val)] [(12, i.toNat)] [] hall hN (hz_one _ _))
  rw [decodeFields, e0]; show decodeSI N = _; rw [decodeSI, e1]; show (some (Instr.andi (xreg N 17) (xreg N 12) (imm N 12 0))) = _
  simp only [e2, e3, e4]

theorem ori (d : XReg) (a : XReg) (i : BitVec 12) : Statement (.ori d a i) := by
  have hall : Fits [(4, 1), (5, 2), (5, d.val), (5, a.val), (12, i.toNat)] := all_cons (by decide) (all_cons (by decide) (all_cons (d.isLt) (all_cons (a.isLt) (all_cons (i.isLt) (all_nil)))))
  refine of_segs rfl [(4, 1), (5, 2), (5, d.val), (5, a.val), (12, i.toNat)] rfl trivial hall (by simp only [pack, hz, List.foldl]; omega) (fun N Q hN => ?_)
  have e0 : bits N 30 27 = 1 := bits_seg [] [(4, 1)] [(5, 2), (5, d.val), (5, a.val), (12, i.toNat)] hall hN rfl rfl rfl
  have e1 : bits N 26 22 = 2 := bits_seg [(4, 1)] [(5, 2)] [(5, d.val), (5, a.val), (12, i.toNat)] hall hN rfl rfl rfl
  have e2 : xreg N 17 = d := xreg_eq (seg [(4, 1), (5, 2)] [(5, d.val)] [(5, a.val), (12, i.toNat)] hall hN (hz_one _ _))
  have e3 : xreg N 12 = a := xreg_eq (seg [(4, 1), (5, 2), (5, d.val)] [(5, a.val)] [(12, i.toNat)] hall hN (hz_one _ _))
  have e4 : imm N 12 0 = i := imm_eq (seg [(4, 1), (5, 2), (5, d.val), (5, a.val)] [(12, i.toNat)] [] hall hN (hz_one _ _))
  rw [decodeFields, e0]; show decodeSI N = _; rw [decodeSI, e1]; show (some (Instr.ori (xreg N 17) (xreg N 12) (imm N 12 0))) = _
  simp only [e2, e3, e4]

theorem xori (d : XReg) (a : XReg) (i : BitVec 12) : Statement (.xori d a i) := by
  have hall : Fits [(4, 1), (5, 3), (5, d.val), (5, a.val), (12, i.toNat)] := all_cons (by decide) (all_cons (by decide) (all_cons (d.isLt) (all_cons (a.isLt) (all_cons (i.isLt) (all_nil)))))
  refine of_segs rfl [(4, 1), (5, 3), (5, d.val), (5, a.val), (12, i.toNat)] rfl trivial hall (by simp only [pack, hz, List.foldl]; omega) (fun N Q hN => ?_)
  have e0 : bits N 30 27 = 1 := bits_seg [] [(4, 1)] [(5, 3), (5, d.val), (5, a.val), (12, i.toNat)] hall hN rfl rfl rfl
  have e1 : bits N 26 22 = 3 := bits_seg [(4, 1)] [(5, 3)] [(5, d.val), (5, a.val), (12, i.toNat)] hall hN rfl rfl rfl
  have e2 : xreg N 17 = d := xreg_eq (seg [(4, 1), (5, 3)] [(5, d.val)] [(5, a.val), (12, i.toNat)] hall hN (hz_one _ _))
  have e3 : xreg N 12 = a := xreg_eq (seg [(4, 1), (5, 3), (5, d.val)] [(5, a.val)] [(12, i.toNat)] hall hN (hz_one _ _))
  have e4 : imm N 12 0 = i := imm_eq (seg [(4, 1), (5, 3), (5, d.val), (5, a.val)] [(12, i.toNat)] [] hall hN (hz_one _ _))
  rw [decodeFields, e0]; show decodeSI N = _; rw [decodeSI, e1]; show (some (Instr.xori (xreg N 17) (xreg N 12) (imm N 12 0))) = _
  simp only [e2, e3, e4]

theorem slli (d : XReg) (a : XReg) (h : BitVec 6) : Statement (.slli d a h) := by
  have hall : Fits [(4, 1), (5, 4), (5, d.val), (5, a.val), (6, 0), (6, h.toNat)] := all_cons (by decide) (all_cons (by decide) (all_cons (d.isLt) (all_cons (a.isLt) (all_cons (by decide) (all_cons (h.isLt) (all_nil))))))
  refine of_segs rfl [(4, 1), (5, 4), (5, d.val), (5, a.val), (6, 0), (6, h.toNat)] rfl trivial hall (by simp only [pack, hz, List.foldl]; omega) (fun N Q hN => ?_)
  have e0 : bits N 30 27 = 1 := bits_seg [] [(4, 1)] [(5, 4), (5, d.val), (5, a.val), (6, 0), (6, h.toNat)] hall hN rfl rfl rfl
  have e1 : bits N 26 22 = 4 := bits_seg [(4, 1)] [(5, 4)] [(5, d.val), (5, a.val), (6, 0), (6, h.toNat)] hall hN rfl rfl rfl
  have e2 : bits N 11 6 = 0 := bits_seg [(4, 1), (5, 4), (5, d.val), (5, a.val)] [(6, 0)] [(6, h.toNat)] hall hN rfl rfl rfl
  have e3 : xreg N 17 = d := xreg_eq (seg [(4, 1), (5, 4)] [(5, d.val)] [(5, a.val), (6, 0), (6, h.toNat)] hall hN (hz_one _ _))
  have e4 : xreg N 12 = a := xreg_eq (seg [(4, 1), (5, 4), (5, d.val)] [(5, a.val)] [(6, 0), (6, h.toNat)] hall hN (hz_one _ _))
  have e5 : imm N 6 0 = h := imm_eq (seg [(4, 1), (5, 4), (5, d.val), (5, a.val), (6, 0)] [(6, h.toNat)] [] hall hN (hz_one _ _))
  rw [decodeFields, e0]; show decodeSI N = _; rw [decodeSI, e1]; show (if bits N 11 6 == 0 then some (Instr.slli (xreg N 17) (xreg N 12) (imm N 6 0)) else none) = _
  simp only [e2, e3, e4, e5, beq_self_eq_true, ↓reduceIte]

theorem srli (d : XReg) (a : XReg) (h : BitVec 6) : Statement (.srli d a h) := by
  have hall : Fits [(4, 1), (5, 5), (5, d.val), (5, a.val), (6, 0), (6, h.toNat)] := all_cons (by decide) (all_cons (by decide) (all_cons (d.isLt) (all_cons (a.isLt) (all_cons (by decide) (all_cons (h.isLt) (all_nil))))))
  refine of_segs rfl [(4, 1), (5, 5), (5, d.val), (5, a.val), (6, 0), (6, h.toNat)] rfl trivial hall (by simp only [pack, hz, List.foldl]; omega) (fun N Q hN => ?_)
  have e0 : bits N 30 27 = 1 := bits_seg [] [(4, 1)] [(5, 5), (5, d.val), (5, a.val), (6, 0), (6, h.toNat)] hall hN rfl rfl rfl
  have e1 : bits N 26 22 = 5 := bits_seg [(4, 1)] [(5, 5)] [(5, d.val), (5, a.val), (6, 0), (6, h.toNat)] hall hN rfl rfl rfl
  have e2 : bits N 11 6 = 0 := bits_seg [(4, 1), (5, 5), (5, d.val), (5, a.val)] [(6, 0)] [(6, h.toNat)] hall hN rfl rfl rfl
  have e3 : xreg N 17 = d := xreg_eq (seg [(4, 1), (5, 5)] [(5, d.val)] [(5, a.val), (6, 0), (6, h.toNat)] hall hN (hz_one _ _))
  have e4 : xreg N 12 = a := xreg_eq (seg [(4, 1), (5, 5), (5, d.val)] [(5, a.val)] [(6, 0), (6, h.toNat)] hall hN (hz_one _ _))
  have e5 : imm N 6 0 = h := imm_eq (seg [(4, 1), (5, 5), (5, d.val), (5, a.val), (6, 0)] [(6, h.toNat)] [] hall hN (hz_one _ _))
  rw [decodeFields, e0]; show decodeSI N = _; rw [decodeSI, e1]; show (if bits N 11 6 == 0 then some (Instr.srli (xreg N 17) (xreg N 12) (imm N 6 0)) else none) = _
  simp only [e2, e3, e4, e5, beq_self_eq_true, ↓reduceIte]

theorem srai (d : XReg) (a : XReg) (h : BitVec 6) : Statement (.srai d a h) := by
  have hall : Fits [(4, 1), (5, 6), (5, d.val), (5, a.val), (6, 0), (6, h.toNat)] := all_cons (by decide) (all_cons (by decide) (all_cons (d.isLt) (all_cons (a.isLt) (all_cons (by decide) (all_cons (h.isLt) (all_nil))))))
  refine of_segs rfl [(4, 1), (5, 6), (5, d.val), (5, a.val), (6, 0), (6, h.toNat)] rfl trivial hall (by simp only [pack, hz, List.foldl]; omega) (fun N Q hN => ?_)
  have e0 : bits N 30 27 = 1 := bits_seg [] [(4, 1)] [(5, 6), (5, d.val), (5, a.val), (6, 0), (6, h.toNat)] hall hN rfl rfl rfl
  have e1 : bits N 26 22 = 6 := bits_seg [(4, 1)] [(5, 6)] [(5, d.val), (5, a.val), (6, 0), (6, h.toNat)] hall hN rfl rfl rfl
  have e2 : bits N 11 6 = 0 := bits_seg [(4, 1), (5, 6), (5, d.val), (5, a.val)] [(6, 0)] [(6, h.toNat)] hall hN rfl rfl rfl
  have e3 : xreg N 17 = d := xreg_eq (seg [(4, 1), (5, 6)] [(5, d.val)] [(5, a.val), (6, 0), (6, h.toNat)] hall hN (hz_one _ _))
  have e4 : xreg N 12 = a := xreg_eq (seg [(4, 1), (5, 6), (5, d.val)] [(5, a.val)] [(6, 0), (6, h.toNat)] hall hN (hz_one _ _))
  have e5 : imm N 6 0 = h := imm_eq (seg [(4, 1), (5, 6), (5, d.val), (5, a.val), (6, 0)] [(6, h.toNat)] [] hall hN (hz_one _ _))
  rw [decodeFields, e0]; show decodeSI N = _; rw [decodeSI, e1]; show (if bits N 11 6 == 0 then some (Instr.srai (xreg N 17) (xreg N 12) (imm N 6 0)) else none) = _
  simp only [e2, e3, e4, e5, beq_self_eq_true, ↓reduceIte]

theorem movi (d : XReg) (i : BitVec 12) : Statement (.movi d i) := by
  have hall : Fits [(4, 1), (5, 7), (5, d.val), (5, 0), (12, i.toNat)] := all_cons (by decide) (all_cons (by decide) (all_cons (d.isLt) (all_cons (by decide) (all_cons (i.isLt) (all_nil)))))
  refine of_segs rfl [(4, 1), (5, 7), (5, d.val), (5, 0), (12, i.toNat)] rfl trivial hall (by simp only [pack, hz, List.foldl]; omega) (fun N Q hN => ?_)
  have e0 : bits N 30 27 = 1 := bits_seg [] [(4, 1)] [(5, 7), (5, d.val), (5, 0), (12, i.toNat)] hall hN rfl rfl rfl
  have e1 : bits N 26 22 = 7 := bits_seg [(4, 1)] [(5, 7)] [(5, d.val), (5, 0), (12, i.toNat)] hall hN rfl rfl rfl
  have e2 : bits N 16 12 = 0 := bits_seg [(4, 1), (5, 7), (5, d.val)] [(5, 0)] [(12, i.toNat)] hall hN rfl rfl rfl
  have e3 : xreg N 17 = d := xreg_eq (seg [(4, 1), (5, 7)] [(5, d.val)] [(5, 0), (12, i.toNat)] hall hN (hz_one _ _))
  have e4 : imm N 12 0 = i := imm_eq (seg [(4, 1), (5, 7), (5, d.val), (5, 0)] [(12, i.toNat)] [] hall hN (hz_one _ _))
  rw [decodeFields, e0]; show decodeSI N = _; rw [decodeSI, e1]; show (if bits N 16 12 == 0 then some (Instr.movi (xreg N 17) (imm N 12 0)) else none) = _
  simp only [e2, e3, e4, beq_self_eq_true, ↓reduceIte]

theorem pcmpiEq (p : PReg) (a : XReg) (i : BitVec 12) : Statement (.pcmpiEq p a i) := by
  have hall : Fits [(4, 1), (5, 8), (2, 0), (3, p.val), (5, a.val), (12, i.toNat)] := all_cons (by decide) (all_cons (by decide) (all_cons (by decide) (all_cons (p.isLt) (all_cons (a.isLt) (all_cons (i.isLt) (all_nil))))))
  refine of_segs rfl [(4, 1), (5, 8), (2, 0), (3, p.val), (5, a.val), (12, i.toNat)] rfl trivial hall (by simp only [pack, hz, List.foldl]; omega) (fun N Q hN => ?_)
  have e0 : bits N 30 27 = 1 := bits_seg [] [(4, 1)] [(5, 8), (2, 0), (3, p.val), (5, a.val), (12, i.toNat)] hall hN rfl rfl rfl
  have e1 : bits N 26 22 = 8 := bits_seg [(4, 1)] [(5, 8)] [(2, 0), (3, p.val), (5, a.val), (12, i.toNat)] hall hN rfl rfl rfl
  have e2 : bits N 21 20 = 0 := bits_seg [(4, 1), (5, 8)] [(2, 0)] [(3, p.val), (5, a.val), (12, i.toNat)] hall hN rfl rfl rfl
  have e3 : fin8 N 17 = p := fin8_eq (seg [(4, 1), (5, 8), (2, 0)] [(3, p.val)] [(5, a.val), (12, i.toNat)] hall hN (hz_one _ _))
  have e4 : xreg N 12 = a := xreg_eq (seg [(4, 1), (5, 8), (2, 0), (3, p.val)] [(5, a.val)] [(12, i.toNat)] hall hN (hz_one _ _))
  have e5 : imm N 12 0 = i := imm_eq (seg [(4, 1), (5, 8), (2, 0), (3, p.val), (5, a.val)] [(12, i.toNat)] [] hall hN (hz_one _ _))
  rw [decodeFields, e0]; show decodeSI N = _; rw [decodeSI, e1]; show (if bits N 21 20 == 0 then some (Instr.pcmpiEq (fin8 N 17) (xreg N 12) (imm N 12 0)) else none) = _
  simp only [e2, e3, e4, e5, beq_self_eq_true, ↓reduceIte]

theorem pcmpiNe (p : PReg) (a : XReg) (i : BitVec 12) : Statement (.pcmpiNe p a i) := by
  have hall : Fits [(4, 1), (5, 9), (2, 0), (3, p.val), (5, a.val), (12, i.toNat)] := all_cons (by decide) (all_cons (by decide) (all_cons (by decide) (all_cons (p.isLt) (all_cons (a.isLt) (all_cons (i.isLt) (all_nil))))))
  refine of_segs rfl [(4, 1), (5, 9), (2, 0), (3, p.val), (5, a.val), (12, i.toNat)] rfl trivial hall (by simp only [pack, hz, List.foldl]; omega) (fun N Q hN => ?_)
  have e0 : bits N 30 27 = 1 := bits_seg [] [(4, 1)] [(5, 9), (2, 0), (3, p.val), (5, a.val), (12, i.toNat)] hall hN rfl rfl rfl
  have e1 : bits N 26 22 = 9 := bits_seg [(4, 1)] [(5, 9)] [(2, 0), (3, p.val), (5, a.val), (12, i.toNat)] hall hN rfl rfl rfl
  have e2 : bits N 21 20 = 0 := bits_seg [(4, 1), (5, 9)] [(2, 0)] [(3, p.val), (5, a.val), (12, i.toNat)] hall hN rfl rfl rfl
  have e3 : fin8 N 17 = p := fin8_eq (seg [(4, 1), (5, 9), (2, 0)] [(3, p.val)] [(5, a.val), (12, i.toNat)] hall hN (hz_one _ _))
  have e4 : xreg N 12 = a := xreg_eq (seg [(4, 1), (5, 9), (2, 0), (3, p.val)] [(5, a.val)] [(12, i.toNat)] hall hN (hz_one _ _))
  have e5 : imm N 12 0 = i := imm_eq (seg [(4, 1), (5, 9), (2, 0), (3, p.val), (5, a.val)] [(12, i.toNat)] [] hall hN (hz_one _ _))
  rw [decodeFields, e0]; show decodeSI N = _; rw [decodeSI, e1]; show (if bits N 21 20 == 0 then some (Instr.pcmpiNe (fin8 N 17) (xreg N 12) (imm N 12 0)) else none) = _
  simp only [e2, e3, e4, e5, beq_self_eq_true, ↓reduceIte]

theorem pcmpiLt (p : PReg) (a : XReg) (i : BitVec 12) : Statement (.pcmpiLt p a i) := by
  have hall : Fits [(4, 1), (5, 10), (2, 0), (3, p.val), (5, a.val), (12, i.toNat)] := all_cons (by decide) (all_cons (by decide) (all_cons (by decide) (all_cons (p.isLt) (all_cons (a.isLt) (all_cons (i.isLt) (all_nil))))))
  refine of_segs rfl [(4, 1), (5, 10), (2, 0), (3, p.val), (5, a.val), (12, i.toNat)] rfl trivial hall (by simp only [pack, hz, List.foldl]; omega) (fun N Q hN => ?_)
  have e0 : bits N 30 27 = 1 := bits_seg [] [(4, 1)] [(5, 10), (2, 0), (3, p.val), (5, a.val), (12, i.toNat)] hall hN rfl rfl rfl
  have e1 : bits N 26 22 = 10 := bits_seg [(4, 1)] [(5, 10)] [(2, 0), (3, p.val), (5, a.val), (12, i.toNat)] hall hN rfl rfl rfl
  have e2 : bits N 21 20 = 0 := bits_seg [(4, 1), (5, 10)] [(2, 0)] [(3, p.val), (5, a.val), (12, i.toNat)] hall hN rfl rfl rfl
  have e3 : fin8 N 17 = p := fin8_eq (seg [(4, 1), (5, 10), (2, 0)] [(3, p.val)] [(5, a.val), (12, i.toNat)] hall hN (hz_one _ _))
  have e4 : xreg N 12 = a := xreg_eq (seg [(4, 1), (5, 10), (2, 0), (3, p.val)] [(5, a.val)] [(12, i.toNat)] hall hN (hz_one _ _))
  have e5 : imm N 12 0 = i := imm_eq (seg [(4, 1), (5, 10), (2, 0), (3, p.val), (5, a.val)] [(12, i.toNat)] [] hall hN (hz_one _ _))
  rw [decodeFields, e0]; show decodeSI N = _; rw [decodeSI, e1]; show (if bits N 21 20 == 0 then some (Instr.pcmpiLt (fin8 N 17) (xreg N 12) (imm N 12 0)) else none) = _
  simp only [e2, e3, e4, e5, beq_self_eq_true, ↓reduceIte]

theorem pcmpiGe (p : PReg) (a : XReg) (i : BitVec 12) : Statement (.pcmpiGe p a i) := by
  have hall : Fits [(4, 1), (5, 11), (2, 0), (3, p.val), (5, a.val), (12, i.toNat)] := all_cons (by decide) (all_cons (by decide) (all_cons (by decide) (all_cons (p.isLt) (all_cons (a.isLt) (all_cons (i.isLt) (all_nil))))))
  refine of_segs rfl [(4, 1), (5, 11), (2, 0), (3, p.val), (5, a.val), (12, i.toNat)] rfl trivial hall (by simp only [pack, hz, List.foldl]; omega) (fun N Q hN => ?_)
  have e0 : bits N 30 27 = 1 := bits_seg [] [(4, 1)] [(5, 11), (2, 0), (3, p.val), (5, a.val), (12, i.toNat)] hall hN rfl rfl rfl
  have e1 : bits N 26 22 = 11 := bits_seg [(4, 1)] [(5, 11)] [(2, 0), (3, p.val), (5, a.val), (12, i.toNat)] hall hN rfl rfl rfl
  have e2 : bits N 21 20 = 0 := bits_seg [(4, 1), (5, 11)] [(2, 0)] [(3, p.val), (5, a.val), (12, i.toNat)] hall hN rfl rfl rfl
  have e3 : fin8 N 17 = p := fin8_eq (seg [(4, 1), (5, 11), (2, 0)] [(3, p.val)] [(5, a.val), (12, i.toNat)] hall hN (hz_one _ _))
  have e4 : xreg N 12 = a := xreg_eq (seg [(4, 1), (5, 11), (2, 0), (3, p.val)] [(5, a.val)] [(12, i.toNat)] hall hN (hz_one _ _))
  have e5 : imm N 12 0 = i := imm_eq (seg [(4, 1), (5, 11), (2, 0), (3, p.val), (5, a.val)] [(12, i.toNat)] [] hall hN (hz_one _ _))
  rw [decodeFields, e0]; show decodeSI N = _; rw [decodeSI, e1]; show (if bits N 21 20 == 0 then some (Instr.pcmpiGe (fin8 N 17) (xreg N 12) (imm N 12 0)) else none) = _
  simp only [e2, e3, e4, e5, beq_self_eq_true, ↓reduceIte]

theorem pcmpiLtw (p : PReg) (a : XReg) (i : BitVec 12) : Statement (.pcmpiLtw p a i) := by
  have hall : Fits [(4, 1), (5, 12), (2, 0), (3, p.val), (5, a.val), (12, i.toNat)] := all_cons (by decide) (all_cons (by decide) (all_cons (by decide) (all_cons (p.isLt) (all_cons (a.isLt) (all_cons (i.isLt) (all_nil))))))
  refine of_segs rfl [(4, 1), (5, 12), (2, 0), (3, p.val), (5, a.val), (12, i.toNat)] rfl trivial hall (by simp only [pack, hz, List.foldl]; omega) (fun N Q hN => ?_)
  have e0 : bits N 30 27 = 1 := bits_seg [] [(4, 1)] [(5, 12), (2, 0), (3, p.val), (5, a.val), (12, i.toNat)] hall hN rfl rfl rfl
  have e1 : bits N 26 22 = 12 := bits_seg [(4, 1)] [(5, 12)] [(2, 0), (3, p.val), (5, a.val), (12, i.toNat)] hall hN rfl rfl rfl
  have e2 : bits N 21 20 = 0 := bits_seg [(4, 1), (5, 12)] [(2, 0)] [(3, p.val), (5, a.val), (12, i.toNat)] hall hN rfl rfl rfl
  have e3 : fin8 N 17 = p := fin8_eq (seg [(4, 1), (5, 12), (2, 0)] [(3, p.val)] [(5, a.val), (12, i.toNat)] hall hN (hz_one _ _))
  have e4 : xreg N 12 = a := xreg_eq (seg [(4, 1), (5, 12), (2, 0), (3, p.val)] [(5, a.val)] [(12, i.toNat)] hall hN (hz_one _ _))
  have e5 : imm N 12 0 = i := imm_eq (seg [(4, 1), (5, 12), (2, 0), (3, p.val), (5, a.val)] [(12, i.toNat)] [] hall hN (hz_one _ _))
  rw [decodeFields, e0]; show decodeSI N = _; rw [decodeSI, e1]; show (if bits N 21 20 == 0 then some (Instr.pcmpiLtw (fin8 N 17) (xreg N 12) (imm N 12 0)) else none) = _
  simp only [e2, e3, e4, e5, beq_self_eq_true, ↓reduceIte]

theorem pcmpiGew (p : PReg) (a : XReg) (i : BitVec 12) : Statement (.pcmpiGew p a i) := by
  have hall : Fits [(4, 1), (5, 13), (2, 0), (3, p.val), (5, a.val), (12, i.toNat)] := all_cons (by decide) (all_cons (by decide) (all_cons (by decide) (all_cons (p.isLt) (all_cons (a.isLt) (all_cons (i.isLt) (all_nil))))))
  refine of_segs rfl [(4, 1), (5, 13), (2, 0), (3, p.val), (5, a.val), (12, i.toNat)] rfl trivial hall (by simp only [pack, hz, List.foldl]; omega) (fun N Q hN => ?_)
  have e0 : bits N 30 27 = 1 := bits_seg [] [(4, 1)] [(5, 13), (2, 0), (3, p.val), (5, a.val), (12, i.toNat)] hall hN rfl rfl rfl
  have e1 : bits N 26 22 = 13 := bits_seg [(4, 1)] [(5, 13)] [(2, 0), (3, p.val), (5, a.val), (12, i.toNat)] hall hN rfl rfl rfl
  have e2 : bits N 21 20 = 0 := bits_seg [(4, 1), (5, 13)] [(2, 0)] [(3, p.val), (5, a.val), (12, i.toNat)] hall hN rfl rfl rfl
  have e3 : fin8 N 17 = p := fin8_eq (seg [(4, 1), (5, 13), (2, 0)] [(3, p.val)] [(5, a.val), (12, i.toNat)] hall hN (hz_one _ _))
  have e4 : xreg N 12 = a := xreg_eq (seg [(4, 1), (5, 13), (2, 0), (3, p.val)] [(5, a.val)] [(12, i.toNat)] hall hN (hz_one _ _))
  have e5 : imm N 12 0 = i := imm_eq (seg [(4, 1), (5, 13), (2, 0), (3, p.val), (5, a.val)] [(12, i.toNat)] [] hall hN (hz_one _ _))
  rw [decodeFields, e0]; show decodeSI N = _; rw [decodeSI, e1]; show (if bits N 21 20 == 0 then some (Instr.pcmpiGew (fin8 N 17) (xreg N 12) (imm N 12 0)) else none) = _
  simp only [e2, e3, e4, e5, beq_self_eq_true, ↓reduceIte]

theorem lx (u : BitVec 27) : Statement (.lx u) := by
  have hall : Fits [(4, 4), (27, u.toNat)] := all_cons (by decide) (all_cons (u.isLt) (all_nil))
  refine of_segs rfl [(4, 4), (27, u.toNat)] rfl trivial hall (by simp only [pack, hz, List.foldl]; omega) (fun N Q hN => ?_)
  have e0 : bits N 30 27 = 4 := bits_seg [] [(4, 4)] [(27, u.toNat)] hall hN rfl rfl rfl
  have e1 : imm N 27 0 = u := imm_eq (seg [(4, 4)] [(27, u.toNat)] [] hall hN (hz_one _ _))
  rw [decodeFields, e0]; show some (Instr.lx (imm N 27 0)) = _; rw [e1]

theorem j (g : Guard) (o : BitVec 19) : Statement (.j g o) := by
  have hall : Fits [(4, 2), (4, 0), (3, g.pred.val), (1, b2n g.neg), (19, o.toNat)] := all_cons (by decide) (all_cons (by decide) (all_cons (g.pred.isLt) (all_cons (b2n_lt g.neg) (all_cons (o.isLt) (all_nil)))))
  refine of_segs rfl [(4, 2), (4, 0), (3, g.pred.val), (1, b2n g.neg), (19, o.toNat)] rfl trivial hall (by simp only [pack, hz, List.foldl]; omega) (fun N Q hN => ?_)
  have e0 : bits N 30 27 = 2 := bits_seg [] [(4, 2)] [(4, 0), (3, g.pred.val), (1, b2n g.neg), (19, o.toNat)] hall hN rfl rfl rfl
  have e1 : bits N 26 23 = 0 := bits_seg [(4, 2)] [(4, 0)] [(3, g.pred.val), (1, b2n g.neg), (19, o.toNat)] hall hN rfl rfl rfl
  have e2 : guardAt N 20 19 = g := guardAt_eq (seg [(4, 2), (4, 0)] [(3, g.pred.val)] [(1, b2n g.neg), (19, o.toNat)] hall hN (hz_one _ _)) (seg [(4, 2), (4, 0), (3, g.pred.val)] [(1, b2n g.neg)] [(19, o.toNat)] hall hN (hz_one _ _))
  have e3 : imm N 19 0 = o := imm_eq (seg [(4, 2), (4, 0), (3, g.pred.val), (1, b2n g.neg)] [(19, o.toNat)] [] hall hN (hz_one _ _))
  rw [decodeFields, e0]; show decodeBR N = _; rw [decodeBR, e1]; show (some (Instr.j (guardAt N 20 19) (imm N 19 0))) = _
  simp only [e2, e3]

theorem call (g : Guard) (o : BitVec 19) : Statement (.call g o) := by
  have hall : Fits [(4, 2), (4, 1), (3, g.pred.val), (1, b2n g.neg), (19, o.toNat)] := all_cons (by decide) (all_cons (by decide) (all_cons (g.pred.isLt) (all_cons (b2n_lt g.neg) (all_cons (o.isLt) (all_nil)))))
  refine of_segs rfl [(4, 2), (4, 1), (3, g.pred.val), (1, b2n g.neg), (19, o.toNat)] rfl trivial hall (by simp only [pack, hz, List.foldl]; omega) (fun N Q hN => ?_)
  have e0 : bits N 30 27 = 2 := bits_seg [] [(4, 2)] [(4, 1), (3, g.pred.val), (1, b2n g.neg), (19, o.toNat)] hall hN rfl rfl rfl
  have e1 : bits N 26 23 = 1 := bits_seg [(4, 2)] [(4, 1)] [(3, g.pred.val), (1, b2n g.neg), (19, o.toNat)] hall hN rfl rfl rfl
  have e2 : guardAt N 20 19 = g := guardAt_eq (seg [(4, 2), (4, 1)] [(3, g.pred.val)] [(1, b2n g.neg), (19, o.toNat)] hall hN (hz_one _ _)) (seg [(4, 2), (4, 1), (3, g.pred.val)] [(1, b2n g.neg)] [(19, o.toNat)] hall hN (hz_one _ _))
  have e3 : imm N 19 0 = o := imm_eq (seg [(4, 2), (4, 1), (3, g.pred.val), (1, b2n g.neg)] [(19, o.toNat)] [] hall hN (hz_one _ _))
  rw [decodeFields, e0]; show decodeBR N = _; rw [decodeBR, e1]; show (some (Instr.call (guardAt N 20 19) (imm N 19 0))) = _
  simp only [e2, e3]

theorem jr (g : Guard) (a : XReg) : Statement (.jr g a) := by
  have hall : Fits [(4, 2), (4, 2), (3, g.pred.val), (1, b2n g.neg), (14, 0), (5, a.val)] := all_cons (by decide) (all_cons (by decide) (all_cons (g.pred.isLt) (all_cons (b2n_lt g.neg) (all_cons (by decide) (all_cons (a.isLt) (all_nil))))))
  refine of_segs rfl [(4, 2), (4, 2), (3, g.pred.val), (1, b2n g.neg), (14, 0), (5, a.val)] rfl trivial hall (by simp only [pack, hz, List.foldl]; omega) (fun N Q hN => ?_)
  have e0 : bits N 30 27 = 2 := bits_seg [] [(4, 2)] [(4, 2), (3, g.pred.val), (1, b2n g.neg), (14, 0), (5, a.val)] hall hN rfl rfl rfl
  have e1 : bits N 26 23 = 2 := bits_seg [(4, 2)] [(4, 2)] [(3, g.pred.val), (1, b2n g.neg), (14, 0), (5, a.val)] hall hN rfl rfl rfl
  have e2 : bits N 18 5 = 0 := bits_seg [(4, 2), (4, 2), (3, g.pred.val), (1, b2n g.neg)] [(14, 0)] [(5, a.val)] hall hN rfl rfl rfl
  have e3 : guardAt N 20 19 = g := guardAt_eq (seg [(4, 2), (4, 2)] [(3, g.pred.val)] [(1, b2n g.neg), (14, 0), (5, a.val)] hall hN (hz_one _ _)) (seg [(4, 2), (4, 2), (3, g.pred.val)] [(1, b2n g.neg)] [(14, 0), (5, a.val)] hall hN (hz_one _ _))
  have e4 : xreg N 0 = a := xreg_eq (seg [(4, 2), (4, 2), (3, g.pred.val), (1, b2n g.neg), (14, 0)] [(5, a.val)] [] hall hN (hz_one _ _))
  rw [decodeFields, e0]; show decodeBR N = _; rw [decodeBR, e1]; show (if bits N 18 5 == 0 then some (Instr.jr (guardAt N 20 19) (xreg N 0)) else none) = _
  simp only [e2, e3, e4, beq_self_eq_true, ↓reduceIte]

theorem ret (g : Guard) : Statement (.ret g) := by
  have hall : Fits [(4, 2), (4, 3), (3, g.pred.val), (1, b2n g.neg), (19, 0)] := all_cons (by decide) (all_cons (by decide) (all_cons (g.pred.isLt) (all_cons (b2n_lt g.neg) (all_cons (by decide) (all_nil)))))
  refine of_segs rfl [(4, 2), (4, 3), (3, g.pred.val), (1, b2n g.neg), (19, 0)] rfl trivial hall (by simp only [pack, hz, List.foldl]; omega) (fun N Q hN => ?_)
  have e0 : bits N 30 27 = 2 := bits_seg [] [(4, 2)] [(4, 3), (3, g.pred.val), (1, b2n g.neg), (19, 0)] hall hN rfl rfl rfl
  have e1 : bits N 26 23 = 3 := bits_seg [(4, 2)] [(4, 3)] [(3, g.pred.val), (1, b2n g.neg), (19, 0)] hall hN rfl rfl rfl
  have e2 : bits N 18 0 = 0 := bits_seg [(4, 2), (4, 3), (3, g.pred.val), (1, b2n g.neg)] [(19, 0)] [] hall hN rfl rfl rfl
  have e3 : guardAt N 20 19 = g := guardAt_eq (seg [(4, 2), (4, 3)] [(3, g.pred.val)] [(1, b2n g.neg), (19, 0)] hall hN (hz_one _ _)) (seg [(4, 2), (4, 3), (3, g.pred.val)] [(1, b2n g.neg)] [(19, 0)] hall hN (hz_one _ _))
  rw [decodeFields, e0]; show decodeBR N = _; rw [decodeBR, e1]; show (if bits N 18 0 == 0 then some (Instr.ret (guardAt N 20 19)) else none) = _
  simp only [e2, e3, beq_self_eq_true, ↓reduceIte]

theorem loop (g : Guard) (c : XReg) (o : BitVec 14) : Statement (.loop g c o) := by
  have hall : Fits [(4, 2), (4, 4), (3, g.pred.val), (1, b2n g.neg), (5, c.val), (14, o.toNat)] := all_cons (by decide) (all_cons (by decide) (all_cons (g.pred.isLt) (all_cons (b2n_lt g.neg) (all_cons (c.isLt) (all_cons (o.isLt) (all_nil))))))
  refine of_segs rfl [(4, 2), (4, 4), (3, g.pred.val), (1, b2n g.neg), (5, c.val), (14, o.toNat)] rfl trivial hall (by simp only [pack, hz, List.foldl]; omega) (fun N Q hN => ?_)
  have e0 : bits N 30 27 = 2 := bits_seg [] [(4, 2)] [(4, 4), (3, g.pred.val), (1, b2n g.neg), (5, c.val), (14, o.toNat)] hall hN rfl rfl rfl
  have e1 : bits N 26 23 = 4 := bits_seg [(4, 2)] [(4, 4)] [(3, g.pred.val), (1, b2n g.neg), (5, c.val), (14, o.toNat)] hall hN rfl rfl rfl
  have e2 : guardAt N 20 19 = g := guardAt_eq (seg [(4, 2), (4, 4)] [(3, g.pred.val)] [(1, b2n g.neg), (5, c.val), (14, o.toNat)] hall hN (hz_one _ _)) (seg [(4, 2), (4, 4), (3, g.pred.val)] [(1, b2n g.neg)] [(5, c.val), (14, o.toNat)] hall hN (hz_one _ _))
  have e3 : xreg N 14 = c := xreg_eq (seg [(4, 2), (4, 4), (3, g.pred.val), (1, b2n g.neg)] [(5, c.val)] [(14, o.toNat)] hall hN (hz_one _ _))
  have e4 : imm N 14 0 = o := imm_eq (seg [(4, 2), (4, 4), (3, g.pred.val), (1, b2n g.neg), (5, c.val)] [(14, o.toNat)] [] hall hN (hz_one _ _))
  rw [decodeFields, e0]; show decodeBR N = _; rw [decodeBR, e1]; show (some (Instr.loop (guardAt N 20 19) (xreg N 14) (imm N 14 0))) = _
  simp only [e2, e3, e4]

theorem ldl (z : Size) (d : XReg) (b : XReg) (o : BitVec 9) : Statement (.ldl z d b o) := by
  have hall : Fits [(4, 3), (6, 0), (2, z.code), (5, d.val), (5, b.val), (9, o.toNat)] := all_cons (by decide) (all_cons (by decide) (all_cons (Size.code_lt z) (all_cons (d.isLt) (all_cons (b.isLt) (all_cons (o.isLt) (all_nil))))))
  refine of_segs rfl [(4, 3), (6, 0), (2, z.code), (5, d.val), (5, b.val), (9, o.toNat)] rfl trivial hall (by simp only [pack, hz, List.foldl]; omega) (fun N Q hN => ?_)
  have e0 : bits N 30 27 = 3 := bits_seg [] [(4, 3)] [(6, 0), (2, z.code), (5, d.val), (5, b.val), (9, o.toNat)] hall hN rfl rfl rfl
  have e1 : bits N 26 21 = 0 := bits_seg [(4, 3)] [(6, 0)] [(2, z.code), (5, d.val), (5, b.val), (9, o.toNat)] hall hN rfl rfl rfl
  have e2 : bits N 20 19 = z.code := bits_seg [(4, 3), (6, 0)] [(2, z.code)] [(5, d.val), (5, b.val), (9, o.toNat)] hall hN (hz_one _ _) rfl rfl
  have e3 : xreg N 14 = d := xreg_eq (seg [(4, 3), (6, 0), (2, z.code)] [(5, d.val)] [(5, b.val), (9, o.toNat)] hall hN (hz_one _ _))
  have e4 : xreg N 9 = b := xreg_eq (seg [(4, 3), (6, 0), (2, z.code), (5, d.val)] [(5, b.val)] [(9, o.toNat)] hall hN (hz_one _ _))
  have e5 : imm N 9 0 = o := imm_eq (seg [(4, 3), (6, 0), (2, z.code), (5, d.val), (5, b.val)] [(9, o.toNat)] [] hall hN (hz_one _ _))
  rw [decodeFields, e0]; show decodeME N = _; rw [decodeME, e1]; show (some (Instr.ldl (Size.ofCode (bits N 20 19)) (xreg N 14) (xreg N 9) (imm N 9 0))) = _
  simp only [e2, e3, e4, e5, Size.ofCode_code]

theorem ldq (z : Size) (d : XReg) (b : XReg) (o : BitVec 9) : Statement (.ldq z d b o) := by
  have hall : Fits [(4, 3), (6, 8), (2, z.code), (5, d.val), (5, b.val), (9, o.toNat)] := all_cons (by decide) (all_cons (by decide) (all_cons (Size.code_lt z) (all_cons (d.isLt) (all_cons (b.isLt) (all_cons (o.isLt) (all_nil))))))
  refine of_segs rfl [(4, 3), (6, 8), (2, z.code), (5, d.val), (5, b.val), (9, o.toNat)] rfl trivial hall (by simp only [pack, hz, List.foldl]; omega) (fun N Q hN => ?_)
  have e0 : bits N 30 27 = 3 := bits_seg [] [(4, 3)] [(6, 8), (2, z.code), (5, d.val), (5, b.val), (9, o.toNat)] hall hN rfl rfl rfl
  have e1 : bits N 26 21 = 8 := bits_seg [(4, 3)] [(6, 8)] [(2, z.code), (5, d.val), (5, b.val), (9, o.toNat)] hall hN rfl rfl rfl
  have e2 : bits N 20 19 = z.code := bits_seg [(4, 3), (6, 8)] [(2, z.code)] [(5, d.val), (5, b.val), (9, o.toNat)] hall hN (hz_one _ _) rfl rfl
  have e3 : xreg N 14 = d := xreg_eq (seg [(4, 3), (6, 8), (2, z.code)] [(5, d.val)] [(5, b.val), (9, o.toNat)] hall hN (hz_one _ _))
  have e4 : xreg N 9 = b := xreg_eq (seg [(4, 3), (6, 8), (2, z.code), (5, d.val)] [(5, b.val)] [(9, o.toNat)] hall hN (hz_one _ _))
  have e5 : imm N 9 0 = o := imm_eq (seg [(4, 3), (6, 8), (2, z.code), (5, d.val), (5, b.val)] [(9, o.toNat)] [] hall hN (hz_one _ _))
  rw [decodeFields, e0]; show decodeME N = _; rw [decodeME, e1]; show (some (Instr.ldq (Size.ofCode (bits N 20 19)) (xreg N 14) (xreg N 9) (imm N 9 0))) = _
  simp only [e2, e3, e4, e5, Size.ofCode_code]

theorem ldo (z : Size) (d : XReg) (b : XReg) (o : BitVec 9) : Statement (.ldo z d b o) := by
  have hall : Fits [(4, 3), (6, 16), (2, z.code), (5, d.val), (5, b.val), (9, o.toNat)] := all_cons (by decide) (all_cons (by decide) (all_cons (Size.code_lt z) (all_cons (d.isLt) (all_cons (b.isLt) (all_cons (o.isLt) (all_nil))))))
  refine of_segs rfl [(4, 3), (6, 16), (2, z.code), (5, d.val), (5, b.val), (9, o.toNat)] rfl trivial hall (by simp only [pack, hz, List.foldl]; omega) (fun N Q hN => ?_)
  have e0 : bits N 30 27 = 3 := bits_seg [] [(4, 3)] [(6, 16), (2, z.code), (5, d.val), (5, b.val), (9, o.toNat)] hall hN rfl rfl rfl
  have e1 : bits N 26 21 = 16 := bits_seg [(4, 3)] [(6, 16)] [(2, z.code), (5, d.val), (5, b.val), (9, o.toNat)] hall hN rfl rfl rfl
  have e2 : bits N 20 19 = z.code := bits_seg [(4, 3), (6, 16)] [(2, z.code)] [(5, d.val), (5, b.val), (9, o.toNat)] hall hN (hz_one _ _) rfl rfl
  have e3 : xreg N 14 = d := xreg_eq (seg [(4, 3), (6, 16), (2, z.code)] [(5, d.val)] [(5, b.val), (9, o.toNat)] hall hN (hz_one _ _))
  have e4 : xreg N 9 = b := xreg_eq (seg [(4, 3), (6, 16), (2, z.code), (5, d.val)] [(5, b.val)] [(9, o.toNat)] hall hN (hz_one _ _))
  have e5 : imm N 9 0 = o := imm_eq (seg [(4, 3), (6, 16), (2, z.code), (5, d.val), (5, b.val)] [(9, o.toNat)] [] hall hN (hz_one _ _))
  rw [decodeFields, e0]; show decodeME N = _; rw [decodeME, e1]; show (some (Instr.ldo (Size.ofCode (bits N 20 19)) (xreg N 14) (xreg N 9) (imm N 9 0))) = _
  simp only [e2, e3, e4, e5, Size.ofCode_code]

theorem ldg (z : Size) (d : XReg) (b : XReg) (o : BitVec 9) : Statement (.ldg z d b o) := by
  have hall : Fits [(4, 3), (6, 24), (2, z.code), (5, d.val), (5, b.val), (9, o.toNat)] := all_cons (by decide) (all_cons (by decide) (all_cons (Size.code_lt z) (all_cons (d.isLt) (all_cons (b.isLt) (all_cons (o.isLt) (all_nil))))))
  refine of_segs rfl [(4, 3), (6, 24), (2, z.code), (5, d.val), (5, b.val), (9, o.toNat)] rfl trivial hall (by simp only [pack, hz, List.foldl]; omega) (fun N Q hN => ?_)
  have e0 : bits N 30 27 = 3 := bits_seg [] [(4, 3)] [(6, 24), (2, z.code), (5, d.val), (5, b.val), (9, o.toNat)] hall hN rfl rfl rfl
  have e1 : bits N 26 21 = 24 := bits_seg [(4, 3)] [(6, 24)] [(2, z.code), (5, d.val), (5, b.val), (9, o.toNat)] hall hN rfl rfl rfl
  have e2 : bits N 20 19 = z.code := bits_seg [(4, 3), (6, 24)] [(2, z.code)] [(5, d.val), (5, b.val), (9, o.toNat)] hall hN (hz_one _ _) rfl rfl
  have e3 : xreg N 14 = d := xreg_eq (seg [(4, 3), (6, 24), (2, z.code)] [(5, d.val)] [(5, b.val), (9, o.toNat)] hall hN (hz_one _ _))
  have e4 : xreg N 9 = b := xreg_eq (seg [(4, 3), (6, 24), (2, z.code), (5, d.val)] [(5, b.val)] [(9, o.toNat)] hall hN (hz_one _ _))
  have e5 : imm N 9 0 = o := imm_eq (seg [(4, 3), (6, 24), (2, z.code), (5, d.val), (5, b.val)] [(9, o.toNat)] [] hall hN (hz_one _ _))
  rw [decodeFields, e0]; show decodeME N = _; rw [decodeME, e1]; show (some (Instr.ldg (Size.ofCode (bits N 20 19)) (xreg N 14) (xreg N 9) (imm N 9 0))) = _
  simp only [e2, e3, e4, e5, Size.ofCode_code]

theorem ldf (z : Size) (d : XReg) (b : XReg) (o : BitVec 9) : Statement (.ldf z d b o) := by
  have hall : Fits [(4, 3), (6, 32), (2, z.code), (5, d.val), (5, b.val), (9, o.toNat)] := all_cons (by decide) (all_cons (by decide) (all_cons (Size.code_lt z) (all_cons (d.isLt) (all_cons (b.isLt) (all_cons (o.isLt) (all_nil))))))
  refine of_segs rfl [(4, 3), (6, 32), (2, z.code), (5, d.val), (5, b.val), (9, o.toNat)] rfl trivial hall (by simp only [pack, hz, List.foldl]; omega) (fun N Q hN => ?_)
  have e0 : bits N 30 27 = 3 := bits_seg [] [(4, 3)] [(6, 32), (2, z.code), (5, d.val), (5, b.val), (9, o.toNat)] hall hN rfl rfl rfl
  have e1 : bits N 26 21 = 32 := bits_seg [(4, 3)] [(6, 32)] [(2, z.code), (5, d.val), (5, b.val), (9, o.toNat)] hall hN rfl rfl rfl
  have e2 : bits N 20 19 = z.code := bits_seg [(4, 3), (6, 32)] [(2, z.code)] [(5, d.val), (5, b.val), (9, o.toNat)] hall hN (hz_one _ _) rfl rfl
  have e3 : xreg N 14 = d := xreg_eq (seg [(4, 3), (6, 32), (2, z.code)] [(5, d.val)] [(5, b.val), (9, o.toNat)] hall hN (hz_one _ _))
  have e4 : xreg N 9 = b := xreg_eq (seg [(4, 3), (6, 32), (2, z.code), (5, d.val)] [(5, b.val)] [(9, o.toNat)] hall hN (hz_one _ _))
  have e5 : imm N 9 0 = o := imm_eq (seg [(4, 3), (6, 32), (2, z.code), (5, d.val), (5, b.val)] [(9, o.toNat)] [] hall hN (hz_one _ _))
  rw [decodeFields, e0]; show decodeME N = _; rw [decodeME, e1]; show (some (Instr.ldf (Size.ofCode (bits N 20 19)) (xreg N 14) (xreg N 9) (imm N 9 0))) = _
  simp only [e2, e3, e4, e5, Size.ofCode_code]

theorem ldh (z : Size) (d : XReg) (b : XReg) (o : BitVec 9) : Statement (.ldh z d b o) := by
  have hall : Fits [(4, 3), (6, 40), (2, z.code), (5, d.val), (5, b.val), (9, o.toNat)] := all_cons (by decide) (all_cons (by decide) (all_cons (Size.code_lt z) (all_cons (d.isLt) (all_cons (b.isLt) (all_cons (o.isLt) (all_nil))))))
  refine of_segs rfl [(4, 3), (6, 40), (2, z.code), (5, d.val), (5, b.val), (9, o.toNat)] rfl trivial hall (by simp only [pack, hz, List.foldl]; omega) (fun N Q hN => ?_)
  have e0 : bits N 30 27 = 3 := bits_seg [] [(4, 3)] [(6, 40), (2, z.code), (5, d.val), (5, b.val), (9, o.toNat)] hall hN rfl rfl rfl
  have e1 : bits N 26 21 = 40 := bits_seg [(4, 3)] [(6, 40)] [(2, z.code), (5, d.val), (5, b.val), (9, o.toNat)] hall hN rfl rfl rfl
  have e2 : bits N 20 19 = z.code := bits_seg [(4, 3), (6, 40)] [(2, z.code)] [(5, d.val), (5, b.val), (9, o.toNat)] hall hN (hz_one _ _) rfl rfl
  have e3 : xreg N 14 = d := xreg_eq (seg [(4, 3), (6, 40), (2, z.code)] [(5, d.val)] [(5, b.val), (9, o.toNat)] hall hN (hz_one _ _))
  have e4 : xreg N 9 = b := xreg_eq (seg [(4, 3), (6, 40), (2, z.code), (5, d.val)] [(5, b.val)] [(9, o.toNat)] hall hN (hz_one _ _))
  have e5 : imm N 9 0 = o := imm_eq (seg [(4, 3), (6, 40), (2, z.code), (5, d.val), (5, b.val)] [(9, o.toNat)] [] hall hN (hz_one _ _))
  rw [decodeFields, e0]; show decodeME N = _; rw [decodeME, e1]; show (some (Instr.ldh (Size.ofCode (bits N 20 19)) (xreg N 14) (xreg N 9) (imm N 9 0))) = _
  simp only [e2, e3, e4, e5, Size.ofCode_code]

theorem stl (z : Size) (d : XReg) (b : XReg) (o : BitVec 9) : Statement (.stl z d b o) := by
  have hall : Fits [(4, 3), (6, 1), (2, z.code), (5, d.val), (5, b.val), (9, o.toNat)] := all_cons (by decide) (all_cons (by decide) (all_cons (Size.code_lt z) (all_cons (d.isLt) (all_cons (b.isLt) (all_cons (o.isLt) (all_nil))))))
  refine of_segs rfl [(4, 3), (6, 1), (2, z.code), (5, d.val), (5, b.val), (9, o.toNat)] rfl trivial hall (by simp only [pack, hz, List.foldl]; omega) (fun N Q hN => ?_)
  have e0 : bits N 30 27 = 3 := bits_seg [] [(4, 3)] [(6, 1), (2, z.code), (5, d.val), (5, b.val), (9, o.toNat)] hall hN rfl rfl rfl
  have e1 : bits N 26 21 = 1 := bits_seg [(4, 3)] [(6, 1)] [(2, z.code), (5, d.val), (5, b.val), (9, o.toNat)] hall hN rfl rfl rfl
  have e2 : bits N 20 19 = z.code := bits_seg [(4, 3), (6, 1)] [(2, z.code)] [(5, d.val), (5, b.val), (9, o.toNat)] hall hN (hz_one _ _) rfl rfl
  have e3 : xreg N 14 = d := xreg_eq (seg [(4, 3), (6, 1), (2, z.code)] [(5, d.val)] [(5, b.val), (9, o.toNat)] hall hN (hz_one _ _))
  have e4 : xreg N 9 = b := xreg_eq (seg [(4, 3), (6, 1), (2, z.code), (5, d.val)] [(5, b.val)] [(9, o.toNat)] hall hN (hz_one _ _))
  have e5 : imm N 9 0 = o := imm_eq (seg [(4, 3), (6, 1), (2, z.code), (5, d.val), (5, b.val)] [(9, o.toNat)] [] hall hN (hz_one _ _))
  rw [decodeFields, e0]; show decodeME N = _; rw [decodeME, e1]; show (some (Instr.stl (Size.ofCode (bits N 20 19)) (xreg N 14) (xreg N 9) (imm N 9 0))) = _
  simp only [e2, e3, e4, e5, Size.ofCode_code]

theorem stq (z : Size) (d : XReg) (b : XReg) (o : BitVec 9) : Statement (.stq z d b o) := by
  have hall : Fits [(4, 3), (6, 9), (2, z.code), (5, d.val), (5, b.val), (9, o.toNat)] := all_cons (by decide) (all_cons (by decide) (all_cons (Size.code_lt z) (all_cons (d.isLt) (all_cons (b.isLt) (all_cons (o.isLt) (all_nil))))))
  refine of_segs rfl [(4, 3), (6, 9), (2, z.code), (5, d.val), (5, b.val), (9, o.toNat)] rfl trivial hall (by simp only [pack, hz, List.foldl]; omega) (fun N Q hN => ?_)
  have e0 : bits N 30 27 = 3 := bits_seg [] [(4, 3)] [(6, 9), (2, z.code), (5, d.val), (5, b.val), (9, o.toNat)] hall hN rfl rfl rfl
  have e1 : bits N 26 21 = 9 := bits_seg [(4, 3)] [(6, 9)] [(2, z.code), (5, d.val), (5, b.val), (9, o.toNat)] hall hN rfl rfl rfl
  have e2 : bits N 20 19 = z.code := bits_seg [(4, 3), (6, 9)] [(2, z.code)] [(5, d.val), (5, b.val), (9, o.toNat)] hall hN (hz_one _ _) rfl rfl
  have e3 : xreg N 14 = d := xreg_eq (seg [(4, 3), (6, 9), (2, z.code)] [(5, d.val)] [(5, b.val), (9, o.toNat)] hall hN (hz_one _ _))
  have e4 : xreg N 9 = b := xreg_eq (seg [(4, 3), (6, 9), (2, z.code), (5, d.val)] [(5, b.val)] [(9, o.toNat)] hall hN (hz_one _ _))
  have e5 : imm N 9 0 = o := imm_eq (seg [(4, 3), (6, 9), (2, z.code), (5, d.val), (5, b.val)] [(9, o.toNat)] [] hall hN (hz_one _ _))
  rw [decodeFields, e0]; show decodeME N = _; rw [decodeME, e1]; show (some (Instr.stq (Size.ofCode (bits N 20 19)) (xreg N 14) (xreg N 9) (imm N 9 0))) = _
  simp only [e2, e3, e4, e5, Size.ofCode_code]

theorem sto (z : Size) (d : XReg) (b : XReg) (o : BitVec 9) : Statement (.sto z d b o) := by
  have hall : Fits [(4, 3), (6, 17), (2, z.code), (5, d.val), (5, b.val), (9, o.toNat)] := all_cons (by decide) (all_cons (by decide) (all_cons (Size.code_lt z) (all_cons (d.isLt) (all_cons (b.isLt) (all_cons (o.isLt) (all_nil))))))
  refine of_segs rfl [(4, 3), (6, 17), (2, z.code), (5, d.val), (5, b.val), (9, o.toNat)] rfl trivial hall (by simp only [pack, hz, List.foldl]; omega) (fun N Q hN => ?_)
  have e0 : bits N 30 27 = 3 := bits_seg [] [(4, 3)] [(6, 17), (2, z.code), (5, d.val), (5, b.val), (9, o.toNat)] hall hN rfl rfl rfl
  have e1 : bits N 26 21 = 17 := bits_seg [(4, 3)] [(6, 17)] [(2, z.code), (5, d.val), (5, b.val), (9, o.toNat)] hall hN rfl rfl rfl
  have e2 : bits N 20 19 = z.code := bits_seg [(4, 3), (6, 17)] [(2, z.code)] [(5, d.val), (5, b.val), (9, o.toNat)] hall hN (hz_one _ _) rfl rfl
  have e3 : xreg N 14 = d := xreg_eq (seg [(4, 3), (6, 17), (2, z.code)] [(5, d.val)] [(5, b.val), (9, o.toNat)] hall hN (hz_one _ _))
  have e4 : xreg N 9 = b := xreg_eq (seg [(4, 3), (6, 17), (2, z.code), (5, d.val)] [(5, b.val)] [(9, o.toNat)] hall hN (hz_one _ _))
  have e5 : imm N 9 0 = o := imm_eq (seg [(4, 3), (6, 17), (2, z.code), (5, d.val), (5, b.val)] [(9, o.toNat)] [] hall hN (hz_one _ _))
  rw [decodeFields, e0]; show decodeME N = _; rw [decodeME, e1]; show (some (Instr.sto (Size.ofCode (bits N 20 19)) (xreg N 14) (xreg N 9) (imm N 9 0))) = _
  simp only [e2, e3, e4, e5, Size.ofCode_code]

theorem stg (z : Size) (d : XReg) (b : XReg) (o : BitVec 9) : Statement (.stg z d b o) := by
  have hall : Fits [(4, 3), (6, 25), (2, z.code), (5, d.val), (5, b.val), (9, o.toNat)] := all_cons (by decide) (all_cons (by decide) (all_cons (Size.code_lt z) (all_cons (d.isLt) (all_cons (b.isLt) (all_cons (o.isLt) (all_nil))))))
  refine of_segs rfl [(4, 3), (6, 25), (2, z.code), (5, d.val), (5, b.val), (9, o.toNat)] rfl trivial hall (by simp only [pack, hz, List.foldl]; omega) (fun N Q hN => ?_)
  have e0 : bits N 30 27 = 3 := bits_seg [] [(4, 3)] [(6, 25), (2, z.code), (5, d.val), (5, b.val), (9, o.toNat)] hall hN rfl rfl rfl
  have e1 : bits N 26 21 = 25 := bits_seg [(4, 3)] [(6, 25)] [(2, z.code), (5, d.val), (5, b.val), (9, o.toNat)] hall hN rfl rfl rfl
  have e2 : bits N 20 19 = z.code := bits_seg [(4, 3), (6, 25)] [(2, z.code)] [(5, d.val), (5, b.val), (9, o.toNat)] hall hN (hz_one _ _) rfl rfl
  have e3 : xreg N 14 = d := xreg_eq (seg [(4, 3), (6, 25), (2, z.code)] [(5, d.val)] [(5, b.val), (9, o.toNat)] hall hN (hz_one _ _))
  have e4 : xreg N 9 = b := xreg_eq (seg [(4, 3), (6, 25), (2, z.code), (5, d.val)] [(5, b.val)] [(9, o.toNat)] hall hN (hz_one _ _))
  have e5 : imm N 9 0 = o := imm_eq (seg [(4, 3), (6, 25), (2, z.code), (5, d.val), (5, b.val)] [(9, o.toNat)] [] hall hN (hz_one _ _))
  rw [decodeFields, e0]; show decodeME N = _; rw [decodeME, e1]; show (some (Instr.stg (Size.ofCode (bits N 20 19)) (xreg N 14) (xreg N 9) (imm N 9 0))) = _
  simp only [e2, e3, e4, e5, Size.ofCode_code]

theorem stf (z : Size) (d : XReg) (b : XReg) (o : BitVec 9) : Statement (.stf z d b o) := by
  have hall : Fits [(4, 3), (6, 33), (2, z.code), (5, d.val), (5, b.val), (9, o.toNat)] := all_cons (by decide) (all_cons (by decide) (all_cons (Size.code_lt z) (all_cons (d.isLt) (all_cons (b.isLt) (all_cons (o.isLt) (all_nil))))))
  refine of_segs rfl [(4, 3), (6, 33), (2, z.code), (5, d.val), (5, b.val), (9, o.toNat)] rfl trivial hall (by simp only [pack, hz, List.foldl]; omega) (fun N Q hN => ?_)
  have e0 : bits N 30 27 = 3 := bits_seg [] [(4, 3)] [(6, 33), (2, z.code), (5, d.val), (5, b.val), (9, o.toNat)] hall hN rfl rfl rfl
  have e1 : bits N 26 21 = 33 := bits_seg [(4, 3)] [(6, 33)] [(2, z.code), (5, d.val), (5, b.val), (9, o.toNat)] hall hN rfl rfl rfl
  have e2 : bits N 20 19 = z.code := bits_seg [(4, 3), (6, 33)] [(2, z.code)] [(5, d.val), (5, b.val), (9, o.toNat)] hall hN (hz_one _ _) rfl rfl
  have e3 : xreg N 14 = d := xreg_eq (seg [(4, 3), (6, 33), (2, z.code)] [(5, d.val)] [(5, b.val), (9, o.toNat)] hall hN (hz_one _ _))
  have e4 : xreg N 9 = b := xreg_eq (seg [(4, 3), (6, 33), (2, z.code), (5, d.val)] [(5, b.val)] [(9, o.toNat)] hall hN (hz_one _ _))
  have e5 : imm N 9 0 = o := imm_eq (seg [(4, 3), (6, 33), (2, z.code), (5, d.val), (5, b.val)] [(9, o.toNat)] [] hall hN (hz_one _ _))
  rw [decodeFields, e0]; show decodeME N = _; rw [decodeME, e1]; show (some (Instr.stf (Size.ofCode (bits N 20 19)) (xreg N 14) (xreg N 9) (imm N 9 0))) = _
  simp only [e2, e3, e4, e5, Size.ofCode_code]

theorem sth (z : Size) (d : XReg) (b : XReg) (o : BitVec 9) : Statement (.sth z d b o) := by
  have hall : Fits [(4, 3), (6, 41), (2, z.code), (5, d.val), (5, b.val), (9, o.toNat)] := all_cons (by decide) (all_cons (by decide) (all_cons (Size.code_lt z) (all_cons (d.isLt) (all_cons (b.isLt) (all_cons (o.isLt) (all_nil))))))
  refine of_segs rfl [(4, 3), (6, 41), (2, z.code), (5, d.val), (5, b.val), (9, o.toNat)] rfl trivial hall (by simp only [pack, hz, List.foldl]; omega) (fun N Q hN => ?_)
  have e0 : bits N 30 27 = 3 := bits_seg [] [(4, 3)] [(6, 41), (2, z.code), (5, d.val), (5, b.val), (9, o.toNat)] hall hN rfl rfl rfl
  have e1 : bits N 26 21 = 41 := bits_seg [(4, 3)] [(6, 41)] [(2, z.code), (5, d.val), (5, b.val), (9, o.toNat)] hall hN rfl rfl rfl
  have e2 : bits N 20 19 = z.code := bits_seg [(4, 3), (6, 41)] [(2, z.code)] [(5, d.val), (5, b.val), (9, o.toNat)] hall hN (hz_one _ _) rfl rfl
  have e3 : xreg N 14 = d := xreg_eq (seg [(4, 3), (6, 41), (2, z.code)] [(5, d.val)] [(5, b.val), (9, o.toNat)] hall hN (hz_one _ _))
  have e4 : xreg N 9 = b := xreg_eq (seg [(4, 3), (6, 41), (2, z.code), (5, d.val)] [(5, b.val)] [(9, o.toNat)] hall hN (hz_one _ _))
  have e5 : imm N 9 0 = o := imm_eq (seg [(4, 3), (6, 41), (2, z.code), (5, d.val), (5, b.val)] [(9, o.toNat)] [] hall hN (hz_one _ _))
  rw [decodeFields, e0]; show decodeME N = _; rw [decodeME, e1]; show (some (Instr.sth (Size.ofCode (bits N 20 19)) (xreg N 14) (xreg N 9) (imm N 9 0))) = _
  simp only [e2, e3, e4, e5, Size.ofCode_code]

theorem amol (z : Bool) (d : XReg) (b : XReg) (u : AmoOp) (o : BitVec 6) : Statement (.amol z d b u o) := by
  have hall : Fits [(4, 3), (6, 2), (1, 1), (1, b2n z), (5, d.val), (5, b.val), (3, u.code), (6, o.toNat)] := all_cons (by decide) (all_cons (by decide) (all_cons (by decide) (all_cons (b2n_lt z) (all_cons (d.isLt) (all_cons (b.isLt) (all_cons (AmoOp.code_lt u) (all_cons (o.isLt) (all_nil))))))))
  refine of_segs rfl [(4, 3), (6, 2), (1, 1), (1, b2n z), (5, d.val), (5, b.val), (3, u.code), (6, o.toNat)] rfl trivial hall (by simp only [pack, hz, List.foldl]; omega) (fun N Q hN => ?_)
  have e0 : bits N 30 27 = 3 := bits_seg [] [(4, 3)] [(6, 2), (1, 1), (1, b2n z), (5, d.val), (5, b.val), (3, u.code), (6, o.toNat)] hall hN rfl rfl rfl
  have e1 : bits N 26 21 = 2 := bits_seg [(4, 3)] [(6, 2)] [(1, 1), (1, b2n z), (5, d.val), (5, b.val), (3, u.code), (6, o.toNat)] hall hN rfl rfl rfl
  have e2 : bits N 20 20 = 1 := bits_seg [(4, 3), (6, 2)] [(1, 1)] [(1, b2n z), (5, d.val), (5, b.val), (3, u.code), (6, o.toNat)] hall hN rfl rfl rfl
  have e3 : bits N 8 6 = u.code := bits_seg [(4, 3), (6, 2), (1, 1), (1, b2n z), (5, d.val), (5, b.val)] [(3, u.code)] [(6, o.toNat)] hall hN (hz_one _ _) rfl rfl
  have e4 : bit N 19 = z := bit_eq (seg [(4, 3), (6, 2), (1, 1)] [(1, b2n z)] [(5, d.val), (5, b.val), (3, u.code), (6, o.toNat)] hall hN (hz_one _ _))
  have e5 : xreg N 14 = d := xreg_eq (seg [(4, 3), (6, 2), (1, 1), (1, b2n z)] [(5, d.val)] [(5, b.val), (3, u.code), (6, o.toNat)] hall hN (hz_one _ _))
  have e6 : xreg N 9 = b := xreg_eq (seg [(4, 3), (6, 2), (1, 1), (1, b2n z), (5, d.val)] [(5, b.val)] [(3, u.code), (6, o.toNat)] hall hN (hz_one _ _))
  have e7 : imm N 6 0 = o := imm_eq (seg [(4, 3), (6, 2), (1, 1), (1, b2n z), (5, d.val), (5, b.val), (3, u.code)] [(6, o.toNat)] [] hall hN (hz_one _ _))
  rw [decodeFields, e0]; show decodeME N = _; rw [decodeME, e1]; show (if bits N 20 20 == 1 then some (Instr.amol (bit N 19) (xreg N 14) (xreg N 9) (AmoOp.ofCode (bits N 8 6)) (imm N 6 0)) else none) = _
  simp [e2, e3, e4, e5, e6, e7, AmoOp.ofCode_code, beq_self_eq_true, ↓reduceIte]

theorem amoq (z : Bool) (d : XReg) (b : XReg) (u : AmoOp) (o : BitVec 6) : Statement (.amoq z d b u o) := by
  have hall : Fits [(4, 3), (6, 10), (1, 1), (1, b2n z), (5, d.val), (5, b.val), (3, u.code), (6, o.toNat)] := all_cons (by decide) (all_cons (by decide) (all_cons (by decide) (all_cons (b2n_lt z) (all_cons (d.isLt) (all_cons (b.isLt) (all_cons (AmoOp.code_lt u) (all_cons (o.isLt) (all_nil))))))))
  refine of_segs rfl [(4, 3), (6, 10), (1, 1), (1, b2n z), (5, d.val), (5, b.val), (3, u.code), (6, o.toNat)] rfl trivial hall (by simp only [pack, hz, List.foldl]; omega) (fun N Q hN => ?_)
  have e0 : bits N 30 27 = 3 := bits_seg [] [(4, 3)] [(6, 10), (1, 1), (1, b2n z), (5, d.val), (5, b.val), (3, u.code), (6, o.toNat)] hall hN rfl rfl rfl
  have e1 : bits N 26 21 = 10 := bits_seg [(4, 3)] [(6, 10)] [(1, 1), (1, b2n z), (5, d.val), (5, b.val), (3, u.code), (6, o.toNat)] hall hN rfl rfl rfl
  have e2 : bits N 20 20 = 1 := bits_seg [(4, 3), (6, 10)] [(1, 1)] [(1, b2n z), (5, d.val), (5, b.val), (3, u.code), (6, o.toNat)] hall hN rfl rfl rfl
  have e3 : bits N 8 6 = u.code := bits_seg [(4, 3), (6, 10), (1, 1), (1, b2n z), (5, d.val), (5, b.val)] [(3, u.code)] [(6, o.toNat)] hall hN (hz_one _ _) rfl rfl
  have e4 : bit N 19 = z := bit_eq (seg [(4, 3), (6, 10), (1, 1)] [(1, b2n z)] [(5, d.val), (5, b.val), (3, u.code), (6, o.toNat)] hall hN (hz_one _ _))
  have e5 : xreg N 14 = d := xreg_eq (seg [(4, 3), (6, 10), (1, 1), (1, b2n z)] [(5, d.val)] [(5, b.val), (3, u.code), (6, o.toNat)] hall hN (hz_one _ _))
  have e6 : xreg N 9 = b := xreg_eq (seg [(4, 3), (6, 10), (1, 1), (1, b2n z), (5, d.val)] [(5, b.val)] [(3, u.code), (6, o.toNat)] hall hN (hz_one _ _))
  have e7 : imm N 6 0 = o := imm_eq (seg [(4, 3), (6, 10), (1, 1), (1, b2n z), (5, d.val), (5, b.val), (3, u.code)] [(6, o.toNat)] [] hall hN (hz_one _ _))
  rw [decodeFields, e0]; show decodeME N = _; rw [decodeME, e1]; show (if bits N 20 20 == 1 then some (Instr.amoq (bit N 19) (xreg N 14) (xreg N 9) (AmoOp.ofCode (bits N 8 6)) (imm N 6 0)) else none) = _
  simp [e2, e3, e4, e5, e6, e7, AmoOp.ofCode_code, beq_self_eq_true, ↓reduceIte]

theorem amoo (z : Bool) (d : XReg) (b : XReg) (u : AmoOp) (o : BitVec 6) : Statement (.amoo z d b u o) := by
  have hall : Fits [(4, 3), (6, 18), (1, 1), (1, b2n z), (5, d.val), (5, b.val), (3, u.code), (6, o.toNat)] := all_cons (by decide) (all_cons (by decide) (all_cons (by decide) (all_cons (b2n_lt z) (all_cons (d.isLt) (all_cons (b.isLt) (all_cons (AmoOp.code_lt u) (all_cons (o.isLt) (all_nil))))))))
  refine of_segs rfl [(4, 3), (6, 18), (1, 1), (1, b2n z), (5, d.val), (5, b.val), (3, u.code), (6, o.toNat)] rfl trivial hall (by simp only [pack, hz, List.foldl]; omega) (fun N Q hN => ?_)
  have e0 : bits N 30 27 = 3 := bits_seg [] [(4, 3)] [(6, 18), (1, 1), (1, b2n z), (5, d.val), (5, b.val), (3, u.code), (6, o.toNat)] hall hN rfl rfl rfl
  have e1 : bits N 26 21 = 18 := bits_seg [(4, 3)] [(6, 18)] [(1, 1), (1, b2n z), (5, d.val), (5, b.val), (3, u.code), (6, o.toNat)] hall hN rfl rfl rfl
  have e2 : bits N 20 20 = 1 := bits_seg [(4, 3), (6, 18)] [(1, 1)] [(1, b2n z), (5, d.val), (5, b.val), (3, u.code), (6, o.toNat)] hall hN rfl rfl rfl
  have e3 : bits N 8 6 = u.code := bits_seg [(4, 3), (6, 18), (1, 1), (1, b2n z), (5, d.val), (5, b.val)] [(3, u.code)] [(6, o.toNat)] hall hN (hz_one _ _) rfl rfl
  have e4 : bit N 19 = z := bit_eq (seg [(4, 3), (6, 18), (1, 1)] [(1, b2n z)] [(5, d.val), (5, b.val), (3, u.code), (6, o.toNat)] hall hN (hz_one _ _))
  have e5 : xreg N 14 = d := xreg_eq (seg [(4, 3), (6, 18), (1, 1), (1, b2n z)] [(5, d.val)] [(5, b.val), (3, u.code), (6, o.toNat)] hall hN (hz_one _ _))
  have e6 : xreg N 9 = b := xreg_eq (seg [(4, 3), (6, 18), (1, 1), (1, b2n z), (5, d.val)] [(5, b.val)] [(3, u.code), (6, o.toNat)] hall hN (hz_one _ _))
  have e7 : imm N 6 0 = o := imm_eq (seg [(4, 3), (6, 18), (1, 1), (1, b2n z), (5, d.val), (5, b.val), (3, u.code)] [(6, o.toNat)] [] hall hN (hz_one _ _))
  rw [decodeFields, e0]; show decodeME N = _; rw [decodeME, e1]; show (if bits N 20 20 == 1 then some (Instr.amoo (bit N 19) (xreg N 14) (xreg N 9) (AmoOp.ofCode (bits N 8 6)) (imm N 6 0)) else none) = _
  simp [e2, e3, e4, e5, e6, e7, AmoOp.ofCode_code, beq_self_eq_true, ↓reduceIte]

theorem amog (z : Bool) (d : XReg) (b : XReg) (u : AmoOp) (o : BitVec 6) : Statement (.amog z d b u o) := by
  have hall : Fits [(4, 3), (6, 26), (1, 1), (1, b2n z), (5, d.val), (5, b.val), (3, u.code), (6, o.toNat)] := all_cons (by decide) (all_cons (by decide) (all_cons (by decide) (all_cons (b2n_lt z) (all_cons (d.isLt) (all_cons (b.isLt) (all_cons (AmoOp.code_lt u) (all_cons (o.isLt) (all_nil))))))))
  refine of_segs rfl [(4, 3), (6, 26), (1, 1), (1, b2n z), (5, d.val), (5, b.val), (3, u.code), (6, o.toNat)] rfl trivial hall (by simp only [pack, hz, List.foldl]; omega) (fun N Q hN => ?_)
  have e0 : bits N 30 27 = 3 := bits_seg [] [(4, 3)] [(6, 26), (1, 1), (1, b2n z), (5, d.val), (5, b.val), (3, u.code), (6, o.toNat)] hall hN rfl rfl rfl
  have e1 : bits N 26 21 = 26 := bits_seg [(4, 3)] [(6, 26)] [(1, 1), (1, b2n z), (5, d.val), (5, b.val), (3, u.code), (6, o.toNat)] hall hN rfl rfl rfl
  have e2 : bits N 20 20 = 1 := bits_seg [(4, 3), (6, 26)] [(1, 1)] [(1, b2n z), (5, d.val), (5, b.val), (3, u.code), (6, o.toNat)] hall hN rfl rfl rfl
  have e3 : bits N 8 6 = u.code := bits_seg [(4, 3), (6, 26), (1, 1), (1, b2n z), (5, d.val), (5, b.val)] [(3, u.code)] [(6, o.toNat)] hall hN (hz_one _ _) rfl rfl
  have e4 : bit N 19 = z := bit_eq (seg [(4, 3), (6, 26), (1, 1)] [(1, b2n z)] [(5, d.val), (5, b.val), (3, u.code), (6, o.toNat)] hall hN (hz_one _ _))
  have e5 : xreg N 14 = d := xreg_eq (seg [(4, 3), (6, 26), (1, 1), (1, b2n z)] [(5, d.val)] [(5, b.val), (3, u.code), (6, o.toNat)] hall hN (hz_one _ _))
  have e6 : xreg N 9 = b := xreg_eq (seg [(4, 3), (6, 26), (1, 1), (1, b2n z), (5, d.val)] [(5, b.val)] [(3, u.code), (6, o.toNat)] hall hN (hz_one _ _))
  have e7 : imm N 6 0 = o := imm_eq (seg [(4, 3), (6, 26), (1, 1), (1, b2n z), (5, d.val), (5, b.val), (3, u.code)] [(6, o.toNat)] [] hall hN (hz_one _ _))
  rw [decodeFields, e0]; show decodeME N = _; rw [decodeME, e1]; show (if bits N 20 20 == 1 then some (Instr.amog (bit N 19) (xreg N 14) (xreg N 9) (AmoOp.ofCode (bits N 8 6)) (imm N 6 0)) else none) = _
  simp [e2, e3, e4, e5, e6, e7, AmoOp.ofCode_code, beq_self_eq_true, ↓reduceIte]

theorem pfg (l : XReg) (b : XReg) (o : BitVec 9) : Statement (.pfg l b o) := by
  have hall : Fits [(4, 3), (6, 27), (2, 0), (5, l.val), (5, b.val), (9, o.toNat)] := all_cons (by decide) (all_cons (by decide) (all_cons (by decide) (all_cons (l.isLt) (all_cons (b.isLt) (all_cons (o.isLt) (all_nil))))))
  refine of_segs rfl [(4, 3), (6, 27), (2, 0), (5, l.val), (5, b.val), (9, o.toNat)] rfl trivial hall (by simp only [pack, hz, List.foldl]; omega) (fun N Q hN => ?_)
  have e0 : bits N 30 27 = 3 := bits_seg [] [(4, 3)] [(6, 27), (2, 0), (5, l.val), (5, b.val), (9, o.toNat)] hall hN rfl rfl rfl
  have e1 : bits N 26 21 = 27 := bits_seg [(4, 3)] [(6, 27)] [(2, 0), (5, l.val), (5, b.val), (9, o.toNat)] hall hN rfl rfl rfl
  have e2 : bits N 20 19 = 0 := bits_seg [(4, 3), (6, 27)] [(2, 0)] [(5, l.val), (5, b.val), (9, o.toNat)] hall hN rfl rfl rfl
  have e3 : xreg N 14 = l := xreg_eq (seg [(4, 3), (6, 27), (2, 0)] [(5, l.val)] [(5, b.val), (9, o.toNat)] hall hN (hz_one _ _))
  have e4 : xreg N 9 = b := xreg_eq (seg [(4, 3), (6, 27), (2, 0), (5, l.val)] [(5, b.val)] [(9, o.toNat)] hall hN (hz_one _ _))
  have e5 : imm N 9 0 = o := imm_eq (seg [(4, 3), (6, 27), (2, 0), (5, l.val), (5, b.val)] [(9, o.toNat)] [] hall hN (hz_one _ _))
  rw [decodeFields, e0]; show decodeME N = _; rw [decodeME, e1]; show (if bits N 20 19 == 0 then some (Instr.pfg (xreg N 14) (xreg N 9) (imm N 9 0)) else none) = _
  simp only [e2, e3, e4, e5, beq_self_eq_true, ↓reduceIte]

theorem cwb (l : XReg) (b : XReg) (o : BitVec 9) : Statement (.cwb l b o) := by
  have hall : Fits [(4, 3), (6, 28), (2, 0), (5, l.val), (5, b.val), (9, o.toNat)] := all_cons (by decide) (all_cons (by decide) (all_cons (by decide) (all_cons (l.isLt) (all_cons (b.isLt) (all_cons (o.isLt) (all_nil))))))
  refine of_segs rfl [(4, 3), (6, 28), (2, 0), (5, l.val), (5, b.val), (9, o.toNat)] rfl trivial hall (by simp only [pack, hz, List.foldl]; omega) (fun N Q hN => ?_)
  have e0 : bits N 30 27 = 3 := bits_seg [] [(4, 3)] [(6, 28), (2, 0), (5, l.val), (5, b.val), (9, o.toNat)] hall hN rfl rfl rfl
  have e1 : bits N 26 21 = 28 := bits_seg [(4, 3)] [(6, 28)] [(2, 0), (5, l.val), (5, b.val), (9, o.toNat)] hall hN rfl rfl rfl
  have e2 : bits N 20 19 = 0 := bits_seg [(4, 3), (6, 28)] [(2, 0)] [(5, l.val), (5, b.val), (9, o.toNat)] hall hN rfl rfl rfl
  have e3 : xreg N 14 = l := xreg_eq (seg [(4, 3), (6, 28), (2, 0)] [(5, l.val)] [(5, b.val), (9, o.toNat)] hall hN (hz_one _ _))
  have e4 : xreg N 9 = b := xreg_eq (seg [(4, 3), (6, 28), (2, 0), (5, l.val)] [(5, b.val)] [(9, o.toNat)] hall hN (hz_one _ _))
  have e5 : imm N 9 0 = o := imm_eq (seg [(4, 3), (6, 28), (2, 0), (5, l.val), (5, b.val)] [(9, o.toNat)] [] hall hN (hz_one _ _))
  rw [decodeFields, e0]; show decodeME N = _; rw [decodeME, e1]; show (if bits N 20 19 == 0 then some (Instr.cwb (xreg N 14) (xreg N 9) (imm N 9 0)) else none) = _
  simp only [e2, e3, e4, e5, beq_self_eq_true, ↓reduceIte]

theorem cinv (l : XReg) (b : XReg) (o : BitVec 9) : Statement (.cinv l b o) := by
  have hall : Fits [(4, 3), (6, 29), (2, 0), (5, l.val), (5, b.val), (9, o.toNat)] := all_cons (by decide) (all_cons (by decide) (all_cons (by decide) (all_cons (l.isLt) (all_cons (b.isLt) (all_cons (o.isLt) (all_nil))))))
  refine of_segs rfl [(4, 3), (6, 29), (2, 0), (5, l.val), (5, b.val), (9, o.toNat)] rfl trivial hall (by simp only [pack, hz, List.foldl]; omega) (fun N Q hN => ?_)
  have e0 : bits N 30 27 = 3 := bits_seg [] [(4, 3)] [(6, 29), (2, 0), (5, l.val), (5, b.val), (9, o.toNat)] hall hN rfl rfl rfl
  have e1 : bits N 26 21 = 29 := bits_seg [(4, 3)] [(6, 29)] [(2, 0), (5, l.val), (5, b.val), (9, o.toNat)] hall hN rfl rfl rfl
  have e2 : bits N 20 19 = 0 := bits_seg [(4, 3), (6, 29)] [(2, 0)] [(5, l.val), (5, b.val), (9, o.toNat)] hall hN rfl rfl rfl
  have e3 : xreg N 14 = l := xreg_eq (seg [(4, 3), (6, 29), (2, 0)] [(5, l.val)] [(5, b.val), (9, o.toNat)] hall hN (hz_one _ _))
  have e4 : xreg N 9 = b := xreg_eq (seg [(4, 3), (6, 29), (2, 0), (5, l.val)] [(5, b.val)] [(9, o.toNat)] hall hN (hz_one _ _))
  have e5 : imm N 9 0 = o := imm_eq (seg [(4, 3), (6, 29), (2, 0), (5, l.val), (5, b.val)] [(9, o.toNat)] [] hall hN (hz_one _ _))
  rw [decodeFields, e0]; show decodeME N = _; rw [decodeME, e1]; show (if bits N 20 19 == 0 then some (Instr.cinv (xreg N 14) (xreg N 9) (imm N 9 0)) else none) = _
  simp only [e2, e3, e4, e5, beq_self_eq_true, ↓reduceIte]

theorem hfence : Statement (.hfence) := by
  have hall : Fits [(4, 3), (6, 46), (21, 0)] := all_cons (by decide) (all_cons (by decide) (all_cons (by decide) (all_nil)))
  refine of_segs rfl [(4, 3), (6, 46), (21, 0)] rfl trivial hall (by simp only [pack, hz, List.foldl]; omega) (fun N Q hN => ?_)
  have e0 : bits N 30 27 = 3 := bits_seg [] [(4, 3)] [(6, 46), (21, 0)] hall hN rfl rfl rfl
  have e1 : bits N 26 21 = 46 := bits_seg [(4, 3)] [(6, 46)] [(21, 0)] hall hN rfl rfl rfl
  have e2 : bits N 20 0 = 0 := bits_seg [(4, 3), (6, 46)] [(21, 0)] [] hall hN rfl rfl rfl
  rw [decodeFields, e0]; show decodeME N = _; rw [decodeME, e1]; show (if bits N 20 0 == 0 then some Instr.hfence else none) = _
  simp only [e2, beq_self_eq_true, ↓reduceIte]

theorem efence : Statement (.efence) := by
  have hall : Fits [(4, 3), (6, 7), (21, 0)] := all_cons (by decide) (all_cons (by decide) (all_cons (by decide) (all_nil)))
  refine of_segs rfl [(4, 3), (6, 7), (21, 0)] rfl trivial hall (by simp only [pack, hz, List.foldl]; omega) (fun N Q hN => ?_)
  have e0 : bits N 30 27 = 3 := bits_seg [] [(4, 3)] [(6, 7), (21, 0)] hall hN rfl rfl rfl
  have e1 : bits N 26 21 = 7 := bits_seg [(4, 3)] [(6, 7)] [(21, 0)] hall hN rfl rfl rfl
  have e2 : bits N 20 0 = 0 := bits_seg [(4, 3), (6, 7)] [(21, 0)] [] hall hN rfl rfl rfl
  rw [decodeFields, e0]; show decodeME N = _; rw [decodeME, e1]; show (if bits N 20 0 == 0 then some Instr.efence else none) = _
  simp only [e2, beq_self_eq_true, ↓reduceIte]

theorem vadd (t : ElemTy) (d : VReg) (a : VReg) (b : VReg) (k : Bool) : Statement (.vadd t d a b k) := by
  have hall : Fits [(4, 5), (7, 0), (4, t.code), (5, d.val), (5, a.val), (5, b.val), (1, b2n k)] := all_cons (by decide) (all_cons (by decide) (all_cons (ElemTy.code_lt t) (all_cons (d.isLt) (all_cons (a.isLt) (all_cons (b.isLt) (all_cons (b2n_lt k) (all_nil)))))))
  refine of_segs rfl [(4, 5), (7, 0), (4, t.code), (5, d.val), (5, a.val), (5, b.val), (1, b2n k)] rfl trivial hall (by simp only [pack, hz, List.foldl]; omega) (fun N Q hN => ?_)
  have e0 : bits N 30 27 = 5 := bits_seg [] [(4, 5)] [(7, 0), (4, t.code), (5, d.val), (5, a.val), (5, b.val), (1, b2n k)] hall hN rfl rfl rfl
  have e1 : bits N 26 20 = 0 := bits_seg [(4, 5)] [(7, 0)] [(4, t.code), (5, d.val), (5, a.val), (5, b.val), (1, b2n k)] hall hN rfl rfl rfl
  have e2 : bits N 19 16 = t.code := bits_seg [(4, 5), (7, 0)] [(4, t.code)] [(5, d.val), (5, a.val), (5, b.val), (1, b2n k)] hall hN (hz_one _ _) rfl rfl
  have e3 : xreg N 11 = d := xreg_eq (seg [(4, 5), (7, 0), (4, t.code)] [(5, d.val)] [(5, a.val), (5, b.val), (1, b2n k)] hall hN (hz_one _ _))
  have e4 : xreg N 6 = a := xreg_eq (seg [(4, 5), (7, 0), (4, t.code), (5, d.val)] [(5, a.val)] [(5, b.val), (1, b2n k)] hall hN (hz_one _ _))
  have e5 : xreg N 1 = b := xreg_eq (seg [(4, 5), (7, 0), (4, t.code), (5, d.val), (5, a.val)] [(5, b.val)] [(1, b2n k)] hall hN (hz_one _ _))
  have e6 : bit N 0 = k := bit_eq (seg [(4, 5), (7, 0), (4, t.code), (5, d.val), (5, a.val), (5, b.val)] [(1, b2n k)] [] hall hN (hz_one _ _))
  rw [decodeFields, e0]; show decodeVR N = _; rw [decodeVR, e1]; show ((ElemTy.ofCode (bits N 19 16)).bind (fun t => some (Instr.vadd t (xreg N 11) (xreg N 6) (xreg N 1) (bit N 0)))) = _
  simp only [e2, e3, e4, e5, e6, ElemTy.ofCode_code, Option.bind_some]

theorem vsub (t : ElemTy) (d : VReg) (a : VReg) (b : VReg) (k : Bool) : Statement (.vsub t d a b k) := by
  have hall : Fits [(4, 5), (7, 1), (4, t.code), (5, d.val), (5, a.val), (5, b.val), (1, b2n k)] := all_cons (by decide) (all_cons (by decide) (all_cons (ElemTy.code_lt t) (all_cons (d.isLt) (all_cons (a.isLt) (all_cons (b.isLt) (all_cons (b2n_lt k) (all_nil)))))))
  refine of_segs rfl [(4, 5), (7, 1), (4, t.code), (5, d.val), (5, a.val), (5, b.val), (1, b2n k)] rfl trivial hall (by simp only [pack, hz, List.foldl]; omega) (fun N Q hN => ?_)
  have e0 : bits N 30 27 = 5 := bits_seg [] [(4, 5)] [(7, 1), (4, t.code), (5, d.val), (5, a.val), (5, b.val), (1, b2n k)] hall hN rfl rfl rfl
  have e1 : bits N 26 20 = 1 := bits_seg [(4, 5)] [(7, 1)] [(4, t.code), (5, d.val), (5, a.val), (5, b.val), (1, b2n k)] hall hN rfl rfl rfl
  have e2 : bits N 19 16 = t.code := bits_seg [(4, 5), (7, 1)] [(4, t.code)] [(5, d.val), (5, a.val), (5, b.val), (1, b2n k)] hall hN (hz_one _ _) rfl rfl
  have e3 : xreg N 11 = d := xreg_eq (seg [(4, 5), (7, 1), (4, t.code)] [(5, d.val)] [(5, a.val), (5, b.val), (1, b2n k)] hall hN (hz_one _ _))
  have e4 : xreg N 6 = a := xreg_eq (seg [(4, 5), (7, 1), (4, t.code), (5, d.val)] [(5, a.val)] [(5, b.val), (1, b2n k)] hall hN (hz_one _ _))
  have e5 : xreg N 1 = b := xreg_eq (seg [(4, 5), (7, 1), (4, t.code), (5, d.val), (5, a.val)] [(5, b.val)] [(1, b2n k)] hall hN (hz_one _ _))
  have e6 : bit N 0 = k := bit_eq (seg [(4, 5), (7, 1), (4, t.code), (5, d.val), (5, a.val), (5, b.val)] [(1, b2n k)] [] hall hN (hz_one _ _))
  rw [decodeFields, e0]; show decodeVR N = _; rw [decodeVR, e1]; show ((ElemTy.ofCode (bits N 19 16)).bind (fun t => some (Instr.vsub t (xreg N 11) (xreg N 6) (xreg N 1) (bit N 0)))) = _
  simp only [e2, e3, e4, e5, e6, ElemTy.ofCode_code, Option.bind_some]

theorem vmul (t : ElemTy) (d : VReg) (a : VReg) (b : VReg) (k : Bool) : Statement (.vmul t d a b k) := by
  have hall : Fits [(4, 5), (7, 2), (4, t.code), (5, d.val), (5, a.val), (5, b.val), (1, b2n k)] := all_cons (by decide) (all_cons (by decide) (all_cons (ElemTy.code_lt t) (all_cons (d.isLt) (all_cons (a.isLt) (all_cons (b.isLt) (all_cons (b2n_lt k) (all_nil)))))))
  refine of_segs rfl [(4, 5), (7, 2), (4, t.code), (5, d.val), (5, a.val), (5, b.val), (1, b2n k)] rfl trivial hall (by simp only [pack, hz, List.foldl]; omega) (fun N Q hN => ?_)
  have e0 : bits N 30 27 = 5 := bits_seg [] [(4, 5)] [(7, 2), (4, t.code), (5, d.val), (5, a.val), (5, b.val), (1, b2n k)] hall hN rfl rfl rfl
  have e1 : bits N 26 20 = 2 := bits_seg [(4, 5)] [(7, 2)] [(4, t.code), (5, d.val), (5, a.val), (5, b.val), (1, b2n k)] hall hN rfl rfl rfl
  have e2 : bits N 19 16 = t.code := bits_seg [(4, 5), (7, 2)] [(4, t.code)] [(5, d.val), (5, a.val), (5, b.val), (1, b2n k)] hall hN (hz_one _ _) rfl rfl
  have e3 : xreg N 11 = d := xreg_eq (seg [(4, 5), (7, 2), (4, t.code)] [(5, d.val)] [(5, a.val), (5, b.val), (1, b2n k)] hall hN (hz_one _ _))
  have e4 : xreg N 6 = a := xreg_eq (seg [(4, 5), (7, 2), (4, t.code), (5, d.val)] [(5, a.val)] [(5, b.val), (1, b2n k)] hall hN (hz_one _ _))
  have e5 : xreg N 1 = b := xreg_eq (seg [(4, 5), (7, 2), (4, t.code), (5, d.val), (5, a.val)] [(5, b.val)] [(1, b2n k)] hall hN (hz_one _ _))
  have e6 : bit N 0 = k := bit_eq (seg [(4, 5), (7, 2), (4, t.code), (5, d.val), (5, a.val), (5, b.val)] [(1, b2n k)] [] hall hN (hz_one _ _))
  rw [decodeFields, e0]; show decodeVR N = _; rw [decodeVR, e1]; show ((ElemTy.ofCode (bits N 19 16)).bind (fun t => some (Instr.vmul t (xreg N 11) (xreg N 6) (xreg N 1) (bit N 0)))) = _
  simp only [e2, e3, e4, e5, e6, ElemTy.ofCode_code, Option.bind_some]

theorem vfma (t : ElemTy) (d : VReg) (a : VReg) (b : VReg) (k : Bool) : Statement (.vfma t d a b k) := by
  have hall : Fits [(4, 5), (7, 3), (4, t.code), (5, d.val), (5, a.val), (5, b.val), (1, b2n k)] := all_cons (by decide) (all_cons (by decide) (all_cons (ElemTy.code_lt t) (all_cons (d.isLt) (all_cons (a.isLt) (all_cons (b.isLt) (all_cons (b2n_lt k) (all_nil)))))))
  refine of_segs rfl [(4, 5), (7, 3), (4, t.code), (5, d.val), (5, a.val), (5, b.val), (1, b2n k)] rfl trivial hall (by simp only [pack, hz, List.foldl]; omega) (fun N Q hN => ?_)
  have e0 : bits N 30 27 = 5 := bits_seg [] [(4, 5)] [(7, 3), (4, t.code), (5, d.val), (5, a.val), (5, b.val), (1, b2n k)] hall hN rfl rfl rfl
  have e1 : bits N 26 20 = 3 := bits_seg [(4, 5)] [(7, 3)] [(4, t.code), (5, d.val), (5, a.val), (5, b.val), (1, b2n k)] hall hN rfl rfl rfl
  have e2 : bits N 19 16 = t.code := bits_seg [(4, 5), (7, 3)] [(4, t.code)] [(5, d.val), (5, a.val), (5, b.val), (1, b2n k)] hall hN (hz_one _ _) rfl rfl
  have e3 : xreg N 11 = d := xreg_eq (seg [(4, 5), (7, 3), (4, t.code)] [(5, d.val)] [(5, a.val), (5, b.val), (1, b2n k)] hall hN (hz_one _ _))
  have e4 : xreg N 6 = a := xreg_eq (seg [(4, 5), (7, 3), (4, t.code), (5, d.val)] [(5, a.val)] [(5, b.val), (1, b2n k)] hall hN (hz_one _ _))
  have e5 : xreg N 1 = b := xreg_eq (seg [(4, 5), (7, 3), (4, t.code), (5, d.val), (5, a.val)] [(5, b.val)] [(1, b2n k)] hall hN (hz_one _ _))
  have e6 : bit N 0 = k := bit_eq (seg [(4, 5), (7, 3), (4, t.code), (5, d.val), (5, a.val), (5, b.val)] [(1, b2n k)] [] hall hN (hz_one _ _))
  rw [decodeFields, e0]; show decodeVR N = _; rw [decodeVR, e1]; show ((ElemTy.ofCode (bits N 19 16)).bind (fun t => some (Instr.vfma t (xreg N 11) (xreg N 6) (xreg N 1) (bit N 0)))) = _
  simp only [e2, e3, e4, e5, e6, ElemTy.ofCode_code, Option.bind_some]

theorem vfms (t : ElemTy) (d : VReg) (a : VReg) (b : VReg) (k : Bool) : Statement (.vfms t d a b k) := by
  have hall : Fits [(4, 5), (7, 4), (4, t.code), (5, d.val), (5, a.val), (5, b.val), (1, b2n k)] := all_cons (by decide) (all_cons (by decide) (all_cons (ElemTy.code_lt t) (all_cons (d.isLt) (all_cons (a.isLt) (all_cons (b.isLt) (all_cons (b2n_lt k) (all_nil)))))))
  refine of_segs rfl [(4, 5), (7, 4), (4, t.code), (5, d.val), (5, a.val), (5, b.val), (1, b2n k)] rfl trivial hall (by simp only [pack, hz, List.foldl]; omega) (fun N Q hN => ?_)
  have e0 : bits N 30 27 = 5 := bits_seg [] [(4, 5)] [(7, 4), (4, t.code), (5, d.val), (5, a.val), (5, b.val), (1, b2n k)] hall hN rfl rfl rfl
  have e1 : bits N 26 20 = 4 := bits_seg [(4, 5)] [(7, 4)] [(4, t.code), (5, d.val), (5, a.val), (5, b.val), (1, b2n k)] hall hN rfl rfl rfl
  have e2 : bits N 19 16 = t.code := bits_seg [(4, 5), (7, 4)] [(4, t.code)] [(5, d.val), (5, a.val), (5, b.val), (1, b2n k)] hall hN (hz_one _ _) rfl rfl
  have e3 : xreg N 11 = d := xreg_eq (seg [(4, 5), (7, 4), (4, t.code)] [(5, d.val)] [(5, a.val), (5, b.val), (1, b2n k)] hall hN (hz_one _ _))
  have e4 : xreg N 6 = a := xreg_eq (seg [(4, 5), (7, 4), (4, t.code), (5, d.val)] [(5, a.val)] [(5, b.val), (1, b2n k)] hall hN (hz_one _ _))
  have e5 : xreg N 1 = b := xreg_eq (seg [(4, 5), (7, 4), (4, t.code), (5, d.val), (5, a.val)] [(5, b.val)] [(1, b2n k)] hall hN (hz_one _ _))
  have e6 : bit N 0 = k := bit_eq (seg [(4, 5), (7, 4), (4, t.code), (5, d.val), (5, a.val), (5, b.val)] [(1, b2n k)] [] hall hN (hz_one _ _))
  rw [decodeFields, e0]; show decodeVR N = _; rw [decodeVR, e1]; show ((ElemTy.ofCode (bits N 19 16)).bind (fun t => some (Instr.vfms t (xreg N 11) (xreg N 6) (xreg N 1) (bit N 0)))) = _
  simp only [e2, e3, e4, e5, e6, ElemTy.ofCode_code, Option.bind_some]

theorem vmin (t : ElemTy) (d : VReg) (a : VReg) (b : VReg) (k : Bool) : Statement (.vmin t d a b k) := by
  have hall : Fits [(4, 5), (7, 5), (4, t.code), (5, d.val), (5, a.val), (5, b.val), (1, b2n k)] := all_cons (by decide) (all_cons (by decide) (all_cons (ElemTy.code_lt t) (all_cons (d.isLt) (all_cons (a.isLt) (all_cons (b.isLt) (all_cons (b2n_lt k) (all_nil)))))))
  refine of_segs rfl [(4, 5), (7, 5), (4, t.code), (5, d.val), (5, a.val), (5, b.val), (1, b2n k)] rfl trivial hall (by simp only [pack, hz, List.foldl]; omega) (fun N Q hN => ?_)
  have e0 : bits N 30 27 = 5 := bits_seg [] [(4, 5)] [(7, 5), (4, t.code), (5, d.val), (5, a.val), (5, b.val), (1, b2n k)] hall hN rfl rfl rfl
  have e1 : bits N 26 20 = 5 := bits_seg [(4, 5)] [(7, 5)] [(4, t.code), (5, d.val), (5, a.val), (5, b.val), (1, b2n k)] hall hN rfl rfl rfl
  have e2 : bits N 19 16 = t.code := bits_seg [(4, 5), (7, 5)] [(4, t.code)] [(5, d.val), (5, a.val), (5, b.val), (1, b2n k)] hall hN (hz_one _ _) rfl rfl
  have e3 : xreg N 11 = d := xreg_eq (seg [(4, 5), (7, 5), (4, t.code)] [(5, d.val)] [(5, a.val), (5, b.val), (1, b2n k)] hall hN (hz_one _ _))
  have e4 : xreg N 6 = a := xreg_eq (seg [(4, 5), (7, 5), (4, t.code), (5, d.val)] [(5, a.val)] [(5, b.val), (1, b2n k)] hall hN (hz_one _ _))
  have e5 : xreg N 1 = b := xreg_eq (seg [(4, 5), (7, 5), (4, t.code), (5, d.val), (5, a.val)] [(5, b.val)] [(1, b2n k)] hall hN (hz_one _ _))
  have e6 : bit N 0 = k := bit_eq (seg [(4, 5), (7, 5), (4, t.code), (5, d.val), (5, a.val), (5, b.val)] [(1, b2n k)] [] hall hN (hz_one _ _))
  rw [decodeFields, e0]; show decodeVR N = _; rw [decodeVR, e1]; show ((ElemTy.ofCode (bits N 19 16)).bind (fun t => some (Instr.vmin t (xreg N 11) (xreg N 6) (xreg N 1) (bit N 0)))) = _
  simp only [e2, e3, e4, e5, e6, ElemTy.ofCode_code, Option.bind_some]

theorem vmax (t : ElemTy) (d : VReg) (a : VReg) (b : VReg) (k : Bool) : Statement (.vmax t d a b k) := by
  have hall : Fits [(4, 5), (7, 6), (4, t.code), (5, d.val), (5, a.val), (5, b.val), (1, b2n k)] := all_cons (by decide) (all_cons (by decide) (all_cons (ElemTy.code_lt t) (all_cons (d.isLt) (all_cons (a.isLt) (all_cons (b.isLt) (all_cons (b2n_lt k) (all_nil)))))))
  refine of_segs rfl [(4, 5), (7, 6), (4, t.code), (5, d.val), (5, a.val), (5, b.val), (1, b2n k)] rfl trivial hall (by simp only [pack, hz, List.foldl]; omega) (fun N Q hN => ?_)
  have e0 : bits N 30 27 = 5 := bits_seg [] [(4, 5)] [(7, 6), (4, t.code), (5, d.val), (5, a.val), (5, b.val), (1, b2n k)] hall hN rfl rfl rfl
  have e1 : bits N 26 20 = 6 := bits_seg [(4, 5)] [(7, 6)] [(4, t.code), (5, d.val), (5, a.val), (5, b.val), (1, b2n k)] hall hN rfl rfl rfl
  have e2 : bits N 19 16 = t.code := bits_seg [(4, 5), (7, 6)] [(4, t.code)] [(5, d.val), (5, a.val), (5, b.val), (1, b2n k)] hall hN (hz_one _ _) rfl rfl
  have e3 : xreg N 11 = d := xreg_eq (seg [(4, 5), (7, 6), (4, t.code)] [(5, d.val)] [(5, a.val), (5, b.val), (1, b2n k)] hall hN (hz_one _ _))
  have e4 : xreg N 6 = a := xreg_eq (seg [(4, 5), (7, 6), (4, t.code), (5, d.val)] [(5, a.val)] [(5, b.val), (1, b2n k)] hall hN (hz_one _ _))
  have e5 : xreg N 1 = b := xreg_eq (seg [(4, 5), (7, 6), (4, t.code), (5, d.val), (5, a.val)] [(5, b.val)] [(1, b2n k)] hall hN (hz_one _ _))
  have e6 : bit N 0 = k := bit_eq (seg [(4, 5), (7, 6), (4, t.code), (5, d.val), (5, a.val), (5, b.val)] [(1, b2n k)] [] hall hN (hz_one _ _))
  rw [decodeFields, e0]; show decodeVR N = _; rw [decodeVR, e1]; show ((ElemTy.ofCode (bits N 19 16)).bind (fun t => some (Instr.vmax t (xreg N 11) (xreg N 6) (xreg N 1) (bit N 0)))) = _
  simp only [e2, e3, e4, e5, e6, ElemTy.ofCode_code, Option.bind_some]

theorem vabs (t : ElemTy) (d : VReg) (a : VReg) (k : Bool) : Statement (.vabs t d a k) := by
  have hall : Fits [(4, 5), (7, 7), (4, t.code), (5, d.val), (5, a.val), (5, 0), (1, b2n k)] := all_cons (by decide) (all_cons (by decide) (all_cons (ElemTy.code_lt t) (all_cons (d.isLt) (all_cons (a.isLt) (all_cons (by decide) (all_cons (b2n_lt k) (all_nil)))))))
  refine of_segs rfl [(4, 5), (7, 7), (4, t.code), (5, d.val), (5, a.val), (5, 0), (1, b2n k)] rfl trivial hall (by simp only [pack, hz, List.foldl]; omega) (fun N Q hN => ?_)
  have e0 : bits N 30 27 = 5 := bits_seg [] [(4, 5)] [(7, 7), (4, t.code), (5, d.val), (5, a.val), (5, 0), (1, b2n k)] hall hN rfl rfl rfl
  have e1 : bits N 26 20 = 7 := bits_seg [(4, 5)] [(7, 7)] [(4, t.code), (5, d.val), (5, a.val), (5, 0), (1, b2n k)] hall hN rfl rfl rfl
  have e2 : bits N 5 1 = 0 := bits_seg [(4, 5), (7, 7), (4, t.code), (5, d.val), (5, a.val)] [(5, 0)] [(1, b2n k)] hall hN rfl rfl rfl
  have e3 : bits N 19 16 = t.code := bits_seg [(4, 5), (7, 7)] [(4, t.code)] [(5, d.val), (5, a.val), (5, 0), (1, b2n k)] hall hN (hz_one _ _) rfl rfl
  have e4 : xreg N 11 = d := xreg_eq (seg [(4, 5), (7, 7), (4, t.code)] [(5, d.val)] [(5, a.val), (5, 0), (1, b2n k)] hall hN (hz_one _ _))
  have e5 : xreg N 6 = a := xreg_eq (seg [(4, 5), (7, 7), (4, t.code), (5, d.val)] [(5, a.val)] [(5, 0), (1, b2n k)] hall hN (hz_one _ _))
  have e6 : bit N 0 = k := bit_eq (seg [(4, 5), (7, 7), (4, t.code), (5, d.val), (5, a.val), (5, 0)] [(1, b2n k)] [] hall hN (hz_one _ _))
  rw [decodeFields, e0]; show decodeVR N = _; rw [decodeVR, e1]; show (if bits N 5 1 == 0 then (ElemTy.ofCode (bits N 19 16)).bind (fun t => some (Instr.vabs t (xreg N 11) (xreg N 6) (bit N 0))) else none) = _
  simp only [e2, e3, e4, e5, e6, ElemTy.ofCode_code, Option.bind_some, beq_self_eq_true, ↓reduceIte]

theorem vneg (t : ElemTy) (d : VReg) (a : VReg) (k : Bool) : Statement (.vneg t d a k) := by
  have hall : Fits [(4, 5), (7, 8), (4, t.code), (5, d.val), (5, a.val), (5, 0), (1, b2n k)] := all_cons (by decide) (all_cons (by decide) (all_cons (ElemTy.code_lt t) (all_cons (d.isLt) (all_cons (a.isLt) (all_cons (by decide) (all_cons (b2n_lt k) (all_nil)))))))
  refine of_segs rfl [(4, 5), (7, 8), (4, t.code), (5, d.val), (5, a.val), (5, 0), (1, b2n k)] rfl trivial hall (by simp only [pack, hz, List.foldl]; omega) (fun N Q hN => ?_)
  have e0 : bits N 30 27 = 5 := bits_seg [] [(4, 5)] [(7, 8), (4, t.code), (5, d.val), (5, a.val), (5, 0), (1, b2n k)] hall hN rfl rfl rfl
  have e1 : bits N 26 20 = 8 := bits_seg [(4, 5)] [(7, 8)] [(4, t.code), (5, d.val), (5, a.val), (5, 0), (1, b2n k)] hall hN rfl rfl rfl
  have e2 : bits N 5 1 = 0 := bits_seg [(4, 5), (7, 8), (4, t.code), (5, d.val), (5, a.val)] [(5, 0)] [(1, b2n k)] hall hN rfl rfl rfl
  have e3 : bits N 19 16 = t.code := bits_seg [(4, 5), (7, 8)] [(4, t.code)] [(5, d.val), (5, a.val), (5, 0), (1, b2n k)] hall hN (hz_one _ _) rfl rfl
  have e4 : xreg N 11 = d := xreg_eq (seg [(4, 5), (7, 8), (4, t.code)] [(5, d.val)] [(5, a.val), (5, 0), (1, b2n k)] hall hN (hz_one _ _))
  have e5 : xreg N 6 = a := xreg_eq (seg [(4, 5), (7, 8), (4, t.code), (5, d.val)] [(5, a.val)] [(5, 0), (1, b2n k)] hall hN (hz_one _ _))
  have e6 : bit N 0 = k := bit_eq (seg [(4, 5), (7, 8), (4, t.code), (5, d.val), (5, a.val), (5, 0)] [(1, b2n k)] [] hall hN (hz_one _ _))
  rw [decodeFields, e0]; show decodeVR N = _; rw [decodeVR, e1]; show (if bits N 5 1 == 0 then (ElemTy.ofCode (bits N 19 16)).bind (fun t => some (Instr.vneg t (xreg N 11) (xreg N 6) (bit N 0))) else none) = _
  simp only [e2, e3, e4, e5, e6, ElemTy.ofCode_code, Option.bind_some, beq_self_eq_true, ↓reduceIte]

theorem vand (t : ElemTy) (d : VReg) (a : VReg) (b : VReg) (k : Bool) : Statement (.vand t d a b k) := by
  have hall : Fits [(4, 5), (7, 9), (4, t.code), (5, d.val), (5, a.val), (5, b.val), (1, b2n k)] := all_cons (by decide) (all_cons (by decide) (all_cons (ElemTy.code_lt t) (all_cons (d.isLt) (all_cons (a.isLt) (all_cons (b.isLt) (all_cons (b2n_lt k) (all_nil)))))))
  refine of_segs rfl [(4, 5), (7, 9), (4, t.code), (5, d.val), (5, a.val), (5, b.val), (1, b2n k)] rfl trivial hall (by simp only [pack, hz, List.foldl]; omega) (fun N Q hN => ?_)
  have e0 : bits N 30 27 = 5 := bits_seg [] [(4, 5)] [(7, 9), (4, t.code), (5, d.val), (5, a.val), (5, b.val), (1, b2n k)] hall hN rfl rfl rfl
  have e1 : bits N 26 20 = 9 := bits_seg [(4, 5)] [(7, 9)] [(4, t.code), (5, d.val), (5, a.val), (5, b.val), (1, b2n k)] hall hN rfl rfl rfl
  have e2 : bits N 19 16 = t.code := bits_seg [(4, 5), (7, 9)] [(4, t.code)] [(5, d.val), (5, a.val), (5, b.val), (1, b2n k)] hall hN (hz_one _ _) rfl rfl
  have e3 : xreg N 11 = d := xreg_eq (seg [(4, 5), (7, 9), (4, t.code)] [(5, d.val)] [(5, a.val), (5, b.val), (1, b2n k)] hall hN (hz_one _ _))
  have e4 : xreg N 6 = a := xreg_eq (seg [(4, 5), (7, 9), (4, t.code), (5, d.val)] [(5, a.val)] [(5, b.val), (1, b2n k)] hall hN (hz_one _ _))
  have e5 : xreg N 1 = b := xreg_eq (seg [(4, 5), (7, 9), (4, t.code), (5, d.val), (5, a.val)] [(5, b.val)] [(1, b2n k)] hall hN (hz_one _ _))
  have e6 : bit N 0 = k := bit_eq (seg [(4, 5), (7, 9), (4, t.code), (5, d.val), (5, a.val), (5, b.val)] [(1, b2n k)] [] hall hN (hz_one _ _))
  rw [decodeFields, e0]; show decodeVR N = _; rw [decodeVR, e1]; show ((ElemTy.ofCode (bits N 19 16)).bind (fun t => some (Instr.vand t (xreg N 11) (xreg N 6) (xreg N 1) (bit N 0)))) = _
  simp only [e2, e3, e4, e5, e6, ElemTy.ofCode_code, Option.bind_some]

theorem vor (t : ElemTy) (d : VReg) (a : VReg) (b : VReg) (k : Bool) : Statement (.vor t d a b k) := by
  have hall : Fits [(4, 5), (7, 10), (4, t.code), (5, d.val), (5, a.val), (5, b.val), (1, b2n k)] := all_cons (by decide) (all_cons (by decide) (all_cons (ElemTy.code_lt t) (all_cons (d.isLt) (all_cons (a.isLt) (all_cons (b.isLt) (all_cons (b2n_lt k) (all_nil)))))))
  refine of_segs rfl [(4, 5), (7, 10), (4, t.code), (5, d.val), (5, a.val), (5, b.val), (1, b2n k)] rfl trivial hall (by simp only [pack, hz, List.foldl]; omega) (fun N Q hN => ?_)
  have e0 : bits N 30 27 = 5 := bits_seg [] [(4, 5)] [(7, 10), (4, t.code), (5, d.val), (5, a.val), (5, b.val), (1, b2n k)] hall hN rfl rfl rfl
  have e1 : bits N 26 20 = 10 := bits_seg [(4, 5)] [(7, 10)] [(4, t.code), (5, d.val), (5, a.val), (5, b.val), (1, b2n k)] hall hN rfl rfl rfl
  have e2 : bits N 19 16 = t.code := bits_seg [(4, 5), (7, 10)] [(4, t.code)] [(5, d.val), (5, a.val), (5, b.val), (1, b2n k)] hall hN (hz_one _ _) rfl rfl
  have e3 : xreg N 11 = d := xreg_eq (seg [(4, 5), (7, 10), (4, t.code)] [(5, d.val)] [(5, a.val), (5, b.val), (1, b2n k)] hall hN (hz_one _ _))
  have e4 : xreg N 6 = a := xreg_eq (seg [(4, 5), (7, 10), (4, t.code), (5, d.val)] [(5, a.val)] [(5, b.val), (1, b2n k)] hall hN (hz_one _ _))
  have e5 : xreg N 1 = b := xreg_eq (seg [(4, 5), (7, 10), (4, t.code), (5, d.val), (5, a.val)] [(5, b.val)] [(1, b2n k)] hall hN (hz_one _ _))
  have e6 : bit N 0 = k := bit_eq (seg [(4, 5), (7, 10), (4, t.code), (5, d.val), (5, a.val), (5, b.val)] [(1, b2n k)] [] hall hN (hz_one _ _))
  rw [decodeFields, e0]; show decodeVR N = _; rw [decodeVR, e1]; show ((ElemTy.ofCode (bits N 19 16)).bind (fun t => some (Instr.vor t (xreg N 11) (xreg N 6) (xreg N 1) (bit N 0)))) = _
  simp only [e2, e3, e4, e5, e6, ElemTy.ofCode_code, Option.bind_some]

theorem vxor (t : ElemTy) (d : VReg) (a : VReg) (b : VReg) (k : Bool) : Statement (.vxor t d a b k) := by
  have hall : Fits [(4, 5), (7, 11), (4, t.code), (5, d.val), (5, a.val), (5, b.val), (1, b2n k)] := all_cons (by decide) (all_cons (by decide) (all_cons (ElemTy.code_lt t) (all_cons (d.isLt) (all_cons (a.isLt) (all_cons (b.isLt) (all_cons (b2n_lt k) (all_nil)))))))
  refine of_segs rfl [(4, 5), (7, 11), (4, t.code), (5, d.val), (5, a.val), (5, b.val), (1, b2n k)] rfl trivial hall (by simp only [pack, hz, List.foldl]; omega) (fun N Q hN => ?_)
  have e0 : bits N 30 27 = 5 := bits_seg [] [(4, 5)] [(7, 11), (4, t.code), (5, d.val), (5, a.val), (5, b.val), (1, b2n k)] hall hN rfl rfl rfl
  have e1 : bits N 26 20 = 11 := bits_seg [(4, 5)] [(7, 11)] [(4, t.code), (5, d.val), (5, a.val), (5, b.val), (1, b2n k)] hall hN rfl rfl rfl
  have e2 : bits N 19 16 = t.code := bits_seg [(4, 5), (7, 11)] [(4, t.code)] [(5, d.val), (5, a.val), (5, b.val), (1, b2n k)] hall hN (hz_one _ _) rfl rfl
  have e3 : xreg N 11 = d := xreg_eq (seg [(4, 5), (7, 11), (4, t.code)] [(5, d.val)] [(5, a.val), (5, b.val), (1, b2n k)] hall hN (hz_one _ _))
  have e4 : xreg N 6 = a := xreg_eq (seg [(4, 5), (7, 11), (4, t.code), (5, d.val)] [(5, a.val)] [(5, b.val), (1, b2n k)] hall hN (hz_one _ _))
  have e5 : xreg N 1 = b := xreg_eq (seg [(4, 5), (7, 11), (4, t.code), (5, d.val), (5, a.val)] [(5, b.val)] [(1, b2n k)] hall hN (hz_one _ _))
  have e6 : bit N 0 = k := bit_eq (seg [(4, 5), (7, 11), (4, t.code), (5, d.val), (5, a.val), (5, b.val)] [(1, b2n k)] [] hall hN (hz_one _ _))
  rw [decodeFields, e0]; show decodeVR N = _; rw [decodeVR, e1]; show ((ElemTy.ofCode (bits N 19 16)).bind (fun t => some (Instr.vxor t (xreg N 11) (xreg N 6) (xreg N 1) (bit N 0)))) = _
  simp only [e2, e3, e4, e5, e6, ElemTy.ofCode_code, Option.bind_some]

theorem vshl (t : ElemTy) (d : VReg) (a : VReg) (b : VReg) (k : Bool) : Statement (.vshl t d a b k) := by
  have hall : Fits [(4, 5), (7, 12), (4, t.code), (5, d.val), (5, a.val), (5, b.val), (1, b2n k)] := all_cons (by decide) (all_cons (by decide) (all_cons (ElemTy.code_lt t) (all_cons (d.isLt) (all_cons (a.isLt) (all_cons (b.isLt) (all_cons (b2n_lt k) (all_nil)))))))
  refine of_segs rfl [(4, 5), (7, 12), (4, t.code), (5, d.val), (5, a.val), (5, b.val), (1, b2n k)] rfl trivial hall (by simp only [pack, hz, List.foldl]; omega) (fun N Q hN => ?_)
  have e0 : bits N 30 27 = 5 := bits_seg [] [(4, 5)] [(7, 12), (4, t.code), (5, d.val), (5, a.val), (5, b.val), (1, b2n k)] hall hN rfl rfl rfl
  have e1 : bits N 26 20 = 12 := bits_seg [(4, 5)] [(7, 12)] [(4, t.code), (5, d.val), (5, a.val), (5, b.val), (1, b2n k)] hall hN rfl rfl rfl
  have e2 : bits N 19 16 = t.code := bits_seg [(4, 5), (7, 12)] [(4, t.code)] [(5, d.val), (5, a.val), (5, b.val), (1, b2n k)] hall hN (hz_one _ _) rfl rfl
  have e3 : xreg N 11 = d := xreg_eq (seg [(4, 5), (7, 12), (4, t.code)] [(5, d.val)] [(5, a.val), (5, b.val), (1, b2n k)] hall hN (hz_one _ _))
  have e4 : xreg N 6 = a := xreg_eq (seg [(4, 5), (7, 12), (4, t.code), (5, d.val)] [(5, a.val)] [(5, b.val), (1, b2n k)] hall hN (hz_one _ _))
  have e5 : xreg N 1 = b := xreg_eq (seg [(4, 5), (7, 12), (4, t.code), (5, d.val), (5, a.val)] [(5, b.val)] [(1, b2n k)] hall hN (hz_one _ _))
  have e6 : bit N 0 = k := bit_eq (seg [(4, 5), (7, 12), (4, t.code), (5, d.val), (5, a.val), (5, b.val)] [(1, b2n k)] [] hall hN (hz_one _ _))
  rw [decodeFields, e0]; show decodeVR N = _; rw [decodeVR, e1]; show ((ElemTy.ofCode (bits N 19 16)).bind (fun t => some (Instr.vshl t (xreg N 11) (xreg N 6) (xreg N 1) (bit N 0)))) = _
  simp only [e2, e3, e4, e5, e6, ElemTy.ofCode_code, Option.bind_some]

theorem vshr (t : ElemTy) (d : VReg) (a : VReg) (b : VReg) (k : Bool) : Statement (.vshr t d a b k) := by
  have hall : Fits [(4, 5), (7, 13), (4, t.code), (5, d.val), (5, a.val), (5, b.val), (1, b2n k)] := all_cons (by decide) (all_cons (by decide) (all_cons (ElemTy.code_lt t) (all_cons (d.isLt) (all_cons (a.isLt) (all_cons (b.isLt) (all_cons (b2n_lt k) (all_nil)))))))
  refine of_segs rfl [(4, 5), (7, 13), (4, t.code), (5, d.val), (5, a.val), (5, b.val), (1, b2n k)] rfl trivial hall (by simp only [pack, hz, List.foldl]; omega) (fun N Q hN => ?_)
  have e0 : bits N 30 27 = 5 := bits_seg [] [(4, 5)] [(7, 13), (4, t.code), (5, d.val), (5, a.val), (5, b.val), (1, b2n k)] hall hN rfl rfl rfl
  have e1 : bits N 26 20 = 13 := bits_seg [(4, 5)] [(7, 13)] [(4, t.code), (5, d.val), (5, a.val), (5, b.val), (1, b2n k)] hall hN rfl rfl rfl
  have e2 : bits N 19 16 = t.code := bits_seg [(4, 5), (7, 13)] [(4, t.code)] [(5, d.val), (5, a.val), (5, b.val), (1, b2n k)] hall hN (hz_one _ _) rfl rfl
  have e3 : xreg N 11 = d := xreg_eq (seg [(4, 5), (7, 13), (4, t.code)] [(5, d.val)] [(5, a.val), (5, b.val), (1, b2n k)] hall hN (hz_one _ _))
  have e4 : xreg N 6 = a := xreg_eq (seg [(4, 5), (7, 13), (4, t.code), (5, d.val)] [(5, a.val)] [(5, b.val), (1, b2n k)] hall hN (hz_one _ _))
  have e5 : xreg N 1 = b := xreg_eq (seg [(4, 5), (7, 13), (4, t.code), (5, d.val), (5, a.val)] [(5, b.val)] [(1, b2n k)] hall hN (hz_one _ _))
  have e6 : bit N 0 = k := bit_eq (seg [(4, 5), (7, 13), (4, t.code), (5, d.val), (5, a.val), (5, b.val)] [(1, b2n k)] [] hall hN (hz_one _ _))
  rw [decodeFields, e0]; show decodeVR N = _; rw [decodeVR, e1]; show ((ElemTy.ofCode (bits N 19 16)).bind (fun t => some (Instr.vshr t (xreg N 11) (xreg N 6) (xreg N 1) (bit N 0)))) = _
  simp only [e2, e3, e4, e5, e6, ElemTy.ofCode_code, Option.bind_some]

theorem vsel (t : ElemTy) (d : VReg) (a : VReg) (b : VReg) : Statement (.vsel t d a b) := by
  have hall : Fits [(4, 5), (7, 14), (4, t.code), (5, d.val), (5, a.val), (5, b.val), (1, 0)] := all_cons (by decide) (all_cons (by decide) (all_cons (ElemTy.code_lt t) (all_cons (d.isLt) (all_cons (a.isLt) (all_cons (b.isLt) (all_cons (by decide) (all_nil)))))))
  refine of_segs rfl [(4, 5), (7, 14), (4, t.code), (5, d.val), (5, a.val), (5, b.val), (1, 0)] rfl trivial hall (by simp only [pack, hz, List.foldl]; omega) (fun N Q hN => ?_)
  have e0 : bits N 30 27 = 5 := bits_seg [] [(4, 5)] [(7, 14), (4, t.code), (5, d.val), (5, a.val), (5, b.val), (1, 0)] hall hN rfl rfl rfl
  have e1 : bits N 26 20 = 14 := bits_seg [(4, 5)] [(7, 14)] [(4, t.code), (5, d.val), (5, a.val), (5, b.val), (1, 0)] hall hN rfl rfl rfl
  have e2 : bits N 0 0 = 0 := bits_seg [(4, 5), (7, 14), (4, t.code), (5, d.val), (5, a.val), (5, b.val)] [(1, 0)] [] hall hN rfl rfl rfl
  have e3 : bits N 19 16 = t.code := bits_seg [(4, 5), (7, 14)] [(4, t.code)] [(5, d.val), (5, a.val), (5, b.val), (1, 0)] hall hN (hz_one _ _) rfl rfl
  have e4 : xreg N 11 = d := xreg_eq (seg [(4, 5), (7, 14), (4, t.code)] [(5, d.val)] [(5, a.val), (5, b.val), (1, 0)] hall hN (hz_one _ _))
  have e5 : xreg N 6 = a := xreg_eq (seg [(4, 5), (7, 14), (4, t.code), (5, d.val)] [(5, a.val)] [(5, b.val), (1, 0)] hall hN (hz_one _ _))
  have e6 : xreg N 1 = b := xreg_eq (seg [(4, 5), (7, 14), (4, t.code), (5, d.val), (5, a.val)] [(5, b.val)] [(1, 0)] hall hN (hz_one _ _))
  rw [decodeFields, e0]; show decodeVR N = _; rw [decodeVR, e1]; show (if bits N 0 0 == 0 then (ElemTy.ofCode (bits N 19 16)).bind (fun t => some (Instr.vsel t (xreg N 11) (xreg N 6) (xreg N 1))) else none) = _
  simp only [e2, e3, e4, e5, e6, ElemTy.ofCode_code, Option.bind_some, beq_self_eq_true, ↓reduceIte]

theorem vcvt (t : ElemTy) (d : VReg) (a : VReg) (e : ElemTy) (k : Bool) : Statement (.vcvt t d a e k) := by
  have hall : Fits [(4, 5), (7, 15), (4, t.code), (5, d.val), (5, a.val), (1, 0), (4, e.code), (1, b2n k)] := all_cons (by decide) (all_cons (by decide) (all_cons (ElemTy.code_lt t) (all_cons (d.isLt) (all_cons (a.isLt) (all_cons (by decide) (all_cons (ElemTy.code_lt e) (all_cons (b2n_lt k) (all_nil))))))))
  refine of_segs rfl [(4, 5), (7, 15), (4, t.code), (5, d.val), (5, a.val), (1, 0), (4, e.code), (1, b2n k)] rfl trivial hall (by simp only [pack, hz, List.foldl]; omega) (fun N Q hN => ?_)
  have e0 : bits N 30 27 = 5 := bits_seg [] [(4, 5)] [(7, 15), (4, t.code), (5, d.val), (5, a.val), (1, 0), (4, e.code), (1, b2n k)] hall hN rfl rfl rfl
  have e1 : bits N 26 20 = 15 := bits_seg [(4, 5)] [(7, 15)] [(4, t.code), (5, d.val), (5, a.val), (1, 0), (4, e.code), (1, b2n k)] hall hN rfl rfl rfl
  have e2 : bits N 5 5 = 0 := bits_seg [(4, 5), (7, 15), (4, t.code), (5, d.val), (5, a.val)] [(1, 0)] [(4, e.code), (1, b2n k)] hall hN rfl rfl rfl
  have e3 : bits N 19 16 = t.code := bits_seg [(4, 5), (7, 15)] [(4, t.code)] [(5, d.val), (5, a.val), (1, 0), (4, e.code), (1, b2n k)] hall hN (hz_one _ _) rfl rfl
  have e4 : bits N 4 1 = e.code := bits_seg [(4, 5), (7, 15), (4, t.code), (5, d.val), (5, a.val), (1, 0)] [(4, e.code)] [(1, b2n k)] hall hN (hz_one _ _) rfl rfl
  have e5 : xreg N 11 = d := xreg_eq (seg [(4, 5), (7, 15), (4, t.code)] [(5, d.val)] [(5, a.val), (1, 0), (4, e.code), (1, b2n k)] hall hN (hz_one _ _))
  have e6 : xreg N 6 = a := xreg_eq (seg [(4, 5), (7, 15), (4, t.code), (5, d.val)] [(5, a.val)] [(1, 0), (4, e.code), (1, b2n k)] hall hN (hz_one _ _))
  have e7 : bit N 0 = k := bit_eq (seg [(4, 5), (7, 15), (4, t.code), (5, d.val), (5, a.val), (1, 0), (4, e.code)] [(1, b2n k)] [] hall hN (hz_one _ _))
  rw [decodeFields, e0]; show decodeVR N = _; rw [decodeVR, e1]; show (if bits N 5 5 == 0 then (ElemTy.ofCode (bits N 19 16)).bind (fun t => (ElemTy.ofCode (bits N 4 1)).bind (fun e => some (Instr.vcvt t (xreg N 11) (xreg N 6) e (bit N 0)))) else none) = _
  simp only [e2, e3, e4, e5, e6, e7, ElemTy.ofCode_code, ElemTy.ofCode_code, Option.bind_some, beq_self_eq_true, ↓reduceIte]

theorem vcmpEq (t : ElemTy) (d : MReg) (a : VReg) (b : VReg) (k : Bool) : Statement (.vcmpEq t d a b k) := by
  have hall : Fits [(4, 5), (7, 16), (4, t.code), (2, 0), (3, d.val), (5, a.val), (5, b.val), (1, b2n k)] := all_cons (by decide) (all_cons (by decide) (all_cons (ElemTy.code_lt t) (all_cons (by decide) (all_cons (d.isLt) (all_cons (a.isLt) (all_cons (b.isLt) (all_cons (b2n_lt k) (all_nil))))))))
  refine of_segs rfl [(4, 5), (7, 16), (4, t.code), (2, 0), (3, d.val), (5, a.val), (5, b.val), (1, b2n k)] rfl trivial hall (by simp only [pack, hz, List.foldl]; omega) (fun N Q hN => ?_)
  have e0 : bits N 30 27 = 5 := bits_seg [] [(4, 5)] [(7, 16), (4, t.code), (2, 0), (3, d.val), (5, a.val), (5, b.val), (1, b2n k)] hall hN rfl rfl rfl
  have e1 : bits N 26 20 = 16 := bits_seg [(4, 5)] [(7, 16)] [(4, t.code), (2, 0), (3, d.val), (5, a.val), (5, b.val), (1, b2n k)] hall hN rfl rfl rfl
  have e2 : bits N 15 14 = 0 := bits_seg [(4, 5), (7, 16), (4, t.code)] [(2, 0)] [(3, d.val), (5, a.val), (5, b.val), (1, b2n k)] hall hN rfl rfl rfl
  have e3 : bits N 19 16 = t.code := bits_seg [(4, 5), (7, 16)] [(4, t.code)] [(2, 0), (3, d.val), (5, a.val), (5, b.val), (1, b2n k)] hall hN (hz_one _ _) rfl rfl
  have e4 : fin8 N 11 = d := fin8_eq (seg [(4, 5), (7, 16), (4, t.code), (2, 0)] [(3, d.val)] [(5, a.val), (5, b.val), (1, b2n k)] hall hN (hz_one _ _))
  have e5 : xreg N 6 = a := xreg_eq (seg [(4, 5), (7, 16), (4, t.code), (2, 0), (3, d.val)] [(5, a.val)] [(5, b.val), (1, b2n k)] hall hN (hz_one _ _))
  have e6 : xreg N 1 = b := xreg_eq (seg [(4, 5), (7, 16), (4, t.code), (2, 0), (3, d.val), (5, a.val)] [(5, b.val)] [(1, b2n k)] hall hN (hz_one _ _))
  have e7 : bit N 0 = k := bit_eq (seg [(4, 5), (7, 16), (4, t.code), (2, 0), (3, d.val), (5, a.val), (5, b.val)] [(1, b2n k)] [] hall hN (hz_one _ _))
  rw [decodeFields, e0]; show decodeVR N = _; rw [decodeVR, e1]; show (if bits N 15 14 == 0 then (ElemTy.ofCode (bits N 19 16)).bind (fun t => some (Instr.vcmpEq t (fin8 N 11) (xreg N 6) (xreg N 1) (bit N 0))) else none) = _
  simp only [e2, e3, e4, e5, e6, e7, ElemTy.ofCode_code, Option.bind_some, beq_self_eq_true, ↓reduceIte]

theorem vcmpNe (t : ElemTy) (d : MReg) (a : VReg) (b : VReg) (k : Bool) : Statement (.vcmpNe t d a b k) := by
  have hall : Fits [(4, 5), (7, 17), (4, t.code), (2, 0), (3, d.val), (5, a.val), (5, b.val), (1, b2n k)] := all_cons (by decide) (all_cons (by decide) (all_cons (ElemTy.code_lt t) (all_cons (by decide) (all_cons (d.isLt) (all_cons (a.isLt) (all_cons (b.isLt) (all_cons (b2n_lt k) (all_nil))))))))
  refine of_segs rfl [(4, 5), (7, 17), (4, t.code), (2, 0), (3, d.val), (5, a.val), (5, b.val), (1, b2n k)] rfl trivial hall (by simp only [pack, hz, List.foldl]; omega) (fun N Q hN => ?_)
  have e0 : bits N 30 27 = 5 := bits_seg [] [(4, 5)] [(7, 17), (4, t.code), (2, 0), (3, d.val), (5, a.val), (5, b.val), (1, b2n k)] hall hN rfl rfl rfl
  have e1 : bits N 26 20 = 17 := bits_seg [(4, 5)] [(7, 17)] [(4, t.code), (2, 0), (3, d.val), (5, a.val), (5, b.val), (1, b2n k)] hall hN rfl rfl rfl
  have e2 : bits N 15 14 = 0 := bits_seg [(4, 5), (7, 17), (4, t.code)] [(2, 0)] [(3, d.val), (5, a.val), (5, b.val), (1, b2n k)] hall hN rfl rfl rfl
  have e3 : bits N 19 16 = t.code := bits_seg [(4, 5), (7, 17)] [(4, t.code)] [(2, 0), (3, d.val), (5, a.val), (5, b.val), (1, b2n k)] hall hN (hz_one _ _) rfl rfl
  have e4 : fin8 N 11 = d := fin8_eq (seg [(4, 5), (7, 17), (4, t.code), (2, 0)] [(3, d.val)] [(5, a.val), (5, b.val), (1, b2n k)] hall hN (hz_one _ _))
  have e5 : xreg N 6 = a := xreg_eq (seg [(4, 5), (7, 17), (4, t.code), (2, 0), (3, d.val)] [(5, a.val)] [(5, b.val), (1, b2n k)] hall hN (hz_one _ _))
  have e6 : xreg N 1 = b := xreg_eq (seg [(4, 5), (7, 17), (4, t.code), (2, 0), (3, d.val), (5, a.val)] [(5, b.val)] [(1, b2n k)] hall hN (hz_one _ _))
  have e7 : bit N 0 = k := bit_eq (seg [(4, 5), (7, 17), (4, t.code), (2, 0), (3, d.val), (5, a.val), (5, b.val)] [(1, b2n k)] [] hall hN (hz_one _ _))
  rw [decodeFields, e0]; show decodeVR N = _; rw [decodeVR, e1]; show (if bits N 15 14 == 0 then (ElemTy.ofCode (bits N 19 16)).bind (fun t => some (Instr.vcmpNe t (fin8 N 11) (xreg N 6) (xreg N 1) (bit N 0))) else none) = _
  simp only [e2, e3, e4, e5, e6, e7, ElemTy.ofCode_code, Option.bind_some, beq_self_eq_true, ↓reduceIte]

theorem vcmpLt (t : ElemTy) (d : MReg) (a : VReg) (b : VReg) (k : Bool) : Statement (.vcmpLt t d a b k) := by
  have hall : Fits [(4, 5), (7, 18), (4, t.code), (2, 0), (3, d.val), (5, a.val), (5, b.val), (1, b2n k)] := all_cons (by decide) (all_cons (by decide) (all_cons (ElemTy.code_lt t) (all_cons (by decide) (all_cons (d.isLt) (all_cons (a.isLt) (all_cons (b.isLt) (all_cons (b2n_lt k) (all_nil))))))))
  refine of_segs rfl [(4, 5), (7, 18), (4, t.code), (2, 0), (3, d.val), (5, a.val), (5, b.val), (1, b2n k)] rfl trivial hall (by simp only [pack, hz, List.foldl]; omega) (fun N Q hN => ?_)
  have e0 : bits N 30 27 = 5 := bits_seg [] [(4, 5)] [(7, 18), (4, t.code), (2, 0), (3, d.val), (5, a.val), (5, b.val), (1, b2n k)] hall hN rfl rfl rfl
  have e1 : bits N 26 20 = 18 := bits_seg [(4, 5)] [(7, 18)] [(4, t.code), (2, 0), (3, d.val), (5, a.val), (5, b.val), (1, b2n k)] hall hN rfl rfl rfl
  have e2 : bits N 15 14 = 0 := bits_seg [(4, 5), (7, 18), (4, t.code)] [(2, 0)] [(3, d.val), (5, a.val), (5, b.val), (1, b2n k)] hall hN rfl rfl rfl
  have e3 : bits N 19 16 = t.code := bits_seg [(4, 5), (7, 18)] [(4, t.code)] [(2, 0), (3, d.val), (5, a.val), (5, b.val), (1, b2n k)] hall hN (hz_one _ _) rfl rfl
  have e4 : fin8 N 11 = d := fin8_eq (seg [(4, 5), (7, 18), (4, t.code), (2, 0)] [(3, d.val)] [(5, a.val), (5, b.val), (1, b2n k)] hall hN (hz_one _ _))
  have e5 : xreg N 6 = a := xreg_eq (seg [(4, 5), (7, 18), (4, t.code), (2, 0), (3, d.val)] [(5, a.val)] [(5, b.val), (1, b2n k)] hall hN (hz_one _ _))
  have e6 : xreg N 1 = b := xreg_eq (seg [(4, 5), (7, 18), (4, t.code), (2, 0), (3, d.val), (5, a.val)] [(5, b.val)] [(1, b2n k)] hall hN (hz_one _ _))
  have e7 : bit N 0 = k := bit_eq (seg [(4, 5), (7, 18), (4, t.code), (2, 0), (3, d.val), (5, a.val), (5, b.val)] [(1, b2n k)] [] hall hN (hz_one _ _))
  rw [decodeFields, e0]; show decodeVR N = _; rw [decodeVR, e1]; show (if bits N 15 14 == 0 then (ElemTy.ofCode (bits N 19 16)).bind (fun t => some (Instr.vcmpLt t (fin8 N 11) (xreg N 6) (xreg N 1) (bit N 0))) else none) = _
  simp only [e2, e3, e4, e5, e6, e7, ElemTy.ofCode_code, Option.bind_some, beq_self_eq_true, ↓reduceIte]

theorem vcmpLe (t : ElemTy) (d : MReg) (a : VReg) (b : VReg) (k : Bool) : Statement (.vcmpLe t d a b k) := by
  have hall : Fits [(4, 5), (7, 19), (4, t.code), (2, 0), (3, d.val), (5, a.val), (5, b.val), (1, b2n k)] := all_cons (by decide) (all_cons (by decide) (all_cons (ElemTy.code_lt t) (all_cons (by decide) (all_cons (d.isLt) (all_cons (a.isLt) (all_cons (b.isLt) (all_cons (b2n_lt k) (all_nil))))))))
  refine of_segs rfl [(4, 5), (7, 19), (4, t.code), (2, 0), (3, d.val), (5, a.val), (5, b.val), (1, b2n k)] rfl trivial hall (by simp only [pack, hz, List.foldl]; omega) (fun N Q hN => ?_)
  have e0 : bits N 30 27 = 5 := bits_seg [] [(4, 5)] [(7, 19), (4, t.code), (2, 0), (3, d.val), (5, a.val), (5, b.val), (1, b2n k)] hall hN rfl rfl rfl
  have e1 : bits N 26 20 = 19 := bits_seg [(4, 5)] [(7, 19)] [(4, t.code), (2, 0), (3, d.val), (5, a.val), (5, b.val), (1, b2n k)] hall hN rfl rfl rfl
  have e2 : bits N 15 14 = 0 := bits_seg [(4, 5), (7, 19), (4, t.code)] [(2, 0)] [(3, d.val), (5, a.val), (5, b.val), (1, b2n k)] hall hN rfl rfl rfl
  have e3 : bits N 19 16 = t.code := bits_seg [(4, 5), (7, 19)] [(4, t.code)] [(2, 0), (3, d.val), (5, a.val), (5, b.val), (1, b2n k)] hall hN (hz_one _ _) rfl rfl
  have e4 : fin8 N 11 = d := fin8_eq (seg [(4, 5), (7, 19), (4, t.code), (2, 0)] [(3, d.val)] [(5, a.val), (5, b.val), (1, b2n k)] hall hN (hz_one _ _))
  have e5 : xreg N 6 = a := xreg_eq (seg [(4, 5), (7, 19), (4, t.code), (2, 0), (3, d.val)] [(5, a.val)] [(5, b.val), (1, b2n k)] hall hN (hz_one _ _))
  have e6 : xreg N 1 = b := xreg_eq (seg [(4, 5), (7, 19), (4, t.code), (2, 0), (3, d.val), (5, a.val)] [(5, b.val)] [(1, b2n k)] hall hN (hz_one _ _))
  have e7 : bit N 0 = k := bit_eq (seg [(4, 5), (7, 19), (4, t.code), (2, 0), (3, d.val), (5, a.val), (5, b.val)] [(1, b2n k)] [] hall hN (hz_one _ _))
  rw [decodeFields, e0]; show decodeVR N = _; rw [decodeVR, e1]; show (if bits N 15 14 == 0 then (ElemTy.ofCode (bits N 19 16)).bind (fun t => some (Instr.vcmpLe t (fin8 N 11) (xreg N 6) (xreg N 1) (bit N 0))) else none) = _
  simp only [e2, e3, e4, e5, e6, e7, ElemTy.ofCode_code, Option.bind_some, beq_self_eq_true, ↓reduceIte]

theorem vcmpGt (t : ElemTy) (d : MReg) (a : VReg) (b : VReg) (k : Bool) : Statement (.vcmpGt t d a b k) := by
  have hall : Fits [(4, 5), (7, 20), (4, t.code), (2, 0), (3, d.val), (5, a.val), (5, b.val), (1, b2n k)] := all_cons (by decide) (all_cons (by decide) (all_cons (ElemTy.code_lt t) (all_cons (by decide) (all_cons (d.isLt) (all_cons (a.isLt) (all_cons (b.isLt) (all_cons (b2n_lt k) (all_nil))))))))
  refine of_segs rfl [(4, 5), (7, 20), (4, t.code), (2, 0), (3, d.val), (5, a.val), (5, b.val), (1, b2n k)] rfl trivial hall (by simp only [pack, hz, List.foldl]; omega) (fun N Q hN => ?_)
  have e0 : bits N 30 27 = 5 := bits_seg [] [(4, 5)] [(7, 20), (4, t.code), (2, 0), (3, d.val), (5, a.val), (5, b.val), (1, b2n k)] hall hN rfl rfl rfl
  have e1 : bits N 26 20 = 20 := bits_seg [(4, 5)] [(7, 20)] [(4, t.code), (2, 0), (3, d.val), (5, a.val), (5, b.val), (1, b2n k)] hall hN rfl rfl rfl
  have e2 : bits N 15 14 = 0 := bits_seg [(4, 5), (7, 20), (4, t.code)] [(2, 0)] [(3, d.val), (5, a.val), (5, b.val), (1, b2n k)] hall hN rfl rfl rfl
  have e3 : bits N 19 16 = t.code := bits_seg [(4, 5), (7, 20)] [(4, t.code)] [(2, 0), (3, d.val), (5, a.val), (5, b.val), (1, b2n k)] hall hN (hz_one _ _) rfl rfl
  have e4 : fin8 N 11 = d := fin8_eq (seg [(4, 5), (7, 20), (4, t.code), (2, 0)] [(3, d.val)] [(5, a.val), (5, b.val), (1, b2n k)] hall hN (hz_one _ _))
  have e5 : xreg N 6 = a := xreg_eq (seg [(4, 5), (7, 20), (4, t.code), (2, 0), (3, d.val)] [(5, a.val)] [(5, b.val), (1, b2n k)] hall hN (hz_one _ _))
  have e6 : xreg N 1 = b := xreg_eq (seg [(4, 5), (7, 20), (4, t.code), (2, 0), (3, d.val), (5, a.val)] [(5, b.val)] [(1, b2n k)] hall hN (hz_one _ _))
  have e7 : bit N 0 = k := bit_eq (seg [(4, 5), (7, 20), (4, t.code), (2, 0), (3, d.val), (5, a.val), (5, b.val)] [(1, b2n k)] [] hall hN (hz_one _ _))
  rw [decodeFields, e0]; show decodeVR N = _; rw [decodeVR, e1]; show (if bits N 15 14 == 0 then (ElemTy.ofCode (bits N 19 16)).bind (fun t => some (Instr.vcmpGt t (fin8 N 11) (xreg N 6) (xreg N 1) (bit N 0))) else none) = _
  simp only [e2, e3, e4, e5, e6, e7, ElemTy.ofCode_code, Option.bind_some, beq_self_eq_true, ↓reduceIte]

theorem vcmpGe (t : ElemTy) (d : MReg) (a : VReg) (b : VReg) (k : Bool) : Statement (.vcmpGe t d a b k) := by
  have hall : Fits [(4, 5), (7, 21), (4, t.code), (2, 0), (3, d.val), (5, a.val), (5, b.val), (1, b2n k)] := all_cons (by decide) (all_cons (by decide) (all_cons (ElemTy.code_lt t) (all_cons (by decide) (all_cons (d.isLt) (all_cons (a.isLt) (all_cons (b.isLt) (all_cons (b2n_lt k) (all_nil))))))))
  refine of_segs rfl [(4, 5), (7, 21), (4, t.code), (2, 0), (3, d.val), (5, a.val), (5, b.val), (1, b2n k)] rfl trivial hall (by simp only [pack, hz, List.foldl]; omega) (fun N Q hN => ?_)
  have e0 : bits N 30 27 = 5 := bits_seg [] [(4, 5)] [(7, 21), (4, t.code), (2, 0), (3, d.val), (5, a.val), (5, b.val), (1, b2n k)] hall hN rfl rfl rfl
  have e1 : bits N 26 20 = 21 := bits_seg [(4, 5)] [(7, 21)] [(4, t.code), (2, 0), (3, d.val), (5, a.val), (5, b.val), (1, b2n k)] hall hN rfl rfl rfl
  have e2 : bits N 15 14 = 0 := bits_seg [(4, 5), (7, 21), (4, t.code)] [(2, 0)] [(3, d.val), (5, a.val), (5, b.val), (1, b2n k)] hall hN rfl rfl rfl
  have e3 : bits N 19 16 = t.code := bits_seg [(4, 5), (7, 21)] [(4, t.code)] [(2, 0), (3, d.val), (5, a.val), (5, b.val), (1, b2n k)] hall hN (hz_one _ _) rfl rfl
  have e4 : fin8 N 11 = d := fin8_eq (seg [(4, 5), (7, 21), (4, t.code), (2, 0)] [(3, d.val)] [(5, a.val), (5, b.val), (1, b2n k)] hall hN (hz_one _ _))
  have e5 : xreg N 6 = a := xreg_eq (seg [(4, 5), (7, 21), (4, t.code), (2, 0), (3, d.val)] [(5, a.val)] [(5, b.val), (1, b2n k)] hall hN (hz_one _ _))
  have e6 : xreg N 1 = b := xreg_eq (seg [(4, 5), (7, 21), (4, t.code), (2, 0), (3, d.val), (5, a.val)] [(5, b.val)] [(1, b2n k)] hall hN (hz_one _ _))
  have e7 : bit N 0 = k := bit_eq (seg [(4, 5), (7, 21), (4, t.code), (2, 0), (3, d.val), (5, a.val), (5, b.val)] [(1, b2n k)] [] hall hN (hz_one _ _))
  rw [decodeFields, e0]; show decodeVR N = _; rw [decodeVR, e1]; show (if bits N 15 14 == 0 then (ElemTy.ofCode (bits N 19 16)).bind (fun t => some (Instr.vcmpGe t (fin8 N 11) (xreg N 6) (xreg N 1) (bit N 0))) else none) = _
  simp only [e2, e3, e4, e5, e6, e7, ElemTy.ofCode_code, Option.bind_some, beq_self_eq_true, ↓reduceIte]

theorem vwadd (t : ElemTy) (d : VReg) (a : VReg) (b : VReg) (k : Bool) : Statement (.vwadd t d a b k) := by
  have hall : Fits [(4, 5), (7, 22), (4, t.code), (5, d.val), (5, a.val), (5, b.val), (1, b2n k)] := all_cons (by decide) (all_cons (by decide) (all_cons (ElemTy.code_lt t) (all_cons (d.isLt) (all_cons (a.isLt) (all_cons (b.isLt) (all_cons (b2n_lt k) (all_nil)))))))
  refine of_segs rfl [(4, 5), (7, 22), (4, t.code), (5, d.val), (5, a.val), (5, b.val), (1, b2n k)] rfl trivial hall (by simp only [pack, hz, List.foldl]; omega) (fun N Q hN => ?_)
  have e0 : bits N 30 27 = 5 := bits_seg [] [(4, 5)] [(7, 22), (4, t.code), (5, d.val), (5, a.val), (5, b.val), (1, b2n k)] hall hN rfl rfl rfl
  have e1 : bits N 26 20 = 22 := bits_seg [(4, 5)] [(7, 22)] [(4, t.code), (5, d.val), (5, a.val), (5, b.val), (1, b2n k)] hall hN rfl rfl rfl
  have e2 : bits N 19 16 = t.code := bits_seg [(4, 5), (7, 22)] [(4, t.code)] [(5, d.val), (5, a.val), (5, b.val), (1, b2n k)] hall hN (hz_one _ _) rfl rfl
  have e3 : xreg N 11 = d := xreg_eq (seg [(4, 5), (7, 22), (4, t.code)] [(5, d.val)] [(5, a.val), (5, b.val), (1, b2n k)] hall hN (hz_one _ _))
  have e4 : xreg N 6 = a := xreg_eq (seg [(4, 5), (7, 22), (4, t.code), (5, d.val)] [(5, a.val)] [(5, b.val), (1, b2n k)] hall hN (hz_one _ _))
  have e5 : xreg N 1 = b := xreg_eq (seg [(4, 5), (7, 22), (4, t.code), (5, d.val), (5, a.val)] [(5, b.val)] [(1, b2n k)] hall hN (hz_one _ _))
  have e6 : bit N 0 = k := bit_eq (seg [(4, 5), (7, 22), (4, t.code), (5, d.val), (5, a.val), (5, b.val)] [(1, b2n k)] [] hall hN (hz_one _ _))
  rw [decodeFields, e0]; show decodeVR N = _; rw [decodeVR, e1]; show ((ElemTy.ofCode (bits N 19 16)).bind (fun t => some (Instr.vwadd t (xreg N 11) (xreg N 6) (xreg N 1) (bit N 0)))) = _
  simp only [e2, e3, e4, e5, e6, ElemTy.ofCode_code, Option.bind_some]

theorem vwmul (t : ElemTy) (d : VReg) (a : VReg) (b : VReg) (k : Bool) : Statement (.vwmul t d a b k) := by
  have hall : Fits [(4, 5), (7, 23), (4, t.code), (5, d.val), (5, a.val), (5, b.val), (1, b2n k)] := all_cons (by decide) (all_cons (by decide) (all_cons (ElemTy.code_lt t) (all_cons (d.isLt) (all_cons (a.isLt) (all_cons (b.isLt) (all_cons (b2n_lt k) (all_nil)))))))
  refine of_segs rfl [(4, 5), (7, 23), (4, t.code), (5, d.val), (5, a.val), (5, b.val), (1, b2n k)] rfl trivial hall (by simp only [pack, hz, List.foldl]; omega) (fun N Q hN => ?_)
  have e0 : bits N 30 27 = 5 := bits_seg [] [(4, 5)] [(7, 23), (4, t.code), (5, d.val), (5, a.val), (5, b.val), (1, b2n k)] hall hN rfl rfl rfl
  have e1 : bits N 26 20 = 23 := bits_seg [(4, 5)] [(7, 23)] [(4, t.code), (5, d.val), (5, a.val), (5, b.val), (1, b2n k)] hall hN rfl rfl rfl
  have e2 : bits N 19 16 = t.code := bits_seg [(4, 5), (7, 23)] [(4, t.code)] [(5, d.val), (5, a.val), (5, b.val), (1, b2n k)] hall hN (hz_one _ _) rfl rfl
  have e3 : xreg N 11 = d := xreg_eq (seg [(4, 5), (7, 23), (4, t.code)] [(5, d.val)] [(5, a.val), (5, b.val), (1, b2n k)] hall hN (hz_one _ _))
  have e4 : xreg N 6 = a := xreg_eq (seg [(4, 5), (7, 23), (4, t.code), (5, d.val)] [(5, a.val)] [(5, b.val), (1, b2n k)] hall hN (hz_one _ _))
  have e5 : xreg N 1 = b := xreg_eq (seg [(4, 5), (7, 23), (4, t.code), (5, d.val), (5, a.val)] [(5, b.val)] [(1, b2n k)] hall hN (hz_one _ _))
  have e6 : bit N 0 = k := bit_eq (seg [(4, 5), (7, 23), (4, t.code), (5, d.val), (5, a.val), (5, b.val)] [(1, b2n k)] [] hall hN (hz_one _ _))
  rw [decodeFields, e0]; show decodeVR N = _; rw [decodeVR, e1]; show ((ElemTy.ofCode (bits N 19 16)).bind (fun t => some (Instr.vwmul t (xreg N 11) (xreg N 6) (xreg N 1) (bit N 0)))) = _
  simp only [e2, e3, e4, e5, e6, ElemTy.ofCode_code, Option.bind_some]

theorem vwfma (t : ElemTy) (d : VReg) (a : VReg) (b : VReg) (k : Bool) : Statement (.vwfma t d a b k) := by
  have hall : Fits [(4, 5), (7, 24), (4, t.code), (5, d.val), (5, a.val), (5, b.val), (1, b2n k)] := all_cons (by decide) (all_cons (by decide) (all_cons (ElemTy.code_lt t) (all_cons (d.isLt) (all_cons (a.isLt) (all_cons (b.isLt) (all_cons (b2n_lt k) (all_nil)))))))
  refine of_segs rfl [(4, 5), (7, 24), (4, t.code), (5, d.val), (5, a.val), (5, b.val), (1, b2n k)] rfl trivial hall (by simp only [pack, hz, List.foldl]; omega) (fun N Q hN => ?_)
  have e0 : bits N 30 27 = 5 := bits_seg [] [(4, 5)] [(7, 24), (4, t.code), (5, d.val), (5, a.val), (5, b.val), (1, b2n k)] hall hN rfl rfl rfl
  have e1 : bits N 26 20 = 24 := bits_seg [(4, 5)] [(7, 24)] [(4, t.code), (5, d.val), (5, a.val), (5, b.val), (1, b2n k)] hall hN rfl rfl rfl
  have e2 : bits N 19 16 = t.code := bits_seg [(4, 5), (7, 24)] [(4, t.code)] [(5, d.val), (5, a.val), (5, b.val), (1, b2n k)] hall hN (hz_one _ _) rfl rfl
  have e3 : xreg N 11 = d := xreg_eq (seg [(4, 5), (7, 24), (4, t.code)] [(5, d.val)] [(5, a.val), (5, b.val), (1, b2n k)] hall hN (hz_one _ _))
  have e4 : xreg N 6 = a := xreg_eq (seg [(4, 5), (7, 24), (4, t.code), (5, d.val)] [(5, a.val)] [(5, b.val), (1, b2n k)] hall hN (hz_one _ _))
  have e5 : xreg N 1 = b := xreg_eq (seg [(4, 5), (7, 24), (4, t.code), (5, d.val), (5, a.val)] [(5, b.val)] [(1, b2n k)] hall hN (hz_one _ _))
  have e6 : bit N 0 = k := bit_eq (seg [(4, 5), (7, 24), (4, t.code), (5, d.val), (5, a.val), (5, b.val)] [(1, b2n k)] [] hall hN (hz_one _ _))
  rw [decodeFields, e0]; show decodeVR N = _; rw [decodeVR, e1]; show ((ElemTy.ofCode (bits N 19 16)).bind (fun t => some (Instr.vwfma t (xreg N 11) (xreg N 6) (xreg N 1) (bit N 0)))) = _
  simp only [e2, e3, e4, e5, e6, ElemTy.ofCode_code, Option.bind_some]

theorem vrcp (t : ElemTy) (d : VReg) (a : VReg) (k : Bool) : Statement (.vrcp t d a k) := by
  have hall : Fits [(4, 5), (7, 25), (4, t.code), (5, d.val), (5, a.val), (5, 0), (1, b2n k)] := all_cons (by decide) (all_cons (by decide) (all_cons (ElemTy.code_lt t) (all_cons (d.isLt) (all_cons (a.isLt) (all_cons (by decide) (all_cons (b2n_lt k) (all_nil)))))))
  refine of_segs rfl [(4, 5), (7, 25), (4, t.code), (5, d.val), (5, a.val), (5, 0), (1, b2n k)] rfl trivial hall (by simp only [pack, hz, List.foldl]; omega) (fun N Q hN => ?_)
  have e0 : bits N 30 27 = 5 := bits_seg [] [(4, 5)] [(7, 25), (4, t.code), (5, d.val), (5, a.val), (5, 0), (1, b2n k)] hall hN rfl rfl rfl
  have e1 : bits N 26 20 = 25 := bits_seg [(4, 5)] [(7, 25)] [(4, t.code), (5, d.val), (5, a.val), (5, 0), (1, b2n k)] hall hN rfl rfl rfl
  have e2 : bits N 5 1 = 0 := bits_seg [(4, 5), (7, 25), (4, t.code), (5, d.val), (5, a.val)] [(5, 0)] [(1, b2n k)] hall hN rfl rfl rfl
  have e3 : bits N 19 16 = t.code := bits_seg [(4, 5), (7, 25)] [(4, t.code)] [(5, d.val), (5, a.val), (5, 0), (1, b2n k)] hall hN (hz_one _ _) rfl rfl
  have e4 : xreg N 11 = d := xreg_eq (seg [(4, 5), (7, 25), (4, t.code)] [(5, d.val)] [(5, a.val), (5, 0), (1, b2n k)] hall hN (hz_one _ _))
  have e5 : xreg N 6 = a := xreg_eq (seg [(4, 5), (7, 25), (4, t.code), (5, d.val)] [(5, a.val)] [(5, 0), (1, b2n k)] hall hN (hz_one _ _))
  have e6 : bit N 0 = k := bit_eq (seg [(4, 5), (7, 25), (4, t.code), (5, d.val), (5, a.val), (5, 0)] [(1, b2n k)] [] hall hN (hz_one _ _))
  rw [decodeFields, e0]; show decodeVR N = _; rw [decodeVR, e1]; show (if bits N 5 1 == 0 then (ElemTy.ofCode (bits N 19 16)).bind (fun t => some (Instr.vrcp t (xreg N 11) (xreg N 6) (bit N 0))) else none) = _
  simp only [e2, e3, e4, e5, e6, ElemTy.ofCode_code, Option.bind_some, beq_self_eq_true, ↓reduceIte]

theorem vrsqrt (t : ElemTy) (d : VReg) (a : VReg) (k : Bool) : Statement (.vrsqrt t d a k) := by
  have hall : Fits [(4, 5), (7, 26), (4, t.code), (5, d.val), (5, a.val), (5, 0), (1, b2n k)] := all_cons (by decide) (all_cons (by decide) (all_cons (ElemTy.code_lt t) (all_cons (d.isLt) (all_cons (a.isLt) (all_cons (by decide) (all_cons (b2n_lt k) (all_nil)))))))
  refine of_segs rfl [(4, 5), (7, 26), (4, t.code), (5, d.val), (5, a.val), (5, 0), (1, b2n k)] rfl trivial hall (by simp only [pack, hz, List.foldl]; omega) (fun N Q hN => ?_)
  have e0 : bits N 30 27 = 5 := bits_seg [] [(4, 5)] [(7, 26), (4, t.code), (5, d.val), (5, a.val), (5, 0), (1, b2n k)] hall hN rfl rfl rfl
  have e1 : bits N 26 20 = 26 := bits_seg [(4, 5)] [(7, 26)] [(4, t.code), (5, d.val), (5, a.val), (5, 0), (1, b2n k)] hall hN rfl rfl rfl
  have e2 : bits N 5 1 = 0 := bits_seg [(4, 5), (7, 26), (4, t.code), (5, d.val), (5, a.val)] [(5, 0)] [(1, b2n k)] hall hN rfl rfl rfl
  have e3 : bits N 19 16 = t.code := bits_seg [(4, 5), (7, 26)] [(4, t.code)] [(5, d.val), (5, a.val), (5, 0), (1, b2n k)] hall hN (hz_one _ _) rfl rfl
  have e4 : xreg N 11 = d := xreg_eq (seg [(4, 5), (7, 26), (4, t.code)] [(5, d.val)] [(5, a.val), (5, 0), (1, b2n k)] hall hN (hz_one _ _))
  have e5 : xreg N 6 = a := xreg_eq (seg [(4, 5), (7, 26), (4, t.code), (5, d.val)] [(5, a.val)] [(5, 0), (1, b2n k)] hall hN (hz_one _ _))
  have e6 : bit N 0 = k := bit_eq (seg [(4, 5), (7, 26), (4, t.code), (5, d.val), (5, a.val), (5, 0)] [(1, b2n k)] [] hall hN (hz_one _ _))
  rw [decodeFields, e0]; show decodeVR N = _; rw [decodeVR, e1]; show (if bits N 5 1 == 0 then (ElemTy.ofCode (bits N 19 16)).bind (fun t => some (Instr.vrsqrt t (xreg N 11) (xreg N 6) (bit N 0))) else none) = _
  simp only [e2, e3, e4, e5, e6, ElemTy.ofCode_code, Option.bind_some, beq_self_eq_true, ↓reduceIte]

theorem vexp2 (t : ElemTy) (d : VReg) (a : VReg) (k : Bool) : Statement (.vexp2 t d a k) := by
  have hall : Fits [(4, 5), (7, 27), (4, t.code), (5, d.val), (5, a.val), (5, 0), (1, b2n k)] := all_cons (by decide) (all_cons (by decide) (all_cons (ElemTy.code_lt t) (all_cons (d.isLt) (all_cons (a.isLt) (all_cons (by decide) (all_cons (b2n_lt k) (all_nil)))))))
  refine of_segs rfl [(4, 5), (7, 27), (4, t.code), (5, d.val), (5, a.val), (5, 0), (1, b2n k)] rfl trivial hall (by simp only [pack, hz, List.foldl]; omega) (fun N Q hN => ?_)
  have e0 : bits N 30 27 = 5 := bits_seg [] [(4, 5)] [(7, 27), (4, t.code), (5, d.val), (5, a.val), (5, 0), (1, b2n k)] hall hN rfl rfl rfl
  have e1 : bits N 26 20 = 27 := bits_seg [(4, 5)] [(7, 27)] [(4, t.code), (5, d.val), (5, a.val), (5, 0), (1, b2n k)] hall hN rfl rfl rfl
  have e2 : bits N 5 1 = 0 := bits_seg [(4, 5), (7, 27), (4, t.code), (5, d.val), (5, a.val)] [(5, 0)] [(1, b2n k)] hall hN rfl rfl rfl
  have e3 : bits N 19 16 = t.code := bits_seg [(4, 5), (7, 27)] [(4, t.code)] [(5, d.val), (5, a.val), (5, 0), (1, b2n k)] hall hN (hz_one _ _) rfl rfl
  have e4 : xreg N 11 = d := xreg_eq (seg [(4, 5), (7, 27), (4, t.code)] [(5, d.val)] [(5, a.val), (5, 0), (1, b2n k)] hall hN (hz_one _ _))
  have e5 : xreg N 6 = a := xreg_eq (seg [(4, 5), (7, 27), (4, t.code), (5, d.val)] [(5, a.val)] [(5, 0), (1, b2n k)] hall hN (hz_one _ _))
  have e6 : bit N 0 = k := bit_eq (seg [(4, 5), (7, 27), (4, t.code), (5, d.val), (5, a.val), (5, 0)] [(1, b2n k)] [] hall hN (hz_one _ _))
  rw [decodeFields, e0]; show decodeVR N = _; rw [decodeVR, e1]; show (if bits N 5 1 == 0 then (ElemTy.ofCode (bits N 19 16)).bind (fun t => some (Instr.vexp2 t (xreg N 11) (xreg N 6) (bit N 0))) else none) = _
  simp only [e2, e3, e4, e5, e6, ElemTy.ofCode_code, Option.bind_some, beq_self_eq_true, ↓reduceIte]

theorem vlog2 (t : ElemTy) (d : VReg) (a : VReg) (k : Bool) : Statement (.vlog2 t d a k) := by
  have hall : Fits [(4, 5), (7, 28), (4, t.code), (5, d.val), (5, a.val), (5, 0), (1, b2n k)] := all_cons (by decide) (all_cons (by decide) (all_cons (ElemTy.code_lt t) (all_cons (d.isLt) (all_cons (a.isLt) (all_cons (by decide) (all_cons (b2n_lt k) (all_nil)))))))
  refine of_segs rfl [(4, 5), (7, 28), (4, t.code), (5, d.val), (5, a.val), (5, 0), (1, b2n k)] rfl trivial hall (by simp only [pack, hz, List.foldl]; omega) (fun N Q hN => ?_)
  have e0 : bits N 30 27 = 5 := bits_seg [] [(4, 5)] [(7, 28), (4, t.code), (5, d.val), (5, a.val), (5, 0), (1, b2n k)] hall hN rfl rfl rfl
  have e1 : bits N 26 20 = 28 := bits_seg [(4, 5)] [(7, 28)] [(4, t.code), (5, d.val), (5, a.val), (5, 0), (1, b2n k)] hall hN rfl rfl rfl
  have e2 : bits N 5 1 = 0 := bits_seg [(4, 5), (7, 28), (4, t.code), (5, d.val), (5, a.val)] [(5, 0)] [(1, b2n k)] hall hN rfl rfl rfl
  have e3 : bits N 19 16 = t.code := bits_seg [(4, 5), (7, 28)] [(4, t.code)] [(5, d.val), (5, a.val), (5, 0), (1, b2n k)] hall hN (hz_one _ _) rfl rfl
  have e4 : xreg N 11 = d := xreg_eq (seg [(4, 5), (7, 28), (4, t.code)] [(5, d.val)] [(5, a.val), (5, 0), (1, b2n k)] hall hN (hz_one _ _))
  have e5 : xreg N 6 = a := xreg_eq (seg [(4, 5), (7, 28), (4, t.code), (5, d.val)] [(5, a.val)] [(5, 0), (1, b2n k)] hall hN (hz_one _ _))
  have e6 : bit N 0 = k := bit_eq (seg [(4, 5), (7, 28), (4, t.code), (5, d.val), (5, a.val), (5, 0)] [(1, b2n k)] [] hall hN (hz_one _ _))
  rw [decodeFields, e0]; show decodeVR N = _; rw [decodeVR, e1]; show (if bits N 5 1 == 0 then (ElemTy.ofCode (bits N 19 16)).bind (fun t => some (Instr.vlog2 t (xreg N 11) (xreg N 6) (bit N 0))) else none) = _
  simp only [e2, e3, e4, e5, e6, ElemTy.ofCode_code, Option.bind_some, beq_self_eq_true, ↓reduceIte]

theorem vredsum (t : ElemTy) (d : VReg) (a : VReg) (k : Bool) : Statement (.vredsum t d a k) := by
  have hall : Fits [(4, 5), (7, 29), (4, t.code), (5, d.val), (5, a.val), (5, 0), (1, b2n k)] := all_cons (by decide) (all_cons (by decide) (all_cons (ElemTy.code_lt t) (all_cons (d.isLt) (all_cons (a.isLt) (all_cons (by decide) (all_cons (b2n_lt k) (all_nil)))))))
  refine of_segs rfl [(4, 5), (7, 29), (4, t.code), (5, d.val), (5, a.val), (5, 0), (1, b2n k)] rfl trivial hall (by simp only [pack, hz, List.foldl]; omega) (fun N Q hN => ?_)
  have e0 : bits N 30 27 = 5 := bits_seg [] [(4, 5)] [(7, 29), (4, t.code), (5, d.val), (5, a.val), (5, 0), (1, b2n k)] hall hN rfl rfl rfl
  have e1 : bits N 26 20 = 29 := bits_seg [(4, 5)] [(7, 29)] [(4, t.code), (5, d.val), (5, a.val), (5, 0), (1, b2n k)] hall hN rfl rfl rfl
  have e2 : bits N 5 1 = 0 := bits_seg [(4, 5), (7, 29), (4, t.code), (5, d.val), (5, a.val)] [(5, 0)] [(1, b2n k)] hall hN rfl rfl rfl
  have e3 : bits N 19 16 = t.code := bits_seg [(4, 5), (7, 29)] [(4, t.code)] [(5, d.val), (5, a.val), (5, 0), (1, b2n k)] hall hN (hz_one _ _) rfl rfl
  have e4 : xreg N 11 = d := xreg_eq (seg [(4, 5), (7, 29), (4, t.code)] [(5, d.val)] [(5, a.val), (5, 0), (1, b2n k)] hall hN (hz_one _ _))
  have e5 : xreg N 6 = a := xreg_eq (seg [(4, 5), (7, 29), (4, t.code), (5, d.val)] [(5, a.val)] [(5, 0), (1, b2n k)] hall hN (hz_one _ _))
  have e6 : bit N 0 = k := bit_eq (seg [(4, 5), (7, 29), (4, t.code), (5, d.val), (5, a.val), (5, 0)] [(1, b2n k)] [] hall hN (hz_one _ _))
  rw [decodeFields, e0]; show decodeVR N = _; rw [decodeVR, e1]; show (if bits N 5 1 == 0 then (ElemTy.ofCode (bits N 19 16)).bind (fun t => some (Instr.vredsum t (xreg N 11) (xreg N 6) (bit N 0))) else none) = _
  simp only [e2, e3, e4, e5, e6, ElemTy.ofCode_code, Option.bind_some, beq_self_eq_true, ↓reduceIte]

theorem vredmax (t : ElemTy) (d : VReg) (a : VReg) (k : Bool) : Statement (.vredmax t d a k) := by
  have hall : Fits [(4, 5), (7, 30), (4, t.code), (5, d.val), (5, a.val), (5, 0), (1, b2n k)] := all_cons (by decide) (all_cons (by decide) (all_cons (ElemTy.code_lt t) (all_cons (d.isLt) (all_cons (a.isLt) (all_cons (by decide) (all_cons (b2n_lt k) (all_nil)))))))
  refine of_segs rfl [(4, 5), (7, 30), (4, t.code), (5, d.val), (5, a.val), (5, 0), (1, b2n k)] rfl trivial hall (by simp only [pack, hz, List.foldl]; omega) (fun N Q hN => ?_)
  have e0 : bits N 30 27 = 5 := bits_seg [] [(4, 5)] [(7, 30), (4, t.code), (5, d.val), (5, a.val), (5, 0), (1, b2n k)] hall hN rfl rfl rfl
  have e1 : bits N 26 20 = 30 := bits_seg [(4, 5)] [(7, 30)] [(4, t.code), (5, d.val), (5, a.val), (5, 0), (1, b2n k)] hall hN rfl rfl rfl
  have e2 : bits N 5 1 = 0 := bits_seg [(4, 5), (7, 30), (4, t.code), (5, d.val), (5, a.val)] [(5, 0)] [(1, b2n k)] hall hN rfl rfl rfl
  have e3 : bits N 19 16 = t.code := bits_seg [(4, 5), (7, 30)] [(4, t.code)] [(5, d.val), (5, a.val), (5, 0), (1, b2n k)] hall hN (hz_one _ _) rfl rfl
  have e4 : xreg N 11 = d := xreg_eq (seg [(4, 5), (7, 30), (4, t.code)] [(5, d.val)] [(5, a.val), (5, 0), (1, b2n k)] hall hN (hz_one _ _))
  have e5 : xreg N 6 = a := xreg_eq (seg [(4, 5), (7, 30), (4, t.code), (5, d.val)] [(5, a.val)] [(5, 0), (1, b2n k)] hall hN (hz_one _ _))
  have e6 : bit N 0 = k := bit_eq (seg [(4, 5), (7, 30), (4, t.code), (5, d.val), (5, a.val), (5, 0)] [(1, b2n k)] [] hall hN (hz_one _ _))
  rw [decodeFields, e0]; show decodeVR N = _; rw [decodeVR, e1]; show (if bits N 5 1 == 0 then (ElemTy.ofCode (bits N 19 16)).bind (fun t => some (Instr.vredmax t (xreg N 11) (xreg N 6) (bit N 0))) else none) = _
  simp only [e2, e3, e4, e5, e6, ElemTy.ofCode_code, Option.bind_some, beq_self_eq_true, ↓reduceIte]

theorem vscan (t : ElemTy) (d : VReg) (a : VReg) (k : Bool) : Statement (.vscan t d a k) := by
  have hall : Fits [(4, 5), (7, 31), (4, t.code), (5, d.val), (5, a.val), (5, 0), (1, b2n k)] := all_cons (by decide) (all_cons (by decide) (all_cons (ElemTy.code_lt t) (all_cons (d.isLt) (all_cons (a.isLt) (all_cons (by decide) (all_cons (b2n_lt k) (all_nil)))))))
  refine of_segs rfl [(4, 5), (7, 31), (4, t.code), (5, d.val), (5, a.val), (5, 0), (1, b2n k)] rfl trivial hall (by simp only [pack, hz, List.foldl]; omega) (fun N Q hN => ?_)
  have e0 : bits N 30 27 = 5 := bits_seg [] [(4, 5)] [(7, 31), (4, t.code), (5, d.val), (5, a.val), (5, 0), (1, b2n k)] hall hN rfl rfl rfl
  have e1 : bits N 26 20 = 31 := bits_seg [(4, 5)] [(7, 31)] [(4, t.code), (5, d.val), (5, a.val), (5, 0), (1, b2n k)] hall hN rfl rfl rfl
  have e2 : bits N 5 1 = 0 := bits_seg [(4, 5), (7, 31), (4, t.code), (5, d.val), (5, a.val)] [(5, 0)] [(1, b2n k)] hall hN rfl rfl rfl
  have e3 : bits N 19 16 = t.code := bits_seg [(4, 5), (7, 31)] [(4, t.code)] [(5, d.val), (5, a.val), (5, 0), (1, b2n k)] hall hN (hz_one _ _) rfl rfl
  have e4 : xreg N 11 = d := xreg_eq (seg [(4, 5), (7, 31), (4, t.code)] [(5, d.val)] [(5, a.val), (5, 0), (1, b2n k)] hall hN (hz_one _ _))
  have e5 : xreg N 6 = a := xreg_eq (seg [(4, 5), (7, 31), (4, t.code), (5, d.val)] [(5, a.val)] [(5, 0), (1, b2n k)] hall hN (hz_one _ _))
  have e6 : bit N 0 = k := bit_eq (seg [(4, 5), (7, 31), (4, t.code), (5, d.val), (5, a.val), (5, 0)] [(1, b2n k)] [] hall hN (hz_one _ _))
  rw [decodeFields, e0]; show decodeVR N = _; rw [decodeVR, e1]; show (if bits N 5 1 == 0 then (ElemTy.ofCode (bits N 19 16)).bind (fun t => some (Instr.vscan t (xreg N 11) (xreg N 6) (bit N 0))) else none) = _
  simp only [e2, e3, e4, e5, e6, ElemTy.ofCode_code, Option.bind_some, beq_self_eq_true, ↓reduceIte]

theorem vbcast (t : ElemTy) (d : VReg) (a : XReg) (k : Bool) : Statement (.vbcast t d a k) := by
  have hall : Fits [(4, 5), (7, 32), (4, t.code), (5, d.val), (5, a.val), (5, 0), (1, b2n k)] := all_cons (by decide) (all_cons (by decide) (all_cons (ElemTy.code_lt t) (all_cons (d.isLt) (all_cons (a.isLt) (all_cons (by decide) (all_cons (b2n_lt k) (all_nil)))))))
  refine of_segs rfl [(4, 5), (7, 32), (4, t.code), (5, d.val), (5, a.val), (5, 0), (1, b2n k)] rfl trivial hall (by simp only [pack, hz, List.foldl]; omega) (fun N Q hN => ?_)
  have e0 : bits N 30 27 = 5 := bits_seg [] [(4, 5)] [(7, 32), (4, t.code), (5, d.val), (5, a.val), (5, 0), (1, b2n k)] hall hN rfl rfl rfl
  have e1 : bits N 26 20 = 32 := bits_seg [(4, 5)] [(7, 32)] [(4, t.code), (5, d.val), (5, a.val), (5, 0), (1, b2n k)] hall hN rfl rfl rfl
  have e2 : bits N 5 1 = 0 := bits_seg [(4, 5), (7, 32), (4, t.code), (5, d.val), (5, a.val)] [(5, 0)] [(1, b2n k)] hall hN rfl rfl rfl
  have e3 : bits N 19 16 = t.code := bits_seg [(4, 5), (7, 32)] [(4, t.code)] [(5, d.val), (5, a.val), (5, 0), (1, b2n k)] hall hN (hz_one _ _) rfl rfl
  have e4 : xreg N 11 = d := xreg_eq (seg [(4, 5), (7, 32), (4, t.code)] [(5, d.val)] [(5, a.val), (5, 0), (1, b2n k)] hall hN (hz_one _ _))
  have e5 : xreg N 6 = a := xreg_eq (seg [(4, 5), (7, 32), (4, t.code), (5, d.val)] [(5, a.val)] [(5, 0), (1, b2n k)] hall hN (hz_one _ _))
  have e6 : bit N 0 = k := bit_eq (seg [(4, 5), (7, 32), (4, t.code), (5, d.val), (5, a.val), (5, 0)] [(1, b2n k)] [] hall hN (hz_one _ _))
  rw [decodeFields, e0]; show decodeVR N = _; rw [decodeVR, e1]; show (if bits N 5 1 == 0 then (ElemTy.ofCode (bits N 19 16)).bind (fun t => some (Instr.vbcast t (xreg N 11) (xreg N 6) (bit N 0))) else none) = _
  simp only [e2, e3, e4, e5, e6, ElemTy.ofCode_code, Option.bind_some, beq_self_eq_true, ↓reduceIte]

theorem vmovx (t : ElemTy) (d : XReg) (a : VReg) (b : XReg) : Statement (.vmovx t d a b) := by
  have hall : Fits [(4, 5), (7, 33), (4, t.code), (5, d.val), (5, a.val), (5, b.val), (1, 0)] := all_cons (by decide) (all_cons (by decide) (all_cons (ElemTy.code_lt t) (all_cons (d.isLt) (all_cons (a.isLt) (all_cons (b.isLt) (all_cons (by decide) (all_nil)))))))
  refine of_segs rfl [(4, 5), (7, 33), (4, t.code), (5, d.val), (5, a.val), (5, b.val), (1, 0)] rfl trivial hall (by simp only [pack, hz, List.foldl]; omega) (fun N Q hN => ?_)
  have e0 : bits N 30 27 = 5 := bits_seg [] [(4, 5)] [(7, 33), (4, t.code), (5, d.val), (5, a.val), (5, b.val), (1, 0)] hall hN rfl rfl rfl
  have e1 : bits N 26 20 = 33 := bits_seg [(4, 5)] [(7, 33)] [(4, t.code), (5, d.val), (5, a.val), (5, b.val), (1, 0)] hall hN rfl rfl rfl
  have e2 : bits N 0 0 = 0 := bits_seg [(4, 5), (7, 33), (4, t.code), (5, d.val), (5, a.val), (5, b.val)] [(1, 0)] [] hall hN rfl rfl rfl
  have e3 : bits N 19 16 = t.code := bits_seg [(4, 5), (7, 33)] [(4, t.code)] [(5, d.val), (5, a.val), (5, b.val), (1, 0)] hall hN (hz_one _ _) rfl rfl
  have e4 : xreg N 11 = d := xreg_eq (seg [(4, 5), (7, 33), (4, t.code)] [(5, d.val)] [(5, a.val), (5, b.val), (1, 0)] hall hN (hz_one _ _))
  have e5 : xreg N 6 = a := xreg_eq (seg [(4, 5), (7, 33), (4, t.code), (5, d.val)] [(5, a.val)] [(5, b.val), (1, 0)] hall hN (hz_one _ _))
  have e6 : xreg N 1 = b := xreg_eq (seg [(4, 5), (7, 33), (4, t.code), (5, d.val), (5, a.val)] [(5, b.val)] [(1, 0)] hall hN (hz_one _ _))
  rw [decodeFields, e0]; show decodeVR N = _; rw [decodeVR, e1]; show (if bits N 0 0 == 0 then (ElemTy.ofCode (bits N 19 16)).bind (fun t => some (Instr.vmovx t (xreg N 11) (xreg N 6) (xreg N 1))) else none) = _
  simp only [e2, e3, e4, e5, e6, ElemTy.ofCode_code, Option.bind_some, beq_self_eq_true, ↓reduceIte]

theorem vins (t : ElemTy) (d : VReg) (a : XReg) (b : XReg) : Statement (.vins t d a b) := by
  have hall : Fits [(4, 5), (7, 34), (4, t.code), (5, d.val), (5, a.val), (5, b.val), (1, 0)] := all_cons (by decide) (all_cons (by decide) (all_cons (ElemTy.code_lt t) (all_cons (d.isLt) (all_cons (a.isLt) (all_cons (b.isLt) (all_cons (by decide) (all_nil)))))))
  refine of_segs rfl [(4, 5), (7, 34), (4, t.code), (5, d.val), (5, a.val), (5, b.val), (1, 0)] rfl trivial hall (by simp only [pack, hz, List.foldl]; omega) (fun N Q hN => ?_)
  have e0 : bits N 30 27 = 5 := bits_seg [] [(4, 5)] [(7, 34), (4, t.code), (5, d.val), (5, a.val), (5, b.val), (1, 0)] hall hN rfl rfl rfl
  have e1 : bits N 26 20 = 34 := bits_seg [(4, 5)] [(7, 34)] [(4, t.code), (5, d.val), (5, a.val), (5, b.val), (1, 0)] hall hN rfl rfl rfl
  have e2 : bits N 0 0 = 0 := bits_seg [(4, 5), (7, 34), (4, t.code), (5, d.val), (5, a.val), (5, b.val)] [(1, 0)] [] hall hN rfl rfl rfl
  have e3 : bits N 19 16 = t.code := bits_seg [(4, 5), (7, 34)] [(4, t.code)] [(5, d.val), (5, a.val), (5, b.val), (1, 0)] hall hN (hz_one _ _) rfl rfl
  have e4 : xreg N 11 = d := xreg_eq (seg [(4, 5), (7, 34), (4, t.code)] [(5, d.val)] [(5, a.val), (5, b.val), (1, 0)] hall hN (hz_one _ _))
  have e5 : xreg N 6 = a := xreg_eq (seg [(4, 5), (7, 34), (4, t.code), (5, d.val)] [(5, a.val)] [(5, b.val), (1, 0)] hall hN (hz_one _ _))
  have e6 : xreg N 1 = b := xreg_eq (seg [(4, 5), (7, 34), (4, t.code), (5, d.val), (5, a.val)] [(5, b.val)] [(1, 0)] hall hN (hz_one _ _))
  rw [decodeFields, e0]; show decodeVR N = _; rw [decodeVR, e1]; show (if bits N 0 0 == 0 then (ElemTy.ofCode (bits N 19 16)).bind (fun t => some (Instr.vins t (xreg N 11) (xreg N 6) (xreg N 1))) else none) = _
  simp only [e2, e3, e4, e5, e6, ElemTy.ofCode_code, Option.bind_some, beq_self_eq_true, ↓reduceIte]

theorem vperm (t : ElemTy) (d : VReg) (a : VReg) (b : VReg) (k : Bool) : Statement (.vperm t d a b k) := by
  have hall : Fits [(4, 5), (7, 35), (4, t.code), (5, d.val), (5, a.val), (5, b.val), (1, b2n k)] := all_cons (by decide) (all_cons (by decide) (all_cons (ElemTy.code_lt t) (all_cons (d.isLt) (all_cons (a.isLt) (all_cons (b.isLt) (all_cons (b2n_lt k) (all_nil)))))))
  refine of_segs rfl [(4, 5), (7, 35), (4, t.code), (5, d.val), (5, a.val), (5, b.val), (1, b2n k)] rfl trivial hall (by simp only [pack, hz, List.foldl]; omega) (fun N Q hN => ?_)
  have e0 : bits N 30 27 = 5 := bits_seg [] [(4, 5)] [(7, 35), (4, t.code), (5, d.val), (5, a.val), (5, b.val), (1, b2n k)] hall hN rfl rfl rfl
  have e1 : bits N 26 20 = 35 := bits_seg [(4, 5)] [(7, 35)] [(4, t.code), (5, d.val), (5, a.val), (5, b.val), (1, b2n k)] hall hN rfl rfl rfl
  have e2 : bits N 19 16 = t.code := bits_seg [(4, 5), (7, 35)] [(4, t.code)] [(5, d.val), (5, a.val), (5, b.val), (1, b2n k)] hall hN (hz_one _ _) rfl rfl
  have e3 : xreg N 11 = d := xreg_eq (seg [(4, 5), (7, 35), (4, t.code)] [(5, d.val)] [(5, a.val), (5, b.val), (1, b2n k)] hall hN (hz_one _ _))
  have e4 : xreg N 6 = a := xreg_eq (seg [(4, 5), (7, 35), (4, t.code), (5, d.val)] [(5, a.val)] [(5, b.val), (1, b2n k)] hall hN (hz_one _ _))
  have e5 : xreg N 1 = b := xreg_eq (seg [(4, 5), (7, 35), (4, t.code), (5, d.val), (5, a.val)] [(5, b.val)] [(1, b2n k)] hall hN (hz_one _ _))
  have e6 : bit N 0 = k := bit_eq (seg [(4, 5), (7, 35), (4, t.code), (5, d.val), (5, a.val), (5, b.val)] [(1, b2n k)] [] hall hN (hz_one _ _))
  rw [decodeFields, e0]; show decodeVR N = _; rw [decodeVR, e1]; show ((ElemTy.ofCode (bits N 19 16)).bind (fun t => some (Instr.vperm t (xreg N 11) (xreg N 6) (xreg N 1) (bit N 0)))) = _
  simp only [e2, e3, e4, e5, e6, ElemTy.ofCode_code, Option.bind_some]

theorem vrot (t : ElemTy) (d : VReg) (a : VReg) (b : XReg) (k : Bool) : Statement (.vrot t d a b k) := by
  have hall : Fits [(4, 5), (7, 36), (4, t.code), (5, d.val), (5, a.val), (5, b.val), (1, b2n k)] := all_cons (by decide) (all_cons (by decide) (all_cons (ElemTy.code_lt t) (all_cons (d.isLt) (all_cons (a.isLt) (all_cons (b.isLt) (all_cons (b2n_lt k) (all_nil)))))))
  refine of_segs rfl [(4, 5), (7, 36), (4, t.code), (5, d.val), (5, a.val), (5, b.val), (1, b2n k)] rfl trivial hall (by simp only [pack, hz, List.foldl]; omega) (fun N Q hN => ?_)
  have e0 : bits N 30 27 = 5 := bits_seg [] [(4, 5)] [(7, 36), (4, t.code), (5, d.val), (5, a.val), (5, b.val), (1, b2n k)] hall hN rfl rfl rfl
  have e1 : bits N 26 20 = 36 := bits_seg [(4, 5)] [(7, 36)] [(4, t.code), (5, d.val), (5, a.val), (5, b.val), (1, b2n k)] hall hN rfl rfl rfl
  have e2 : bits N 19 16 = t.code := bits_seg [(4, 5), (7, 36)] [(4, t.code)] [(5, d.val), (5, a.val), (5, b.val), (1, b2n k)] hall hN (hz_one _ _) rfl rfl
  have e3 : xreg N 11 = d := xreg_eq (seg [(4, 5), (7, 36), (4, t.code)] [(5, d.val)] [(5, a.val), (5, b.val), (1, b2n k)] hall hN (hz_one _ _))
  have e4 : xreg N 6 = a := xreg_eq (seg [(4, 5), (7, 36), (4, t.code), (5, d.val)] [(5, a.val)] [(5, b.val), (1, b2n k)] hall hN (hz_one _ _))
  have e5 : xreg N 1 = b := xreg_eq (seg [(4, 5), (7, 36), (4, t.code), (5, d.val), (5, a.val)] [(5, b.val)] [(1, b2n k)] hall hN (hz_one _ _))
  have e6 : bit N 0 = k := bit_eq (seg [(4, 5), (7, 36), (4, t.code), (5, d.val), (5, a.val), (5, b.val)] [(1, b2n k)] [] hall hN (hz_one _ _))
  rw [decodeFields, e0]; show decodeVR N = _; rw [decodeVR, e1]; show ((ElemTy.ofCode (bits N 19 16)).bind (fun t => some (Instr.vrot t (xreg N 11) (xreg N 6) (xreg N 1) (bit N 0)))) = _
  simp only [e2, e3, e4, e5, e6, ElemTy.ofCode_code, Option.bind_some]

theorem mand (d : MReg) (a : MReg) (b : MReg) : Statement (.mand d a b) := by
  have hall : Fits [(4, 5), (7, 37), (6, 0), (3, d.val), (2, 0), (3, a.val), (2, 0), (3, b.val), (1, 0)] := all_cons (by decide) (all_cons (by decide) (all_cons (by decide) (all_cons (d.isLt) (all_cons (by decide) (all_cons (a.isLt) (all_cons (by decide) (all_cons (b.isLt) (all_cons (by decide) (all_nil)))))))))
  refine of_segs rfl [(4, 5), (7, 37), (6, 0), (3, d.val), (2, 0), (3, a.val), (2, 0), (3, b.val), (1, 0)] rfl trivial hall (by simp only [pack, hz, List.foldl]; omega) (fun N Q hN => ?_)
  have e0 : bits N 30 27 = 5 := bits_seg [] [(4, 5)] [(7, 37), (6, 0), (3, d.val), (2, 0), (3, a.val), (2, 0), (3, b.val), (1, 0)] hall hN rfl rfl rfl
  have e1 : bits N 26 20 = 37 := bits_seg [(4, 5)] [(7, 37)] [(6, 0), (3, d.val), (2, 0), (3, a.val), (2, 0), (3, b.val), (1, 0)] hall hN rfl rfl rfl
  have e2 : bits N 0 0 = 0 := bits_seg [(4, 5), (7, 37), (6, 0), (3, d.val), (2, 0), (3, a.val), (2, 0), (3, b.val)] [(1, 0)] [] hall hN rfl rfl rfl
  have e3 : bits N 5 4 = 0 := bits_seg [(4, 5), (7, 37), (6, 0), (3, d.val), (2, 0), (3, a.val)] [(2, 0)] [(3, b.val), (1, 0)] hall hN rfl rfl rfl
  have e4 : bits N 10 9 = 0 := bits_seg [(4, 5), (7, 37), (6, 0), (3, d.val)] [(2, 0)] [(3, a.val), (2, 0), (3, b.val), (1, 0)] hall hN rfl rfl rfl
  have e5 : bits N 19 14 = 0 := bits_seg [(4, 5), (7, 37)] [(6, 0)] [(3, d.val), (2, 0), (3, a.val), (2, 0), (3, b.val), (1, 0)] hall hN rfl rfl rfl
  have e6 : fin8 N 11 = d := fin8_eq (seg [(4, 5), (7, 37), (6, 0)] [(3, d.val)] [(2, 0), (3, a.val), (2, 0), (3, b.val), (1, 0)] hall hN (hz_one _ _))
  have e7 : fin8 N 6 = a := fin8_eq (seg [(4, 5), (7, 37), (6, 0), (3, d.val), (2, 0)] [(3, a.val)] [(2, 0), (3, b.val), (1, 0)] hall hN (hz_one _ _))
  have e8 : fin8 N 1 = b := fin8_eq (seg [(4, 5), (7, 37), (6, 0), (3, d.val), (2, 0), (3, a.val), (2, 0)] [(3, b.val)] [(1, 0)] hall hN (hz_one _ _))
  rw [decodeFields, e0]; show decodeVR N = _; rw [decodeVR, e1]; show (if bits N 0 0 == 0 && bits N 5 4 == 0 && bits N 10 9 == 0 && bits N 19 14 == 0 then some (Instr.mand (fin8 N 11) (fin8 N 6) (fin8 N 1)) else none) = _
  simp only [e2, e3, e4, e5, e6, e7, e8, beq_self_eq_true, ↓reduceIte, Bool.and_self]

theorem mor (d : MReg) (a : MReg) (b : MReg) : Statement (.mor d a b) := by
  have hall : Fits [(4, 5), (7, 38), (6, 0), (3, d.val), (2, 0), (3, a.val), (2, 0), (3, b.val), (1, 0)] := all_cons (by decide) (all_cons (by decide) (all_cons (by decide) (all_cons (d.isLt) (all_cons (by decide) (all_cons (a.isLt) (all_cons (by decide) (all_cons (b.isLt) (all_cons (by decide) (all_nil)))))))))
  refine of_segs rfl [(4, 5), (7, 38), (6, 0), (3, d.val), (2, 0), (3, a.val), (2, 0), (3, b.val), (1, 0)] rfl trivial hall (by simp only [pack, hz, List.foldl]; omega) (fun N Q hN => ?_)
  have e0 : bits N 30 27 = 5 := bits_seg [] [(4, 5)] [(7, 38), (6, 0), (3, d.val), (2, 0), (3, a.val), (2, 0), (3, b.val), (1, 0)] hall hN rfl rfl rfl
  have e1 : bits N 26 20 = 38 := bits_seg [(4, 5)] [(7, 38)] [(6, 0), (3, d.val), (2, 0), (3, a.val), (2, 0), (3, b.val), (1, 0)] hall hN rfl rfl rfl
  have e2 : bits N 0 0 = 0 := bits_seg [(4, 5), (7, 38), (6, 0), (3, d.val), (2, 0), (3, a.val), (2, 0), (3, b.val)] [(1, 0)] [] hall hN rfl rfl rfl
  have e3 : bits N 5 4 = 0 := bits_seg [(4, 5), (7, 38), (6, 0), (3, d.val), (2, 0), (3, a.val)] [(2, 0)] [(3, b.val), (1, 0)] hall hN rfl rfl rfl
  have e4 : bits N 10 9 = 0 := bits_seg [(4, 5), (7, 38), (6, 0), (3, d.val)] [(2, 0)] [(3, a.val), (2, 0), (3, b.val), (1, 0)] hall hN rfl rfl rfl
  have e5 : bits N 19 14 = 0 := bits_seg [(4, 5), (7, 38)] [(6, 0)] [(3, d.val), (2, 0), (3, a.val), (2, 0), (3, b.val), (1, 0)] hall hN rfl rfl rfl
  have e6 : fin8 N 11 = d := fin8_eq (seg [(4, 5), (7, 38), (6, 0)] [(3, d.val)] [(2, 0), (3, a.val), (2, 0), (3, b.val), (1, 0)] hall hN (hz_one _ _))
  have e7 : fin8 N 6 = a := fin8_eq (seg [(4, 5), (7, 38), (6, 0), (3, d.val), (2, 0)] [(3, a.val)] [(2, 0), (3, b.val), (1, 0)] hall hN (hz_one _ _))
  have e8 : fin8 N 1 = b := fin8_eq (seg [(4, 5), (7, 38), (6, 0), (3, d.val), (2, 0), (3, a.val), (2, 0)] [(3, b.val)] [(1, 0)] hall hN (hz_one _ _))
  rw [decodeFields, e0]; show decodeVR N = _; rw [decodeVR, e1]; show (if bits N 0 0 == 0 && bits N 5 4 == 0 && bits N 10 9 == 0 && bits N 19 14 == 0 then some (Instr.mor (fin8 N 11) (fin8 N 6) (fin8 N 1)) else none) = _
  simp only [e2, e3, e4, e5, e6, e7, e8, beq_self_eq_true, ↓reduceIte, Bool.and_self]

theorem mnot (d : MReg) (a : MReg) : Statement (.mnot d a) := by
  have hall : Fits [(4, 5), (7, 39), (6, 0), (3, d.val), (2, 0), (3, a.val), (6, 0)] := all_cons (by decide) (all_cons (by decide) (all_cons (by decide) (all_cons (d.isLt) (all_cons (by decide) (all_cons (a.isLt) (all_cons (by decide) (all_nil)))))))
  refine of_segs rfl [(4, 5), (7, 39), (6, 0), (3, d.val), (2, 0), (3, a.val), (6, 0)] rfl trivial hall (by simp only [pack, hz, List.foldl]; omega) (fun N Q hN => ?_)
  have e0 : bits N 30 27 = 5 := bits_seg [] [(4, 5)] [(7, 39), (6, 0), (3, d.val), (2, 0), (3, a.val), (6, 0)] hall hN rfl rfl rfl
  have e1 : bits N 26 20 = 39 := bits_seg [(4, 5)] [(7, 39)] [(6, 0), (3, d.val), (2, 0), (3, a.val), (6, 0)] hall hN rfl rfl rfl
  have e2 : bits N 5 0 = 0 := bits_seg [(4, 5), (7, 39), (6, 0), (3, d.val), (2, 0), (3, a.val)] [(6, 0)] [] hall hN rfl rfl rfl
  have e3 : bits N 10 9 = 0 := bits_seg [(4, 5), (7, 39), (6, 0), (3, d.val)] [(2, 0)] [(3, a.val), (6, 0)] hall hN rfl rfl rfl
  have e4 : bits N 19 14 = 0 := bits_seg [(4, 5), (7, 39)] [(6, 0)] [(3, d.val), (2, 0), (3, a.val), (6, 0)] hall hN rfl rfl rfl
  have e5 : fin8 N 11 = d := fin8_eq (seg [(4, 5), (7, 39), (6, 0)] [(3, d.val)] [(2, 0), (3, a.val), (6, 0)] hall hN (hz_one _ _))
  have e6 : fin8 N 6 = a := fin8_eq (seg [(4, 5), (7, 39), (6, 0), (3, d.val), (2, 0)] [(3, a.val)] [(6, 0)] hall hN (hz_one _ _))
  rw [decodeFields, e0]; show decodeVR N = _; rw [decodeVR, e1]; show (if bits N 5 0 == 0 && bits N 10 9 == 0 && bits N 19 14 == 0 then some (Instr.mnot (fin8 N 11) (fin8 N 6)) else none) = _
  simp only [e2, e3, e4, e5, e6, beq_self_eq_true, ↓reduceIte, Bool.and_self]

theorem mpop (t : ElemTy) (d : XReg) (a : MReg) : Statement (.mpop t d a) := by
  have hall : Fits [(4, 5), (7, 40), (4, t.code), (5, d.val), (2, 0), (3, a.val), (6, 0)] := all_cons (by decide) (all_cons (by decide) (all_cons (ElemTy.code_lt t) (all_cons (d.isLt) (all_cons (by decide) (all_cons (a.isLt) (all_cons (by decide) (all_nil)))))))
  refine of_segs rfl [(4, 5), (7, 40), (4, t.code), (5, d.val), (2, 0), (3, a.val), (6, 0)] rfl trivial hall (by simp only [pack, hz, List.foldl]; omega) (fun N Q hN => ?_)
  have e0 : bits N 30 27 = 5 := bits_seg [] [(4, 5)] [(7, 40), (4, t.code), (5, d.val), (2, 0), (3, a.val), (6, 0)] hall hN rfl rfl rfl
  have e1 : bits N 26 20 = 40 := bits_seg [(4, 5)] [(7, 40)] [(4, t.code), (5, d.val), (2, 0), (3, a.val), (6, 0)] hall hN rfl rfl rfl
  have e2 : bits N 5 0 = 0 := bits_seg [(4, 5), (7, 40), (4, t.code), (5, d.val), (2, 0), (3, a.val)] [(6, 0)] [] hall hN rfl rfl rfl
  have e3 : bits N 10 9 = 0 := bits_seg [(4, 5), (7, 40), (4, t.code), (5, d.val)] [(2, 0)] [(3, a.val), (6, 0)] hall hN rfl rfl rfl
  have e4 : bits N 19 16 = t.code := bits_seg [(4, 5), (7, 40)] [(4, t.code)] [(5, d.val), (2, 0), (3, a.val), (6, 0)] hall hN (hz_one _ _) rfl rfl
  have e5 : xreg N 11 = d := xreg_eq (seg [(4, 5), (7, 40), (4, t.code)] [(5, d.val)] [(2, 0), (3, a.val), (6, 0)] hall hN (hz_one _ _))
  have e6 : fin8 N 6 = a := fin8_eq (seg [(4, 5), (7, 40), (4, t.code), (5, d.val), (2, 0)] [(3, a.val)] [(6, 0)] hall hN (hz_one _ _))
  rw [decodeFields, e0]; show decodeVR N = _; rw [decodeVR, e1]; show (if bits N 5 0 == 0 && bits N 10 9 == 0 then (ElemTy.ofCode (bits N 19 16)).bind (fun t => some (Instr.mpop t (xreg N 11) (fin8 N 6))) else none) = _
  simp only [e2, e3, e4, e5, e6, ElemTy.ofCode_code, Option.bind_some, beq_self_eq_true, ↓reduceIte, Bool.and_self]

theorem vshuf (s : XReg) (d : VReg) : Statement (.vshuf s d) := by
  have hall : Fits [(4, 6), (8, 0), (5, s.val), (5, 0), (5, d.val), (4, 0)] := all_cons (by decide) (all_cons (by decide) (all_cons (s.isLt) (all_cons (by decide) (all_cons (d.isLt) (all_cons (by decide) (all_nil))))))
  refine of_segs rfl [(4, 6), (8, 0), (5, s.val), (5, 0), (5, d.val), (4, 0)] rfl trivial hall (by simp only [pack, hz, List.foldl]; omega) (fun N Q hN => ?_)
  have e0 : bits N 30 27 = 6 := bits_seg [] [(4, 6)] [(8, 0), (5, s.val), (5, 0), (5, d.val), (4, 0)] hall hN rfl rfl rfl
  have e1 : bits N 26 19 = 0 := bits_seg [(4, 6)] [(8, 0)] [(5, s.val), (5, 0), (5, d.val), (4, 0)] hall hN rfl rfl rfl
  have e2 : bits N 3 0 = 0 := bits_seg [(4, 6), (8, 0), (5, s.val), (5, 0), (5, d.val)] [(4, 0)] [] hall hN rfl rfl rfl
  have e3 : bits N 13 9 = 0 := bits_seg [(4, 6), (8, 0), (5, s.val)] [(5, 0)] [(5, d.val), (4, 0)] hall hN rfl rfl rfl
  have e4 : xreg N 14 = s := xreg_eq (seg [(4, 6), (8, 0)] [(5, s.val)] [(5, 0), (5, d.val), (4, 0)] hall hN (hz_one _ _))
  have e5 : xreg N 4 = d := xreg_eq (seg [(4, 6), (8, 0), (5, s.val), (5, 0)] [(5, d.val)] [(4, 0)] hall hN (hz_one _ _))
  rw [decodeFields, e0]; show decodeVX N = _; rw [decodeVX, e1]; show (if bits N 3 0 == 0 && bits N 13 9 == 0 then some (Instr.vshuf (xreg N 14) (xreg N 4)) else none) = _
  simp only [e2, e3, e4, e5, beq_self_eq_true, ↓reduceIte, Bool.and_self]

theorem vqcvt (s : XReg) (t : XReg) (d : Fin 16) : Statement (.vqcvt s t d) := by
  have hall : Fits [(4, 6), (8, 1), (5, s.val), (5, t.val), (4, d.val), (5, 0)] := all_cons (by decide) (all_cons (by decide) (all_cons (s.isLt) (all_cons (t.isLt) (all_cons (d.isLt) (all_cons (by decide) (all_nil))))))
  refine of_segs rfl [(4, 6), (8, 1), (5, s.val), (5, t.val), (4, d.val), (5, 0)] rfl trivial hall (by simp only [pack, hz, List.foldl]; omega) (fun N Q hN => ?_)
  have e0 : bits N 30 27 = 6 := bits_seg [] [(4, 6)] [(8, 1), (5, s.val), (5, t.val), (4, d.val), (5, 0)] hall hN rfl rfl rfl
  have e1 : bits N 26 19 = 1 := bits_seg [(4, 6)] [(8, 1)] [(5, s.val), (5, t.val), (4, d.val), (5, 0)] hall hN rfl rfl rfl
  have e2 : bits N 4 0 = 0 := bits_seg [(4, 6), (8, 1), (5, s.val), (5, t.val), (4, d.val)] [(5, 0)] [] hall hN rfl rfl rfl
  have e3 : xreg N 14 = s := xreg_eq (seg [(4, 6), (8, 1)] [(5, s.val)] [(5, t.val), (4, d.val), (5, 0)] hall hN (hz_one _ _))
  have e4 : xreg N 9 = t := xreg_eq (seg [(4, 6), (8, 1), (5, s.val)] [(5, t.val)] [(4, d.val), (5, 0)] hall hN (hz_one _ _))
  have e5 : fin16 N 5 = d := fin16_eq (seg [(4, 6), (8, 1), (5, s.val), (5, t.val)] [(4, d.val)] [(5, 0)] hall hN (hz_one _ _))
  rw [decodeFields, e0]; show decodeVX N = _; rw [decodeVX, e1]; show (if bits N 4 0 == 0 then some (Instr.vqcvt (xreg N 14) (xreg N 9) (fin16 N 5)) else none) = _
  simp only [e2, e3, e4, e5, beq_self_eq_true, ↓reduceIte]

theorem vdqcvt (s : XReg) (d : VReg) : Statement (.vdqcvt s d) := by
  have hall : Fits [(4, 6), (8, 2), (5, s.val), (5, 0), (5, d.val), (4, 0)] := all_cons (by decide) (all_cons (by decide) (all_cons (s.isLt) (all_cons (by decide) (all_cons (d.isLt) (all_cons (by decide) (all_nil))))))
  refine of_segs rfl [(4, 6), (8, 2), (5, s.val), (5, 0), (5, d.val), (4, 0)] rfl trivial hall (by simp only [pack, hz, List.foldl]; omega) (fun N Q hN => ?_)
  have e0 : bits N 30 27 = 6 := bits_seg [] [(4, 6)] [(8, 2), (5, s.val), (5, 0), (5, d.val), (4, 0)] hall hN rfl rfl rfl
  have e1 : bits N 26 19 = 2 := bits_seg [(4, 6)] [(8, 2)] [(5, s.val), (5, 0), (5, d.val), (4, 0)] hall hN rfl rfl rfl
  have e2 : bits N 3 0 = 0 := bits_seg [(4, 6), (8, 2), (5, s.val), (5, 0), (5, d.val)] [(4, 0)] [] hall hN rfl rfl rfl
  have e3 : bits N 13 9 = 0 := bits_seg [(4, 6), (8, 2), (5, s.val)] [(5, 0)] [(5, d.val), (4, 0)] hall hN rfl rfl rfl
  have e4 : xreg N 14 = s := xreg_eq (seg [(4, 6), (8, 2)] [(5, s.val)] [(5, 0), (5, d.val), (4, 0)] hall hN (hz_one _ _))
  have e5 : xreg N 4 = d := xreg_eq (seg [(4, 6), (8, 2), (5, s.val), (5, 0)] [(5, d.val)] [(4, 0)] hall hN (hz_one _ _))
  rw [decodeFields, e0]; show decodeVX N = _; rw [decodeVX, e1]; show (if bits N 3 0 == 0 && bits N 13 9 == 0 then some (Instr.vdqcvt (xreg N 14) (xreg N 4)) else none) = _
  simp only [e2, e3, e4, e5, beq_self_eq_true, ↓reduceIte, Bool.and_self]

theorem vsetcfg (s : XReg) (t : XReg) : Statement (.vsetcfg s t) := by
  have hall : Fits [(4, 6), (8, 3), (5, s.val), (5, t.val), (9, 0)] := all_cons (by decide) (all_cons (by decide) (all_cons (s.isLt) (all_cons (t.isLt) (all_cons (by decide) (all_nil)))))
  refine of_segs rfl [(4, 6), (8, 3), (5, s.val), (5, t.val), (9, 0)] rfl trivial hall (by simp only [pack, hz, List.foldl]; omega) (fun N Q hN => ?_)
  have e0 : bits N 30 27 = 6 := bits_seg [] [(4, 6)] [(8, 3), (5, s.val), (5, t.val), (9, 0)] hall hN rfl rfl rfl
  have e1 : bits N 26 19 = 3 := bits_seg [(4, 6)] [(8, 3)] [(5, s.val), (5, t.val), (9, 0)] hall hN rfl rfl rfl
  have e2 : bits N 8 0 = 0 := bits_seg [(4, 6), (8, 3), (5, s.val), (5, t.val)] [(9, 0)] [] hall hN rfl rfl rfl
  have e3 : xreg N 14 = s := xreg_eq (seg [(4, 6), (8, 3)] [(5, s.val)] [(5, t.val), (9, 0)] hall hN (hz_one _ _))
  have e4 : xreg N 9 = t := xreg_eq (seg [(4, 6), (8, 3), (5, s.val)] [(5, t.val)] [(9, 0)] hall hN (hz_one _ _))
  rw [decodeFields, e0]; show decodeVX N = _; rw [decodeVX, e1]; show (if bits N 8 0 == 0 then some (Instr.vsetcfg (xreg N 14) (xreg N 9)) else none) = _
  simp only [e2, e3, e4, beq_self_eq_true, ↓reduceIte]

theorem vgatherq (s : XReg) (t : XReg) (d : VReg) : Statement (.vgatherq s t d) := by
  have hall : Fits [(4, 6), (8, 4), (5, s.val), (5, t.val), (5, d.val), (4, 0)] := all_cons (by decide) (all_cons (by decide) (all_cons (s.isLt) (all_cons (t.isLt) (all_cons (d.isLt) (all_cons (by decide) (all_nil))))))
  refine of_segs rfl [(4, 6), (8, 4), (5, s.val), (5, t.val), (5, d.val), (4, 0)] rfl trivial hall (by simp only [pack, hz, List.foldl]; omega) (fun N Q hN => ?_)
  have e0 : bits N 30 27 = 6 := bits_seg [] [(4, 6)] [(8, 4), (5, s.val), (5, t.val), (5, d.val), (4, 0)] hall hN rfl rfl rfl
  have e1 : bits N 26 19 = 4 := bits_seg [(4, 6)] [(8, 4)] [(5, s.val), (5, t.val), (5, d.val), (4, 0)] hall hN rfl rfl rfl
  have e2 : bits N 3 0 = 0 := bits_seg [(4, 6), (8, 4), (5, s.val), (5, t.val), (5, d.val)] [(4, 0)] [] hall hN rfl rfl rfl
  have e3 : xreg N 14 = s := xreg_eq (seg [(4, 6), (8, 4)] [(5, s.val)] [(5, t.val), (5, d.val), (4, 0)] hall hN (hz_one _ _))
  have e4 : xreg N 9 = t := xreg_eq (seg [(4, 6), (8, 4), (5, s.val)] [(5, t.val)] [(5, d.val), (4, 0)] hall hN (hz_one _ _))
  have e5 : xreg N 4 = d := xreg_eq (seg [(4, 6), (8, 4), (5, s.val), (5, t.val)] [(5, d.val)] [(4, 0)] hall hN (hz_one _ _))
  rw [decodeFields, e0]; show decodeVX N = _; rw [decodeVX, e1]; show (if bits N 3 0 == 0 then some (Instr.vgatherq (xreg N 14) (xreg N 9) (xreg N 4)) else none) = _
  simp only [e2, e3, e4, e5, beq_self_eq_true, ↓reduceIte]

theorem vscatq (s : XReg) (t : XReg) (d : VReg) : Statement (.vscatq s t d) := by
  have hall : Fits [(4, 6), (8, 5), (5, s.val), (5, t.val), (5, d.val), (4, 0)] := all_cons (by decide) (all_cons (by decide) (all_cons (s.isLt) (all_cons (t.isLt) (all_cons (d.isLt) (all_cons (by decide) (all_nil))))))
  refine of_segs rfl [(4, 6), (8, 5), (5, s.val), (5, t.val), (5, d.val), (4, 0)] rfl trivial hall (by simp only [pack, hz, List.foldl]; omega) (fun N Q hN => ?_)
  have e0 : bits N 30 27 = 6 := bits_seg [] [(4, 6)] [(8, 5), (5, s.val), (5, t.val), (5, d.val), (4, 0)] hall hN rfl rfl rfl
  have e1 : bits N 26 19 = 5 := bits_seg [(4, 6)] [(8, 5)] [(5, s.val), (5, t.val), (5, d.val), (4, 0)] hall hN rfl rfl rfl
  have e2 : bits N 3 0 = 0 := bits_seg [(4, 6), (8, 5), (5, s.val), (5, t.val), (5, d.val)] [(4, 0)] [] hall hN rfl rfl rfl
  have e3 : xreg N 14 = s := xreg_eq (seg [(4, 6), (8, 5)] [(5, s.val)] [(5, t.val), (5, d.val), (4, 0)] hall hN (hz_one _ _))
  have e4 : xreg N 9 = t := xreg_eq (seg [(4, 6), (8, 5), (5, s.val)] [(5, t.val)] [(5, d.val), (4, 0)] hall hN (hz_one _ _))
  have e5 : xreg N 4 = d := xreg_eq (seg [(4, 6), (8, 5), (5, s.val), (5, t.val)] [(5, d.val)] [(4, 0)] hall hN (hz_one _ _))
  rw [decodeFields, e0]; show decodeVX N = _; rw [decodeVX, e1]; show (if bits N 3 0 == 0 then some (Instr.vscatq (xreg N 14) (xreg N 9) (xreg N 4)) else none) = _
  simp only [e2, e3, e4, e5, beq_self_eq_true, ↓reduceIte]

theorem vfence : Statement (.vfence) := by
  have hall : Fits [(4, 6), (8, 6), (19, 0)] := all_cons (by decide) (all_cons (by decide) (all_cons (by decide) (all_nil)))
  refine of_segs rfl [(4, 6), (8, 6), (19, 0)] rfl trivial hall (by simp only [pack, hz, List.foldl]; omega) (fun N Q hN => ?_)
  have e0 : bits N 30 27 = 6 := bits_seg [] [(4, 6)] [(8, 6), (19, 0)] hall hN rfl rfl rfl
  have e1 : bits N 26 19 = 6 := bits_seg [(4, 6)] [(8, 6)] [(19, 0)] hall hN rfl rfl rfl
  have e2 : bits N 18 0 = 0 := bits_seg [(4, 6), (8, 6)] [(19, 0)] [] hall hN rfl rfl rfl
  rw [decodeFields, e0]; show decodeVX N = _; rw [decodeVX, e1]; show (if bits N 18 0 == 0 then some Instr.vfence else none) = _
  simp only [e2, beq_self_eq_true, ↓reduceIte]

theorem vmskld (s : XReg) (t : XReg) (d : MReg) : Statement (.vmskld s t d) := by
  have hall : Fits [(4, 6), (8, 7), (5, s.val), (5, t.val), (2, 0), (3, d.val), (4, 0)] := all_cons (by decide) (all_cons (by decide) (all_cons (s.isLt) (all_cons (t.isLt) (all_cons (by decide) (all_cons (d.isLt) (all_cons (by decide) (all_nil)))))))
  refine of_segs rfl [(4, 6), (8, 7), (5, s.val), (5, t.val), (2, 0), (3, d.val), (4, 0)] rfl trivial hall (by simp only [pack, hz, List.foldl]; omega) (fun N Q hN => ?_)
  have e0 : bits N 30 27 = 6 := bits_seg [] [(4, 6)] [(8, 7), (5, s.val), (5, t.val), (2, 0), (3, d.val), (4, 0)] hall hN rfl rfl rfl
  have e1 : bits N 26 19 = 7 := bits_seg [(4, 6)] [(8, 7)] [(5, s.val), (5, t.val), (2, 0), (3, d.val), (4, 0)] hall hN rfl rfl rfl
  have e2 : bits N 3 0 = 0 := bits_seg [(4, 6), (8, 7), (5, s.val), (5, t.val), (2, 0), (3, d.val)] [(4, 0)] [] hall hN rfl rfl rfl
  have e3 : bits N 8 7 = 0 := bits_seg [(4, 6), (8, 7), (5, s.val), (5, t.val)] [(2, 0)] [(3, d.val), (4, 0)] hall hN rfl rfl rfl
  have e4 : xreg N 14 = s := xreg_eq (seg [(4, 6), (8, 7)] [(5, s.val)] [(5, t.val), (2, 0), (3, d.val), (4, 0)] hall hN (hz_one _ _))
  have e5 : xreg N 9 = t := xreg_eq (seg [(4, 6), (8, 7), (5, s.val)] [(5, t.val)] [(2, 0), (3, d.val), (4, 0)] hall hN (hz_one _ _))
  have e6 : fin8 N 4 = d := fin8_eq (seg [(4, 6), (8, 7), (5, s.val), (5, t.val), (2, 0)] [(3, d.val)] [(4, 0)] hall hN (hz_one _ _))
  rw [decodeFields, e0]; show decodeVX N = _; rw [decodeVX, e1]; show (if bits N 3 0 == 0 && bits N 8 7 == 0 then some (Instr.vmskld (xreg N 14) (xreg N 9) (fin8 N 4)) else none) = _
  simp only [e2, e3, e4, e5, e6, beq_self_eq_true, ↓reduceIte, Bool.and_self]

theorem vldl (v : VReg) (b : XReg) (o : BitVec 11) : Statement (.vldl v b o) := by
  have hall : Fits [(4, 7), (6, 0), (5, v.val), (5, b.val), (11, o.toNat)] := all_cons (by decide) (all_cons (by decide) (all_cons (v.isLt) (all_cons (b.isLt) (all_cons (o.isLt) (all_nil)))))
  refine of_segs rfl [(4, 7), (6, 0), (5, v.val), (5, b.val), (11, o.toNat)] rfl trivial hall (by simp only [pack, hz, List.foldl]; omega) (fun N Q hN => ?_)
  have e0 : bits N 30 27 = 7 := bits_seg [] [(4, 7)] [(6, 0), (5, v.val), (5, b.val), (11, o.toNat)] hall hN rfl rfl rfl
  have e1 : bits N 26 21 = 0 := bits_seg [(4, 7)] [(6, 0)] [(5, v.val), (5, b.val), (11, o.toNat)] hall hN rfl rfl rfl
  have e2 : xreg N 16 = v := xreg_eq (seg [(4, 7), (6, 0)] [(5, v.val)] [(5, b.val), (11, o.toNat)] hall hN (hz_one _ _))
  have e3 : xreg N 11 = b := xreg_eq (seg [(4, 7), (6, 0), (5, v.val)] [(5, b.val)] [(11, o.toNat)] hall hN (hz_one _ _))
  have e4 : imm N 11 0 = o := imm_eq (seg [(4, 7), (6, 0), (5, v.val), (5, b.val)] [(11, o.toNat)] [] hall hN (hz_one _ _))
  rw [decodeFields, e0]; show decodeVM N = _; rw [decodeVM, e1]; show (some (Instr.vldl (xreg N 16) (xreg N 11) (imm N 11 0))) = _
  simp only [e2, e3, e4]

theorem vldq (v : VReg) (b : XReg) (o : BitVec 11) : Statement (.vldq v b o) := by
  have hall : Fits [(4, 7), (6, 8), (5, v.val), (5, b.val), (11, o.toNat)] := all_cons (by decide) (all_cons (by decide) (all_cons (v.isLt) (all_cons (b.isLt) (all_cons (o.isLt) (all_nil)))))
  refine of_segs rfl [(4, 7), (6, 8), (5, v.val), (5, b.val), (11, o.toNat)] rfl trivial hall (by simp only [pack, hz, List.foldl]; omega) (fun N Q hN => ?_)
  have e0 : bits N 30 27 = 7 := bits_seg [] [(4, 7)] [(6, 8), (5, v.val), (5, b.val), (11, o.toNat)] hall hN rfl rfl rfl
  have e1 : bits N 26 21 = 8 := bits_seg [(4, 7)] [(6, 8)] [(5, v.val), (5, b.val), (11, o.toNat)] hall hN rfl rfl rfl
  have e2 : xreg N 16 = v := xreg_eq (seg [(4, 7), (6, 8)] [(5, v.val)] [(5, b.val), (11, o.toNat)] hall hN (hz_one _ _))
  have e3 : xreg N 11 = b := xreg_eq (seg [(4, 7), (6, 8), (5, v.val)] [(5, b.val)] [(11, o.toNat)] hall hN (hz_one _ _))
  have e4 : imm N 11 0 = o := imm_eq (seg [(4, 7), (6, 8), (5, v.val), (5, b.val)] [(11, o.toNat)] [] hall hN (hz_one _ _))
  rw [decodeFields, e0]; show decodeVM N = _; rw [decodeVM, e1]; show (some (Instr.vldq (xreg N 16) (xreg N 11) (imm N 11 0))) = _
  simp only [e2, e3, e4]

theorem vldo (v : VReg) (b : XReg) (o : BitVec 11) : Statement (.vldo v b o) := by
  have hall : Fits [(4, 7), (6, 16), (5, v.val), (5, b.val), (11, o.toNat)] := all_cons (by decide) (all_cons (by decide) (all_cons (v.isLt) (all_cons (b.isLt) (all_cons (o.isLt) (all_nil)))))
  refine of_segs rfl [(4, 7), (6, 16), (5, v.val), (5, b.val), (11, o.toNat)] rfl trivial hall (by simp only [pack, hz, List.foldl]; omega) (fun N Q hN => ?_)
  have e0 : bits N 30 27 = 7 := bits_seg [] [(4, 7)] [(6, 16), (5, v.val), (5, b.val), (11, o.toNat)] hall hN rfl rfl rfl
  have e1 : bits N 26 21 = 16 := bits_seg [(4, 7)] [(6, 16)] [(5, v.val), (5, b.val), (11, o.toNat)] hall hN rfl rfl rfl
  have e2 : xreg N 16 = v := xreg_eq (seg [(4, 7), (6, 16)] [(5, v.val)] [(5, b.val), (11, o.toNat)] hall hN (hz_one _ _))
  have e3 : xreg N 11 = b := xreg_eq (seg [(4, 7), (6, 16), (5, v.val)] [(5, b.val)] [(11, o.toNat)] hall hN (hz_one _ _))
  have e4 : imm N 11 0 = o := imm_eq (seg [(4, 7), (6, 16), (5, v.val), (5, b.val)] [(11, o.toNat)] [] hall hN (hz_one _ _))
  rw [decodeFields, e0]; show decodeVM N = _; rw [decodeVM, e1]; show (some (Instr.vldo (xreg N 16) (xreg N 11) (imm N 11 0))) = _
  simp only [e2, e3, e4]

theorem vldg (v : VReg) (b : XReg) (o : BitVec 11) : Statement (.vldg v b o) := by
  have hall : Fits [(4, 7), (6, 24), (5, v.val), (5, b.val), (11, o.toNat)] := all_cons (by decide) (all_cons (by decide) (all_cons (v.isLt) (all_cons (b.isLt) (all_cons (o.isLt) (all_nil)))))
  refine of_segs rfl [(4, 7), (6, 24), (5, v.val), (5, b.val), (11, o.toNat)] rfl trivial hall (by simp only [pack, hz, List.foldl]; omega) (fun N Q hN => ?_)
  have e0 : bits N 30 27 = 7 := bits_seg [] [(4, 7)] [(6, 24), (5, v.val), (5, b.val), (11, o.toNat)] hall hN rfl rfl rfl
  have e1 : bits N 26 21 = 24 := bits_seg [(4, 7)] [(6, 24)] [(5, v.val), (5, b.val), (11, o.toNat)] hall hN rfl rfl rfl
  have e2 : xreg N 16 = v := xreg_eq (seg [(4, 7), (6, 24)] [(5, v.val)] [(5, b.val), (11, o.toNat)] hall hN (hz_one _ _))
  have e3 : xreg N 11 = b := xreg_eq (seg [(4, 7), (6, 24), (5, v.val)] [(5, b.val)] [(11, o.toNat)] hall hN (hz_one _ _))
  have e4 : imm N 11 0 = o := imm_eq (seg [(4, 7), (6, 24), (5, v.val), (5, b.val)] [(11, o.toNat)] [] hall hN (hz_one _ _))
  rw [decodeFields, e0]; show decodeVM N = _; rw [decodeVM, e1]; show (some (Instr.vldg (xreg N 16) (xreg N 11) (imm N 11 0))) = _
  simp only [e2, e3, e4]

theorem vldf (v : VReg) (b : XReg) (o : BitVec 11) : Statement (.vldf v b o) := by
  have hall : Fits [(4, 7), (6, 32), (5, v.val), (5, b.val), (11, o.toNat)] := all_cons (by decide) (all_cons (by decide) (all_cons (v.isLt) (all_cons (b.isLt) (all_cons (o.isLt) (all_nil)))))
  refine of_segs rfl [(4, 7), (6, 32), (5, v.val), (5, b.val), (11, o.toNat)] rfl trivial hall (by simp only [pack, hz, List.foldl]; omega) (fun N Q hN => ?_)
  have e0 : bits N 30 27 = 7 := bits_seg [] [(4, 7)] [(6, 32), (5, v.val), (5, b.val), (11, o.toNat)] hall hN rfl rfl rfl
  have e1 : bits N 26 21 = 32 := bits_seg [(4, 7)] [(6, 32)] [(5, v.val), (5, b.val), (11, o.toNat)] hall hN rfl rfl rfl
  have e2 : xreg N 16 = v := xreg_eq (seg [(4, 7), (6, 32)] [(5, v.val)] [(5, b.val), (11, o.toNat)] hall hN (hz_one _ _))
  have e3 : xreg N 11 = b := xreg_eq (seg [(4, 7), (6, 32), (5, v.val)] [(5, b.val)] [(11, o.toNat)] hall hN (hz_one _ _))
  have e4 : imm N 11 0 = o := imm_eq (seg [(4, 7), (6, 32), (5, v.val), (5, b.val)] [(11, o.toNat)] [] hall hN (hz_one _ _))
  rw [decodeFields, e0]; show decodeVM N = _; rw [decodeVM, e1]; show (some (Instr.vldf (xreg N 16) (xreg N 11) (imm N 11 0))) = _
  simp only [e2, e3, e4]

theorem vldh (v : VReg) (b : XReg) (o : BitVec 11) : Statement (.vldh v b o) := by
  have hall : Fits [(4, 7), (6, 40), (5, v.val), (5, b.val), (11, o.toNat)] := all_cons (by decide) (all_cons (by decide) (all_cons (v.isLt) (all_cons (b.isLt) (all_cons (o.isLt) (all_nil)))))
  refine of_segs rfl [(4, 7), (6, 40), (5, v.val), (5, b.val), (11, o.toNat)] rfl trivial hall (by simp only [pack, hz, List.foldl]; omega) (fun N Q hN => ?_)
  have e0 : bits N 30 27 = 7 := bits_seg [] [(4, 7)] [(6, 40), (5, v.val), (5, b.val), (11, o.toNat)] hall hN rfl rfl rfl
  have e1 : bits N 26 21 = 40 := bits_seg [(4, 7)] [(6, 40)] [(5, v.val), (5, b.val), (11, o.toNat)] hall hN rfl rfl rfl
  have e2 : xreg N 16 = v := xreg_eq (seg [(4, 7), (6, 40)] [(5, v.val)] [(5, b.val), (11, o.toNat)] hall hN (hz_one _ _))
  have e3 : xreg N 11 = b := xreg_eq (seg [(4, 7), (6, 40), (5, v.val)] [(5, b.val)] [(11, o.toNat)] hall hN (hz_one _ _))
  have e4 : imm N 11 0 = o := imm_eq (seg [(4, 7), (6, 40), (5, v.val), (5, b.val)] [(11, o.toNat)] [] hall hN (hz_one _ _))
  rw [decodeFields, e0]; show decodeVM N = _; rw [decodeVM, e1]; show (some (Instr.vldh (xreg N 16) (xreg N 11) (imm N 11 0))) = _
  simp only [e2, e3, e4]

theorem vstl (v : VReg) (b : XReg) (o : BitVec 11) : Statement (.vstl v b o) := by
  have hall : Fits [(4, 7), (6, 1), (5, v.val), (5, b.val), (11, o.toNat)] := all_cons (by decide) (all_cons (by decide) (all_cons (v.isLt) (all_cons (b.isLt) (all_cons (o.isLt) (all_nil)))))
  refine of_segs rfl [(4, 7), (6, 1), (5, v.val), (5, b.val), (11, o.toNat)] rfl trivial hall (by simp only [pack, hz, List.foldl]; omega) (fun N Q hN => ?_)
  have e0 : bits N 30 27 = 7 := bits_seg [] [(4, 7)] [(6, 1), (5, v.val), (5, b.val), (11, o.toNat)] hall hN rfl rfl rfl
  have e1 : bits N 26 21 = 1 := bits_seg [(4, 7)] [(6, 1)] [(5, v.val), (5, b.val), (11, o.toNat)] hall hN rfl rfl rfl
  have e2 : xreg N 16 = v := xreg_eq (seg [(4, 7), (6, 1)] [(5, v.val)] [(5, b.val), (11, o.toNat)] hall hN (hz_one _ _))
  have e3 : xreg N 11 = b := xreg_eq (seg [(4, 7), (6, 1), (5, v.val)] [(5, b.val)] [(11, o.toNat)] hall hN (hz_one _ _))
  have e4 : imm N 11 0 = o := imm_eq (seg [(4, 7), (6, 1), (5, v.val), (5, b.val)] [(11, o.toNat)] [] hall hN (hz_one _ _))
  rw [decodeFields, e0]; show decodeVM N = _; rw [decodeVM, e1]; show (some (Instr.vstl (xreg N 16) (xreg N 11) (imm N 11 0))) = _
  simp only [e2, e3, e4]

theorem vstq (v : VReg) (b : XReg) (o : BitVec 11) : Statement (.vstq v b o) := by
  have hall : Fits [(4, 7), (6, 9), (5, v.val), (5, b.val), (11, o.toNat)] := all_cons (by decide) (all_cons (by decide) (all_cons (v.isLt) (all_cons (b.isLt) (all_cons (o.isLt) (all_nil)))))
  refine of_segs rfl [(4, 7), (6, 9), (5, v.val), (5, b.val), (11, o.toNat)] rfl trivial hall (by simp only [pack, hz, List.foldl]; omega) (fun N Q hN => ?_)
  have e0 : bits N 30 27 = 7 := bits_seg [] [(4, 7)] [(6, 9), (5, v.val), (5, b.val), (11, o.toNat)] hall hN rfl rfl rfl
  have e1 : bits N 26 21 = 9 := bits_seg [(4, 7)] [(6, 9)] [(5, v.val), (5, b.val), (11, o.toNat)] hall hN rfl rfl rfl
  have e2 : xreg N 16 = v := xreg_eq (seg [(4, 7), (6, 9)] [(5, v.val)] [(5, b.val), (11, o.toNat)] hall hN (hz_one _ _))
  have e3 : xreg N 11 = b := xreg_eq (seg [(4, 7), (6, 9), (5, v.val)] [(5, b.val)] [(11, o.toNat)] hall hN (hz_one _ _))
  have e4 : imm N 11 0 = o := imm_eq (seg [(4, 7), (6, 9), (5, v.val), (5, b.val)] [(11, o.toNat)] [] hall hN (hz_one _ _))
  rw [decodeFields, e0]; show decodeVM N = _; rw [decodeVM, e1]; show (some (Instr.vstq (xreg N 16) (xreg N 11) (imm N 11 0))) = _
  simp only [e2, e3, e4]

theorem vsto (v : VReg) (b : XReg) (o : BitVec 11) : Statement (.vsto v b o) := by
  have hall : Fits [(4, 7), (6, 17), (5, v.val), (5, b.val), (11, o.toNat)] := all_cons (by decide) (all_cons (by decide) (all_cons (v.isLt) (all_cons (b.isLt) (all_cons (o.isLt) (all_nil)))))
  refine of_segs rfl [(4, 7), (6, 17), (5, v.val), (5, b.val), (11, o.toNat)] rfl trivial hall (by simp only [pack, hz, List.foldl]; omega) (fun N Q hN => ?_)
  have e0 : bits N 30 27 = 7 := bits_seg [] [(4, 7)] [(6, 17), (5, v.val), (5, b.val), (11, o.toNat)] hall hN rfl rfl rfl
  have e1 : bits N 26 21 = 17 := bits_seg [(4, 7)] [(6, 17)] [(5, v.val), (5, b.val), (11, o.toNat)] hall hN rfl rfl rfl
  have e2 : xreg N 16 = v := xreg_eq (seg [(4, 7), (6, 17)] [(5, v.val)] [(5, b.val), (11, o.toNat)] hall hN (hz_one _ _))
  have e3 : xreg N 11 = b := xreg_eq (seg [(4, 7), (6, 17), (5, v.val)] [(5, b.val)] [(11, o.toNat)] hall hN (hz_one _ _))
  have e4 : imm N 11 0 = o := imm_eq (seg [(4, 7), (6, 17), (5, v.val), (5, b.val)] [(11, o.toNat)] [] hall hN (hz_one _ _))
  rw [decodeFields, e0]; show decodeVM N = _; rw [decodeVM, e1]; show (some (Instr.vsto (xreg N 16) (xreg N 11) (imm N 11 0))) = _
  simp only [e2, e3, e4]

theorem vstg (v : VReg) (b : XReg) (o : BitVec 11) : Statement (.vstg v b o) := by
  have hall : Fits [(4, 7), (6, 25), (5, v.val), (5, b.val), (11, o.toNat)] := all_cons (by decide) (all_cons (by decide) (all_cons (v.isLt) (all_cons (b.isLt) (all_cons (o.isLt) (all_nil)))))
  refine of_segs rfl [(4, 7), (6, 25), (5, v.val), (5, b.val), (11, o.toNat)] rfl trivial hall (by simp only [pack, hz, List.foldl]; omega) (fun N Q hN => ?_)
  have e0 : bits N 30 27 = 7 := bits_seg [] [(4, 7)] [(6, 25), (5, v.val), (5, b.val), (11, o.toNat)] hall hN rfl rfl rfl
  have e1 : bits N 26 21 = 25 := bits_seg [(4, 7)] [(6, 25)] [(5, v.val), (5, b.val), (11, o.toNat)] hall hN rfl rfl rfl
  have e2 : xreg N 16 = v := xreg_eq (seg [(4, 7), (6, 25)] [(5, v.val)] [(5, b.val), (11, o.toNat)] hall hN (hz_one _ _))
  have e3 : xreg N 11 = b := xreg_eq (seg [(4, 7), (6, 25), (5, v.val)] [(5, b.val)] [(11, o.toNat)] hall hN (hz_one _ _))
  have e4 : imm N 11 0 = o := imm_eq (seg [(4, 7), (6, 25), (5, v.val), (5, b.val)] [(11, o.toNat)] [] hall hN (hz_one _ _))
  rw [decodeFields, e0]; show decodeVM N = _; rw [decodeVM, e1]; show (some (Instr.vstg (xreg N 16) (xreg N 11) (imm N 11 0))) = _
  simp only [e2, e3, e4]

theorem vstf (v : VReg) (b : XReg) (o : BitVec 11) : Statement (.vstf v b o) := by
  have hall : Fits [(4, 7), (6, 33), (5, v.val), (5, b.val), (11, o.toNat)] := all_cons (by decide) (all_cons (by decide) (all_cons (v.isLt) (all_cons (b.isLt) (all_cons (o.isLt) (all_nil)))))
  refine of_segs rfl [(4, 7), (6, 33), (5, v.val), (5, b.val), (11, o.toNat)] rfl trivial hall (by simp only [pack, hz, List.foldl]; omega) (fun N Q hN => ?_)
  have e0 : bits N 30 27 = 7 := bits_seg [] [(4, 7)] [(6, 33), (5, v.val), (5, b.val), (11, o.toNat)] hall hN rfl rfl rfl
  have e1 : bits N 26 21 = 33 := bits_seg [(4, 7)] [(6, 33)] [(5, v.val), (5, b.val), (11, o.toNat)] hall hN rfl rfl rfl
  have e2 : xreg N 16 = v := xreg_eq (seg [(4, 7), (6, 33)] [(5, v.val)] [(5, b.val), (11, o.toNat)] hall hN (hz_one _ _))
  have e3 : xreg N 11 = b := xreg_eq (seg [(4, 7), (6, 33), (5, v.val)] [(5, b.val)] [(11, o.toNat)] hall hN (hz_one _ _))
  have e4 : imm N 11 0 = o := imm_eq (seg [(4, 7), (6, 33), (5, v.val), (5, b.val)] [(11, o.toNat)] [] hall hN (hz_one _ _))
  rw [decodeFields, e0]; show decodeVM N = _; rw [decodeVM, e1]; show (some (Instr.vstf (xreg N 16) (xreg N 11) (imm N 11 0))) = _
  simp only [e2, e3, e4]

theorem vsth (v : VReg) (b : XReg) (o : BitVec 11) : Statement (.vsth v b o) := by
  have hall : Fits [(4, 7), (6, 41), (5, v.val), (5, b.val), (11, o.toNat)] := all_cons (by decide) (all_cons (by decide) (all_cons (v.isLt) (all_cons (b.isLt) (all_cons (o.isLt) (all_nil)))))
  refine of_segs rfl [(4, 7), (6, 41), (5, v.val), (5, b.val), (11, o.toNat)] rfl trivial hall (by simp only [pack, hz, List.foldl]; omega) (fun N Q hN => ?_)
  have e0 : bits N 30 27 = 7 := bits_seg [] [(4, 7)] [(6, 41), (5, v.val), (5, b.val), (11, o.toNat)] hall hN rfl rfl rfl
  have e1 : bits N 26 21 = 41 := bits_seg [(4, 7)] [(6, 41)] [(5, v.val), (5, b.val), (11, o.toNat)] hall hN rfl rfl rfl
  have e2 : xreg N 16 = v := xreg_eq (seg [(4, 7), (6, 41)] [(5, v.val)] [(5, b.val), (11, o.toNat)] hall hN (hz_one _ _))
  have e3 : xreg N 11 = b := xreg_eq (seg [(4, 7), (6, 41), (5, v.val)] [(5, b.val)] [(11, o.toNat)] hall hN (hz_one _ _))
  have e4 : imm N 11 0 = o := imm_eq (seg [(4, 7), (6, 41), (5, v.val), (5, b.val)] [(11, o.toNat)] [] hall hN (hz_one _ _))
  rw [decodeFields, e0]; show decodeVM N = _; rw [decodeVM, e1]; show (some (Instr.vsth (xreg N 16) (xreg N 11) (imm N 11 0))) = _
  simp only [e2, e3, e4]

theorem vldqRow (v : VReg) (b : XReg) (o : BitVec 11) : Statement (.vldqRow v b o) := by
  have hall : Fits [(4, 7), (6, 10), (5, v.val), (5, b.val), (11, o.toNat)] := all_cons (by decide) (all_cons (by decide) (all_cons (v.isLt) (all_cons (b.isLt) (all_cons (o.isLt) (all_nil)))))
  refine of_segs rfl [(4, 7), (6, 10), (5, v.val), (5, b.val), (11, o.toNat)] rfl trivial hall (by simp only [pack, hz, List.foldl]; omega) (fun N Q hN => ?_)
  have e0 : bits N 30 27 = 7 := bits_seg [] [(4, 7)] [(6, 10), (5, v.val), (5, b.val), (11, o.toNat)] hall hN rfl rfl rfl
  have e1 : bits N 26 21 = 10 := bits_seg [(4, 7)] [(6, 10)] [(5, v.val), (5, b.val), (11, o.toNat)] hall hN rfl rfl rfl
  have e2 : xreg N 16 = v := xreg_eq (seg [(4, 7), (6, 10)] [(5, v.val)] [(5, b.val), (11, o.toNat)] hall hN (hz_one _ _))
  have e3 : xreg N 11 = b := xreg_eq (seg [(4, 7), (6, 10), (5, v.val)] [(5, b.val)] [(11, o.toNat)] hall hN (hz_one _ _))
  have e4 : imm N 11 0 = o := imm_eq (seg [(4, 7), (6, 10), (5, v.val), (5, b.val)] [(11, o.toNat)] [] hall hN (hz_one _ _))
  rw [decodeFields, e0]; show decodeVM N = _; rw [decodeVM, e1]; show (some (Instr.vldqRow (xreg N 16) (xreg N 11) (imm N 11 0))) = _
  simp only [e2, e3, e4]

theorem vstqRow (v : VReg) (b : XReg) (o : BitVec 11) : Statement (.vstqRow v b o) := by
  have hall : Fits [(4, 7), (6, 11), (5, v.val), (5, b.val), (11, o.toNat)] := all_cons (by decide) (all_cons (by decide) (all_cons (v.isLt) (all_cons (b.isLt) (all_cons (o.isLt) (all_nil)))))
  refine of_segs rfl [(4, 7), (6, 11), (5, v.val), (5, b.val), (11, o.toNat)] rfl trivial hall (by simp only [pack, hz, List.foldl]; omega) (fun N Q hN => ?_)
  have e0 : bits N 30 27 = 7 := bits_seg [] [(4, 7)] [(6, 11), (5, v.val), (5, b.val), (11, o.toNat)] hall hN rfl rfl rfl
  have e1 : bits N 26 21 = 11 := bits_seg [(4, 7)] [(6, 11)] [(5, v.val), (5, b.val), (11, o.toNat)] hall hN rfl rfl rfl
  have e2 : xreg N 16 = v := xreg_eq (seg [(4, 7), (6, 11)] [(5, v.val)] [(5, b.val), (11, o.toNat)] hall hN (hz_one _ _))
  have e3 : xreg N 11 = b := xreg_eq (seg [(4, 7), (6, 11), (5, v.val)] [(5, b.val)] [(11, o.toNat)] hall hN (hz_one _ _))
  have e4 : imm N 11 0 = o := imm_eq (seg [(4, 7), (6, 11), (5, v.val), (5, b.val)] [(11, o.toNat)] [] hall hN (hz_one _ _))
  rw [decodeFields, e0]; show decodeVM N = _; rw [decodeVM, e1]; show (some (Instr.vstqRow (xreg N 16) (xreg N 11) (imm N 11 0))) = _
  simp only [e2, e3, e4]

theorem vldqCol (v : VReg) (b : XReg) (o : BitVec 11) : Statement (.vldqCol v b o) := by
  have hall : Fits [(4, 7), (6, 12), (5, v.val), (5, b.val), (11, o.toNat)] := all_cons (by decide) (all_cons (by decide) (all_cons (v.isLt) (all_cons (b.isLt) (all_cons (o.isLt) (all_nil)))))
  refine of_segs rfl [(4, 7), (6, 12), (5, v.val), (5, b.val), (11, o.toNat)] rfl trivial hall (by simp only [pack, hz, List.foldl]; omega) (fun N Q hN => ?_)
  have e0 : bits N 30 27 = 7 := bits_seg [] [(4, 7)] [(6, 12), (5, v.val), (5, b.val), (11, o.toNat)] hall hN rfl rfl rfl
  have e1 : bits N 26 21 = 12 := bits_seg [(4, 7)] [(6, 12)] [(5, v.val), (5, b.val), (11, o.toNat)] hall hN rfl rfl rfl
  have e2 : xreg N 16 = v := xreg_eq (seg [(4, 7), (6, 12)] [(5, v.val)] [(5, b.val), (11, o.toNat)] hall hN (hz_one _ _))
  have e3 : xreg N 11 = b := xreg_eq (seg [(4, 7), (6, 12), (5, v.val)] [(5, b.val)] [(11, o.toNat)] hall hN (hz_one _ _))
  have e4 : imm N 11 0 = o := imm_eq (seg [(4, 7), (6, 12), (5, v.val), (5, b.val)] [(11, o.toNat)] [] hall hN (hz_one _ _))
  rw [decodeFields, e0]; show decodeVM N = _; rw [decodeVM, e1]; show (some (Instr.vldqCol (xreg N 16) (xreg N 11) (imm N 11 0))) = _
  simp only [e2, e3, e4]

theorem vstqCol (v : VReg) (b : XReg) (o : BitVec 11) : Statement (.vstqCol v b o) := by
  have hall : Fits [(4, 7), (6, 13), (5, v.val), (5, b.val), (11, o.toNat)] := all_cons (by decide) (all_cons (by decide) (all_cons (v.isLt) (all_cons (b.isLt) (all_cons (o.isLt) (all_nil)))))
  refine of_segs rfl [(4, 7), (6, 13), (5, v.val), (5, b.val), (11, o.toNat)] rfl trivial hall (by simp only [pack, hz, List.foldl]; omega) (fun N Q hN => ?_)
  have e0 : bits N 30 27 = 7 := bits_seg [] [(4, 7)] [(6, 13), (5, v.val), (5, b.val), (11, o.toNat)] hall hN rfl rfl rfl
  have e1 : bits N 26 21 = 13 := bits_seg [(4, 7)] [(6, 13)] [(5, v.val), (5, b.val), (11, o.toNat)] hall hN rfl rfl rfl
  have e2 : xreg N 16 = v := xreg_eq (seg [(4, 7), (6, 13)] [(5, v.val)] [(5, b.val), (11, o.toNat)] hall hN (hz_one _ _))
  have e3 : xreg N 11 = b := xreg_eq (seg [(4, 7), (6, 13), (5, v.val)] [(5, b.val)] [(11, o.toNat)] hall hN (hz_one _ _))
  have e4 : imm N 11 0 = o := imm_eq (seg [(4, 7), (6, 13), (5, v.val), (5, b.val)] [(11, o.toNat)] [] hall hN (hz_one _ _))
  rw [decodeFields, e0]; show decodeVM N = _; rw [decodeVM, e1]; show (some (Instr.vstqCol (xreg N 16) (xreg N 11) (imm N 11 0))) = _
  simp only [e2, e3, e4]

theorem vldlChk (v : Fin 16) (b : XReg) (f : ElemTy) (c : BitVec 7) : Statement (.vldlChk v b f c) := by
  have hall : Fits [(4, 7), (6, 6), (4, v.val), (1, 0), (5, b.val), (4, f.code), (7, c.toNat)] := all_cons (by decide) (all_cons (by decide) (all_cons (v.isLt) (all_cons (by decide) (all_cons (b.isLt) (all_cons (ElemTy.code_lt f) (all_cons (c.isLt) (all_nil)))))))
  refine of_segs rfl [(4, 7), (6, 6), (4, v.val), (1, 0), (5, b.val), (4, f.code), (7, c.toNat)] rfl trivial hall (by simp only [pack, hz, List.foldl]; omega) (fun N Q hN => ?_)
  have e0 : bits N 30 27 = 7 := bits_seg [] [(4, 7)] [(6, 6), (4, v.val), (1, 0), (5, b.val), (4, f.code), (7, c.toNat)] hall hN rfl rfl rfl
  have e1 : bits N 26 21 = 6 := bits_seg [(4, 7)] [(6, 6)] [(4, v.val), (1, 0), (5, b.val), (4, f.code), (7, c.toNat)] hall hN rfl rfl rfl
  have e2 : bits N 16 16 = 0 := bits_seg [(4, 7), (6, 6), (4, v.val)] [(1, 0)] [(5, b.val), (4, f.code), (7, c.toNat)] hall hN rfl rfl rfl
  have e3 : bits N 10 7 = f.code := bits_seg [(4, 7), (6, 6), (4, v.val), (1, 0), (5, b.val)] [(4, f.code)] [(7, c.toNat)] hall hN (hz_one _ _) rfl rfl
  have e4 : fin16 N 17 = v := fin16_eq (seg [(4, 7), (6, 6)] [(4, v.val)] [(1, 0), (5, b.val), (4, f.code), (7, c.toNat)] hall hN (hz_one _ _))
  have e5 : xreg N 11 = b := xreg_eq (seg [(4, 7), (6, 6), (4, v.val), (1, 0)] [(5, b.val)] [(4, f.code), (7, c.toNat)] hall hN (hz_one _ _))
  have e6 : imm N 7 0 = c := imm_eq (seg [(4, 7), (6, 6), (4, v.val), (1, 0), (5, b.val), (4, f.code)] [(7, c.toNat)] [] hall hN (hz_one _ _))
  rw [decodeFields, e0]; show decodeVM N = _; rw [decodeVM, e1]; show (if bits N 16 16 == 0 then (ElemTy.ofCode (bits N 10 7)).bind (fun f => some (Instr.vldlChk (fin16 N 17) (xreg N 11) f (imm N 7 0))) else none) = _
  simp only [e2, e3, e4, e5, e6, ElemTy.ofCode_code, Option.bind_some, beq_self_eq_true, ↓reduceIte]

theorem vldqChk (v : Fin 16) (b : XReg) (f : ElemTy) (c : BitVec 7) : Statement (.vldqChk v b f c) := by
  have hall : Fits [(4, 7), (6, 14), (4, v.val), (1, 0), (5, b.val), (4, f.code), (7, c.toNat)] := all_cons (by decide) (all_cons (by decide) (all_cons (v.isLt) (all_cons (by decide) (all_cons (b.isLt) (all_cons (ElemTy.code_lt f) (all_cons (c.isLt) (all_nil)))))))
  refine of_segs rfl [(4, 7), (6, 14), (4, v.val), (1, 0), (5, b.val), (4, f.code), (7, c.toNat)] rfl trivial hall (by simp only [pack, hz, List.foldl]; omega) (fun N Q hN => ?_)
  have e0 : bits N 30 27 = 7 := bits_seg [] [(4, 7)] [(6, 14), (4, v.val), (1, 0), (5, b.val), (4, f.code), (7, c.toNat)] hall hN rfl rfl rfl
  have e1 : bits N 26 21 = 14 := bits_seg [(4, 7)] [(6, 14)] [(4, v.val), (1, 0), (5, b.val), (4, f.code), (7, c.toNat)] hall hN rfl rfl rfl
  have e2 : bits N 16 16 = 0 := bits_seg [(4, 7), (6, 14), (4, v.val)] [(1, 0)] [(5, b.val), (4, f.code), (7, c.toNat)] hall hN rfl rfl rfl
  have e3 : bits N 10 7 = f.code := bits_seg [(4, 7), (6, 14), (4, v.val), (1, 0), (5, b.val)] [(4, f.code)] [(7, c.toNat)] hall hN (hz_one _ _) rfl rfl
  have e4 : fin16 N 17 = v := fin16_eq (seg [(4, 7), (6, 14)] [(4, v.val)] [(1, 0), (5, b.val), (4, f.code), (7, c.toNat)] hall hN (hz_one _ _))
  have e5 : xreg N 11 = b := xreg_eq (seg [(4, 7), (6, 14), (4, v.val), (1, 0)] [(5, b.val)] [(4, f.code), (7, c.toNat)] hall hN (hz_one _ _))
  have e6 : imm N 7 0 = c := imm_eq (seg [(4, 7), (6, 14), (4, v.val), (1, 0), (5, b.val), (4, f.code)] [(7, c.toNat)] [] hall hN (hz_one _ _))
  rw [decodeFields, e0]; show decodeVM N = _; rw [decodeVM, e1]; show (if bits N 16 16 == 0 then (ElemTy.ofCode (bits N 10 7)).bind (fun f => some (Instr.vldqChk (fin16 N 17) (xreg N 11) f (imm N 7 0))) else none) = _
  simp only [e2, e3, e4, e5, e6, ElemTy.ofCode_code, Option.bind_some, beq_self_eq_true, ↓reduceIte]

theorem vldoChk (v : Fin 16) (b : XReg) (f : ElemTy) (c : BitVec 7) : Statement (.vldoChk v b f c) := by
  have hall : Fits [(4, 7), (6, 22), (4, v.val), (1, 0), (5, b.val), (4, f.code), (7, c.toNat)] := all_cons (by decide) (all_cons (by decide) (all_cons (v.isLt) (all_cons (by decide) (all_cons (b.isLt) (all_cons (ElemTy.code_lt f) (all_cons (c.isLt) (all_nil)))))))
  refine of_segs rfl [(4, 7), (6, 22), (4, v.val), (1, 0), (5, b.val), (4, f.code), (7, c.toNat)] rfl trivial hall (by simp only [pack, hz, List.foldl]; omega) (fun N Q hN => ?_)
  have e0 : bits N 30 27 = 7 := bits_seg [] [(4, 7)] [(6, 22), (4, v.val), (1, 0), (5, b.val), (4, f.code), (7, c.toNat)] hall hN rfl rfl rfl
  have e1 : bits N 26 21 = 22 := bits_seg [(4, 7)] [(6, 22)] [(4, v.val), (1, 0), (5, b.val), (4, f.code), (7, c.toNat)] hall hN rfl rfl rfl
  have e2 : bits N 16 16 = 0 := bits_seg [(4, 7), (6, 22), (4, v.val)] [(1, 0)] [(5, b.val), (4, f.code), (7, c.toNat)] hall hN rfl rfl rfl
  have e3 : bits N 10 7 = f.code := bits_seg [(4, 7), (6, 22), (4, v.val), (1, 0), (5, b.val)] [(4, f.code)] [(7, c.toNat)] hall hN (hz_one _ _) rfl rfl
  have e4 : fin16 N 17 = v := fin16_eq (seg [(4, 7), (6, 22)] [(4, v.val)] [(1, 0), (5, b.val), (4, f.code), (7, c.toNat)] hall hN (hz_one _ _))
  have e5 : xreg N 11 = b := xreg_eq (seg [(4, 7), (6, 22), (4, v.val), (1, 0)] [(5, b.val)] [(4, f.code), (7, c.toNat)] hall hN (hz_one _ _))
  have e6 : imm N 7 0 = c := imm_eq (seg [(4, 7), (6, 22), (4, v.val), (1, 0), (5, b.val), (4, f.code)] [(7, c.toNat)] [] hall hN (hz_one _ _))
  rw [decodeFields, e0]; show decodeVM N = _; rw [decodeVM, e1]; show (if bits N 16 16 == 0 then (ElemTy.ofCode (bits N 10 7)).bind (fun f => some (Instr.vldoChk (fin16 N 17) (xreg N 11) f (imm N 7 0))) else none) = _
  simp only [e2, e3, e4, e5, e6, ElemTy.ofCode_code, Option.bind_some, beq_self_eq_true, ↓reduceIte]

theorem vldgChk (v : Fin 16) (b : XReg) (f : ElemTy) (c : BitVec 7) : Statement (.vldgChk v b f c) := by
  have hall : Fits [(4, 7), (6, 30), (4, v.val), (1, 0), (5, b.val), (4, f.code), (7, c.toNat)] := all_cons (by decide) (all_cons (by decide) (all_cons (v.isLt) (all_cons (by decide) (all_cons (b.isLt) (all_cons (ElemTy.code_lt f) (all_cons (c.isLt) (all_nil)))))))
  refine of_segs rfl [(4, 7), (6, 30), (4, v.val), (1, 0), (5, b.val), (4, f.code), (7, c.toNat)] rfl trivial hall (by simp only [pack, hz, List.foldl]; omega) (fun N Q hN => ?_)
  have e0 : bits N 30 27 = 7 := bits_seg [] [(4, 7)] [(6, 30), (4, v.val), (1, 0), (5, b.val), (4, f.code), (7, c.toNat)] hall hN rfl rfl rfl
  have e1 : bits N 26 21 = 30 := bits_seg [(4, 7)] [(6, 30)] [(4, v.val), (1, 0), (5, b.val), (4, f.code), (7, c.toNat)] hall hN rfl rfl rfl
  have e2 : bits N 16 16 = 0 := bits_seg [(4, 7), (6, 30), (4, v.val)] [(1, 0)] [(5, b.val), (4, f.code), (7, c.toNat)] hall hN rfl rfl rfl
  have e3 : bits N 10 7 = f.code := bits_seg [(4, 7), (6, 30), (4, v.val), (1, 0), (5, b.val)] [(4, f.code)] [(7, c.toNat)] hall hN (hz_one _ _) rfl rfl
  have e4 : fin16 N 17 = v := fin16_eq (seg [(4, 7), (6, 30)] [(4, v.val)] [(1, 0), (5, b.val), (4, f.code), (7, c.toNat)] hall hN (hz_one _ _))
  have e5 : xreg N 11 = b := xreg_eq (seg [(4, 7), (6, 30), (4, v.val), (1, 0)] [(5, b.val)] [(4, f.code), (7, c.toNat)] hall hN (hz_one _ _))
  have e6 : imm N 7 0 = c := imm_eq (seg [(4, 7), (6, 30), (4, v.val), (1, 0), (5, b.val), (4, f.code)] [(7, c.toNat)] [] hall hN (hz_one _ _))
  rw [decodeFields, e0]; show decodeVM N = _; rw [decodeVM, e1]; show (if bits N 16 16 == 0 then (ElemTy.ofCode (bits N 10 7)).bind (fun f => some (Instr.vldgChk (fin16 N 17) (xreg N 11) f (imm N 7 0))) else none) = _
  simp only [e2, e3, e4, e5, e6, ElemTy.ofCode_code, Option.bind_some, beq_self_eq_true, ↓reduceIte]

theorem vldfChk (v : Fin 16) (b : XReg) (f : ElemTy) (c : BitVec 7) : Statement (.vldfChk v b f c) := by
  have hall : Fits [(4, 7), (6, 38), (4, v.val), (1, 0), (5, b.val), (4, f.code), (7, c.toNat)] := all_cons (by decide) (all_cons (by decide) (all_cons (v.isLt) (all_cons (by decide) (all_cons (b.isLt) (all_cons (ElemTy.code_lt f) (all_cons (c.isLt) (all_nil)))))))
  refine of_segs rfl [(4, 7), (6, 38), (4, v.val), (1, 0), (5, b.val), (4, f.code), (7, c.toNat)] rfl trivial hall (by simp only [pack, hz, List.foldl]; omega) (fun N Q hN => ?_)
  have e0 : bits N 30 27 = 7 := bits_seg [] [(4, 7)] [(6, 38), (4, v.val), (1, 0), (5, b.val), (4, f.code), (7, c.toNat)] hall hN rfl rfl rfl
  have e1 : bits N 26 21 = 38 := bits_seg [(4, 7)] [(6, 38)] [(4, v.val), (1, 0), (5, b.val), (4, f.code), (7, c.toNat)] hall hN rfl rfl rfl
  have e2 : bits N 16 16 = 0 := bits_seg [(4, 7), (6, 38), (4, v.val)] [(1, 0)] [(5, b.val), (4, f.code), (7, c.toNat)] hall hN rfl rfl rfl
  have e3 : bits N 10 7 = f.code := bits_seg [(4, 7), (6, 38), (4, v.val), (1, 0), (5, b.val)] [(4, f.code)] [(7, c.toNat)] hall hN (hz_one _ _) rfl rfl
  have e4 : fin16 N 17 = v := fin16_eq (seg [(4, 7), (6, 38)] [(4, v.val)] [(1, 0), (5, b.val), (4, f.code), (7, c.toNat)] hall hN (hz_one _ _))
  have e5 : xreg N 11 = b := xreg_eq (seg [(4, 7), (6, 38), (4, v.val), (1, 0)] [(5, b.val)] [(4, f.code), (7, c.toNat)] hall hN (hz_one _ _))
  have e6 : imm N 7 0 = c := imm_eq (seg [(4, 7), (6, 38), (4, v.val), (1, 0), (5, b.val), (4, f.code)] [(7, c.toNat)] [] hall hN (hz_one _ _))
  rw [decodeFields, e0]; show decodeVM N = _; rw [decodeVM, e1]; show (if bits N 16 16 == 0 then (ElemTy.ofCode (bits N 10 7)).bind (fun f => some (Instr.vldfChk (fin16 N 17) (xreg N 11) f (imm N 7 0))) else none) = _
  simp only [e2, e3, e4, e5, e6, ElemTy.ofCode_code, Option.bind_some, beq_self_eq_true, ↓reduceIte]

theorem vldhChk (v : Fin 16) (b : XReg) (f : ElemTy) (c : BitVec 7) : Statement (.vldhChk v b f c) := by
  have hall : Fits [(4, 7), (6, 46), (4, v.val), (1, 0), (5, b.val), (4, f.code), (7, c.toNat)] := all_cons (by decide) (all_cons (by decide) (all_cons (v.isLt) (all_cons (by decide) (all_cons (b.isLt) (all_cons (ElemTy.code_lt f) (all_cons (c.isLt) (all_nil)))))))
  refine of_segs rfl [(4, 7), (6, 46), (4, v.val), (1, 0), (5, b.val), (4, f.code), (7, c.toNat)] rfl trivial hall (by simp only [pack, hz, List.foldl]; omega) (fun N Q hN => ?_)
  have e0 : bits N 30 27 = 7 := bits_seg [] [(4, 7)] [(6, 46), (4, v.val), (1, 0), (5, b.val), (4, f.code), (7, c.toNat)] hall hN rfl rfl rfl
  have e1 : bits N 26 21 = 46 := bits_seg [(4, 7)] [(6, 46)] [(4, v.val), (1, 0), (5, b.val), (4, f.code), (7, c.toNat)] hall hN rfl rfl rfl
  have e2 : bits N 16 16 = 0 := bits_seg [(4, 7), (6, 46), (4, v.val)] [(1, 0)] [(5, b.val), (4, f.code), (7, c.toNat)] hall hN rfl rfl rfl
  have e3 : bits N 10 7 = f.code := bits_seg [(4, 7), (6, 46), (4, v.val), (1, 0), (5, b.val)] [(4, f.code)] [(7, c.toNat)] hall hN (hz_one _ _) rfl rfl
  have e4 : fin16 N 17 = v := fin16_eq (seg [(4, 7), (6, 46)] [(4, v.val)] [(1, 0), (5, b.val), (4, f.code), (7, c.toNat)] hall hN (hz_one _ _))
  have e5 : xreg N 11 = b := xreg_eq (seg [(4, 7), (6, 46), (4, v.val), (1, 0)] [(5, b.val)] [(4, f.code), (7, c.toNat)] hall hN (hz_one _ _))
  have e6 : imm N 7 0 = c := imm_eq (seg [(4, 7), (6, 46), (4, v.val), (1, 0), (5, b.val), (4, f.code)] [(7, c.toNat)] [] hall hN (hz_one _ _))
  rw [decodeFields, e0]; show decodeVM N = _; rw [decodeVM, e1]; show (if bits N 16 16 == 0 then (ElemTy.ofCode (bits N 10 7)).bind (fun f => some (Instr.vldhChk (fin16 N 17) (xreg N 11) f (imm N 7 0))) else none) = _
  simp only [e2, e3, e4, e5, e6, ElemTy.ofCode_code, Option.bind_some, beq_self_eq_true, ↓reduceIte]

theorem gclr (g : GReg) (k : Bool) : Statement (.gclr g k) := by
  have hall : Fits [(4, 12), (5, 0), (4, g.val), (17, 0), (1, b2n k)] := all_cons (by decide) (all_cons (by decide) (all_cons (g.isLt) (all_cons (by decide) (all_cons (b2n_lt k) (all_nil)))))
  refine of_segs rfl [(4, 12), (5, 0), (4, g.val), (17, 0), (1, b2n k)] rfl trivial hall (by simp only [pack, hz, List.foldl]; omega) (fun N Q hN => ?_)
  have e0 : bits N 30 27 = 12 := bits_seg [] [(4, 12)] [(5, 0), (4, g.val), (17, 0), (1, b2n k)] hall hN rfl rfl rfl
  have e1 : bits N 26 22 = 0 := bits_seg [(4, 12)] [(5, 0)] [(4, g.val), (17, 0), (1, b2n k)] hall hN rfl rfl rfl
  have e2 : bits N 17 1 = 0 := bits_seg [(4, 12), (5, 0), (4, g.val)] [(17, 0)] [(1, b2n k)] hall hN rfl rfl rfl
  have e3 : fin16 N 18 = g := fin16_eq (seg [(4, 12), (5, 0)] [(4, g.val)] [(17, 0), (1, b2n k)] hall hN (hz_one _ _))
  have e4 : bit N 0 = k := bit_eq (seg [(4, 12), (5, 0), (4, g.val), (17, 0)] [(1, b2n k)] [] hall hN (hz_one _ _))
  rw [decodeFields, e0]; show decodeST N = _; rw [decodeST, e1]; show (if bits N 17 1 == 0 then some (Instr.gclr (fin16 N 18) (bit N 0)) else none) = _
  simp only [e2, e3, e4, beq_self_eq_true, ↓reduceIte]

theorem gadd (g : GReg) (v : VReg) (e : Half) (k : Bool) : Statement (.gadd g v e k) := by
  have hall : Fits [(4, 12), (5, 1), (4, g.val), (4, 0), (5, v.val), (6, 0), (2, e.code), (1, b2n k)] := all_cons (by decide) (all_cons (by decide) (all_cons (g.isLt) (all_cons (by decide) (all_cons (v.isLt) (all_cons (by decide) (all_cons (Half.code_lt e) (all_cons (b2n_lt k) (all_nil))))))))
  refine of_segs rfl [(4, 12), (5, 1), (4, g.val), (4, 0), (5, v.val), (6, 0), (2, e.code), (1, b2n k)] rfl trivial hall (by simp only [pack, hz, List.foldl]; omega) (fun N Q hN => ?_)
  have e0 : bits N 30 27 = 12 := bits_seg [] [(4, 12)] [(5, 1), (4, g.val), (4, 0), (5, v.val), (6, 0), (2, e.code), (1, b2n k)] hall hN rfl rfl rfl
  have e1 : bits N 26 22 = 1 := bits_seg [(4, 12)] [(5, 1)] [(4, g.val), (4, 0), (5, v.val), (6, 0), (2, e.code), (1, b2n k)] hall hN rfl rfl rfl
  have e2 : bits N 8 3 = 0 := bits_seg [(4, 12), (5, 1), (4, g.val), (4, 0), (5, v.val)] [(6, 0)] [(2, e.code), (1, b2n k)] hall hN rfl rfl rfl
  have e3 : bits N 17 14 = 0 := bits_seg [(4, 12), (5, 1), (4, g.val)] [(4, 0)] [(5, v.val), (6, 0), (2, e.code), (1, b2n k)] hall hN rfl rfl rfl
  have e4 : bits N 2 1 = e.code := bits_seg [(4, 12), (5, 1), (4, g.val), (4, 0), (5, v.val), (6, 0)] [(2, e.code)] [(1, b2n k)] hall hN (hz_one _ _) rfl rfl
  have e5 : fin16 N 18 = g := fin16_eq (seg [(4, 12), (5, 1)] [(4, g.val)] [(4, 0), (5, v.val), (6, 0), (2, e.code), (1, b2n k)] hall hN (hz_one _ _))
  have e6 : xreg N 9 = v := xreg_eq (seg [(4, 12), (5, 1), (4, g.val), (4, 0)] [(5, v.val)] [(6, 0), (2, e.code), (1, b2n k)] hall hN (hz_one _ _))
  have e7 : bit N 0 = k := bit_eq (seg [(4, 12), (5, 1), (4, g.val), (4, 0), (5, v.val), (6, 0), (2, e.code)] [(1, b2n k)] [] hall hN (hz_one _ _))
  rw [decodeFields, e0]; show decodeST N = _; rw [decodeST, e1]; show (if bits N 8 3 == 0 && bits N 17 14 == 0 then (Half.ofCode (bits N 2 1)).bind (fun e => some (Instr.gadd (fin16 N 18) (xreg N 9) e (bit N 0))) else none) = _
  simp only [e2, e3, e4, e5, e6, e7, Half.ofCode_code, Option.bind_some, beq_self_eq_true, ↓reduceIte, Bool.and_self]

theorem gwadd (g : GReg) (v : VReg) (w : VReg) (e : Half) (k : Bool) : Statement (.gwadd g v w e k) := by
  have hall : Fits [(4, 12), (5, 2), (4, g.val), (4, 0), (5, v.val), (5, w.val), (1, 0), (2, e.code), (1, b2n k)] := all_cons (by decide) (all_cons (by decide) (all_cons (g.isLt) (all_cons (by decide) (all_cons (v.isLt) (all_cons (w.isLt) (all_cons (by decide) (all_cons (Half.code_lt e) (all_cons (b2n_lt k) (all_nil)))))))))
  refine of_segs rfl [(4, 12), (5, 2), (4, g.val), (4, 0), (5, v.val), (5, w.val), (1, 0), (2, e.code), (1, b2n k)] rfl trivial hall (by simp only [pack, hz, List.foldl]; omega) (fun N Q hN => ?_)
  have e0 : bits N 30 27 = 12 := bits_seg [] [(4, 12)] [(5, 2), (4, g.val), (4, 0), (5, v.val), (5, w.val), (1, 0), (2, e.code), (1, b2n k)] hall hN rfl rfl rfl
  have e1 : bits N 26 22 = 2 := bits_seg [(4, 12)] [(5, 2)] [(4, g.val), (4, 0), (5, v.val), (5, w.val), (1, 0), (2, e.code), (1, b2n k)] hall hN rfl rfl rfl
  have e2 : bits N 3 3 = 0 := bits_seg [(4, 12), (5, 2), (4, g.val), (4, 0), (5, v.val), (5, w.val)] [(1, 0)] [(2, e.code), (1, b2n k)] hall hN rfl rfl rfl
  have e3 : bits N 17 14 = 0 := bits_seg [(4, 12), (5, 2), (4, g.val)] [(4, 0)] [(5, v.val), (5, w.val), (1, 0), (2, e.code), (1, b2n k)] hall hN rfl rfl rfl
  have e4 : bits N 2 1 = e.code := bits_seg [(4, 12), (5, 2), (4, g.val), (4, 0), (5, v.val), (5, w.val), (1, 0)] [(2, e.code)] [(1, b2n k)] hall hN (hz_one _ _) rfl rfl
  have e5 : fin16 N 18 = g := fin16_eq (seg [(4, 12), (5, 2)] [(4, g.val)] [(4, 0), (5, v.val), (5, w.val), (1, 0), (2, e.code), (1, b2n k)] hall hN (hz_one _ _))
  have e6 : xreg N 9 = v := xreg_eq (seg [(4, 12), (5, 2), (4, g.val), (4, 0)] [(5, v.val)] [(5, w.val), (1, 0), (2, e.code), (1, b2n k)] hall hN (hz_one _ _))
  have e7 : xreg N 4 = w := xreg_eq (seg [(4, 12), (5, 2), (4, g.val), (4, 0), (5, v.val)] [(5, w.val)] [(1, 0), (2, e.code), (1, b2n k)] hall hN (hz_one _ _))
  have e8 : bit N 0 = k := bit_eq (seg [(4, 12), (5, 2), (4, g.val), (4, 0), (5, v.val), (5, w.val), (1, 0), (2, e.code)] [(1, b2n k)] [] hall hN (hz_one _ _))
  rw [decodeFields, e0]; show decodeST N = _; rw [decodeST, e1]; show (if bits N 3 3 == 0 && bits N 17 14 == 0 then (Half.ofCode (bits N 2 1)).bind (fun e => some (Instr.gwadd (fin16 N 18) (xreg N 9) (xreg N 4) e (bit N 0))) else none) = _
  simp only [e2, e3, e4, e5, e6, e7, e8, Half.ofCode_code, Option.bind_some, beq_self_eq_true, ↓reduceIte, Bool.and_self]

theorem gmerge (g : GReg) (h : GReg) (k : Bool) : Statement (.gmerge g h k) := by
  have hall : Fits [(4, 12), (5, 3), (4, g.val), (4, h.val), (13, 0), (1, b2n k)] := all_cons (by decide) (all_cons (by decide) (all_cons (g.isLt) (all_cons (h.isLt) (all_cons (by decide) (all_cons (b2n_lt k) (all_nil))))))
  refine of_segs rfl [(4, 12), (5, 3), (4, g.val), (4, h.val), (13, 0), (1, b2n k)] rfl trivial hall (by simp only [pack, hz, List.foldl]; omega) (fun N Q hN => ?_)
  have e0 : bits N 30 27 = 12 := bits_seg [] [(4, 12)] [(5, 3), (4, g.val), (4, h.val), (13, 0), (1, b2n k)] hall hN rfl rfl rfl
  have e1 : bits N 26 22 = 3 := bits_seg [(4, 12)] [(5, 3)] [(4, g.val), (4, h.val), (13, 0), (1, b2n k)] hall hN rfl rfl rfl
  have e2 : bits N 13 1 = 0 := bits_seg [(4, 12), (5, 3), (4, g.val), (4, h.val)] [(13, 0)] [(1, b2n k)] hall hN rfl rfl rfl
  have e3 : fin16 N 18 = g := fin16_eq (seg [(4, 12), (5, 3)] [(4, g.val)] [(4, h.val), (13, 0), (1, b2n k)] hall hN (hz_one _ _))
  have e4 : fin16 N 14 = h := fin16_eq (seg [(4, 12), (5, 3), (4, g.val)] [(4, h.val)] [(13, 0), (1, b2n k)] hall hN (hz_one _ _))
  have e5 : bit N 0 = k := bit_eq (seg [(4, 12), (5, 3), (4, g.val), (4, h.val), (13, 0)] [(1, b2n k)] [] hall hN (hz_one _ _))
  rw [decodeFields, e0]; show decodeST N = _; rw [decodeST, e1]; show (if bits N 13 1 == 0 then some (Instr.gmerge (fin16 N 18) (fin16 N 14) (bit N 0)) else none) = _
  simp only [e2, e3, e4, e5, beq_self_eq_true, ↓reduceIte]

theorem gfold (g : GReg) (h : GReg) (l : BitVec 3) : Statement (.gfold g h l) := by
  have hall : Fits [(4, 12), (5, 4), (4, g.val), (4, h.val), (11, 0), (3, l.toNat)] := all_cons (by decide) (all_cons (by decide) (all_cons (g.isLt) (all_cons (h.isLt) (all_cons (by decide) (all_cons (l.isLt) (all_nil))))))
  refine of_segs rfl [(4, 12), (5, 4), (4, g.val), (4, h.val), (11, 0), (3, l.toNat)] rfl trivial hall (by simp only [pack, hz, List.foldl]; omega) (fun N Q hN => ?_)
  have e0 : bits N 30 27 = 12 := bits_seg [] [(4, 12)] [(5, 4), (4, g.val), (4, h.val), (11, 0), (3, l.toNat)] hall hN rfl rfl rfl
  have e1 : bits N 26 22 = 4 := bits_seg [(4, 12)] [(5, 4)] [(4, g.val), (4, h.val), (11, 0), (3, l.toNat)] hall hN rfl rfl rfl
  have e2 : bits N 13 3 = 0 := bits_seg [(4, 12), (5, 4), (4, g.val), (4, h.val)] [(11, 0)] [(3, l.toNat)] hall hN rfl rfl rfl
  have e3 : fin16 N 18 = g := fin16_eq (seg [(4, 12), (5, 4)] [(4, g.val)] [(4, h.val), (11, 0), (3, l.toNat)] hall hN (hz_one _ _))
  have e4 : fin16 N 14 = h := fin16_eq (seg [(4, 12), (5, 4), (4, g.val)] [(4, h.val)] [(11, 0), (3, l.toNat)] hall hN (hz_one _ _))
  have e5 : imm N 3 0 = l := imm_eq (seg [(4, 12), (5, 4), (4, g.val), (4, h.val), (11, 0)] [(3, l.toNat)] [] hall hN (hz_one _ _))
  rw [decodeFields, e0]; show decodeST N = _; rw [decodeST, e1]; show (if bits N 13 3 == 0 then some (Instr.gfold (fin16 N 18) (fin16 N 14) (imm N 3 0)) else none) = _
  simp only [e2, e3, e4, e5, beq_self_eq_true, ↓reduceIte]

theorem gdrain (g : GReg) (v : VReg) (w : XReg) (c : Bool) (m : DrainMode) : Statement (.gdrain g v w c m) := by
  have hall : Fits [(4, 12), (5, 5), (4, g.val), (4, 0), (5, v.val), (5, w.val), (1, b2n c), (3, m.code)] := all_cons (by decide) (all_cons (by decide) (all_cons (g.isLt) (all_cons (by decide) (all_cons (v.isLt) (all_cons (w.isLt) (all_cons (b2n_lt c) (all_cons (DrainMode.code_lt m) (all_nil))))))))
  refine of_segs rfl [(4, 12), (5, 5), (4, g.val), (4, 0), (5, v.val), (5, w.val), (1, b2n c), (3, m.code)] rfl trivial hall (by simp only [pack, hz, List.foldl]; omega) (fun N Q hN => ?_)
  have e0 : bits N 30 27 = 12 := bits_seg [] [(4, 12)] [(5, 5), (4, g.val), (4, 0), (5, v.val), (5, w.val), (1, b2n c), (3, m.code)] hall hN rfl rfl rfl
  have e1 : bits N 26 22 = 5 := bits_seg [(4, 12)] [(5, 5)] [(4, g.val), (4, 0), (5, v.val), (5, w.val), (1, b2n c), (3, m.code)] hall hN rfl rfl rfl
  have e2 : bits N 17 14 = 0 := bits_seg [(4, 12), (5, 5), (4, g.val)] [(4, 0)] [(5, v.val), (5, w.val), (1, b2n c), (3, m.code)] hall hN rfl rfl rfl
  have e3 : bits N 2 0 = m.code := bits_seg [(4, 12), (5, 5), (4, g.val), (4, 0), (5, v.val), (5, w.val), (1, b2n c)] [(3, m.code)] [] hall hN (hz_one _ _) rfl rfl
  have e4 : fin16 N 18 = g := fin16_eq (seg [(4, 12), (5, 5)] [(4, g.val)] [(4, 0), (5, v.val), (5, w.val), (1, b2n c), (3, m.code)] hall hN (hz_one _ _))
  have e5 : xreg N 9 = v := xreg_eq (seg [(4, 12), (5, 5), (4, g.val), (4, 0)] [(5, v.val)] [(5, w.val), (1, b2n c), (3, m.code)] hall hN (hz_one _ _))
  have e6 : xreg N 4 = w := xreg_eq (seg [(4, 12), (5, 5), (4, g.val), (4, 0), (5, v.val)] [(5, w.val)] [(1, b2n c), (3, m.code)] hall hN (hz_one _ _))
  have e7 : bit N 3 = c := bit_eq (seg [(4, 12), (5, 5), (4, g.val), (4, 0), (5, v.val), (5, w.val)] [(1, b2n c)] [(3, m.code)] hall hN (hz_one _ _))
  rw [decodeFields, e0]; show decodeST N = _; rw [decodeST, e1]; show (if bits N 17 14 == 0 then (DrainMode.ofCode (bits N 2 0)).bind (fun m => some (Instr.gdrain (fin16 N 18) (xreg N 9) (xreg N 4) (bit N 3) m)) else none) = _
  simp only [e2, e3, e4, e5, e6, e7, DrainMode.ofCode_code, Option.bind_some, beq_self_eq_true, ↓reduceIte]

theorem gld (g : GReg) (b : XReg) (p : Bool) : Statement (.gld g b p) := by
  have hall : Fits [(4, 12), (5, 6), (4, g.val), (4, 0), (5, b.val), (4, 0), (1, b2n p), (4, 0)] := all_cons (by decide) (all_cons (by decide) (all_cons (g.isLt) (all_cons (by decide) (all_cons (b.isLt) (all_cons (by decide) (all_cons (b2n_lt p) (all_cons (by decide) (all_nil))))))))
  refine of_segs rfl [(4, 12), (5, 6), (4, g.val), (4, 0), (5, b.val), (4, 0), (1, b2n p), (4, 0)] rfl trivial hall (by simp only [pack, hz, List.foldl]; omega) (fun N Q hN => ?_)
  have e0 : bits N 30 27 = 12 := bits_seg [] [(4, 12)] [(5, 6), (4, g.val), (4, 0), (5, b.val), (4, 0), (1, b2n p), (4, 0)] hall hN rfl rfl rfl
  have e1 : bits N 26 22 = 6 := bits_seg [(4, 12)] [(5, 6)] [(4, g.val), (4, 0), (5, b.val), (4, 0), (1, b2n p), (4, 0)] hall hN rfl rfl rfl
  have e2 : bits N 3 0 = 0 := bits_seg [(4, 12), (5, 6), (4, g.val), (4, 0), (5, b.val), (4, 0), (1, b2n p)] [(4, 0)] [] hall hN rfl rfl rfl
  have e3 : bits N 8 5 = 0 := bits_seg [(4, 12), (5, 6), (4, g.val), (4, 0), (5, b.val)] [(4, 0)] [(1, b2n p), (4, 0)] hall hN rfl rfl rfl
  have e4 : bits N 17 14 = 0 := bits_seg [(4, 12), (5, 6), (4, g.val)] [(4, 0)] [(5, b.val), (4, 0), (1, b2n p), (4, 0)] hall hN rfl rfl rfl
  have e5 : fin16 N 18 = g := fin16_eq (seg [(4, 12), (5, 6)] [(4, g.val)] [(4, 0), (5, b.val), (4, 0), (1, b2n p), (4, 0)] hall hN (hz_one _ _))
  have e6 : xreg N 9 = b := xreg_eq (seg [(4, 12), (5, 6), (4, g.val), (4, 0)] [(5, b.val)] [(4, 0), (1, b2n p), (4, 0)] hall hN (hz_one _ _))
  have e7 : bit N 4 = p := bit_eq (seg [(4, 12), (5, 6), (4, g.val), (4, 0), (5, b.val), (4, 0)] [(1, b2n p)] [(4, 0)] hall hN (hz_one _ _))
  rw [decodeFields, e0]; show decodeST N = _; rw [decodeST, e1]; show (if bits N 3 0 == 0 && bits N 8 5 == 0 && bits N 17 14 == 0 then some (Instr.gld (fin16 N 18) (xreg N 9) (bit N 4)) else none) = _
  simp only [e2, e3, e4, e5, e6, e7, beq_self_eq_true, ↓reduceIte, Bool.and_self]

theorem gst (g : GReg) (b : XReg) (p : Bool) : Statement (.gst g b p) := by
  have hall : Fits [(4, 12), (5, 7), (4, g.val), (4, 0), (5, b.val), (4, 0), (1, b2n p), (4, 0)] := all_cons (by decide) (all_cons (by decide) (all_cons (g.isLt) (all_cons (by decide) (all_cons (b.isLt) (all_cons (by decide) (all_cons (b2n_lt p) (all_cons (by decide) (all_nil))))))))
  refine of_segs rfl [(4, 12), (5, 7), (4, g.val), (4, 0), (5, b.val), (4, 0), (1, b2n p), (4, 0)] rfl trivial hall (by simp only [pack, hz, List.foldl]; omega) (fun N Q hN => ?_)
  have e0 : bits N 30 27 = 12 := bits_seg [] [(4, 12)] [(5, 7), (4, g.val), (4, 0), (5, b.val), (4, 0), (1, b2n p), (4, 0)] hall hN rfl rfl rfl
  have e1 : bits N 26 22 = 7 := bits_seg [(4, 12)] [(5, 7)] [(4, g.val), (4, 0), (5, b.val), (4, 0), (1, b2n p), (4, 0)] hall hN rfl rfl rfl
  have e2 : bits N 3 0 = 0 := bits_seg [(4, 12), (5, 7), (4, g.val), (4, 0), (5, b.val), (4, 0), (1, b2n p)] [(4, 0)] [] hall hN rfl rfl rfl
  have e3 : bits N 8 5 = 0 := bits_seg [(4, 12), (5, 7), (4, g.val), (4, 0), (5, b.val)] [(4, 0)] [(1, b2n p), (4, 0)] hall hN rfl rfl rfl
  have e4 : bits N 17 14 = 0 := bits_seg [(4, 12), (5, 7), (4, g.val)] [(4, 0)] [(5, b.val), (4, 0), (1, b2n p), (4, 0)] hall hN rfl rfl rfl
  have e5 : fin16 N 18 = g := fin16_eq (seg [(4, 12), (5, 7)] [(4, g.val)] [(4, 0), (5, b.val), (4, 0), (1, b2n p), (4, 0)] hall hN (hz_one _ _))
  have e6 : xreg N 9 = b := xreg_eq (seg [(4, 12), (5, 7), (4, g.val), (4, 0)] [(5, b.val)] [(4, 0), (1, b2n p), (4, 0)] hall hN (hz_one _ _))
  have e7 : bit N 4 = p := bit_eq (seg [(4, 12), (5, 7), (4, g.val), (4, 0), (5, b.val), (4, 0)] [(1, b2n p)] [(4, 0)] hall hN (hz_one _ _))
  rw [decodeFields, e0]; show decodeST N = _; rw [decodeST, e1]; show (if bits N 3 0 == 0 && bits N 8 5 == 0 && bits N 17 14 == 0 then some (Instr.gst (fin16 N 18) (xreg N 9) (bit N 4)) else none) = _
  simp only [e2, e3, e4, e5, e6, e7, beq_self_eq_true, ↓reduceIte, Bool.and_self]

theorem gset (g : GReg) (v : VReg) (k : Bool) : Statement (.gset g v k) := by
  have hall : Fits [(4, 12), (5, 8), (4, g.val), (4, 0), (5, v.val), (8, 0), (1, b2n k)] := all_cons (by decide) (all_cons (by decide) (all_cons (g.isLt) (all_cons (by decide) (all_cons (v.isLt) (all_cons (by decide) (all_cons (b2n_lt k) (all_nil)))))))
  refine of_segs rfl [(4, 12), (5, 8), (4, g.val), (4, 0), (5, v.val), (8, 0), (1, b2n k)] rfl trivial hall (by simp only [pack, hz, List.foldl]; omega) (fun N Q hN => ?_)
  have e0 : bits N 30 27 = 12 := bits_seg [] [(4, 12)] [(5, 8), (4, g.val), (4, 0), (5, v.val), (8, 0), (1, b2n k)] hall hN rfl rfl rfl
  have e1 : bits N 26 22 = 8 := bits_seg [(4, 12)] [(5, 8)] [(4, g.val), (4, 0), (5, v.val), (8, 0), (1, b2n k)] hall hN rfl rfl rfl
  have e2 : bits N 8 1 = 0 := bits_seg [(4, 12), (5, 8), (4, g.val), (4, 0), (5, v.val)] [(8, 0)] [(1, b2n k)] hall hN rfl rfl rfl
  have e3 : bits N 17 14 = 0 := bits_seg [(4, 12), (5, 8), (4, g.val)] [(4, 0)] [(5, v.val), (8, 0), (1, b2n k)] hall hN rfl rfl rfl
  have e4 : fin16 N 18 = g := fin16_eq (seg [(4, 12), (5, 8)] [(4, g.val)] [(4, 0), (5, v.val), (8, 0), (1, b2n k)] hall hN (hz_one _ _))
  have e5 : xreg N 9 = v := xreg_eq (seg [(4, 12), (5, 8), (4, g.val), (4, 0)] [(5, v.val)] [(8, 0), (1, b2n k)] hall hN (hz_one _ _))
  have e6 : bit N 0 = k := bit_eq (seg [(4, 12), (5, 8), (4, g.val), (4, 0), (5, v.val), (8, 0)] [(1, b2n k)] [] hall hN (hz_one _ _))
  rw [decodeFields, e0]; show decodeST N = _; rw [decodeST, e1]; show (if bits N 8 1 == 0 && bits N 17 14 == 0 then some (Instr.gset (fin16 N 18) (xreg N 9) (bit N 0)) else none) = _
  simp only [e2, e3, e4, e5, e6, beq_self_eq_true, ↓reduceIte, Bool.and_self]

theorem mma (t : Tile) (a : XReg) (b : XReg) (f : ElemTy) (w : Bool) (z : Bool) : Statement (.mma t a b f w z) := by
  have hall : Fits [(4, 8), (5, 0), (5, t.val), (5, a.val), (5, b.val), (4, f.code), (1, 0), (1, b2n w), (1, b2n z)] := all_cons (by decide) (all_cons (by decide) (all_cons (t.isLt) (all_cons (a.isLt) (all_cons (b.isLt) (all_cons (ElemTy.code_lt f) (all_cons (by decide) (all_cons (b2n_lt w) (all_cons (b2n_lt z) (all_nil)))))))))
  refine of_segs rfl [(4, 8), (5, 0), (5, t.val), (5, a.val), (5, b.val), (4, f.code), (1, 0), (1, b2n w), (1, b2n z)] rfl trivial hall (by simp only [pack, hz, List.foldl]; omega) (fun N Q hN => ?_)
  have e0 : bits N 30 27 = 8 := bits_seg [] [(4, 8)] [(5, 0), (5, t.val), (5, a.val), (5, b.val), (4, f.code), (1, 0), (1, b2n w), (1, b2n z)] hall hN rfl rfl rfl
  have e1 : bits N 26 22 = 0 := bits_seg [(4, 8)] [(5, 0)] [(5, t.val), (5, a.val), (5, b.val), (4, f.code), (1, 0), (1, b2n w), (1, b2n z)] hall hN rfl rfl rfl
  have e2 : bits N 2 2 = 0 := bits_seg [(4, 8), (5, 0), (5, t.val), (5, a.val), (5, b.val), (4, f.code)] [(1, 0)] [(1, b2n w), (1, b2n z)] hall hN rfl rfl rfl
  have e3 : bits N 6 3 = f.code := bits_seg [(4, 8), (5, 0), (5, t.val), (5, a.val), (5, b.val)] [(4, f.code)] [(1, 0), (1, b2n w), (1, b2n z)] hall hN (hz_one _ _) rfl rfl
  have e4 : xreg N 17 = t := xreg_eq (seg [(4, 8), (5, 0)] [(5, t.val)] [(5, a.val), (5, b.val), (4, f.code), (1, 0), (1, b2n w), (1, b2n z)] hall hN (hz_one _ _))
  have e5 : xreg N 12 = a := xreg_eq (seg [(4, 8), (5, 0), (5, t.val)] [(5, a.val)] [(5, b.val), (4, f.code), (1, 0), (1, b2n w), (1, b2n z)] hall hN (hz_one _ _))
  have e6 : xreg N 7 = b := xreg_eq (seg [(4, 8), (5, 0), (5, t.val), (5, a.val)] [(5, b.val)] [(4, f.code), (1, 0), (1, b2n w), (1, b2n z)] hall hN (hz_one _ _))
  have e7 : bit N 1 = w := bit_eq (seg [(4, 8), (5, 0), (5, t.val), (5, a.val), (5, b.val), (4, f.code), (1, 0)] [(1, b2n w)] [(1, b2n z)] hall hN (hz_one _ _))
  have e8 : bit N 0 = z := bit_eq (seg [(4, 8), (5, 0), (5, t.val), (5, a.val), (5, b.val), (4, f.code), (1, 0), (1, b2n w)] [(1, b2n z)] [] hall hN (hz_one _ _))
  rw [decodeFields, e0]; show decodeMX N = _; rw [decodeMX, e1]; show (if bits N 2 2 == 0 then (ElemTy.ofCode (bits N 6 3)).bind (fun f => some (Instr.mma (xreg N 17) (xreg N 12) (xreg N 7) f (bit N 1) (bit N 0))) else none) = _
  simp only [e2, e3, e4, e5, e6, e7, e8, ElemTy.ofCode_code, Option.bind_some, beq_self_eq_true, ↓reduceIte]

theorem mmat (t : Tile) (a : XReg) (b : XReg) (f : ElemTy) (w : Bool) (z : Bool) : Statement (.mmat t a b f w z) := by
  have hall : Fits [(4, 8), (5, 1), (5, t.val), (5, a.val), (5, b.val), (4, f.code), (1, 0), (1, b2n w), (1, b2n z)] := all_cons (by decide) (all_cons (by decide) (all_cons (t.isLt) (all_cons (a.isLt) (all_cons (b.isLt) (all_cons (ElemTy.code_lt f) (all_cons (by decide) (all_cons (b2n_lt w) (all_cons (b2n_lt z) (all_nil)))))))))
  refine of_segs rfl [(4, 8), (5, 1), (5, t.val), (5, a.val), (5, b.val), (4, f.code), (1, 0), (1, b2n w), (1, b2n z)] rfl trivial hall (by simp only [pack, hz, List.foldl]; omega) (fun N Q hN => ?_)
  have e0 : bits N 30 27 = 8 := bits_seg [] [(4, 8)] [(5, 1), (5, t.val), (5, a.val), (5, b.val), (4, f.code), (1, 0), (1, b2n w), (1, b2n z)] hall hN rfl rfl rfl
  have e1 : bits N 26 22 = 1 := bits_seg [(4, 8)] [(5, 1)] [(5, t.val), (5, a.val), (5, b.val), (4, f.code), (1, 0), (1, b2n w), (1, b2n z)] hall hN rfl rfl rfl
  have e2 : bits N 2 2 = 0 := bits_seg [(4, 8), (5, 1), (5, t.val), (5, a.val), (5, b.val), (4, f.code)] [(1, 0)] [(1, b2n w), (1, b2n z)] hall hN rfl rfl rfl
  have e3 : bits N 6 3 = f.code := bits_seg [(4, 8), (5, 1), (5, t.val), (5, a.val), (5, b.val)] [(4, f.code)] [(1, 0), (1, b2n w), (1, b2n z)] hall hN (hz_one _ _) rfl rfl
  have e4 : xreg N 17 = t := xreg_eq (seg [(4, 8), (5, 1)] [(5, t.val)] [(5, a.val), (5, b.val), (4, f.code), (1, 0), (1, b2n w), (1, b2n z)] hall hN (hz_one _ _))
  have e5 : xreg N 12 = a := xreg_eq (seg [(4, 8), (5, 1), (5, t.val)] [(5, a.val)] [(5, b.val), (4, f.code), (1, 0), (1, b2n w), (1, b2n z)] hall hN (hz_one _ _))
  have e6 : xreg N 7 = b := xreg_eq (seg [(4, 8), (5, 1), (5, t.val), (5, a.val)] [(5, b.val)] [(4, f.code), (1, 0), (1, b2n w), (1, b2n z)] hall hN (hz_one _ _))
  have e7 : bit N 1 = w := bit_eq (seg [(4, 8), (5, 1), (5, t.val), (5, a.val), (5, b.val), (4, f.code), (1, 0)] [(1, b2n w)] [(1, b2n z)] hall hN (hz_one _ _))
  have e8 : bit N 0 = z := bit_eq (seg [(4, 8), (5, 1), (5, t.val), (5, a.val), (5, b.val), (4, f.code), (1, 0), (1, b2n w)] [(1, b2n z)] [] hall hN (hz_one _ _))
  rw [decodeFields, e0]; show decodeMX N = _; rw [decodeMX, e1]; show (if bits N 2 2 == 0 then (ElemTy.ofCode (bits N 6 3)).bind (fun f => some (Instr.mmat (xreg N 17) (xreg N 12) (xreg N 7) f (bit N 1) (bit N 0))) else none) = _
  simp only [e2, e3, e4, e5, e6, e7, e8, ElemTy.ofCode_code, Option.bind_some, beq_self_eq_true, ↓reduceIte]

theorem mmag (t : Tile) (a : XReg) (b : XReg) (f : ElemTy) (w : Bool) (z : Bool) : Statement (.mmag t a b f w z) := by
  have hall : Fits [(4, 8), (5, 2), (5, t.val), (5, a.val), (5, b.val), (4, f.code), (1, 0), (1, b2n w), (1, b2n z)] := all_cons (by decide) (all_cons (by decide) (all_cons (t.isLt) (all_cons (a.isLt) (all_cons (b.isLt) (all_cons (ElemTy.code_lt f) (all_cons (by decide) (all_cons (b2n_lt w) (all_cons (b2n_lt z) (all_nil)))))))))
  refine of_segs rfl [(4, 8), (5, 2), (5, t.val), (5, a.val), (5, b.val), (4, f.code), (1, 0), (1, b2n w), (1, b2n z)] rfl trivial hall (by simp only [pack, hz, List.foldl]; omega) (fun N Q hN => ?_)
  have e0 : bits N 30 27 = 8 := bits_seg [] [(4, 8)] [(5, 2), (5, t.val), (5, a.val), (5, b.val), (4, f.code), (1, 0), (1, b2n w), (1, b2n z)] hall hN rfl rfl rfl
  have e1 : bits N 26 22 = 2 := bits_seg [(4, 8)] [(5, 2)] [(5, t.val), (5, a.val), (5, b.val), (4, f.code), (1, 0), (1, b2n w), (1, b2n z)] hall hN rfl rfl rfl
  have e2 : bits N 2 2 = 0 := bits_seg [(4, 8), (5, 2), (5, t.val), (5, a.val), (5, b.val), (4, f.code)] [(1, 0)] [(1, b2n w), (1, b2n z)] hall hN rfl rfl rfl
  have e3 : bits N 6 3 = f.code := bits_seg [(4, 8), (5, 2), (5, t.val), (5, a.val), (5, b.val)] [(4, f.code)] [(1, 0), (1, b2n w), (1, b2n z)] hall hN (hz_one _ _) rfl rfl
  have e4 : xreg N 17 = t := xreg_eq (seg [(4, 8), (5, 2)] [(5, t.val)] [(5, a.val), (5, b.val), (4, f.code), (1, 0), (1, b2n w), (1, b2n z)] hall hN (hz_one _ _))
  have e5 : xreg N 12 = a := xreg_eq (seg [(4, 8), (5, 2), (5, t.val)] [(5, a.val)] [(5, b.val), (4, f.code), (1, 0), (1, b2n w), (1, b2n z)] hall hN (hz_one _ _))
  have e6 : xreg N 7 = b := xreg_eq (seg [(4, 8), (5, 2), (5, t.val), (5, a.val)] [(5, b.val)] [(4, f.code), (1, 0), (1, b2n w), (1, b2n z)] hall hN (hz_one _ _))
  have e7 : bit N 1 = w := bit_eq (seg [(4, 8), (5, 2), (5, t.val), (5, a.val), (5, b.val), (4, f.code), (1, 0)] [(1, b2n w)] [(1, b2n z)] hall hN (hz_one _ _))
  have e8 : bit N 0 = z := bit_eq (seg [(4, 8), (5, 2), (5, t.val), (5, a.val), (5, b.val), (4, f.code), (1, 0), (1, b2n w)] [(1, b2n z)] [] hall hN (hz_one _ _))
  rw [decodeFields, e0]; show decodeMX N = _; rw [decodeMX, e1]; show (if bits N 2 2 == 0 then (ElemTy.ofCode (bits N 6 3)).bind (fun f => some (Instr.mmag (xreg N 17) (xreg N 12) (xreg N 7) f (bit N 1) (bit N 0))) else none) = _
  simp only [e2, e3, e4, e5, e6, e7, e8, ElemTy.ofCode_code, Option.bind_some, beq_self_eq_true, ↓reduceIte]

theorem mzero (t : Tile) : Statement (.mzero t) := by
  have hall : Fits [(4, 8), (5, 3), (5, t.val), (17, 0)] := all_cons (by decide) (all_cons (by decide) (all_cons (t.isLt) (all_cons (by decide) (all_nil))))
  refine of_segs rfl [(4, 8), (5, 3), (5, t.val), (17, 0)] rfl trivial hall (by simp only [pack, hz, List.foldl]; omega) (fun N Q hN => ?_)
  have e0 : bits N 30 27 = 8 := bits_seg [] [(4, 8)] [(5, 3), (5, t.val), (17, 0)] hall hN rfl rfl rfl
  have e1 : bits N 26 22 = 3 := bits_seg [(4, 8)] [(5, 3)] [(5, t.val), (17, 0)] hall hN rfl rfl rfl
  have e2 : bits N 16 0 = 0 := bits_seg [(4, 8), (5, 3), (5, t.val)] [(17, 0)] [] hall hN rfl rfl rfl
  have e3 : xreg N 17 = t := xreg_eq (seg [(4, 8), (5, 3)] [(5, t.val)] [(17, 0)] hall hN (hz_one _ _))
  rw [decodeFields, e0]; show decodeMX N = _; rw [decodeMX, e1]; show (if bits N 16 0 == 0 then some (Instr.mzero (xreg N 17)) else none) = _
  simp only [e2, e3, beq_self_eq_true, ↓reduceIte]

theorem mdrain (t : Tile) (a : XReg) (b : XReg) (f : ElemTy) (q : Bool) (j : Bool) (h : Bool) : Statement (.mdrain t a b f q j h) := by
  have hall : Fits [(4, 8), (5, 4), (5, t.val), (5, a.val), (5, b.val), (4, f.code), (1, b2n q), (1, b2n j), (1, b2n h)] := all_cons (by decide) (all_cons (by decide) (all_cons (t.isLt) (all_cons (a.isLt) (all_cons (b.isLt) (all_cons (ElemTy.code_lt f) (all_cons (b2n_lt q) (all_cons (b2n_lt j) (all_cons (b2n_lt h) (all_nil)))))))))
  refine of_segs rfl [(4, 8), (5, 4), (5, t.val), (5, a.val), (5, b.val), (4, f.code), (1, b2n q), (1, b2n j), (1, b2n h)] rfl trivial hall (by simp only [pack, hz, List.foldl]; omega) (fun N Q hN => ?_)
  have e0 : bits N 30 27 = 8 := bits_seg [] [(4, 8)] [(5, 4), (5, t.val), (5, a.val), (5, b.val), (4, f.code), (1, b2n q), (1, b2n j), (1, b2n h)] hall hN rfl rfl rfl
  have e1 : bits N 26 22 = 4 := bits_seg [(4, 8)] [(5, 4)] [(5, t.val), (5, a.val), (5, b.val), (4, f.code), (1, b2n q), (1, b2n j), (1, b2n h)] hall hN rfl rfl rfl
  have e2 : bits N 6 3 = f.code := bits_seg [(4, 8), (5, 4), (5, t.val), (5, a.val), (5, b.val)] [(4, f.code)] [(1, b2n q), (1, b2n j), (1, b2n h)] hall hN (hz_one _ _) rfl rfl
  have e3 : xreg N 17 = t := xreg_eq (seg [(4, 8), (5, 4)] [(5, t.val)] [(5, a.val), (5, b.val), (4, f.code), (1, b2n q), (1, b2n j), (1, b2n h)] hall hN (hz_one _ _))
  have e4 : xreg N 12 = a := xreg_eq (seg [(4, 8), (5, 4), (5, t.val)] [(5, a.val)] [(5, b.val), (4, f.code), (1, b2n q), (1, b2n j), (1, b2n h)] hall hN (hz_one _ _))
  have e5 : xreg N 7 = b := xreg_eq (seg [(4, 8), (5, 4), (5, t.val), (5, a.val)] [(5, b.val)] [(4, f.code), (1, b2n q), (1, b2n j), (1, b2n h)] hall hN (hz_one _ _))
  have e6 : bit N 2 = q := bit_eq (seg [(4, 8), (5, 4), (5, t.val), (5, a.val), (5, b.val), (4, f.code)] [(1, b2n q)] [(1, b2n j), (1, b2n h)] hall hN (hz_one _ _))
  have e7 : bit N 1 = j := bit_eq (seg [(4, 8), (5, 4), (5, t.val), (5, a.val), (5, b.val), (4, f.code), (1, b2n q)] [(1, b2n j)] [(1, b2n h)] hall hN (hz_one _ _))
  have e8 : bit N 0 = h := bit_eq (seg [(4, 8), (5, 4), (5, t.val), (5, a.val), (5, b.val), (4, f.code), (1, b2n q), (1, b2n j)] [(1, b2n h)] [] hall hN (hz_one _ _))
  rw [decodeFields, e0]; show decodeMX N = _; rw [decodeMX, e1]; show ((ElemTy.ofCode (bits N 6 3)).bind (fun f => some (Instr.mdrain (xreg N 17) (xreg N 12) (xreg N 7) f (bit N 2) (bit N 1) (bit N 0)))) = _
  simp only [e2, e3, e4, e5, e6, e7, e8, ElemTy.ofCode_code, Option.bind_some]

theorem mldc (t : Tile) (a : XReg) (f : ElemTy) : Statement (.mldc t a f) := by
  have hall : Fits [(4, 8), (5, 5), (5, t.val), (5, a.val), (5, 0), (4, f.code), (3, 0)] := all_cons (by decide) (all_cons (by decide) (all_cons (t.isLt) (all_cons (a.isLt) (all_cons (by decide) (all_cons (ElemTy.code_lt f) (all_cons (by decide) (all_nil)))))))
  refine of_segs rfl [(4, 8), (5, 5), (5, t.val), (5, a.val), (5, 0), (4, f.code), (3, 0)] rfl trivial hall (by simp only [pack, hz, List.foldl]; omega) (fun N Q hN => ?_)
  have e0 : bits N 30 27 = 8 := bits_seg [] [(4, 8)] [(5, 5), (5, t.val), (5, a.val), (5, 0), (4, f.code), (3, 0)] hall hN rfl rfl rfl
  have e1 : bits N 26 22 = 5 := bits_seg [(4, 8)] [(5, 5)] [(5, t.val), (5, a.val), (5, 0), (4, f.code), (3, 0)] hall hN rfl rfl rfl
  have e2 : bits N 2 0 = 0 := bits_seg [(4, 8), (5, 5), (5, t.val), (5, a.val), (5, 0), (4, f.code)] [(3, 0)] [] hall hN rfl rfl rfl
  have e3 : bits N 11 7 = 0 := bits_seg [(4, 8), (5, 5), (5, t.val), (5, a.val)] [(5, 0)] [(4, f.code), (3, 0)] hall hN rfl rfl rfl
  have e4 : bits N 6 3 = f.code := bits_seg [(4, 8), (5, 5), (5, t.val), (5, a.val), (5, 0)] [(4, f.code)] [(3, 0)] hall hN (hz_one _ _) rfl rfl
  have e5 : xreg N 17 = t := xreg_eq (seg [(4, 8), (5, 5)] [(5, t.val)] [(5, a.val), (5, 0), (4, f.code), (3, 0)] hall hN (hz_one _ _))
  have e6 : xreg N 12 = a := xreg_eq (seg [(4, 8), (5, 5), (5, t.val)] [(5, a.val)] [(5, 0), (4, f.code), (3, 0)] hall hN (hz_one _ _))
  rw [decodeFields, e0]; show decodeMX N = _; rw [decodeMX, e1]; show (if bits N 2 0 == 0 && bits N 11 7 == 0 then (ElemTy.ofCode (bits N 6 3)).bind (fun f => some (Instr.mldc (xreg N 17) (xreg N 12) f)) else none) = _
  simp only [e2, e3, e4, e5, e6, ElemTy.ofCode_code, Option.bind_some, beq_self_eq_true, ↓reduceIte, Bool.and_self]

theorem mbwr (a : XReg) (b : XReg) (f : ElemTy) (c : Bool) : Statement (.mbwr a b f c) := by
  have hall : Fits [(4, 8), (5, 6), (5, 0), (5, a.val), (5, b.val), (4, f.code), (2, 0), (1, b2n c)] := all_cons (by decide) (all_cons (by decide) (all_cons (by decide) (all_cons (a.isLt) (all_cons (b.isLt) (all_cons (ElemTy.code_lt f) (all_cons (by decide) (all_cons (b2n_lt c) (all_nil))))))))
  refine of_segs rfl [(4, 8), (5, 6), (5, 0), (5, a.val), (5, b.val), (4, f.code), (2, 0), (1, b2n c)] rfl trivial hall (by simp only [pack, hz, List.foldl]; omega) (fun N Q hN => ?_)
  have e0 : bits N 30 27 = 8 := bits_seg [] [(4, 8)] [(5, 6), (5, 0), (5, a.val), (5, b.val), (4, f.code), (2, 0), (1, b2n c)] hall hN rfl rfl rfl
  have e1 : bits N 26 22 = 6 := bits_seg [(4, 8)] [(5, 6)] [(5, 0), (5, a.val), (5, b.val), (4, f.code), (2, 0), (1, b2n c)] hall hN rfl rfl rfl
  have e2 : bits N 2 1 = 0 := bits_seg [(4, 8), (5, 6), (5, 0), (5, a.val), (5, b.val), (4, f.code)] [(2, 0)] [(1, b2n c)] hall hN rfl rfl rfl
  have e3 : bits N 21 17 = 0 := bits_seg [(4, 8), (5, 6)] [(5, 0)] [(5, a.val), (5, b.val), (4, f.code), (2, 0), (1, b2n c)] hall hN rfl rfl rfl
  have e4 : bits N 6 3 = f.code := bits_seg [(4, 8), (5, 6), (5, 0), (5, a.val), (5, b.val)] [(4, f.code)] [(2, 0), (1, b2n c)] hall hN (hz_one _ _) rfl rfl
  have e5 : xreg N 12 = a := xreg_eq (seg [(4, 8), (5, 6), (5, 0)] [(5, a.val)] [(5, b.val), (4, f.code), (2, 0), (1, b2n c)] hall hN (hz_one _ _))
  have e6 : xreg N 7 = b := xreg_eq (seg [(4, 8), (5, 6), (5, 0), (5, a.val)] [(5, b.val)] [(4, f.code), (2, 0), (1, b2n c)] hall hN (hz_one _ _))
  have e7 : bit N 0 = c := bit_eq (seg [(4, 8), (5, 6), (5, 0), (5, a.val), (5, b.val), (4, f.code), (2, 0)] [(1, b2n c)] [] hall hN (hz_one _ _))
  rw [decodeFields, e0]; show decodeMX N = _; rw [decodeMX, e1]; show (if bits N 2 1 == 0 && bits N 21 17 == 0 then (ElemTy.ofCode (bits N 6 3)).bind (fun f => some (Instr.mbwr (xreg N 12) (xreg N 7) f (bit N 0))) else none) = _
  simp only [e2, e3, e4, e5, e6, e7, ElemTy.ofCode_code, Option.bind_some, beq_self_eq_true, ↓reduceIte, Bool.and_self]

theorem mwait (t : Tile) (r : Bool) (l : Bool) : Statement (.mwait t r l) := by
  have hall : Fits [(4, 8), (5, 7), (5, t.val), (15, 0), (1, b2n r), (1, b2n l)] := all_cons (by decide) (all_cons (by decide) (all_cons (t.isLt) (all_cons (by decide) (all_cons (b2n_lt r) (all_cons (b2n_lt l) (all_nil))))))
  refine of_segs rfl [(4, 8), (5, 7), (5, t.val), (15, 0), (1, b2n r), (1, b2n l)] rfl trivial hall (by simp only [pack, hz, List.foldl]; omega) (fun N Q hN => ?_)
  have e0 : bits N 30 27 = 8 := bits_seg [] [(4, 8)] [(5, 7), (5, t.val), (15, 0), (1, b2n r), (1, b2n l)] hall hN rfl rfl rfl
  have e1 : bits N 26 22 = 7 := bits_seg [(4, 8)] [(5, 7)] [(5, t.val), (15, 0), (1, b2n r), (1, b2n l)] hall hN rfl rfl rfl
  have e2 : bits N 16 2 = 0 := bits_seg [(4, 8), (5, 7), (5, t.val)] [(15, 0)] [(1, b2n r), (1, b2n l)] hall hN rfl rfl rfl
  have e3 : xreg N 17 = t := xreg_eq (seg [(4, 8), (5, 7)] [(5, t.val)] [(15, 0), (1, b2n r), (1, b2n l)] hall hN (hz_one _ _))
  have e4 : bit N 1 = r := bit_eq (seg [(4, 8), (5, 7), (5, t.val), (15, 0)] [(1, b2n r)] [(1, b2n l)] hall hN (hz_one _ _))
  have e5 : bit N 0 = l := bit_eq (seg [(4, 8), (5, 7), (5, t.val), (15, 0), (1, b2n r)] [(1, b2n l)] [] hall hN (hz_one _ _))
  rw [decodeFields, e0]; show decodeMX N = _; rw [decodeMX, e1]; show (if bits N 16 2 == 0 then some (Instr.mwait (xreg N 17) (bit N 1) (bit N 0)) else none) = _
  simp only [e2, e3, e4, e5, beq_self_eq_true, ↓reduceIte]

theorem mstat (d : XReg) (e : BitVec 2) : Statement (.mstat d e) := by
  have hall : Fits [(4, 8), (5, 8), (5, 0), (5, d.val), (10, 0), (2, e.toNat)] := all_cons (by decide) (all_cons (by decide) (all_cons (by decide) (all_cons (d.isLt) (all_cons (by decide) (all_cons (e.isLt) (all_nil))))))
  refine of_segs rfl [(4, 8), (5, 8), (5, 0), (5, d.val), (10, 0), (2, e.toNat)] rfl trivial hall (by simp only [pack, hz, List.foldl]; omega) (fun N Q hN => ?_)
  have e0 : bits N 30 27 = 8 := bits_seg [] [(4, 8)] [(5, 8), (5, 0), (5, d.val), (10, 0), (2, e.toNat)] hall hN rfl rfl rfl
  have e1 : bits N 26 22 = 8 := bits_seg [(4, 8)] [(5, 8)] [(5, 0), (5, d.val), (10, 0), (2, e.toNat)] hall hN rfl rfl rfl
  have e2 : bits N 11 2 = 0 := bits_seg [(4, 8), (5, 8), (5, 0), (5, d.val)] [(10, 0)] [(2, e.toNat)] hall hN rfl rfl rfl
  have e3 : bits N 21 17 = 0 := bits_seg [(4, 8), (5, 8)] [(5, 0)] [(5, d.val), (10, 0), (2, e.toNat)] hall hN rfl rfl rfl
  have e4 : xreg N 12 = d := xreg_eq (seg [(4, 8), (5, 8), (5, 0)] [(5, d.val)] [(10, 0), (2, e.toNat)] hall hN (hz_one _ _))
  have e5 : imm N 2 0 = e := imm_eq (seg [(4, 8), (5, 8), (5, 0), (5, d.val), (10, 0)] [(2, e.toNat)] [] hall hN (hz_one _ _))
  rw [decodeFields, e0]; show decodeMX N = _; rw [decodeMX, e1]; show (if bits N 11 2 == 0 && bits N 21 17 == 0 then some (Instr.mstat (xreg N 12) (imm N 2 0)) else none) = _
  simp only [e2, e3, e4, e5, beq_self_eq_true, ↓reduceIte, Bool.and_self]

theorem mpert (t : Tile) (a : XReg) (b : XReg) (q : Bool) : Statement (.mpert t a b q) := by
  have hall : Fits [(4, 8), (5, 9), (5, t.val), (5, a.val), (5, b.val), (6, 0), (1, b2n q)] := all_cons (by decide) (all_cons (by decide) (all_cons (t.isLt) (all_cons (a.isLt) (all_cons (b.isLt) (all_cons (by decide) (all_cons (b2n_lt q) (all_nil)))))))
  refine of_segs rfl [(4, 8), (5, 9), (5, t.val), (5, a.val), (5, b.val), (6, 0), (1, b2n q)] rfl trivial hall (by simp only [pack, hz, List.foldl]; omega) (fun N Q hN => ?_)
  have e0 : bits N 30 27 = 8 := bits_seg [] [(4, 8)] [(5, 9), (5, t.val), (5, a.val), (5, b.val), (6, 0), (1, b2n q)] hall hN rfl rfl rfl
  have e1 : bits N 26 22 = 9 := bits_seg [(4, 8)] [(5, 9)] [(5, t.val), (5, a.val), (5, b.val), (6, 0), (1, b2n q)] hall hN rfl rfl rfl
  have e2 : bits N 6 1 = 0 := bits_seg [(4, 8), (5, 9), (5, t.val), (5, a.val), (5, b.val)] [(6, 0)] [(1, b2n q)] hall hN rfl rfl rfl
  have e3 : xreg N 17 = t := xreg_eq (seg [(4, 8), (5, 9)] [(5, t.val)] [(5, a.val), (5, b.val), (6, 0), (1, b2n q)] hall hN (hz_one _ _))
  have e4 : xreg N 12 = a := xreg_eq (seg [(4, 8), (5, 9), (5, t.val)] [(5, a.val)] [(5, b.val), (6, 0), (1, b2n q)] hall hN (hz_one _ _))
  have e5 : xreg N 7 = b := xreg_eq (seg [(4, 8), (5, 9), (5, t.val), (5, a.val)] [(5, b.val)] [(6, 0), (1, b2n q)] hall hN (hz_one _ _))
  have e6 : bit N 0 = q := bit_eq (seg [(4, 8), (5, 9), (5, t.val), (5, a.val), (5, b.val), (6, 0)] [(1, b2n q)] [] hall hN (hz_one _ _))
  rw [decodeFields, e0]; show decodeMX N = _; rw [decodeMX, e1]; show (if bits N 6 1 == 0 then some (Instr.mpert (xreg N 17) (xreg N 12) (xreg N 7) (bit N 0)) else none) = _
  simp only [e2, e3, e4, e5, e6, beq_self_eq_true, ↓reduceIte]

theorem erw (a : XReg) (b : XReg) (n : BitVec 5) : Statement (.erw a b n) := by
  have hall : Fits [(4, 9), (5, 0), (5, 0), (5, a.val), (5, b.val), (2, 0), (5, n.toNat)] := all_cons (by decide) (all_cons (by decide) (all_cons (by decide) (all_cons (a.isLt) (all_cons (b.isLt) (all_cons (by decide) (all_cons (n.isLt) (all_nil)))))))
  refine of_segs rfl [(4, 9), (5, 0), (5, 0), (5, a.val), (5, b.val), (2, 0), (5, n.toNat)] rfl trivial hall (by simp only [pack, hz, List.foldl]; omega) (fun N Q hN => ?_)
  have e0 : bits N 30 27 = 9 := bits_seg [] [(4, 9)] [(5, 0), (5, 0), (5, a.val), (5, b.val), (2, 0), (5, n.toNat)] hall hN rfl rfl rfl
  have e1 : bits N 26 22 = 0 := bits_seg [(4, 9)] [(5, 0)] [(5, 0), (5, a.val), (5, b.val), (2, 0), (5, n.toNat)] hall hN rfl rfl rfl
  have e2 : bits N 6 5 = 0 := bits_seg [(4, 9), (5, 0), (5, 0), (5, a.val), (5, b.val)] [(2, 0)] [(5, n.toNat)] hall hN rfl rfl rfl
  have e3 : bits N 21 17 = 0 := bits_seg [(4, 9), (5, 0)] [(5, 0)] [(5, a.val), (5, b.val), (2, 0), (5, n.toNat)] hall hN rfl rfl rfl
  have e4 : xreg N 12 = a := xreg_eq (seg [(4, 9), (5, 0), (5, 0)] [(5, a.val)] [(5, b.val), (2, 0), (5, n.toNat)] hall hN (hz_one _ _))
  have e5 : xreg N 7 = b := xreg_eq (seg [(4, 9), (5, 0), (5, 0), (5, a.val)] [(5, b.val)] [(2, 0), (5, n.toNat)] hall hN (hz_one _ _))
  have e6 : imm N 5 0 = n := imm_eq (seg [(4, 9), (5, 0), (5, 0), (5, a.val), (5, b.val), (2, 0)] [(5, n.toNat)] [] hall hN (hz_one _ _))
  rw [decodeFields, e0]; show decodeAS N = _; rw [decodeAS, e1]; show (if bits N 6 5 == 0 && bits N 21 17 == 0 then some (Instr.erw (xreg N 12) (xreg N 7) (imm N 5 0)) else none) = _
  simp only [e2, e3, e4, e5, e6, beq_self_eq_true, ↓reduceIte, Bool.and_self]

theorem err (d : XReg) (a : XReg) (n : BitVec 6) : Statement (.err d a n) := by
  have hall : Fits [(4, 9), (5, 1), (5, d.val), (5, a.val), (6, 0), (6, n.toNat)] := all_cons (by decide) (all_cons (by decide) (all_cons (d.isLt) (all_cons (a.isLt) (all_cons (by decide) (all_cons (n.isLt) (all_nil))))))
  refine of_segs rfl [(4, 9), (5, 1), (5, d.val), (5, a.val), (6, 0), (6, n.toNat)] rfl trivial hall (by simp only [pack, hz, List.foldl]; omega) (fun N Q hN => ?_)
  have e0 : bits N 30 27 = 9 := bits_seg [] [(4, 9)] [(5, 1), (5, d.val), (5, a.val), (6, 0), (6, n.toNat)] hall hN rfl rfl rfl
  have e1 : bits N 26 22 = 1 := bits_seg [(4, 9)] [(5, 1)] [(5, d.val), (5, a.val), (6, 0), (6, n.toNat)] hall hN rfl rfl rfl
  have e2 : bits N 11 6 = 0 := bits_seg [(4, 9), (5, 1), (5, d.val), (5, a.val)] [(6, 0)] [(6, n.toNat)] hall hN rfl rfl rfl
  have e3 : xreg N 17 = d := xreg_eq (seg [(4, 9), (5, 1)] [(5, d.val)] [(5, a.val), (6, 0), (6, n.toNat)] hall hN (hz_one _ _))
  have e4 : xreg N 12 = a := xreg_eq (seg [(4, 9), (5, 1), (5, d.val)] [(5, a.val)] [(6, 0), (6, n.toNat)] hall hN (hz_one _ _))
  have e5 : imm N 6 0 = n := imm_eq (seg [(4, 9), (5, 1), (5, d.val), (5, a.val), (6, 0)] [(6, n.toNat)] [] hall hN (hz_one _ _))
  rw [decodeFields, e0]; show decodeAS N = _; rw [decodeAS, e1]; show (if bits N 11 6 == 0 then some (Instr.err (xreg N 17) (xreg N 12) (imm N 6 0)) else none) = _
  simp only [e2, e3, e4, e5, beq_self_eq_true, ↓reduceIte]

theorem eswap (a : XReg) : Statement (.eswap a) := by
  have hall : Fits [(4, 9), (5, 2), (5, 0), (5, a.val), (12, 0)] := all_cons (by decide) (all_cons (by decide) (all_cons (by decide) (all_cons (a.isLt) (all_cons (by decide) (all_nil)))))
  refine of_segs rfl [(4, 9), (5, 2), (5, 0), (5, a.val), (12, 0)] rfl trivial hall (by simp only [pack, hz, List.foldl]; omega) (fun N Q hN => ?_)
  have e0 : bits N 30 27 = 9 := bits_seg [] [(4, 9)] [(5, 2), (5, 0), (5, a.val), (12, 0)] hall hN rfl rfl rfl
  have e1 : bits N 26 22 = 2 := bits_seg [(4, 9)] [(5, 2)] [(5, 0), (5, a.val), (12, 0)] hall hN rfl rfl rfl
  have e2 : bits N 11 0 = 0 := bits_seg [(4, 9), (5, 2), (5, 0), (5, a.val)] [(12, 0)] [] hall hN rfl rfl rfl
  have e3 : bits N 21 17 = 0 := bits_seg [(4, 9), (5, 2)] [(5, 0)] [(5, a.val), (12, 0)] hall hN rfl rfl rfl
  have e4 : xreg N 12 = a := xreg_eq (seg [(4, 9), (5, 2), (5, 0)] [(5, a.val)] [(12, 0)] hall hN (hz_one _ _))
  rw [decodeFields, e0]; show decodeAS N = _; rw [decodeAS, e1]; show (if bits N 11 0 == 0 && bits N 21 17 == 0 then some (Instr.eswap (xreg N 12)) else none) = _
  simp only [e2, e3, e4, beq_self_eq_true, ↓reduceIte, Bool.and_self]

theorem binit (a : XReg) (b : XReg) (f : Bool) (p : Bool) : Statement (.binit a b f p) := by
  have hall : Fits [(4, 9), (5, 3), (5, 0), (5, a.val), (5, b.val), (5, 0), (1, b2n f), (1, b2n p)] := all_cons (by decide) (all_cons (by decide) (all_cons (by decide) (all_cons (a.isLt) (all_cons (b.isLt) (all_cons (by decide) (all_cons (b2n_lt f) (all_cons (b2n_lt p) (all_nil))))))))
  refine of_segs rfl [(4, 9), (5, 3), (5, 0), (5, a.val), (5, b.val), (5, 0), (1, b2n f), (1, b2n p)] rfl trivial hall (by simp only [pack, hz, List.foldl]; omega) (fun N Q hN => ?_)
  have e0 : bits N 30 27 = 9 := bits_seg [] [(4, 9)] [(5, 3), (5, 0), (5, a.val), (5, b.val), (5, 0), (1, b2n f), (1, b2n p)] hall hN rfl rfl rfl
  have e1 : bits N 26 22 = 3 := bits_seg [(4, 9)] [(5, 3)] [(5, 0), (5, a.val), (5, b.val), (5, 0), (1, b2n f), (1, b2n p)] hall hN rfl rfl rfl
  have e2 : bits N 6 2 = 0 := bits_seg [(4, 9), (5, 3), (5, 0), (5, a.val), (5, b.val)] [(5, 0)] [(1, b2n f), (1, b2n p)] hall hN rfl rfl rfl
  have e3 : bits N 21 17 = 0 := bits_seg [(4, 9), (5, 3)] [(5, 0)] [(5, a.val), (5, b.val), (5, 0), (1, b2n f), (1, b2n p)] hall hN rfl rfl rfl
  have e4 : xreg N 12 = a := xreg_eq (seg [(4, 9), (5, 3), (5, 0)] [(5, a.val)] [(5, b.val), (5, 0), (1, b2n f), (1, b2n p)] hall hN (hz_one _ _))
  have e5 : xreg N 7 = b := xreg_eq (seg [(4, 9), (5, 3), (5, 0), (5, a.val)] [(5, b.val)] [(5, 0), (1, b2n f), (1, b2n p)] hall hN (hz_one _ _))
  have e6 : bit N 1 = f := bit_eq (seg [(4, 9), (5, 3), (5, 0), (5, a.val), (5, b.val), (5, 0)] [(1, b2n f)] [(1, b2n p)] hall hN (hz_one _ _))
  have e7 : bit N 0 = p := bit_eq (seg [(4, 9), (5, 3), (5, 0), (5, a.val), (5, b.val), (5, 0), (1, b2n f)] [(1, b2n p)] [] hall hN (hz_one _ _))
  rw [decodeFields, e0]; show decodeAS N = _; rw [decodeAS, e1]; show (if bits N 6 2 == 0 && bits N 21 17 == 0 then some (Instr.binit (xreg N 12) (xreg N 7) (bit N 1) (bit N 0)) else none) = _
  simp only [e2, e3, e4, e5, e6, e7, beq_self_eq_true, ↓reduceIte, Bool.and_self]

theorem barv (d : XReg) (a : XReg) (b : XReg) (p : Bool) : Statement (.barv d a b p) := by
  have hall : Fits [(4, 9), (5, 4), (5, d.val), (5, a.val), (5, b.val), (6, 0), (1, b2n p)] := all_cons (by decide) (all_cons (by decide) (all_cons (d.isLt) (all_cons (a.isLt) (all_cons (b.isLt) (all_cons (by decide) (all_cons (b2n_lt p) (all_nil)))))))
  refine of_segs rfl [(4, 9), (5, 4), (5, d.val), (5, a.val), (5, b.val), (6, 0), (1, b2n p)] rfl trivial hall (by simp only [pack, hz, List.foldl]; omega) (fun N Q hN => ?_)
  have e0 : bits N 30 27 = 9 := bits_seg [] [(4, 9)] [(5, 4), (5, d.val), (5, a.val), (5, b.val), (6, 0), (1, b2n p)] hall hN rfl rfl rfl
  have e1 : bits N 26 22 = 4 := bits_seg [(4, 9)] [(5, 4)] [(5, d.val), (5, a.val), (5, b.val), (6, 0), (1, b2n p)] hall hN rfl rfl rfl
  have e2 : bits N 6 1 = 0 := bits_seg [(4, 9), (5, 4), (5, d.val), (5, a.val), (5, b.val)] [(6, 0)] [(1, b2n p)] hall hN rfl rfl rfl
  have e3 : xreg N 17 = d := xreg_eq (seg [(4, 9), (5, 4)] [(5, d.val)] [(5, a.val), (5, b.val), (6, 0), (1, b2n p)] hall hN (hz_one _ _))
  have e4 : xreg N 12 = a := xreg_eq (seg [(4, 9), (5, 4), (5, d.val)] [(5, a.val)] [(5, b.val), (6, 0), (1, b2n p)] hall hN (hz_one _ _))
  have e5 : xreg N 7 = b := xreg_eq (seg [(4, 9), (5, 4), (5, d.val), (5, a.val)] [(5, b.val)] [(6, 0), (1, b2n p)] hall hN (hz_one _ _))
  have e6 : bit N 0 = p := bit_eq (seg [(4, 9), (5, 4), (5, d.val), (5, a.val), (5, b.val), (6, 0)] [(1, b2n p)] [] hall hN (hz_one _ _))
  rw [decodeFields, e0]; show decodeAS N = _; rw [decodeAS, e1]; show (if bits N 6 1 == 0 then some (Instr.barv (xreg N 17) (xreg N 12) (xreg N 7) (bit N 0)) else none) = _
  simp only [e2, e3, e4, e5, e6, beq_self_eq_true, ↓reduceIte]

theorem bwait (a : XReg) (b : XReg) (p : Bool) : Statement (.bwait a b p) := by
  have hall : Fits [(4, 9), (5, 5), (5, 0), (5, a.val), (5, b.val), (6, 0), (1, b2n p)] := all_cons (by decide) (all_cons (by decide) (all_cons (by decide) (all_cons (a.isLt) (all_cons (b.isLt) (all_cons (by decide) (all_cons (b2n_lt p) (all_nil)))))))
  refine of_segs rfl [(4, 9), (5, 5), (5, 0), (5, a.val), (5, b.val), (6, 0), (1, b2n p)] rfl trivial hall (by simp only [pack, hz, List.foldl]; omega) (fun N Q hN => ?_)
  have e0 : bits N 30 27 = 9 := bits_seg [] [(4, 9)] [(5, 5), (5, 0), (5, a.val), (5, b.val), (6, 0), (1, b2n p)] hall hN rfl rfl rfl
  have e1 : bits N 26 22 = 5 := bits_seg [(4, 9)] [(5, 5)] [(5, 0), (5, a.val), (5, b.val), (6, 0), (1, b2n p)] hall hN rfl rfl rfl
  have e2 : bits N 6 1 = 0 := bits_seg [(4, 9), (5, 5), (5, 0), (5, a.val), (5, b.val)] [(6, 0)] [(1, b2n p)] hall hN rfl rfl rfl
  have e3 : bits N 21 17 = 0 := bits_seg [(4, 9), (5, 5)] [(5, 0)] [(5, a.val), (5, b.val), (6, 0), (1, b2n p)] hall hN rfl rfl rfl
  have e4 : xreg N 12 = a := xreg_eq (seg [(4, 9), (5, 5), (5, 0)] [(5, a.val)] [(5, b.val), (6, 0), (1, b2n p)] hall hN (hz_one _ _))
  have e5 : xreg N 7 = b := xreg_eq (seg [(4, 9), (5, 5), (5, 0), (5, a.val)] [(5, b.val)] [(6, 0), (1, b2n p)] hall hN (hz_one _ _))
  have e6 : bit N 0 = p := bit_eq (seg [(4, 9), (5, 5), (5, 0), (5, a.val), (5, b.val), (6, 0)] [(1, b2n p)] [] hall hN (hz_one _ _))
  rw [decodeFields, e0]; show decodeAS N = _; rw [decodeAS, e1]; show (if bits N 6 1 == 0 && bits N 21 17 == 0 then some (Instr.bwait (xreg N 12) (xreg N 7) (bit N 0)) else none) = _
  simp only [e2, e3, e4, e5, e6, beq_self_eq_true, ↓reduceIte, Bool.and_self]

theorem btest (d : XReg) (a : XReg) (b : XReg) (p : Bool) : Statement (.btest d a b p) := by
  have hall : Fits [(4, 9), (5, 6), (5, d.val), (5, a.val), (5, b.val), (6, 0), (1, b2n p)] := all_cons (by decide) (all_cons (by decide) (all_cons (d.isLt) (all_cons (a.isLt) (all_cons (b.isLt) (all_cons (by decide) (all_cons (b2n_lt p) (all_nil)))))))
  refine of_segs rfl [(4, 9), (5, 6), (5, d.val), (5, a.val), (5, b.val), (6, 0), (1, b2n p)] rfl trivial hall (by simp only [pack, hz, List.foldl]; omega) (fun N Q hN => ?_)
  have e0 : bits N 30 27 = 9 := bits_seg [] [(4, 9)] [(5, 6), (5, d.val), (5, a.val), (5, b.val), (6, 0), (1, b2n p)] hall hN rfl rfl rfl
  have e1 : bits N 26 22 = 6 := bits_seg [(4, 9)] [(5, 6)] [(5, d.val), (5, a.val), (5, b.val), (6, 0), (1, b2n p)] hall hN rfl rfl rfl
  have e2 : bits N 6 1 = 0 := bits_seg [(4, 9), (5, 6), (5, d.val), (5, a.val), (5, b.val)] [(6, 0)] [(1, b2n p)] hall hN rfl rfl rfl
  have e3 : xreg N 17 = d := xreg_eq (seg [(4, 9), (5, 6)] [(5, d.val)] [(5, a.val), (5, b.val), (6, 0), (1, b2n p)] hall hN (hz_one _ _))
  have e4 : xreg N 12 = a := xreg_eq (seg [(4, 9), (5, 6), (5, d.val)] [(5, a.val)] [(5, b.val), (6, 0), (1, b2n p)] hall hN (hz_one _ _))
  have e5 : xreg N 7 = b := xreg_eq (seg [(4, 9), (5, 6), (5, d.val), (5, a.val)] [(5, b.val)] [(6, 0), (1, b2n p)] hall hN (hz_one _ _))
  have e6 : bit N 0 = p := bit_eq (seg [(4, 9), (5, 6), (5, d.val), (5, a.val), (5, b.val), (6, 0)] [(1, b2n p)] [] hall hN (hz_one _ _))
  rw [decodeFields, e0]; show decodeAS N = _; rw [decodeAS, e1]; show (if bits N 6 1 == 0 then some (Instr.btest (xreg N 17) (xreg N 12) (xreg N 7) (bit N 0)) else none) = _
  simp only [e2, e3, e4, e5, e6, beq_self_eq_true, ↓reduceIte]

theorem badd (a : XReg) (b : XReg) (p : Bool) : Statement (.badd a b p) := by
  have hall : Fits [(4, 9), (5, 7), (5, 0), (5, a.val), (5, b.val), (6, 0), (1, b2n p)] := all_cons (by decide) (all_cons (by decide) (all_cons (by decide) (all_cons (a.isLt) (all_cons (b.isLt) (all_cons (by decide) (all_cons (b2n_lt p) (all_nil)))))))
  refine of_segs rfl [(4, 9), (5, 7), (5, 0), (5, a.val), (5, b.val), (6, 0), (1, b2n p)] rfl trivial hall (by simp only [pack, hz, List.foldl]; omega) (fun N Q hN => ?_)
  have e0 : bits N 30 27 = 9 := bits_seg [] [(4, 9)] [(5, 7), (5, 0), (5, a.val), (5, b.val), (6, 0), (1, b2n p)] hall hN rfl rfl rfl
  have e1 : bits N 26 22 = 7 := bits_seg [(4, 9)] [(5, 7)] [(5, 0), (5, a.val), (5, b.val), (6, 0), (1, b2n p)] hall hN rfl rfl rfl
  have e2 : bits N 6 1 = 0 := bits_seg [(4, 9), (5, 7), (5, 0), (5, a.val), (5, b.val)] [(6, 0)] [(1, b2n p)] hall hN rfl rfl rfl
  have e3 : bits N 21 17 = 0 := bits_seg [(4, 9), (5, 7)] [(5, 0)] [(5, a.val), (5, b.val), (6, 0), (1, b2n p)] hall hN rfl rfl rfl
  have e4 : xreg N 12 = a := xreg_eq (seg [(4, 9), (5, 7), (5, 0)] [(5, a.val)] [(5, b.val), (6, 0), (1, b2n p)] hall hN (hz_one _ _))
  have e5 : xreg N 7 = b := xreg_eq (seg [(4, 9), (5, 7), (5, 0), (5, a.val)] [(5, b.val)] [(6, 0), (1, b2n p)] hall hN (hz_one _ _))
  have e6 : bit N 0 = p := bit_eq (seg [(4, 9), (5, 7), (5, 0), (5, a.val), (5, b.val), (6, 0)] [(1, b2n p)] [] hall hN (hz_one _ _))
  rw [decodeFields, e0]; show decodeAS N = _; rw [decodeAS, e1]; show (if bits N 6 1 == 0 && bits N 21 17 == 0 then some (Instr.badd (xreg N 12) (xreg N 7) (bit N 0)) else none) = _
  simp only [e2, e3, e4, e5, e6, beq_self_eq_true, ↓reduceIte, Bool.and_self]

theorem wadv (d : XReg) (a : XReg) (b : XReg) : Statement (.wadv d a b) := by
  have hall : Fits [(4, 9), (5, 8), (5, d.val), (5, a.val), (5, b.val), (7, 0)] := all_cons (by decide) (all_cons (by decide) (all_cons (d.isLt) (all_cons (a.isLt) (all_cons (b.isLt) (all_cons (by decide) (all_nil))))))
  refine of_segs rfl [(4, 9), (5, 8), (5, d.val), (5, a.val), (5, b.val), (7, 0)] rfl trivial hall (by simp only [pack, hz, List.foldl]; omega) (fun N Q hN => ?_)
  have e0 : bits N 30 27 = 9 := bits_seg [] [(4, 9)] [(5, 8), (5, d.val), (5, a.val), (5, b.val), (7, 0)] hall hN rfl rfl rfl
  have e1 : bits N 26 22 = 8 := bits_seg [(4, 9)] [(5, 8)] [(5, d.val), (5, a.val), (5, b.val), (7, 0)] hall hN rfl rfl rfl
  have e2 : bits N 6 0 = 0 := bits_seg [(4, 9), (5, 8), (5, d.val), (5, a.val), (5, b.val)] [(7, 0)] [] hall hN rfl rfl rfl
  have e3 : xreg N 17 = d := xreg_eq (seg [(4, 9), (5, 8)] [(5, d.val)] [(5, a.val), (5, b.val), (7, 0)] hall hN (hz_one _ _))
  have e4 : xreg N 12 = a := xreg_eq (seg [(4, 9), (5, 8), (5, d.val)] [(5, a.val)] [(5, b.val), (7, 0)] hall hN (hz_one _ _))
  have e5 : xreg N 7 = b := xreg_eq (seg [(4, 9), (5, 8), (5, d.val), (5, a.val)] [(5, b.val)] [(7, 0)] hall hN (hz_one _ _))
  rw [decodeFields, e0]; show decodeAS N = _; rw [decodeAS, e1]; show (if bits N 6 0 == 0 then some (Instr.wadv (xreg N 17) (xreg N 12) (xreg N 7)) else none) = _
  simp only [e2, e3, e4, e5, beq_self_eq_true, ↓reduceIte]

theorem wpos (d : XReg) (a : XReg) : Statement (.wpos d a) := by
  have hall : Fits [(4, 9), (5, 9), (5, d.val), (5, a.val), (12, 0)] := all_cons (by decide) (all_cons (by decide) (all_cons (d.isLt) (all_cons (a.isLt) (all_cons (by decide) (all_nil)))))
  refine of_segs rfl [(4, 9), (5, 9), (5, d.val), (5, a.val), (12, 0)] rfl trivial hall (by simp only [pack, hz, List.foldl]; omega) (fun N Q hN => ?_)
  have e0 : bits N 30 27 = 9 := bits_seg [] [(4, 9)] [(5, 9), (5, d.val), (5, a.val), (12, 0)] hall hN rfl rfl rfl
  have e1 : bits N 26 22 = 9 := bits_seg [(4, 9)] [(5, 9)] [(5, d.val), (5, a.val), (12, 0)] hall hN rfl rfl rfl
  have e2 : bits N 11 0 = 0 := bits_seg [(4, 9), (5, 9), (5, d.val), (5, a.val)] [(12, 0)] [] hall hN rfl rfl rfl
  have e3 : xreg N 17 = d := xreg_eq (seg [(4, 9), (5, 9)] [(5, d.val)] [(5, a.val), (12, 0)] hall hN (hz_one _ _))
  have e4 : xreg N 12 = a := xreg_eq (seg [(4, 9), (5, 9), (5, d.val)] [(5, a.val)] [(12, 0)] hall hN (hz_one _ _))
  rw [decodeFields, e0]; show decodeAS N = _; rw [decodeAS, e1]; show (if bits N 11 0 == 0 then some (Instr.wpos (xreg N 17) (xreg N 12)) else none) = _
  simp only [e2, e3, e4, beq_self_eq_true, ↓reduceIte]

theorem owne (a : XReg) (b : XReg) (v : Bool) (p : Bool) : Statement (.owne a b v p) := by
  have hall : Fits [(4, 9), (5, 10), (5, 0), (5, a.val), (5, b.val), (5, 0), (1, b2n v), (1, b2n p)] := all_cons (by decide) (all_cons (by decide) (all_cons (by decide) (all_cons (a.isLt) (all_cons (b.isLt) (all_cons (by decide) (all_cons (b2n_lt v) (all_cons (b2n_lt p) (all_nil))))))))
  refine of_segs rfl [(4, 9), (5, 10), (5, 0), (5, a.val), (5, b.val), (5, 0), (1, b2n v), (1, b2n p)] rfl trivial hall (by simp only [pack, hz, List.foldl]; omega) (fun N Q hN => ?_)
  have e0 : bits N 30 27 = 9 := bits_seg [] [(4, 9)] [(5, 10), (5, 0), (5, a.val), (5, b.val), (5, 0), (1, b2n v), (1, b2n p)] hall hN rfl rfl rfl
  have e1 : bits N 26 22 = 10 := bits_seg [(4, 9)] [(5, 10)] [(5, 0), (5, a.val), (5, b.val), (5, 0), (1, b2n v), (1, b2n p)] hall hN rfl rfl rfl
  have e2 : bits N 6 2 = 0 := bits_seg [(4, 9), (5, 10), (5, 0), (5, a.val), (5, b.val)] [(5, 0)] [(1, b2n v), (1, b2n p)] hall hN rfl rfl rfl
  have e3 : bits N 21 17 = 0 := bits_seg [(4, 9), (5, 10)] [(5, 0)] [(5, a.val), (5, b.val), (5, 0), (1, b2n v), (1, b2n p)] hall hN rfl rfl rfl
  have e4 : xreg N 12 = a := xreg_eq (seg [(4, 9), (5, 10), (5, 0)] [(5, a.val)] [(5, b.val), (5, 0), (1, b2n v), (1, b2n p)] hall hN (hz_one _ _))
  have e5 : xreg N 7 = b := xreg_eq (seg [(4, 9), (5, 10), (5, 0), (5, a.val)] [(5, b.val)] [(5, 0), (1, b2n v), (1, b2n p)] hall hN (hz_one _ _))
  have e6 : bit N 1 = v := bit_eq (seg [(4, 9), (5, 10), (5, 0), (5, a.val), (5, b.val), (5, 0)] [(1, b2n v)] [(1, b2n p)] hall hN (hz_one _ _))
  have e7 : bit N 0 = p := bit_eq (seg [(4, 9), (5, 10), (5, 0), (5, a.val), (5, b.val), (5, 0), (1, b2n v)] [(1, b2n p)] [] hall hN (hz_one _ _))
  rw [decodeFields, e0]; show decodeAS N = _; rw [decodeAS, e1]; show (if bits N 6 2 == 0 && bits N 21 17 == 0 then some (Instr.owne (xreg N 12) (xreg N 7) (bit N 1) (bit N 0)) else none) = _
  simp only [e2, e3, e4, e5, e6, e7, beq_self_eq_true, ↓reduceIte, Bool.and_self]

theorem ownc (a : XReg) (b : XReg) (v : Bool) (p : Bool) : Statement (.ownc a b v p) := by
  have hall : Fits [(4, 9), (5, 11), (5, 0), (5, a.val), (5, b.val), (5, 0), (1, b2n v), (1, b2n p)] := all_cons (by decide) (all_cons (by decide) (all_cons (by decide) (all_cons (a.isLt) (all_cons (b.isLt) (all_cons (by decide) (all_cons (b2n_lt v) (all_cons (b2n_lt p) (all_nil))))))))
  refine of_segs rfl [(4, 9), (5, 11), (5, 0), (5, a.val), (5, b.val), (5, 0), (1, b2n v), (1, b2n p)] rfl trivial hall (by simp only [pack, hz, List.foldl]; omega) (fun N Q hN => ?_)
  have e0 : bits N 30 27 = 9 := bits_seg [] [(4, 9)] [(5, 11), (5, 0), (5, a.val), (5, b.val), (5, 0), (1, b2n v), (1, b2n p)] hall hN rfl rfl rfl
  have e1 : bits N 26 22 = 11 := bits_seg [(4, 9)] [(5, 11)] [(5, 0), (5, a.val), (5, b.val), (5, 0), (1, b2n v), (1, b2n p)] hall hN rfl rfl rfl
  have e2 : bits N 6 2 = 0 := bits_seg [(4, 9), (5, 11), (5, 0), (5, a.val), (5, b.val)] [(5, 0)] [(1, b2n v), (1, b2n p)] hall hN rfl rfl rfl
  have e3 : bits N 21 17 = 0 := bits_seg [(4, 9), (5, 11)] [(5, 0)] [(5, a.val), (5, b.val), (5, 0), (1, b2n v), (1, b2n p)] hall hN rfl rfl rfl
  have e4 : xreg N 12 = a := xreg_eq (seg [(4, 9), (5, 11), (5, 0)] [(5, a.val)] [(5, b.val), (5, 0), (1, b2n v), (1, b2n p)] hall hN (hz_one _ _))
  have e5 : xreg N 7 = b := xreg_eq (seg [(4, 9), (5, 11), (5, 0), (5, a.val)] [(5, b.val)] [(5, 0), (1, b2n v), (1, b2n p)] hall hN (hz_one _ _))
  have e6 : bit N 1 = v := bit_eq (seg [(4, 9), (5, 11), (5, 0), (5, a.val), (5, b.val), (5, 0)] [(1, b2n v)] [(1, b2n p)] hall hN (hz_one _ _))
  have e7 : bit N 0 = p := bit_eq (seg [(4, 9), (5, 11), (5, 0), (5, a.val), (5, b.val), (5, 0), (1, b2n v)] [(1, b2n p)] [] hall hN (hz_one _ _))
  rw [decodeFields, e0]; show decodeAS N = _; rw [decodeAS, e1]; show (if bits N 6 2 == 0 && bits N 21 17 == 0 then some (Instr.ownc (xreg N 12) (xreg N 7) (bit N 1) (bit N 0)) else none) = _
  simp only [e2, e3, e4, e5, e6, e7, beq_self_eq_true, ↓reduceIte, Bool.and_self]

theorem rcnt (d : XReg) (a : XReg) (b : XReg) : Statement (.rcnt d a b) := by
  have hall : Fits [(4, 9), (5, 12), (5, d.val), (5, a.val), (5, b.val), (7, 0)] := all_cons (by decide) (all_cons (by decide) (all_cons (d.isLt) (all_cons (a.isLt) (all_cons (b.isLt) (all_cons (by decide) (all_nil))))))
  refine of_segs rfl [(4, 9), (5, 12), (5, d.val), (5, a.val), (5, b.val), (7, 0)] rfl trivial hall (by simp only [pack, hz, List.foldl]; omega) (fun N Q hN => ?_)
  have e0 : bits N 30 27 = 9 := bits_seg [] [(4, 9)] [(5, 12), (5, d.val), (5, a.val), (5, b.val), (7, 0)] hall hN rfl rfl rfl
  have e1 : bits N 26 22 = 12 := bits_seg [(4, 9)] [(5, 12)] [(5, d.val), (5, a.val), (5, b.val), (7, 0)] hall hN rfl rfl rfl
  have e2 : bits N 6 0 = 0 := bits_seg [(4, 9), (5, 12), (5, d.val), (5, a.val), (5, b.val)] [(7, 0)] [] hall hN rfl rfl rfl
  have e3 : xreg N 17 = d := xreg_eq (seg [(4, 9), (5, 12)] [(5, d.val)] [(5, a.val), (5, b.val), (7, 0)] hall hN (hz_one _ _))
  have e4 : xreg N 12 = a := xreg_eq (seg [(4, 9), (5, 12), (5, d.val)] [(5, a.val)] [(5, b.val), (7, 0)] hall hN (hz_one _ _))
  have e5 : xreg N 7 = b := xreg_eq (seg [(4, 9), (5, 12), (5, d.val), (5, a.val)] [(5, b.val)] [(7, 0)] hall hN (hz_one _ _))
  rw [decodeFields, e0]; show decodeAS N = _; rw [decodeAS, e1]; show (if bits N 6 0 == 0 then some (Instr.rcnt (xreg N 17) (xreg N 12) (xreg N 7)) else none) = _
  simp only [e2, e3, e4, e5, beq_self_eq_true, ↓reduceIte]

theorem rowcpy (c : XReg) (a : XReg) (b : XReg) : Statement (.rowcpy c a b) := by
  have hall : Fits [(4, 9), (5, 13), (5, c.val), (5, a.val), (5, b.val), (7, 0)] := all_cons (by decide) (all_cons (by decide) (all_cons (c.isLt) (all_cons (a.isLt) (all_cons (b.isLt) (all_cons (by decide) (all_nil))))))
  refine of_segs rfl [(4, 9), (5, 13), (5, c.val), (5, a.val), (5, b.val), (7, 0)] rfl trivial hall (by simp only [pack, hz, List.foldl]; omega) (fun N Q hN => ?_)
  have e0 : bits N 30 27 = 9 := bits_seg [] [(4, 9)] [(5, 13), (5, c.val), (5, a.val), (5, b.val), (7, 0)] hall hN rfl rfl rfl
  have e1 : bits N 26 22 = 13 := bits_seg [(4, 9)] [(5, 13)] [(5, c.val), (5, a.val), (5, b.val), (7, 0)] hall hN rfl rfl rfl
  have e2 : bits N 6 0 = 0 := bits_seg [(4, 9), (5, 13), (5, c.val), (5, a.val), (5, b.val)] [(7, 0)] [] hall hN rfl rfl rfl
  have e3 : xreg N 17 = c := xreg_eq (seg [(4, 9), (5, 13)] [(5, c.val)] [(5, a.val), (5, b.val), (7, 0)] hall hN (hz_one _ _))
  have e4 : xreg N 12 = a := xreg_eq (seg [(4, 9), (5, 13), (5, c.val)] [(5, a.val)] [(5, b.val), (7, 0)] hall hN (hz_one _ _))
  have e5 : xreg N 7 = b := xreg_eq (seg [(4, 9), (5, 13), (5, c.val), (5, a.val)] [(5, b.val)] [(7, 0)] hall hN (hz_one _ _))
  rw [decodeFields, e0]; show decodeAS N = _; rw [decodeAS, e1]; show (if bits N 6 0 == 0 then some (Instr.rowcpy (xreg N 17) (xreg N 12) (xreg N 7)) else none) = _
  simp only [e2, e3, e4, e5, beq_self_eq_true, ↓reduceIte]

theorem rowfil (c : XReg) (a : XReg) (b : XReg) : Statement (.rowfil c a b) := by
  have hall : Fits [(4, 9), (5, 14), (5, c.val), (5, a.val), (5, b.val), (7, 0)] := all_cons (by decide) (all_cons (by decide) (all_cons (c.isLt) (all_cons (a.isLt) (all_cons (b.isLt) (all_cons (by decide) (all_nil))))))
  refine of_segs rfl [(4, 9), (5, 14), (5, c.val), (5, a.val), (5, b.val), (7, 0)] rfl trivial hall (by simp only [pack, hz, List.foldl]; omega) (fun N Q hN => ?_)
  have e0 : bits N 30 27 = 9 := bits_seg [] [(4, 9)] [(5, 14), (5, c.val), (5, a.val), (5, b.val), (7, 0)] hall hN rfl rfl rfl
  have e1 : bits N 26 22 = 14 := bits_seg [(4, 9)] [(5, 14)] [(5, c.val), (5, a.val), (5, b.val), (7, 0)] hall hN rfl rfl rfl
  have e2 : bits N 6 0 = 0 := bits_seg [(4, 9), (5, 14), (5, c.val), (5, a.val), (5, b.val)] [(7, 0)] [] hall hN rfl rfl rfl
  have e3 : xreg N 17 = c := xreg_eq (seg [(4, 9), (5, 14)] [(5, c.val)] [(5, a.val), (5, b.val), (7, 0)] hall hN (hz_one _ _))
  have e4 : xreg N 12 = a := xreg_eq (seg [(4, 9), (5, 14), (5, c.val)] [(5, a.val)] [(5, b.val), (7, 0)] hall hN (hz_one _ _))
  have e5 : xreg N 7 = b := xreg_eq (seg [(4, 9), (5, 14), (5, c.val), (5, a.val)] [(5, b.val)] [(7, 0)] hall hN (hz_one _ _))
  rw [decodeFields, e0]; show decodeAS N = _; rw [decodeAS, e1]; show (if bits N 6 0 == 0 then some (Instr.rowfil (xreg N 17) (xreg N 12) (xreg N 7)) else none) = _
  simp only [e2, e3, e4, e5, beq_self_eq_true, ↓reduceIte]

theorem rowand (c : XReg) (a : XReg) (b : XReg) (e : XReg) : Statement (.rowand c a b e) := by
  have hall : Fits [(4, 9), (5, 15), (5, c.val), (5, a.val), (5, b.val), (2, 0), (5, e.val)] := all_cons (by decide) (all_cons (by decide) (all_cons (c.isLt) (all_cons (a.isLt) (all_cons (b.isLt) (all_cons (by decide) (all_cons (e.isLt) (all_nil)))))))
  refine of_segs rfl [(4, 9), (5, 15), (5, c.val), (5, a.val), (5, b.val), (2, 0), (5, e.val)] rfl trivial hall (by simp only [pack, hz, List.foldl]; omega) (fun N Q hN => ?_)
  have e0 : bits N 30 27 = 9 := bits_seg [] [(4, 9)] [(5, 15), (5, c.val), (5, a.val), (5, b.val), (2, 0), (5, e.val)] hall hN rfl rfl rfl
  have e1 : bits N 26 22 = 15 := bits_seg [(4, 9)] [(5, 15)] [(5, c.val), (5, a.val), (5, b.val), (2, 0), (5, e.val)] hall hN rfl rfl rfl
  have e2 : bits N 6 5 = 0 := bits_seg [(4, 9), (5, 15), (5, c.val), (5, a.val), (5, b.val)] [(2, 0)] [(5, e.val)] hall hN rfl rfl rfl
  have e3 : xreg N 17 = c := xreg_eq (seg [(4, 9), (5, 15)] [(5, c.val)] [(5, a.val), (5, b.val), (2, 0), (5, e.val)] hall hN (hz_one _ _))
  have e4 : xreg N 12 = a := xreg_eq (seg [(4, 9), (5, 15), (5, c.val)] [(5, a.val)] [(5, b.val), (2, 0), (5, e.val)] hall hN (hz_one _ _))
  have e5 : xreg N 7 = b := xreg_eq (seg [(4, 9), (5, 15), (5, c.val), (5, a.val)] [(5, b.val)] [(2, 0), (5, e.val)] hall hN (hz_one _ _))
  have e6 : xreg N 0 = e := xreg_eq (seg [(4, 9), (5, 15), (5, c.val), (5, a.val), (5, b.val), (2, 0)] [(5, e.val)] [] hall hN (hz_one _ _))
  rw [decodeFields, e0]; show decodeAS N = _; rw [decodeAS, e1]; show (if bits N 6 5 == 0 then some (Instr.rowand (xreg N 17) (xreg N 12) (xreg N 7) (xreg N 0)) else none) = _
  simp only [e2, e3, e4, e5, e6, beq_self_eq_true, ↓reduceIte]

theorem rowor (c : XReg) (a : XReg) (b : XReg) (e : XReg) : Statement (.rowor c a b e) := by
  have hall : Fits [(4, 9), (5, 16), (5, c.val), (5, a.val), (5, b.val), (2, 0), (5, e.val)] := all_cons (by decide) (all_cons (by decide) (all_cons (c.isLt) (all_cons (a.isLt) (all_cons (b.isLt) (all_cons (by decide) (all_cons (e.isLt) (all_nil)))))))
  refine of_segs rfl [(4, 9), (5, 16), (5, c.val), (5, a.val), (5, b.val), (2, 0), (5, e.val)] rfl trivial hall (by simp only [pack, hz, List.foldl]; omega) (fun N Q hN => ?_)
  have e0 : bits N 30 27 = 9 := bits_seg [] [(4, 9)] [(5, 16), (5, c.val), (5, a.val), (5, b.val), (2, 0), (5, e.val)] hall hN rfl rfl rfl
  have e1 : bits N 26 22 = 16 := bits_seg [(4, 9)] [(5, 16)] [(5, c.val), (5, a.val), (5, b.val), (2, 0), (5, e.val)] hall hN rfl rfl rfl
  have e2 : bits N 6 5 = 0 := bits_seg [(4, 9), (5, 16), (5, c.val), (5, a.val), (5, b.val)] [(2, 0)] [(5, e.val)] hall hN rfl rfl rfl
  have e3 : xreg N 17 = c := xreg_eq (seg [(4, 9), (5, 16)] [(5, c.val)] [(5, a.val), (5, b.val), (2, 0), (5, e.val)] hall hN (hz_one _ _))
  have e4 : xreg N 12 = a := xreg_eq (seg [(4, 9), (5, 16), (5, c.val)] [(5, a.val)] [(5, b.val), (2, 0), (5, e.val)] hall hN (hz_one _ _))
  have e5 : xreg N 7 = b := xreg_eq (seg [(4, 9), (5, 16), (5, c.val), (5, a.val)] [(5, b.val)] [(2, 0), (5, e.val)] hall hN (hz_one _ _))
  have e6 : xreg N 0 = e := xreg_eq (seg [(4, 9), (5, 16), (5, c.val), (5, a.val), (5, b.val), (2, 0)] [(5, e.val)] [] hall hN (hz_one _ _))
  rw [decodeFields, e0]; show decodeAS N = _; rw [decodeAS, e1]; show (if bits N 6 5 == 0 then some (Instr.rowor (xreg N 17) (xreg N 12) (xreg N 7) (xreg N 0)) else none) = _
  simp only [e2, e3, e4, e5, e6, beq_self_eq_true, ↓reduceIte]

theorem rowxor (c : XReg) (a : XReg) (b : XReg) (e : XReg) : Statement (.rowxor c a b e) := by
  have hall : Fits [(4, 9), (5, 17), (5, c.val), (5, a.val), (5, b.val), (2, 0), (5, e.val)] := all_cons (by decide) (all_cons (by decide) (all_cons (c.isLt) (all_cons (a.isLt) (all_cons (b.isLt) (all_cons (by decide) (all_cons (e.isLt) (all_nil)))))))
  refine of_segs rfl [(4, 9), (5, 17), (5, c.val), (5, a.val), (5, b.val), (2, 0), (5, e.val)] rfl trivial hall (by simp only [pack, hz, List.foldl]; omega) (fun N Q hN => ?_)
  have e0 : bits N 30 27 = 9 := bits_seg [] [(4, 9)] [(5, 17), (5, c.val), (5, a.val), (5, b.val), (2, 0), (5, e.val)] hall hN rfl rfl rfl
  have e1 : bits N 26 22 = 17 := bits_seg [(4, 9)] [(5, 17)] [(5, c.val), (5, a.val), (5, b.val), (2, 0), (5, e.val)] hall hN rfl rfl rfl
  have e2 : bits N 6 5 = 0 := bits_seg [(4, 9), (5, 17), (5, c.val), (5, a.val), (5, b.val)] [(2, 0)] [(5, e.val)] hall hN rfl rfl rfl
  have e3 : xreg N 17 = c := xreg_eq (seg [(4, 9), (5, 17)] [(5, c.val)] [(5, a.val), (5, b.val), (2, 0), (5, e.val)] hall hN (hz_one _ _))
  have e4 : xreg N 12 = a := xreg_eq (seg [(4, 9), (5, 17), (5, c.val)] [(5, a.val)] [(5, b.val), (2, 0), (5, e.val)] hall hN (hz_one _ _))
  have e5 : xreg N 7 = b := xreg_eq (seg [(4, 9), (5, 17), (5, c.val), (5, a.val)] [(5, b.val)] [(2, 0), (5, e.val)] hall hN (hz_one _ _))
  have e6 : xreg N 0 = e := xreg_eq (seg [(4, 9), (5, 17), (5, c.val), (5, a.val), (5, b.val), (2, 0)] [(5, e.val)] [] hall hN (hz_one _ _))
  rw [decodeFields, e0]; show decodeAS N = _; rw [decodeAS, e1]; show (if bits N 6 5 == 0 then some (Instr.rowxor (xreg N 17) (xreg N 12) (xreg N 7) (xreg N 0)) else none) = _
  simp only [e2, e3, e4, e5, e6, beq_self_eq_true, ↓reduceIte]

theorem rownot (c : XReg) (a : XReg) (b : XReg) : Statement (.rownot c a b) := by
  have hall : Fits [(4, 9), (5, 18), (5, c.val), (5, a.val), (5, b.val), (7, 0)] := all_cons (by decide) (all_cons (by decide) (all_cons (c.isLt) (all_cons (a.isLt) (all_cons (b.isLt) (all_cons (by decide) (all_nil))))))
  refine of_segs rfl [(4, 9), (5, 18), (5, c.val), (5, a.val), (5, b.val), (7, 0)] rfl trivial hall (by simp only [pack, hz, List.foldl]; omega) (fun N Q hN => ?_)
  have e0 : bits N 30 27 = 9 := bits_seg [] [(4, 9)] [(5, 18), (5, c.val), (5, a.val), (5, b.val), (7, 0)] hall hN rfl rfl rfl
  have e1 : bits N 26 22 = 18 := bits_seg [(4, 9)] [(5, 18)] [(5, c.val), (5, a.val), (5, b.val), (7, 0)] hall hN rfl rfl rfl
  have e2 : bits N 6 0 = 0 := bits_seg [(4, 9), (5, 18), (5, c.val), (5, a.val), (5, b.val)] [(7, 0)] [] hall hN rfl rfl rfl
  have e3 : xreg N 17 = c := xreg_eq (seg [(4, 9), (5, 18)] [(5, c.val)] [(5, a.val), (5, b.val), (7, 0)] hall hN (hz_one _ _))
  have e4 : xreg N 12 = a := xreg_eq (seg [(4, 9), (5, 18), (5, c.val)] [(5, a.val)] [(5, b.val), (7, 0)] hall hN (hz_one _ _))
  have e5 : xreg N 7 = b := xreg_eq (seg [(4, 9), (5, 18), (5, c.val), (5, a.val)] [(5, b.val)] [(7, 0)] hall hN (hz_one _ _))
  rw [decodeFields, e0]; show decodeAS N = _; rw [decodeAS, e1]; show (if bits N 6 0 == 0 then some (Instr.rownot (xreg N 17) (xreg N 12) (xreg N 7)) else none) = _
  simp only [e2, e3, e4, e5, beq_self_eq_true, ↓reduceIte]

theorem rowq (d : XReg) (a : XReg) (b : XReg) : Statement (.rowq d a b) := by
  have hall : Fits [(4, 9), (5, 19), (5, d.val), (5, a.val), (5, b.val), (7, 0)] := all_cons (by decide) (all_cons (by decide) (all_cons (d.isLt) (all_cons (a.isLt) (all_cons (b.isLt) (all_cons (by decide) (all_nil))))))
  refine of_segs rfl [(4, 9), (5, 19), (5, d.val), (5, a.val), (5, b.val), (7, 0)] rfl trivial hall (by simp only [pack, hz, List.foldl]; omega) (fun N Q hN => ?_)
  have e0 : bits N 30 27 = 9 := bits_seg [] [(4, 9)] [(5, 19), (5, d.val), (5, a.val), (5, b.val), (7, 0)] hall hN rfl rfl rfl
  have e1 : bits N 26 22 = 19 := bits_seg [(4, 9)] [(5, 19)] [(5, d.val), (5, a.val), (5, b.val), (7, 0)] hall hN rfl rfl rfl
  have e2 : bits N 6 0 = 0 := bits_seg [(4, 9), (5, 19), (5, d.val), (5, a.val), (5, b.val)] [(7, 0)] [] hall hN rfl rfl rfl
  have e3 : xreg N 17 = d := xreg_eq (seg [(4, 9), (5, 19)] [(5, d.val)] [(5, a.val), (5, b.val), (7, 0)] hall hN (hz_one _ _))
  have e4 : xreg N 12 = a := xreg_eq (seg [(4, 9), (5, 19), (5, d.val)] [(5, a.val)] [(5, b.val), (7, 0)] hall hN (hz_one _ _))
  have e5 : xreg N 7 = b := xreg_eq (seg [(4, 9), (5, 19), (5, d.val), (5, a.val)] [(5, b.val)] [(7, 0)] hall hN (hz_one _ _))
  rw [decodeFields, e0]; show decodeAS N = _; rw [decodeAS, e1]; show (if bits N 6 0 == 0 then some (Instr.rowq (xreg N 17) (xreg N 12) (xreg N 7)) else none) = _
  simp only [e2, e3, e4, e5, beq_self_eq_true, ↓reduceIte]

theorem foalloc (d : XReg) (a : XReg) : Statement (.foalloc d a) := by
  have hall : Fits [(4, 9), (5, 20), (5, d.val), (5, a.val), (12, 0)] := all_cons (by decide) (all_cons (by decide) (all_cons (d.isLt) (all_cons (a.isLt) (all_cons (by decide) (all_nil)))))
  refine of_segs rfl [(4, 9), (5, 20), (5, d.val), (5, a.val), (12, 0)] rfl trivial hall (by simp only [pack, hz, List.foldl]; omega) (fun N Q hN => ?_)
  have e0 : bits N 30 27 = 9 := bits_seg [] [(4, 9)] [(5, 20), (5, d.val), (5, a.val), (12, 0)] hall hN rfl rfl rfl
  have e1 : bits N 26 22 = 20 := bits_seg [(4, 9)] [(5, 20)] [(5, d.val), (5, a.val), (12, 0)] hall hN rfl rfl rfl
  have e2 : bits N 11 0 = 0 := bits_seg [(4, 9), (5, 20), (5, d.val), (5, a.val)] [(12, 0)] [] hall hN rfl rfl rfl
  have e3 : xreg N 17 = d := xreg_eq (seg [(4, 9), (5, 20)] [(5, d.val)] [(5, a.val), (12, 0)] hall hN (hz_one _ _))
  have e4 : xreg N 12 = a := xreg_eq (seg [(4, 9), (5, 20), (5, d.val)] [(5, a.val)] [(12, 0)] hall hN (hz_one _ _))
  rw [decodeFields, e0]; show decodeAS N = _; rw [decodeAS, e1]; show (if bits N 11 0 == 0 then some (Instr.foalloc (xreg N 17) (xreg N 12)) else none) = _
  simp only [e2, e3, e4, beq_self_eq_true, ↓reduceIte]

theorem foshare (d : XReg) (a : XReg) (b : XReg) : Statement (.foshare d a b) := by
  have hall : Fits [(4, 9), (5, 21), (5, d.val), (5, a.val), (5, b.val), (7, 0)] := all_cons (by decide) (all_cons (by decide) (all_cons (d.isLt) (all_cons (a.isLt) (all_cons (b.isLt) (all_cons (by decide) (all_nil))))))
  refine of_segs rfl [(4, 9), (5, 21), (5, d.val), (5, a.val), (5, b.val), (7, 0)] rfl trivial hall (by simp only [pack, hz, List.foldl]; omega) (fun N Q hN => ?_)
  have e0 : bits N 30 27 = 9 := bits_seg [] [(4, 9)] [(5, 21), (5, d.val), (5, a.val), (5, b.val), (7, 0)] hall hN rfl rfl rfl
  have e1 : bits N 26 22 = 21 := bits_seg [(4, 9)] [(5, 21)] [(5, d.val), (5, a.val), (5, b.val), (7, 0)] hall hN rfl rfl rfl
  have e2 : bits N 6 0 = 0 := bits_seg [(4, 9), (5, 21), (5, d.val), (5, a.val), (5, b.val)] [(7, 0)] [] hall hN rfl rfl rfl
  have e3 : xreg N 17 = d := xreg_eq (seg [(4, 9), (5, 21)] [(5, d.val)] [(5, a.val), (5, b.val), (7, 0)] hall hN (hz_one _ _))
  have e4 : xreg N 12 = a := xreg_eq (seg [(4, 9), (5, 21), (5, d.val)] [(5, a.val)] [(5, b.val), (7, 0)] hall hN (hz_one _ _))
  have e5 : xreg N 7 = b := xreg_eq (seg [(4, 9), (5, 21), (5, d.val), (5, a.val)] [(5, b.val)] [(7, 0)] hall hN (hz_one _ _))
  rw [decodeFields, e0]; show decodeAS N = _; rw [decodeAS, e1]; show (if bits N 6 0 == 0 then some (Instr.foshare (xreg N 17) (xreg N 12) (xreg N 7)) else none) = _
  simp only [e2, e3, e4, e5, beq_self_eq_true, ↓reduceIte]

theorem fofree (d : XReg) (a : XReg) : Statement (.fofree d a) := by
  have hall : Fits [(4, 9), (5, 22), (5, d.val), (5, a.val), (12, 0)] := all_cons (by decide) (all_cons (by decide) (all_cons (d.isLt) (all_cons (a.isLt) (all_cons (by decide) (all_nil)))))
  refine of_segs rfl [(4, 9), (5, 22), (5, d.val), (5, a.val), (12, 0)] rfl trivial hall (by simp only [pack, hz, List.foldl]; omega) (fun N Q hN => ?_)
  have e0 : bits N 30 27 = 9 := bits_seg [] [(4, 9)] [(5, 22), (5, d.val), (5, a.val), (12, 0)] hall hN rfl rfl rfl
  have e1 : bits N 26 22 = 22 := bits_seg [(4, 9)] [(5, 22)] [(5, d.val), (5, a.val), (12, 0)] hall hN rfl rfl rfl
  have e2 : bits N 11 0 = 0 := bits_seg [(4, 9), (5, 22), (5, d.val), (5, a.val)] [(12, 0)] [] hall hN rfl rfl rfl
  have e3 : xreg N 17 = d := xreg_eq (seg [(4, 9), (5, 22)] [(5, d.val)] [(5, a.val), (12, 0)] hall hN (hz_one _ _))
  have e4 : xreg N 12 = a := xreg_eq (seg [(4, 9), (5, 22), (5, d.val)] [(5, a.val)] [(12, 0)] hall hN (hz_one _ _))
  rw [decodeFields, e0]; show decodeAS N = _; rw [decodeAS, e1]; show (if bits N 11 0 == 0 then some (Instr.fofree (xreg N 17) (xreg N 12)) else none) = _
  simp only [e2, e3, e4, beq_self_eq_true, ↓reduceIte]

theorem folook (d : XReg) (a : XReg) : Statement (.folook d a) := by
  have hall : Fits [(4, 9), (5, 23), (5, d.val), (5, a.val), (12, 0)] := all_cons (by decide) (all_cons (by decide) (all_cons (d.isLt) (all_cons (a.isLt) (all_cons (by decide) (all_nil)))))
  refine of_segs rfl [(4, 9), (5, 23), (5, d.val), (5, a.val), (12, 0)] rfl trivial hall (by simp only [pack, hz, List.foldl]; omega) (fun N Q hN => ?_)
  have e0 : bits N 30 27 = 9 := bits_seg [] [(4, 9)] [(5, 23), (5, d.val), (5, a.val), (12, 0)] hall hN rfl rfl rfl
  have e1 : bits N 26 22 = 23 := bits_seg [(4, 9)] [(5, 23)] [(5, d.val), (5, a.val), (12, 0)] hall hN rfl rfl rfl
  have e2 : bits N 11 0 = 0 := bits_seg [(4, 9), (5, 23), (5, d.val), (5, a.val)] [(12, 0)] [] hall hN rfl rfl rfl
  have e3 : xreg N 17 = d := xreg_eq (seg [(4, 9), (5, 23)] [(5, d.val)] [(5, a.val), (12, 0)] hall hN (hz_one _ _))
  have e4 : xreg N 12 = a := xreg_eq (seg [(4, 9), (5, 23), (5, d.val)] [(5, a.val)] [(12, 0)] hall hN (hz_one _ _))
  rw [decodeFields, e0]; show decodeAS N = _; rw [decodeAS, e1]; show (if bits N 11 0 == 0 then some (Instr.folook (xreg N 17) (xreg N 12)) else none) = _
  simp only [e2, e3, e4, beq_self_eq_true, ↓reduceIte]

theorem fopin (d : XReg) (a : XReg) (b : XReg) (q : Bool) : Statement (.fopin d a b q) := by
  have hall : Fits [(4, 9), (5, 24), (5, d.val), (5, a.val), (5, b.val), (6, 0), (1, b2n q)] := all_cons (by decide) (all_cons (by decide) (all_cons (d.isLt) (all_cons (a.isLt) (all_cons (b.isLt) (all_cons (by decide) (all_cons (b2n_lt q) (all_nil)))))))
  refine of_segs rfl [(4, 9), (5, 24), (5, d.val), (5, a.val), (5, b.val), (6, 0), (1, b2n q)] rfl trivial hall (by simp only [pack, hz, List.foldl]; omega) (fun N Q hN => ?_)
  have e0 : bits N 30 27 = 9 := bits_seg [] [(4, 9)] [(5, 24), (5, d.val), (5, a.val), (5, b.val), (6, 0), (1, b2n q)] hall hN rfl rfl rfl
  have e1 : bits N 26 22 = 24 := bits_seg [(4, 9)] [(5, 24)] [(5, d.val), (5, a.val), (5, b.val), (6, 0), (1, b2n q)] hall hN rfl rfl rfl
  have e2 : bits N 6 1 = 0 := bits_seg [(4, 9), (5, 24), (5, d.val), (5, a.val), (5, b.val)] [(6, 0)] [(1, b2n q)] hall hN rfl rfl rfl
  have e3 : xreg N 17 = d := xreg_eq (seg [(4, 9), (5, 24)] [(5, d.val)] [(5, a.val), (5, b.val), (6, 0), (1, b2n q)] hall hN (hz_one _ _))
  have e4 : xreg N 12 = a := xreg_eq (seg [(4, 9), (5, 24), (5, d.val)] [(5, a.val)] [(5, b.val), (6, 0), (1, b2n q)] hall hN (hz_one _ _))
  have e5 : xreg N 7 = b := xreg_eq (seg [(4, 9), (5, 24), (5, d.val), (5, a.val)] [(5, b.val)] [(6, 0), (1, b2n q)] hall hN (hz_one _ _))
  have e6 : bit N 0 = q := bit_eq (seg [(4, 9), (5, 24), (5, d.val), (5, a.val), (5, b.val), (6, 0)] [(1, b2n q)] [] hall hN (hz_one _ _))
  rw [decodeFields, e0]; show decodeAS N = _; rw [decodeAS, e1]; show (if bits N 6 1 == 0 then some (Instr.fopin (xreg N 17) (xreg N 12) (xreg N 7) (bit N 0)) else none) = _
  simp only [e2, e3, e4, e5, e6, beq_self_eq_true, ↓reduceIte]

theorem founpin (d : XReg) (a : XReg) : Statement (.founpin d a) := by
  have hall : Fits [(4, 9), (5, 25), (5, d.val), (5, a.val), (12, 0)] := all_cons (by decide) (all_cons (by decide) (all_cons (d.isLt) (all_cons (a.isLt) (all_cons (by decide) (all_nil)))))
  refine of_segs rfl [(4, 9), (5, 25), (5, d.val), (5, a.val), (12, 0)] rfl trivial hall (by simp only [pack, hz, List.foldl]; omega) (fun N Q hN => ?_)
  have e0 : bits N 30 27 = 9 := bits_seg [] [(4, 9)] [(5, 25), (5, d.val), (5, a.val), (12, 0)] hall hN rfl rfl rfl
  have e1 : bits N 26 22 = 25 := bits_seg [(4, 9)] [(5, 25)] [(5, d.val), (5, a.val), (12, 0)] hall hN rfl rfl rfl
  have e2 : bits N 11 0 = 0 := bits_seg [(4, 9), (5, 25), (5, d.val), (5, a.val)] [(12, 0)] [] hall hN rfl rfl rfl
  have e3 : xreg N 17 = d := xreg_eq (seg [(4, 9), (5, 25)] [(5, d.val)] [(5, a.val), (12, 0)] hall hN (hz_one _ _))
  have e4 : xreg N 12 = a := xreg_eq (seg [(4, 9), (5, 25), (5, d.val)] [(5, a.val)] [(12, 0)] hall hN (hz_one _ _))
  rw [decodeFields, e0]; show decodeAS N = _; rw [decodeAS, e1]; show (if bits N 11 0 == 0 then some (Instr.founpin (xreg N 17) (xreg N 12)) else none) = _
  simp only [e2, e3, e4, beq_self_eq_true, ↓reduceIte]

theorem fopool (d : XReg) (a : XReg) : Statement (.fopool d a) := by
  have hall : Fits [(4, 9), (5, 26), (5, d.val), (5, a.val), (12, 0)] := all_cons (by decide) (all_cons (by decide) (all_cons (d.isLt) (all_cons (a.isLt) (all_cons (by decide) (all_nil)))))
  refine of_segs rfl [(4, 9), (5, 26), (5, d.val), (5, a.val), (12, 0)] rfl trivial hall (by simp only [pack, hz, List.foldl]; omega) (fun N Q hN => ?_)
  have e0 : bits N 30 27 = 9 := bits_seg [] [(4, 9)] [(5, 26), (5, d.val), (5, a.val), (12, 0)] hall hN rfl rfl rfl
  have e1 : bits N 26 22 = 26 := bits_seg [(4, 9)] [(5, 26)] [(5, d.val), (5, a.val), (12, 0)] hall hN rfl rfl rfl
  have e2 : bits N 11 0 = 0 := bits_seg [(4, 9), (5, 26), (5, d.val), (5, a.val)] [(12, 0)] [] hall hN rfl rfl rfl
  have e3 : xreg N 17 = d := xreg_eq (seg [(4, 9), (5, 26)] [(5, d.val)] [(5, a.val), (12, 0)] hall hN (hz_one _ _))
  have e4 : xreg N 12 = a := xreg_eq (seg [(4, 9), (5, 26), (5, d.val)] [(5, a.val)] [(12, 0)] hall hN (hz_one _ _))
  rw [decodeFields, e0]; show decodeAS N = _; rw [decodeAS, e1]; show (if bits N 11 0 == 0 then some (Instr.fopool (xreg N 17) (xreg N 12)) else none) = _
  simp only [e2, e3, e4, beq_self_eq_true, ↓reduceIte]

theorem fsend (d : XReg) (a : XReg) (b : XReg) (n : Fin 8) : Statement (.fsend d a b n) := by
  have hall : Fits [(4, 10), (5, 0), (5, d.val), (5, a.val), (5, b.val), (4, 0), (3, n.val)] := all_cons (by decide) (all_cons (by decide) (all_cons (d.isLt) (all_cons (a.isLt) (all_cons (b.isLt) (all_cons (by decide) (all_cons (n.isLt) (all_nil)))))))
  refine of_segs rfl [(4, 10), (5, 0), (5, d.val), (5, a.val), (5, b.val), (4, 0), (3, n.val)] rfl trivial hall (by simp only [pack, hz, List.foldl]; omega) (fun N Q hN => ?_)
  have e0 : bits N 30 27 = 10 := bits_seg [] [(4, 10)] [(5, 0), (5, d.val), (5, a.val), (5, b.val), (4, 0), (3, n.val)] hall hN rfl rfl rfl
  have e1 : bits N 26 22 = 0 := bits_seg [(4, 10)] [(5, 0)] [(5, d.val), (5, a.val), (5, b.val), (4, 0), (3, n.val)] hall hN rfl rfl rfl
  have e2 : bits N 6 3 = 0 := bits_seg [(4, 10), (5, 0), (5, d.val), (5, a.val), (5, b.val)] [(4, 0)] [(3, n.val)] hall hN rfl rfl rfl
  have e3 : xreg N 17 = d := xreg_eq (seg [(4, 10), (5, 0)] [(5, d.val)] [(5, a.val), (5, b.val), (4, 0), (3, n.val)] hall hN (hz_one _ _))
  have e4 : xreg N 12 = a := xreg_eq (seg [(4, 10), (5, 0), (5, d.val)] [(5, a.val)] [(5, b.val), (4, 0), (3, n.val)] hall hN (hz_one _ _))
  have e5 : xreg N 7 = b := xreg_eq (seg [(4, 10), (5, 0), (5, d.val), (5, a.val)] [(5, b.val)] [(4, 0), (3, n.val)] hall hN (hz_one _ _))
  have e6 : fin8 N 0 = n := fin8_eq (seg [(4, 10), (5, 0), (5, d.val), (5, a.val), (5, b.val), (4, 0)] [(3, n.val)] [] hall hN (hz_one _ _))
  rw [decodeFields, e0]; show decodeFB N = _; rw [decodeFB, e1]; show (if bits N 6 3 == 0 then some (Instr.fsend (xreg N 17) (xreg N 12) (xreg N 7) (fin8 N 0)) else none) = _
  simp only [e2, e3, e4, e5, e6, beq_self_eq_true, ↓reduceIte]

theorem fwr (d : XReg) (a : XReg) (b : XReg) (n : Fin 8) : Statement (.fwr d a b n) := by
  have hall : Fits [(4, 10), (5, 1), (5, d.val), (5, a.val), (5, b.val), (4, 0), (3, n.val)] := all_cons (by decide) (all_cons (by decide) (all_cons (d.isLt) (all_cons (a.isLt) (all_cons (b.isLt) (all_cons (by decide) (all_cons (n.isLt) (all_nil)))))))
  refine of_segs rfl [(4, 10), (5, 1), (5, d.val), (5, a.val), (5, b.val), (4, 0), (3, n.val)] rfl trivial hall (by simp only [pack, hz, List.foldl]; omega) (fun N Q hN => ?_)
  have e0 : bits N 30 27 = 10 := bits_seg [] [(4, 10)] [(5, 1), (5, d.val), (5, a.val), (5, b.val), (4, 0), (3, n.val)] hall hN rfl rfl rfl
  have e1 : bits N 26 22 = 1 := bits_seg [(4, 10)] [(5, 1)] [(5, d.val), (5, a.val), (5, b.val), (4, 0), (3, n.val)] hall hN rfl rfl rfl
  have e2 : bits N 6 3 = 0 := bits_seg [(4, 10), (5, 1), (5, d.val), (5, a.val), (5, b.val)] [(4, 0)] [(3, n.val)] hall hN rfl rfl rfl
  have e3 : xreg N 17 = d := xreg_eq (seg [(4, 10), (5, 1)] [(5, d.val)] [(5, a.val), (5, b.val), (4, 0), (3, n.val)] hall hN (hz_one _ _))
  have e4 : xreg N 12 = a := xreg_eq (seg [(4, 10), (5, 1), (5, d.val)] [(5, a.val)] [(5, b.val), (4, 0), (3, n.val)] hall hN (hz_one _ _))
  have e5 : xreg N 7 = b := xreg_eq (seg [(4, 10), (5, 1), (5, d.val), (5, a.val)] [(5, b.val)] [(4, 0), (3, n.val)] hall hN (hz_one _ _))
  have e6 : fin8 N 0 = n := fin8_eq (seg [(4, 10), (5, 1), (5, d.val), (5, a.val), (5, b.val), (4, 0)] [(3, n.val)] [] hall hN (hz_one _ _))
  rw [decodeFields, e0]; show decodeFB N = _; rw [decodeFB, e1]; show (if bits N 6 3 == 0 then some (Instr.fwr (xreg N 17) (xreg N 12) (xreg N 7) (fin8 N 0)) else none) = _
  simp only [e2, e3, e4, e5, e6, beq_self_eq_true, ↓reduceIte]

theorem fwrs (d : XReg) (a : XReg) (b : XReg) (n : Fin 8) : Statement (.fwrs d a b n) := by
  have hall : Fits [(4, 10), (5, 2), (5, d.val), (5, a.val), (5, b.val), (4, 0), (3, n.val)] := all_cons (by decide) (all_cons (by decide) (all_cons (d.isLt) (all_cons (a.isLt) (all_cons (b.isLt) (all_cons (by decide) (all_cons (n.isLt) (all_nil)))))))
  refine of_segs rfl [(4, 10), (5, 2), (5, d.val), (5, a.val), (5, b.val), (4, 0), (3, n.val)] rfl trivial hall (by simp only [pack, hz, List.foldl]; omega) (fun N Q hN => ?_)
  have e0 : bits N 30 27 = 10 := bits_seg [] [(4, 10)] [(5, 2), (5, d.val), (5, a.val), (5, b.val), (4, 0), (3, n.val)] hall hN rfl rfl rfl
  have e1 : bits N 26 22 = 2 := bits_seg [(4, 10)] [(5, 2)] [(5, d.val), (5, a.val), (5, b.val), (4, 0), (3, n.val)] hall hN rfl rfl rfl
  have e2 : bits N 6 3 = 0 := bits_seg [(4, 10), (5, 2), (5, d.val), (5, a.val), (5, b.val)] [(4, 0)] [(3, n.val)] hall hN rfl rfl rfl
  have e3 : xreg N 17 = d := xreg_eq (seg [(4, 10), (5, 2)] [(5, d.val)] [(5, a.val), (5, b.val), (4, 0), (3, n.val)] hall hN (hz_one _ _))
  have e4 : xreg N 12 = a := xreg_eq (seg [(4, 10), (5, 2), (5, d.val)] [(5, a.val)] [(5, b.val), (4, 0), (3, n.val)] hall hN (hz_one _ _))
  have e5 : xreg N 7 = b := xreg_eq (seg [(4, 10), (5, 2), (5, d.val), (5, a.val)] [(5, b.val)] [(4, 0), (3, n.val)] hall hN (hz_one _ _))
  have e6 : fin8 N 0 = n := fin8_eq (seg [(4, 10), (5, 2), (5, d.val), (5, a.val), (5, b.val), (4, 0)] [(3, n.val)] [] hall hN (hz_one _ _))
  rw [decodeFields, e0]; show decodeFB N = _; rw [decodeFB, e1]; show (if bits N 6 3 == 0 then some (Instr.fwrs (xreg N 17) (xreg N 12) (xreg N 7) (fin8 N 0)) else (if bits N 6 3 == 1 then some (Instr.fwrsSc (xreg N 17) (xreg N 12) (xreg N 7) (fin8 N 0)) else none)) = _
  simp [e2, e3, e4, e5, e6, beq_self_eq_true, ↓reduceIte]

theorem fwrsSc (d : XReg) (a : XReg) (b : XReg) (n : Fin 8) : Statement (.fwrsSc d a b n) := by
  have hall : Fits [(4, 10), (5, 2), (5, d.val), (5, a.val), (5, b.val), (4, 1), (3, n.val)] := all_cons (by decide) (all_cons (by decide) (all_cons (d.isLt) (all_cons (a.isLt) (all_cons (b.isLt) (all_cons (by decide) (all_cons (n.isLt) (all_nil)))))))
  refine of_segs rfl [(4, 10), (5, 2), (5, d.val), (5, a.val), (5, b.val), (4, 1), (3, n.val)] rfl trivial hall (by simp only [pack, hz, List.foldl]; omega) (fun N Q hN => ?_)
  have e0 : bits N 30 27 = 10 := bits_seg [] [(4, 10)] [(5, 2), (5, d.val), (5, a.val), (5, b.val), (4, 1), (3, n.val)] hall hN rfl rfl rfl
  have e1 : bits N 26 22 = 2 := bits_seg [(4, 10)] [(5, 2)] [(5, d.val), (5, a.val), (5, b.val), (4, 1), (3, n.val)] hall hN rfl rfl rfl
  have e2 : bits N 6 3 = 1 := bits_seg [(4, 10), (5, 2), (5, d.val), (5, a.val), (5, b.val)] [(4, 1)] [(3, n.val)] hall hN rfl rfl rfl
  have e3 : xreg N 17 = d := xreg_eq (seg [(4, 10), (5, 2)] [(5, d.val)] [(5, a.val), (5, b.val), (4, 1), (3, n.val)] hall hN (hz_one _ _))
  have e4 : xreg N 12 = a := xreg_eq (seg [(4, 10), (5, 2), (5, d.val)] [(5, a.val)] [(5, b.val), (4, 1), (3, n.val)] hall hN (hz_one _ _))
  have e5 : xreg N 7 = b := xreg_eq (seg [(4, 10), (5, 2), (5, d.val), (5, a.val)] [(5, b.val)] [(4, 1), (3, n.val)] hall hN (hz_one _ _))
  have e6 : fin8 N 0 = n := fin8_eq (seg [(4, 10), (5, 2), (5, d.val), (5, a.val), (5, b.val), (4, 1)] [(3, n.val)] [] hall hN (hz_one _ _))
  rw [decodeFields, e0]; show decodeFB N = _; rw [decodeFB, e1]; show (if bits N 6 3 == 0 then some (Instr.fwrs (xreg N 17) (xreg N 12) (xreg N 7) (fin8 N 0)) else (if bits N 6 3 == 1 then some (Instr.fwrsSc (xreg N 17) (xreg N 12) (xreg N 7) (fin8 N 0)) else none)) = _
  simp [e2, e3, e4, e5, e6, beq_self_eq_true, ↓reduceIte]

theorem frd (d : XReg) (a : XReg) (b : XReg) (n : Fin 8) : Statement (.frd d a b n) := by
  have hall : Fits [(4, 10), (5, 3), (5, d.val), (5, a.val), (5, b.val), (4, 0), (3, n.val)] := all_cons (by decide) (all_cons (by decide) (all_cons (d.isLt) (all_cons (a.isLt) (all_cons (b.isLt) (all_cons (by decide) (all_cons (n.isLt) (all_nil)))))))
  refine of_segs rfl [(4, 10), (5, 3), (5, d.val), (5, a.val), (5, b.val), (4, 0), (3, n.val)] rfl trivial hall (by simp only [pack, hz, List.foldl]; omega) (fun N Q hN => ?_)
  have e0 : bits N 30 27 = 10 := bits_seg [] [(4, 10)] [(5, 3), (5, d.val), (5, a.val), (5, b.val), (4, 0), (3, n.val)] hall hN rfl rfl rfl
  have e1 : bits N 26 22 = 3 := bits_seg [(4, 10)] [(5, 3)] [(5, d.val), (5, a.val), (5, b.val), (4, 0), (3, n.val)] hall hN rfl rfl rfl
  have e2 : bits N 6 3 = 0 := bits_seg [(4, 10), (5, 3), (5, d.val), (5, a.val), (5, b.val)] [(4, 0)] [(3, n.val)] hall hN rfl rfl rfl
  have e3 : xreg N 17 = d := xreg_eq (seg [(4, 10), (5, 3)] [(5, d.val)] [(5, a.val), (5, b.val), (4, 0), (3, n.val)] hall hN (hz_one _ _))
  have e4 : xreg N 12 = a := xreg_eq (seg [(4, 10), (5, 3), (5, d.val)] [(5, a.val)] [(5, b.val), (4, 0), (3, n.val)] hall hN (hz_one _ _))
  have e5 : xreg N 7 = b := xreg_eq (seg [(4, 10), (5, 3), (5, d.val), (5, a.val)] [(5, b.val)] [(4, 0), (3, n.val)] hall hN (hz_one _ _))
  have e6 : fin8 N 0 = n := fin8_eq (seg [(4, 10), (5, 3), (5, d.val), (5, a.val), (5, b.val), (4, 0)] [(3, n.val)] [] hall hN (hz_one _ _))
  rw [decodeFields, e0]; show decodeFB N = _; rw [decodeFB, e1]; show (if bits N 6 3 == 0 then some (Instr.frd (xreg N 17) (xreg N 12) (xreg N 7) (fin8 N 0)) else none) = _
  simp only [e2, e3, e4, e5, e6, beq_self_eq_true, ↓reduceIte]

theorem fsig (d : XReg) (b : XReg) (n : Fin 8) : Statement (.fsig d b n) := by
  have hall : Fits [(4, 10), (5, 4), (5, d.val), (5, 0), (5, b.val), (4, 0), (3, n.val)] := all_cons (by decide) (all_cons (by decide) (all_cons (d.isLt) (all_cons (by decide) (all_cons (b.isLt) (all_cons (by decide) (all_cons (n.isLt) (all_nil)))))))
  refine of_segs rfl [(4, 10), (5, 4), (5, d.val), (5, 0), (5, b.val), (4, 0), (3, n.val)] rfl trivial hall (by simp only [pack, hz, List.foldl]; omega) (fun N Q hN => ?_)
  have e0 : bits N 30 27 = 10 := bits_seg [] [(4, 10)] [(5, 4), (5, d.val), (5, 0), (5, b.val), (4, 0), (3, n.val)] hall hN rfl rfl rfl
  have e1 : bits N 26 22 = 4 := bits_seg [(4, 10)] [(5, 4)] [(5, d.val), (5, 0), (5, b.val), (4, 0), (3, n.val)] hall hN rfl rfl rfl
  have e2 : bits N 6 3 = 0 := bits_seg [(4, 10), (5, 4), (5, d.val), (5, 0), (5, b.val)] [(4, 0)] [(3, n.val)] hall hN rfl rfl rfl
  have e3 : bits N 16 12 = 0 := bits_seg [(4, 10), (5, 4), (5, d.val)] [(5, 0)] [(5, b.val), (4, 0), (3, n.val)] hall hN rfl rfl rfl
  have e4 : xreg N 17 = d := xreg_eq (seg [(4, 10), (5, 4)] [(5, d.val)] [(5, 0), (5, b.val), (4, 0), (3, n.val)] hall hN (hz_one _ _))
  have e5 : xreg N 7 = b := xreg_eq (seg [(4, 10), (5, 4), (5, d.val), (5, 0)] [(5, b.val)] [(4, 0), (3, n.val)] hall hN (hz_one _ _))
  have e6 : fin8 N 0 = n := fin8_eq (seg [(4, 10), (5, 4), (5, d.val), (5, 0), (5, b.val), (4, 0)] [(3, n.val)] [] hall hN (hz_one _ _))
  rw [decodeFields, e0]; show decodeFB N = _; rw [decodeFB, e1]; show (if bits N 6 3 == 0 && bits N 16 12 == 0 then some (Instr.fsig (xreg N 17) (xreg N 7) (fin8 N 0)) else none) = _
  simp only [e2, e3, e4, e5, e6, beq_self_eq_true, ↓reduceIte, Bool.and_self]

theorem famo (d : XReg) (a : XReg) (b : XReg) (w : Bool) (u : AmoOp) : Statement (.famo d a b w u) := by
  have hall : Fits [(4, 10), (5, 5), (5, d.val), (5, a.val), (5, b.val), (3, 0), (1, b2n w), (3, u.code)] := all_cons (by decide) (all_cons (by decide) (all_cons (d.isLt) (all_cons (a.isLt) (all_cons (b.isLt) (all_cons (by decide) (all_cons (b2n_lt w) (all_cons (AmoOp.code_lt u) (all_nil))))))))
  refine of_segs rfl [(4, 10), (5, 5), (5, d.val), (5, a.val), (5, b.val), (3, 0), (1, b2n w), (3, u.code)] rfl trivial hall (by simp only [pack, hz, List.foldl]; omega) (fun N Q hN => ?_)
  have e0 : bits N 30 27 = 10 := bits_seg [] [(4, 10)] [(5, 5), (5, d.val), (5, a.val), (5, b.val), (3, 0), (1, b2n w), (3, u.code)] hall hN rfl rfl rfl
  have e1 : bits N 26 22 = 5 := bits_seg [(4, 10)] [(5, 5)] [(5, d.val), (5, a.val), (5, b.val), (3, 0), (1, b2n w), (3, u.code)] hall hN rfl rfl rfl
  have e2 : bits N 6 4 = 0 := bits_seg [(4, 10), (5, 5), (5, d.val), (5, a.val), (5, b.val)] [(3, 0)] [(1, b2n w), (3, u.code)] hall hN rfl rfl rfl
  have e3 : bits N 2 0 = u.code := bits_seg [(4, 10), (5, 5), (5, d.val), (5, a.val), (5, b.val), (3, 0), (1, b2n w)] [(3, u.code)] [] hall hN (hz_one _ _) rfl rfl
  have e4 : xreg N 17 = d := xreg_eq (seg [(4, 10), (5, 5)] [(5, d.val)] [(5, a.val), (5, b.val), (3, 0), (1, b2n w), (3, u.code)] hall hN (hz_one _ _))
  have e5 : xreg N 12 = a := xreg_eq (seg [(4, 10), (5, 5), (5, d.val)] [(5, a.val)] [(5, b.val), (3, 0), (1, b2n w), (3, u.code)] hall hN (hz_one _ _))
  have e6 : xreg N 7 = b := xreg_eq (seg [(4, 10), (5, 5), (5, d.val), (5, a.val)] [(5, b.val)] [(3, 0), (1, b2n w), (3, u.code)] hall hN (hz_one _ _))
  have e7 : bit N 3 = w := bit_eq (seg [(4, 10), (5, 5), (5, d.val), (5, a.val), (5, b.val), (3, 0)] [(1, b2n w)] [(3, u.code)] hall hN (hz_one _ _))
  rw [decodeFields, e0]; show decodeFB N = _; rw [decodeFB, e1]; show (if bits N 6 4 == 0 then some (Instr.famo (xreg N 17) (xreg N 12) (xreg N 7) (bit N 3) (AmoOp.ofCode (bits N 2 0))) else none) = _
  simp only [e2, e3, e4, e5, e6, e7, AmoOp.ofCode_code, beq_self_eq_true, ↓reduceIte]

theorem fmcast (d : XReg) (a : XReg) (b : XReg) (g : Bool) (n : Fin 8) : Statement (.fmcast d a b g n) := by
  have hall : Fits [(4, 10), (5, 6), (5, d.val), (5, a.val), (5, b.val), (2, 0), (1, b2n g), (1, 0), (3, n.val)] := all_cons (by decide) (all_cons (by decide) (all_cons (d.isLt) (all_cons (a.isLt) (all_cons (b.isLt) (all_cons (by decide) (all_cons (b2n_lt g) (all_cons (by decide) (all_cons (n.isLt) (all_nil)))))))))
  refine of_segs rfl [(4, 10), (5, 6), (5, d.val), (5, a.val), (5, b.val), (2, 0), (1, b2n g), (1, 0), (3, n.val)] rfl trivial hall (by simp only [pack, hz, List.foldl]; omega) (fun N Q hN => ?_)
  have e0 : bits N 30 27 = 10 := bits_seg [] [(4, 10)] [(5, 6), (5, d.val), (5, a.val), (5, b.val), (2, 0), (1, b2n g), (1, 0), (3, n.val)] hall hN rfl rfl rfl
  have e1 : bits N 26 22 = 6 := bits_seg [(4, 10)] [(5, 6)] [(5, d.val), (5, a.val), (5, b.val), (2, 0), (1, b2n g), (1, 0), (3, n.val)] hall hN rfl rfl rfl
  have e2 : bits N 3 3 = 0 := bits_seg [(4, 10), (5, 6), (5, d.val), (5, a.val), (5, b.val), (2, 0), (1, b2n g)] [(1, 0)] [(3, n.val)] hall hN rfl rfl rfl
  have e3 : bits N 6 5 = 0 := bits_seg [(4, 10), (5, 6), (5, d.val), (5, a.val), (5, b.val)] [(2, 0)] [(1, b2n g), (1, 0), (3, n.val)] hall hN rfl rfl rfl
  have e4 : xreg N 17 = d := xreg_eq (seg [(4, 10), (5, 6)] [(5, d.val)] [(5, a.val), (5, b.val), (2, 0), (1, b2n g), (1, 0), (3, n.val)] hall hN (hz_one _ _))
  have e5 : xreg N 12 = a := xreg_eq (seg [(4, 10), (5, 6), (5, d.val)] [(5, a.val)] [(5, b.val), (2, 0), (1, b2n g), (1, 0), (3, n.val)] hall hN (hz_one _ _))
  have e6 : xreg N 7 = b := xreg_eq (seg [(4, 10), (5, 6), (5, d.val), (5, a.val)] [(5, b.val)] [(2, 0), (1, b2n g), (1, 0), (3, n.val)] hall hN (hz_one _ _))
  have e7 : bit N 4 = g := bit_eq (seg [(4, 10), (5, 6), (5, d.val), (5, a.val), (5, b.val), (2, 0)] [(1, b2n g)] [(1, 0), (3, n.val)] hall hN (hz_one _ _))
  have e8 : fin8 N 0 = n := fin8_eq (seg [(4, 10), (5, 6), (5, d.val), (5, a.val), (5, b.val), (2, 0), (1, b2n g), (1, 0)] [(3, n.val)] [] hall hN (hz_one _ _))
  rw [decodeFields, e0]; show decodeFB N = _; rw [decodeFB, e1]; show (if bits N 3 3 == 0 && bits N 6 5 == 0 then some (Instr.fmcast (xreg N 17) (xreg N 12) (xreg N 7) (bit N 4) (fin8 N 0)) else none) = _
  simp only [e2, e3, e4, e5, e6, e7, e8, beq_self_eq_true, ↓reduceIte, Bool.and_self]

theorem fwait (d : XReg) (l : Bool) (n : Fin 8) : Statement (.fwait d l n) := by
  have hall : Fits [(4, 10), (5, 7), (5, d.val), (13, 0), (1, b2n l), (3, n.val)] := all_cons (by decide) (all_cons (by decide) (all_cons (d.isLt) (all_cons (by decide) (all_cons (b2n_lt l) (all_cons (n.isLt) (all_nil))))))
  refine of_segs rfl [(4, 10), (5, 7), (5, d.val), (13, 0), (1, b2n l), (3, n.val)] rfl trivial hall (by simp only [pack, hz, List.foldl]; omega) (fun N Q hN => ?_)
  have e0 : bits N 30 27 = 10 := bits_seg [] [(4, 10)] [(5, 7), (5, d.val), (13, 0), (1, b2n l), (3, n.val)] hall hN rfl rfl rfl
  have e1 : bits N 26 22 = 7 := bits_seg [(4, 10)] [(5, 7)] [(5, d.val), (13, 0), (1, b2n l), (3, n.val)] hall hN rfl rfl rfl
  have e2 : bits N 16 4 = 0 := bits_seg [(4, 10), (5, 7), (5, d.val)] [(13, 0)] [(1, b2n l), (3, n.val)] hall hN rfl rfl rfl
  have e3 : xreg N 17 = d := xreg_eq (seg [(4, 10), (5, 7)] [(5, d.val)] [(13, 0), (1, b2n l), (3, n.val)] hall hN (hz_one _ _))
  have e4 : bit N 3 = l := bit_eq (seg [(4, 10), (5, 7), (5, d.val), (13, 0)] [(1, b2n l)] [(3, n.val)] hall hN (hz_one _ _))
  have e5 : fin8 N 0 = n := fin8_eq (seg [(4, 10), (5, 7), (5, d.val), (13, 0), (1, b2n l)] [(3, n.val)] [] hall hN (hz_one _ _))
  rw [decodeFields, e0]; show decodeFB N = _; rw [decodeFB, e1]; show (if bits N 16 4 == 0 then some (Instr.fwait (xreg N 17) (bit N 3) (fin8 N 0)) else none) = _
  simp only [e2, e3, e4, e5, beq_self_eq_true, ↓reduceIte]

theorem fslot (d : XReg) : Statement (.fslot d) := by
  have hall : Fits [(4, 10), (5, 8), (5, d.val), (5, 0), (12, 0)] := all_cons (by decide) (all_cons (by decide) (all_cons (d.isLt) (all_cons (by decide) (all_cons (by decide) (all_nil)))))
  refine of_segs rfl [(4, 10), (5, 8), (5, d.val), (5, 0), (12, 0)] rfl trivial hall (by simp only [pack, hz, List.foldl]; omega) (fun N Q hN => ?_)
  have e0 : bits N 30 27 = 10 := bits_seg [] [(4, 10)] [(5, 8), (5, d.val), (5, 0), (12, 0)] hall hN rfl rfl rfl
  have e1 : bits N 26 22 = 8 := bits_seg [(4, 10)] [(5, 8)] [(5, d.val), (5, 0), (12, 0)] hall hN rfl rfl rfl
  have e2 : bits N 16 0 = 0 := bits_seg [(4, 10), (5, 8), (5, d.val)] [(5, 0), (12, 0)] [] hall hN rfl rfl rfl
  have e3 : bits N 11 0 = 0 := bits_seg [(4, 10), (5, 8), (5, d.val), (5, 0)] [(12, 0)] [] hall hN rfl rfl rfl
  have e4 : bits N 21 17 = d.val := bits_seg [(4, 10), (5, 8)] [(5, d.val)] [(5, 0), (12, 0)] hall hN (hz_one _ _) rfl rfl
  have e5 : xreg N 17 = d := xreg_eq (seg [(4, 10), (5, 8)] [(5, d.val)] [(5, 0), (12, 0)] hall hN (hz_one _ _))
  rw [decodeFields, e0]; show decodeFB N = _; rw [decodeFB, e1]; show (if bits N 16 0 == 0 then some (Instr.fslot (xreg N 17)) else (if bits N 11 0 == 1 && bits N 21 17 == 0 then some (Instr.fslotWait (xreg N 12)) else none)) = _
  simp [e2, e3, e4, e5, beq_self_eq_true, ↓reduceIte, Bool.and_self]

theorem fslotWait (a : XReg) : Statement (.fslotWait a) := by
  have hall : Fits [(4, 10), (5, 8), (5, 0), (5, a.val), (12, 1)] := all_cons (by decide) (all_cons (by decide) (all_cons (by decide) (all_cons (a.isLt) (all_cons (by decide) (all_nil)))))
  refine of_segs rfl [(4, 10), (5, 8), (5, 0), (5, a.val), (12, 1)] rfl trivial hall (by simp only [pack, hz, List.foldl]; omega) (fun N Q hN => ?_)
  have e0 : bits N 30 27 = 10 := bits_seg [] [(4, 10)] [(5, 8), (5, 0), (5, a.val), (12, 1)] hall hN rfl rfl rfl
  have e1 : bits N 26 22 = 8 := bits_seg [(4, 10)] [(5, 8)] [(5, 0), (5, a.val), (12, 1)] hall hN rfl rfl rfl
  have e2 : (bits N 16 0 == 0) = false := by rw [beq_eq_false_iff_ne]; simp only [hz, List.foldl] at hN; simp only [bits, Nat.shiftRight_eq_div_pow]; omega
  have e3 : bits N 11 0 = 1 := bits_seg [(4, 10), (5, 8), (5, 0), (5, a.val)] [(12, 1)] [] hall hN rfl rfl rfl
  have e4 : bits N 21 17 = 0 := bits_seg [(4, 10), (5, 8)] [(5, 0)] [(5, a.val), (12, 1)] hall hN rfl rfl rfl
  have e5 : xreg N 12 = a := xreg_eq (seg [(4, 10), (5, 8), (5, 0)] [(5, a.val)] [(12, 1)] hall hN (hz_one _ _))
  rw [decodeFields, e0]; show decodeFB N = _; rw [decodeFB, e1]; show (if bits N 16 0 == 0 then some (Instr.fslot (xreg N 17)) else (if bits N 11 0 == 1 && bits N 21 17 == 0 then some (Instr.fslotWait (xreg N 12)) else none)) = _
  simp [e2, e3, e4, e5, beq_self_eq_true, ↓reduceIte, Bool.and_self]

theorem fcnt (d : XReg) (a : XReg) (m : BitVec 2) : Statement (.fcnt d a m) := by
  have hall : Fits [(4, 10), (5, 9), (5, d.val), (5, a.val), (10, 0), (2, m.toNat)] := all_cons (by decide) (all_cons (by decide) (all_cons (d.isLt) (all_cons (a.isLt) (all_cons (by decide) (all_cons (m.isLt) (all_nil))))))
  refine of_segs rfl [(4, 10), (5, 9), (5, d.val), (5, a.val), (10, 0), (2, m.toNat)] rfl trivial hall (by simp only [pack, hz, List.foldl]; omega) (fun N Q hN => ?_)
  have e0 : bits N 30 27 = 10 := bits_seg [] [(4, 10)] [(5, 9), (5, d.val), (5, a.val), (10, 0), (2, m.toNat)] hall hN rfl rfl rfl
  have e1 : bits N 26 22 = 9 := bits_seg [(4, 10)] [(5, 9)] [(5, d.val), (5, a.val), (10, 0), (2, m.toNat)] hall hN rfl rfl rfl
  have e2 : bits N 11 2 = 0 := bits_seg [(4, 10), (5, 9), (5, d.val), (5, a.val)] [(10, 0)] [(2, m.toNat)] hall hN rfl rfl rfl
  have e3 : xreg N 17 = d := xreg_eq (seg [(4, 10), (5, 9)] [(5, d.val)] [(5, a.val), (10, 0), (2, m.toNat)] hall hN (hz_one _ _))
  have e4 : xreg N 12 = a := xreg_eq (seg [(4, 10), (5, 9), (5, d.val)] [(5, a.val)] [(10, 0), (2, m.toNat)] hall hN (hz_one _ _))
  have e5 : imm N 2 0 = m := imm_eq (seg [(4, 10), (5, 9), (5, d.val), (5, a.val), (10, 0)] [(2, m.toNat)] [] hall hN (hz_one _ _))
  rw [decodeFields, e0]; show decodeFB N = _; rw [decodeFB, e1]; show (if bits N 11 2 == 0 then some (Instr.fcnt (xreg N 17) (xreg N 12) (imm N 2 0)) else none) = _
  simp only [e2, e3, e4, e5, beq_self_eq_true, ↓reduceIte]

theorem fseat (d : XReg) : Statement (.fseat d) := by
  have hall : Fits [(4, 10), (5, 10), (5, d.val), (17, 0)] := all_cons (by decide) (all_cons (by decide) (all_cons (d.isLt) (all_cons (by decide) (all_nil))))
  refine of_segs rfl [(4, 10), (5, 10), (5, d.val), (17, 0)] rfl trivial hall (by simp only [pack, hz, List.foldl]; omega) (fun N Q hN => ?_)
  have e0 : bits N 30 27 = 10 := bits_seg [] [(4, 10)] [(5, 10), (5, d.val), (17, 0)] hall hN rfl rfl rfl
  have e1 : bits N 26 22 = 10 := bits_seg [(4, 10)] [(5, 10)] [(5, d.val), (17, 0)] hall hN rfl rfl rfl
  have e2 : bits N 16 0 = 0 := bits_seg [(4, 10), (5, 10), (5, d.val)] [(17, 0)] [] hall hN rfl rfl rfl
  have e3 : xreg N 17 = d := xreg_eq (seg [(4, 10), (5, 10)] [(5, d.val)] [(17, 0)] hall hN (hz_one _ _))
  rw [decodeFields, e0]; show decodeFB N = _; rw [decodeFB, e1]; show (if bits N 16 0 == 0 then some (Instr.fseat (xreg N 17)) else none) = _
  simp only [e2, e3, beq_self_eq_true, ↓reduceIte]

theorem rgload (a : XReg) (n : Fin 4) : Statement (.rgload a n) := by
  have hall : Fits [(4, 10), (5, 11), (5, 0), (5, a.val), (10, 0), (2, n.val)] := all_cons (by decide) (all_cons (by decide) (all_cons (by decide) (all_cons (a.isLt) (all_cons (by decide) (all_cons (n.isLt) (all_nil))))))
  refine of_segs rfl [(4, 10), (5, 11), (5, 0), (5, a.val), (10, 0), (2, n.val)] rfl trivial hall (by simp only [pack, hz, List.foldl]; omega) (fun N Q hN => ?_)
  have e0 : bits N 30 27 = 10 := bits_seg [] [(4, 10)] [(5, 11), (5, 0), (5, a.val), (10, 0), (2, n.val)] hall hN rfl rfl rfl
  have e1 : bits N 26 22 = 11 := bits_seg [(4, 10)] [(5, 11)] [(5, 0), (5, a.val), (10, 0), (2, n.val)] hall hN rfl rfl rfl
  have e2 : bits N 11 2 = 0 := bits_seg [(4, 10), (5, 11), (5, 0), (5, a.val)] [(10, 0)] [(2, n.val)] hall hN rfl rfl rfl
  have e3 : bits N 21 17 = 0 := bits_seg [(4, 10), (5, 11)] [(5, 0)] [(5, a.val), (10, 0), (2, n.val)] hall hN rfl rfl rfl
  have e4 : xreg N 12 = a := xreg_eq (seg [(4, 10), (5, 11), (5, 0)] [(5, a.val)] [(10, 0), (2, n.val)] hall hN (hz_one _ _))
  have e5 : fin4 N 0 = n := fin4_eq (seg [(4, 10), (5, 11), (5, 0), (5, a.val), (10, 0)] [(2, n.val)] [] hall hN (hz_one _ _))
  rw [decodeFields, e0]; show decodeFB N = _; rw [decodeFB, e1]; show (if bits N 11 2 == 0 && bits N 21 17 == 0 then some (Instr.rgload (xreg N 12) (fin4 N 0)) else none) = _
  simp only [e2, e3, e4, e5, beq_self_eq_true, ↓reduceIte, Bool.and_self]

theorem rgplay (d : XReg) (a : XReg) (b : XReg) (n : Fin 4) : Statement (.rgplay d a b n) := by
  have hall : Fits [(4, 10), (5, 12), (5, d.val), (5, a.val), (5, b.val), (5, 0), (2, n.val)] := all_cons (by decide) (all_cons (by decide) (all_cons (d.isLt) (all_cons (a.isLt) (all_cons (b.isLt) (all_cons (by decide) (all_cons (n.isLt) (all_nil)))))))
  refine of_segs rfl [(4, 10), (5, 12), (5, d.val), (5, a.val), (5, b.val), (5, 0), (2, n.val)] rfl trivial hall (by simp only [pack, hz, List.foldl]; omega) (fun N Q hN => ?_)
  have e0 : bits N 30 27 = 10 := bits_seg [] [(4, 10)] [(5, 12), (5, d.val), (5, a.val), (5, b.val), (5, 0), (2, n.val)] hall hN rfl rfl rfl
  have e1 : bits N 26 22 = 12 := bits_seg [(4, 10)] [(5, 12)] [(5, d.val), (5, a.val), (5, b.val), (5, 0), (2, n.val)] hall hN rfl rfl rfl
  have e2 : bits N 6 2 = 0 := bits_seg [(4, 10), (5, 12), (5, d.val), (5, a.val), (5, b.val)] [(5, 0)] [(2, n.val)] hall hN rfl rfl rfl
  have e3 : xreg N 17 = d := xreg_eq (seg [(4, 10), (5, 12)] [(5, d.val)] [(5, a.val), (5, b.val), (5, 0), (2, n.val)] hall hN (hz_one _ _))
  have e4 : xreg N 12 = a := xreg_eq (seg [(4, 10), (5, 12), (5, d.val)] [(5, a.val)] [(5, b.val), (5, 0), (2, n.val)] hall hN (hz_one _ _))
  have e5 : xreg N 7 = b := xreg_eq (seg [(4, 10), (5, 12), (5, d.val), (5, a.val)] [(5, b.val)] [(5, 0), (2, n.val)] hall hN (hz_one _ _))
  have e6 : fin4 N 0 = n := fin4_eq (seg [(4, 10), (5, 12), (5, d.val), (5, a.val), (5, b.val), (5, 0)] [(2, n.val)] [] hall hN (hz_one _ _))
  rw [decodeFields, e0]; show decodeFB N = _; rw [decodeFB, e1]; show (if bits N 6 2 == 0 then some (Instr.rgplay (xreg N 17) (xreg N 12) (xreg N 7) (fin4 N 0)) else none) = _
  simp only [e2, e3, e4, e5, e6, beq_self_eq_true, ↓reduceIte]

theorem rgwait (d : XReg) (n : Fin 4) : Statement (.rgwait d n) := by
  have hall : Fits [(4, 10), (5, 13), (5, d.val), (15, 0), (2, n.val)] := all_cons (by decide) (all_cons (by decide) (all_cons (d.isLt) (all_cons (by decide) (all_cons (n.isLt) (all_nil)))))
  refine of_segs rfl [(4, 10), (5, 13), (5, d.val), (15, 0), (2, n.val)] rfl trivial hall (by simp only [pack, hz, List.foldl]; omega) (fun N Q hN => ?_)
  have e0 : bits N 30 27 = 10 := bits_seg [] [(4, 10)] [(5, 13), (5, d.val), (15, 0), (2, n.val)] hall hN rfl rfl rfl
  have e1 : bits N 26 22 = 13 := bits_seg [(4, 10)] [(5, 13)] [(5, d.val), (15, 0), (2, n.val)] hall hN rfl rfl rfl
  have e2 : bits N 16 2 = 0 := bits_seg [(4, 10), (5, 13), (5, d.val)] [(15, 0)] [(2, n.val)] hall hN rfl rfl rfl
  have e3 : xreg N 17 = d := xreg_eq (seg [(4, 10), (5, 13)] [(5, d.val)] [(15, 0), (2, n.val)] hall hN (hz_one _ _))
  have e4 : fin4 N 0 = n := fin4_eq (seg [(4, 10), (5, 13), (5, d.val), (15, 0)] [(2, n.val)] [] hall hN (hz_one _ _))
  rw [decodeFields, e0]; show decodeFB N = _; rw [decodeFB, e1]; show (if bits N 16 2 == 0 then some (Instr.rgwait (xreg N 17) (fin4 N 0)) else none) = _
  simp only [e2, e3, e4, beq_self_eq_true, ↓reduceIte]

theorem rgstat (d : XReg) (a : XReg) (n : Fin 4) : Statement (.rgstat d a n) := by
  have hall : Fits [(4, 10), (5, 14), (5, d.val), (5, a.val), (10, 0), (2, n.val)] := all_cons (by decide) (all_cons (by decide) (all_cons (d.isLt) (all_cons (a.isLt) (all_cons (by decide) (all_cons (n.isLt) (all_nil))))))
  refine of_segs rfl [(4, 10), (5, 14), (5, d.val), (5, a.val), (10, 0), (2, n.val)] rfl trivial hall (by simp only [pack, hz, List.foldl]; omega) (fun N Q hN => ?_)
  have e0 : bits N 30 27 = 10 := bits_seg [] [(4, 10)] [(5, 14), (5, d.val), (5, a.val), (10, 0), (2, n.val)] hall hN rfl rfl rfl
  have e1 : bits N 26 22 = 14 := bits_seg [(4, 10)] [(5, 14)] [(5, d.val), (5, a.val), (10, 0), (2, n.val)] hall hN rfl rfl rfl
  have e2 : bits N 11 2 = 0 := bits_seg [(4, 10), (5, 14), (5, d.val), (5, a.val)] [(10, 0)] [(2, n.val)] hall hN rfl rfl rfl
  have e3 : xreg N 17 = d := xreg_eq (seg [(4, 10), (5, 14)] [(5, d.val)] [(5, a.val), (10, 0), (2, n.val)] hall hN (hz_one _ _))
  have e4 : xreg N 12 = a := xreg_eq (seg [(4, 10), (5, 14), (5, d.val)] [(5, a.val)] [(10, 0), (2, n.val)] hall hN (hz_one _ _))
  have e5 : fin4 N 0 = n := fin4_eq (seg [(4, 10), (5, 14), (5, d.val), (5, a.val), (10, 0)] [(2, n.val)] [] hall hN (hz_one _ _))
  rw [decodeFields, e0]; show decodeFB N = _; rw [decodeFB, e1]; show (if bits N 11 2 == 0 then some (Instr.rgstat (xreg N 17) (xreg N 12) (fin4 N 0)) else none) = _
  simp only [e2, e3, e4, e5, beq_self_eq_true, ↓reduceIte]

theorem rgfree (n : Fin 4) : Statement (.rgfree n) := by
  have hall : Fits [(4, 10), (5, 15), (20, 0), (2, n.val)] := all_cons (by decide) (all_cons (by decide) (all_cons (by decide) (all_cons (n.isLt) (all_nil))))
  refine of_segs rfl [(4, 10), (5, 15), (20, 0), (2, n.val)] rfl trivial hall (by simp only [pack, hz, List.foldl]; omega) (fun N Q hN => ?_)
  have e0 : bits N 30 27 = 10 := bits_seg [] [(4, 10)] [(5, 15), (20, 0), (2, n.val)] hall hN rfl rfl rfl
  have e1 : bits N 26 22 = 15 := bits_seg [(4, 10)] [(5, 15)] [(20, 0), (2, n.val)] hall hN rfl rfl rfl
  have e2 : bits N 21 2 = 0 := bits_seg [(4, 10), (5, 15)] [(20, 0)] [(2, n.val)] hall hN rfl rfl rfl
  have e3 : fin4 N 0 = n := fin4_eq (seg [(4, 10), (5, 15), (20, 0)] [(2, n.val)] [] hall hN (hz_one _ _))
  rw [decodeFields, e0]; show decodeFB N = _; rw [decodeFB, e1]; show (if bits N 21 2 == 0 then some (Instr.rgfree (fin4 N 0)) else none) = _
  simp only [e2, e3, beq_self_eq_true, ↓reduceIte]

theorem reshelve (a : XReg) (n : Fin 4) : Statement (.reshelve a n) := by
  have hall : Fits [(4, 10), (5, 16), (5, 0), (5, a.val), (10, 0), (2, n.val)] := all_cons (by decide) (all_cons (by decide) (all_cons (by decide) (all_cons (a.isLt) (all_cons (by decide) (all_cons (n.isLt) (all_nil))))))
  refine of_segs rfl [(4, 10), (5, 16), (5, 0), (5, a.val), (10, 0), (2, n.val)] rfl trivial hall (by simp only [pack, hz, List.foldl]; omega) (fun N Q hN => ?_)
  have e0 : bits N 30 27 = 10 := bits_seg [] [(4, 10)] [(5, 16), (5, 0), (5, a.val), (10, 0), (2, n.val)] hall hN rfl rfl rfl
  have e1 : bits N 26 22 = 16 := bits_seg [(4, 10)] [(5, 16)] [(5, 0), (5, a.val), (10, 0), (2, n.val)] hall hN rfl rfl rfl
  have e2 : bits N 11 2 = 0 := bits_seg [(4, 10), (5, 16), (5, 0), (5, a.val)] [(10, 0)] [(2, n.val)] hall hN rfl rfl rfl
  have e3 : bits N 21 17 = 0 := bits_seg [(4, 10), (5, 16)] [(5, 0)] [(5, a.val), (10, 0), (2, n.val)] hall hN rfl rfl rfl
  have e4 : xreg N 12 = a := xreg_eq (seg [(4, 10), (5, 16), (5, 0)] [(5, a.val)] [(10, 0), (2, n.val)] hall hN (hz_one _ _))
  have e5 : fin4 N 0 = n := fin4_eq (seg [(4, 10), (5, 16), (5, 0), (5, a.val), (10, 0)] [(2, n.val)] [] hall hN (hz_one _ _))
  rw [decodeFields, e0]; show decodeFB N = _; rw [decodeFB, e1]; show (if bits N 11 2 == 0 && bits N 21 17 == 0 then some (Instr.reshelve (xreg N 12) (fin4 N 0)) else none) = _
  simp only [e2, e3, e4, e5, beq_self_eq_true, ↓reduceIte, Bool.and_self]

theorem bar (c : Scope) (b : Fin 16) : Statement (.bar c b) := by
  have hall : Fits [(4, 11), (5, 0), (10, 0), (3, c.code), (5, 0), (4, b.val)] := all_cons (by decide) (all_cons (by decide) (all_cons (by decide) (all_cons (Scope.code_lt c) (all_cons (by decide) (all_cons (b.isLt) (all_nil))))))
  refine of_segs rfl [(4, 11), (5, 0), (10, 0), (3, c.code), (5, 0), (4, b.val)] rfl trivial hall (by simp only [pack, hz, List.foldl]; omega) (fun N Q hN => ?_)
  have e0 : bits N 30 27 = 11 := bits_seg [] [(4, 11)] [(5, 0), (10, 0), (3, c.code), (5, 0), (4, b.val)] hall hN rfl rfl rfl
  have e1 : bits N 26 22 = 0 := bits_seg [(4, 11)] [(5, 0)] [(10, 0), (3, c.code), (5, 0), (4, b.val)] hall hN rfl rfl rfl
  have e2 : bits N 8 4 = 0 := bits_seg [(4, 11), (5, 0), (10, 0), (3, c.code)] [(5, 0)] [(4, b.val)] hall hN rfl rfl rfl
  have e3 : bits N 21 12 = 0 := bits_seg [(4, 11), (5, 0)] [(10, 0)] [(3, c.code), (5, 0), (4, b.val)] hall hN rfl rfl rfl
  have e4 : bits N 11 9 = c.code := bits_seg [(4, 11), (5, 0), (10, 0)] [(3, c.code)] [(5, 0), (4, b.val)] hall hN (hz_one _ _) rfl rfl
  have e5 : fin16 N 0 = b := fin16_eq (seg [(4, 11), (5, 0), (10, 0), (3, c.code), (5, 0)] [(4, b.val)] [] hall hN (hz_one _ _))
  rw [decodeFields, e0]; show decodeSY N = _; rw [decodeSY, e1]; show (if bits N 8 4 == 0 && bits N 21 12 == 0 then (Scope.ofCode (bits N 11 9)).bind (fun c => some (Instr.bar c (fin16 N 0))) else none) = _
  simp only [e2, e3, e4, e5, Scope.ofCode_code, Option.bind_some, beq_self_eq_true, ↓reduceIte, Bool.and_self]

theorem tkt (d : XReg) (c : Scope) : Statement (.tkt d c) := by
  have hall : Fits [(4, 11), (5, 1), (5, d.val), (5, 0), (3, c.code), (9, 0)] := all_cons (by decide) (all_cons (by decide) (all_cons (d.isLt) (all_cons (by decide) (all_cons (Scope.code_lt c) (all_cons (by decide) (all_nil))))))
  refine of_segs rfl [(4, 11), (5, 1), (5, d.val), (5, 0), (3, c.code), (9, 0)] rfl trivial hall (by simp only [pack, hz, List.foldl]; omega) (fun N Q hN => ?_)
  have e0 : bits N 30 27 = 11 := bits_seg [] [(4, 11)] [(5, 1), (5, d.val), (5, 0), (3, c.code), (9, 0)] hall hN rfl rfl rfl
  have e1 : bits N 26 22 = 1 := bits_seg [(4, 11)] [(5, 1)] [(5, d.val), (5, 0), (3, c.code), (9, 0)] hall hN rfl rfl rfl
  have e2 : bits N 8 0 = 0 := bits_seg [(4, 11), (5, 1), (5, d.val), (5, 0), (3, c.code)] [(9, 0)] [] hall hN rfl rfl rfl
  have e3 : bits N 16 12 = 0 := bits_seg [(4, 11), (5, 1), (5, d.val)] [(5, 0)] [(3, c.code), (9, 0)] hall hN rfl rfl rfl
  have e4 : bits N 11 9 = c.code := bits_seg [(4, 11), (5, 1), (5, d.val), (5, 0)] [(3, c.code)] [(9, 0)] hall hN (hz_one _ _) rfl rfl
  have e5 : xreg N 17 = d := xreg_eq (seg [(4, 11), (5, 1)] [(5, d.val)] [(5, 0), (3, c.code), (9, 0)] hall hN (hz_one _ _))
  rw [decodeFields, e0]; show decodeSY N = _; rw [decodeSY, e1]; show (if bits N 8 0 == 0 && bits N 16 12 == 0 then (Scope.ofCode (bits N 11 9)).bind (fun c => some (Instr.tkt (xreg N 17) c)) else none) = _
  simp only [e2, e3, e4, e5, Scope.ofCode_code, Option.bind_some, beq_self_eq_true, ↓reduceIte, Bool.and_self]

theorem tktn (d : XReg) (a : XReg) (c : Scope) : Statement (.tktn d a c) := by
  have hall : Fits [(4, 11), (5, 2), (5, d.val), (5, a.val), (3, c.code), (9, 0)] := all_cons (by decide) (all_cons (by decide) (all_cons (d.isLt) (all_cons (a.isLt) (all_cons (Scope.code_lt c) (all_cons (by decide) (all_nil))))))
  refine of_segs rfl [(4, 11), (5, 2), (5, d.val), (5, a.val), (3, c.code), (9, 0)] rfl trivial hall (by simp only [pack, hz, List.foldl]; omega) (fun N Q hN => ?_)
  have e0 : bits N 30 27 = 11 := bits_seg [] [(4, 11)] [(5, 2), (5, d.val), (5, a.val), (3, c.code), (9, 0)] hall hN rfl rfl rfl
  have e1 : bits N 26 22 = 2 := bits_seg [(4, 11)] [(5, 2)] [(5, d.val), (5, a.val), (3, c.code), (9, 0)] hall hN rfl rfl rfl
  have e2 : bits N 8 0 = 0 := bits_seg [(4, 11), (5, 2), (5, d.val), (5, a.val), (3, c.code)] [(9, 0)] [] hall hN rfl rfl rfl
  have e3 : bits N 11 9 = c.code := bits_seg [(4, 11), (5, 2), (5, d.val), (5, a.val)] [(3, c.code)] [(9, 0)] hall hN (hz_one _ _) rfl rfl
  have e4 : xreg N 17 = d := xreg_eq (seg [(4, 11), (5, 2)] [(5, d.val)] [(5, a.val), (3, c.code), (9, 0)] hall hN (hz_one _ _))
  have e5 : xreg N 12 = a := xreg_eq (seg [(4, 11), (5, 2), (5, d.val)] [(5, a.val)] [(3, c.code), (9, 0)] hall hN (hz_one _ _))
  rw [decodeFields, e0]; show decodeSY N = _; rw [decodeSY, e1]; show (if bits N 8 0 == 0 then (Scope.ofCode (bits N 11 9)).bind (fun c => some (Instr.tktn (xreg N 17) (xreg N 12) c)) else none) = _
  simp only [e2, e3, e4, e5, Scope.ofCode_code, Option.bind_some, beq_self_eq_true, ↓reduceIte]

theorem launch (d : XReg) (a : XReg) : Statement (.launch d a) := by
  have hall : Fits [(4, 11), (5, 3), (5, d.val), (5, a.val), (12, 512)] := all_cons (by decide) (all_cons (by decide) (all_cons (d.isLt) (all_cons (a.isLt) (all_cons (by decide) (all_nil)))))
  refine of_segs rfl [(4, 11), (5, 3), (5, d.val), (5, a.val), (12, 512)] rfl trivial hall (by simp only [pack, hz, List.foldl]; omega) (fun N Q hN => ?_)
  have e0 : bits N 30 27 = 11 := bits_seg [] [(4, 11)] [(5, 3), (5, d.val), (5, a.val), (12, 512)] hall hN rfl rfl rfl
  have e1 : bits N 26 22 = 3 := bits_seg [(4, 11)] [(5, 3)] [(5, d.val), (5, a.val), (12, 512)] hall hN rfl rfl rfl
  have e2 : bits N 11 0 = 512 := bits_seg [(4, 11), (5, 3), (5, d.val), (5, a.val)] [(12, 512)] [] hall hN rfl rfl rfl
  have e3 : xreg N 17 = d := xreg_eq (seg [(4, 11), (5, 3)] [(5, d.val)] [(5, a.val), (12, 512)] hall hN (hz_one _ _))
  have e4 : xreg N 12 = a := xreg_eq (seg [(4, 11), (5, 3), (5, d.val)] [(5, a.val)] [(12, 512)] hall hN (hz_one _ _))
  rw [decodeFields, e0]; show decodeSY N = _; rw [decodeSY, e1]; show (if bits N 11 0 == 512 then some (Instr.launch (xreg N 17) (xreg N 12)) else none) = _
  simp [e2, e3, e4, beq_self_eq_true, ↓reduceIte]

theorem lwait (d : XReg) (a : XReg) : Statement (.lwait d a) := by
  have hall : Fits [(4, 11), (5, 4), (5, d.val), (5, a.val), (12, 512)] := all_cons (by decide) (all_cons (by decide) (all_cons (d.isLt) (all_cons (a.isLt) (all_cons (by decide) (all_nil)))))
  refine of_segs rfl [(4, 11), (5, 4), (5, d.val), (5, a.val), (12, 512)] rfl trivial hall (by simp only [pack, hz, List.foldl]; omega) (fun N Q hN => ?_)
  have e0 : bits N 30 27 = 11 := bits_seg [] [(4, 11)] [(5, 4), (5, d.val), (5, a.val), (12, 512)] hall hN rfl rfl rfl
  have e1 : bits N 26 22 = 4 := bits_seg [(4, 11)] [(5, 4)] [(5, d.val), (5, a.val), (12, 512)] hall hN rfl rfl rfl
  have e2 : bits N 11 0 = 512 := bits_seg [(4, 11), (5, 4), (5, d.val), (5, a.val)] [(12, 512)] [] hall hN rfl rfl rfl
  have e3 : xreg N 17 = d := xreg_eq (seg [(4, 11), (5, 4)] [(5, d.val)] [(5, a.val), (12, 512)] hall hN (hz_one _ _))
  have e4 : xreg N 12 = a := xreg_eq (seg [(4, 11), (5, 4), (5, d.val)] [(5, a.val)] [(12, 512)] hall hN (hz_one _ _))
  rw [decodeFields, e0]; show decodeSY N = _; rw [decodeSY, e1]; show (if bits N 11 0 == 512 then some (Instr.lwait (xreg N 17) (xreg N 12)) else none) = _
  simp [e2, e3, e4, beq_self_eq_true, ↓reduceIte]

theorem eta (a : XReg) : Statement (.eta a) := by
  have hall : Fits [(4, 11), (5, 5), (5, 0), (5, a.val), (12, 512)] := all_cons (by decide) (all_cons (by decide) (all_cons (by decide) (all_cons (a.isLt) (all_cons (by decide) (all_nil)))))
  refine of_segs rfl [(4, 11), (5, 5), (5, 0), (5, a.val), (12, 512)] rfl trivial hall (by simp only [pack, hz, List.foldl]; omega) (fun N Q hN => ?_)
  have e0 : bits N 30 27 = 11 := bits_seg [] [(4, 11)] [(5, 5), (5, 0), (5, a.val), (12, 512)] hall hN rfl rfl rfl
  have e1 : bits N 26 22 = 5 := bits_seg [(4, 11)] [(5, 5)] [(5, 0), (5, a.val), (12, 512)] hall hN rfl rfl rfl
  have e2 : bits N 11 0 = 512 := bits_seg [(4, 11), (5, 5), (5, 0), (5, a.val)] [(12, 512)] [] hall hN rfl rfl rfl
  have e3 : bits N 21 17 = 0 := bits_seg [(4, 11), (5, 5)] [(5, 0)] [(5, a.val), (12, 512)] hall hN rfl rfl rfl
  have e4 : xreg N 12 = a := xreg_eq (seg [(4, 11), (5, 5), (5, 0)] [(5, a.val)] [(12, 512)] hall hN (hz_one _ _))
  rw [decodeFields, e0]; show decodeSY N = _; rw [decodeSY, e1]; show (if bits N 11 0 == 512 && bits N 21 17 == 0 then some (Instr.eta (xreg N 12)) else none) = _
  simp [e2, e3, e4, beq_self_eq_true, ↓reduceIte, Bool.and_self]

theorem endt : Statement (.endt) := by
  have hall : Fits [(4, 11), (5, 6), (22, 512)] := all_cons (by decide) (all_cons (by decide) (all_cons (by decide) (all_nil)))
  refine of_segs rfl [(4, 11), (5, 6), (22, 512)] rfl trivial hall (by simp only [pack, hz, List.foldl]; omega) (fun N Q hN => ?_)
  have e0 : bits N 30 27 = 11 := bits_seg [] [(4, 11)] [(5, 6), (22, 512)] hall hN rfl rfl rfl
  have e1 : bits N 26 22 = 6 := bits_seg [(4, 11)] [(5, 6)] [(22, 512)] hall hN rfl rfl rfl
  have e2 : bits N 21 0 = 512 := bits_seg [(4, 11), (5, 6)] [(22, 512)] [] hall hN rfl rfl rfl
  rw [decodeFields, e0]; show decodeSY N = _; rw [decodeSY, e1]; show (if bits N 21 0 == 512 then some Instr.endt else none) = _
  simp [e2, beq_self_eq_true, ↓reduceIte]

theorem ssend (a : XReg) : Statement (.ssend a) := by
  have hall : Fits [(4, 11), (5, 7), (5, 0), (5, a.val), (12, 512)] := all_cons (by decide) (all_cons (by decide) (all_cons (by decide) (all_cons (a.isLt) (all_cons (by decide) (all_nil)))))
  refine of_segs rfl [(4, 11), (5, 7), (5, 0), (5, a.val), (12, 512)] rfl trivial hall (by simp only [pack, hz, List.foldl]; omega) (fun N Q hN => ?_)
  have e0 : bits N 30 27 = 11 := bits_seg [] [(4, 11)] [(5, 7), (5, 0), (5, a.val), (12, 512)] hall hN rfl rfl rfl
  have e1 : bits N 26 22 = 7 := bits_seg [(4, 11)] [(5, 7)] [(5, 0), (5, a.val), (12, 512)] hall hN rfl rfl rfl
  have e2 : bits N 11 0 = 512 := bits_seg [(4, 11), (5, 7), (5, 0), (5, a.val)] [(12, 512)] [] hall hN rfl rfl rfl
  have e3 : bits N 21 17 = 0 := bits_seg [(4, 11), (5, 7)] [(5, 0)] [(5, a.val), (12, 512)] hall hN rfl rfl rfl
  have e4 : xreg N 12 = a := xreg_eq (seg [(4, 11), (5, 7), (5, 0)] [(5, a.val)] [(12, 512)] hall hN (hz_one _ _))
  rw [decodeFields, e0]; show decodeSY N = _; rw [decodeSY, e1]; show (if bits N 11 0 == 512 && bits N 21 17 == 0 then some (Instr.ssend (xreg N 12)) else none) = _
  simp [e2, e3, e4, beq_self_eq_true, ↓reduceIte, Bool.and_self]

theorem prio (a : XReg) (q : Fin 16) : Statement (.prio a q) := by
  have hall : Fits [(4, 11), (5, 8), (5, 0), (5, a.val), (8, 32), (4, q.val)] := all_cons (by decide) (all_cons (by decide) (all_cons (by decide) (all_cons (a.isLt) (all_cons (by decide) (all_cons (q.isLt) (all_nil))))))
  refine of_segs rfl [(4, 11), (5, 8), (5, 0), (5, a.val), (8, 32), (4, q.val)] rfl trivial hall (by simp only [pack, hz, List.foldl]; omega) (fun N Q hN => ?_)
  have e0 : bits N 30 27 = 11 := bits_seg [] [(4, 11)] [(5, 8), (5, 0), (5, a.val), (8, 32), (4, q.val)] hall hN rfl rfl rfl
  have e1 : bits N 26 22 = 8 := bits_seg [(4, 11)] [(5, 8)] [(5, 0), (5, a.val), (8, 32), (4, q.val)] hall hN rfl rfl rfl
  have e2 : bits N 11 4 = 32 := bits_seg [(4, 11), (5, 8), (5, 0), (5, a.val)] [(8, 32)] [(4, q.val)] hall hN rfl rfl rfl
  have e3 : bits N 21 17 = 0 := bits_seg [(4, 11), (5, 8)] [(5, 0)] [(5, a.val), (8, 32), (4, q.val)] hall hN rfl rfl rfl
  have e4 : xreg N 12 = a := xreg_eq (seg [(4, 11), (5, 8), (5, 0)] [(5, a.val)] [(8, 32), (4, q.val)] hall hN (hz_one _ _))
  have e5 : fin16 N 0 = q := fin16_eq (seg [(4, 11), (5, 8), (5, 0), (5, a.val), (8, 32)] [(4, q.val)] [] hall hN (hz_one _ _))
  rw [decodeFields, e0]; show decodeSY N = _; rw [decodeSY, e1]; show (if bits N 11 4 == 32 && bits N 21 17 == 0 then some (Instr.prio (xreg N 12) (fin16 N 0)) else none) = _
  simp [e2, e3, e4, e5, beq_self_eq_true, ↓reduceIte, Bool.and_self]

theorem nodeid (d : XReg) (e : BitVec 3) : Statement (.nodeid d e) := by
  have hall : Fits [(4, 11), (5, 9), (5, d.val), (14, 64), (3, e.toNat)] := all_cons (by decide) (all_cons (by decide) (all_cons (d.isLt) (all_cons (by decide) (all_cons (e.isLt) (all_nil)))))
  refine of_segs rfl [(4, 11), (5, 9), (5, d.val), (14, 64), (3, e.toNat)] rfl trivial hall (by simp only [pack, hz, List.foldl]; omega) (fun N Q hN => ?_)
  have e0 : bits N 30 27 = 11 := bits_seg [] [(4, 11)] [(5, 9), (5, d.val), (14, 64), (3, e.toNat)] hall hN rfl rfl rfl
  have e1 : bits N 26 22 = 9 := bits_seg [(4, 11)] [(5, 9)] [(5, d.val), (14, 64), (3, e.toNat)] hall hN rfl rfl rfl
  have e2 : bits N 16 3 = 64 := bits_seg [(4, 11), (5, 9), (5, d.val)] [(14, 64)] [(3, e.toNat)] hall hN rfl rfl rfl
  have e3 : xreg N 17 = d := xreg_eq (seg [(4, 11), (5, 9)] [(5, d.val)] [(14, 64), (3, e.toNat)] hall hN (hz_one _ _))
  have e4 : imm N 3 0 = e := imm_eq (seg [(4, 11), (5, 9), (5, d.val), (14, 64)] [(3, e.toNat)] [] hall hN (hz_one _ _))
  rw [decodeFields, e0]; show decodeSY N = _; rw [decodeSY, e1]; show (if bits N 16 3 == 64 then some (Instr.nodeid (xreg N 17) (imm N 3 0)) else none) = _
  simp [e2, e3, e4, beq_self_eq_true, ↓reduceIte]

theorem tileid (d : XReg) (e : BitVec 3) : Statement (.tileid d e) := by
  have hall : Fits [(4, 11), (5, 10), (5, d.val), (14, 64), (3, e.toNat)] := all_cons (by decide) (all_cons (by decide) (all_cons (d.isLt) (all_cons (by decide) (all_cons (e.isLt) (all_nil)))))
  refine of_segs rfl [(4, 11), (5, 10), (5, d.val), (14, 64), (3, e.toNat)] rfl trivial hall (by simp only [pack, hz, List.foldl]; omega) (fun N Q hN => ?_)
  have e0 : bits N 30 27 = 11 := bits_seg [] [(4, 11)] [(5, 10), (5, d.val), (14, 64), (3, e.toNat)] hall hN rfl rfl rfl
  have e1 : bits N 26 22 = 10 := bits_seg [(4, 11)] [(5, 10)] [(5, d.val), (14, 64), (3, e.toNat)] hall hN rfl rfl rfl
  have e2 : bits N 16 3 = 64 := bits_seg [(4, 11), (5, 10), (5, d.val)] [(14, 64)] [(3, e.toNat)] hall hN rfl rfl rfl
  have e3 : xreg N 17 = d := xreg_eq (seg [(4, 11), (5, 10)] [(5, d.val)] [(14, 64), (3, e.toNat)] hall hN (hz_one _ _))
  have e4 : imm N 3 0 = e := imm_eq (seg [(4, 11), (5, 10), (5, d.val), (14, 64)] [(3, e.toNat)] [] hall hN (hz_one _ _))
  rw [decodeFields, e0]; show decodeSY N = _; rw [decodeSY, e1]; show (if bits N 16 3 == 64 then some (Instr.tileid (xreg N 17) (imm N 3 0)) else none) = _
  simp [e2, e3, e4, beq_self_eq_true, ↓reduceIte]

theorem trap (n : BitVec 7) : Statement (.trap n) := by
  have hall : Fits [(4, 13), (6, 0), (14, 0), (7, n.toNat)] := all_cons (by decide) (all_cons (by decide) (all_cons (by decide) (all_cons (n.isLt) (all_nil))))
  refine of_segs rfl [(4, 13), (6, 0), (14, 0), (7, n.toNat)] rfl trivial hall (by simp only [pack, hz, List.foldl]; omega) (fun N Q hN => ?_)
  have e0 : bits N 30 27 = 13 := bits_seg [] [(4, 13)] [(6, 0), (14, 0), (7, n.toNat)] hall hN rfl rfl rfl
  have e1 : bits N 26 21 = 0 := bits_seg [(4, 13)] [(6, 0)] [(14, 0), (7, n.toNat)] hall hN rfl rfl rfl
  have e2 : bits N 20 7 = 0 := bits_seg [(4, 13), (6, 0)] [(14, 0)] [(7, n.toNat)] hall hN rfl rfl rfl
  have e3 : imm N 7 0 = n := imm_eq (seg [(4, 13), (6, 0), (14, 0)] [(7, n.toNat)] [] hall hN (hz_one _ _))
  rw [decodeFields, e0]; show decodeSX N = _; rw [decodeSX, e1]; show (if bits N 20 7 == 0 then some (Instr.trap (imm N 7 0)) else none) = _
  simp only [e2, e3, beq_self_eq_true, ↓reduceIte]

theorem rft : Statement (.rft) := by
  have hall : Fits [(4, 13), (6, 1), (21, 0)] := all_cons (by decide) (all_cons (by decide) (all_cons (by decide) (all_nil)))
  refine of_segs rfl [(4, 13), (6, 1), (21, 0)] rfl trivial hall (by simp only [pack, hz, List.foldl]; omega) (fun N Q hN => ?_)
  have e0 : bits N 30 27 = 13 := bits_seg [] [(4, 13)] [(6, 1), (21, 0)] hall hN rfl rfl rfl
  have e1 : bits N 26 21 = 1 := bits_seg [(4, 13)] [(6, 1)] [(21, 0)] hall hN rfl rfl rfl
  have e2 : bits N 20 0 = 0 := bits_seg [(4, 13), (6, 1)] [(21, 0)] [] hall hN rfl rfl rfl
  rw [decodeFields, e0]; show decodeSX N = _; rw [decodeSX, e1]; show (if bits N 20 0 == 0 then some Instr.rft else (if bits N 20 0 == 1 then some Instr.rftAbort else (if bits N 20 0 == 2 then some Instr.rftReplay else none))) = _
  simp [e2, beq_self_eq_true, ↓reduceIte]

theorem rftAbort : Statement (.rftAbort) := by
  have hall : Fits [(4, 13), (6, 1), (21, 1)] := all_cons (by decide) (all_cons (by decide) (all_cons (by decide) (all_nil)))
  refine of_segs rfl [(4, 13), (6, 1), (21, 1)] rfl trivial hall (by simp only [pack, hz, List.foldl]; omega) (fun N Q hN => ?_)
  have e0 : bits N 30 27 = 13 := bits_seg [] [(4, 13)] [(6, 1), (21, 1)] hall hN rfl rfl rfl
  have e1 : bits N 26 21 = 1 := bits_seg [(4, 13)] [(6, 1)] [(21, 1)] hall hN rfl rfl rfl
  have e2 : bits N 20 0 = 1 := bits_seg [(4, 13), (6, 1)] [(21, 1)] [] hall hN rfl rfl rfl
  rw [decodeFields, e0]; show decodeSX N = _; rw [decodeSX, e1]; show (if bits N 20 0 == 0 then some Instr.rft else (if bits N 20 0 == 1 then some Instr.rftAbort else (if bits N 20 0 == 2 then some Instr.rftReplay else none))) = _
  simp [e2, beq_self_eq_true, ↓reduceIte]

theorem rftReplay : Statement (.rftReplay) := by
  have hall : Fits [(4, 13), (6, 1), (21, 2)] := all_cons (by decide) (all_cons (by decide) (all_cons (by decide) (all_nil)))
  refine of_segs rfl [(4, 13), (6, 1), (21, 2)] rfl trivial hall (by simp only [pack, hz, List.foldl]; omega) (fun N Q hN => ?_)
  have e0 : bits N 30 27 = 13 := bits_seg [] [(4, 13)] [(6, 1), (21, 2)] hall hN rfl rfl rfl
  have e1 : bits N 26 21 = 1 := bits_seg [(4, 13)] [(6, 1)] [(21, 2)] hall hN rfl rfl rfl
  have e2 : bits N 20 0 = 2 := bits_seg [(4, 13), (6, 1)] [(21, 2)] [] hall hN rfl rfl rfl
  rw [decodeFields, e0]; show decodeSX N = _; rw [decodeSX, e1]; show (if bits N 20 0 == 0 then some Instr.rft else (if bits N 20 0 == 1 then some Instr.rftAbort else (if bits N 20 0 == 2 then some Instr.rftReplay else none))) = _
  simp [e2, beq_self_eq_true, ↓reduceIte]

theorem csrr (d : XReg) (i : BitVec 11) : Statement (.csrr d i) := by
  have hall : Fits [(4, 13), (6, 2), (5, d.val), (5, 0), (11, i.toNat)] := all_cons (by decide) (all_cons (by decide) (all_cons (d.isLt) (all_cons (by decide) (all_cons (i.isLt) (all_nil)))))
  refine of_segs rfl [(4, 13), (6, 2), (5, d.val), (5, 0), (11, i.toNat)] rfl trivial hall (by simp only [pack, hz, List.foldl]; omega) (fun N Q hN => ?_)
  have e0 : bits N 30 27 = 13 := bits_seg [] [(4, 13)] [(6, 2), (5, d.val), (5, 0), (11, i.toNat)] hall hN rfl rfl rfl
  have e1 : bits N 26 21 = 2 := bits_seg [(4, 13)] [(6, 2)] [(5, d.val), (5, 0), (11, i.toNat)] hall hN rfl rfl rfl
  have e2 : bits N 15 11 = 0 := bits_seg [(4, 13), (6, 2), (5, d.val)] [(5, 0)] [(11, i.toNat)] hall hN rfl rfl rfl
  have e3 : xreg N 16 = d := xreg_eq (seg [(4, 13), (6, 2)] [(5, d.val)] [(5, 0), (11, i.toNat)] hall hN (hz_one _ _))
  have e4 : imm N 11 0 = i := imm_eq (seg [(4, 13), (6, 2), (5, d.val), (5, 0)] [(11, i.toNat)] [] hall hN (hz_one _ _))
  rw [decodeFields, e0]; show decodeSX N = _; rw [decodeSX, e1]; show (if bits N 15 11 == 0 then some (Instr.csrr (xreg N 16) (imm N 11 0)) else none) = _
  simp only [e2, e3, e4, beq_self_eq_true, ↓reduceIte]

theorem csrw (a : XReg) (i : BitVec 11) : Statement (.csrw a i) := by
  have hall : Fits [(4, 13), (6, 3), (5, 0), (5, a.val), (11, i.toNat)] := all_cons (by decide) (all_cons (by decide) (all_cons (by decide) (all_cons (a.isLt) (all_cons (i.isLt) (all_nil)))))
  refine of_segs rfl [(4, 13), (6, 3), (5, 0), (5, a.val), (11, i.toNat)] rfl trivial hall (by simp only [pack, hz, List.foldl]; omega) (fun N Q hN => ?_)
  have e0 : bits N 30 27 = 13 := bits_seg [] [(4, 13)] [(6, 3), (5, 0), (5, a.val), (11, i.toNat)] hall hN rfl rfl rfl
  have e1 : bits N 26 21 = 3 := bits_seg [(4, 13)] [(6, 3)] [(5, 0), (5, a.val), (11, i.toNat)] hall hN rfl rfl rfl
  have e2 : bits N 20 16 = 0 := bits_seg [(4, 13), (6, 3)] [(5, 0)] [(5, a.val), (11, i.toNat)] hall hN rfl rfl rfl
  have e3 : xreg N 11 = a := xreg_eq (seg [(4, 13), (6, 3), (5, 0)] [(5, a.val)] [(11, i.toNat)] hall hN (hz_one _ _))
  have e4 : imm N 11 0 = i := imm_eq (seg [(4, 13), (6, 3), (5, 0), (5, a.val)] [(11, i.toNat)] [] hall hN (hz_one _ _))
  rw [decodeFields, e0]; show decodeSX N = _; rw [decodeSX, e1]; show (if bits N 20 16 == 0 then some (Instr.csrw (xreg N 11) (imm N 11 0)) else none) = _
  simp only [e2, e3, e4, beq_self_eq_true, ↓reduceIte]

theorem env (e : BitVec 21) : Statement (.env e) := by
  have hall : Fits [(4, 13), (6, 4), (21, e.toNat)] := all_cons (by decide) (all_cons (by decide) (all_cons (e.isLt) (all_nil)))
  refine of_segs rfl [(4, 13), (6, 4), (21, e.toNat)] rfl trivial hall (by simp only [pack, hz, List.foldl]; omega) (fun N Q hN => ?_)
  have e0 : bits N 30 27 = 13 := bits_seg [] [(4, 13)] [(6, 4), (21, e.toNat)] hall hN rfl rfl rfl
  have e1 : bits N 26 21 = 4 := bits_seg [(4, 13)] [(6, 4)] [(21, e.toNat)] hall hN rfl rfl rfl
  have e2 : imm N 21 0 = e := imm_eq (seg [(4, 13), (6, 4)] [(21, e.toNat)] [] hall hN (hz_one _ _))
  rw [decodeFields, e0]; show decodeSX N = _; rw [decodeSX, e1]; show (some (Instr.env (imm N 21 0))) = _
  simp only [e2]

theorem envc : Statement (.envc) := by
  have hall : Fits [(4, 13), (6, 5), (21, 0)] := all_cons (by decide) (all_cons (by decide) (all_cons (by decide) (all_nil)))
  refine of_segs rfl [(4, 13), (6, 5), (21, 0)] rfl trivial hall (by simp only [pack, hz, List.foldl]; omega) (fun N Q hN => ?_)
  have e0 : bits N 30 27 = 13 := bits_seg [] [(4, 13)] [(6, 5), (21, 0)] hall hN rfl rfl rfl
  have e1 : bits N 26 21 = 5 := bits_seg [(4, 13)] [(6, 5)] [(21, 0)] hall hN rfl rfl rfl
  have e2 : bits N 20 0 = 0 := bits_seg [(4, 13), (6, 5)] [(21, 0)] [] hall hN rfl rfl rfl
  rw [decodeFields, e0]; show decodeSX N = _; rw [decodeSX, e1]; show (if bits N 20 0 == 0 then some Instr.envc else none) = _
  simp only [e2, beq_self_eq_true, ↓reduceIte]

theorem xlinv (d : XReg) (a : XReg) (k : BitVec 2) : Statement (.xlinv d a k) := by
  have hall : Fits [(4, 13), (6, 6), (5, d.val), (5, a.val), (9, 0), (2, k.toNat)] := all_cons (by decide) (all_cons (by decide) (all_cons (d.isLt) (all_cons (a.isLt) (all_cons (by decide) (all_cons (k.isLt) (all_nil))))))
  refine of_segs rfl [(4, 13), (6, 6), (5, d.val), (5, a.val), (9, 0), (2, k.toNat)] rfl trivial hall (by simp only [pack, hz, List.foldl]; omega) (fun N Q hN => ?_)
  have e0 : bits N 30 27 = 13 := bits_seg [] [(4, 13)] [(6, 6), (5, d.val), (5, a.val), (9, 0), (2, k.toNat)] hall hN rfl rfl rfl
  have e1 : bits N 26 21 = 6 := bits_seg [(4, 13)] [(6, 6)] [(5, d.val), (5, a.val), (9, 0), (2, k.toNat)] hall hN rfl rfl rfl
  have e2 : bits N 10 2 = 0 := bits_seg [(4, 13), (6, 6), (5, d.val), (5, a.val)] [(9, 0)] [(2, k.toNat)] hall hN rfl rfl rfl
  have e3 : xreg N 16 = d := xreg_eq (seg [(4, 13), (6, 6)] [(5, d.val)] [(5, a.val), (9, 0), (2, k.toNat)] hall hN (hz_one _ _))
  have e4 : xreg N 11 = a := xreg_eq (seg [(4, 13), (6, 6), (5, d.val)] [(5, a.val)] [(9, 0), (2, k.toNat)] hall hN (hz_one _ _))
  have e5 : imm N 2 0 = k := imm_eq (seg [(4, 13), (6, 6), (5, d.val), (5, a.val), (9, 0)] [(2, k.toNat)] [] hall hN (hz_one _ _))
  rw [decodeFields, e0]; show decodeSX N = _; rw [decodeSX, e1]; show (if bits N 10 2 == 0 then some (Instr.xlinv (xreg N 16) (xreg N 11) (imm N 2 0)) else none) = _
  simp only [e2, e3, e4, e5, beq_self_eq_true, ↓reduceIte]

theorem xlwait : Statement (.xlwait) := by
  have hall : Fits [(4, 13), (6, 7), (21, 0)] := all_cons (by decide) (all_cons (by decide) (all_cons (by decide) (all_nil)))
  refine of_segs rfl [(4, 13), (6, 7), (21, 0)] rfl trivial hall (by simp only [pack, hz, List.foldl]; omega) (fun N Q hN => ?_)
  have e0 : bits N 30 27 = 13 := bits_seg [] [(4, 13)] [(6, 7), (21, 0)] hall hN rfl rfl rfl
  have e1 : bits N 26 21 = 7 := bits_seg [(4, 13)] [(6, 7)] [(21, 0)] hall hN rfl rfl rfl
  have e2 : bits N 20 0 = 0 := bits_seg [(4, 13), (6, 7)] [(21, 0)] [] hall hN rfl rfl rfl
  rw [decodeFields, e0]; show decodeSX N = _; rw [decodeSX, e1]; show (if bits N 20 0 == 0 then some Instr.xlwait else none) = _
  simp only [e2, beq_self_eq_true, ↓reduceIte]

theorem qmap (d : XReg) (a : XReg) (n : Fin 4) : Statement (.qmap d a n) := by
  have hall : Fits [(4, 13), (6, 8), (5, d.val), (5, a.val), (9, 0), (2, n.val)] := all_cons (by decide) (all_cons (by decide) (all_cons (d.isLt) (all_cons (a.isLt) (all_cons (by decide) (all_cons (n.isLt) (all_nil))))))
  refine of_segs rfl [(4, 13), (6, 8), (5, d.val), (5, a.val), (9, 0), (2, n.val)] rfl trivial hall (by simp only [pack, hz, List.foldl]; omega) (fun N Q hN => ?_)
  have e0 : bits N 30 27 = 13 := bits_seg [] [(4, 13)] [(6, 8), (5, d.val), (5, a.val), (9, 0), (2, n.val)] hall hN rfl rfl rfl
  have e1 : bits N 26 21 = 8 := bits_seg [(4, 13)] [(6, 8)] [(5, d.val), (5, a.val), (9, 0), (2, n.val)] hall hN rfl rfl rfl
  have e2 : bits N 10 2 = 0 := bits_seg [(4, 13), (6, 8), (5, d.val), (5, a.val)] [(9, 0)] [(2, n.val)] hall hN rfl rfl rfl
  have e3 : xreg N 16 = d := xreg_eq (seg [(4, 13), (6, 8)] [(5, d.val)] [(5, a.val), (9, 0), (2, n.val)] hall hN (hz_one _ _))
  have e4 : xreg N 11 = a := xreg_eq (seg [(4, 13), (6, 8), (5, d.val)] [(5, a.val)] [(9, 0), (2, n.val)] hall hN (hz_one _ _))
  have e5 : fin4 N 0 = n := fin4_eq (seg [(4, 13), (6, 8), (5, d.val), (5, a.val), (9, 0)] [(2, n.val)] [] hall hN (hz_one _ _))
  rw [decodeFields, e0]; show decodeSX N = _; rw [decodeSX, e1]; show (if bits N 10 2 == 0 then some (Instr.qmap (xreg N 16) (xreg N 11) (fin4 N 0)) else none) = _
  simp only [e2, e3, e4, e5, beq_self_eq_true, ↓reduceIte]

theorem halt : Statement (.halt) := by
  have hall : Fits [(4, 13), (6, 9), (21, 0)] := all_cons (by decide) (all_cons (by decide) (all_cons (by decide) (all_nil)))
  refine of_segs rfl [(4, 13), (6, 9), (21, 0)] rfl trivial hall (by simp only [pack, hz, List.foldl]; omega) (fun N Q hN => ?_)
  have e0 : bits N 30 27 = 13 := bits_seg [] [(4, 13)] [(6, 9), (21, 0)] hall hN rfl rfl rfl
  have e1 : bits N 26 21 = 9 := bits_seg [(4, 13)] [(6, 9)] [(21, 0)] hall hN rfl rfl rfl
  have e2 : bits N 20 0 = 0 := bits_seg [(4, 13), (6, 9)] [(21, 0)] [] hall hN rfl rfl rfl
  rw [decodeFields, e0]; show decodeSX N = _; rw [decodeSX, e1]; show (if bits N 20 0 == 0 then some Instr.halt else none) = _
  simp only [e2, beq_self_eq_true, ↓reduceIte]

theorem brk (n : BitVec 7) : Statement (.brk n) := by
  have hall : Fits [(4, 13), (6, 10), (14, 0), (7, n.toNat)] := all_cons (by decide) (all_cons (by decide) (all_cons (by decide) (all_cons (n.isLt) (all_nil))))
  refine of_segs rfl [(4, 13), (6, 10), (14, 0), (7, n.toNat)] rfl trivial hall (by simp only [pack, hz, List.foldl]; omega) (fun N Q hN => ?_)
  have e0 : bits N 30 27 = 13 := bits_seg [] [(4, 13)] [(6, 10), (14, 0), (7, n.toNat)] hall hN rfl rfl rfl
  have e1 : bits N 26 21 = 10 := bits_seg [(4, 13)] [(6, 10)] [(14, 0), (7, n.toNat)] hall hN rfl rfl rfl
  have e2 : bits N 20 7 = 0 := bits_seg [(4, 13), (6, 10)] [(14, 0)] [(7, n.toNat)] hall hN rfl rfl rfl
  have e3 : imm N 7 0 = n := imm_eq (seg [(4, 13), (6, 10), (14, 0)] [(7, n.toNat)] [] hall hN (hz_one _ _))
  rw [decodeFields, e0]; show decodeSX N = _; rw [decodeSX, e1]; show (if bits N 20 7 == 0 then some (Instr.brk (imm N 7 0)) else none) = _
  simp only [e2, e3, beq_self_eq_true, ↓reduceIte]

theorem tinj (a : XReg) (e : BitVec 2) (k : BitVec 2) : Statement (.tinj a e k) := by
  have hall : Fits [(4, 13), (6, 11), (5, 0), (5, a.val), (7, 0), (2, e.toNat), (2, k.toNat)] := all_cons (by decide) (all_cons (by decide) (all_cons (by decide) (all_cons (a.isLt) (all_cons (by decide) (all_cons (e.isLt) (all_cons (k.isLt) (all_nil)))))))
  refine of_segs rfl [(4, 13), (6, 11), (5, 0), (5, a.val), (7, 0), (2, e.toNat), (2, k.toNat)] rfl trivial hall (by simp only [pack, hz, List.foldl]; omega) (fun N Q hN => ?_)
  have e0 : bits N 30 27 = 13 := bits_seg [] [(4, 13)] [(6, 11), (5, 0), (5, a.val), (7, 0), (2, e.toNat), (2, k.toNat)] hall hN rfl rfl rfl
  have e1 : bits N 26 21 = 11 := bits_seg [(4, 13)] [(6, 11)] [(5, 0), (5, a.val), (7, 0), (2, e.toNat), (2, k.toNat)] hall hN rfl rfl rfl
  have e2 : bits N 10 4 = 0 := bits_seg [(4, 13), (6, 11), (5, 0), (5, a.val)] [(7, 0)] [(2, e.toNat), (2, k.toNat)] hall hN rfl rfl rfl
  have e3 : bits N 20 16 = 0 := bits_seg [(4, 13), (6, 11)] [(5, 0)] [(5, a.val), (7, 0), (2, e.toNat), (2, k.toNat)] hall hN rfl rfl rfl
  have e4 : xreg N 11 = a := xreg_eq (seg [(4, 13), (6, 11), (5, 0)] [(5, a.val)] [(7, 0), (2, e.toNat), (2, k.toNat)] hall hN (hz_one _ _))
  have e5 : imm N 2 2 = e := imm_eq (seg [(4, 13), (6, 11), (5, 0), (5, a.val), (7, 0)] [(2, e.toNat)] [(2, k.toNat)] hall hN (hz_one _ _))
  have e6 : imm N 2 0 = k := imm_eq (seg [(4, 13), (6, 11), (5, 0), (5, a.val), (7, 0), (2, e.toNat)] [(2, k.toNat)] [] hall hN (hz_one _ _))
  rw [decodeFields, e0]; show decodeSX N = _; rw [decodeSX, e1]; show (if bits N 10 4 == 0 && bits N 20 16 == 0 then some (Instr.tinj (xreg N 11) (imm N 2 2) (imm N 2 0)) else none) = _
  simp only [e2, e3, e4, e5, e6, beq_self_eq_true, ↓reduceIte, Bool.and_self]

theorem sleep (a : XReg) (l : BitVec 2) : Statement (.sleep a l) := by
  have hall : Fits [(4, 13), (6, 12), (5, 0), (5, a.val), (9, 0), (2, l.toNat)] := all_cons (by decide) (all_cons (by decide) (all_cons (by decide) (all_cons (a.isLt) (all_cons (by decide) (all_cons (l.isLt) (all_nil))))))
  refine of_segs rfl [(4, 13), (6, 12), (5, 0), (5, a.val), (9, 0), (2, l.toNat)] rfl trivial hall (by simp only [pack, hz, List.foldl]; omega) (fun N Q hN => ?_)
  have e0 : bits N 30 27 = 13 := bits_seg [] [(4, 13)] [(6, 12), (5, 0), (5, a.val), (9, 0), (2, l.toNat)] hall hN rfl rfl rfl
  have e1 : bits N 26 21 = 12 := bits_seg [(4, 13)] [(6, 12)] [(5, 0), (5, a.val), (9, 0), (2, l.toNat)] hall hN rfl rfl rfl
  have e2 : bits N 10 2 = 0 := bits_seg [(4, 13), (6, 12), (5, 0), (5, a.val)] [(9, 0)] [(2, l.toNat)] hall hN rfl rfl rfl
  have e3 : bits N 20 16 = 0 := bits_seg [(4, 13), (6, 12)] [(5, 0)] [(5, a.val), (9, 0), (2, l.toNat)] hall hN rfl rfl rfl
  have e4 : xreg N 11 = a := xreg_eq (seg [(4, 13), (6, 12), (5, 0)] [(5, a.val)] [(9, 0), (2, l.toNat)] hall hN (hz_one _ _))
  have e5 : imm N 2 0 = l := imm_eq (seg [(4, 13), (6, 12), (5, 0), (5, a.val), (9, 0)] [(2, l.toNat)] [] hall hN (hz_one _ _))
  rw [decodeFields, e0]; show decodeSX N = _; rw [decodeSX, e1]; show (if bits N 10 2 == 0 && bits N 20 16 == 0 then some (Instr.sleep (xreg N 11) (imm N 2 0)) else none) = _
  simp only [e2, e3, e4, e5, beq_self_eq_true, ↓reduceIte, Bool.and_self]

theorem exposedWriteLand : Statement (.exposedWriteLand) := of_none rfl

theorem scoreboardResultWrite : Statement (.scoreboardResultWrite) := of_none rfl

theorem barrierRelease (lnum : Nat) (node : Nat) (c : Scope) (b : Fin 16) : Statement (.barrierRelease lnum node c b) := of_none rfl

theorem podBarrierRelease (lnum : Nat) (node : Nat) (b : Fin 16) : Statement (.podBarrierRelease lnum node b) := of_none rfl

theorem slotStart : Statement (.slotStart) := of_none rfl

theorem seatSlotSend : Statement (.seatSlotSend) := of_none rfl

theorem podScPerform : Statement (.podScPerform) := of_none rfl

theorem seatReportTimeout : Statement (.seatReportTimeout) := of_none rfl

theorem preemptionTaken : Statement (.preemptionTaken) := of_none rfl

theorem checkpointSpill : Statement (.checkpointSpill) := of_none rfl

theorem checkpointRestore : Statement (.checkpointRestore) := of_none rfl

theorem haltRequestTaken : Statement (.haltRequestTaken) := of_none rfl

theorem mscpartGrow (slice : Fin 128) (ways : Fin 13) : Statement (.mscpartGrow slice ways) := of_none rfl

theorem mscpartGrowComplete (slice : Fin 128) : Statement (.mscpartGrowComplete slice) := of_none rfl

theorem mscpartShrink (slice : Fin 128) (ways : Fin 13) : Statement (.mscpartShrink slice ways) := of_none rfl

theorem formatRangeEnable (h : Fin 12) (n : Fin 16) : Statement (.formatRangeEnable h n) := of_none rfl

theorem formatRangeDisable (h : Fin 12) (n : Fin 16) : Statement (.formatRangeDisable h n) := of_none rfl

theorem formatRangeFlushDone (h : Fin 12) (n : Fin 16) : Statement (.formatRangeFlushDone h n) := of_none rfl

theorem cohctlWrite (v : Word) : Statement (.cohctlWrite v) := of_none rfl

theorem rebase : Statement (.rebase) := of_none rfl

theorem hbmBatchMark (h : Fin 12) : Statement (.hbmBatchMark h) := of_none rfl

theorem walkerMovingRetry : Statement (.walkerMovingRetry) := of_none rfl

theorem qsBankGrant : Statement (.qsBankGrant) := of_none rfl

theorem vxCommandComplete : Statement (.vxCommandComplete) := of_none rfl

theorem matrixOpStart (array : Bool) : Statement (.matrixOpStart array) := of_none rfl

theorem matrixOpComplete (array : Bool) : Statement (.matrixOpComplete array) := of_none rfl

theorem bteCommandStart (ch : Fin 64) : Statement (.bteCommandStart ch) := of_none rfl

theorem bteSectorTransfer (ch : Fin 64) : Statement (.bteSectorTransfer ch) := of_none rfl

theorem completionWordPost : Statement (.completionWordPost) := of_none rfl

theorem bteerrClear (v : Word) : Statement (.bteerrClear v) := of_none rfl

theorem ringEnable (n : Fin 16) (v : Word) : Statement (.ringEnable n v) := of_none rfl

theorem ringDisable (n : Fin 16) (v : Word) : Statement (.ringDisable n v) := of_none rfl

theorem ringSlotClaim (ch : Fin 64) : Statement (.ringSlotClaim ch) := of_none rfl

theorem owncFlip : Statement (.owncFlip) := of_none rfl

theorem rowStep (port : Fin 8) : Statement (.rowStep port) := of_none rfl

theorem bitwiseRegionEnable (h : Fin 12) (n : Fin 8) : Statement (.bitwiseRegionEnable h n) := of_none rfl

theorem bitwiseRegionDisable (h : Fin 12) (n : Fin 8) : Statement (.bitwiseRegionDisable h n) := of_none rfl

theorem bankRefresh (h : Fin 12) (bank : Fin 512) : Statement (.bankRefresh h bank) := of_none rfl

theorem bankRefreshEnd (h : Fin 12) (bank : Fin 512) : Statement (.bankRefreshEnd h bank) := of_none rfl

theorem fabricCommandStart (port : Fin 8) : Statement (.fabricCommandStart port) := of_none rfl

theorem fabricPacketSend : Statement (.fabricPacketSend) := of_none rfl

theorem packetReceive (dim : Fin 3) (plane : Fin 64) (peer : Fin 64) (header : Sector) (payload : List Sector) : Statement (.packetReceive dim plane peer header payload) := of_none rfl

theorem streamPacketPerform : Statement (.streamPacketPerform) := of_none rfl

theorem acknowledgementSend (dim : Fin 3) (plane : Fin 64) (peer : Fin 64) : Statement (.acknowledgementSend dim plane peer) := of_none rfl

theorem linkReplayTimeout (dim : Fin 3) (plane : Fin 64) (peer : Fin 64) : Statement (.linkReplayTimeout dim plane peer) := of_none rfl

theorem packetRelay : Statement (.packetRelay) := of_none rfl

theorem fabricCommandTimeout (port : Fin 8) : Statement (.fabricCommandTimeout port) := of_none rfl

theorem lineLost (dim : Fin 3) (comb : Fin 4) (line : Fin 72) : Statement (.lineLost dim comb line) := of_none rfl

theorem lineDrift (dim : Fin 3) (comb : Fin 4) (line : Fin 72) : Statement (.lineDrift dim comb line) := of_none rfl

theorem lineRetuned (dim : Fin 3) (comb : Fin 4) (line : Fin 72) : Statement (.lineRetuned dim comb line) := of_none rfl

theorem combLost (dim : Fin 3) (comb : Fin 4) : Statement (.combLost dim comb) := of_none rfl

theorem tableProposalLapse (dim : Fin 3) : Statement (.tableProposalLapse dim) := of_none rfl

theorem tableInstalled (dim : Fin 3) : Statement (.tableInstalled dim) := of_none rfl

theorem tutblGo (dim : Fin 3) (v : Word) : Statement (.tutblGo dim v) := of_none rfl

theorem tuevtRead (dim : Fin 3) : Statement (.tuevtRead dim) := of_none rfl

theorem linjctlWrite (dim : Fin 3) (v : Word) : Statement (.linjctlWrite dim v) := of_none rfl

theorem instanceStart (unit : Fin 4) : Statement (.instanceStart unit) := of_none rfl

theorem sendStep (unit : Fin 4) (step : Nat) : Statement (.sendStep unit step) := of_none rfl

theorem recvStep (unit : Fin 4) (step : Nat) : Statement (.recvStep unit step) := of_none rfl

theorem copyStep (unit : Fin 4) (step : Nat) : Statement (.copyStep unit step) := of_none rfl

theorem finStep (unit : Fin 4) (step : Nat) : Statement (.finStep unit step) := of_none rfl

theorem nopStep (unit : Fin 4) (step : Nat) : Statement (.nopStep unit step) := of_none rfl

theorem leadArrival (src : Fin 64) (addr : Word) (lead : Sector) : Statement (.leadArrival src addr lead) := of_none rfl

theorem stepRelease (unit : Fin 4) (step : Nat) : Statement (.stepRelease unit step) := of_none rfl

theorem recvDataTimeout (unit : Fin 4) (step : Nat) : Statement (.recvDataTimeout unit step) := of_none rfl

theorem sendStepTimeout (unit : Fin 4) (step : Nat) : Statement (.sendStepTimeout unit step) := of_none rfl

theorem instanceComplete (unit : Fin 4) : Statement (.instanceComplete unit) := of_none rfl

theorem riggingLoadComplete (unit : Fin 4) : Statement (.riggingLoadComplete unit) := of_none rfl

theorem reshelveHistogramExchange (unit : Fin 4) : Statement (.reshelveHistogramExchange unit) := of_none rfl

theorem reshelveMove (unit : Fin 4) : Statement (.reshelveMove unit) := of_none rfl

theorem reshelveTimeout (unit : Fin 4) : Statement (.reshelveTimeout unit) := of_none rfl

theorem folioStoreEnable : Statement (.folioStoreEnable) := of_none rfl

theorem folioStoreDisable : Statement (.folioStoreDisable) := of_none rfl

theorem folioEviction : Statement (.folioEviction) := of_none rfl

theorem folioRecallComplete (storage : Nat) : Statement (.folioRecallComplete storage) := of_none rfl

theorem copyOnWriteSplit (name : BitVec 48) : Statement (.copyOnWriteSplit name) := of_none rfl

theorem fopinDeadline (storage : Nat) : Statement (.fopinDeadline storage) := of_none rfl

theorem ddoorSubmit (v : Word) : Statement (.ddoorSubmit v) := of_none rfl

theorem launchPacket (lnum : Nat) (descriptor : List Word) : Statement (.launchPacket lnum descriptor) := of_none rfl

theorem computePhaseStart (lnum : Nat) (node : Nat) : Statement (.computePhaseStart lnum node) := of_none rfl

theorem freeCoreReport : Statement (.freeCoreReport) := of_none rfl

theorem ticketDispatch : Statement (.ticketDispatch) := of_none rfl

theorem phaseClose (lnum : Nat) (node : Nat) : Statement (.phaseClose lnum node) := of_none rfl

theorem exchangePhaseEnd (lnum : Nat) (node : Nat) : Statement (.exchangePhaseEnd lnum node) := of_none rfl

theorem nodeRetire (lnum : Nat) (node : Nat) : Statement (.nodeRetire lnum node) := of_none rfl

theorem selection : Statement (.selection) := of_none rfl

theorem tokenAging : Statement (.tokenAging) := of_none rfl

theorem dbgctlHalt (v : Word) : Statement (.dbgctlHalt v) := of_none rfl

theorem dbgctlStep (v : Word) : Statement (.dbgctlStep v) := of_none rfl

theorem dbgctlRun (v : Word) : Statement (.dbgctlRun v) := of_none rfl

theorem dbgmaddrRead (v : Word) : Statement (.dbgmaddrRead v) := of_none rfl

theorem debugReadComplete : Statement (.debugReadComplete) := of_none rfl

theorem atctlWrite (target : Fin 161) (v : Word) : Statement (.atctlWrite target v) := of_none rfl

theorem sleepWake : Statement (.sleepWake) := of_none rfl

theorem hostBar0Access (off : BitVec 32) (store : Option Word) : Statement (.hostBar0Access off store) := of_none rfl

theorem hostMemRequest (off : BitVec 48) (len : Nat) (store : Option (List Byte)) : Statement (.hostMemRequest off len store) := of_none rfl

theorem hostWindowWrite (window : Fin 8) (reg : Fin 3) (v : Word) : Statement (.hostWindowWrite window reg v) := of_none rfl

theorem hdmEnable (v : Word) : Statement (.hdmEnable v) := of_none rfl

theorem hdmDisable (v : Word) : Statement (.hdmDisable v) := of_none rfl

theorem repreqClear (v : Word) : Statement (.repreqClear v) := of_none rfl

theorem firmwareUpdate (v : Word) : Statement (.firmwareUpdate v) := of_none rfl

theorem firmwareUpdateDone : Statement (.firmwareUpdateDone) := of_none rfl

theorem attestationRequest (v : Word) : Statement (.attestationRequest v) := of_none rfl

theorem attestationDone : Statement (.attestationDone) := of_none rfl

theorem reset : Statement (.reset) := of_none rfl

theorem hbmStackTrained (h : Fin 12) : Statement (.hbmStackTrained h) := of_none rfl

theorem fullServiceEntry (turn : Nat) : Statement (.fullServiceEntry turn) := of_none rfl

theorem unitRemoval (kind : Fin 7) (id : BitVec 16) : Statement (.unitRemoval kind id) := of_none rfl

theorem thermalLimit (power : BitVec 16) (tdie : Byte) (thbm : Byte) : Statement (.thermalLimit power tdie thbm) := of_none rfl

theorem thermalTrip (tdie : Byte) (thbm : Byte) : Statement (.thermalTrip tdie thbm) := of_none rfl

theorem inputUndervoltage : Statement (.inputUndervoltage) := of_none rfl

theorem registerWrite (addr : BitVec 40) (v : Word) : Statement (.registerWrite addr v) := of_none rfl

theorem cxlLinkLoss : Statement (.cxlLinkLoss) := of_none rfl

theorem cxlLinkReturn : Statement (.cxlLinkReturn) := of_none rfl

theorem powerLimitingEnd (power : BitVec 16) (tdie : Byte) (thbm : Byte) : Statement (.powerLimitingEnd power tdie thbm) := of_none rfl

theorem translationWalkComplete (va : CodeAddr) : Statement (.translationWalkComplete va) := of_none rfl

theorem instructionCacheFill (line : CodeAddr) : Statement (.instructionCacheFill line) := of_none rfl

theorem cacheRangeComplete : Statement (.cacheRangeComplete) := of_none rfl

theorem hostAccessComplete : Statement (.hostAccessComplete) := of_none rfl

theorem cxlCacheSnoop (line : BitVec 52) (data : List Byte) : Statement (.cxlCacheSnoop line data) := of_none rfl

end Sys2Proof.Laws.RoundTrip
end

