-- ==== Sys2Proof/Laws/State.lean ====
section
/-!
SUPPORT. One lemma for each field that an update of the state keeps or sets, true by unfolding, so that no proof
unfolds a record update.
-/
namespace Sys2Proof.Machine
open Sys2Proof

variable (s : State)

@[simp] theorem onCore_clock (f : Core → Core) : (onCore s f).clock = s.clock := rfl
@[simp] theorem onCore_core (f : Core → Core) : (onCore s f).core = f s.core := rfl
@[simp] theorem onCore_queues (f : Core → Core) : (onCore s f).queues = s.queues := rfl
@[simp] theorem onCore_oc (f : Core → Core) : (onCore s f).oc = s.oc := rfl
@[simp] theorem onCore_tags (f : Core → Core) : (onCore s f).tags = s.tags := rfl
@[simp] theorem onCore_engine (f : Core → Core) : (onCore s f).engine = s.engine := rfl
@[simp] theorem onCore_vrEngine (f : Core → Core) : (onCore s f).vrEngine = s.vrEngine := rfl
@[simp] theorem onCore_bte (f : Core → Core) : (onCore s f).bte = s.bte := rfl
@[simp] theorem onCore_rows (f : Core → Core) : (onCore s f).rows = s.rows := rfl
@[simp] theorem onCore_fabric (f : Core → Core) : (onCore s f).fabric = s.fabric := rfl
@[simp] theorem onCore_replay (f : Core → Core) : (onCore s f).replay = s.replay := rfl
@[simp] theorem onCore_folios (f : Core → Core) : (onCore s f).folios = s.folios := rfl
@[simp] theorem onCore_plat (f : Core → Core) : (onCore s f).plat = s.plat := rfl
@[simp] theorem onCore_sys (f : Core → Core) : (onCore s f).sys = s.sys := rfl
@[simp] theorem onCore_hub (f : Core → Core) : (onCore s f).hub = s.hub := rfl
@[simp] theorem onCore_dist (f : Core → Core) : (onCore s f).dist = s.dist := rfl
@[simp] theorem onCore_dbg (f : Core → Core) : (onCore s f).dbg = s.dbg := rfl
@[simp] theorem onCore_dbgLast (f : Core → Core) : (onCore s f).dbgLast = s.dbgLast := rfl
@[simp] theorem onCore_dbgStatus (f : Core → Core) : (onCore s f).dbgStatus = s.dbgStatus := rfl
@[simp] theorem onCore_part (f : Core → Core) : (onCore s f).part = s.part := rfl
@[simp] theorem onCore_inputs (f : Core → Core) : (onCore s f).inputs = s.inputs := rfl
@[simp] theorem onCore_free (f : Core → Core) : (onCore s f).free = s.free := rfl

@[simp] theorem onPlat_clock (f : Platform → Platform) : (onPlat s f).clock = s.clock := rfl
@[simp] theorem onPlat_core (f : Platform → Platform) : (onPlat s f).core = s.core := rfl
@[simp] theorem onPlat_queues (f : Platform → Platform) : (onPlat s f).queues = s.queues := rfl
@[simp] theorem onPlat_oc (f : Platform → Platform) : (onPlat s f).oc = s.oc := rfl
@[simp] theorem onPlat_tags (f : Platform → Platform) : (onPlat s f).tags = s.tags := rfl
@[simp] theorem onPlat_engine (f : Platform → Platform) : (onPlat s f).engine = s.engine := rfl
@[simp] theorem onPlat_vrEngine (f : Platform → Platform) : (onPlat s f).vrEngine = s.vrEngine := rfl
@[simp] theorem onPlat_bte (f : Platform → Platform) : (onPlat s f).bte = s.bte := rfl
@[simp] theorem onPlat_rows (f : Platform → Platform) : (onPlat s f).rows = s.rows := rfl
@[simp] theorem onPlat_fabric (f : Platform → Platform) : (onPlat s f).fabric = s.fabric := rfl
@[simp] theorem onPlat_replay (f : Platform → Platform) : (onPlat s f).replay = s.replay := rfl
@[simp] theorem onPlat_folios (f : Platform → Platform) : (onPlat s f).folios = s.folios := rfl
@[simp] theorem onPlat_plat (f : Platform → Platform) : (onPlat s f).plat = f s.plat := rfl
@[simp] theorem onPlat_sys (f : Platform → Platform) : (onPlat s f).sys = s.sys := rfl
@[simp] theorem onPlat_hub (f : Platform → Platform) : (onPlat s f).hub = s.hub := rfl
@[simp] theorem onPlat_dist (f : Platform → Platform) : (onPlat s f).dist = s.dist := rfl
@[simp] theorem onPlat_dbg (f : Platform → Platform) : (onPlat s f).dbg = s.dbg := rfl
@[simp] theorem onPlat_dbgLast (f : Platform → Platform) : (onPlat s f).dbgLast = s.dbgLast := rfl
@[simp] theorem onPlat_dbgStatus (f : Platform → Platform) : (onPlat s f).dbgStatus = s.dbgStatus := rfl
@[simp] theorem onPlat_part (f : Platform → Platform) : (onPlat s f).part = s.part := rfl
@[simp] theorem onPlat_inputs (f : Platform → Platform) : (onPlat s f).inputs = s.inputs := rfl
@[simp] theorem onPlat_free (f : Platform → Platform) : (onPlat s f).free = s.free := rfl

@[simp] theorem drawn_clock : (drawn s).clock = s.clock := rfl
@[simp] theorem drawn_core : (drawn s).core = s.core := rfl
@[simp] theorem drawn_queues : (drawn s).queues = s.queues := rfl
@[simp] theorem drawn_oc : (drawn s).oc = s.oc := rfl
@[simp] theorem drawn_tags : (drawn s).tags = s.tags := rfl
@[simp] theorem drawn_engine : (drawn s).engine = s.engine := rfl
@[simp] theorem drawn_vrEngine : (drawn s).vrEngine = s.vrEngine := rfl
@[simp] theorem drawn_bte : (drawn s).bte = s.bte := rfl
@[simp] theorem drawn_rows : (drawn s).rows = s.rows := rfl
@[simp] theorem drawn_fabric : (drawn s).fabric = s.fabric := rfl
@[simp] theorem drawn_replay : (drawn s).replay = s.replay := rfl
@[simp] theorem drawn_folios : (drawn s).folios = s.folios := rfl
@[simp] theorem drawn_plat : (drawn s).plat = s.plat := rfl
@[simp] theorem drawn_sys : (drawn s).sys = s.sys := rfl
@[simp] theorem drawn_hub : (drawn s).hub = s.hub := rfl
@[simp] theorem drawn_dist : (drawn s).dist = s.dist := rfl
@[simp] theorem drawn_dbg : (drawn s).dbg = s.dbg := rfl
@[simp] theorem drawn_dbgLast : (drawn s).dbgLast = s.dbgLast := rfl
@[simp] theorem drawn_dbgStatus : (drawn s).dbgStatus = s.dbgStatus := rfl
@[simp] theorem drawn_part : (drawn s).part = s.part := rfl
@[simp] theorem drawn_inputs : (drawn s).inputs = s.inputs := rfl
@[simp] theorem drawn_free : (drawn s).free = s.free + 1 := rfl

@[simp] theorem hubSet_clock (a : Nat) (w : Word) : (hubSet s a w).clock = s.clock := rfl
@[simp] theorem hubSet_core (a : Nat) (w : Word) : (hubSet s a w).core = s.core := rfl
@[simp] theorem hubSet_queues (a : Nat) (w : Word) : (hubSet s a w).queues = s.queues := rfl
@[simp] theorem hubSet_oc (a : Nat) (w : Word) : (hubSet s a w).oc = s.oc := rfl
@[simp] theorem hubSet_tags (a : Nat) (w : Word) : (hubSet s a w).tags = s.tags := rfl
@[simp] theorem hubSet_engine (a : Nat) (w : Word) : (hubSet s a w).engine = s.engine := rfl
@[simp] theorem hubSet_vrEngine (a : Nat) (w : Word) : (hubSet s a w).vrEngine = s.vrEngine := rfl
@[simp] theorem hubSet_bte (a : Nat) (w : Word) : (hubSet s a w).bte = s.bte := rfl
@[simp] theorem hubSet_rows (a : Nat) (w : Word) : (hubSet s a w).rows = s.rows := rfl
@[simp] theorem hubSet_fabric (a : Nat) (w : Word) : (hubSet s a w).fabric = s.fabric := rfl
@[simp] theorem hubSet_replay (a : Nat) (w : Word) : (hubSet s a w).replay = s.replay := rfl
@[simp] theorem hubSet_folios (a : Nat) (w : Word) : (hubSet s a w).folios = s.folios := rfl
@[simp] theorem hubSet_plat (a : Nat) (w : Word) : (hubSet s a w).plat = s.plat := rfl
@[simp] theorem hubSet_sys (a : Nat) (w : Word) : (hubSet s a w).sys = s.sys := rfl
@[simp] theorem hubSet_hub (a : Nat) (w : Word) : (hubSet s a w).hub = storeAt s.hub a w := rfl
@[simp] theorem hubSet_dist (a : Nat) (w : Word) : (hubSet s a w).dist = s.dist := rfl
@[simp] theorem hubSet_dbg (a : Nat) (w : Word) : (hubSet s a w).dbg = s.dbg := rfl
@[simp] theorem hubSet_dbgLast (a : Nat) (w : Word) : (hubSet s a w).dbgLast = s.dbgLast := rfl
@[simp] theorem hubSet_dbgStatus (a : Nat) (w : Word) : (hubSet s a w).dbgStatus = s.dbgStatus := rfl
@[simp] theorem hubSet_part (a : Nat) (w : Word) : (hubSet s a w).part = s.part := rfl
@[simp] theorem hubSet_inputs (a : Nat) (w : Word) : (hubSet s a w).inputs = s.inputs := rfl
@[simp] theorem hubSet_free (a : Nat) (w : Word) : (hubSet s a w).free = s.free := rfl

@[simp] theorem barrierSet_clock (a : Nat) (b : BarrierWord) : (barrierSet s a b).clock = s.clock := rfl
@[simp] theorem barrierSet_core (a : Nat) (b : BarrierWord) : (barrierSet s a b).core = s.core := rfl
@[simp] theorem barrierSet_queues (a : Nat) (b : BarrierWord) : (barrierSet s a b).queues = s.queues := rfl
@[simp] theorem barrierSet_oc (a : Nat) (b : BarrierWord) : (barrierSet s a b).oc = s.oc.writeNat a 16 b.toNat := rfl
@[simp] theorem barrierSet_tags (a : Nat) (b : BarrierWord) : (barrierSet s a b).tags = s.tags := rfl
@[simp] theorem barrierSet_engine (a : Nat) (b : BarrierWord) : (barrierSet s a b).engine = s.engine := rfl
@[simp] theorem barrierSet_vrEngine (a : Nat) (b : BarrierWord) : (barrierSet s a b).vrEngine = s.vrEngine := rfl
@[simp] theorem barrierSet_bte (a : Nat) (b : BarrierWord) : (barrierSet s a b).bte = s.bte := rfl
@[simp] theorem barrierSet_rows (a : Nat) (b : BarrierWord) : (barrierSet s a b).rows = s.rows := rfl
@[simp] theorem barrierSet_fabric (a : Nat) (b : BarrierWord) : (barrierSet s a b).fabric = s.fabric := rfl
@[simp] theorem barrierSet_replay (a : Nat) (b : BarrierWord) : (barrierSet s a b).replay = s.replay := rfl
@[simp] theorem barrierSet_folios (a : Nat) (b : BarrierWord) : (barrierSet s a b).folios = s.folios := rfl
@[simp] theorem barrierSet_plat (a : Nat) (b : BarrierWord) : (barrierSet s a b).plat = s.plat := rfl
@[simp] theorem barrierSet_sys (a : Nat) (b : BarrierWord) : (barrierSet s a b).sys = s.sys := rfl
@[simp] theorem barrierSet_hub (a : Nat) (b : BarrierWord) : (barrierSet s a b).hub = s.hub := rfl
@[simp] theorem barrierSet_dist (a : Nat) (b : BarrierWord) : (barrierSet s a b).dist = s.dist := rfl
@[simp] theorem barrierSet_dbg (a : Nat) (b : BarrierWord) : (barrierSet s a b).dbg = s.dbg := rfl
@[simp] theorem barrierSet_dbgLast (a : Nat) (b : BarrierWord) : (barrierSet s a b).dbgLast = s.dbgLast := rfl
@[simp] theorem barrierSet_dbgStatus (a : Nat) (b : BarrierWord) : (barrierSet s a b).dbgStatus = s.dbgStatus := rfl
@[simp] theorem barrierSet_part (a : Nat) (b : BarrierWord) : (barrierSet s a b).part = s.part := rfl
@[simp] theorem barrierSet_inputs (a : Nat) (b : BarrierWord) : (barrierSet s a b).inputs = s.inputs := rfl
@[simp] theorem barrierSet_free (a : Nat) (b : BarrierWord) : (barrierSet s a b).free = s.free := rfl

@[simp] theorem setChan_clock (k : Nat) (c : Channel) : (setChan s k c).clock = s.clock := rfl
@[simp] theorem setChan_core (k : Nat) (c : Channel) : (setChan s k c).core = s.core := rfl
@[simp] theorem setChan_queues (k : Nat) (c : Channel) : (setChan s k c).queues = s.queues := rfl
@[simp] theorem setChan_oc (k : Nat) (c : Channel) : (setChan s k c).oc = s.oc := rfl
@[simp] theorem setChan_tags (k : Nat) (c : Channel) : (setChan s k c).tags = s.tags := rfl
@[simp] theorem setChan_engine (k : Nat) (c : Channel) : (setChan s k c).engine = s.engine := rfl
@[simp] theorem setChan_vrEngine (k : Nat) (c : Channel) : (setChan s k c).vrEngine = s.vrEngine := rfl
@[simp] theorem setChan_rows (k : Nat) (c : Channel) : (setChan s k c).rows = s.rows := rfl
@[simp] theorem setChan_fabric (k : Nat) (c : Channel) : (setChan s k c).fabric = s.fabric := rfl
@[simp] theorem setChan_replay (k : Nat) (c : Channel) : (setChan s k c).replay = s.replay := rfl
@[simp] theorem setChan_folios (k : Nat) (c : Channel) : (setChan s k c).folios = s.folios := rfl
@[simp] theorem setChan_plat (k : Nat) (c : Channel) : (setChan s k c).plat = s.plat := rfl
@[simp] theorem setChan_sys (k : Nat) (c : Channel) : (setChan s k c).sys = s.sys := rfl
@[simp] theorem setChan_hub (k : Nat) (c : Channel) : (setChan s k c).hub = s.hub := rfl
@[simp] theorem setChan_dist (k : Nat) (c : Channel) : (setChan s k c).dist = s.dist := rfl
@[simp] theorem setChan_dbg (k : Nat) (c : Channel) : (setChan s k c).dbg = s.dbg := rfl
@[simp] theorem setChan_dbgLast (k : Nat) (c : Channel) : (setChan s k c).dbgLast = s.dbgLast := rfl
@[simp] theorem setChan_dbgStatus (k : Nat) (c : Channel) : (setChan s k c).dbgStatus = s.dbgStatus := rfl
@[simp] theorem setChan_part (k : Nat) (c : Channel) : (setChan s k c).part = s.part := rfl
@[simp] theorem setChan_inputs (k : Nat) (c : Channel) : (setChan s k c).inputs = s.inputs := rfl
@[simp] theorem setChan_free (k : Nat) (c : Channel) : (setChan s k c).free = s.free := rfl

@[simp] theorem eregSet_clock (e n : Nat) (w : Word) : (eregSet s e n w).clock = s.clock := rfl
@[simp] theorem eregSet_core (e n : Nat) (w : Word) : (eregSet s e n w).core = s.core := rfl
@[simp] theorem eregSet_queues (e n : Nat) (w : Word) : (eregSet s e n w).queues = s.queues := rfl
@[simp] theorem eregSet_oc (e n : Nat) (w : Word) : (eregSet s e n w).oc = s.oc := rfl
@[simp] theorem eregSet_tags (e n : Nat) (w : Word) : (eregSet s e n w).tags = s.tags := rfl
@[simp] theorem eregSet_engine (e n : Nat) (w : Word) : (eregSet s e n w).engine = s.engine := rfl
@[simp] theorem eregSet_vrEngine (e n : Nat) (w : Word) : (eregSet s e n w).vrEngine = s.vrEngine := rfl
@[simp] theorem eregSet_rows (e n : Nat) (w : Word) : (eregSet s e n w).rows = s.rows := rfl
@[simp] theorem eregSet_fabric (e n : Nat) (w : Word) : (eregSet s e n w).fabric = s.fabric := rfl
@[simp] theorem eregSet_replay (e n : Nat) (w : Word) : (eregSet s e n w).replay = s.replay := rfl
@[simp] theorem eregSet_folios (e n : Nat) (w : Word) : (eregSet s e n w).folios = s.folios := rfl
@[simp] theorem eregSet_plat (e n : Nat) (w : Word) : (eregSet s e n w).plat = s.plat := rfl
@[simp] theorem eregSet_sys (e n : Nat) (w : Word) : (eregSet s e n w).sys = s.sys := rfl
@[simp] theorem eregSet_hub (e n : Nat) (w : Word) : (eregSet s e n w).hub = s.hub := rfl
@[simp] theorem eregSet_dist (e n : Nat) (w : Word) : (eregSet s e n w).dist = s.dist := rfl
@[simp] theorem eregSet_dbg (e n : Nat) (w : Word) : (eregSet s e n w).dbg = s.dbg := rfl
@[simp] theorem eregSet_dbgLast (e n : Nat) (w : Word) : (eregSet s e n w).dbgLast = s.dbgLast := rfl
@[simp] theorem eregSet_dbgStatus (e n : Nat) (w : Word) : (eregSet s e n w).dbgStatus = s.dbgStatus := rfl
@[simp] theorem eregSet_part (e n : Nat) (w : Word) : (eregSet s e n w).part = s.part := rfl
@[simp] theorem eregSet_inputs (e n : Nat) (w : Word) : (eregSet s e n w).inputs = s.inputs := rfl
@[simp] theorem eregSet_free (e n : Nat) (w : Word) : (eregSet s e n w).free = s.free := rfl

@[simp] theorem setFabPort_clock (n : Nat) (p : FabPort) : (setFabPort s n p).clock = s.clock := rfl
@[simp] theorem setFabPort_core (n : Nat) (p : FabPort) : (setFabPort s n p).core = s.core := rfl
@[simp] theorem setFabPort_queues (n : Nat) (p : FabPort) : (setFabPort s n p).queues = s.queues := rfl
@[simp] theorem setFabPort_oc (n : Nat) (p : FabPort) : (setFabPort s n p).oc = s.oc := rfl
@[simp] theorem setFabPort_tags (n : Nat) (p : FabPort) : (setFabPort s n p).tags = s.tags := rfl
@[simp] theorem setFabPort_engine (n : Nat) (p : FabPort) : (setFabPort s n p).engine = s.engine := rfl
@[simp] theorem setFabPort_vrEngine (n : Nat) (p : FabPort) : (setFabPort s n p).vrEngine = s.vrEngine := rfl
@[simp] theorem setFabPort_bte (n : Nat) (p : FabPort) : (setFabPort s n p).bte = s.bte := rfl
@[simp] theorem setFabPort_rows (n : Nat) (p : FabPort) : (setFabPort s n p).rows = s.rows := rfl
@[simp] theorem setFabPort_replay (n : Nat) (p : FabPort) : (setFabPort s n p).replay = s.replay := rfl
@[simp] theorem setFabPort_folios (n : Nat) (p : FabPort) : (setFabPort s n p).folios = s.folios := rfl
@[simp] theorem setFabPort_plat (n : Nat) (p : FabPort) : (setFabPort s n p).plat = s.plat := rfl
@[simp] theorem setFabPort_sys (n : Nat) (p : FabPort) : (setFabPort s n p).sys = s.sys := rfl
@[simp] theorem setFabPort_hub (n : Nat) (p : FabPort) : (setFabPort s n p).hub = s.hub := rfl
@[simp] theorem setFabPort_dist (n : Nat) (p : FabPort) : (setFabPort s n p).dist = s.dist := rfl
@[simp] theorem setFabPort_dbg (n : Nat) (p : FabPort) : (setFabPort s n p).dbg = s.dbg := rfl
@[simp] theorem setFabPort_dbgLast (n : Nat) (p : FabPort) : (setFabPort s n p).dbgLast = s.dbgLast := rfl
@[simp] theorem setFabPort_dbgStatus (n : Nat) (p : FabPort) : (setFabPort s n p).dbgStatus = s.dbgStatus := rfl
@[simp] theorem setFabPort_part (n : Nat) (p : FabPort) : (setFabPort s n p).part = s.part := rfl
@[simp] theorem setFabPort_inputs (n : Nat) (p : FabPort) : (setFabPort s n p).inputs = s.inputs := rfl
@[simp] theorem setFabPort_free (n : Nat) (p : FabPort) : (setFabPort s n p).free = s.free := rfl

@[simp] theorem setLink_clock (k : Nat) (l : Link) : (setLink s k l).clock = s.clock := rfl
@[simp] theorem setLink_core (k : Nat) (l : Link) : (setLink s k l).core = s.core := rfl
@[simp] theorem setLink_queues (k : Nat) (l : Link) : (setLink s k l).queues = s.queues := rfl
@[simp] theorem setLink_oc (k : Nat) (l : Link) : (setLink s k l).oc = s.oc := rfl
@[simp] theorem setLink_tags (k : Nat) (l : Link) : (setLink s k l).tags = s.tags := rfl
@[simp] theorem setLink_engine (k : Nat) (l : Link) : (setLink s k l).engine = s.engine := rfl
@[simp] theorem setLink_vrEngine (k : Nat) (l : Link) : (setLink s k l).vrEngine = s.vrEngine := rfl
@[simp] theorem setLink_bte (k : Nat) (l : Link) : (setLink s k l).bte = s.bte := rfl
@[simp] theorem setLink_rows (k : Nat) (l : Link) : (setLink s k l).rows = s.rows := rfl
@[simp] theorem setLink_replay (k : Nat) (l : Link) : (setLink s k l).replay = s.replay := rfl
@[simp] theorem setLink_folios (k : Nat) (l : Link) : (setLink s k l).folios = s.folios := rfl
@[simp] theorem setLink_plat (k : Nat) (l : Link) : (setLink s k l).plat = s.plat := rfl
@[simp] theorem setLink_sys (k : Nat) (l : Link) : (setLink s k l).sys = s.sys := rfl
@[simp] theorem setLink_hub (k : Nat) (l : Link) : (setLink s k l).hub = s.hub := rfl
@[simp] theorem setLink_dist (k : Nat) (l : Link) : (setLink s k l).dist = s.dist := rfl
@[simp] theorem setLink_dbg (k : Nat) (l : Link) : (setLink s k l).dbg = s.dbg := rfl
@[simp] theorem setLink_dbgLast (k : Nat) (l : Link) : (setLink s k l).dbgLast = s.dbgLast := rfl
@[simp] theorem setLink_dbgStatus (k : Nat) (l : Link) : (setLink s k l).dbgStatus = s.dbgStatus := rfl
@[simp] theorem setLink_part (k : Nat) (l : Link) : (setLink s k l).part = s.part := rfl
@[simp] theorem setLink_inputs (k : Nat) (l : Link) : (setLink s k l).inputs = s.inputs := rfl
@[simp] theorem setLink_free (k : Nat) (l : Link) : (setLink s k l).free = s.free := rfl

@[simp] theorem setCtrl_clock (d q : Nat) (c : Nat × Nat) : (setCtrl s d q c).clock = s.clock := rfl
@[simp] theorem setCtrl_core (d q : Nat) (c : Nat × Nat) : (setCtrl s d q c).core = s.core := rfl
@[simp] theorem setCtrl_queues (d q : Nat) (c : Nat × Nat) : (setCtrl s d q c).queues = s.queues := rfl
@[simp] theorem setCtrl_oc (d q : Nat) (c : Nat × Nat) : (setCtrl s d q c).oc = s.oc := rfl
@[simp] theorem setCtrl_tags (d q : Nat) (c : Nat × Nat) : (setCtrl s d q c).tags = s.tags := rfl
@[simp] theorem setCtrl_engine (d q : Nat) (c : Nat × Nat) : (setCtrl s d q c).engine = s.engine := rfl
@[simp] theorem setCtrl_vrEngine (d q : Nat) (c : Nat × Nat) : (setCtrl s d q c).vrEngine = s.vrEngine := rfl
@[simp] theorem setCtrl_bte (d q : Nat) (c : Nat × Nat) : (setCtrl s d q c).bte = s.bte := rfl
@[simp] theorem setCtrl_rows (d q : Nat) (c : Nat × Nat) : (setCtrl s d q c).rows = s.rows := rfl
@[simp] theorem setCtrl_replay (d q : Nat) (c : Nat × Nat) : (setCtrl s d q c).replay = s.replay := rfl
@[simp] theorem setCtrl_folios (d q : Nat) (c : Nat × Nat) : (setCtrl s d q c).folios = s.folios := rfl
@[simp] theorem setCtrl_plat (d q : Nat) (c : Nat × Nat) : (setCtrl s d q c).plat = s.plat := rfl
@[simp] theorem setCtrl_sys (d q : Nat) (c : Nat × Nat) : (setCtrl s d q c).sys = s.sys := rfl
@[simp] theorem setCtrl_hub (d q : Nat) (c : Nat × Nat) : (setCtrl s d q c).hub = s.hub := rfl
@[simp] theorem setCtrl_dist (d q : Nat) (c : Nat × Nat) : (setCtrl s d q c).dist = s.dist := rfl
@[simp] theorem setCtrl_dbg (d q : Nat) (c : Nat × Nat) : (setCtrl s d q c).dbg = s.dbg := rfl
@[simp] theorem setCtrl_dbgLast (d q : Nat) (c : Nat × Nat) : (setCtrl s d q c).dbgLast = s.dbgLast := rfl
@[simp] theorem setCtrl_dbgStatus (d q : Nat) (c : Nat × Nat) : (setCtrl s d q c).dbgStatus = s.dbgStatus := rfl
@[simp] theorem setCtrl_part (d q : Nat) (c : Nat × Nat) : (setCtrl s d q c).part = s.part := rfl
@[simp] theorem setCtrl_inputs (d q : Nat) (c : Nat × Nat) : (setCtrl s d q c).inputs = s.inputs := rfl
@[simp] theorem setCtrl_free (d q : Nat) (c : Nat × Nat) : (setCtrl s d q c).free = s.free := rfl

@[simp] theorem sliceSet_clock (k : Nat) (p : SlicePart) : (sliceSet s k p).clock = s.clock := rfl
@[simp] theorem sliceSet_core (k : Nat) (p : SlicePart) : (sliceSet s k p).core = s.core := rfl
@[simp] theorem sliceSet_queues (k : Nat) (p : SlicePart) : (sliceSet s k p).queues = s.queues := rfl
@[simp] theorem sliceSet_oc (k : Nat) (p : SlicePart) : (sliceSet s k p).oc = s.oc := rfl
@[simp] theorem sliceSet_tags (k : Nat) (p : SlicePart) : (sliceSet s k p).tags = s.tags := rfl
@[simp] theorem sliceSet_engine (k : Nat) (p : SlicePart) : (sliceSet s k p).engine = s.engine := rfl
@[simp] theorem sliceSet_vrEngine (k : Nat) (p : SlicePart) : (sliceSet s k p).vrEngine = s.vrEngine := rfl
@[simp] theorem sliceSet_bte (k : Nat) (p : SlicePart) : (sliceSet s k p).bte = s.bte := rfl
@[simp] theorem sliceSet_rows (k : Nat) (p : SlicePart) : (sliceSet s k p).rows = s.rows := rfl
@[simp] theorem sliceSet_fabric (k : Nat) (p : SlicePart) : (sliceSet s k p).fabric = s.fabric := rfl
@[simp] theorem sliceSet_replay (k : Nat) (p : SlicePart) : (sliceSet s k p).replay = s.replay := rfl
@[simp] theorem sliceSet_folios (k : Nat) (p : SlicePart) : (sliceSet s k p).folios = s.folios := rfl
@[simp] theorem sliceSet_plat (k : Nat) (p : SlicePart) : (sliceSet s k p).plat = s.plat := rfl
@[simp] theorem sliceSet_hub (k : Nat) (p : SlicePart) : (sliceSet s k p).hub = s.hub := rfl
@[simp] theorem sliceSet_dist (k : Nat) (p : SlicePart) : (sliceSet s k p).dist = s.dist := rfl
@[simp] theorem sliceSet_dbg (k : Nat) (p : SlicePart) : (sliceSet s k p).dbg = s.dbg := rfl
@[simp] theorem sliceSet_dbgLast (k : Nat) (p : SlicePart) : (sliceSet s k p).dbgLast = s.dbgLast := rfl
@[simp] theorem sliceSet_dbgStatus (k : Nat) (p : SlicePart) : (sliceSet s k p).dbgStatus = s.dbgStatus := rfl
@[simp] theorem sliceSet_part (k : Nat) (p : SlicePart) : (sliceSet s k p).part = s.part := rfl
@[simp] theorem sliceSet_inputs (k : Nat) (p : SlicePart) : (sliceSet s k p).inputs = s.inputs := rfl
@[simp] theorem sliceSet_free (k : Nat) (p : SlicePart) : (sliceSet s k p).free = s.free := rfl

@[simp] theorem setFolio_clock (n : Nat) (f : Folio → Folio) : (setFolio s n f).clock = s.clock := rfl
@[simp] theorem setFolio_core (n : Nat) (f : Folio → Folio) : (setFolio s n f).core = s.core := rfl
@[simp] theorem setFolio_queues (n : Nat) (f : Folio → Folio) : (setFolio s n f).queues = s.queues := rfl
@[simp] theorem setFolio_oc (n : Nat) (f : Folio → Folio) : (setFolio s n f).oc = s.oc := rfl
@[simp] theorem setFolio_tags (n : Nat) (f : Folio → Folio) : (setFolio s n f).tags = s.tags := rfl
@[simp] theorem setFolio_engine (n : Nat) (f : Folio → Folio) : (setFolio s n f).engine = s.engine := rfl
@[simp] theorem setFolio_vrEngine (n : Nat) (f : Folio → Folio) : (setFolio s n f).vrEngine = s.vrEngine := rfl
@[simp] theorem setFolio_bte (n : Nat) (f : Folio → Folio) : (setFolio s n f).bte = s.bte := rfl
@[simp] theorem setFolio_rows (n : Nat) (f : Folio → Folio) : (setFolio s n f).rows = s.rows := rfl
@[simp] theorem setFolio_fabric (n : Nat) (f : Folio → Folio) : (setFolio s n f).fabric = s.fabric := rfl
@[simp] theorem setFolio_replay (n : Nat) (f : Folio → Folio) : (setFolio s n f).replay = s.replay := rfl
@[simp] theorem setFolio_plat (n : Nat) (f : Folio → Folio) : (setFolio s n f).plat = s.plat := rfl
@[simp] theorem setFolio_sys (n : Nat) (f : Folio → Folio) : (setFolio s n f).sys = s.sys := rfl
@[simp] theorem setFolio_hub (n : Nat) (f : Folio → Folio) : (setFolio s n f).hub = s.hub := rfl
@[simp] theorem setFolio_dist (n : Nat) (f : Folio → Folio) : (setFolio s n f).dist = s.dist := rfl
@[simp] theorem setFolio_dbg (n : Nat) (f : Folio → Folio) : (setFolio s n f).dbg = s.dbg := rfl
@[simp] theorem setFolio_dbgLast (n : Nat) (f : Folio → Folio) : (setFolio s n f).dbgLast = s.dbgLast := rfl
@[simp] theorem setFolio_dbgStatus (n : Nat) (f : Folio → Folio) : (setFolio s n f).dbgStatus = s.dbgStatus := rfl
@[simp] theorem setFolio_part (n : Nat) (f : Folio → Folio) : (setFolio s n f).part = s.part := rfl
@[simp] theorem setFolio_inputs (n : Nat) (f : Folio → Folio) : (setFolio s n f).inputs = s.inputs := rfl
@[simp] theorem setFolio_free (n : Nat) (f : Folio → Folio) : (setFolio s n f).free = s.free := rfl

@[simp] theorem onMx_clock (f : Matrix → Matrix) : (onMx s f).clock = s.clock := rfl
@[simp] theorem onMx_queues (f : Matrix → Matrix) : (onMx s f).queues = s.queues := rfl
@[simp] theorem onMx_oc (f : Matrix → Matrix) : (onMx s f).oc = s.oc := rfl
@[simp] theorem onMx_tags (f : Matrix → Matrix) : (onMx s f).tags = s.tags := rfl
@[simp] theorem onMx_engine (f : Matrix → Matrix) : (onMx s f).engine = s.engine := rfl
@[simp] theorem onMx_vrEngine (f : Matrix → Matrix) : (onMx s f).vrEngine = s.vrEngine := rfl
@[simp] theorem onMx_bte (f : Matrix → Matrix) : (onMx s f).bte = s.bte := rfl
@[simp] theorem onMx_rows (f : Matrix → Matrix) : (onMx s f).rows = s.rows := rfl
@[simp] theorem onMx_fabric (f : Matrix → Matrix) : (onMx s f).fabric = s.fabric := rfl
@[simp] theorem onMx_replay (f : Matrix → Matrix) : (onMx s f).replay = s.replay := rfl
@[simp] theorem onMx_folios (f : Matrix → Matrix) : (onMx s f).folios = s.folios := rfl
@[simp] theorem onMx_plat (f : Matrix → Matrix) : (onMx s f).plat = s.plat := rfl
@[simp] theorem onMx_sys (f : Matrix → Matrix) : (onMx s f).sys = s.sys := rfl
@[simp] theorem onMx_hub (f : Matrix → Matrix) : (onMx s f).hub = s.hub := rfl
@[simp] theorem onMx_dist (f : Matrix → Matrix) : (onMx s f).dist = s.dist := rfl
@[simp] theorem onMx_part (f : Matrix → Matrix) : (onMx s f).part = s.part := rfl
@[simp] theorem onMx_inputs (f : Matrix → Matrix) : (onMx s f).inputs = s.inputs := rfl
@[simp] theorem onMx_free (f : Matrix → Matrix) : (onMx s f).free = s.free := rfl
@[simp] theorem onMx_core_x (f : Matrix → Matrix) : (onMx s f).core.x = s.core.x := rfl
@[simp] theorem onMx_core_xmark (f : Matrix → Matrix) : (onMx s f).core.xmark = s.core.xmark := rfl
@[simp] theorem onMx_core_p (f : Matrix → Matrix) : (onMx s f).core.p = s.core.p := rfl
@[simp] theorem onMx_core_v (f : Matrix → Matrix) : (onMx s f).core.v = s.core.v := rfl
@[simp] theorem onMx_core_vmark (f : Matrix → Matrix) : (onMx s f).core.vmark = s.core.vmark := rfl
@[simp] theorem onMx_core_m (f : Matrix → Matrix) : (onMx s f).core.m = s.core.m := rfl
@[simp] theorem onMx_core_g (f : Matrix → Matrix) : (onMx s f).core.g = s.core.g := rfl
@[simp] theorem onMx_core_gmark (f : Matrix → Matrix) : (onMx s f).core.gmark = s.core.gmark := rfl
@[simp] theorem onMx_core_pc (f : Matrix → Matrix) : (onMx s f).core.pc = s.core.pc := rfl
@[simp] theorem onMx_core_sw (f : Matrix → Matrix) : (onMx s f).core.sw = s.core.sw := rfl
@[simp] theorem onMx_core_qmap (f : Matrix → Matrix) : (onMx s f).core.qmap = s.core.qmap := rfl
@[simp] theorem onMx_core_run (f : Matrix → Matrix) : (onMx s f).core.run = s.core.run := rfl
@[simp] theorem onMx_core_task (f : Matrix → Matrix) : (onMx s f).core.task = s.core.task := rfl
@[simp] theorem onMx_core_bundle (f : Matrix → Matrix) : (onMx s f).core.bundle = s.core.bundle := rfl
@[simp] theorem onMx_core_idx (f : Matrix → Matrix) : (onMx s f).core.idx = s.core.idx := rfl
@[simp] theorem onMx_core_sched (f : Matrix → Matrix) : (onMx s f).core.sched = s.core.sched := rfl
@[simp] theorem onMx_core_exposed (f : Matrix → Matrix) : (onMx s f).core.exposed = s.core.exposed := rfl
@[simp] theorem onMx_core_levels (f : Matrix → Matrix) : (onMx s f).core.levels = s.core.levels := rfl
@[simp] theorem onMx_core_board (f : Matrix → Matrix) : (onMx s f).core.board = s.core.board := rfl
@[simp] theorem onMx_core_vu (f : Matrix → Matrix) : (onMx s f).core.vu = s.core.vu := rfl
@[simp] theorem onMx_core_mx (f : Matrix → Matrix) : (onMx s f).core.mx = f s.core.mx := rfl
@[simp] theorem onMx_core_privAt (f : Matrix → Matrix) : (onMx s f).core.privAt = s.core.privAt := rfl
@[simp] theorem onMx_core_qmapAt (f : Matrix → Matrix) : (onMx s f).core.qmapAt = s.core.qmapAt := rfl
@[simp] theorem onMx_core_counts (f : Matrix → Matrix) : (onMx s f).core.counts = s.core.counts := rfl
@[simp] theorem onMx_core_csrAt (f : Matrix → Matrix) : (onMx s f).core.csrAt = s.core.csrAt := rfl

@[simp] theorem onVu_clock (f : VecUnit → VecUnit) : (onVu s f).clock = s.clock := rfl
@[simp] theorem onVu_queues (f : VecUnit → VecUnit) : (onVu s f).queues = s.queues := rfl
@[simp] theorem onVu_oc (f : VecUnit → VecUnit) : (onVu s f).oc = s.oc := rfl
@[simp] theorem onVu_tags (f : VecUnit → VecUnit) : (onVu s f).tags = s.tags := rfl
@[simp] theorem onVu_engine (f : VecUnit → VecUnit) : (onVu s f).engine = s.engine := rfl
@[simp] theorem onVu_vrEngine (f : VecUnit → VecUnit) : (onVu s f).vrEngine = s.vrEngine := rfl
@[simp] theorem onVu_bte (f : VecUnit → VecUnit) : (onVu s f).bte = s.bte := rfl
@[simp] theorem onVu_rows (f : VecUnit → VecUnit) : (onVu s f).rows = s.rows := rfl
@[simp] theorem onVu_fabric (f : VecUnit → VecUnit) : (onVu s f).fabric = s.fabric := rfl
@[simp] theorem onVu_replay (f : VecUnit → VecUnit) : (onVu s f).replay = s.replay := rfl
@[simp] theorem onVu_folios (f : VecUnit → VecUnit) : (onVu s f).folios = s.folios := rfl
@[simp] theorem onVu_plat (f : VecUnit → VecUnit) : (onVu s f).plat = s.plat := rfl
@[simp] theorem onVu_sys (f : VecUnit → VecUnit) : (onVu s f).sys = s.sys := rfl
@[simp] theorem onVu_hub (f : VecUnit → VecUnit) : (onVu s f).hub = s.hub := rfl
@[simp] theorem onVu_dist (f : VecUnit → VecUnit) : (onVu s f).dist = s.dist := rfl
@[simp] theorem onVu_part (f : VecUnit → VecUnit) : (onVu s f).part = s.part := rfl
@[simp] theorem onVu_inputs (f : VecUnit → VecUnit) : (onVu s f).inputs = s.inputs := rfl
@[simp] theorem onVu_free (f : VecUnit → VecUnit) : (onVu s f).free = s.free := rfl
@[simp] theorem onVu_core_x (f : VecUnit → VecUnit) : (onVu s f).core.x = s.core.x := rfl
@[simp] theorem onVu_core_xmark (f : VecUnit → VecUnit) : (onVu s f).core.xmark = s.core.xmark := rfl
@[simp] theorem onVu_core_p (f : VecUnit → VecUnit) : (onVu s f).core.p = s.core.p := rfl
@[simp] theorem onVu_core_v (f : VecUnit → VecUnit) : (onVu s f).core.v = s.core.v := rfl
@[simp] theorem onVu_core_vmark (f : VecUnit → VecUnit) : (onVu s f).core.vmark = s.core.vmark := rfl
@[simp] theorem onVu_core_m (f : VecUnit → VecUnit) : (onVu s f).core.m = s.core.m := rfl
@[simp] theorem onVu_core_g (f : VecUnit → VecUnit) : (onVu s f).core.g = s.core.g := rfl
@[simp] theorem onVu_core_gmark (f : VecUnit → VecUnit) : (onVu s f).core.gmark = s.core.gmark := rfl
@[simp] theorem onVu_core_pc (f : VecUnit → VecUnit) : (onVu s f).core.pc = s.core.pc := rfl
@[simp] theorem onVu_core_sw (f : VecUnit → VecUnit) : (onVu s f).core.sw = s.core.sw := rfl
@[simp] theorem onVu_core_qmap (f : VecUnit → VecUnit) : (onVu s f).core.qmap = s.core.qmap := rfl
@[simp] theorem onVu_core_run (f : VecUnit → VecUnit) : (onVu s f).core.run = s.core.run := rfl
@[simp] theorem onVu_core_task (f : VecUnit → VecUnit) : (onVu s f).core.task = s.core.task := rfl
@[simp] theorem onVu_core_bundle (f : VecUnit → VecUnit) : (onVu s f).core.bundle = s.core.bundle := rfl
@[simp] theorem onVu_core_idx (f : VecUnit → VecUnit) : (onVu s f).core.idx = s.core.idx := rfl
@[simp] theorem onVu_core_sched (f : VecUnit → VecUnit) : (onVu s f).core.sched = s.core.sched := rfl
@[simp] theorem onVu_core_exposed (f : VecUnit → VecUnit) : (onVu s f).core.exposed = s.core.exposed := rfl
@[simp] theorem onVu_core_levels (f : VecUnit → VecUnit) : (onVu s f).core.levels = s.core.levels := rfl
@[simp] theorem onVu_core_board (f : VecUnit → VecUnit) : (onVu s f).core.board = s.core.board := rfl
@[simp] theorem onVu_core_vu (f : VecUnit → VecUnit) : (onVu s f).core.vu = f s.core.vu := rfl
@[simp] theorem onVu_core_mx (f : VecUnit → VecUnit) : (onVu s f).core.mx = s.core.mx := rfl
@[simp] theorem onVu_core_privAt (f : VecUnit → VecUnit) : (onVu s f).core.privAt = s.core.privAt := rfl
@[simp] theorem onVu_core_qmapAt (f : VecUnit → VecUnit) : (onVu s f).core.qmapAt = s.core.qmapAt := rfl
@[simp] theorem onVu_core_counts (f : VecUnit → VecUnit) : (onVu s f).core.counts = s.core.counts := rfl
@[simp] theorem onVu_core_csrAt (f : VecUnit → VecUnit) : (onVu s f).core.csrAt = s.core.csrAt := rfl

@[simp] theorem onTask_clock (f : Task → Task) : (onTask s f).clock = s.clock := rfl
@[simp] theorem onTask_queues (f : Task → Task) : (onTask s f).queues = s.queues := rfl
@[simp] theorem onTask_oc (f : Task → Task) : (onTask s f).oc = s.oc := rfl
@[simp] theorem onTask_tags (f : Task → Task) : (onTask s f).tags = s.tags := rfl
@[simp] theorem onTask_engine (f : Task → Task) : (onTask s f).engine = s.engine := rfl
@[simp] theorem onTask_vrEngine (f : Task → Task) : (onTask s f).vrEngine = s.vrEngine := rfl
@[simp] theorem onTask_bte (f : Task → Task) : (onTask s f).bte = s.bte := rfl
@[simp] theorem onTask_rows (f : Task → Task) : (onTask s f).rows = s.rows := rfl
@[simp] theorem onTask_fabric (f : Task → Task) : (onTask s f).fabric = s.fabric := rfl
@[simp] theorem onTask_replay (f : Task → Task) : (onTask s f).replay = s.replay := rfl
@[simp] theorem onTask_folios (f : Task → Task) : (onTask s f).folios = s.folios := rfl
@[simp] theorem onTask_plat (f : Task → Task) : (onTask s f).plat = s.plat := rfl
@[simp] theorem onTask_sys (f : Task → Task) : (onTask s f).sys = s.sys := rfl
@[simp] theorem onTask_hub (f : Task → Task) : (onTask s f).hub = s.hub := rfl
@[simp] theorem onTask_dist (f : Task → Task) : (onTask s f).dist = s.dist := rfl
@[simp] theorem onTask_part (f : Task → Task) : (onTask s f).part = s.part := rfl
@[simp] theorem onTask_inputs (f : Task → Task) : (onTask s f).inputs = s.inputs := rfl
@[simp] theorem onTask_free (f : Task → Task) : (onTask s f).free = s.free := rfl
@[simp] theorem onTask_core_x (f : Task → Task) : (onTask s f).core.x = s.core.x := rfl
@[simp] theorem onTask_core_xmark (f : Task → Task) : (onTask s f).core.xmark = s.core.xmark := rfl
@[simp] theorem onTask_core_p (f : Task → Task) : (onTask s f).core.p = s.core.p := rfl
@[simp] theorem onTask_core_v (f : Task → Task) : (onTask s f).core.v = s.core.v := rfl
@[simp] theorem onTask_core_vmark (f : Task → Task) : (onTask s f).core.vmark = s.core.vmark := rfl
@[simp] theorem onTask_core_m (f : Task → Task) : (onTask s f).core.m = s.core.m := rfl
@[simp] theorem onTask_core_g (f : Task → Task) : (onTask s f).core.g = s.core.g := rfl
@[simp] theorem onTask_core_gmark (f : Task → Task) : (onTask s f).core.gmark = s.core.gmark := rfl
@[simp] theorem onTask_core_pc (f : Task → Task) : (onTask s f).core.pc = s.core.pc := rfl
@[simp] theorem onTask_core_sw (f : Task → Task) : (onTask s f).core.sw = s.core.sw := rfl
@[simp] theorem onTask_core_qmap (f : Task → Task) : (onTask s f).core.qmap = s.core.qmap := rfl
@[simp] theorem onTask_core_run (f : Task → Task) : (onTask s f).core.run = s.core.run := rfl
@[simp] theorem onTask_core_task (f : Task → Task) : (onTask s f).core.task = s.core.task.map f := rfl
@[simp] theorem onTask_core_bundle (f : Task → Task) : (onTask s f).core.bundle = s.core.bundle := rfl
@[simp] theorem onTask_core_idx (f : Task → Task) : (onTask s f).core.idx = s.core.idx := rfl
@[simp] theorem onTask_core_sched (f : Task → Task) : (onTask s f).core.sched = s.core.sched := rfl
@[simp] theorem onTask_core_exposed (f : Task → Task) : (onTask s f).core.exposed = s.core.exposed := rfl
@[simp] theorem onTask_core_levels (f : Task → Task) : (onTask s f).core.levels = s.core.levels := rfl
@[simp] theorem onTask_core_board (f : Task → Task) : (onTask s f).core.board = s.core.board := rfl
@[simp] theorem onTask_core_vu (f : Task → Task) : (onTask s f).core.vu = s.core.vu := rfl
@[simp] theorem onTask_core_mx (f : Task → Task) : (onTask s f).core.mx = s.core.mx := rfl
@[simp] theorem onTask_core_privAt (f : Task → Task) : (onTask s f).core.privAt = s.core.privAt := rfl
@[simp] theorem onTask_core_qmapAt (f : Task → Task) : (onTask s f).core.qmapAt = s.core.qmapAt := rfl
@[simp] theorem onTask_core_counts (f : Task → Task) : (onTask s f).core.counts = s.core.counts := rfl
@[simp] theorem onTask_core_csrAt (f : Task → Task) : (onTask s f).core.csrAt = s.core.csrAt := rfl

@[simp] theorem stall_clock : (stall s).clock = s.clock := rfl
@[simp] theorem stall_queues : (stall s).queues = s.queues := rfl
@[simp] theorem stall_oc : (stall s).oc = s.oc := rfl
@[simp] theorem stall_tags : (stall s).tags = s.tags := rfl
@[simp] theorem stall_engine : (stall s).engine = s.engine := rfl
@[simp] theorem stall_vrEngine : (stall s).vrEngine = s.vrEngine := rfl
@[simp] theorem stall_bte : (stall s).bte = s.bte := rfl
@[simp] theorem stall_rows : (stall s).rows = s.rows := rfl
@[simp] theorem stall_fabric : (stall s).fabric = s.fabric := rfl
@[simp] theorem stall_replay : (stall s).replay = s.replay := rfl
@[simp] theorem stall_folios : (stall s).folios = s.folios := rfl
@[simp] theorem stall_plat : (stall s).plat = s.plat := rfl
@[simp] theorem stall_sys : (stall s).sys = s.sys := rfl
@[simp] theorem stall_hub : (stall s).hub = s.hub := rfl
@[simp] theorem stall_dist : (stall s).dist = s.dist := rfl
@[simp] theorem stall_part : (stall s).part = s.part := rfl
@[simp] theorem stall_inputs : (stall s).inputs = s.inputs := rfl
@[simp] theorem stall_free : (stall s).free = s.free := rfl
@[simp] theorem stall_core_x : (stall s).core.x = s.core.x := rfl
@[simp] theorem stall_core_xmark : (stall s).core.xmark = s.core.xmark := rfl
@[simp] theorem stall_core_p : (stall s).core.p = s.core.p := rfl
@[simp] theorem stall_core_v : (stall s).core.v = s.core.v := rfl
@[simp] theorem stall_core_vmark : (stall s).core.vmark = s.core.vmark := rfl
@[simp] theorem stall_core_m : (stall s).core.m = s.core.m := rfl
@[simp] theorem stall_core_g : (stall s).core.g = s.core.g := rfl
@[simp] theorem stall_core_gmark : (stall s).core.gmark = s.core.gmark := rfl
@[simp] theorem stall_core_pc : (stall s).core.pc = s.core.pc := rfl
@[simp] theorem stall_core_sw : (stall s).core.sw = s.core.sw := rfl
@[simp] theorem stall_core_qmap : (stall s).core.qmap = s.core.qmap := rfl
@[simp] theorem stall_core_run : (stall s).core.run = s.core.run := rfl
@[simp] theorem stall_core_task : (stall s).core.task = s.core.task := rfl
@[simp] theorem stall_core_bundle : (stall s).core.bundle = s.core.bundle := rfl
@[simp] theorem stall_core_idx : (stall s).core.idx = s.core.idx := rfl
@[simp] theorem stall_core_held : (stall s).core.held = 1 := rfl
@[simp] theorem stall_core_sched : (stall s).core.sched = s.core.sched := rfl
@[simp] theorem stall_core_exposed : (stall s).core.exposed = s.core.exposed := rfl
@[simp] theorem stall_core_levels : (stall s).core.levels = s.core.levels := rfl
@[simp] theorem stall_core_board : (stall s).core.board = s.core.board := rfl
@[simp] theorem stall_core_vu : (stall s).core.vu = s.core.vu := rfl
@[simp] theorem stall_core_mx : (stall s).core.mx = s.core.mx := rfl
@[simp] theorem stall_core_privAt : (stall s).core.privAt = s.core.privAt := rfl
@[simp] theorem stall_core_qmapAt : (stall s).core.qmapAt = s.core.qmapAt := rfl
@[simp] theorem stall_core_counts : (stall s).core.counts = s.core.counts := rfl
@[simp] theorem stall_core_csrAt : (stall s).core.csrAt = s.core.csrAt := rfl

@[simp] theorem expose_clock (n : Nat) (d : Dest) (w : Nat) : (expose s n d w).clock = s.clock := rfl
@[simp] theorem expose_queues (n : Nat) (d : Dest) (w : Nat) : (expose s n d w).queues = s.queues := rfl
@[simp] theorem expose_oc (n : Nat) (d : Dest) (w : Nat) : (expose s n d w).oc = s.oc := rfl
@[simp] theorem expose_tags (n : Nat) (d : Dest) (w : Nat) : (expose s n d w).tags = s.tags := rfl
@[simp] theorem expose_engine (n : Nat) (d : Dest) (w : Nat) : (expose s n d w).engine = s.engine := rfl
@[simp] theorem expose_vrEngine (n : Nat) (d : Dest) (w : Nat) : (expose s n d w).vrEngine = s.vrEngine := rfl
@[simp] theorem expose_bte (n : Nat) (d : Dest) (w : Nat) : (expose s n d w).bte = s.bte := rfl
@[simp] theorem expose_rows (n : Nat) (d : Dest) (w : Nat) : (expose s n d w).rows = s.rows := rfl
@[simp] theorem expose_fabric (n : Nat) (d : Dest) (w : Nat) : (expose s n d w).fabric = s.fabric := rfl
@[simp] theorem expose_replay (n : Nat) (d : Dest) (w : Nat) : (expose s n d w).replay = s.replay := rfl
@[simp] theorem expose_folios (n : Nat) (d : Dest) (w : Nat) : (expose s n d w).folios = s.folios := rfl
@[simp] theorem expose_plat (n : Nat) (d : Dest) (w : Nat) : (expose s n d w).plat = s.plat := rfl
@[simp] theorem expose_sys (n : Nat) (d : Dest) (w : Nat) : (expose s n d w).sys = s.sys := rfl
@[simp] theorem expose_hub (n : Nat) (d : Dest) (w : Nat) : (expose s n d w).hub = s.hub := rfl
@[simp] theorem expose_dist (n : Nat) (d : Dest) (w : Nat) : (expose s n d w).dist = s.dist := rfl
@[simp] theorem expose_part (n : Nat) (d : Dest) (w : Nat) : (expose s n d w).part = s.part := rfl
@[simp] theorem expose_inputs (n : Nat) (d : Dest) (w : Nat) : (expose s n d w).inputs = s.inputs := rfl
@[simp] theorem expose_free (n : Nat) (d : Dest) (w : Nat) : (expose s n d w).free = s.free := rfl
@[simp] theorem expose_core_x (n : Nat) (d : Dest) (w : Nat) : (expose s n d w).core.x = s.core.x := rfl
@[simp] theorem expose_core_xmark (n : Nat) (d : Dest) (w : Nat) : (expose s n d w).core.xmark = s.core.xmark := rfl
@[simp] theorem expose_core_p (n : Nat) (d : Dest) (w : Nat) : (expose s n d w).core.p = s.core.p := rfl
@[simp] theorem expose_core_v (n : Nat) (d : Dest) (w : Nat) : (expose s n d w).core.v = s.core.v := rfl
@[simp] theorem expose_core_vmark (n : Nat) (d : Dest) (w : Nat) : (expose s n d w).core.vmark = s.core.vmark := rfl
@[simp] theorem expose_core_m (n : Nat) (d : Dest) (w : Nat) : (expose s n d w).core.m = s.core.m := rfl
@[simp] theorem expose_core_g (n : Nat) (d : Dest) (w : Nat) : (expose s n d w).core.g = s.core.g := rfl
@[simp] theorem expose_core_gmark (n : Nat) (d : Dest) (w : Nat) : (expose s n d w).core.gmark = s.core.gmark := rfl
@[simp] theorem expose_core_pc (n : Nat) (d : Dest) (w : Nat) : (expose s n d w).core.pc = s.core.pc := rfl
@[simp] theorem expose_core_sw (n : Nat) (d : Dest) (w : Nat) : (expose s n d w).core.sw = s.core.sw := rfl
@[simp] theorem expose_core_qmap (n : Nat) (d : Dest) (w : Nat) : (expose s n d w).core.qmap = s.core.qmap := rfl
@[simp] theorem expose_core_run (n : Nat) (d : Dest) (w : Nat) : (expose s n d w).core.run = s.core.run := rfl
@[simp] theorem expose_core_task (n : Nat) (d : Dest) (w : Nat) : (expose s n d w).core.task = s.core.task := rfl
@[simp] theorem expose_core_bundle (n : Nat) (d : Dest) (w : Nat) : (expose s n d w).core.bundle = s.core.bundle := rfl
@[simp] theorem expose_core_idx (n : Nat) (d : Dest) (w : Nat) : (expose s n d w).core.idx = s.core.idx := rfl
@[simp] theorem expose_core_sched (n : Nat) (d : Dest) (w : Nat) : (expose s n d w).core.sched = s.core.sched := rfl
@[simp] theorem expose_core_levels (n : Nat) (d : Dest) (w : Nat) : (expose s n d w).core.levels = s.core.levels := rfl
@[simp] theorem expose_core_board (n : Nat) (d : Dest) (w : Nat) : (expose s n d w).core.board = s.core.board := rfl
@[simp] theorem expose_core_vu (n : Nat) (d : Dest) (w : Nat) : (expose s n d w).core.vu = s.core.vu := rfl
@[simp] theorem expose_core_mx (n : Nat) (d : Dest) (w : Nat) : (expose s n d w).core.mx = s.core.mx := rfl
@[simp] theorem expose_core_privAt (n : Nat) (d : Dest) (w : Nat) : (expose s n d w).core.privAt = s.core.privAt := rfl
@[simp] theorem expose_core_qmapAt (n : Nat) (d : Dest) (w : Nat) : (expose s n d w).core.qmapAt = s.core.qmapAt := rfl
@[simp] theorem expose_core_counts (n : Nat) (d : Dest) (w : Nat) : (expose s n d w).core.counts = s.core.counts := rfl
@[simp] theorem expose_core_csrAt (n : Nat) (d : Dest) (w : Nat) : (expose s n d w).core.csrAt = s.core.csrAt := rfl

@[simp] theorem exposeMarked_clock (n : Nat) (d : Dest) (w : Nat) (k : Mark) : (exposeMarked s n d w k).clock = s.clock := rfl
@[simp] theorem exposeMarked_queues (n : Nat) (d : Dest) (w : Nat) (k : Mark) : (exposeMarked s n d w k).queues = s.queues := rfl
@[simp] theorem exposeMarked_oc (n : Nat) (d : Dest) (w : Nat) (k : Mark) : (exposeMarked s n d w k).oc = s.oc := rfl
@[simp] theorem exposeMarked_tags (n : Nat) (d : Dest) (w : Nat) (k : Mark) : (exposeMarked s n d w k).tags = s.tags := rfl
@[simp] theorem exposeMarked_engine (n : Nat) (d : Dest) (w : Nat) (k : Mark) : (exposeMarked s n d w k).engine = s.engine := rfl
@[simp] theorem exposeMarked_vrEngine (n : Nat) (d : Dest) (w : Nat) (k : Mark) : (exposeMarked s n d w k).vrEngine = s.vrEngine := rfl
@[simp] theorem exposeMarked_bte (n : Nat) (d : Dest) (w : Nat) (k : Mark) : (exposeMarked s n d w k).bte = s.bte := rfl
@[simp] theorem exposeMarked_rows (n : Nat) (d : Dest) (w : Nat) (k : Mark) : (exposeMarked s n d w k).rows = s.rows := rfl
@[simp] theorem exposeMarked_fabric (n : Nat) (d : Dest) (w : Nat) (k : Mark) : (exposeMarked s n d w k).fabric = s.fabric := rfl
@[simp] theorem exposeMarked_replay (n : Nat) (d : Dest) (w : Nat) (k : Mark) : (exposeMarked s n d w k).replay = s.replay := rfl
@[simp] theorem exposeMarked_folios (n : Nat) (d : Dest) (w : Nat) (k : Mark) : (exposeMarked s n d w k).folios = s.folios := rfl
@[simp] theorem exposeMarked_plat (n : Nat) (d : Dest) (w : Nat) (k : Mark) : (exposeMarked s n d w k).plat = s.plat := rfl
@[simp] theorem exposeMarked_sys (n : Nat) (d : Dest) (w : Nat) (k : Mark) : (exposeMarked s n d w k).sys = s.sys := rfl
@[simp] theorem exposeMarked_hub (n : Nat) (d : Dest) (w : Nat) (k : Mark) : (exposeMarked s n d w k).hub = s.hub := rfl
@[simp] theorem exposeMarked_dist (n : Nat) (d : Dest) (w : Nat) (k : Mark) : (exposeMarked s n d w k).dist = s.dist := rfl
@[simp] theorem exposeMarked_part (n : Nat) (d : Dest) (w : Nat) (k : Mark) : (exposeMarked s n d w k).part = s.part := rfl
@[simp] theorem exposeMarked_inputs (n : Nat) (d : Dest) (w : Nat) (k : Mark) : (exposeMarked s n d w k).inputs = s.inputs := rfl
@[simp] theorem exposeMarked_free (n : Nat) (d : Dest) (w : Nat) (k : Mark) : (exposeMarked s n d w k).free = s.free := rfl
@[simp] theorem exposeMarked_core_x (n : Nat) (d : Dest) (w : Nat) (k : Mark) : (exposeMarked s n d w k).core.x = s.core.x := rfl
@[simp] theorem exposeMarked_core_xmark (n : Nat) (d : Dest) (w : Nat) (k : Mark) : (exposeMarked s n d w k).core.xmark = s.core.xmark := rfl
@[simp] theorem exposeMarked_core_p (n : Nat) (d : Dest) (w : Nat) (k : Mark) : (exposeMarked s n d w k).core.p = s.core.p := rfl
@[simp] theorem exposeMarked_core_v (n : Nat) (d : Dest) (w : Nat) (k : Mark) : (exposeMarked s n d w k).core.v = s.core.v := rfl
@[simp] theorem exposeMarked_core_vmark (n : Nat) (d : Dest) (w : Nat) (k : Mark) : (exposeMarked s n d w k).core.vmark = s.core.vmark := rfl
@[simp] theorem exposeMarked_core_m (n : Nat) (d : Dest) (w : Nat) (k : Mark) : (exposeMarked s n d w k).core.m = s.core.m := rfl
@[simp] theorem exposeMarked_core_g (n : Nat) (d : Dest) (w : Nat) (k : Mark) : (exposeMarked s n d w k).core.g = s.core.g := rfl
@[simp] theorem exposeMarked_core_gmark (n : Nat) (d : Dest) (w : Nat) (k : Mark) : (exposeMarked s n d w k).core.gmark = s.core.gmark := rfl
@[simp] theorem exposeMarked_core_pc (n : Nat) (d : Dest) (w : Nat) (k : Mark) : (exposeMarked s n d w k).core.pc = s.core.pc := rfl
@[simp] theorem exposeMarked_core_sw (n : Nat) (d : Dest) (w : Nat) (k : Mark) : (exposeMarked s n d w k).core.sw = s.core.sw := rfl
@[simp] theorem exposeMarked_core_qmap (n : Nat) (d : Dest) (w : Nat) (k : Mark) : (exposeMarked s n d w k).core.qmap = s.core.qmap := rfl
@[simp] theorem exposeMarked_core_run (n : Nat) (d : Dest) (w : Nat) (k : Mark) : (exposeMarked s n d w k).core.run = s.core.run := rfl
@[simp] theorem exposeMarked_core_task (n : Nat) (d : Dest) (w : Nat) (k : Mark) : (exposeMarked s n d w k).core.task = s.core.task := rfl
@[simp] theorem exposeMarked_core_bundle (n : Nat) (d : Dest) (w : Nat) (k : Mark) : (exposeMarked s n d w k).core.bundle = s.core.bundle := rfl
@[simp] theorem exposeMarked_core_idx (n : Nat) (d : Dest) (w : Nat) (k : Mark) : (exposeMarked s n d w k).core.idx = s.core.idx := rfl
@[simp] theorem exposeMarked_core_sched (n : Nat) (d : Dest) (w : Nat) (k : Mark) : (exposeMarked s n d w k).core.sched = s.core.sched := rfl
@[simp] theorem exposeMarked_core_levels (n : Nat) (d : Dest) (w : Nat) (k : Mark) : (exposeMarked s n d w k).core.levels = s.core.levels := rfl
@[simp] theorem exposeMarked_core_board (n : Nat) (d : Dest) (w : Nat) (k : Mark) : (exposeMarked s n d w k).core.board = s.core.board := rfl
@[simp] theorem exposeMarked_core_vu (n : Nat) (d : Dest) (w : Nat) (k : Mark) : (exposeMarked s n d w k).core.vu = s.core.vu := rfl
@[simp] theorem exposeMarked_core_mx (n : Nat) (d : Dest) (w : Nat) (k : Mark) : (exposeMarked s n d w k).core.mx = s.core.mx := rfl
@[simp] theorem exposeMarked_core_privAt (n : Nat) (d : Dest) (w : Nat) (k : Mark) : (exposeMarked s n d w k).core.privAt = s.core.privAt := rfl
@[simp] theorem exposeMarked_core_qmapAt (n : Nat) (d : Dest) (w : Nat) (k : Mark) : (exposeMarked s n d w k).core.qmapAt = s.core.qmapAt := rfl
@[simp] theorem exposeMarked_core_counts (n : Nat) (d : Dest) (w : Nat) (k : Mark) : (exposeMarked s n d w k).core.counts = s.core.counts := rfl
@[simp] theorem exposeMarked_core_csrAt (n : Nat) (d : Dest) (w : Nat) (k : Mark) : (exposeMarked s n d w k).core.csrAt = s.core.csrAt := rfl

@[simp] theorem exposeVec_clock (n : Nat) (d : Dest) (w c : Nat) (k : Mark) : (exposeVec s n d w c k).clock = s.clock := rfl
@[simp] theorem exposeVec_queues (n : Nat) (d : Dest) (w c : Nat) (k : Mark) : (exposeVec s n d w c k).queues = s.queues := rfl
@[simp] theorem exposeVec_oc (n : Nat) (d : Dest) (w c : Nat) (k : Mark) : (exposeVec s n d w c k).oc = s.oc := rfl
@[simp] theorem exposeVec_tags (n : Nat) (d : Dest) (w c : Nat) (k : Mark) : (exposeVec s n d w c k).tags = s.tags := rfl
@[simp] theorem exposeVec_engine (n : Nat) (d : Dest) (w c : Nat) (k : Mark) : (exposeVec s n d w c k).engine = s.engine := rfl
@[simp] theorem exposeVec_vrEngine (n : Nat) (d : Dest) (w c : Nat) (k : Mark) : (exposeVec s n d w c k).vrEngine = s.vrEngine := rfl
@[simp] theorem exposeVec_bte (n : Nat) (d : Dest) (w c : Nat) (k : Mark) : (exposeVec s n d w c k).bte = s.bte := rfl
@[simp] theorem exposeVec_rows (n : Nat) (d : Dest) (w c : Nat) (k : Mark) : (exposeVec s n d w c k).rows = s.rows := rfl
@[simp] theorem exposeVec_fabric (n : Nat) (d : Dest) (w c : Nat) (k : Mark) : (exposeVec s n d w c k).fabric = s.fabric := rfl
@[simp] theorem exposeVec_replay (n : Nat) (d : Dest) (w c : Nat) (k : Mark) : (exposeVec s n d w c k).replay = s.replay := rfl
@[simp] theorem exposeVec_folios (n : Nat) (d : Dest) (w c : Nat) (k : Mark) : (exposeVec s n d w c k).folios = s.folios := rfl
@[simp] theorem exposeVec_plat (n : Nat) (d : Dest) (w c : Nat) (k : Mark) : (exposeVec s n d w c k).plat = s.plat := rfl
@[simp] theorem exposeVec_sys (n : Nat) (d : Dest) (w c : Nat) (k : Mark) : (exposeVec s n d w c k).sys = s.sys := rfl
@[simp] theorem exposeVec_hub (n : Nat) (d : Dest) (w c : Nat) (k : Mark) : (exposeVec s n d w c k).hub = s.hub := rfl
@[simp] theorem exposeVec_dist (n : Nat) (d : Dest) (w c : Nat) (k : Mark) : (exposeVec s n d w c k).dist = s.dist := rfl
@[simp] theorem exposeVec_part (n : Nat) (d : Dest) (w c : Nat) (k : Mark) : (exposeVec s n d w c k).part = s.part := rfl
@[simp] theorem exposeVec_inputs (n : Nat) (d : Dest) (w c : Nat) (k : Mark) : (exposeVec s n d w c k).inputs = s.inputs := rfl
@[simp] theorem exposeVec_free (n : Nat) (d : Dest) (w c : Nat) (k : Mark) : (exposeVec s n d w c k).free = s.free := rfl
@[simp] theorem exposeVec_core_x (n : Nat) (d : Dest) (w c : Nat) (k : Mark) : (exposeVec s n d w c k).core.x = s.core.x := rfl
@[simp] theorem exposeVec_core_xmark (n : Nat) (d : Dest) (w c : Nat) (k : Mark) : (exposeVec s n d w c k).core.xmark = s.core.xmark := rfl
@[simp] theorem exposeVec_core_p (n : Nat) (d : Dest) (w c : Nat) (k : Mark) : (exposeVec s n d w c k).core.p = s.core.p := rfl
@[simp] theorem exposeVec_core_v (n : Nat) (d : Dest) (w c : Nat) (k : Mark) : (exposeVec s n d w c k).core.v = s.core.v := rfl
@[simp] theorem exposeVec_core_vmark (n : Nat) (d : Dest) (w c : Nat) (k : Mark) : (exposeVec s n d w c k).core.vmark = s.core.vmark := rfl
@[simp] theorem exposeVec_core_m (n : Nat) (d : Dest) (w c : Nat) (k : Mark) : (exposeVec s n d w c k).core.m = s.core.m := rfl
@[simp] theorem exposeVec_core_g (n : Nat) (d : Dest) (w c : Nat) (k : Mark) : (exposeVec s n d w c k).core.g = s.core.g := rfl
@[simp] theorem exposeVec_core_gmark (n : Nat) (d : Dest) (w c : Nat) (k : Mark) : (exposeVec s n d w c k).core.gmark = s.core.gmark := rfl
@[simp] theorem exposeVec_core_pc (n : Nat) (d : Dest) (w c : Nat) (k : Mark) : (exposeVec s n d w c k).core.pc = s.core.pc := rfl
@[simp] theorem exposeVec_core_sw (n : Nat) (d : Dest) (w c : Nat) (k : Mark) : (exposeVec s n d w c k).core.sw = s.core.sw := rfl
@[simp] theorem exposeVec_core_qmap (n : Nat) (d : Dest) (w c : Nat) (k : Mark) : (exposeVec s n d w c k).core.qmap = s.core.qmap := rfl
@[simp] theorem exposeVec_core_run (n : Nat) (d : Dest) (w c : Nat) (k : Mark) : (exposeVec s n d w c k).core.run = s.core.run := rfl
@[simp] theorem exposeVec_core_task (n : Nat) (d : Dest) (w c : Nat) (k : Mark) : (exposeVec s n d w c k).core.task = s.core.task := rfl
@[simp] theorem exposeVec_core_bundle (n : Nat) (d : Dest) (w c : Nat) (k : Mark) : (exposeVec s n d w c k).core.bundle = s.core.bundle := rfl
@[simp] theorem exposeVec_core_idx (n : Nat) (d : Dest) (w c : Nat) (k : Mark) : (exposeVec s n d w c k).core.idx = s.core.idx := rfl
@[simp] theorem exposeVec_core_sched (n : Nat) (d : Dest) (w c : Nat) (k : Mark) : (exposeVec s n d w c k).core.sched = s.core.sched := rfl
@[simp] theorem exposeVec_core_levels (n : Nat) (d : Dest) (w c : Nat) (k : Mark) : (exposeVec s n d w c k).core.levels = s.core.levels := rfl
@[simp] theorem exposeVec_core_board (n : Nat) (d : Dest) (w c : Nat) (k : Mark) : (exposeVec s n d w c k).core.board = s.core.board := rfl
@[simp] theorem exposeVec_core_vu (n : Nat) (d : Dest) (w c : Nat) (k : Mark) : (exposeVec s n d w c k).core.vu = s.core.vu := rfl
@[simp] theorem exposeVec_core_mx (n : Nat) (d : Dest) (w c : Nat) (k : Mark) : (exposeVec s n d w c k).core.mx = s.core.mx := rfl
@[simp] theorem exposeVec_core_privAt (n : Nat) (d : Dest) (w c : Nat) (k : Mark) : (exposeVec s n d w c k).core.privAt = s.core.privAt := rfl
@[simp] theorem exposeVec_core_qmapAt (n : Nat) (d : Dest) (w c : Nat) (k : Mark) : (exposeVec s n d w c k).core.qmapAt = s.core.qmapAt := rfl
@[simp] theorem exposeVec_core_counts (n : Nat) (d : Dest) (w c : Nat) (k : Mark) : (exposeVec s n d w c k).core.counts = s.core.counts := rfl
@[simp] theorem exposeVec_core_csrAt (n : Nat) (d : Dest) (w c : Nat) (k : Mark) : (exposeVec s n d w c k).core.csrAt = s.core.csrAt := rfl

@[simp] theorem pend_clock (d : Dest) (w : Option Nat) (k : Mark) (n : Option Nat) : ((pend s d w k n).1).clock = s.clock := rfl
@[simp] theorem pend_queues (d : Dest) (w : Option Nat) (k : Mark) (n : Option Nat) : ((pend s d w k n).1).queues = s.queues := rfl
@[simp] theorem pend_oc (d : Dest) (w : Option Nat) (k : Mark) (n : Option Nat) : ((pend s d w k n).1).oc = s.oc := rfl
@[simp] theorem pend_tags (d : Dest) (w : Option Nat) (k : Mark) (n : Option Nat) : ((pend s d w k n).1).tags = s.tags := rfl
@[simp] theorem pend_engine (d : Dest) (w : Option Nat) (k : Mark) (n : Option Nat) : ((pend s d w k n).1).engine = s.engine := rfl
@[simp] theorem pend_vrEngine (d : Dest) (w : Option Nat) (k : Mark) (n : Option Nat) : ((pend s d w k n).1).vrEngine = s.vrEngine := rfl
@[simp] theorem pend_bte (d : Dest) (w : Option Nat) (k : Mark) (n : Option Nat) : ((pend s d w k n).1).bte = s.bte := rfl
@[simp] theorem pend_rows (d : Dest) (w : Option Nat) (k : Mark) (n : Option Nat) : ((pend s d w k n).1).rows = s.rows := rfl
@[simp] theorem pend_fabric (d : Dest) (w : Option Nat) (k : Mark) (n : Option Nat) : ((pend s d w k n).1).fabric = s.fabric := rfl
@[simp] theorem pend_replay (d : Dest) (w : Option Nat) (k : Mark) (n : Option Nat) : ((pend s d w k n).1).replay = s.replay := rfl
@[simp] theorem pend_folios (d : Dest) (w : Option Nat) (k : Mark) (n : Option Nat) : ((pend s d w k n).1).folios = s.folios := rfl
@[simp] theorem pend_plat (d : Dest) (w : Option Nat) (k : Mark) (n : Option Nat) : ((pend s d w k n).1).plat = s.plat := rfl
@[simp] theorem pend_sys (d : Dest) (w : Option Nat) (k : Mark) (n : Option Nat) : ((pend s d w k n).1).sys = s.sys := rfl
@[simp] theorem pend_hub (d : Dest) (w : Option Nat) (k : Mark) (n : Option Nat) : ((pend s d w k n).1).hub = s.hub := rfl
@[simp] theorem pend_dist (d : Dest) (w : Option Nat) (k : Mark) (n : Option Nat) : ((pend s d w k n).1).dist = s.dist := rfl
@[simp] theorem pend_part (d : Dest) (w : Option Nat) (k : Mark) (n : Option Nat) : ((pend s d w k n).1).part = s.part := rfl
@[simp] theorem pend_inputs (d : Dest) (w : Option Nat) (k : Mark) (n : Option Nat) : ((pend s d w k n).1).inputs = s.inputs := rfl
@[simp] theorem pend_free (d : Dest) (w : Option Nat) (k : Mark) (n : Option Nat) : ((pend s d w k n).1).free = s.free := rfl
@[simp] theorem pend_core_x (d : Dest) (w : Option Nat) (k : Mark) (n : Option Nat) : ((pend s d w k n).1).core.x = s.core.x := rfl
@[simp] theorem pend_core_xmark (d : Dest) (w : Option Nat) (k : Mark) (n : Option Nat) : ((pend s d w k n).1).core.xmark = s.core.xmark := rfl
@[simp] theorem pend_core_p (d : Dest) (w : Option Nat) (k : Mark) (n : Option Nat) : ((pend s d w k n).1).core.p = s.core.p := rfl
@[simp] theorem pend_core_v (d : Dest) (w : Option Nat) (k : Mark) (n : Option Nat) : ((pend s d w k n).1).core.v = s.core.v := rfl
@[simp] theorem pend_core_vmark (d : Dest) (w : Option Nat) (k : Mark) (n : Option Nat) : ((pend s d w k n).1).core.vmark = s.core.vmark := rfl
@[simp] theorem pend_core_m (d : Dest) (w : Option Nat) (k : Mark) (n : Option Nat) : ((pend s d w k n).1).core.m = s.core.m := rfl
@[simp] theorem pend_core_g (d : Dest) (w : Option Nat) (k : Mark) (n : Option Nat) : ((pend s d w k n).1).core.g = s.core.g := rfl
@[simp] theorem pend_core_gmark (d : Dest) (w : Option Nat) (k : Mark) (n : Option Nat) : ((pend s d w k n).1).core.gmark = s.core.gmark := rfl
@[simp] theorem pend_core_pc (d : Dest) (w : Option Nat) (k : Mark) (n : Option Nat) : ((pend s d w k n).1).core.pc = s.core.pc := rfl
@[simp] theorem pend_core_sw (d : Dest) (w : Option Nat) (k : Mark) (n : Option Nat) : ((pend s d w k n).1).core.sw = s.core.sw := rfl
@[simp] theorem pend_core_qmap (d : Dest) (w : Option Nat) (k : Mark) (n : Option Nat) : ((pend s d w k n).1).core.qmap = s.core.qmap := rfl
@[simp] theorem pend_core_run (d : Dest) (w : Option Nat) (k : Mark) (n : Option Nat) : ((pend s d w k n).1).core.run = s.core.run := rfl
@[simp] theorem pend_core_task (d : Dest) (w : Option Nat) (k : Mark) (n : Option Nat) : ((pend s d w k n).1).core.task = s.core.task := rfl
@[simp] theorem pend_core_bundle (d : Dest) (w : Option Nat) (k : Mark) (n : Option Nat) : ((pend s d w k n).1).core.bundle = s.core.bundle := rfl
@[simp] theorem pend_core_idx (d : Dest) (w : Option Nat) (k : Mark) (n : Option Nat) : ((pend s d w k n).1).core.idx = s.core.idx := rfl
@[simp] theorem pend_core_sched (d : Dest) (w : Option Nat) (k : Mark) (n : Option Nat) : ((pend s d w k n).1).core.sched = s.core.sched := rfl
@[simp] theorem pend_core_exposed (d : Dest) (w : Option Nat) (k : Mark) (n : Option Nat) : ((pend s d w k n).1).core.exposed = s.core.exposed := rfl
@[simp] theorem pend_core_levels (d : Dest) (w : Option Nat) (k : Mark) (n : Option Nat) : ((pend s d w k n).1).core.levels = s.core.levels := rfl
@[simp] theorem pend_core_nextId (d : Dest) (w : Option Nat) (k : Mark) (n : Option Nat) : ((pend s d w k n).1).core.nextId = s.core.nextId + 1 := rfl
@[simp] theorem pend_core_vu (d : Dest) (w : Option Nat) (k : Mark) (n : Option Nat) : ((pend s d w k n).1).core.vu = s.core.vu := rfl
@[simp] theorem pend_core_mx (d : Dest) (w : Option Nat) (k : Mark) (n : Option Nat) : ((pend s d w k n).1).core.mx = s.core.mx := rfl
@[simp] theorem pend_core_privAt (d : Dest) (w : Option Nat) (k : Mark) (n : Option Nat) : ((pend s d w k n).1).core.privAt = s.core.privAt := rfl
@[simp] theorem pend_core_qmapAt (d : Dest) (w : Option Nat) (k : Mark) (n : Option Nat) : ((pend s d w k n).1).core.qmapAt = s.core.qmapAt := rfl
@[simp] theorem pend_core_counts (d : Dest) (w : Option Nat) (k : Mark) (n : Option Nat) : ((pend s d w k n).1).core.counts = s.core.counts := rfl
@[simp] theorem pend_core_csrAt (d : Dest) (w : Option Nat) (k : Mark) (n : Option Nat) : ((pend s d w k n).1).core.csrAt = s.core.csrAt := rfl

@[simp] theorem pendVec_clock (d : Dest) (w : Option Nat) (k : Mark) (n : Option Nat) (a b : Nat) : ((pendVec s d w k n a b).1).clock = s.clock := rfl
@[simp] theorem pendVec_queues (d : Dest) (w : Option Nat) (k : Mark) (n : Option Nat) (a b : Nat) : ((pendVec s d w k n a b).1).queues = s.queues := rfl
@[simp] theorem pendVec_oc (d : Dest) (w : Option Nat) (k : Mark) (n : Option Nat) (a b : Nat) : ((pendVec s d w k n a b).1).oc = s.oc := rfl
@[simp] theorem pendVec_tags (d : Dest) (w : Option Nat) (k : Mark) (n : Option Nat) (a b : Nat) : ((pendVec s d w k n a b).1).tags = s.tags := rfl
@[simp] theorem pendVec_engine (d : Dest) (w : Option Nat) (k : Mark) (n : Option Nat) (a b : Nat) : ((pendVec s d w k n a b).1).engine = s.engine := rfl
@[simp] theorem pendVec_vrEngine (d : Dest) (w : Option Nat) (k : Mark) (n : Option Nat) (a b : Nat) : ((pendVec s d w k n a b).1).vrEngine = s.vrEngine := rfl
@[simp] theorem pendVec_bte (d : Dest) (w : Option Nat) (k : Mark) (n : Option Nat) (a b : Nat) : ((pendVec s d w k n a b).1).bte = s.bte := rfl
@[simp] theorem pendVec_rows (d : Dest) (w : Option Nat) (k : Mark) (n : Option Nat) (a b : Nat) : ((pendVec s d w k n a b).1).rows = s.rows := rfl
@[simp] theorem pendVec_fabric (d : Dest) (w : Option Nat) (k : Mark) (n : Option Nat) (a b : Nat) : ((pendVec s d w k n a b).1).fabric = s.fabric := rfl
@[simp] theorem pendVec_replay (d : Dest) (w : Option Nat) (k : Mark) (n : Option Nat) (a b : Nat) : ((pendVec s d w k n a b).1).replay = s.replay := rfl
@[simp] theorem pendVec_folios (d : Dest) (w : Option Nat) (k : Mark) (n : Option Nat) (a b : Nat) : ((pendVec s d w k n a b).1).folios = s.folios := rfl
@[simp] theorem pendVec_plat (d : Dest) (w : Option Nat) (k : Mark) (n : Option Nat) (a b : Nat) : ((pendVec s d w k n a b).1).plat = s.plat := rfl
@[simp] theorem pendVec_sys (d : Dest) (w : Option Nat) (k : Mark) (n : Option Nat) (a b : Nat) : ((pendVec s d w k n a b).1).sys = s.sys := rfl
@[simp] theorem pendVec_hub (d : Dest) (w : Option Nat) (k : Mark) (n : Option Nat) (a b : Nat) : ((pendVec s d w k n a b).1).hub = s.hub := rfl
@[simp] theorem pendVec_dist (d : Dest) (w : Option Nat) (k : Mark) (n : Option Nat) (a b : Nat) : ((pendVec s d w k n a b).1).dist = s.dist := rfl
@[simp] theorem pendVec_part (d : Dest) (w : Option Nat) (k : Mark) (n : Option Nat) (a b : Nat) : ((pendVec s d w k n a b).1).part = s.part := rfl
@[simp] theorem pendVec_inputs (d : Dest) (w : Option Nat) (k : Mark) (n : Option Nat) (a b : Nat) : ((pendVec s d w k n a b).1).inputs = s.inputs := rfl
@[simp] theorem pendVec_free (d : Dest) (w : Option Nat) (k : Mark) (n : Option Nat) (a b : Nat) : ((pendVec s d w k n a b).1).free = s.free := rfl
@[simp] theorem pendVec_core_x (d : Dest) (w : Option Nat) (k : Mark) (n : Option Nat) (a b : Nat) : ((pendVec s d w k n a b).1).core.x = s.core.x := rfl
@[simp] theorem pendVec_core_xmark (d : Dest) (w : Option Nat) (k : Mark) (n : Option Nat) (a b : Nat) : ((pendVec s d w k n a b).1).core.xmark = s.core.xmark := rfl
@[simp] theorem pendVec_core_p (d : Dest) (w : Option Nat) (k : Mark) (n : Option Nat) (a b : Nat) : ((pendVec s d w k n a b).1).core.p = s.core.p := rfl
@[simp] theorem pendVec_core_v (d : Dest) (w : Option Nat) (k : Mark) (n : Option Nat) (a b : Nat) : ((pendVec s d w k n a b).1).core.v = s.core.v := rfl
@[simp] theorem pendVec_core_vmark (d : Dest) (w : Option Nat) (k : Mark) (n : Option Nat) (a b : Nat) : ((pendVec s d w k n a b).1).core.vmark = s.core.vmark := rfl
@[simp] theorem pendVec_core_m (d : Dest) (w : Option Nat) (k : Mark) (n : Option Nat) (a b : Nat) : ((pendVec s d w k n a b).1).core.m = s.core.m := rfl
@[simp] theorem pendVec_core_g (d : Dest) (w : Option Nat) (k : Mark) (n : Option Nat) (a b : Nat) : ((pendVec s d w k n a b).1).core.g = s.core.g := rfl
@[simp] theorem pendVec_core_gmark (d : Dest) (w : Option Nat) (k : Mark) (n : Option Nat) (a b : Nat) : ((pendVec s d w k n a b).1).core.gmark = s.core.gmark := rfl
@[simp] theorem pendVec_core_pc (d : Dest) (w : Option Nat) (k : Mark) (n : Option Nat) (a b : Nat) : ((pendVec s d w k n a b).1).core.pc = s.core.pc := rfl
@[simp] theorem pendVec_core_sw (d : Dest) (w : Option Nat) (k : Mark) (n : Option Nat) (a b : Nat) : ((pendVec s d w k n a b).1).core.sw = s.core.sw := rfl
@[simp] theorem pendVec_core_qmap (d : Dest) (w : Option Nat) (k : Mark) (n : Option Nat) (a b : Nat) : ((pendVec s d w k n a b).1).core.qmap = s.core.qmap := rfl
@[simp] theorem pendVec_core_run (d : Dest) (w : Option Nat) (k : Mark) (n : Option Nat) (a b : Nat) : ((pendVec s d w k n a b).1).core.run = s.core.run := rfl
@[simp] theorem pendVec_core_task (d : Dest) (w : Option Nat) (k : Mark) (n : Option Nat) (a b : Nat) : ((pendVec s d w k n a b).1).core.task = s.core.task := rfl
@[simp] theorem pendVec_core_bundle (d : Dest) (w : Option Nat) (k : Mark) (n : Option Nat) (a b : Nat) : ((pendVec s d w k n a b).1).core.bundle = s.core.bundle := rfl
@[simp] theorem pendVec_core_idx (d : Dest) (w : Option Nat) (k : Mark) (n : Option Nat) (a b : Nat) : ((pendVec s d w k n a b).1).core.idx = s.core.idx := rfl
@[simp] theorem pendVec_core_sched (d : Dest) (w : Option Nat) (k : Mark) (n : Option Nat) (a b : Nat) : ((pendVec s d w k n a b).1).core.sched = s.core.sched := rfl
@[simp] theorem pendVec_core_exposed (d : Dest) (w : Option Nat) (k : Mark) (n : Option Nat) (a b : Nat) : ((pendVec s d w k n a b).1).core.exposed = s.core.exposed := rfl
@[simp] theorem pendVec_core_levels (d : Dest) (w : Option Nat) (k : Mark) (n : Option Nat) (a b : Nat) : ((pendVec s d w k n a b).1).core.levels = s.core.levels := rfl
@[simp] theorem pendVec_core_nextId (d : Dest) (w : Option Nat) (k : Mark) (n : Option Nat) (a b : Nat) : ((pendVec s d w k n a b).1).core.nextId = s.core.nextId + 1 := rfl
@[simp] theorem pendVec_core_vu (d : Dest) (w : Option Nat) (k : Mark) (n : Option Nat) (a b : Nat) : ((pendVec s d w k n a b).1).core.vu = s.core.vu := rfl
@[simp] theorem pendVec_core_mx (d : Dest) (w : Option Nat) (k : Mark) (n : Option Nat) (a b : Nat) : ((pendVec s d w k n a b).1).core.mx = s.core.mx := rfl
@[simp] theorem pendVec_core_privAt (d : Dest) (w : Option Nat) (k : Mark) (n : Option Nat) (a b : Nat) : ((pendVec s d w k n a b).1).core.privAt = s.core.privAt := rfl
@[simp] theorem pendVec_core_qmapAt (d : Dest) (w : Option Nat) (k : Mark) (n : Option Nat) (a b : Nat) : ((pendVec s d w k n a b).1).core.qmapAt = s.core.qmapAt := rfl
@[simp] theorem pendVec_core_counts (d : Dest) (w : Option Nat) (k : Mark) (n : Option Nat) (a b : Nat) : ((pendVec s d w k n a b).1).core.counts = s.core.counts := rfl
@[simp] theorem pendVec_core_csrAt (d : Dest) (w : Option Nat) (k : Mark) (n : Option Nat) (a b : Nat) : ((pendVec s d w k n a b).1).core.csrAt = s.core.csrAt := rfl

end Sys2Proof.Machine
end

