-- ==== Sys2Proof/Machine/Shown.lean ====
section
/-!
DEFINITION. The states in which a debugger sees the work of the engines while it steps a core (R261, R277, R313, R343): views
of State, which no step reads.
-/
namespace Sys2Proof.Machine

/-- A block-transfer command under single step (R261). -/
inductive CopyShown where
  | queued
  | template
  | moving (left : Nat)
  | slot
  | posting
  | completed
  | aborted (status : Nat)
  deriving DecidableEq, Repr

/-- A row operation under single step (R277). -/
inductive RowShown where
  | queued
  | translating
  | bank
  | stagedLine
  | refresh
  | inStep (k : Nat)
  | posting
  | completed
  | aborted (status : Nat)
  deriving DecidableEq, Repr

/-- A fabric command under single step (R313). -/
inductive FabShown where
  | queued
  | credit
  | sending (k : Nat)
  | acknowledgement
  | completed
  | aborted (status : Nat)
  deriving DecidableEq, Repr

/-- A step of a stepped instance (R343). -/
inductive StepShown where
  | waiting
  | sending
  | combining
  | released
  | completed
  deriving DecidableEq, Repr

/-- A replay instance under single step (R343). -/
inductive InstanceShown where
  | queued
  | binding
  | running (steps : List StepShown)
  | posting
  | completed
  | aborted (status : Nat)
  deriving DecidableEq, Repr

/-- The status of a completion word (R244). -/
def wordStatus (w : Word) : Nat := bits w.toNat 39 32

/-- The running command of channel `k`: it waits for its template, for a ring slot, or moves the sectors left in register 8
(R261). -/
def activeShown (s : State) (k : Nat) (a : Active) : CopyShown :=
  if a.loading then .template
  else if (claimFor s (template a.words) a).isNone then .slot
  else .moving (engineReg s k 8).toNat

/-- The commands of channel `k` that have not posted, oldest first (R261). -/
def copiesShown (s : State) (k : Nat) : List CopyShown :=
  let c := chanOf s k
  c.post.map (fun _ => .posting) ++ (c.active.map (activeShown s k)).toList ++ c.queue.map (fun _ => .queued)

/-- A block-transfer command whose completion word is `w` (R261). -/
def copyEnded (w : Word) : CopyShown := if wordStatus w == 0 then .completed else .aborted (wordStatus w)

/-- What the operation at the head of a row port waits for, or the step it is in (R277). -/
def headShown (s : State) (port : Nat) (o : RowOp) : RowShown :=
  if !o.started && decide (s.clock < o.accepted + 64) then .queued
  else if s.clock < o.ready ∨ rowSteps o ≤ o.k then .inStep (o.k - 1)
  else
    match rowPlan s o with
    | .wait _ => .translating
    | .fault _ c _ _ => .aborted c.code
    | .ok s (dst, srcs, o) =>
      match rowAdmit s o dst srcs with
      | .wait _ => if (dst ++ srcs.flatten).any (fun r => pageWaits s r.1) then .translating else .stagedLine
      | .fault _ c _ _ => .aborted c.code
      | .ok s _ =>
        let banks := runBanks s (dst ++ srcs.flatten)
        if banks.any (fun b => refreshing s b || s.rows.postponed.any (fun p => p.1 == b && refreshPressing s b p.2.1)) then .refresh
        else if banksFree s port banks (o.reached.getD s.clock) then .inStep o.k else .bank

/-- The operations of a row port that have not posted, oldest first (R277). -/
def rowsShown (s : State) (port : Nat) : List RowShown :=
  let p := rowPortOf s port
  p.post.map (fun _ => .posting) ++
    (match p.queue with
     | [] => []
     | o :: rest => (if p.post.isEmpty then headShown s port o else .queued) :: rest.map (fun _ => .queued))

/-- A row operation whose completion word is `w` (R277). -/
def rowEnded (w : Word) : RowShown := if wordStatus w == 0 then .completed else .aborted (wordStatus w)

/-- The packets of a command that wait in the send queue (R286). -/
def fabQueued (s : State) (a : FabActive) : List TxItem := s.fabric.txq.filter (fun i => i.pkt.awaitedBy (ownPkg s) a)
/-- A packet waits for credit alone (R285, R287): a lane reaches its peer now and would take it if it needed none. -/
def waitsCredit (s : State) (i : TxItem) : Bool :=
  (laneFor s i).isNone && (laneFor s { i with pkt := { i.pkt with typ := 7 } }).isSome

/-- The running command of a Tether port (R313): its next packet to leave, counted from 0, waits for credit or is being sent; when
all have left, it awaits their acknowledgement. -/
def fabActiveShown (s : State) (a : FabActive) : FabShown :=
  match fabQueued s a with
  | i :: rest => if waitsCredit s i then .credit else .sending (a.formed - (rest.length + 1))
  | [] => if a.sent then .acknowledgement else .sending a.formed

/-- The commands of Tether port `n`, oldest first (R313). -/
def fabricShown (s : State) (n : Nat) : List FabShown :=
  let p := fabPort s n
  (p.active.map (fabActiveShown s)).toList ++ p.queue.map (fun _ => .queued)

/-- A fabric command whose completion word is `w` (R313). -/
def fabEnded (w : Word) : FabShown := if wordStatus w == 0 then .completed else .aborted (wordStatus w)

/-- A step of an instance, by its kind and phase (R323, R343). -/
def stepShown (u : ReplayUnit) (k : Nat) (t : StepState) : StepShown :=
  match t.phase with
  | .done => .completed
  | .released => .released
  | .active => if stepKind (stepWord u.image k) == 0 then .sending else .combining
  | .waiting => if t.moved != 0 || t.accepted && stepKind (stepWord u.image k) != 0 then .combining else .waiting

/-- Every FO result that is pending is shown with the state of its storage (R347, R363): of pins and frees that wait, and of
results on their way to their register. -/
def pinsShown (s : State) : List (Nat × Nat) :=
  (s.folios.waits.map (·.name) ++ s.folios.frees.map (·.2) ++ s.folios.results.map (·.1)).map (fun name => (name, ((s.folios.folios.find? (fun f => f.names.any (fun p => p.1 == name))).map (·.state)).getD 0))

/-- The instances of replay unit `n` that have not posted, oldest first (R343): one binds for 16 clocks (R342). -/
def instancesShown (s : State) (n : Nat) : List InstanceShown :=
  let u := replayOf s n
  u.post.map (fun _ => .posting) ++
    (u.inst.map (fun i => if s.clock < i.start + 16 then .binding else .running ((i.steps.zipIdx).map (fun p => stepShown u p.2 p.1)))).toList ++
    u.plays.map (fun _ => .queued)

/-- An instance whose completion word is `w` (R343). -/
def instanceEnded (w : Word) : InstanceShown := if wordStatus w == 0 then .completed else .aborted (wordStatus w)

end Sys2Proof.Machine
end

