-- ==== Sys2Proof/Tests/Slice0.lean ====
section
/-!
SUPPORT. The tests of this model: for every statement with hypotheses a state and operands that meet them, ill-formed
syllables, words that the manual writes out, and one step each of a few syllables, their results taken from the manual.
-/
open Sys2Proof Sys2Proof.Machine
namespace Sys2Proof.Tests

/-- The core in the middle of a one-syllable bundle, privileged, with a task. -/
def run (i : Instr) : State :=
  onCore { residentTask State.reset with sys := { tlb := [⟨0, 4096, 1, 0x5000, 7⟩] } } (fun c => { c with
    pc := 0x1000, bundle := [(encode true i).getD 0] })
/-- With a value in a scalar register. -/
def withX (r : XReg) (v : Word) (s : State) : State := onCore s (fun c => { c with x := c.x.set r v })

/-! ### ScalarResults, RegisterFrames -/
theorem test_witness_scalar : let i : Instr := .add ⟨0, false⟩ 5 6 7
    Flows i (run i) ∧ scalarResult (run i) i = some (5, 0, 1) ∧ MayWrite (run i) 5 := by decide
theorem test_witness_division : let i : Instr := .div ⟨0, false⟩ 5 6 7
    Flows i (run i) ∧ divisionResult (run i) i = some (5, BitVec.allOnes 64, 12) ∧ MayWrite (run i) 5 ∧ (run i).core.divBusy ≤ (run i).clock ∧
    (run i).clock < (onCore (run i) (fun c => { c with divBusy := 1 })).core.divBusy := by decide
theorem test_witness_predicate : let i : Instr := .pcmpEq ⟨0, false⟩ 3 6 7
    Flows i (run i) ∧ predicateResult (run i) i = some (3, true) := by decide
theorem test_witness_frame : let i : Instr := .add ⟨0, false⟩ 5 6 7
    ∃ t, exec i (run i) = .next t := ⟨_, rfl⟩
theorem test_witness_frame_division : let i : Instr := .div ⟨0, false⟩ 5 6 7
    ∃ t, exec i (run i) = .next t := ⟨_, rfl⟩
theorem test_witness_frame_predicate : let i : Instr := .pcmpEq ⟨0, false⟩ 3 6 7
    ∃ t, exec i (run i) = .next t := ⟨_, rfl⟩

/-! ### Branches -/
theorem test_witness_branch : let i : Instr := .jr ⟨0, false⟩ 5
    let s := withX 5 0xFFFFFFFFFFFFFC (run i)
    Flows i s ∧ branchResult s i = some (none, some (0xFFFFFFFFFFFFFC, 3)) ∧ (exec i s matches .next _) = true := by decide
theorem test_witness_loop : let i : Instr := .loop ⟨0, false⟩ 4 0x3FFF
    (Flows i (withX 4 1 (run i)) ∧ branchResult (withX 4 1 (run i)) i = some (some (4, 0), none)) ∧
    branchResult (withX 4 2 (run i)) i = some (some (4, 1), some (0xFFC, 0)) := by decide

/-! ### Steps -/
theorem test_witness_step : let i : Instr := .add ⟨0, false⟩ 5 6 7
    MidBundle (run i) ∧ ((run i).core.bundle[(run i).core.idx]?).bind decode = some i ∧ (run i).core.waiting.isSome = false := by decide
/-- Reset with an `ADDI` where the next bundle is fetched. -/
def ready : State := State.reset.withFetchWord 32 0x88021001
theorem test_witness_fetch : AtFetch ready ∧
    (match fetch ready with
     | .bundle t ws _ => (checkEach t.core.sw.priv 0 ws).isNone && (checkBundle (foresee t (restFrom (decodeAll ws) (t.core.resume.getD 0))) (decodeAll ws) true true).isNone &&
        (restFrom (decodeAll ws) (t.core.resume.getD 0)).length == 1 && t.core.resume.getD 0 < ws.length &&
        !(restFrom (decodeAll ws) (t.core.resume.getD 0)).any (fun e => needsDrain e.2.2) &&
        !blocked t (restFrom (decodeAll ws) (t.core.resume.getD 0))
     | _ => false) = true := by decide
/-- R413: of a `CSRW` and a `CSRR` of one register in one bundle, the read sees the old value. -/
theorem test_csrr_old_value :
    let d : Decoded := [(0, (encode false (.csrw 5 0x24)).getD 0, .csrw 5 0x24), (1, (encode true (.csrr 6 0x24)).getD 0, .csrr 6 0x24)]
    let s := issueBundle (onCore (withX 5 7 ready) (fun c => { c with trapScr := 3 })) (d.map (fun e => e.2.1)) d 0
    ready.core.resume = none ∧ (match exec (.csrw 5 0x24) s with
      | .next t => (t.core.trapScr == 7) && (match exec (.csrr 6 0x24) t with | .next u => u.core.exposed.map (fun l => l.val) == [3] | _ => false)
      | _ => false) = true := by decide
theorem test_witness_input : let s : State := { ready with inputs := [.freeCoreReport] }
    open_ s = true ∧ isSyllable .freeCoreReport = false := by decide
theorem test_witness_clocks :
    (bringState ready ≠ 4 ∧ ready.inputs = []) ∧ 0 < (stall ready).core.held ∧
    (onCore ready (fun c => { c with run := .idle })).core.run ≠ .running ∧
    (ready.core.run = .running ∧ ready.core.bundle = [] ∧ 0 < (onCore ready (fun c => { c with owed := 1 })).core.owed) := by decide

/-! ### ResultsLand, CommitMovesOn, HardwiredRegisters -/
theorem test_witness_lands : let s := expose (run .nop) 1 (.x 5) 7
    (∀ l ∈ s.core.exposed, 1 ≤ l.due) ∧ s.core.exposed = [] ++ { dst := .x 5, val := 7, due := 1 } :: [] := by decide
theorem test_witness_commit :
    (run .nop).core.bundle.length ≤ (run .nop).core.idx + 1 ∧ (run .nop).core.waited = false ∧ (run .nop).core.waiting = none ∧
    (onCore (run .nop) (fun c => { c with bundle := [0, 0] })).core.idx + 1 < 2 ∧
    (onCore (run .nop) (fun c => { c with waited := true })).core.waited = true := by decide

/-! ### GuardsNopAndLx -/
theorem test_witness_guard : let i : Instr := .add ⟨1, false⟩ 5 6 7
    (run i).core.bundle ≠ [] ∧ guardOf i = some ⟨1, false⟩ ∧ holds (run i).core ⟨1, false⟩ = false ∧ envelopeFull (run i) i = false ∧
    envelopeFull (run .nop) .nop = false := by decide

theorem test_witness_lx : let s := onCore (run (.lx 5)) (fun c => { c with bundle := [0, 0] })
    s.core.bundle ≠ [] ∧ envelopeFull s (.lx 5) = false ∧ s.core.idx + 1 < s.core.bundle.length ∧
    envelopeFull (onCore s (fun c => { c with sw := { c.sw with envOpen := true } })) (.lx 5) = true := by decide

/-! ### MemoryStaysCanonical -/
theorem test_witness_canonical : State.reset.memInv = true ∧ ∃ t, step State.reset = .next t := ⟨by decide, _, rfl⟩

/-! ### TrapEntry -/
def withHandler (s : State) : State := onCore s (fun c => { c with trapVec := 0x8000 })
def withDebugger (s : State) : State := hubSet s 0x4007000000 3
theorem test_witness_traps :
    Handled .privilege ∧ (withHandler (run .nop)).core.trapVec ≠ 0 ∧ ¬ Handled .poisonConsumed ∧ Cause.privilege ≠ .debugStep ∧
    (run .nop).core.trapVec = 0 ∧ dbgAttach (withDebugger (run .nop)) = true ∧ (run .nop).core.task = some { lnum := 1, node := 0, ticket := 0 } ∧
    (nodeOf (run .nop) 1 0).isSome = true ∧ 4 ≤ (({ replays := 4 } : Node)).replays := by decide

/-! ### BreakpointsAndHalts, ReturnsFromTraps, PrivilegedSyllables -/
theorem test_witness_break :
    Flows (.trap 5) (withHandler (run (.trap 5))) ∧ Flows (.brk 5) (withHandler (run (.brk 5))) ∧ Flows .halt (withHandler (run .halt)) ∧
    (withHandler (run .halt)).core.trapVec ≠ 0 ∧ (dbgAttach (run .halt) && dbgBrkHalt (run .halt)) = false ∧ dbgAttach (run .halt) = false := by decide
theorem test_witness_halt : let s := withDebugger (withHandler (run (.brk 5)))
    Flows (.brk 5) s ∧ (dbgAttach s && dbgBrkHalt s) = true ∧ Flows (.trap 5) (withDebugger (run (.trap 5))) ∧
    (Flows (.trap 5) (run (.trap 5)) ∧ Flows .halt (run .halt) ∧ (run .halt).core.trapVec = 0) ∧ Flows .halt (withDebugger (withHandler (run .halt))) := by decide
theorem test_witness_return :
    Flows .rft (run .rft) ∧ Flows .rftAbort (run .rftAbort) ∧ Flows .rftReplay (run .rftReplay) ∧ (run .rftReplay).core.task.isSome = true := by decide
def asUser (s : State) : State := onCore s (fun c => { c with sw := { c.sw with priv := false }, privAt := false })
theorem test_witness_privilege : isSyllable .halt = true ∧ (asUser (run .halt)).core.bundle ≠ [] ∧ privileged .halt = true ∧
    (asUser (run .halt)).core.privAt = false ∧ decode 0xE9200000 = some .halt := by decide

/-! ### ControlRegisterWrites, Envelopes, TranslationsAndInjection, Sleep -/
theorem test_witness_csrw : Flows (.csrw 5 0x22) (run (.csrw 5 0x22)) ∧ readX (withX 5 7 (run (.csrw 5 0x22))) 5 = 7 ∧
    Flows (.csrw 5 0x32F) (run (.csrw 5 0x32F)) := by decide
theorem test_witness_qmap : Flows (.qmap 5 6 3) (run (.qmap 5 6 3)) ∧ MayWrite (run (.qmap 5 6 3)) 5 := by decide
/-- QMAP3 and the last ring as control registers: a ring that starts, one that is refused, one that runs. -/
theorem test_witness_csrw_rings : Flows (.csrw 5 0x31F) (run (.csrw 5 0x31F)) ∧ Flows (.csrw 5 0x13) (run (.csrw 5 0x13)) ∧
    ((0x31F : BitVec 11).toNat = 0x310 + 15 ∧ (0x13 : BitVec 11).toNat = 0x10 + 3) ∧ ringOn (run .nop).core 15 = false ∧
    ringRefused (run .nop) 15 (0x8000000100000000 &&& rngMask) = false ∧ ringRefused (run .nop) 15 (0x8000000000000000 &&& rngMask) = true ∧
    ringOn (onCore (run .nop) (fun c => { c with rngCfg := c.rngCfg.set 15 (1#64 <<< 63) })).core 15 = true := by decide
def inEnvelope (n : BitVec 16) (s : State) : State :=
  onCore s (fun c => { c with sw := { c.sw with envOpen := true }, envExpect := n, envCrc := 0xFFFFFFFF })
theorem test_witness_envelopes :
    (Flows (.env 5) (run (.env 5)) ∧ (run (.env 5)).core.sw.envOpen = false) ∧ Flows (.env 5) (inEnvelope 1 (run (.env 5))) ∧
    (Flows .envc (inEnvelope 0 (run .envc)) ∧ (inEnvelope 0 (run .envc)).core.envCount = 0 ∧
      (inEnvelope 0 (run .envc)).core.envCrc ^^^ 0xFFFFFFFF = (inEnvelope 0 (run .envc)).core.envCrcExpect) ∧
    Flows .envc (run .envc) ∧ Flows .envc (inEnvelope 1 (run .envc)) := by decide
theorem test_witness_translations :
    (Flows (.xlinv 5 6 0) (run (.xlinv 5 6 0)) ∧ MayWrite (run (.xlinv 5 6 0)) 5 ∧ boundPort (run (.xlinv 5 6 0)).core 5 = none ∧
      reservedHere (run (.xlinv 5 6 0)).core 5 = none) ∧ (Flows .xlwait (run .xlwait) ∧ (run .xlwait).core.inv = []) ∧
    (onCore (run .xlwait) (fun c => { c with inv := [⟨none, 0, 0, 1⟩] })).core.inv ≠ [] ∧
    (Flows (.tinj 5 0 0) (run (.tinj 5 0 0)) ∧ (match gmCheck (run (.tinj 5 0 0)) 0 1 { wr := true } with | .ok _ (.gm (_ :: _)) => true | _ => false) = true) ∧
    Flows (.tinj 5 0 1) (run (.tinj 5 0 1)) ∧ Flows (.tinj 5 2 2) (run (.tinj 5 2 2)) := by decide
theorem test_witness_sleep : let s := run (.sleep 5 2)
    Flows (.sleep 5 2) s ∧ (s.core.waiting = none ∧ keepsSleeping s s.clock (readNat s 5) = true) ∧
    keepsSleeping { s with core := { s.core with haltAsked := true } } s.clock 0 = false ∧
    keepsSleeping { s with clock := 4 } 0 4 = false ∧ keepsSleeping { s with clock := 3 } 0 4 = true := by decide

/-! ### LocalLoadsAndStores, AddressesAndLocalChecks, Atomics -/
theorem test_witness_local :
    (Flows (.ldl .b8 5 6 0) (run (.ldl .b8 5 6 0)) ∧ MayWrite (run (.ldl .b8 5 6 0)) 5 ∧ LocalOk (run (.ldl .b8 5 6 0)) 0 0xFFFF8 8 8) ∧
    (Flows (.stq .b8 5 6 0) (run (.stq .b8 5 6 0)) ∧ LocalStoreOk (run (.stq .b8 5 6 0)) 1 0x3FFFF8 8 8) := by decide
/-- Another requester has every bank of QS on this clock. -/
def crowded (s : State) : State := onVu s (fun u => { u with asks := [(0, BitVec.allOnes 32)], last := 2 })
theorem test_witness_granted : Granted (run .nop) 0 0x1000000000 8 false ∧ Granted (run .nop) 1 0x20003FFFF8 8 true :=
  ⟨fun h => absurd h (by decide), fun _ => by decide⟩
theorem test_witness_not_granted : ¬ Granted (crowded (run .nop)) 1 0x20003FFFF8 8 true :=
  fun h => absurd (h rfl) (by decide)
theorem test_witness_fs_address : let s := withX 6 0x1FFF8 (run .nop)
    (0 : Int) ≤ ((readNat s 6 % 65536 : Nat) : Int) + immOf s.core 9 0 * 8 ∧ ((readNat s 6 % 65536 : Nat) : Int) + immOf s.core 9 0 * 8 < 65536 ∧
    65536 ≤ ((readNat s 6 % 65536 : Nat) : Int) + immOf s.core 9 1 * 8 ∧ ((readNat (run .nop) 6 % 65536 : Nat) : Int) + immOf s.core 9 0x1FF * 8 < 0 := by decide
theorem test_witness_checks : let s : State := { run .nop with engine := [0x1000001], tags := [0x100000200] }
    (localSize 0 : Int) < 0xFFFFC + 8 ∧
    (∃ g ∈ granulesOf (localBase 0 + 0xFFC) 8, g ∈ s.engine) ∧ (∀ g ∈ granulesOf (localBase 0 + 0xFFC) 8, g ∈ s.engine → ringOf s.core g = none) ∧
    (∀ g ∈ granulesOf (localBase 0 + 0x2000) 8, g ∉ s.engine) ∧ meetsTag s (localBase 0 + 0x2000) 8 = true ∧ meetsTag s (localBase 0 + 0x2010) 8 = false := by decide
theorem test_witness_ring_check : let s : State := { onCore (run .nop) (fun c => { c with rngCfg := c.rngCfg.set 0 0x8000000100000000 }) with engine := [0x2000000] }
    (∃ g ∈ granulesOf (localBase 1) 8, g ∈ s.engine) := by decide
theorem test_witness_atomic : let i : Instr := .amoq true 5 6 .cas 0
    Flows i (run i) ∧ MayWrite (run i) 5 ∧ (match coreCheck (run i) 1 (effAddr (run i) 6 6 0 8) 8 { rd := true, wr := true } with
      | .ok t p => (match cleared t p with | .ok _ _ => true | _ => false) | _ => false) = true ∧ effAddr (run i) 6 6 0 8 % 8 = 0 ∧
    (let i : Instr := .amol true 5 6 .add 0
     Flows i (run i) ∧ (match coreCheck (run i) 0 (effAddr (run i) 6 6 0 8) 8 { rd := true, wr := true } with
      | .ok t p => (match cleared t p with | .ok _ _ => true | _ => false) | _ => false) = true) ∧
    (let i : Instr := .amoo true 5 6 .add 0
     amooWindow (withX 6 0x1000000000 (run i)) (effAddr (withX 6 0x1000000000 (run i)) 6 6 0 8) = true) := by decide

/-! ### Vector -/
theorem test_witness_lanes : let i : Instr := .vadd .i8 1 2 3 true
    VFlows i (run i) ∧ ∃ f, laneResult (run i) i = some (.i8, 1, 1, true, 2, f) := by
  refine ⟨by decide, _, rfl⟩
theorem test_witness_masks : let i : Instr := .vcmpLt .f32 1 2 3 false
    VFlows i (run i) ∧ ∃ f, maskResult (run i) i = some (1, f) := by
  refine ⟨by decide, _, rfl⟩
theorem test_witness_reduction : let i : Instr := .vredsum .f32 1 2 false
    VFlows i (run i) ∧ ∃ v, reductionResult (run i) i = some (1, v) := by
  refine ⟨by decide, _, rfl⟩
theorem test_witness_vmovx : VFlows (.vmovx .i8 5 1 6) (run (.vmovx .i8 5 1 6)) ∧ MayWrite (run (.vmovx .i8 5 1 6)) 5 ∧
    VFlows (.mpop .i8 5 1) (run (.mpop .i8 5 1)) := by decide

/-! ### Words -/
theorem test_witness_words : (0x70000000 : Syllable).extractLsb' 27 4 = 14 ∧ (0x78000000 : Syllable).extractLsb' 27 4 = 15 ∧
    ((0x04E00000 : Syllable).extractLsb' 27 4 = 0 ∧ 39 ≤ ((0x04E00000 : Syllable).extractLsb' 21 6).toNat) ∧
    ((0x1E000000 : Syllable).extractLsb' 27 4 = 3 ∧ 6 ≤ ((0x1E000000 : Syllable).extractLsb' 24 3).toNat) := by decide
theorem test_witness_encode : isSyllable .halt = true ∧ wellFormed .halt = true := by decide

/-! ### Accesses -/
theorem test_witness_access_table : accessOf (.ldf .b8 5 6 0x1FF) = some (4, 8, 6, 0x1FF, { rd := true }, some 5) := rfl
theorem test_witness_access_faults :
    (let i : Instr := .ldf .b8 5 6 0x1FF
     Flows i (run i) ∧ MayWrite (run i) 5 ∧ (meAddr (run i) 4 6 9 0x1FF 8 matches .error _) = true) ∧
    (let i : Instr := .ldl .b8 5 6 0x1FF
     Flows i (run i) ∧ (meAddr (run i) 0 6 9 0x1FF 8 matches .ok _) = true ∧ (coreCheck (run i) 0 (-8) 8 { rd := true } matches .fault ..) = true) ∧
    (let i : Instr := .stl .b8 5 6 0
     Flows i (withX 6 4 (run i)) ∧ (coreCheck (withX 6 4 (run i)) 0 4 8 { wr := true } matches .ok ..) = true ∧ (4 : Int) % 8 ≠ 0) := by decide
/-- With the folio store on and one folio, `0x1_0000`. -/
def withFolio (s : State) : State :=
  { hubSet s fmBase 3 with folios := { folios := [{ names := [(1, 0)], frame := 0 }] } }
theorem test_witness_fs_misaligned : let i : Instr := .ldf .b8 5 6 0
    let s := withFolio (withX 6 0x10004 (run i))
    Flows i s ∧ (meAddr s 4 6 9 0 8 matches .ok _) = true ∧ (coreCheck s 4 0x10004 1 { rd := true } matches .ok ..) = true ∧ (0x10004 : Int) % 8 ≠ 0 := by decide
theorem test_witness_accesses : let i : Instr := .ldg .b8 5 6 0x1FF
    let s := withX 6 0x1000 (run i)
    (Flows i s ∧ MayWrite s 5 ∧ (meAddr s 3 6 9 0x1FF 8 matches .ok 0xFF8) = true ∧ (0xFF8 : Int) % 8 = 0 ∧
      (coreCheck s 3 0xFF8 8 { rd := true } matches .ok ..) = true) ∧
    (let i : Instr := .stg .b8 5 6 0
     Flows i (run i) ∧ (match coreCheck (run i) 3 0 8 { wr := true } with
       | .ok t p => (cleared t p matches .ok ..) | _ => false) = true) := by decide
/-- What a store of eight bytes leaves: an aligned place of GM whose line the L2 holds, and one that the node has staged. -/
def withL2 (s : State) : State := { s with sys := { s.sys with l2Lines := [{ line := 0, way := 0, valid := 0, dirty := 0, wts := 0, rts := 0 }] } }
theorem test_witness_store_frames :
    [1#8, 2, 3, 4, 5, 6, 7, 8].length ∈ [1, 2, 4, 8] ∧ 24 % [1#8, 2, 3, 4, 5, 6, 7, 8].length = 0 ∧
    (let s := withL2 (updNode (run .nop) 1 0 (fun n => { n with unstaged := true }))
     stackFailed s (24 / 32 * 32) = false ∧ (coreViewer s).stages = false ∧ rangeOf s (24 / 32 * 32) = none ∧ (l2Line? s (24 / 128)).isSome = true) ∧
    (let e : Staged := { sector := 0, lnum := 1, node := 0, tag := 7, seen := false, way := none, data := 0, poison := false }
     let s := { onTask (run .nop) (fun t => { t with tag := 7 }) with sys := { (run .nop).sys with staged := [e] } }
     stackFailed s (24 / 32 * 32) = false ∧ (coreViewer s).stages = true ∧ (coreViewer s).tag ≠ 0 ∧ stagedAt s (24 / 32) = some e ∧ e.tag = (coreViewer s).tag) := by decide
theorem test_witness_ranges :
    (let i : Instr := .cwb 5 6 0
     Flows i (run (.cwb 0 6 0)) ∧ Flows i (run i) ∧ (rangeWalk { rd := true } false writeBackLine (run i) (runPages 0 128) matches .ok ..) = true ∧
     bits (readNat (run i) 5) 39 0 = 0 ∧ 0 < (if (0 : XReg).val = 0 then 128 else 0)) ∧
    (let i : Instr := .pfg 0 6 0
     Flows i (run i) ∧ (rangeWalk { rd := true } true fillLine (run i) (runPages 0 128) matches .ok ..) = true) ∧
    (let i : Instr := .cinv 0 6 0
     Flows i (run i) ∧ (rangeWalk { wr := true } false invalidateLine (run i) (runPages 0 128) matches .ok ..) = true) := by decide
theorem test_witness_fences :
    (Flows .hfence (run .hfence) ∧ accessesDone (run .hfence) = true) ∧ (Flows .efence (run .efence) ∧ readsDone (run .efence) = true) ∧
    (VFlows .vfence (run .vfence) ∧ vecIdle (run .vfence) = true) := by decide
theorem test_witness_fences_wait : accessesDone (onCore (run .hfence) (fun c => { c with rangeBusy := true })) = false ∧
    readsDone (setFabPort (run .efence) 0 { queue := [{ op := 3, desc := 0 }] }) = false ∧
    vecIdle (onVu (run .vfence) (fun u => { u with queue := [(1, none)] })) = false := by decide
theorem test_witness_memory : ({} : Mem).wf = true ∧ (run .nop).oc.wf = true ∧ (run .nop).sys.l2.wf = true ∧ rangeOf (run .nop) 0 = none ∧
    28 + [1#8, 2, 3, 4].length ≤ 32 ∧ [1#8, 2, 3, 4] ≠ [] ∧ (∀ l ∈ (run .nop).sys.l2Lines, l.line % l2Sets = 0 / 4 % l2Sets → l.way ≠ 0) := by decide

/-! ### Vector memory -/
theorem test_witness_vector_memory :
    (let i : Instr := .vldl 1 6 0
     VFlows i (withX 6 0xFFE00 (run i)) ∧ (meAddr (withX 6 0xFFE00 (run i)) 0 6 11 0 512 matches .ok 0xFFE00) = true ∧ (0xFFE00 : Int) % 32 = 0 ∧
     (coreCheck (withX 6 0xFFE00 (run i)) 0 0xFFE00 512 { rd := true } matches .ok ..) = true) ∧
    (let i : Instr := .vstg 1 6 0
     VFlows i (run i) ∧ (match coreCheck (run i) 3 0 512 { wr := true } with | .ok t p => (cleared t p matches .ok ..) | _ => false) = true) ∧
    (let i : Instr := .vldq 1 6 0
     VFlows i (run i) ∧ (coreCheck (run i) 1 0 512 { rd := true } matches .ok _ (.oc _)) = true) ∧
    (let i : Instr := .vstq 1 6 0
     VFlows i (run i) ∧ (match coreCheck (run i) 1 0 512 { wr := true } with | .ok t (.oc x) => (cleared t (.oc x) matches .ok ..) | _ => false) = true) := by decide
theorem test_witness_tiles :
    (let i : Instr := .vldqCol 1 6 0
     VFlows i (run i) ∧ ∃ l, tileUnits (readNat (run i) 6) (sext 0 11) true = some l ∧ ∀ a ∈ l, LocalOk (run i) 1 (a : Int) 16 1) ∧
    (let i : Instr := .vstqRow 1 6 0
     VFlows i (run i) ∧ ∃ l, tileUnits (readNat (run i) 6) (sext 0 11) false = some l ∧ (∀ a ∈ l, LocalOk (run i) 1 (a : Int) 16 1) ∧
       ∀ a ∈ l, meetsTag (run i) (0x2000000000 + a) 16 = false) :=
  ⟨⟨by decide, _, rfl, by decide⟩, by decide, _, rfl, by decide, by decide⟩
theorem test_witness_gathers : gatherBad (readNat (run .nop) 7) = false ∧ readNat (run .nop) 6 % unitSize (readX (run .nop) 7) = 0 ∧
    (∀ u ∈ unitList (run .nop) 0 0, LocalOk (run .nop) 1 (u.2 : Int) 4 1) ∧ VFlows (.vgatherq 6 7 1) (run (.vgatherq 6 7 1)) ∧
    VFlows (.vscatq 6 7 1) (run (.vscatq 6 7 1)) ∧ (∀ u ∈ unitList (run .nop) 0 0, meetsTag (run .nop) (0x2000000000 + u.2) 4 = false) := by decide +kernel
/-- LS with a trailer at 0x200: one INT8 element of scale 1, checksum of its data part of 32 bytes. -/
def withTrailer (n : Nat) (s : State) : State :=
  { s with oc := s.oc.store 0x1000000200 (leBytes 32 (n * 2 ^ 64 + 0x3F800000 * 2 ^ 96 + 6 * 2 ^ 160)) false }
theorem test_witness_checked_loads : let i : Instr := .vldlChk 1 6 .i8 0
    let s := withTrailer 1 (withX 6 0x200 (run i))
    chkOf i = some (0, 1, 6, .i8, 0) ∧ VFlows i s ∧ (meAddr s 0 6 7 0 32 matches .ok 0x200) = true ∧ (coreCheck s 0 0x200 32 { rd := true } matches .ok ..) = true ∧
    blockFormat 6 = true ∧ 0 < dataLen 1 6 ∧ dataLen 1 6 ≤ 512 ∧ (coreCheck s 0 (0x200 - dataLen 1 6) (dataLen 1 6) { rd := true } matches .ok ..) = true ∧
    dataLen 512 6 = 512 ∧ 512 < dataLen 513 6 ∧ blockFormat 0 = false ∧ s.core.vu.chk = none := by decide
/-- A checked load of QS: the request it waits for, there and granted. -/
theorem test_witness_checked_waits :
    (onVu (run .nop) (fun u => { u with chk := some (9, 0), qs := [{ id := 9, parts := [] }] })).core.vu.qs.any (fun q => q.id == 9) = true ∧
    (onVu (run .nop) (fun u => { u with chk := some (9, 0) })).core.vu.qs.any (fun q => q.id == 9) = false ∧
    (onVu (run .nop) (fun u => { u with chk := some (0, 1) })).clock < 1 ∧ 0 ≤ (run .nop).clock ∧
    VFlows (.vldqChk 1 6 .i8 0) (run (.vldqChk 1 6 .i8 0)) ∧ (coreCheck (run .nop) 3 0x200 32 { rd := true } matches .ok ..) = true := by decide
theorem test_witness_vector_commands :
    VFlows (.vperm .f32 1 2 3 true) (run (.vperm .f32 1 2 3 true)) ∧ VFlows (.vmskld 5 6 1) (run (.vmskld 5 6 1)) ∧
    (VFlows (.vsetcfg 5 6) (run (.vsetcfg 5 6)) ∧ (readX (run (.vsetcfg 5 6)) 5 &&& readX (run (.vsetcfg 5 6)) 6) &&& ~~~0x103 = 0) ∧
    ((0x4 : Word) &&& 0x4) &&& ~~~0x103 ≠ 0 := by decide
theorem test_witness_vshuf : let s := run (.vshuf 5 1)
    VFlows (.vshuf 5 1) s ∧ bits (readNat s 5) 63 32 = 0 ∧ ∃ v, shuffle 0 0 1 4096 (readV s (vreg 0)) (readV s (vreg 0)) = some v :=
  ⟨by decide, by decide, _, rfl⟩
theorem test_witness_vqcvt : let s := withX 7 0x3F800000 (withX 6 0x100006000 (run (.vqcvt 6 7 1)))
    VFlows (.vqcvt 6 7 1) s ∧ readNat s 6 = 0 + 2 ^ 8 * 0 + 2 ^ 12 * 6 + 2 ^ 16 * b2n (bit (readNat s 6) 16) + 2 ^ 32 * 1 ∧
    bits (readNat s 7) 63 32 = 0 ∧ finite32 0x3F800000 = true ∧ 0 < valueKey fmtF32 0x3F800000 ∧ 1 ≤ 4096 / fmtWidth 6 ∧ bits (readNat s 7) 31 0 = 0x3F800000 := by decide
def withV (r : VReg) (v : VWord) (s : State) : State := onCore s (fun c => { c with v := c.v.set r v })
theorem test_witness_vdqcvt : let s := withV 1 (1 * 2 ^ 64 + 0x3F800000 * 2 ^ 96 + 6 * 2 ^ 160) (run (.vdqcvt 6 2))
    VFlows (.vdqcvt 6 2) s ∧ readNat s 6 = 0 + 2 ^ 8 * 0 + 2 ^ 12 * 0 ∧ bits (readV s (vreg 1)) 163 160 = 6 ∧ bits (readV s (vreg 1)) 95 64 = 1 ∧
    blockFormat 6 = true ∧ bits (readV s (vreg 1) % 2 ^ 256) 255 164 = 0 ∧ bits (readV s (vreg 1)) 63 32 ≤ 1 ∧ dataLen 1 6 ≤ 512 := by decide +kernel
theorem test_witness_marks :
    (let s := inEnvelope 0 (run .nop)
     isSyllable .nop = true ∧ s.core.bundle ≠ [] ∧ envelopeFull s .nop = true) ∧
    (let i : Instr := .vadd .f32 1 2 3 false
     let s : State := { run i with vrEngine := true }
     envelopeFull s i = false ∧ enabled s.core i = true ∧ (uses i).vr ++ (uses i).vs ++ (uses i).vw ++ (wordRegs s i).1 ≠ []) ∧
    (let i : Instr := .add ⟨0, false⟩ 5 6 7
     raised (onCore (run i) (fun c => { c with xmark := c.xmark.set 6 (.poison 8) })) i = .poison 8 ∧
     raised (onCore (run i) (fun c => { c with xmark := c.xmark.set 6 (.fabric 2 8) })) i = .fabric 2 8) := by decide

/-! ### Statistics -/
theorem test_witness_statistics : let i : Instr := .gadd 1 2 .f32 true
    VFlows i (run i) ∧ (statResult (run i) i).isSome = true ∧ VFlows (.gfold 1 2 7) (run (.gfold 1 2 7)) ∧ Triple.isEmpty ⟨1, 0, 0⟩ = false ∧
    ([Triple.empty, .empty] : List Triple)[1]? = some .empty := by decide
theorem test_witness_drains : VFlows (.gdrain 1 2 0 true .raw) (run (.gdrain 1 2 0 true .raw)) ∧ VFlows (.gdrain 1 2 5 false .norm) (run (.gdrain 1 2 5 false .norm)) := by decide
theorem test_witness_images : LocalOk (withX 6 0xFFA00 (run .nop)) 0 (readNat (withX 6 0xFFA00 (run .nop)) 6 : Int) 1536 512 ∧
    VFlows (.gld 1 6 false) (run (.gld 1 6 false)) ∧ VFlows (.gst 1 6 true) (run (.gst 1 6 true)) ∧ (∀ j, j < 3 → meetsTag (run .nop) (localBase 1 + 0 + 512 * j) 512 = false) := by decide +kernel

/-! ### Matrix -/
/-- Tables of three levels: the first GiB of GM is the first GiB of HBM. -/
def withTables (s : State) : State :=
  { s with sys := { s.sys with hbm := ((s.sys.hbm.writeNat 0 8 0x1001).writeNat 0x1000 8 0x2001).writeNat 0x2000 8 0x1F } }
theorem test_witness_mma : let i : Instr := .mmag 1 6 7 .bf16 false true
    let j : Instr := .mma 1 6 7 .i8 false false
    let s := withTables (withX 7 127 (run i))
    let u := withX 7 127 (run j)
    (Flows i s ∧ readNat s 7 < 128 ∧ readNat s 6 % 128 = 0 ∧ (coreCheck s 3 0 16384 { rd := true } true matches .ok ..) = true) ∧
    (Flows j u ∧ readNat u 7 < 128 ∧ readNat u 6 % 128 = 0 ∧ (coreCheck u 0 0 16384 { rd := true } matches .ok ..) = true) ∧
    128 ≤ readNat (withX 7 128 (run i)) 7 := by decide +kernel
theorem test_witness_matrix :
    Flows (.mzero 31) (run (.mzero 31)) ∧ (Flows (.mldc 1 6 .f32) (run (.mldc 1 6 .f32)) ∧ LocalOk (run .nop) 0 0 32768 512 ∧ LocalOk (run .nop) 0 0 16384 512) ∧
    (Flows (.mbwr 6 7 .i8 true) (run (.mbwr 6 7 .i8 true)) ∧ LocalOk (run .nop) 0 0 32800 512 ∧ (run .nop).core.mx.chk = none) := by decide +kernel
theorem test_witness_panel_check : let s := onMx (run (.mbwr 6 7 .i8 true)) (fun m => { m with chk := some (0, true) })
    Flows (.mbwr 6 7 .i8 true) s ∧ s.core.mx.chk = some (0, true) ∧ s.core.mx.transfer.any (fun e => e.order == 0) = false ∧
    (mxAccept s false false { kind := .mbwr, tile := 32 }).core.mx.transfer.any (fun e => e.order == 0) = true := by decide
theorem test_witness_mdrain : let i : Instr := .mdrain 1 6 7 .bf16 false true true
    Flows i (run i) ∧ bits (readNat (run i) 7) 63 51 = 0 ∧ bit (readNat (run i) 7) 39 = false ∧ (run i).core.gmark[drainReg (readX (run i) 7)] = .clean ∧
    LocalStoreOk (run i) 0 0 16384 512 ∧ LocalOk (run i) 0 ((bits (readNat (run i) 7) 50 40 * 512 : Nat) : Int) 512 512 := by decide +kernel
theorem test_witness_mwait : let s := run (.mwait 1 true true)
    (Flows (.mwait 1 true true) s ∧ mxIdle s = true ∧ s.core.mx.array.all (stepsTaken s) = true) ∧
    tileBusy (mxAccept s true true { kind := .mzero, tile := 1 }) 1 = true ∧ (mxAccept s true true { kind := .mma, tile := 1 }).core.mx.array.all (stepsTaken s) = false := by decide
theorem test_witness_mstat : Flows (.mstat 5 3) (run (.mstat 5 3)) ∧ MayWrite (run (.mstat 5 3)) 5 ∧ Flows (.mpert 1 5 6 true) (run (.mpert 1 5 6 true)) ∧
    (Flows (.mpert 1 5 6 false) (withX 5 0x7F3F (run (.mpert 1 5 6 false))) ∧ readNat (withX 5 0x7F3F (run .nop)) 5 = 63 + 2 ^ 8 * 127 ∧ readNat (run .nop) 6 < 2 ^ 32) := by decide
theorem test_witness_elements : ElemTy.i8.isFloat = false ∧ (run .nop).core.mx.pert = none ∧ (run .nop).oc.wf = true ∧
    ({ kind := .mma, tile := 0, fmt := .bf16 } : MxOp).w = false := by decide

/-! ### Engines -/
theorem test_witness_engines :
    (Flows (.erw 5 6 31) (withX 5 83 (run (.erw 5 6 31))) ∧ readNat (withX 5 83 (run .nop)) 5 < 84) ∧ 84 ≤ readNat (withX 5 84 (run .nop)) 5 ∧
    Flows (.err 7 5 63) (run (.err 7 5 63)) ∧ MayWrite (run (.err 7 5 63)) 7 ∧ Flows (.eswap 5) (run (.eswap 5)) := by decide
def withBarrier (s : State) : State := { s with tags := [0x100000000] }
theorem test_witness_barriers :
    (BarrierOk (run .nop) false 0 ∧ Flows (.binit 5 6 false false) (run (.binit 5 6 false false)) ∧ bits (readNat (run .nop) 6) 63 56 = 0 ∧
      barrierLive (run .nop) (localOc false 0) = false) ∧ Flows (.binit 5 6 true true) (run (.binit 5 6 true true)) ∧
    (BarrierOk (withBarrier (run .nop)) false 0 ∧ Flows (.barv 7 5 6 false) (withBarrier (run (.barv 7 5 6 false))) ∧ MayWrite (run (.barv 7 5 6 false)) 7 ∧
      barrierLive (withBarrier (run .nop)) (localOc false 0) = true) ∧
    (Flows (.bwait 5 6 false) (withBarrier (run (.bwait 5 6 false))) ∧ (barrierAt (withBarrier (run .nop)) (localOc false 0)).phase = readNat (run .nop) 6 % 16) := by decide +kernel
/-- A barrier word of QS that a waiting store of the core touches. -/
def stalled (s : State) : State := { qsStore s [(0x2000000000, [1])] false with tags := [0x200000000] }
theorem test_witness_barrier_order : BarrierOk (stalled (run (.bwait 5 6 true))) true 0 ∧ Flows (.bwait 5 6 true) (stalled (run (.bwait 5 6 true))) ∧
    barrierLive (stalled (run .nop)) (localOc true 0) = true ∧ meetsWaiting (stalled (run .nop)) (localOc true 0) 16 false = true := by decide
theorem test_witness_barrier_words :
    (barrierAt (withBarrier (run .nop)) (localOc false 0)).phase ≠ readNat (withX 6 15 (run .nop)) 6 % 16 ∧
    Flows (.btest 7 5 6 false) (withBarrier (run (.btest 7 5 6 false))) ∧
    (Flows (.badd 5 6 false) (withBarrier (run (.badd 5 6 false))) ∧ readX (withX 6 0xFFFFFFF800000000 (run .nop)) 6 = BitVec.ofInt 64 (-(2 ^ 35))) := by decide +kernel
/-- Channel 0 runs a window of two rows on ring 0. -/
def withWindow (s : State) : State :=
  setChan s 0 { active := some { cmd := { index := 0, delta := 0 }, words := [0, 0, 0x1000000, 0, 0, 0x10000000, 0, 0], total := 2, left := 2 } }
def withRing (s : State) : State := onCore s (fun c => { c with rngCfg := c.rngCfg.set 0 (1#64 <<< 63) })
theorem test_witness_windows :
    (Flows (.wadv 7 5 6) (run (.wadv 7 5 6)) ∧ MayWrite (run (.wadv 7 5 6)) 7 ∧ readNat (run .nop) 5 < 64 ∧ windowOf (run .nop) 0 = none) ∧
    (windowOf (withWindow (run .nop)) 0).isSome = true ∧ Flows (.wpos 7 5) (run (.wpos 7 5)) ∧
    (Flows (.rcnt 7 5 6) (withX 5 15 (run (.rcnt 7 5 6))) ∧ readNat (withX 5 15 (run .nop)) 5 < 16 ∧ ringOn (run .nop).core 15 = false) ∧
    (ringOn (withRing (run .nop)).core 0 = true ∧ readNat (run .nop) 6 = 0) ∧ ringInWindow (run .nop) 0 = false ∧ releaseWaits (withRing (run .nop)) 0 0 = false := by decide
/-- An `MDRAIN` of the core still holds the first slot of a ring of LS, which the engines have filled. -/
theorem test_witness_release_waits :
    let s := onCore (mxAccept (run .nop) false false { kind := .mdrain, tile := 0, fmt := .f32 }) (fun c => { c with rngCfg := c.rngCfg.set 0 0x8000000100000000 })
    releaseWaits s 0 1 = true ∧ oweWaits s false 0 1 = true := by decide
theorem test_witness_owners :
    (Flows (.owne 5 6 true false) (run (.owne 5 6 true false)) ∧ vbusy (run .nop).core = false ∧ statVectorPending (run .nop).core = false) ∧
    vbusy (exposeVec (run .nop) 4 (.v 1) 0 0 .clean).core = true ∧
    (Flows (.ownc 5 6 true false) (run (.ownc 5 6 true false)) ∧ (run (.ownc 5 6 true false)).core.waiting = none) ∧
    (let s := withX 6 1 (withX 5 0xFF000 (run (.owne 5 6 false false)))
     0 < readNat s 6 ∧ readNat s 5 % 4096 = 0 ∧ readNat s 5 + readNat s 6 * 4096 ≤ localSize 0 ∧ ringOf s.core (localBase 0 / 4096 + 255) = none ∧
     Flows (.owne 5 6 false false) s ∧ oweWaits s false 0xFF000 1 = false) ∧
    (let s := onCore (run (.ownc 5 6 false false)) (fun c => { c with waiting := some (0, 0) })
     Flows (.ownc 5 6 false false) s ∧ s.core.waiting.isSome = true ∧ s.bte.flips = none ∧ ({ s with bte := { s.bte with flips := some ([], true) } }).bte.flips ≠ none) := by decide
theorem test_witness_rows : let i : Instr := .rowcpy 5 6 7
    Flows i (run i) ∧ rowOf i = some (13, 5, 6, 7, 0) ∧ rowDescBad (readNat (run i) 5) = false ∧ readNat (run i) 6 % 32 = 0 ∧ readNat (run i) 7 % 32 = 0 ∧
    Flows (.rowq 7 5 6) (run (.rowq 7 5 6)) ∧ MayWrite (run (.rowq 7 5 6)) 7 := by decide
theorem test_witness_rowq : (rowqPage (run .nop) true 0 matches some (some _)) = true ∧ rowqPage (run .nop) true 0x100000 = some none ∧
    (lateDest (run .nop) 7 matches (_, some _)) = true := by decide

/-! ### Folio store -/
def withFrames (s : State) : State := hubSet (hubSet s fmBase 3) (fmBase + 0x10) 4
theorem test_witness_foalloc : let s := withFrames (run (.foalloc 7 5))
    folioOn s = true ∧ MayWrite s 7 ∧ Flows (.foalloc 7 5) s ∧ folioNamed s (readNat s 5 / 2 ^ 16) = none ∧
    (writableFrame (spoil s)).isSome = true ∧ (writableFrame (spoil (hubSet s (fmBase + 0x10) 0))).isNone = true := by decide
theorem test_witness_folios : let s := withX 6 0x20000 (withX 5 0x10000 (withFolio (run .nop)))
    folioNamed s 1 = some { names := [(1, 0)], frame := 0 } ∧ folioNamed s (readNat s 6 / 2 ^ 16) = none ∧ shareCount { names := [(1, 0)] } = 1 ∧
    pinOf { names := [(1, 0)] } 1 = 0 ∧ pinOf { names := [(1, 3)] } 1 ≠ 0 ∧ frameStaged s 0 = false ∧ s.folios.touched = [] ∧ pinOf { names := [(1, 254)] } 1 < 255 ∧
    Flows (.foshare 7 5 6) (withFolio (run (.foshare 7 5 6))) ∧ Flows (.fofree 7 5) (withFolio (run (.fofree 7 5))) ∧
    Flows (.folook 7 5) (withFolio (run (.folook 7 5))) ∧ Flows (.fopin 7 5 6 true) (withFolio (run (.fopin 7 5 6 true))) ∧
    Flows (.founpin 7 5) (withFolio (run (.founpin 7 5))) ∧ (Flows (.fopool 7 5) (withFolio (run (.fopool 7 5))) ∧ readNat (withX 5 6 (run .nop)) 5 ≤ 6) := by decide

/-! ### Fabric -/
theorem test_witness_fabric : let i : Instr := .fwr 5 6 7 3
    Flows i (run i) ∧ (match fabricOf (run i) i with | some (n, c) => n == 3 && (fabOperand c).isNone | none => false) = true ∧
    (match fabricOf (withX 6 1 (run i)) i with | some (_, c) => (fabOperand c).isSome | none => false) = true := by decide
/-- Each syllable that queues a command at a port, at a port of its own. -/
theorem test_witness_ports : [Instr.fsend 5 6 7 0, .fwr 5 6 7 1, .fwrs 5 6 8 2, .frd 5 6 7 3, .fsig 5 7 4, .fmcast 5 6 8 false 5, .fmcast 5 6 8 true 7].all (fun i =>
    decide (Flows i (run i)) && (match fabricOf (run i) i with | some (_, c) => (fabOperand c).isNone | none => false)) = true := by decide
theorem test_witness_ports_refuse : [Instr.fsend 5 6 7 0, .fwr 5 6 7 1, .fwrs 5 6 8 2, .frd 5 6 7 3, .fsig 5 7 4, .fmcast 5 6 8 false 5].all (fun i =>
    match fabricOf (withX 5 0xFFFFFFFFFFFFFFFF (run i)) i with | some (_, c) => (fabOperand c).isSome | none => false) = true := by decide
def withSeat (s : State) : State := hubSet s 0x4004008000 8
theorem test_witness_famo : let i : Instr := .famo 7 5 6 true .add
    let s := withSeat (run i)
    Flows i s ∧ MayWrite s 7 ∧ bits (readNat s 5) 63 62 = 0 ∧ bits (readNat s 5) 55 0 % 8 = 0 ∧ scRefusal s (coreLnum s) (podPkg s 0) = none ∧
    reservedHere s.core 7 = none ∧ boundPort s.core 7 = none := by decide
theorem test_witness_fwrs : let i : Instr := .fwrsSc 5 6 8 3
    let s := withSeat (run i)
    Flows i s ∧ scRefusal s (coreLnum s) (descPkg 0) = none ∧
    fabOperand { op := 2, flag := true, desc := readNat s 5, laddr := readNat s 6, raddr := readNat s 8, bar := readNat s (xNext 8 1) } = none := by decide
theorem test_witness_fabric_reads :
    (Flows (.fwait 7 true 0) (run (.fwait 7 true 0)) ∧ MayWrite (run (.fwait 7 true 0)) 7 ∧ portsIdle (run .nop) (List.range 8) = true) ∧
    portsIdle (setFabPort (run .nop) 0 { queue := [{ op := 0, desc := 0 }] }) (List.range 8) = false ∧ Flows (.fslot 7) (run (.fslot 7)) ∧
    (let s := onCore { run (.fslotWait 5) with clock := 8 } (fun c => { c with waiting := some (0, 0) })
     Flows (.fslotWait 5) s ∧ 0 < s.clock ∧ slotClock s = 8 ∧ rowNow s 0 = bits (readNat s 5) 5 0 % planePorts s 0) ∧
    slotClock (run .nop) ≠ 8 ∧ (Flows (.fslotWait 5) (run (.fslotWait 5)) ∧ (run (.fslotWait 5)).core.waiting = none) ∧
    (Flows (.fcnt 7 5 2) (withX 5 0x3F3F (run (.fcnt 7 5 2))) ∧ bits (readNat (withX 5 0x3F3F (run .nop)) 5) 63 14 = 0 ∧ bits (readNat (withX 5 0x3F3F (run .nop)) 5) 7 6 = 0) ∧
    Flows (.fseat 7) (run (.fseat 7)) := by decide

/-! ### Rigging -/
theorem test_witness_rigging :
    (Flows (.rgload 5 3) (run (.rgload 5 3)) ∧ readNat (run .nop) 5 % 64 = 0 ∧ readNat (withX 5 32 (run .nop)) 5 % 64 ≠ 0) ∧
    (Flows (.rgplay 7 5 6 0) (withX 5 0xFFFC0 (run (.rgplay 7 5 6 0))) ∧ MayWrite (run (.rgplay 7 5 6 0)) 7 ∧ LocalOk (withX 5 0xFFFC0 (run .nop)) 0 0xFFFC0 64 64 ∧
      bit (readNat (run .nop) 6) 63 = false ∧ (run .nop).oc.poisoned 0x10000FFFC0 64 = false) ∧
    (Flows (.rgwait 7 0) (run (.rgwait 7 0)) ∧ unitQuiet (run .nop) 0 = true) ∧ Flows (.rgfree 0) (run (.rgfree 0)) ∧
    unitQuiet (onUnit (run .nop) 0 (fun u => { u with plays := [{ num := 0, bases := [], word := 0 }] })) 0 = false ∧
    (Flows (.rgstat 7 5 0) (run (.rgstat 7 5 0)) ∧ (rgstatWord (replayOf (run .nop) 0) 3).isSome = true ∧ rgstatWord (replayOf (run .nop) 0) 4 = none) ∧
    Flows (.reshelve 5 0) (run (.reshelve 5 0)) := by decide

/-! ### Tasks -/
def theTask : Task := { lnum := 1, node := 0, ticket := 0 }
theorem test_witness_bar : let s := run (.bar .qd 15)
    (Flows (.bar .qd 15) s ∧ s.core.task = some theTask ∧ theTask.xchg = false ∧ arrivedAt s theTask .qd 15 = false ∧ s.core.waiting = none) ∧
    arrivedAt (arriveAt s 1 0 .qd 15) theTask .qd 15 = true ∧
    (Flows (.bar .qd 15) (onTask s (fun t => { t with xchg := true })) ∧ ((onTask s (fun t => { t with xchg := true })).core.task.map (·.xchg)) = some true) := by decide
theorem test_witness_bypassed : let s := updNode (run (.bar .pd 15)) 1 0 (fun n => { n with bars := [{ scope := .pd, id := 15, arrived := some 64, absent := true }] })
    Flows (.bar .pd 15) s ∧ s.core.task = some theTask ∧ theTask.xchg = false ∧ bypassed s theTask .pd 15 = true ∧ bypassed (run .nop) theTask .pd 15 = false := by decide
/-- Node 0 has tickets 1 to 3 left on die 0. -/
def withTickets (s : State) : State := updNode s 1 0 (fun n => { n with dies := [{ lo := 1, hi := 4 }] })
theorem test_witness_tickets :
    (Flows (.tkt 7 .di) (withTickets (run (.tkt 7 .di))) ∧ MayWrite (run (.tkt 7 .di)) 7 ∧ (askTickets (withTickets (run .nop)) false 1).isSome = true) ∧
    (askTickets (run .nop) true 64).isSome = false ∧
    (Flows (.tktn 7 5 .pk) (withX 5 64 (withTickets (run (.tktn 7 5 .pk)))) ∧ 1 ≤ readNat (withX 5 64 (run .nop)) 5 ∧ readNat (withX 5 64 (run .nop)) 5 ≤ 64) ∧
    (readNat (run .nop) 5 = 0 ∧ 64 < readNat (withX 5 65 (run .nop)) 5) ∧
    (takeOwn { dies := [{ lo := 1, hi := 4 }] } 2).isSome = true := by decide
theorem test_witness_launch : let s := withTables (run (.launch 7 5))
    Flows (.launch 7 5) s ∧ MayWrite s 7 ∧ readNat s 5 % 64 = 0 ∧
    (match gmFetch s (coreRoot s) 0 64 s.core.sw.priv (coreViewer s) with | .got (_, p) => !p | _ => false) = true := by decide +kernel
theorem test_witness_rowq_waits :
    (rowqPage { run .nop with sys := { hbm := (withTables (run .nop)).sys.hbm.writeNat 0x2000 8 0x3F } } true 0x100000).isNone = true := by decide +kernel
theorem test_witness_lwait :
    (Flows (.lwait 7 5) (run (.lwait 7 5)) ∧ launchOf (run .nop) 0 = none) ∧ (launchOf (withX 5 1 (run .nop)) 1).isSome = true ∧ coreLnum (run .nop) = 1 ∧ 2 ≤ ({ lnum := 1, state := 2 } : Launch).state ∧
    Flows (.eta 5) (run (.eta 5)) ∧ (Flows .endt (inEnvelope 1 (run .endt)) ∧ (inEnvelope 1 (run .endt)).core.sw.envOpen = true) ∧ (Flows .endt (run .endt) ∧ workDone (run .endt) = true) ∧
    workDone (pend (run .endt) (.x 5) none .clean none).1 = false ∧ (Flows (.ssend 5) (run (.ssend 5)) ∧ readNat (withX 5 0xFFFF (run .nop)) 5 < 2 ^ 16) := by decide
theorem test_witness_prio : let s := { run (.prio 5 15) with dist := { (run .nop).dist with launches := [{ lnum := 1, prioq := 0x8000 }] } }
    Flows (.prio 5 15) s ∧ readNat (withX 5 15 s) 5 < 16 ∧ launchOf s (coreLnum s) = some { lnum := 1, prioq := 0x8000 } ∧ (0x8000 : BitVec 16).getLsbD 15 = true := by decide

/-! ### Events of the core and of its results -/
theorem test_witness_results :
    (let q : QsReq := { id := 1, parts := [(BitVec.allOnes 32, .read [(0, 0x2000000000, 512)])], after := 8, start := some 0 }
     let s := askQs (run .nop) q
     nextAccess s.core.vu s.clock = some q ∧ q.vx = false ∧ s.core.vu.scalar = none ∧ nextPermute s.core.vu s.clock = none ∧
     s.core.vu.qs.find? (fun q => q.kind == .imageLs) = none ∧ chanWants s = []) ∧
    (let s := { mxAccept (run .nop) true true { kind := .mma, tile := 1 } with clock := 1000 }
     (mxQueue s.core.mx true).find? (fun o => o.start.isNone) = some { kind := .mma, tile := 1 } ∧ s.core.mx.arrayEnd ≤ s.clock ∧
     mxMayStart s { kind := .mma, tile := 1 } = true) ∧
    (let s := { onMx (run .nop) (fun m => { m with array := [{ kind := .mma, tile := 1, start := some 0 }] }) with clock := mxWrites .mma }
     mxQueue s.core.mx true = [{ kind := .mma, tile := 1, start := some 0 }] ∧ 0 + mxWrites .mma ≤ s.clock) := by decide +kernel
/-- At a bundle boundary, with interrupts on. -/
def between (s : State) : State := onCore s (fun c => { c with bundle := [], sw := { c.sw with ie := true } })
def preempted (s : State) : State := onCore s (fun c => { c with preempt := some 2 })
theorem test_witness_preemption : let s := preempted (between (run .nop))
    s.core.preempt.isSome = true ∧ s.core.sw.ie = true ∧ s.core.run = .running ∧ boundaryFree s = true ∧ s.core.task = some theTask ∧ s.core.rangeBusy = false ∧ s.core.spilling = false ∧ s.core.waiting = none ∧
    decide (taskRemain s ≤ 64 * (2 + 1)) = true ∧ taskRemain (onTask s (fun t => { t with etaSet := 193 })) = 193 ∧
    restartable s = true ∧ unitsBusy s = false ∧ isMember s = false ∧ checkpointable s = true ∧ spillReady s = true ∧
    spillReady (onCore s (fun c => { c with rangeBusy := true })) = false ∧ s.dist.spill = none ∧
    (onCore s (fun c => { c with spilling := true })).core.spilling = true ∧ (onCore s (fun c => { c with rangeBusy := true })).core.rangeBusy = true ∧
    checkpointable (onMx s (fun m => { m with panels := 1 })) = false ∧ restartable (spoil s) = false := by decide
theorem test_witness_halts : let s := onCore (between (run .nop)) (fun c => { c with haltAsked := true })
    s.core.haltAsked = true ∧ s.core.run = .running ∧ s.core.waiting = none ∧ boundaryFree s = true := by decide
/-- The image of a task whose core stood at 0x1000. -/
def anImage : Image := { core := (between (run .nop)).core, store := {}, tags := [], engine := [], vrEngine := false, bte := {}, rows := {}, ports := [], ftmo := 64, fpin := 0 }
def inVault (s : State) : State := { onCore s (fun c => { c with run := .idle, task := none }) with dist := { s.dist with vault := [anImage] } }
theorem test_witness_vault : let s := inVault (between (run .nop))
    s.dist.restore = none ∧ (chosen s).isSome = true ∧ (vaultTask s 1).isSome = true ∧ coreFree s = true ∧ channelTaken s anImage = false := by decide
theorem test_witness_wake : let s := onCore { run (.sleep 5 0) with clock := 4 } (fun c => { c with x := c.x.set 5 4, waiting := some (0, 0) })
    (s.core.bundle[s.core.idx]?).bind decode = some (.sleep 5 0) ∧ s.core.haltAsked = false ∧ s.core.preempt = none ∧ keepsSleeping s 0 (readNat s 5) = false := by decide

/-! ### Events of memory and engines -/
theorem test_witness_partitions :
    ((sliceGet (run .nop) 127).busy = false ∧ (sliceGet (run .nop) 127).cur < 12) ∧ 0 < (sliceGet (sliceSet (run .nop) 5 { cur := 12, ways := 12 }) 5).cur ∧
    (let s := sliceSet (run .nop) 5 { busy := true, scan := 8191 }
     (sliceGet s 5).busy = true ∧ (sliceGet s 5).scan = 8191 ∧ (sliceGet s 5).leaves ≤ s.clock) := by decide
theorem test_witness_ranges_of_formats : frEnabled (run .nop) 11 15 = false ∧ frEnabled (hubSet (run .nop) (frAddr 11 15 0) 1) 11 15 = true ∧
    16 * 11 + 15 ∈ ({ (run .nop).sys with flushing := [191] }).flushing ∧ 8 ≤ bits (8 : Word).toNat 15 0 ∧ bits (1024 : Word).toNat 15 0 ≤ 1024 ∧
    bits (7 : Word).toNat 15 0 < 8 ∧ 1024 < bits (1025 : Word).toNat 15 0 := by decide
theorem test_witness_moving :
    (let s := { withTables (run .nop) with sys := { (withTables (run .nop)).sys with walk := some (0, 0) } }
     (match walkRoot s (coreRoot s) 0 with | some l => !l.moving | none => false) = true) ∧
    (match walkRoot { run .nop with sys := { hbm := (withTables (run .nop)).sys.hbm.writeNat 0x2000 8 0x3F } } 0 0 with | some l => l.moving | none => false) = true := by decide +kernel
theorem test_witness_bte_start : let s := setChan (run .nop) 63 { queue := [{ index := 0, delta := 0 }] }
    (chanOf s 63).queue = [{ index := 0, delta := 0 }] ∧ (chanOf s 63).active.isNone = true ∧ (chanOf s 63).post = [] := by decide
/-- Channel 0 copies one sector from LS to LS, both engine-owned. -/
def copying (s : State) : State :=
  { setChan s 0 { active := some { cmd := { index := 0, delta := 0 }, words := [0, 0x1000, 32, 0, 0, 0, 0, 0], total := 1, left := 1 } } with engine := [0x1000000, 0x1000001] }
theorem test_witness_sector : let s := copying (run .nop)
    ∃ a, (chanOf s 0).active = some a ∧ a.next < bteLimit s a ∧ a.ready ≤ s.clock ∧ (template a.words).dring = false ∧ (template a.words).bar = false ∧
      (engAccess s (cmdUser 0 a.cmd) [] 0 0 32 { rd := true } matches .ok ..) = true ∧ (engAccess s (cmdUser 0 a.cmd) [] 0 0x1000 32 { wr := true } matches .ok ..) = true :=
  ⟨_, rfl, by decide, by decide, by decide, by decide, by decide, by decide⟩
theorem test_witness_rings : ringOn (run .nop).core 0 = false ∧ ringRefused (run .nop) 0 (0x8000000000000000 &&& rngMask) = true ∧
    ringRefused (run .nop) 0 (0x8000000100000000 &&& rngMask) = false ∧ ringOn (withRing (run .nop)).core 0 = true ∧
    (∃ t b a, (chanOf (copying (run .nop)) 0).active = some a ∧ claimFor (copying (run .nop)) (template a.words) a = some (t, b)) :=
  ⟨by decide, by decide, by decide, by decide, _, _, _, rfl, rfl⟩
def oneRow : RowOp := { op := 13, dst := 0, a := 0, b := 0, desc := 0 }
theorem test_witness_row_steps : let s := { run .nop with clock := 64, rows := { ports := [(7, { queue := [oneRow] })] } }
    (rowPortOf s 7).queue = [oneRow] ∧ (rowPortOf s 7).post = [] ∧ oneRow.accepted + 64 ≤ s.clock ∧ oneRow.ready ≤ s.clock ∧
    ({ oneRow with started := true, k := rowSteps oneRow }).started = true := by decide
theorem test_witness_regions : bwOn (run .nop) 11 7 = false ∧ bwInUse (run .nop) 11 7 = false ∧ bankStepped (run .nop) 6143 = false ∧ bankHeld (run .nop) 6143 = false := by decide
/-- A row operation between its steps holds the bank of its next one, whose refresh may be postponed. -/
theorem test_witness_held : let o : RowOp := { oneRow with lnum := 1, priv := true, started := true, pages := [{ page := 0, dpa := 0x5000 }] }
    let s : State := { run .nop with rows := { ports := [(7, { queue := [o] })] } }
    bankHeld s 2560 = true ∧ bankStepped s 2560 = false ∧ ¬ ((lookupD s.rows.postponed 2560 (s.clock, 0)).1 + 4 * refreshEvery s 2560 ≤ s.clock) := by decide +kernel

/-! ### Events of the fabric -/
theorem test_witness_wheel : slotClock (run .nop) = 0 ∧ slotStartOf { run .nop with clock := 264 } 2 + 8 ≤ 264 ∧ (podMembers (run .nop)).all (slotHeard (run .nop) 0) = true ∧
    slotStartOf (run .nop) 1 + 8192 ≤ 8320 ∧ (fabPort (run .nop) 7).active.isNone = true ∧ (fabPort (run .nop) 7).queue = [] := by decide
def online (s : State) : State := hubSet s brstat 0x3A
def aPacket : Packet := { typ := 0, cls := 0, src := 1, dst := 2 }
theorem test_witness_links : let s := { online (run .nop) with clock := 8 }
    fabricOn s = true ∧ 8 ≤ slotClock s ∧ ({ s with fabric := { s.fabric with txq := [{ pkt := aPacket, dim := 0, peer := 1 }] } }).fabric.txq ≠ [] ∧
    bits (0 : Sector).toNat 217 214 ≠ [(0 : Sector)].length ∧ (linkOf (setLink s 0 { ackDue := true }) 0).ackDue = true ∧
    (linkOf (setLink s 0 { ackDue := true }) 0).suspended = false ∧ flitsOn s 0 0 < 104 ∧ s.fabric.unacked.any (canResend s) = false := by decide
theorem test_witness_lanes_to : ∃ q p : Fin 64, p.val ∈ lanesTo (online (run .nop)) 1 q := by decide +kernel

/-- A packet for another package of the dimension, with the CRC of its header. -/
theorem test_witness_misdelivered : let h : Sector := BitVec.ofNat 256 (5 * 2 ^ 180 + packetCrc (5 * 2 ^ 180) [] * 2 ^ 224)
    bits h.toNat 217 214 = ([] : List Sector).length ∧ bits h.toNat 255 224 = packetCrc h.toNat [] ∧ coordOf (bits h.toNat 196 180) 2 ≠ ownCoord (run .nop) 2 := by decide +kernel
theorem test_witness_resend :
    let s := { online (run .nop) with clock := 8, fabric := { (run .nop).fabric with unacked := [{ pkt := aPacket, dim := 1, plane := 1, peer := 1, lseq := 0, slot := 0, again := true }]
                                                                                     txq := [{ pkt := aPacket, dim := 1, peer := 1 }] } }
    s.fabric.unacked.any (canResend s) = true ∧ (resendPass s.fabric.unacked [] s []).fabric.txq ≠ [] := by decide +kernel
theorem test_witness_discard : let s := run .nop
    s.fabric.scIn.all (fun o => !(o.slot == 0 && ([1] : List Nat).contains o.pkg)) = true := by decide
theorem test_witness_unacked : let s := { run .nop with clock := 128 * 65, fabric := { (run .nop).fabric with unacked := [{ pkt := aPacket, dim := 1, plane := 0, peer := 1, lseq := 0, slot := 0 }] } }
    s.fabric.unacked.any (fun u => !u.again && u.dim == 1 && u.plane == 0 && u.peer == 1 && decide (u.slot + planePorts s 1 < absSlot s)) = true := by decide
theorem test_witness_relay : let s := { run .nop with fabric := { (run .nop).fabric with rx := [{ id := 0, dim := 0, plane := 0, peer := 1, pkt := { aPacket with dst := pkgCode 2 0 0 } }] } }
    (relayable s).isSome = true ∧ (relayable s).map (fun e => relayAhead s e.pkt) = some 0 ∧ relayable (run .nop) = none ∧ nextHop s (pkgCode 2 0 0) = some (0, 2) := by decide
theorem test_witness_perform : (performFirst (run .nop) [{ id := 0, dim := 0, plane := 0, peer := 1, pkt := { aPacket with typ := 15, dst := 0 } }] matches .ok ..) = true ∧
    (performFirst (run .nop) [] matches .wait ..) = true := by decide +kernel
theorem test_witness_late : let s := { setFabPort (run .nop) 0 { active := some { cmd := { op := 1, desc := 0 }, targets := [] } } with clock := 8192 * 64 }
    (match (fabPort s 0).active with | some a => fabLate s a | none => false) = true := by decide
def aProposal : Proposal := { turn := 8, table := [], proposer := 0, own := true }
theorem test_witness_proposals : let s := setUnit (online (run .nop)) 2 { proposal := some aProposal, events := [5] }
    (unitOf s 2).proposal = some aProposal ∧ aProposal.own = true ∧ (aProposal.turn - 2) * 64 ≤ absSlot { s with clock := 128 * 512 } ∧ aProposal.turn * 64 ≤ absSlot { s with clock := 128 * 512 } ∧
    (unitOf s 2).queued = none ∧ (unitOf s 2).repairDue = false ∧ (proposalMembers s 2).any (fun x => !aProposal.acks.getLsbD x) = true ∧
    ((unitOf s 2).events = [5] ∧ (unitOf s 2).overflow = false) ∧ bit (hubNat (hubSet s (unitBase 2 + 0x28) 1) (unitBase 2 + 0x28)) 0 = true := by decide

/-! ### Events of the replay units -/
/-- An image of one chunk and five steps: a send, a receive, a copy, an end and a pause. -/
def anImageOf : List Word := [0x400000001, 0, 0, 0, 0, 0, 0, 0, 0, 0, 1, 2, 3, 4]
def idle : StepState := { phase := .waiting }
def anInstance : Instance := { play := { num := 0, bases := [], word := 0 }, start := 0, counters := [], steps := [idle, idle, idle, idle, idle] }
def playing (s : State) : State := onUnit s 3 (fun u => { u with image := anImageOf, inst := some anInstance })
theorem test_witness_replay_steps : let s := playing (run .nop)
    (imgChunks anImageOf, imgSteps anImageOf) = (1, 5) ∧ (List.range 5).map (fun k => stepKind (stepWord (replayOf s 3).image k)) = [0, 1, 2, 3, 4] ∧
    (replayOf s 3).inst = some anInstance ∧ anInstance.steps[4]? = some idle ∧ stepReady (replayOf s 3) anInstance 4 = true ∧
    instDone { anInstance with steps := [{ phase := .done }] } = true := by decide
/-- The same image with package 1 as the peer of every step, its instance at `t` in step `k`, on a running fabric. -/
def farImage : List Word := [0x400000001, 3, 0, 0, 0, 0, 0, 0, 0, 0x10, 0x11, 0x12, 0x13, 0x14]
def at_ (k : Nat) (t : StepState) (s : State) : State :=
  onUnit (online { s with clock := 600000 }) 3 (fun u => { u with image := farImage, bitmaps := [1], inst := some { anInstance with steps := setAt anInstance.steps k t } })
theorem test_witness_send_steps :
    (let s := at_ 0 idle (run .nop)
     ∃ i, StepAt s 3 0 i idle ∧ stepKind (stepWord (replayOf s 3).image 0) = 0 ∧ stepPeer (stepWord (replayOf s 3).image 0) ≠ s.part.cx.val ∧ fabricOn s = true ∧
       stepReady (replayOf s 3) i 0 = true ∧ sameTarget (replayOf s 3) i 0 = false ∧ i.start + 16 ≤ s.clock ∧
       (nextHop s (podPkg s (stepPeer (stepWord (replayOf s 3).image 0)))).isSome = true) ∧
    (let t : StepState := { phase := .active, leadAt := some 0 }
     let s := at_ 0 t (run .nop)
     ∃ i, StepAt s 3 0 i t ∧ wireSectors (imgOp (replayOf s 3).image) (imgElems (replayOf s 3).image) ≤ t.moved ∧ t.awaiting = [] ∧
       0 + 8192 * s.fabric.ftmo.toNat ≤ s.clock) ∧
    (stepReady { image := [0, 0, 0, 0, 0, 0, 0, 0, 0, 0x8000000010] } { anInstance with counters := [1] } 0 = false ∧ fabricOn (run .nop) = false) :=
  ⟨⟨_, ⟨rfl, rfl⟩, by decide, by decide, by decide, by decide, by decide, by decide, by decide⟩, ⟨_, ⟨rfl, rfl⟩, by decide, rfl, by decide⟩, by decide, by decide⟩
theorem test_witness_receive_steps :
    (let t : StepState := { accepted := true, ready := 1, moved := 1, bitmap := 2 }
     let s := at_ 1 t (run .nop)
     ∃ i, StepAt s 3 1 i t ∧ combines (replayOf s 3) i 1 t = true ∧ unitCount (imgOp (replayOf s 3).image) (imgElems (replayOf s 3).image) ≤ t.moved ∧
       (replayOf s 3).bitmaps[stepChunk (stepWord (replayOf s 3).image 1)]? = some 1) ∧
    (let t : StepState := { ready := 1 }
     let s := at_ 2 t (run .nop)
     ∃ i, StepAt s 3 2 i t ∧ stepKind (stepWord (replayOf s 3).image 2) = 2 ∧ stepReady (replayOf s 3) i 2 = true ∧ t.accepted = false) ∧
    (let i : Instance := { anInstance with play := { num := 0, bases := [], word := 1 } }
     releaseClock i { ready := 1 } ≤ 600000 ∧ releaseClock i { ready := 1, accepted := true, need := 1 } + 8192 ≤ 600000) ∧
    (let t : StepState := { phase := .active }
     let s := at_ 3 t (run .nop)
     ∃ i, StepAt s 3 3 i t ∧ finIdle (replayOf s 3) i (bitmapOf (replayOf s 3) 0) = true ∧
       finIdle { image := farImage } { anInstance with play := { num := 0, bases := [], word := 1#64 <<< 62 } } 1 = false) :=
  ⟨⟨_, ⟨rfl, rfl⟩, by decide, by decide, by decide⟩, ⟨_, ⟨rfl, rfl⟩, by decide, by decide, rfl⟩, by decide, ⟨_, ⟨rfl, rfl⟩, by decide, by decide⟩⟩
/-- A received sector that the base die combines with the chunk's, of which the host knows the address. -/
theorem test_witness_merge : let s := onUnit (withTables (run .nop)) 3 (fun u => { u with image := farImage, inst := some { anInstance with play := { num := 0, bases := [], word := 0, lnum := 1, priv := true } } })
    (match chunkSector s 3 0 { rd := true, wr := true } with | .ok v d => decide (d = 0) && !(stackFailed (flushSectors v [0]) 0) && (rangeOf (flushSectors v [0]) 0).isNone && (flushSectors v [0]).sys.hbm.wf | _ => false) = true ∧
    (chunkMerge s 3 [0] (recvValues 0 false [(0x3F800000, false)]) matches .ok ..) = true ∧ (chunkMerge s 3 [0] (finValues 2 1) matches .ok ..) = true := by decide +kernel
theorem test_witness_lead_accepted : let s := at_ 2 idle (run .nop)
    let a : Word := 0x1000020000000
    ridUnit s (bits a.toNat 63 48) = some 3 ∧ bits a.toNat 39 28 = 2 ∧ (replayOf s 3).lastStarted = bits a.toNat 47 40 ∧ bits a.toNat 39 28 < imgSteps (replayOf s 3).image ∧
    stepKind (stepWord (replayOf s 3).image 2) = 2 ∧ stepPeer (stepWord (replayOf s 3).image 2) = 1 := by decide
theorem test_witness_reshelve_waits : histsHere { desc := [0, 0, 0, 0, 0, 0, 1], phase := .exchanging, start := 0 } = false ∧ (run .nop).clock < ({ desc := [], phase := .counting, start := 9 } : Reshelve).start := by decide
theorem test_witness_step_timeout : let t : StepState := { phase := .active, leadAt := some 0, awaiting := [{ dst := 0, cls := 0, sseq := 0, nsect := 1 }] }
    t.phase = .active ∧ t.leadAt = some 0 ∧ t.awaiting ≠ [] ∧ 0 + 8192 * (run .nop).fabric.ftmo.toNat ≤ 524288 := by decide
theorem test_witness_play : let s := onUnit (run .nop) 3 (fun u => { u with plays := [{ num := 0, bases := [], word := 0 }] })
    (replayOf s 3).plays = [{ num := 0, bases := [], word := 0 }] ∧ (replayOf s 3).inst = none ∧ (replayOf s 3).reshelve = none ∧
    (replayOf s 3).loading = none ∧ (replayOf s 3).post = [] := by decide
theorem test_witness_lead : (leadArrives { run .nop with clock := 1000000 } 0 0 0).isSome = true := by decide
def loading (s : State) : State :=
  onUnit { s with sys := { s.sys with hbm := (s.sys.hbm.writeNat 0x10000 8 1).writeNat 0x10048 8 4 } } 0 (fun u => { u with loading := some (0x10000, 0), loadUser := (1, 0, 0, true) })
theorem test_witness_load : let s := loading (withTables (run .nop))
    let u : EngUser := { lnum := (replayOf s 0).loadUser.1, node := (replayOf s 0).loadUser.2.1, tag := (replayOf s 0).loadUser.2.2.1, priv := (replayOf s 0).loadUser.2.2.2 }
    ((replayOf s 0).loading = some (0x10000, 0) ∧ (replayOf s 0).sized = false ∧ (replayOf (onUnit s 0 (fun u => { u with sized := true })) 0).sized = true) ∧
    (match engWords s u 0x10000 8 with
      | .ok v h => decide (imgBytes (imgWord h 0) ≤ 65536) && (match engWords v u 0x10000 (imgBytes (imgWord h 0) / 8) with | .ok w l => !imageBad l && (ridUnit w (imgRid l)).isNone | _ => false)
      | _ => false) = true := by decide +kernel
theorem test_witness_reshelve : let r : Reshelve := { desc := [], phase := .moving, start := 0 }
    r.phase = .moving ∧ r.awaiting = [] ∧ r.due ≤ r.came ∧ r.start + 8192 * (run .nop).fabric.ftmo.toNat ≤ 524288 := by decide

/-! ### Events of the folio manager, the debug unit and the tables -/
def withFar (s : State) : State :=
  hubSet (hubSet (hubSet (withFolio (withFrames s)) (fmBase + 0x28) 4) 0x4009000008 0xFFFFFFFFF000) 0x4009000010 0xF
theorem test_witness_manager : folioOn (run .nop) = false ∧ folioOn (withFar (run .nop)) = true ∧
    ((withFar (run .nop)).folios.folios[0]? = some { names := [(1, 0)], frame := 0 } ∧ storageName (withFar (run .nop)) 0 = some 1) ∧
    folioNamed (withFar (run .nop)) (1 : BitVec 48).toNat = some { names := [(1, 0)], frame := 0 } ∧ 1 < shareCount { names := [(1, 0), (2, 0)] } := by decide
theorem test_witness_eviction : (evictOne (withFar (run .nop))).isSome = true := by
  rfl
/-- A folio that is being recalled, its recall at its end. -/
theorem test_witness_recall : let f : Folio := { names := [(1, 0)], state := 3 }
    let s : State := { withFar (run .nop) with folios := { folios := [f] } }
    s.folios.folios[0]? = some f ∧ storageName s 0 = some 1 ∧ f.state = 3 ∧ f.ready ≤ s.clock := by decide
theorem test_witness_split : (splitFolio (withFar (run .nop)) 1 (coreViewer (run .nop))).isSome = true := by
  rfl
theorem test_witness_debug_reads : windowAt 0x4007000008 = some (.hub 0x4007000008) ∧ windowAt 0x10000FFFF8 = some (.ls 0 0xFFFF8) ∧
    (Window.ls 0 0xFFFF8).on (run .nop) = true ∧ windowAt 0x400A000000 = none := by decide
theorem test_witness_debug : bit (hubNat (run .nop) (atBase 160 + 0x3C0)) 1 = false ∧ atTarget 160 = true ∧ atTarget 0 = true ∧
    ({ doneAt := 0, sel := 0, addr := 0, status := 0 } : DebugRead).doneAt ≤ (run .nop).clock := by decide

/-! ### Events of the distributor and the platform -/
theorem test_witness_dispatch : let s := { inVault (run .nop) with dist := { (run .nop).dist with vault := [] } }
    let x := updNode s 1 0 (fun n => { n with xchgPending := true })
    exchangeDue s = none ∧ (exchangeDue x = some 1 ∧ coreFree x = true) ∧
    coreFree s = true ∧ launchOf s 1 = some ((launchOf s 1).getD { lnum := 0 }) ∧ (nodeOf s 1 0).isSome = true ∧ coreHalted s = false ∧
    (chosen (updNode s 1 0 (fun n => { n with dies := [{ lo := 0, hi := 1 }] }))).isSome = true ∧ retires { phase := .ending } = true := by decide
theorem test_witness_selection :
    let b := updNode { run .nop with dist := { (run .nop).dist with launches := (run .nop).dist.launches ++ [{ lnum := 2, overdue := true, state := 1, bound := true, nodes := [{ phase := .compute, dies := [{ lo := 0, hi := 1 }] }] }] } } 2 0 (fun n => n)
    ((chosen b).map (·.lnum)) = some 2 ∧ coreFree b = false ∧ b.core.task = some theTask ∧ b.core.preempt = none ∧ theTask.drain = false ∧ theTask.lnum ≠ 2 ∧
    ranksAbove b { lnum := 2, overdue := true } { lnum := 1 } = true ∧
    hasWork b ((launchOf b 2).getD { lnum := 0 }) = true ∧ ((launchOf b 2).getD { lnum := 0 }).waitFrom + 64000 ≤ 64000 := by decide
theorem test_witness_submit : (doorNow (run .nop) 64).isSome = true ∧ (1 : Word).toNat % 64 ≠ 0 ∧ (submitWords (run .nop) (.peer 1025) [0, 0, 0, 0, 0, 0, 0, 0] true).isSome = true := by decide
/-- A node whose phase closes, ends its exchange, or retires. -/
theorem test_witness_phases : let n : Node := { phase := .ending, sendAt := some 64, closeAt := some 0, entries := [(0, 0), (0, 0)] }
    let s := { updNode (run .nop) 1 0 (fun _ => n) with clock := 136 }
    (launchOf s 1).isSome = true ∧ nodeOf s 1 0 = some n ∧ slotClock s = 8 ∧ n.podPhase = false ∧ n.superstep + 1 < n.entries.length ∧
    (0 - s.fabric.from_) / 128 + n.atEnd.foldl (fun m e => max m e.slots) n.sendSlots ≤ (s.clock - s.fabric.from_) / 128 ∧
    n.atEnd.foldl (fun m e => max m e.clock) 64 < s.fabric.from_ + (s.clock - s.fabric.from_) / 128 * 128 ∧ s.dist.frozen = false ∧
    (({ phase := .closing, closeAt := some 7, entries := [(0, 4)] } : Node).podAt = none ∧ ((([(0, 4)] : List (Nat × Nat))[0]?).map Prod.snd).getD 0 ≠ 0) ∧
    coreFree s = false ∧ retires n = false := by decide
theorem test_witness_dispatch_node : let s := updNode (inVault (run .nop)) 1 0 (fun n => { n with dies := [{ lo := 1, hi := 4 }] })
    let s := { s with dist := { s.dist with vault := [] } }
    ∃ l n, launchOf s 1 = some l ∧ l.nodes.all (fun a => !a.xchgPending) = true ∧ vaultTask s 1 = none ∧
      earliestNode l ((readyNodes l).filter (fun k => ((l.nodes[k]?).map (fun n => !n.avoidCore)).getD false)) = some 0 ∧ nodeOf s 1 0 = some n ∧ (takeTickets s n true 1).isSome = true :=
  ⟨_, _, rfl, by decide, by decide, by decide, rfl, by decide⟩
theorem test_witness_release : let s := arriveAt (run .nop) 1 0 .qd 15
    (barOf s 1 0 .qd 15).isSome = true ∧ (match barOf s 1 0 .qd 15 with | some r => r.release.isSome | none => false) = true ∧ coreHalted (podRelease s 1 0 15) = false := by decide
theorem test_witness_host : (0xFFFFFFF8 : BitVec 32).toNat % 8 = 0 ∧
    (ocCheck (run .nop) { core := false, priv := true, req := { cls := 4 } } 0x4007000000 8 true false matches .ok _ (.hub _)) = true ∧
    bit (hubNat (run .nop) 0x4009000110) 0 = false ∧ bit (0x100 : Word).toNat 8 = true ∧ bit (hubNat (run .nop) 0x4009000130) 0 = false ∧
    bit (hubNat (run .nop) 0x4009000140) 0 = false ∧ windowAt 0x4007000000 = some (.hub 0x4007000000) := by decide
theorem test_witness_cut_off : linkDown (hubSet (run .nop) fmBase 4) = true ∧ linkDown (run .nop) = false ∧
    bringState (hubSet (run .nop) brstat 4) = 4 ∧ Instr.hostBar0Access 0 none ≠ Instr.reset := by decide
theorem test_witness_joining : let s := onPlat { run .nop with clock := 20000 } (fun p => { p with joining := some (3, 3616), fullAt := some 0 })
    s.plat.joining = some (3, 3616) ∧ s.plat.hold = 0 ∧ (nanoseconds s s.clock - nanoseconds s 3616) % 8192 = 0 ∧ podBusy { s with dist := {} } 3616 = false := by decide
theorem test_witness_service :
    bringState (hubSet (run .nop) brstat 1) = 1 ∧ bringState (run .nop) = 2 ∧ (run .nop).part.hbmStacks.getLsbD 11 = true ∧
    (run .nop).part.hbmStacks &&& ~~~((run .nop).plat.trained ||| (run .nop).plat.failed) = 0 ∧ podBusy { run .nop with dist := {} } 0 = false ∧
    overLimits (readings (run .nop) 2801 20 20) 2801 20 20 = true ∧ overLimits (readings (run .nop) 2800 100 95) 2800 100 95 = false ∧
    110 ≤ (110 : Byte).toNat ∧ 105 ≤ (105 : Byte).toNat ∧ overLimits (readings (run .nop) 0 101 0) 0 101 0 = true := by decide

/-! ### Ill-formed syllables: one term for each check of `wellFormed`, which refuses it -/
theorem test_ill_formed : let g : Guard := ⟨0, false⟩
    [Instr.bfi g 28 1 2, .loop g 0 0, .loop g 28 0, .amol true 27 1 .cas 0, .amoq false 27 1 .cas 0, .amoo true 27 1 .cas 0, .amog true 27 1 .cas 0,
     .vadd .i4 1 2 3 false, .vsub .s4o 1 2 3 false, .vmul .e4m3 1 2 3 false, .vfma .i4 1 2 3 false, .vfms .i4 1 2 3 false, .vmin .i4 1 2 3 false, .vmax .e5m2 1 2 3 false,
     .vabs .i4 1 2 false, .vneg .e4m3 1 2 false, .vshl .f32 1 2 3 false, .vshr .bf16 1 2 3 false, .vcvt .s4o 1 2 .f32 false, .vcvt .f32 1 2 .bf16 false, .vcvt .i4 4 2 .f32 false,
     .vcmpEq .i4 1 2 3 false, .vcmpNe .i4 1 2 3 false, .vcmpLt .i4 1 2 3 false, .vcmpLe .i4 1 2 3 false, .vcmpGt .i4 1 2 3 false, .vcmpGe .i4 1 2 3 false,
     .vwadd .f32 4 2 3 false, .vwadd .bf16 1 2 3 false, .vwmul .i8 2 2 3 false, .vwfma .bf16 1 2 3 false,
     .vrcp .i32 1 2 false, .vrsqrt .i32 1 2 false, .vexp2 .i32 1 2 false, .vlog2 .i32 1 2 false, .vredsum .i4 1 2 false, .vredmax .i4 1 2 false, .vscan .i4 1 2 false,
     .vperm .i8 1 2 3 false].all (fun i => !wellFormed i) = true := by decide
theorem test_ill_formed_memory_and_units :
    [Instr.vldlChk 1 2 .f32 0, .vldqChk 1 2 .bf16 0, .vldoChk 1 2 .i32 0, .vldgChk 1 2 .w8 0, .vldfChk 1 2 .f32 0, .vldhChk 1 2 .f32 0,
     .gfold 1 2 0, .gdrain 1 30 0 false .raw, .gdrain 1 2 3 false .mean, .gset 1 30 false,
     .mma 1 2 3 .f32 false false, .mmat 1 2 3 .i8 true false, .mmag 1 2 3 .i16 false false, .mdrain 1 2 3 .i4 false false false, .mldc 1 2 .i8, .mbwr 1 2 .f32 false, .mbwr 1 2 .bf16 true,
     .mwait 1 false true, .mpert 1 0 0 true, .mpert 0 1 0 true, .binit 1 2 true false, .owne 1 0 true false, .ownc 0 1 true false,
     .fwrs 1 2 27 0, .fwrsSc 1 2 27 0, .famo 1 2 27 true .cas, .fmcast 1 2 26 true 0, .fmcast 1 2 27 false 0, .fwait 1 true 1, .fcnt 1 2 3,
     .tkt 1 .co, .tktn 1 2 .pd, .nodeid 1 6, .tileid 1 7, .csrr 1 3, .csrw 1 0x7FF, .xlinv 1 2 3, .tinj 1 0 3, .tinj 1 3 2, .sleep 1 3].all (fun i => !wellFormed i) = true := by decide
theorem test_well_formed_neighbours :
    [Instr.bfi ⟨0, false⟩ 27 1 2, .loop ⟨0, false⟩ 27 0, .amol true 26 1 .cas 0, .vwmul .i8 4 2 3 false, .gset 1 29 false, .fmcast 1 2 25 true 0, .tinj 1 3 1, .nodeid 1 5].all wellFormed = true := by decide

/-! ### Words that the manual writes out -/
/-- R98, R108, R113: the words of the scalar chapter. -/
theorem test_words_scalar :
    [0x00000000, 0x80000000, 0x20091A2B, 0x89CA03C4, 0x890A5019, 0x20001ABC, 0x888A5DEF, 0x080C6005, 0x92013FFF].map (fun w => decode (BitVec.ofNat 32 w)) =
    [some .nop, some .nop, some (.lx 0x91A2B), some (.movi 5 0x3C4), some (.slli 5 5 25), some (.lx 0x1ABC), some (.ori 5 5 0xDEF), some (.addi 6 6 5),
     some (.loop ⟨0, false⟩ 4 0x3FFF)] := by decide
/-- R140, R142, R143, R160, R165: the words of the memory chapters. -/
theorem test_words_memory :
    [0x9B829002, 0xB9443002, 0xBBC61E02, 0xB8C62100, 0x9B5991C2, 0x1DC00000, 0x18E00000].map (fun w => decode (BitVec.ofNat 32 w)) =
    [some (.cwb 10 8 2), some (.vldqRow 4 6 2), some (.vldgChk 3 3 .s4o 2), some (.vldlChk 3 4 .e4m3 0), some (.amog true 6 8 .cas 2), some .hfence, some .efence] := by decide
/-- R193, R204, R410, R418 and the worked examples: vector commands, statistics, engines, system. -/
theorem test_words_units :
    [0x30300000, 0xB00A9680, 0xB01300C0, 0xE0040000, 0xE0440200, 0xE1084001, 0xE1481002, 0xE1481201, 0xCA801300, 0x69200000, 0xE9200000, 0xE8200002, 0xE8000005].map
      (fun w => decode (BitVec.ofNat 32 w)) =
    [some .vfence, some (.vqcvt 10 11 4), some (.vdqcvt 12 12), some (.gclr 1 false), some (.gadd 1 1 .f32 false), some (.gfold 2 1 1),
     some (.gdrain 2 8 0 false .var), some (.gdrain 2 9 0 false .mean), some (.owne 1 6 false false), some .halt, some .halt, some .rftReplay, some (.trap 5)] := by decide
/-- Reserved fields and values are refused: a nonzero zero-field, a reserved op, both bits of `RFT`. -/
theorem test_words_refused :
    [0x00000001, 0x04E00000, 0x92000001, 0xE8200003, 0xE9A00000, 0x1DC00001].all (fun w => (decode (BitVec.ofNat 32 w)).isNone) = true := by decide

/-! ### One syllable each -/
/-- The value of the last result left in flight or pending. -/
def left (o : Host.Outcome State Fault Refusal) : Option Nat :=
  match o with
  | .next t => if t.core.exposed.isEmpty then (t.core.board.getLast?).bind (·.val) else (t.core.exposed.getLast?).map (·.val)
  | _ => none
def at2 (a b : Word) (i : Instr) : Option Nat := left (exec i (withX 7 b (withX 6 a (run i))))
/-- R99 to R107, by hand from their tables. -/
theorem test_scalar_results : let g : Guard := ⟨0, false⟩
    [at2 0xFFFFFFFFFFFFFFFF 2 (.add g 5 6 7), at2 0 1 (.sub g 5 6 7), at2 0xF0 0x3C (.andn g 5 6 7), at2 1 64 (.sll g 5 6 7), at2 0x8000000000000000 63 (.sra g 5 6 7),
     at2 0x8000000000000001 1 (.rol g 5 6 7), at2 0xFFFFFFFFFFFFFFFF 2 (.mulh g 5 6 7), at2 0xFFFFFFFFFFFFFFFF 2 (.mulhw g 5 6 7), at2 0xFFFFFFFFFFFFFFFF 1 (.min g 5 6 7),
     at2 0xFFFFFFFFFFFFFFFF 1 (.minw g 5 6 7), at2 0 0 (.clz g 5 6), at2 0 0 (.ctz g 5 6), at2 0xFF 0x10404 (.bfx g 5 6 7), at2 7 0 (.pcmpLtw g 3 7 6)] =
    [some 1, some 0xFFFFFFFFFFFFFFFF, some 0xC0, some 1, some 0xFFFFFFFFFFFFFFFF, some 3, some 0xFFFFFFFFFFFFFFFF, some 1, some 0xFFFFFFFFFFFFFFFF, some 1, some 64, some 64,
     some 0xFFFFFFFFFFFFFFFF, some 1] := by decide
/-- R101: the corners of division. -/
theorem test_division : let g : Guard := ⟨0, false⟩
    [at2 7 0 (.div g 5 6 7), at2 7 0 (.rem g 5 6 7), at2 0x8000000000000000 0xFFFFFFFFFFFFFFFF (.div g 5 6 7), at2 0x8000000000000000 0xFFFFFFFFFFFFFFFF (.rem g 5 6 7),
     at2 0xFFFFFFFFFFFFFFF9 2 (.div g 5 6 7), at2 0xFFFFFFFFFFFFFFF9 2 (.rem g 5 6 7)] =
    [some 0xFFFFFFFFFFFFFFFF, some 7, some 0x8000000000000000, some 0, some 0xFFFFFFFFFFFFFFFD, some 0xFFFFFFFFFFFFFFFF] := by decide
/-- R108: an LX before `MOVI`. -/
theorem test_lx : left (exec (.movi 5 0x3C4) (onCore (run (.movi 5 0x3C4)) (fun c => { c with lx := some 0x91A2B }))) = some 0x91A2B3C4 := by decide
/-- R113: `LOOP` entered with zero decrements to all ones and is taken. -/
theorem test_loop_zero : (match exec (.loop ⟨0, false⟩ 4 0x3FFF) (run (.loop ⟨0, false⟩ 4 0x3FFF)) with
    | .next t => t.core.pc == 0xFFC && (t.core.exposed.getLast?).map (·.val) == some 0xFFFFFFFFFFFFFFFF | _ => false) = true := by decide
/-- R112: a `JR` to an address beyond 56 bits traps with `XLATE_FAULT`, one to a misaligned address with `ALIGN`. -/
theorem test_jr_traps : let go (a : Word) : Option (Byte × Word) := (match exec (.jr ⟨0, false⟩ 6) (withHandler (withX 6 a (run (.jr ⟨0, false⟩ 6)))) with
      | .next t => some (t.core.sw.cause, t.core.trapVal) | _ => none)
    (go 0x100000000000000, go 2) = (some (BitVec.ofNat 8 Cause.xlateFault.code, 0x100000000000000), some (BitVec.ofNat 8 Cause.align.code, 2)) := by decide
/-- R137: bytes go to memory lowest address first, and a load of two takes them back. -/
theorem test_store_bytes : (match exec (.stl .b4 6 7 0) (withX 6 0x11223344 (run (.stl .b4 6 7 0))) with
    | .next t => [t.oc.byte 0x1000000000, t.oc.byte 0x1000000003, t.oc.byte 0x1000000004] | _ => []) = [0x44#8, 0x11, 0] := by decide
/-- R161: `CAS` that finds another value stores nothing and returns it. -/
theorem test_cas_fails : let s := withX 6 9 (withX 7 0x100 (run (.amol true 6 7 .cas 0)))
    (match exec (.amol true 6 7 .cas 0) { s with oc := s.oc.writeNat 0x1000000100 8 5 } with
     | .next t => (t.oc.readNat 0x1000000100 8, (t.core.board.getLast?).bind (·.val)) | _ => (0, none)) = (5, some 5) := by decide +kernel
/-- R177: INT8 addition wraps without `ISAT` and clamps, counting a saturation, with it. -/
theorem test_vadd_i8 : let s := withV 3 1 (withV 2 127 (run (.vadd .i8 1 2 3 false)))
    (left (exec (.vadd .i8 1 2 3 false) s), match exec (.vadd .i8 1 2 3 false) (onVu s (fun u => { u with vcfg := 0x100 })) with
      | .next t => (t.core.exposed.getLast?).map (fun l => (l.val, l.sat)) | _ => none) = (some 128, some (127, 1)) := by decide +kernel
/-- R86, R87 and the worked fold: after samples 2, 4 and 6 a lane is (3, 4, 8); merged with (3, 1, 0) it is (6, 2.5, 21.5), of variance 0x40655555. -/
theorem test_statistics_fold : let t := (((Triple.empty.update 0x40000000 f32One).update 0x40800000 f32One).update 0x40C00000 f32One)
    t = ⟨0x40400000, 0x40800000, 0x41000000⟩ ∧ t.merge ⟨0x40400000, f32One, 0⟩ = ⟨0x40C00000, 0x40200000, 0x41AC0000⟩ ∧
    (t.merge ⟨0x40400000, f32One, 0⟩).var = 0x40655555 := by decide +kernel
/-- The worked `VQCVT`: 1.0, −3.5, 896 and 0.5 at scale 2.0 quantise to E4M3 0x30, 0xBE, 0x7E, 0x28, with `MAXMAG` 0x44600000. -/
theorem test_quantise : let r := quantBlock 2 .rne false 0x40000000 [0x3F800000, 0xC0600000, 0x44600000, 0x3F000000]
    (r.1 % 2 ^ 32, bits r.2.1 31 0, bits r.2.1 63 32, bits r.2.1 95 64, bits r.2.1 127 96, bits r.2.1 163 160) = (0x287EBE30, 0x44600000, 0, 4, 0x40000000, 2) := by decide +kernel
/-- R248: an update that brings both counts to zero advances the phase and reloads them. -/
theorem test_barrier_phase : (BarrierWord.update ⟨8, 1, 8, 1, 15⟩ 1 (-8)) = ⟨8, 1, 8, 1, 0⟩ := by decide
/-- R61, R397: `HALT` in unprivileged mode takes `PRIVILEGE` with its word. -/
theorem test_privilege : (match exec .halt (withHandler (asUser (run .halt))) with
    | .next t => (t.core.sw.cause, t.core.sw.priv, t.core.trapVal, t.core.pc) | _ => (0, false, 0, 0)) = (BitVec.ofNat 8 Cause.privilege.code, true, 0xE9200000, 0x8000) := by decide

end Sys2Proof.Tests
end

section
/-!
SUPPORT. The scalar and control syllables (R92, R97 to R113): what `alu`, `mulRes`, `pred` and `divRes` answer when the
syllable has its own effect, and the facts of arithmetic that join the meanings of the syllables to the tables of
results.
-/
namespace Sys2Proof.Machine
open Sys2Proof

/-! ### A syllable that completes -/

theorem syl_completes {i : Instr} {s u : State} {body : State → Eff} (h : Flows i s) (hb : body s = .done u) :
    syl i s body = .next (committed s u) := by
  rw [syl_flows h, hb, settle_done]

/-- The frame of every exposed scalar result, of one, two or three clocks (R36, R95). -/
theorem syl_exposeX {i : Instr} {s : State} {d : XReg} {n : Nat} {f : State → Word} {v : Word} (h : Flows i s)
    (hw : MayWrite s d) (hv : f s = v) :
    syl i s (fun s => guardPush s d (.done (exposeX s n d (f s)))) = .next (committed s (exposeX s n d v)) :=
  syl_completes h (by rw [guardPush_ok hw, hv])

theorem pred_completes {i : Instr} {s : State} {p : PReg} {f : State → Bool} {b : Bool} (h : Flows i s) (hb : f s = b) :
    pred i p s f = .next (committed s (expose s 1 (.p p) (b2n b))) :=
  syl_completes h (by rw [hb])

/-! ### Exposed results (R99, R100, R102, R103, R106, R107) -/

theorem signedMin_eq_ite_slt (a b : Word) : (if a.toInt ≤ b.toInt then a else b) = if b.slt a then b else a := by
  simp only [BitVec.slt, decide_eq_true_eq, ← Int.not_le, ite_not]

/-- Where the operands are equal, the two sides pick different ones. -/
theorem signedMax_eq_ite_slt (a b : Word) : (if a.toInt ≤ b.toInt then b else a) = if a.slt b then b else a := by
  simp only [BitVec.slt, decide_eq_true_eq]
  rcases Int.lt_trichotomy a.toInt b.toInt with hlt | heq | hgt
  · rw [if_pos hlt.le, if_pos hlt]
  · rw [if_pos heq.le, if_neg heq.not_lt, BitVec.eq_of_toInt_eq heq]
  · rw [if_neg hgt.not_ge, if_neg hgt.not_gt]

theorem unsignedMin_eq_ofNat (a b : Word) :
    (if a.toNat ≤ b.toNat then a else b) = BitVec.ofNat 64 (min a.toNat b.toNat) := by
  rw [Nat.min_def]; split <;> simp only [BitVec.ofNat_toNat, BitVec.setWidth_eq]

theorem unsignedMax_eq_ofNat (a b : Word) :
    (if a.toNat ≤ b.toNat then b else a) = BitVec.ofNat 64 (max a.toNat b.toNat) := by
  rw [Nat.max_def]; split <;> simp only [BitVec.ofNat_toNat, BitVec.setWidth_eq]

/-- The value that the table gives is the one that the syllable's meaning computes: by definition, but for the minima
and maxima. -/
theorem completes_of_scalarResult {i : Instr} {s : State} {d : XReg} {v : Word} {n : Nat} (h : Flows i s)
    (hr : scalarResult s i = some (d, v, n)) (hw : MayWrite s d) : Completes i s (exposeX s n d v) := by
  unfold scalarResult at hr
  split at hr <;> simp only [Option.some.injEq, Prod.mk.injEq, reduceCtorEq] at hr
  all_goals
    obtain ⟨rfl, rfl, rfl⟩ := hr
    refine syl_exposeX h hw ?_
  any_goals rfl
  case h_14 => -- MIN
    exact signedMin_eq_ite_slt _ _
  case h_15 => -- MAX
    exact signedMax_eq_ite_slt _ _
  case h_16 => -- MINW
    exact unsignedMin_eq_ofNat _ _
  case h_17 => -- MAXW
    exact unsignedMax_eq_ofNat _ _

/-! ### Predicates (R104, R105, R107) -/

theorem bne_eq_decide_ne (a b : Word) : (a != b) = decide (a ≠ b) := decide_not.symm

theorem not_slt_eq_decide_le (a b : Word) : (!a.slt b) = decide (b.toInt ≤ a.toInt) := by
  rw [BitVec.slt, ← decide_not, decide_eq_decide, Int.not_lt]

theorem not_ult_eq_decide_le (a b : Word) : (!a.ult b) = decide (b.toNat ≤ a.toNat) := by
  rw [BitVec.ult, ← decide_not, decide_eq_decide, Nat.not_lt]

theorem completes_of_predicateResult {i : Instr} {s : State} {p : PReg} {b : Bool} (h : Flows i s)
    (hr : predicateResult s i = some (p, b)) : Completes i s (expose s 1 (.p p) (b2n b)) := by
  unfold predicateResult at hr
  split at hr <;> simp only [Option.some.injEq, Prod.mk.injEq, reduceCtorEq] at hr
  all_goals
    obtain ⟨rfl, rfl⟩ := hr
    refine pred_completes h ?_
  any_goals rfl
  case h_2 | h_8 => -- PCMP.ne, PCMPI.ne
    exact bne_eq_decide_ne _ _
  case h_4 | h_10 => -- PCMP.ge, PCMPI.ge
    exact not_slt_eq_decide_le _ _
  case h_6 | h_12 => -- PCMP.gew, PCMPI.gew
    exact not_ult_eq_decide_le _ _

/-! ### Divisions (R101) -/

theorem divide_signed (a b : Word) :
    divide true a b = (if b = 0 then BitVec.allOnes 64 else a.sdiv b, if b = 0 then a else a.srem b) := by
  unfold divide
  by_cases hb : b = 0
  · simp only [hb, if_true]; rfl
  · simp only [hb, if_false, if_true]
    congr 1
    · exact BitVec.eq_of_toInt_eq (by rw [BitVec.toInt_ofInt, BitVec.toInt_sdiv])
    · exact BitVec.eq_of_toInt_eq (by rw [← BitVec.toInt_srem, BitVec.ofInt_toInt])

theorem divide_unsigned (a b : Word) :
    divide false a b = (if b = 0 then BitVec.allOnes 64 else a / b, if b = 0 then a else a % b) := by
  unfold divide
  by_cases hb : b = 0
  · simp only [hb, if_true]; rfl
  · simp only [hb, if_false, Bool.false_eq_true]
    rw [← BitVec.toNat_udiv, ← BitVec.toNat_umod, BitVec.ofNat_toNat, BitVec.ofNat_toNat, BitVec.setWidth_eq, BitVec.setWidth_eq]

/-- What a division writes: the quotient, or the remainder where `rem`. -/
def divisionValue (signed rem : Bool) (a b : Word) : Word := if rem then (divide signed a b).2 else (divide signed a b).1

theorem divClocks_mem (signed : Bool) (a b : Word) : divClocks signed a b ∈ [12, 24, 40] := by
  unfold divClocks
  extract_lets m
  split_ifs <;> simp only [List.mem_cons, true_or, or_true]

/-- A division that finds the divider free takes it, and its result is pending. -/
theorem divRes_completes {i : Instr} {s : State} {d a b : XReg} {signed rem : Bool} (h : Flows i s)
    (hw : MayWrite s d) (hfree : s.core.divBusy ≤ s.clock) :
    divRes i d a b signed rem s = .next (committed s
      (pendX (onCore s (fun c => { c with divBusy := s.clock + divClocks signed (readX s a) (readX s b) })) d
        (divisionValue signed rem (readX s a) (readX s b)) .clean (divClocks signed (readX s a) (readX s b)))) :=
  syl_completes h (by rw [if_neg (Nat.not_lt.mpr hfree), guardPush_ok hw]; rfl)

/-- A division that finds the divider taken waits at its place (log entry 92). -/
theorem divRes_waits {i : Instr} {s : State} {d a b : XReg} {signed rem : Bool} (h : Flows i s)
    (hbusy : s.clock < s.core.divBusy) : divRes i d a b signed rem s = .next (stall s) := by
  rw [divRes, syl_flows h, if_pos hbusy, settle_wait]

/-- What the rows of the table of divisions have in common: the syllable runs on the divider. -/
theorem exec_of_divisionResult {i : Instr} {s : State} {d : XReg} {v : Word} {n : Nat}
    (hr : divisionResult s i = some (d, v, n)) :
    ∃ (a b : XReg) (signed rem : Bool), exec i s = divRes i d a b signed rem s ∧
      v = divisionValue signed rem (readX s a) (readX s b) ∧ n = divClocks signed (readX s a) (readX s b) := by
  unfold divisionResult at hr
  split at hr <;> simp only [Option.some.injEq, Prod.mk.injEq, reduceCtorEq] at hr <;> obtain ⟨rfl, rfl, rfl⟩ := hr
  case h_1 _ d a b => exact ⟨a, b, true, false, rfl, by rw [divisionValue, divide_signed]; rfl, rfl⟩
  case h_2 _ d a b => exact ⟨a, b, false, false, rfl, by rw [divisionValue, divide_unsigned]; rfl, rfl⟩
  case h_3 _ d a b => exact ⟨a, b, true, true, rfl, by rw [divisionValue, divide_signed]; rfl, rfl⟩
  case h_4 _ d a b => exact ⟨a, b, false, true, rfl, by rw [divisionValue, divide_unsigned]; rfl, rfl⟩

theorem completes_of_divisionResult {i : Instr} {s : State} {d : XReg} {v : Word} {n : Nat} (h : Flows i s)
    (hr : divisionResult s i = some (d, v, n)) (hw : MayWrite s d) (hfree : s.core.divBusy ≤ s.clock) :
    Completes i s (pendX (onCore s (fun c => { c with divBusy := s.clock + n })) d v .clean n) := by
  obtain ⟨a, b, signed, rem, he, rfl, rfl⟩ := exec_of_divisionResult hr
  exact he.trans (divRes_completes h hw hfree)

theorem clocks_of_divisionResult {i : Instr} {s : State} {d : XReg} {v : Word} {n : Nat}
    (hr : divisionResult s i = some (d, v, n)) : n ∈ [12, 24, 40] := by
  obtain ⟨a, b, signed, rem, -, -, rfl⟩ := exec_of_divisionResult hr
  exact divClocks_mem signed _ _

theorem waits_of_divisionResult {i : Instr} {s : State} {d : XReg} {v : Word} {n : Nat} (h : Flows i s)
    (hr : divisionResult s i = some (d, v, n)) (hbusy : s.clock < s.core.divBusy) : exec i s = .next (stall s) := by
  obtain ⟨a, b, signed, rem, he, -, -⟩ := exec_of_divisionResult hr
  exact he.trans (divRes_waits h hbusy)

/-! ### Branches (R92, R109 to R113) -/

/-- A jump to a register that holds the address of a syllable (R112). -/
theorem jumpTo_syllable {s : State} {t : Word} (ht : t.toNat < 2 ^ 56 ∧ t.toNat % 4 = 0) :
    jumpTo s t = .done (takeBranch s (t.setWidth 56) 3) := by
  have hhigh : bits t.toNat 63 56 = 0 := by
    rw [bits, Nat.shiftRight_eq_div_pow, Nat.div_eq_of_lt ht.1, Nat.zero_mod]
  have hlow : bits t.toNat 1 0 = 0 := ht.2
  simp only [jumpTo, hhigh, hlow, bne_self_eq_false, Bool.false_eq_true, if_false, BitVec.ofNat_toNat]

theorem toNat_link (c : Core) : ((addrHere c + 4).setWidth 64).toNat = (addrHere c + 4).toNat :=
  BitVec.toNat_setWidth_of_le (by decide)

/-- A `LOOP` whose counter comes to zero has no effect but the write of the counter (R113). -/
theorem exec_loop_last {g : Guard} {c : XReg} {o : BitVec 14} {s : State} (h : Flows (.loop g c o) s) (hc : readX s c = 1) :
    exec (.loop g c o) s = .next (committed s (expose s 1 (.x c) (readX s c - 1).toNat)) :=
  syl_completes h (congrArg Eff.done (if_pos (sub_eq_zero.mpr hc)))

theorem exec_loop_taken {g : Guard} {c : XReg} {o : BitVec 14} {s : State} (h : Flows (.loop g c o) s) (hc : readX s c ≠ 1) :
    exec (.loop g c o) s = .next (committed s (takeBranch (expose s 1 (.x c) (readX s c - 1).toNat)
      (relTarget s.core (immOf s.core 14 o.toNat)) (loopBubbles (immOf s.core 14 o.toNat)))) :=
  syl_completes h (congrArg Eff.done (if_neg (sub_ne_zero.mpr hc)))

/-! ### The statements -/

/-- Settles O1, from what each table of results says of `exec`. -/
theorem scalarResults : Obligations.ScalarResults := by
  unfold Obligations.ScalarResults
  intro i s h
  refine ⟨fun d v n hr hw => completes_of_scalarResult h hr hw, fun d v n hr hw => ⟨fun hfree => ?_, fun hbusy => ?_⟩,
    fun p b hr => completes_of_predicateResult h hr⟩
  · exact ⟨completes_of_divisionResult h hr hw hfree, clocks_of_divisionResult hr⟩
  · exact waits_of_divisionResult h hr hbusy

/-- Settles O2, branch by branch: the effect of each leaves its result and sets its target, or keeps the target that
stands where `LOOP` is not taken. -/
theorem branches : Obligations.Branches := by
  unfold Obligations.Branches
  intro i s w t hr h
  unfold branchResult at hr
  split at hr <;> simp only [Option.some.injEq, Prod.mk.injEq, Option.ite_none_right_eq_some, reduceCtorEq] at hr
  next => -- J
    obtain ⟨rfl, rfl⟩ := hr
    exact syl_completes h rfl
  next => -- CALL
    obtain ⟨rfl, rfl⟩ := hr
    exact syl_completes h (by rw [← toNat_link]; rfl)
  next => -- JR
    obtain ⟨ht, rfl, rfl⟩ := hr
    exact syl_completes h (jumpTo_syllable ht)
  next => -- RET
    obtain ⟨ht, rfl, rfl⟩ := hr
    exact syl_completes h (jumpTo_syllable ht)
  next c o => -- LOOP
    obtain ⟨rfl, rfl⟩ := hr
    by_cases hlast : readX s c = 1
    · rw [if_pos hlast]
      exact exec_loop_last h hlast
    · rw [if_neg hlast]
      exact exec_loop_taken h hlast

end Sys2Proof.Machine
end

section
/-!
SUPPORT. The statistics syllables (R85 to R87, R200 to R211): what the lanes of a register become under a mask and at a
level of the tree of `GFOLD`, and the triples that leave a lane as it is.
-/
namespace Sys2Proof.Machine
open Sys2Proof

/-! ### Lanes -/

/-- The lane of a register after a masked update: a lane that the mask leaves out keeps its triple (R204). -/
theorem statLanes_eq_map_range (s : State) (g : GReg) (k : Bool) (f : Nat → Triple → Triple) :
    statLanes s g k f = (List.range 128).map (fun i =>
      if k && !maskBit s i then laneOf s.core.g[g] i else f i (laneOf s.core.g[g] i)) := by
  refine List.ext_getElem (by simp [statLanes, lanesOf]) fun i _ _ => ?_
  simp only [statLanes, lanesOf, List.getElem_map, List.getElem_zipIdx, List.getElem_range, Nat.zero_add]
  cases k <;> cases maskBit s i <;> rfl

/-- Lane `j` of a level of the tree: a lane at the start of a block takes its partner, which becomes empty (R208). -/
theorem foldLevel_getElem? {a : List Triple} {k j : Nat} (hj : j < a.length) :
    (foldLevel a (k + 1))[j]? = some (
      if j % 2 ^ (k + 1) = 0 then ((a[j]?).getD .empty).merge ((a[j + 2 ^ k]?).getD .empty)
      else if j % 2 ^ (k + 1) = 2 ^ k then .empty else (a[j]?).getD .empty) := by
  simp only [foldLevel, List.getElem?_map, List.getElem?_zipIdx, List.getElem?_eq_getElem hj, Option.map_some, Option.getD_some,
    Nat.zero_add, Nat.add_sub_cancel, beq_iff_eq]

/-! ### Triples -/

theorem isEmpty_empty : Triple.empty.isEmpty = true := rfl

theorem merge_empty_right {t : Triple} (h : t.isEmpty = false) : t.merge .empty = t := by
  simp only [Triple.merge, h, isEmpty_empty, Bool.false_and, Bool.false_eq_true, if_false, if_true]

theorem merge_empty_left {t : Triple} (h : t.isEmpty = false) : Triple.empty.merge t = t := by
  simp only [Triple.merge, h, isEmpty_empty, Bool.and_false, Bool.false_eq_true, if_false, if_true]

/-- A sample of weight zero leaves the triple as it is (R86). -/
theorem update_weight_zero (t : Triple) (x : Nat) : t.update x 0 = t := if_pos rfl

/-! ### Syllables -/

theorem vsyl_completes {i : Instr} {s u : State} {body : State → Eff} (h : VFlows i s) (hb : body s = .done u) :
    vsyl i s body = .next (committed s u) := by
  rw [vsyl_flows h, hb, settle_done]

/-- What a masked update of a statistics register leaves is its lanes, each by the table (R200, R201, R204). -/
theorem pendStat_statLanes {s : State} {g : GReg} {k : Bool} {f : Nat → Triple → Triple} (m : Mark) (n : Nat) :
    pendStat s g (statLanes s g k f) m n = (pend s (.g g) (some (planar ((List.range 128).map (fun i =>
      if k && !maskBit s i then laneOf s.core.g[g] i else f i (laneOf s.core.g[g] i))))) m (some n)).1 := by
  rw [pendStat, statLanes_eq_map_range]

theorem completes_of_statResult {i : Instr} {s : State} {g : GReg} {n : Nat} {k : Mark} {f : Nat → Triple} (h : VFlows i s)
    (hr : statResult s i = some (g, n, k, f)) :
    Completes i s (pend s (.g g) (some (planar ((List.range 128).map f))) k (some n)).1 := by
  unfold statResult at hr
  split at hr <;> simp only [Option.some.injEq, Prod.mk.injEq, reduceCtorEq] at hr
  all_goals
    obtain ⟨rfl, rfl, rfl, rfl⟩ := hr
    exact vsyl_completes h (congrArg Eff.done (pendStat_statLanes _ _))

theorem gfold_completes {s : State} {g h : GReg} {l : BitVec 3} (hf : VFlows (.gfold g h l) s) :
    Completes (.gfold g h l) s
      (pend s (.g g) (some (planar ((List.range l.toNat).foldl (fun a k => foldLevel a (k + 1)) (lanesOf s h)))) .clean
        (some (4 + 8 * l.toNat))).1 :=
  vsyl_completes hf rfl

/-- Settles O37: the updates by their table, the fold as its syllable computes it, and the neutral triples. -/
theorem statisticsUpdates : Obligations.StatisticsUpdates := by
  unfold Obligations.StatisticsUpdates
  intro s
  exact ⟨fun i g n k f hr h => completes_of_statResult h hr, fun g h l hf => gfold_completes hf,
    fun a k j hj => foldLevel_getElem? hj, fun t ht => ⟨merge_empty_right ht, merge_empty_left ht⟩, update_weight_zero⟩

end Sys2Proof.Machine
end

section
/-!
SUPPORT. The frame in which every syllable but LX runs (R61, R94, R127, R174, R404): which of the two frames its meaning
takes.
-/
namespace Sys2Proof.Machine
open Sys2Proof

/-- The meaning of `i` runs in the frame of the vector slot, or in the plain one and then names no vector register (R174). -/
def RunsInFrame (i : Instr) (s : State) : Prop :=
  (∃ body, exec i s = syl i s body ∧ (uses i).vr ++ (uses i).vs ++ (uses i).vw ++ (wordRegs s i).1 = []) ∨
  ∃ body, exec i s = vsyl i s body

set_option Elab.async false -- proofs one at a time: the check of the whole text is near its memory limit

theorem runsInFrame {i : Instr} (hsyl : isSyllable i = true) (hlx : ∀ u, i ≠ .lx u) (s : State) : RunsInFrame i s := by
  cases i
  all_goals try exact absurd hsyl Bool.false_ne_true
  case lx u => exact absurd rfl (hlx u)
  case vadd | vsub | vmul | vfma | vfms | vmin | vmax | vabs | vneg | vand | vor | vxor | vshl | vshr | vsel | vcvt | vcmpEq
      | vcmpNe | vcmpLt | vcmpLe | vcmpGt | vcmpGe | vwadd | vwmul | vwfma | vrcp | vrsqrt | vexp2 | vlog2 | vredsum |
      vredmax | vscan | vbcast | vmovx | vins | vperm | vrot | mand | mor | mnot | mpop | vshuf | vqcvt | vdqcvt | vsetcfg |
      vgatherq | vscatq | vfence | vmskld | vldl | vldq | vldo | vldg | vldf | vldh | vstl | vstq | vsto | vstg | vstf | vsth
      | vldqRow | vstqRow | vldqCol | vstqCol | vldlChk | vldqChk | vldoChk | vldgChk | vldfChk | vldhChk | gclr | gadd |
      gwadd | gmerge | gfold | gdrain | gld | gst | gset =>
    exact .inr ⟨_, rfl⟩
  all_goals exact .inl ⟨_, rfl, rfl⟩

end Sys2Proof.Machine
end

section
/-!
SUPPORT. The encoder and the decoder (R45 to R62): the round trip of each constructor, gathered.
-/
namespace Sys2Proof.Laws
open Sys2Proof
set_option Elab.async false -- proofs one at a time: the check of the whole text is near its memory limit

/-- Every syllable has its round trip; the part's own steps have no word (R27). -/
theorem roundTrip {i : Instr} (hsyl : isSyllable i = true) : RoundTrip.Statement i := by
  cases i with
  | nop => exact RoundTrip.nop
  | add g d a b => exact RoundTrip.add g d a b
  | sub g d a b => exact RoundTrip.sub g d a b
  | and g d a b => exact RoundTrip.and g d a b
  | or g d a b => exact RoundTrip.or g d a b
  | xor g d a b => exact RoundTrip.xor g d a b
  | andn g d a b => exact RoundTrip.andn g d a b
  | sll g d a b => exact RoundTrip.sll g d a b
  | srl g d a b => exact RoundTrip.srl g d a b
  | sra g d a b => exact RoundTrip.sra g d a b
  | rol g d a b => exact RoundTrip.rol g d a b
  | mul g d a b => exact RoundTrip.mul g d a b
  | mulh g d a b => exact RoundTrip.mulh g d a b
  | mulhw g d a b => exact RoundTrip.mulhw g d a b
  | div g d a b => exact RoundTrip.div g d a b
  | divw g d a b => exact RoundTrip.divw g d a b
  | rem g d a b => exact RoundTrip.rem g d a b
  | remw g d a b => exact RoundTrip.remw g d a b
  | min g d a b => exact RoundTrip.min g d a b
  | max g d a b => exact RoundTrip.max g d a b
  | minw g d a b => exact RoundTrip.minw g d a b
  | maxw g d a b => exact RoundTrip.maxw g d a b
  | clz g d a => exact RoundTrip.clz g d a
  | ctz g d a => exact RoundTrip.ctz g d a
  | popc g d a => exact RoundTrip.popc g d a
  | bfx g d a b => exact RoundTrip.bfx g d a b
  | bfi g d a b => exact RoundTrip.bfi g d a b
  | sel g d a b => exact RoundTrip.sel g d a b
  | pcmpEq g p a b => exact RoundTrip.pcmpEq g p a b
  | pcmpNe g p a b => exact RoundTrip.pcmpNe g p a b
  | pcmpLt g p a b => exact RoundTrip.pcmpLt g p a b
  | pcmpGe g p a b => exact RoundTrip.pcmpGe g p a b
  | pcmpLtw g p a b => exact RoundTrip.pcmpLtw g p a b
  | pcmpGew g p a b => exact RoundTrip.pcmpGew g p a b
  | pand g d a b => exact RoundTrip.pand g d a b
  | por g d a b => exact RoundTrip.por g d a b
  | pxor g d a b => exact RoundTrip.pxor g d a b
  | pnot g d a => exact RoundTrip.pnot g d a
  | qcount g d a => exact RoundTrip.qcount g d a
  | addi d a i => exact RoundTrip.addi d a i
  | andi d a i => exact RoundTrip.andi d a i
  | ori d a i => exact RoundTrip.ori d a i
  | xori d a i => exact RoundTrip.xori d a i
  | slli d a h => exact RoundTrip.slli d a h
  | srli d a h => exact RoundTrip.srli d a h
  | srai d a h => exact RoundTrip.srai d a h
  | movi d i => exact RoundTrip.movi d i
  | pcmpiEq p a i => exact RoundTrip.pcmpiEq p a i
  | pcmpiNe p a i => exact RoundTrip.pcmpiNe p a i
  | pcmpiLt p a i => exact RoundTrip.pcmpiLt p a i
  | pcmpiGe p a i => exact RoundTrip.pcmpiGe p a i
  | pcmpiLtw p a i => exact RoundTrip.pcmpiLtw p a i
  | pcmpiGew p a i => exact RoundTrip.pcmpiGew p a i
  | lx u => exact RoundTrip.lx u
  | j g o => exact RoundTrip.j g o
  | call g o => exact RoundTrip.call g o
  | jr g a => exact RoundTrip.jr g a
  | ret g => exact RoundTrip.ret g
  | loop g c o => exact RoundTrip.loop g c o
  | ldl z d b o => exact RoundTrip.ldl z d b o
  | ldq z d b o => exact RoundTrip.ldq z d b o
  | ldo z d b o => exact RoundTrip.ldo z d b o
  | ldg z d b o => exact RoundTrip.ldg z d b o
  | ldf z d b o => exact RoundTrip.ldf z d b o
  | ldh z d b o => exact RoundTrip.ldh z d b o
  | stl z d b o => exact RoundTrip.stl z d b o
  | stq z d b o => exact RoundTrip.stq z d b o
  | sto z d b o => exact RoundTrip.sto z d b o
  | stg z d b o => exact RoundTrip.stg z d b o
  | stf z d b o => exact RoundTrip.stf z d b o
  | sth z d b o => exact RoundTrip.sth z d b o
  | amol z d b u o => exact RoundTrip.amol z d b u o
  | amoq z d b u o => exact RoundTrip.amoq z d b u o
  | amoo z d b u o => exact RoundTrip.amoo z d b u o
  | amog z d b u o => exact RoundTrip.amog z d b u o
  | pfg l b o => exact RoundTrip.pfg l b o
  | cwb l b o => exact RoundTrip.cwb l b o
  | cinv l b o => exact RoundTrip.cinv l b o
  | hfence => exact RoundTrip.hfence
  | efence => exact RoundTrip.efence
  | vadd t d a b k => exact RoundTrip.vadd t d a b k
  | vsub t d a b k => exact RoundTrip.vsub t d a b k
  | vmul t d a b k => exact RoundTrip.vmul t d a b k
  | vfma t d a b k => exact RoundTrip.vfma t d a b k
  | vfms t d a b k => exact RoundTrip.vfms t d a b k
  | vmin t d a b k => exact RoundTrip.vmin t d a b k
  | vmax t d a b k => exact RoundTrip.vmax t d a b k
  | vabs t d a k => exact RoundTrip.vabs t d a k
  | vneg t d a k => exact RoundTrip.vneg t d a k
  | vand t d a b k => exact RoundTrip.vand t d a b k
  | vor t d a b k => exact RoundTrip.vor t d a b k
  | vxor t d a b k => exact RoundTrip.vxor t d a b k
  | vshl t d a b k => exact RoundTrip.vshl t d a b k
  | vshr t d a b k => exact RoundTrip.vshr t d a b k
  | vsel t d a b => exact RoundTrip.vsel t d a b
  | vcvt t d a e k => exact RoundTrip.vcvt t d a e k
  | vcmpEq t d a b k => exact RoundTrip.vcmpEq t d a b k
  | vcmpNe t d a b k => exact RoundTrip.vcmpNe t d a b k
  | vcmpLt t d a b k => exact RoundTrip.vcmpLt t d a b k
  | vcmpLe t d a b k => exact RoundTrip.vcmpLe t d a b k
  | vcmpGt t d a b k => exact RoundTrip.vcmpGt t d a b k
  | vcmpGe t d a b k => exact RoundTrip.vcmpGe t d a b k
  | vwadd t d a b k => exact RoundTrip.vwadd t d a b k
  | vwmul t d a b k => exact RoundTrip.vwmul t d a b k
  | vwfma t d a b k => exact RoundTrip.vwfma t d a b k
  | vrcp t d a k => exact RoundTrip.vrcp t d a k
  | vrsqrt t d a k => exact RoundTrip.vrsqrt t d a k
  | vexp2 t d a k => exact RoundTrip.vexp2 t d a k
  | vlog2 t d a k => exact RoundTrip.vlog2 t d a k
  | vredsum t d a k => exact RoundTrip.vredsum t d a k
  | vredmax t d a k => exact RoundTrip.vredmax t d a k
  | vscan t d a k => exact RoundTrip.vscan t d a k
  | vbcast t d a k => exact RoundTrip.vbcast t d a k
  | vmovx t d a b => exact RoundTrip.vmovx t d a b
  | vins t d a b => exact RoundTrip.vins t d a b
  | vperm t d a b k => exact RoundTrip.vperm t d a b k
  | vrot t d a b k => exact RoundTrip.vrot t d a b k
  | mand d a b => exact RoundTrip.mand d a b
  | mor d a b => exact RoundTrip.mor d a b
  | mnot d a => exact RoundTrip.mnot d a
  | mpop t d a => exact RoundTrip.mpop t d a
  | vshuf s d => exact RoundTrip.vshuf s d
  | vqcvt s t d => exact RoundTrip.vqcvt s t d
  | vdqcvt s d => exact RoundTrip.vdqcvt s d
  | vsetcfg s t => exact RoundTrip.vsetcfg s t
  | vgatherq s t d => exact RoundTrip.vgatherq s t d
  | vscatq s t d => exact RoundTrip.vscatq s t d
  | vfence => exact RoundTrip.vfence
  | vmskld s t d => exact RoundTrip.vmskld s t d
  | vldl v b o => exact RoundTrip.vldl v b o
  | vldq v b o => exact RoundTrip.vldq v b o
  | vldo v b o => exact RoundTrip.vldo v b o
  | vldg v b o => exact RoundTrip.vldg v b o
  | vldf v b o => exact RoundTrip.vldf v b o
  | vldh v b o => exact RoundTrip.vldh v b o
  | vstl v b o => exact RoundTrip.vstl v b o
  | vstq v b o => exact RoundTrip.vstq v b o
  | vsto v b o => exact RoundTrip.vsto v b o
  | vstg v b o => exact RoundTrip.vstg v b o
  | vstf v b o => exact RoundTrip.vstf v b o
  | vsth v b o => exact RoundTrip.vsth v b o
  | vldqRow v b o => exact RoundTrip.vldqRow v b o
  | vstqRow v b o => exact RoundTrip.vstqRow v b o
  | vldqCol v b o => exact RoundTrip.vldqCol v b o
  | vstqCol v b o => exact RoundTrip.vstqCol v b o
  | vldlChk v b f c => exact RoundTrip.vldlChk v b f c
  | vldqChk v b f c => exact RoundTrip.vldqChk v b f c
  | vldoChk v b f c => exact RoundTrip.vldoChk v b f c
  | vldgChk v b f c => exact RoundTrip.vldgChk v b f c
  | vldfChk v b f c => exact RoundTrip.vldfChk v b f c
  | vldhChk v b f c => exact RoundTrip.vldhChk v b f c
  | gclr g k => exact RoundTrip.gclr g k
  | gadd g v e k => exact RoundTrip.gadd g v e k
  | gwadd g v w e k => exact RoundTrip.gwadd g v w e k
  | gmerge g h k => exact RoundTrip.gmerge g h k
  | gfold g h l => exact RoundTrip.gfold g h l
  | gdrain g v w c m => exact RoundTrip.gdrain g v w c m
  | gld g b p => exact RoundTrip.gld g b p
  | gst g b p => exact RoundTrip.gst g b p
  | gset g v k => exact RoundTrip.gset g v k
  | mma t a b f w z => exact RoundTrip.mma t a b f w z
  | mmat t a b f w z => exact RoundTrip.mmat t a b f w z
  | mmag t a b f w z => exact RoundTrip.mmag t a b f w z
  | mzero t => exact RoundTrip.mzero t
  | mdrain t a b f q j h => exact RoundTrip.mdrain t a b f q j h
  | mldc t a f => exact RoundTrip.mldc t a f
  | mbwr a b f c => exact RoundTrip.mbwr a b f c
  | mwait t r l => exact RoundTrip.mwait t r l
  | mstat d e => exact RoundTrip.mstat d e
  | mpert t a b q => exact RoundTrip.mpert t a b q
  | erw a b n => exact RoundTrip.erw a b n
  | err d a n => exact RoundTrip.err d a n
  | eswap a => exact RoundTrip.eswap a
  | binit a b f p => exact RoundTrip.binit a b f p
  | barv d a b p => exact RoundTrip.barv d a b p
  | bwait a b p => exact RoundTrip.bwait a b p
  | btest d a b p => exact RoundTrip.btest d a b p
  | badd a b p => exact RoundTrip.badd a b p
  | wadv d a b => exact RoundTrip.wadv d a b
  | wpos d a => exact RoundTrip.wpos d a
  | owne a b v p => exact RoundTrip.owne a b v p
  | ownc a b v p => exact RoundTrip.ownc a b v p
  | rcnt d a b => exact RoundTrip.rcnt d a b
  | rowcpy c a b => exact RoundTrip.rowcpy c a b
  | rowfil c a b => exact RoundTrip.rowfil c a b
  | rowand c a b e => exact RoundTrip.rowand c a b e
  | rowor c a b e => exact RoundTrip.rowor c a b e
  | rowxor c a b e => exact RoundTrip.rowxor c a b e
  | rownot c a b => exact RoundTrip.rownot c a b
  | rowq d a b => exact RoundTrip.rowq d a b
  | foalloc d a => exact RoundTrip.foalloc d a
  | foshare d a b => exact RoundTrip.foshare d a b
  | fofree d a => exact RoundTrip.fofree d a
  | folook d a => exact RoundTrip.folook d a
  | fopin d a b q => exact RoundTrip.fopin d a b q
  | founpin d a => exact RoundTrip.founpin d a
  | fopool d a => exact RoundTrip.fopool d a
  | fsend d a b n => exact RoundTrip.fsend d a b n
  | fwr d a b n => exact RoundTrip.fwr d a b n
  | fwrs d a b n => exact RoundTrip.fwrs d a b n
  | fwrsSc d a b n => exact RoundTrip.fwrsSc d a b n
  | frd d a b n => exact RoundTrip.frd d a b n
  | fsig d b n => exact RoundTrip.fsig d b n
  | famo d a b w u => exact RoundTrip.famo d a b w u
  | fmcast d a b g n => exact RoundTrip.fmcast d a b g n
  | fwait d l n => exact RoundTrip.fwait d l n
  | fslot d => exact RoundTrip.fslot d
  | fslotWait a => exact RoundTrip.fslotWait a
  | fcnt d a m => exact RoundTrip.fcnt d a m
  | fseat d => exact RoundTrip.fseat d
  | rgload a n => exact RoundTrip.rgload a n
  | rgplay d a b n => exact RoundTrip.rgplay d a b n
  | rgwait d n => exact RoundTrip.rgwait d n
  | rgstat d a n => exact RoundTrip.rgstat d a n
  | rgfree n => exact RoundTrip.rgfree n
  | reshelve a n => exact RoundTrip.reshelve a n
  | bar c b => exact RoundTrip.bar c b
  | tkt d c => exact RoundTrip.tkt d c
  | tktn d a c => exact RoundTrip.tktn d a c
  | launch d a => exact RoundTrip.launch d a
  | lwait d a => exact RoundTrip.lwait d a
  | eta a => exact RoundTrip.eta a
  | endt => exact RoundTrip.endt
  | ssend a => exact RoundTrip.ssend a
  | prio a q => exact RoundTrip.prio a q
  | nodeid d e => exact RoundTrip.nodeid d e
  | tileid d e => exact RoundTrip.tileid d e
  | trap n => exact RoundTrip.trap n
  | rft => exact RoundTrip.rft
  | rftAbort => exact RoundTrip.rftAbort
  | rftReplay => exact RoundTrip.rftReplay
  | csrr d i => exact RoundTrip.csrr d i
  | csrw a i => exact RoundTrip.csrw a i
  | env e => exact RoundTrip.env e
  | envc => exact RoundTrip.envc
  | xlinv d a k => exact RoundTrip.xlinv d a k
  | xlwait => exact RoundTrip.xlwait
  | qmap d a n => exact RoundTrip.qmap d a n
  | halt => exact RoundTrip.halt
  | brk n => exact RoundTrip.brk n
  | tinj a e k => exact RoundTrip.tinj a e k
  | sleep a l => exact RoundTrip.sleep a l
  | _ => exact nomatch (show false = true from hsyl)

theorem encode_of_isSyllable {i : Instr} (h : isSyllable i = true) (stop : Bool) : ∃ w, encode stop i = some w := by
  obtain ⟨n, hn⟩ := Option.isSome_iff_exists.mp h
  exact ⟨_, by rw [encode, hn, Option.map_some]⟩

/-- Settles O25: the encoder gives every syllable a word, and each constructor has its round trip. -/
theorem decodeUndoesEncode : Obligations.DecodeUndoesEncode := by
  unfold Obligations.DecodeUndoesEncode
  intro i stop hi hw
  obtain ⟨w, he⟩ := encode_of_isSyllable hi stop
  exact ⟨w, he, roundTrip hi stop w hw he⟩

end Sys2Proof.Laws
end

section
/-!
SUPPORT. The hardwired registers (R38, R94): what a scalar or predicate register reads after a write.
-/
namespace Sys2Proof.Machine
open Sys2Proof
set_option Elab.async false -- proofs one at a time: the check of the whole text is near its memory limit

/-! ### Scalar registers -/

theorem getX_zero (c : Core) : getX c 0 = 0 := if_pos rfl

theorem setX_zero (c : Core) (v : Word) (k : Mark) : setX c 0 v k = c := if_pos rfl

theorem getX_setX_same {c : Core} {r : XReg} (h : r ≠ 0) (v : Word) (k : Mark) : getX (setX c r v k) r = v := by
  have hr : r.val ≠ 0 := fun e => h (Fin.ext e)
  simp [getX, setX, hr]

/-! ### Predicate registers -/

theorem getP_zero (c : Core) : getP c 0 = true := if_pos rfl

theorem setP_zero (c : Core) (b : Bool) : setP c 0 b = c := if_pos rfl

theorem getP_setP_same {c : Core} {r : PReg} (h : r ≠ 0) (b : Bool) : getP (setP c r b) r = b := by
  have hr : r.val ≠ 0 := fun e => h (Fin.ext e)
  simp only [getP, setP, hr, if_false]
  cases b <;> simp

/-- Settles O10, from what the accessors read after a write. -/
theorem hardwiredRegisters : Obligations.HardwiredRegisters := by
  unfold Obligations.HardwiredRegisters
  intro s v k
  refine ⟨getX_zero _, getP_zero _, ?_, ?_, ?_, ?_, fun r hr => getX_setX_same hr _ _, fun r hr => getP_setP_same hr _⟩
  · simp only [holds, getP_zero, Bool.bne_false]
  · simp only [holds, getP_zero, bne_self_eq_false]
  · rw [writeDest, setX_zero]
  · rw [writeDest, setP_zero]

end Sys2Proof.Machine
end

section
/-!
SUPPORT. One step of the machine (R26 to R31, R63, R91, R92): what the front end answers in a bundle, at a bundle
boundary and on a clock that is owed, and what a fetch gives.
-/
namespace Sys2Proof.Machine
open Sys2Proof
set_option Elab.async false -- proofs one at a time: the check of the whole text is near its memory limit

/-! ### In a bundle -/

/-- Nothing cuts the wait of the bundle in flight, if it waits (R166). -/
abbrev NotCut (s : State) : Prop :=
  s.core.waiting.isSome → s.core.haltAsked = false ∧ (s.core.preempt = none ∨ s.core.sw.ie = false ∨ inBar s = true)

theorem goOn_runs {s : State} {i : Instr} (hd : (s.core.bundle[s.core.idx]?).bind decode = some i) (hc : NotCut s) :
    goOn s = .run s i := by
  have hhalt : (s.core.waiting.isSome && s.core.haltAsked) = false := by
    cases hw : s.core.waiting.isSome
    · rfl
    · simp [(hc hw).1]
  have hpre : (s.core.waiting.isSome && s.core.preempt.isSome && s.core.sw.ie && !inBar s) = false := by
    cases hw : s.core.waiting.isSome
    · rfl
    · rcases (hc hw).2 with h | h | h <;> simp [h]
  simp only [goOn, hhalt, hpre, hd, Bool.false_eq_true, if_false]

theorem front_midBundle {s : State} (h : MidBundle s) : front s = goOn s := by
  obtain ⟨hin, hbr, hheld, hrun, hb⟩ := h
  have hb' : s.core.bundle.isEmpty = false := by simpa using hb
  simp [front, hin, hbr, hheld, hrun, hb']

/-- Settles O4: in a bundle the front end goes on with the word at the index. -/
theorem stepRunsTheSyllable : Obligations.StepRunsTheSyllable := by
  unfold Obligations.StepRunsTheSyllable
  intro s i hm hd hc
  simp only [step, front_midBundle hm, goOn_runs hd hc]

/-! ### Inputs and owed clocks -/

theorem isReset_eq_false {i : Instr} (h : i ≠ .reset) : isReset i = false := by
  unfold isReset; split
  · exact absurd rfl h
  · rfl

theorem front_takes_input {s : State} {i : Instr} {r : List Instr} (hin : s.inputs = i :: r) (ho : open_ s = true)
    (hs : isSyllable i = false) (h : bringState s ≠ 4 ∨ i = .reset) : front s = .run { s with inputs := r } i := by
  have hgo : (bringState s == 4 && !isReset i) = false := by
    rcases h with h | rfl
    · simp [h]
    · simp [isReset]
  simp [front, hin, hgo, ho, hs]

theorem front_drops_input {s : State} {i : Instr} {r : List Instr} (hin : s.inputs = i :: r) (hb : bringState s = 4)
    (hi : i ≠ .reset) : front s = .pass { s with inputs := r } := by
  simp [front, hin, hb, isReset_eq_false hi]

/-- Settles O6, in the order in which the front end looks at what is due. -/
theorem stepTakesInputsAndClocks : Obligations.StepTakesInputsAndClocks := by
  unfold Obligations.StepTakesInputsAndClocks
  intro s
  refine ⟨fun i r hin ho hs h => ?_, fun i r hin hb hi => ?_, fun hin hb => ⟨fun hh => ?_, fun hh hr => ?_, fun hh hr he hp => ?_,
    fun hh hr he hp ho => ?_⟩⟩
  · simp only [step, front_takes_input hin ho hs h]
  · simp only [step, front_drops_input hin hb hi]
  · simp [step, front, hin, hb, hh]
  · simp [step, front, hin, hb, hh, hr]
  · simp [step, front, hin, hb, hh, hr, he, hp]
  · simp [step, front, hin, hb, hh, hr, he, hp, ho]

/-! ### At a bundle boundary -/

theorem front_atFetch {s : State} (h : AtFetch s) : front s = nextBundle s := by
  obtain ⟨hin, hbr, hheld, hrun, hb, hhold, howed, hstep, hhalt, hpre⟩ := h
  have hp : (s.core.preempt.isSome && s.core.sw.ie) = false := by rcases hpre with h | h <;> simp [h]
  simp [front, boundary, hin, hbr, hheld, hrun, hb, hhold, howed, hstep, hhalt, hp]

theorem drains_eq_false {s : State} {d : Decoded}
    (h : s.core.resume = none → d.any (fun e => needsDrain e.2.2) = true → drainSpan s.core = 0) : drains s d = false := by
  unfold drains
  cases hr : s.core.resume with
  | some k => rfl
  | none =>
    cases hd : d.any (fun e => needsDrain e.2.2)
    · simp
    · simp [h hr hd]

/-- A fetched bundle that passes its checks, owes no drain and is not held issues, and its first syllable runs. -/
theorem checkFetched_issues {s : State} {ws : List Syllable} {c : Bool} {n : Nat} {w : Syllable} {i : Instr} {r : Decoded}
    (heach : checkEach (if s.core.resume.isSome then s.core.privAt else s.core.sw.priv) 0 ws = none)
    (hbundle : checkBundle (foresee s ((n, w, i) :: r)) (decodeAll ws) c true = none)
    (hrest : restFrom (decodeAll ws) (s.core.resume.getD 0) = (n, w, i) :: r) (hlen : s.core.resume.getD 0 < ws.length)
    (hdrain : drains s ((n, w, i) :: r) = false) (hblocked : blocked s ((n, w, i) :: r) = false) :
    checkFetched s ws c = .run (issueBundle s ws ((n, w, i) :: r) (s.core.resume.getD 0)) i := by
  have hk : ¬ ws.length ≤ s.core.resume.getD 0 := Nat.not_le.mpr hlen
  simp [checkFetched, issueOrWait, heach, hrest, hdrain, hbundle, hk, hblocked]

/-! ### What a fetch gives -/

/-- The words `ws` of a bundle, fetched behind words of which none carries the stop bit. -/
structure FetchedWords (fuel : Nat) (old ws : List Syllable) (closed : Bool) : Prop where
  length : ws.length ≤ old.length + fuel
  inner : ws.dropLast.all (fun w => !stopBit w) = true
  last : closed = true → ∃ l w, ws = l ++ [w] ∧ stopBit w = true
  full : closed = false → ws.length = old.length + fuel ∧ ws.all (fun w => !stopBit w) = true

theorem stops_eq_stopBit (w : Syllable) : stops w = stopBit w := by
  simp [stops, stopBit, bit, BitVec.getLsbD, Nat.testBit_eq_decide_div_mod_eq, Nat.shiftRight_eq_div_pow, beq_eq_decide]

theorem fetchMore_words {fuel : Nat} : ∀ {s t : State} {va : CodeAddr} {old ws : List Syllable} {c : Bool},
    old.all (fun w => !stopBit w) = true → fetchMore fuel s va old = .bundle t ws c → FetchedWords fuel old ws c := by
  induction fuel with
  | zero =>
    intro s t va old ws c ho h
    simp only [fetchMore, Fetched.bundle.injEq] at h
    obtain ⟨-, rfl, rfl⟩ := h
    refine ⟨Nat.le_refl _, ?_, nofun, fun _ => ⟨rfl, ho⟩⟩
    rw [List.all_eq_true] at ho ⊢
    exact fun w hw => ho w (List.mem_of_mem_dropLast hw)
  | succ fuel ih =>
    intro s t va old ws c ho h
    unfold fetchMore at h
    split at h
    case h_1 u w hu =>
      rw [stops_eq_stopBit] at h
      split at h
      case isTrue hs =>
        simp only [Fetched.bundle.injEq] at h
        obtain ⟨-, rfl, rfl⟩ := h
        refine ⟨by simp, by simpa using ho, fun _ => ⟨old, w, rfl, hs⟩, nofun⟩
      case isFalse hs =>
        have hold : (old ++ [w]).all (fun w => !stopBit w) = true := by
          simp only [List.all_append, ho, List.all_cons, List.all_nil, Bool.and_true, Bool.true_and]
          simpa using hs
        obtain ⟨h1, h2, h3, h4⟩ := ih hold h
        simp only [List.length_append, List.length_singleton] at h1 h4
        exact ⟨by omega, h2, h3, fun hc => ⟨by have := (h4 hc).1; omega, (h4 hc).2⟩⟩
    all_goals exact absurd h nofun

/-- What issuing a bundle whole leaves of the mode, the bindings and the control registers that it names (R39, R63, R413). -/
theorem issueBundle_whole {s : State} (h : s.core.resume = none) (ws : List Syllable) (d : Decoded) (k : Nat) :
    (issueBundle s ws d k).core.csrAt = csrsNamed s d ∧ (issueBundle s ws d k).core.privAt = s.core.sw.priv ∧
      (issueBundle s ws d k).core.qmapAt = s.core.qmap := by
  simp [issueBundle, issue, h]

/-- Settles O5: the boundary fetches, checks and issues; the words of a bundle by induction on the fetch. -/
theorem stepIssuesTheBundle : Obligations.StepIssuesTheBundle := by
  unfold Obligations.StepIssuesTheBundle
  refine ⟨fun s t ws c n w i r hs hf he hb hr hl hd hk => ?_, fun s ws d k h => issueBundle_whole h ws d k, fun s t ws c hf => ?_⟩
  · have hrun := checkFetched_issues he hb hr hl (drains_eq_false hd) hk
    simp only [step, front_atFetch hs, nextBundle, hf, hrun]
  · obtain ⟨h1, h2, h3, h4⟩ := fetchMore_words (old := []) rfl hf
    exact ⟨by simpa using h1, h2, h3, fun hc => by simpa using h4 hc⟩

end Sys2Proof.Machine
end

section
/-!
SUPPORT. Results that land and syllables that commit (R31, R34, R38, R92, R386, R404): what a register holds after several
results have landed, and the fields of a core after a commit.
-/
namespace Sys2Proof.Machine
open Sys2Proof
set_option Elab.async false -- proofs one at a time: the check of the whole text is near its memory limit

/-! ### A destination after a landing -/

/-- The destination `d` holds the value `v` and the mark `k` (R34, R38). -/
def DestHolds (s : State) (d : Dest) (v : Nat) (k : Mark) : Prop :=
  match d with
  | .x r => r ≠ 0 → s.core.x[r] = BitVec.ofNat 64 v ∧ s.core.xmark[r] = k
  | .p r => r ≠ 0 → getP s.core r = (v % 2 == 1)
  | .v r => s.core.v[r] = BitVec.ofNat 4096 v ∧ s.core.vmark[r] = k
  | .m r => s.core.m[r] = BitVec.ofNat 1024 v
  | .g r => s.core.g[r] = ⟨BitVec.ofNat 4096 v, BitVec.ofNat 4096 (v >>> 4096), BitVec.ofNat 4096 (v >>> 8192)⟩
  | .queue _ _ => True

theorem destHolds_writeDest_same (s : State) (d : Dest) (v : Nat) (k : Mark) : DestHolds (writeDest s d v k) d v k := by
  cases d with
  | x r =>
    intro hr
    have hv : r.val ≠ 0 := fun e => hr (Fin.ext e)
    simp [writeDest, setX, hv]
  | p r => exact fun hr => getP_setP_same hr _
  | v r => simp [DestHolds, writeDest]
  | m r => simp [DestHolds, writeDest]
  | g r => simp [DestHolds, writeDest]
  | queue q e => trivial

/-- What a write leaves of the marks (R127). -/
theorem xmark_setX_ne {c : Core} {r q : XReg} (h : q ≠ r) (v : Word) (k : Mark) : (setX c q v k).xmark[r] = c.xmark[r] := by
  have hv : q.val ≠ r.val := fun e => h (Fin.ext e)
  unfold setX; split
  · rfl
  · simp [hv]

theorem xmark_writeDest_ne {s : State} {r : XReg} {e : Dest} (h : Dest.x r ≠ e) (w : Nat) (m : Mark) :
    (writeDest s e w m).core.xmark[r] = s.core.xmark[r] := by
  cases e with
  | x q => exact xmark_setX_ne (fun e => h (congrArg Dest.x e.symm)) _ _
  | p q => simp only [writeDest, setP]; split <;> rfl
  | v | m | g | queue => rfl

theorem vmark_writeDest_ne {s : State} {r : VReg} {e : Dest} (h : Dest.v r ≠ e) (w : Nat) (m : Mark) :
    (writeDest s e w m).core.vmark[r] = s.core.vmark[r] := by
  cases e with
  | x q => simp only [writeDest, setX]; split <;> rfl
  | p q => simp only [writeDest, setP]; split <;> rfl
  | v q =>
    have hv : q.val ≠ r.val := fun e => h (congrArg Dest.v (Fin.ext e.symm))
    simp [writeDest, hv]
  | m | g | queue => rfl

/-- A write leaves every other destination as it is. -/
theorem DestHolds.writeDest_ne {s : State} {d e : Dest} {v : Nat} {k : Mark} (h : DestHolds s d v k) (hne : d ≠ e) (w : Nat)
    (m : Mark) : DestHolds (writeDest s e w m) d v k := by
  have hl := writeDest_landed s e w m
  have hd : d ∉ [e] := by simpa using hne
  cases d with
  | x r => exact fun hr => ⟨(hl.x r hd).trans (h hr).1, (xmark_writeDest_ne hne w m).trans (h hr).2⟩
  | p r => exact fun hr => (hl.p r hd).trans (h hr)
  | v r => exact ⟨(hl.v r hd).trans h.1, (vmark_writeDest_ne hne w m).trans h.2⟩
  | m r => exact (hl.m r hd).trans h
  | g r => exact (hl.g r hd).trans h
  | queue q e => trivial

/-- The saturations that a result adds change `VQSTAT` alone (R172). -/
theorem addVqstat_eq (s : State) (a b : Nat) :
    ∃ w : Word, addVqstat s a b = { s with core := { s.core with vu := { s.core.vu with vqstat := w } } } := by
  unfold addVqstat; split
  · exact ⟨s.core.vu.vqstat, rfl⟩
  · exact ⟨_, rfl⟩

theorem DestHolds.addVqstat {s : State} {d : Dest} {v : Nat} {k : Mark} (h : DestHolds s d v k) (a b : Nat) :
    DestHolds (addVqstat s a b) d v k := by
  obtain ⟨w, hw⟩ := addVqstat_eq s a b
  rw [hw]
  cases d <;> exact h

theorem DestHolds.land_ne {s : State} {d : Dest} {v : Nat} {k : Mark} (h : DestHolds s d v k) {l : Landing} (hne : d ≠ l.dst) :
    DestHolds (land s l) d v k := (h.writeDest_ne hne _ _).addVqstat _ _

theorem DestHolds.foldl_land {d : Dest} {v : Nat} {k : Mark} {ls : List Landing} : ∀ {s : State}, DestHolds s d v k →
    (∀ l ∈ ls, l.dst ≠ d) → DestHolds (ls.foldl land s) d v k := by
  induction ls with
  | nil => exact fun h _ => h
  | cons l ls ih =>
    intro s h hne
    rw [List.forall_mem_cons] at hne
    exact ih (h.land_ne hne.1.symm) hne.2

/-- Of the results that are due, the one issued last prevails (R34). -/
theorem destHolds_landThrough {s : State} {n : Nat} {a b : List Landing} {l : Landing} (he : s.core.exposed = a ++ l :: b)
    (hl : l.due ≤ n) (hb : ∀ k ∈ b, k.due ≤ n → k.dst ≠ l.dst) : DestHolds (landThrough s n) l.dst l.val l.mark := by
  unfold landThrough
  simp only [he, List.filter_append, List.filter_cons, hl, decide_true, if_true, List.foldl_append, List.foldl_cons]
  refine DestHolds.foldl_land (DestHolds.addVqstat (destHolds_writeDest_same _ _ _ _) _ _) fun k hk => ?_
  obtain ⟨hk1, hk2⟩ := List.mem_filter.mp hk
  exact hb k hk1 (of_decide_eq_true hk2)

/-! ### The hardwired registers stand -/

/-- The cells of `x0` and `p0` are as they were (R38). -/
def ZeroesKept (s t : State) : Prop := t.core.x[0] = s.core.x[0] ∧ t.core.p.getLsbD 0 = s.core.p.getLsbD 0

theorem zeroesKept_writeDest (s : State) (d : Dest) (v : Nat) (k : Mark) : ZeroesKept s (writeDest s d v k) := by
  cases d with
  | x r =>
    unfold writeDest setX; dsimp only; split
    · exact ⟨rfl, rfl⟩
    · next h => exact ⟨by simp [h], rfl⟩
  | p r =>
    unfold writeDest setP; dsimp only; split
    · exact ⟨rfl, rfl⟩
    · next h =>
      have hr : 0 < r.val := Nat.pos_of_ne_zero h
      refine ⟨rfl, ?_⟩
      cases (v % 2 == 1) <;> simp [hr]
  | v | m | g | queue => exact ⟨rfl, rfl⟩

theorem zeroesKept_land (s : State) (l : Landing) : ZeroesKept s (land s l) := by
  have h := zeroesKept_writeDest s l.dst l.val l.mark
  obtain ⟨w, hw⟩ := addVqstat_eq (writeDest s l.dst l.val l.mark) l.sat 0
  rw [land, hw]
  exact h

theorem zeroesKept_foldl_land (ls : List Landing) : ∀ s : State, ZeroesKept s (ls.foldl land s) := by
  induction ls with
  | nil => exact fun s => ⟨rfl, rfl⟩
  | cons l ls ih =>
    intro s
    have h := zeroesKept_land s l
    have k := ih (land s l)
    exact ⟨k.1.trans h.1, k.2.trans h.2⟩

theorem zeroesKept_landThrough (s : State) (n : Nat) : ZeroesKept s (landThrough s n) :=
  zeroesKept_foldl_land (s.core.exposed.filter (fun l => decide (l.due ≤ n)))
    { s with core := { s.core with exposed := s.core.exposed.filter (fun l => !decide (l.due ≤ n)) } }

theorem landThrough_outside (s : State) (n : Nat) : outsideKept s (landThrough s n) := by
  unfold outsideKept; rw [(landThrough_landed s n).rest]

/-! ### Fields of a core after a commit -/

/-- The core on the clock of a wait that ends, before results land (R91). -/
def waitClock (c : Core) : Core := { c with sched := c.sched + 1, owed := c.owed - 1, waited := false }

theorem endWait_eq (s : State) : endWait s = landThrough { s with core := waitClock s.core } (s.core.sched + 1) := rfl

theorem endWait_fields (s : State) : (endWait s).core.envCrc = s.core.envCrc ∧ (endWait s).core.task = s.core.task ∧
    (endWait s).core.nextTask = s.core.nextTask ∧ (endWait s).core.envCount = s.core.envCount := by
  rw [endWait_eq, (landThrough_landed _ _).rest]
  exact ⟨rfl, rfl, rfl, rfl⟩

/-- The envelope's count and CRC, and the task, are those that the commit leaves before the clock of a wait. -/
theorem commit_fields (s : State) (b : Bool) : (commit s b).core.envCrc = (commitCore s.core b s.clock).envCrc ∧
    (commit s b).core.task = (commitCore s.core b s.clock).task ∧ (commit s b).core.nextTask = (commitCore s.core b s.clock).nextTask ∧
    (commit s b).core.envCount = (commitCore s.core b s.clock).envCount := by
  rw [commit_def]; split
  · exact endWait_fields { s with core := commitCore s.core b s.clock }
  · exact ⟨rfl, rfl, rfl, rfl⟩

theorem commit_envCrc (s : State) (b : Bool) : (commit s b).core.envCrc =
    if b then ((commitWords s.core).foldl envAdd s.core).envCrc else s.core.envCrc := by
  rw [(commit_fields s b).1]
  unfold commitCore
  by_cases hl : s.core.bundle.length ≤ s.core.idx + 1
  · rw [if_pos (decide_eq_true hl), beginNext_eq]; cases b <;> rfl
  · rw [if_neg (by simpa using hl)]; cases b <;> rfl

/-- A task given to begin in place begins with the next bundle (R386). -/
theorem commit_begins {s : State} {k : Task} (hlast : s.core.bundle.length ≤ s.core.idx + 1) (hk : s.core.nextTask = some k) (b : Bool) :
    (commit s b).core.nextTask = none ∧
      (commit s b).core.task = some { k with boundAt := s.clock, drain := k.drain || (s.core.task.map (·.drain)).getD false } := by
  obtain ⟨-, ht, hn, -⟩ := commit_fields s b
  obtain ⟨e1, e2⟩ := envAdds_task s.core (commitWords s.core)
  rw [ht, hn]
  cases b <;> simp [commitCore, hlast, beginNext, endBundle, hk, e1, e2]

/-- Settles O8, from what landing and a commit leave. -/
theorem commitMovesOn : Obligations.CommitMovesOn := by
  unfold Obligations.CommitMovesOn
  refine ⟨fun s n hdue => ⟨?_, landThrough_kept s n, (zeroesKept_landThrough s n).1, (zeroesKept_landThrough s n).2,
    landThrough_outside s n, fun a b l he hl hb => ?_⟩, fun s b => ⟨fun h => ?_, fun h => ?_, fun hb => ?_, fun hb => ?_, commit_kept s b⟩⟩
  · simp only [holdSchedule_exposed, ← decide_not, Nat.not_le]
  · refine destHolds_landThrough he hl.le fun k hk hn => hb k hk ?_
    exact Nat.le_antisymm hn (hdue k (by simp [he, hk]))
  · obtain ⟨h1, h2, h3, h4, h5, h6, h7, -⟩ := commit_inner (b := b) h
    exact ⟨h1, h2, h3, h4, h5, h6, h7⟩
  · obtain ⟨h1, h2, h3, -, h5, h6⟩ := commit_last (b := b) h
    exact ⟨h1, h2, h3, h5, h6, fun k hk => commit_begins h hk b⟩
  · rw [commit_envCrc, hb, if_pos rfl]
  · rw [commit_envCrc, hb]; rfl

end Sys2Proof.Machine
end

section
/-!
SUPPORT. What the frame in which every syllable but LX runs answers before the meaning is asked (R61, R94, R127, R174, R397,
R404).
-/
namespace Sys2Proof.Machine
open Sys2Proof
set_option Elab.async false -- proofs one at a time: the check of the whole text is near its memory limit

/-! ### What the frame answers before the meaning -/

section
variable {pre : State → Option Eff} {i : Instr} {s : State} {body : State → Eff}

theorem privileged_and_eq_false (h : privileged i = true → s.core.privAt = true) : (privileged i && !s.core.privAt) = false := by
  cases hp : privileged i
  · rfl
  · simp [h hp]

theorem sylPre_envelopeFull (hb : s.core.bundle ≠ []) (hp : privileged i = true → s.core.privAt = true) (he : envelopeFull s i = true) :
    sylPre pre i s body = .next (recover s .envelopeMismatch) := by
  simp only [sylPre, ready_inFlight i hb, privileged_and_eq_false hp, he, Bool.false_eq_true, if_false, if_true]
  rfl

theorem sylPre_stopped {e : Eff} (hb : s.core.bundle ≠ []) (hp : privileged i = true → s.core.privAt = true)
    (he : envelopeFull s i = false) (hg : enabled s.core i = true) (hpre : pre s = some e) :
    sylPre pre i s body = .next (settle s e) := by
  simp only [sylPre, ready_inFlight i hb, privileged_and_eq_false hp, he, hg, hpre, Bool.not_true, Bool.false_eq_true, if_false]

theorem sylPre_marked (hb : s.core.bundle ≠ []) (hp : privileged i = true → s.core.privAt = true) (he : envelopeFull s i = false)
    (hg : enabled s.core i = true) (hpre : pre s = none) (hr : raised s i ≠ .clean) :
    sylPre pre i s body = .next (markTrap s (raised s i)) := by
  have hr' : (raised s i != .clean) = true := by simpa using hr
  simp only [sylPre, ready_inFlight i hb, privileged_and_eq_false hp, he, hg, hpre, hr', Bool.not_true, Bool.false_eq_true, if_false,
    if_true]

end

theorem fileOwned_eq_none {s : State} (h : s.vrEngine = false) (i : Instr) : fileOwned s i = none := by
  simp only [fileOwned, h, Bool.false_and, Bool.false_eq_true, if_false]

theorem fileOwned_eq_some {s : State} {i : Instr} (h : s.vrEngine = true)
    (hn : (uses i).vr ++ (uses i).vs ++ (uses i).vw ++ (wordRegs s i).1 ≠ []) :
    fileOwned s i = some (.trap s .ownerViolation 0 0x1000200000) := by
  have hn' : ((uses i).vr ++ (uses i).vs ++ (uses i).vw ++ (wordRegs s i).1).isEmpty = false := by simpa using hn
  simp only [fileOwned, h, hn', Bool.not_false, Bool.and_self, if_true]
  rfl

/-- Settles O36: the frame looks at the bound, the owner and the marks in this order. -/
theorem marksAndOwners : Obligations.MarksAndOwners := by
  unfold Obligations.MarksAndOwners
  intro i s hsyl hlx hb hp
  refine ⟨fun he => ?_, fun he hg => ⟨fun hv hn => ?_, fun hv => ?_⟩⟩
  · rcases runsInFrame hsyl hlx s with ⟨body, hx, -⟩ | ⟨body, hx⟩ <;> exact hx.trans (sylPre_envelopeFull hb hp he)
  · rcases runsInFrame hsyl hlx s with ⟨body, -, hnone⟩ | ⟨body, hx⟩
    · exact absurd hnone hn
    · exact hx.trans (sylPre_stopped (pre := fun s => fileOwned s i) hb hp he hg (fileOwned_eq_some hv hn))
  · have hmarked : raised s i ≠ .clean → exec i s = .next (markTrap s (raised s i)) := by
      intro hr
      rcases runsInFrame hsyl hlx s with ⟨body, hx, -⟩ | ⟨body, hx⟩
      · exact hx.trans (sylPre_marked hb hp he hg rfl hr)
      · exact hx.trans (sylPre_marked hb hp he hg (fileOwned_eq_none hv i) hr)
    refine ⟨fun a ha => ?_, fun c v hc => ?_⟩
    · rw [hmarked (by rw [ha]; exact nofun), ha]; rfl
    · rw [Traps, hmarked (by rw [hc]; exact nofun), hc]; rfl

/-! ### Privileged syllables (R43, R61, R397) -/

theorem exec_denied {i : Instr} {s : State} (hsyl : isSyllable i = true) (hb : s.core.bundle ≠ []) (hp : privileged i = true)
    (hs : s.core.privAt = false) : exec i s = .next (trapDecode s .privilege s.core.idx (wordHere s.core)) := by
  have hlx : ∀ u, i ≠ .lx u := by
    rintro u rfl
    exact nomatch (show false = true from hp)
  rcases runsInFrame hsyl hlx s with ⟨body, hx, -⟩ | ⟨body, hx⟩ <;> exact hx.trans (sylPre_denied hb hp hs)

/-- Settles O14: the list of privileged syllables is read off, and the frame and the check of the bundle refuse them. -/
theorem privilegedSyllables : Obligations.PrivilegedSyllables := by
  unfold Obligations.PrivilegedSyllables
  intro i s hsyl hb
  refine ⟨?_, exec_denied hsyl hb, fun k w ws hp hd => by simp [checkEach, hd, hp]⟩
  clear hsyl hb
  cases i
  case csrw a n => exact List.contains_iff_mem
  case mpert | rft | rftAbort | rftReplay | xlinv | halt | tinj => exact iff_of_true rfl trivial
  all_goals exact iff_of_false Bool.false_ne_true id

end Sys2Proof.Machine
end

section
/-!
SUPPORT. Envelopes and a `NOP` behind a gather (R98, R192, R404, R414, R415).
-/
namespace Sys2Proof.Machine
open Sys2Proof
set_option Elab.async false -- proofs one at a time: the check of the whole text is near its memory limit

/-! ### NOP and the order of accesses -/

/-- A bundle whose word at the index is an `LDL`, in a core whose gather still waits for its grants. -/
def gatherPending : State :=
  { core := { bundle := [BitVec.ofNat 32 0x18000000], vu := { qs := [{ id := 0, kind := .gather, parts := [] }] } } }

/-- The stall clocks that the state of an outcome owes (R91). -/
def outcomeHeld : Host.Outcome State Fault Refusal → Option Nat
  | .next t => some t.core.held
  | _ => none

theorem nop_stalls_behind_gather : outcomeHeld (exec .nop gatherPending) = some 1 := by decide

theorem committed_holds_nothing : outcomeHeld (.next (committed gatherPending gatherPending)) = some 0 := by decide

/-- Refutes O9: its clause of `NOP` names any bundle in flight, and a `NOP` is asked for where the word at the index is one of
class 3 and a gather still waits; there it is held as that word would be (R192), and does not complete. -/
theorem not_guardsNopAndLx : ¬ Obligations.GuardsNopAndLx := by
  unfold Obligations.GuardsNopAndLx
  intro h
  obtain ⟨-, hnop, -⟩ := h gatherPending (by decide)
  have hc : exec .nop gatherPending = .next (committed gatherPending gatherPending) := hnop (by decide)
  have hheld := nop_stalls_behind_gather
  rw [hc, committed_holds_nothing] at hheld
  exact absurd hheld (by decide)

/-! ### Envelopes -/

/-- A recovery cause of the syllable at the index goes to recovery (R402). -/
theorem trapHere_envelopeMismatch (s : State) (n : Nat) (v : Word) : trapHere s .envelopeMismatch n v = recover s .envelopeMismatch := rfl

theorem ofNat_shiftRight_eq_div (n : Nat) : BitVec.ofNat 32 (n >>> 16) = BitVec.ofNat 32 (n / 2 ^ 16) := by
  rw [Nat.shiftRight_eq_div_pow]

theorem ofNat_mod_two_pow (w n : Nat) : BitVec.ofNat w (n % 2 ^ w) = BitVec.ofNat w n :=
  BitVec.eq_of_toNat_eq (by simp)

/-- Settles O16, path by path. -/
theorem envelopes : Obligations.Envelopes := by
  unfold Obligations.Envelopes
  intro s
  refine ⟨fun e h ho => ?_, fun e h ho => ?_, fun h ho hn hc => ?_, fun h hbad => ?_⟩
  · refine ⟨_, syl_completes h (if_neg (by simp [ho])), ?_⟩
    dsimp only
    rw [ofNat_mod_two_pow, ← ofNat_shiftRight_eq_div]
    rfl
  · exact (syl_flows h).trans (by rw [if_pos ho]; rfl)
  · exact syl_completes h (by simpa [ho, hn, onCore] using hc)
  · refine (syl_flows h).trans ?_
    have hmis : ∀ e : Eff, (∃ n, e = .trap s .envelopeMismatch n (envVal s.core)) → settle s e = recover s .envelopeMismatch := by
      rintro e ⟨n, rfl⟩; rfl
    refine congrArg _ (hmis _ ?_)
    by_cases ho : s.core.sw.envOpen = true
    · by_cases hn : s.core.envCount = s.core.envExpect
      · have hc := (hbad.resolve_left (by simp [ho])).resolve_left (by simp [hn])
        exact ⟨4, by simpa [ho, hn] using hc⟩
      · exact ⟨0, by simp [ho, hn]⟩
    · exact ⟨3, by simp [ho]⟩

end Sys2Proof.Machine
end

section
/-!
SUPPORT. Traps (R396 to R403, R408, R411, R412, R418): what entering the handler, halting for the debugger and returning
leave of the core.
-/
namespace Sys2Proof.Machine
open Sys2Proof
set_option Elab.async false -- proofs one at a time: the check of the whole text is near its memory limit

/-! ### Taking a trap -/

/-- Where a handler takes a trap, it is entered (R398). -/
theorem takeTrap_enters {s : State} {c : Cause} (hc : Handled c) (hv : s.core.trapVec ≠ 0) (hd : c = .debugStep → dbgAttach s = false)
    (detail : Nat) (val : Word) (tpc : CodeAddr) (srfv : Bool) (srf t : Nat) :
    takeTrap s c detail val tpc srfv srf t = enterHandler s c detail val tpc srfv srf t := by
  have hv' : (s.core.trapVec == 0) = false := by simpa using hv
  cases c
  case poisonConsumed => exact absurd rfl hc.1
  case envelopeMismatch => exact absurd rfl hc.2
  case debugStep => simp only [takeTrap, hd rfl, hv', Bool.false_eq_true, if_false]
  all_goals simp only [takeTrap, hv', Bool.false_eq_true, if_false]

theorem takeTrap_recovers {s : State} {c : Cause} (hc : ¬ Handled c) (detail : Nat) (val : Word) (tpc : CodeAddr) (srfv : Bool)
    (srf t : Nat) : takeTrap s c detail val tpc srfv srf t = recover s c := by
  by_cases hp : c = .poisonConsumed
  · subst hp; rfl
  · by_cases he : c = .envelopeMismatch
    · subst he; rfl
    · exact absurd ⟨hp, he⟩ hc

/-- Without a handler the launch aborts (R398). -/
theorem takeTrap_aborts {s : State} {c : Cause} (hc : Handled c) (hd : c ≠ .debugStep) (hv : s.core.trapVec = 0)
    (detail : Nat) (val : Word) (tpc : CodeAddr) (srfv : Bool) (srf t : Nat) :
    takeTrap s c detail val tpc srfv srf t = abortCore s c.code := by
  cases c
  case poisonConsumed => exact absurd rfl hc.1
  case envelopeMismatch => exact absurd rfl hc.2
  case debugStep => exact absurd rfl hd
  all_goals simp only [takeTrap, hv, beq_self_eq_true, if_true]

theorem outsideKept_of_core_queues {s t : State} {c : Core} {q : Vector (List QEntry) 16} (h : t = { s with core := c, queues := q }) :
    outsideKept s t := by rw [outsideKept, h]

theorem filter_not_le_eq {ls : List Landing} {t : Nat} :
    ls.filter (fun w => !decide (w.due ≤ t)) = ls.filter (fun w => decide (t < w.due)) := by
  simp only [← decide_not, Nat.not_le]

theorem holdSchedule_outside (s : State) (t n : Nat) : outsideKept s (holdSchedule s t n) := by
  obtain ⟨c, h, -⟩ := holdSchedule_spec s t n
  exact outsideKept_of_core_queues h

theorem holdSchedule_registers (s : State) (t n : Nat) : RegistersKept s (holdSchedule s t n) [] := by
  obtain ⟨c, -, -, h⟩ := holdSchedule_spec s t n
  exact h

/-- The core that holding the interrupted schedule leaves (R400). -/
theorem holdSchedule_core (s : State) (t n : Nat) : ∃ c : Core, (holdSchedule s t n).core = { s.core with
      x := c.x, xmark := c.xmark, p := c.p, v := c.v, vmark := c.vmark, m := c.m, g := c.g, gmark := c.gmark
      vu := { s.core.vu with vqstat := c.vu.vqstat, scalar := none, chk := none }, mx := { s.core.mx with chk := none }
      levels := { writes := (s.core.exposed.filter (fun w => decide (t < w.due))).map (fun w => { w with due := w.due - t })
                  pops := s.core.pops.filter (fun p => decide (n ≤ p.idx)), pushes := s.core.pushes.filter (fun p => decide (n ≤ p.idx))
                  split := splitView s.core } :: s.core.levels
      exposed := [], pops := [], pushes := [], bundle := [], idx := 0, lx := none, target := none, waiting := none, waited := false
      resume := none, owed := 0, stepped := false } := by
  obtain ⟨c, h, hc, -⟩ := holdSchedule_spec s t n
  rw [filter_not_le_eq] at hc
  exact ⟨c, (congrArg State.core h).trans hc⟩

theorem onCore_outside {s t : State} (h : outsideKept s t) (f : Core → Core) : outsideKept s (onCore t f) := by
  rw [outsideKept] at h ⊢
  rw [onCore, h]

/-- Settles O11, from what holding the interrupted schedule leaves. -/
theorem trapEntry : Obligations.TrapEntry := by
  unfold Obligations.TrapEntry
  intro s c detail val tpc srfv srf t
  refine ⟨fun hc hv hd => ⟨_, takeTrap_enters hc hv hd .., ?_⟩, fun hc => takeTrap_recovers hc .., fun hc hd hv => takeTrap_aborts hc hd hv ..,
    fun ha => ?_, fun k hk => ?_, fun k n hk hn => ?_, fun l n node hn hr => ?_⟩
  · have hout := onCore_outside (holdSchedule_outside s t srf)
    have hreg := holdSchedule_registers s t srf
    obtain ⟨d, hd⟩ := holdSchedule_core s t srf
    unfold enterHandler
    dsimp only [onCore_core]
    refine ⟨rfl, rfl, rfl, rfl, ?_, ?_, ?_, ⟨_, by rw [hd], rfl, rfl, rfl, rfl⟩, ?_, ⟨hreg.x, hreg.p, hreg.v, hreg.m, hreg.g⟩, hout _, ?_, ?_, ?_, ?_, ?_⟩
    all_goals rw [hd]
  · simp only [takeTrap, ha, if_true]
  · simp only [abortCore, hk]
  · simp only [recover, hk, recoverNode, hn]
  · simp only [nodeReplay, hn, if_pos hr]

/-! ### Breakpoints and halts (R399, R411, R418) -/

/-- After its commit a breakpoint or a `HALT` leaves at the split of its bundle (R399). -/
theorem afterSyllable_splits (s : State) (k : State → CodeAddr → Bool → Nat → Nat → State) : ∃ (t : State) (srf clk : Nat),
    t = commit s (counting s.core) ∧
    afterSyllable s k = k t (if lastHere s.core then nextPc s.core else s.core.pc) (!lastHere s.core) srf clk ∧
    srf % 8 = if lastHere s.core then 0 else (s.core.idx + 1) % 8 := by
  by_cases hl : s.core.bundle.length ≤ s.core.idx + 1
  · have hlast : lastHere s.core = true := decide_eq_true hl
    obtain ⟨-, hpc, -⟩ := commit_last (b := counting s.core) hl
    refine ⟨_, 0, (commit s (counting s.core)).core.sched + (commit s (counting s.core)).core.owed, rfl, ?_, by simp [hlast]⟩
    simp only [afterSyllable, ge_iff_le, hl, if_true, hpc, hlast, Bool.not_true]
    rfl
  · have hlast : lastHere s.core = false := decide_eq_false hl
    obtain ⟨hidx, -, -, hpc, -⟩ := commit_inner (b := counting s.core) (Nat.lt_of_not_le hl)
    refine ⟨_, s.core.idx + 1, (commit s (counting s.core)).core.sched, rfl, ?_, by simp [hlast]⟩
    simp only [afterSyllable, ge_iff_le, hl, if_false, hpc, hidx, hlast, Bool.not_false, Bool.false_eq_true]

/-- What holds of a state behind the commit of a syllable holds of it before the commit. -/
theorem RegistersKept.behind_commit {s u : State} {b : Bool} (h : RegistersKept (commit s b) u []) : RegistersKept s u [] :=
  (commit_kept s b).1.comp h fun d _ => commit_flight s b d

theorem commit_sw (s : State) (b : Bool) : (commit s b).core.sw = s.core.sw := (commit_kept s b).2.1.1

theorem commit_trapVal (s : State) (b : Bool) : (commit s b).core.trapVal = s.core.trapVal := (commit_kept s b).2.1.2.2.1

theorem commit_trapVec (s : State) (b : Bool) : (commit s b).core.trapVec = s.core.trapVec := (commit_kept s b).2.1.2.2.2.1

theorem outsideKept.dbgAttach {s t : State} (h : outsideKept s t) : dbgAttach t = dbgAttach s := by rw [h]; rfl

theorem breakWith_taken {s : State} (hv : s.core.trapVec ≠ 0) (detail : Nat) : BreakTaken s (breakWith s detail) detail := by
  obtain ⟨t, srf, clk, rfl, he, hsrf⟩ := afterSyllable_splits s
    (fun t pc srfv srf clk => takeTrap t .break_ detail (wordHere s.core) pc srfv srf clk)
  have hvt : (commit s (counting s.core)).core.trapVec ≠ 0 := by rwa [commit_trapVec]
  obtain ⟨htrap, -⟩ := trapEntry (commit s (counting s.core)) .break_ detail (wordHere s.core)
    (if lastHere s.core then nextPc s.core else s.core.pc) (!lastHere s.core) srf clk
  obtain ⟨u, hu, -, htpc, htv, hsw, hpc, hb, -, -, -, hreg, hout, -⟩ := htrap ⟨nofun, nofun⟩ hvt nofun
  rw [breakWith, he, hu]
  refine ⟨hpc.trans (commit_trapVec ..), htv, by rw [hsw]; rfl, by rw [hsw], by rw [hsw], by rw [hsw], by rw [hsw], by rw [hsw], hb, htpc,
    by rw [hsw], by rw [hsw]; exact hsrf, hreg.behind_commit, (commit_kept s _).2.2.comp hout⟩

/-- Without a handler the launch aborts after the syllable has committed (R398). -/
theorem breakWith_aborts {s : State} (hv : s.core.trapVec = 0) (detail : Nat) : breakWith s detail = abortCore (committed s s) 16 := by
  obtain ⟨t, srf, clk, rfl, he, -⟩ := afterSyllable_splits s
    (fun t pc srfv srf clk => takeTrap t .break_ detail (wordHere s.core) pc srfv srf clk)
  have hcount : (counting s.core && s.core.sw.envOpen) = counting s.core := by
    cases ho : s.core.sw.envOpen <;> simp [counting, ho]
  rw [breakWith, he, takeTrap_aborts (c := .break_) ⟨nofun, nofun⟩ nofun (by rw [commit_trapVec, hv]), committed, hcount]
  rfl

theorem haltCore_taken (s : State) (why : Fin 5) : HaltTaken s (afterSyllable s (fun t pc srfv srf clk => haltCore t why pc srfv srf clk)) why := by
  obtain ⟨t, srf, clk, rfl, he, hsrf⟩ := afterSyllable_splits s (fun t pc srfv srf clk => haltCore t why pc srfv srf clk)
  have hreg := (holdSchedule_registers (commit s (counting s.core)) clk srf).behind_commit
  obtain ⟨d, hd⟩ := holdSchedule_core (commit s (counting s.core)) clk srf
  rw [he, haltCore]
  refine ⟨rfl, ?_, rfl, ?_, hsrf, ?_, ⟨hreg.x, hreg.p, hreg.v, hreg.m, hreg.g⟩, (commit_kept s _).2.2.comp (onCore_outside (holdSchedule_outside ..) _)⟩
  · rw [onCore_core, hd]
  · rw [onCore_core, hd, commit_sw]
  · rw [onCore_core, hd, commit_trapVal]

theorem syl_left {i : Instr} {s t : State} {body : State → Eff} (h : Flows i s) (hb : body s = .left t) : syl i s body = .next t := by
  rw [syl_flows h, hb, settle_left]

/-- Settles O12, from what entering the handler and halting leave after a commit. -/
theorem breakpointsAndHalts : Obligations.BreakpointsAndHalts := by
  unfold Obligations.BreakpointsAndHalts
  intro s n
  have hbreak : ∀ (i : Instr) (d : Nat), exec i s = syl i s (fun s => breakpoint s d) → Flows i s →
      ((dbgAttach s && dbgBrkHalt s) = true → ∃ t, exec i s = .next t ∧ HaltTaken s t 2) ∧
      ((dbgAttach s && dbgBrkHalt s) = false → s.core.trapVec ≠ 0 → ∃ t, exec i s = .next t ∧ BreakTaken s t d) ∧
      ((dbgAttach s && dbgBrkHalt s) = false → s.core.trapVec = 0 → exec i s = .next (abortCore (committed s s) 16)) := by
    intro i d hi h
    rw [hi]
    refine ⟨fun ha => ⟨_, syl_left h (if_pos ha), haltCore_taken s 2⟩, fun ha hv => ⟨_, syl_left h (if_neg ?_), breakWith_taken hv d⟩,
      fun ha hv => (syl_left h (if_neg ?_)).trans (by rw [breakWith_aborts hv])⟩
    all_goals rw [ha]; exact Bool.false_ne_true
  refine ⟨fun i d hi h => ?_, fun h => ⟨fun ha => ⟨_, syl_left h (if_pos ha), haltCore_taken s 3⟩,
    fun ha hv => ⟨_, syl_left h (if_neg ?_), breakWith_taken hv 0xFF⟩, fun ha hv => (syl_left h (if_neg ?_)).trans (by rw [breakWith_aborts hv])⟩⟩
  · rcases hi with ⟨rfl, rfl⟩ | ⟨rfl, rfl⟩
    · exact hbreak (.trap n) n.toNat rfl h
    · exact hbreak (.brk n) (0x80 + n.toNat) rfl h
  all_goals rw [ha]; exact Bool.false_ne_true

/-! ### Returning (R400, R412) -/

/-- The status word that a return restores from `TRAPSW` (R412). -/
def returnSw (c : Core) : StatusWord :=
  { c.sw with priv := bit c.trapSw.toNat 17, ie := bit c.trapSw.toNat 16, step := bit c.trapSw.toNat 18
              envOpen := bit c.trapSw.toNat 19, srfv := false }

theorem returnFromTrap_eq (s : State) : returnFromTrap s =
    resumeAt { s with core := { s.core with sw := returnSw s.core } } s.core.trapPc s.core.sw.srfv s.core.sw.srf.val 1 := rfl

theorem returnFromTrap_returned (s : State) : Returned s (returnFromTrap s) := by
  rw [returnFromTrap_eq]
  unfold resumeAt
  split
  case h_1 hl =>
    have hlv : s.core.levels = [] := hl
    refine ⟨rfl, rfl, rfl, rfl, rfl, ?_, fun l v he => ?_, ?_, rfl, rfl, rfl, rfl, rfl, rfl, rfl, rfl, rfl⟩
    · simp only [onCore_core, hlv, List.tail_nil]
    · rw [hlv] at he; exact nomatch he
    · simp only [onCore_core, hlv, List.head?_nil, Option.map_none, Option.getD_none, List.map_nil, List.append_nil]
  case h_2 l rest hl =>
    have hlv : s.core.levels = l :: rest := hl
    cases hsrfv : s.core.sw.srfv
    all_goals
      refine ⟨rfl, rfl, by rw [hsrfv]; rfl, rfl, rfl, by rw [hlv]; rfl, fun l' v he hv => ?_, by rw [hlv]; rfl, rfl, rfl, rfl, rfl, rfl, rfl, rfl, rfl, rfl⟩
      rw [hlv] at he
      obtain rfl : l = l' := by simpa using he
      simp only [onCore_core, hv, Option.getD_some, and_self]

/-- Settles O13: the three returns differ in what they do after the return. -/
theorem returnsFromTraps : Obligations.ReturnsFromTraps := by
  unfold Obligations.ReturnsFromTraps
  intro s
  refine ⟨fun h => ⟨_, syl_left h rfl, returnFromTrap_returned s⟩, fun h => ⟨_, returnFromTrap_returned s, syl_left h rfl⟩,
    fun k hk h => ⟨_, returnFromTrap_returned s, syl_left h ?_⟩⟩
  simp only [hk]

end Sys2Proof.Machine
end

section
/-!
SUPPORT. The frame of the syllables that leave a result in flight (R34, R35, R96, R404): what the operations that leave a
result may change, and what the envelope counts of the commit behind them.
-/
namespace Sys2Proof.Machine
open Sys2Proof
set_option Elab.async false -- proofs one at a time: the check of the whole text is near its memory limit

/-! ### Leaving a result in flight -/

/-- `u` differs from `s` at most by results in flight, reservations, queue entries, the divider and the branch target. -/
def OnlyFlight (s u : State) : Prop :=
  u = { s with queues := u.queues, core := { s.core with
    exposed := u.core.exposed, board := u.core.board, pushes := u.core.pushes, nextId := u.core.nextId, divBusy := u.core.divBusy
    target := u.core.target } }

namespace OnlyFlight

theorem refl (s : State) : OnlyFlight s s := rfl

theorem trans {s u v : State} (h : OnlyFlight s u) (k : OnlyFlight u v) : OnlyFlight s v := by
  unfold OnlyFlight at *
  rw [k, h]

theorem registers {s u : State} (h : OnlyFlight s u) (w : List Dest) : RegistersKept s u w := by
  rw [h]; exact .of_eq rfl rfl rfl rfl rfl

theorem specials {s u : State} (h : OnlyFlight s u) : specialsKept s.core u.core := by
  rw [h]; simp [specialsKept]

theorem envelope {s u : State} (h : OnlyFlight s u) : envelopeKept s.core u.core := by
  rw [h]; exact ⟨rfl, rfl⟩

theorem outside {s u : State} (h : OnlyFlight s u) : outsideKept s u := by
  rw [h]; rfl

/-- The frame of an operation that leaves a result. -/
theorem frame {s u : State} (h : OnlyFlight s u) :
    RegistersKept s u [] ∧ specialsKept s.core u.core ∧ envelopeKept s.core u.core ∧ outsideKept s u :=
  ⟨h.registers [], h.specials, h.envelope, h.outside⟩

end OnlyFlight

theorem takeReserved_onlyFlight (s : State) (e : Push) : OnlyFlight s (takeReserved s e) := rfl

theorem fillEntry_onlyFlight (s : State) (q : Fin 16) (n : Nat) (v : Word) (k : Mark) : OnlyFlight s (fillEntry s q n v k) := rfl

theorem expose_onlyFlight (s : State) (n : Nat) (d : Dest) (v : Nat) : OnlyFlight s (expose s n d v) := rfl

theorem exposeVec_onlyFlight (s : State) (n : Nat) (d : Dest) (v sat : Nat) (k : Mark) : OnlyFlight s (exposeVec s n d v sat k) := rfl

theorem exposeLanes_onlyFlight (s : State) (d : VReg) (r n : Nat) (v c : Nat → Nat) : OnlyFlight s (exposeLanes s d r n v c) := rfl

theorem pend_onlyFlight (s : State) (d : Dest) (v : Option Nat) (k : Mark) (n : Option Nat) : OnlyFlight s (pend s d v k n).1 := rfl

theorem exposeX_onlyFlight (s : State) (n : Nat) (d : XReg) (v : Word) : OnlyFlight s (exposeX s n d v) := by
  unfold exposeX
  split
  · exact (takeReserved_onlyFlight s _).trans (fillEntry_onlyFlight ..)
  · split
    · exact .refl s
    · exact expose_onlyFlight ..

theorem exposeVecX_onlyFlight (s : State) (d : XReg) (v : Word) : OnlyFlight s (exposeVecX s d v) := by
  unfold exposeVecX
  split
  · exact (takeReserved_onlyFlight s _).trans (fillEntry_onlyFlight ..)
  · split
    · exact .refl s
    · exact exposeVec_onlyFlight ..

theorem lateDest_onlyFlight (s : State) (d : XReg) : OnlyFlight s (lateDest s d).1 := by
  unfold lateDest
  split
  · exact takeReserved_onlyFlight ..
  · split <;> exact .refl s

theorem pendX_eq (s : State) (d : XReg) (v : Word) (k : Mark) (n : Nat) : pendX s d v k n =
    match (lateDest s d).2 with
    | some e => (pend (lateDest s d).1 e (some v.toNat) k (some n)).1
    | none => (lateDest s d).1 := by
  unfold pendX
  split <;> simp [*]

theorem pendX_onlyFlight (s : State) (d : XReg) (v : Word) (k : Mark) (n : Nat) : OnlyFlight s (pendX s d v k n) := by
  rw [pendX_eq]
  split
  · exact (lateDest_onlyFlight s d).trans (pend_onlyFlight ..)
  · exact lateDest_onlyFlight s d

theorem takeBranch_onlyFlight (s : State) (t : CodeAddr) (n : Nat) : OnlyFlight s (takeBranch s t n) := rfl

/-! ### Results that go nowhere else -/

theorem lateDest_exposed (s : State) (d : XReg) : (lateDest s d).1.core.exposed = s.core.exposed := by
  unfold lateDest
  split
  · rfl
  · split <;> rfl

theorem pendX_exposed (s : State) (d : XReg) (v : Word) (k : Mark) (n : Nat) : (pendX s d v k n).core.exposed = s.core.exposed := by
  rw [pendX_eq]
  split
  · exact lateDest_exposed s d
  · exact lateDest_exposed s d

theorem OnlyFlight.exposes {s u : State} (h : OnlyFlight s u) {w : List Dest} (hf : ∀ d, d ∉ w → NotInFlight s d → NotInFlight u d) :
    Exposes s u w := ⟨h.registers w, h.specials, h.outside, hf⟩

theorem OnlyFlight.exposes_of_exposed {s u : State} (h : OnlyFlight s u) (he : u.core.exposed = s.core.exposed) (w : List Dest) :
    Exposes s u w := h.exposes fun _ _ hn l hl => hn l (he ▸ hl)

/-! ### What an envelope counts of a commit (R404) -/

/-- The fields that the CRC of an envelope runs on. -/
structure SameCrc (c d : Core) : Prop where
  crc : d.envCrc = c.envCrc
  flip : d.envFlip = c.envFlip

theorem SameCrc.envAdds {ws : List Nat} : ∀ {c d : Core}, SameCrc c d → SameCrc (ws.foldl envAdd c) (ws.foldl envAdd d) := by
  induction ws with
  | nil => exact fun h => h
  | cons w ws ih =>
    intro c d h
    exact ih ⟨by simp only [envAdd, h.crc, h.flip], rfl⟩

theorem commit_envCount (s : State) (b : Bool) :
    (commit s b).core.envCount = s.core.envCount + (if b && decide (s.core.bundle.length ≤ s.core.idx + 1) then 1 else 0) := by
  by_cases hl : s.core.bundle.length ≤ s.core.idx + 1
  · obtain ⟨-, -, h, -⟩ := commit_last (b := b) hl
    rw [h, decide_eq_true hl, Bool.and_true]
  · obtain ⟨-, -, -, -, -, -, h, -⟩ := commit_inner (b := b) (Nat.lt_of_not_le hl)
    rw [h, decide_eq_false hl, Bool.and_false]
    simp

theorem OnlyFlight.counted {s u : State} (h : OnlyFlight s u) : envelopeCounted s.core (committed s u).core := by
  have hcount : (counting s.core && u.core.sw.envOpen) = counting s.core := by
    rw [h.specials.1]
    cases ho : s.core.sw.envOpen <;> simp [counting, ho]
  have hlast : u.core.bundle = s.core.bundle ∧ u.core.idx = s.core.idx := by rw [h]; exact ⟨rfl, rfl⟩
  have hwords : commitWords u.core = commitWords s.core := by rw [h]; rfl
  have hcrc : SameCrc s.core u.core := by rw [h]; exact ⟨rfl, rfl⟩
  unfold envelopeCounted committed
  rw [hcount, commit_envCount, commit_envCrc, hlast.1, hlast.2, hwords, h.envelope.1, hcrc.crc, hcrc.envAdds.crc]
  exact ⟨rfl, rfl⟩

/-- The frame of a syllable that leaves a result and commits. -/
theorem OnlyFlight.committed_frame {s u : State} (h : OnlyFlight s u) {w : List Dest} (he : Exposes s u w) :
    RegistersKept s (committed s u) w ∧ specialsKept s.core (committed s u).core ∧ envelopeCounted s.core (committed s u).core ∧
      outsideKept s (committed s u) := by
  obtain ⟨hr, hs, ho⟩ := he.commit (counting s.core && u.core.sw.envOpen)
  exact ⟨hr, hs, h.counted, ho⟩

theorem next_inj {s t : State} {o : Host.Outcome State Fault Refusal} (h : o = .next t) (k : o = .next s) : t = s :=
  Host.Outcome.next.inj (h.symm.trans k)

theorem stall_frame (s : State) (w : List Dest) : RegistersKept s (stall s) w ∧ specialsKept s.core (stall s).core ∧
    envelopeKept s.core (stall s).core ∧ outsideKept s (stall s) :=
  ⟨.of_eq rfl rfl rfl rfl rfl, by simp [specialsKept, stall, onCore], ⟨rfl, rfl⟩, rfl⟩

/-- A branch with the result it leaves. -/
def branchLeft (s : State) (w : Option (XReg × Word)) : State :=
  match w with
  | some (r, v) => expose s 1 (.x r) v.toNat
  | none => s

theorem branchLeft_onlyFlight (s : State) (w : Option (XReg × Word)) (t : Option (CodeAddr × Nat)) :
    OnlyFlight s (onCore (branchLeft s w) (fun c => { c with target := t.or c.target })) := by
  cases w <;> rfl

theorem branchLeft_exposes (s : State) (w : Option (XReg × Word)) (t : Option (CodeAddr × Nat)) :
    Exposes s (onCore (branchLeft s w) (fun c => { c with target := t.or c.target })) (match w with | some (r, _) => [.x r] | none => []) := by
  refine (branchLeft_onlyFlight s w t).exposes fun d hd hn => ?_
  cases w with
  | none => exact hn
  | some p => exact (expose_exposes s 1 (.x p.1) p.2.toNat).flight d hd hn

/-- Settles O3: each syllable of the tables leaves its result by an operation that changes results in flight alone. -/
theorem registerFrames : Obligations.RegisterFrames := by
  unfold Obligations.RegisterFrames
  intro i s t
  refine ⟨fun d v n hr h hw hx => ?_, fun d v n hr h hw hx => ?_, fun p b hr h hx => ?_, fun w a hr h hx => ?_, fun d v k n u hu => ?_,
    fun d v k n => (pend_onlyFlight s d v k n).frame, fun d r n v c => (exposeLanes_onlyFlight s d r n v c).frame⟩
  · rw [next_inj hx (completes_of_scalarResult h hr hw)]
    exact (exposeX_onlyFlight s n d v).committed_frame (exposeX_exposes s n d v)
  · by_cases hfree : s.core.divBusy ≤ s.clock
    · rw [next_inj hx (completes_of_divisionResult h hr hw hfree), if_pos hfree]
      have hf : OnlyFlight s (pendX (onCore s (fun c => { c with divBusy := s.clock + n })) d v .clean n) :=
        OnlyFlight.trans (u := onCore s (fun c => { c with divBusy := s.clock + n })) rfl (pendX_onlyFlight ..)
      exact hf.committed_frame (hf.exposes_of_exposed (pendX_exposed ..) _)
    · rw [next_inj hx (waits_of_divisionResult h hr (Nat.lt_of_not_le hfree)), if_neg hfree]
      exact stall_frame s _
  · rw [next_inj hx (completes_of_predicateResult h hr)]
    exact (expose_onlyFlight s 1 (.p p) (b2n b)).committed_frame (expose_exposes ..)
  · rw [next_inj hx (branches i s w a hr h)]
    exact (branchLeft_onlyFlight s w a).committed_frame (branchLeft_exposes s w a)
  · simp only [List.mem_cons, List.not_mem_nil, or_false] at hu
    rcases hu with rfl | rfl | rfl
    · exact (pendX_onlyFlight s d v k n).frame
    · exact (exposeX_onlyFlight s n d v).frame
    · exact (exposeVecX_onlyFlight s d v).frame

end Sys2Proof.Machine
end

section
/-!
SUPPORT. Words that no syllable has (R45, R48, R49), and the values that reset leaves (R428).
-/
namespace Sys2Proof.Machine
open Sys2Proof
set_option Elab.async false -- proofs one at a time: the check of the whole text is near its memory limit

/-- A field of a word as the decoder takes it. -/
theorem bits_toNat_extract (w : Syllable) (lo n : Nat) (hn : 0 < n) :
    bits w.toNat (lo + n - 1) lo = (w.extractLsb' lo n).toNat := by
  rw [BitVec.extractLsb'_toNat, bits, show lo + n - 1 + 1 - lo = n by omega]

/-- The class of a word. -/
theorem bits_class (w : Syllable) : bits w.toNat 30 27 = (w.extractLsb' 27 4).toNat :=
  bits_toNat_extract w 27 4 (by omega)

theorem decode_of_fields {w : Syllable} (h : decodeFields w.toNat = none) : decode w = none := by
  rw [decode, h]; rfl

/-- The op values of SA above QCOUNT are reserved (R48). -/
theorem decodeSA_reserved {w : Nat} (h : 39 ≤ bits w 26 21) : decodeSA w = none := by
  obtain ⟨n, hn⟩ := Nat.exists_eq_add_of_le h
  rw [decodeSA, hn]
  simp only [Nat.add_comm 39 n]

/-- The space codes 6 and 7 of ME name no space (R51). -/
theorem decodeME_reserved {w : Nat} (h : 48 ≤ bits w 26 21) : decodeME w = none := by
  obtain ⟨n, hn⟩ := Nat.exists_eq_add_of_le h
  rw [decodeME, hn]
  simp only [Nat.add_comm 48 n]

/-- The op field of ME has the space code above its three low bits. -/
theorem op_of_space {w : Nat} (h : 6 ≤ bits w 26 24) : 48 ≤ bits w 26 21 := by
  simp only [bits, Nat.shiftRight_eq_div_pow] at *
  omega

/-- Settles O24: the fixed words by evaluation of the decoder, the reserved ones by their class and op fields. -/
theorem wordsOfTheManual : Obligations.WordsOfTheManual := by
  unfold Obligations.WordsOfTheManual
  refine ⟨by decide, by decide, by decide, by decide, by decide, by decide, by decide, by decide, by decide,
    by decide, by decide, by decide, by decide, by decide, fun w h => ?_, fun w hc hop => ?_, fun w hc hsp => ?_⟩
  · refine decode_of_fields ?_
    rcases h with h | h <;> rw [decodeFields, bits_class, h] <;> rfl
  · refine decode_of_fields ?_
    rw [decodeFields, bits_class, hc]
    exact decodeSA_reserved (by rwa [← bits_toNat_extract w 21 6 (by omega)] at hop)
  · refine decode_of_fields ?_
    rw [decodeFields, bits_class, hc]
    exact decodeME_reserved (op_of_space (by rwa [← bits_toNat_extract w 24 3 (by omega)] at hsp))

/-- A hub register of which nothing has been stored reads its reset value. -/
theorem hubNat_reset (a : Nat) : hubNat State.reset a = (hubReset a).toNat := rfl

theorem sliceGet_reset (k : Nat) : sliceGet State.reset k = {} := rfl

/-- The control registers of which the manual gives a value at reset (R43, R172, R220, R253, R301). -/
theorem csrRead_reset : ∀ e ∈ [(0, 0x20000), (1, 0), (2, 0), (0x20, 0), (0x23, 0), (0x24, 0), (0x25, 0), (0x100, 0), (0x101, 0),
    (0x102, 0), (0x200, 0), (0x302, 0), (0x400, 64), (0x401, 0), (0x501, 0)], csrRead State.reset e.1 = (e.2 : Word) := by
  decide

theorem ringRegisters_reset :
    ∀ n : Fin 16, csrRead State.reset (0x310 + n) = 0 ∧ csrRead State.reset (0x320 + n) = 0 := by
  decide

/-- Every lane of every statistics register is empty. -/
theorem laneOf_reset (g : GReg) (i : Nat) : (laneOf State.reset.core.g[g] i).isEmpty = true := by
  have hg : State.reset.core.g[g] = ⟨0, 0, 0⟩ := by simp [State.reset]
  have hw : elem 32 (0 : VWord).toNat i = 0 := by
    rw [show (0 : VWord).toNat = 0 from BitVec.toNat_zero, elem, Nat.zero_shiftRight, Nat.zero_mod]
  rw [hg, Triple.isEmpty, laneOf, hw]
  decide

/-- The hub registers of the credit limits and of the injection ports. -/
theorem unitRegisters_reset :
    ∀ d : Fin 3, (hubReset (unitBase d)).toNat = 16 ∧ (hubReset (unitBase d + 0x10)).toNat = 0 := by
  decide

theorem hubReset_frAddr : ∀ (h : Fin 12) (n : Fin 16), (hubReset (frAddr h n 0)).toNat = 0 := by
  intro h n
  have := h.isLt
  have := n.isLt
  have hne : ∀ a ∈ [0x4003000000, 0x4007000000, 0x4004000000, 0x4004010000, 0x4004020000, 0x4009000120],
      frAddr h n 0 ≠ a := by
    intro a ha
    simp only [List.mem_cons, List.not_mem_nil, or_false] at ha
    unfold frAddr
    omega
  simp only [List.forall_mem_cons] at hne
  simp [hubReset, hne]

theorem hostWindows_reset : ∀ n : Fin 8, (hubReset (0x4009000010 + 0x20 * n.val)).toNat = 0 := by
  decide

/-- Settles O26: each value is that of an empty list of stored words, or of a field at its default. -/
theorem resetState : Obligations.ResetState := by
  have hcsr := csrRead_reset
  simp only [List.forall_mem_cons] at hcsr
  obtain ⟨h0, h1, h2, h3, h4, h5, h6, h7, h8, h9, h10, h11, h12, h13, h14, -⟩ := hcsr
  refine ⟨h0, h1, h2, h3, h4, h5, h6, h7, h8, h9, h10, h11, h12, h13, h14, ringRegisters_reset, by decide,
    fun g i => laneOf_reset g i, by rw [hubNat_reset]; decide, fun d => ?_, fun h n => ?_, fun k => ?_, ?_, ?_,
    fun n => ?_, by decide⟩
  · simpa only [hubNat_reset] using unitRegisters_reset d
  · rw [hubNat_reset]; exact hubReset_frAddr h n
  · simp [sliceGet_reset]
  · rw [hubNat_reset]; decide
  · rw [hubNat_reset]; decide
  · rw [hubNat_reset]; exact hostWindows_reset n

end Sys2Proof.Machine
end

section
/-!
SUPPORT. Writes of the control registers and of the queue ports (R39, R42, R43, R253).
-/
namespace Sys2Proof.Machine
open Sys2Proof
set_option Elab.async false -- proofs one at a time: the check of the whole text is near its memory limit

/-! ### Rings -/

theorem bit_toNat (v : Word) (i : Nat) : bit v.toNat i = v.getLsbD i := by
  rw [bit, BitVec.getLsbD, Nat.testBit_eq_decide_div_mod_eq, Nat.shiftRight_eq_div_pow, beq_eq_decide]

theorem csrRead_rngCfg (s : State) (k : Fin 16) : csrRead s (0x310 + k) = s.core.rngCfg[k] := by
  have := k.isLt
  have hsub : 0x310 + k.val - 0x310 = k.val := by omega
  simp (disch := omega) only [csrRead, beq_iff_eq, if_neg, if_pos]
  simp [hsub]

theorem csrRead_rngCnt (s : State) (k : Fin 16) : csrRead s (0x320 + k) = s.core.rngCnt[k] := by
  have := k.isLt
  have hsub : 0x320 + k.val - 0x320 = k.val := by omega
  simp (disch := omega) only [csrRead, beq_iff_eq, if_neg, if_pos]
  simp [hsub]

theorem csrWrite_rngCfg (s : State) (k : Fin 16) (v : Word) :
    csrWrite s (0x310 + k) v = if v.getLsbD 63 then enableRing s k v else disableRing s k v := by
  have := k.isLt
  have hsub : 0x310 + k.val - 0x310 = k.val := by omega
  simp (disch := omega) only [csrWrite, beq_iff_eq, if_neg, if_pos, dif_neg, bit_toNat, hsub]

theorem setRingCfg_core (s : State) (k : Fin 16) (w : Word) :
    setRingCfg s k w = onCore s (fun c => { c with rngCfg := c.rngCfg.set k w }) := by simp [setRingCfg]
theorem setRingCnt_core (s : State) (k : Fin 16) (w : Word) :
    setRingCnt s k w = onCore s (fun c => { c with rngCnt := c.rngCnt.set k w }) := by simp [setRingCnt]
theorem setClaim_bte (s : State) (k : Fin 16) (n : Nat) :
    setClaim s k n = { s with bte := { s.bte with claim := s.bte.claim.set k n } } := by simp [setClaim]

theorem mem_foldl_insertKey {x : Nat} (gs l : List Nat) : x ∈ gs.foldl (fun l g => insertKey g l) l ↔ x ∈ l ∨ x ∈ gs := by
  induction gs generalizing l with
  | nil => simp
  | cons g gs ih => rw [List.foldl_cons, ih, insertKey_mem, List.mem_cons, or_left_comm, or_assoc]

theorem mem_foldl_eraseKey {x : Nat} (gs l : List Nat) : x ∈ gs.foldl (fun l g => eraseKey g l) l ↔ x ∈ l ∧ x ∉ gs := by
  induction gs generalizing l with
  | nil => simp
  | cons g gs ih => rw [List.foldl_cons, ih, eraseKey, List.mem_filter, bne_iff_ne, List.mem_cons, not_or, and_assoc]

theorem mem_flipTo_true (s : State) (gs : List Nat) (g : Nat) : g ∈ (flipTo s true gs).engine ↔ g ∈ s.engine ∨ g ∈ gs :=
  mem_foldl_insertKey gs s.engine
theorem mem_flipTo_false (s : State) (gs : List Nat) (g : Nat) : g ∈ (flipTo s false gs).engine ↔ g ∈ s.engine ∧ g ∉ gs :=
  mem_foldl_eraseKey gs s.engine

theorem ringSpan_congr {c d : Core} (h : c.rngCfg = d.rngCfg) (k : Nat) : ringSpan c k = ringSpan d k := by
  simp [ringSpan, ringSlots, ringSlotG, h]
theorem ringFirst_congr {c d : Core} (h : c.rngCfg = d.rngCfg) (k : Nat) : ringFirst c k = ringFirst d k := by
  unfold ringFirst ringQs ringBaseG; rw [h]

theorem enableRing_enabled {s : State} {k : Fin 16} {v : Word} (hoff : ringOn s.core k = false)
    (hok : ringRefused s k (v &&& rngMask) = false) :
    (enableRing s k v).core.rngCfg[k] = (v &&& rngMask) ||| (1#64 <<< 63) ∧
    ∀ i, i < ringSpan (enableRing s k v).core k → ringFirst (enableRing s k v).core k + i ∈ (enableRing s k v).engine := by
  simp only [enableRing, hoff, hok, Bool.false_eq_true, if_false, setRingCfg_core, setRingCnt_core, setClaim_bte]
  refine ⟨by simp [flipTo], fun i hi => ?_⟩
  refine (mem_flipTo_true _ _ _).2 (.inr (List.mem_map.2 ⟨i, List.mem_range.2 ?_, ?_⟩))
  · exact hi.trans_eq (ringSpan_congr rfl _)
  · exact congrArg (· + i) (ringFirst_congr rfl _)

theorem enableRing_refused {s : State} {k : Fin 16} {v : Word} (hoff : ringOn s.core k = false)
    (hno : ringRefused s k (v &&& rngMask) = true) :
    (enableRing s k v).core.rngCfg[k] = (v &&& rngMask) ||| (1#64 <<< 62) ∧ (enableRing s k v).engine = s.engine := by
  simp [enableRing, hoff, hno, setRingCfg_core]

theorem enableRing_on {s : State} {k : Nat} (v : Word) (hon : ringOn s.core k = true) : enableRing s k v = s := by
  simp [enableRing, hon]

theorem disableRing_off {s : State} {k : Fin 16} {v : Word} (hoff : ringOn s.core k = false) :
    (disableRing s k v).core.rngCfg[k] = (v &&& rngMask) ||| (s.core.rngCfg[k] &&& (1#64 <<< 62)) ∧
    (disableRing s k v).engine = s.engine := by
  simp [disableRing, hoff, setRingCfg_core]

theorem disableRing_on {s : State} {k : Fin 16} (v : Word) (hon : ringOn s.core k = true) :
    (disableRing s k v).core.rngCfg[k] = s.core.rngCfg[k] &&& rngMask ∧ (disableRing s k v).core.rngCnt[k] = 0 ∧
    ∀ i, i < ringSpan s.core k → ringFirst s.core k + i ∉ (disableRing s k v).engine := by
  simp only [disableRing, hon, if_true, setRingCfg_core, setRingCnt_core, setClaim_bte, loseRing]
  exact ⟨by simp [flipTo], by simp [flipTo],
    fun i hi hm => ((mem_flipTo_false _ _ _).1 hm).2 (List.mem_map.2 ⟨i, List.mem_range.2 hi, rfl⟩)⟩

/-- A write of `RNGCFG` changes only what belongs to rings. -/
theorem enableRing_frame (s : State) (k : Fin 16) (v : Word) :
    (enableRing s k v).core.x = s.core.x ∧ (enableRing s k v).core.v = s.core.v ∧ (enableRing s k v).oc = s.oc ∧
    (enableRing s k v).sys = s.sys := by
  unfold enableRing
  simp only [setRingCfg_core, setRingCnt_core, setClaim_bte]
  split
  · simp
  · split <;> simp [flipTo]

theorem disableRing_frame (s : State) (k : Fin 16) (v : Word) :
    (disableRing s k v).core.x = s.core.x ∧ (disableRing s k v).core.v = s.core.v ∧ (disableRing s k v).oc = s.oc ∧
    (disableRing s k v).sys = s.sys := by
  unfold disableRing
  simp only [setRingCfg_core, setRingCnt_core, setClaim_bte, loseRing]
  split <;> simp [flipTo]

/-! ### The other registers -/

theorem swWrite_eq (w : StatusWord) (v : Word) : swWrite w v =
    { w with
      srf := ⟨v.toNat % 8, Nat.mod_lt _ (by decide)⟩, srfv := v.getLsbD 3, cause := v.extractLsb' 8 8, ie := v.getLsbD 16,
      priv := v.getLsbD 17, step := v.getLsbD 18, causeDetail := v.extractLsb' 24 8 } := by
  simp only [swWrite, bit_toNat]
  congr 1 <;> (apply BitVec.eq_of_toNat_eq; simp [bits])

theorem csrWrite_qmap (s : State) (k : Fin 4) (v : Word) :
    csrWrite s (0x10 + k) v = onCore s (fun c => { c with qmap := c.qmap.set k (qmapValue v) }) := by
  have := k.isLt
  have hsub : 0x10 + k.val - 0x10 = k.val := by omega
  simp (disch := omega) only [csrWrite, beq_iff_eq, if_neg, dif_pos, hsub]

theorem csrRead_qmap (s : State) (k : Fin 4) : csrRead s (0x10 + k) = s.core.qmap[k] := by
  revert k; simp [csrRead, Fin.forall_fin_succ]

/-- The low byte-aligned part of a word, kept by way of a shorter word. -/
theorem setWidth_ofNat_masked (v : Word) (f : Nat → Nat) (m : Word)
    (h : f v.toNat % 2 ^ 56 = (v &&& m).toNat) : (BitVec.ofNat 56 (f v.toNat)).setWidth 64 = v &&& m := by
  apply BitVec.eq_of_toNat_eq
  rw [← h, BitVec.toNat_setWidth, BitVec.toNat_ofNat]
  omega

theorem csrWrite_readOnly {s : State} {n : Nat} (v : Word)
    (h : n ∈ [0x20, 0x21, 0x25, 0x26, 0x300, 0x500, 0x501, 0x502] ∨ (0x320 ≤ n ∧ n ≤ 0x32F)) : csrWrite s n v = s := by
  simp only [List.mem_cons, List.not_mem_nil, or_false] at h
  simp (disch := omega) only [csrWrite, beq_iff_eq, if_neg, dif_neg]

/-- The scalar and vector registers and the memories of `s`. -/
abbrev FilesKept (s t : State) : Prop := t.core.x = s.core.x ∧ t.core.v = s.core.v ∧ t.oc = s.oc ∧ t.sys = s.sys

theorem FilesKept.ite {s t u : State} {c : Prop} [Decidable c] (ht : FilesKept s t) (hu : FilesKept s u) :
    FilesKept s (if c then t else u) := by
  split
  · exact ht
  · exact hu

/-- A write of a control register changes no register and no memory. -/
theorem csrWrite_frame (s : State) (n : Nat) (v : Word) : FilesKept s (csrWrite s n v) := by
  have onCore_kept (f : Core → Core) (hx : (f s.core).x = s.core.x) (hv : (f s.core).v = s.core.v) : FilesKept s (onCore s f) :=
    ⟨hx, hv, rfl, rfl⟩
  by_cases hr : 0x310 ≤ n ∧ n ≤ 0x31F
  · obtain ⟨k, rfl⟩ : ∃ k : Fin 16, n = 0x310 + k := ⟨⟨n - 0x310, by omega⟩, by simp; omega⟩
    rw [csrWrite_rngCfg]
    exact .ite (enableRing_frame s k v) (disableRing_frame s k v)
  · by_cases hq : 0x10 ≤ n ∧ n ≤ 0x13
    · obtain ⟨k, rfl⟩ : ∃ k : Fin 4, n = 0x10 + k := ⟨⟨n - 0x10, by omega⟩, by simp; omega⟩
      rw [csrWrite_qmap]
      exact onCore_kept _ rfl rfl
    · simp only [csrWrite, hr, hq, dite_false, if_false]
      repeat' apply FilesKept.ite
      all_goals exact ⟨rfl, rfl, rfl, rfl⟩

theorem trapPc_csr (s : State) (v : Word) : csrRead (csrWrite s 1 v) 1 = v &&& 0x00FFFFFFFFFFFFFF := by
  refine setWidth_ofNat_masked v id _ ?_
  rw [id, BitVec.toNat_and]
  exact (Nat.and_two_pow_sub_one_eq_mod v.toNat 56).symm

theorem trapVec_csr (s : State) (v : Word) : csrRead (csrWrite s 0x22 v) 0x22 = v &&& 0x00FFFFFFFFFFFFFC := by
  refine setWidth_ofNat_masked v (fun n => n / 4 * 4) _ ?_
  have hm : (0x00FFFFFFFFFFFFFC : Word).toNat = (2 ^ 54 - 1) <<< 2 := by decide
  have hv : v.toNat / 4 * 4 = v.toNat >>> 2 <<< 2 := by rw [Nat.shiftRight_eq_div_pow, Nat.shiftLeft_eq]
  rw [BitVec.toNat_and, hm, hv]
  apply Nat.eq_of_testBit_eq
  intro i
  simp only [Nat.testBit_mod_two_pow, Nat.testBit_and, Nat.testBit_shiftLeft, Nat.testBit_shiftRight,
    Nat.testBit_two_pow_sub_one]
  by_cases hi : 2 ≤ i
  · have h2 : 2 + (i - 2) = i := by omega
    have hd : decide (i - 2 < 54) = decide (i < 56) := by simp; omega
    simp [hi, h2, hd, Bool.and_comm]
  · simp [hi]

/-- The writes of the registers that hold a word or a masked word of their own. -/
theorem wordRegisters_csr (s : State) (v : Word) :
    (∀ n ∈ [2, 0x23, 0x24, 0x101], csrRead (csrWrite s n v) n = v) ∧
    csrRead (csrWrite s 0x100 v) 0x100 = v &&& 0x103 ∧ csrRead (csrWrite s 0x102 v) 0x102 = v &&& 0x0000FFFFFFFFFFFF ∧
    csrRead (csrWrite s 0x200 v) 0x200 = v &&& 0xFFFFFFFF ∧
    csrRead (csrWrite s 0x301 v) 0x301 = v &&& 0x00FFFFFFFFFFF000 ∧
    csrRead (csrWrite s 0x302 v) 0x302 = csrRead s 0x302 &&& ~~~v ∧
    csrRead (csrWrite s 0x400 v) 0x400 = (if v &&& 0xFFF = 0 then 1 else v &&& 0xFFF) ∧
    csrRead (csrWrite s 0x401 v) 0x401 = v &&& 0x7F := by
  simp [csrRead, csrWrite, fabricCsr, fabricCsrWrite]

theorem qmapValue_fields (v : Word) : bits (qmapValue v).toNat 11 8 = bits v.toNat 11 8 ∧
    bits (qmapValue v).toNat 3 0 = (if bits v.toNat 3 0 ≤ 2 then bits v.toNat 3 0 else 0) := by
  have hlt : bits v.toNat 11 8 < 16 := Nat.mod_lt _ (by decide)
  rw [qmapValue, BitVec.toNat_ofNat]
  generalize bits v.toNat 11 8 = a at *
  generalize hb : (if bits v.toNat 3 0 ≤ 2 then bits v.toNat 3 0 else 0) = b
  have hb : b ≤ 2 := by subst hb; split <;> omega
  simp only [bits, Nat.shiftRight_eq_div_pow]
  omega

/-- An exposed result leaves the bindings of the queue ports. -/
theorem exposeX_qmap (s : State) (n : Nat) (d : XReg) (v : Word) :
    (exposeX s n d v).core.qmap = s.core.qmap ∧ (exposeX s n d v).core.qmapAt = s.core.qmapAt := by
  unfold exposeX
  split
  · exact ⟨rfl, rfl⟩
  · split <;> exact ⟨rfl, rfl⟩

/-- Settles O15: each register by the equation of its write, rings by those of enabling and disabling. -/
theorem controlRegisterWrites : Obligations.ControlRegisterWrites := by
  refine ⟨fun a n s v hv hf => ?_, fun d a n s hf hd => ?_⟩
  · obtain ⟨hword, h100, h102, h200, h301, h302, h400, h401⟩ := wordRegisters_csr s v
    refine ⟨by rw [← hv]; exact syl_flows hf, fun _ => ?_, fun k _ => ⟨?_, fun m hm => ?_⟩,
      fun k _ => ⟨fun hoff he hok => ?_, fun hoff he hno => ?_, fun hon he => ?_, fun hoff he => ?_, fun hon he => ?_⟩,
      fun _ => trapPc_csr s v, fun h => hword _ h, fun _ => trapVec_csr s v, fun _ => h100, fun _ => h102, fun _ => h200,
      fun _ => h301, fun _ => h302, fun _ => h400, fun _ => h401, csrWrite_readOnly v, csrWrite_frame s _ v⟩
    · exact swWrite_eq s.core.sw v
    · rw [csrWrite_qmap, csrRead_qmap]; simp
    · have hne : k.val ≠ m.val := fun e => hm (Fin.ext e.symm)
      rw [csrWrite_qmap]; simp [Vector.getElem_set_ne, hne]
    · rw [csrRead_rngCfg, csrWrite_rngCfg, if_pos he]; exact enableRing_enabled hoff hok
    · rw [csrRead_rngCfg, csrWrite_rngCfg, if_pos he]; exact enableRing_refused hoff hno
    · rw [csrWrite_rngCfg, if_pos he]; exact enableRing_on v hon
    · rw [csrRead_rngCfg, csrRead_rngCfg, csrWrite_rngCfg, he, if_neg Bool.false_ne_true]; exact disableRing_off hoff
    · rw [csrRead_rngCfg, csrRead_rngCfg, csrRead_rngCnt, csrWrite_rngCfg, he, if_neg Bool.false_ne_true]
      exact disableRing_on v hon
  · obtain ⟨hq, hqAt⟩ := exposeX_qmap s 2 d s.core.qmap[n]
    obtain ⟨hport, hkind⟩ := qmapValue_fields (readX s a)
    refine ⟨_, ?_, rfl, hqAt, ?_, ?_, fun m hm => ?_⟩
    · exact (syl_flows hf).trans (by rw [guardPush_ok hd]; rfl)
    · simpa [readNat] using hport
    · simp only [onCore_core, Fin.getElem_fin, Vector.getElem_set_self]; exact hkind
    · have hne : n.val ≠ m.val := fun e => hm (Fin.ext e.symm)
      simpa [Vector.getElem_set_ne, hne] using congrArg (·[m]) hq

end Sys2Proof.Machine
end

section
/-!
SUPPORT. XLINV, XLWAIT and TINJ (R416, R419), and SLEEP (R420).
-/
namespace Sys2Proof.Machine
open Sys2Proof
set_option Elab.async false -- proofs one at a time: the check of the whole text is near its memory limit

/-! ### Translations -/

/-- A late result goes nowhere, to its register, or to the entry reserved for its port (R137). -/
theorem lateDest_cases (s : State) (d : XReg) :
    ((d.val = 0 ∨ (boundPort s.core d).isSome = true) ∧ lateDest s d = (s, none)) ∨
    lateDest s d = (s, some (.x d)) ∨
    ∃ e, reservedHere s.core d = some e ∧ lateDest s d = (takeReserved s e, some (.queue e.queue e.entry)) := by
  unfold lateDest
  cases hr : reservedHere s.core d with
  | some e => exact .inr (.inr ⟨e, rfl, rfl⟩)
  | none =>
    by_cases h : d.val = 0 ∨ (boundPort s.core d).isSome = true
    · exact .inl ⟨h, if_pos h⟩
    · exact .inr (.inl (if_neg h))

/-- The translations that the core holds after XLINV. -/
def dropXlates (s : State) (k : Nat) (v : Word) : State :=
  { s with sys := { s.sys with tlb := s.sys.tlb.filter (fun e => !invCovers k v e) } }

/-- What XLINV leaves: the invalidation, and its result in flight where it has one. -/
def xlinvDone (s : State) (d : XReg) (k : Nat) (v : Word) (n : Nat) : Eff :=
  match lateDest s d with
  | (s, some dst) =>
    let r := pend s dst none .clean none
    .done (onCore r.1 (fun c => { c with inv := c.inv ++ [⟨some r.2, k, v, n⟩] }))
  | (s, none) => .done (onCore s (fun c => { c with inv := c.inv ++ [⟨none, k, v, n⟩] }))

theorem xlinvDone_state (s : State) (d : XReg) (k : Nat) (v : Word) (n : Nat) :
    ∃ u r, xlinvDone s d k v n = .done u ∧ u.sys = s.sys ∧ u.core.inv = s.core.inv ++ [⟨r, k, v, n⟩] ∧
      (d.val ≠ 0 → boundPort s.core d = none → reservedHere s.core d = none →
        r = some s.core.nextId ∧ u.core.board = s.core.board ++ [{ id := s.core.nextId, dst := .x d, val := none, due := none }]) ∧
      u.core.x = s.core.x ∧ u.oc = s.oc ∧ u.dist = s.dist := by
  unfold xlinvDone
  rcases lateDest_cases s d with ⟨hd, h⟩ | h | ⟨e, he, h⟩ <;> rw [h]
  · exact ⟨_, none, rfl, rfl, rfl, fun h0 hb => by simp [h0, hb] at hd, rfl, rfl, rfl⟩
  · exact ⟨_, _, rfl, rfl, rfl, fun _ _ _ => ⟨rfl, rfl⟩, rfl, rfl, rfl⟩
  · exact ⟨_, _, rfl, rfl, rfl, fun _ _ hr => by simp [hr] at he, rfl, rfl, rfl⟩

theorem syl_waits {i : Instr} {s t : State} {body : State → Eff} (hf : Flows i s) (hb : body s = .wait t) :
    syl i s body = .next (stall t) := by rw [syl_flows hf, hb, settle_wait]

/-- A wait holds the syllable, and may be cut (R91). -/
theorem syl_waitFor {i : Instr} {s : State} {body : State → Eff} (k : Nat) (hex : exec i s = syl i s body) (hf : Flows i s)
    (hb : body s = waitFor s k) : Waits i s :=
  ⟨_, hex.trans (syl_waits hf hb), ⟨rfl, rfl, rfl, rfl, rfl, rfl, .of_eq rfl rfl rfl rfl rfl, rfl⟩, rfl⟩

/-- Settles O17, path by path. -/
theorem translationsAndInjection : Obligations.TranslationsAndInjection := by
  refine fun s => ⟨fun d a k hf hd => ?_, fun hf => ⟨fun hi => ?_, fun hi => ?_⟩, fun a e r l t hf hc => ?_, fun a e hf => ?_,
    fun a e hf => ?_⟩
  · obtain ⟨u, r, hu, hsys, hinv, hboard, hx, hoc, hdist⟩ :=
      xlinvDone_state (dropXlates s k.toNat (readX s a)) d k.toNat (readX s a)
        (s.sys.tlb.filter (invCovers k.toNat (readX s a))).length
    exact ⟨u, r, syl_completes hf ((guardPush_ok hd).trans hu), hsys, hinv, hboard, hx, hoc, hdist⟩
  · exact syl_completes hf (by simp [hi])
  · exact syl_waitFor 0 rfl hf (by simp [hi])
  · exact syl_completes hf (by simp only [readNat] at hc; simp [hc])
  · exact syl_completes hf rfl
  · exact syl_completes hf rfl

/-! ### Sleep -/

theorem wakeLayers_core (s : State) :
    (wakeLayers s).core.lsLayer = 0 ∧ (wakeLayers s).core.bLayer = 0 ∧ (wakeLayers s).core.held =
      (if s.core.lsLayer = 0 ∧ s.core.bLayer = 0 then 0 else if s.core.lsLayer ≤ 1 ∧ s.core.bLayer ≤ 1 then 4 else 200) := by
  refine ⟨rfl, rfl, ?_⟩
  simp [wakeLayers, wakeClocks]

theorem bitVec2_beq (l : BitVec 2) (n : Nat) (hn : n < 4) : (l.toNat == n) = decide (l = BitVec.ofNat 2 n) := by
  rw [beq_eq_decide]
  congr 1
  simp [← BitVec.toNat_inj, Nat.mod_eq_of_lt hn]

/-- A sleeping core whose wait has begun or goes on: `w` is its wait. -/
theorem sleepLayers_asleep (s : State) (l : BitVec 2) (w : Option (Nat × Nat)) :
    Asleep s (stall (onCore (sleepLayers s l.toNat) (fun c => { c with waiting := w }))) l := by
  have h0 : (l.toNat == 0) = decide (l = 0) := bitVec2_beq l 0 (by omega)
  have h2 : (l.toNat == 2) = decide (l = 2) := bitVec2_beq l 2 (by omega)
  refine ⟨?_, ?_, fun hl => ?_, fun hl => ?_, ?_, .of_eq ?_ ?_ ?_ ?_ ?_, rfl⟩ <;>
    simp only [stall, onCore_core, sleepLayers, h0, h2]
  · simp
  · simp
  · simp [hl]
  · rw [decide_eq_false hl]; rfl

/-- A wait that goes on keeps its beginning. -/
theorem sleepLayers_waiting {s : State} (n : Nat) {w : Nat × Nat} (hw : s.core.waiting = some w) :
    sleepLayers s n = onCore (sleepLayers s n) (fun c => { c with waiting := some w }) := by
  simp only [sleepLayers, onCore, ← hw]

/-- Settles O18: by whether the core already sleeps and whether something wakes it. -/
theorem sleep : Obligations.Sleep := by
  refine fun s a l hf => ⟨fun hw hk => ?_, fun hw hk => ?_, fun w hw hk => ?_, fun w hw hk => ?_, wakeLayers_core s⟩
  all_goals simp only [readNat] at hk
  · exact syl_completes hf (by simp [sleepRun, hw, hk])
  · exact ⟨_, syl_waits (t := onCore (sleepLayers s l.toNat) (fun c => { c with waiting := some (s.clock, 0) })) hf
      (by simp only [sleepRun, hw, hk, if_true]), rfl, rfl, sleepLayers_asleep s l (some (s.clock, 0))⟩
  · refine ⟨_, syl_waits (t := sleepLayers s l.toNat) hf (by simp only [sleepRun, hw, hk, if_true]), hw, rfl, ?_⟩
    rw [sleepLayers_waiting _ hw]
    exact sleepLayers_asleep s l (some w)
  · exact syl_completes hf (by simp [sleepRun, hw, hk])

end Sys2Proof.Machine
end

section
/-!
SUPPORT. Effective addresses and the checks of scalar accesses (R117, R120, R121, R136 to R138).
-/
namespace Sys2Proof.Machine
open Sys2Proof
set_option Elab.async false -- proofs one at a time: the check of the whole text is near its memory limit

/-! ### Effective addresses -/

theorem meAddr_folio (s : State) (b : XReg) (w off n : Nat) :
    meAddr s 4 b w off n =
      if 0 ≤ ((readNat s b % 65536 : Nat) : Int) + immOf s.core w off * n ∧ ((readNat s b % 65536 : Nat) : Int) + immOf s.core w off * n ≤ 65535
      then .ok (((readNat s b / 65536 * 65536 : Nat) : Int) + (((readNat s b % 65536 : Nat) : Int) + immOf s.core w off * n))
      else .error (toWord (((readNat s b / 65536 * 65536 : Nat) : Int) + (((readNat s b % 65536 : Nat) : Int) + immOf s.core w off * n) % 65536)) := rfl

/-- A word of a block number and an offset in the block. -/
theorem toWord_block {x : Nat} (hx : x < 2 ^ 64) (o : Int) :
    (toWord (((x / 65536 * 65536 : Nat) : Int) + o % 65536)).toNat / 65536 = x / 65536 ∧
    (((toWord (((x / 65536 * 65536 : Nat) : Int) + o % 65536)).toNat % 65536 : Nat) : Int) = o % 65536 := by
  obtain ⟨k, hk⟩ : ∃ k : Nat, (k : Int) = o % 65536 := ⟨(o % 65536).toNat, by omega⟩
  have hlt : k < 65536 := by omega
  have hw : (toWord (((x / 65536 * 65536 : Nat) : Int) + k)).toNat = x / 65536 * 65536 + k := by
    rw [toWord, ← Nat.cast_add, BitVec.ofInt_natCast, BitVec.toNat_ofNat]
    omega
  rw [← hk, hw]
  omega

/-! ### Checks of LS and QS -/

theorem coreCheck_local {s : State} {sp n : Nat} {a : Int} {need : Need} (hsp : sp ≤ 1) :
    coreCheck s sp a n need = localCheck s (localBase sp) (localSize sp) a n need.wr := by
  interval_cases sp <;> rfl

theorem localCheck_outside {s : State} {base size n : Nat} {a : Int} {wr : Bool} (h : a < 0 ∨ (size : Int) < a + n) :
    localCheck s base size a n wr = .fault s .ocUnmapped 0 (toWord a).toNat := if_pos h

/-- An access that meets engine-owned granules faults or waits by the first of them (R120). -/
theorem localCheck_owned {s : State} {base size n : Nat} {a : Int} {wr : Bool} (h0 : 0 ≤ a) (h1 : a + n ≤ size)
    (ho : ∃ g ∈ granulesOf (base + a.toNat) n, g ∈ s.engine) :
    ∃ g ∈ granulesOf (base + a.toNat) n, g ∈ s.engine ∧ localCheck s base size a n wr =
      if (ringOf s.core g).isSome then .wait s else .fault s .ownerViolation 7 (toWord a).toNat := by
  have hin : ¬ (a < 0 ∨ (size : Int) < a + (n : Int)) := by omega
  have hsome : ((granulesOf (base + a.toNat) n).find? (fun g => s.engine.contains g)).isSome = true := by
    simpa [List.find?_isSome] using ho
  obtain ⟨g, hg⟩ := Option.isSome_iff_exists.1 hsome
  refine ⟨g, List.mem_of_find?_eq_some hg, by simpa using List.find?_some hg, ?_⟩
  simp only [localCheck, hin, if_false, ownedByCore, hg]
  split <;> rfl

theorem localCheck_tagged {s : State} {base size n : Nat} {a : Int} (h0 : 0 ≤ a) (h1 : a + n ≤ size)
    (ho : ∀ g ∈ granulesOf (base + a.toNat) n, g ∉ s.engine) (ht : meetsTag s (base + a.toNat) n = true) :
    localCheck s base size a n true = .fault s .barrierClobber 8 (toWord a).toNat := by
  have hin : ¬ (a < 0 ∨ (size : Int) < a + (n : Int)) := by omega
  have hnone : (granulesOf (base + a.toNat) n).find? (fun g => s.engine.contains g) = none := by
    rw [List.find?_eq_none]; intro g hg; simpa using ho g hg
  simp only [localCheck, hin, if_false, ownedByCore, hnone, Acc.bind, ht, Bool.and_self, if_true]

/-- Settles O20, in the order of the checks. -/
theorem addressesAndLocalChecks : Obligations.AddressesAndLocalChecks := by
  refine ⟨fun s sp b w off n => ⟨fun hsp => meAddr_eff hsp, fun o ho => ⟨fun h0 h1 => ?_, fun hout => ?_⟩⟩,
    fun s sp n a need hsp => ⟨fun hout => ?_, fun h0 h1 => ⟨fun hmeet hring => ?_, fun hmeet hring => ?_, fun hfree hwr htag => ?_,
      fun hfree htag => ?_⟩⟩⟩
  · rw [meAddr_folio, ← ho, if_pos (by omega)]
  · rw [meAddr_folio, ← ho, if_neg (by omega)]
    exact ⟨_, rfl, toWord_block (readX s b).isLt o⟩
  · rw [coreCheck_local hsp, localCheck_outside hout]
  · obtain ⟨g, hg, hge, hc⟩ := localCheck_owned (wr := need.wr) h0 h1 hmeet
    rw [coreCheck_local hsp, hc, hring g hg hge]; rfl
  · obtain ⟨g, hg, hge, hc⟩ := localCheck_owned (wr := need.wr) h0 h1 hmeet
    rw [coreCheck_local hsp, hc, if_pos (Option.isSome_iff_ne_none.2 (hring g hg hge))]
  · rw [coreCheck_local hsp, hwr, localCheck_tagged h0 h1 hfree htag]
  · rw [coreCheck_local hsp, localCheck_ok h0 h1 hfree htag]

/-! ### Faults of scalar accesses -/

theorem memAccess_error {s : State} {sp n al : Nat} {w : Word} {need : Need} {k : State → Place → Int → Eff} :
    memAccess s sp (.error w) n al need k = .trap s .align (memDetail 4 sp) w := rfl

theorem memAccess_fault {s t : State} {sp n al r ad : Nat} {a : Int} {c : Cause} {need : Need} {k : State → Place → Int → Eff}
    (hal : sp = 4 → a % al = 0) (hc : coreCheck s sp a n need = .fault t c r ad) :
    memAccess s sp (.ok a) n al need k = .trap t c (memDetail r sp) (BitVec.ofNat 64 ad) := by
  have hno : (sp == 4 && a % (al : Int) != 0) = false := by
    by_cases h : sp = 4 <;> simp [h, hal]
  simp only [memAccess, hno, Bool.false_eq_true, if_false, hc]

theorem memAccess_misaligned {s t : State} {sp n al : Nat} {a : Int} {p : Place} {need : Need} {k : State → Place → Int → Eff}
    (hsp : sp ≠ 4) (hc : coreCheck s sp a n need = .ok t p) (hal : a % (al : Int) ≠ 0) :
    memAccess s sp (.ok a) n al need k = .trap t .align (memDetail 2 sp) (toWord a) := by
  have hno : (sp == 4 && a % (al : Int) != 0) = false := by simp [hsp]
  simp [memAccess, hno, hc, hal]

theorem memAccess_folioMisaligned {s t : State} {n al : Nat} {a : Int} {p : Place} {need : Need} {k : State → Place → Int → Eff}
    (hn : n ≤ 8) (hc : coreCheck s 4 a 1 need = .ok t p) (hal : a % (al : Int) ≠ 0) :
    memAccess s 4 (.ok a) n al need k = .trap s .align (memDetail 2 4) (toWord a) := by
  simp [memAccess, folioMisaligned, hal, hn, hc]

theorem sizeBytes_mem (z : Size) : z.bytes ∈ [1, 2, 4, 8] := by cases z <;> decide
theorem sizeBytes_le (z : Size) : z.bytes ≤ 8 := by cases z <;> decide

theorem exec_of_loadOf {i : Instr} {sp : Nat} {z : Size} {d b : XReg} {o : BitVec 9} (h : loadOf i = some (sp, z, d, b, o))
    (s : State) : exec i s = load i sp z d b o s := by
  unfold loadOf at h
  split at h <;> simp only [Option.some.injEq, Prod.mk.injEq, reduceCtorEq] at h <;> obtain ⟨rfl, rfl, rfl, rfl, rfl⟩ := h <;> rfl

theorem exec_of_storeOf {i : Instr} {sp : Nat} {z : Size} {d b : XReg} {o : BitVec 9} (h : storeOf i = some (sp, z, d, b, o))
    (s : State) : exec i s = store i sp z d b o s := by
  unfold storeOf at h
  split at h <;> simp only [Option.some.injEq, Prod.mk.injEq, reduceCtorEq] at h <;> obtain ⟨rfl, rfl, rfl, rfl, rfl⟩ := h <;> rfl

/-- What a load leaves of the bytes and the mark that it has read (R137). -/
def loadResult (sp : Nat) (d : XReg) (a : Int) (r : State × List Byte × Bool) : State :=
  if sp = 0 ∨ sp = 1 then
    (match lateDest r.1 d with
    | (s, some dst) => exposeMarked s (if sp = 0 then 4 else 8) dst (BitVec.ofNat 64 (leNat r.2.1)).toNat (poisonAt r.2.2 a)
    | (s, none) => s)
  else pendX r.1 d (BitVec.ofNat 64 (leNat r.2.1)) (poisonAt r.2.2 a) (loadClocks sp)

/-- A load whose checks have passed. -/
def loadRun (sp n : Nat) (d : XReg) (s : State) (p : Place) (a : Int) : Eff :=
  granted s sp p n false (fun s => .done (loadResult sp d a (placeRead s p n false (coreViewer s))))

/-- A store whose checks have passed. -/
def storeRun (sp n : Nat) (d : XReg) (s : State) (p : Place) (_ : Int) : Eff :=
  granted s sp p n true (fun s => .done (placeWrite s p (leBytes n (readNat s d)) (readMark s d != .clean) false (coreViewer s)))

theorem exec_load {i : Instr} {s : State} {sp : Nat} {z : Size} {d b : XReg} {o : BitVec 9}
    (h : loadOf i = some (sp, z, d, b, o)) (hf : Flows i s) (hd : MayWrite s d) :
    exec i s = .next (settle s (memAccess s sp (meAddr s sp b 9 o.toNat z.bytes) z.bytes z.bytes { rd := true } (loadRun sp z.bytes d))) := by
  rw [exec_of_loadOf h, load, syl_flows hf, guardPush_ok hd, meAccess]
  congr 3
  funext s p a
  simp only [loadRun, loadResult, beq_iff_eq, Bool.or_eq_true]
  congr 1
  funext s
  split
  · generalize lateDest (placeRead s p z.bytes false (coreViewer s)).1 d = l
    obtain ⟨t, _ | dst⟩ := l <;> rfl
  · rfl

theorem exec_store {i : Instr} {s : State} {sp : Nat} {z : Size} {d b : XReg} {o : BitVec 9}
    (h : storeOf i = some (sp, z, d, b, o)) (hf : Flows i s) :
    exec i s = .next (settle s (memAccess s sp (meAddr s sp b 9 o.toNat z.bytes) z.bytes z.bytes { wr := true } (storeRun sp z.bytes d))) := by
  rw [exec_of_storeOf h, store, syl_flows hf]; rfl

/-- A load or store is an aligned access of its size, whatever it then does. -/
theorem exec_of_accessOf {i : Instr} {s : State} {sp n : Nat} {b : XReg} {o : BitVec 9} {need : Need} {d : Option XReg}
    (h : accessOf i = some (sp, n, b, o, need, d)) (hf : Flows i s) (hd : ∀ r, d = some r → MayWrite s r) :
    n ≤ 8 ∧ ∃ k, exec i s = .next (settle s (memAccess s sp (meAddr s sp b 9 o.toNat n) n n need k)) := by
  unfold accessOf at h
  split at h <;> simp only [Option.some.injEq, Prod.mk.injEq, reduceCtorEq] at h
  case h_1 hl =>
    obtain ⟨rfl, rfl, rfl, rfl, rfl, rfl⟩ := h
    exact ⟨sizeBytes_le _, _, exec_load hl hf (hd _ rfl)⟩
  case h_2 hs =>
    obtain ⟨rfl, rfl, rfl, rfl, rfl, rfl⟩ := h
    exact ⟨sizeBytes_le _, _, exec_store hs hf⟩

/-- Settles O27: the access traps at the check that fails. -/
theorem accessFaults : Obligations.AccessFaults := by
  intro i s t sp n b o need d h hf hd
  obtain ⟨hn, k, hexec⟩ := exec_of_accessOf h hf hd
  refine ⟨fun w ha => ?_, fun a c r ad ha hal hc => ?_, fun a p ha hsp hc hal => ?_, fun a p ha hsp hc hal => ?_⟩
  · rw [Traps, hexec, ha, memAccess_error, settle_trap]
  · rw [Traps, hexec, ha, memAccess_fault hal hc, settle_trap]
  · rw [Traps, hexec, ha, memAccess_misaligned hsp hc hal, settle_trap]
  · subst hsp
    rw [Traps, hexec, ha, memAccess_folioMisaligned hn hc hal, settle_trap]

end Sys2Proof.Machine
end

section
/-!
SUPPORT. Reading and writing on-chip storage (R119, R122, R127, R147), and the loads and stores of LS and QS (R137).
-/
namespace Sys2Proof.Machine
open Sys2Proof
set_option Elab.async false -- proofs one at a time: the check of the whole text is near its memory limit

/-! ### Reading -/

theorem leNat_lt (bs : List Byte) : leNat bs < 256 ^ bs.length := by
  induction bs with
  | nil => decide
  | cons b bs ih =>
    have := b.isLt
    rw [leNat, List.length_cons, pow_succ]
    omega

/-- `t` is `s` but for the timestamps that a load takes and for what the core asks of the banks on this clock. -/
structure Looked (s t : State) : Prop where
  eq : t = { s with
    core := { s.core with pt := t.core.pt, vu := { s.core.vu with lsTaken := t.core.vu.lsTaken, scalar := t.core.vu.scalar } }
    sys := { s.sys with stamps := t.sys.stamps } }

theorem Looked.refl (s : State) : Looked s s := ⟨rfl⟩
theorem Looked.trans {a b c : State} (h : Looked a b) (k : Looked b c) : Looked a c := ⟨by rw [k.eq, h.eq]⟩

theorem stampLoad_looked (s : State) (k : Nat) : Looked s (stampLoad s k) := ⟨rfl⟩

theorem stampOc_looked (s : State) (a n : Nat) : Looked s (stampOc s a n false) := by
  unfold stampOc
  generalize sectorsOf a n = l
  induction l generalizing s with
  | nil => exact .refl s
  | cons k l ih => exact (stampLoad_looked s _).trans (ih _)

theorem takeLs_looked (s : State) (a n : Nat) : Looked s (takeLs s a n) := by
  unfold takeLs
  split
  · exact .refl s
  · exact ⟨rfl⟩

theorem askScalar_looked (s : State) (r : Option QsScalar) : Looked s (onVu s (fun u => { u with scalar := r })) := ⟨rfl⟩

/-- A read of on-chip storage by the core. -/
theorem placeRead_oc (s : State) (a n : Nat) (v : Viewer) :
    ∃ t, Looked s t ∧ placeRead s (.oc a) n false v = (t, s.oc.read a n, s.oc.poisoned a n) :=
  ⟨_, (stampOc_looked s a n).trans (takeLs_looked _ a n), rfl⟩

theorem lateDest_snd (s : State) (d : XReg) : (lateDest s d).2 =
    match reservedHere s.core d with
    | some e => some (.queue e.queue e.entry)
    | none => if d.val = 0 ∨ (boundPort s.core d).isSome then none else some (.x d) := by
  unfold lateDest
  cases reservedHere s.core d with
  | some e => rfl
  | none => dsimp only; split <;> rfl

namespace Looked

variable {s t : State} (h : Looked s t)
include h

theorem oc : t.oc = s.oc := by rw [h.eq]
theorem clock : t.clock = s.clock := by rw [h.eq]
theorem viewer : coreViewer t = coreViewer s := by rw [h.eq]; rfl
theorem readNat (r : XReg) : readNat t r = readNat s r := by rw [h.eq]; rfl
theorem readMark (r : XReg) : readMark t r = readMark s r := by rw [h.eq]; rfl
theorem lateDest (d : XReg) : (lateDest t d).2 = (lateDest s d).2 := by rw [lateDest_snd, lateDest_snd, h.eq]; rfl

theorem registers (w : List Dest) : RegistersKept s t w := by rw [h.eq]; exact .of_eq rfl rfl rfl rfl rfl
theorem specials : specialsKept s.core t.core := by rw [h.eq]; simp [specialsKept]

end Looked

/-- A load of LS or QS: its result is in flight, and nothing else changes but the clocks of the access. -/
theorem loadResult_local {s t : State} (h : Looked s t) {sp : Nat} (hsp : sp ≤ 1) (d : XReg) (a : Int) (bs : List Byte) (p : Bool)
    (hn : bs.length ≤ 8) :
    ∃ u, loadResult sp d a (t, bs, p) = u ∧
      u.core.exposed = s.core.exposed ++ (match (lateDest s d).2 with
        | some dst => [{ dst := dst, val := leNat bs, due := s.core.sched + (if sp = 0 then 4 else 8), mark := poisonAt p a }]
        | none => []) ∧
      u = { t with core := { t.core with pushes := u.core.pushes, exposed := u.core.exposed } } := by
  have hv : (BitVec.ofNat 64 (leNat bs)).toNat = leNat bs := by
    have hlt : leNat bs < 2 ^ 64 :=
      (leNat_lt bs).trans_le (by calc 256 ^ bs.length ≤ 256 ^ 8 := Nat.pow_le_pow_right (by decide) hn
        _ = 2 ^ 64 := by decide)
    rw [BitVec.toNat_ofNat, Nat.mod_eq_of_lt hlt]
  have hexp : t.core.exposed = s.core.exposed := by rw [h.eq]
  have hsched : t.core.sched = s.core.sched := by rw [h.eq]
  refine ⟨_, rfl, ?_⟩
  rw [loadResult, if_pos (by omega), ← h.lateDest d]
  rcases lateDest_cases t d with ⟨-, hl⟩ | hl | ⟨e, -, hl⟩ <;> simp only [hl, hv]
  · exact ⟨by rw [hexp, List.append_nil], trivial⟩
  · exact ⟨by rw [← hexp, ← hsched]; rfl, rfl⟩
  · exact ⟨by rw [← hexp, ← hsched]; rfl, rfl⟩

/-! ### Writing -/

/-- A write of on-chip storage by the core: timestamps, the banks asked for, and the bytes. -/
theorem placeWrite_oc (s : State) (a : Nat) (bs : List Byte) (p : Bool) (v : Viewer) :
    ∃ u b, Stamped s u ∧
      placeWrite s (.oc a) bs p false v = { onVu u (fun k => { k with lsTaken := b }) with oc := u.oc.store a bs p } := by
  refine ⟨stampOc s a bs.length true, (takeLs (stampOc s a bs.length true) a bs.length).core.vu.lsTaken, stampOc_stamped .., ?_⟩
  have hl := (takeLs_looked (stampOc s a bs.length true) a bs.length).eq
  have hw (t : State) : wakeLs t a false = t := by simp [wakeLs]
  simp only [placeWrite, Bool.false_eq_true, if_false, hw]
  rw [takeLs]
  split <;> rfl

/-- What an access to on-chip storage by the core leaves as it was (R120, R127, R147). -/
structure StoredOc (s t : State) : Prop where
  core : t.core = { s.core with pt := t.core.pt, vu := { s.core.vu with lsTaken := t.core.vu.lsTaken, scalar := t.core.vu.scalar } }
  outside : t = { s with core := t.core, oc := t.oc, free := t.free, hub := t.hub
                         dist := { s.dist with vault := t.dist.vault, spill := t.dist.spill, restore := t.dist.restore }
                         sys := { s.sys with stamps := t.sys.stamps, l2Lines := t.sys.l2Lines, engTs := t.sys.engTs } }
  hub : ∀ a, a ≠ 0x4003000000 → hubGet t a = hubGet s a
  dist : untimed t.dist = untimed s.dist

namespace StoredOc

variable {s t : State}

theorem behind_looked {r : State} (h : Looked s r) (k : StoredOc r t) : StoredOc s t where
  core := by rw [k.core, h.eq]
  outside := by rw [k.outside, h.eq]
  hub a ha := (k.hub a ha).trans (by rw [h.eq]; rfl)
  dist := k.dist.trans (by rw [h.eq])

variable (h : StoredOc s t)
include h

theorem registers (w : List Dest) : RegistersKept s t w := by
  have hc := h.core
  exact .of_eq (by rw [hc]) (by rw [hc]) (by rw [hc]) (by rw [hc]) (by rw [hc])
theorem specials : specialsKept s.core t.core := by rw [h.core]; simp [specialsKept]
theorem flight (d : Dest) (hn : NotInFlight s d) : NotInFlight t d := by unfold NotInFlight; rw [h.core]; exact hn
theorem units : unitsKept s t := by
  have hk := h.hub
  have hd := h.dist
  rw [h.outside] at *
  exact ⟨rfl, rfl, rfl, rfl, rfl, rfl, rfl, rfl, rfl, rfl, rfl, hd, hk⟩
theorem far : farKept s t := by rw [h.outside]; exact ⟨rfl, rfl, rfl, rfl, rfl⟩

end StoredOc

theorem placeWrite_oc_stored (s : State) (a : Nat) (bs : List Byte) (p : Bool) (v : Viewer) :
    (placeWrite s (.oc a) bs p false v).oc = s.oc.store a bs p ∧ StoredOc s (placeWrite s (.oc a) bs p false v) := by
  obtain ⟨u, b, hu, hw⟩ := placeWrite_oc s a bs p v
  rw [hw]
  refine ⟨?_, ⟨?_, ?_, hu.hub, hu.dist⟩⟩
  · rw [hu.eq]
  · rw [hu.eq]; rfl
  · rw [hu.eq]; rfl

/-! ### Loads and stores of LS and QS -/

theorem granted_of_granted {s : State} {sp oc n : Nat} {wr : Bool} (h : Granted s sp oc n wr) (k : State → Eff) :
    ∃ r, Looked s r ∧ granted s sp (.oc oc) n wr k = k r := by
  by_cases hsp : sp = 1
  · exact ⟨_, askScalar_looked s (some ⟨oc, n, wr, true⟩), by simp only [granted, hsp, beq_self_eq_true, if_true, scalarGrant, h hsp]⟩
  · exact ⟨s, .refl s, by simp [granted, hsp]⟩

/-- A wait for a grant changes only the counters of the vector unit (R122, R173). -/
theorem held_of_onVu {s : State} (f : VecUnit → VecUnit) : Held s (stall (onVu s f)) :=
  ⟨rfl, rfl, rfl, rfl, rfl, rfl, .of_eq rfl rfl rfl rfl rfl, rfl⟩

theorem countWait_onVu (s : State) (f : VecUnit → VecUnit) : ∃ g, countWait (onVu s f) = onVu s g := by
  unfold countWait
  split
  · exact ⟨f, rfl⟩
  · exact ⟨fun u => { f u with qwait := (f u).qwait + 1, counted := true }, rfl⟩

theorem granted_of_not_granted {s : State} {sp oc n : Nat} {wr : Bool} (h : ¬ Granted s sp oc n wr) (k : State → Eff) :
    ∃ r, granted s sp (.oc oc) n wr k = .wait r ∧ Held s (stall r) := by
  obtain ⟨hsp, hw⟩ := Classical.not_imp.1 h
  obtain ⟨g, hg⟩ := countWait_onVu s (fun u => { u with scalar := some ⟨oc, n, wr, false⟩ })
  refine ⟨onVu s g, ?_, held_of_onVu g⟩
  simp only [granted, hsp, beq_self_eq_true, if_true, scalarGrant, hw, Bool.false_eq_true, if_false, hg]

/-- An access of LS or QS whose checks pass runs at its effective address. -/
theorem memAccess_localOk {s : State} {sp : Nat} {z : Size} {b : XReg} {o : BitVec 9} {need : Need} {k : State → Place → Int → Eff}
    (hsp : sp ≤ 1) (hok : LocalOk s sp (effAddr s b 9 o.toNat z.bytes) z.bytes z.bytes)
    (ht : need.wr = true → meetsTag s (localBase sp + (effAddr s b 9 o.toNat z.bytes).toNat) z.bytes = false) :
    memAccess s sp (meAddr s sp b 9 o.toNat z.bytes) z.bytes z.bytes need k =
      k s (.oc (localBase sp + (effAddr s b 9 o.toNat z.bytes).toNat)) (effAddr s b 9 o.toNat z.bytes) := by
  obtain ⟨h0, h1, hal, hown⟩ := hok
  rw [meAddr_eff (by omega)]
  exact memAccess_local ((coreCheck_local hsp).trans (localCheck_ok h0 h1 hown ht)) hal

theorem Mem.read_length_le (m : Mem) (a : Nat) (z : Size) : (m.read a z.bytes).length ≤ 8 := by
  rw [Mem.read_length]; exact sizeBytes_le z

/-- Settles O19: by the checks of the address, then by the grant of the crossbar. -/
theorem localLoadsAndStores : Obligations.LocalLoadsAndStores := by
  intro i s sp z d b o hsp hf a oc
  refine ⟨fun hl hd hok hg => ?_, fun hst hok hg => ?_, fun hl hd hok hg => ?_, fun hst hok hg => ?_⟩
  · obtain ⟨r, hr, hgrant⟩ := granted_of_granted hg
      (fun s => .done (loadResult sp d a (placeRead s (.oc oc) z.bytes false (coreViewer s))))
    obtain ⟨t, ht, hread⟩ := placeRead_oc r oc z.bytes (coreViewer r)
    rw [hr.oc] at hread
    obtain ⟨u, hu, hexp, hkeep⟩ := loadResult_local (hr.trans ht) hsp d a (s.oc.read oc z.bytes) (s.oc.poisoned oc z.bytes)
      (Mem.read_length_le _ _ _)
    have hlook := hr.trans ht
    have hcommit := commit_kept u (counting s.core && u.core.sw.envOpen)
    refine ⟨u, ?_, hexp, ?_, ?_, ?_, ?_, ?_, ?_, ?_, ?_, ?_⟩
    · rw [Completes, exec_load hl hf hd, memAccess_localOk hsp hok (by simp)]
      exact congrArg (fun e => Host.Outcome.next (settle s e)) (hgrant.trans (by rw [hread, hu]))
    · rw [hkeep, hlook.eq]
    · rw [hkeep, hlook.eq]
    · rw [hkeep, hlook.eq]
    · rw [hkeep, hlook.eq]
    · intro x _; rw [hkeep, hlook.eq]; rfl
    · rw [hkeep, hlook.eq]
    · rw [hkeep, hlook.eq]
    · refine RegistersKept.comp ?_ hcommit.1 fun e he hn => ?_
      · rw [hkeep, hlook.eq]; exact .of_eq rfl rfl rfl rfl rfl
      · intro l hm
        rw [hexp, List.mem_append] at hm
        rcases hm with hm | hm
        · exact hn l hm
        · cases hdst : (lateDest s d).2 with
          | none => simp [hdst] at hm
          | some dst =>
            simp only [hdst, List.mem_singleton] at hm he
            rw [hm]; exact Ne.symm he
    · refine specialsKept.comp ?_ hcommit.2.1
      rw [hkeep, hlook.eq]; simp [specialsKept]
  · obtain ⟨r, hr, hgrant⟩ := granted_of_granted hg
      (fun s => .done (placeWrite s (.oc oc) (leBytes z.bytes (readNat s d)) (readMark s d != .clean) false (coreViewer s)))
    obtain ⟨hoc, hstored⟩ := placeWrite_oc_stored r oc (leBytes z.bytes (readNat r d)) (readMark r d != .clean) (coreViewer r)
    have hall := hstored.behind_looked hr
    rw [hr.oc, hr.readNat] at hoc
    rw [hr.readNat] at hstored hall
    generalize hu : placeWrite r (.oc oc) (leBytes z.bytes (readNat s d)) (readMark r d != .clean) false (coreViewer r) = u at *
    obtain ⟨hregs, hspec, hout⟩ := commit_kept u (counting s.core && u.core.sw.envOpen)
    refine ⟨committed s u, ?_, fun k hk hk' => ?_, fun k hk => ?_, hall.registers [] |>.comp hregs fun e _ => hall.flight e,
      hall.specials.comp hspec, ?_⟩
    · rw [exec_store hst hf, memAccess_localOk hsp hok.1 (fun _ => hok.2)]
      exact congrArg (fun e => Host.Outcome.next (settle s e)) (hgrant.trans (by rw [hr.readNat, hu]))
    · rw [committed, hout, hoc, Mem.byte_store_in hk (by rwa [leBytes_length]), leBytes_get _ _ _ (by omega)]
    · rw [committed, hout, hoc, Mem.byte_store_out (by rwa [leBytes_length])]
    · have hd := hall.dist
      have hh := hall.hub
      rw [committed, hout, hall.outside]
      rw [hall.outside] at hd hh
      exact ⟨rfl, rfl, rfl, rfl, rfl, rfl, rfl, rfl, rfl, hh, hd, rfl, rfl, rfl, rfl, rfl, rfl⟩
  · obtain ⟨r, hwait, hheld⟩ := granted_of_not_granted hg
      (fun s => .done (loadResult sp d a (placeRead s (.oc oc) z.bytes false (coreViewer s))))
    refine ⟨stall r, ?_, hheld⟩
    rw [exec_load hl hf hd, memAccess_localOk hsp hok (by simp)]
    exact congrArg (fun e => Host.Outcome.next (settle s e)) hwait
  · obtain ⟨r, hwait, hheld⟩ := granted_of_not_granted hg
      (fun s => .done (placeWrite s (.oc oc) (leBytes z.bytes (readNat s d)) (readMark s d != .clean) false (coreViewer s)))
    refine ⟨stall r, ?_, hheld⟩
    rw [exec_store hst hf, memAccess_localOk hsp hok.1 (fun _ => hok.2)]
    exact congrArg (fun e => Host.Outcome.next (settle s e)) hwait

end Sys2Proof.Machine
end

section
/-!
SUPPORT. Cache ranges (R140) and fences (R159, R165, R193).
-/
namespace Sys2Proof.Machine
open Sys2Proof
set_option Elab.async false -- proofs one at a time: the check of the whole text is near its memory limit

/-- The length of a cache range: 128 without a length register. -/
theorem cacheRange_walks {i : Instr} {s u : State} {l b : XReg} {o : BitVec 9} {need : Need} {skip : Bool} {f : State → Nat → State}
    {n a : Nat} (hn : n = if l.val = 0 then 128 else bits (readNat s l) 39 0) (hpos : 0 < n)
    (ha : (a : Int) = ((readNat s b : Int) + immOf s.core 9 o.toNat * 128) / 128 * 128) (hf : Flows i s)
    (hw : rangeWalk need skip f s (runPages a ((n + 127) / 128 * 128)) = .ok u ()) :
    cacheRange i l b o need skip f s =
      .next (committed s (if skip then u else onCore u (fun c => { c with rangeBusy := true }))) := by
  refine syl_completes hf ?_
  simp only [readNat] at hn ha
  dsimp only
  rw [← hn, ← ha, if_neg (by omega), if_neg (by omega), Int.toNat_natCast, hw]

theorem cacheRange_empty {i : Instr} {s : State} {l b : XReg} {o : BitVec 9} {need : Need} {skip : Bool} {f : State → Nat → State}
    (hl : l.val ≠ 0) (hn : bits (readNat s l) 39 0 = 0) (hf : Flows i s) :
    cacheRange i l b o need skip f s = .next (committed s s) := by
  refine syl_completes hf ?_
  simp only [readNat] at hn
  dsimp only
  rw [if_neg hl, if_pos hn]

theorem waitFor_held (s : State) (k : Nat) :
    ∃ t, waitFor s k = .wait t ∧ Held s (stall t) ∧ (stall t).core.waiting.isSome = true :=
  ⟨_, rfl, ⟨rfl, rfl, rfl, rfl, rfl, rfl, .of_eq rfl rfl rfl rfl rfl, rfl⟩, rfl⟩

theorem vsyl_waitFor {i : Instr} {s : State} {body : State → Eff} (k : Nat) (hex : exec i s = vsyl i s body) (hf : VFlows i s)
    (hb : body s = waitFor s k) : Waits i s := by
  obtain ⟨t, ht, hheld, hw⟩ := waitFor_held s k
  exact ⟨_, by rw [hex, vsyl_flows hf, hb, ht, settle_wait], hheld, hw⟩

/-- Settles O29, syllable by syllable. -/
theorem cacheRangesAndFences : Obligations.CacheRangesAndFences := by
  refine fun s => ⟨fun l b o n a hn hpos ha => ⟨fun u hf hw => ?_, fun u hf hw => ?_, fun u hf hw => ?_⟩,
    fun i l b o hi hl hn hf => ?_, fun hf => ⟨fun h => ?_, fun h => ?_⟩, fun hf => ⟨fun h => ?_, fun h => ?_⟩,
    fun hf => ⟨fun h => ?_, fun h => ?_⟩⟩
  · exact cacheRange_walks hn hpos ha hf hw
  · exact cacheRange_walks hn hpos ha hf hw
  · exact cacheRange_walks hn hpos ha hf hw
  · rcases hi with rfl | rfl | rfl <;> exact cacheRange_empty hl hn hf
  · exact syl_completes hf (if_pos h)
  · exact syl_waitFor 0 rfl hf (if_neg (by simp [h]))
  · exact syl_completes hf (if_pos h)
  · exact syl_waitFor 0 rfl hf (if_neg (by simp [h]))
  · exact vsyl_completes hf (if_pos h)
  · exact vsyl_waitFor 0 rfl hf (if_neg (by simp [h]))

end Sys2Proof.Machine
end

section
/-!
SUPPORT. Atomics (R160 to R163).
-/
namespace Sys2Proof.Machine
open Sys2Proof
set_option Elab.async false -- proofs one at a time: the check of the whole text is near its memory limit

/-- A checked and aligned access that may store runs behind R153. -/
theorem memAccess_cleared {s t u : State} {sp n al : Nat} {a : Int} {p : Place} {need : Need} {k : State → Place → Int → Eff}
    (hc : coreCheck s sp a n need = .ok t p) (ha : a % (al : Int) = 0) (hw : need.wr = true) (hs : cleared t p = .ok u ()) :
    memAccess s sp (.ok a) n al need k = k u p a := by
  cases p with
  | gm r => exact memAccess_gm hc ha hw hs
  | _ =>
    obtain rfl : t = u := by injection hs
    simp only [memAccess, hc, ha, bne_self_eq_false, Bool.and_false, Bool.false_eq_true, if_false]

/-- The check of an access of LS or QS changes nothing. -/
theorem localCheck_state {s t : State} {base size n : Nat} {a : Int} {wr : Bool} {p : Place}
    (h : localCheck s base size a n wr = .ok t p) : t = s := by
  simp only [localCheck, ownedByCore] at h
  split at h
  · simp at h
  · split at h
    · simp only [Acc.bind] at h
      split at h
      · simp at h
      · injection h with h; exact h.symm
    · split at h <;> simp [Acc.bind] at h

/-- An atomic whose checks have passed, `s` the state that they leave. -/
def amoRun (sp n : Nat) (d : XReg) (op : AmoOp) (s : State) (p : Place) (a : Int) : State :=
  let w := if sp = 0 then s else spoil s
  let v := readNat s d % 2 ^ (8 * n)
  match p, sp == 1 with
  | .oc oc, true => amoQs w oc n d op v (readNat s (xNext d 1)) a
  | _, _ =>
    let r := atomicAt w p n op v (readNat s (xNext d 1)) (coreViewer w)
    pendX r.1 d (BitVec.ofNat 64 r.2.1) (poisonAt r.2.2 a) (amoClocks sp)

theorem exec_amo {i : Instr} {s : State} {sp n : Nat} {d b : XReg} {op : AmoOp} {o : BitVec 6}
    (h : atomicOf i = some (sp, n, d, b, op, o)) (hf : Flows i s) (hd : MayWrite s d)
    (hwin : sp = 2 → amooWindow s (effAddr s b 6 o.toNat n) = true) :
    exec i s = .next (settle s (memAccess s sp (.ok (effAddr s b 6 o.toNat n)) n n { rd := true, wr := true }
      (fun s p a => .done (amoRun sp n d op s p a)))) := by
  have key : ∀ (z : Bool), n = (if z then 8 else 4) → sp ≤ 3 → exec i s = amo i sp z d b op o s → exec i s = .next (settle s
      (memAccess s sp (.ok (effAddr s b 6 o.toNat n)) n n { rd := true, wr := true } (fun s p a => .done (amoRun sp n d op s p a)))) := by
    intro z hn hsp hex
    have ha : meAddr s sp b 6 o.toNat n = .ok (effAddr s b 6 o.toNat n) := meAddr_eff (by omega)
    rw [hex, amo, syl_flows hf, guardPush_ok hd]
    dsimp only
    rw [← hn, ha]
    have hw : (sp == 2 && !amooWindow s (((Except.ok (effAddr s b 6 o.toNat n) : Except Word Int).toOption).getD 0)) = false := by
      by_cases h2 : sp = 2
      · simp [h2, Except.toOption, hwin h2]
      · simp [h2]
    rw [hw, if_neg Bool.false_ne_true, meAccess]
    congr 3
    funext s p a
    simp only [amoRun, beq_iff_eq]
    generalize (sp == 1) = q
    cases p <;> cases q <;> rfl
  unfold atomicOf at h
  split at h <;> simp only [Option.some.injEq, Prod.mk.injEq, reduceCtorEq] at h <;> obtain ⟨rfl, rfl, rfl, rfl, rfl, rfl⟩ := h
  · exact key _ rfl (by omega) rfl
  · exact key _ rfl (by omega) rfl
  · exact key _ rfl (by omega) rfl
  · exact key _ rfl (by omega) rfl

/-- An atomic of QS asks for its grant, its result pending under the same identity (R122, R163). -/
theorem amoQs_request (s : State) (oc n : Nat) (d : XReg) (op : AmoOp) (v w : Nat) (a : Int) :
    ∃ id y, amoQs s oc n d op v w a = askQs y { id := id, parts := [(bankMask oc n, .amo oc n op v w)], addr := toWord a, after := 12, start := some s.clock } ∧
      y.oc = s.oc ∧ y.core.x = s.core.x ∧
      (∀ dst, (lateDest s d).2 = some dst → y.core.board = s.core.board ++ [{ id := id, dst := dst, val := none, due := none }]) := by
  unfold amoQs
  rcases lateDest_cases s d with ⟨-, h⟩ | h | ⟨e, -, h⟩ <;> rw [h]
  · exact ⟨_, _, rfl, rfl, rfl, by simp⟩
  · exact ⟨_, _, rfl, rfl, rfl, by rintro dst ⟨⟩; rfl⟩
  · exact ⟨_, _, rfl, rfl, rfl, by rintro dst ⟨⟩; rfl⟩

/-- What an atomic stores (R160, R161). -/
theorem amoNew_values (n old v w : Nat) :
    amoNew .add n old v w = some ((old + v) % 2 ^ (8 * n)) ∧ amoNew .and n old v w = some (old &&& v) ∧
    amoNew .or n old v w = some (old ||| v) ∧ amoNew .xor n old v w = some (old ^^^ v) ∧
    amoNew .swap n old v w = some v ∧ amoNew .cas n old v w = (if old = v then some (w % 2 ^ (8 * n)) else none) ∧
    (∃ m, amoNew .min n old v w = some m ∧ sext m (8 * n) = min (sext old (8 * n)) (sext v (8 * n)) ∧ (m = old ∨ m = v)) ∧
    (∃ m, amoNew .max n old v w = some m ∧ sext m (8 * n) = max (sext old (8 * n)) (sext v (8 * n)) ∧ (m = old ∨ m = v)) := by
  refine ⟨rfl, rfl, rfl, rfl, rfl, rfl, ⟨_, rfl, ?_, ?_⟩, ⟨_, rfl, ?_, ?_⟩⟩
  · split
    · rw [min_eq_left ‹_›]
    · rw [min_eq_right (by omega)]
  · split <;> simp
  · split
    · rw [max_eq_right ‹_›]
    · rw [max_eq_left (by omega)]
  · split <;> simp

/-- Settles O21: the checks, then the place's own atomic, or the request that does it at its grant. -/
theorem atomics : Obligations.Atomics := by
  refine ⟨fun i s t u sp n d b k o p h hf hd hwin hc hal hcl => ?_, fun s q oc n v c k => ?_, fun s p n v c k w => ⟨fun hk hne => ?_, fun hor => ?_⟩,
    fun n old v w _ _ _ => amoNew_values n old v w⟩
  · have hex := exec_amo h hf hd hwin
    rw [memAccess_cleared hc hal rfl hcl, settle_done] at hex
    refine ⟨fun hsp => ?_, fun x hsp hp => ?_⟩
    · rw [Completes, hex, amoRun]
      exact fun _ _ => by simpa using hsp
    · subst hsp hp
      obtain rfl : t = s := localCheck_state hc
      obtain rfl : t = u := by injection hcl
      obtain ⟨id, y, hy, hoc, hx, hboard⟩ := amoQs_request (spoil t) x n d k (readNat t d % 2 ^ (8 * n)) (readNat t (xNext d 1))
        (effAddr t b 6 o.toNat n)
      exact ⟨id, y, hex.trans (congrArg (fun u => Host.Outcome.next (committed t u)) hy), hoc, hx, hboard⟩
  · refine ⟨rfl, ?_, ?_⟩ <;> simp only [performGrant, Mem.readNat] <;>
      cases amoNew k n (leNat (s.oc.read oc n)) v c <;> rfl
  · have hb : (k == .cas && leNat (placeRead s p n false w).2.1 != v) = true := by simp [hk, hne]
    simp only [atomicAt, hb, if_true]
  · have hb : (k == .cas && leNat (placeRead s p n false w).2.1 != v) = false := by
      rcases hor with hk | he <;> simp [*]
    simp only [atomicAt, hb, Bool.false_eq_true, if_false]
    cases amoNew k n (leNat (placeRead s p n true w).2.1) v c <;> exact ⟨rfl, rfl⟩

end Sys2Proof.Machine
end

section
/-!
SUPPORT. Element-wise vector results (R169 to R171, R177 to R185).
-/
namespace Sys2Proof.Machine
open Sys2Proof
set_option Elab.async false -- proofs one at a time: the check of the whole text is near its memory limit

/-! ### Packed elements -/

theorem packElems_lt (w : Nat) (l : List Nat) : packElems w l < 2 ^ (w * l.length) := by
  induction l with
  | nil => simp [packElems]
  | cons a l ih =>
    have ha : a % 2 ^ w < 2 ^ w := Nat.mod_lt _ (Nat.two_pow_pos w)
    have hstep : packElems w l * 2 ^ w + 2 ^ w ≤ 2 ^ (w * l.length) * 2 ^ w := by
      rw [← Nat.succ_mul]; exact Nat.mul_le_mul_right _ ih
    rw [packElems, Nat.shiftLeft_eq, List.length_cons, Nat.mul_succ, pow_add]
    omega

theorem elem_packElems (w : Nat) (l : List Nat) (p : Nat) : elem w (packElems w l) p = ((l[p]?).getD 0) % 2 ^ w := by
  have hw : 0 < 2 ^ w := Nat.two_pow_pos w
  induction l generalizing p with
  | nil => simp [packElems, elem]
  | cons a l ih =>
    rw [packElems, Nat.shiftLeft_eq, elem, Nat.shiftRight_eq_div_pow]
    cases p with
    | zero => simp
    | succ p =>
      have hdiv : (a % 2 ^ w + packElems w l * 2 ^ w) / 2 ^ w = packElems w l := by
        rw [Nat.add_mul_div_right _ _ hw, Nat.div_eq_of_lt (Nat.mod_lt _ hw), Nat.zero_add]
      rw [Nat.mul_succ, Nat.add_comm (w * p), pow_add, ← Nat.div_div_eq_div_mul, hdiv]
      simpa [elem, Nat.shiftRight_eq_div_pow] using ih p

theorem elem_mod (w v i : Nat) : elem w v i % 2 ^ w = elem w v i := Nat.mod_mod _ _

theorem foldl_add_b2n (l : List Bool) (n : Nat) : (l.map b2n).foldl (· + ·) n = n + (l.filter id).length := by
  induction l generalizing n with
  | nil => rfl
  | cons b l ih => cases b <;> simp [ih, b2n]; omega

/-! ### The lanes that a syllable writes -/

/-- Element `p` of register `q` of a result over `r` registers, and whether it saturated: a masked-out one is the old one. -/
def laneWritten (s : State) (t : ElemTy) (d : VReg) (r : Nat) (k : Bool) (f : Nat → Nat × Bool) (q p : Nat) : Nat × Bool :=
  if !k || maskBit s (p * r + q) then f (p * r + q) else (elem t.width (readV s (vreg (d.val + q))) p, false)

def lanesValue (s : State) (t : ElemTy) (d : VReg) (r : Nat) (k : Bool) (f : Nat → Nat × Bool) (q : Nat) : Nat :=
  packElems t.width ((List.range t.count).map (fun p => (laneWritten s t d r k f q p).1))

def lanesSaturated (s : State) (t : ElemTy) (d : VReg) (r : Nat) (k : Bool) (f : Nat → Nat × Bool) (q : Nat) : Nat :=
  (((List.range t.count).map (fun p => (laneWritten s t d r k f q p).2)).map b2n).foldl (· + ·) 0

theorem lanesValue_lt (s : State) (t : ElemTy) (d : VReg) (r : Nat) (k : Bool) (f : Nat → Nat × Bool) (q : Nat) :
    lanesValue s t d r k f q < 2 ^ (t.width * t.count) := by
  simpa [lanesValue] using packElems_lt t.width ((List.range t.count).map (fun p => (laneWritten s t d r k f q p).1))

theorem elem_lanesValue (s : State) (t : ElemTy) (d : VReg) (r : Nat) (k : Bool) (f : Nat → Nat × Bool) (q : Nat) {p : Nat}
    (hp : p < t.count) : elem t.width (lanesValue s t d r k f q) p =
      if k && !maskBit s (p * r + q) then elem t.width (readV s (vreg (d.val + q))) p else (f (p * r + q)).1 % 2 ^ t.width := by
  rw [lanesValue, elem_packElems, List.getElem?_map, List.getElem?_range hp]
  cases k <;> cases hm : maskBit s (p * r + q) <;> simp [laneWritten, hm, elem_mod]

theorem lanesSaturated_eq (s : State) (t : ElemTy) (d : VReg) (r : Nat) (k : Bool) (f : Nat → Nat × Bool) (q : Nat) :
    lanesSaturated s t d r k f q =
      ((List.range t.count).filter (fun p => (!k || maskBit s (p * r + q)) && (f (p * r + q)).2)).length := by
  rw [lanesSaturated, foldl_add_b2n, Nat.zero_add, List.filter_map, List.length_map]
  congr 2
  funext p
  cases k <;> cases hm : maskBit s (p * r + q) <;> simp [laneWritten, hm]

theorem vreg_val (d : VReg) : vreg d.val = d := Fin.ext (Nat.mod_eq_of_lt d.isLt)

/-- Results spread over registers are the lanes of each (R171). -/
theorem wideResult_eq (s : State) (t : ElemTy) (d : VReg) (r : Nat) (k : Bool) (n : Nat) (f : Nat → Nat × Bool) :
    wideResult s t d r k n f = exposeLanes s d r n (lanesValue s t d r k f) (lanesSaturated s t d r k f) := by
  have key : ∀ (l : List Nat) (acc : State), l.foldl (fun acc j => exposeVec acc n (.v (vreg (d.val + j))) (lanesValue s t d r k f j)
      (lanesSaturated s t d r k f j) .clean) acc = onCore acc (fun c => { c with exposed := c.exposed ++ l.map (fun q =>
        { dst := .v (vreg (d.val + q)), val := lanesValue s t d r k f q, due := c.sched + n, vec := true, sat := lanesSaturated s t d r k f q }) }) := by
    intro l
    induction l with
    | nil => intro acc; simp [onCore]
    | cons j l ih =>
      intro acc
      rw [List.foldl_cons, ih]
      simp [exposeVec, onCore]
  rw [exposeLanes, ← key]
  simp only [wideResult, lanesValue, lanesSaturated, laneWritten, List.map_map]
  rfl

/-- A result of one register is that of a spread over one. -/
theorem maskedLanes_eq (s : State) (t : ElemTy) (d : VReg) (k : Bool) (n : Nat) (f : Nat → Nat × Bool) :
    exposeVec s n (.v d) (maskedLanes s k t.width t.count (readV s d) f).1 (maskedLanes s k t.width t.count (readV s d) f).2 .clean =
      exposeLanes s d 1 n (lanesValue s t d 1 k f) (lanesSaturated s t d 1 k f) := by
  simp only [exposeLanes, exposeVec, maskedLanes, lanesValue, lanesSaturated, laneWritten, List.map_map, List.range_one, List.map_cons,
    List.map_nil, Nat.add_zero, Nat.mul_one, vreg_val]
  rfl

/-! ### The table of element-wise results -/

theorem shiftLeft_eq_mod (w x n : Nat) : shiftLeft w x n = x * 2 ^ n % 2 ^ w := by
  unfold shiftLeft
  split
  · next h =>
    obtain ⟨m, rfl⟩ := Nat.exists_eq_add_of_le h
    rw [pow_add, Nat.mul_left_comm, Nat.mul_mod_right]
  · rw [Nat.shiftLeft_eq]

theorem shiftRight_eq_wrap {t : ElemTy} {x : Nat} (hx : x < 2 ^ t.width) (n : Nat) :
    shiftRight t x n = wrapTo t.width (t.int x / (2 ^ (min n t.width) : Nat)) := by
  unfold shiftRight
  split
  · rfl
  · next hs =>
    have hint : t.int x = (x : Int) := by simp [ElemTy.int, hs, Nat.mod_eq_of_lt hx]
    have hq : x / 2 ^ min n t.width < 2 ^ t.width := (Nat.div_le_self _ _).trans_lt hx
    have hval : wrapTo t.width ((x : Int) / (2 ^ (min n t.width) : Nat)) = x / 2 ^ min n t.width := by
      rw [wrapTo, ← Int.natCast_ediv, ← Int.natCast_emod, Int.toNat_natCast, Nat.mod_eq_of_lt hq]
    rw [hint, hval]
    split
    · next hn => rw [min_eq_right hn, Nat.div_eq_of_lt hx]
    · next hn => rw [min_eq_left (by omega), Nat.shiftRight_eq_div_pow]

theorem elem_lt (w v i : Nat) : elem w v i < 2 ^ w := Nat.mod_lt _ (Nat.two_pow_pos w)

/-- A VR syllable with one result register leaves the lanes of its table. -/
theorem vrOp_lanes {i : Instr} {s : State} {t : ElemTy} {d : VReg} {k : Bool} {n : Nat} {g : State → Nat → Nat × Bool}
    {f : Nat → Nat × Bool} (h : VFlows i s) (hg : ∀ j, g s j = f j) :
    vrOp i t d k n s g = .next (committed s (exposeLanes s d 1 n (lanesValue s t d 1 k f) (lanesSaturated s t d 1 k f))) := by
  obtain rfl : g s = f := funext hg
  exact vsyl_completes h (congrArg Eff.done (maskedLanes_eq s t d k n (g s)))

theorem vsyl_lanes {i : Instr} {s : State} {t : ElemTy} {d : VReg} {r : Nat} {k : Bool} {n : Nat} {body : State → Eff}
    {g f : Nat → Nat × Bool} (h : VFlows i s) (hb : body s = .done (wideResult s t d r k n g)) (hg : ∀ j, g j = f j) :
    vsyl i s body = .next (committed s (exposeLanes s d r n (lanesValue s t d r k f) (lanesSaturated s t d r k f))) := by
  obtain rfl : g = f := funext hg
  exact vsyl_completes h (by rw [hb, wideResult_eq])

theorem wide_of_isF {t : ElemTy} (h : t.isF = true) : t.wide = .f32 := if_pos h

theorem completes_of_laneResult {i : Instr} {s : State} {t : ElemTy} {d : VReg} {r : Nat} {k : Bool} {n : Nat} {f : Nat → Nat × Bool}
    (hr : laneResult s i = some (t, d, r, k, n, f)) (h : VFlows i s) :
    Completes i s (exposeLanes s d r n (lanesValue s t d r k f) (lanesSaturated s t d r k f)) := by
  have hwide {t : ElemTy} {x : Fp} {m : Nat × Bool} : (if t.isF then fpResult t.wide (vround s) x else m) =
      if t.isF then rounded s .f32 x else m := by
    split
    · next hF => rw [wide_of_isF hF]; rfl
    · rfl
  unfold laneResult at hr
  split at hr <;> simp only [Option.some.injEq, Prod.mk.injEq, reduceCtorEq] at hr <;> obtain ⟨rfl, rfl, rfl, rfl, rfl, rfl⟩ := hr
  case h_1 | h_2 | h_3 | h_4 | h_5 => -- VADD to VFMS
    exact vrOp_lanes h (fun j => rfl)
  case h_6 | h_7 | h_8 | h_9 => -- VMIN, VMAX, VABS, VNEG
    exact vrOp_lanes h (fun j => rfl)
  case h_10 | h_11 | h_12 => -- VAND, VOR, VXOR
    exact vrOp_lanes h (fun j => rfl)
  case h_13 => -- VSHL
    exact vrOp_lanes h (fun j => congrArg (·, false) (shiftLeft_eq_mod _ _ _))
  case h_14 => -- VSHR
    exact vrOp_lanes h (fun j => congrArg (·, false) (shiftRight_eq_wrap (elem_lt _ _ _) _))
  case h_15 => -- VSEL
    exact vrOp_lanes h (fun j => congrArg (·, false) (by split <;> rfl))
  case h_16 => -- VCVT
    exact vsyl_lanes h rfl (fun j => rfl)
  case h_17 | h_18 | h_19 => -- VWADD, VWMUL, VWFMA
    exact vsyl_lanes h rfl (fun j => hwide)
  case h_20 | h_21 | h_22 => -- VRCP, VRSQRT, VLOG2
    exact vrOp_lanes h (fun j => rfl)
  case h_23 => -- VEXP2
    exact vrOp_lanes h (fun j => congrArg (·, false) (by simp only [exp2Elem, beq_iff_eq]; rfl))
  case h_24 | h_26 => -- VBCAST, VROT
    exact vrOp_lanes h (fun j => rfl)
  case h_25 => -- VINS
    exact vrOp_lanes h (fun j => congrArg (·, false) (by simp only [beq_iff_eq]; rfl))

/-- Settles O22: the lanes by their table, then each element and the count of saturations. -/
theorem vectorLanes : Obligations.VectorLanes := by
  intro i s t d r k n f hr h
  exact ⟨lanesValue s t d r k f, lanesSaturated s t d r k f, completes_of_laneResult hr h,
    fun q _ => ⟨lanesValue_lt s t d r k f q, fun p hp => elem_lanesValue s t d r k f q hp, lanesSaturated_eq s t d r k f q⟩⟩

end Sys2Proof.Machine
end

section
/-!
SUPPORT. Mask results, reductions and vector results for scalar registers (R168, R179, R183, R184, R186).
-/
namespace Sys2Proof.Machine
open Sys2Proof
set_option Elab.async false -- proofs one at a time: the check of the whole text is near its memory limit

/-! ### Masks -/

theorem testBit_packElems_one (l : List Bool) (j : Nat) : (packElems 1 (l.map b2n)).testBit j = (l[j]?).getD false := by
  have h := elem_packElems 1 (l.map b2n) j
  rw [elem, Nat.one_mul, Nat.shiftRight_eq_div_pow] at h
  rw [Nat.testBit_eq_decide_div_mod_eq]
  simp only [pow_one] at h
  rw [h, List.getElem?_map]
  cases l[j]? with
  | none => rfl
  | some b => cases b <;> rfl

theorem count_le (t : ElemTy) : t.count ≤ 1024 := by cases t <;> decide

theorem compareElem_eq {s : State} {t : ElemTy} {a b : VReg} {nan : Bool} {f : Int → Int → Bool} (j : Nat) :
    compareElem t nan f (elem t.width (readV s a) j) (elem t.width (readV s b) j) = laneCompares s t a b nan f j := rfl

/-- A comparison writes its bits, zeros from the number of elements on. -/
theorem vcmpOp_bits {i : Instr} {s : State} {t : ElemTy} {d : MReg} {a b : VReg} {k nan : Bool} {f g : Int → Int → Bool} (h : VFlows i s)
    (hfg : ∀ x y, f x y = g x y) :
    ∃ v, vcmpOp i t d a b k nan f s = .next (committed s (exposeVec s 2 (.m d) v 0 .clean)) ∧ v < 2 ^ 1024 ∧
      ∀ j, j < 1024 → v.testBit j = compareBits s t d k (laneCompares s t a b nan g) j := by
  obtain rfl : f = g := funext fun x => funext (hfg x)
  refine ⟨_, vsyl_completes h rfl, ?_, fun j _ => ?_⟩
  · refine (packElems_lt 1 _).trans_le (pow_le_pow_right₀ one_le_two ?_)
    simpa using count_le t
  · have hmap := testBit_packElems_one ((List.range t.count).map (fun j =>
      if !k || maskBit s j then compareElem t nan f (elem t.width (readV s a) j) (elem t.width (readV s b) j) else (s.core.m[d]).getLsbD j)) j
    rw [List.map_map] at hmap
    refine hmap.trans ?_
    rw [List.getElem?_map, compareBits]
    by_cases hj : j < t.count
    · rw [List.getElem?_range hj]
      cases k <;> cases hm : maskBit s j <;> simp [hj, hm, compareElem_eq]
    · rw [List.getElem?_eq_none (by simpa using hj)]
      simp [hj]

theorem toNat_lt_two_pow {w : Nat} (x : BitVec w) : x.toNat < 2 ^ w := x.isLt

/-- A mask operation writes its bits. -/
theorem maskOp_bits {i : Instr} {s : State} {d : MReg} {f : State → MWord} {g : Nat → Bool} (h : VFlows i s)
    (hg : ∀ j, j < 1024 → (f s).getLsbD j = g j) :
    ∃ v, maskOp i d s f = .next (committed s (exposeVec s 2 (.m d) v 0 .clean)) ∧ v < 2 ^ 1024 ∧ ∀ j, j < 1024 → v.testBit j = g j :=
  ⟨(f s).toNat, vsyl_completes h rfl, toNat_lt_two_pow (f s), hg⟩

theorem completes_of_maskResult {i : Instr} {s : State} {d : MReg} {f : Nat → Bool} (hr : maskResult s i = some (d, f)) (h : VFlows i s) :
    ∃ v, Completes i s (exposeVec s 2 (.m d) v 0 .clean) ∧ v < 2 ^ 1024 ∧ ∀ j, j < 1024 → v.testBit j = f j := by
  unfold maskResult at hr
  split at hr <;> simp only [Option.some.injEq, Prod.mk.injEq, reduceCtorEq] at hr <;> obtain ⟨rfl, rfl⟩ := hr
  case h_1 => exact vcmpOp_bits h (fun x y => (beq_eq_decide x y).symm)
  case h_2 => exact vcmpOp_bits h (fun x y => by rw [bne, beq_eq_decide, decide_not])
  case h_3 | h_4 | h_5 | h_6 => exact vcmpOp_bits h (fun _ _ => rfl)
  case h_7 | h_8 => exact maskOp_bits h (fun j _ => by simp)
  case h_9 => exact maskOp_bits h (fun j hj => by simp [hj])

/-! ### Reductions -/

theorem completes_of_reductionResult {i : Instr} {s : State} {d : VReg} {v : Nat} (hr : reductionResult s i = some (d, v)) (h : VFlows i s) :
    Completes i s (exposeVec s 6 (.v d) v 0 .clean) := by
  unfold reductionResult at hr
  split at hr <;> simp only [Option.some.injEq, Prod.mk.injEq, reduceCtorEq] at hr <;> obtain ⟨rfl, rfl⟩ := hr <;> exact vsyl_completes h rfl

/-! ### Results for scalar registers -/

theorem vecToX_eq {s : State} {d : XReg} (hd : MayWrite s d) (v : Word) : vecToX s d v = .done (exposeVecX s d v) := by
  rw [vecToX, guardPush_ok hd, exposeVecX]
  cases reservedHere s.core d with
  | some e => rfl
  | none => dsimp only; split <;> rfl

/-- Settles O23, from the tables of mask results and of reductions. -/
theorem vectorMasksAndReductions : Obligations.VectorMasksAndReductions :=
  ⟨fun _ _ _ _ hr h => completes_of_maskResult hr h, fun _ _ _ _ hr h => completes_of_reductionResult hr h,
    fun _ _ _ _ _ _ hd => ⟨fun h => vsyl_completes h (vecToX_eq hd _), fun h => vsyl_completes h (vecToX_eq hd _)⟩⟩

end Sys2Proof.Machine
end

section
/-!
SUPPORT. Vector loads and stores (R122, R141, R167).
-/
namespace Sys2Proof.Machine
open Sys2Proof
set_option Elab.async false -- proofs one at a time: the check of the whole text is near its memory limit

/-! ### Requests to the crossbar -/

theorem stampDo_looked_of_read (s : State) (us : List (Nat × Nat × Nat)) : Looked s (stampDo s (.read us)) := by
  unfold stampDo
  dsimp only
  induction us generalizing s with
  | nil => exact .refl s
  | cons u us ih => exact (stampOc_looked s _ _).trans (ih _)

theorem stampDo_stamped_of_write (s : State) (us : List (Nat × List Byte)) (p : Bool) : Stamped s (stampDo s (.write us p)) := by
  unfold stampDo
  dsimp only
  induction us generalizing s with
  | nil => exact .refl s
  | cons u us ih => exact (stampOc_stamped s _ _ _).trans (ih _)

/-- A vector load from QS asks for one grant of all banks, its result pending (R122). -/
theorem qsLoad_request (s : State) (d : VReg) (us : List (Nat × Nat × Nat)) (w : Word) :
    (qsLoad s d us w).core.vu.qs = s.core.vu.qs ++ [{ id := s.core.nextId, parts := [(BitVec.allOnes 32, .read us)], addr := w, after := 8, start := some s.clock }] ∧
    (qsLoad s d us w).core.board = s.core.board ++ [{ id := s.core.nextId, dst := .v d, val := none, due := none, vec := true }] := by
  have h := (stampDo_looked_of_read (pendVec s (.v d) none .clean none 0 0).1 us).eq
  simp only [qsLoad, askHeld, occupy, askQs, onVu, onCore_core, List.foldl_cons, List.foldl_nil]
  rw [h]
  exact ⟨rfl, rfl⟩

theorem qsStore_request (s : State) (us : List (Nat × List Byte)) (k : Bool) :
    (qsStore s us k).core.vu.qs = s.core.vu.qs ++ [{ id := s.core.nextId, parts := [(BitVec.allOnes 32, .write us k)], start := some s.clock }] ∧
    (qsStore s us k).core.board = s.core.board := by
  have h := (stampDo_stamped_of_write (freshId s).1 us k).eq
  simp only [qsStore, askHeld, occupy, askQs, onVu, onCore_core, List.foldl_cons, List.foldl_nil]
  rw [h]
  exact ⟨rfl, rfl⟩

/-! ### Grants -/

/-- A granted read takes its bytes in order and changes no byte (R122). -/
theorem performGrant_read (s : State) (q : QsReq) (us : List (Nat × Nat × Nat)) :
    (performGrant s q (.read us)).1.oc = s.oc ∧
    (performGrant s q (.read us)).2.got = us.foldl (fun g u => setBits g (8 * (u.1 + u.2.2) - 1) (8 * u.1) (leNat (s.oc.read u.2.1 u.2.2))) q.got ∧
    (performGrant s q (.read us)).2.poison = (q.poison || us.any (fun u => s.oc.poisoned u.2.1 u.2.2)) := by
  have key : ∀ (us : List (Nat × Nat × Nat)) (t : State) (q : QsReq), t.oc = s.oc →
      let r := us.foldl (fun (acc : State × QsReq) u => (takeLs acc.1 u.2.1 u.2.2, { acc.2 with
        got := setBits acc.2.got (8 * (u.1 + u.2.2) - 1) (8 * u.1) (s.oc.readNat u.2.1 u.2.2)
        poison := acc.2.poison || s.oc.poisoned u.2.1 u.2.2 })) (t, q)
      r.1.oc = s.oc ∧
      r.2.got = us.foldl (fun g u => setBits g (8 * (u.1 + u.2.2) - 1) (8 * u.1) (leNat (s.oc.read u.2.1 u.2.2))) q.got ∧
      r.2.poison = (q.poison || us.any (fun u => s.oc.poisoned u.2.1 u.2.2)) := by
    intro us
    induction us with
    | nil => exact fun t q ht => ⟨ht, rfl, (Bool.or_false _).symm⟩
    | cons u us ih =>
      intro t q ht
      obtain ⟨h1, h2, h3⟩ := ih (takeLs t u.2.1 u.2.2) { q with
        got := setBits q.got (8 * (u.1 + u.2.2) - 1) (8 * u.1) (s.oc.readNat u.2.1 u.2.2)
        poison := q.poison || s.oc.poisoned u.2.1 u.2.2 } ((takeLs_looked t _ _).oc.trans ht)
      exact ⟨h1, h2, h3.trans (by rw [List.any_cons, Bool.or_assoc])⟩
  exact key us s q rfl

theorem performGrant_write (s : State) (q : QsReq) (us : List (Nat × List Byte)) (k : Bool) :
    (performGrant s q (.write us k)).1.oc = us.foldl (fun m u => m.store u.1 u.2 k) s.oc := by
  unfold performGrant
  dsimp only
  induction us generalizing s with
  | nil => rfl
  | cons u us ih => rw [List.foldl_cons, List.foldl_cons, ih, (takeLs_looked _ _ _).oc]

/-! ### The syllables -/

/-- A vector load whose checks have passed. -/
def vecLoadRun (sp : Nat) (d : VReg) (s : State) (p : Place) (a : Int) : State :=
  match p, sp == 1 with
  | .oc oc, true => qsLoad s d [(0, oc, 512)] (toWord a)
  | _, _ =>
    let r := placeRead s p 512 false (coreViewer s)
    vecLoaded r.1 d (leNat r.2.1) (poisonAt r.2.2 a) (sp == 0) (if sp == 0 then 4 else loadClocks sp)

/-- A vector store whose checks have passed. -/
def vecStoreRun (sp : Nat) (d : VReg) (s : State) (p : Place) : State :=
  match p, sp == 1 with
  | .oc oc, true => qsStore s [(oc, leBytes 512 (readV s d))] (s.core.vmark[d] != .clean)
  | _, _ => vmStored (placeWrite s p (leBytes 512 (readV s d)) (s.core.vmark[d] != .clean) false (coreViewer s)) sp

theorem exec_vload {i : Instr} {s : State} {sp : Nat} {d : VReg} {b : XReg} {o : BitVec 11} (h : vloadOf i = some (sp, d, b, o))
    (hf : VFlows i s) : exec i s = .next (settle s (memAccess s sp (meAddr s sp b 11 o.toNat 512) 512 32 { rd := true }
      (fun s p a => .done (vecLoadRun sp d s p a)))) := by
  have key : vmLoad i sp d b o s = .next (settle s (memAccess s sp (meAddr s sp b 11 o.toNat 512) 512 32 { rd := true }
      (fun s p a => .done (vecLoadRun sp d s p a)))) := by
    rw [vmLoad, vsyl_flows hf]
    congr 3
    funext s p a
    unfold vecLoadRun
    generalize (sp == 1) = q
    cases p <;> cases q <;> rfl
  unfold vloadOf at h
  split at h <;> simp only [Option.some.injEq, Prod.mk.injEq, reduceCtorEq] at h <;> obtain ⟨rfl, rfl, rfl, rfl⟩ := h <;> exact key

theorem exec_vstore {i : Instr} {s : State} {sp : Nat} {d : VReg} {b : XReg} {o : BitVec 11} (h : vstoreOf i = some (sp, d, b, o))
    (hf : VFlows i s) : exec i s = .next (settle s (memAccess s sp (meAddr s sp b 11 o.toNat 512) 512 32 { wr := true }
      (fun s p _ => .done (vecStoreRun sp d s p)))) := by
  have key : vmStore i sp d b o s = .next (settle s (memAccess s sp (meAddr s sp b 11 o.toNat 512) 512 32 { wr := true }
      (fun s p _ => .done (vecStoreRun sp d s p)))) := by
    rw [vmStore, vsyl_flows hf]
    congr 3
    funext s p a
    unfold vecStoreRun
    generalize (sp == 1) = q
    cases p <;> cases q <;> rfl
  unfold vstoreOf at h
  split at h <;> simp only [Option.some.injEq, Prod.mk.injEq, reduceCtorEq] at h <;> obtain ⟨rfl, rfl, rfl, rfl⟩ := h <;> exact key

theorem vecLoadRun_elsewhere {sp : Nat} (hsp : sp ≠ 1) (d : VReg) (s : State) (p : Place) (a : Int) :
    vecLoadRun sp d s p a = vecLoaded (placeRead s p 512 false (coreViewer s)).1 d (leNat (placeRead s p 512 false (coreViewer s)).2.1)
      (poisonAt (placeRead s p 512 false (coreViewer s)).2.2 a) (sp == 0) (if sp == 0 then 4 else loadClocks sp) := by
  have hne : (sp == 1) = false := by simpa using hsp
  unfold vecLoadRun
  rw [hne]
  cases p <;> rfl

theorem vecStoreRun_elsewhere {sp : Nat} (hsp : sp ≠ 1) (d : VReg) (s : State) (p : Place) :
    vecStoreRun sp d s p = vmStored (placeWrite s p (leBytes 512 (readV s d)) (s.core.vmark[d] != .clean) false (coreViewer s)) sp := by
  have hne : (sp == 1) = false := by simpa using hsp
  unfold vecStoreRun
  rw [hne]
  cases p <;> rfl

/-- Settles O31: the syllables by their checks, then the request of QS and its grant. -/
theorem vectorMemory : Obligations.VectorMemory := by
  intro i s t u sp d b o a p hf ha hal
  refine ⟨fun hl hc => ?_, fun hst hc hcl => ?_, qsLoad_request s d, qsStore_request s, performGrant_read s, performGrant_write s⟩
  · have hex := exec_vload hl hf
    rw [ha, memAccess_load hc hal rfl, settle_done] at hex
    refine ⟨fun h0 => ?_, fun h2 => ?_, fun x h1 hp => ?_⟩
    · subst h0
      rw [Completes, hex, vecLoadRun_elsewhere (by decide)]; rfl
    · have h0 : (sp == 0) = false := by simp; omega
      rw [Completes, hex, vecLoadRun_elsewhere (by omega), h0]; rfl
    · subst h1 hp; exact hex
  · have hex := exec_vstore hst hf
    rw [ha, memAccess_cleared hc hal rfl hcl, settle_done] at hex
    refine ⟨fun h1 => ?_, fun x h1 hp => ?_⟩
    · rw [Completes, hex, vecStoreRun_elsewhere h1]
    · subst h1 hp; exact hex

end Sys2Proof.Machine
end

section
/-!
SUPPORT. Tiles, gathers and scatters (R122, R123, R142, R192).
-/
namespace Sys2Proof.Machine
open Sys2Proof
set_option Elab.async false -- proofs one at a time: the check of the whole text is near its memory limit

/-! ### The checks of a list of units -/

/-- Each unit of a list is checked in turn; where all pass, nothing has changed. -/
theorem checkUnits_ok {α : Type} {s : State} {n : Nat} {wr : Bool} (f : α → Nat) (l : List α)
    (h : ∀ u ∈ l, LocalOk s 1 (f u : Int) n 1) (ht : wr = true → ∀ u ∈ l, meetsTag s (0x2000000000 + f u) n = false) :
    l.foldl (fun (acc : Acc Unit) u => acc.bind (fun s _ => (localCheck s qsBase 0x400000 (f u : Int) n wr).bind (fun s _ => .ok s ())))
      (.ok s ()) = .ok s () := by
  induction l with
  | nil => rfl
  | cons u l ih =>
    obtain ⟨h0, h1, -, hown⟩ := h u List.mem_cons_self
    have hc : localCheck s qsBase 0x400000 (f u : Int) n wr = .ok s (.oc (qsBase + (f u : Int).toNat)) :=
      localCheck_ok h0 h1 hown (fun hw => by rw [Int.toNat_natCast]; exact ht hw u List.mem_cons_self)
    rw [List.foldl_cons]
    simp only [Acc.bind, hc]
    exact ih (fun v hv => h v (List.mem_cons_of_mem _ hv)) (fun hw v hv => ht hw v (List.mem_cons_of_mem _ hv))

/-! ### Tiles -/

theorem tileUnits_length {desc : Nat} {off : Int} {col : Bool} {l : List Nat} (h : tileUnits desc off col = some l) : l.length = 32 := by
  unfold tileUnits at h
  obtain ⟨-, h⟩ := Option.ite_none_left_eq_some.1 h
  obtain ⟨-, h⟩ := Option.ite_none_left_eq_some.1 h
  injection h with h
  rw [← h, List.length_map, List.length_range]

/-- A tile access whose units pass their checks runs at their on-chip addresses. -/
theorem tileAccess_runs {i : Instr} {s : State} {b : XReg} {o : BitVec 11} {col wr : Bool} {k : State → List Nat → Eff} {l : List Nat} {t : State}
    (hf : VFlows i s) (hl : tileUnits (readNat s b) (sext o.toNat 11) col = some l) (hok : ∀ a ∈ l, LocalOk s 1 (a : Int) 16 1)
    (ht : wr = true → ∀ a ∈ l, meetsTag s (0x2000000000 + a) 16 = false) (hk : k s (l.map (qsBase + ·)) = .done t) :
    tileAccess i b o col wr s k = .next (committed s t) := by
  refine vsyl_completes hf ?_
  have hunits : tileUnits (readX s b).toNat (sext o.toNat 11) col = some l := hl
  simp only [hunits, checkUnits_ok (fun a => a) l hok ht]
  exact hk

theorem zipIdx_map_base (l : List Nat) {β : Type} (f : Nat × Nat → β) :
    ((l.map (qsBase + ·)).zipIdx).map f = l.zipIdx.map (fun a => f (0x2000000000 + a.1, a.2)) := by
  rw [List.zipIdx_map, List.map_map]; rfl

/-! ### Gathers -/

theorem le_foldl_max {x : Nat} {l : List Nat} (h : x ∈ l) (b : Nat) : x ≤ l.foldl max b := by
  have keep : ∀ (l : List Nat) (b : Nat), b ≤ l.foldl max b := by
    intro l
    induction l with
    | nil => exact fun b => le_refl b
    | cons a l ih => exact fun b => (le_max_left b a).trans (ih _)
  induction l generalizing b with
  | nil => simp at h
  | cons a l ih =>
    rcases List.mem_cons.1 h with rfl | h
    · exact (le_max_right b x).trans (keep l _)
    · exact ih h _

/-- Two bank units of one bank that have one rank are the same. -/
theorem unitRank_inj {units : List Nat} {x y : Nat} (hx : x ∈ units) (hy : y ∈ units) (hb : x % 32 = y % 32)
    (h : unitRank units x = unitRank units y) : x = y := by
  rw [unitRank, unitRank, hb] at h
  induction units with
  | nil => simp at hx
  | cons a l ih =>
    by_cases hax : a = x
    · by_contra hne
      have hay : a ≠ y := fun e => hne (hax.symm.trans e)
      simp [hax, hne, hb] at h
    · by_cases hay : a = y
      · by_contra hne
        have hyx : y ≠ x := fun e => hne e.symm
        simp [hay, hyx] at h
      · refine ih ((List.mem_cons.1 hx).resolve_left (Ne.symm hax)) ((List.mem_cons.1 hy).resolve_left (Ne.symm hay)) ?_
        simp only [List.takeWhile_cons, bne_iff_ne, ne_eq, hax, hay, not_false_eq_true, if_true, List.filter_cons] at h
        by_cases hab : a % 32 = y % 32 <;> simpa [hab] using h

/-- The grants of a gather: for each, the units it takes. -/
def gatherGrants (us : List (Nat × Nat)) : List (List (Nat × Nat)) :=
  let units := (us.map (fun u => u.2 / 16)).eraseDups
  (List.range ((units.map (fun u => unitRank units u + 1)).foldl max 0)).map (fun k => us.filter (fun u => unitRank units (u.2 / 16) == k))

theorem gatherParts_does (us : List (Nat × Nat)) (f : List (Nat × Nat) → QsDo) : (gatherParts us f).map (·.2) = (gatherGrants us).map f := by
  simp only [gatherParts, gatherGrants, List.map_map]; rfl

/-- Each unit has its grant. -/
theorem mem_gatherGrants {us : List (Nat × Nat)} (u : Nat × Nat) : u ∈ us ↔ ∃ g ∈ gatherGrants us, u ∈ g := by
  constructor
  · intro hu
    have hunit : u.2 / 16 ∈ (us.map (fun u => u.2 / 16)).eraseDups := List.mem_eraseDups.2 (List.mem_map_of_mem hu)
    refine ⟨_, List.mem_map.2 ⟨_, List.mem_range.2 ?_, rfl⟩, List.mem_filter.2 ⟨hu, beq_self_eq_true _⟩⟩
    exact le_foldl_max (List.mem_map_of_mem (f := fun x => unitRank _ x + 1) hunit) 0
  · rintro ⟨g, hg, hu⟩
    obtain ⟨k, -, rfl⟩ := List.mem_map.1 hg
    exact (List.mem_filter.1 hu).1

/-- No grant needs two units of one bank. -/
theorem gatherGrants_banks {us g : List (Nat × Nat)} (hg : g ∈ gatherGrants us) {u v : Nat × Nat} (hu : u ∈ g) (hv : v ∈ g)
    (hb : u.2 / 16 % 32 = v.2 / 16 % 32) : u.2 / 16 = v.2 / 16 := by
  obtain ⟨k, -, rfl⟩ := List.mem_map.1 hg
  obtain ⟨hu, hku⟩ := List.mem_filter.1 hu
  obtain ⟨hv, hkv⟩ := List.mem_filter.1 hv
  have hunit {w : Nat × Nat} (hw : w ∈ us) : w.2 / 16 ∈ (us.map (fun u => u.2 / 16)).eraseDups :=
    List.mem_eraseDups.2 (List.mem_map.2 ⟨w, hw, rfl⟩)
  refine unitRank_inj (hunit hu) (hunit hv) hb ?_
  rw [beq_iff_eq] at hku hkv
  rw [hku, hkv]

theorem gatherParts_isEmpty (us : List (Nat × Nat)) (f : List (Nat × Nat) → QsDo) : (gatherParts us f).isEmpty = decide (us = []) := by
  have hlen : (gatherParts us f).isEmpty = (gatherGrants us).isEmpty := by
    rw [← List.isEmpty_map (f := Prod.snd), gatherParts_does, List.isEmpty_map]
  rw [hlen]
  cases us with
  | nil => rfl
  | cons u us =>
    obtain ⟨g, hg, -⟩ := (mem_gatherGrants u).1 List.mem_cons_self
    cases hgs : gatherGrants (u :: us) with
    | nil => exact absurd (hgs ▸ hg) List.not_mem_nil
    | cons => rfl

theorem gatherUnits_eq (s : State) (b w : Word) : gatherUnits s b.toNat w.toNat = unitList s b w := by
  have h5 : bits w.toNat 4 0 = w.toNat % 32 := by simp [bits]
  simp only [gatherUnits, unitList, unitSize, bit_toNat, h5]

/-- A gather or scatter whose units pass their checks and whose base is aligned goes on after the clocks of its check. -/
theorem gatherCheck_ok {s : State} {b : Word} {n : Nat} {wr : Bool} {us : List (Nat × Nat)} {k : State → List (Nat × Nat) → Eff}
    (hok : ∀ u ∈ us, LocalOk s 1 (u.2 : Int) n 1) (ht : wr = true → ∀ u ∈ us, meetsTag s (0x2000000000 + u.2) n = false)
    (hb : b.toNat % n = 0) : gatherCheck s b n wr us k = k (checkClocks s) (us.map (fun u => (u.1, 0x2000000000 + u.2))) := by
  simp only [gatherCheck, checkUnits_ok (fun u : Nat × Nat => u.2) us hok ht, hb, bne_self_eq_false, Bool.false_eq_true, if_false]
  rfl

theorem exec_tileLoad {i : Instr} {c : Bool} {d : VReg} {b : XReg} {o : BitVec 11} (h : tileLoadOf i = some (c, d, b, o)) (s : State) :
    exec i s = tileLoad i d b o c s := by
  unfold tileLoadOf at h
  split at h <;> simp only [Option.some.injEq, Prod.mk.injEq, reduceCtorEq] at h <;> obtain ⟨rfl, rfl, rfl, rfl⟩ := h <;> rfl

theorem exec_tileStore {i : Instr} {c : Bool} {d : VReg} {b : XReg} {o : BitVec 11} (h : tileStoreOf i = some (c, d, b, o)) (s : State) :
    exec i s = tileStore i d b o c s := by
  unfold tileStoreOf at h
  split at h <;> simp only [Option.some.injEq, Prod.mk.injEq, reduceCtorEq] at h <;> obtain ⟨rfl, rfl, rfl, rfl⟩ := h <;> rfl

/-- Settles O32: tiles and gathers by their checks, and the grants by the ranks of the bank units. -/
theorem tilesAndGathers : Obligations.TilesAndGathers := by
  refine ⟨fun i s c d b o l hf hl hok => ⟨fun hi => ?_, fun hi ht => ?_, tileUnits_length hl⟩,
    fun s x y d hbad hal hok => ⟨fun hf => ?_, fun hf ht => ?_, rfl⟩,
    fun us f => ⟨gatherGrants us, gatherParts_does us f, mem_gatherGrants, fun g hg u hu v hv => gatherGrants_banks hg hu hv⟩⟩
  · rw [Completes, exec_tileLoad hi, tileLoad]
    refine tileAccess_runs hf hl hok (fun h => absurd h (by decide)) ?_
    rw [zipIdx_map_base]
  · rw [Completes, exec_tileStore hi, tileStore]
    refine tileAccess_runs hf hl hok (fun _ => ht) ?_
    rw [zipIdx_map_base]
  · refine vsyl_completes hf ?_
    have hsize : (if bit (readX s y).toNat 8 then 16 else 4) = unitSize (readX s y) := by rw [bit_toNat]; rfl
    simp only [readNat] at hbad hal
    simp only [hbad, Bool.false_eq_true, if_false, hsize, gatherUnits_eq]
    rw [gatherCheck_ok hok (by simp) hal]
    simp only [gatherParts_isEmpty, decide_eq_true_eq, List.map_eq_nil_iff]
    rfl
  · refine vsyl_completes hf ?_
    have hsize : (if bit (readX s y).toNat 8 then 16 else 4) = unitSize (readX s y) := by rw [bit_toNat]; rfl
    simp only [readNat] at hbad hal
    simp only [hbad, Bool.false_eq_true, if_false, hsize, gatherUnits_eq]
    rw [gatherCheck_ok hok (fun _ => ht) hal]
    rfl

end Sys2Proof.Machine
end

section
/-!
SUPPORT. A checked load from an on-chip window, and the timestamps of its trailer (R143, R147).
-/
namespace Sys2Proof.Machine
open Sys2Proof
set_option Elab.async false -- proofs one at a time: the check of the whole text is near its memory limit

/-- A core with no task whose `x5` holds the address of a trailer in the `ACC` window of core 0; the trailer counts one element. -/
def trailerWaiting : State :=
  { core := { bundle := [0], x := (Vector.replicate 32 0).set 5 0x1000100020 }, oc := ⟨[(0x1000100028, 1)], []⟩ }

/-- The state that the check of the trailer leaves, and the one that reading the trailer leaves. -/
def trailerChecked : State := chkOver trailerWaiting
def trailerRead : State := (placeRead trailerChecked (.oc 0x1000100020) 32 false (coreViewer trailerChecked)).1

/-- How many sectors of the state of an outcome carry a timestamp (R147). -/
def outcomeStamps : Host.Outcome State Fault Refusal → Option Nat
  | .next t => some t.sys.stamps.length
  | _ => none

theorem vldoChk_stamps_nothing : outcomeStamps (exec (.vldoChk 0 5 .e4m3 0) trailerWaiting) = some 0 := by decide

theorem trailerRead_stamped : trailerRead.sys.stamps.length = 1 := by decide

/-- A read of the `ACC` window of core 0 that stands still passes its check (R118). -/
theorem coreCheck_acc {s : State} (hq : coreQuiet s 0 = true) (ho : coreOn s 0 = true) :
    coreCheck s 2 0x1000100000 32 { rd := true } = .ok s (.oc 0x1000100000) := by
  simp [coreCheck, ocCheck, windowAt, Window.same, Window.on, hq, ho]

/-- Refutes O33: its clause of a load from elsewhere takes the check of the data part in the state that the first read of the
trailer leaves; the model takes both checks before it reads for the check (R143), and so the core that waits for the bytes of an
`ACC` window has stamped no sector of it yet. -/
theorem not_checkedLoads : ¬ Obligations.CheckedLoads := by
  unfold Obligations.CheckedLoads
  intro h
  obtain ⟨hwait, -⟩ := h (.vldoChk 0 5 .e4m3 0) trailerWaiting trailerChecked trailerRead 2 0 5 .e4m3 0 0x1000100020
    (.oc 0x1000100020) (.oc 0x1000100000) rfl (by decide) rfl (by decide) rfl (by decide) (by decide)
    (coreCheck_acc (by decide) (by decide))
  have hstamps := vldoChk_stamps_nothing
  rw [hwait (by decide) rfl] at hstamps
  have hlen : trailerRead.sys.stamps.length = 0 := Option.some.inj hstamps
  exact absurd (trailerRead_stamped.symm.trans hlen) (by decide)

end Sys2Proof.Machine
end

section
/-!
SUPPORT. Permutes, shuffles, mask loads and the configuration of the vector unit (R173, R187, R188, R191, R195).
-/
namespace Sys2Proof.Machine
open Sys2Proof
set_option Elab.async false -- proofs one at a time: the check of the whole text is near its memory limit

theorem width_mul_count (t : ElemTy) : t.width * t.count = 4096 := by cases t <;> decide

/-- Each element of a masked result, from the place that the table names. -/
theorem elem_maskedLanes {s : State} {k : Bool} {t : ElemTy} {d : VReg} {f : Nat → Nat × Bool} {j : Nat} (hj : j < t.count)
    (hf : (f j).1 < 2 ^ t.width) :
    elem t.width (maskedLanes s k t.width t.count (readV s d) f).1 j = if k && !maskBit s j then lane s t d j else (f j).1 := by
  simp only [maskedLanes]
  rw [elem_packElems, List.getElem?_map, List.getElem?_map, List.getElem?_range hj]
  cases k <;> cases hm : maskBit s j <;> simp [hm, elem_mod, Nat.mod_eq_of_lt hf, lane]

theorem maskedLanes_lt (s : State) (k : Bool) (t : ElemTy) (old : Nat) (f : Nat → Nat × Bool) :
    (maskedLanes s k t.width t.count old f).1 < 2 ^ 4096 := by
  rw [← width_mul_count t]
  simpa [maskedLanes] using packElems_lt t.width
    (((List.range t.count).map (fun i => if !k || maskBit s i then f i else (elem t.width old i, false))).map (·.1))

/-- The element size of `VSHUF` and the number of elements that the operand word gives (R188). -/
theorem shuffle_sizes (c : Nat) (hc : c < 4) :
    8 * (if c == 3 then 16 else 2 ^ c) = 4096 / (512 / (if c = 3 then 16 else 2 ^ c)) := by
  interval_cases c <;> rfl

theorem elementBytes_eq (c : Nat) : (if c == 3 then 16 else 2 ^ c) = if c = 3 then 16 else 2 ^ c := by simp

/-- Settles O34, syllable by syllable. -/
theorem vectorCommands : Obligations.VectorCommands := by
  refine fun s => ⟨fun t d a b k hf => ?_, fun x d v hf hhigh hv => ?_, fun x y d hf => ?_, fun x y hf => ⟨fun hok => ?_, fun hbad => ?_⟩⟩
  · exact ⟨_, vsyl_completes hf rfl, maskedLanes_lt .., fun j hj => elem_maskedLanes hj (elem_lt _ _ _)⟩
  · refine vsyl_completes hf ?_
    dsimp only [readNat] at hhigh hv
    have hc : bits (readX s x).toNat 11 10 < 4 := Nat.mod_lt _ (by decide)
    have hres : (if bits (readX s x).toNat 63 32 != 0 then none else
        shuffle (bits (readX s x).toNat 15 12) (bits (readX s x).toNat 31 16)
          (512 / (if bits (readX s x).toNat 11 10 == 3 then 16 else 2 ^ bits (readX s x).toNat 11 10))
          (8 * (if bits (readX s x).toNat 11 10 == 3 then 16 else 2 ^ bits (readX s x).toNat 11 10))
          (readV s (vreg (bits (readX s x).toNat 4 0))) (readV s (vreg (bits (readX s x).toNat 9 5)))) = some v := by
      rw [hhigh, shuffle_sizes _ hc, elementBytes_eq]
      exact hv
    dsimp only
    rw [hres]
    rfl
  · refine ⟨_, vsyl_completes hf rfl, ?_, fun j hj => ?_⟩
    · refine (packElems_lt 1 _).trans_le (pow_le_pow_right₀ one_le_two ?_)
      simp
    · have hbits := testBit_packElems_one ((List.range 1024).map (fun i => decide (readNat s x ≤ i) && decide (i < readNat s y))) j
      rw [List.map_map, List.getElem?_map, List.getElem?_range hj] at hbits
      exact hbits
  · exact vsyl_completes hf (if_neg (by rw [hok]; decide))
  · rw [Traps, ← settle_trap s]
    exact (vsyl_flows hf).trans (congrArg (fun e => Host.Outcome.next (settle s e)) (if_pos (bne_iff_ne.2 hbad)))

/-! ### Quantisation -/

/-- The fields of the operand word of `VQCVT` (R189). -/
theorem vqcvt_fields {v va st df n : Nat} {b : Bool} (hv : v = va + 2 ^ 8 * st + 2 ^ 12 * df + 2 ^ 16 * b2n b + 2 ^ 32 * n)
    (hva : va < 32) (hst : st ≤ 1) (hdf : df < 16) (hn : n < 2 ^ 16) :
    bits v 11 8 = st ∧ bits v 15 12 = df ∧ bits v 47 32 = n ∧ bits v 4 0 = va ∧ bits v 63 48 = 0 ∧ bits v 31 17 = 0 ∧ bits v 7 5 = 0 := by
  have hb : b2n b ≤ 1 := by cases b <;> decide
  generalize b2n b = c at *
  simp only [bits, Nat.shiftRight_eq_div_pow]
  omega

/-- The registers of a source of `n` elements (R189). -/
theorem sourceRegs_eq (m : Nat) :
    (if (m + 4095) / 4096 ≤ 1 then 1 else if ((m + 4095) / 4096 == 2) = true then 2 else 4) =
      if m ≤ 4096 then 1 else if m ≤ 8192 then 2 else 4 := by
  simp only [beq_iff_eq]
  split_ifs <;> omega

theorem vqcvt_completes {s : State} {x y : XReg} {d : Fin 16} {n st df va sc sw regs : Nat} (hf : VFlows (.vqcvt x y d) s)
    (hx : readNat s x = va + 2 ^ 8 * st + 2 ^ 12 * df + 2 ^ 16 * b2n (bit (readNat s x) 16) + 2 ^ 32 * n) (hst : st ≤ 1)
    (hdf : df ∈ [2, 3, 6, 7, 12]) (hsw : sw = if st = 0 then 32 else 16)
    (hregs : regs = if n * sw ≤ 4096 then 1 else if n * sw ≤ 8192 then 2 else 4) (hpos : 0 < n) (hn1 : n ≤ 16384 / sw)
    (hn2 : n ≤ 4096 / fmtWidth df) (hva : va < 32) (hal : va % regs = 0) (hsc : sc = bits (readNat s y) 31 0)
    (hgiven : bit (readNat s x) 16 = false → bits (readNat s y) 63 32 = 0 ∧ finite32 sc = true ∧ 0 < valueKey fmtF32 sc) :
    let xs := (List.range n).map (fun j =>
      let c := elem sw (readV s (vreg (va + j / (4096 / sw)))) (j % (4096 / sw))
      if st = 0 then c else bf16ToF32 c)
    let r := quantBlock df (vround s) (bit (readNat s x) 16) sc xs
    Completes (.vqcvt x y d) s (vxResults s (12 + 4 * (regs - 1)) [(.v (pairReg d), r.1), (.v (vreg ((pairReg d).val + 1)), r.2.1)] r.2.2 0) := by
  have hdf16 : df < 16 := by simp only [List.mem_cons, List.not_mem_nil, or_false] at hdf; omega
  have hn16 : n < 2 ^ 16 := by
    have : 16384 / sw ≤ 1024 := by subst hsw; split <;> omega
    omega
  obtain ⟨f1, f2, f3, f4, f5, f6, f7⟩ := vqcvt_fields hx hva hst hdf16 hn16
  refine vsyl_completes hf ?_
  simp only [readNat] at *
  have hbad1 : (bits (readX s x).toNat 63 48 != 0 || bits (readX s x).toNat 31 17 != 0 || bits (readX s x).toNat 7 5 != 0 || decide (1 < st) ||
      !([2, 3, 6, 7, 12] : List Nat).contains df || n == 0 || decide (min (4 * 4096 / sw) (4096 / fmtWidth df) < n) || va % regs != 0) = false := by
    have hmin : ¬ min (4 * 4096 / sw) (4096 / fmtWidth df) < n := by simp only [Nat.not_lt, le_min_iff]; exact ⟨hn1, hn2⟩
    have h0 : n ≠ 0 := by omega
    have h1 : ¬ 1 < st := by omega
    simp [f5, f6, f7, hal, hmin, h0, h1, -List.contains_eq_mem, List.contains_iff_mem.2 hdf]
  have hbad2 : (!bit (readX s x).toNat 16 && (bits (readX s y).toNat 63 32 != 0 || !finite32 sc || decide (valueKey fmtF32 sc ≤ 0))) = false := by
    cases hb : bit (readX s x).toNat 16 with
    | true => rfl
    | false =>
      obtain ⟨h1, h2, h3⟩ := hgiven hb
      simp [h1, h2, h3]
  have hsw' : (if (st == 0) = true then 32 else 16) = sw := by simp [hsw]
  have hsrc (c : Nat) : (if (st == 0) = true then c else bf16ToF32 c) = if st = 0 then c else bf16ToF32 c := by simp
  rw [f1, f2, f3, f4, hsw', sourceRegs_eq, ← hregs, hbad1, ← hsc, hbad2]
  simp only [hsrc]
  rfl

/-- The fields of the operand word of `VDQCVT` (R190). -/
theorem vdqcvt_fields {v va st sp : Nat} (hv : v = va + 2 ^ 8 * st + 2 ^ 12 * sp) (hva : va < 32) (hst : st ≤ 1) (hsp : sp ≤ 2) :
    bits v 4 0 = va ∧ bits v 11 8 = st ∧ bits v 13 12 = sp ∧ bits v 63 14 = 0 ∧ bits v 7 5 = 0 := by
  simp only [bits, Nat.shiftRight_eq_div_pow]
  omega

theorem vdqcvt_completes {s : State} {x : XReg} {d : VReg} {va st sp fmt cnt t data dw : Nat} (hf : VFlows (.vdqcvt x d) s)
    (hx : readNat s x = va + 2 ^ 8 * st + 2 ^ 12 * sp) (hva : va < 32) (heven : va % 2 = 0) (hst : st ≤ 1) (hsp : sp ≤ 2)
    (hal : d.val % 2 ^ sp = 0) (ht : readV s (vreg (va + 1)) % 2 ^ 256 = t) (hdata : readV s (vreg va) = data)
    (hdw : (if st = 0 then 32 else 16) = dw) (hfmt : fmt = bits t 163 160) (hcnt : cnt = bits t 95 64) (hblock : blockFormat fmt = true)
    (hres : bits t 255 164 = 0) (hsat : bits t 63 32 ≤ cnt) (hlen : dataLen cnt fmt ≤ 512) (hspan : cnt ≤ 2 ^ sp * (4096 / dw)) :
    Completes (.vdqcvt x d) s (vxResults s (8 + 4 * (2 ^ sp - 1))
      ((List.range (2 ^ sp)).map (fun r => (Dest.v (vreg (d.val + r)), packElems dw ((List.range (4096 / dw)).map (fun p =>
        let j := r * (4096 / dw) + p
        if j < cnt ∧ ¬(fmt = 12 ∧ s4oPlus data j = true)
        then (encodeFp (if st = 0 then fmtF32 else fmtBf16) (vround s) (mulFp (blockValue fmt data j) (decodeFp fmtF32 (bits t 127 96)))).1 else 0)))))
      0 (if fmt = 12 then absentPairs data cnt else 0)) := by
  obtain ⟨f1, f2, f3, f4, f5⟩ := vdqcvt_fields hx hva hst hsp
  have hbad1 : (bits (readX s x).toNat 63 14 != 0 || bits (readX s x).toNat 7 5 != 0 || va % 2 != 0 || decide (1 < st) || sp == 3 ||
      d.val % 2 ^ sp != 0) = false := by
    have h1 : ¬ 1 < st := by omega
    have h3 : sp ≠ 3 := by omega
    dsimp only [readNat] at f4 f5
    simp [f4, f5, heven, h1, h3, hal]
  have hdw' : (if (st == 0) = true then 32 else 16) = dw := by simp [hdw]
  have hbad2 : (!blockFormat fmt || bits t 255 164 != 0 || decide (cnt < bits t 63 32) || decide (512 < dataLen cnt fmt) ||
      decide (2 ^ sp * (4096 / dw) < cnt)) = false := by
    simp [hblock, hres, hsat, hlen, hspan]
  have hto : (if (st == 0) = true then fmtF32 else fmtBf16) = if st = 0 then fmtF32 else fmtBf16 := by simp
  have habsent : (if (fmt == 12) = true then absentPairs data cnt else 0) = if fmt = 12 then absentPairs data cnt else 0 := by simp
  have hin (j a : Nat) : (if (decide (j < cnt) && !(fmt == 12 && s4oPlus data j)) = true then a else 0) =
      if j < cnt ∧ ¬(fmt = 12 ∧ s4oPlus data j = true) then a else 0 := by
    by_cases h12 : fmt = 12 <;> simp [h12]
  refine vsyl_completes hf ?_
  dsimp only [readNat] at *
  rw [f1, f2, f3, hbad1, hdw', ht, hdata, ← hfmt, ← hcnt, hbad2, hto, habsent]
  simp only [hin]
  rfl

/-- Settles O35: the operand words by their fields, the block by its trailer. -/
theorem quantisation : Obligations.Quantisation :=
  fun _ _ => ⟨fun _ _ _ _ _ _ _ _ _ hf hx hst hdf hsw hregs hpos h1 h2 hva hal hsc hgiven =>
    vqcvt_completes hf hx hst hdf hsw hregs hpos h1 h2 hva hal hsc hgiven,
    fun _ _ _ _ _ _ hf hx hva heven hst hsp hal => vdqcvt_completes hf hx hva heven hst hsp hal rfl rfl rfl⟩

end Sys2Proof.Machine
end

section
/-!
SUPPORT. Draining a statistics register, and its images (R198, R201, R209, R210).
-/
namespace Sys2Proof.Machine
open Sys2Proof
set_option Elab.async false -- proofs one at a time: the check of the whole text is near its memory limit

/-! ### Draining -/

theorem packElems_replicate_zero (w n : Nat) : packElems w (List.replicate n 0) = 0 := by
  induction n with
  | zero => rfl
  | succ n ih => simp [List.replicate_succ, packElems, ih]

/-- The image of an empty register is zero. -/
theorem planar_empty (n : Nat) : planar (List.replicate n .empty) = 0 := by
  simp only [planar, List.map_replicate, Triple.empty, packElems_replicate_zero, Nat.zero_mul, Nat.add_zero]

theorem lanesOf_zipIdx_map {β : Type} (s : State) (g : GReg) (f : Triple × Nat → β) :
    (lanesOf s g).zipIdx.map f = (List.range 128).map (fun i => f (laneOf s.core.g[g] i, i)) := by
  refine List.ext_getElem (by simp [lanesOf]) fun i _ _ => ?_
  simp only [lanesOf, List.getElem_map, List.getElem_zipIdx, List.getElem_range, Nat.zero_add]

/-- A drain leaves its vector results, and with `.clr` the empty register. -/
theorem gdrain_completes {s : State} {g : GReg} {v : VReg} {w : XReg} {c : Bool} {m : DrainMode} (h : VFlows (.gdrain g v w c m) s) :
    Completes (.gdrain g v w c m) s
      (let t := (drainResults s g v (bits (readNat s w) 31 0) m).foldl (fun acc r => (pend acc r.1 (some r.2) .clean (some (drainClocks m))).1) s
       if c then (pend t (.g g) (some 0) .clean (some (drainClocks m))).1 else t) := by
  refine vsyl_completes h ?_
  simp only [pendStat, planar_empty]

/-! ### Images -/

theorem stampDo_stamped (s : State) (d : QsDo) : Stamped s (stampDo s d) := by
  cases d with
  | read us =>
    unfold stampDo
    dsimp only
    induction us generalizing s with
    | nil => exact .refl s
    | cons u us ih => exact (stampOc_stamped s _ _ _).trans (ih _)
  | write us p => exact stampDo_stamped_of_write s us p
  | amo => exact stampOc_stamped _ _ _ _
  | _ => exact .refl s

theorem askQs_requests (s : State) (q : QsReq) : (askQs s q).core.vu.qs = s.core.vu.qs ++ [q] := by
  have key : ∀ (l : List (BitVec 32 × QsDo)) (s : State), Stamped s (l.foldl (fun s p => stampDo s p.2) s) := by
    intro l
    induction l with
    | nil => exact fun s => .refl s
    | cons p l ih => exact fun s => (stampDo_stamped s p.2).trans (ih _)
  simp only [askQs, onVu, onCore_core]
  rw [(key q.parts s).eq]

theorem granulesOf_sub {a n b k x : Nat} (h : x ∈ granulesOf b k) (h0 : a ≤ b) (h1 : b + k ≤ a + n) : x ∈ granulesOf a n := by
  simp only [granulesOf, List.mem_map, List.mem_range] at h ⊢
  obtain ⟨i, hi, rfl⟩ := h
  exact ⟨b / 4096 + i - a / 4096, by omega, by omega⟩

/-- Every plane of an image that lies in one legal range passes its check. -/
theorem imageAccess_ok {s : State} {q wr : Bool} {a : Word} {k : State → Nat → Eff} (h : LocalOk s (b2n q) (a.toNat : Int) 1536 512)
    (ht : wr = true → ∀ j, j < 3 → meetsTag s (localBase (b2n q) + a.toNat + 512 * j) 512 = false) :
    imageAccess s q a wr k = k s (localBase (b2n q) + a.toNat) := by
  obtain ⟨h0, h1, hal, hown⟩ := h
  have hbase : (if q then qsBase else lsBase) = localBase (b2n q) := by cases q <;> rfl
  have hsize : (if q then 0x400000 else 0x100000) = localSize (b2n q) := by cases q <;> rfl
  have hc (j : Nat) (hj : j < 3) : localCheck s (localBase (b2n q)) (localSize (b2n q)) ((a.toNat + 512 * j : Nat) : Int) 512 wr =
      .ok s (.oc (localBase (b2n q) + (a.toNat + 512 * j))) := by
    refine localCheck_ok (by omega) (by omega) (fun g hg => hown g (granulesOf_sub hg ?_ ?_)) (fun hw => ?_)
    · rw [Int.toNat_natCast, Int.toNat_natCast]; omega
    · rw [Int.toNat_natCast, Int.toNat_natCast]; omega
    · rw [Int.toNat_natCast, ← Nat.add_assoc]; exact ht hw j hj
  have h512 : a.toNat % 512 = 0 := by omega
  have hin : ¬ localSize (b2n q) < a.toNat + 1536 := by omega
  simp only [imageAccess, hbase, hsize, h512, bne_self_eq_false, Bool.false_eq_true, if_false, hin, List.range_succ, List.range_zero,
    List.nil_append, List.cons_append, List.foldl_cons, List.foldl_nil, Acc.bind, hc 0 (by decide), hc 1 (by decide), hc 2 (by decide)]

/-- Settles O38: the drains by their modes, and the images by their checks and their three requests. -/
theorem statisticsDrainsAndImages : Obligations.StatisticsDrainsAndImages := by
  refine ⟨fun s g v w c m h => ?_, fun s g b q hok => ⟨fun h => ?_, fun h ht => ?_⟩, fun s id n a f => ⟨?_, rfl, fun q m d e k l hp => ?_⟩⟩
  · have hd := gdrain_completes h
    cases m with
    | norm =>
      simp only [drainResults, lanesOf_zipIdx_map] at hd
      exact hd
    | raw => exact hd
    | mean => exact hd
    | var => exact hd
    | svar => exact hd
    | rstd => exact hd
  · exact vsyl_completes h (imageAccess_ok hok (by simp))
  · exact vsyl_completes h (imageAccess_ok hok (fun _ => ht))
  · exact askQs_requests s _
  · refine ⟨{ (performGrant s q d).2 with parts := (k, e) :: l }, ?_, rfl, rfl, rfl⟩
    simp only [serveQs, hp, List.isEmpty_cons, Bool.false_eq_true, if_false]

end Sys2Proof.Machine
end

section
/-!
SUPPORT. The matrix syllables and the elements of a product (R82, R83, R214 to R235).
-/
namespace Sys2Proof.Machine
open Sys2Proof
set_option Elab.async false -- proofs one at a time: the check of the whole text is near its memory limit

/-! ### Operands -/

/-- A checked and aligned read runs its continuation, whether or not each sector is checked. -/
theorem memAccess_read {s t : State} {sp n al : Nat} {a : Int} {p : Place} {k : State → Place → Int → Eff} {each : Bool}
    (hc : coreCheck s sp a n { rd := true } each = .ok t p) (ha : a % (al : Int) = 0) :
    memAccess s sp (.ok a) n al { rd := true } k each = k t p a := by
  simp only [memAccess, hc, ha, bne_self_eq_false, Bool.and_false, Bool.false_eq_true, if_false]
  cases p <;> rfl

theorem exec_of_mmaOf {i : Instr} {k : MxKind} {sp : Nat} {t : Tile} {a b : XReg} {f : ElemTy} {w z : Bool}
    (h : mmaOf i = some (k, sp, t, a, b, f, w, z)) (s : State) : exec i s = mmaIssue i k sp t a b f w z s := by
  unfold mmaOf at h
  split at h <;> simp only [Option.some.injEq, Prod.mk.injEq, reduceCtorEq] at h <;> obtain ⟨rfl, rfl, rfl, rfl, rfl, rfl, rfl, rfl⟩ := h <;> rfl

/-- A legal read of LS by a syllable: the bytes, and the state that the read leaves. -/
theorem memAccess_lsRead {s : State} {a n : Nat} {k : State → Place → Int → Eff} (h : LocalOk s 0 (a : Int) n 512) :
    memAccess s 0 (.ok (a : Int)) n 512 { rd := true } k = k s (.oc (0x1000000000 + a)) a := by
  obtain ⟨h0, h1, hal, hown⟩ := h
  exact memAccess_local ((coreCheck_local (by decide)).trans (localCheck_ok h0 h1 hown (by simp))) hal

theorem Looked.mx {s t : State} (h : Looked s t) : t.core.mx = s.core.mx := by rw [h.eq]

/-- The checks of a drain pass (R225). -/
theorem drainCheck_ok {s : State} {x : Word} {n : Nat} {bias : Option Nat} (h : LocalStoreOk s 0 (x.toNat : Int) n 512)
    (hb : ∀ b, bias = some b → LocalOk s 0 (b : Int) 512 512) : drainCheck s x n bias = .ok s () := by
  obtain ⟨⟨h0, h1, hal, hown⟩, ht⟩ := h
  have hread : localCheck s lsBase 0x100000 (x.toNat : Int) n false = .ok s (.oc (lsBase + (x.toNat : Int).toNat)) :=
    localCheck_ok h0 h1 hown (by simp)
  have hwrite : localCheck s lsBase 0x100000 (x.toNat : Int) n true = .ok s (.oc (lsBase + (x.toNat : Int).toNat)) :=
    localCheck_ok h0 h1 hown (fun _ => ht)
  have hmod : x.toNat % 512 = 0 := by omega
  cases bias with
  | none => simp [drainCheck, hread, hwrite, Acc.bind, hmod]
  | some b =>
    obtain ⟨k0, k1, -, kown⟩ := hb b rfl
    have hbias : localCheck s lsBase 0x100000 (b : Int) 512 false = .ok s (.oc (lsBase + (b : Int).toNat)) :=
      localCheck_ok k0 k1 kown (by simp)
    simp only [drainCheck, hread, hwrite, hbias, Acc.bind, hmod, bne_self_eq_false, Bool.false_eq_true, if_false]

/-- An accepted operation stands at the tail of its queue. -/
theorem mxAccept_queues (s : State) (array writes : Bool) (o : MxOp) :
    (mxAccept s array writes o).core.mx.order = s.core.mx.order + 1 ∧
    mxQueue (mxAccept s array writes o).core.mx array = mxQueue s.core.mx array ++ [{ o with issued := s.clock, order := s.core.mx.order }] ∧
    mxQueue (mxAccept s array writes o).core.mx (!array) = mxQueue s.core.mx !array := by
  cases array <;> exact ⟨rfl, rfl, rfl⟩

theorem selectorBad_of_lt {s : State} {b : XReg} (h : readNat s b < 128) : selectorBad (readX s b) = false :=
  decide_eq_false (Nat.not_le.2 h)

theorem selectorBad_of_le {s : State} {b : XReg} (h : 128 ≤ readNat s b) : selectorBad (readX s b) = true := decide_eq_true h

/-- What a drain leaves of its bias and its statistics register, before it is accepted. -/
theorem drain_operands (s : State) (b : Nat) (g : GReg) (j h : Bool) :
    ∃ u : State, let r := if h then placeRead s (.oc (lsBase + b)) 512 false (coreViewer s) else (s, [], false)
      u = (if j then (pend r.1 (.g g) none .clean none).1 else r.1) ∧
      u.oc = s.oc ∧ u.core.mx = s.core.mx ∧ RegistersKept s u [] ∧
      u.core.board = s.core.board ++ (if j then [{ id := s.core.nextId, dst := .g g, val := none, due := none }] else []) ∧
      leNat r.2.1 = if h then leNat (s.oc.read (0x1000000000 + b) 512) else 0 := by
  have key : ∃ (t : State) (l : List Byte) (p : Bool),
      (if h then placeRead s (.oc (lsBase + b)) 512 false (coreViewer s) else (s, [], false)) = (t, l, p) ∧ Looked s t ∧
      leNat l = if h then leNat (s.oc.read (0x1000000000 + b) 512) else 0 := by
    cases h
    · exact ⟨s, [], false, rfl, .refl s, rfl⟩
    · obtain ⟨t, ht, hr⟩ := placeRead_oc s (lsBase + b) 512 (coreViewer s)
      exact ⟨t, _, _, hr, ht, rfl⟩
  obtain ⟨t, l, p, hr, ht, hl⟩ := key
  refine ⟨_, rfl, ?_⟩
  simp only [hr]
  cases j
  · simp only [Bool.false_eq_true, if_false, List.append_nil]
    exact ⟨ht.oc, ht.mx, ht.registers [], by rw [ht.eq], hl⟩
  · simp only [if_true]
    have hreg : RegistersKept s (pend t (.g g) none .clean none).1 [] := by rw [ht.eq]; exact .of_eq rfl rfl rfl rfl rfl
    exact ⟨ht.oc, ht.mx, hreg, by rw [ht.eq]; rfl, hl⟩

/-- Settles O39, syllable by syllable. -/
theorem matrixOperations : Obligations.MatrixOperations := by
  refine fun s => ⟨fun i k sp t a b f w z u p hi hf hb ha hc => ?_, fun i k sp t a b f w z hi hf hb => ?_, fun t hf => ?_,
    fun t a f hf hok => ?_, fun a b f c hf hb hok => ?_, fun a b f c o bad hf hchk => ⟨fun ht => ?_, fun ht hbad => ?_, fun ht hbad => ?_⟩,
    fun t a b f q j h hf hbits hfin hmark hok hbias => ?_, mxAccept_queues s⟩
  · rw [Completes, exec_of_mmaOf hi, mmaIssue]
    refine syl_completes hf ?_
    dsimp only
    rw [selectorBad_of_lt hb, if_neg Bool.false_ne_true]
    exact memAccess_read hc (by exact_mod_cast ha)
  · rw [Traps, exec_of_mmaOf hi, mmaIssue, syl_flows hf]
    dsimp only
    rw [selectorBad_of_le hb, if_pos rfl, badOperand, settle_trap]
  · exact syl_completes hf rfl
  · have hn : (if (f == .bf16) = true then 16384 else 32768) = if f = .bf16 then 16384 else 32768 := by simp
    obtain ⟨u, hu, hr⟩ := placeRead_oc s (0x1000000000 + readNat s a) (if f = .bf16 then 16384 else 32768) (coreViewer s)
    refine ⟨u, hu.oc, hu.mx, hu.registers [], syl_completes hf ?_⟩
    dsimp only
    rw [hn]
    refine (memAccess_lsRead hok).trans ?_
    simp only [hr]
    rfl
  · intro bytes tr bad hchk
    have hsel := selectorBad_of_lt hb
    obtain ⟨u, hu, hr⟩ := placeRead_oc s (0x1000000000 + readNat s a) (if c then 32800 else 32768) (coreViewer s)
    refine ⟨u, hu.oc, hu.mx, hu.registers [], fun hc => ?_, fun hc => ?_⟩
    · subst hc
      refine syl_completes hf ?_
      simp only [hchk, hsel, Bool.false_eq_true, if_false] at hr ⊢
      refine (memAccess_lsRead hok).trans ?_
      simp only [hr]
      rfl
    · subst hc
      refine syl_waits hf ?_
      simp only [hchk, hsel, Bool.false_eq_true, if_false, if_true] at hr ⊢
      refine (memAccess_lsRead hok).trans ?_
      simp only [hr, hu.mx]
      rfl
  · refine syl_waits hf ?_
    simp only [hchk, ht, if_true]
  · refine syl_completes hf ?_
    simp only [hchk, ht, hbad, Bool.false_eq_true, if_false]
  · refine (syl_flows hf).trans ?_
    simp only [hchk, ht, hbad, Bool.false_eq_true, if_false, if_true, settle_trap]
    rfl
  · obtain ⟨u, hu, hoc, hmx, hreg, hboard, hblock⟩ := drain_operands s (bits (readX s b).toNat 50 40 * 512) (drainReg (readX s b)) j h
    refine ⟨u, hoc, hmx, hreg, hboard, syl_completes hf ?_⟩
    have hgood : (bits (readX s b).toNat 63 51 != 0 || bit (readX s b).toNat 39 && !finite32 (bits (readX s b).toNat 31 0)) = false := by
      have hbits' : bits (readX s b).toNat 63 51 = 0 := hbits
      cases h39 : bit (readX s b).toNat 39
      · simp [hbits']
      · have hfin' : finite32 (bits (readX s b).toNat 31 0) = true := hfin h39
        simp [hbits', hfin']
    have hclean : (if j = true then s.core.gmark[drainReg (readX s b)] else .clean) = .clean := by
      cases j
      · rfl
      · exact hmark rfl
    have hcheck : drainCheck s (readX s a) (1024 * f.width) (if h then some (bits (readX s b).toNat 50 40 * 512) else none) = .ok s () := by
      refine drainCheck_ok hok fun bb hbb => ?_
      cases h
      · simp at hbb
      · obtain rfl : bits (readX s b).toNat 50 40 * 512 = bb := by simpa using hbb
        exact hbias rfl
    dsimp only
    rw [hgood, if_neg Bool.false_ne_true, hclean]
    dsimp only
    rw [hcheck]
    dsimp only at hu hblock ⊢
    rw [← hu, hblock]
    rfl

/-! ### Waits, status and perturbation -/

/-- The operand of MPERT: a row and a column, and nothing else (R235). -/
theorem pertOperand_legal {x : Word} {r c : Nat} (hr : r < 64) (hc : c < 128) (hx : x.toNat = r + 2 ^ 8 * c) :
    x &&& ~~~0x7F3F = 0 ∧ bits x.toNat 5 0 = r ∧ bits x.toNat 14 8 = c := by
  refine ⟨?_, ?_, ?_⟩
  · refine BitVec.eq_of_getLsbD_eq fun k hk => ?_
    have hbit : x.getLsbD k = if k < 8 then r.testBit k else c.testBit (k - 8) := by
      rw [BitVec.getLsbD, hx, Nat.add_comm, Nat.testBit_two_pow_mul_add c (by omega)]
    have hr' (h : 6 ≤ k) : r.testBit k = false := Nat.testBit_lt_two_pow (hr.trans_le (Nat.pow_le_pow_right (n := 2) (by decide) h))
    have hc' (h : 15 ≤ k) : c.testBit (k - 8) = false := Nat.testBit_lt_two_pow (hc.trans_le (Nat.pow_le_pow_right (n := 2) (i := 7) (by decide) (by omega)))
    rw [BitVec.getLsbD_and, hbit]
    by_cases h8 : k < 8
    · by_cases h6 : 6 ≤ k
      · simp [h8, hr' h6]
      · interval_cases k <;> simp
    · by_cases h7 : 15 ≤ k
      · simp [h8, hc' h7]
      · interval_cases k <;> simp
  · rw [hx]; simp [bits]; omega
  · rw [hx]; simp [bits]; omega

/-- Settles O40, syllable by syllable. -/
theorem matrixWaits : Obligations.MatrixWaits := by
  refine fun s => ⟨fun t r l hf => ⟨fun hidle hsteps => ?_, fun hnot => ?_⟩, fun d e hf hd => ?_, fun t a b => ⟨fun hf => ?_, fun r c hf hr hc ha hb => ?_⟩⟩
  · refine syl_completes hf ?_
    have hall : (!r || s.core.mx.array.all (stepsTaken s)) = true := by
      cases r
      · rfl
      · simpa using hsteps rfl
    simp only [hidle, hall, Bool.and_self, if_true]
  · refine syl_waitFor 0 rfl hf ?_
    have hno : ((if l then mxIdle s else !tileBusy s t.val) && (!r || s.core.mx.array.all (stepsTaken s))) = false := by
      rcases hnot with h | ⟨hr, h⟩
      · rw [h, Bool.false_and]
      · rw [hr, h, Bool.not_true, Bool.or_self, Bool.and_false]
    simp only [hno, Bool.false_eq_true, if_false]
  · exact syl_completes hf (guardPush_ok hd)
  · exact syl_completes hf rfl
  · obtain ⟨hmask, hrow, hcol⟩ := pertOperand_legal (x := readX s a) hr hc ha
    have hval : bits (readX s b).toNat 63 32 = 0 := by
      have hlt : (readX s b).toNat < 2 ^ 32 := hb
      rw [bits, Nat.shiftRight_eq_div_pow, Nat.div_eq_of_lt hlt, Nat.zero_mod]
    refine syl_completes hf ?_
    simp only [Bool.false_eq_true, if_false, hmask, hval, bne_self_eq_false, hrow, hcol]
    rfl

/-! ### The elements of a product -/

theorem foldl_add_int (l : List Nat) (f : Nat → Int) (c : Int) : l.foldl (fun a k => a + f k) c = c + (l.map f).sum := by
  induction l generalizing c with
  | nil => simp
  | cons k l ih => rw [List.foldl_cons, ih, List.map_cons, List.sum_cons, Int.add_assoc]

/-- A tile reads back the words that were set (R214). -/
theorem elem_tileGet_tileSet {s : State} (hwf : s.oc.wf = true) (t : Nat) {l : List Nat} (hl : l.length = 8192) (p : Bool) (e : Nat) :
    elem 32 (tileGet (tileSet s t l p) t) e = ((l[e]?).getD 0) % 2 ^ 32 := by
  have hread : tileGet (tileSet s t l p) t = packElems 32 l % 256 ^ 32768 := by
    have h := Mem.read_write hwf (tileAddr t) (leBytes 32768 (packElems 32 l))
    rw [leBytes_length] at h
    rw [← leNat_leBytes, ← h]
    rfl
  have hlt : packElems 32 l < 256 ^ 32768 := by
    refine (packElems_lt 32 l).trans_eq ?_
    rw [hl, show (256 : Nat) = 2 ^ 8 from rfl, ← pow_mul]
  rw [hread, Nat.mod_eq_of_lt hlt, elem_packElems]

/-- Settles O41, by format, and the tile by its elements. -/
theorem matrixElements : Obligations.MatrixElements := by
  refine fun o mx c i j => ⟨fun hint => ?_, fun hf hw => ?_, fun g hg => ?_, fun s hwf hmx hpert e he => ?_⟩
  · simp only [mmaElem, hint, Bool.false_eq_true, if_false, foldl_add_int]
    rfl
  · simp only [mmaElem, hf, hw]
    rfl
  · have hmix : mixFmt o.fmt o.w = g := by rcases hg with ⟨hf, rfl⟩ | ⟨hf, rfl⟩ <;> cases hw : o.w <;> simp [mixFmt, hf]
    have hfl : o.fmt.isFloat = true := by rcases hg with ⟨hf, -⟩ | ⟨hf, -⟩ <;> rw [hf] <;> rfl
    have hstep (c : Nat) (prod : Nat → Fp) (st : Nat) : stepFp o.fmt c prod st =
        rF32 .rne (addFp .rne (dF32 c) (addFp .rne (prod (2 * st)) (prod (2 * st + 1)))) := by
      rcases hg with ⟨hf, -⟩ | ⟨hf, -⟩ <;> rw [hf] <;> rfl
    have hwa : o.fmt.width = 8 := by rcases hg with ⟨hf, -⟩ | ⟨hf, -⟩ <;> rw [hf] <;> rfl
    have hwb : g.width = 8 := by rcases hg with ⟨-, rfl⟩ | ⟨-, rfl⟩ <;> cases o.w <;> rfl
    simp only [mmaElem, hfl, if_true, hstep, blockFp, bFp, hmix, hwa, hwb]
    rfl
  · have hnone : (tileSet s o.tile ((List.range 8192).map (fun n => mmaElem o s.core.mx (if o.z then 0 else elem 32 (tileGet s o.tile) n) (n / 128) (n % 128)))
        (o.poison || s.core.mx.panelPoison.getLsbD o.panel || (!o.z && s.core.mx.tilePoison.getLsbD o.tile))).core.mx.pert = none :=
      (congrArg Matrix.pert hmx).trans hpert
    rw [arrayResult, perturb, hnone]
    dsimp only
    rw [elem_tileGet_tileSet hwf _ (by simp), List.getElem?_map, List.getElem?_range he, hmx]
    rfl

end Sys2Proof.Machine
end

section
/-!
SUPPORT. Engine registers (R246, R278, R302, R317) and barrier words (R247 to R252).
-/
namespace Sys2Proof.Machine
open Sys2Proof
set_option Elab.async false -- proofs one at a time: the check of the whole text is near its memory limit

/-! ### Engine registers -/

theorem lookupD_storeAt_same {α : Type} (l : List (Nat × α)) (k : Nat) (v d : α) : lookupD (storeAt l k v) k d = v := by
  induction l with
  | nil => simp [storeAt, lookupD]
  | cons p l ih =>
    obtain ⟨a, w⟩ := p
    unfold storeAt
    split
    · simp [lookupD]
    · split
      · simp [lookupD]
      · next h => rw [lookupD, if_neg (Ne.symm h), ih]

theorem eregGet_eregSet (s : State) (e n : Nat) (v : Word) : eregGet (eregSet s e n v) e n = v :=
  lookupD_storeAt_same _ _ _ _

theorem chanOf_setChan (s : State) (k : Nat) (c : Channel) : chanOf (setChan s k c) k = c := lookupD_storeAt_same _ _ _ _

theorem engineOk_of_lt {s : State} {a : XReg} (h : readNat s a < 84) : engineOk (readX s a) = true := decide_eq_true h

theorem engineOk_of_le {s : State} {a : XReg} (h : 84 ≤ readNat s a) : engineOk (readX s a) = false := decide_eq_false (Nat.not_lt.2 h)

/-- Arming a channel of the block-transfer engine: the shadow set is a command at the tail of its queue (R246). -/
theorem armEngine_channel {s : State} {e : Nat} (he : e < 64) : armEngine s e =
    let t := bteAccept { s with bte := { s.bte with armed := insertKey e s.bte.armed } } e 0 0 true
    if (chanOf s e).queue = [] ∧ (chanOf s e).active = none ∧ (chanOf s e).post = [] then bteStart t e else t := by
  have hidle : ((chanOf s e).queue.isEmpty && (chanOf s e).active.isNone && (chanOf s e).post.isEmpty) =
      decide ((chanOf s e).queue = [] ∧ (chanOf s e).active = none ∧ (chanOf s e).post = []) := by
    rw [Bool.eq_iff_iff]
    simp [and_assoc]
  have hchan : chanOf { s with bte := { s.bte with armed := insertKey e s.bte.armed } } e = chanOf s e := rfl
  unfold armEngine
  simp only [he, if_true, hchan, hidle, decide_eq_true_eq]

/-- Settles O42, syllable by syllable. -/
theorem engineRegisters : Obligations.EngineRegisters := by
  refine fun s a b d => ⟨fun n hf => ⟨fun ha => ?_, fun ha => ?_⟩, fun n hf ha hd => ?_, fun hf ha => ?_, fun e he => ⟨rfl, rfl, ?_, ?_⟩,
    eregGet_eregSet s⟩
  · exact syl_completes hf (by simp only [engineOk_of_lt ha, Bool.not_true, Bool.false_eq_true, if_false]; rfl)
  · refine (syl_flows hf).trans ?_
    simp only [engineOk_of_le ha, Bool.not_false, if_true, badOperand, settle_trap]
  · refine syl_completes hf ?_
    simp only [engineOk_of_lt ha, Bool.not_true, Bool.false_eq_true, if_false]
    exact guardPush_ok hd
  · exact syl_completes hf (by simp only [engineOk_of_lt ha, Bool.not_true, Bool.false_eq_true, if_false]; rfl)
  · exact congrArg Channel.queue (chanOf_setChan _ _ _)
  · exact armEngine_channel he

/-! ### Barrier words -/

/-- The check of a legal barrier word passes (R249). -/
theorem barrierCheck_ok {s : State} {a : XReg} {q : Bool} {k : State → Nat → Eff} (h : BarrierOk s q (readNat s a)) :
    barrierCheck s (readX s a) q k = k s (localOc q (readNat s a)) := by
  obtain ⟨h0, h1, hal, hown⟩ : LocalOk s (b2n q) ((readX s a).toNat : Int) 16 16 := h
  have hbase : (if q then qsBase else lsBase) = localBase (b2n q) := by cases q <;> rfl
  have hoc : localOc q (readNat s a) = localBase (b2n q) + (readX s a).toNat := congrArg (· + (readX s a).toNat) hbase
  have hsize : (if q then 0x400000 else 0x100000) = localSize (b2n q) := by cases q <;> rfl
  have hc : localCheck s (localBase (b2n q)) (localSize (b2n q)) ((readX s a).toNat : Int) 16 false =
      .ok s (.oc (localBase (b2n q) + ((readX s a).toNat : Int).toNat)) := localCheck_ok h0 h1 hown (by simp)
  have hmod : (readX s a).toNat % 16 = 0 := by exact_mod_cast hal
  unfold barrierCheck
  dsimp only
  rw [hoc, hbase, hsize, hc]
  dsimp only
  rw [hmod]
  rfl

theorem liveCheck_ok {s : State} {a : XReg} {q : Bool} {k : State → Nat → Eff} (h : BarrierOk s q (readNat s a))
    (hl : barrierLive s (localOc q (readNat s a)) = true) : liveCheck s (readX s a) q k = k s (localOc q (readNat s a)) := by
  rw [liveCheck, barrierCheck_ok h, if_pos hl]

theorem nat_bne_eq_decide (a b : Nat) : (a != b) = decide (a ≠ b) := by rw [Bool.eq_iff_iff]; simp

theorem bits_low4 (v : Nat) : bits v 3 0 = v % 16 := by simp [bits]

/-- A register that holds a 36-bit signed count. -/
theorem sext_bits36 {v : Word} {e : Int} (hv : v = BitVec.ofInt 64 e) (h0 : -(2 ^ 35) ≤ e) (h1 : e < 2 ^ 35) : sext (bits v.toNat 35 0) 36 = e := by
  subst hv
  simp only [bits, sext, Nat.shiftRight_zero, BitVec.toNat_ofInt]
  omega

/-- Settles O43, syllable by syllable. -/
theorem barrierSyllables : Obligations.BarrierSyllables := by
  refine fun s a b d q hok => ⟨fun hf hb hl => ?_, fun hf => ?_, fun hf hd hb hl => ?_, fun hf hl hw => ⟨fun hp => ?_, fun hp => ?_⟩,
    fun hf hq hl hw => ?_, fun hf hd hl => ?_, fun e hf hl hb h0 h1 => ?_, fun r x n e => rfl, fun r x ph => ?_, fun w n e => ?_⟩
  · refine syl_completes hf ?_
    have hb' : bits (readX s b).toNat 63 56 = 0 := hb
    simp only [hb', bne_self_eq_false, Bool.and_false, Bool.false_eq_true, if_false]
    rw [barrierCheck_ok hok, hl, if_neg Bool.false_ne_true]
    rfl
  · refine syl_completes hf ?_
    simp only [Bool.not_true, Bool.false_and, Bool.false_eq_true, if_false, if_true]
    exact barrierCheck_ok hok
  · refine syl_completes hf ?_
    have hb' : bits (readX s b).toNat 63 56 = 0 := hb
    simp only [hb', bne_self_eq_false, Bool.false_eq_true, if_false]
    rw [liveCheck_ok hok hl, guardPush_ok hd]
    cases q <;> rfl
  · refine syl_completes hf ?_
    have hq : (q && meetsWaiting s (localOc q (readNat s a)) 16 false) = false := by
      cases q
      · rfl
      · exact hw rfl
    have hp' : (barrierAt s (localOc q (readNat s a))).phase ≠ (readX s b).toNat % 16 := hp
    rw [liveCheck_ok hok hl, bits_low4, hq, if_pos (by simp [hp'])]
  · refine syl_waitFor 0 rfl hf ?_
    rw [liveCheck_ok hok hl, bits_low4, if_neg]
    have hp' : (barrierAt s (localOc q (readNat s a))).phase = (readX s b).toNat % 16 := hp
    simp [hp']
  · subst hq
    refine syl_waitFor 0 rfl hf ?_
    rw [liveCheck_ok hok hl, hw, if_neg (by simp)]
  · refine syl_completes hf ?_
    rw [liveCheck_ok hok hl, guardPush_ok hd, bits_low4]
    simp only [nat_bne_eq_decide]
    cases q <;> rfl
  · have hs := sext_bits36 hb h0 h1
    refine syl_completes hf ?_
    have hv : toWord e = readX s b := hb.symm
    simp only [hs, hv, bne_self_eq_false, Bool.false_eq_true, if_false]
    exact liveCheck_ok hok hl
  · simp only [performGrant, nat_bne_eq_decide]
  · simp only [BarrierWord.update, BarrierWord.check, Bool.and_eq_true, beq_iff_eq]

end Sys2Proof.Machine
end

section
/-!
SUPPORT. Windows, rings and ownership (R253 to R258).
-/
namespace Sys2Proof.Machine
open Sys2Proof
set_option Elab.async false -- proofs one at a time: the check of the whole text is near its memory limit

theorem syl_stalls {i : Instr} {s : State} {body : State → Eff} (hex : exec i s = syl i s body) (hf : Flows i s)
    (hb : body s = .wait s) : Stalls i s :=
  ⟨_, hex.trans (syl_waits hf hb), rfl, rfl, rfl, rfl, rfl, rfl, .of_eq rfl rfl rfl rfl rfl, rfl⟩

/-- A legal range of granules outside every ring is flipped (R258). -/
theorem flipRange_ok {s : State} {a b : Word} {q : Bool} {k : State → List Nat → Eff} (h0 : 0 < b.toNat) (hal : a.toNat % 4096 = 0)
    (hend : a.toNat + b.toNat * 4096 ≤ localSize (b2n q))
    (hring : ∀ g ∈ (List.range b.toNat).map (fun i => (localBase (b2n q) + a.toNat) / 4096 + i), ringOf s.core g = none) :
    flipRange s a b q k = k s ((List.range b.toNat).map (fun i => (localBase (b2n q) + a.toNat) / 4096 + i)) := by
  have hbase : (if q then qsBase else lsBase) = localBase (b2n q) := by cases q <;> rfl
  have hsize : (if q then 1024 else 256) * 4096 = localSize (b2n q) := by cases q <;> rfl
  have hany : ((List.range b.toNat).map (fun i => (localBase (b2n q) + a.toNat) / 4096 + i)).any (fun g => (ringOf s.core g).isSome) = false := by
    rw [List.any_eq_false]
    intro g hg
    simp [hring g hg]
  unfold flipRange
  dsimp only
  rw [hbase, hsize, hal, if_neg (by omega), if_neg (by omega), if_neg (by decide), hany, if_neg Bool.false_ne_true]

/-- The first moment of an OWNC: its flips are asked for, and later bundles are held (R258). -/
theorem ownc_asks {i : Instr} {s : State} {body : State → Eff} {gs : List Nat} {v : Bool} (hex : exec i s = syl i s body) (hf : Flows i s)
    (hb : body s = .wait (onCore { s with bte := { s.bte with flips := some (gs, v) } } (fun c => { c with waiting := some (s.clock, 0) }))) :
    ∃ t, exec i s = .next t ∧ t.bte.flips = some (gs, v) ∧ t.core.held = 1 ∧ t.core.waiting = some (s.clock, 0) ∧ t.core.idx = s.core.idx :=
  ⟨_, hex.trans (syl_waits hf hb), rfl, rfl, rfl, rfl⟩

theorem ringFree_release {s : State} {n : Nat} {b : XReg} (h : readNat s b = 0 ∨ ringInWindow s n = false) :
    ((readX s b).toNat != 0 && ringInWindow s n) = false := by
  rcases h with h | h
  · have h' : (readX s b).toNat = 0 := h
    rw [h', bne_self_eq_false, Bool.false_and]
  · rw [h, Bool.and_false]

/-- Settles O44, syllable by syllable. -/
theorem windowsRingsOwners : Obligations.WindowsRingsOwners := by
  refine fun s a b d => ⟨fun hf hd ha => ⟨fun hw => ?_, fun w hw => ?_⟩, fun hf hd ha => ?_,
    fun hf hd ha => ⟨fun hoff => ?_, fun hon hfree => ⟨fun hr => ?_, fun hr => ?_⟩, fun hon hb hwin => ?_⟩,
    fun q hf => ⟨fun hv hp => ?_, fun hor => ?_⟩, fun q hf hw => ?_,
    fun q h0 hal hend hring => ⟨fun hf => ⟨fun hr => ?_, fun hr => ?_⟩, fun hf hw => ?_⟩,
    fun v q hf hw => ⟨fun hfl => ?_, fun hfl => ?_⟩, fun gs v hfl => ⟨?_, fun g => ?_, ?_⟩, mem_flipTo_true s⟩
  · refine syl_completes hf ?_
    have hin : ¬ 64 ≤ (readX s a).toNat := Nat.not_le.2 ha
    simp only [readNat] at hw
    dsimp only
    rw [if_neg hin, guardPush_ok hd, hw]
  · intro t m v r r'
    have hin : ¬ 64 ≤ (readX s a).toNat := Nat.not_le.2 ha
    simp only [readNat] at hw
    refine ⟨fun hr => syl_completes hf ?_, fun hr => syl_stalls rfl hf ?_⟩
    · dsimp only
      rw [if_neg hin, guardPush_ok hd, hw]
      exact if_neg fun h => Bool.false_ne_true (hr.symm.trans h)
    · dsimp only
      rw [if_neg hin, guardPush_ok hd, hw]
      exact if_pos hr
  · refine syl_completes hf ?_
    have hin : ¬ 64 ≤ (readX s a).toNat := Nat.not_le.2 ha
    dsimp only
    rw [if_neg hin, guardPush_ok hd]
    simp only [readNat]
    cases windowOf s (readX s a).toNat <;> rfl
  · refine syl_completes hf ?_
    have hoff' : ringOn s.core (readX s a).toNat = false := hoff
    have hin : ¬ 16 ≤ (readX s a).toNat := Nat.not_le.2 ha
    dsimp only
    rw [if_neg hin, hoff', Bool.not_false, if_pos rfl, guardPush_ok hd]
  · refine syl_completes hf ?_
    have hon' : ringOn s.core (readX s a).toNat = true := hon
    have hin : ¬ 16 ≤ (readX s a).toNat := Nat.not_le.2 ha
    dsimp only
    rw [if_neg hin, hon', Bool.not_true, if_neg Bool.false_ne_true, ringFree_release (n := (readX s a).toNat) hfree, if_neg Bool.false_ne_true,
      guardPush_ok hd]
    exact if_neg (Bool.eq_false_iff.1 hr)
  · refine syl_stalls rfl hf ?_
    have hon' : ringOn s.core (readX s a).toNat = true := hon
    have hin : ¬ 16 ≤ (readX s a).toNat := Nat.not_le.2 ha
    dsimp only
    rw [if_neg hin, hon', Bool.not_true, if_neg Bool.false_ne_true, ringFree_release (n := (readX s a).toNat) hfree, if_neg Bool.false_ne_true,
      guardPush_ok hd]
    exact if_pos hr
  · refine (syl_flows hf).trans ?_
    have hon' : ringOn s.core (readX s a).toNat = true := hon
    have hwin' : ringInWindow s (readX s a).toNat = true := hwin
    have hb' : ((readX s b).toNat != 0) = true := bne_iff_ne.2 hb
    have hin : ¬ 16 ≤ (readX s a).toNat := Nat.not_le.2 ha
    dsimp only
    rw [if_neg hin, hon', Bool.not_true, if_neg Bool.false_ne_true, hb', hwin', Bool.and_self, if_pos rfl, settle_trap]
  · exact syl_completes hf (by simp only [if_true, hv, hp, Bool.or_self, Bool.false_eq_true, if_false])
  · refine (syl_flows hf).trans ?_
    have hor' : (vbusy s.core || statVectorPending s.core) = true := by simpa using hor
    simp only [if_true, hor', settle_trap]
  · exact ownc_asks rfl hf (by simp only [if_true, hw, Option.isSome_none, Bool.false_eq_true, if_false])
  · refine syl_completes hf ?_
    simp only [Bool.false_eq_true, if_false]
    rw [flipRange_ok h0 hal hend hring]
    have hr' : oweWaits s q (readX s a).toNat (readX s b).toNat = false := hr
    simp only [List.length_map, List.length_range, hr', Bool.false_eq_true, if_false]
    rfl
  · refine syl_stalls rfl hf ?_
    simp only [Bool.false_eq_true, if_false]
    rw [flipRange_ok h0 hal hend hring]
    have hr' : oweWaits s q (readX s a).toNat (readX s b).toNat = true := hr
    simp only [List.length_map, List.length_range, hr', if_true]
  · refine ownc_asks rfl hf ?_
    simp only [hw, Option.isSome_none, Bool.false_eq_true, if_false]
    rw [flipRange_ok h0 hal hend hring, hw]
    rfl
  · refine syl_completes hf ?_
    simp only [hw, hfl, Option.isSome_none, Bool.false_eq_true, if_true, if_false, ite_self]
  · refine ⟨_, syl_waits (t := s) hf ?_, ⟨rfl, rfl, rfl, rfl, rfl, rfl, .of_eq rfl rfl rfl rfl rfl, rfl⟩, hw⟩
    simp only [hw, Option.isSome_iff_ne_none.2 hfl, if_true, ite_self]
  · simp only [performFlips, hfl]
  · simp only [performFlips, hfl]
    exact mem_flipTo_false s gs g
  · simp only [performFlips, hfl]
    cases v <;> rfl

end Sys2Proof.Machine
end

section
/-!
SUPPORT. The row syllables (R267, R268, R274) and the folio syllables (R352 to R362).
-/
namespace Sys2Proof.Machine
open Sys2Proof
set_option Elab.async false -- proofs one at a time: the check of the whole text is near its memory limit

/-! ### Row operations -/

theorem exec_of_rowOf {i : Instr} {op : Nat} {c a b e : XReg} (h : rowOf i = some (op, c, a, b, e)) (s : State) :
    exec i s = rowSyl i op c a b e s := by
  unfold rowOf at h
  split at h <;> simp only [Option.some.injEq, Prod.mk.injEq, reduceCtorEq] at h <;> obtain ⟨rfl, rfl, rfl, rfl, rfl⟩ := h <;> rfl

/-- Aligned operand addresses have no first faulty one (R268). -/
theorem rowMisaligned_eq_none {op : Nat} {d a b : Word} (hd : d.toNat % 32 = 0) (ha : op ≠ 14 → a.toNat % 32 = 0)
    (hb : 15 ≤ op → op ≤ 17 → b.toNat % 32 = 0) : rowMisaligned op d a b = none := by
  unfold rowMisaligned
  rw [List.find?_eq_none]
  intro w hw
  have hmem : w = d ∨ (op ≠ 14 ∧ w = a) ∨ ((15 ≤ op ∧ op ≤ 17) ∧ w = b) := by
    by_cases h14 : op = 14 <;> by_cases h15 : 15 ≤ op ∧ op ≤ 17 <;> simpa [h14, h15] using hw
  rcases hmem with rfl | ⟨h, rfl⟩ | ⟨⟨h, k⟩, rfl⟩
  · simp [hd]
  · simp [ha h]
  · simp [hb h k]

theorem corePriv_of_bundle {s : State} (h : s.core.bundle ≠ []) : corePriv s = s.core.privAt := by
  cases hb : s.core.bundle with
  | nil => exact absurd hb h
  | cons => simp [corePriv, hb]

/-- Settles O45: the row syllables by the checks of their operands, ROWQ by its translations. -/
theorem rowOperations : Obligations.RowOperations := by
  refine fun s => ⟨fun i op c a b e hi hf hdesc ha hb he => ?_, fun d a b hf hd => ⟨fun v hv => ?_, fun t e hnone hlate => ?_⟩,
    fun p a b x y hx hy => by rw [rowqWord, hx, hy], fun p a b hna hnb hor => ?_, fun p a b hor => ?_⟩
  · rw [Completes, exec_of_rowOf hi, rowSyl]
    refine syl_completes hf ?_
    have hal : rowMisaligned op (readX s a) (readX s b) (readX s e) = none := rowMisaligned_eq_none ha hb he
    have hdesc' : rowDescBad (readX s c).toNat = false := hdesc
    simp only [hdesc', Bool.false_eq_true, if_false, hal]
    rfl
  · refine syl_completes hf ?_
    rw [guardPush_ok hd, corePriv_of_bundle hf.1, hv]
  · refine syl_completes hf ?_
    rw [guardPush_ok hd, corePriv_of_bundle hf.1, hnone]
    simp only [hlate]
    rfl
  · obtain ⟨x, hx⟩ := Option.ne_none_iff_exists'.1 hna
    obtain ⟨y, hy⟩ := Option.ne_none_iff_exists'.1 hnb
    rw [rowqWord, hx, hy]
    cases x <;> cases y
    · rfl
    · rfl
    · rfl
    · simp [hx, hy] at hor
  · rw [rowqWord]
    rcases hor with h | h
    · rw [h]
    · rw [h]
      rcases rowqPage s p a with _ | _ | _ <;> rfl

/-! ### Folios -/

theorem nameOf_readX (s : State) (a : XReg) : nameOf (readX s a) = readNat s a / 2 ^ 16 := by
  have h := (readX s a).isLt
  simp only [nameOf, bits, Nat.shiftRight_eq_div_pow, readNat]
  omega

/-- Settles O46, syllable by syllable: the conditions in the order in which the manager looks at them. -/
theorem folioCalls : Obligations.FolioCalls := by
  intro s d a b hon hd
  have hon' : folioOn (spoil s) = true := hon
  refine ⟨fun u f more hf hfree hw => ?_, fun f hf hf' => ?_, fun hf hfree hw => ?_, fun f hf hold hnew hcount => ?_,
    fun f hf hname hpin hstaged htouched => ?_, fun hf => ?_, fun q f hf hname hpin hstate => ?_, fun f hf hname hpin => ?_, fun hf ha => ?_⟩
  · have hfree' : folioNamed (spoil s) (readNat s a / 2 ^ 16) = none := hfree
    refine syl_completes hf ((guardPush_ok hd).trans ?_)
    simp only [nameOf_readX, hon', hfree', hw, Bool.not_true, Bool.false_eq_true, if_false, Option.isSome_none, List.map_const',
      List.length_range]
    rfl
  · have hf'' : folioNamed (spoil s) (readNat s a / 2 ^ 16) = some f := hf'
    refine syl_completes hf ((guardPush_ok hd).trans ?_)
    simp only [nameOf_readX, hon', hf'', Bool.not_true, Bool.false_eq_true, if_false, Option.isSome_some, if_true]
    rfl
  · have hfree' : folioNamed (spoil s) (readNat s a / 2 ^ 16) = none := hfree
    refine syl_completes hf ((guardPush_ok hd).trans ?_)
    simp only [nameOf_readX, hon', hfree', hw, Bool.not_true, Bool.false_eq_true, if_false, Option.isSome_none]
    rfl
  · have hold' : folioNamed (spoil s) (readNat s a / 2 ^ 16) = some f := hold
    have hnew' : folioNamed (spoil s) (readNat s b / 2 ^ 16) = none := hnew
    refine syl_completes hf ((guardPush_ok hd).trans ?_)
    simp only [nameOf_readX, hon', hold', hnew', Bool.not_true, Bool.false_eq_true, if_false, Option.isSome_none, Nat.not_le.2 hcount]
    rfl
  · have hname' : folioNamed (spoil s) (readNat s a / 2 ^ 16) = some f := hname
    have hfree : (shareCount f == 1 && hasFrame f && frameStaged (spoil s) f.frame) = false := by
      rw [Bool.eq_false_iff]
      intro h
      simp only [Bool.and_eq_true, beq_iff_eq] at h
      exact Bool.false_ne_true ((hstaged h.1.1 h.1.2).symm.trans h.2)
    have htouch : (spoil s).folios.touched.any (fun t => t.2 == readNat s a / 2 ^ 16) = false := by
      rw [List.any_eq_false]
      intro t ht
      simpa using htouched t ht
    refine syl_completes hf ((guardPush_ok hd).trans ?_)
    simp only [nameOf_readX, hon', hname', hpin, hfree, htouch, Bool.not_true, bne_self_eq_false, Bool.false_eq_true, if_false]
    rfl
  · refine syl_completes hf ((guardPush_ok hd).trans ?_)
    simp only [nameOf_readX, hon, if_true]
    rfl
  · have hname' : folioNamed (spoil s) (readNat s a / 2 ^ 16) = some f := hname
    have hpin' : (pinOf f (readNat s a / 2 ^ 16) == 255) = false := by rw [beq_eq_false_iff_ne]; omega
    refine syl_completes hf ((guardPush_ok hd).trans ?_)
    simp only [nameOf_readX, hon', hname', hpin', hstate, Bool.not_true, Bool.false_eq_true, if_false, beq_self_eq_true, if_true]
    rfl
  · have hname' : folioNamed (spoil s) (readNat s a / 2 ^ 16) = some f := hname
    have hpin' : (pinOf f (readNat s a / 2 ^ 16) == 0) = false := beq_eq_false_iff_ne.2 hpin
    refine syl_completes hf ((guardPush_ok hd).trans ?_)
    simp only [nameOf_readX, hon', hname', hpin', Bool.not_true, Bool.false_eq_true, if_false]
    rfl
  · refine syl_completes hf ?_
    have hin : ¬ 6 < (readX s a).toNat := Nat.not_lt.2 ha
    simp only [hin, if_false, hon, if_true]
    exact guardPush_ok hd

end Sys2Proof.Machine
end

section
/-!
SUPPORT. The fabric syllables (R301 to R311).
-/
namespace Sys2Proof.Machine
open Sys2Proof
set_option Elab.async false -- proofs one at a time: the check of the whole text is near its memory limit

/-! ### Commands -/

theorem exec_of_fabricOf {i : Instr} {s : State} {n : Fin 8} {c : FabCmd} (h : fabricOf s i = some (n, c)) :
    ∃ f : State → FabCmd, exec i s = fabSyl i n f s ∧ f s = c := by
  unfold fabricOf at h
  split at h <;> simp only [Option.some.injEq, Prod.mk.injEq, reduceCtorEq] at h <;> obtain ⟨rfl, rfl⟩ := h <;> exact ⟨_, rfl, rfl⟩

theorem fabPort_setFabPort (s : State) (n : Nat) (p : FabPort) : fabPort (setFabPort s n p) n = p := lookupD_storeAt_same _ _ _ _

/-- A result reserved for a late destination, and the identity under which it is pending. -/
def lateResult (s : State) (d : XReg) : State × Option Nat :=
  match lateDest s d with
  | (s, some dst) => let q := pend s dst none .clean none; (q.1, some q.2)
  | (s, none) => (s, none)

theorem lateResult_onlyFlight (s : State) (d : XReg) : OnlyFlight s (lateResult s d).1 := by
  have h := lateDest_onlyFlight s d
  rw [lateResult]
  generalize lateDest s d = l at h
  obtain ⟨t, _ | dst⟩ := l
  · exact h
  · exact h.trans (pend_onlyFlight t dst none .clean none)

theorem lateResult_pending {s : State} {d : XReg} (hr : reservedHere s.core d = none) (hb : boundPort s.core d = none) (h0 : d.val ≠ 0) :
    (lateResult s d).2 = some s.core.nextId ∧
    (lateResult s d).1.core.board = s.core.board ++ [{ id := s.core.nextId, dst := .x d, val := none, due := none }] := by
  have hd : lateDest s d = (s, some (.x d)) := by
    unfold lateDest
    rw [hr]
    exact if_neg (by simp [h0, hb])
  rw [lateResult, hd]
  exact ⟨rfl, rfl⟩

theorem OnlyFlight.readX_eq {s u : State} (h : OnlyFlight s u) (x : XReg) : readX u x = readX s x := by rw [h]; rfl

theorem spoil_registers (s : State) : RegistersKept s (spoil s) [] := .of_eq rfl rfl rfl rfl rfl

theorem coreLnum_spoil (s : State) : coreLnum (spoil s) = coreLnum s := by
  rw [coreLnum, coreLnum, spoil, onTask]
  cases s.core.task <;> rfl

/-- The packet of a FAMO whose task has been spoiled and whose result is pending in `r` (R307). -/
def famoPacket (s r : State) (a b : XReg) (w : Bool) (k : AmoOp) : Packet :=
  { typ := 4, cls := 3, src := ownPkg (spoil s), dst := podPkg s (bits (readX s a).toNat 61 56), launch := coreLnum (spoil s), rspace := 3
    aux := k.code + 8 * b2n w, addr := bits (readX s a).toNat 55 0
    pay := [BitVec.ofNat 256 ((readX r b).toNat + (if k == .cas then (readX r (xNext b 1)).toNat * 2 ^ 64 else 0))] }

theorem famoPacket_eq {s r : State} (h : OnlyFlight (spoil s) r) (a b : XReg) (w : Bool) (k : AmoOp) : famoPacket s r a b w k =
    { typ := 4, cls := 3, src := ownPkg s, dst := podPkg s (bits (readNat s a) 61 56), launch := coreLnum s, rspace := 3, aux := k.code + 8 * b2n w
      addr := bits (readNat s a) 55 0
      pay := [BitVec.ofNat 256 (readNat s b + (if k = .cas then readNat s (xNext b 1) * 2 ^ 64 else 0))] } := by
  have hs (x : XReg) : readX (spoil s) x = readX s x := rfl
  have hcas (x : Nat) : (if (k == .cas) = true then x else 0) = if k = .cas then x else 0 := by simp
  rw [famoPacket, h.readX_eq, h.readX_eq, hs, hs, coreLnum_spoil, hcas]
  rfl

/-- What FAMO leaves for the seat of its core. -/
def famoHeld (s : State) (r : State × Option Nat) (a b : XReg) (w : Bool) (k : AmoOp) : State :=
  { r.1 with fabric := { r.1.fabric with sc := some { pkt := famoPacket s r.1 a b w k, result := r.2, xa := readX s a, since := (spoil s).clock } } }

theorem famoHeld_registers (s : State) (d a b : XReg) (w : Bool) (k : AmoOp) :
    RegistersKept s (famoHeld s (lateResult (spoil s) d) a b w k) [] := by
  have h := lateResult_onlyFlight (spoil s) d
  rw [famoHeld, h]
  exact .of_eq rfl rfl rfl rfl rfl

/-- The operand of FAMO is legal. -/
theorem famoOperand_ok {s : State} {a : XReg} {w : Bool} (h : bits (readNat s a) 63 62 = 0)
    (hal : bits (readNat s a) 55 0 % (if w then 8 else 4) = 0) :
    (bits (readX s a).toNat 63 62 != 0 || bits (readX s a).toNat 55 0 % (if w then 8 else 4) != 0) = false := by
  have h' : bits (readX s a).toNat 63 62 = 0 := h
  have hal' : bits (readX s a).toNat 55 0 % (if w then 8 else 4) = 0 := hal
  rw [h', hal']
  rfl

/-- Settles O47, command by command. -/
theorem fabricCommands : Obligations.FabricCommands := by
  refine fun s => ⟨fun i n c hi hf => ⟨fun hc => ?_, fun w hc => ?_⟩, fun d a b n hf => ?_, fun n c => ?_, fun d a b w k e hf h1 h2 hsc => ?_,
    fun d a b w k hf hd h1 h2 hsc => ?_⟩
  · obtain ⟨f, hex, hfc⟩ := exec_of_fabricOf hi
    rw [Completes, hex, fabSyl]
    exact syl_completes hf (by simp only [hfc, hc])
  · obtain ⟨f, hex, hfc⟩ := exec_of_fabricOf hi
    rw [Traps, hex, fabSyl, syl_flows hf]
    simp only [hfc, hc, badOperand, settle_trap]
  · intro c hc
    refine ⟨fun hsc => syl_completes hf ?_, fun k hsc => (syl_flows hf).trans ?_⟩
    · simp only [c] at hc hsc ⊢
      simp only [hc, hsc]
    · simp only [c] at hc hsc
      simp only [hc, hsc, settle_trap]
      rw [readNat, BitVec.ofNat_toNat, BitVec.setWidth_eq]
  · exact congrArg FabPort.queue (fabPort_setFabPort _ _ _)
  · refine (syl_flows hf).trans ?_
    have hsc' : scRefusal s (coreLnum s) (podPkg s (bits (readX s a).toNat 61 56)) = some e := hsc
    dsimp only
    rw [famoOperand_ok h1 h2, if_neg Bool.false_ne_true, hsc']
    exact congrArg Host.Outcome.next (settle_trap _ _ _ _ _)
  · have hsc' : scRefusal s (coreLnum s) (podPkg s (bits (readX s a).toNat 61 56)) = none := hsc
    refine ⟨famoHeld s (lateResult (spoil s) d) a b w k, _, syl_completes hf ?_, rfl, rfl, rfl, rfl, famoHeld_registers s d a b w k,
      famoPacket_eq (lateResult_onlyFlight _ _) a b w k, fun hr hb h0 => lateResult_pending (s := spoil s) hr hb h0⟩
    dsimp only
    rw [famoOperand_ok h1 h2, if_neg Bool.false_ne_true, hsc']
    exact guardPush_ok hd

/-! ### Waits and readings -/

/-- Settles O48, syllable by syllable. -/
theorem fabricReads : Obligations.FabricReads := by
  refine fun s d a hd => ⟨fun l n hf => ⟨fun h => ?_, fun h => ?_⟩, fun hf => ?_, fun w hf hw => ⟨fun h1 h2 h3 => ?_, fun h => ?_⟩,
    fun hf hw => ?_, fun m hf h1 h2 => ?_, fun hf => ?_⟩
  · exact syl_completes hf ((guardPush_ok hd).trans (if_pos h))
  · exact syl_waitFor 0 rfl hf ((guardPush_ok hd).trans (if_neg (Bool.eq_false_iff.1 h)))
  · exact syl_completes hf (guardPush_ok hd)
  · refine syl_completes hf (if_pos ?_)
    have h3' : rowNow s 0 = bits (readX s a).toNat 5 0 % planePorts s 0 := h3
    simp [hw, h1, h2, h3']
  · refine syl_waitFor 0 rfl hf (if_neg fun hb => ?_)
    simp only [Bool.and_eq_true, beq_iff_eq] at hb
    rcases h with h | h
    · exact h hb.1.2
    · exact h hb.2
  · exact syl_waitFor 0 rfl hf (if_neg (by simp [hw]))
  · refine syl_completes hf ?_
    have h1' : bits (readX s a).toNat 63 14 = 0 := h1
    have h2' : bits (readX s a).toNat 7 6 = 0 := h2
    simp only [h1', h2', bne_self_eq_false, Bool.or_self, Bool.false_eq_true, if_false]
    exact guardPush_ok hd
  · exact syl_completes hf (guardPush_ok hd)

end Sys2Proof.Machine
end

section
/-!
SUPPORT. Barriers, tickets, launches and the ends of tasks (R376, R377, R384 to R393).
-/
namespace Sys2Proof.Machine
open Sys2Proof
set_option Elab.async false -- proofs one at a time: the check of the whole text is near its memory limit

/-! ### What the distributor does of its own accord -/

/-- `t` is `s` but for what stands of the launches and for the packets on their way. -/
def Networked (s t : State) : Prop := t = { s with fabric := t.fabric, dist := { s.dist with launches := t.dist.launches } }

namespace Networked

theorem refl (s : State) : Networked s s := rfl

theorem trans {s t u : State} (h : Networked s t) (k : Networked t u) : Networked s u := by
  unfold Networked at *
  rw [k, h]

theorem foldl {α : Type} {f : State → α → State} (hf : ∀ s a, Networked s (f s a)) (l : List α) (s : State) : Networked s (l.foldl f s) := by
  induction l generalizing s with
  | nil => exact refl s
  | cons a l ih => exact (hf s a).trans (ih _)

theorem core {s t : State} (h : Networked s t) : t.core = s.core := by rw [h]

theorem clock {s t : State} (h : Networked s t) : t.clock = s.clock := by rw [h]

end Networked

theorem updNode_networked (s : State) (lnum node : Nat) (f : Node → Node) : Networked s (updNode s lnum node f) := rfl

theorem takeSeq_networked (s : State) (dst cls : Nat) : Networked s (takeSeq s dst cls).1 := rfl

theorem enqueue_networked (s : State) (p : Packet) (pin : Option Nat) (ready : Nat) : Networked s (enqueue s p pin ready).1 := by
  have h := takeSeq_networked s p.dst p.cls
  unfold enqueue
  split
  · exact h
  · exact h.trans rfl

theorem sendControl_networked (s : State) (dst aux launch addr : Nat) (pay : List Sector) :
    Networked s (sendControl s dst aux launch addr pay) := enqueue_networked _ _ _ _

theorem packageArrives_networked (s : State) (lnum node : Nat) (b : Fin 16) (absent : Bool) : Networked s (packageArrives s lnum node b absent) :=
  (updNode_networked _ _ _ _).trans (Networked.foldl (fun _ _ => sendControl_networked _ _ _ _ _ _) _ _)

theorem arriveAt_networked (s : State) (lnum node : Nat) (c : Scope) (b : Fin 16) : Networked s (arriveAt s lnum node c b) := by
  unfold arriveAt
  split
  · exact packageArrives_networked _ _ _ _ _
  · exact updNode_networked _ _ _ _

theorem leaveBars_networked (s : State) (lnum node : Nat) : Networked s (leaveBars s lnum node) := by
  unfold leaveBars
  split
  · exact .refl s
  · exact Networked.foldl (fun _ _ => packageArrives_networked _ _ _ _ _) _ _

theorem closePart_networked (s : State) (lnum node : Nat) (byEnd : Bool) : Networked s (closePart s lnum node byEnd) := by
  unfold closePart
  split
  · exact .refl s
  · dsimp only
    split
    · exact (updNode_networked _ _ _ _).trans (Networked.foldl (fun _ _ => sendControl_networked _ _ _ _ _ _) _ _)
    · exact updNode_networked _ _ _ _

theorem endTile_networked (s : State) : Networked (idleCore s) (endTile s) := by
  unfold endTile
  split
  · exact .refl _
  · next t _ =>
    have h := (updNode_networked (idleCore s) t.lnum t.node (fun n => { n with working := n.working - 1 })).trans (leaveBars_networked _ t.lnum t.node)
    dsimp only
    split
    · split
      · exact h.trans (closePart_networked _ _ _ _)
      · exact h
    · exact h

/-! ### Barriers and tickets -/

theorem syl_waits_on {i : Instr} {s t : State} {body : State → Eff} {k : Nat} (hf : Flows i s) (hb : body s = waitFor t k) :
    syl i s body = .next (stall (onCore t (fun c => { c with waiting := some ((c.waiting.map (·.1)).getD t.clock, k) }))) :=
  syl_waits hf hb

theorem ticketResult_completes {i : Instr} {s : State} {d : XReg} {c : Scope} {k : Nat} {word : Nat → Nat → Nat} {body : State → Eff}
    (hex : exec i s = syl i s body) (hf : Flows i s) (hb : body s = ticketResult s d (c == .pk) k word) :
    (∀ (u : State) (t n : Nat) (st : Bool), askTickets s (c == .pk) k = some (u, t, n, st) →
      Completes i s (taskInPlace (pendX u d (BitVec.ofNat 64 (word t n)) .clean (if st then 60 else 20)) t n)) ∧
    (askTickets s (c == .pk) k = none → Completes i s (pendX s d (BitVec.allOnes 64) .clean (if c = .pk then 60 else 20))) := by
  refine ⟨fun u t n st h => hex.trans (syl_completes hf (hb.trans ?_)), fun h => hex.trans (syl_completes hf (hb.trans ?_))⟩
  · rw [ticketResult, h]
  · have hc : (if (c == .pk) = true then 60 else 20) = if c = .pk then 60 else 20 := by simp
    rw [ticketResult, h, hc]

/-- Settles O50: the barriers by the record of their phase, the tickets by the counter of the node. -/
theorem barriersAndTickets : Obligations.BarriersAndTickets := by
  refine fun s => ⟨fun c b t hf ht hx hby => ⟨fun ha hw => ?_, fun ha => ?_, fun ha hw => ?_⟩, fun c b t hf ht hx hby => ?_,
    fun c b t hf ht hx hc => ?_, fun d c hf hd => ?_, fun d a c hf hd => ⟨fun h1 h64 => ?_, fun h => ?_⟩, fun n m k t c h hr => ?_⟩
  · have hno : (t.xchg && (c == .qd || c == .di || c == .pk)) = false := by rcases hx with h | rfl | rfl <;> simp [*]
    have hnet := arriveAt_networked s t.lnum t.node c b
    have hwait : (s.core.waiting.map (·.2) == some 3) = false := by rw [hw]; rfl
    refine ⟨_, syl_waits_on (t := arriveAt s t.lnum t.node c b) (k := 3) hf ?_, rfl, ?_, ?_, rfl⟩
    · simp only [ht, hno, hby, ha, hwait, Bool.false_eq_true, if_false]
    · simp only [stall, onCore_core, hnet.core, hnet.clock, hw]
      rfl
    · simp only [stall, onCore_core, hnet.core]
  · have hno : (t.xchg && (c == .qd || c == .di || c == .pk)) = false := by rcases hx with h | rfl | rfl <;> simp [*]
    exact syl_waitFor 3 rfl hf (by simp only [ht, hno, hby, ha, Bool.false_eq_true, if_false, if_true])
  · have hno : (t.xchg && (c == .qd || c == .di || c == .pk)) = false := by rcases hx with h | rfl | rfl <;> simp [*]
    exact syl_completes hf (by simp only [ht, hno, hby, ha, hw, Bool.false_eq_true, if_false, beq_self_eq_true, if_true])
  · have hno : (t.xchg && (c == .qd || c == .di || c == .pk)) = false := by rcases hx with h | rfl | rfl <;> simp [*]
    exact syl_waitFor 5 rfl hf (by simp only [ht, hno, hby, Bool.false_eq_true, if_false, if_true])
  · have hyes : (t.xchg && (c == .qd || c == .di || c == .pk)) = true := by
      simp only [List.mem_cons, List.not_mem_nil, or_false] at hc
      rcases hc with rfl | rfl | rfl <;> simp [hx]
    exact syl_completes hf (by simp only [ht, hyes, if_true])
  · exact ticketResult_completes rfl hf (guardPush_ok hd)
  · have hin : ((readX s a).toNat == 0 || decide (64 < (readX s a).toNat)) = false := by
      have h1' : 1 ≤ (readX s a).toNat := h1
      have h64' : (readX s a).toNat ≤ 64 := h64
      simp only [Bool.or_eq_false_iff, beq_eq_false_iff_ne, decide_eq_false_iff_not]
      omega
    refine ticketResult_completes rfl hf ?_
    simp only [hin, Bool.false_eq_true, if_false]
    exact guardPush_ok hd
  · have hout : ((readX s a).toNat == 0 || decide (64 < (readX s a).toNat)) = true := by
      have h' : (readX s a).toNat = 0 ∨ 64 < (readX s a).toNat := h
      simpa using h'
    refine (syl_flows hf).trans ?_
    simp only [hout, if_true, badOperand, settle_trap]
  · simp only [takeOwn, hr, List.isEmpty_nil, Bool.not_true, Bool.false_eq_true, if_false] at h
    split at h
    · next hlt =>
      simp only [Option.some.injEq, Prod.mk.injEq] at h
      exact ⟨h.2.1.symm, h.2.2.symm, by omega⟩
    · simp at h

/-! ### Launches and ends -/

/-- The address operand of LAUNCH is a multiple of 64. -/
theorem mult64_ok {s : State} {a : XReg} {sp : Nat} {k : State → Nat → Eff} (h : readNat s a % 64 = 0) : mult64 s a sp k = k s (readNat s a) := by
  have h' : (readX s a).toNat % 64 = 0 := h
  simp only [mult64, h', bne_self_eq_false, Bool.false_eq_true, if_false]
  rfl

theorem ite_bne_zero {α : Type} (k : Nat) (x y : α) : (if (k != 0) = true then x else y) = if k = 0 then y else x := by
  cases k <;> rfl

theorem launch_reads {s : State} {a : XReg} (hb : s.core.bundle ≠ []) :
    (∀ bs, gmFetch s (coreRoot s) (readNat s a) 64 s.core.privAt (coreViewer s) = .got (bs, false) →
      childDescriptor s (readNat s a) = some (descWords bs, true)) ∧
    (gmFetch s (coreRoot s) (readNat s a) 64 s.core.privAt (coreViewer s) = .waits → childDescriptor s (readNat s a) = none) := by
  refine ⟨fun bs h => ?_, fun h => ?_⟩ <;> rw [childDescriptor, corePriv_of_bundle hb, h]
  rfl

theorem endWith_waits {s : State} (h : workDone s = false) (n : Nat) : endWith s n = waitFor s 0 := by
  rw [endWith, h, Bool.not_false, if_pos rfl]

theorem endWith_ends {s : State} {t : Task} (h : workDone s = true) (ht : s.core.task = some t) (n : Nat) :
    endWith s n = .left (if t.xchg then endExchange s n else endTile s) := by
  rw [endWith, h, Bool.not_true, if_neg Bool.false_ne_true, ht]
  cases hx : t.xchg <;> simp only [hx, Bool.false_eq_true, if_false, if_true]

/-- A register below a power of two has no bit from there on. -/
theorem bits_high_zero {v n : Nat} (hi : Nat) (h : v < 2 ^ n) : bits v hi n = 0 := by
  rw [bits, Nat.shiftRight_eq_div_pow, Nat.div_eq_of_lt h, Nat.zero_mod]

theorem and_low4 {v : Word} (h : v.toNat < 16) : v &&& 0xF = v := by
  refine BitVec.eq_of_toNat_eq ?_
  rw [BitVec.toNat_and]
  exact (Nat.and_two_pow_sub_one_eq_mod v.toNat 4).trans (Nat.mod_eq_of_lt h)

/-- Settles O51, syllable by syllable. -/
theorem launchesAndEnds : Obligations.LaunchesAndEnds := by
  refine fun s => ⟨fun d a bs hf hd hal hg => ?_, fun d a hf hd hal hg => ?_, fun d a hf hd => ⟨fun hl => ?_, fun l hl => ⟨fun h1 h2 => ?_, fun hown =>
      ⟨fun h2 => ?_, fun h2 => ?_⟩⟩⟩, fun a hf => ?_, fun a q l hf ha hl hq => ?_, fun hf he => ?_, fun hf he => ⟨fun hw => ?_, fun t hw ht => ?_⟩,
    fun a hf ha hor => ⟨fun hw => ?_, fun t hw ht => ?_⟩, fun t ht => ?_⟩
  · have hread := (launch_reads hf.1).1 bs hg
    refine ⟨fun t n k hsub => syl_completes hf ?_, fun hsub => syl_stalls rfl hf ?_⟩
    · have hsub' : submitWords s (.child (coreLnum s) s.core.privAt) (descWords bs) true = some (t, n, k) := hsub
      rw [guardPush_ok hd, mult64_ok hal]
      simp only [hread, Option.bind_some, corePriv_of_bundle hf.1, hsub', launchClocks, ite_bne_zero]
    · have hsub' : submitWords s (.child (coreLnum s) s.core.privAt) (descWords bs) true = none := hsub
      rw [guardPush_ok hd, mult64_ok hal]
      simp only [hread, Option.bind_some, corePriv_of_bundle hf.1, hsub']
  · refine syl_stalls rfl hf ?_
    rw [guardPush_ok hd, mult64_ok hal]
    simp only [(launch_reads hf.1).2 hg, Option.bind_none]
  · have hl' : launchOf s (bits (readX s a).toNat 15 0) = none := hl
    exact syl_completes hf ((guardPush_ok hd).trans (by simp only [hl']))
  · have hl' : launchOf s (bits (readX s a).toNat 15 0) = some l := hl
    have hno : (l.lnum != coreLnum s && l.parent != some (coreLnum s)) = true := by simp [h1, h2]
    exact syl_completes hf ((guardPush_ok hd).trans (by simp only [hl', hno, if_true]))
  · have hl' : launchOf s (bits (readX s a).toNat 15 0) = some l := hl
    have hyes : (l.lnum != coreLnum s && l.parent != some (coreLnum s)) = false := by rcases hown with h | h <;> simp [h]
    exact syl_completes hf ((guardPush_ok hd).trans (by simp only [hl', hyes, Bool.false_eq_true, if_false, h2, if_true]))
  · have hl' : launchOf s (bits (readX s a).toNat 15 0) = some l := hl
    have hyes : (l.lnum != coreLnum s && l.parent != some (coreLnum s)) = false := by rcases hown with h | h <;> simp [h]
    exact syl_waitFor 4 rfl hf ((guardPush_ok hd).trans (by simp only [hl', hyes, Bool.false_eq_true, if_false, Nat.not_le.2 h2]))
  · exact syl_completes hf rfl
  · refine syl_completes hf ?_
    have hlow : bits (readX s a).toNat 63 4 = 0 := bits_high_zero (n := 4) 63 ha
    have hmask : readX s a &&& 0xF = readX s a := and_low4 ha
    simp only [hlow, bne_self_eq_false, Bool.false_eq_true, if_false, hl, Option.map_some, Option.getD_some, hq, Bool.not_true, hmask]
  · exact (syl_flows hf).trans (by rw [if_pos he, settle_trap])
  · exact syl_waitFor 0 rfl hf (by rw [if_neg (Bool.eq_false_iff.1 he), endWith_waits hw])
  · exact syl_left hf (by rw [if_neg (Bool.eq_false_iff.1 he), endWith_ends hw ht])
  · refine syl_waitFor 0 rfl hf ?_
    have hlow : bits (readX s a).toNat 63 16 = 0 := bits_high_zero (n := 16) 63 ha
    have hopen : (s.core.sw.envOpen && !inExchange s) = false := by rcases hor with h | h <;> simp [h]
    simp only [hlow, bne_self_eq_false, Bool.false_eq_true, if_false, hopen, endWith_waits hw]
  · refine syl_left hf ?_
    have hlow : bits (readX s a).toNat 63 16 = 0 := bits_high_zero (n := 16) 63 ha
    have hopen : (s.core.sw.envOpen && !inExchange s) = false := by rcases hor with h | h <;> simp [h]
    simp only [hlow, bne_self_eq_false, Bool.false_eq_true, if_false, hopen]
    exact endWith_ends hw ht _
  · rw [(endTile_networked s).core]
    exact ⟨rfl, rfl, rfl, rfl⟩

end Sys2Proof.Machine
end

section
/-!
SUPPORT. The statements about stores to memory that speak of more memories, and of more stores, than they hold for.
-/
namespace Sys2Proof.Machine
open Sys2Proof
set_option Elab.async false -- proofs one at a time: the check of the whole text is near its memory limit

/-! ### A store of no bytes -/

/-- A store of no poisoned bytes at an address that is no multiple of 32 marks the sector of that address. -/
theorem store_nothing_marks : 0 ∈ (({} : Mem).store 1 [] true).poison := by decide

/-- Refutes O30: a store of no bytes marks a sector as poisoned where it lies within one, though the statement says that a
store of no bytes marks none. -/
theorem not_memoryLaws : ¬ Obligations.MemoryLaws := by
  intro h
  obtain ⟨-, -, -, -, hmarks, -⟩ := h.1 {} 1 [] true Mem.wf_empty
  have hmem := (hmarks 0).1 store_nothing_marks
  simp at hmem

/-! ### A memory that is not in canonical form -/

/-- A state whose L2 keeps its bytes out of order: it holds sector 0, dirty, and the line of sector 16. -/
def l2Unsorted : State :=
  { State.reset with sys := { State.reset.sys with
      l2 := { cells := [(1000, 5), (3, 7)], poison := [] }
      l2Lines := [{ line := 0, way := 0, valid := 1, dirty := 1, wts := 0, rts := 0 }, { line := 4, way := 1, valid := 0, dirty := 0, wts := 0, rts := 0 }] } }

/-- The state after a store of one byte at byte 512 of GM. -/
def l2UnsortedStored : State := placeWrite l2Unsorted (.gm [(512, 1)]) [1] false false (coreViewer l2Unsorted)

theorem l2Unsorted_reads_zero : (coherentRead l2Unsorted 0).2.1 = 0 := by decide

/-- The store puts the cells in order, and byte 3 of sector 0 is read. -/
theorem l2UnsortedStored_reads_byte : (coherentRead l2UnsortedStored 0).2.1 = 7 * 2 ^ 24 := by decide

/-- Refutes O28: the statement asks no canonical form of the memories of the state, and where the L2 holds its bytes out of
order, a store to one sector changes what a read of another one finds. -/
theorem not_accessesComplete : ¬ Obligations.AccessesComplete := by
  intro h
  obtain ⟨-, -, -, hgm⟩ := h.2 l2Unsorted [1] false (by decide)
  obtain ⟨hstore, -⟩ := hgm 512 (by decide) (by decide)
  obtain ⟨-, hother, -⟩ := hstore (by decide) (by decide) (by decide)
  have heq := congrArg Prod.fst (hother 0 (by decide))
  rw [l2Unsorted_reads_zero] at heq
  have hread : (coherentRead l2UnsortedStored 0).2.1 = 0 := heq
  rw [l2UnsortedStored_reads_byte] at hread
  exact absurd hread (by decide)

end Sys2Proof.Machine
end

section
/-!
SUPPORT. Results, grants of the crossbar and matrix operations at their moment (R34, R35, R122, R173, R195, R224).
-/
namespace Sys2Proof.Machine
open Sys2Proof
set_option Elab.async false -- proofs one at a time: the check of the whole text is near its memory limit

/-! ### Results -/

theorem writeDue_landed (s : State) : ∃ ds, Landed { s with core := { s.core with board := s.core.board.filter (fun p => !p.isDue s.clock) } } (writeDue s) ds := by
  have key : ∀ (l : List Pending) (t : State), ∃ ds,
      Landed t (l.foldl (fun s p => addVqstat (writeDest s p.dst (p.val.getD 0) p.mark) p.sat p.absent) t) ds := by
    intro l
    induction l with
    | nil => exact fun t => ⟨[], .refl t []⟩
    | cons p l ih =>
      intro t
      have hstep : Landed t (addVqstat (writeDest t p.dst (p.val.getD 0) p.mark) p.sat p.absent) [p.dst] :=
        (writeDest_landed _ _ _ _).trans (addVqstat_landed _ _ _) (fun _ h => h) (fun _ h => by simp at h)
      obtain ⟨ds, hds⟩ := ih (addVqstat (writeDest t p.dst (p.val.getD 0) p.mark) p.sat p.absent)
      exact ⟨p.dst :: ds, hstep.trans hds (fun _ h => by simp at h; simp [h]) (fun _ h => List.mem_cons_of_mem _ h)⟩
  exact key _ _

theorem writeDue_board (s : State) : (writeDue s).core.board = s.core.board.filter (fun p => !p.isDue s.clock) := by
  obtain ⟨ds, h⟩ := writeDue_landed s
  rw [h.rest]

/-! ### The round robin -/

/-- What a requester in its turn adds to the grants made. -/
def grantTurn (got : List (Nat × BitVec 32)) (w : Nat × BitVec 32) : List (Nat × BitVec 32) :=
  if got.all (fun g => (g.2 &&& w.2) == 0) then got ++ [w] else got

theorem roundRobin_eq (last : Nat) (ws got : List (Nat × BitVec 32)) : roundRobin last ws got =
    (ws.filter (fun w => decide (last < w.1)) ++ ws.filter (fun w => decide (w.1 ≤ last))).foldl grantTurn got := rfl

theorem mem_turns {last : Nat} {ws : List (Nat × BitVec 32)} {w : Nat × BitVec 32} :
    w ∈ ws.filter (fun w => decide (last < w.1)) ++ ws.filter (fun w => decide (w.1 ≤ last)) ↔ w ∈ ws := by
  simp only [List.mem_append, List.mem_filter, decide_eq_true_eq]
  have := Nat.lt_or_ge last w.1
  tauto

theorem subset_foldl_grantTurn (ws : List (Nat × BitVec 32)) {got : List (Nat × BitVec 32)} {g : Nat × BitVec 32} (h : g ∈ got) :
    g ∈ ws.foldl grantTurn got := by
  induction ws generalizing got with
  | nil => exact h
  | cons w ws ih =>
    refine ih ?_
    unfold grantTurn
    split
    · exact List.mem_append_left _ h
    · exact h

/-- The grants of a clock share no bank, are asked for, and leave out only what needs a bank already granted. -/
theorem foldl_grantTurn (ws : List (Nat × BitVec 32)) {got : List (Nat × BitVec 32)} (h : got.Pairwise (fun a b => a.2 &&& b.2 = 0)) :
    (ws.foldl grantTurn got).Pairwise (fun a b => a.2 &&& b.2 = 0) ∧ (∀ g ∈ ws.foldl grantTurn got, g ∈ got ∨ g ∈ ws) ∧
    (∀ w ∈ ws, w ∈ ws.foldl grantTurn got ∨ ∃ g ∈ ws.foldl grantTurn got, g.2 &&& w.2 ≠ 0) := by
  induction ws generalizing got with
  | nil => exact ⟨h, fun g hg => .inl hg, by simp⟩
  | cons w ws ih =>
    rw [List.foldl_cons]
    have hturn : (grantTurn got w = got ++ [w] ∧ ∀ g ∈ got, g.2 &&& w.2 = 0) ∨ (grantTurn got w = got ∧ ∃ g ∈ got, g.2 &&& w.2 ≠ 0) := by
      unfold grantTurn
      split
      · next hall => exact .inl ⟨rfl, by simpa using hall⟩
      · next hall => exact .inr ⟨rfl, by simpa using hall⟩
    rcases hturn with ⟨he, hfree⟩ | ⟨he, g, hg, hmeet⟩ <;> rw [he]
    · have hpair : (got ++ [w]).Pairwise (fun a b => a.2 &&& b.2 = 0) := by
        rw [List.pairwise_append]
        exact ⟨h, List.pairwise_singleton _ _, fun a ha b hb => by rw [List.mem_singleton.1 hb]; exact hfree a ha⟩
      obtain ⟨h1, h2, h3⟩ := ih hpair
      refine ⟨h1, fun g hg => ?_, fun v hv => ?_⟩
      · rcases h2 g hg with hm | hm
        · rcases List.mem_append.1 hm with hm | hm
          · exact .inl hm
          · exact .inr (List.mem_cons.2 (.inl (List.mem_singleton.1 hm)))
        · exact .inr (List.mem_cons_of_mem _ hm)
      · rcases List.mem_cons.1 hv with rfl | hv
        · exact .inl (subset_foldl_grantTurn ws (List.mem_append_right _ (List.mem_singleton_self _)))
        · exact h3 v hv
    · obtain ⟨h1, h2, h3⟩ := ih h
      refine ⟨h1, fun g hg => (h2 g hg).imp_right (List.mem_cons_of_mem _), fun v hv => ?_⟩
      rcases List.mem_cons.1 hv with rfl | hv
      · exact .inr ⟨g, subset_foldl_grantTurn ws hg, hmeet⟩
      · exact h3 v hv

theorem roundRobin_grants (n : Nat) (ws : List (Nat × BitVec 32)) :
    (roundRobin n ws []).Pairwise (fun a b => a.2 &&& b.2 = 0) ∧ (∀ w ∈ roundRobin n ws [], w ∈ ws) ∧
    (∀ w ∈ ws, w ∈ roundRobin n ws [] ∨ ∃ g ∈ roundRobin n ws [], g.2 &&& w.2 ≠ 0) := by
  rw [roundRobin_eq]
  obtain ⟨h1, h2, h3⟩ := foldl_grantTurn (ws.filter (fun w => decide (n < w.1)) ++ ws.filter (fun w => decide (w.1 ≤ n))) (got := []) .nil
  exact ⟨h1, fun w hw => mem_turns.1 ((h2 w hw).resolve_left List.not_mem_nil), fun w hw => h3 w (mem_turns.2 hw)⟩

/-! ### The grants of a clock -/

/-- The grant that a scalar access has already taken. -/
def scalarGrants (s : State) : List (Nat × BitVec 32) := (s.core.vu.scalar.filter (·.granted)).toList.map (fun r => (0, bankMask r.oc r.n))

theorem clockGrants_pairwise (s : State) : (clockGrants s).Pairwise (fun a b => a.2 &&& b.2 = 0) ∧
    (∀ g ∈ clockGrants s, g ∈ scalarGrants s ∨ g ∈ otherWants s) := by
  have hgot : (scalarGrants s).Pairwise (fun a b => a.2 &&& b.2 = 0) := by
    unfold scalarGrants
    cases s.core.vu.scalar.filter (·.granted) <;> simp
  obtain ⟨h1, h2, -⟩ := foldl_grantTurn ((otherWants s).filter (fun w => decide (s.core.vu.last < w.1)) ++
    (otherWants s).filter (fun w => decide (w.1 ≤ s.core.vu.last))) hgot
  exact ⟨h1, fun g hg => (h2 g hg).imp_right mem_turns.1⟩

theorem mem_clockGrants_scalar {s : State} {r : QsScalar} (h : s.core.vu.scalar = some r) (hg : r.granted = true) :
    (0, bankMask r.oc r.n) ∈ clockGrants s := by
  refine subset_foldl_grantTurn _ ?_
  simp [h, hg]

/-- A grant to an engine is one of a request that an engine has made. -/
theorem asks_of_mem_clockGrants {s : State} {g : Nat × BitVec 32} (h : g ∈ clockGrants s) (h3 : 3 ≤ g.1) : (g.1 - 3, g.2) ∈ s.core.vu.asks := by
  rcases (clockGrants_pairwise s).2 g h with hg | hg
  · simp only [scalarGrants, List.mem_map] at hg
    obtain ⟨r, -, rfl⟩ := hg
    simp at h3
  · simp only [otherWants, List.mem_append, List.mem_map] at hg
    rcases hg with (⟨q, -, rfl⟩ | ⟨q, -, rfl⟩) | ⟨c, hc, rfl⟩
    · simp at h3
    · simp at h3
    · simpa using hc

/-! ### Serving a grant -/

theorem barrierUpdate_won (s : State) (oc n : Nat) (e : Int) : (barrierUpdate s oc n e).core.vu.won = s.core.vu.won := by
  unfold barrierUpdate stampSignal
  dsimp only
  have h := stampRoom_stamped (barrierSet s oc ((barrierAt s oc).update n e))
    (max ((stampOf (barrierSet s oc ((barrierAt s oc).update n e)) (ocKey oc)).rts + 1) (barrierSet s oc ((barrierAt s oc).update n e)).sys.engTs)
  rw [h.eq]
  rfl

theorem performGrant_won (s : State) (q : QsReq) (d : QsDo) : (performGrant s q d).1.core.vu.won = s.core.vu.won := by
  have hls (t : State) (a n : Nat) : (takeLs t a n).core.vu.won = t.core.vu.won := by rw [(takeLs_looked t a n).eq]
  cases d with
  | pass => rfl
  | test => rfl
  | update oc n e => exact barrierUpdate_won s oc n e
  | amo oc n op v w =>
    simp only [performGrant]
    split <;> rfl
  | read us =>
    have key : ∀ (us : List (Nat × Nat × Nat)) (t : State) (q : QsReq),
        (us.foldl (fun (acc : State × QsReq) u => (takeLs acc.1 u.2.1 u.2.2, { acc.2 with
          got := setBits acc.2.got (8 * (u.1 + u.2.2) - 1) (8 * u.1) (s.oc.readNat u.2.1 u.2.2)
          poison := acc.2.poison || s.oc.poisoned u.2.1 u.2.2 })) (t, q)).1.core.vu.won = t.core.vu.won := by
      intro us
      induction us with
      | nil => exact fun t q => rfl
      | cons u us ih => exact fun t q => (ih _ _).trans (hls t _ _)
    exact key us s q
  | write us p =>
    have key : ∀ (us : List (Nat × List Byte)) (t : State),
        (us.foldl (fun s u => takeLs { s with oc := s.oc.store u.1 u.2 p } u.1 u.2.length) t).core.vu.won = t.core.vu.won := by
      intro us
      induction us with
      | nil => exact fun t => rfl
      | cons u us ih => exact fun t => (ih _).trans (hls _ _ _)
    exact key us s

theorem vxGo_won (l : List VxCmd) : ∀ (s : State) (t : Nat), (vxGo l s t).core.vu.won = s.core.vu.won := by
  induction l with
  | nil => exact fun s t => rfl
  | cons c l ih =>
    intro s t
    unfold vxGo
    split
    · rfl
    · exact (ih _ _).trans rfl

theorem finishQs_won (s : State) (q : QsReq) : (finishQs s q).core.vu.won = s.core.vu.won := by
  unfold finishQs
  dsimp only
  split
  · exact vxGo_won _ _ _
  · rfl

theorem serveQs_won (s : State) (q : QsReq) : (serveQs s q).core.vu.won = s.core.vu.won := by
  unfold serveQs
  split
  · rfl
  · next d rest _ =>
    dsimp only
    split
    · exact (finishQs_won _ _).trans (performGrant_won s q d)
    · exact performGrant_won s q d

/-- A request that is served on this clock, if there is one and it has its grant. -/
def serveSome (o : Option QsReq) (b : Bool) (t : State) : State :=
  match o with
  | some q => if b then serveQs t q else t
  | none => t

theorem serveSome_won (o : Option QsReq) (b : Bool) (t : State) : (serveSome o b t).core.vu.won = t.core.vu.won := by
  cases o with
  | none => rfl
  | some q => cases b <;> simp only [serveSome, Bool.false_eq_true, if_false, if_true, serveQs_won]

/-- The grants of a clock as they are noted, before any request is served. -/
def grantsNoted (s : State) : State :=
  onVu s (fun u => { u with
    won := (clockGrants s).filterMap (fun g => if 3 ≤ g.1 then some (g.1 - 3) else none)
    last := ((clockGrants s).getLast?.map Prod.fst).getD u.last
    counted := false, qwait := if !s.core.vu.counted && qsWaiting s (clockGrants s) then u.qwait + 1 else u.qwait
    scalar := none })

/-- The next plane of an image in LS. -/
def imageDue (s : State) : Option QsReq :=
  s.core.vu.qs.find? (fun q => q.kind == .imageLs && (q.start.map (fun t => decide (t ≤ s.clock))).getD false)

/-- The requests that a clock serves, one after the other. -/
theorem grantQs_eq (s : State) : grantQs s =
    serveSome (imageDue s) true (serveSome (nextPermute s.core.vu s.clock) ((clockGrants s).any (fun g => g.1 == 2))
      (serveSome (nextAccess s.core.vu s.clock) ((clockGrants s).any (fun g => g.1 == 1)) (grantsNoted s))) := rfl

theorem grantQs_won (s : State) : (grantQs s).core.vu.won = (clockGrants s).filterMap (fun g => if 3 ≤ g.1 then some (g.1 - 3) else none) := by
  rw [grantQs_eq, serveSome_won, serveSome_won, serveSome_won]
  rfl

theorem mem_asks_of_won {s : State} {c : Nat} (h : c ∈ (grantQs s).core.vu.won) : ∃ b, (c, b) ∈ s.core.vu.asks ∧ (3 + c, b) ∈ clockGrants s := by
  rw [grantQs_won, List.mem_filterMap] at h
  obtain ⟨g, hg, hc⟩ := h
  split at hc
  · next h3 =>
    obtain rfl : g.1 - 3 = c := by simpa using hc
    exact ⟨g.2, asks_of_mem_clockGrants hg h3, by rw [Nat.add_sub_of_le h3]; exact hg⟩
  · simp at hc

/-! ### A granted read -/

/-- A granted read of one part: its bytes are those of the clock, whatever the clock has noted of its grants. -/
theorem performGrant_read_noted (s t : State) (q : QsReq) (us : List (Nat × Nat × Nat)) (h : t.oc = s.oc) :
    (performGrant t q (.read us)).2 = (performGrant s q (.read us)).2 ∧ Looked t (performGrant t q (.read us)).1 := by
  have key : ∀ (us : List (Nat × Nat × Nat)) (a b : State) (q : QsReq),
      let f (m : Mem) (acc : State × QsReq) (u : Nat × Nat × Nat) : State × QsReq := (takeLs acc.1 u.2.1 u.2.2, { acc.2 with
        got := setBits acc.2.got (8 * (u.1 + u.2.2) - 1) (8 * u.1) (m.readNat u.2.1 u.2.2), poison := acc.2.poison || m.poisoned u.2.1 u.2.2 })
      (us.foldl (f t.oc) (a, q)).2 = (us.foldl (f s.oc) (b, q)).2 ∧ Looked a (us.foldl (f t.oc) (a, q)).1 := by
    intro us
    rw [h]
    induction us with
    | nil => exact fun a b q => ⟨rfl, .refl a⟩
    | cons u us ih =>
      intro a b q
      obtain ⟨h1, h2⟩ := ih (takeLs a u.2.1 u.2.2) (takeLs b u.2.1 u.2.2) { q with
        got := setBits q.got (8 * (u.1 + u.2.2) - 1) (8 * u.1) (s.oc.readNat u.2.1 u.2.2), poison := q.poison || s.oc.poisoned u.2.1 u.2.2 }
      exact ⟨h1, (takeLs_looked a _ _).trans h2⟩
  exact key us t s q

theorem performGrant_read_request (s : State) (q : QsReq) (us : List (Nat × Nat × Nat)) :
    ∃ got poison, (performGrant s q (.read us)).2 = { q with got := got, poison := poison } := by
  have key : ∀ (us : List (Nat × Nat × Nat)) (a : State × QsReq), (∃ got poison, a.2 = { q with got := got, poison := poison }) →
      ∃ got poison, (us.foldl (fun (acc : State × QsReq) u => (takeLs acc.1 u.2.1 u.2.2, { acc.2 with
        got := setBits acc.2.got (8 * (u.1 + u.2.2) - 1) (8 * u.1) (s.oc.readNat u.2.1 u.2.2)
        poison := acc.2.poison || s.oc.poisoned u.2.1 u.2.2 })) a).2 = { q with got := got, poison := poison } := by
    intro us
    induction us with
    | nil => exact fun a h => h
    | cons u us ih =>
      rintro a ⟨got, poison, h⟩
      exact ih _ ⟨_, _, by dsimp only; rw [h]⟩
  exact key us (s, q) ⟨q.got, q.poison, rfl⟩

/-- What the end of a request makes of a pending result. -/
def resultKnown (id due got : Nat) (k : Mark) (p : Pending) : Pending :=
  if p.id = id then (if p.val.isSome then { p with due := some due } else { p with val := some got, mark := k, due := some due }) else p

theorem finishQs_board (s : State) {q : QsReq} (h : q.vx = false) :
    finishQs s q = onCore s (fun c => { c with board := c.board.map (resultKnown q.id (s.clock + q.after) q.got (if q.poison then .poison q.addr else .clean)) }) := by
  have hf (p : Pending) (k : Mark) : (if p.id == q.id then (match p.val with
      | some _ => { p with due := some (s.clock + q.after) }
      | none => { p with val := some q.got, mark := k, due := some (s.clock + q.after) }) else p) = resultKnown q.id (s.clock + q.after) q.got k p := by
    unfold resultKnown
    by_cases hid : p.id = q.id
    · cases hv : p.val <;> simp [hid]
    · simp [hid]
  unfold finishQs
  dsimp only
  rw [h, if_neg Bool.false_ne_true]
  exact congrArg (onCore s) (funext fun c => congrArg (fun b => { c with board := b }) (congrArg (c.board.map ·) (funext fun p => hf p _)))

/-- A request that is done leaves, and its result is known (R122). -/
theorem serveQs_read {s t : State} {q : QsReq} {m : BitVec 32} {us : List (Nat × Nat × Nat)} (hp : q.parts = [(m, .read us)]) (hvx : q.vx = false)
    (h : t.oc = s.oc) :
    let g := (performGrant s q (.read us)).2
    (serveQs t q).core.vu.qs = t.core.vu.qs.filter (fun o => o.id != q.id) ∧ (serveQs t q).oc = t.oc ∧ RegistersKept t (serveQs t q) [] ∧
    (serveQs t q).core.board = t.core.board.map (resultKnown q.id (t.clock + q.after) g.got (if g.poison then .poison q.addr else .clean)) := by
  obtain ⟨hreq, hlook⟩ := performGrant_read_noted s t q us h
  obtain ⟨got, poison, hg⟩ := performGrant_read_request s q us
  rw [hg] at hreq ⊢
  have hserve : serveQs t q = finishQs (onVu (performGrant t q (.read us)).1 (fun u => { u with qs := u.qs.filter (fun o => o.id != q.id) }))
      { q with got := got, poison := poison, parts := [] } := by
    simp only [serveQs, hp, List.isEmpty_nil, if_true, hreq]
  rw [hserve, finishQs_board (q := { q with got := got, poison := poison, parts := [] }) _ hvx, hlook.eq]
  exact ⟨rfl, rfl, .of_eq rfl rfl rfl rfl rfl, rfl⟩

/-! ### Matrix operations -/

theorem perturb_queues (s : State) (o : MxOp) :
    (perturb s o).core.mx.array = s.core.mx.array ∧ (perturb s o).core.mx.transfer = s.core.mx.transfer := by
  unfold perturb
  split
  · exact ⟨rfl, rfl⟩
  · dsimp only
    split <;> exact ⟨rfl, rfl⟩

theorem drainResult_queues (s : State) (o : MxOp) :
    (drainResult s o).core.mx.array = s.core.mx.array ∧ (drainResult s o).core.mx.transfer = s.core.mx.transfer := by
  have hw (t : State) (a : Nat) (bs : List Byte) (p : Bool) :
      (placeWrite t (.oc a) bs p false (coreViewer t)).core.mx = t.core.mx := by
    rw [(placeWrite_oc_stored t a bs p (coreViewer t)).2.core]
  unfold drainResult
  dsimp only
  split
  · simp only [onCore_core, hw]
    exact ⟨rfl, rfl⟩
  · rw [hw]
    exact ⟨rfl, rfl⟩

/-- What a finished operation writes leaves the queues as they are. -/
theorem mxResult_queues (s : State) (o : MxOp) :
    (mxResult s o).core.mx.array = s.core.mx.array ∧ (mxResult s o).core.mx.transfer = s.core.mx.transfer := by
  have hp (t : State) (a : Nat) (l : List Nat) (p : Bool) :
      (perturb (tileSet t a l p) o).core.mx.array = t.core.mx.array ∧ (perturb (tileSet t a l p) o).core.mx.transfer = t.core.mx.transfer :=
    perturb_queues _ _
  unfold mxResult
  cases o.kind with
  | mma | mmat | mmag => exact hp _ _ _ _
  | mzero => exact hp _ _ _ _
  | mldc => exact hp _ _ _ _
  | mbwr =>
    show (panelResult s o).core.mx.array = _ ∧ (panelResult s o).core.mx.transfer = _
    unfold panelResult
    by_cases hb : o.bad = true
    · rw [if_pos hb]
      exact ⟨rfl, rfl⟩
    · rw [if_neg hb]
      dsimp only
      simp only [onMx, onCore_core, and_self]
  | mdrain => exact drainResult_queues s o

theorem mxResult_queue (s : State) (o : MxOp) (array : Bool) : mxQueue (mxResult s o).core.mx array = mxQueue s.core.mx array := by
  obtain ⟨ha, ht⟩ := mxResult_queues s o
  cases array
  · exact ht
  · exact ha

/-- An operation that may start takes its unit (R224). -/
theorem mxStart_starts {s : State} {array : Bool} {o : MxOp} (hf : (mxQueue s.core.mx array).find? (fun o => o.start.isNone) = some o)
    (hend : (if array then s.core.mx.arrayEnd else s.core.mx.transferEnd) ≤ s.clock) (hmay : mxMayStart s o = true) :
    mxQueue (mxStart s array).core.mx array = (mxQueue s.core.mx array).map (fun e => if e.order = o.order then { e with start := some s.clock } else e) ∧
    (if array then (mxStart s array).core.mx.arrayEnd else (mxStart s array).core.mx.transferEnd) = s.clock + mxOccupies o.kind ∧
    RegistersKept s (mxStart s array) [] ∧ outsideKept s (mxStart s array) := by
  have hcond : (decide ((if array then s.core.mx.arrayEnd else s.core.mx.transferEnd) ≤ s.clock) && mxMayStart s o) = true := by
    rw [hmay, decide_eq_true hend, Bool.and_self]
  have hb (a b : Nat) (x y : MxOp) : (if (a == b) = true then x else y) = if a = b then x else y := by simp
  simp only [mxStart, hf, hcond, if_true, hb]
  cases array <;> exact ⟨rfl, rfl, .of_eq rfl rfl rfl rfl rfl, rfl⟩

theorem onMx_congr {s : State} {f g : Matrix → Matrix} (h : f s.core.mx = g s.core.mx) : onMx s f = onMx s g :=
  congrArg (fun m => { s with core := { s.core with mx := m } }) h

/-- The one operation of a queue, whose results are due, is written (R224). -/
theorem mxComplete_one {s : State} {array : Bool} {o : MxOp} {t : Nat} (hq : mxQueue s.core.mx array = [o]) (hdone : o.done = false)
    (hread : o.kind = .mdrain → o.drained.isSome = true) (hstart : o.start = some t) (hdue : t + mxWrites o.kind ≤ s.clock) :
    mxComplete s array = onMx (mxResult s o) (fun m => mxSetQueue m array (if t + mxLeaves o.kind ≤ s.clock then [] else [{ o with done := true }])) := by
  have hnodrain : (o.kind == .mdrain && o.drained.isNone) = false := by
    by_cases hk : o.kind = .mdrain
    · have hsome := hread hk
      rw [Option.isNone_eq_false_iff.2 hsome, Bool.and_false]
    · have hbeq : (o.kind == .mdrain) = false := beq_eq_false_iff_ne.2 hk
      rw [hbeq, Bool.false_and]
  have hq' : mxQueue (mxResult s o).core.mx array = [o] := (mxResult_queue s o array).trans hq
  have hdue' : (o.start.map (fun t => decide (t + mxWrites o.kind ≤ s.clock))).getD false = true := by simp [hstart, hdue]
  unfold mxComplete
  simp only [hq, List.filter_cons, List.filter_nil, hdone, Bool.not_false, Bool.true_and, hdue', if_true, hnodrain, Bool.false_and,
    Bool.false_eq_true, if_false, List.foldl_nil, List.map_cons, List.map_nil, List.find?_cons, beq_self_eq_true, Option.getD_some,
    List.foldl_cons]
  refine onMx_congr ?_
  rw [hq']
  by_cases hl : t + mxLeaves o.kind ≤ s.clock <;> simp [hstart, hdue, hl]

/-- With one access to serve, and nothing else that asks, the clock serves that access (R122). -/
theorem grantQs_one {s : State} {q : QsReq} {d : QsDo} {m : BitVec 32} (hq : nextAccess s.core.vu s.clock = some q) (hp : q.parts = [(m, d)])
    (hsc : s.core.vu.scalar = none) (hperm : nextPermute s.core.vu s.clock = none) (hls : s.core.vu.qs.find? (fun q => q.kind == .imageLs) = none)
    (hasks : s.core.vu.asks = []) : grantQs s = serveQs (grantsNoted s) q := by
  have hwants : otherWants s = [(1, m)] := by
    simp [otherWants, hq, hp, hperm, hasks]
  have hgrants : clockGrants s = [(1, m)] := by
    unfold clockGrants
    rw [hwants, hsc, roundRobin_eq]
    by_cases hlast : s.core.vu.last < 1
    · simp [hlast, Nat.not_le.2 hlast, grantTurn]
    · simp [hlast, Nat.not_lt.1 hlast, grantTurn]
  have himage : imageDue s = none := by
    rw [List.find?_eq_none] at hls
    unfold imageDue
    rw [List.find?_eq_none]
    intro r hr hdue
    exact hls r hr (Bool.and_eq_true_iff.1 hdue).1
  rw [grantQs_eq, hq, hperm, himage, hgrants]
  rfl

/-- Settles O52, event by event. -/
theorem resultEvents : Obligations.ResultEvents := by
  refine fun s => ⟨⟨rfl, fun l hl => ?_⟩, ⟨rfl, writeDue_board s⟩, rfl, roundRobin_grants,
    ⟨(clockGrants_pairwise s).1, fun r hr hg => mem_clockGrants_scalar hr hg, fun c hc => mem_asks_of_won hc⟩,
    fun q m us hq hp hvx hsc hperm hls hasks => ?_, rfl, fun array o hf hend hmay => ⟨_, rfl, mxStart_starts hf hend hmay⟩,
    fun array o t hq hdone hread hstart hdue => congrArg Host.Outcome.next (mxComplete_one hq hdone hread hstart hdue)⟩
  · rw [holdSchedule_exposed] at hl
    simpa using (List.mem_filter.1 hl).2
  · rw [grantQs_one hq hp hsc hperm hls hasks]
    obtain ⟨hqs, hoc, hregs, hboard⟩ := serveQs_read (s := s) (t := grantsNoted s) hp hvx rfl
    have hnoted : RegistersKept s (grantsNoted s) [] := .of_eq rfl rfl rfl rfl rfl
    exact ⟨hqs, hoc, hnoted.comp hregs (fun _ _ h => h), hboard⟩

end Sys2Proof.Machine
end

section
/-!
SUPPORT. Preemption, halt requests, checkpoints and the wake of a sleeping core (R382, R383, R399, R408, R420).
-/
namespace Sys2Proof.Machine
open Sys2Proof
set_option Elab.async false -- proofs one at a time: the check of the whole text is near its memory limit

/-- What each decision of R382 does with the core's task. -/
def preemptBy (s : State) : PreemptOutcome → State
  | .drain => drainTask s
  | .kill => killTask s
  | .checkpoint => if spillReady s then beginSpill s else awaitSpill s

/-- The decision of R382 for a task, read off its four questions. -/
theorem applyPreempt_decided {s : State} {k : Nat} {t : Task} (hp : s.core.preempt = some k) (ht : s.core.task = some t)
    (hb : s.core.rangeBusy = false) (hsp : s.core.spilling = false) : applyPreempt s = preemptBy s (outcomeOf s k t) := by
  simp only [applyPreempt, hp, ht, hb, hsp, Bool.false_eq_true, if_false]
  cases outcomeOf s k t <;> rfl

theorem checkpointDue_decided {s : State} {k : Nat} {t : Task} (hp : s.core.preempt = some k) (ht : s.core.task = some t)
    (hsp : s.core.spilling = false) : checkpointDue s = (outcomeOf s k t == .checkpoint) := by
  simp only [checkpointDue, hp, ht, hsp, Bool.false_or]

/-- Whether a preempted task would end by itself in the time that the newcomer's tokens give (R382). -/
def endsSoon (s : State) (k : Nat) : Bool := decide (taskRemain s ≤ 64 * (k + 1)) && !inLwait s

/-- Whether a preempted task may be killed (R382). -/
def mayKill (s : State) (t : Task) : Bool :=
  restartable s && !(((nodeOf s t.lnum t.node).map (·.noKill)).getD false) && decide (t.age < 8704) && !isMember s && !unitsBusy s

theorem outcomeOf_eq (s : State) (k : Nat) (t : Task) : outcomeOf s k t =
    if endsSoon s k then .drain else if mayKill s t then .kill else if checkpointable s then .checkpoint else .drain := rfl

theorem wakeStep_ends {s : State} {a : XReg} {l : BitVec 2} {w : Nat × Nat} (hf : (s.core.bundle[s.core.idx]?).bind decode = some (.sleep a l))
    (hw : s.core.waiting = some w) (hh : s.core.haltAsked = false) (hp : s.core.preempt = none ∨ s.core.sw.ie = false)
    (hk : keepsSleeping s w.1 (readX s a).toNat = false) : wakeStep s = committed s (wakeLayers s) := by
  have hpre : (s.core.preempt.isSome && s.core.sw.ie) = false := by
    rcases hp with hp | hp <;> simp [hp]
  unfold wakeStep
  rw [hf]
  simp only [hw, hh, hpre, Option.isNone_some, Bool.false_eq_true, if_false, sleepRun, hk]
  rfl

theorem spillStep_ends {s : State} {i : Image} {t : Nat} (hs : s.dist.spill = some (i, t)) (ht : t ≤ s.clock) :
    spillStep s = { s with dist := { s.dist with spill := none, vault := s.dist.vault ++ [i] } } := by
  simp only [spillStep, endSpill, hs, Option.isSome_some, if_true, ht]

/-- Resuming leaves the registers, the task and the trap vector of the core, and puts it at the given address. -/
theorem resumeAt_resumes (s : State) (pc : CodeAddr) (b : Bool) (n w : Nat) :
    let u := resumeAt s pc b n w
    u.dist = s.dist ∧ u.core.x = s.core.x ∧ u.core.p = s.core.p ∧ u.core.v = s.core.v ∧ u.core.m = s.core.m ∧ u.core.g = s.core.g ∧
    u.core.run = s.core.run ∧ u.core.pc = pc ∧ u.core.task = s.core.task ∧ u.vrEngine = s.vrEngine ∧ u.core.trapVec = s.core.trapVec ∧
    u.core.trapSw = s.core.trapSw := by
  unfold resumeAt
  cases s.core.levels with
  | nil => exact ⟨rfl, rfl, rfl, rfl, rfl, rfl, rfl, rfl, rfl, rfl, rfl, rfl⟩
  | cons l rest => cases b <;> exact ⟨rfl, rfl, rfl, rfl, rfl, rfl, rfl, rfl, rfl, rfl, rfl, rfl⟩

theorem endRestore_resumes {s : State} {i : Image} {t : Nat} (hr : s.dist.restore = some (i, t)) (ht : t ≤ s.clock) (hc : channelTaken s i = false) :
    let u := endRestore s
    u.dist.restore = none ∧ u.core.x = i.core.x ∧ u.core.p = i.core.p ∧ u.core.v = i.core.v ∧ u.core.m = i.core.m ∧ u.core.g = i.core.g ∧
    u.core.run = .running ∧ u.core.pc = i.core.trapPc ∧ u.core.task = i.core.task.map (fun k => { k with boundAt := s.clock }) ∧
    u.vrEngine = i.vrEngine ∧ u.core.trapVec = i.core.trapVec ∧ u.core.trapSw = i.core.trapSw := by
  simp only [endRestore, hr, Nat.not_lt.2 ht, hc, decide_false, Bool.or_self, Bool.false_eq_true, if_false]
  obtain ⟨hd, hx, hp, hv, hm, hg, hrun, hpc, htask, hvr, hvec, hsw⟩ := resumeAt_resumes _ _ _ _ _
  rw [hd, hx, hp, hv, hm, hg, hrun, hpc, htask, hvr, hvec, hsw]
  exact ⟨rfl, rfl, rfl, rfl, rfl, rfl, rfl, rfl, rfl, rfl, rfl, rfl⟩

theorem bindRestore_restores (s : State) (i : Image) :
    (bindRestore s i).dist.restore = some (i, s.clock + 4352) ∧ (bindRestore s i).dist.vault = s.dist.vault.erase i := ⟨rfl, rfl⟩

/-- Settles O53, event by event. -/
theorem coreEvents : Obligations.CoreEvents := by
  refine fun s => ⟨fun hp hie hrun => ⟨fun hb hw => ?_, fun hw hbar => ?_⟩, fun k t hp ht => ⟨fun hb => ?_, fun hb hsp => ?_⟩,
    fun k t hp ht hb hsp => ?_, fun hh hrun => ⟨fun hw => ?_, fun hw hb => ?_⟩, fun hs hie hb hready => ?_,
    fun i t hs ht => congrArg Host.Outcome.next (spillStep_ends hs ht), fun l i hr hc hv hfree => ⟨?_, bindRestore_restores s i⟩,
    fun i t hr ht hc => ⟨endRestore s, ?_, endRestore_resumes hr ht hc⟩,
    fun a l w hf hw hh hp hk => congrArg Host.Outcome.next (wakeStep_ends hf hw hh hp hk)⟩
  · exact congrArg Host.Outcome.next (by simp [takePreempt, hp, hie, hrun, hb, hw])
  · exact congrArg Host.Outcome.next (by simp [takePreempt, hp, hie, hrun, hw, hbar])
  · simp only [applyPreempt, hp, ht, hb, if_true]
  · simp only [applyPreempt, hp, ht, hb, hsp, Bool.false_eq_true, if_false, if_true]
  · have hdec := applyPreempt_decided hp ht hb hsp
    have hdue := checkpointDue_decided hp ht hsp
    rw [outcomeOf_eq] at hdec hdue
    show (endsSoon s k = true → _) ∧ (endsSoon s k = false → mayKill s t = true → _) ∧ (endsSoon s k = false → mayKill s t = false → _) ∧
      (endsSoon s k = false → mayKill s t = false → _) ∧ (endsSoon s k = false → mayKill s t = false → _) ∧
      checkpointDue s = (!endsSoon s k && !mayKill s t && checkpointable s)
    rw [hdec, hdue]
    refine ⟨fun he => ?_, fun he hk => ?_, fun he hk hc hr => ?_, fun he hk hc hr => ?_, fun he hk hc => ?_, ?_⟩
    · simp only [he, if_true, preemptBy]
    · simp only [he, hk, Bool.false_eq_true, if_false, if_true, preemptBy]
    · simp only [he, hk, hc, hr, Bool.false_eq_true, if_false, if_true, preemptBy]
    · simp only [he, hk, hc, hr, Bool.false_eq_true, if_false, if_true, preemptBy]
    · simp only [he, hk, hc, Bool.false_eq_true, if_false, preemptBy]
    · cases endsSoon s k <;> cases mayKill s t <;> cases checkpointable s <;> rfl
  · exact congrArg Host.Outcome.next (by simp [takeHalt, hh, hrun, hw])
  · exact congrArg Host.Outcome.next (by simp [takeHalt, hh, hrun, hw, hb, boundaryPoint])
  · refine congrArg Host.Outcome.next ?_
    by_cases hd : checkpointDue s <;> simp [spillStep, hs, hie, hb, hready, hd]
  · exact congrArg Host.Outcome.next (by simp [restoreStep, hr, hc, hv, hfree])
  · exact congrArg Host.Outcome.next (by simp [restoreStep, hr])

end Sys2Proof.Machine
end

section
/-!
SUPPORT. Fields of words, and the steps of the memory system (R79, R80, R126, R129, R132, R135, R139, R140, R148, R149).
-/
namespace Sys2Proof.Machine
open Sys2Proof
set_option Elab.async false -- proofs one at a time: the check of the whole text is near its memory limit

/-! ### Fields of a word -/

theorem testBit_bits (v hi lo i : Nat) : (bits v hi lo).testBit i = (decide (i < hi + 1 - lo) && v.testBit (lo + i)) := by
  rw [bits, Nat.testBit_mod_two_pow, Nat.testBit_shiftRight]

/-- A field replaced: its own bits are the new ones, every other bit stays (R66). -/
theorem testBit_setBits (v f i : Nat) {hi lo : Nat} (h : lo ≤ hi) : (setBits v hi lo f).testBit i =
    if i < lo then v.testBit i else if i ≤ hi then f.testBit (i - lo) else v.testBit i := by
  obtain ⟨w, rfl⟩ := Nat.exists_eq_add_of_le h
  have hw : lo + w + 1 - lo = w + 1 := by omega
  have hsplit : setBits v (lo + w) lo f = 2 ^ lo * (2 ^ (w + 1) * (v >>> lo / 2 ^ (w + 1)) + f % 2 ^ (w + 1)) + v % 2 ^ lo := by
    have h1 := Nat.div_add_mod v (2 ^ lo)
    have h2 := Nat.div_add_mod (v / 2 ^ lo) (2 ^ (w + 1))
    rw [setBits, hw, Nat.shiftRight_eq_div_pow]
    generalize hq : v / 2 ^ lo / 2 ^ (w + 1) = q at *
    generalize v / 2 ^ lo % 2 ^ (w + 1) = r at *
    have hv : v = (2 ^ (w + 1) * q) * 2 ^ lo + r * 2 ^ lo + v % 2 ^ lo := by
      rw [← Nat.add_mul, h2, Nat.mul_comm, h1]
    calc v - r * 2 ^ lo + f % 2 ^ (w + 1) * 2 ^ lo = (2 ^ (w + 1) * q) * 2 ^ lo + v % 2 ^ lo + f % 2 ^ (w + 1) * 2 ^ lo := by omega
      _ = 2 ^ lo * (2 ^ (w + 1) * q + f % 2 ^ (w + 1)) + v % 2 ^ lo := by ring
  rw [hsplit, Nat.testBit_two_pow_mul_add _ (Nat.mod_lt _ (Nat.two_pow_pos _))]
  by_cases hi1 : i < lo
  · simp [hi1, Nat.testBit_mod_two_pow]
  · rw [if_neg hi1, if_neg hi1, Nat.testBit_two_pow_mul_add _ (Nat.mod_lt _ (Nat.two_pow_pos _)), Nat.testBit_mod_two_pow, Nat.testBit_div_two_pow,
      Nat.testBit_shiftRight]
    by_cases hi2 : i ≤ lo + w
    · simp [hi2, show i - lo < w + 1 by omega]
    · rw [if_neg (by omega), if_neg hi2]
      congr 1
      omega

theorem bit_eq_testBit (v i : Nat) : bit v i = v.testBit i := by
  rw [bit, Nat.testBit_eq_decide_div_mod_eq, Nat.shiftRight_eq_div_pow, beq_eq_decide]

theorem bits_eq_iff {v w hi lo : Nat} : bits v hi lo = bits w hi lo ↔ ∀ i, lo ≤ i → i ≤ hi → v.testBit i = w.testBit i := by
  refine ⟨fun h i h1 h2 => ?_, fun h => Nat.eq_of_testBit_eq fun i => ?_⟩
  · have hb := congrArg (fun n : Nat => n.testBit (i - lo)) h
    simpa [testBit_bits, show i - lo < hi + 1 - lo by omega, show lo + (i - lo) = i by omega] using hb
  · rw [testBit_bits, testBit_bits]
    by_cases hi : i < hi + 1 - lo
    · rw [h (lo + i) (by omega) (by omega)]
    · simp [hi]

theorem bits_eq_of_lt {n hi : Nat} (h : n < 2 ^ (hi + 1)) : bits n hi 0 = n := Nat.mod_eq_of_lt h

/-! ### Words of the hub -/

theorem hubNat_hubSet_ofNat (s : State) (a v : Nat) : hubNat (hubSet s a (BitVec.ofNat 64 v)) a = v % 2 ^ 64 := by
  rw [hubNat, hubGet, hubSet_hub, lookupD_storeAt_same, BitVec.toNat_ofNat]

theorem hubGet_hubSet_same (s : State) (a : Nat) (w : Word) : hubGet (hubSet s a w) a = w := lookupD_storeAt_same _ _ _ _

theorem sliceGet_sliceSet (s : State) (k : Nat) (p : SlicePart) : sliceGet (sliceSet s k p) k = p := lookupD_storeAt_same _ _ _ _

/-! ### The slices of the memory-side cache -/

theorem Mem.byte_clear_outside {m : Mem} {a n x : Nat} (h : x < a ∨ a + n ≤ x) : (m.clear a n).byte x = m.byte x := by
  have hfind : (m.clear a n).cells.find? (fun c => c.1 == x) = m.cells.find? (fun c => c.1 == x) := by
    show (m.cells.filter _).find? _ = _
    rw [List.find?_filter]
    refine congrArg (fun p => m.cells.find? p) (funext fun c => ?_)
    by_cases hc : c.1 = x
    · subst hc
      simpa using h
    · simp [hc]
  simp only [Mem.byte, hfind]

/-! ### The steps -/

/-- The low field of a word of the hub, as it has been stored. -/
theorem bits_hubSet_setBits (s : State) (a v : Nat) {hi c : Nat} (hhi : hi < 64) (hc : c < 2 ^ (hi + 1)) :
    bits (hubNat (hubSet s a (BitVec.ofNat 64 (setBits v hi 0 c))) a) hi 0 = c := by
  conv_rhs => rw [← bits_eq_of_lt hc]
  rw [hubNat_hubSet_ofNat, bits_eq_iff]
  intro i _ hi
  rw [Nat.testBit_mod_two_pow, testBit_setBits _ _ _ (Nat.zero_le _)]
  simp [hi, show i < 64 by omega]

/-- A format range enabled, or refused with `ERR` (R80). -/
theorem frEnable_answers (s : State) (h n : Nat) : bits (hubNat (frEnable s h n) (frAddr h n 0)) 1 0 ∈ [1, 2] := by
  unfold frEnable
  dsimp only
  split <;> rw [bits_hubSet_setBits _ _ _ (by decide) (by decide)] <;> decide

theorem frFlushed_off {s : State} {h n : Nat} (hf : 16 * h + n ∈ s.sys.flushing) : frEnabled (frFlushed s h n) h n = false := by
  have hcon : s.sys.flushing.contains (16 * h + n) = true := by simpa using hf
  have key (t : State) (v : Nat) (ys : List Nat) :
      frEnabled { hubSet t (frAddr h n 0) (BitVec.ofNat 64 (setBits v 0 0 0)) with sys := { (hubSet t (frAddr h n 0) (BitVec.ofNat 64 (setBits v 0 0 0))).sys with flushing := ys } } h n = false := by
    show bit (hubNat (hubSet t (frAddr h n 0) (BitVec.ofNat 64 (setBits v 0 0 0))) (frAddr h n 0)) 0 = false
    rw [hubNat_hubSet_ofNat, bit_eq_testBit, Nat.testBit_mod_two_pow, testBit_setBits _ _ _ (Nat.le_refl 0)]
    simp
  unfold frFlushed
  rw [hcon, if_neg (by simp)]
  exact key _ _ _

/-- A legal write of `COHCTL` is taken (R148). -/
theorem cohctlStore_taken {s : State} {v : Word} (h8 : 8 ≤ bits v.toNat 15 0) (h1024 : bits v.toNat 15 0 ≤ 1024) :
    bits (hubNat (cohctlStore s v) 0x4003000000) 16 0 = bits v.toNat 15 0 := by
  have key (old n : Nat) (hn : n ≤ 1024) : bits (hubNat (hubSet s 0x4003000000 (BitVec.ofNat 64 (setBits (setBits old 16 16 0) 15 0 n))) 0x4003000000) 16 0 = n := by
    rw [hubNat_hubSet_ofNat, ← bits_eq_of_lt (n := n) (hi := 16) (by omega), bits_eq_iff]
    intro i _ hi
    rw [Nat.testBit_mod_two_pow, testBit_setBits _ _ _ (Nat.zero_le 15), testBit_setBits _ _ _ (Nat.le_refl 16), bits_eq_of_lt (by omega)]
    by_cases h15 : i ≤ 15
    · simp [h15, show i < 64 by omega]
    · obtain rfl : i = 16 := by omega
      simpa using Nat.testBit_lt_two_pow (show n < 2 ^ 16 by omega)
  unfold cohctlStore
  simp only [show ¬ (bits v.toNat 15 0 < 8) by omega, show ¬ (1024 < bits v.toNat 15 0) by omega, decide_false, Bool.or_self, Bool.false_eq_true, if_false]
  exact key _ _ h1024

/-- Any other write is refused with `ERR` (R148). -/
theorem cohctlStore_refused {s : State} {v : Word} (h : bits v.toNat 15 0 < 8 ∨ 1024 < bits v.toNat 15 0) :
    bits (hubNat (cohctlStore s v) 0x4003000000) 15 0 = bits (hubNat s 0x4003000000) 15 0 ∧ bit (hubNat (cohctlStore s v) 0x4003000000) 16 = true := by
  have hcond : cohctlStore s v = hubSet s 0x4003000000 (BitVec.ofNat 64 (setBits (hubNat s 0x4003000000) 16 16 1)) := by
    unfold cohctlStore
    dsimp only
    rw [if_pos (by simpa using h)]
  rw [hcond, hubNat_hubSet_ofNat]
  refine ⟨bits_eq_iff.2 fun i _ hi => ?_, ?_⟩
  · rw [Nat.testBit_mod_two_pow, testBit_setBits _ _ _ (Nat.le_refl 16)]
    simp [show i < 16 by omega, show i < 64 by omega]
  · rw [bit_eq_testBit, Nat.testBit_mod_two_pow, testBit_setBits _ _ _ (Nat.le_refl 16)]
    simp

theorem rebaseNow_rebased (s : State) : ∃ n, rebaseNow s = rebaseBy (drawn s) n := ⟨_, rfl⟩

theorem rebaseBy_marks (s : State) (n : Nat) : bit (hubNat (rebaseBy s n) 0x4003000000) 17 = true := by
  show bit (hubGet (hubSet s 0x4003000000 (hubGet s 0x4003000000 ||| 0x20000)) 0x4003000000).toNat 17 = true
  rw [hubGet_hubSet_same, bit_eq_testBit, BitVec.testBit_toNat, BitVec.getLsbD_or]
  simp

theorem walkRetry_due {s : State} {p t n r : Nat} {l : Leaf} (hw : s.sys.walk = some (p, t)) (ht : t ≤ s.clock) (hl : walkRoot s r (p * 4096) = some l) :
    walkRetry s n r = if l.size = 0 then s else if l.moving then { s with sys := { s.sys with walk := some (p, s.clock + 256) } }
      else tlbFill { s with sys := { s.sys with walk := none } } ⟨p * 4096 / l.size * l.size, l.size, n, l.page, l.rights⟩ := by
  simp only [walkRetry, hw, Nat.not_lt.2 ht, if_false, hl, beq_iff_eq]

theorem mem_lineFill (s : State) (a : Nat) : a / 128 ∈ (lineFill s a).sys.icache := by
  unfold lineFill
  dsimp only
  split <;> exact insertKey_mem.2 (.inl rfl)

theorem lineFill_room {s : State} {a : Nat} (h : (setLines s (a / 128)).length < 4) :
    lineFill s a = { s with sys := { s.sys with icache := insertKey (a / 128) s.sys.icache } } := by
  unfold lineFill
  dsimp only
  rw [if_pos (by simp [h])]

/-- Settles O54, event by event. -/
theorem memoryEvents : Obligations.MemoryEvents := by
  refine fun s => ⟨fun k n hb => ⟨fun hn => ?_, fun hn => ?_⟩, fun k hb hscan hl => ?_, fun h n => ⟨fun hen => ⟨?_, frEnable_answers s h n, rfl⟩, fun hen => ?_, fun hf => ⟨?_, frFlushed_off hf⟩⟩,
    fun v => ⟨cohctlStore s v, rfl, ?_, cohctlStore_taken, cohctlStore_refused⟩, ?_, fun h => rfl,
    fun p t l hw ht hl => ?_, fun va => rfl, fun a => ⟨lineFill s a.toNat, rfl, mem_lineFill s _, lineFill_room⟩, rfl, fun w r hr => ?_, fun l d => rfl⟩
  · exact congrArg Host.Outcome.next (by simp [growNow, hb, hn])
  · refine ⟨mscShrink s k n, congrArg Host.Outcome.next (by simp [shrinkNow, hb, hn]), ?_, ?_, fun a ha => Mem.byte_clear_outside (.inl ha)⟩ <;>
      simp only [mscShrink, sliceGet_sliceSet]
  · refine ⟨mscGrowDone s k, congrArg Host.Outcome.next (by simp [hscan, hl]), ?_, ?_⟩ <;>
      simp [mscGrowDone, hb, sliceGet_sliceSet]
  · exact congrArg Host.Outcome.next (by simp [hen])
  · exact congrArg Host.Outcome.next (by simp [hen, frDisable])
  · exact congrArg Host.Outcome.next (by simp [hf])
  · unfold cohctlStore
    dsimp only
    split <;> rfl
  · obtain ⟨n, hn⟩ := rebaseNow_rebased s
    refine ⟨rebaseBy (drawn s) n, congrArg Host.Outcome.next hn, rebaseBy_marks _ n, ⟨n, rfl, rfl⟩, rfl, .of_eq rfl rfl rfl rfl rfl⟩
  · refine ⟨fun h0 => congrArg Host.Outcome.next ?_, fun h0 hm => congrArg Host.Outcome.next ?_, fun h0 hm => congrArg Host.Outcome.next ?_⟩ <;>
      rw [walkRetry_due hw ht hl]
    · rw [if_pos h0]
    · rw [if_neg h0, if_pos hm]
    · rw [if_neg h0, hm, if_neg Bool.false_ne_true]
  · exact congrArg Host.Outcome.next (by simp only [hostComplete, hr]; rfl)

end Sys2Proof.Machine
end

section
/-!
SUPPORT. The steps of the block-transfer engine and of the row engine (R241, R244, R253, R254, R265, R276).
-/
namespace Sys2Proof.Machine
open Sys2Proof
set_option Elab.async false -- proofs one at a time: the check of the whole text is near its memory limit

/-! ### States with the same registers -/

/-- The register files of two states agree. -/
structure RegistersSame (s t : State) : Prop where
  x : t.core.x = s.core.x
  p : t.core.p = s.core.p
  v : t.core.v = s.core.v
  m : t.core.m = s.core.m
  g : t.core.g = s.core.g

theorem RegistersSame.refl (s : State) : RegistersSame s s := ⟨rfl, rfl, rfl, rfl, rfl⟩
theorem RegistersSame.trans {s t u : State} (h : RegistersSame s t) (k : RegistersSame t u) : RegistersSame s u :=
  ⟨k.x.trans h.x, k.p.trans h.p, k.v.trans h.v, k.m.trans h.m, k.g.trans h.g⟩
theorem RegistersSame.of_core {s t : State} (h : t.core = s.core) : RegistersSame s t := ⟨by rw [h], by rw [h], by rw [h], by rw [h], by rw [h]⟩
theorem RegistersSame.kept {s t : State} (h : RegistersSame s t) : RegistersKept s t [] := .of_eq h.x h.p h.v h.m h.g
theorem RegistersSame.ite {s t u : State} {c : Prop} [Decidable c] (h : RegistersSame s t) (k : RegistersSame s u) :
    RegistersSame s (if c then t else u) := by
  split
  · exact h
  · exact k
theorem Stamped.registers {s t : State} (h : Stamped s t) : RegistersSame s t := by
  rw [h.eq]
  exact ⟨rfl, rfl, rfl, rfl, rfl⟩

theorem stampSignal_stamped (s : State) (k : Nat) : Stamped s (stampSignal s k) :=
  (stampRoom_stamped s _).trans ⟨rfl, fun _ _ => rfl, rfl⟩

theorem barrierUpdate_registers (s : State) (oc n : Nat) (e : Int) : RegistersSame s (barrierUpdate s oc n e) :=
  (RegistersSame.of_core (s := s) (t := barrierSet s oc ((barrierAt s oc).update n e)) rfl).trans (stampSignal_stamped _ (ocKey oc)).registers

theorem chanPost_registers (s : State) (k : Nat) (w : Word) : RegistersSame s (chanPost s k w) := by
  unfold chanPost
  split <;> exact ⟨rfl, rfl, rfl, rfl, rfl⟩

theorem spoilTag_registers (s : State) (l n t : Nat) : RegistersSame s (spoilTag s l n t) := ⟨rfl, rfl, rfl, rfl, rfl⟩

/-! ### The block-transfer engine -/

theorem bteAbort_registers (s : State) (k : Nat) (t : Template) (w : Nat) (r : Bool) (f : Nat) (c : Cause) : RegistersSame s (bteAbort s k t w r f c) := by
  have hend (u : State) : RegistersSame u (chanPost (setChan (untouch (setErrBit u k) (1 + k)) k { chanOf (untouch (setErrBit u k) (1 + k)) k with
      active := none, window := false }) k (completionWord w f c.code k 0 t.tag)) :=
    RegistersSame.trans (t := setChan (untouch (setErrBit u k) (1 + k)) k { chanOf (untouch (setErrBit u k) (1 + k)) k with active := none, window := false })
      ⟨rfl, rfl, rfl, rfl, rfl⟩ (chanPost_registers _ _ _)
  unfold bteAbort
  dsimp only
  split
  · exact (barrierUpdate_registers _ _ _ _).trans (hend _)
  · exact hend s

theorem foldl_eregSet_core (l : List Nat) (f : Nat → Word) (k : Nat) (s : State) : (l.foldl (fun s i => eregSet s k i (f i)) s).core = s.core := by
  induction l generalizing s with
  | nil => rfl
  | cons i l ih => exact ih _

theorem bteBegin_registers (s : State) (k : Nat) (cmd : Cmd) (ws : List Word) : RegistersSame s (bteBegin s k cmd ws) := by
  have hset (v : Word) (f : Nat → Word) : RegistersSame s (eregSet ((List.range 8).foldl (fun s i => eregSet s k i (f i)) s) k 8 v) :=
    .of_core (foldl_eregSet_core _ f k s)
  unfold bteBegin
  dsimp only
  split
  · exact (RegistersSame.ite ((hset _ _).trans (spoilTag_registers _ _ _ _)) (hset _ _)).trans (bteAbort_registers _ _ _ _ _ _ _)
  · exact (RegistersSame.ite ((hset _ _).trans (spoilTag_registers _ _ _ _)) (hset _ _)).trans (.of_core rfl)

theorem bteStart_registers (s : State) (k : Nat) : RegistersSame s (bteStart s k) := by
  unfold bteStart
  dsimp only
  split
  · exact .refl s
  · split
    · exact .refl s
    · split
      · refine (RegistersSame.of_core ?_).trans (bteBegin_registers _ _ _ _)
        rfl
      · exact .of_core rfl

/-- One sector, read and written at the addresses of a template without ring and barrier (R241). -/
theorem bteSector_moves {s u v w : State} {k : Nat} {a : Active} {p q : Place} {g h : List HeldPage} (ha : (chanOf s k).active = some a)
    (hl : a.loading = false) (hn : a.next < bteLimit s a) (hr : a.ready ≤ s.clock) (hd : (template a.words).dring = false)
    (hb : (template a.words).bar = false) (hu : u = setChan s k { chanOf s k with active := some a })
    (hread : engAccess u (cmdUser k a.cmd) a.pages (template a.words).sspace
      ((template a.words).place ((template a.words).sa a.cmd.delta) (template a.words).spstride (template a.words).sstride a.next) 32 { rd := true } = .ok v (p, g))
    (hwrite : engAccess v (cmdUser k a.cmd) g (template a.words).dspace
      ((template a.words).place ((template a.words).da a.cmd.delta) (template a.words).dpstride (template a.words).dstride a.next) 32 { wr := true } = .ok w (q, h)) :
    bteSector s k = bteAdvance (placeWrite (placeRead w p 32 true ((cmdUser k a.cmd).viewer w)).1 q (placeRead w p 32 true ((cmdUser k a.cmd).viewer w)).2.1
      (placeRead w p 32 true ((cmdUser k a.cmd).viewer w)).2.2 true ((cmdUser k a.cmd).viewer w)) k { a with pages := h } (template a.words)
      (placeRead w p 32 true ((cmdUser k a.cmd).viewer w)).2.2 := by
  have hgo : ¬ (bteLimit s a ≤ a.next ∨ s.clock < a.ready) := by omega
  have hclaim : claimFor s (template a.words) a = some (s, a) := by simp [claimFor, hd]
  unfold bteSector
  simp only [ha, hl, Bool.false_eq_true, if_false, if_neg hgo, hd, Bool.false_and, hclaim, ← hu, hread, hwrite, hb]

/-! ### Rings -/

theorem ringOn_eq (c : Core) (k : Fin 16) : ringOn c k = c.rngCfg[k].getLsbD 63 := by
  simp [ringOn, bit_toNat]

theorem rngFree_rngWord {free filled : Nat} (h : free < 512) (h' : filled < 512) : rngFree (rngWord 0 0 free filled) = free := by
  simp only [rngFree, rngWord, bits, BitVec.toNat_ofNat, Nat.shiftRight_eq_div_pow]
  omega

theorem rngFilled_rngWord {free filled : Nat} (h : filled < 512) : rngFilled (rngWord 0 0 free filled) = filled := by
  simp only [rngFilled, rngWord, bits, BitVec.toNat_ofNat, Nat.shiftRight_eq_div_pow]
  omega

theorem ringSlots_lt (c : Core) (n : Nat) : ringSlots c n < 512 := by
  have : bits ((c.rngCfg[n]?).getD 0).toNat 39 32 < 2 ^ (39 + 1 - 32) := Nat.mod_lt _ (Nat.two_pow_pos _)
  unfold ringSlots
  omega

theorem enableRing_counts {s : State} {k : Fin 16} {v : Word} (hoff : ringOn s.core k = false) (hok : ringRefused s k (v &&& rngMask) = false) :
    rngFree (ringCnt (enableRing s k v) k) = ringSlots (enableRing s k v).core k ∧ rngFilled (ringCnt (enableRing s k v) k) = 0 := by
  have hcnt : ringCnt (enableRing s k v) k = rngWord 0 0 (ringSlots (enableRing s k v).core k) 0 := by
    simp only [enableRing, hoff, hok, Bool.false_eq_true, if_false, setRingCfg_core, setRingCnt_core, setClaim_bte, ringCnt]
    simp [flipTo, ringSlots]
  rw [hcnt]
  exact ⟨rngFree_rngWord (ringSlots_lt _ _) (by decide), rngFilled_rngWord (by decide)⟩

theorem enableRing_refused_eq {s : State} {k : Fin 16} {v : Word} (hoff : ringOn s.core k = false) (hno : ringRefused s k (v &&& rngMask) = true) :
    enableRing s k v = setRingCfg s k ((v &&& rngMask) ||| (1#64 <<< 62)) := by
  simp only [enableRing, hoff, hno, Bool.false_eq_true, if_false, if_true]

/-! ### Bitwise regions -/

theorem bwEnable_answers (s : State) (h n : Nat) : hubNat (bwEnable s h n) (bwAddr h n 0) ∈ [1, 2] := by
  unfold bwEnable
  dsimp only
  split <;> rw [hubNat, hubGet_hubSet_same] <;> decide

theorem bwOff_off (s : State) (h n : Nat) : bwOn (bwOff s h n) h n = false := by
  unfold bwOff bwOn
  rw [hubNat_hubSet_ofNat, bit_eq_testBit, Nat.testBit_mod_two_pow, testBit_setBits _ _ _ (Nat.le_refl 0)]
  simp

/-! ### Refresh -/

theorem refreshMay_iff (s : State) (k n : Nat) :
    refreshMay s k n = true ↔ bankStepped s k = false ∧ (bankHeld s k = false ∨ n + 4 * refreshEvery s k ≤ s.clock) := by
  simp [refreshMay, refreshPressing]

/-- Settles O55, event by event. -/
theorem engineEvents : Obligations.EngineEvents := by
  refine fun s => ⟨fun k c r hq hact hpost => ⟨rfl, (bteStart_registers s k).kept, fun harm => ?_⟩,
    fun k a b u v w p q g h ha hl hn hr hd hb => ?_, rfl, fun v => rfl, fun n v hoff => ⟨fun hno => ?_, fun hok => ?_⟩, fun n v hon => ?_,
    fun k a b t ha hc => ?_, rfl, fun k o r hq hpost hacc hready => ⟨rfl, fun hs hi hk => ?_⟩,
    fun h n => ⟨fun hoff => ⟨bwEnable s h n, ?_, bwEnable_answers s h n, ?_⟩, fun hin => ⟨bwOff s h n, ?_, bwOff_off s h n, rfl⟩, fun hin => ?_⟩, fun h b => ?_⟩
  · simp only [bteStart, hq, hact, hpost, harm, Option.isSome_none, List.isEmpty_nil, Bool.not_true, Bool.or_self, Bool.false_eq_true, if_false]
  · intro t x hbe hu hread hwrite
    rw [hbe]
    exact congrArg Host.Outcome.next (bteSector_moves ha hl hn hr hd hb hu hread hwrite)
  · exact congrArg Host.Outcome.next (enableRing_refused_eq hoff hno)
  · obtain ⟨hcfg, hown⟩ := enableRing_enabled hoff hok
    obtain ⟨hfree, hfilled⟩ := enableRing_counts hoff hok
    exact ⟨enableRing s n v, rfl, by rw [ringOn_eq, hcfg]; simp, hfree, hfilled, hown⟩
  · obtain ⟨hcfg, hcnt, hown⟩ := disableRing_on v hon
    exact ⟨disableRing s n v, rfl, by rw [ringOn_eq, hcfg]; simp [rngMask], by simpa [ringCnt] using hcnt, hown⟩
  · exact congrArg Host.Outcome.next (by simp only [ringClaim, ha, hc])
  · have h1 : ¬ s.clock < o.accepted + 64 := by omega
    have h2 : ¬ s.clock < o.ready := by omega
    simp only [rowStepNow, hq, hpost, List.isEmpty_nil, h1, h2, hs, hi, hk, decide_false, Bool.not_true, Bool.false_and, Bool.or_self, Bool.false_eq_true,
      if_false, if_true]
  · exact congrArg Host.Outcome.next (by simp [hoff])
  · unfold bwEnable
    dsimp only
    split <;> rfl
  · exact congrArg Host.Outcome.next (by simp [bwDisable, hin])
  · exact congrArg Host.Outcome.next (by simp [bwDisable, hin])
  · intro k p may
    have hmay : may ↔ refreshMay s k p.1 = true := (refreshMay_iff s k p.1).symm
    refine ⟨fun hno => congrArg Host.Outcome.next (if_neg fun hm => hno (hmay.2 hm)), fun hyes => congrArg Host.Outcome.next (if_pos (hmay.1 hyes)), rfl⟩

end Sys2Proof.Machine
end

section
/-!
SUPPORT. The steps of the Tether fabric (R157, R158, R281, R284 to R299, R306).
-/
namespace Sys2Proof.Machine
open Sys2Proof
set_option Elab.async false -- proofs one at a time: the check of the whole text is near its memory limit

/-! ### Units and what they report -/

theorem unitOf_setUnit {s : State} {d : Nat} (h : d < 3) (u : TetherUnit) : unitOf (setUnit s d u) d = u := by
  simp [unitOf, setUnit, h]

theorem setUnit_kept (s : State) (d : Nat) (u : TetherUnit) : (setUnit s d u).core = s.core ∧ (setUnit s d u).oc = s.oc ∧ (setUnit s d u).sys = s.sys ∧
    (setUnit s d u).hub = s.hub ∧ (setUnit s d u).plat = s.plat ∧ (setUnit s d u).clock = s.clock := by
  unfold setUnit
  split <;> exact ⟨rfl, rfl, rfl, rfl, rfl, rfl⟩

/-- What a unit does about a lost line: it may report more, and changes neither the lines that it knows as lost or drifted nor any memory. -/
structure Reports (d : Nat) (s t : State) : Prop where
  core : t.core = s.core
  oc : t.oc = s.oc
  sys : t.sys = s.sys
  lost : (unitOf t d).lost = (unitOf s d).lost
  drifted : (unitOf t d).drifted = (unitOf s d).drifted
  events : ∃ r, (unitOf t d).events = (unitOf s d).events ++ r

theorem Reports.refl (d : Nat) (s : State) : Reports d s s := ⟨rfl, rfl, rfl, rfl, rfl, [], (List.append_nil _).symm⟩
theorem Reports.trans {d : Nat} {s t u : State} (h : Reports d s t) (k : Reports d t u) : Reports d s u := by
  obtain ⟨r, hr⟩ := h.events
  obtain ⟨q, hq⟩ := k.events
  exact ⟨k.core.trans h.core, k.oc.trans h.oc, k.sys.trans h.sys, k.lost.trans h.lost, k.drifted.trans h.drifted, r ++ q, by rw [hq, hr, List.append_assoc]⟩
theorem Reports.foldl {α : Type} {d : Nat} {f : State → α → State} (h : ∀ s x, Reports d s (f s x)) (l : List α) (s : State) : Reports d s (l.foldl f s) := by
  induction l generalizing s with
  | nil => exact .refl d s
  | cons x l ih => exact (h s x).trans (ih _)

/-- Whatever leaves core, memories and units as they are. -/
theorem Reports.of_eq {d : Nat} {s t : State} (hc : t.core = s.core) (ho : t.oc = s.oc) (hs : t.sys = s.sys) (hu : t.fabric.units = s.fabric.units) : Reports d s t := by
  have he : unitOf t d = unitOf s d := by rw [unitOf, hu, unitOf]
  exact ⟨hc, ho, hs, by rw [he], by rw [he], [], by rw [he, List.append_nil]⟩

theorem setUnit_reports {d : Nat} (h : d < 3) (s : State) {u : TetherUnit} (hl : u.lost = (unitOf s d).lost) (hd : u.drifted = (unitOf s d).drifted)
    (he : ∃ r, u.events = (unitOf s d).events ++ r) : Reports d s (setUnit s d u) := by
  obtain ⟨hcore, hoc, hsys, -⟩ := setUnit_kept s d u
  refine ⟨hcore, hoc, hsys, ?_, ?_, ?_⟩ <;> rw [unitOf_setUnit h]
  · exact hl
  · exact hd
  · exact he

theorem sendControl_units (s : State) (dst aux l a : Nat) (pay : List Sector) : (sendControl s dst aux l a pay).fabric.units = s.fabric.units := by
  unfold sendControl enqueue
  dsimp only
  split <;> rfl

theorem sendControl_reports (d : Nat) (s : State) (dst aux l a : Nat) (pay : List Sector) : Reports d s (sendControl s dst aux l a pay) := by
  have h := sendControl_networked s dst aux l a pay
  unfold Networked at h
  exact .of_eq (congrArg State.core h :) (congrArg State.oc h :) (congrArg State.sys h :) (sendControl_units s dst aux l a pay)

theorem sendProposal_reports (d : Nat) (s : State) (n k : Nat) : Reports d s (sendProposal s n k) := by
  unfold sendProposal
  dsimp only
  apply Reports.foldl
  intro t x
  apply Reports.foldl
  intro u p
  exact sendControl_reports d u _ _ _ _ _

theorem propose_reports {d : Nat} (h : d < 3) (s : State) (t : List (Nat × Nat)) (b : Bool) : Reports d s (propose s d t b) := by
  unfold propose
  dsimp only
  split
  · cases b <;> exact setUnit_reports h s rfl rfl ⟨[], (List.append_nil _).symm⟩
  · refine Reports.trans ?_ (sendProposal_reports d _ _ _)
    exact setUnit_reports h s rfl rfl ⟨[], (List.append_nil _).symm⟩

theorem fabricEvent_reports {d : Nat} (h : d < 3) (s : State) (l a k : Nat) : Reports d s (fabricEvent s d l a k) := by
  unfold fabricEvent
  dsimp only
  split
  · exact setUnit_reports h s rfl rfl ⟨_, rfl⟩
  · exact setUnit_reports h s rfl rfl ⟨[], (List.append_nil _).symm⟩

theorem fabricEvent_clock (s : State) (d l a k : Nat) : (fabricEvent s d l a k).clock = s.clock := by
  unfold fabricEvent setUnit
  dsimp only
  split <;> split <;> rfl

theorem noteRemoval_reports (d : Nat) (s : State) (k i : Nat) : Reports d s (noteRemoval s k i) := .of_eq rfl rfl rfl rfl

theorem loseComb_reports {d : Nat} (h : d < 3) (s : State) (c : Nat) : Reports d s (loseComb s d c) := by
  unfold loseComb
  dsimp only
  split
  · exact .refl d s
  · refine ((fabricEvent_reports h s 0 (c * 16) 3).trans ?_).trans (noteRemoval_reports d _ _ _)
    exact setUnit_reports h _ rfl rfl ⟨[], (List.append_nil _).symm⟩

theorem standIn_reports {d : Nat} (h : d < 3) (s : State) (c l : Nat) : Reports d s (standIn s d c l) := by
  unfold standIn
  split
  · exact fabricEvent_reports h s _ _ _
  · dsimp only
    split
    · exact (noteRemoval_reports d s _ _).trans (propose_reports h _ _ _)
    · exact propose_reports h s _ _

/-- A line lost for the first time (R292). -/
theorem loseLine_loses {s : State} {d : Nat} (h : d < 3) {c l : Nat} (hl : lineLost s d c l = false) :
    lineLost (loseLine s d c l) d c l = true ∧ (∀ x ∈ (unitOf (loseLine s d c l) d).drifted, x.1 ≠ c * 128 + l) ∧
    ((unitOf s d).events.length < 64 → ∃ r, (unitOf (loseLine s d c l) d).events = (unitOf s d).events ++
      BitVec.ofNat 64 (absSlot s / 64 % 2 ^ 32 * 2 ^ 32 + l * 2 ^ 20 + c * 16 * 2 ^ 14 + 1) :: r) ∧
    (loseLine s d c l).core = s.core ∧ (loseLine s d c l).oc = s.oc ∧ (loseLine s d c l).sys = s.sys := by
  let e := fabricEvent s d l (c * 16) 1
  let t := setUnit e d { unitOf e d with
    drifted := (unitOf e d).drifted.filter (fun p => p.1 != c * 128 + l)
    lost := (c * 128 + l) :: (unitOf e d).lost.filter (· != c * 128 + l) }
  have hafter : Reports d t (loseLine s d c l) := by
    unfold loseLine
    rw [hl, if_neg Bool.false_ne_true]
    dsimp only
    split
    · exact loseComb_reports h t c
    · exact (standIn_reports h t c l).trans (Reports.foldl (fun u j => standIn_reports h u c j) _ _)
  have hevent := fabricEvent_reports h s l (c * 16) 1
  obtain ⟨hcore, hoc, hsys, -⟩ := setUnit_kept e d { unitOf e d with
    drifted := (unitOf e d).drifted.filter (fun p => p.1 != c * 128 + l)
    lost := (c * 128 + l) :: (unitOf e d).lost.filter (· != c * 128 + l) }
  refine ⟨?_, ?_, fun hroom => ?_, (hafter.core.trans hcore).trans hevent.core, (hafter.oc.trans hoc).trans hevent.oc, (hafter.sys.trans hsys).trans hevent.sys⟩
  · rw [lineLost, hafter.lost, unitOf_setUnit h]
    simp
  · rw [hafter.drifted, unitOf_setUnit h]
    intro x hx
    simpa using (List.mem_filter.1 hx).2
  · obtain ⟨r, hr⟩ := hafter.events
    have hfirst : (unitOf e d).events = (unitOf s d).events ++ [BitVec.ofNat 64 (absSlot s / 64 % 2 ^ 32 * 2 ^ 32 + l * 2 ^ 20 + c * 16 * 2 ^ 14 + 1)] := by
      simp only [e, fabricEvent, hroom, if_true, unitOf_setUnit h]
    refine ⟨r, ?_⟩
    rw [hr, unitOf_setUnit h]
    show (unitOf e d).events ++ r = _
    rw [hfirst, List.append_assoc]
    rfl

theorem loseLine_lost {s : State} {d c l : Nat} (h : lineLost s d c l = true) : loseLine s d c l = s := if_pos h

/-! ### Removals -/

theorem fabricEvent_deadCombs {d : Nat} (h : d < 3) (s : State) (l a k : Nat) : (unitOf (fabricEvent s d l a k) d).deadCombs = (unitOf s d).deadCombs := by
  unfold fabricEvent
  dsimp only
  split <;> rw [unitOf_setUnit h]

/-- A unit removed is named in `BRSTAT`, with its replacement requested (R424, R427, R435). -/
theorem noteRemoval_named (s : State) {k i : Nat} (hk : k < 2 ^ 4) (hi : i < 2 ^ 16) :
    bits (hubNat (noteRemoval s k i) brstat) 43 40 = k ∧ bits (hubNat (noteRemoval s k i) brstat) 39 24 = i ∧
    bit (hubNat (noteRemoval s k i) brstat) 8 = true ∧ 0 ∈ (noteRemoval s k i).plat.msix := by
  have key : ∃ w c, hubNat (noteRemoval s k i) brstat = (setBits (setBits (setBits w 43 40 k) 39 24 i) 23 16 c) % 2 ^ 64 ||| 0x100 := by
    refine ⟨hubNat s brstat, min 255 (bits (setBits (setBits (hubNat s brstat) 43 40 k) 39 24 i) 23 16 + 1), ?_⟩
    show (hubGet (hubSet _ brstat (hubGet _ brstat ||| 0x100)) brstat).toNat = _
    rw [hubGet_hubSet_same, BitVec.toNat_or]
    exact congrArg (fun n => n ||| 0x100) (hubNat_hubSet_ofNat _ brstat _)
  obtain ⟨w, c, hw⟩ := key
  have hbit (j : Nat) (hj : j < 64) (h8 : j ≠ 8) : (hubNat (noteRemoval s k i) brstat).testBit j = (setBits (setBits (setBits w 43 40 k) 39 24 i) 23 16 c).testBit j := by
    have h100 : (0x100 : Nat).testBit j = false := by
      rw [show (0x100 : Nat) = 2 ^ 8 from rfl, Nat.testBit_two_pow]
      exact decide_eq_false (Ne.symm h8)
    rw [hw, Nat.testBit_or, Nat.testBit_mod_two_pow, h100, Bool.or_false, decide_eq_true hj, Bool.true_and]
  refine ⟨?_, ?_, ?_, List.mem_cons_self⟩
  · refine Nat.eq_of_testBit_eq fun j => ?_
    rw [testBit_bits]
    by_cases hj : j < 4
    · rw [hbit _ (by omega) (by omega), testBit_setBits _ _ _ (by decide), testBit_setBits _ _ _ (by decide), testBit_setBits _ _ _ (by decide)]
      simp [hj, show ¬ 40 + j < 16 by omega, show ¬ 40 + j ≤ 23 by omega, show ¬ 40 + j < 24 by omega, show ¬ 40 + j ≤ 39 by omega, show 40 + j ≤ 43 by omega]
    · rw [Nat.testBit_lt_two_pow (hk.trans_le (Nat.pow_le_pow_right (by decide) (by omega)))]
      simp [hj]
  · refine Nat.eq_of_testBit_eq fun j => ?_
    rw [testBit_bits]
    by_cases hj : j < 16
    · rw [hbit _ (by omega) (by omega), testBit_setBits _ _ _ (by decide), testBit_setBits _ _ _ (by decide)]
      simp [hj, show ¬ 24 + j < 16 by omega, show ¬ 24 + j ≤ 23 by omega, show 24 + j ≤ 39 by omega]
    · rw [Nat.testBit_lt_two_pow (hi.trans_le (Nat.pow_le_pow_right (by decide) (by omega)))]
      simp [hj]
  · have h100 : (0x100 : Nat).testBit 8 = true := by decide
    rw [bit_eq_testBit, hw, Nat.testBit_or, h100, Bool.or_true]

/-- A comb lost for the first time (R292, R435). -/
theorem loseComb_loses {s : State} {d c : Nat} (h : d < 3) (hc : c < 4) (hl : (unitOf s d).deadCombs.contains c = false) :
    (unitOf (loseComb s d c) d).deadCombs = c :: (unitOf s d).deadCombs ∧ bits (hubNat (loseComb s d c) brstat) 43 40 = 6 ∧
    bits (hubNat (loseComb s d c) brstat) 39 24 = combUnit d c 127 ∧ bit (hubNat (loseComb s d c) brstat) 8 = true ∧ 0 ∈ (loseComb s d c).plat.msix := by
  have hlose : loseComb s d c = noteRemoval (setUnit (fabricEvent s d 0 (c * 16) 3) d { unitOf (fabricEvent s d 0 (c * 16) 3) d with
      deadCombs := c :: (unitOf (fabricEvent s d 0 (c * 16) 3) d).deadCombs }) 6 (combUnit d c 127) := by
    unfold loseComb
    rw [hl, if_neg Bool.false_ne_true]
  have hunits (t : State) (k i : Nat) : unitOf (noteRemoval t k i) d = unitOf t d := rfl
  rw [hlose]
  refine ⟨?_, noteRemoval_named _ (by decide) (by unfold combUnit; omega)⟩
  rw [hunits, unitOf_setUnit h, fabricEvent_deadCombs h]

/-! ### Acknowledgements -/

theorem linkOf_setLink (s : State) (k : Nat) (l : Link) : linkOf (setLink s k l) k = l := lookupD_storeAt_same _ _ _ _

theorem injectOn_fabric (s : State) (d l n : Nat) : (injectOn s d l n).1.fabric = s.fabric ∧ (injectOn s d l n).1.clock = s.clock := by
  unfold injectOn
  dsimp only
  split
  · exact ⟨rfl, rfl⟩
  · split <;> exact ⟨rfl, rfl⟩

theorem injectOn_off {s : State} {d l n : Nat} (h : bit (hubNat s (unitBase d + 0x10)) 63 = false) : injectOn s d l n = (s, 0, 0) := by
  unfold injectOn
  simp only [h, Bool.not_false, Bool.true_or, if_true]

/-- A packet that leaves keeps what the link counts but its marks, and what it has sent (R288, R299). -/
theorem emit_kept (s : State) (u : Sent) : ∃ (a : Bool) (b : Bool) (n : Nat),
    linkOf (emit s u).1 (linkKey u.dim u.plane u.peer) = { linkOf s (linkKey u.dim u.plane u.peer) with sent := n, nak := a, ackDue := b } ∧
    (emit s u).1.fabric.unacked = s.fabric.unacked ∧ (emit s u).1.fabric.ctrl = s.fabric.ctrl ∧
    ∃ (f : Nat) (l : Option Nat) (w : List Sector), (emit s u).2 = { u with again := false, slot := absSlot s, fate := f, later := l, wire := w } := by
  obtain ⟨hf, -⟩ := injectOn_fabric s u.dim u.plane u.pkt.flits
  have hlink : linkOf (injectOn s u.dim u.plane u.pkt.flits).1 (linkKey u.dim u.plane u.peer) = linkOf s (linkKey u.dim u.plane u.peer) := by
    rw [linkOf, hf, linkOf]
  unfold emit
  dsimp only
  split
  · exact ⟨_, _, _, hlink, congrArg (·.unacked) hf, congrArg (·.ctrl) hf, _, _, _, rfl⟩
  · split
    · exact ⟨_, _, _, hlink, congrArg (·.unacked) hf, congrArg (·.ctrl) hf, _, _, _, rfl⟩
    · refine ⟨false, false, ((linkOf (injectOn s u.dim u.plane u.pkt.flits).1 (linkKey u.dim u.plane u.peer)).sent + 1) % 2 ^ 32, ?_,
        congrArg (·.unacked) hf, congrArg (·.ctrl) hf, _, _, _, rfl⟩
      exact (linkOf_setLink _ _ _).trans (by rw [hlink])

/-- Without the injector it leaves whole (R284). -/
theorem emit_plain {s : State} {u : Sent} (h : bit (hubNat s (unitBase u.dim + 0x10)) 63 = false) :
    let l := linkOf s (linkKey u.dim u.plane u.peer)
    let t := (emit s u).1
    (linkOf t (linkKey u.dim u.plane u.peer)).ackDue = false ∧ (linkOf t (linkKey u.dim u.plane u.peer)).nak = false ∧
    flitsOn t u.dim u.plane = flitsOn s u.dim u.plane + u.pkt.flits ∧
    (emit s u).2.wire = BitVec.ofNat 256 (headerOf u.pkt u.lseq ((l.rxLseq + 4095) % 4096) l.nak u.cred u.ccred) :: u.pkt.pay := by
  unfold emit
  simp only [injectOn_off h]
  refine ⟨?_, ?_, lookupD_storeAt_same _ _ _ _, rfl⟩
  · exact congrArg (·.ackDue) (linkOf_setLink _ _ _)
  · exact congrArg (·.nak) (linkOf_setLink _ _ _)

/-- The acknowledgement of a link (R285, R288). -/
theorem creditAck_sends {s : State} {d p q : Nat} (hdue : (linkOf s (linkKey d p q)).ackDue = true) (hsus : (linkOf s (linkKey d p q)).suspended = false)
    (hrep : replaying s d p q = false) (hlane : p ∈ lanesTo s d q) (hon : fabricOn s = true) (h8 : 8 ≤ slotClock s) (hfl : flitsOn s d p < 104) :
    let t := creditAck s d p q
    (linkOf t (linkKey d p q)).owed = (linkOf s (linkKey d p q)).owed - 16 ∧ ctrlOf t d q = ((ctrlOf s d q).1, (ctrlOf s d q).2 - 4) ∧
    ∃ u, t.fabric.unacked = s.fabric.unacked ++ [u] ∧ u.lseq = (linkOf s (linkKey d p q)).txLseq ∧ u.dim = d ∧ u.plane = p ∧ u.peer = q ∧
      u.pkt.typ = 7 ∧ u.cred = min 16 (linkOf s (linkKey d p q)).owed ∧ u.ccred = min 4 (ctrlOf s d q).2 ∧
      (bit (hubNat s (unitBase d + 0x10)) 63 = false → (linkOf t (linkKey d p q)).ackDue = false ∧ (linkOf t (linkKey d p q)).nak = false ∧
        flitsOn t d p = flitsOn s d p + 1 ∧
        u.wire = [BitVec.ofNat 256 (headerOf u.pkt u.lseq (((linkOf s (linkKey d p q)).rxLseq + 4095) % 4096) (linkOf s (linkKey d p q)).nak u.cred u.ccred)]) := by
  let l := linkOf s (linkKey d p q)
  let c := ctrlOf s d q
  let u : Sent := { pkt := { typ := 7, cls := 3, src := ownPkg s, dst := peerPkg s d q, aux := 0x100 }, dim := d, plane := p, peer := q, lseq := l.txLseq
                    slot := absSlot s, cred := min 16 l.owed, ccred := min 4 c.2 }
  let a := setCtrl (setLink s (linkKey d p q) { l with txLseq := (l.txLseq + 1) % 4096, owed := l.owed - min 16 l.owed }) d q (c.1, c.2 - min 4 c.2)
  have hack : creditAck s d p q = { (emit a u).1 with fabric := { (emit a u).1.fabric with unacked := (emit a u).1.fabric.unacked ++ [(emit a u).2] } } := by
    unfold creditAck
    dsimp only
    rw [if_neg (by simp [hdue]), if_neg (by simp [hsus, hrep, hlane, hon, Nat.not_lt.2 h8, Nat.not_le.2 hfl])]
  obtain ⟨x, y, n, hlink, hun, hctrl, f, w, v, hsent⟩ := emit_kept a u
  have hla : linkOf a (linkKey d p q) = { l with txLseq := (l.txLseq + 1) % 4096, owed := l.owed - min 16 l.owed } := linkOf_setLink _ _ _
  have hca : ctrlOf a d q = (c.1, c.2 - min 4 c.2) := lookupD_storeAt_same _ _ _ _
  rw [hack]
  refine ⟨?_, ?_, (emit a u).2, ?_, ?_⟩
  · show (linkOf (emit a u).1 (linkKey u.dim u.plane u.peer)).owed = _
    rw [hlink]
    show (linkOf a (linkKey d p q)).owed = _
    rw [hla]
    show l.owed - min 16 l.owed = l.owed - 16
    omega
  · show lookupD (emit a u).1.fabric.ctrl (d * 64 + q) (4, 0) = _
    rw [hctrl]
    show ctrlOf a d q = _
    rw [hca]
    exact congrArg (Prod.mk c.1) (show c.2 - min 4 c.2 = c.2 - 4 by omega)
  · show (emit a u).1.fabric.unacked ++ [(emit a u).2] = _
    rw [hun]
    rfl
  · refine ⟨?_, ?_, ?_, ?_, ?_, ?_, ?_, fun hoff => ?_⟩
    iterate 7
      rw [hsent]
    obtain ⟨h1, h2, h3, h4⟩ := emit_plain (s := a) (u := u) hoff
    refine ⟨h1, h2, h3, ?_⟩
    rw [h4, hsent]
    show [BitVec.ofNat 256 (headerOf u.pkt u.lseq (((linkOf a (linkKey d p q)).rxLseq + 4095) % 4096) (linkOf a (linkKey d p q)).nak u.cred u.ccred)] = _
    rw [hla]

/-! ### Proposals -/

/-- The table of a proposal whose turn has come is taken (R296, R298). -/
theorem installTable_installs {s : State} {d : Nat} (h : d < 3) {p : Proposal} (hp : (unitOf s d).proposal = some p) (ht : p.turn * 64 ≤ absSlot s)
    (hl : p.own = true ∨ p.loaded = true) (hq : (unitOf s d).queued = none) (hr : (unitOf s d).repairDue = false) :
    (unitOf (installTable s d) d).table = p.table ∧ (unitOf (installTable s d) d).proposal = none := by
  have hevent (u : State) (hu : (unitOf u d).table = p.table ∧ (unitOf u d).queued = none ∧ (unitOf u d).repairDue = false) :
      (unitOf (proposalOver (fabricEvent u d 0 0 5) d) d).table = p.table ∧ (unitOf (proposalOver (fabricEvent u d 0 0 5) d) d).proposal = none := by
    have hlog : (unitOf (fabricEvent u d 0 0 5) d).table = p.table ∧ (unitOf (fabricEvent u d 0 0 5) d).queued = none ∧
        (unitOf (fabricEvent u d 0 0 5) d).repairDue = false := by
      unfold fabricEvent
      dsimp only
      split <;> rw [unitOf_setUnit h] <;> exact hu
    obtain ⟨h1, h2, h3⟩ := hlog
    have hover : proposalOver (fabricEvent u d 0 0 5) d = setUnit (fabricEvent u d 0 0 5) d { unitOf (fabricEvent u d 0 0 5) d with proposal := none } := by
      simp only [proposalOver, unitOf_setUnit h, h2, h3, Bool.false_eq_true, if_false]
    rw [hover, unitOf_setUnit h]
    exact ⟨h1, rfl⟩
  have htable : (unitOf (setUnit s d { unitOf s d with table := p.table }) d).table = p.table ∧
      (unitOf (setUnit s d { unitOf s d with table := p.table }) d).queued = none ∧
      (unitOf (setUnit s d { unitOf s d with table := p.table }) d).repairDue = false := by
    rw [unitOf_setUnit h]
    exact ⟨rfl, hq, hr⟩
  have hnow : ¬ absSlot s < p.turn * 64 := Nat.not_lt.2 ht
  have hload : (!p.own && !p.loaded) = false := by rcases hl with hl | hl <;> simp [hl]
  unfold installTable
  rw [hp]
  dsimp only
  rw [if_neg (by simp [hnow, hload])]
  split
  · exact hevent _ htable
  · exact hevent _ htable

theorem installTable_waits {s : State} {d : Nat} {p : Proposal} (hp : (unitOf s d).proposal = some p)
    (h : absSlot s < p.turn * 64 ∨ p.own = false ∧ p.loaded = false) : installTable s d = s := by
  have hcond : (decide (absSlot s < p.turn * 64) || (!p.own && !p.loaded)) = true := by
    rcases h with h | ⟨h1, h2⟩
    · simp [h]
    · simp [h1, h2]
  simp only [installTable, hp, hcond, if_true]

/-- A member's report that is a turn late counts as none (R158). -/
theorem discardSc_none {s : State} {n : Nat} {l : List Nat} (h : s.fabric.scIn.all (fun o => !(o.slot == n && l.contains o.pkg)) = true) : discardSc s n l = s := by
  rw [List.all_eq_true] at h
  have hmine : s.fabric.scIn.filter (fun o => o.slot == n && l.contains o.pkg) = [] :=
    List.filter_eq_nil_iff.2 fun o ho => by simpa only [Bool.not_eq_true', Bool.not_eq_true] using h o ho
  have hkept : s.fabric.scIn.filter (fun o => !(o.slot == n && l.contains o.pkg)) = s.fabric.scIn := List.filter_eq_self.2 h
  unfold discardSc
  rw [hmine, hkept]
  rfl

/-- Settles O56, event by event. -/
theorem fabricEvents : Obligations.FabricEvents := by
  refine fun s => ⟨fun h0 => ⟨?_, ?_⟩, fun hclk hall => ?_, fun hclk => ?_, fun n l h => discardSc_none h, fun n hact => ⟨?_, fun hq => ?_⟩,
    fun hon h8 htx => ⟨fun hre => ?_, fun hre => ?_⟩, fun d p q h l hon => ⟨fun hbad => ?_, fun hlen h8 hcrc hmis => ?_, rfl⟩, fun t ht => ?_,
    fun d p q hdue hsus hrep hlane hon h8 hfl => ⟨_, rfl, creditAck_sends hdue hsus hrep hlane hon h8 hfl⟩, fun d p q h => congrArg Host.Outcome.next (if_pos h),
    fun e d q hrel hahead hnext => ?_, fun hrel => ?_, fun n a ha hlate => ?_,
    fun d c l => ⟨fun hl => congrArg Host.Outcome.next (loseLine_lost hl), fun hl => ⟨_, rfl, loseLine_loses d.isLt hl⟩, ⟨_, rfl, ?_⟩, ⟨_, rfl, ?_⟩⟩,
    fun d c => ⟨fun hc => congrArg Host.Outcome.next (if_pos hc), fun hc => ?_⟩,
    fun d p hp => ⟨fun hown ht hack => ?_, fun ht hl hq hr => ⟨_, rfl, installTable_installs d.isLt hp ht hl hq hr⟩,
      fun h => congrArg Host.Outcome.next (installTable_waits hp h)⟩, fun d v hv => ⟨fun hb => ?_, fun hb => ?_⟩, fun d e r he ho => ?_, fun d v => rfl⟩
  · exact congrArg Host.Outcome.next (by simp [slotBegin, h0])
  · exact congrArg Host.Outcome.next (by simp [seatSend, h0])
  · exact congrArg Host.Outcome.next (by simp [scPerform, Nat.not_lt.2 hclk, hall])
  · refine ⟨_, congrArg Host.Outcome.next (if_neg (Nat.not_lt.2 hclk)), fun x hx hne => ?_⟩
    by_cases hr : s.fabric.reports.any (fun r => r.1 == s.fabric.scNext && r.2.1 == x) = true
    · rw [List.any_append, hr, Bool.true_or]
    · rw [List.any_append, Bool.or_eq_true]
      refine .inr (List.any_eq_true.2 ⟨(s.fabric.scNext, (x, 0)), List.mem_map.2 ⟨x, List.mem_filter.2 ⟨hx, ?_⟩, rfl⟩, by simp⟩)
      rw [Bool.not_eq_true] at hr
      simp [hne, hr]
  · exact congrArg Host.Outcome.next (by simp [fabBegin, hact])
  · simp [fabStart, hq]
  · exact congrArg Host.Outcome.next (by simp [sendPackets, hon, Nat.not_lt.2 h8, hre, htx])
  · intro t ht
    exact congrArg Host.Outcome.next (by simp [sendPackets, hon, Nat.not_lt.2 h8, hre, t, ht])
  · refine congrArg Host.Outcome.next ?_
    unfold receivePacket
    dsimp only
    rw [hon, if_neg (by decide), if_pos (by simpa [or_assoc] using hbad)]
  · refine congrArg Host.Outcome.next ?_
    unfold receivePacket
    dsimp only
    rw [hon, if_neg (by decide), if_neg (by simp [hlen, h8, hcrc]), if_pos (by simpa [packetOf] using hmis)]
  · exact congrArg Host.Outcome.next (by rcases ht with ht | ht <;> simp only [performOne, ht])
  · exact congrArg Host.Outcome.next (by simp [relayOne, hrel, hnext, hahead])
  · exact congrArg Host.Outcome.next (by simp only [relayOne, hrel])
  · exact congrArg Host.Outcome.next (by simp only [fabTimeout, ha, hlate, if_true])
  · have hclock := fabricEvent_clock s d l (c * 16) 2
    rw [driftLine, unitOf_setUnit d.isLt, hclock]
    exact List.mem_cons_self
  · rw [retuneLine, unitOf_setUnit d.isLt]
    intro x hx
    simpa using (List.mem_filter.1 hx).2
  · have hkept := loseComb_reports d.isLt s c
    obtain ⟨hdead, hkind, hid, hreq, hmsix⟩ := loseComb_loses d.isLt c.isLt hc
    exact ⟨_, rfl, hdead, hkind, hid, hreq, hmsix, hkept.core, hkept.oc, hkept.sys⟩
  · refine congrArg Host.Outcome.next ?_
    simp only [proposalLapse, hp, Nat.not_lt.2 ht, if_false, hown, Bool.not_true, Bool.false_eq_true, hack, if_true]
  · exact congrArg Host.Outcome.next (by simp [hv, tutblStore, tutBusy, hb])
  · exact congrArg Host.Outcome.next (by simp [hv, tutblStore, tutBusy, hb])
  · refine congrArg Host.Outcome.next ?_
    simp only [takeEvent, he, ho, Bool.false_and, Bool.false_eq_true, if_false, List.append_nil, ite_self]

end Sys2Proof.Machine
end

section
/-!
SUPPORT. What the caches do with HBM, the MSC and the L2 (R81, R124 to R130), and the steps of the folio manager, the debug
unit and the access tables (R346 to R349, R360, R405 to R409).
-/
namespace Sys2Proof.Machine
open Sys2Proof
set_option Elab.async false -- proofs one at a time: the check of the whole text is near its memory limit

/-! ### The caches -/

/-- The memories behind GM and HM in canonical form. -/
def sysWf (s : State) : Prop := s.sys.hbm.wf = true ∧ s.sys.msc.wf = true ∧ s.sys.l2.wf = true ∧ s.sys.host.wf = true

/-- What filling, cleaning and flushing caches can change: the memory system, the rows last activated, the saturation counts in the
hub and the free values. -/
structure Cached (s t : State) : Prop where
  eq : t = { s with hub := t.hub, rows := t.rows, sys := t.sys, free := t.free }
  wf : sysWf s → sysWf t

theorem Cached.refl (s : State) : Cached s s := ⟨rfl, id⟩
theorem Cached.trans {s t u : State} (h : Cached s t) (k : Cached t u) : Cached s u := ⟨by rw [k.eq, h.eq], k.wf ∘ h.wf⟩
theorem Cached.folios {s t : State} (h : Cached s t) : t.folios = s.folios := by rw [h.eq]
theorem Cached.foldl {α : Type} {f : State → α → State} (h : ∀ s x, Cached s (f s x)) (l : List α) (s : State) : Cached s (l.foldl f s) := by
  induction l generalizing s with
  | nil => exact .refl s
  | cons x l ih => exact (h s x).trans (ih _)
theorem Cached.ite {s t u : State} {c : Prop} [Decidable c] (h : Cached s t) (k : Cached s u) : Cached s (if c then t else u) := by
  split
  · exact h
  · exact k

theorem drawn_cached (s : State) : Cached s (drawn s) := ⟨rfl, id⟩
theorem activate_cached (s : State) (k : Nat) : Cached s (activate s k) := ⟨rfl, id⟩
theorem addRangeSat_cached (s : State) (r : FormatRange) (n : Nat) : Cached s (addRangeSat s r n) := .ite (.refl s) ⟨rfl, id⟩
theorem hbmStore_cached (s : State) (a : Nat) (bs : List Byte) (p : Bool) : Cached s { s with sys := { s.sys with hbm := s.sys.hbm.store a bs p } } :=
  ⟨rfl, fun ⟨h, hm, hl, hh⟩ => ⟨Mem.wf_store h _ _ _, hm, hl, hh⟩⟩

theorem hbmWrite_cached (s : State) (k v : Nat) (p : Bool) : Cached s (hbmWrite s k v p) := by
  unfold hbmWrite
  dsimp only
  split
  · exact .refl s
  · split
    · exact (activate_cached s k).trans (hbmStore_cached _ _ _ _)
    · exact ((activate_cached s k).trans (addRangeSat_cached _ _ _)).trans (hbmStore_cached _ _ _ _)

theorem mscWriteBack_cached (s : State) (l : MscLine) : Cached s (mscWriteBack s l) :=
  (Cached.foldl (fun t _ => .ite (hbmWrite_cached t _ _ _) (.refl t)) (List.range 4) s).trans ⟨rfl, id⟩

theorem mscDrop_cached (s : State) (n : Nat) : Cached s (mscDrop s n) := ⟨rfl, fun ⟨h, hm, hl, hh⟩ => ⟨h, Mem.wf_clear hm _ _, hl, hh⟩⟩

theorem mscFlush_cached (s : State) (n : Nat) : Cached s (mscFlush s n) := by
  unfold mscFlush
  split
  · exact .refl s
  · exact (mscWriteBack_cached s _).trans (mscDrop_cached _ _)

theorem mscWay_cached (s : State) (k n : Nat) : Cached s (mscWay s k n).1 := by
  unfold mscWay
  dsimp only
  split
  · exact .refl s
  · split
    · exact (drawn_cached s).trans (mscFlush_cached _ _)
    · exact drawn_cached s

theorem mscAlloc_cached (s : State) (n : Nat) : Cached s (mscAlloc s n) := by
  unfold mscAlloc
  split
  · exact .refl s
  · exact (mscWay_cached s _ _).trans ⟨rfl, id⟩

theorem mscPut_cached (s : State) (k v : Nat) (p d : Bool) : Cached s (mscPut s k v p d) := by
  unfold mscPut
  split
  · exact .refl s
  · exact (mscAlloc_cached s _).trans ⟨rfl, fun ⟨h, hm, hl, hh⟩ => ⟨h, Mem.wf_store hm _ _ _, hl, hh⟩⟩

theorem homeRead_cached (s : State) (k : Nat) : Cached s (homeRead s k).1 := by
  unfold homeRead
  dsimp only
  split
  · exact .refl s
  · split
    · exact .refl s
    · split
      · exact (activate_cached s k).trans (mscPut_cached _ _ _ _ _)
      · exact activate_cached s k

theorem onL2_cached (s : State) (n : Nat) (f : L2Line → L2Line) : Cached s (onL2 s n f) := ⟨rfl, id⟩

theorem l2Clean_cached (s : State) (n : Nat) : Cached s (l2Clean s n) := by
  unfold l2Clean
  split
  · exact .refl s
  · exact (Cached.foldl (fun t _ => .ite (mscPut_cached t _ _ _ _) (.refl t)) (List.range 4) s).trans (onL2_cached _ _ _)

theorem l2Flush_cached (s : State) (n : Nat) : Cached s (l2Flush s n) :=
  (l2Clean_cached s n).trans ⟨rfl, fun ⟨h, hm, hl, hh⟩ => ⟨h, hm, Mem.wf_clear hl _ _, hh⟩⟩

/-! ### The folio manager -/

theorem flushFrame_cached (s : State) (f : Nat) : Cached s (flushFrame s f) :=
  Cached.foldl (fun t _ => (l2Flush_cached t _).trans (mscFlush_cached _ _)) _ s

theorem hbmPut_cached (s : State) (d : Nat) (bs : List Byte) : Cached s (hbmPut s d bs) :=
  Cached.foldl (fun t _ => (mscDrop_cached t _).trans (hbmWrite_cached _ _ _ _)) _ s

theorem evictions_counted (u : State) (y : MemSys) (n : Nat) (f : Folio → Folio) :
    let v := setFolio { u with sys := y } n f
    ({ v with folios := { v.folios with evictions := v.folios.evictions + 1 } }).folios.evictions = u.folios.evictions + 1 := rfl

/-- An eviction is counted (R349). -/
theorem evictOne_counts {s t : State} {f : Nat} (h : evictOne s = some (t, f)) : t.folios.evictions = s.folios.evictions + 1 := by
  unfold evictOne at h
  split at h
  · next g k _ _ =>
    rw [Option.ite_none_left_eq_some] at h
    obtain ⟨-, h⟩ := h
    obtain ⟨rfl, -⟩ := Prod.mk.inj (Option.some.inj h)
    have hcount := ((flushFrame_cached s g.frame).trans (hbmPut_cached (flushFrame s g.frame) (shadowDpa (flushFrame s g.frame) k)
      (shadowOf (frameSectors (flushFrame s g.frame) g.frame)))).folios
    generalize hbmPut (flushFrame s g.frame) (shadowDpa (flushFrame s g.frame) k) (shadowOf (frameSectors (flushFrame s g.frame) g.frame)) = u at hcount ⊢
    exact (evictions_counted u _ _ _).trans (congrArg (·.evictions + 1) hcount)
  · simp at h

/-! ### The debug unit -/

theorem windowAt_hub {a x : Nat} (h : windowAt a = some (.hub x)) : (debugData s 0 a).2.1 = 0 ∧ (debugData s 0 a).2.2 = (hubLoad s x).2 := by
  simp [debugData, h, Window.on]

theorem dbgReadDone_due {s : State} {r : DebugRead} (hr : s.dbg = some r) (ht : r.doneAt ≤ s.clock) :
    dbgReadDone s = let d := debugData s r.sel r.addr
      if r.status = 0 then { d.1 with dbg := none, dbgLast := d.2.2, dbgStatus := d.2.1 }
      else { s with dbg := none, dbgLast := if r.status = 1 then BitVec.allOnes 64 else 0, dbgStatus := r.status } := by
  simp only [dbgReadDone, hr, Nat.not_lt.2 ht, if_false]
  by_cases h1 : r.status = 1
  · simp [h1]
  · by_cases h0 : r.status = 0
    · simp [h0]
    · simp [h0, h1]

/-- A store to the control word of a target (R405). -/
theorem atStore_ctl {s : State} {k : Nat} (v : Word) (hk : atTarget k = true) : atStore s (atBase k + 0x3C0) v =
    if bit (hubNat s (atBase k + 0x3C0)) 1 then s else hubSet s (atBase k + 0x3C0) (v &&& 3) := by
  have ht : (atBase k + 0x3C0 - 0x4008000000) / 0x400 = k := by
    unfold atBase
    omega
  have ho : (atBase k + 0x3C0) % 0x400 = 0x3C0 := by
    unfold atBase
    omega
  unfold atStore
  simp only [ht, ho, hk, Bool.not_true, Bool.false_or, beq_self_eq_true, if_true]

/-- Settles O58, event by event. -/
theorem folioAndDebugEvents : Obligations.FolioAndDebugEvents := by
  refine fun s => ⟨fun hoff => ⟨folioEnable s, congrArg Host.Outcome.next (by simp [hoff]), ?_, rfl⟩,
    fun hon => ⟨folioDisable s, rfl, ?_, rfl⟩, fun t f h => ⟨congrArg Host.Outcome.next (by simp [h]), evictOne_counts h⟩,
    fun k f n hk hn hst hr => congrArg Host.Outcome.next (by simp [recallDone, hk, hn, hst, hr]),
    fun n f t hf hst hsh ht => congrArg Host.Outcome.next (by simp [splitNow, hf, hst, hsh, ht]),
    fun k f hk => congrArg Host.Outcome.next (by simp only [pinDeadline, hk]), ⟨_, rfl, ?_, rfl⟩, ⟨_, rfl, ?_, rfl⟩, fun v => ⟨rfl, rfl, rfl, rfl⟩,
    fun r hr ht => congrArg Host.Outcome.next (dbgReadDone_due hr ht), fun a => ⟨fun x hx => windowAt_hub hx, fun q o ha hon => ?_, fun ha => ?_, fun ha => ?_⟩,
    fun k v hk => ⟨_, rfl, ?_⟩⟩
  · unfold folioEnable
    dsimp only
    split <;> rw [bits_hubSet_setBits _ _ _ (by decide) (by decide)] <;> decide
  · have hempty : (!folioOn s || s.folios.folios.isEmpty) = true ↔ s.folios.folios = [] := by simp [hon]
    simp only [folioDisable, hempty]
    split <;> exact bits_hubSet_setBits _ _ _ (by decide) (by decide)
  · rw [hubField, hubNat_hubSet_ofNat, bit_eq_testBit, Nat.testBit_mod_two_pow, testBit_setBits _ _ _ (Nat.le_refl 2)]
    simp
  · rw [hubField, hubNat_hubSet_ofNat, bit_eq_testBit, Nat.testBit_mod_two_pow, testBit_setBits _ _ _ (Nat.le_refl 2)]
    simp
  · by_cases hq : coreQuiet s 0 <;> simp [debugData, ha, hon, hq]
  · simp [debugData, ha]
  · have hhi : bits a 30 22 = 0 := by
      rw [bits, Nat.shiftRight_eq_div_pow, Nat.div_eq_of_lt ha]
      rfl
    by_cases hq : coreQuiet s 0 <;> simp [debugData, hhi, bits_eq_of_lt ha, hq]
  · rw [atStore_ctl v hk]
    refine ⟨?_, fun h0 => ?_, fun h1 => if_pos h1⟩
    · split <;> rfl
    · rw [h0, if_neg Bool.false_ne_true, hubGet_hubSet_same]

end Sys2Proof.Machine
end

section
/-!
SUPPORT. The statement about the steps of the distributor, where a core is kept for the exchange task of the phase that closes.
-/
namespace Sys2Proof.Machine
open Sys2Proof
set_option Elab.async false -- proofs one at a time: the check of the whole text is near its memory limit

/-- A phase that the `ENDT` of its last task has closed, with an exchange task to come. -/
def closedPhase : Node := { phase := .closing, closedByEnd := true, closeAt := some 0, entries := [(0, 4)] }

/-- A launch of one node, whose phase is closed. -/
def closingLaunch : Launch := { lnum := 1, state := 1, nodes := [closedPhase] }

/-- The machine after reset with that launch resident: its idle core is kept for the exchange task (R376). -/
def reservedCore : State := { State.reset with dist := { State.reset.dist with launches := [closingLaunch] } }

theorem reservedCore_kept : coreFree reservedCore = false := by decide

/-- The closing of the phase starts the exchange task on the core that has been kept for it. -/
theorem closeNow_reservedCore_runs : (closeNow reservedCore 1 0).core.task.isSome = true := by decide

/-- Refutes O59: an idle core that is kept for the exchange task of a phase is not free before the phase closes, and takes the task
when it does, where the statement says that the core stays as it is. -/
theorem not_distributorEvents : ¬ Obligations.DistributorEvents := by
  intro h
  obtain ⟨-, -, -, -, -, -, -, hclose, -⟩ := h reservedCore
  obtain ⟨-, hexchange, -⟩ := hclose 1 0 closingLaunch closedPhase 0 rfl rfl rfl rfl rfl rfl
  obtain ⟨t, m, ht, -, -, -, -, hcore, -⟩ := hexchange (Nat.le_refl 0) (by decide) reservedCore_kept
  have hrun := closeNow_reservedCore_runs
  rw [show closeNow reservedCore 1 0 = t from Host.Outcome.next.inj ht, hcore] at hrun
  exact absurd hrun (by decide)

end Sys2Proof.Machine
end

section
/-!
SUPPORT. Fields of the hub's registers, and the steps of the host and the platform (R423 to R436).
-/
namespace Sys2Proof.Machine
open Sys2Proof
set_option Elab.async false -- proofs one at a time: the check of the whole text is near its memory limit

/-! ### A field of a register of the hub -/

theorem testBit_hubField (s : State) (a v : Nat) {hi lo i : Nat} (h : lo ≤ hi) (hi64 : i < 64) : (hubNat (hubField s a hi lo v) a).testBit i =
    if i < lo then (hubNat s a).testBit i else if i ≤ hi then v.testBit (i - lo) else (hubNat s a).testBit i := by
  rw [hubField, hubNat_hubSet_ofNat, Nat.testBit_mod_two_pow, decide_eq_true hi64, Bool.true_and, testBit_setBits _ _ _ h]

theorem bits_hubField_same (s : State) (a v : Nat) {hi lo : Nat} (h : lo ≤ hi) (hhi : hi < 64) :
    bits (hubNat (hubField s a hi lo v) a) hi lo = v % 2 ^ (hi + 1 - lo) := by
  refine Nat.eq_of_testBit_eq fun i => ?_
  rw [testBit_bits, Nat.testBit_mod_two_pow]
  by_cases hi : i < hi + 1 - lo
  · rw [testBit_hubField _ _ _ h (by omega), if_neg (by omega), if_pos (by omega), Nat.add_sub_cancel_left]
  · simp [hi]

theorem bits_hubField_other (s : State) (a v : Nat) {hi lo hi' lo' : Nat} (h : lo ≤ hi) (hhi : hi' < 64) (hdis : hi' < lo ∨ hi < lo') :
    bits (hubNat (hubField s a hi lo v) a) hi' lo' = bits (hubNat s a) hi' lo' := by
  rw [bits_eq_iff]
  intro i h1 h2
  rw [testBit_hubField _ _ _ h (by omega)]
  rcases hdis with hd | hd
  · rw [if_pos (by omega)]
  · rw [if_neg (by omega), if_neg (by omega)]

theorem bit_hubField_same (s : State) (a v : Nat) {i : Nat} (h : i < 64) : bit (hubNat (hubField s a i i v) a) i = bit v 0 := by
  rw [bit_eq_testBit, bit_eq_testBit, testBit_hubField _ _ _ (Nat.le_refl i) h]
  simp

/-! ### The states of bring-up -/

theorem bringState_hubField {s : State} {hi lo v : Nat} (h : 2 < lo) (hlo : lo ≤ hi) : bringState (hubField s brstat hi lo v) = bringState s :=
  bits_hubField_other s brstat v hlo (by decide) (.inl h)

theorem bringState_setBring (s : State) {n : Nat} (hn : n < 8) : bringState (setBring s n) = n := by
  unfold setBring
  split
  · next h => simpa using h
  · exact (bits_hubField_same s brstat n (by decide) (by decide)).trans (Nat.mod_eq_of_lt hn)

theorem setBring_plat (s : State) (n : Nat) : (setBring s n).plat.trained = s.plat.trained ∧ (setBring s n).fabric = s.fabric := by
  unfold setBring
  split <;> exact ⟨rfl, rfl⟩

/-- A package that halts shows why (R424, R428). -/
theorem haltPackage_halts (s : State) {why : Nat} (h : why < 16) :
    bringState (haltPackage s why) = 4 ∧ (bringState s ≠ 4 → bits (hubNat (haltPackage s why) brstat) 15 12 = why) := by
  have hset (t : State) : bits (hubNat (setBring t 4) brstat) 15 12 = bits (hubNat t brstat) 15 12 := by
    unfold setBring
    split
    · rfl
    · exact bits_hubField_other t brstat 4 (hi := 2) (lo := 0) (by decide) (by decide) (.inr (by decide))
  unfold haltPackage
  split
  · next h4 => exact ⟨by simpa using h4, fun hne => absurd (by simpa using h4) hne⟩
  · exact ⟨bringState_setBring _ (by decide), fun _ => (hset _).trans ((bits_hubField_same s brstat why (by decide) (by decide)).trans (Nat.mod_eq_of_lt h))⟩

/-- A stack that has finished training, and the fourth of them (R429). -/
theorem stackTrained_trains {s : State} {h : Nat} (hb : bringState s = 1 ∨ bringState s = 2) (hon : s.part.hbmStacks.getLsbD h = true) :
    (stackTrained s h).plat.trained = s.plat.trained ||| (1#12 <<< h) ∧
    bringState (stackTrained s h) = if bringState s = 1 ∧ 4 ≤ popCount 12 (s.plat.trained ||| (1#12 <<< h)).toNat then 2 else bringState s := by
  let t := onPlat s (fun p => { p with trained := p.trained ||| (1#12 <<< h) })
  let n := popCount 12 (s.plat.trained ||| (1#12 <<< h)).toNat
  have hgo : ((bringState s != 1 && bringState s != 2) || !s.part.hbmStacks.getLsbD h) = false := by
    rcases hb with hb | hb <;> simp [hb, hon]
  have hbring : bringState (hubField t brstat 7 4 n) = bringState s := bringState_hubField (s := t) (by decide) (by decide)
  have heq : stackTrained s h = if bringState s == 1 && decide (4 ≤ n) then setBring (hubField t brstat 7 4 n) 2 else hubField t brstat 7 4 n := by
    have hcond (b : Nat) (hbe : b = bringState s) : (if b == 1 && decide (4 ≤ n) then setBring (hubField t brstat 7 4 n) 2 else hubField t brstat 7 4 n) =
        if bringState s == 1 && decide (4 ≤ n) then setBring (hubField t brstat 7 4 n) 2 else hubField t brstat 7 4 n := by rw [hbe]
    rw [stackTrained, hgo, if_neg Bool.false_ne_true]
    exact hcond _ hbring
  have hif : (if bringState s = 1 ∧ 4 ≤ n then 2 else bringState s) = if bringState s == 1 && decide (4 ≤ n) then 2 else bringState s := by simp
  rw [heq]
  refine ⟨?_, Eq.trans ?_ hif.symm⟩
  · split
    · exact (setBring_plat _ 2).1
    · rfl
  · split
    · exact bringState_setBring _ (by decide)
    · exact hbring

theorem enterFull_enters {s : State} (n : Nat) (hb : bringState s = 2) (hall : s.part.hbmStacks &&& ~~~(s.plat.trained ||| s.plat.failed) = 0) :
    let t := enterFull s n
    bringState t = 3 ∧ t.plat.hold ≤ 10000 ∧ t.plat.fullAt = some (s.clock + t.plat.hold) ∧ t.plat.joining = some (n, s.clock) ∧ t.fabric = s.fabric := by
  have hgo : (bringState s != 2 || s.part.hbmStacks &&& ~~~(s.plat.trained ||| s.plat.failed) != 0) = false := by simp [hb, hall]
  have hmod : (Config.freeWord s.free).toNat % 10001 ≤ 10000 := Nat.le_of_lt_succ (Nat.mod_lt _ (by decide))
  have heq : enterFull s n = onPlat (setBring (drawn s) 3) (fun p => { p with
      fullAt := some (s.clock + (Config.freeWord s.free).toNat % 10001), hold := (Config.freeWord s.free).toNat % 10001, joining := some (n, s.clock) }) := by
    rw [enterFull, hgo, if_neg Bool.false_ne_true]
  rw [heq]
  exact ⟨bringState_setBring (drawn s) (by decide), hmod, rfl, rfl, (setBring_plat _ 3).2⟩

/-- The package joins its pod's wheel, or waits (R430). -/
theorem joinPod_joins {s : State} {n c : Nat} (hj : s.plat.joining = some (n, c)) :
    let d := nanoseconds s s.clock - nanoseconds s c
    (s.plat.hold ≠ 0 ∨ d % 8192 ≠ 0 ∨ podBusy s c = true → joinPod s = s) ∧
    (s.plat.hold = 0 → d % 8192 = 0 → podBusy s c = false → (joinPod s).plat.joining = none ∧ (joinPod s).fabric.slot0 = (n + d / 8192) * 64 ∧
      (joinPod s).fabric.scNext = (n + d / 8192) * 64 ∧ (joinPod s).fabric.from_ = s.clock ∧ bit (hubNat (joinPod s) brstat) 3 = true) := by
  refine ⟨fun hw => ?_, fun h0 hd hb => ?_⟩
  · unfold joinPod
    rw [hj]
    dsimp only
    rw [if_pos (by simpa [or_assoc] using hw)]
  · unfold joinPod
    rw [hj]
    dsimp only
    rw [if_neg (by simp [h0, hd, hb])]
    exact ⟨rfl, rfl, rfl, rfl, bit_hubField_same _ brstat 1 (by decide)⟩

/-! ### Limits -/

/-- The readings stand in the hub whatever stacks are hot (R276, R436). -/
theorem overLimits_hotNow (s : State) (p d h x : Nat) : overLimits (hotNow s x) p d h = overLimits s p d h := by
  unfold hotNow
  split <;> rfl

theorem beginLimiting_limits {s : State} {p d h : Nat} (ho : overLimits (readings s p d h) p d h = true) : (beginLimiting s p d h).plat.limiting = true := by
  unfold beginLimiting
  dsimp only
  rw [overLimits_hotNow, ho, Bool.true_and]
  split
  · rfl
  · next hl => simpa using hl

theorem endLimiting_ends {s : State} {p d h : Nat} (ho : overLimits (readings s p d h) p d h = false) : (endLimiting s p d h).plat.limiting = false := by
  unfold endLimiting
  dsimp only
  rw [overLimits_hotNow, ho, if_neg Bool.false_ne_true]
  rfl

theorem thermalHalt_halts {s : State} {d h : Nat} (hot : 110 ≤ d ∨ 105 ≤ h) :
    bringState (thermalHalt s d h) = 4 ∧ (bringState s ≠ 4 → bits (hubNat (thermalHalt s d h) brstat) 15 12 = 3) := by
  have hbring (t : State) (hi lo v : Nat) : bringState (hubField t 0x4009000120 hi lo v) = bringState t := by
    rw [bringState, hubNat, hubGet, hubField, hubSet_hub, lookupD_storeAt_ne _ _ _ _ _ (by decide), bringState, hubNat, hubGet]
  have heq : thermalHalt s d h = haltPackage (hubField (hubField s 0x4009000120 15 8 d) 0x4009000120 7 0 h) 3 := if_pos hot
  obtain ⟨h4, hwhy⟩ := haltPackage_halts (hubField (hubField s 0x4009000120 15 8 d) 0x4009000120 7 0 h) (why := 3) (by decide)
  rw [heq]
  exact ⟨h4, fun hne => hwhy (by rw [hbring, hbring]; exact hne)⟩

/-! ### The security controller -/

/-- The end of an update: what `FWUPD` shows (R431). -/
def firmwareFinish (s : State) (r : Nat) : State :=
  fire (onPlat (hubSet s 0x4009000130 (BitVec.ofNat 64 (setBits (setBits (hubNat s 0x4009000130) 2 1 r) 0 0 0))) (fun p => { p with fwAddr := none })) 3

theorem firmwareFinish_shows (s : State) {r : Nat} (hr : r < 4) : bit (hubNat (firmwareFinish s r) 0x4009000130) 0 = false ∧
    (firmwareFinish s r).plat.fwAddr = none ∧ bits (hubNat (firmwareFinish s r) 0x4009000130) 2 1 = r := by
  have hnat : hubNat (firmwareFinish s r) 0x4009000130 = setBits (setBits (hubNat s 0x4009000130) 2 1 r) 0 0 0 % 2 ^ 64 := hubNat_hubSet_ofNat s 0x4009000130 _
  refine ⟨?_, rfl, ?_⟩
  · rw [hnat, bit_eq_testBit, Nat.testBit_mod_two_pow, testBit_setBits _ _ _ (Nat.le_refl 0)]
    simp
  · refine Nat.eq_of_testBit_eq fun i => ?_
    rw [hnat, testBit_bits, Nat.testBit_mod_two_pow, testBit_setBits _ _ _ (Nat.le_refl 0), testBit_setBits _ _ _ (by decide)]
    by_cases hi : i < 2
    · simp [hi, show ¬ 1 + i < 1 by omega, show 1 + i ≤ 2 by omega, show 1 + i < 64 by omega]
    · rw [Nat.testBit_lt_two_pow (hr.trans_le (Nat.pow_le_pow_right (by decide) (show 2 ≤ i by omega) : 2 ^ 2 ≤ 2 ^ i))]
      simp [show ¬ i < 2 + 1 - 1 by omega]

theorem firmwareEnd_ends {s : State} {a : Nat} (ha : s.plat.fwAddr = some a) (hl : linkDown s = false) : ∃ t, firmwareEnd s =
    firmwareFinish t (if imageSigned (hostImage s a) = false then 2 else if imgSecver (hostImage s a) < minSecver s then 3 else 1) := by
  unfold firmwareEnd
  rw [ha]
  dsimp only
  rw [hl, if_neg Bool.false_ne_true]
  by_cases hs : imageSigned (hostImage s a) = false
  · exact ⟨s, by rw [hs]; rfl⟩
  · rw [Bool.not_eq_false] at hs
    by_cases hv : imgSecver (hostImage s a) < minSecver s
    · exact ⟨s, by simp only [hs, hv, Bool.not_true, Bool.false_eq_true, Bool.true_eq_false, if_true, if_false]; rfl⟩
    · refine ⟨hubSet (onPlat s (fun p => { p with banks := p.banks.set (1 - p.running) (hostImage s a) })) 0x4009000130
        (BitVec.ofNat 64 (setBits (hubNat s 0x4009000130) 47 32 (imgVersion (hostImage s a) % 2 ^ 16))), ?_⟩
      simp only [hs, hv, Bool.not_true, Bool.false_eq_true, Bool.true_eq_false, if_false]
      rfl

theorem attestEnd_ends {s : State} {a : Nat} (ha : s.plat.attAddr = some a) : (attestEnd s).plat.attAddr = none ∧
    hubNat (attestEnd s) 0x4009000140 = (if linkDown s = true ∨ 2 ^ 52 < a + 64 + 288 then 2 else 0) ∧ (linkDown s = true → (attestEnd s).sys = s.sys) := by
  have hdown : linkDown (onPlat s (fun p => { p with attAddr := none })) = linkDown s := rfl
  have hval (t : State) (w : Word) : hubNat (fire (hubSet t 0x4009000140 w) 3) 0x4009000140 = w.toNat := congrArg BitVec.toNat (hubGet_hubSet_same t 0x4009000140 w)
  unfold attestEnd
  rw [ha]
  dsimp only
  rw [hdown]
  by_cases hfail : linkDown s = true ∨ 2 ^ 52 < a + 64 + 288
  · rw [if_pos (by simpa using hfail), if_pos hfail, hval]
    exact ⟨rfl, rfl, fun _ => rfl⟩
  · rw [if_neg (by simpa using hfail), if_neg hfail, hval]
    exact ⟨rfl, rfl, fun h => absurd (.inl h) hfail⟩

/-! ### The host -/

/-- What an access of the host to a register of the hub does (R423): a store, or a load whose data are kept for it. -/
def hubAccess (t : State) (a : Nat) : Option Word → State
  | some v => hubStore t a v
  | none => onPlat (hubLoad t a).1 (fun p => { p with hostData := leBytes 8 (hubLoad t a).2.toNat })

/-- An aligned access through BAR0 that passes its checks (R423). -/
theorem bar0_performs {s t : State} {o a : Nat} {v : Option Word} (hl : linkDown s = false) (ho : o % 8 = 0)
    (hc : ocCheck s { core := false, priv := true, req := { cls := 4 } } ((0x4000000000 + o : Nat) : Int) 8 v.isNone v.isSome = .ok t (.hub a)) :
    bar0 s o v = hubAccess t a v := by
  have hal : ((0x4000000000 + o) % 8 != 0) = false := bne_eq_false_iff_eq.2 (by omega)
  unfold bar0
  dsimp only
  rw [hl, if_neg Bool.false_ne_true, hal, if_neg Bool.false_ne_true, hc]
  cases v <;> rfl

/-- Settles O60, event by event. -/
theorem platformEvents : Obligations.PlatformEvents := by
  refine fun s => ⟨fun o v k n w hl => ⟨?_, ?_⟩, fun o v t a hl ho hc => congrArg Host.Outcome.next ((bar0_performs hl ho hc).trans (by cases v <;> rfl)),
    fun o n w => ⟨rfl, fun hl hoff => ?_⟩, fun k r v => rfl, fun v => ⟨fun hoff => ⟨hdmOn s, ?_, ?_, rfl⟩, ⟨hdmOff s, rfl, ?_, rfl⟩⟩,
    fun v hv => ⟨clearRepreq s, congrArg Host.Outcome.next (if_pos hv), ?_, rfl⟩, fun v hb => ⟨firmwareStart s v, rfl, ?_, ?_⟩, fun hf hl => ?_,
    fun a ha hl => ⟨firmwareEnd s, rfl, ?_⟩, fun v hb => ⟨attestStart s v, rfl, ?_, ?_⟩, fun a ha => ⟨attestEnd s, rfl, attestEnd_ends ha⟩, rfl,
    fun h hb hon => ⟨stackTrained s h, rfl, stackTrained_trains hb hon⟩, fun n hb hall => ⟨enterFull s n, rfl, enterFull_enters n hb hall⟩,
    fun n c hj => joinPod_joins hj, fun k i => rfl,
    fun p d h => ⟨⟨_, rfl, beginLimiting_limits⟩, ⟨_, rfl, endLimiting_ends⟩, ⟨_, rfl, thermalHalt_halts⟩⟩, ⟨_, rfl, haltPackage_halts s (by decide)⟩, fun a v x hx h8 => ?_⟩
  · exact congrArg Host.Outcome.next (by simp [bar0, hl])
  · exact congrArg Host.Outcome.next (by simp [hostMem, hl])
  · unfold hostMem
    dsimp only
    rw [hl, if_neg Bool.false_ne_true, hoff, if_pos (by simp)]
  · exact congrArg Host.Outcome.next (by rw [hoff, if_neg Bool.false_ne_true])
  · unfold hdmOn
    dsimp only
    split <;> rw [hubNat, hubGet_hubSet_same] <;> decide
  · rw [hdmOff, hubNat, hubGet_hubSet_same, bit_toNat, BitVec.getLsbD_and]
    simp
  · rw [clearRepreq, hubNat, hubGet_hubSet_same, bit_toNat, BitVec.getLsbD_and]
    simp
  · rw [firmwareStart, hb, if_neg Bool.false_ne_true]
    show bit (hubGet (hubSet s 0x4009000130 (hubGet s 0x4009000130 ||| 1)) 0x4009000130).toNat 0 = true
    rw [hubGet_hubSet_same, bit_toNat, BitVec.getLsbD_or]
    simp
  · rw [firmwareStart, hb, if_neg Bool.false_ne_true]
  · refine congrArg Host.Outcome.next ?_
    obtain ⟨a, ha⟩ := Option.ne_none_iff_exists'.1 hf
    simp only [firmwareEnd, ha, hl, if_true]
  · obtain ⟨t, ht⟩ := firmwareEnd_ends ha hl
    rw [ht]
    exact firmwareFinish_shows t (by split <;> [decide; split <;> decide])
  · rw [attestStart, hb, if_neg Bool.false_ne_true]
    exact congrArg BitVec.toNat (hubGet_hubSet_same s 0x4009000140 1)
  · rw [attestStart, hb, if_neg Bool.false_ne_true]
  · exact congrArg Host.Outcome.next (by simp [registerStore, hx, h8])

end Sys2Proof.Machine
end

section
/-!
SUPPORT. Canonical memories (log entry 5): the invariant that O7 is about, taken apart memory by memory, and how the shapes
of the model's definitions (updates of other fields, folds, what an access or a syllable comes to) pass it on.
-/
namespace Sys2Proof.Machine
open Sys2Proof
set_option Elab.async false -- proofs one at a time: the check of the whole text is near its memory limit

/-- The byte stores of the image of a checkpointed task are canonical. -/
structure ImageCanon (i : Image) : Prop where
  store : i.store.wf = true
  bstore : i.core.mx.bstore.wf = true

/-- Every byte memory of a state is canonical, those of checkpointed tasks and of the B store among them. -/
structure Canon (s : State) : Prop where
  oc : s.oc.wf = true
  hbm : s.sys.hbm.wf = true
  msc : s.sys.msc.wf = true
  l2 : s.sys.l2.wf = true
  host : s.sys.host.wf = true
  bstore : s.core.mx.bstore.wf = true
  vault : ∀ i ∈ s.dist.vault, ImageCanon i
  spill : ∀ p ∈ s.dist.spill, ImageCanon p.1
  restore : ∀ p ∈ s.dist.restore, ImageCanon p.1

theorem canon_iff_memInv (s : State) : Canon s ↔ s.memInv = true := by
  simp only [State.memInv, State.memWf, Bool.and_eq_true, List.all_eq_true, List.mem_append, List.mem_map,
    Option.mem_toList]
  constructor
  · intro h
    refine ⟨⟨⟨⟨⟨⟨h.oc, h.hbm⟩, h.msc⟩, h.l2⟩, h.host⟩, h.bstore⟩, ?_⟩
    rintro i ((hi | ⟨p, hp, rfl⟩) | ⟨p, hp, rfl⟩)
    · exact ⟨(h.vault i hi).store, (h.vault i hi).bstore⟩
    · exact ⟨(h.spill p hp).store, (h.spill p hp).bstore⟩
    · exact ⟨(h.restore p hp).store, (h.restore p hp).bstore⟩
  · rintro ⟨⟨⟨⟨⟨⟨hoc, hhbm⟩, hmsc⟩, hl2⟩, hhost⟩, hb⟩, hi⟩
    exact ⟨hoc, hhbm, hmsc, hl2, hhost, hb,
      fun i hm => ⟨(hi i (.inl (.inl hm))).1, (hi i (.inl (.inl hm))).2⟩,
      fun p hm => ⟨(hi p.1 (.inl (.inr ⟨p, hm, rfl⟩))).1, (hi p.1 (.inl (.inr ⟨p, hm, rfl⟩))).2⟩,
      fun p hm => ⟨(hi p.1 (.inr ⟨p, hm, rfl⟩)).1, (hi p.1 (.inr ⟨p, hm, rfl⟩)).2⟩⟩

/-- What a change of other parts of the state keeps. -/
theorem Canon.next {s t : State} (h : Canon s)
    (e : (t.oc, t.sys.hbm, t.sys.msc, t.sys.l2, t.sys.host, t.core.mx.bstore, t.dist.vault, t.dist.spill, t.dist.restore) =
      (s.oc, s.sys.hbm, s.sys.msc, s.sys.l2, s.sys.host, s.core.mx.bstore, s.dist.vault, s.dist.spill, s.dist.restore)) :
    Canon t := by
  simp only [Prod.mk.injEq] at e
  obtain ⟨hoc, hhbm, hmsc, hl2, hhost, hb, hv, hsp, hr⟩ := e
  exact ⟨hoc ▸ h.oc, hhbm ▸ h.hbm, hmsc ▸ h.msc, hl2 ▸ h.l2, hhost ▸ h.host, hb ▸ h.bstore, hv ▸ h.vault, hsp ▸ h.spill,
    hr ▸ h.restore⟩

theorem Canon.ite {c : Prop} [Decidable c] {s t : State} (hs : Canon s) (ht : Canon t) : Canon (if c then s else t) := by
  split
  · exact hs
  · exact ht

/-- A part of a definition that is done only where a condition holds. -/
theorem Canon.when {c : Prop} [Decidable c] {s t : State} (h : Canon s) (ht : Canon s → Canon t) :
    Canon (if c then t else s) := Canon.ite (ht h) h

theorem Canon.ite_fst {α : Type} {c : Prop} [Decidable c] {p q : State × α} (hp : Canon p.1) (hq : Canon q.1) :
    Canon (if c then p else q).1 := by
  split
  · exact hp
  · exact hq

/-! ### Folds -/

theorem Canon.foldl {α : Type} {f : State → α → State} {l : List α} {s : State} (h : Canon s)
    (hf : ∀ t a, Canon t → Canon (f t a)) : Canon (l.foldl f s) := by
  induction l generalizing s with
  | nil => exact h
  | cons a l ih => exact ih (hf s a h)

theorem Canon.foldl_fst {α β : Type} {f : State × β → α → State × β} {l : List α} {p : State × β} (h : Canon p.1)
    (hf : ∀ q a, Canon q.1 → Canon (f q a).1) : Canon (l.foldl f p).1 := by
  induction l generalizing p with
  | nil => exact h
  | cons a l ih => exact ih (hf p a h)

/-! ### What an access, a syllable and a step come to -/

/-- The state that an access leaves is canonical. -/
def AccCanon {α : Type} : Acc α → Prop
  | .ok s _ => Canon s
  | .fault s _ _ _ => Canon s
  | .wait s => Canon s

theorem AccCanon.of_ok {α : Type} {x : Acc α} {s : State} {a : α} (e : x = .ok s a) (h : AccCanon x) : Canon s := by
  subst e; exact h
theorem AccCanon.of_fault {α : Type} {x : Acc α} {s : State} {c : Cause} {r a : Nat} (e : x = .fault s c r a)
    (h : AccCanon x) : Canon s := by
  subst e; exact h
theorem AccCanon.of_wait {α : Type} {x : Acc α} {s : State} (e : x = .wait s) (h : AccCanon x) : Canon s := by
  subst e; exact h

theorem AccCanon.ite {α : Type} {c : Prop} [Decidable c] {x y : Acc α} (hx : AccCanon x) (hy : AccCanon y) :
    AccCanon (if c then x else y) := by
  split
  · exact hx
  · exact hy

theorem AccCanon.bind {α β : Type} {x : Acc α} {f : State → α → Acc β} (h : AccCanon x)
    (hf : ∀ t a, Canon t → AccCanon (f t a)) : AccCanon (x.bind f) := by
  cases x with
  | ok s a => exact hf s a h
  | fault s c r d => exact h
  | wait s => exact h

theorem AccCanon.foldl {α β : Type} {f : Acc β → α → Acc β} {l : List α} {x : Acc β} (h : AccCanon x)
    (hf : ∀ y a, AccCanon y → AccCanon (f y a)) : AccCanon (l.foldl f x) := by
  induction l generalizing x with
  | nil => exact h
  | cons a l ih => exact ih (hf x a h)

/-- The state that a syllable leaves is canonical. -/
def EffCanon : Eff → Prop
  | .done s => Canon s
  | .wait s => Canon s
  | .trap s _ _ _ => Canon s
  | .left s => Canon s

theorem EffCanon.of_wait {x : Eff} {s : State} (e : x = .wait s) (h : EffCanon x) : Canon s := by subst e; exact h

/-- The next state, if there is one, is canonical. -/
def OutCanon : Host.Outcome State Fault Refusal → Prop
  | .next s => Canon s
  | _ => True

/-- The state, if there is one, is canonical. -/
def OptCanon (x : Option State) : Prop := ∀ s, x = some s → Canon s
/-- The state with what comes with it, if there is one, is canonical. -/
def OptCanonFst {α : Type} (x : Option (State × α)) : Prop := ∀ s a, x = some (s, a) → Canon s
/-- The state that a read or write without the core gives, if it does, is canonical. -/
def GotCanon (x : Got State) : Prop := ∀ s, x = .got s → Canon s

theorem optCanon_none : OptCanon none := fun s e => absurd e.symm (Option.some_ne_none s)
theorem optCanon_some {s : State} (h : Canon s) : OptCanon (some s) := fun _ e => Option.some.inj e ▸ h
theorem optCanonFst_none {α : Type} : OptCanonFst (none : Option (State × α)) :=
  fun _ _ e => absurd e.symm (Option.some_ne_none _)
theorem optCanonFst_some {α : Type} {p : State × α} (h : Canon p.1) : OptCanonFst (some p) := by
  intro s a e
  obtain rfl := Option.some.inj e
  exact h
theorem optCanonFst_map {α β : Type} {x : Option α} {f : α → State × β} (hf : ∀ a, Canon (f a).1) :
    OptCanonFst (x.map f) := by
  cases x with
  | none => exact optCanonFst_none
  | some a => exact optCanonFst_some (hf a)

theorem OptCanonFst.map {α : Type} {x : Option (State × α)} {f : State × α → State} (h : OptCanonFst x)
    (hf : ∀ p, Canon p.1 → Canon (f p)) : OptCanon (x.map f) := by
  cases x with
  | none => exact optCanon_none
  | some p => exact optCanon_some (hf p (h p.1 p.2 rfl))
theorem OptCanonFst.map_fst {α β : Type} {x : Option (State × α)} {f : State × α → State × β} (h : OptCanonFst x)
    (hf : ∀ p, Canon p.1 → Canon (f p).1) : OptCanonFst (x.map f) := by
  cases x with
  | none => exact optCanonFst_none
  | some p => exact optCanonFst_some (hf p (h p.1 p.2 rfl))
theorem OptCanonFst.filter {α : Type} {x : Option (State × α)} {p : State × α → Bool} (h : OptCanonFst x) :
    OptCanonFst (x.filter p) :=
  fun s a e => h s a (Option.filter_eq_some_iff.mp e).1
theorem OptCanon.ite {c : Prop} [Decidable c] {x y : Option State} (hx : OptCanon x) (hy : OptCanon y) :
    OptCanon (if c then x else y) := by
  split
  · exact hx
  · exact hy
theorem OptCanon.map {x : Option State} {f : State → State} (h : OptCanon x) (hf : ∀ t, Canon t → Canon (f t)) :
    OptCanon (x.map f) := by
  cases x with
  | none => exact optCanon_none
  | some t => exact optCanon_some (hf t (h t rfl))
theorem OptCanon.of_some {x : Option State} {s : State} (e : x = some s) (h : OptCanon x) : Canon s := h s e
theorem OptCanonFst.of_some {α : Type} {x : Option (State × α)} {s : State} {a : α} (e : x = some (s, a))
    (h : OptCanonFst x) : Canon s := h s a e
theorem OptCanonFst.of_some_fst {α : Type} {x : Option (State × α)} {p : State × α} (e : x = some p)
    (h : OptCanonFst x) : Canon p.1 := h p.1 p.2 e

theorem OptCanonFst.of_bind {α β : Type} {x : Option α} {f : α → Option (State × β)} (hf : ∀ a, OptCanonFst (f a)) :
    OptCanonFst (x.bind f) := by
  cases x with
  | none => exact optCanonFst_none
  | some a => exact hf a
theorem OptCanon.getD {x : Option State} {s : State} (h : OptCanon x) (hs : Canon s) : Canon (x.getD s) := by
  cases x with
  | none => exact hs
  | some t => exact h t rfl
theorem Canon.of_mk {α : Type} {x : State × α} {s : State} {a : α} (e : x = (s, a)) (h : Canon x.1) : Canon s := by
  subst e; exact h

end Sys2Proof.Machine
end

section
/-!
SUPPORT. The memories, the L2 and the memory-side cache keep every memory canonical (sections Memory and Gm of the model).
-/
namespace Sys2Proof.Machine
open Sys2Proof
set_option Elab.async false -- proofs one at a time: the check of the whole text is near its memory limit

/-! ### The state's own operations -/

theorem onCore_canon {s : State} {f : Core → Core} (h : Canon s) (hf : (f s.core).mx.bstore = s.core.mx.bstore) :
    Canon (onCore s f) :=
  { h with bstore := hf ▸ h.bstore }

theorem hubSet_canon {s : State} {a : Nat} {v : Word} (h : Canon s) : Canon (hubSet s a v) := h.next rfl

theorem drawn_canon {s : State} (h : Canon s) : Canon (drawn s) := h.next rfl

theorem sliceSet_canon {s : State} {k : Nat} {p : SlicePart} (h : Canon s) : Canon (sliceSet s k p) := h.next rfl

theorem addRangeSat_canon {s : State} {r : FormatRange} {n : Nat} (h : Canon s) : Canon (addRangeSat s r n) := by
  unfold addRangeSat
  split
  · exact h
  · dsimp only
    exact hubSet_canon h

theorem activate_canon {s : State} {sec : Nat} (h : Canon s) : Canon (activate s sec) := h.next rfl

theorem Canon.hbm_store {s : State} (h : Canon s) (a : Nat) (bs : List Byte) (p : Bool) :
    Canon { s with sys := { s.sys with hbm := s.sys.hbm.store a bs p } } :=
  { h with hbm := Mem.wf_store h.hbm a bs p }

theorem hbmWrite_canon {s : State} {sec v : Nat} {p : Bool} (h : Canon s) : Canon (hbmWrite s sec v p) := by
  unfold hbmWrite
  dsimp only
  split
  · exact h
  split
  · exact (activate_canon h).hbm_store _ _ _
  · exact (addRangeSat_canon (activate_canon h)).hbm_store _ _ _

theorem mscWriteBack_canon {s : State} {l : MscLine} (h : Canon s) : Canon (mscWriteBack s l) :=
  (Canon.foldl h fun _ _ h' => Canon.ite (hbmWrite_canon h') h').next rfl

theorem mscDrop_canon {s : State} {line : Nat} (h : Canon s) : Canon (mscDrop s line) :=
  { h with msc := Mem.wf_clear h.msc _ _ }

theorem mscFlush_canon {s : State} {line : Nat} (h : Canon s) : Canon (mscFlush s line) := by
  unfold mscFlush
  split
  · exact h
  · exact mscDrop_canon (mscWriteBack_canon h)

theorem mscWay_canon {s : State} {slice set : Nat} (h : Canon s) : Canon (mscWay s slice set).1 := by
  unfold mscWay
  dsimp only
  split
  · exact h
  · split
    · exact mscFlush_canon (drawn_canon h)
    · exact drawn_canon h

theorem mscAlloc_canon {s : State} {line : Nat} (h : Canon s) : Canon (mscAlloc s line) := by
  unfold mscAlloc
  split
  · exact h
  · dsimp only
    exact (mscWay_canon h).next rfl

theorem mscPut_canon {s : State} {sec v : Nat} {p dirty : Bool} (h : Canon s) : Canon (mscPut s sec v p dirty) := by
  unfold mscPut
  split
  · exact h
  · have ha : Canon (mscAlloc s (sec / 4)) := mscAlloc_canon h
    exact { ha with msc := Mem.wf_store ha.msc _ _ _ }

theorem homeRead_canon {s : State} {sec : Nat} (h : Canon s) : Canon (homeRead s sec).1 := by
  unfold homeRead
  split
  · exact h
  · split
    · exact h
    · dsimp only
      split
      · exact mscPut_canon (activate_canon h)
      · exact activate_canon h

theorem setStamp_canon {s : State} {k wts rts : Nat} (h : Canon s) : Canon (setStamp s k wts rts) := h.next rfl

theorem setPt_canon {s : State} {ts : Nat} (h : Canon s) : Canon (setPt s ts) := h.next rfl

theorem ImageCanon.core {i : Image} {c : Core} (h : ImageCanon i) (e : c.mx = i.core.mx) :
    ImageCanon { i with core := c } :=
  ⟨h.store, e ▸ h.bstore⟩

theorem Canon.images {s : State} {f : Core → Core} (h : Canon s) (hf : ∀ c, (f c).mx = c.mx) :
    Canon { s with
      core := f s.core
      dist := { s.dist with
        vault := s.dist.vault.map (fun i => { i with core := f i.core })
        spill := s.dist.spill.map (fun p => ({ p.1 with core := f p.1.core }, p.2))
        restore := s.dist.restore.map (fun p => ({ p.1 with core := f p.1.core }, p.2)) } } where
  oc := h.oc
  hbm := h.hbm
  msc := h.msc
  l2 := h.l2
  host := h.host
  bstore := by rw [hf]; exact h.bstore
  vault i hi := by
    obtain ⟨j, hj, rfl⟩ := List.mem_map.mp hi
    exact (h.vault j hj).core (hf _)
  spill p hp := by
    obtain ⟨q, hq, rfl⟩ := Option.mem_map.mp hp
    exact (h.spill q hq).core (hf _)
  restore p hp := by
    obtain ⟨q, hq, rfl⟩ := Option.mem_map.mp hp
    exact (h.restore q hq).core (hf _)

theorem rebaseBy_canon {s : State} {n : Nat} (h : Canon s) : Canon (rebaseBy s n) :=
  (Canon.images (f := fun c => { c with pt := c.pt - n })
    (hubSet_canon (a := 0x4003000000) (v := hubGet s 0x4003000000 ||| 0x20000) h) (fun _ => rfl)).next rfl

theorem rebaseNow_canon {s : State} (h : Canon s) : Canon (rebaseNow s) := rebaseBy_canon (drawn_canon h)

theorem stampRoom_canon {s : State} {ts : Nat} (h : Canon s) : Canon (stampRoom s ts) := Canon.ite (rebaseNow_canon h) h

theorem grantLease_canon {s : State} {k : Nat} (h : Canon s) : Canon (grantLease s k) :=
  setStamp_canon (stampRoom_canon h)

theorem stampHome_canon {s : State} {k : Nat} (h : Canon s) : Canon (stampHome s k) := setPt_canon (grantLease_canon h)

theorem stampLoad_canon {s : State} {k : Nat} (h : Canon s) : Canon (stampLoad s k) := setPt_canon (setStamp_canon h)

theorem takeStore_canon {s : State} {k : Nat} (h : Canon s) : Canon (takeStore s k) := setPt_canon (setStamp_canon h)

theorem stampStore_canon {s : State} {k : Nat} (h : Canon s) : Canon (stampStore s k) :=
  takeStore_canon (stampRoom_canon h)

theorem stampEngine_canon {s : State} {k : Nat} (h : Canon s) : Canon (stampEngine s k) := (stampRoom_canon h).next rfl

theorem stampStep_canon {s : State} {lines : List Nat} (h : Canon s) : Canon (stampStep s lines) :=
  (Canon.foldl (stampRoom_canon h) fun _ _ h' => setStamp_canon h').next rfl

theorem stampRemote_canon {s : State} {k : Nat} (h : Canon s) : Canon (stampRemote s k) :=
  setStamp_canon (stampRoom_canon h)

theorem stampSignal_canon {s : State} {k : Nat} (h : Canon s) : Canon (stampSignal s k) :=
  setStamp_canon (stampRoom_canon h)

theorem observe_canon {s : State} (h : Canon s) : Canon (observe s) := setPt_canon h

theorem onL2_canon {s : State} {line : Nat} {f : L2Line → L2Line} (h : Canon s) : Canon (onL2 s line f) := h.next rfl

theorem l2Clean_canon {s : State} {line : Nat} (h : Canon s) : Canon (l2Clean s line) := by
  unfold l2Clean
  split
  · exact h
  · refine onL2_canon (Canon.foldl h fun t a h' => ?_)
    split
    · exact mscPut_canon h'
    · exact h'

theorem l2Flush_canon {s : State} {line : Nat} (h : Canon s) : Canon (l2Flush s line) :=
  { l2Clean_canon (line := line) h with l2 := Mem.wf_clear (l2Clean_canon h).l2 _ _ }

theorem l2TakeBack_canon {s : State} {line : Nat} (h : Canon s) : Canon (l2TakeBack s line) := by
  unfold l2TakeBack
  split
  · exact h
  · split
    · exact h
    · exact onL2_canon (l2Clean_canon h)

theorem l2Way_canon {s : State} {line : Nat} (h : Canon s) : Canon (l2Way s line).1 := by
  unfold l2Way
  dsimp only
  split
  · exact h
  · split
    · exact l2Flush_canon (drawn_canon h)
    · exact drawn_canon h

theorem Canon.l2_store {s : State} (h : Canon s) (a : Nat) (bs : List Byte) (p : Bool) :
    Canon { s with sys := { s.sys with l2 := s.sys.l2.store a bs p } } :=
  { h with l2 := Mem.wf_store h.l2 a bs p }

theorem l2Put_canon {s : State} {sec v : Nat} {p dirty : Bool} {was wts rts : Nat} (h : Canon s) :
    Canon (l2Put s sec v p dirty was wts rts) := by
  unfold l2Put
  refine onL2_canon (Canon.l2_store ?_ _ _ _)
  split
  · exact h
  · exact (l2Way_canon h).next rfl

theorem coherentRead_canon {s : State} {sec : Nat} (h : Canon s) : Canon (coherentRead s sec).1 := by
  unfold coherentRead
  split
  · exact h
  · exact homeRead_canon h

theorem l2Fill_canon {s : State} {sec : Nat} (h : Canon s) : Canon (l2Fill s sec).1 := by
  unfold l2Fill
  split
  · exact onL2_canon h
  · exact l2Put_canon (homeRead_canon h)

theorem coreRead_canon {s : State} {sec : Nat} (h : Canon s) : Canon (coreRead s sec).1 := by
  unfold coreRead
  split
  · exact h
  · split
    · exact setPt_canon h
    · exact l2Fill_canon (stampHome_canon h)

theorem prefetch_canon {s : State} {sec : Nat} (h : Canon s) : Canon (prefetch s sec) := by
  unfold prefetch
  dsimp only
  split
  · exact Canon.ite h (l2Fill_canon (grantLease_canon h))
  · split
    · exact mscPut_canon (activate_canon h)
    · exact l2Fill_canon (grantLease_canon (mscPut_canon (activate_canon h)))

theorem updLaunch_canon {s : State} {lnum : Nat} {f : Launch → Launch} (h : Canon s) : Canon (updLaunch s lnum f) :=
  h.next rfl

theorem updNode_canon {s : State} {lnum node : Nat} {f : Node → Node} (h : Canon s) :
    Canon (updNode s lnum node f) := updLaunch_canon h

theorem spoilTag_canon {s : State} {lnum node tag : Nat} (h : Canon s) : Canon (spoilTag s lnum node tag) :=
  Canon.images (f := fun c => { c with task := c.task.map (fun k =>
    if k.lnum == lnum && k.node == node && k.tag == tag then { k with spoiled := true } else k) }) h (fun _ => rfl)

theorem viewRead_canon {s : State} {sec : Nat} {v : Viewer} {via : Via} (h : Canon s) :
    Canon (viewRead s sec v via).1 := by
  unfold viewRead
  split
  · exact h
  · split
    · dsimp only
      split
      · refine stampHome_canon ?_
        split
        · exact h
        · exact spoilTag_canon (h.next rfl)
      · split
        · exact h
        · exact spoilTag_canon (h.next rfl)
    · split
      · exact coreRead_canon h
      · split
        · exact coherentRead_canon (stampRemote_canon h)
        · exact coherentRead_canon h

theorem markOverflow_canon {s : State} {v : Viewer} (h : Canon s) : Canon (markOverflow s v) :=
  updLaunch_canon (updNode_canon h)

theorem stagePlace_canon {s : State} {line : Nat} (h : Canon s) : Canon (stagePlace s line).1 := by
  unfold stagePlace
  split
  · exact h
  · dsimp only
    split
    · exact mscWay_canon h
    · split
      · exact h
      · exact h

theorem stampWrite_canon {s : State} {k : Nat} {via : Via} (h : Canon s) : Canon (stampWrite s k via) := by
  unfold stampWrite
  split
  · exact stampStore_canon h
  · exact stampStore_canon h
  · exact stampEngine_canon h
  · exact stampEngine_canon h
  · exact h

theorem plainWrite_canon {s : State} {sec off : Nat} {bs : List Byte} {p : Bool} {via : Via} (h : Canon s) :
    Canon (plainWrite s sec off bs p via) := by
  unfold plainWrite
  split
  · exact l2Put_canon (takeStore_canon (stampRoom_canon (coherentRead_canon h)))
  split
  · exact hbmWrite_canon (homeRead_canon h)
  · exact stampWrite_canon (mscPut_canon (homeRead_canon (l2TakeBack_canon h)))

theorem viewWrite_canon {s : State} {sec off : Nat} {bs : List Byte} {p : Bool} {via : Via} {v : Viewer} (h : Canon s) :
    Canon (viewWrite s sec off bs p via v) := by
  unfold viewWrite
  split
  · exact h
  · split
    · exact plainWrite_canon h
    · split
      · exact h
      · split
        · dsimp only
          refine stampWrite_canon ?_
          split
          · exact h.next rfl
          · exact (spoilTag_canon h).next rfl
        · split
          · exact plainWrite_canon h
          · dsimp only
            split
            · exact plainWrite_canon (markOverflow_canon (stagePlace_canon (coherentRead_canon h)))
            · exact stampWrite_canon ((stagePlace_canon (coherentRead_canon h)).next rfl)

theorem commitStaged_canon {s : State} {lnum node : Nat} (h : Canon s) : Canon (commitStaged s lnum node) := by
  unfold commitStaged
  dsimp only
  split
  · exact h
  · refine setPt_canon (Canon.foldl (Canon.foldl ((stampRoom_canon h).next rfl) ?_) ?_)
    · intro t a h'
      exact mscPut_canon (l2TakeBack_canon h')
    · intro t a h'
      exact setStamp_canon h'

theorem discardNode_canon {s : State} {lnum node : Nat} (h : Canon s) : Canon (discardNode s lnum node) := h.next rfl

theorem discardTask_canon {s : State} {lnum node tag : Nat} (h : Canon s) : Canon (discardTask s lnum node tag) :=
  h.next rfl

end Sys2Proof.Machine
end

section
/-!
SUPPORT. Translation, task records, results, traps and issue keep every memory canonical (sections Xlate to Branch of the model).
-/
namespace Sys2Proof.Machine
open Sys2Proof
set_option Elab.async false -- proofs one at a time: the check of the whole text is near its memory limit

theorem tlbFill_canon {s : State} {e : Xlate} (h : Canon s) : Canon (tlbFill s e) := by
  unfold tlbFill
  split
  · exact h.next rfl
  · dsimp only
    exact h.next rfl

theorem addCode_canon {s : State} {lnum page : Nat} (h : Canon s) : Canon (addCode s lnum page) :=
  Canon.ite h (h.next rfl)

theorem walkRetry_canon {s : State} {lnum root : Nat} (h : Canon s) : Canon (walkRetry s lnum root) := by
  unfold walkRetry
  split
  · exact h
  · split
    · exact h
    · split
      · exact h.next rfl
      · exact Canon.ite h (Canon.ite (h.next rfl) (tlbFill_canon (h.next rfl)))

theorem translate_canon {s : State} {lnum root va : Nat} {n : Need} {priv : Bool} (h : Canon s) :
    Canon (translate s lnum root va n priv).1 := by
  unfold translate
  split
  · dsimp only
    exact h
  · split
    · exact h
    · split
      · exact h
      · split
        · exact h
        · split
          · exact h.next rfl
          · dsimp only
            exact tlbFill_canon h

theorem dpaRead_canon {s : State} {d n : Nat} {v : Viewer} {via : Via} (h : Canon s) :
    Canon (dpaRead s d n v via).1 := by
  unfold dpaRead
  refine Canon.foldl_fst h (fun q a h' => ?_)
  exact viewRead_canon h'

theorem dpaWrite_canon {s : State} {d : Nat} {bs : List Byte} {p : Bool} {via : Via} {v : Viewer} (h : Canon s) :
    Canon (dpaWrite s d bs p via v) := Canon.foldl_fst h (fun _ _ h' => viewWrite_canon h')

theorem gotCanon_got {s : State} (h : Canon s) : GotCanon (.got s) := fun _ e => Got.got.inj e ▸ h

theorem GotCanon.bind {α : Type} {x : Got α} {f : α → Got State} (hf : ∀ a, GotCanon (f a)) : GotCanon (x.bind f) := by
  cases x with
  | got a => exact hf a
  | bad => exact fun s e => absurd e (by simp [Got.bind])
  | waits => exact fun s e => absurd e (by simp [Got.bind])

theorem gmStoreFor_canon {s : State} {root va : Nat} {bs : List Byte} {v : Viewer} (h : Canon s) :
    GotCanon (gmStoreFor s root va bs v) :=
  GotCanon.bind (fun _ => gotCanon_got (Canon.foldl_fst h (fun _ _ hq => dpaWrite_canon hq)))

theorem onTask_canon {s : State} {f : Task → Task} (h : Canon s) : Canon (onTask s f) := h.next rfl

theorem spoil_canon {s : State} (h : Canon s) : Canon (spoil s) := onTask_canon h

theorem reportGm_canon {s : State} {root a : Nat} {bs : List Byte} (h : Canon s) : Canon (reportGm s root a bs) := by
  unfold reportGm
  split
  · exact h.next rfl
  split
  next t e => exact gmStoreFor_canon h _ e
  · exact h
  · exact h.next rfl

theorem reportsDue_canon {s : State} (h : Canon s) : Canon (reportsDue s) :=
  Canon.ite h (Canon.foldl (h.next rfl) (fun _ _ h' => reportGm_canon h'))

theorem Canon.host_write {s : State} (h : Canon s) (a : Nat) (bs : List Byte) :
    Canon { s with sys := { s.sys with host := s.sys.host.write a bs } } :=
  { h with host := Mem.wf_write h.host a bs }

theorem writeReportFor_canon {s : State} {l : Launch} {who : Nat} (h : Canon s) : Canon (writeReportFor s l who) :=
  Canon.ite (Canon.ite (h.host_write _ _) h) (reportGm_canon h)

theorem writeReport_canon {s : State} {lnum : Nat} (h : Canon s) : Canon (writeReport s lnum) := by
  unfold writeReport
  split
  · exact h
  · exact writeReportFor_canon h

theorem reportLaunch_canon {s : State} {lnum : Nat} {f : Launch → Launch} (h : Canon s) :
    Canon (reportLaunch s lnum f) := writeReport_canon (updLaunch_canon h)

theorem overflowReports_canon {s : State} (h : Canon s) : Canon (overflowReports s) :=
  Canon.foldl h (fun _ _ h' => reportLaunch_canon h')

theorem fire_canon {s : State} {v : Nat} (h : Canon s) : Canon (fire s v) := h.next rfl

theorem fireEnd_canon {s : State} {l : Launch} (h : Canon s) : Canon (fireEnd s l) := Canon.ite (fire_canon h) h

theorem Canon.oc_clear {s : State} (h : Canon s) (a n : Nat) : Canon { s with oc := s.oc.clear a n } :=
  { h with oc := Mem.wf_clear h.oc a n }

theorem dropCoreState_canon {s : State} (h : Canon s) : Canon (dropCoreState s) :=
  (h.oc_clear accBase 0x100000).next rfl

theorem withdraw_canon {s : State} {ps : List Push} (h : Canon s) : Canon (withdraw s ps) := h.next rfl

theorem stopCore_canon {s : State} (h : Canon s) : Canon (stopCore s) := dropCoreState_canon (withdraw_canon h)

theorem Canon.images_filter {s : State} {p : Image → Bool} (h : Canon s) :
    Canon { s with dist := { s.dist with
      vault := s.dist.vault.filter p
      spill := s.dist.spill.filter (fun i => p i.1)
      restore := s.dist.restore.filter (fun i => p i.1) } } :=
  { h with
    vault := fun i hi => h.vault i (List.mem_filter.mp hi).1
    spill := fun i hi => h.spill i (Option.mem_filter_iff.mp hi).1
    restore := fun i hi => h.restore i (Option.mem_filter_iff.mp hi).1 }

theorem stopNode_canon {s : State} {lnum node : Nat} (h : Canon s) : Canon (stopNode s lnum node) := by
  unfold stopNode
  refine Canon.images_filter (p := fun i => !((i.core.task.map (fun t => t.lnum == lnum && t.node == node)).getD false)) ?_
  exact Canon.ite (stopCore_canon h) h

theorem dropUnits_canon {s : State} {lnum : Nat} (h : Canon s) : Canon (dropUnits s lnum) := h.next rfl

theorem noteMembers_canon {s : State} {kind lnum arg : Nat} (h : Canon s) : Canon (noteMembers s kind lnum arg) :=
  Canon.ite (h.next rfl) h

theorem abortHere_canon {s : State} {lnum reason : Nat} (h : Canon s) : Canon (abortHere s lnum reason) := by
  unfold abortHere
  split
  · exact h
  · split
    · exact h
    · dsimp only
      refine fireEnd_canon (reportLaunch_canon (dropUnits_canon (Canon.foldl h fun t a h' => ?_)))
      exact discardNode_canon (stopNode_canon h')

theorem abortLaunch_canon {s : State} {lnum reason : Nat} (h : Canon s) : Canon (abortLaunch s lnum reason) :=
  noteMembers_canon (abortHere_canon h)

theorem requeueNode_canon {s : State} {lnum node : Nat} (h : Canon s) : Canon (requeueNode s lnum node) :=
  updNode_canon (discardNode_canon (stopNode_canon h))

theorem replayHere_canon {s : State} {lnum node : Nat} {avoid : Bool} (h : Canon s) :
    Canon (replayHere s lnum node avoid) := reportLaunch_canon (updNode_canon (requeueNode_canon h))

theorem conflictHere_canon {s : State} {lnum node : Nat} (h : Canon s) : Canon (conflictHere s lnum node) :=
  reportLaunch_canon (requeueNode_canon h)

theorem nodeReplay_canon {s : State} {lnum node cause : Nat} (h : Canon s) : Canon (nodeReplay s lnum node cause) := by
  unfold nodeReplay
  split
  · exact stopCore_canon h
  · exact Canon.ite (abortLaunch_canon h) (noteMembers_canon (replayHere_canon h))

theorem recoverNode_canon {s : State} {lnum node : Nat} {cause : Cause} (h : Canon s) :
    Canon (recoverNode s lnum node cause) := by
  unfold recoverNode
  split
  · exact stopCore_canon h
  · split
    · exact abortLaunch_canon h
    · exact nodeReplay_canon h

theorem recover_canon {s : State} {cause : Cause} (h : Canon s) : Canon (recover s cause) := by
  unfold recover
  split
  · exact stopCore_canon h
  · exact recoverNode_canon h

theorem abortCore_canon {s : State} {reason : Nat} (h : Canon s) : Canon (abortCore s reason) := by
  unfold abortCore
  split
  · exact stopCore_canon h
  · exact abortLaunch_canon h

theorem setEntries_canon {s : State} {n : Fin 4} {l : List QEntry} (h : Canon s) : Canon (setEntries s n l) :=
  Canon.ite (h.next rfl) (h.next rfl)

theorem fillEntry_canon {s : State} {q : Fin 16} {entry : Nat} {v : Word} {k : Mark} (h : Canon s) :
    Canon (fillEntry s q entry v k) := h.next rfl

theorem setX_mx {c : Core} {r : XReg} {v : Word} {k : Mark} : (setX c r v k).mx = c.mx := by
  unfold setX
  split <;> rfl

theorem setP_mx {c : Core} {r : PReg} {v : Bool} : (setP c r v).mx = c.mx := by
  unfold setP
  split <;> rfl

theorem writeDest_canon {s : State} {d : Dest} {v : Nat} {k : Mark} (h : Canon s) : Canon (writeDest s d v k) := by
  cases d with
  | x r => exact { h with bstore := by rw [writeDest, setX_mx]; exact h.bstore }
  | p r => exact { h with bstore := by rw [writeDest, setP_mx]; exact h.bstore }
  | v r => exact h.next rfl
  | m r => exact h.next rfl
  | g r => exact h.next rfl
  | queue q e => exact fillEntry_canon h

theorem addVqstat_canon {s : State} {sat absent : Nat} (h : Canon s) : Canon (addVqstat s sat absent) := by
  unfold addVqstat
  split
  · exact h
  · dsimp only
    exact onCore_canon h rfl

theorem land_canon {s : State} {l : Landing} (h : Canon s) : Canon (land s l) := addVqstat_canon (writeDest_canon h)

theorem landThrough_canon {s : State} {t : Nat} (h : Canon s) : Canon (landThrough s t) :=
  Canon.foldl (h.next rfl) (fun _ _ h' => land_canon h')

theorem expose_canon {s : State} {n : Nat} {d : Dest} {v : Nat} (h : Canon s) : Canon (expose s n d v) :=
  onCore_canon h rfl

theorem exposeMarked_canon {s : State} {n : Nat} {d : Dest} {v : Nat} {k : Mark} (h : Canon s) :
    Canon (exposeMarked s n d v k) := onCore_canon h rfl

theorem exposeVec_canon {s : State} {n : Nat} {d : Dest} {v sat : Nat} {k : Mark} (h : Canon s) :
    Canon (exposeVec s n d v sat k) := onCore_canon h rfl

theorem takeReserved_canon {s : State} {e : Push} (h : Canon s) : Canon (takeReserved s e) := onCore_canon h rfl

theorem exposeX_canon {s : State} {n : Nat} {r : XReg} {v : Word} (h : Canon s) : Canon (exposeX s n r v) := by
  unfold exposeX
  split
  · exact fillEntry_canon (takeReserved_canon h)
  · split
    · exact h
    · exact expose_canon h

theorem lateDest_canon {s : State} {r : XReg} (h : Canon s) : Canon (lateDest s r).1 := by
  unfold lateDest
  split
  · exact takeReserved_canon h
  · split
    · exact h
    · exact h

theorem pend_canon {s : State} {d : Dest} {v : Option Nat} {k : Mark} {clocks : Option Nat} (h : Canon s) :
    Canon (pend s d v k clocks).1 := h.next rfl

theorem pendVec_canon {s : State} {d : Dest} {v : Option Nat} {k : Mark} {due : Option Nat} {sat absent : Nat}
    (h : Canon s) : Canon (pendVec s d v k due sat absent).1 := h.next rfl

theorem pendX_canon {s : State} {r : XReg} {v : Word} {k : Mark} {n : Nat} (h : Canon s) : Canon (pendX s r v k n) := by
  unfold pendX
  split
  next x t d e => exact pend_canon (Canon.of_mk e (lateDest_canon h))
  next x t e => exact Canon.of_mk e (lateDest_canon h)

theorem supply_canon {s : State} {id v : Nat} {k : Mark} {n : Nat} (h : Canon s) : Canon (supply s id v k n) :=
  onCore_canon h rfl

theorem writeDue_canon {s : State} (h : Canon s) : Canon (writeDue s) :=
  Canon.foldl (h.next rfl) (fun _ _ h' => addVqstat_canon (writeDest_canon h'))

theorem waitFor_canon {s : State} {kind : Nat} (h : Canon s) : EffCanon (waitFor s kind) := onCore_canon h rfl

theorem endWait_canon {s : State} (h : Canon s) : Canon (endWait s) := landThrough_canon (onCore_canon h rfl)

theorem foldl_envAdd_mx (l : List Nat) (c : Core) : (l.foldl envAdd c).mx = c.mx := by
  induction l generalizing c with
  | nil => rfl
  | cons w l ih => exact ih (envAdd c w)

theorem beginNext_mx {now : Nat} {c : Core} : (beginNext now c).mx = c.mx := by
  unfold beginNext
  split <;> rfl

theorem commit_canon {s : State} {open_ : Bool} (h : Canon s) : Canon (commit s open_) := by
  have hc : ∀ c : Core, (if open_ then (commitWords c).foldl envAdd c else c).mx = c.mx := by
    intro c
    split
    · exact foldl_envAdd_mx _ _
    · rfl
  have hcore : Canon (onCore s (fun c =>
      let c := if open_ then (commitWords c).foldl envAdd c else c
      if decide (s.core.bundle.length ≤ s.core.idx + 1) then
        beginNext s.clock (endBundle (if open_ then { c with envCount := c.envCount + 1 } else c))
      else { c with idx := c.idx + 1, lx := none, waiting := none, waited := s.core.waited || s.core.waiting.isSome })) := by
    refine onCore_canon h ?_
    dsimp only
    split
    · rw [beginNext_mx]
      change Matrix.bstore (Core.mx (ite _ _ _)) = _
      split
      · exact congrArg Matrix.bstore (foldl_envAdd_mx _ _)
      · rfl
    · exact congrArg Matrix.bstore (hc _)
  unfold commit
  dsimp only
  exact Canon.ite (endWait_canon hcore) hcore

theorem stall_canon {s : State} (h : Canon s) : Canon (stall s) := onCore_canon h rfl

theorem holdSchedule_canon {s : State} {t from_ : Nat} (h : Canon s) : Canon (holdSchedule s t from_) := by
  unfold holdSchedule
  exact onCore_canon (landThrough_canon h) rfl

theorem enterHandler_canon {s : State} {c : Cause} {detail : Nat} {val : Word} {tpc : CodeAddr} {srfv : Bool}
    {srf t : Nat} (h : Canon s) : Canon (enterHandler s c detail val tpc srfv srf t) := by
  unfold enterHandler
  exact onCore_canon (holdSchedule_canon h) rfl

theorem haltCore_canon {s : State} {why : Fin 5} {tpc : CodeAddr} {srfv : Bool} {srf t : Nat} (h : Canon s) :
    Canon (haltCore s why tpc srfv srf t) := by
  unfold haltCore
  exact onCore_canon (holdSchedule_canon h) rfl

theorem takeTrap_canon {s : State} {c : Cause} {detail : Nat} {val : Word} {tpc : CodeAddr} {srfv : Bool}
    {srf t : Nat} (h : Canon s) : Canon (takeTrap s c detail val tpc srfv srf t) := by
  unfold takeTrap
  split
  · exact recover_canon h
  · exact recover_canon h
  · exact Canon.ite (haltCore_canon h) (Canon.ite (abortCore_canon h) (enterHandler_canon h))
  · exact Canon.ite (abortCore_canon h) (enterHandler_canon h)

theorem trapHere_canon {s : State} {c : Cause} {detail : Nat} {val : Word} (h : Canon s) :
    Canon (trapHere s c detail val) := takeTrap_canon h

theorem trapDecode_canon {s : State} {c : Cause} {detail : Nat} {val : Word} (h : Canon s) :
    Canon (trapDecode s c detail val) := takeTrap_canon h

theorem resumeAt_canon {s : State} {pc : CodeAddr} {srfv : Bool} {srf wait : Nat} (h : Canon s) :
    Canon (resumeAt s pc srfv srf wait) := by
  unfold resumeAt
  split
  · exact onCore_canon h rfl
  · dsimp only
    exact onCore_canon (Canon.ite h (withdraw_canon h)) rfl

theorem settle_canon {old : State} {e : Eff} (h : EffCanon e) : Canon (settle old e) := by
  cases e with
  | done s => exact commit_canon h
  | wait s => exact stall_canon h
  | trap s c d v => exact trapHere_canon h
  | left s => exact h

theorem returnFromTrap_canon {s : State} (h : Canon s) : Canon (returnFromTrap s) := resumeAt_canon (onCore_canon h rfl)

theorem popAt_canon {s : State} {p : Nat × Fin 4} (h : Canon s) : Canon (popAt s p) := by
  unfold popAt
  split
  · dsimp only
    exact onCore_canon (setEntries_canon (Canon.ite (observe_canon h) h)) rfl
  · exact h

theorem reserveAt_canon {s : State} {p : Nat × Fin 4} (h : Canon s) : Canon (reserveAt s p) := by
  unfold reserveAt
  exact onCore_canon (setEntries_canon h) rfl

theorem issue_canon {s : State} {ws : List Syllable} {d : Decoded} {start : Nat} (h : Canon s) :
    Canon (issue s ws d start) := by
  unfold issue
  refine onCore_canon (Canon.foldl (Canon.foldl h ?_) ?_) rfl
  · intro t a h'
    exact popAt_canon h'
  · intro t a h'
    exact reserveAt_canon h'

theorem ready_canon {i : Instr} {s : State} (h : Canon s) : OptCanon (ready i s) := by
  unfold ready
  split
  · dsimp only
    exact OptCanon.ite optCanon_none (optCanon_some (issue_canon h))
  · exact optCanon_some h

theorem markTrap_canon {s : State} {k : Mark} (h : Canon s) : Canon (markTrap s k) := by
  unfold markTrap
  split
  · exact h
  · exact trapHere_canon h
  · exact trapHere_canon (drawn_canon h)

theorem sylPre_canon {pre : State → Option Eff} {i : Instr} {s : State} {body : State → Eff} (h : Canon s)
    (hp : ∀ t e, Canon t → pre t = some e → EffCanon e) (hb : ∀ t, Canon t → EffCanon (body t)) :
    OutCanon (sylPre pre i s body) := by
  unfold sylPre
  split
  · exact stall_canon h
  next t e =>
    have ht : Canon t := ready_canon h _ e
    split
    · exact trapDecode_canon ht
    split
    · exact trapHere_canon ht
    split
    · exact settle_canon ht
    split
    next e hpre => exact settle_canon (hp t e ht hpre)
    split
    · exact markTrap_canon ht
    split
    · exact stall_canon ht
    · exact settle_canon (hb t ht)

theorem syl_canon {i : Instr} {s : State} {body : State → Eff} (h : Canon s) (hb : ∀ t, Canon t → EffCanon (body t)) :
    OutCanon (syl i s body) :=
  sylPre_canon h (fun _ _ _ e => absurd e.symm (Option.some_ne_none _)) hb

theorem guardPush_canon {s : State} {r : XReg} {k : Eff} (h : Canon s) (hk : EffCanon k) :
    EffCanon (guardPush s r k) := by
  unfold guardPush
  split
  · exact drawn_canon h
  · exact hk

theorem takeBranch_canon {s : State} {t : CodeAddr} {bubbles : Nat} (h : Canon s) : Canon (takeBranch s t bubbles) :=
  onCore_canon h rfl

theorem execJ_canon {g : Guard} {o : BitVec 19} {s : State} (h : Canon s) : OutCanon (execJ g o s) :=
  syl_canon h (fun _ h' => takeBranch_canon h')

theorem execCall_canon {g : Guard} {o : BitVec 19} {s : State} (h : Canon s) : OutCanon (execCall g o s) := by
  unfold execCall
  refine syl_canon h (fun t h' => ?_)
  exact takeBranch_canon (expose_canon h')

theorem jumpTo_canon {s : State} {t : Word} (h : Canon s) : EffCanon (jumpTo s t) := by
  unfold jumpTo
  split
  · exact h
  · split
    · exact h
    · exact takeBranch_canon h

end Sys2Proof.Machine
end

section
/-!
SUPPORT. The checks of the spaces, barrier words, engine registers and lines keep every memory canonical (sections Spaces to Wheel).
-/
namespace Sys2Proof.Machine
open Sys2Proof
set_option Elab.async false -- proofs one at a time: the check of the whole text is near its memory limit

theorem execJr_canon {g : Guard} {a : XReg} {s : State} (h : Canon s) : OutCanon (execJr g a s) :=
  syl_canon h (fun _ h' => jumpTo_canon h')

theorem execRet_canon {g : Guard} {s : State} (h : Canon s) : OutCanon (execRet g s) :=
  syl_canon h (fun _ h' => jumpTo_canon h')

theorem execLoop_canon {g : Guard} {c : XReg} {o : BitVec 14} {s : State} (h : Canon s) :
    OutCanon (execLoop g c o s) := by
  unfold execLoop
  refine syl_canon h (fun t h' => ?_)
  exact Canon.ite (expose_canon h') (takeBranch_canon (expose_canon h'))

theorem ownedByCore_canon {s : State} {oc n addr : Nat} (h : Canon s) : AccCanon (ownedByCore s oc n addr) := by
  unfold ownedByCore
  split
  · exact h
  · split
    · exact h
    · exact h

theorem localCheck_canon {s : State} {base size : Nat} {a : Int} {n : Nat} {wr : Bool} (h : Canon s) :
    AccCanon (localCheck s base size a n wr) :=
  AccCanon.ite h (AccCanon.bind (ownedByCore_canon h) (fun _ _ h' => AccCanon.ite h' h'))

theorem ocCheck_canon {s : State} {u : OcUser} {a : Int} {n : Nat} {rd wr : Bool} (h : Canon s) :
    AccCanon (ocCheck s u a n rd wr) := by
  unfold ocCheck
  dsimp only
  split
  · exact h
  · split
    · split
      · exact h
      · split
        · exact AccCanon.ite h (AccCanon.ite h h)
        · exact AccCanon.ite h (AccCanon.ite h h)
        · exact AccCanon.ite h h
        · exact AccCanon.ite h h
        · exact AccCanon.ite h h
        · exact AccCanon.ite h (AccCanon.ite h h)
        · exact AccCanon.ite h h
        · exact AccCanon.ite h (AccCanon.ite h h)
        · exact AccCanon.ite h (AccCanon.ite h (AccCanon.ite h h))
    · exact h

theorem gmRuns_canon {s : State} {need : Need} {addr : Nat} {each : Bool} {l : List (Nat × Nat)} (h : Canon s) :
    AccCanon (gmRuns s need addr each l) := by
  induction l generalizing s with
  | nil => exact h
  | cons p l ih =>
    obtain ⟨va, k⟩ := p
    unfold gmRuns
    dsimp only
    split
    next t d e =>
      have ht : Canon t := Canon.of_mk e (translate_canon h)
      exact AccCanon.ite ht (AccCanon.ite ht (AccCanon.bind (ih ht) (fun _ _ hu => hu)))
    next t c x e => exact Canon.of_mk e (translate_canon h)
    next t e => exact Canon.of_mk e (translate_canon h)

theorem gmCheck_canon {s : State} {a : Int} {n : Nat} {need : Need} {each : Bool} (h : Canon s) :
    AccCanon (gmCheck s a n need each) := AccCanon.ite h (AccCanon.bind (gmRuns_canon h) (fun _ _ h' => h'))

theorem settleClash_canon {fuel : Nat} {s : State} {v : Viewer} {runs : List (Nat × Nat)} (h : Canon s) :
    AccCanon (settleClash fuel s v runs) := by
  induction fuel generalizing s with
  | zero => exact h
  | succ fuel ih =>
    unfold settleClash
    split
    · exact h
    exact AccCanon.ite (ih (noteMembers_canon (conflictHere_canon h))) h

theorem eregSet_canon {s : State} {e n : Nat} {v : Word} (h : Canon s) : Canon (eregSet s e n v) := h.next rfl

theorem shadowSet_canon {s : State} {e n : Nat} {v : Word} (h : Canon s) : Canon (shadowSet s e n v) :=
  Canon.ite (eregSet_canon h) h

theorem blockStore_canon {s : State} {off : Nat} {bs : List Byte} (h : Canon s) : Canon (blockStore s off bs) := by
  unfold blockStore
  refine Canon.foldl h (fun t a h' => ?_)
  exact Canon.ite (shadowSet_canon h') h'

theorem barrierSet_canon {s : State} {oc : Nat} {b : BarrierWord} (h : Canon s) : Canon (barrierSet s oc b) :=
  { h with oc := Mem.wf_writeNat h.oc _ _ _ }

theorem barrierUpdate_canon {s : State} {oc n : Nat} {e : Int} (h : Canon s) : Canon (barrierUpdate s oc n e) :=
  stampSignal_canon (barrierSet_canon h)

theorem setRingCnt_canon {s : State} {n : Nat} {w : Word} (h : Canon s) : Canon (setRingCnt s n w) := by
  unfold setRingCnt
  split
  · exact onCore_canon h rfl
  · exact h

theorem setRingCfg_canon {s : State} {n : Nat} {w : Word} (h : Canon s) : Canon (setRingCfg s n w) := by
  unfold setRingCfg
  split
  · exact onCore_canon h rfl
  · exact h

theorem setClaim_canon {s : State} {n v : Nat} (h : Canon s) : Canon (setClaim s n v) := by
  unfold setClaim
  split
  · exact h.next rfl
  · exact h

theorem flipTo_canon {s : State} {engine : Bool} {gs : List Nat} (h : Canon s) : Canon (flipTo s engine gs) :=
  h.next rfl

theorem enableRing_canon {s : State} {n : Nat} {v : Word} (h : Canon s) : Canon (enableRing s n v) := by
  unfold enableRing
  split
  · exact h
  · dsimp only
    split
    · exact setRingCfg_canon h
    · exact (setClaim_canon (setRingCnt_canon (flipTo_canon (setRingCfg_canon h)))).next rfl

theorem loseRing_canon {s : State} {n : Nat} (h : Canon s) : Canon (loseRing s n) := h.next rfl

theorem disableRing_canon {s : State} {n : Nat} {v : Word} (h : Canon s) : Canon (disableRing s n v) := by
  unfold disableRing
  split
  · dsimp only
    exact loseRing_canon ((setClaim_canon (setRingCnt_canon (flipTo_canon (setRingCfg_canon h)))).next rfl)
  · exact setRingCfg_canon h

theorem claimSlot_canon {s : State} {n : Nat} (h : Canon s) : OptCanonFst (claimSlot s n) := by
  unfold claimSlot
  dsimp only
  split
  · exact optCanonFst_none
  · exact optCanonFst_some (setClaim_canon (setRingCnt_canon h))

theorem advanceTail_canon {fuel : Nat} {s : State} {n : Nat} (h : Canon s) : Canon (advanceTail fuel s n) := by
  induction fuel generalizing s with
  | zero => exact h
  | succ fuel ih =>
    unfold advanceTail
    exact Canon.ite (ih (setRingCnt_canon (h.next rfl))) h

theorem fillSlot_canon {s : State} {n j : Nat} (h : Canon s) : Canon (fillSlot s n j) := advanceTail_canon (h.next rfl)

theorem releaseSlots_canon {m : Nat} {s : State} {n : Nat} (h : Canon s) : Canon (releaseSlots m s n) := by
  induction m generalizing s with
  | zero => exact h
  | succ m ih => exact ih (setRingCnt_canon (flipTo_canon h))

theorem pushCompletion_canon {s : State} {w : Word} (h : Canon s) : Canon (pushCompletion s w) := onCore_canon h rfl

theorem engPage_canon {s : State} {u : EngUser} {pages : List HeldPage} {va : Nat} {need : Need} (h : Canon s) :
    Canon (engPage s u pages va need).1 := by
  unfold engPage
  split
  · exact h
  · split
    · exact h
    · split
      · exact h
      · exact h

theorem setUnit_canon {s : State} {dim : Nat} {u : TetherUnit} (h : Canon s) : Canon (setUnit s dim u) := by
  unfold setUnit
  split
  · exact h.next rfl
  · exact h

theorem fabricEvent_canon {s : State} {dim line lane kind : Nat} (h : Canon s) :
    Canon (fabricEvent s dim line lane kind) := Canon.ite (setUnit_canon h) (setUnit_canon h)

theorem takeEvent_canon {s : State} {dim : Nat} (h : Canon s) : Canon (takeEvent s dim).1 := by
  unfold takeEvent
  dsimp only
  split
  · exact setUnit_canon h
  · exact h

theorem setLink_canon {s : State} {k : Nat} {l : Link} (h : Canon s) : Canon (setLink s k l) := h.next rfl

theorem setCtrl_canon {s : State} {dim peer : Nat} {c : Nat × Nat} (h : Canon s) : Canon (setCtrl s dim peer c) :=
  h.next rfl

theorem takeSeq_canon {s : State} {dst cls : Nat} (h : Canon s) : Canon (takeSeq s dst cls).1 := h.next rfl

theorem enqueue_canon {s : State} {p : Packet} {pin : Option Nat} {ready : Nat} (h : Canon s) :
    Canon (enqueue s p pin ready).1 := by
  unfold enqueue
  split
  · exact takeSeq_canon h
  · exact h.next rfl

theorem sendControl_canon {s : State} {dst aux launch addr : Nat} {pay : List Sector} (h : Canon s) :
    Canon (sendControl s dst aux launch addr pay) := enqueue_canon h

theorem sendAck_canon {s : State} {p : Packet} {status : Nat} (h : Canon s) : Canon (sendAck s p status) := by
  unfold sendAck
  split
  · exact h
  · exact h.next rfl

theorem injectOn_canon {s : State} {dim lane n : Nat} (h : Canon s) : Canon (injectOn s dim lane n).1 := by
  unfold injectOn
  dsimp only
  split
  · exact h
  · split
    · exact hubSet_canon h
    · exact hubSet_canon h

theorem emit_canon {s : State} {u : Sent} (h : Canon s) : Canon (emit s u).1 := by
  unfold emit
  dsimp only
  split
  · exact injectOn_canon h
  · split
    · exact injectOn_canon h
    · exact (injectOn_canon h).next rfl

theorem returnEntry_canon {s : State} {id : Nat} (h : Canon s) : Canon (returnEntry s id) := by
  unfold returnEntry
  split
  · exact h
  · dsimp only
    split
    · exact h.next rfl
    · split
      · exact setLink_canon (h.next rfl)
      · exact Canon.ite (setCtrl_canon (h.next rfl)) (h.next rfl)

theorem leadLeaves_canon {s : State} {p : Packet} (h : Canon s) : Canon (leadLeaves s p).1 := by
  unfold leadLeaves
  split
  · exact h
  · split
    · exact h
    · dsimp only
      exact h.next rfl

theorem putOn_canon {s : State} {i : TxItem} {lane : Nat} (h : Canon s) : Canon (putOn s i lane) :=
  (emit_canon (setCtrl_canon (setLink_canon (leadLeaves_canon h)))).next rfl

theorem resendPass_canon {l : List Sent} {blocked : List Nat} {s : State} {kept : List Sent} (h : Canon s) :
    Canon (resendPass l blocked s kept) := by
  induction l generalizing s blocked kept with
  | nil => exact h.next rfl
  | cons u l ih =>
    unfold resendPass
    exact Canon.ite (ih (emit_canon h)) (ih h)

end Sys2Proof.Machine
end

section
/-!
SUPPORT. The wheel and the tile distributor keep every memory canonical (sections Wheel and Dist of the model).
-/
namespace Sys2Proof.Machine
open Sys2Proof
set_option Elab.async false -- proofs one at a time: the check of the whole text is near its memory limit

theorem sendPass_canon {l : List TxItem} {blocked : List (Nat × Nat × Nat)} {s : State} {kept : List TxItem}
    (h : Canon s) : Canon (sendPass l blocked s kept) := by
  induction l generalizing s blocked kept with
  | nil => exact h.next rfl
  | cons i l ih =>
    unfold sendPass
    refine Canon.ite (ih h) ?_
    cases laneFor s i with
    | none => exact ih h
    | some k => exact ih (putOn_canon h)

theorem sendPackets_canon {s : State} (h : Canon s) : Canon (sendPackets s) := by
  unfold sendPackets
  split
  · exact h
  · dsimp only
    split
    · exact Canon.ite (resendPass_canon h) (sendPass_canon (resendPass_canon h))
    · exact Canon.ite h (sendPass_canon h)

theorem markReplayed_canon {s : State} {us : List Sent} (h : Canon s) : Canon (markReplayed s us) := h.next rfl

theorem replayLink_canon {s : State} {dim plane peer : Nat} (h : Canon s) : Canon (replayLink s dim plane peer) :=
  Canon.ite (markReplayed_canon h) (Canon.ite (fabricEvent_canon (h.next rfl)) (h.next rfl))

theorem linkTimeouts_canon {s : State} (h : Canon s) : Canon (linkTimeouts s) :=
  Canon.foldl h (fun _ _ h' => replayLink_canon h')

theorem creditAck_canon {s : State} {dim plane peer : Nat} (h : Canon s) : Canon (creditAck s dim plane peer) :=
  Canon.ite h (Canon.ite h ((emit_canon (setCtrl_canon (setLink_canon h))).next rfl))

theorem ctrlAck_canon {s : State} {dim peer : Nat} (h : Canon s) : Canon (ctrlAck s dim peer) := by
  unfold ctrlAck
  split
  · split
    · exact h
    · exact creditAck_canon h
  · exact h

theorem creditAcks_canon {s : State} (h : Canon s) : Canon (creditAcks s) := by
  unfold creditAcks
  refine Canon.foldl (Canon.foldl h ?_) ?_
  · intro t a h'
    exact Canon.ite h' (creditAck_canon h')
  · intro t a h'
    exact ctrlAck_canon h'

theorem sendProposal_canon {s : State} {dim turn : Nat} (h : Canon s) : Canon (sendProposal s dim turn) :=
  Canon.foldl h (fun _ _ h' => Canon.foldl h' (fun _ _ h2 => sendControl_canon h2))

theorem propose_canon {s : State} {dim : Nat} {t : List (Nat × Nat)} {ordered : Bool} (h : Canon s) :
    Canon (propose s dim t ordered) := Canon.ite (setUnit_canon h) (sendProposal_canon (setUnit_canon h))

theorem proposalOver_canon {s : State} {dim : Nat} (h : Canon s) : Canon (proposalOver s dim) := by
  unfold proposalOver
  dsimp only
  split
  · exact propose_canon (setUnit_canon (setUnit_canon h))
  · exact Canon.ite (propose_canon (setUnit_canon (setUnit_canon h))) (setUnit_canon h)

theorem setTutstat_canon {s : State} {dim v : Nat} (h : Canon s) : Canon (setTutstat s dim v) := hubSet_canon h

theorem tutblStart_canon {s : State} {dim : Nat} {v : Word} (h : Canon s) : Canon (tutblStart s dim v) := by
  unfold tutblStart
  split
  · exact h
  · dsimp only
    split
    · exact setTutstat_canon (dpaRead_canon h)
    · exact propose_canon (setTutstat_canon (dpaRead_canon h))

theorem tutblStore_canon {s : State} {dim : Nat} {v : Word} (h : Canon s) : Canon (tutblStore s dim v) := by
  unfold tutblStore
  split
  · exact h
  · dsimp only
    exact Canon.ite (tutblStart_canon (hubSet_canon h)) (hubSet_canon h)

theorem proposalLapse_canon {s : State} {dim : Nat} (h : Canon s) : Canon (proposalLapse s dim) := by
  unfold proposalLapse
  split
  · exact h
  · split
    · exact h
    · split
      · exact Canon.ite h (proposalOver_canon h)
      · exact Canon.ite (sendProposal_canon (setUnit_canon h)) h

theorem installTable_canon {s : State} {dim : Nat} (h : Canon s) : Canon (installTable s dim) := by
  unfold installTable
  split
  · exact h
  · split
    · exact h
    · dsimp only
      refine proposalOver_canon (fabricEvent_canon ?_)
      exact Canon.ite (setTutstat_canon (setUnit_canon h)) (setUnit_canon h)

theorem replaceRequest_canon {s : State} (h : Canon s) : Canon (replaceRequest s) := hubSet_canon (fire_canon h)

theorem noteRemoval_canon {s : State} {kind id : Nat} (h : Canon s) : Canon (noteRemoval s kind id) :=
  replaceRequest_canon (hubSet_canon (h.next rfl))

theorem loseComb_canon {s : State} {dim comb : Nat} (h : Canon s) : Canon (loseComb s dim comb) := by
  unfold loseComb
  split
  · exact h
  · dsimp only
    exact noteRemoval_canon (setUnit_canon (fabricEvent_canon h))

theorem standIn_canon {s : State} {dim comb line : Nat} (h : Canon s) : Canon (standIn s dim comb line) := by
  unfold standIn
  split
  · exact fabricEvent_canon h
  · dsimp only
    exact propose_canon (Canon.ite (noteRemoval_canon h) h)

theorem loseLine_canon {s : State} {dim comb line : Nat} (h : Canon s) : Canon (loseLine s dim comb line) := by
  unfold loseLine
  split
  · exact h
  · dsimp only
    split
    · exact loseComb_canon (setUnit_canon (fabricEvent_canon h))
    · exact Canon.foldl (standIn_canon (setUnit_canon (fabricEvent_canon h))) (fun t a h' => standIn_canon h')

theorem driftLine_canon {s : State} {dim comb line : Nat} (h : Canon s) : Canon (driftLine s dim comb line) :=
  setUnit_canon (fabricEvent_canon h)

theorem retuneLine_canon {s : State} {dim comb line : Nat} (h : Canon s) : Canon (retuneLine s dim comb line) :=
  setUnit_canon h

theorem installSeats_canon {s : State} {bs : List Nat} (h : Canon s) : Canon (installSeats s bs) :=
  Canon.ite h (Canon.foldl h (fun _ _ h' => hubSet_canon h'))

theorem addLaunch_canon {s : State} {l : Launch} (h : Canon s) : Canon (addLaunch s l) := h.next rfl

theorem closePart_canon {s : State} {lnum node : Nat} {byEnd : Bool} (h : Canon s) :
    Canon (closePart s lnum node byEnd) := by
  unfold closePart
  split
  · exact h
  · dsimp only
    split
    · exact Canon.foldl (updNode_canon h) (fun t a h' => sendControl_canon h')
    · exact updNode_canon h

theorem phaseStart_canon {s : State} {lnum node : Nat} (h : Canon s) : Canon (phaseStart s lnum node) := by
  unfold phaseStart
  split
  · dsimp only
    exact Canon.ite (closePart_canon (updNode_canon h)) (updNode_canon h)
  · exact h

theorem startReady_canon {s : State} {lnum : Nat} (h : Canon s) : Canon (startReady s lnum) := by
  unfold startReady
  split
  · exact h
  · refine Canon.foldl h (fun t a h' => ?_)
    split
    · split
      · exact phaseStart_canon (updNode_canon (h'.next rfl))
      · exact h'
    · exact h'

theorem codeEntries_canon {s : State} {l : Launch} (h : Canon s) : Canon (codeEntries s l) := by
  unfold codeEntries
  refine Canon.foldl (h.next rfl) (fun t a h' => ?_)
  split
  · exact h'
  · split
    · exact addCode_canon h'
    · exact h'

theorem makeResident_canon {s : State} {lnum : Nat} (h : Canon s) : Canon (makeResident s lnum) := by
  unfold makeResident
  split
  · exact h
  · dsimp only
    exact startReady_canon (reportLaunch_canon (codeEntries_canon (installSeats_canon h)))

theorem submitWords_canon {s : State} {from_ : LaunchFrom} {w : List Nat} {readable : Bool} (h : Canon s) :
    OptCanonFst (submitWords s from_ w readable) := by
  unfold submitWords
  refine optCanonFst_map (fun c => ?_)
  have hrefuse : ∀ l : Launch, Canon (fireEnd (if readable then writeReportFor s l 0xFFFF else s) l) :=
    fun l => fireEnd_canon (Canon.ite (writeReportFor_canon h) h)
  have hwheel : Canon (if s.dist.wheelFrom.isNone && !fabricOn s then
      { s with fabric := { s.fabric with from_ := s.clock, scNext := s.fabric.slot0 } } else s) := Canon.ite (h.next rfl) h
  have hres : ∀ (b : Bool) (t : State) (n : Nat), Canon t → Canon (if b then makeResident t n else t) :=
    fun _ _ _ ht => Canon.ite (makeResident_canon ht) ht
  refine Canon.ite_fst (hrefuse _) (Canon.ite_fst (hrefuse _) (hres _ _ _ ?_))
  cases from_ with
  | door => exact Canon.foldl (writeReport_canon (addLaunch_canon (hwheel.next rfl))) (fun t x ht => sendControl_canon ht)
  | child p k => exact Canon.foldl (writeReport_canon (addLaunch_canon (hwheel.next rfl))) (fun t x ht => sendControl_canon ht)
  | peer k => exact writeReport_canon (addLaunch_canon (hwheel.next rfl))

theorem doorNow_canon {s : State} {v : Nat} (h : Canon s) : OptCanon (doorNow s v) := by
  unfold doorNow
  dsimp only
  split
  · exact optCanon_some (fire_canon h)
  split
  · exact optCanon_none
  · exact optCanon_some (fire_canon h)
  · exact (submitWords_canon h).map (fun _ hp => hp)

theorem peerNow_canon {s : State} {src lnum : Nat} {w : List Nat} (h : Canon s) : OptCanon (peerNow s src lnum w) :=
  (submitWords_canon h).map (fun _ hp => sendControl_canon hp)

theorem submit_canon {s : State} {q : Submit} (h : Canon s) : Canon (submit s q) := by
  unfold submit
  refine OptCanon.getD ?_ (h.next rfl)
  split
  · exact doorNow_canon h
  · exact peerNow_canon h

theorem submitsDue_canon {s : State} (h : Canon s) : Canon (submitsDue s) :=
  Canon.ite h (Canon.foldl (h.next rfl) (fun _ _ h' => submit_canon h'))

theorem submitDoor_canon {s : State} {v : Word} (h : Canon s) : Canon (submitDoor s v) := submit_canon h

theorem freshCore_canon {s : State} {l : Launch} {args ticket : Word} {entry : Nat} (h : Canon s) :
    Canon (freshCore s l args ticket entry) := by
  have hr : Canon ((List.range 16).foldl (fun s n => disableRing s n 0) s) :=
    Canon.foldl h (fun t n ht => disableRing_canon ht)
  unfold freshCore
  refine onCore_canon ?_ rfl
  split
  · split
    · exact ((hr.oc_clear lsBase 0x200000).oc_clear qsBase 0x400000).next rfl
    · exact (hr.oc_clear lsBase 0x200000).next rfl
  · exact Canon.ite ((hr.oc_clear qsBase 0x400000).next rfl) (hr.next rfl)

theorem freshTag_canon {s : State} (h : Canon s) : Canon (freshTag s).1 := h.next rfl

theorem boundLaunch_canon {s : State} {lnum : Nat} (h : Canon s) : Canon (boundLaunch s lnum) := updLaunch_canon h

theorem startTask_canon {s : State} {lnum node ticket count : Nat} {xchg : Bool} (h : Canon s) :
    Canon (startTask s lnum node ticket count xchg) := by
  unfold startTask
  split
  · dsimp only
    exact onCore_canon (boundLaunch_canon (freshTag_canon (freshCore_canon h))) rfl
  · exact h

theorem bindRestore_canon {s : State} {i : Image} (h : Canon s) (hi : i ∈ s.dist.vault) : Canon (bindRestore s i) := by
  have hs : Canon { s with dist := { s.dist with vault := s.dist.vault.erase i, restore := some (i, s.clock + 4352) } } :=
    { h with
      vault := fun j hj => h.vault j (List.mem_of_mem_erase hj)
      restore := fun p hp => by
        obtain rfl := Option.some.inj hp
        exact h.vault i hi }
  exact boundLaunch_canon hs

theorem dispatchFrom_canon {s : State} {lnum : Nat} (h : Canon s) : Canon (dispatchFrom s lnum) := by
  unfold dispatchFrom
  split
  · exact h
  split
  · exact startTask_canon (updNode_canon h)
  split
  next i e => exact bindRestore_canon h (List.mem_of_find?_eq_some e)
  split
  · exact h
  split
  · exact h
  split
  · exact h
  · exact startTask_canon (updNode_canon h)

theorem dispatchNow_canon {s : State} (h : Canon s) : Canon (dispatchNow s) := by
  unfold dispatchNow
  split
  · exact h
  · split
    · exact dispatchFrom_canon h
    · split
      · exact dispatchFrom_canon (h.next rfl)
      · exact h

theorem selectNow_canon {s : State} (h : Canon s) : Canon (selectNow s) := by
  unfold selectNow
  dsimp only
  split
  · exact dispatchNow_canon (h.next rfl)
  · split
    · exact h.next rfl
    · split
      · exact h.next rfl
      · split
        · exact h.next rfl
        · split
          · exact h.next rfl
          · exact Canon.ite (h.next rfl) (Canon.ite (h.next rfl) (onCore_canon (h.next rfl) rfl))

theorem ageLaunches_canon {s : State} (h : Canon s) : Canon (ageLaunches s) := h.next rfl

theorem podClose_canon {s : State} {lnum node : Nat} (h : Canon s) : Canon (podClose s lnum node) := by
  unfold podClose
  split
  · exact h
  · split
    · split
      · exact updNode_canon h
      · exact h
    · exact h

theorem packageArrives_canon {s : State} {lnum node : Nat} {b : Fin 16} {absent : Bool} (h : Canon s) :
    Canon (packageArrives s lnum node b absent) := Canon.foldl (updNode_canon h) (fun _ _ h' => sendControl_canon h')

theorem leaveBars_canon {s : State} {lnum node : Nat} (h : Canon s) : Canon (leaveBars s lnum node) := by
  unfold leaveBars
  split
  · exact h
  · exact Canon.foldl h (fun t a h' => packageArrives_canon h')

theorem arriveEmpty_canon {s : State} {lnum node : Nat} {b : Fin 16} (h : Canon s) :
    Canon (arriveEmpty s lnum node b) := by
  unfold arriveEmpty
  split
  · exact h
  · split
    · exact h
    · dsimp only
      split
      · exact h
      · exact Canon.ite (packageArrives_canon h) (Canon.ite h (Canon.ite h (updNode_canon h)))

theorem idleCore_canon {s : State} (h : Canon s) : Canon (idleCore s) := onCore_canon h rfl

theorem endTile_canon {s : State} (h : Canon s) : Canon (endTile s) := by
  unfold endTile
  split
  · exact idleCore_canon h
  · dsimp only
    split
    · split
      · exact closePart_canon (leaveBars_canon (updNode_canon (idleCore_canon h)))
      · exact leaveBars_canon (updNode_canon (idleCore_canon h))
    · exact leaveBars_canon (updNode_canon (idleCore_canon h))

theorem endExchange_canon {s : State} {slots : Nat} (h : Canon s) : Canon (endExchange s slots) := by
  unfold endExchange
  split
  · exact idleCore_canon h
  · dsimp only
    split
    · split
      · refine Canon.foldl (leaveBars_canon (updNode_canon (idleCore_canon h))) (fun t a h' => ?_)
        exact sendControl_canon h'
      · exact leaveBars_canon (updNode_canon (idleCore_canon h))
    · exact leaveBars_canon (updNode_canon (idleCore_canon h))

theorem retireNode_canon {s : State} {lnum node : Nat} (h : Canon s) : Canon (retireNode s lnum node) := by
  unfold retireNode
  split
  · exact h
  · dsimp only
    split
    · exact Canon.foldl (updNode_canon (commitStaged_canon h)) (fun t a h' => updNode_canon h')
    · split
      · refine fireEnd_canon (reportLaunch_canon (dropUnits_canon (Canon.foldl (updNode_canon
          (commitStaged_canon h)) ?_)))
        intro t a h'
        exact updNode_canon h'
      · exact startReady_canon (Canon.foldl (updNode_canon (commitStaged_canon h)) fun t a h' => updNode_canon h')

theorem nextSuperstep_canon {s : State} {lnum node : Nat} (h : Canon s) : Canon (nextSuperstep s lnum node) := by
  unfold nextSuperstep
  split
  · exact h
  · split
    · exact phaseStart_canon (updNode_canon h)
    · exact updNode_canon h

theorem phaseCloseNow_canon {s : State} {lnum node : Nat} (h : Canon s) : Canon (phaseCloseNow s lnum node) := by
  unfold phaseCloseNow
  split
  · exact h
  · split
    · exact h
    · split
      · exact h
      · split
        · exact nextSuperstep_canon h
        · dsimp only
          exact Canon.ite (dispatchFrom_canon (updNode_canon h)) (updNode_canon h)

theorem exchangeEnd_canon {s : State} {lnum node : Nat} (h : Canon s) : Canon (exchangeEnd s lnum node) := by
  unfold exchangeEnd
  split
  · exact h
  · split
    · dsimp only
      exact Canon.ite h (Canon.ite (nextSuperstep_canon h) h)
    · exact h

theorem arriveAt_canon {s : State} {lnum node : Nat} {c : Scope} {b : Fin 16} (h : Canon s) :
    Canon (arriveAt s lnum node c b) := Canon.ite (packageArrives_canon h) (updNode_canon h)

theorem releaseBar_canon {s : State} {lnum node : Nat} {c : Scope} {b : Fin 16} (h : Canon s) :
    Canon (releaseBar s lnum node c b) := by
  unfold releaseBar
  split
  · exact h
  · split
    · split
      · exact updNode_canon h
      · exact h
    · exact h

theorem podRelease_canon {s : State} {lnum node : Nat} {b : Fin 16} (h : Canon s) :
    Canon (podRelease s lnum node b) := by
  unfold podRelease
  split
  · split
    · split
      · dsimp only
        exact updNode_canon h
      · exact h
    · exact h
  · exact h

theorem killTask_canon {s : State} (h : Canon s) : Canon (killTask s) := by
  unfold killTask
  split
  · exact h
  · dsimp only
    exact reportLaunch_canon (updNode_canon (discardTask_canon (stopCore_canon h)))

theorem drainTask_canon {s : State} (h : Canon s) : Canon (drainTask s) := by
  unfold drainTask
  split
  · exact h
  · exact reportLaunch_canon (onCore_canon h rfl)

theorem imageOf_canon {s : State} {srfv : Bool} {srf : Nat} (h : Canon s) : ImageCanon (imageOf s srfv srf) :=
  ⟨Mem.wf_slice h.oc _ _, Mem.wf_empty⟩

theorem beginSpill_canon {s : State} (h : Canon s) : Canon (beginSpill s) := by
  unfold beginSpill
  split
  · exact h
  · have hd := dropCoreState_canon h
    refine reportLaunch_canon { hd with spill := fun p hp => ?_ }
    obtain rfl := Option.some.inj hp
    exact imageOf_canon h

theorem awaitSpill_canon {s : State} (h : Canon s) : Canon (awaitSpill s) := onCore_canon h rfl

theorem endSpill_canon {s : State} (h : Canon s) : Canon (endSpill s) := by
  unfold endSpill
  split
  next i t e =>
    split
    · refine { h with
        spill := fun p hp => absurd hp.symm (Option.some_ne_none p)
        vault := fun j hj => ?_ }
      rcases List.mem_append.mp hj with hj | hj
      · exact h.vault j hj
      · obtain rfl := List.mem_singleton.mp hj
        exact h.spill _ e
    · exact h
  · exact h

theorem joinEngines_canon {s : State} {i : Image} (h : Canon s) : Canon (joinEngines s i) := h.next rfl

theorem endRestore_canon {s : State} (h : Canon s) : Canon (endRestore s) := by
  unfold endRestore
  split
  next i t e =>
    have hi : ImageCanon i := h.restore _ e
    split
    · exact h
    · have hj : Canon (joinEngines s i) := joinEngines_canon h
      refine resumeAt_canon (onCore_canon (Canon.next (s := { joinEngines s i with
        dist := { (joinEngines s i).dist with restore := none }
        oc := (joinEngines s i).oc.graft i.store lsBase 0x200000
        core := i.core }) ?_ rfl) rfl)
      exact { hj with
        oc := Mem.wf_graft hj.oc hi.store _ _
        bstore := hi.bstore
        restore := fun p hp => absurd hp.symm (Option.some_ne_none p) }
  · exact h

end Sys2Proof.Machine
end

section
/-!
SUPPORT. The folio manager and the hub registers keep every memory canonical (sections Folio and Hub of the model).
-/
namespace Sys2Proof.Machine
open Sys2Proof
set_option Elab.async false -- proofs one at a time: the check of the whole text is near its memory limit

theorem applyPreempt_canon {s : State} (h : Canon s) : Canon (applyPreempt s) := by
  unfold applyPreempt
  split
  · split
    · exact h
    · split
      · exact Canon.ite (beginSpill_canon h) h
      · split
        · exact drainTask_canon h
        · exact killTask_canon h
        · exact Canon.ite (beginSpill_canon h) (awaitSpill_canon h)
  · exact onCore_canon h rfl

theorem reportFree_canon {s : State} (h : Canon s) : Canon (reportFree s) := h.next rfl

theorem setFolio_canon {s : State} {name : Nat} {g : Folio → Folio} (h : Canon s) : Canon (setFolio s name g) :=
  h.next rfl

theorem flushFrame_canon {s : State} {f : Nat} (h : Canon s) : Canon (flushFrame s f) := by
  unfold flushFrame
  refine Canon.foldl h (fun t a h' => ?_)
  exact mscFlush_canon (l2Flush_canon h')

theorem hbmWrites_canon {l : List (Nat × Bool)} {s : State} {k : Nat} (h : Canon s) :
    Canon (l.foldl (fun acc v => (hbmWrite acc.1 acc.2 v.1 v.2, acc.2 + 1)) (s, k)).1 :=
  Canon.foldl_fst h (fun _ _ hq => hbmWrite_canon hq)

theorem putFrame_canon {s : State} {f : Nat} {l : List (Nat × Bool)} (h : Canon s) : Canon (putFrame s f l) :=
  hbmWrites_canon (flushFrame_canon h)

theorem hbmPut_canon {s : State} {d : Nat} {bs : List Byte} (h : Canon s) : Canon (hbmPut s d bs) :=
  Canon.foldl h (fun _ _ h' => hbmWrite_canon (mscDrop_canon h'))

theorem Canon.evictions {s : State} (h : Canon s) (n : Nat) :
    Canon { s with folios := { s.folios with evictions := n } } := h.next rfl

theorem evictOne_canon {s : State} (h : Canon s) : OptCanonFst (evictOne s) := by
  unfold evictOne
  split
  next f k _ _ =>
    split
    · exact optCanonFst_none
    · have hf : Canon (flushFrame s f.frame) := flushFrame_canon h
      exact optCanonFst_some ((setFolio_canon ((hbmPut_canon hf).host_write _ _)).evictions _)
  · exact optCanonFst_none

theorem obtainFrame_canon {s : State} (h : Canon s) : OptCanonFst (obtainFrame s) := by
  unfold obtainFrame
  split
  · exact optCanonFst_some h
  · exact (evictOne_canon h).map_fst (fun _ hp => hp)

theorem writableFrame_canon {s : State} (h : Canon s) : OptCanonFst (writableFrame s) := (obtainFrame_canon h).filter

theorem startRecall_canon {s : State} {name : Nat} (h : Canon s) : OptCanon (startRecall s name) :=
  OptCanon.ite optCanon_none ((writableFrame_canon h).map (fun _ hp => setFolio_canon hp))

theorem finishRecall_canon {s : State} {name : Nat} (h : Canon s) : Canon (finishRecall s name) := by
  unfold finishRecall
  split
  · exact h
  · dsimp only
    exact setFolio_canon (putFrame_canon h)

theorem degrade_canon {s : State} {name : Nat} (h : Canon s) : OptCanon (degrade s name) := by
  unfold degrade
  split
  · exact optCanon_none
  · dsimp only
    refine OptCanonFst.map ?_ ?_
    · split
      · exact optCanonFst_none
      · split
        · exact optCanonFst_some h
        · exact writableFrame_canon h
    · intro p h'
      exact setFolio_canon (putFrame_canon h')

theorem undegrade_canon {s : State} {name : Nat} (h : Canon s) : Canon (undegrade s name) := by
  unfold undegrade
  split
  · exact h
  · split
    · exact setFolio_canon (flushFrame_canon h)
    · exact h

theorem stageCopy_canon {v : Viewer} {s : State} {t : Staged} (h : Canon s) : Canon (stageCopy v s t) := by
  unfold stageCopy
  dsimp only
  split
  · exact (stagePlace_canon h).next rfl
  · exact hbmWrite_canon (markOverflow_canon (stagePlace_canon h))

theorem splitFolio_canon {s : State} {name : Nat} {v : Viewer} (h : Canon s) : OptCanon (splitFolio s name v) := by
  unfold splitFolio
  split
  · exact optCanon_none
  · split
    · exact optCanon_none
    · refine OptCanonFst.map (writableFrame_canon h) (fun p h' => ?_)
      exact (Canon.foldl (putFrame_canon h') fun t a h2 => stageCopy_canon h2).next rfl

theorem folioMeet_canon {s : State} {cmd name : Nat} (h : Canon s) : Canon (folioMeet s cmd name) := h.next rfl

theorem folioLeave_canon {s : State} {cmd : Nat} (h : Canon s) : Canon (folioLeave s cmd) := h.next rfl

theorem folioStuck_canon {s : State} {cmd name : Nat} (h : Canon s) : AccCanon (folioStuck s cmd name) :=
  Canon.ite h (h.next rfl)

theorem folioCheck_canon {s : State} {v : Viewer} {q : Requester} {cmd addr n : Nat} {need : Need} (h : Canon s) :
    AccCanon (folioCheck s v q cmd addr n need) := by
  have hgo : ∀ (t : State) (d : Nat), Canon t → AccCanon (
      if !dpaPermits t d n q need.rd need.wr then .fault (folioLeave t cmd) .accessDenied 1 addr
      else if dpaWaits t d n need.wr then folioStuck t cmd (nameFor s cmd (addr / 65536))
      else .ok (folioLeave t cmd) (.gm [(d, n)])) := by
    intro t d ht
    split
    · exact folioLeave_canon ht
    exact AccCanon.ite (folioStuck_canon ht) (folioLeave_canon ht)
  have hm : Canon (folioMeet s cmd (nameFor s cmd (addr / 65536))) := folioMeet_canon h
  unfold folioCheck
  refine AccCanon.ite h (AccCanon.ite h ?_)
  split
  · exact h
  refine AccCanon.ite (folioStuck_canon hm) ?_
  have hs := setFolio_canon (name := nameFor s cmd (addr / 65536))
    (g := fun f => { f with lastUse := (folioMeet s cmd (nameFor s cmd (addr / 65536))).clock }) hm
  refine AccCanon.ite (AccCanon.ite ?_ (hgo _ _ hs)) (AccCanon.ite ?_ (AccCanon.ite (AccCanon.ite (folioLeave_canon hs)
    (hgo _ _ hs)) (folioStuck_canon hs)))
  · split
    next t e => exact folioStuck_canon (splitFolio_canon hs _ e)
    · exact folioLeave_canon hs
  · split
    next t e => exact folioStuck_canon (startRecall_canon hs _ e)
    · exact folioLeave_canon hs

theorem untouch_canon {s : State} {cmd : Nat} (h : Canon s) : Canon (untouch s cmd) := h.next rfl

theorem dropName_canon {s : State} {name : Nat} (h : Canon s) : Canon (dropName s name) := h.next rfl

theorem deliver_canon {s : State} (h : Canon s) : Canon (deliver s) := h.next rfl

theorem endPin_canon {s : State} {w : PinWait} {word : Word} {floor : Nat} (h : Canon s) :
    Canon (endPin s w word floor) := by
  unfold endPin
  dsimp only
  split
  · split
    · exact h.next rfl
    · exact h.next rfl
  · split
    · exact supply_canon (h.next rfl)
    · exact h.next rfl

theorem pinDegrade_canon {s : State} {w : PinWait} (h : Canon s) : Canon (pinDegrade s w) :=
  OptCanon.getD (degrade_canon h) (endPin_canon (setFolio_canon h))

theorem pinTick_canon {s : State} {w : PinWait} (h : Canon s) : Canon (pinTick s w) := by
  unfold pinTick
  split
  · exact endPin_canon h
  · split
    · exact endPin_canon h
    · split
      · exact Canon.ite (endPin_canon (deliver_canon h)) h
      · split
        · exact pinDegrade_canon h
        · exact Canon.ite (OptCanon.getD (startRecall_canon h) (pinDegrade_canon h)) h

theorem folioPost_canon {s : State} (h : Canon s) : Canon (folioPost s) := by
  unfold folioPost
  split
  · split
    · exact pushCompletion_canon (h.next rfl)
    · exact h
  · exact h

theorem folioTick_canon {s : State} (h : Canon s) : Canon (folioTick s) := by
  unfold folioTick
  refine Canon.ite h (folioPost_canon (Canon.next (Canon.foldl (Canon.foldl (Canon.foldl (Canon.foldl h ?_) ?_) ?_) ?_) rfl))
  · intro t f ht
    exact Canon.ite (finishRecall_canon ht) (Canon.ite (setFolio_canon ht) ht)
  · exact fun t w ht => pinTick_canon ht
  · intro t p ht
    refine Canon.ite ht ?_
    split
    · exact supply_canon (dropName_canon (ht.next rfl))
    · exact dropName_canon (ht.next rfl)
  · exact fun t f ht => undegrade_canon ht

theorem folioResult_canon {s : State} {name : Nat} {d : XReg} {v n : Nat} (h : Canon s) :
    EffCanon (folioResult s name d v n) := (pendX_canon h).next rfl

theorem EffCanon.ite {c : Prop} [Decidable c] {x y : Eff} (hx : EffCanon x) (hy : EffCanon y) :
    EffCanon (if c then x else y) := by
  split
  · exact hx
  · exact hy

theorem Canon.folioList {s : State} (h : Canon s) (l : List Folio) :
    Canon { s with folios := { s.folios with folios := l } } := h.next rfl

theorem execFoalloc_canon {d a : XReg} {s : State} (h : Canon s) : OutCanon (execFoalloc d a s) := by
  refine syl_canon h (fun t ht => guardPush_canon ht ?_)
  have hs : Canon (spoil t) := spoil_canon ht
  refine EffCanon.ite (folioResult_canon hs) (EffCanon.ite (folioResult_canon hs) ?_)
  split
  · exact folioResult_canon hs
  next u f more e =>
    have hu : Canon u := OptCanonFst.of_some e (writableFrame_canon hs)
    exact folioResult_canon ((putFrame_canon hu).folioList _)

theorem execFoshare_canon {d a b : XReg} {s : State} (h : Canon s) : OutCanon (execFoshare d a b s) := by
  unfold execFoshare
  refine syl_canon h (fun t h' => guardPush_canon h' ?_)
  dsimp only
  split
  · exact folioResult_canon (spoil_canon h')
  · split
    · exact folioResult_canon (spoil_canon h')
    · split
      · exact folioResult_canon (spoil_canon h')
      · split
        · exact folioResult_canon (spoil_canon h')
        · exact folioResult_canon (setFolio_canon (spoil_canon h'))

theorem execFofree_canon {d a : XReg} {s : State} (h : Canon s) : OutCanon (execFofree d a s) := by
  unfold execFofree
  refine syl_canon h (fun t h' => guardPush_canon h' ?_)
  dsimp only
  split
  · exact folioResult_canon (spoil_canon h')
  · split
    · exact folioResult_canon (spoil_canon h')
    · split
      · exact folioResult_canon (spoil_canon h')
      · split
        · exact folioResult_canon (spoil_canon h')
        · split
          · split
            next x t' d' e => exact (Canon.of_mk e (lateDest_canon (h'.next rfl))).next rfl
            next x t' e => exact (Canon.of_mk e (lateDest_canon (h'.next rfl))).next rfl
          · exact folioResult_canon (dropName_canon (spoil_canon h'))

theorem execFolook_canon {d a : XReg} {s : State} (h : Canon s) : OutCanon (execFolook d a s) :=
  syl_canon h (fun _ h' => guardPush_canon h' (folioResult_canon h'))

theorem folioFinish_canon {s : State} {name : Nat} {d : XReg} {code n tag : Nat} {deg q : Bool} (h : Canon s) : EffCanon (
    let word := pinWord code tag deg
    let s := if deg then deliver s else s
    let s := if q then { s with folios := { s.folios with post := s.folios.post ++ [(s.clock + n, word)] } } else s
    folioResult s name d word.toNat n) := by
  have hd : Canon (if deg then deliver s else s) := Canon.ite (deliver_canon h) h
  exact folioResult_canon (Canon.ite (hd.next rfl) hd)

theorem Canon.folioWaits {s : State} (h : Canon s) (l : List PinWait) :
    Canon { s with folios := { s.folios with waits := l } } := h.next rfl

theorem execFopin_canon {d a b : XReg} {q : Bool} {s : State} (h : Canon s) : OutCanon (execFopin d a b q s) := by
  refine syl_canon h (fun t ht => guardPush_canon ht ?_)
  have hs : Canon (spoil t) := spoil_canon ht
  refine EffCanon.ite (folioFinish_canon hs) ?_
  split
  · exact folioFinish_canon hs
  refine EffCanon.ite (folioFinish_canon hs) (EffCanon.ite (folioFinish_canon (setFolio_canon hs))
    (EffCanon.ite (folioFinish_canon (setFolio_canon hs)) ?_))
  have hf := fun g => setFolio_canon (name := nameOf (readX t a)) (g := g) hs
  dsimp only
  generalize e : lateDest _ d = r
  have hr : Canon r.1 :=
    e ▸ lateDest_canon (Canon.ite (OptCanon.getD (startRecall_canon (hf _)) (hf _)) (hf _))
  obtain ⟨u, _ | dst⟩ := r
  · exact Canon.folioWaits hr _
  · exact (pend_canon hr).folioWaits _

theorem execFounpin_canon {d a : XReg} {s : State} (h : Canon s) : OutCanon (execFounpin d a s) := by
  unfold execFounpin
  refine syl_canon h (fun t h' => guardPush_canon h' ?_)
  dsimp only
  split
  · exact folioResult_canon (spoil_canon h')
  · split
    · exact folioResult_canon (spoil_canon h')
    · split
      · exact folioResult_canon (spoil_canon h')
      · exact folioResult_canon (undegrade_canon (setFolio_canon (spoil_canon h')))

theorem execFopool_canon {d a : XReg} {s : State} (h : Canon s) : OutCanon (execFopool d a s) := by
  unfold execFopool
  refine syl_canon h (fun t h' => ?_)
  dsimp only
  split
  · exact h'
  · exact guardPush_canon h' (pendX_canon h')

theorem frEnable_canon {s : State} {h' n : Nat} (h : Canon s) : Canon (frEnable s h' n) := hubSet_canon h

theorem frDisable_canon {s : State} {h' n : Nat} (h : Canon s) : Canon (frDisable s h' n) := Canon.ite (h.next rfl) h

theorem frFlushed_canon {s : State} {h' n : Nat} (h : Canon s) : Canon (frFlushed s h' n) := by
  unfold frFlushed
  split
  · exact h
  · dsimp only
    exact (Canon.foldl h fun t a h2 => mscFlush_canon h2).next rfl

theorem bwEnable_canon {s : State} {h' n : Nat} (h : Canon s) : Canon (bwEnable s h' n) := hubSet_canon h

theorem bwOff_canon {s : State} {h' n : Nat} (h : Canon s) : Canon (bwOff s h' n) := hubSet_canon h

theorem bwDisable_canon {s : State} {h' n : Nat} (h : Canon s) : Canon (bwDisable s h' n) :=
  Canon.ite (h.next rfl) (bwOff_canon h)

theorem bwStay_canon {s : State} {h' n : Nat} (h : Canon s) : Canon (bwStay s h' n) := h.next rfl

theorem bwSettle_canon {s : State} (h : Canon s) : Canon (bwSettle s) :=
  Canon.foldl h (fun _ _ h' => Canon.ite h' (bwOff_canon (bwStay_canon h')))

theorem formatStore_canon {s : State} {a : Nat} {v : Word} (h : Canon s) : Canon (formatStore s a v) := by
  unfold formatStore
  refine Canon.ite h (Canon.ite (Canon.ite ?_ ?_) (Canon.ite (Canon.ite ?_ ?_) h))
  · exact Canon.ite (Canon.ite (Canon.ite h (hubSet_canon h)) (frEnable_canon (Canon.ite h (hubSet_canon h))))
      (frDisable_canon (Canon.ite h (hubSet_canon h)))
  · exact Canon.ite h (Canon.ite (hubSet_canon h) (Canon.ite (hubSet_canon h) (Canon.ite (hubSet_canon h)
      (Canon.ite (hubSet_canon h) h))))
  · exact Canon.ite (Canon.ite (bwStay_canon h) (bwEnable_canon h)) (bwDisable_canon h)
  · exact Canon.ite (hubSet_canon h) h

theorem moveStaged_canon {s : State} {k n : Nat} {acc : State × Nat} {line : Nat} (h : Canon acc.1) :
    Canon (moveStaged s k n acc line).1 := by
  unfold moveStaged
  dsimp only
  split
  · exact h
  · dsimp only
    split
    · exact (mscFlush_canon h).next rfl
    · exact h.next rfl

theorem growScan_canon {s : State} {k n set : Nat} (h : Canon s) : Canon (growScan s k n set).1 :=
  Canon.foldl_fst (Canon.foldl_fst (p := (s, 0)) h (fun _ _ hq => mscFlush_canon hq)) (fun _ _ hq => moveStaged_canon hq)

theorem scratchClear_canon {s : State} {k from_ upto : Nat} (h : Canon s) : Canon (scratchClear s k from_ upto) :=
  h.oc_clear _ _

theorem mscScanSet_canon {s : State} {k set : Nat} (h : Canon s) : Canon (mscScanSet s k set) :=
  sliceSet_canon (growScan_canon h)

theorem mscGrow_canon {s : State} {k n : Nat} (h : Canon s) : Canon (mscGrow s k n) :=
  mscScanSet_canon (sliceSet_canon h)

theorem mscGrowDone_canon {s : State} {k : Nat} (h : Canon s) : Canon (mscGrowDone s k) :=
  Canon.ite h (sliceSet_canon (scratchClear_canon h))

theorem mscGrowClock_canon {s : State} {k : Nat} (h : Canon s) : Canon (mscGrowClock s k) :=
  Canon.ite h (Canon.ite (mscGrowDone_canon h) (mscScanSet_canon h))

theorem mscShrink_canon {s : State} {k n : Nat} (h : Canon s) : Canon (mscShrink s k n) :=
  sliceSet_canon (scratchClear_canon h)

theorem mscpartStore_canon {s : State} {k : Nat} {v : Word} (h : Canon s) : Canon (mscpartStore s k v) := by
  unfold mscpartStore
  dsimp only
  split
  · exact sliceSet_canon h
  · exact Canon.ite (sliceSet_canon h) (Canon.ite (mscGrow_canon h) (mscShrink_canon h))

theorem cohctlStore_canon {s : State} {v : Word} (h : Canon s) : Canon (cohctlStore s v) :=
  Canon.ite (hubSet_canon h) (hubSet_canon h)

theorem linjStore_canon {s : State} {dim : Nat} {v : Word} (h : Canon s) : Canon (linjStore s dim v) := hubSet_canon h

theorem tetherStore_canon {s : State} {a : Nat} {v : Word} (h : Canon s) : Canon (tetherStore s a v) := by
  unfold tetherStore
  dsimp only
  split
  · exact h
  · split
    · exact hubSet_canon h
    · split
      · exact linjStore_canon h
      · exact Canon.ite (hubSet_canon h) (Canon.ite (tutblStore_canon h) h)

theorem distStore_canon {s : State} {a : Nat} {v : Word} (h : Canon s) : Canon (distStore s a v) := by
  unfold distStore
  dsimp only
  split
  · exact hubSet_canon h
  · split
    · exact submitDoor_canon h
    · exact Canon.ite (hubSet_canon h) (Canon.ite (Canon.ite h (hubSet_canon h)) h)

theorem folioEnable_canon {s : State} (h : Canon s) : Canon (folioEnable s) := hubSet_canon h

theorem folioDisable_canon {s : State} (h : Canon s) : Canon (folioDisable s) := hubSet_canon h

theorem folioStore_canon {s : State} {a : Nat} {v : Word} (h : Canon s) : Canon (folioStore s a v) := by
  unfold folioStore
  dsimp only
  split
  · exact Canon.ite (Canon.ite (hubSet_canon h) (folioEnable_canon h)) (folioDisable_canon h)
  · split
    · exact h
    · split
      · exact hubSet_canon h
      · exact Canon.ite (hubSet_canon h) (Canon.ite (hubSet_canon h) (Canon.ite (hubSet_canon h) h))

theorem releaseCore_canon {s : State} {once : Bool} (h : Canon s) : Canon (releaseCore s once) := by
  unfold releaseCore
  split
  · split
    · exact onCore_canon h rfl
    · dsimp only
      exact resumeAt_canon (onCore_canon h rfl)
  · exact h

theorem askHalt_canon {s : State} (h : Canon s) : Canon (askHalt s) := by
  unfold askHalt
  split
  · exact h
  · exact onCore_canon h rfl
  · exact onCore_canon h rfl

theorem dbgctlStore_canon {s : State} {v : Word} (h : Canon s) : Canon (dbgctlStore s v) := by
  have hhalt : ∀ (b wide : Bool) (t : State), Canon t →
      Canon (if b then askHalt { t with dist := { t.dist with frozen := t.dist.frozen || wide } } else t) :=
    fun _ _ _ ht => Canon.ite (askHalt_canon (ht.next rfl)) ht
  have hrun : ∀ (b wide : Bool) (t : State), Canon t →
      Canon (if b then releaseCore { t with dist := { t.dist with frozen := t.dist.frozen && !wide } } false else t) :=
    fun _ _ _ ht => Canon.ite (releaseCore_canon (ht.next rfl)) ht
  have hstep : ∀ (b : Bool) (t : State), Canon t → Canon (if b then releaseCore t true else t) :=
    fun _ _ ht => Canon.ite (releaseCore_canon ht) ht
  unfold dbgctlStore
  exact Canon.ite (hubSet_canon h) (hstep _ _ (hrun _ _ _ (hhalt _ _ _ (hubSet_canon h))))

theorem hubLoad_canon {s : State} {a : Nat} (h : Canon s) : Canon (hubLoad s a).1 := by
  unfold hubLoad
  split
  · dsimp only
    exact h
  · split
    · exact takeEvent_canon h
    · split
      · exact takeEvent_canon h
      · split
        · exact takeEvent_canon h
        · split
          · exact h
          · split
            · exact h
            · split
              · exact h
              · split
                · exact h
                · exact h

theorem debugData_canon {s : State} {sel addr : Nat} (h : Canon s) : Canon (debugData s sel addr).1 := by
  unfold debugData
  refine Canon.ite_fst (Canon.ite_fst h (Canon.ite_fst h h)) ?_
  split
  · exact h
  next w _ =>
  refine Canon.ite_fst h ?_
  cases w with
  | ls _ _ => exact Canon.ite_fst h h
  | acc _ _ => exact Canon.ite_fst h h
  | vr _ _ => exact Canon.ite_fst h h
  | reg _ _ => exact Canon.ite_fst h h
  | apert _ _ => exact h
  | block _ _ => exact h
  | hub a => exact hubLoad_canon h
  | qs _ _ => exact h
  | scratch _ _ => exact Canon.ite_fst h h

theorem dbgRead_canon {s : State} {v : Word} (h : Canon s) : Canon (dbgRead s v) := by
  unfold dbgRead
  dsimp only
  split
  · split
    · exact Canon.ite (onCore_canon (h.next rfl) rfl) (h.next rfl)
    · exact Canon.ite (onCore_canon (h.next rfl) rfl) (h.next rfl)
  · split
    · exact Canon.ite (onCore_canon (h.next rfl) rfl) (h.next rfl)
    · exact Canon.ite (onCore_canon (h.next rfl) rfl) (h.next rfl)

theorem dbgReadDone_canon {s : State} (h : Canon s) : Canon (dbgReadDone s) := by
  unfold dbgReadDone
  split
  · split
    · exact h
    · split
      · exact h.next rfl
      · split
        · exact h.next rfl
        · dsimp only
          exact (debugData_canon h).next rfl
  · exact h

theorem debugStore_canon {s : State} {a : Nat} {v : Word} (h : Canon s) : Canon (debugStore s a v) :=
  Canon.ite (dbgctlStore_canon h) (Canon.ite (dbgRead_canon h) h)

theorem atStore_canon {s : State} {a : Nat} {v : Word} (h : Canon s) : Canon (atStore s a v) := by
  unfold atStore
  dsimp only
  split
  · exact h
  · split
    · exact hubSet_canon h
    · exact Canon.ite h (Canon.ite (hubSet_canon h) (Canon.ite (hubSet_canon h) (hubSet_canon h)))

theorem windowStore_canon {s : State} {n r : Nat} {v : Word} (h : Canon s) : Canon (windowStore s n r v) := by
  unfold windowStore
  dsimp only
  split
  · split
    · exact h.next rfl
    · exact h.next rfl
  · split
    · exact h.next rfl
    · exact h.next rfl

theorem hdmOn_canon {s : State} (h : Canon s) : Canon (hdmOn s) := hubSet_canon h

theorem hdmOff_canon {s : State} (h : Canon s) : Canon (hdmOff s) := hubSet_canon h

theorem clearRepreq_canon {s : State} (h : Canon s) : Canon (clearRepreq s) := hubSet_canon h

theorem firmwareStart_canon {s : State} {v : Word} (h : Canon s) : Canon (firmwareStart s v) := by
  unfold firmwareStart
  split
  · exact h
  · dsimp only
    exact h.next rfl

theorem attestStart_canon {s : State} {v : Word} (h : Canon s) : Canon (attestStart s v) := by
  unfold attestStart
  split
  · exact h
  · dsimp only
    exact h.next rfl

theorem cxlStore_canon {s : State} {a : Nat} {v : Word} (h : Canon s) : Canon (cxlStore s a v) := by
  unfold cxlStore
  dsimp only
  split
  · exact Canon.ite (windowStore_canon h) h
  · split
    · exact Canon.ite h (hubSet_canon h)
    · split
      · exact Canon.ite (Canon.ite h (hdmOn_canon h)) (hdmOff_canon h)
      · split
        · exact Canon.ite (clearRepreq_canon h) h
        · split
          · exact hubSet_canon h
          · exact Canon.ite (firmwareStart_canon h) (Canon.ite (attestStart_canon h) h)

theorem hubStore_canon {s : State} {a : Nat} {v : Word} (h : Canon s) : Canon (hubStore s a v) := by
  unfold hubStore
  split
  · exact formatStore_canon h
  · split
    · dsimp only
      exact Canon.ite (mscpartStore_canon h) h
    · split
      · exact cohctlStore_canon h
      · split
        · exact h
        · split
          · exact tetherStore_canon h
          · split
            · exact distStore_canon h
            · split
              · exact folioStore_canon h
              · split
                · exact debugStore_canon h
                · exact Canon.ite (atStore_canon h) (cxlStore_canon h)

theorem hmCheck_canon {s : State} {lnum : Nat} {q : Requester} {a : Int} {n : Nat} {need : Need} (h : Canon s) :
    AccCanon (hmCheck s lnum q a n need) := by
  unfold hmCheck
  split
  · exact h
  · split
    · exact h
    · exact h
    · exact h

theorem Canon.host_store {s : State} (h : Canon s) (a : Nat) (bs : List Byte) (p : Bool) :
    Canon { s with sys := { s.sys with host := s.sys.host.store a bs p } } :=
  { h with host := Mem.wf_store h.host a bs p }

theorem hostWrite_canon {s : State} {a : Nat} {bs : List Byte} {poison engine : Bool} (h : Canon s) :
    Canon (hostWrite s a bs poison engine) :=
  Canon.ite (h.host_store _ _ _) (onCore_canon h rfl)

theorem hostComplete_canon {s : State} (h : Canon s) : Canon (hostComplete s) := by
  unfold hostComplete
  split
  · exact h
  next w r _ => exact (h.host_store w.1 w.2.1 w.2.2).next rfl

theorem coreCheck_canon {s : State} {space : Nat} {a : Int} {n : Nat} {need : Need} {each : Bool} (h : Canon s) :
    AccCanon (coreCheck s space a n need each) := by
  unfold coreCheck
  split
  · exact localCheck_canon h
  · exact localCheck_canon h
  · exact ocCheck_canon h
  · exact gmCheck_canon h
  · exact folioCheck_canon h
  · exact hmCheck_canon h

end Sys2Proof.Machine
end

section
/-!
SUPPORT. Accesses, the crossbar and the block-transfer engine keep every memory canonical (sections Access to Async of the model).
-/
namespace Sys2Proof.Machine
open Sys2Proof
set_option Elab.async false -- proofs one at a time: the check of the whole text is near its memory limit

theorem engAccess_canon {s : State} {u : EngUser} {pages : List HeldPage} {space : Nat} {a : Int} {n : Nat}
    {need : Need} (h : Canon s) : AccCanon (engAccess s u pages space a n need) := by
  unfold engAccess
  dsimp only
  split
  · exact AccCanon.ite h (AccCanon.ite h (AccCanon.ite h h))
  · exact AccCanon.ite h (AccCanon.ite h (AccCanon.ite h h))
  · exact AccCanon.bind (ocCheck_canon h) (fun t a' h' => h')
  · split
    · exact h
    · split
      next x t d x' e =>
        split
        · exact Canon.of_mk e (engPage_canon h)
        · split
          · exact Canon.of_mk e (engPage_canon h)
          · split
            · exact AccCanon.bind (settleClash_canon (Canon.of_mk e (engPage_canon h))) (fun t' a' h' => h')
            · exact Canon.of_mk e (engPage_canon h)
      next x t c r snd e => exact Canon.of_mk e (engPage_canon h)
      next x t snd e => exact Canon.of_mk e (engPage_canon h)
  · refine AccCanon.bind (folioCheck_canon h) (fun t a' h' => ?_)
    split
    · exact AccCanon.ite (AccCanon.bind (settleClash_canon h') (fun t' a' h2 => h2)) h'
    · exact h'
  · exact AccCanon.bind (hmCheck_canon h) (fun t a' h' => h')

theorem stampOc_canon {s : State} {a n : Nat} {wr : Bool} (h : Canon s) : Canon (stampOc s a n wr) :=
  Canon.foldl h (fun _ _ h' => Canon.ite (stampStore_canon h') (stampLoad_canon h'))

theorem stampOcEngine_canon {s : State} {a n : Nat} (h : Canon s) : Canon (stampOcEngine s a n) :=
  Canon.foldl h (fun _ _ h' => Canon.ite (stampEngine_canon h') (stampSignal_canon h'))

theorem takeLs_canon {s : State} {oc n : Nat} (h : Canon s) : Canon (takeLs s oc n) := Canon.ite h (onCore_canon h rfl)

theorem setChan_canon {s : State} {k : Nat} {c : Channel} (h : Canon s) : Canon (setChan s k c) := h.next rfl

theorem bteAccept_canon {s : State} {k index : Nat} {delta : Int} {armed : Bool} (h : Canon s) :
    Canon (bteAccept s k index delta armed) := setChan_canon h

theorem apertureStore_canon {s : State} {k : Nat} {v : Word} (h : Canon s) : Canon (apertureStore s k v) :=
  bteAccept_canon h

theorem gmRead_canon {s : State} {runs : List (Nat × Nat)} {v : Viewer} {via : Via} (h : Canon s) :
    Canon (gmRead s runs v via).1 := by
  unfold gmRead
  refine Canon.foldl_fst h (fun q a h' => ?_)
  exact dpaRead_canon h'

theorem gmWrite_canon {s : State} {runs : List (Nat × Nat)} {bs : List Byte} {p : Bool} {v : Viewer} {via : Via}
    (h : Canon s) :
    Canon (gmWrite s runs bs p v via) := Canon.foldl_fst h (fun _ _ h' => dpaWrite_canon h')

theorem wakeLs_canon {s : State} {a : Nat} {engine : Bool} (h : Canon s) : Canon (wakeLs s a engine) :=
  Canon.ite (onCore_canon h rfl) h

theorem placeRead_canon {s : State} {p : Place} {n : Nat} {engine : Bool} {v : Viewer} (h : Canon s) :
    Canon (placeRead s p n engine v).1 := by
  unfold placeRead
  split
  · exact Canon.ite (wakeLs_canon h) (takeLs_canon (stampOc_canon h))
  · exact h
  · exact h
  · exact h
  · exact h
  · dsimp only
    exact hubLoad_canon (Canon.ite h (stampLoad_canon h))
  · exact gmRead_canon h
  · exact h

theorem Canon.oc_store {s : State} (h : Canon s) (a : Nat) (bs : List Byte) (p : Bool) :
    Canon { s with oc := s.oc.store a bs p } :=
  { h with oc := Mem.wf_store h.oc a bs p }

theorem foldl_mx {α : Type} {f : Core → α → Core} (hf : ∀ c a, (f c a).mx = c.mx) (l : List α) (c : Core) :
    (l.foldl f c).mx = c.mx := by
  induction l generalizing c with
  | nil => rfl
  | cons a l ih => exact (ih _).trans (hf c a)

theorem vregsWrite_mx {c : Core} {off : Nat} {bs : List Byte} {p : Bool} : (vregsWrite c off bs p).mx = c.mx := by
  unfold vregsWrite
  refine foldl_mx (fun c b => ?_) _ _
  rfl

theorem setRegByte_mx {c : Core} {k : Nat} {b : Byte} : (setRegByte c k b).mx = c.mx := by
  unfold setRegByte
  split
  · exact setX_mx
  split
  · rfl
  split
  · rfl
  split
  · rfl
  split <;> rfl

theorem regsWrite_mx {c : Core} {off : Nat} {bs : List Byte} : (regsWrite c off bs).mx = c.mx := by
  refine foldl_mx (fun c b => ?_) _ _
  split
  · exact setRegByte_mx
  · rfl

theorem placeWrite_canon {s : State} {p : Place} {bs : List Byte} {poison engine : Bool} {v : Viewer} (h : Canon s) :
    Canon (placeWrite s p bs poison engine v) := by
  cases p with
  | oc a =>
    have hs : Canon (if engine then stampOcEngine s a bs.length else takeLs (stampOc s a bs.length true) a bs.length) :=
      Canon.ite (stampOcEngine_canon h) (takeLs_canon (stampOc_canon h))
    exact (wakeLs_canon hs).oc_store _ _ _
  | vregs off => exact onCore_canon (f := fun c => vregsWrite c off bs poison) h (congrArg Matrix.bstore vregsWrite_mx)
  | regs off => exact onCore_canon (f := fun c => regsWrite c off bs) h (congrArg Matrix.bstore regsWrite_mx)
  | aperture k => exact Canon.ite h (apertureStore_canon h)
  | blocks off => exact blockStore_canon h
  | hub a => exact hubStore_canon (Canon.ite (stampEngine_canon h) (stampStore_canon h))
  | gm runs => exact gmWrite_canon h
  | host a => exact hostWrite_canon h

theorem placeAtomic_canon {s : State} {p : Place} {bs : List Byte} {poison : Bool} {v : Viewer} (h : Canon s) :
    Canon (placeAtomic s p bs poison v) := by
  unfold placeAtomic
  split
  · exact gmWrite_canon h
  · exact placeWrite_canon h

theorem onVu_canon {s : State} {f : VecUnit → VecUnit} (h : Canon s) : Canon (onVu s f) := onCore_canon h rfl

theorem loadAtHome_canon {s : State} {p : Place} (h : Canon s) : Canon (loadAtHome s p) := by
  unfold loadAtHome
  split
  · exact Canon.foldl h (fun t a h' => stampHome_canon h')
  · exact h

theorem atomicAt_canon {s : State} {p : Place} {n : Nat} {op : AmoOp} {v swapIn : Nat} {w : Viewer} (h : Canon s) :
    Canon (atomicAt s p n op v swapIn w).1 := by
  have hr : ∀ wr, Canon (placeRead s p n wr w).1 := fun wr => placeRead_canon h
  unfold atomicAt
  dsimp only
  refine Canon.ite_fst (hr _) ?_
  split
  · exact placeAtomic_canon (hr _)
  · exact loadAtHome_canon (hr _)

theorem stampDo_canon {s : State} {d : QsDo} (h : Canon s) : Canon (stampDo s d) := by
  unfold stampDo
  split
  · exact Canon.foldl h (fun t a h' => stampOc_canon h')
  · exact Canon.foldl h (fun t a h' => stampOc_canon h')
  · exact stampOc_canon h
  · exact h
  · exact h
  · exact h

theorem askQs_canon {s : State} {q : QsReq} (h : Canon s) : Canon (askQs s q) :=
  onVu_canon (Canon.foldl h fun _ _ h' => stampDo_canon h')

theorem freshId_canon {s : State} (h : Canon s) : Canon (freshId s).1 := by
  unfold freshId
  dsimp only
  exact onCore_canon h rfl

theorem countWait_canon {s : State} (h : Canon s) : Canon (countWait s) := Canon.ite h (onVu_canon h)

theorem scalarGrant_canon {s : State} {p : Place} {n : Nat} {wr : Bool} {k : State → Eff} (h : Canon s)
    (hk : ∀ t, Canon t → EffCanon (k t)) : EffCanon (scalarGrant s p n wr k) := by
  unfold scalarGrant
  split
  · split
    · exact hk _ (onVu_canon h)
    · exact countWait_canon (onVu_canon h)
  · exact hk _ h

theorem performGrant_canon {s : State} {q : QsReq} {d : QsDo} (h : Canon s) : Canon (performGrant s q d).1 := by
  cases d with
  | pass => exact h
  | read us => exact Canon.foldl_fst h (fun _ _ hq => takeLs_canon hq)
  | write us p => exact Canon.foldl h (fun _ _ ht => takeLs_canon (ht.oc_store _ _ _))
  | amo oc n op v w =>
    unfold performGrant
    dsimp only
    split
    · exact h.oc_store _ _ _
    · exact h
  | update oc n e => exact barrierUpdate_canon h
  | test oc ph => exact observe_canon h

theorem vxGo_canon {l : List VxCmd} {s : State} {t : Nat} (h : Canon s) : Canon (vxGo l s t) := by
  induction l generalizing s t with
  | nil => exact onVu_canon h
  | cons c r ih =>
    unfold vxGo
    split
    · exact onVu_canon h
    · exact ih (onCore_canon h rfl)

theorem vxIssue_canon {s : State} {c : VxCmd} (h : Canon s) : Canon (vxIssue s c) :=
  Canon.ite (vxGo_canon h) (onVu_canon h)

theorem finishQs_canon {s : State} {q : QsReq} (h : Canon s) : Canon (finishQs s q) :=
  Canon.ite (vxGo_canon (onCore_canon h rfl)) (onCore_canon h rfl)

theorem serveQs_canon {s : State} {q : QsReq} (h : Canon s) : Canon (serveQs s q) := by
  unfold serveQs
  split
  · exact h
  · dsimp only
    split
    · exact finishQs_canon (onVu_canon (performGrant_canon h))
    · exact onVu_canon (performGrant_canon h)

theorem grantQs_canon {s : State} (h : Canon s) : Canon (grantQs s) := by
  have hserve : ∀ (o : Option QsReq) (b : Bool) (t : State), Canon t →
      Canon (match o with | some q => if b then serveQs t q else t | none => t) := by
    intro o b t ht
    cases o with
    | none => exact ht
    | some q => exact Canon.ite (serveQs_canon ht) ht
  have h2 := fun f => hserve (nextPermute s.core.vu s.clock) ((clockGrants s).any (fun g => g.1 == 2)) _
    (hserve (nextAccess s.core.vu s.clock) ((clockGrants s).any (fun g => g.1 == 1)) _ (onVu_canon (f := f) h))
  unfold grantQs
  dsimp only
  split
  · exact serveQs_canon (h2 _)
  · exact h2 _

theorem occupy_canon {s : State} {id : Nat} {until_ : Option Nat} (h : Canon s) : Canon (occupy s id until_) :=
  onVu_canon h

theorem dropQueue_canon {s : State} (h : Canon s) : Canon (dropQueue s) := onVu_canon h

theorem askHeld_canon {s : State} {q : QsReq} (h : Canon s) : Canon (askHeld s q) := occupy_canon (askQs_canon h)

theorem setErrBit_canon {s : State} {k : Nat} (h : Canon s) : Canon (setErrBit s k) := onCore_canon h rfl

theorem chanPost_canon {s : State} {k : Nat} {w : Word} (h : Canon s) : Canon (chanPost s k w) := by
  unfold chanPost
  split
  · exact pushCompletion_canon h
  · dsimp only
    exact setChan_canon h

theorem bteAbort_canon {s : State} {k : Nat} {t : Template} {written : Nat} {release : Bool} {flags : Nat}
    {cause : Cause} (h : Canon s) : Canon (bteAbort s k t written release flags cause) :=
  chanPost_canon (setChan_canon (untouch_canon (setErrBit_canon (Canon.ite (barrierUpdate_canon h) h))))

theorem bteBegin_canon {s : State} {k : Nat} {cmd : Cmd} {ws : List Word} (h : Canon s) :
    Canon (bteBegin s k cmd ws) := by
  unfold bteBegin
  dsimp only
  split
  · refine bteAbort_canon ?_
    split
    · exact spoilTag_canon (eregSet_canon (Canon.foldl h fun t a h' => eregSet_canon h'))
    · exact eregSet_canon (Canon.foldl h fun t a h' => eregSet_canon h')
  · refine setChan_canon ?_
    split
    · exact spoilTag_canon (eregSet_canon (Canon.foldl h fun t a h' => eregSet_canon h'))
    · exact eregSet_canon (Canon.foldl h fun t a h' => eregSet_canon h')

theorem bteStart_canon {s : State} {k : Nat} (h : Canon s) : Canon (bteStart s k) := by
  unfold bteStart
  dsimp only
  split
  · exact h
  · split
    · exact h
    · split
      · exact bteBegin_canon (h.next rfl)
      · exact setChan_canon h

theorem bteLoad_canon {s : State} {k : Nat} {cmd : Cmd} {table : Word} (h : Canon s) :
    Canon (bteLoad s k cmd table) := by
  unfold bteLoad
  dsimp only
  split
  next x t e => exact AccCanon.of_wait e (engAccess_canon h)
  next x t x' x2 addr e =>
    exact chanPost_canon (setChan_canon (setErrBit_canon (AccCanon.of_fault e (engAccess_canon h))))
  next x t p snd e => exact bteBegin_canon (setChan_canon (placeRead_canon (AccCanon.of_ok e (engAccess_canon h))))

theorem bteFinish_canon {s : State} {k : Nat} {a : Active} (h : Canon s) : Canon (bteFinish s k a) := by
  unfold bteFinish
  dsimp only
  split
  · exact chanPost_canon (eregSet_canon (setChan_canon (untouch_canon h)))
  · exact eregSet_canon (setChan_canon (untouch_canon h))

theorem bteAdvance_canon {s : State} {k : Nat} {a : Active} {t : Template} {poison : Bool} (h : Canon s) :
    Canon (bteAdvance s k a t poison) :=
  Canon.when (Canon.when (setChan_canon (eregSet_canon h)) (fun ht => fillSlot_canon ht)) (fun ht => bteFinish_canon ht)

theorem claimFor_canon {s : State} {t : Template} {a : Active} (h : Canon s) : OptCanonFst (claimFor s t a) := by
  unfold claimFor
  split
  · exact OptCanonFst.map_fst (claimSlot_canon h) (fun p h' => h')
  · exact optCanonFst_some h

theorem bteSector_canon {s : State} {k : Nat} (h : Canon s) : Canon (bteSector s k) := by
  unfold bteSector
  split
  · exact h
  next a _ =>
  refine Canon.ite (bteLoad_canon h) (Canon.ite h (Canon.ite (bteAbort_canon h) ?_))
  dsimp only
  split
  · exact h
  next s1 a1 e1 =>
  have h1 := fun c => setChan_canon (k := k) (c := c) (OptCanonFst.of_some e1 (claimFor_canon h))
  split
  next s2 e2 => exact AccCanon.of_wait e2 (engAccess_canon (h1 _))
  next s2 c _ _ e2 => exact bteAbort_canon (AccCanon.of_fault e2 (engAccess_canon (h1 _)))
  next s2 from_ pages e2 =>
  have h2 : Canon s2 := AccCanon.of_ok e2 (engAccess_canon (h1 _))
  have hdst : ∀ (b : Bool) (slot : Nat) (x : Acc (Place × List HeldPage)), AccCanon x → AccCanon (
      if b then (if meetsTag s2 slot 32 then .fault s2 .barrierClobber 8 slot else .ok s2 (.oc slot, pages)) else x) :=
    fun _ _ _ hx => AccCanon.ite (AccCanon.ite h2 h2) hx
  split
  next s3 e3 => exact AccCanon.of_wait e3 (hdst _ _ _ (engAccess_canon h2))
  next s3 c _ _ e3 => exact bteAbort_canon (AccCanon.of_fault e3 (hdst _ _ _ (engAccess_canon h2)))
  next s3 into pages' e3 =>
  have h3 : Canon s3 := AccCanon.of_ok e3 (hdst _ _ _ (engAccess_canon h2))
  have hw := fun bs poison v => placeWrite_canon (p := into) (bs := bs) (poison := poison) (engine := true) (v := v)
    (placeRead_canon (p := from_) (n := 32) (engine := true) (v := (cmdUser k a.cmd).viewer s3) h3)
  refine Canon.ite (bteAbort_canon (hw _ _ _)) (bteAdvance_canon ?_)
  exact Canon.ite (barrierUpdate_canon (hw _ _ _)) (hw _ _ _)

theorem btePost_canon {s : State} {k : Nat} (h : Canon s) : Canon (btePost s k) := by
  unfold btePost
  dsimp only
  split
  · exact h
  · split
    · exact pushCompletion_canon (setChan_canon h)
    · exact h

theorem bankTurn_canon {s : State} {r : Nat} {l : List Nat} (h : Canon s) : OptCanon (bankTurn s r l) :=
  OptCanon.ite optCanon_none (optCanon_some (onVu_canon h))

theorem bteClock_canon {s : State} {k : Nat} (h : Canon s) : Canon (bteClock s k) :=
  Canon.ite (btePost_canon h) (Canon.ite (bteSector_canon h) (Canon.ite h (bteStart_canon h)))

theorem bteAll_canon {s : State} (h : Canon s) : Canon (bteAll s) :=
  Canon.foldl (h.next rfl) (fun _ _ h' => bteClock_canon h')

theorem badOperand_canon {s : State} {v : Word} (h : Canon s) : EffCanon (badOperand s v) := h

theorem armEngine_canon {s : State} {e : Nat} (h : Canon s) : Canon (armEngine s e) := by
  unfold armEngine
  dsimp only
  split
  · split
    · exact bteStart_canon (bteAccept_canon (h.next rfl))
    · exact bteAccept_canon (h.next rfl)
  · split
    · exact h.next rfl
    · split
      · exact h.next rfl
      · split
        · exact spoil_canon (h.next rfl)
        · exact h.next rfl

theorem disarm_canon {s : State} {e : Nat} (h : Canon s) : Canon (disarm s e) :=
  (Canon.foldl h fun _ _ h' => Canon.ite (eregSet_canon h') h').next rfl

theorem execErw_canon {a b : XReg} {n : BitVec 5} {s : State} (h : Canon s) : OutCanon (execErw a b n s) := by
  unfold execErw
  refine syl_canon h (fun t h' => ?_)
  dsimp only
  split
  · exact badOperand_canon h'
  · exact shadowSet_canon h'

theorem execErr_canon {d a : XReg} {n : BitVec 6} {s : State} (h : Canon s) : OutCanon (execErr d a n s) := by
  unfold execErr
  refine syl_canon h (fun t h' => ?_)
  dsimp only
  split
  · exact badOperand_canon h'
  · exact guardPush_canon h' (pendX_canon h')

theorem execEswap_canon {a : XReg} {s : State} (h : Canon s) : OutCanon (execEswap a s) := by
  unfold execEswap
  refine syl_canon h (fun t h' => ?_)
  dsimp only
  split
  · exact badOperand_canon h'
  · exact armEngine_canon h'

theorem barrierCheck_canon {s : State} {a : Word} {qs : Bool} {k : State → Nat → Eff} (h : Canon s)
    (hk : ∀ t a', Canon t → EffCanon (k t a')) : EffCanon (barrierCheck s a qs k) := by
  unfold barrierCheck
  dsimp only
  split
  next x t c r ad e => exact AccCanon.of_fault e (localCheck_canon h)
  next x t e => exact AccCanon.of_wait e (localCheck_canon h)
  next x t a' e =>
    split
    · exact AccCanon.of_ok e (localCheck_canon h)
    · exact hk _ _ (AccCanon.of_ok e (localCheck_canon h))

theorem execBinit_canon {a b : XReg} {f p : Bool} {s : State} (h : Canon s) : OutCanon (execBinit a b f p s) := by
  unfold execBinit
  refine syl_canon h (fun t h' => ?_)
  dsimp only
  split
  · exact badOperand_canon h'
  · refine barrierCheck_canon h' (fun t' a' h2 => ?_)
    split
    · exact h2.next rfl
    · split
      · exact h2
      · exact (stampRoom_canon (barrierSet_canon h2)).next rfl

theorem liveCheck_canon {s : State} {a : Word} {qs : Bool} {k : State → Nat → Eff} (h : Canon s)
    (hk : ∀ t a', Canon t → EffCanon (k t a')) :
    EffCanon (liveCheck s a qs k) := barrierCheck_canon h (fun _ _ h' => EffCanon.ite (hk _ _ h') h')

theorem askBarrier_canon {s : State} {oc : Nat} {d : Option XReg} {w : QsDo} (h : Canon s) :
    Canon (askBarrier s oc d w) := by
  unfold askBarrier
  cases d with
  | none => exact askQs_canon (freshId_canon h)
  | some d =>
    dsimp only [Option.bind]
    cases (lateDest s d).2 with
    | none => exact askQs_canon (freshId_canon (lateDest_canon h))
    | some dst => exact askQs_canon (pend_canon (lateDest_canon h))

theorem execBarv_canon {d a b : XReg} {p : Bool} {s : State} (h : Canon s) : OutCanon (execBarv d a b p s) := by
  unfold execBarv
  refine syl_canon h (fun t h' => ?_)
  dsimp only
  split
  · exact badOperand_canon h'
  · refine liveCheck_canon h' (fun t' a' h2 => guardPush_canon h2 ?_)
    split
    · exact askBarrier_canon h2
    · exact pendX_canon (barrierUpdate_canon (observe_canon h2))

theorem execBwait_canon {a b : XReg} {p : Bool} {s : State} (h : Canon s) : OutCanon (execBwait a b p s) := by
  unfold execBwait
  refine syl_canon h (fun t h' => liveCheck_canon h' (fun t' a' h2 => ?_))
  split
  · exact observe_canon h2
  · exact waitFor_canon h2

theorem execBtest_canon {d a b : XReg} {p : Bool} {s : State} (h : Canon s) : OutCanon (execBtest d a b p s) := by
  unfold execBtest
  refine syl_canon h (fun t h' => liveCheck_canon h' (fun t' a' h2 => guardPush_canon h2 ?_))
  split
  · exact askBarrier_canon h2
  · exact pendX_canon (observe_canon h2)

theorem execBadd_canon {a b : XReg} {p : Bool} {s : State} (h : Canon s) : OutCanon (execBadd a b p s) := by
  unfold execBadd
  refine syl_canon h (fun t h' => ?_)
  dsimp only
  split
  · exact badOperand_canon h'
  · refine liveCheck_canon h' (fun t' a' h2 => ?_)
    exact Canon.ite (askBarrier_canon h2) (barrierUpdate_canon (observe_canon h2))

theorem execWadv_canon {d a b : XReg} {s : State} (h : Canon s) : OutCanon (execWadv d a b s) := by
  unfold execWadv
  refine syl_canon h (fun t h' => ?_)
  dsimp only
  split
  · exact badOperand_canon h'
  · refine guardPush_canon h' ?_
    split
    · exact pendX_canon h'
    · split
      · exact h'
      · refine pendX_canon ?_
        split
        · exact bteFinish_canon (setChan_canon (releaseSlots_canon (observe_canon h')))
        · exact setChan_canon (releaseSlots_canon (observe_canon h'))

theorem execWpos_canon {d a : XReg} {s : State} (h : Canon s) : OutCanon (execWpos d a s) := by
  unfold execWpos
  refine syl_canon h (fun t h' => ?_)
  dsimp only
  split
  · exact badOperand_canon h'
  · refine guardPush_canon h' ?_
    split
    · exact pendX_canon h'
    · exact pendX_canon h'

theorem execRcnt_canon {d a b : XReg} {s : State} (h : Canon s) : OutCanon (execRcnt d a b s) := by
  unfold execRcnt
  refine syl_canon h (fun t h' => ?_)
  dsimp only
  split
  · exact badOperand_canon h'
  · split
    · exact guardPush_canon h' (pendX_canon h')
    · split
      · exact drawn_canon h'
      · refine guardPush_canon h' ?_
        split
        · exact h'
        · exact pendX_canon (releaseSlots_canon (observe_canon h'))

theorem flipRange_canon {s : State} {a b : Word} {qs : Bool} {k : State → List Nat → Eff} (h : Canon s)
    (hk : ∀ t a', Canon t → EffCanon (k t a')) : EffCanon (flipRange s a b qs k) := by
  unfold flipRange
  dsimp only
  split
  · split
    · exact badOperand_canon h
    · exact EffCanon.ite h (EffCanon.ite h (EffCanon.ite h (hk _ _ h)))
  · split
    · exact badOperand_canon h
    · exact EffCanon.ite h (EffCanon.ite h (EffCanon.ite h (hk _ _ h)))

theorem execOwne_canon {a b : XReg} {v p : Bool} {s : State} (h : Canon s) : OutCanon (execOwne a b v p s) := by
  unfold execOwne
  refine syl_canon h (fun t h' => ?_)
  split
  · split
    · exact h'
    · exact h'.next rfl
  · refine flipRange_canon h' (fun t' a' h2 => ?_)
    split
    · exact h2
    · exact flipTo_canon h2

theorem performFlips_canon {s : State} (h : Canon s) : Canon (performFlips s) := by
  unfold performFlips
  split
  · exact h
  · dsimp only
    exact h.next rfl

theorem execOwnc_canon {a b : XReg} {v p : Bool} {s : State} (h : Canon s) : OutCanon (execOwnc a b v p s) := by
  have hgo : ∀ (t : State) (gs : List Nat), Canon t → EffCanon (
      if t.core.waiting.isSome then (if t.bte.flips.isSome then .wait t else .done t)
      else .wait (onCore { t with bte := { t.bte with flips := some (gs, v) } } (fun c => { c with waiting := some (t.clock, 0) }))) :=
    fun t gs ht => EffCanon.ite (EffCanon.ite ht ht) (onCore_canon (ht.next rfl) rfl)
  exact syl_canon h (fun t ht => EffCanon.ite (hgo _ _ ht) (EffCanon.ite (hgo _ _ ht) (flipRange_canon ht hgo)))

theorem folioMisaligned_canon {s : State} {a : Int} {n : Nat} {need : Need} (h : Canon s) :
    EffCanon (folioMisaligned s a n need) := by
  unfold folioMisaligned
  split
  next x t c r ad e => exact h
  next x e => exact h

theorem memAccess_canon {s : State} {space : Nat} {a : Except Word Int} {n align : Nat} {need : Need}
    {k : State → Place → Int → Eff} {each : Bool} (h : Canon s) (hk : ∀ t a' b, Canon t → EffCanon (k t a' b)) :
    EffCanon (memAccess s space a n align need k each) := by
  unfold memAccess
  split
  · exact h
  · split
    · exact folioMisaligned_canon h
    · split
      next x t c r ad e => exact AccCanon.of_fault e (coreCheck_canon h)
      next x t e => exact AccCanon.of_wait e (coreCheck_canon h)
      next x t a e =>
        split
        · exact AccCanon.of_ok e (coreCheck_canon h)
        · split
          · split
            · split
              next x' t' e' => exact AccCanon.of_wait e' (settleClash_canon (AccCanon.of_ok e (coreCheck_canon h)))
              next x' t' c r ad e' =>
                exact AccCanon.of_fault e' (settleClash_canon (AccCanon.of_ok e (coreCheck_canon h)))
              next x' t' a e' =>
                exact hk _ _ _ (AccCanon.of_ok e' (settleClash_canon (AccCanon.of_ok e (coreCheck_canon h))))
            · exact hk _ _ _ (AccCanon.of_ok e (coreCheck_canon h))
          · exact hk _ _ _ (AccCanon.of_ok e (coreCheck_canon h))

theorem meAccess_canon {s : State} {space : Nat} {a : Except Word Int} {n : Nat} {need : Need}
    {k : State → Place → Int → Eff} (h : Canon s) (hk : ∀ t a' b, Canon t → EffCanon (k t a' b)) :
    EffCanon (meAccess s space a n need k) := memAccess_canon h hk

end Sys2Proof.Machine
end

section
/-!
SUPPORT. Memory syllables, the row engine and the fabric commands keep every memory canonical (sections MemInstr to Fabric).
-/
namespace Sys2Proof.Machine
open Sys2Proof
set_option Elab.async false -- proofs one at a time: the check of the whole text is near its memory limit

theorem granted_canon {s : State} {space : Nat} {p : Place} {n : Nat} {wr : Bool} {k : State → Eff} (h : Canon s)
    (hk : ∀ t, Canon t → EffCanon (k t)) :
    EffCanon (granted s space p n wr k) := EffCanon.ite (scalarGrant_canon h hk) (hk _ h)

theorem load_canon {i : Instr} {space : Nat} {z : Size} {d b : XReg} {o : BitVec 9} {s : State} (h : Canon s) :
    OutCanon (load i space z d b o s) := by
  unfold load
  refine syl_canon h (fun t h' => guardPush_canon h' (meAccess_canon h' fun t' a' b' h2 => ?_))
  refine granted_canon h2 (fun t2 h3 => ?_)
  dsimp only
  split
  · split
    next x t3 d' e => exact exposeMarked_canon (Canon.of_mk e (lateDest_canon (placeRead_canon h3)))
    next x t3 e => exact Canon.of_mk e (lateDest_canon (placeRead_canon h3))
  · exact pendX_canon (placeRead_canon h3)

theorem store_canon {i : Instr} {space : Nat} {z : Size} {d b : XReg} {o : BitVec 9} {s : State} (h : Canon s) :
    OutCanon (store i space z d b o s) := by
  unfold store
  refine syl_canon h (fun t h' => meAccess_canon h' (fun t' a' b' h2 => granted_canon h2 (fun t2 h3 => ?_)))
  exact placeWrite_canon h3

theorem amoQs_canon {s : State} {oc n : Nat} {d : XReg} {u : AmoOp} {v swapIn : Nat} {a : Int} (h : Canon s) :
    Canon (amoQs s oc n d u v swapIn a) := by
  unfold amoQs
  split
  next x t d' e => exact askQs_canon (pend_canon (Canon.of_mk e (lateDest_canon h)))
  next x t e => exact askQs_canon (freshId_canon (Canon.of_mk e (lateDest_canon h)))

theorem amo_canon {i : Instr} {space : Nat} {z : Bool} {d b : XReg} {u : AmoOp} {o : BitVec 6} {s : State}
    (h : Canon s) : OutCanon (amo i space z d b u o s) := by
  unfold amo
  refine syl_canon h (fun t ht => guardPush_canon ht (EffCanon.ite ht (meAccess_canon ht (fun t' p a h2 => ?_))))
  have hs : Canon (if (space == 0) = true then t' else spoil t') := Canon.ite h2 (spoil_canon h2)
  dsimp only
  split
  · exact amoQs_canon hs
  · exact pendX_canon (atomicAt_canon hs)

theorem fillNow_canon {s : State} {line : Nat} (h : Canon s) : Canon (fillNow s line) :=
  Canon.foldl h (fun _ _ h' => prefetch_canon h')

theorem fillLine_canon {s : State} {line : Nat} (h : Canon s) : Canon (fillLine s line) :=
  Canon.ite (h.next rfl) (fillNow_canon h)

theorem fillsDue_canon {s : State} (h : Canon s) : Canon (fillsDue s) :=
  Canon.ite h (Canon.foldl (h.next rfl) (fun _ _ h' => fillLine_canon h'))

theorem writeBackLine_canon {s : State} {line : Nat} (h : Canon s) : Canon (writeBackLine s line) := l2Clean_canon h

theorem invalidateLine_canon {s : State} {line : Nat} (h : Canon s) : Canon (invalidateLine s line) :=
  mscFlush_canon (l2Flush_canon h)

theorem rangeWalk_canon {need : Need} {skip : Bool} {f : State → Nat → State} {s : State} {l : List (Nat × Nat)}
    (hf : ∀ t n, Canon t → Canon (f t n)) (h : Canon s) : AccCanon (rangeWalk need skip f s l) := by
  induction l generalizing s with
  | nil => exact h
  | cons p l ih =>
    obtain ⟨va, k⟩ := p
    unfold rangeWalk
    refine AccCanon.ite (AccCanon.ite (ih h) h) ?_
    split
    next t d e =>
      have ht : Canon t := Canon.of_mk e (translate_canon h)
      exact AccCanon.ite ht (ih (Canon.foldl ht hf))
    next t c x e =>
      have ht : Canon t := Canon.of_mk e (translate_canon h)
      exact AccCanon.ite (ih ht) ht
    next t e =>
      have ht : Canon t := Canon.of_mk e (translate_canon h)
      exact AccCanon.ite (ih ht) ht

theorem cacheRange_canon {i : Instr} {l b : XReg} {o : BitVec 9} {need : Need} {skip : Bool}
    {f : State → Nat → State} {s : State} (hf : ∀ t a, Canon t → Canon (f t a)) (hs : Canon s) :
    OutCanon (cacheRange i l b o need skip f s) := by
  unfold cacheRange
  refine syl_canon hs (fun t h => EffCanon.ite h (EffCanon.ite (EffCanon.ite h h) ?_))
  split
  next x t' a e =>
    have ht : Canon t' := AccCanon.of_ok e (rangeWalk_canon hf h)
    exact Canon.ite ht (onCore_canon ht rfl)
  next x t' e => exact AccCanon.of_wait e (rangeWalk_canon hf h)
  next x t' c r ad e => exact AccCanon.of_fault e (rangeWalk_canon hf h)

theorem execPfg_canon {l b : XReg} {o : BitVec 9} {s : State} (h : Canon s) : OutCanon (execPfg l b o s) := by
  unfold execPfg
  refine cacheRange_canon ?_ h
  intro t a h'
  exact fillLine_canon h'

theorem execCwb_canon {l b : XReg} {o : BitVec 9} {s : State} (h : Canon s) : OutCanon (execCwb l b o s) := by
  unfold execCwb
  refine cacheRange_canon ?_ h
  intro t a h'
  exact writeBackLine_canon h'

theorem execCinv_canon {l b : XReg} {o : BitVec 9} {s : State} (h : Canon s) : OutCanon (execCinv l b o s) := by
  unfold execCinv
  refine cacheRange_canon ?_ h
  intro t a h'
  exact invalidateLine_canon h'

theorem execHfence_canon {s : State} (h : Canon s) : OutCanon (execHfence s) := by
  unfold execHfence
  refine syl_canon h (fun t h' => ?_)
  split
  · exact h'
  · exact waitFor_canon h'

theorem execEfence_canon {s : State} (h : Canon s) : OutCanon (execEfence s) := by
  unfold execEfence
  refine syl_canon h (fun t h' => ?_)
  split
  · exact h'
  · exact waitFor_canon h'

theorem setRowPort_canon {s : State} {k : Nat} {p : RowPort} (h : Canon s) : Canon (setRowPort s k p) := h.next rfl

theorem rowEnd_canon {s : State} {k : Nat} {o : RowOp} {status : Nat} (h : Canon s) : Canon (rowEnd s k o status) := by
  unfold rowEnd
  dsimp only
  split
  · exact setRowPort_canon (eregSet_canon (Canon.ite (h.next rfl) h))
  · split
    · split
      · exact pushCompletion_canon (setRowPort_canon (eregSet_canon (h.next rfl)))
      · exact setRowPort_canon (setRowPort_canon (eregSet_canon (h.next rfl)))
    · split
      · exact pushCompletion_canon (setRowPort_canon (eregSet_canon h))
      · exact setRowPort_canon (setRowPort_canon (eregSet_canon h))

theorem rowRun_canon {s : State} {o : RowOp} {va : Nat} {need : Need} (h : Canon s) :
    AccCanon (rowRun s o va need) := by
  unfold rowRun
  refine AccCanon.foldl h (fun y a h' => AccCanon.bind h' (fun t a' h2 => ?_))
  split
  · exact h2
  · split
    next x t' d x' e =>
      exact AccCanon.ite (Canon.of_mk e (engPage_canon h2)) (Canon.of_mk e (engPage_canon h2))
    next x t' c r snd e => exact Canon.of_mk e (engPage_canon h2)
    next x t' snd e => exact Canon.of_mk e (engPage_canon h2)

theorem rowPlan_canon {s : State} {o : RowOp} (h : Canon s) : AccCanon (rowPlan s o) := by
  unfold rowPlan
  refine AccCanon.bind (rowRun_canon h) (fun t a h' => AccCanon.bind (AccCanon.foldl h' ?_) ?_)
  · intro y a' h2
    exact AccCanon.bind h2 (fun t' a2 h3 => AccCanon.bind (rowRun_canon h3) (fun t2 a3 h4 => h4))
  · intro t' a' h2
    exact h2

theorem rowWrites_canon {s : State} {l : List (Nat × Nat × Bool)} {o : RowOp} (h : Canon s) :
    Canon (rowWrites s l o) := by
  unfold rowWrites
  refine stampStep_canon ?_
  split
  · exact Canon.foldl h (fun t a h' => viewWrite_canon h')
  · exact Canon.foldl h (fun t a h' => hbmWrite_canon h')

theorem rowRead_canon {s : State} {sec : Nat} {o : RowOp} (h : Canon s) : Canon (rowRead s sec o).1 := by
  unfold rowRead
  split
  · split
    · exact viewRead_canon h
    · exact homeRead_canon h
  · exact homeRead_canon h

theorem rowReads_canon {s : State} {runs : List (Nat × Nat)} {o : RowOp} (h : Canon s) :
    Canon (rowReads s runs o).1 := by
  unfold rowReads
  refine Canon.foldl_fst h (fun q a h' => ?_)
  exact rowRead_canon h'

theorem flushSectors_canon {s : State} {l : List Nat} (h : Canon s) : Canon (flushSectors s l) :=
  Canon.foldl h (fun _ _ h' => mscFlush_canon h')

theorem rowPerform_canon {s : State} {port : Nat} {o : RowOp} {dst : List (Nat × Nat)}
    {srcs : List (List (Nat × Nat))} (h : Canon s) : Canon (rowPerform s port o dst srcs) := by
  unfold rowPerform
  refine setRowPort_canon (eregSet_canon (flushSectors_canon (rowWrites_canon (Canon.foldl_fst
    (flushSectors_canon h) ?_))))
  intro q a h'
  exact rowReads_canon h'

theorem rowStart_canon {s : State} {port : Nat} {o : RowOp} (h : Canon s) : Canon (rowStart s port o) := by
  unfold rowStart
  dsimp only
  split
  · exact Canon.ite (spoilTag_canon (h.next rfl)) (h.next rfl)
  · split
    · exact spoilTag_canon (Canon.foldl h fun t a h' => eregSet_canon h')
    · exact Canon.foldl h (fun t a h' => eregSet_canon h')

theorem rowAdmit_canon {s : State} {o : RowOp} {dst : List (Nat × Nat)} {srcs : List (List (Nat × Nat))} (h : Canon s) :
    AccCanon (rowAdmit s o dst srcs) := AccCanon.ite h (settleClash_canon h)

theorem rowStepNow_canon {s : State} {port : Nat} (h : Canon s) : Canon (rowStepNow s port) := by
  unfold rowStepNow
  dsimp only
  split
  · exact h
  · split
    · exact h
    · split
      · exact rowEnd_canon h
      · split
        · exact rowEnd_canon h
        · split
          next x t e => exact AccCanon.of_wait e (rowPlan_canon h)
          next x t c x' addr e => exact rowEnd_canon (AccCanon.of_fault e (rowPlan_canon h))
          next x t dst srcs o e =>
            split
            · exact rowEnd_canon (setRowPort_canon (AccCanon.of_ok e (rowPlan_canon h)))
            · split
              next x' t' e' =>
                exact AccCanon.of_wait e' (rowAdmit_canon (setRowPort_canon (AccCanon.of_ok e (rowPlan_canon h))))
              next x' t' c r ad e' =>
                exact rowEnd_canon (AccCanon.of_fault e' (rowAdmit_canon (setRowPort_canon (AccCanon.of_ok e
                  (rowPlan_canon h)))))
              next x' t' a e' =>
                split
                · exact setRowPort_canon (AccCanon.of_ok e' (rowAdmit_canon (setRowPort_canon (AccCanon.of_ok e
                    (rowPlan_canon h)))))
                · refine rowPerform_canon ?_
                  split
                  · exact AccCanon.of_ok e' (rowAdmit_canon (setRowPort_canon (AccCanon.of_ok e (rowPlan_canon h))))
                  · exact rowStart_canon (AccCanon.of_ok e' (rowAdmit_canon (setRowPort_canon (AccCanon.of_ok e
                      (rowPlan_canon h)))))

theorem rowPost_canon {s : State} {port : Nat} (h : Canon s) : Canon (rowPost s port) := by
  unfold rowPost
  dsimp only
  split
  · split
    · exact pushCompletion_canon (setRowPort_canon h)
    · exact h
  · exact h

theorem rowClock_canon {s : State} {port : Nat} (h : Canon s) : Canon (rowClock s port) :=
  Canon.ite (rowStepNow_canon h) (rowPost_canon h)

theorem refreshStart_canon {s : State} {k n : Nat} (h : Canon s) : Canon (refreshStart s k n) := h.next rfl

theorem refreshDue_canon {s : State} {h' bank : Nat} (h : Canon s) : Canon (refreshDue s h' bank) :=
  Canon.ite (refreshStart_canon h) (h.next rfl)

theorem refreshEnd_canon {s : State} {h' bank : Nat} (h : Canon s) : Canon (refreshEnd s h' bank) :=
  Canon.ite h (h.next rfl)

theorem refreshTick_canon {s : State} (h : Canon s) : Canon (refreshTick s) := by
  unfold refreshTick
  refine Canon.foldl (Canon.foldl (h.next rfl) ?_) ?_
  · intro t a h'
    exact Canon.ite (refreshStart_canon h') h'
  · intro t a h'
    exact refreshDue_canon h'

theorem rowSyl_canon {i : Instr} {op : Nat} {c a b e : XReg} {s : State} (h : Canon s) :
    OutCanon (rowSyl i op c a b e s) := by
  unfold rowSyl
  refine syl_canon h (fun t h' => ?_)
  dsimp only
  split
  · exact h'
  · split
    · exact h'
    · exact setRowPort_canon h'

theorem rowAnswers_canon {s : State} (h : Canon s) : Canon (rowAnswers s) := by
  unfold rowAnswers
  refine Canon.foldl h (fun t a h' => ?_)
  split
  · exact h'
  · exact supply_canon (h'.next rfl)

theorem execRowq_canon {d a b : XReg} {s : State} (h : Canon s) : OutCanon (execRowq d a b s) := by
  unfold execRowq
  refine syl_canon h (fun t h' => guardPush_canon h' ?_)
  split
  · exact pendX_canon h'
  · split
    next x t' d' e =>
      exact (Canon.of_mk e (lateDest_canon h')).next rfl
    next x t' e => exact Canon.of_mk e (lateDest_canon h')

theorem setFabPort_canon {s : State} {n : Nat} {p : FabPort} (h : Canon s) : Canon (setFabPort s n p) := h.next rfl

theorem fabComplete_canon {s : State} {n : Nat} {a : FabActive} {status : Nat} (h : Canon s) :
    Canon (fabComplete s n a status) := by
  unfold fabComplete
  dsimp only
  split
  · exact setFabPort_canon (eregSet_canon (untouch_canon h))
  · split
    · split
      · exact pushCompletion_canon (setFabPort_canon (eregSet_canon (untouch_canon h)))
      · exact setFabPort_canon (setFabPort_canon (eregSet_canon (untouch_canon h)))
    · split
      · exact pushCompletion_canon (setFabPort_canon (eregSet_canon (untouch_canon h)))
      · exact setFabPort_canon (setFabPort_canon (eregSet_canon (untouch_canon h)))

theorem keepSignals_canon {s : State} (h : Canon s) : Canon (keepSignals s) := h.next rfl

theorem applySignal_canon {s : State} {dim word ident : Nat} (h : Canon s) :
    Canon (applySignal s dim word ident).1 := by
  unfold applySignal
  dsimp only
  split
  · exact keepSignals_canon h
  · split
    · dsimp only
      exact h.next rfl
    · dsimp only
      exact barrierUpdate_canon (h.next rfl)

theorem remotePlace_canon {s : State} {p : Packet} {a : Nat} {need : Need} (h : Canon s) :
    AccCanon (remotePlace s p a need) := by
  unfold remotePlace
  refine AccCanon.ite (AccCanon.ite h (AccCanon.ite h (AccCanon.ite h h))) (AccCanon.ite (AccCanon.ite h (AccCanon.ite h
    (AccCanon.ite h h))) (AccCanon.ite (ocCheck_canon h) (AccCanon.ite ?_ ?_)))
  · dsimp only
    split
    · exact AccCanon.ite h (AccCanon.ite h h)
    · exact h
    · exact h
  · refine AccCanon.bind (folioCheck_canon h) (fun t q ht => ?_)
    split
    · exact AccCanon.ite ht ht
    · exact ht

theorem packetLeaves_canon {s : State} {p : Packet} {failed : Bool} (h : Canon s) :
    Canon (packetLeaves s p failed) := Canon.ite (untouch_canon h) h

theorem packetDone_canon {α : Type} {p : Packet} {x : Acc α} (h : AccCanon x) : AccCanon (packetDone p x) := by
  cases x with
  | ok s v => exact packetLeaves_canon h
  | fault s c r d => exact packetLeaves_canon h
  | wait s => exact h

theorem writePacket_canon {s : State} {p : Packet} (h : Canon s) : AccCanon (writePacket s p) := by
  unfold writePacket
  refine packetDone_canon (AccCanon.bind (AccCanon.foldl h ?_) ?_)
  · intro y a h'
    exact AccCanon.bind h' (fun t a' h2 => AccCanon.bind (remotePlace_canon h2) (fun t' a2 h3 => h3))
  · intro t a h'
    exact Canon.foldl h' (fun t' a' h2 => placeWrite_canon h2)

theorem dropMessage_canon {s : State} {key : Nat} (h : Canon s) : Canon (dropMessage s key) := by
  unfold dropMessage
  split
  · exact h
  · dsimp only
    exact Canon.ite (setClaim_canon (setRingCnt_canon (h.next rfl))) (h.next rfl)

theorem sendPacketIn_canon {s : State} {p : Packet} (h : Canon s) : AccCanon (sendPacketIn s p) := by
  have hd : Canon (if firstOf p then dropMessage s (p.src * 4 + p.cls) else s) := Canon.ite (dropMessage_canon h) h
  unfold sendPacketIn
  refine AccCanon.ite (dropMessage_canon hd) (AccCanon.ite hd ?_)
  split
  · exact hd
  next t slot done e =>
  have ht : Canon t := by
    revert e
    split
    · intro e
      obtain ⟨rfl, -⟩ := Prod.mk.inj (Option.some.inj e)
      exact hd
    · exact fun e => OptCanonFst.of_some e ((claimSlot_canon hd).map_fst (fun _ hp => hp))
  have hfill : ∀ (l : List (BitVec 256 × Nat)) (oc : Nat), Canon (l.foldl (fun s q =>
      { s with oc := s.oc.store (oc + 32 * q.2) (leBytes 32 q.1.toNat) (bit p.psn q.2) }) t) :=
    fun l oc => Canon.foldl ht (fun _ _ hu => hu.oc_store _ _ _)
  refine AccCanon.ite (dropMessage_canon (ht.next rfl)) (AccCanon.ite (fillSlot_canon ?_) ?_)
  · exact (hfill _ _).next rfl
  · exact (hfill _ _).next rfl

theorem readPacket_canon {s : State} {p : Packet} {n : Nat} (h : Canon s) : AccCanon (readPacket s p n) := by
  unfold readPacket
  refine packetDone_canon (AccCanon.foldl h fun y a h' => AccCanon.bind h' (fun t a' h2 => ?_))
  refine AccCanon.bind (remotePlace_canon h2) (fun t' a2 h3 => ?_)
  split
  · exact gmRead_canon h3
  · exact placeRead_canon h3

theorem amoAt_canon {s : State} {p : Packet} (h : Canon s) : AccCanon (amoAt s p) := by
  unfold amoAt
  dsimp only
  split
  · refine AccCanon.ite h (AccCanon.ite h (AccCanon.ite (dpaRead_canon h) ?_))
    split
    · exact dpaWrite_canon (dpaRead_canon h)
    · exact dpaRead_canon h
  · exact h
  · exact h

theorem onFab_canon {s : State} {n : Nat} {f : FabActive → FabActive} (h : Canon s) : Canon (onFab s n f) :=
  setFabPort_canon h

theorem eachPort_canon {s : State} {f : State → Nat → State} (h : Canon s) (hf : ∀ t a, Canon t → Canon (f t a)) :
    Canon (eachPort s f) := Canon.foldl h hf

theorem ackStream_canon {s : State} {src cls sseq status : Nat} (h : Canon s) :
    Canon (ackStream s src cls sseq status) := by
  unfold ackStream
  refine eachPort_canon h (fun t a h' => ?_)
  split
  · exact h'
  · dsimp only
    split
    · exact h'
    · exact onFab_canon h'

theorem sendSignal_canon {s : State} {n : Nat} {a : FabActive} {dst : Nat} (h : Canon s) :
    Canon (sendSignal s n a dst) := by
  unfold sendSignal
  dsimp only
  split
  · exact onFab_canon (applySignal_canon (h.next rfl))
  · exact onFab_canon (enqueue_canon (h.next rfl))

theorem scAnswer_canon {s : State} {slot status old : Nat} (h : Canon s) : Canon (scAnswer s slot status old) := by
  unfold scAnswer
  split
  · exact h
  · split
    · exact h
    · dsimp only
      split
      · split
        · refine sendSignal_canon (onFab_canon ?_)
          split
          · exact supply_canon (h.next rfl)
          · exact h.next rfl
        · refine onFab_canon ?_
          split
          · exact supply_canon (h.next rfl)
          · exact h.next rfl
      · split
        · exact supply_canon (h.next rfl)
        · exact h.next rfl

theorem readLocal_canon {s : State} {n : Nat} {a : FabActive} {k : Nat} (h : Canon s) :
    AccCanon (readLocal s n a k) := by
  unfold readLocal
  refine AccCanon.foldl h (fun y a' h' => AccCanon.bind h' (fun t a2 h2 => ?_))
  refine AccCanon.bind (engAccess_canon h2) (fun t' a3 h3 => ?_)
  exact placeRead_canon h3

theorem localPacket_canon {s : State} {n : Nat} {p : Packet} {k : Nat} (h : Canon s) : Canon (localPacket s n p k) := by
  have hout : AccCanon (if (p.typ == 6) = true then sendPacketIn s p else writePacket s p) :=
    AccCanon.ite (sendPacketIn_canon h) (writePacket_canon h)
  unfold localPacket
  dsimp only
  split
  next out t a e => exact onFab_canon (AccCanon.of_ok e hout)
  next out t c x addr e => exact onFab_canon (AccCanon.of_fault e hout)
  next out t e => exact AccCanon.of_wait e hout

theorem writeSectors_canon {s : State} {n : Nat} {a : FabActive} {addr : Nat} {l : List (Nat × Bool)} (h : Canon s) :
    AccCanon (writeSectors s n a addr l) := by
  unfold writeSectors
  refine AccCanon.foldl h (fun y a' h' => AccCanon.bind h' (fun t a2 h2 => ?_))
  exact AccCanon.bind (engAccess_canon h2) (fun t' a3 h3 => placeWrite_canon h3)

theorem writeLocal_canon {s : State} {n addr : Nat} {l : List (Nat × Bool)} (h : Canon s) :
    AccCanon (writeLocal s n addr l) := by
  unfold writeLocal
  split
  · exact h
  · split
    next x t x' e => exact onFab_canon (AccCanon.of_ok e (writeSectors_canon h))
    next x t c x' addr' e => exact onFab_canon (AccCanon.of_fault e (writeSectors_canon h))
    next x t e => exact AccCanon.of_wait e (writeSectors_canon h)

theorem localRead_canon {s : State} {n : Nat} {a : FabActive} {k : Nat} (h : Canon s) : Canon (localRead s n a k) := by
  unfold localRead
  dsimp only
  split
  next x t l e =>
    split
    next out t' a' e' =>
      exact onFab_canon (AccCanon.of_ok e' (writeLocal_canon (AccCanon.of_ok e (readPacket_canon h))))
    next out t' c x' addr e' =>
      exact onFab_canon (AccCanon.of_fault e' (writeLocal_canon (AccCanon.of_ok e (readPacket_canon h))))
    next out t' e' => exact AccCanon.of_wait e' (writeLocal_canon (AccCanon.of_ok e (readPacket_canon h)))
  next x t c x' addr e => exact onFab_canon (AccCanon.of_fault e (readPacket_canon h))
  next x t e => exact AccCanon.of_wait e (readPacket_canon h)

theorem fabSend_canon {s : State} {n : Nat} {a : FabActive} (h : Canon s) : Canon (fabSend s n a) := by
  unfold fabSend
  split
  · exact onFab_canon h
  · refine Canon.ite (onFab_canon h) (Canon.ite (onFab_canon h) (Canon.ite
      (Canon.ite h (onFab_canon (Canon.when h (fun ht => sendSignal_canon ht)))) (Canon.ite
        (Canon.ite (localRead_canon h) (onFab_canon (enqueue_canon h))) ?_)))
    split
    next x t e => exact AccCanon.of_wait e (readLocal_canon h)
    next x t c x' addr e => exact onFab_canon (AccCanon.of_fault e (readLocal_canon h))
    next x t l x' e =>
      have ht : Canon t := AccCanon.of_ok e (readLocal_canon h)
      exact Canon.ite (localPacket_canon (onFab_canon ht)) (onFab_canon (enqueue_canon (onFab_canon ht)))

theorem sendSc_canon {s : State} (h : Canon s) : Canon (sendSc s) := by
  unfold sendSc
  split
  · exact h
  · split
    · exact h
    · dsimp only
      split
      · exact Canon.ite (h.next rfl) (enqueue_canon (h.next rfl))
      · exact Canon.ite (h.next rfl) (enqueue_canon (h.next rfl))

theorem sendReports_canon {s : State} (h : Canon s) : Canon (sendReports s) :=
  Canon.foldl h (fun _ _ h' => enqueue_canon h')

theorem scReply_canon {s : State} {o : ScIn} {status old : Nat} (h : Canon s) : Canon (scReply s o status old) :=
  Canon.ite (scAnswer_canon h) (enqueue_canon h)

theorem discardSc_canon {s : State} {n : Nat} {xs : List Nat} (h : Canon s) : Canon (discardSc s n xs) :=
  Canon.foldl (h.next rfl) (fun _ _ h' => scReply_canon h')

theorem scDo_canon {s : State} {o : ScIn} (h : Canon s) : AccCanon (scDo s o) := by
  unfold scDo
  dsimp only
  split
  next out t old e =>
    refine scReply_canon (AccCanon.of_ok e ?_)
    exact AccCanon.ite (amoAt_canon h) (AccCanon.bind (writePacket_canon h) (fun t' a h' => h'))
  next out t c x addr e =>
    refine scReply_canon (AccCanon.of_fault e ?_)
    exact AccCanon.ite (amoAt_canon h) (AccCanon.bind (writePacket_canon h) (fun t' a h' => h'))
  next out t e =>
    refine AccCanon.of_wait e ?_
    exact AccCanon.ite (amoAt_canon h) (AccCanon.bind (writePacket_canon h) (fun t' a h' => h'))

theorem performSlot_canon {fuel : Nat} {s : State} (h : Canon s) : Canon (performSlot fuel s) := by
  induction fuel generalizing s with
  | zero => exact h
  | succ fuel ih =>
    unfold performSlot
    dsimp only
    split
    next o _ =>
      have hout : AccCanon (match bankTurn s 73 (scSides s o) with | some s => scDo s o | none => .wait s) := by
        split
        next t e => exact scDo_canon (OptCanon.of_some e (bankTurn_canon h))
        · exact h
      split
      next t a e => exact ih ((AccCanon.of_ok e hout).next rfl)
      next t c r d e => exact ih ((AccCanon.of_fault e hout).next rfl)
      next t e => exact AccCanon.of_wait e hout
    · exact h.next rfl

theorem scPerform_canon {s : State} (h : Canon s) : Canon (scPerform s) :=
  Canon.ite h (Canon.ite (performSlot_canon h) h)

theorem acceptSc_canon {s : State} {p : Packet} (h : Canon s) : Canon (acceptSc s p) :=
  Canon.ite (scReply_canon h) (h.next rfl)

theorem fabStart_canon {s : State} {n : Nat} (h : Canon s) : Canon (fabStart s n) := by
  unfold fabStart
  dsimp only
  split
  · exact h
  next c rest _ =>
  refine Canon.ite h ?_
  generalize e : (if (c.op == 0 || _) = true then onTask _ _ else _) = t
  have ht : Canon t := by
    rw [← e]
    refine Canon.when ?_ (fun hr => onTask_canon hr)
    exact eregSet_canon (setFabPort_canon (Canon.ite (disarm_canon h) (Canon.foldl h (fun _ _ hr => eregSet_canon hr))))
  refine Canon.ite (fabComplete_canon ht) (Canon.ite (fabComplete_canon ht) (Canon.ite
    (Canon.ite (fabComplete_canon ht) ?_) ht))
  have ho := bankTurn_canon (r := 64 + n) (l := localSides c 0 (descSect c.desc)) ht
  generalize bankTurn _ _ _ = o at ho ⊢
  cases o with
  | none => exact ht.next rfl
  | some u =>
    have hr := readLocal_canon (n := n) (a := { cmd := c, targets := fabTargets s c }) (k := descSect c.desc) (ho u rfl)
    dsimp only
    generalize readLocal _ _ _ _ = r at hr ⊢
    cases r with
    | ok v l => exact Canon.next (s := v) hr rfl
    | fault v e x y => exact sendSignal_canon (onFab_canon hr)
    | wait v => exact Canon.next (s := v) hr rfl

theorem keepReads_canon {s : State} {n : Nat} {a : FabActive} (h : Canon s) : Canon (keepReads s n a) :=
  Canon.ite h (h.next rfl)

theorem dropExpired_canon {s : State} {n : Nat} {a : FabActive} {w : Await} (h : Canon s) :
    Canon (dropExpired s n a w) := h.next rfl

theorem fabExpire_canon {s : State} {n : Nat} {a : FabActive} (h : Canon s) : Canon (fabExpire s n a) := by
  unfold fabExpire
  refine fabComplete_canon ?_
  split
  · exact (keepReads_canon (Canon.foldl h fun t a' h' => sendSignal_canon h')).next rfl
  · exact keepReads_canon (Canon.foldl h fun t a' h' => sendSignal_canon h')

theorem fabClock_canon {s : State} {n : Nat} (h : Canon s) : Canon (fabClock s n) := by
  unfold fabClock
  dsimp only
  split
  · exact Canon.ite (pushCompletion_canon (setFabPort_canon h)) h
  · split
    · exact fabStart_canon h
    · split
      · exact fabExpire_canon h
      · split
        · exact fabComplete_canon h
        · split
          · exact h
          · refine eregSet_canon ?_
            split
            next x t e => exact fabSend_canon (OptCanon.of_some e (bankTurn_canon h))
            next x e => exact h

theorem fabAccept_canon {s : State} {n : Fin 8} {c : FabCmd} (h : Canon s) : Canon (fabAccept s n c) :=
  setFabPort_canon (h.next rfl)

theorem fabSyl_canon {i : Instr} {n : Fin 8} {c : State → FabCmd} {s : State} (h : Canon s) :
    OutCanon (fabSyl i n c s) := by
  unfold fabSyl
  refine syl_canon h (fun t h' => ?_)
  split
  · exact badOperand_canon h'
  · exact fabAccept_canon h'

end Sys2Proof.Machine
end

section
/-!
SUPPORT. Fabric syllables, replay units and reshelving keep every memory canonical (sections Fabric to Reshelve of the model).
-/
namespace Sys2Proof.Machine
open Sys2Proof
set_option Elab.async false -- proofs one at a time: the check of the whole text is near its memory limit

theorem execFwrsSc_canon {d a b : XReg} {n : Fin 8} {s : State} (h : Canon s) : OutCanon (execFwrsSc d a b n s) := by
  unfold execFwrsSc
  refine syl_canon h (fun t h' => ?_)
  dsimp only
  split
  · exact badOperand_canon h'
  · split
    · exact h'
    · exact fabAccept_canon h'

theorem execFamo_canon {d a b : XReg} {w : Bool} {u : AmoOp} {s : State} (h : Canon s) :
    OutCanon (execFamo d a b w u s) := by
  unfold execFamo
  refine syl_canon h (fun t ht => EffCanon.ite (badOperand_canon ht) ?_)
  dsimp only
  split
  · exact ht
  · refine guardPush_canon ht ?_
    split
    next x t' d' e => exact (Canon.of_mk e (lateDest_canon (spoil_canon ht))).next rfl
    next x t' e => exact (Canon.of_mk e (lateDest_canon (spoil_canon ht))).next rfl

theorem execFwait_canon {d : XReg} {l : Bool} {n : Fin 8} {s : State} (h : Canon s) : OutCanon (execFwait d l n s) :=
  syl_canon h (fun _ ht => guardPush_canon ht (EffCanon.ite
    (pendX_canon (Canon.foldl ht (fun _ _ hu => setFabPort_canon hu))) (waitFor_canon ht)))

theorem execFslot_canon {d : XReg} {s : State} (h : Canon s) : OutCanon (execFslot d s) :=
  syl_canon h (fun _ h' => guardPush_canon h' (pendX_canon h'))

theorem execFslotWait_canon {a : XReg} {s : State} (h : Canon s) : OutCanon (execFslotWait a s) := by
  unfold execFslotWait
  refine syl_canon h (fun t h' => ?_)
  dsimp only
  split
  · exact h'
  · exact waitFor_canon h'

theorem execFcnt_canon {d a : XReg} {m : BitVec 2} {s : State} (h : Canon s) : OutCanon (execFcnt d a m s) := by
  unfold execFcnt
  refine syl_canon h (fun t h' => ?_)
  dsimp only
  split
  · exact badOperand_canon h'
  · exact guardPush_canon h' (pendX_canon h')

theorem execFseat_canon {d : XReg} {s : State} (h : Canon s) : OutCanon (execFseat d s) :=
  syl_canon h (fun _ h' => guardPush_canon h' (pendX_canon h'))

theorem fabricCsrWrite_canon {s : State} {n : Nat} {v : Word} (h : Canon s) : Canon (fabricCsrWrite s n v) :=
  Canon.ite (h.next rfl) (h.next rfl)

theorem setReplay_canon {s : State} {n : Nat} {u : ReplayUnit} (h : Canon s) : Canon (setReplay s n u) := by
  unfold setReplay
  split
  · exact h.next rfl
  · exact h

theorem onUnit_canon {s : State} {n : Nat} {f : ReplayUnit → ReplayUnit} (h : Canon s) : Canon (onUnit s n f) :=
  setReplay_canon h

theorem engWords_canon {s : State} {u : EngUser} {va n : Nat} (h : Canon s) : AccCanon (engWords s u va n) := by
  unfold engWords
  refine AccCanon.bind (AccCanon.foldl h ?_) ?_
  · intro y a h'
    refine AccCanon.bind h' (fun t a' h2 => AccCanon.bind (engAccess_canon h2) (fun t' a2 h3 => ?_))
    exact placeRead_canon h3
  · intro t a h'
    exact AccCanon.ite h' h'

theorem rigPost_canon {s : State} {n : Nat} {w : Word} (h : Canon s) : Canon (rigPost s n w) :=
  Canon.ite (pushCompletion_canon h) (onUnit_canon h)

theorem loadEnd_canon {s : State} {n : Nat} (h : Canon s) : Canon (loadEnd s n) := by
  unfold loadEnd
  dsimp only
  split
  · exact h
  · split
    · exact h
    · split
      next x t e => exact h
      next x t c x' addr e => exact rigPost_canon (onUnit_canon (AccCanon.of_fault e (engWords_canon h)))
      next x t l e =>
        split
        · exact onUnit_canon (AccCanon.of_ok e (engWords_canon h))
        · split
          · exact rigPost_canon (onUnit_canon (AccCanon.of_ok e (engWords_canon h)))
          · split
            next x' t' e' => exact AccCanon.of_ok e (engWords_canon h)
            next x' t' c x2 addr e' =>
              exact rigPost_canon (onUnit_canon (AccCanon.of_fault e' (engWords_canon (AccCanon.of_ok e
                (engWords_canon h)))))
            next x' t' l' e' =>
              split
              · exact rigPost_canon (onUnit_canon (AccCanon.of_ok e' (engWords_canon (AccCanon.of_ok e
                  (engWords_canon h)))))
              · split
                · exact rigPost_canon (onUnit_canon (AccCanon.of_ok e' (engWords_canon (AccCanon.of_ok e
                    (engWords_canon h)))))
                · exact onUnit_canon (AccCanon.of_ok e' (engWords_canon (AccCanon.of_ok e (engWords_canon h))))

theorem onInst_canon {s : State} {n : Nat} {f : Instance → Instance} (h : Canon s) : Canon (onInst s n f) :=
  onUnit_canon h

theorem onStep_canon {s : State} {n k : Nat} {f : StepState → StepState} (h : Canon s) : Canon (onStep s n k f) :=
  onInst_canon h

theorem instEnd_canon {s : State} {n : Nat} (h : Canon s) : Canon (instEnd s n) := by
  unfold instEnd
  dsimp only
  split
  · exact h
  · split
    · exact rigPost_canon (eregSet_canon (onUnit_canon h))
    · exact eregSet_canon (onUnit_canon h)

theorem instAbort_canon {s : State} {n status : Nat} (h : Canon s) : Canon (instAbort s n status) := by
  unfold instAbort
  dsimp only
  split
  · exact h
  · exact instEnd_canon (onInst_canon (onUnit_canon h))

theorem instFault_canon {s : State} {n : Nat} {c : Cause} {reason : Nat} (h : Canon s) :
    Canon (instFault s n c reason) := Canon.ite (instAbort_canon (drawn_canon h)) (instAbort_canon h)

theorem playStart_canon {s : State} {n : Nat} {p : Play} (h : Canon s) : Canon (playStart s n p) := by
  unfold playStart
  refine eregSet_canon (Canon.foldl ?_ ?_)
  · exact Canon.ite (h.next rfl) h
  · intro t a h'
    exact eregSet_canon h'

theorem instStart_canon {s : State} {n : Nat} (h : Canon s) : Canon (instStart s n) := by
  unfold instStart
  dsimp only
  split
  · exact h
  · split
    · exact h
    · split
      · exact instEnd_canon (onInst_canon (setReplay_canon (playStart_canon h)))
      · split
        · exact instAbort_canon (eregSet_canon (setReplay_canon (playStart_canon h)))
        · exact eregSet_canon (setReplay_canon (playStart_canon h))

theorem stepEnd_canon {s : State} {n k : Nat} {phase : StepPhase} (h : Canon s) : Canon (stepEnd s n k phase) := by
  unfold stepEnd
  dsimp only
  split
  · exact onInst_canon (eregSet_canon (onStep_canon h))
  · exact eregSet_canon (onStep_canon h)

theorem chunkSector_canon {s : State} {n va : Nat} {need : Need} (h : Canon s) :
    AccCanon (chunkSector s n va need) := by
  unfold chunkSector
  split
  · exact h
  · refine AccCanon.bind (engAccess_canon h) (fun t a h' => ?_)
    dsimp only
    split
    · split
      · exact onInst_canon h'
      · exact onInst_canon h'
    · exact onInst_canon h'

theorem chunkRead_canon {s : State} {n : Nat} {vas : List Nat} (h : Canon s) : AccCanon (chunkRead s n vas) := by
  unfold chunkRead
  refine AccCanon.foldl h (fun y a h' => AccCanon.bind h' (fun t a' h2 => ?_))
  refine AccCanon.bind (chunkSector_canon h2) (fun t' a2 h3 => ?_)
  exact dpaRead_canon h3

theorem chunkMerge_canon {s : State} {n : Nat} {vas : List Nat} {f : List (Nat × Bool) → List (Nat × Bool)}
    (h : Canon s) : AccCanon (chunkMerge s n vas f) := by
  unfold chunkMerge
  refine AccCanon.bind (AccCanon.foldl h ?_) ?_
  · intro y a h'
    exact AccCanon.bind h' (fun t a' h2 => AccCanon.bind (chunkSector_canon h2) (fun t' a2 h3 => h3))
  · intro t a h'
    exact onInst_canon (Canon.foldl (flushSectors_canon h') fun t' a' h2 => stampEngine_canon (hbmWrite_canon h2))

theorem setStream_canon {s : State} {n src inst k left : Nat} {keep : Bool} (h : Canon s) :
    Canon (setStream s n src inst k left keep) := onUnit_canon h

theorem leadArrives_canon {s : State} {src addr lead : Nat} (h : Canon s) : OptCanon (leadArrives s src addr lead) := by
  unfold leadArrives
  dsimp only
  split
  · exact OptCanon.ite (optCanon_some h) optCanon_none
  · split
    · exact OptCanon.ite (optCanon_some (setStream_canon (onUnit_canon h))) optCanon_none
    · split
      · exact optCanon_some (setStream_canon (onUnit_canon h))
      · split
        · exact optCanon_none
        · split
          · exact optCanon_some (setStream_canon (onUnit_canon h))
          · split
            · exact optCanon_some (setStream_canon (onUnit_canon h))
            · split
              · exact optCanon_some (setStream_canon (onUnit_canon h))
              · split
                · exact optCanon_some (setStream_canon (onUnit_canon h))
                · exact optCanon_some (setStream_canon (onStep_canon h))

theorem dataArrives_canon {s : State} {src addr : Nat} {pay : List Sector} {psn : Nat} (h : Canon s) :
    Canon (dataArrives s src addr pay psn) := by
  unfold dataArrives
  split
  · exact h
  · split
    · exact h
    · dsimp only
      exact Canon.ite (setStream_canon h) (onStep_canon (setStream_canon h))

theorem sendContrib_canon {s : State} {n k : Nat} {p : Packet} (h : Canon s) : Canon (sendContrib s n k p) := by
  unfold sendContrib
  exact onStep_canon (enqueue_canon h)

theorem sendLead_canon {s : State} {n k : Nat} {u : ReplayUnit} {i : Instance} (h : Canon s) :
    Canon (sendLead s n k u i) := by
  unfold sendLead
  dsimp only
  split
  · split
    next x e => exact h
    next x t e => exact onStep_canon (OptCanon.of_some e (leadArrives_canon h))
  · exact sendContrib_canon (onStep_canon h)

theorem sendData_canon {s : State} {n k : Nat} {u : ReplayUnit} {i : Instance} {t : StepState} (h : Canon s) :
    Canon (sendData s n k u i t) := by
  unfold sendData
  dsimp only
  split
  next out t' e =>
    refine AccCanon.of_wait e (AccCanon.foldl h fun y a h' => AccCanon.bind h' (fun t2 a' h2 => ?_))
    exact AccCanon.bind (chunkRead_canon h2) (fun t3 a2 h3 => h3)
  next out t' c r addr e =>
    refine instFault_canon (AccCanon.of_fault e (AccCanon.foldl h fun y a h' => ?_))
    exact AccCanon.bind h' (fun t2 a' h2 => AccCanon.bind (chunkRead_canon h2) (fun t3 a2 h3 => h3))
  next out t' l e =>
    split
    · refine dataArrives_canon (onInst_canon (onStep_canon (AccCanon.of_ok e (AccCanon.foldl h fun y a h' => ?_))))
      exact AccCanon.bind h' (fun t2 a' h2 => AccCanon.bind (chunkRead_canon h2) (fun t3 a2 h3 => h3))
    · refine sendContrib_canon (onInst_canon (onStep_canon (AccCanon.of_ok e (AccCanon.foldl h fun y a h' => ?_))))
      exact AccCanon.bind h' (fun t2 a' h2 => AccCanon.bind (chunkRead_canon h2) (fun t3 a2 h3 => h3))

theorem sendRun_canon {s : State} {n k : Nat} (h : Canon s) : Canon (sendRun s n k) := by
  unfold sendRun
  dsimp only
  split
  · exact h
  · split
    · exact h
    · split
      · exact Canon.ite h (Canon.ite (instAbort_canon h) (Canon.ite h (sendLead_canon h)))
      · split
        · exact instAbort_canon h
        · exact Canon.ite (sendData_canon h) (Canon.ite (stepEnd_canon h) h)
      · exact h

theorem sendTimeout_canon {s : State} {n k : Nat} (h : Canon s) : Canon (sendTimeout s n k) := by
  unfold sendTimeout
  dsimp only
  split
  · exact h
  · split
    · split
      · split
        · exact instAbort_canon h
        · exact h
      · exact h
    · exact h

theorem markReady_canon {s : State} {n k : Nat} (h : Canon s) : Canon (markReady s n k) := by
  unfold markReady
  dsimp only
  split
  · exact h
  · split
    · split
      · exact onStep_canon h
      · exact h
    · exact h

theorem takeBitmap_canon {s : State} {n k : Nat} {t : StepState} (h : Canon s) : Canon (takeBitmap s n k t) := by
  unfold takeBitmap
  exact onUnit_canon h

theorem recvMerge_canon {s : State} {n k : Nat} (h : Canon s) : Canon (recvMerge s n k) := by
  unfold recvMerge
  dsimp only
  split
  · exact h
  · split
    · exact h
    · split
      · exact h
      · split
        · exact h
        · split
          next x t e => exact AccCanon.of_wait e (chunkMerge_canon h)
          next x t c r ad e => exact instFault_canon (AccCanon.of_fault e (chunkMerge_canon h))
          next x t a e => exact onStep_canon (AccCanon.of_ok e (chunkMerge_canon h))

theorem recvRun_canon {s : State} {n k : Nat} (h : Canon s) : Canon (recvRun s n k) := by
  unfold recvRun
  dsimp only
  split
  · exact markReady_canon h
  · split
    · exact markReady_canon h
    · split
      · exact stepEnd_canon (takeBitmap_canon (markReady_canon h))
      · exact recvMerge_canon (markReady_canon h)

theorem stepReleased_canon {s : State} {n k : Nat} (h : Canon s) : Canon (stepReleased s n k) := by
  unfold stepReleased
  dsimp only
  split
  · exact h
  · split
    · exact h
    · split
      · exact stepEnd_canon (onInst_canon (onUnit_canon h))
      · exact h

theorem recvTimeout_canon {s : State} {n k : Nat} (h : Canon s) : Canon (recvTimeout s n k) := by
  unfold recvTimeout
  dsimp only
  split
  · exact h
  · split
    · exact h
    · split
      · exact h
      · split
        · exact onStep_canon h
        · split
          · exact h
          · split
            next x t e => exact AccCanon.of_wait e (chunkMerge_canon h)
            next x t c r ad e => exact instFault_canon (AccCanon.of_fault e (chunkMerge_canon h))
            next x t a e =>
              exact stepEnd_canon (takeBitmap_canon (onInst_canon (AccCanon.of_ok e (chunkMerge_canon h))))

theorem finRun_canon {s : State} {n k : Nat} (h : Canon s) : Canon (finRun s n k) := by
  unfold finRun
  dsimp only
  split
  · exact h
  · split
    · exact h
    · refine Canon.ite h (Canon.ite (stepEnd_canon (onInst_canon h)) ?_)
      split
      next x t e => exact onStep_canon (AccCanon.of_wait e (chunkMerge_canon h))
      next x t c r ad e => exact instFault_canon (AccCanon.of_fault e (chunkMerge_canon h))
      next x t a e => exact onStep_canon (AccCanon.of_ok e (chunkMerge_canon h))

theorem nopRun_canon {s : State} {n k : Nat} (h : Canon s) : Canon (nopRun s n k) := by
  unfold nopRun
  dsimp only
  split
  · exact h
  · split
    · split
      · exact stepEnd_canon h
      · exact h
    · exact h

theorem stepRun_canon {s : State} {n k : Nat} (h : Canon s) : Canon (stepRun s n k) := by
  unfold stepRun
  dsimp only
  split
  · exact sendTimeout_canon (sendRun_canon h)
  · split
    · exact recvTimeout_canon (stepReleased_canon (recvRun_canon h))
    · exact Canon.ite (finRun_canon h) (nopRun_canon h)

theorem instFinish_canon {s : State} {n : Nat} (h : Canon s) : Canon (instFinish s n) := by
  unfold instFinish
  split
  · split
    · exact instEnd_canon h
    · exact h
  · exact h

theorem ackRig_canon {s : State} {src sseq : Nat} (h : Canon s) : Canon (ackRig s src sseq) :=
  Canon.foldl h (fun _ _ h' => onUnit_canon h')

theorem readRecords_canon {s : State} {u : EngUser} {pages : List HeldPage} {va n : Nat} (h : Canon s) :
    AccCanon (readRecords s u pages va n) := by
  induction n generalizing s pages va with
  | zero => exact h
  | succ n ih =>
    refine AccCanon.bind (engAccess_canon h) (fun s1 q h1 => AccCanon.bind (engAccess_canon (placeRead_canon h1))
      (fun s2 q2 h2 => AccCanon.bind (ih (placeRead_canon h2)) (fun s3 r h3 => ?_)))
    exact h3

theorem writeRecord_canon {s : State} {u : EngUser} {va v : Nat} {p : Bool × Bool} (h : Canon s) :
    AccCanon (writeRecord s u va v p) := by
  unfold writeRecord
  refine AccCanon.bind (engAccess_canon h) (fun t a h' => AccCanon.bind (engAccess_canon h') (fun t' a' h2 => ?_))
  exact placeWrite_canon (placeWrite_canon h2)

theorem onResh_canon {s : State} {n : Nat} {f : Reshelve → Reshelve} (h : Canon s) : Canon (onResh s n f) :=
  onUnit_canon h

theorem reshEnd_canon {s : State} {n status : Nat} (h : Canon s) : Canon (reshEnd s n status) := by
  unfold reshEnd
  dsimp only
  split
  · exact h
  · split
    · exact rigPost_canon (onUnit_canon h)
    · exact onUnit_canon h

theorem dropImage_canon {s : State} {n : Nat} (h : Canon s) : Canon (dropImage s n) := onUnit_canon h

theorem reshRead_canon {s : State} {n : Nat} (h : Canon s) : Canon (reshRead s n) := by
  unfold reshRead
  split
  · exact h
  · refine Canon.ite h ?_
    split
    next x t e => exact h
    next x t c x' addr e => exact reshEnd_canon (dropImage_canon (AccCanon.of_fault e (engWords_canon h)))
    next x t d e =>
      have hd : Canon (if dCont d = true then t else dropImage t n) :=
        Canon.ite (AccCanon.of_ok e (engWords_canon h)) (dropImage_canon (AccCanon.of_ok e (engWords_canon h)))
      exact Canon.ite (reshEnd_canon (onResh_canon hd)) (Canon.when (onResh_canon hd) (fun ht => reshEnd_canon ht))

theorem reshBroadcast_canon {s : State} {r : Reshelve} {l : List (Nat × Nat)} (h : Canon s) :
    Canon (reshBroadcast s r l) := Canon.foldl h (fun _ _ h' => Canon.foldl h' (fun _ _ h2 => enqueue_canon h2))

theorem reshCount_canon {s : State} {n : Nat} (h : Canon s) : Canon (reshCount s n) := by
  unfold reshCount
  dsimp only
  split
  · exact h
  · split
    · exact h
    · split
      next x t e => exact AccCanon.of_wait e (readRecords_canon h)
      next x t c x' addr e => exact reshEnd_canon (AccCanon.of_fault e (readRecords_canon h))
      next x t x' recs e => exact reshBroadcast_canon (onResh_canon (AccCanon.of_ok e (readRecords_canon h)))

theorem placeRecord_canon {s : State} {n : Nat} {r : Reshelve} {idx dst pos v : Nat} {p : Bool × Bool} (h : Canon s) :
    AccCanon (placeRecord s n r idx dst pos v p) := by
  unfold placeRecord
  split
  · exact onResh_canon h
  · split
    · exact AccCanon.bind (writeRecord_canon h) (fun t a h' => onResh_canon h')
    · dsimp only
      exact onResh_canon (enqueue_canon h)

theorem moveRecords_canon {n : Nat} {r : Reshelve} {ranks members : List Nat} {va : Nat} {s : State}
    {l : List (Nat × (Bool × Bool))} {idx : Nat} {next : List Nat} (h : Canon s) :
    AccCanon (moveRecords n r ranks members va s l idx next) := by
  induction l generalizing s idx next with
  | nil => exact h
  | cons e l ih =>
    exact AccCanon.bind (AccCanon.bind (AccCanon.ite (writeRecord_canon h) h) (fun t _ ht => placeRecord_canon ht))
      (fun t _ ht => ih ht)

theorem reshStartMove_canon {s : State} {n : Nat} (h : Canon s) : Canon (reshStartMove s n) := by
  unfold reshStartMove
  dsimp only
  split
  · exact h
  · split
    · exact h
    · split
      next out t a e =>
        refine AccCanon.of_ok e (AccCanon.bind (readRecords_canon (onResh_canon (onUnit_canon h))) fun t' a' h' => ?_)
        exact moveRecords_canon h'
      next out t c x addr e =>
        refine reshEnd_canon (AccCanon.of_fault e (AccCanon.bind (readRecords_canon (onResh_canon (onUnit_canon
          h))) ?_))
        intro t' a h'
        exact moveRecords_canon h'
      next out t e => exact h

theorem keepOverflow_canon {s : State} {n : Nat} {r : Reshelve} {idxs : List Nat} (h : Canon s) :
    AccCanon (keepOverflow s n r idxs) := by
  unfold keepOverflow
  refine AccCanon.bind (AccCanon.foldl h ?_) ?_
  · intro y a h'
    exact AccCanon.bind h' (fun t a' h2 => AccCanon.bind (readRecords_canon h2) (fun t' a2 h3 => h3))
  · intro t a h'
    exact AccCanon.foldl h' (fun y a' h2 => AccCanon.bind h2 (fun t' a2 h3 => writeRecord_canon h3))

theorem reshFinish_canon {s : State} {n status : Nat} (h : Canon s) : Canon (reshFinish s n status) := by
  unfold reshFinish
  split
  · exact h
  · dsimp only
    split
    next out t a e => exact reshEnd_canon (onUnit_canon (onResh_canon (AccCanon.of_ok e (keepOverflow_canon h))))
    next out t c x addr e => exact reshEnd_canon (AccCanon.of_fault e (keepOverflow_canon h))
    next out t e => exact h

theorem reshMoveDone_canon {s : State} {n : Nat} (h : Canon s) : Canon (reshMoveDone s n) := by
  unfold reshMoveDone
  split
  · split
    · exact reshFinish_canon h
    · exact h
  · exact h

theorem reshTimeout_canon {s : State} {n : Nat} (h : Canon s) : Canon (reshTimeout s n) := by
  unfold reshTimeout
  split
  · split
    · exact h
    · split
      · exact reshEnd_canon h
      · split
        · exact reshFinish_canon h
        · exact h
  · exact h

theorem histArrives_canon {s : State} {src addr : Nat} {pay : List Sector} (h : Canon s) :
    OptCanon (histArrives s src addr pay) := by
  unfold histArrives
  split
  · exact optCanon_none
  · dsimp only
    exact OptCanon.ite optCanon_none (optCanon_some (onResh_canon h))

theorem recordArrives_canon {s : State} {addr : Nat} {pay : List Sector} {psn : Nat} (h : Canon s) :
    OptCanon (recordArrives s addr pay psn) := by
  unfold recordArrives
  split
  · exact optCanon_some h
  · split
    · exact optCanon_some h
    · split
      · exact optCanon_none
      · dsimp only
        split
        next out t a e => exact optCanon_some (onResh_canon (AccCanon.of_ok e (writeRecord_canon h)))
        next out t c x addr' e => exact optCanon_some (reshEnd_canon (AccCanon.of_fault e (writeRecord_canon h)))
        next out t e => exact optCanon_none

theorem reshClock_canon {s : State} {n : Nat} (h : Canon s) : Canon (reshClock s n) :=
  reshTimeout_canon (reshMoveDone_canon (reshStartMove_canon (reshCount_canon (reshRead_canon h))))

theorem replayMerges_canon {s : State} {n : Nat} (h : Canon s) : Canon (replayMerges s n) :=
  Canon.foldl h (fun _ _ h' => Canon.ite (recvMerge_canon h') h')

end Sys2Proof.Machine
end

section
/-!
SUPPORT. Packets, control registers and synchronisation keep every memory canonical (sections Packets to Sync of the model).
-/
namespace Sys2Proof.Machine
open Sys2Proof
set_option Elab.async false -- proofs one at a time: the check of the whole text is near its memory limit

theorem replayClock_canon {s : State} {n : Nat} (h : Canon s) : Canon (replayClock s n) := by
  unfold replayClock
  dsimp only
  split
  · exact Canon.ite (pushCompletion_canon (onUnit_canon h)) h
  · split
    · exact reshClock_canon (instStart_canon (loadEnd_canon h))
    · refine instFinish_canon (Canon.foldl (reshClock_canon (instStart_canon (loadEnd_canon h))) fun t a h' => ?_)
      exact stepRun_canon h'

theorem mult64_canon {s : State} {a : XReg} {space : Nat} {k : State → Nat → Eff} (h : Canon s)
    (hk : ∀ t a', Canon t → EffCanon (k t a')) : EffCanon (mult64 s a space k) := EffCanon.ite h (hk _ _ h)

theorem execRgload_canon {a : XReg} {n : Fin 4} {s : State} (h : Canon s) : OutCanon (execRgload a n s) := by
  unfold execRgload
  refine syl_canon h (fun t h' => mult64_canon h' (fun t' a' h2 => ?_))
  exact onUnit_canon h2

theorem execRgplay_canon {d a b : XReg} {n : Fin 4} {s : State} (h : Canon s) : OutCanon (execRgplay d a b n s) := by
  unfold execRgplay
  refine syl_canon h (fun t h' => guardPush_canon h' (mult64_canon h' fun t' a' h2 => ?_))
  dsimp only
  split
  · exact badOperand_canon h2
  · split
    next x t2 c r ad e => exact AccCanon.of_fault e (coreCheck_canon h2)
    next x t2 e => exact AccCanon.of_wait e (coreCheck_canon h2)
    next x t2 a2 e =>
      exact pendX_canon (spoil_canon (onUnit_canon (placeRead_canon (AccCanon.of_ok e (coreCheck_canon h2)))))

theorem execRgwait_canon {d : XReg} {n : Fin 4} {s : State} (h : Canon s) : OutCanon (execRgwait d n s) := by
  unfold execRgwait
  refine syl_canon h (fun t h' => guardPush_canon h' ?_)
  split
  · exact pendX_canon h'
  · exact waitFor_canon h'

theorem execRgfree_canon {n : Fin 4} {s : State} (h : Canon s) : OutCanon (execRgfree n s) := by
  unfold execRgfree
  refine syl_canon h (fun t h' => ?_)
  split
  · exact onUnit_canon h'
  · exact waitFor_canon h'

theorem execRgstat_canon {d a : XReg} {n : Fin 4} {s : State} (h : Canon s) : OutCanon (execRgstat d a n s) := by
  unfold execRgstat
  refine syl_canon h (fun t h' => guardPush_canon h' ?_)
  split
  · exact pendX_canon h'
  · exact badOperand_canon h'

theorem execReshelve_canon {a : XReg} {n : Fin 4} {s : State} (h : Canon s) : OutCanon (execReshelve a n s) := by
  unfold execReshelve
  refine syl_canon h (fun t h' => mult64_canon h' (fun t' a' h2 => ?_))
  exact spoil_canon (onUnit_canon h2)

theorem takeFields_canon {s : State} {dim plane peer h' : Nat} (h : Canon s) : Canon (takeFields s dim plane peer h') :=
  Canon.ite (replayLink_canon (setLink_canon (h.next rfl))) (setLink_canon (h.next rfl))

theorem takeCredits_canon {s : State} {dim plane peer h' : Nat} (h : Canon s) :
    Canon (takeCredits s dim plane peer h') := setCtrl_canon (setLink_canon h)

theorem returnNow_canon {s : State} {dim plane peer : Nat} {p : Packet} (h : Canon s) :
    Canon (returnNow s dim plane peer p) := by
  unfold returnNow
  split
  · dsimp only
    exact setLink_canon h
  · split
    · dsimp only
      exact setCtrl_canon h
    · exact h

theorem acceptPacket_canon {s : State} {dim plane peer : Nat} {p : Packet} (h : Canon s) :
    OptCanon (acceptPacket s dim plane peer p) := by
  unfold acceptPacket
  dsimp only
  split
  · exact optCanon_some (returnNow_canon h)
  · split
    · exact OptCanon.ite optCanon_none (optCanon_some (h.next rfl))
    · exact OptCanon.ite optCanon_none (optCanon_some (h.next rfl))

theorem takeAck_canon {s : State} {p : Packet} (h : Canon s) : Canon (takeAck s p) := by
  unfold takeAck
  split
  · split
    · exact ackRig_canon h
    · exact ackStream_canon h
  · split
    · exact h.next rfl
    · exact h

theorem receivePacket_canon {s : State} {dim plane peer h' : Nat} {pay : List Sector} (h : Canon s) :
    Canon (receivePacket s dim plane peer h' pay) := by
  unfold receivePacket
  split
  · exact h
  · dsimp only
    split
    · exact setLink_canon h
    · split
      · exact h.next rfl
      · split
        · exact setLink_canon (takeFields_canon h)
        · split
          · exact takeCredits_canon (setLink_canon (takeFields_canon h))
          · split
            · exact takeAck_canon (takeCredits_canon (setLink_canon (takeFields_canon h)))
            · exact OptCanon.getD (acceptPacket_canon (takeCredits_canon (setLink_canon (takeFields_canon h))))
                (takeFields_canon h)

theorem relayOne_canon {s : State} (h : Canon s) : Canon (relayOne s) := by
  unfold relayOne
  split
  · exact h
  · split
    · exact returnEntry_canon h
    · exact Canon.ite (returnEntry_canon h) (returnEntry_canon (h.next rfl))

theorem clearReject_canon {s : State} {p : Packet} (h : Canon s) : Canon (clearReject s p) := h.next rfl

theorem noteReject_canon {s : State} {p : Packet} (h : Canon s) : Canon (noteReject s p) :=
  Canon.ite (clearReject_canon h) (h.next rfl)

theorem respond_canon {s : State} {p : Packet} {status : Nat} {l : List (Nat × Bool)} (h : Canon s) :
    Canon (respond s p status l) := enqueue_canon h

theorem takeResponse_canon {s : State} {p : Packet} (h : Canon s) : AccCanon (takeResponse s p) := by
  unfold takeResponse
  dsimp only
  split
  · split
    · exact ackStream_canon h
    · exact AccCanon.bind (writeLocal_canon h) (fun t a h' => onFab_canon h')
  · split
    · exact h
    · split
      · exact dropExpired_canon h
      · split
        next x t e => exact AccCanon.of_wait e (writeSectors_canon h)
        next x t a e => exact dropExpired_canon (AccCanon.of_ok e (writeSectors_canon h))
        next x t c x' addr e => exact dropExpired_canon (AccCanon.of_fault e (writeSectors_canon h))

theorem takeProposal_canon {s : State} {p : Packet} (h : Canon s) : Canon (takeProposal s p) :=
  Canon.ite h (Canon.when (setUnit_canon (Canon.when h (fun ht => setTutstat_canon ht))) (fun ht => sendControl_canon ht))

theorem takeProposalAck_canon {s : State} {p : Packet} (h : Canon s) : Canon (takeProposalAck s p) := by
  unfold takeProposalAck
  dsimp only
  split
  · split
    · exact setUnit_canon h
    · exact h
  · exact h

theorem peerLaunch_canon {s : State} {src lnum : Nat} {w : List Nat} (h : Canon s) :
    Canon (peerLaunch s src lnum w) := submit_canon h

theorem tellMembers_canon {s : State} {kind lnum arg : Nat} (h : Canon s) : Canon (tellMembers s kind lnum arg) :=
  Canon.foldl h (fun _ _ h' => sendControl_canon h')

theorem sendNotices_canon {s : State} (h : Canon s) : Canon (sendNotices s) :=
  Canon.foldl (h.next rfl) (fun _ _ h' => tellMembers_canon h')

theorem launchAnswer_canon {s : State} {p : Packet} (h : Canon s) : Canon (launchAnswer s p) := by
  unfold launchAnswer
  dsimp only
  split
  · split
    · exact updLaunch_canon h
    · split
      · exact abortLaunch_canon (updLaunch_canon h)
      · split
        · exact makeResident_canon (tellMembers_canon (updLaunch_canon h))
        · exact updLaunch_canon h
  · exact updLaunch_canon h

theorem launchVerdict_canon {s : State} {p : Packet} (h : Canon s) : Canon (launchVerdict s p) := by
  unfold launchVerdict
  split
  · split
    · exact h
    · exact makeResident_canon (updLaunch_canon h)
  · exact h

theorem memberArrival_canon {s : State} {p : Packet} {kind : Nat} (h : Canon s) : Canon (memberArrival s p kind) :=
  Canon.ite (updNode_canon h) (updNode_canon h)

theorem takeControl_canon {s : State} {p : Packet} (h : Canon s) : Canon (takeControl s p) := by
  unfold takeControl
  dsimp only
  split
  · exact peerLaunch_canon h
  · split
    · exact launchAnswer_canon h
    · split
      · exact memberArrival_canon h
      · split
        · exact takeProposal_canon h
        · split
          · exact takeProposalAck_canon h
          · split
            · exact launchVerdict_canon h
            · split
              · exact replayHere_canon h
              · exact Canon.ite (abortHere_canon h) (Canon.ite (conflictHere_canon h) h)

theorem performPacket_canon {s : State} {p : Packet} (h : Canon s) : AccCanon (performPacket s p) := by
  have hs : Canon (if ofCommand p then clearReject s p else s) := Canon.ite (clearReject_canon h) h
  have hout : ∀ r : Option State, OptCanon r →
      AccCanon (match r with | some s => Acc.ok s () | none => .wait s) := by
    intro r hr
    cases r with
    | none => exact h
    | some t => exact hr t rfl
  have hsettle : ∀ x : Acc Unit, AccCanon x → AccCanon (match x with
      | .ok s _ => Acc.ok (sendAck s p 0) ()
      | .fault s c _ _ => .ok (sendAck (noteReject s p) p c.code) ()
      | .wait s => .wait s) := by
    intro x hx
    cases x with
    | ok t a => exact sendAck_canon hx
    | fault t c r a => exact sendAck_canon (noteReject_canon hx)
    | wait t => exact hx
  unfold performPacket
  refine AccCanon.ite (noteReject_canon h) (AccCanon.ite
    (AccCanon.ite (acceptSc_canon hs) (hsettle _ (writePacket_canon hs)))
    (AccCanon.ite (AccCanon.ite hs ?_) (AccCanon.ite (takeResponse_canon hs) (AccCanon.ite (AccCanon.ite hs ?_)
      (AccCanon.ite (acceptSc_canon hs) (AccCanon.ite (scAnswer_canon hs) (AccCanon.ite (hsettle _ (sendPacketIn_canon hs))
        (AccCanon.ite (hs.next rfl) (AccCanon.ite (hout _ ?_) (AccCanon.ite (takeControl_canon hs) hs))))))))))
  · split
    next t l e => exact respond_canon (AccCanon.of_ok e (readPacket_canon hs))
    next t c r a e => exact respond_canon (noteReject_canon (AccCanon.of_fault e (readPacket_canon hs)))
    next t e => exact AccCanon.of_wait e (readPacket_canon hs)
  · exact sendAck_canon (applySignal_canon hs)
  · refine OptCanon.map (OptCanon.ite (histArrives_canon hs) (OptCanon.ite (recordArrives_canon hs)
      (OptCanon.ite (leadArrives_canon hs) (optCanon_some (dataArrives_canon hs))))) (fun t ht => sendAck_canon ht)

theorem performFirst_canon {s : State} {l : List RxEntry} (h : Canon s) : AccCanon (performFirst s l) := by
  induction l generalizing s with
  | nil => exact h
  | cons e l ih =>
    unfold performFirst
    refine AccCanon.ite ?_ (ih h)
    have hout : AccCanon (match bankTurn s 72 (arrivalSides s e.pkt) with
        | some s => performPacket s e.pkt | none => .wait s) := by
      split
      next t et => exact performPacket_canon (OptCanon.of_some et (bankTurn_canon h))
      · exact h
    split
    next t a et => exact returnEntry_canon ((AccCanon.of_ok et hout).next rfl)
    next t c r d et => exact returnEntry_canon ((AccCanon.of_fault et hout).next rfl)
    next t et => exact ih (AccCanon.of_wait et hout)

theorem dropDuplicates_canon {s : State} (h : Canon s) : Canon (dropDuplicates s) :=
  Canon.foldl h (fun _ _ h' => returnEntry_canon h')

theorem performOne_canon {s : State} (h : Canon s) : Canon (performOne s) := by
  unfold performOne
  refine dropDuplicates_canon ?_
  split
  next x t a e => exact AccCanon.of_ok e (performFirst_canon h)
  next x t e => exact AccCanon.of_wait e (performFirst_canon h)
  next x t c r ad e => exact AccCanon.of_fault e (performFirst_canon h)

theorem performAll_canon {fuel : Nat} {s : State} (h : Canon s) : Canon (performAll fuel s) := by
  induction fuel generalizing s with
  | zero => exact h
  | succ fuel ih =>
    unfold performAll
    split
    next t a e => exact ih (AccCanon.of_ok e (performFirst_canon h))
    next t c r d e => exact ih (AccCanon.of_fault e (performFirst_canon h))
    next t e => exact AccCanon.of_wait e (performFirst_canon h)

theorem receiveClock_canon {s : State} (h : Canon s) : Canon (receiveClock s) := by
  unfold receiveClock
  split
  · exact h
  · exact Canon.foldl (dropDuplicates_canon (performAll_canon h)) (fun t a h' => relayOne_canon h')

theorem afterSyllable_canon {s : State} {k : State → CodeAddr → Bool → Nat → Nat → State} (h : Canon s)
    (hk : ∀ t a b c d, Canon t → Canon (k t a b c d)) :
    Canon (afterSyllable s k) := Canon.ite (hk _ _ _ _ _ (commit_canon h)) (hk _ _ _ _ _ (commit_canon h))

theorem breakWith_canon {s : State} {detail : Nat} (h : Canon s) : Canon (breakWith s detail) := by
  unfold breakWith
  exact afterSyllable_canon h (fun t a b c d h' => takeTrap_canon h')

theorem breakpoint_canon {s : State} {detail : Nat} (h : Canon s) : EffCanon (breakpoint s detail) := by
  unfold breakpoint
  split
  · exact afterSyllable_canon h (fun t a b c d h' => haltCore_canon h')
  · exact breakWith_canon h

theorem execTrap_canon {n : BitVec 7} {s : State} (h : Canon s) : OutCanon (execTrap n s) :=
  syl_canon h (fun _ h' => breakpoint_canon h')

theorem execBrk_canon {n : BitVec 7} {s : State} (h : Canon s) : OutCanon (execBrk n s) :=
  syl_canon h (fun _ h' => breakpoint_canon h')

theorem execHalt_canon {s : State} (h : Canon s) : OutCanon (execHalt s) := by
  unfold execHalt
  refine syl_canon h (fun t h' => ?_)
  split
  · exact afterSyllable_canon h' (fun t' a b c d h2 => haltCore_canon h2)
  · exact breakWith_canon h'

theorem execRft_canon {s : State} (h : Canon s) : OutCanon (execRft s) :=
  syl_canon h (fun _ h' => returnFromTrap_canon h')

theorem execRftAbort_canon {s : State} (h : Canon s) : OutCanon (execRftAbort s) :=
  syl_canon h (fun _ h' => abortCore_canon (returnFromTrap_canon h'))

theorem execRftReplay_canon {s : State} (h : Canon s) : OutCanon (execRftReplay s) := by
  unfold execRftReplay
  refine syl_canon h (fun t h' => ?_)
  split
  · exact nodeReplay_canon (returnFromTrap_canon h')
  · exact returnFromTrap_canon h'

theorem csrWrite_canon {s : State} {n : Nat} {v : Word} (h : Canon s) : Canon (csrWrite s n v) := by
  unfold csrWrite
  refine Canon.ite (onCore_canon h rfl) (Canon.ite (onCore_canon h rfl) (Canon.ite (onCore_canon h rfl) ?_))
  by_cases hq : 0x10 ≤ n ∧ n ≤ 0x13
  · rw [dif_pos hq]
    exact onCore_canon h rfl
  rw [dif_neg hq]
  refine Canon.ite (onCore_canon h rfl) (Canon.ite (onCore_canon h rfl) (Canon.ite (onCore_canon h rfl)
    (Canon.ite (onCore_canon h rfl) (Canon.ite (onCore_canon h rfl) (Canon.ite (onCore_canon h rfl)
      (Canon.ite (onCore_canon h rfl) (Canon.ite (onCore_canon h rfl) (Canon.ite (onCore_canon h rfl) ?_))))))))
  exact Canon.ite (Canon.ite (enableRing_canon h) (disableRing_canon h)) (Canon.ite (fabricCsrWrite_canon h) h)

theorem execCsrr_canon {d : XReg} {n : BitVec 11} {s : State} (h : Canon s) : OutCanon (execCsrr d n s) :=
  syl_canon h (fun _ h' => guardPush_canon h' (exposeX_canon h'))

theorem execCsrw_canon {a : XReg} {n : BitVec 11} {s : State} (h : Canon s) : OutCanon (execCsrw a n s) :=
  syl_canon h (fun _ h' => csrWrite_canon h')

theorem execQmap_canon {d a : XReg} {n : Fin 4} {s : State} (h : Canon s) : OutCanon (execQmap d a n s) := by
  unfold execQmap
  refine syl_canon h (fun t h' => guardPush_canon h' ?_)
  exact onCore_canon (exposeX_canon h') rfl

theorem execEnv_canon {e : BitVec 21} {s : State} (h : Canon s) : OutCanon (execEnv e s) := by
  unfold execEnv
  refine syl_canon h (fun t h' => ?_)
  split
  · exact h'
  · dsimp only
    exact onCore_canon h' rfl

theorem execEnvc_canon {s : State} (h : Canon s) : OutCanon (execEnvc s) := by
  unfold execEnvc
  refine syl_canon h (fun t h' => ?_)
  dsimp only
  split
  · exact h'
  · split
    · exact h'
    · split
      · exact h'
      · exact onCore_canon h' rfl

theorem execXlinv_canon {d a : XReg} {k : BitVec 2} {s : State} (h : Canon s) : OutCanon (execXlinv d a k s) := by
  unfold execXlinv
  refine syl_canon h (fun t h' => guardPush_canon h' ?_)
  dsimp only
  split
  next x t' d' e => exact onCore_canon (pend_canon (Canon.of_mk e (lateDest_canon (h'.next rfl)))) rfl
  next x t' e => exact onCore_canon (Canon.of_mk e (lateDest_canon (h'.next rfl))) rfl

theorem execXlwait_canon {s : State} (h : Canon s) : OutCanon (execXlwait s) := by
  unfold execXlwait
  refine syl_canon h (fun t h' => ?_)
  split
  · exact h'
  · exact waitFor_canon h'

theorem poisonGm_canon {s : State} {d : Nat} (h : Canon s) : Canon (poisonGm s d) := by
  have hl : Canon (l2Flush s (d / 128)) := l2Flush_canon h
  refine { hl with hbm := Mem.wf_markSector hl.hbm _ _, msc := ?_ }
  unfold poisonGm
  dsimp only
  split
  · exact Mem.wf_markSector hl.msc _ _
  · exact hl.msc

theorem execTinj_canon {a : XReg} {e k : BitVec 2} {s : State} (h : Canon s) : OutCanon (execTinj a e k s) := by
  unfold execTinj
  refine syl_canon h (fun t h' => ?_)
  dsimp only
  split
  · split
    next x t' runs e' =>
      split
      · exact poisonGm_canon (AccCanon.of_ok e' (gmCheck_canon h'))
      · exact AccCanon.of_ok e' (gmCheck_canon h')
    next x t' a' e' e2 => exact AccCanon.of_ok e2 (gmCheck_canon h')
    next x t' e' => exact AccCanon.of_wait e' (gmCheck_canon h')
    next x t' c r ad e' => exact AccCanon.of_fault e' (gmCheck_canon h')
  · split
    · exact onCore_canon h' rfl
    · exact linjStore_canon h'

theorem sleepLayers_canon {s : State} {lv : Nat} (h : Canon s) : Canon (sleepLayers s lv) := by
  refine { h with bstore := ?_ }
  unfold sleepLayers
  simp only [onCore_core]
  split
  · exact Mem.wf_empty
  · exact h.bstore

theorem wakeLayers_canon {s : State} (h : Canon s) : Canon (wakeLayers s) := onCore_canon h rfl

theorem wakeCut_canon {s : State} (h : Canon s) : Canon (wakeCut s) := Canon.ite h (wakeLayers_canon h)

theorem sleepRun_canon {l : BitVec 2} {limit : Nat} {s : State} (h : Canon s) : EffCanon (sleepRun l limit s) := by
  unfold sleepRun
  split
  · exact EffCanon.ite (onCore_canon (sleepLayers_canon h) rfl) h
  · exact EffCanon.ite (sleepLayers_canon h) (wakeLayers_canon h)

theorem execSleep_canon {a : XReg} {l : BitVec 2} {s : State} (h : Canon s) : OutCanon (execSleep a l s) :=
  syl_canon h (fun _ h' => sleepRun_canon h')

theorem execBar_canon {c : Scope} {b : Fin 16} {s : State} (h : Canon s) : OutCanon (execBar c b s) := by
  unfold execBar
  refine syl_canon h (fun t h' => ?_)
  split
  · exact h'
  · split
    · exact h'
    · split
      · exact waitFor_canon h'
      · split
        · exact waitFor_canon h'
        · split
          · exact h'
          · exact waitFor_canon (arriveAt_canon h')

theorem askTickets_canon {s : State} {steal : Bool} {k : Nat} (h : Canon s) : OptCanonFst (askTickets s steal k) := by
  unfold askTickets
  split
  · exact optCanonFst_none
  · split
    · exact optCanonFst_none
    · split
      · exact optCanonFst_none
      · refine optCanonFst_map (fun a => ?_)
        dsimp only
        exact updNode_canon h

theorem taskInPlace_canon {s : State} {ticket count : Nat} (h : Canon s) : Canon (taskInPlace s ticket count) := by
  unfold taskInPlace
  exact onCore_canon (freshTag_canon h) rfl

theorem ticketResult_canon {s : State} {d : XReg} {steal : Bool} {k : Nat} {word : Nat → Nat → Nat} (h : Canon s) :
    EffCanon (ticketResult s d steal k word) := by
  unfold ticketResult
  split
  next x t t' c x' e => exact taskInPlace_canon (pendX_canon (OptCanonFst.of_some e (askTickets_canon h)))
  next x e => exact pendX_canon h

theorem execTkt_canon {d : XReg} {c : Scope} {s : State} (h : Canon s) : OutCanon (execTkt d c s) :=
  syl_canon h (fun _ h' => guardPush_canon h' (ticketResult_canon h'))

theorem execTktn_canon {d a : XReg} {c : Scope} {s : State} (h : Canon s) : OutCanon (execTktn d a c s) := by
  unfold execTktn
  refine syl_canon h (fun t h' => ?_)
  dsimp only
  split
  · exact badOperand_canon h'
  · exact guardPush_canon h' (ticketResult_canon h')

theorem execLaunch_canon {d a : XReg} {s : State} (h : Canon s) : OutCanon (execLaunch d a s) := by
  refine syl_canon h (fun t ht => guardPush_canon ht (mult64_canon ht (fun u v hu => ?_)))
  split
  · exact hu
  next r e =>
    exact pendX_canon (spoil_canon (OptCanonFst.of_some_fst e (OptCanonFst.of_bind (fun _ => submitWords_canon hu))))

theorem execLwait_canon {d a : XReg} {s : State} (h : Canon s) : OutCanon (execLwait d a s) := by
  unfold execLwait
  refine syl_canon h (fun t h' => guardPush_canon h' ?_)
  dsimp only
  split
  · exact pendX_canon h'
  · split
    · exact pendX_canon h'
    · split
      · exact pendX_canon h'
      · exact waitFor_canon h'

theorem execEta_canon {a : XReg} {s : State} (h : Canon s) : OutCanon (execEta a s) :=
  syl_canon h (fun _ h' => onTask_canon h')

theorem execPrio_canon {a : XReg} {q : Fin 16} {s : State} (h : Canon s) : OutCanon (execPrio a q s) := by
  unfold execPrio
  refine syl_canon h (fun t h' => ?_)
  dsimp only
  split
  · exact badOperand_canon h'
  · split
    · exact drawn_canon h'
    · exact hubSet_canon h'

theorem endWith_canon {s : State} {slots : Nat} (h : Canon s) : EffCanon (endWith s slots) := by
  unfold endWith
  split
  · exact waitFor_canon h
  · split
    · split
      · exact endExchange_canon h
      · exact endTile_canon h
    · exact idleCore_canon h

theorem execEndt_canon {s : State} (h : Canon s) : OutCanon (execEndt s) := by
  unfold execEndt
  refine syl_canon h (fun t h' => ?_)
  split
  · exact h'
  · exact endWith_canon h'

theorem execSsend_canon {a : XReg} {s : State} (h : Canon s) : OutCanon (execSsend a s) := by
  unfold execSsend
  refine syl_canon h (fun t h' => ?_)
  dsimp only
  split
  · exact badOperand_canon h'
  · split
    · exact h'
    · exact endWith_canon h'

theorem execNodeid_canon {d : XReg} {e : BitVec 3} {s : State} (h : Canon s) : OutCanon (execNodeid d e s) :=
  syl_canon h (fun _ h' => guardPush_canon h' (exposeX_canon h'))

theorem execTileid_canon {d : XReg} {e : BitVec 3} {s : State} (h : Canon s) : OutCanon (execTileid d e s) :=
  syl_canon h (fun _ h' => guardPush_canon h' (exposeX_canon h'))

theorem fileOwned_canon {s : State} {i : Instr} {e : Eff} (h : Canon s) (he : fileOwned s i = some e) : EffCanon e := by
  unfold fileOwned at he
  dsimp only at he
  split at he
  · obtain rfl := Option.some.inj he
    exact h
  · exact absurd he.symm (Option.some_ne_none e)

end Sys2Proof.Machine
end

section
/-!
SUPPORT. Vector, statistics and matrix syllables keep every memory canonical (sections Vector to Matrix of the model).
-/
namespace Sys2Proof.Machine
open Sys2Proof
set_option Elab.async false -- proofs one at a time: the check of the whole text is near its memory limit

theorem vsyl_canon {i : Instr} {s : State} {body : State → Eff} (h : Canon s)
    (hbody : ∀ t, Canon t → EffCanon (body t)) : OutCanon (vsyl i s body) :=
  sylPre_canon h (fun _ _ ht he => fileOwned_canon ht he) hbody

theorem vrOp_canon {i : Instr} {t : ElemTy} {d : VReg} {k : Bool} {lat : Nat} {s : State}
    {f : State → Nat → Nat × Bool} (h : Canon s) : OutCanon (vrOp i t d k lat s f) := by
  unfold vrOp
  refine vsyl_canon h (fun t' h' => ?_)
  exact exposeVec_canon h'

theorem wideResult_canon {s : State} {t : ElemTy} {d : VReg} {r : Nat} {k : Bool} {lat : Nat} {f : Nat → Nat × Bool}
    (h : Canon s) : Canon (wideResult s t d r k lat f) := by
  unfold wideResult
  refine Canon.foldl h (fun t' a h' => ?_)
  exact exposeVec_canon h'

theorem execVcvt_canon {t : ElemTy} {d a : VReg} {e : ElemTy} {k : Bool} {s : State} (h : Canon s) :
    OutCanon (execVcvt t d a e k s) := by
  unfold execVcvt
  refine vsyl_canon h (fun t' h' => ?_)
  exact wideResult_canon h'

theorem vcmpOp_canon {i : Instr} {t : ElemTy} {d : MReg} {a b : VReg} {k nan : Bool} {f : Int → Int → Bool}
    {s : State} (h : Canon s) : OutCanon (vcmpOp i t d a b k nan f s) := by
  unfold vcmpOp
  refine vsyl_canon h (fun t' h' => ?_)
  exact exposeVec_canon h'

theorem widen_canon {i : Instr} {t : ElemTy} {d a b : VReg} {k : Bool} {fp : RoundMode → Fp → Fp → Fp → Fp}
    {int : Int → Int → Int → Int} {s : State} (h : Canon s) : OutCanon (widen i t d a b k fp int s) := by
  unfold widen
  refine vsyl_canon h (fun t' h' => ?_)
  exact wideResult_canon h'

theorem execVwadd_canon {t : ElemTy} {d a b : VReg} {k : Bool} {s : State} (h : Canon s) :
    OutCanon (execVwadd t d a b k s) := widen_canon h

theorem execVwmul_canon {t : ElemTy} {d a b : VReg} {k : Bool} {s : State} (h : Canon s) :
    OutCanon (execVwmul t d a b k s) := widen_canon h

theorem execVwfma_canon {t : ElemTy} {d a b : VReg} {k : Bool} {s : State} (h : Canon s) :
    OutCanon (execVwfma t d a b k s) := widen_canon h

theorem reduceOp_canon {i : Instr} {d : VReg} {s : State} {f : State → Nat} (h : Canon s) :
    OutCanon (reduceOp i d s f) := vsyl_canon h (fun _ h' => exposeVec_canon h')

theorem vecToX_canon {s : State} {d : XReg} {v : Word} (h : Canon s) : EffCanon (vecToX s d v) := by
  unfold vecToX
  refine guardPush_canon h ?_
  split
  · exact fillEntry_canon (takeReserved_canon h)
  · split
    · exact h
    · exact exposeVec_canon h

theorem execVmovx_canon {t : ElemTy} {d : XReg} {a : VReg} {b : XReg} {s : State} (h : Canon s) :
    OutCanon (execVmovx t d a b s) := by
  unfold execVmovx
  refine vsyl_canon h (fun t' h' => ?_)
  exact vecToX_canon h'

theorem maskOp_canon {i : Instr} {d : MReg} {s : State} {f : State → MWord} (h : Canon s) :
    OutCanon (maskOp i d s f) := vsyl_canon h (fun _ h' => exposeVec_canon h')

theorem execMpop_canon {t : ElemTy} {d : XReg} {a : MReg} {s : State} (h : Canon s) : OutCanon (execMpop t d a s) :=
  vsyl_canon h (fun _ h' => vecToX_canon h')

theorem vxResults_canon {s : State} {n : Nat} {l : List (Dest × Nat)} {sat absent : Nat} (h : Canon s) :
    Canon (vxResults s n l sat absent) := by
  unfold vxResults
  refine vxIssue_canon (occupy_canon (Canon.foldl_fst h fun q a h' => ?_))
  exact pendVec_canon h'

theorem execVperm_canon {t : ElemTy} {d a b : VReg} {k : Bool} {s : State} (h : Canon s) :
    OutCanon (execVperm t d a b k s) := by
  unfold execVperm
  refine vsyl_canon h (fun t' h' => ?_)
  exact askQs_canon (pendVec_canon h')

theorem execVshuf_canon {x : XReg} {d : VReg} {s : State} (h : Canon s) : OutCanon (execVshuf x d s) := by
  unfold execVshuf
  refine vsyl_canon h (fun t h' => ?_)
  dsimp only
  split
  · exact badOperand_canon h'
  · exact vxIssue_canon (askHeld_canon (pendVec_canon h'))

theorem execVqcvt_canon {x y : XReg} {d : Fin 16} {s : State} (h : Canon s) : OutCanon (execVqcvt x y d s) :=
  vsyl_canon h (fun _ ht => EffCanon.ite (badOperand_canon ht) (EffCanon.ite (badOperand_canon ht) (vxResults_canon ht)))

theorem execVdqcvt_canon {x : XReg} {d : VReg} {s : State} (h : Canon s) : OutCanon (execVdqcvt x d s) := by
  unfold execVdqcvt
  refine vsyl_canon h (fun t h' => ?_)
  dsimp only
  split
  · exact badOperand_canon h'
  · split
    · split
      · exact h'
      · exact vxResults_canon h'
    · split
      · exact h'
      · exact vxResults_canon h'

theorem execVsetcfg_canon {x y : XReg} {s : State} (h : Canon s) : OutCanon (execVsetcfg x y s) := by
  unfold execVsetcfg
  refine vsyl_canon h (fun t h' => ?_)
  dsimp only
  split
  · exact badOperand_canon h'
  · exact onVu_canon h'

theorem checkClocks_canon {s : State} (h : Canon s) : Canon (checkClocks s) := onCore_canon h rfl

theorem gatherCheck_canon {s : State} {b : Word} {size : Nat} {wr : Bool} {us : List (Nat × Nat)}
    {k : State → List (Nat × Nat) → Eff} (h : Canon s) (hk : ∀ t a, Canon t → EffCanon (k t a)) :
    EffCanon (gatherCheck s b size wr us k) := by
  unfold gatherCheck
  dsimp only
  split
  next r t c x ad e =>
    refine checkClocks_canon (AccCanon.of_fault e (AccCanon.foldl h fun y a h' => ?_))
    exact AccCanon.bind h' (fun t' a' h2 => AccCanon.bind (localCheck_canon h2) (fun t2 a2 h3 => h3))
  next r t e =>
    refine AccCanon.of_wait e (AccCanon.foldl h fun y a h' => AccCanon.bind h' (fun t' a' h2 => ?_))
    exact AccCanon.bind (localCheck_canon h2) (fun t2 a2 h3 => h3)
  next r t a e =>
    split
    · refine checkClocks_canon (AccCanon.of_ok e (AccCanon.foldl h fun y a' h' => ?_))
      exact AccCanon.bind h' (fun t' a2 h2 => AccCanon.bind (localCheck_canon h2) (fun t2 a3 h3 => h3))
    · refine hk _ _ (checkClocks_canon (AccCanon.of_ok e (AccCanon.foldl h fun y a' h' => ?_)))
      exact AccCanon.bind h' (fun t' a2 h2 => AccCanon.bind (localCheck_canon h2) (fun t2 a3 h3 => h3))

theorem gatherIssue_canon {s : State} {id : Nat} {q : QsReq} {clocks : Nat} (h : Canon s) :
    Canon (gatherIssue s id q clocks) := Canon.ite (vxIssue_canon (occupy_canon h)) (vxIssue_canon (askHeld_canon h))

theorem execVgatherq_canon {x y : XReg} {d : VReg} {s : State} (h : Canon s) : OutCanon (execVgatherq x y d s) := by
  unfold execVgatherq
  refine vsyl_canon h (fun t h' => ?_)
  dsimp only
  split
  · exact badOperand_canon h'
  · exact gatherCheck_canon h' (fun t' a h2 => gatherIssue_canon (pendVec_canon h2))

theorem execVscatq_canon {x y : XReg} {d : VReg} {s : State} (h : Canon s) : OutCanon (execVscatq x y d s) := by
  unfold execVscatq
  refine vsyl_canon h (fun t h' => ?_)
  dsimp only
  split
  · exact badOperand_canon h'
  · exact gatherCheck_canon h' (fun t' a h2 => gatherIssue_canon (freshId_canon h2))

theorem execVfence_canon {s : State} (h : Canon s) : OutCanon (execVfence s) := by
  unfold execVfence
  refine vsyl_canon h (fun t h' => ?_)
  split
  · exact h'
  · exact waitFor_canon h'

theorem execVmskld_canon {x y : XReg} {d : MReg} {s : State} (h : Canon s) : OutCanon (execVmskld x y d s) := by
  unfold execVmskld
  refine vsyl_canon h (fun t h' => ?_)
  exact vxResults_canon h'

theorem vecLoaded_canon {s : State} {d : VReg} {v : Nat} {k : Mark} {exposed : Bool} {clocks : Nat} (h : Canon s) :
    Canon (vecLoaded s d v k exposed clocks) := by
  unfold vecLoaded
  split
  · exact exposeVec_canon h
  · dsimp only
    exact occupy_canon (pendVec_canon h)

theorem qsLoad_canon {s : State} {d : VReg} {us : List (Nat × Nat × Nat)} {addr : Word} (h : Canon s) :
    Canon (qsLoad s d us addr) := askHeld_canon (pendVec_canon h)

theorem qsStore_canon {s : State} {us : List (Nat × List Byte)} {poison : Bool} (h : Canon s) :
    Canon (qsStore s us poison) := askHeld_canon (freshId_canon h)

theorem vmLoad_canon {i : Instr} {space : Nat} {d : VReg} {b : XReg} {o : BitVec 11} {s : State} (h : Canon s) :
    OutCanon (vmLoad i space d b o s) := by
  unfold vmLoad
  refine vsyl_canon h (fun t h' => memAccess_canon h' (fun t' a' b' h2 => ?_))
  split
  · exact qsLoad_canon h2
  · dsimp only
    exact vecLoaded_canon (placeRead_canon h2)

theorem vmStored_canon {s : State} {space : Nat} (h : Canon s) : Canon (vmStored s space) :=
  Canon.ite h (occupy_canon h)

theorem vmStore_canon {i : Instr} {space : Nat} {d : VReg} {b : XReg} {o : BitVec 11} {s : State} (h : Canon s) :
    OutCanon (vmStore i space d b o s) := by
  unfold vmStore
  refine vsyl_canon h (fun t h' => memAccess_canon h' (fun t' a' b' h2 => ?_))
  split
  · exact qsStore_canon h2
  · exact vmStored_canon (placeWrite_canon h2)

theorem tileAccess_canon {i : Instr} {b : XReg} {o : BitVec 11} {col wr : Bool} {s : State}
    {k : State → List Nat → Eff} (h : Canon s) (hk : ∀ t a, Canon t → EffCanon (k t a)) :
    OutCanon (tileAccess i b o col wr s k) := by
  unfold tileAccess
  refine vsyl_canon h (fun t h' => ?_)
  dsimp only
  split
  · exact h'
  · split
    next r t' c x ad e =>
      refine AccCanon.of_fault e (AccCanon.foldl h' fun y a h2 => AccCanon.bind h2 (fun t2 a' h3 => ?_))
      exact AccCanon.bind (localCheck_canon h3) (fun t3 a2 h4 => h4)
    next r t' e =>
      refine AccCanon.of_wait e (AccCanon.foldl h' fun y a h2 => AccCanon.bind h2 (fun t2 a' h3 => ?_))
      exact AccCanon.bind (localCheck_canon h3) (fun t3 a2 h4 => h4)
    next r t' a e =>
      refine hk _ _ (AccCanon.of_ok e (AccCanon.foldl h' fun y a' h2 => AccCanon.bind h2 (fun t2 a2 h3 => ?_)))
      exact AccCanon.bind (localCheck_canon h3) (fun t3 a3 h4 => h4)

theorem tileLoad_canon {i : Instr} {d : VReg} {b : XReg} {o : BitVec 11} {col : Bool} {s : State} (h : Canon s) :
    OutCanon (tileLoad i d b o col s) := tileAccess_canon h (fun _ _ h' => qsLoad_canon h')

theorem tileStore_canon {i : Instr} {d : VReg} {b : XReg} {o : BitVec 11} {col : Bool} {s : State} (h : Canon s) :
    OutCanon (tileStore i d b o col s) := tileAccess_canon h (fun _ _ h' => qsStore_canon h')

theorem chkRanges_canon {s : State} {space : Nat} {a : Except Word Int} {f : ElemTy}
    {k : State → Place → Int → Nat → Option (Place × Nat) → Eff} (h : Canon s)
    (hk : ∀ t a' b c d, Canon t → EffCanon (k t a' b c d)) : EffCanon (chkRanges s space a f k) := by
  unfold chkRanges
  refine memAccess_canon h (fun t a' b h' => ?_)
  dsimp only
  split
  · exact EffCanon.ite (hk _ _ _ _ _ h') (memAccess_canon h' (fun t' a'' b' h2 => hk _ _ _ _ _ h2))
  · exact EffCanon.ite (hk _ _ _ _ _ h') (memAccess_canon h' (fun t' a'' b' h2 => hk _ _ _ _ _ h2))

theorem chkBytes_canon {s : State} {p : Place} {a : Int} {len : Nat} {d : Option (Place × Nat)} {f : ElemTy}
    {k : State → Nat × Mark → Nat × Mark → Eff} (h : Canon s) (hk : ∀ t a' b, Canon t → EffCanon (k t a' b)) :
    EffCanon (chkBytes s p a len d f k) := by
  unfold chkBytes
  dsimp only
  split
  · exact placeRead_canon h
  · split
    · exact EffCanon.ite (placeRead_canon h) (hk _ _ _ (placeRead_canon (placeRead_canon h)))
    · exact EffCanon.ite (placeRead_canon h) (hk _ _ _ (placeRead_canon h))

theorem chkLoaded_canon {s : State} {v : Fin 16} {exposed : Bool} {clocks : Nat} {d t : Nat × Mark} (h : Canon s) :
    Canon (chkLoaded s v exposed clocks d t) := vecLoaded_canon (Canon.ite (exposeVec_canon h) (pendVec_canon h))

theorem chkOver_canon {s : State} (h : Canon s) : Canon (chkOver s) := onVu_canon h

theorem chkLoad_canon {i : Instr} {space : Nat} {v : Fin 16} {b : XReg} {f : ElemTy} {c : BitVec 7} {s : State}
    (h : Canon s) : OutCanon (chkLoad i space v b f c s) := by
  unfold chkLoad
  refine vsyl_canon h (fun t ht => ?_)
  dsimp only
  have hfinish : ∀ clocks, EffCanon (chkRanges (chkOver t) space (meAddr t space b 7 c.toNat 32) f (fun u p a len d =>
      chkBytes u p a len d f (fun w x y => .done (chkLoaded w v (space == 0) clocks x y)))) := fun _ =>
    chkRanges_canon (chkOver_canon ht) (fun _ _ _ _ _ hu => chkBytes_canon hu (fun _ _ _ hw => chkLoaded_canon hw))
  split
  · exact EffCanon.ite (EffCanon.ite ht (hfinish _)) (EffCanon.ite ht (hfinish _))
  · refine EffCanon.ite (hfinish _) (chkRanges_canon ht (fun u p _ _ d hu => ?_))
    split
    · exact EffCanon.ite (countWait_canon hu) (onVu_canon (askHeld_canon (freshId_canon hu)))
    · exact onVu_canon (occupy_canon (freshId_canon hu))

theorem pendStat_canon {s : State} {g : GReg} {l : List Triple} {k : Mark} {n : Nat} (h : Canon s) :
    Canon (pendStat s g l k n) := pend_canon h

theorem statSyl_canon {i : Instr} {s : State} {body : State → Eff} (h : Canon s)
    (hbody : ∀ t, Canon t → EffCanon (body t)) : OutCanon (statSyl i s body) := vsyl_canon h hbody

theorem execGclr_canon {g : GReg} {k : Bool} {s : State} (h : Canon s) : OutCanon (execGclr g k s) :=
  statSyl_canon h (fun _ h' => pendStat_canon h')

theorem execGadd_canon {g : GReg} {v : VReg} {e : Half} {k : Bool} {s : State} (h : Canon s) :
    OutCanon (execGadd g v e k s) := statSyl_canon h (fun _ h' => pendStat_canon h')

theorem execGwadd_canon {g : GReg} {v w : VReg} {e : Half} {k : Bool} {s : State} (h : Canon s) :
    OutCanon (execGwadd g v w e k s) := statSyl_canon h (fun _ h' => pendStat_canon h')

theorem execGmerge_canon {g h' : GReg} {k : Bool} {s : State} (h : Canon s) : OutCanon (execGmerge g h' k s) :=
  statSyl_canon h (fun _ h2 => pendStat_canon h2)

theorem execGfold_canon {g h' : GReg} {l : BitVec 3} {s : State} (h : Canon s) : OutCanon (execGfold g h' l s) :=
  statSyl_canon h (fun _ h2 => pendStat_canon h2)

theorem execGdrain_canon {g : GReg} {v : VReg} {w : XReg} {c : Bool} {m : DrainMode} {s : State} (h : Canon s) :
    OutCanon (execGdrain g v w c m s) := by
  unfold execGdrain
  refine statSyl_canon h (fun t h' => ?_)
  split
  · exact pendStat_canon (Canon.foldl h' fun t' a h2 => pend_canon h2)
  · exact Canon.foldl h' (fun t' a h2 => pend_canon h2)

theorem localCheck_bind_canon {s : State} {base size : Nat} {a : Int} {n : Nat} {wr : Bool} (h : Canon s) :
    AccCanon ((localCheck s base size a n wr).bind (fun s _ => .ok s ())) :=
  AccCanon.bind (localCheck_canon h) (fun _ _ hu => hu)

theorem localChecks_canon {s : State} {l : List Nat} {base size : Nat} {f : Nat → Int} {n : Nat} {wr : Bool} (h : Canon s) :
    AccCanon (l.foldl (fun (acc : Acc Unit) j => acc.bind (fun s _ =>
      (localCheck s base size (f j) n wr).bind (fun s _ => .ok s ()))) (.ok s ())) := by
  refine AccCanon.foldl (show AccCanon (.ok s ()) from h) (fun y j hy => AccCanon.bind hy (fun t u ht => ?_))
  exact localCheck_bind_canon ht

theorem imageAccess_canon {s : State} {qs : Bool} {a : Word} {wr : Bool} {k : State → Nat → Eff} (h : Canon s)
    (hk : ∀ t n, Canon t → EffCanon (k t n)) : EffCanon (imageAccess s qs a wr k) := by
  unfold imageAccess
  refine EffCanon.ite h (EffCanon.ite h ?_)
  dsimp only
  generalize e : List.foldl _ _ _ = r
  have hr : AccCanon r := by
    rw [← e]
    refine @localChecks_canon s _ _ _ _ _ _ ?_
    exact h
  cases r with
  | ok t u => exact hk t _ hr
  | fault t c x ad => exact hr
  | wait t => exact hr

theorem askImage_canon {s : State} {qs : Bool} {id after : Nat} {addr : Word} {f : Nat → QsDo} (h : Canon s) :
    Canon (askImage s qs id after addr f) := Canon.ite (askQs_canon h) (serveQs_canon (askQs_canon h))

theorem execGld_canon {g : GReg} {b : XReg} {p : Bool} {s : State} (h : Canon s) : OutCanon (execGld g b p s) := by
  unfold execGld
  refine statSyl_canon h (fun t h' => ?_)
  exact imageAccess_canon h' (fun t' n h2 => askImage_canon (pend_canon h2))

theorem execGst_canon {g : GReg} {b : XReg} {p : Bool} {s : State} (h : Canon s) : OutCanon (execGst g b p s) := by
  unfold execGst
  refine statSyl_canon h (fun t h' => imageAccess_canon h' (fun t' n h2 => ?_))
  exact askImage_canon (freshId_canon h2)

theorem execGset_canon {g : GReg} {v : VReg} {k : Bool} {s : State} (h : Canon s) : OutCanon (execGset g v k s) :=
  statSyl_canon h (fun _ h' => pendStat_canon h')

theorem onMx_canon {s : State} {f : Matrix → Matrix} (h : Canon s) (hf : (f s.core.mx).bstore = s.core.mx.bstore) :
    Canon (onMx s f) :=
  onCore_canon h hf

theorem Canon.oc_writeNat {s : State} (h : Canon s) (a n v : Nat) : Canon { s with oc := s.oc.writeNat a n v } :=
  { h with oc := Mem.wf_writeNat h.oc a n v }

theorem tileSet_canon {s : State} {t : Nat} {l : List Nat} {poison : Bool} (h : Canon s) :
    Canon (tileSet s t l poison) := onMx_canon (h.oc_writeNat _ _ _) rfl

theorem perturb_canon {s : State} {o : MxOp} (h : Canon s) : Canon (perturb s o) := by
  unfold perturb
  split
  · exact h
  · exact Canon.ite h (onMx_canon (h.oc_writeNat _ _ _) rfl)

theorem arrayResult_canon {s : State} {o : MxOp} (h : Canon s) : Canon (arrayResult s o) :=
  perturb_canon (tileSet_canon h)

theorem drainRead_canon {s : State} {o : MxOp} (h : Canon s) : Canon (drainRead s o) :=
  Canon.ite (perturb_canon (tileSet_canon (onMx_canon h rfl))) (onMx_canon h rfl)

theorem drainResult_canon {s : State} {o : MxOp} (h : Canon s) : Canon (drainResult s o) := by
  unfold drainResult
  dsimp only
  split
  · exact onCore_canon (placeWrite_canon (onMx_canon h rfl)) rfl
  · exact placeWrite_canon (onMx_canon h rfl)

theorem onMx_bstore_canon {s : State} {f : Matrix → Matrix} (h : Canon s) (hf : (f s.core.mx).bstore.wf = true) :
    Canon (onMx s f) :=
  { h with bstore := hf }

theorem writeNats_wf {m : Mem} {l : List Nat} {a v : Nat → Nat} {n : Nat} (h : m.wf = true) :
    (l.foldl (fun (b : Mem) j => b.writeNat (a j) n (v j)) m).wf = true := by
  induction l generalizing m with
  | nil => exact h
  | cons j l ih => exact ih (Mem.wf_writeNat h _ _ _)

theorem panelResult_canon {s : State} {o : MxOp} (h : Canon s) : Canon (panelResult s o) :=
  Canon.ite h (onMx_bstore_canon h (writeNats_wf h.bstore))

theorem mxResult_canon {s : State} {o : MxOp} (h : Canon s) : Canon (mxResult s o) := by
  unfold mxResult
  split
  · exact arrayResult_canon h
  · exact arrayResult_canon h
  · exact arrayResult_canon h
  · exact perturb_canon (tileSet_canon h)
  · exact perturb_canon (tileSet_canon h)
  · exact panelResult_canon h
  · exact drainResult_canon h

theorem mxSetQueue_bstore {m : Matrix} {array : Bool} {l : List MxOp} : (mxSetQueue m array l).bstore = m.bstore := by
  unfold mxSetQueue
  split <;> rfl

theorem mxStart_canon {s : State} {array : Bool} (h : Canon s) : Canon (mxStart s array) := by
  unfold mxStart
  dsimp only
  split
  · exact h
  · refine Canon.ite (onMx_canon h ?_) h
    cases array
    · exact mxSetQueue_bstore
    · exact mxSetQueue_bstore

theorem mxComplete_canon {s : State} {array : Bool} (h : Canon s) : Canon (mxComplete s array) := by
  unfold mxComplete
  refine onMx_canon (Canon.foldl (Canon.foldl h ?_) ?_) mxSetQueue_bstore
  · exact fun t o ht => drainRead_canon ht
  · exact fun t o ht => mxResult_canon ht

theorem mxClock_canon {s : State} (h : Canon s) : Canon (mxClock s) :=
  Canon.ite h (mxStart_canon (mxStart_canon (mxComplete_canon (mxComplete_canon h))))

theorem mxAccept_canon {s : State} {array writes : Bool} {o : MxOp} (h : Canon s) :
    Canon (mxAccept s array writes o) := by
  unfold mxAccept
  exact onMx_canon h mxSetQueue_bstore

theorem mmaIssue_canon {i : Instr} {kind : MxKind} {space : Nat} {t : Tile} {a b : XReg} {f : ElemTy} {w z : Bool}
    {s : State} (h : Canon s) : OutCanon (mmaIssue i kind space t a b f w z s) := by
  unfold mmaIssue
  refine syl_canon h (fun t' h' => ?_)
  dsimp only
  split
  · exact badOperand_canon h'
  · exact memAccess_canon h' (fun t2 a' b' h2 => mxAccept_canon (placeRead_canon h2))

theorem execMzero_canon {t : Tile} {s : State} (h : Canon s) : OutCanon (execMzero t s) :=
  syl_canon h (fun _ h' => mxAccept_canon h')

theorem execMldc_canon {t : Tile} {a : XReg} {f : ElemTy} {s : State} (h : Canon s) : OutCanon (execMldc t a f s) := by
  unfold execMldc
  refine syl_canon h (fun t' h' => ?_)
  exact memAccess_canon h' (fun t2 a' b h2 => mxAccept_canon (placeRead_canon h2))

theorem execMbwr_canon {a b : XReg} {f : ElemTy} {c : Bool} {s : State} (h : Canon s) :
    OutCanon (execMbwr a b f c s) := by
  unfold execMbwr
  refine syl_canon h (fun t h' => ?_)
  split
  · split
    · exact h'
    · dsimp only
      split
      · exact onMx_canon h' rfl
      · exact onMx_canon h' rfl
  · dsimp only
    split
    · exact badOperand_canon h'
    · refine memAccess_canon h' (fun t' a' b' h2 => ?_)
      split
      · exact onMx_canon (mxAccept_canon (placeRead_canon h2)) rfl
      · exact mxAccept_canon (placeRead_canon h2)

theorem drainCheck_canon {s : State} {x : Word} {n : Nat} {bias : Option Nat} (h : Canon s) :
    AccCanon (drainCheck s x n bias) := by
  unfold drainCheck
  dsimp only
  refine AccCanon.bind (localCheck_bind_canon h) (fun s1 _ h1 => AccCanon.bind ?_ (fun s2 _ h2 =>
    AccCanon.bind (localCheck_bind_canon h2) (fun s3 _ h3 => AccCanon.ite h3 h3)))
  split
  next b =>
    refine @localCheck_bind_canon s1 _ _ _ _ _ ?_
    exact h1
  next => exact h1

theorem execMdrain_canon {t : Tile} {a b : XReg} {f : ElemTy} {q j h' : Bool} {s : State} (h : Canon s) :
    OutCanon (execMdrain t a b f q j h' s) := by
  unfold execMdrain
  refine syl_canon h (fun t' h2 => ?_)
  dsimp only
  split
  · exact badOperand_canon h2
  · split
    · exact h2
    · exact drawn_canon h2
    · split
      next r t2 c x ad e => exact AccCanon.of_fault e (drainCheck_canon h2)
      next r t2 e => exact AccCanon.of_wait e (drainCheck_canon h2)
      next r t2 a' e =>
        refine mxAccept_canon ?_
        split
        · refine pend_canon ?_
          split
          · exact placeRead_canon (AccCanon.of_ok e (drainCheck_canon h2))
          · dsimp only
            exact AccCanon.of_ok e (drainCheck_canon h2)
        · split
          · exact placeRead_canon (AccCanon.of_ok e (drainCheck_canon h2))
          · dsimp only
            exact AccCanon.of_ok e (drainCheck_canon h2)

theorem execMwait_canon {t : Tile} {r l : Bool} {s : State} (h : Canon s) : OutCanon (execMwait t r l s) :=
  syl_canon h (fun _ ht => EffCanon.ite (Canon.ite (onMx_canon ht rfl) ht) (waitFor_canon ht))

theorem execMstat_canon {d : XReg} {e : BitVec 2} {s : State} (h : Canon s) : OutCanon (execMstat d e s) :=
  syl_canon h (fun _ h' => guardPush_canon h' (pendX_canon h'))

theorem execMpert_canon {t : Tile} {a b : XReg} {q : Bool} {s : State} (h : Canon s) : OutCanon (execMpert t a b q s) :=
  syl_canon h (fun _ ht => EffCanon.ite (onMx_canon ht rfl) (EffCanon.ite (badOperand_canon ht) (EffCanon.ite
    (badOperand_canon ht) (onMx_canon ht rfl))))

theorem onPlat_canon {s : State} {f : Platform → Platform} (h : Canon s) : Canon (onPlat s f) := h.next rfl

theorem hubField_canon {s : State} {a hi lo v : Nat} (h : Canon s) : Canon (hubField s a hi lo v) := hubSet_canon h

theorem setBring_canon {s : State} {n : Nat} (h : Canon s) : Canon (setBring s n) :=
  Canon.ite h (fire_canon (hubField_canon h))

theorem haltPackage_canon {s : State} {why : Nat} (h : Canon s) : Canon (haltPackage s why) :=
  Canon.ite h (setBring_canon (hubField_canon h))

theorem dropLine_canon {s : State} {dim comb line : Nat} (h : Canon s) : Canon (dropLine s dim comb line) :=
  setUnit_canon h

end Sys2Proof.Machine
end

section
/-!
SUPPORT. The platform, the clock, the events and the front end keep every memory canonical (sections Platform to Scalar of the model).
-/
namespace Sys2Proof.Machine
open Sys2Proof
set_option Elab.async false -- proofs one at a time: the check of the whole text is near its memory limit

theorem dropComb_canon {s : State} {dim comb : Nat} (h : Canon s) : Canon (dropComb s dim comb) := setUnit_canon h

theorem applyCombs_canon {s : State} {r : List Byte} (h : Canon s) : Canon (applyCombs s r) := by
  unfold applyCombs
  refine Canon.foldl h (fun t a h' => ?_)
  exact Canon.ite (dropComb_canon h') (Canon.foldl h' (fun t' a' h2 => dropLine_canon h2))

theorem removeComb_canon {s : State} {id : Nat} (h : Canon s) : Canon (removeComb s id) :=
  Canon.ite h (Canon.ite (dropComb_canon h) (Canon.ite (dropLine_canon h) h))

theorem bringUp_canon {s : State} (h : Canon s) : Canon (bringUp s) := by
  unfold bringUp
  refine Canon.ite h ?_
  split
  · exact haltPackage_canon h
  · refine Canon.ite (haltPackage_canon h) ?_
    dsimp only
    generalize e : hubField _ _ _ _ _ = t
    have ht : Canon t := by
      rw [← e]
      refine hubField_canon (Canon.foldl (applyCombs_canon (onPlat_canon (h.next rfl))) (fun _ _ hu => ?_))
      exact removeComb_canon hu
    exact Canon.ite (haltPackage_canon ht) (setBring_canon ht)

theorem canon_reset : Canon State.reset := (canon_iff_memInv _).mpr rfl

theorem resetPackage_canon {s : State} (h : Canon s) : Canon (resetPackage s) :=
  bringUp_canon ({ canon_reset with host := h.host })

theorem stackTrained_canon {s : State} {h' : Nat} (h : Canon s) : Canon (stackTrained s h') := by
  unfold stackTrained
  split
  · exact h
  · dsimp only
    split
    · exact setBring_canon (hubField_canon (onPlat_canon h))
    · exact hubField_canon (onPlat_canon h)

theorem enterFull_canon {s : State} {turn : Nat} (h : Canon s) : Canon (enterFull s turn) := by
  unfold enterFull
  split
  · exact h
  · dsimp only
    exact onPlat_canon (setBring_canon (drawn_canon h))

theorem joinPod_canon {s : State} (h : Canon s) : Canon (joinPod s) := by
  unfold joinPod
  split
  · exact h
  · dsimp only
    exact Canon.ite h (fire_canon (hubField_canon (onPlat_canon (h.next rfl))))

theorem serviceClock_canon {s : State} (h : Canon s) : Canon (serviceClock s) :=
  joinPod_canon (Canon.ite h (onPlat_canon h))

theorem recoverTasks_canon {s : State} {ts : List (Nat × Nat)} (h : Canon s) : Canon (recoverTasks s ts) :=
  Canon.foldl h (fun _ _ h' => recoverNode_canon h')

theorem Canon.l2_markSector {s : State} (h : Canon s) (k : Nat) (p : Bool) :
    Canon { s with sys := { s.sys with l2 := s.sys.l2.markSector k p } } :=
  { h with l2 := Mem.wf_markSector h.l2 k p }

theorem loseL2_canon {s : State} (h : Canon s) : Canon (loseL2 s) := by
  unfold loseL2
  refine Canon.foldl (Canon.foldl h (fun s l hs => Canon.foldl hs (fun t j ht => ?_))) (fun s l hs => ?_)
  · exact Canon.ite (Canon.ite (drawn_canon ht) ((drawn_canon ht).l2_markSector _ _)) ht
  · exact Canon.ite (l2Flush_canon hs) (mscFlush_canon (l2Flush_canon hs))

theorem Canon.hbm_markSectors {s : State} (h : Canon s) (l : List Nat) (p : Bool) :
    Canon { s with sys := { s.sys with hbm := l.foldl (fun m k => m.markSector k p) s.sys.hbm } } :=
  { h with hbm := Mem.wf_markSectors h.hbm l p }

theorem loseLines_canon {s : State} {ls : List MscLine} (h : Canon s) : Canon (loseLines s ls) := by
  unfold loseLines
  refine Canon.foldl h (fun t l ht => ?_)
  have hm : Canon (mscFlush (drawn t) l.line) := mscFlush_canon (drawn_canon ht)
  exact Canon.ite hm (hm.hbm_markSectors _ _)

theorem removeWork_canon {s : State} {kind id : Nat} (h : Canon s) : Canon (removeWork s kind id) := by
  unfold removeWork
  refine Canon.ite ?_ (Canon.ite ?_ (Canon.ite ?_ (Canon.ite (onPlat_canon h) (Canon.ite (loseLines_canon h) h))))
  · exact Canon.when (loseLines_canon (Canon.when h (fun ht => loseL2_canon ht))) (fun ht => recoverTasks_canon ht)
  · exact Canon.when h (fun ht => recoverTasks_canon ht)
  · exact Canon.when h (fun ht => recoverTasks_canon ht)

theorem removeLine_canon {s : State} {id : Nat} (h : Canon s) : Canon (removeLine s id) :=
  Canon.ite h (Canon.ite (loseComb_canon h) (Canon.ite (loseLine_canon h) h))

theorem removeUnit_canon {s : State} {kind id : Nat} (h : Canon s) : Canon (removeUnit s kind id) := by
  unfold removeUnit
  split
  · exact removeLine_canon h
  · dsimp only
    split
    · split
      · exact haltPackage_canon (noteRemoval_canon (removeWork_canon h))
      · exact noteRemoval_canon (removeWork_canon h)
    · split
      · exact haltPackage_canon (noteRemoval_canon ((removeWork_canon h).next rfl))
      · exact noteRemoval_canon ((removeWork_canon h).next rfl)

theorem readings_canon {s : State} {power tdie thbm : Nat} (h : Canon s) : Canon (readings s power tdie thbm) :=
  hubField_canon (hubField_canon (hubField_canon h))

theorem hotNow_canon {s : State} {thbm : Nat} (h : Canon s) : Canon (hotNow s thbm) :=
  Canon.ite (onPlat_canon (drawn_canon h)) (onPlat_canon h)

theorem beginLimiting_canon {s : State} {power tdie thbm : Nat} (h : Canon s) :
    Canon (beginLimiting s power tdie thbm) := by
  unfold beginLimiting
  dsimp only
  split
  · exact fire_canon (onPlat_canon (hotNow_canon (readings_canon h)))
  · exact hotNow_canon (readings_canon h)

theorem endLimiting_canon {s : State} {power tdie thbm : Nat} (h : Canon s) : Canon (endLimiting s power tdie thbm) :=
  Canon.ite (hotNow_canon (readings_canon h)) (onPlat_canon (hotNow_canon (readings_canon h)))

theorem thermalHalt_canon {s : State} {tdie thbm : Nat} (h : Canon s) : Canon (thermalHalt s tdie thbm) := by
  unfold thermalHalt
  split
  · exact haltPackage_canon (hubField_canon (hubField_canon h))
  · exact hubField_canon (hubField_canon h)

theorem firmwareEnd_canon {s : State} (h : Canon s) : Canon (firmwareEnd s) := by
  unfold firmwareEnd
  split
  · exact h
  · split
    · exact h
    · dsimp only
      split
      · exact fire_canon (onPlat_canon (hubSet_canon h))
      · split
        · exact fire_canon (onPlat_canon (hubSet_canon h))
        · exact fire_canon (onPlat_canon (hubSet_canon (hubSet_canon (onPlat_canon h))))

theorem attestEnd_canon {s : State} (h : Canon s) : Canon (attestEnd s) := by
  unfold attestEnd
  split
  next => exact h
  next a _ =>
    have hp : Canon (onPlat s (fun p => { p with attAddr := none })) := onPlat_canon h
    refine Canon.ite (fire_canon (hubSet_canon hp)) (fire_canon (hubSet_canon ?_))
    exact { drawn_canon hp with host := Mem.wf_write hp.host _ _ }

theorem hostAbort_canon {s : State} (h : Canon s) : Canon (hostAbort s) := onPlat_canon h

theorem bar0_canon {s : State} {off : Nat} {store : Option Word} (h : Canon s) : Canon (bar0 s off store) := by
  unfold bar0
  dsimp only
  split
  · exact h
  · split
    · exact hostAbort_canon h
    · split
      next x t a e =>
        split
        · exact hubStore_canon (AccCanon.of_ok e (ocCheck_canon h))
        · exact onPlat_canon (hubLoad_canon (AccCanon.of_ok e (ocCheck_canon h)))
      next x e => exact hostAbort_canon h

theorem hostPerform_canon {s : State} {d n : Nat} {store : Option (List Byte)} (h : Canon s) :
    Canon (hostPerform s d n store) := by
  unfold hostPerform
  split
  · exact dpaWrite_canon h
  · dsimp only
    exact onPlat_canon (dpaRead_canon h)

theorem hostRetry_canon {s : State} (h : Canon s) : Canon (hostRetry s) := by
  unfold hostRetry
  split
  · split
    · exact h
    · exact hostPerform_canon (onPlat_canon h)
  · exact h

theorem hostMem_canon {s : State} {off len : Nat} {store : Option (List Byte)} (h : Canon s) :
    Canon (hostMem s off len store) := by
  unfold hostMem
  dsimp only
  split
  · exact h
  · split
    · exact Canon.ite (hostAbort_canon h) (Canon.ite (onPlat_canon h) (hostPerform_canon h))
    · exact Canon.ite (hostAbort_canon h) (Canon.ite (onPlat_canon h) (hostPerform_canon h))

theorem hostLine_canon {s : State} {line : Nat} {data : List Byte} (h : Canon s) : Canon (hostLine s line data) :=
  h.host_write _ _

theorem slotBegin_canon {s : State} (h : Canon s) : Canon (slotBegin s) := Canon.ite h (sendReports_canon (h.next rfl))

theorem seatSend_canon {s : State} (h : Canon s) : Canon (seatSend s) := Canon.ite (sendSc_canon h) h

theorem seatTimeout_canon {s : State} (h : Canon s) : Canon (seatTimeout s) :=
  Canon.ite h (discardSc_canon (h.next rfl))

theorem lapseTurn_canon {s : State} {dim : Nat} (h : Canon s) : Canon (lapseTurn s dim) := by
  unfold lapseTurn
  split
  · split
    · exact proposalLapse_canon h
    · exact h
  · exact h

theorem installTurn_canon {s : State} {dim : Nat} (h : Canon s) : Canon (installTurn s dim) := by
  unfold installTurn
  split
  · split
    · exact installTable_canon h
    · exact h
  · exact h

theorem linkTimeout_canon {s : State} {dim plane peer : Nat} (h : Canon s) : Canon (linkTimeout s dim plane peer) :=
  Canon.ite (replayLink_canon h) h

theorem driftTimeout_canon {s : State} {dim : Nat} (h : Canon s) : Canon (driftTimeout s dim) :=
  Canon.foldl h (fun _ _ h' => Canon.ite (loseLine_canon h') h')

theorem slotWork_canon {s : State} (h : Canon s) : Canon (slotWork s) := by
  unfold slotWork
  dsimp only
  split
  · exact creditAcks_canon (Canon.foldl h fun t a h' => driftTimeout_canon h')
  · split
    · exact Canon.foldl h (fun t a h' => driftTimeout_canon h')
    · refine linkTimeouts_canon (seatSend_canon (slotBegin_canon (Canon.foldl (Canon.foldl h ?_) ?_)))
      · intro t a h'
        exact driftTimeout_canon h'
      · intro t a h'
        exact installTurn_canon (lapseTurn_canon h')

theorem fabPost_canon {s : State} {n : Nat} (h : Canon s) : Canon (fabPost s n) := by
  unfold fabPost
  dsimp only
  split
  · split
    · exact pushCompletion_canon (setFabPort_canon h)
    · exact h
  · exact h

theorem replayPost_canon {s : State} {n : Nat} (h : Canon s) : Canon (replayPost s n) := by
  unfold replayPost
  split
  · split
    · exact pushCompletion_canon (onUnit_canon h)
    · exact h
  · exact h

theorem postWords_canon {s : State} (h : Canon s) : Canon (postWords s) := by
  unfold postWords
  refine folioPost_canon (Canon.foldl (Canon.foldl (Canon.foldl (Canon.foldl h ?_) ?_) ?_) ?_)
  · intro t a h'
    exact btePost_canon h'
  · intro t a h'
    exact rowPost_canon h'
  · intro t a h'
    exact fabPost_canon h'
  · intro t a h'
    exact replayPost_canon h'

theorem engineClock_canon {s : State} (h : Canon s) : Canon (engineClock s) := by
  unfold engineClock
  split
  · exact Canon.ite (Canon.foldl h (fun t a h' => replayMerges_canon h')) h
  · dsimp only
    refine Canon.foldl (Canon.foldl (Canon.foldl (performFlips_canon h) ?_) ?_) ?_
    · intro t a h'
      exact rowClock_canon h'
    · intro t a h'
      exact fabClock_canon h'
    · intro t a h'
      exact replayClock_canon h'

theorem invComplete_canon {s : State} (h : Canon s) : Canon (invComplete s) := by
  unfold invComplete
  refine Canon.foldl (onCore_canon h rfl) (fun t a h' => ?_)
  split
  · exact supply_canon h'
  · exact h'

theorem rangeDone_canon {s : State} (h : Canon s) : Canon (rangeDone s) := onCore_canon h rfl

theorem walkDone_canon {s : State} {va : Nat} (h : Canon s) : Canon (walkDone s va) := translate_canon h

theorem lineFill_canon {s : State} {addr : Nat} (h : Canon s) : Canon (lineFill s addr) :=
  Canon.ite (h.next rfl) (h.next rfl)

theorem vxDone_canon {s : State} (h : Canon s) : Canon (vxDone s) := dropQueue_canon (writeDue_canon h)

theorem barRelease_canon {s : State} {lnum node : Nat} {c : Scope} {b : Fin 16} (h : Canon s) :
    Canon (barRelease s lnum node c b) := Canon.ite h (releaseBar_canon h)

theorem podBarRelease_canon {s : State} {lnum node : Nat} {b : Fin 16} (h : Canon s) :
    Canon (podBarRelease s lnum node b) := barRelease_canon (podRelease_canon h)

theorem closeNow_canon {s : State} {lnum node : Nat} (h : Canon s) : Canon (closeNow s lnum node) :=
  Canon.ite h (phaseCloseNow_canon (podClose_canon h))

theorem retireNow_canon {s : State} {lnum node : Nat} (h : Canon s) : Canon (retireNow s lnum node) := by
  unfold retireNow
  split
  · split
    · exact retireNode_canon h
    · exact h
  · exact h

theorem nodeClock_canon {s : State} {lnum node : Nat} (h : Canon s) : Canon (nodeClock s lnum node) := by
  have hbars : ∀ bars : List Bar, Canon (bars.foldl (fun s b => if b.scope == .pd then
      podBarRelease (if s.dist.frozen then s else arriveEmpty s lnum node b.id) lnum node b.id
      else barRelease s lnum node b.scope b.id) s) := fun _ =>
    Canon.foldl h (fun _ _ ht => Canon.ite (podBarRelease_canon (Canon.ite ht (arriveEmpty_canon ht)))
      (barRelease_canon ht))
  exact retireNow_canon (Canon.ite (hbars _) (exchangeEnd_canon (closeNow_canon (hbars _))))

theorem ageTask_canon {s : State} (h : Canon s) : Canon (ageTask s) := onTask_canon h

theorem startWaiting_canon {s : State} (h : Canon s) : Canon (startWaiting s) :=
  Canon.foldl h (fun _ _ h' => startReady_canon h')

theorem distLayers_canon {s : State} (h : Canon s) : Canon (distLayers s) := by
  unfold distLayers
  refine Canon.ite h ?_
  have hd : ∀ l b : Fin 4, Canon (onCore (drawn s) (fun c => { c with lsLayer := l, bLayer := b })) := fun _ _ =>
    onCore_canon (drawn_canon h) rfl
  have hb : ∀ l b : Fin 4, Canon (if b == 3 then onCore (onCore (drawn s) (fun c => { c with lsLayer := l, bLayer := b }))
      (fun c => { c with mx := { c.mx with panels := 0, panelPoison := 0, bstore := {} } })
      else onCore (drawn s) (fun c => { c with lsLayer := l, bLayer := b })) := fun l b =>
    Canon.ite { hd l b with bstore := Mem.wf_empty } (hd l b)
  exact Canon.ite (onCore_canon (Canon.oc_clear (hb _ _) lsBase 0x200000) rfl) (hb _ _)

theorem distClock_canon {s : State} (h : Canon s) : Canon (distClock s) := by
  unfold distClock
  dsimp only
  generalize e : (if (State.clock _ % 64 == 0) = true then distLayers _ else _) = t
  have ht : Canon t := by
    rw [← e]
    exact Canon.when (overflowReports_canon (reportsDue_canon (submitsDue_canon h)))
      (fun hr => distLayers_canon (reportFree_canon hr))
  refine Canon.ite ht (Canon.when (endRestore_canon (endSpill_canon (Canon.foldl ?_ (fun u l hu => ?_))))
    (fun hr => selectNow_canon hr))
  · exact startWaiting_canon (ageLaunches_canon (ageTask_canon (sendNotices_canon ht)))
  · exact Canon.when hu (fun hr => Canon.foldl hr (fun _ _ hv => nodeClock_canon hv))

theorem mscDue_canon {s : State} (h : Canon s) : Canon (mscDue s) := Canon.foldl h (fun _ _ h' => mscGrowClock_canon h')

theorem flushDue_canon {s : State} (h : Canon s) : Canon (flushDue s) :=
  Canon.foldl h (fun _ _ h' => frFlushed_canon h')

theorem clockEnd_canon {s : State} (h : Canon s) : Canon (clockEnd s) :=
  Canon.ite (grantQs_canon h) (bteAll_canon (grantQs_canon h))

theorem clockAsks_canon {s : State} (h : Canon s) : Canon (clockAsks s) := by
  unfold clockAsks
  exact onVu_canon h

theorem tick_canon {s : State} (h : Canon s) : Canon (tick s) := by
  have hcore : Canon (vxDone (mxClock (serviceClock (bringUp { clockEnd s with clock := (clockEnd s).clock + 1 })))) :=
    vxDone_canon (mxClock_canon (serviceClock_canon (bringUp_canon ((clockEnd_canon h).next rfl))))
  unfold tick
  refine clockAsks_canon (keepSignals_canon (distClock_canon (Canon.when (hostRetry_canon
    (Canon.when ?_ (fun ht => firmwareEnd_canon ht))) (fun ht => attestEnd_canon ht))))
  refine rowAnswers_canon (bwSettle_canon (flushDue_canon (mscDue_canon (fillsDue_canon (dbgReadDone_canon ?_)))))
  refine invComplete_canon (hostComplete_canon (rangeDone_canon (walkRetry_canon (folioTick_canon ?_))))
  refine scPerform_canon (seatTimeout_canon (sendPackets_canon (receiveClock_canon ?_)))
  exact engineClock_canon (refreshTick_canon (slotWork_canon hcore))

theorem takePreempt_canon {s : State} (h : Canon s) : Canon (takePreempt s) :=
  Canon.ite (applyPreempt_canon (Canon.ite (wakeCut_canon h) h)) h

theorem takeHalt_canon {s : State} (h : Canon s) : Canon (takeHalt s) :=
  Canon.ite h (Canon.ite (haltCore_canon (wakeCut_canon h)) (Canon.ite (haltCore_canon h) h))

theorem spillStep_canon {s : State} (h : Canon s) : Canon (spillStep s) :=
  Canon.ite (endSpill_canon h) (Canon.ite (beginSpill_canon h) h)

theorem restoreStep_canon {s : State} (h : Canon s) : Canon (restoreStep s) := by
  unfold restoreStep
  refine Canon.ite (endRestore_canon h) ?_
  split
  next i e =>
    obtain ⟨l, _, hi⟩ := Option.bind_eq_some_iff.mp e
    exact Canon.ite (bindRestore_canon h (List.mem_of_find?_eq_some hi)) h
  next => exact h

theorem wakeStep_canon {s : State} (h : Canon s) : Canon (wakeStep s) := by
  unfold wakeStep
  split
  · split
    · exact h
    · split
      · exact takeHalt_canon h
      · exact Canon.ite (takePreempt_canon h) (settle_canon (sleepRun_canon h))
  · exact h

theorem growNow_canon {s : State} {k n : Nat} (h : Canon s) : Canon (growNow s k n) := Canon.ite h (mscGrow_canon h)

theorem shrinkNow_canon {s : State} {k n : Nat} (h : Canon s) : Canon (shrinkNow s k n) :=
  Canon.ite h (mscShrink_canon h)

theorem execMscpartGrowComplete_canon {slice : Fin 128} {s : State} (h : Canon s) :
    OutCanon (execMscpartGrowComplete slice s) := Canon.ite (mscGrowDone_canon h) h

theorem execFormatRangeEnable_canon {h' : Fin 12} {n : Fin 16} {s : State} (h : Canon s) :
    OutCanon (execFormatRangeEnable h' n s) := Canon.ite h (frEnable_canon h)

theorem execFormatRangeDisable_canon {h' : Fin 12} {n : Fin 16} {s : State} (h : Canon s) :
    OutCanon (execFormatRangeDisable h' n s) := Canon.ite (frDisable_canon h) h

theorem execFormatRangeFlushDone_canon {h' : Fin 12} {n : Fin 16} {s : State} (h : Canon s) :
    OutCanon (execFormatRangeFlushDone h' n s) := Canon.ite (frFlushed_canon h) h

theorem execHbmBatchMark_canon {a : Fin 12} {s : State} (h : Canon s) : OutCanon (execHbmBatchMark a s) := h

theorem execBteerrClear_canon {v : Word} {s : State} (h : Canon s) : OutCanon (execBteerrClear v s) :=
  onCore_canon h rfl

theorem ringClaim_canon {s : State} {k : Nat} (h : Canon s) : Canon (ringClaim s k) := by
  unfold ringClaim
  split
  · exact h
  · split
    next x t a e => exact setChan_canon (OptCanonFst.of_some e (claimFor_canon h))
    next x e => exact h

theorem execBitwiseRegionEnable_canon {h' : Fin 12} {n : Fin 8} {s : State} (h : Canon s) :
    OutCanon (execBitwiseRegionEnable h' n s) := Canon.ite (bwStay_canon h) (bwEnable_canon h)

theorem fabBegin_canon {s : State} {n : Nat} (h : Canon s) : Canon (fabBegin s n) := Canon.ite h (fabStart_canon h)

theorem fabTimeout_canon {s : State} {n : Nat} (h : Canon s) : Canon (fabTimeout s n) := by
  unfold fabTimeout
  split
  · split
    · exact fabExpire_canon h
    · exact h
  · exact h

theorem execTutblGo_canon {dim : Fin 3} {v : Word} {s : State} (h : Canon s) : OutCanon (execTutblGo dim v s) :=
  Canon.ite (tutblStore_canon h) h

theorem execSendStep_canon {unit : Fin 4} {step : Nat} {s : State} (h : Canon s) :
    OutCanon (execSendStep unit step s) := Canon.ite (sendRun_canon h) h

theorem execRecvStep_canon {unit : Fin 4} {step : Nat} {s : State} (h : Canon s) :
    OutCanon (execRecvStep unit step s) := Canon.ite (recvRun_canon h) h

theorem execCopyStep_canon {unit : Fin 4} {step : Nat} {s : State} (h : Canon s) :
    OutCanon (execCopyStep unit step s) := Canon.ite (recvRun_canon h) h

theorem execFinStep_canon {unit : Fin 4} {step : Nat} {s : State} (h : Canon s) :
    OutCanon (execFinStep unit step s) := Canon.ite (finRun_canon h) h

theorem execNopStep_canon {unit : Fin 4} {step : Nat} {s : State} (h : Canon s) :
    OutCanon (execNopStep unit step s) := Canon.ite h (nopRun_canon h)

theorem execLeadArrival_canon {src : Fin 64} {addr : Word} {lead : Sector} {s : State} (h : Canon s) :
    OutCanon (execLeadArrival src addr lead s) := OptCanon.getD (leadArrives_canon h) h

theorem execStepRelease_canon {unit : Fin 4} {step : Nat} {s : State} (h : Canon s) :
    OutCanon (execStepRelease unit step s) := stepReleased_canon (markReady_canon h)

theorem execReshelveHistogramExchange_canon {unit : Fin 4} {s : State} (h : Canon s) :
    OutCanon (execReshelveHistogramExchange unit s) := reshStartMove_canon (reshCount_canon h)

theorem execFolioStoreEnable_canon {s : State} (h : Canon s) : OutCanon (execFolioStoreEnable s) :=
  Canon.ite h (folioEnable_canon h)

theorem execFolioEviction_canon {s : State} (h : Canon s) : OutCanon (execFolioEviction s) :=
  OptCanon.getD (OptCanonFst.map (evictOne_canon h) fun _ h' => h') h

theorem recallDone_canon {s : State} {k : Nat} (h : Canon s) : Canon (recallDone s k) := by
  unfold recallDone
  split
  · split
    · exact finishRecall_canon h
    · exact h
  · exact h

theorem splitNow_canon {s : State} {name : Nat} (h : Canon s) : Canon (splitNow s name) := by
  unfold splitNow
  split
  · split
    · exact OptCanon.getD (splitFolio_canon h) h
    · exact h
  · exact h

theorem pinDeadline_canon {s : State} {k : Nat} (h : Canon s) : Canon (pinDeadline s k) := by
  unfold pinDeadline
  split
  · exact Canon.foldl h (fun t a h' => pinTick_canon h')
  · exact h

theorem execHdmEnable_canon {a : Word} {s : State} (h : Canon s) : OutCanon (execHdmEnable a s) :=
  Canon.ite h (hdmOn_canon h)

theorem execHdmDisable_canon {a : Word} {s : State} (h : Canon s) : OutCanon (execHdmDisable a s) := hdmOff_canon h

theorem execRepreqClear_canon {v : Word} {s : State} (h : Canon s) : OutCanon (execRepreqClear v s) :=
  Canon.ite (clearRepreq_canon h) h

theorem registerStore_canon {s : State} {a : Nat} {v : Word} (h : Canon s) : Canon (registerStore s a v) := by
  unfold registerStore
  split
  · split
    · exact hubStore_canon h
    · exact h
  · exact h

theorem fetchOne_canon {s : State} {va : CodeAddr} (h : Canon s) : AccCanon (fetchOne s va) := by
  unfold fetchOne
  refine AccCanon.bind (gmCheck_canon h) (fun t a h' => ?_)
  split
  · exact lineFill_canon h'
  · split
    · exact Canon.foldl h' (fun t' a h2 => addCode_canon h2)
    · exact h'

theorem fetchFault_canon {s : State} {c : Cause} {va : CodeAddr} (h : Canon s) : Canon (fetchFault s c va) :=
  Canon.ite (abortCore_canon h) (trapDecode_canon h)

theorem resumeFault_canon {s : State} {k : Nat} (h : Canon s) : Canon (resumeFault s k) :=
  trapDecode_canon (drawn_canon h)

theorem decodeFault_canon {s : State} {c : Cause} {k : Nat} {w : Syllable} (h : Canon s) :
    Canon (decodeFault s c k w) := trapDecode_canon h

theorem scheduleClock_canon {s : State} (h : Canon s) : Canon (scheduleClock s) :=
  tick_canon (landThrough_canon (onCore_canon h rfl))

theorem stallClock_canon {s : State} (h : Canon s) : Canon (stallClock s) := tick_canon (onCore_canon h rfl)

theorem issueBundle_canon {s : State} {ws : List Syllable} {d : Decoded} {start : Nat} (h : Canon s) :
    Canon (issueBundle s ws d start) := Canon.ite (onCore_canon (issue_canon h) rfl) (issue_canon h)

theorem stepOver_canon {s : State} (h : Canon s) : Canon (stepOver s) := Canon.ite (haltCore_canon h) (takeTrap_canon h)

theorem alu_canon {i : Instr} {d : XReg} {s : State} {f : State → Word} (h : Canon s) : OutCanon (alu i d s f) :=
  syl_canon h (fun _ h' => guardPush_canon h' (exposeX_canon h'))

theorem pred_canon {i : Instr} {p : PReg} {s : State} {f : State → Bool} (h : Canon s) : OutCanon (pred i p s f) :=
  syl_canon h (fun _ h' => expose_canon h')

theorem execNop_canon {s : State} (h : Canon s) : OutCanon (execNop s) := syl_canon h (fun _ h' => h')

theorem mulRes_canon {i : Instr} {d : XReg} {s : State} {f : State → Word} (h : Canon s) :
    OutCanon (mulRes i d s f) := syl_canon h (fun _ h' => guardPush_canon h' (exposeX_canon h'))

theorem divRes_canon {i : Instr} {d a b : XReg} {signed rem : Bool} {s : State} (h : Canon s) :
    OutCanon (divRes i d a b signed rem s) := by
  unfold divRes
  refine syl_canon h (fun t h' => ?_)
  split
  · exact h'
  · refine guardPush_canon h' ?_
    exact pendX_canon (onCore_canon h' rfl)

theorem execLx_canon {u : BitVec 27} {s : State} (h : Canon s) : OutCanon (execLx u s) := by
  unfold execLx
  split
  next x e => exact stall_canon h
  next x t e =>
    split
    · exact trapHere_canon (OptCanon.of_some e (ready_canon h))
    · split
      · exact onCore_canon (OptCanon.of_some e (ready_canon h)) rfl
      · exact trapDecode_canon (OptCanon.of_some e (ready_canon h))

end Sys2Proof.Machine
end

section
/-!
MAIN. Every step keeps the byte memories in canonical form: the fetch, every instruction and event, and O7.
-/
namespace Sys2Proof.Machine
open Sys2Proof
set_option Elab.async false -- proofs one at a time: the check of the whole text is near its memory limit

/-- What fetching leaves is canonical. -/
def FetchedCanon : Fetched → Prop
  | .bundle s _ _ => Canon s
  | .fault s _ _ => Canon s
  | .stalled s => Canon s

/-- The state that the front end passes on, or in which it runs an instruction, is canonical. -/
def FrontCanon : Front → Prop
  | .pass s => Canon s
  | .run s _ => Canon s
  | .stop _ => True

theorem FrontCanon.ite {c : Prop} [Decidable c] {x y : Front} (hx : FrontCanon x) (hy : FrontCanon y) :
    FrontCanon (if c then x else y) := by
  split
  · exact hx
  · exact hy

theorem fetchMore_canon {fuel : Nat} {s : State} {va : CodeAddr} {ws : List Syllable} (h : Canon s) :
    FetchedCanon (fetchMore fuel s va ws) := by
  induction fuel generalizing s va ws with
  | zero => exact h
  | succ fuel ih =>
    unfold fetchMore
    split
    next t w e =>
      have ht : Canon t := AccCanon.of_ok e (fetchOne_canon h)
      split
      · exact ht
      · exact ih ht
    next t c _ _ e => exact AccCanon.of_fault (x := fetchOne s va) e (fetchOne_canon h)
    next t e => exact AccCanon.of_wait (x := fetchOne s va) e (fetchOne_canon h)

theorem issueOrWait_canon {s : State} {ws : List Syllable} (h : Canon s) : FrontCanon (issueOrWait s ws) := by
  unfold issueOrWait
  dsimp only
  refine FrontCanon.ite (onCore_canon h rfl) (FrontCanon.ite (stall_canon h) ?_)
  split
  next e r _ => exact issueBundle_canon h
  next => exact stall_canon h

theorem checkFetched_canon {s : State} {ws : List Syllable} {closed : Bool} (h : Canon s) :
    FrontCanon (checkFetched s ws closed) := by
  unfold checkFetched
  dsimp only
  split
  next => exact decodeFault_canon h
  next =>
    split
    · exact decodeFault_canon h
    · exact FrontCanon.ite (resumeFault_canon h) (issueOrWait_canon h)

theorem nextBundle_canon {s : State} (h : Canon s) : FrontCanon (nextBundle s) := by
  have hf : FetchedCanon (fetch s) := fetchMore_canon h
  unfold nextBundle
  generalize fetch s = r at hf ⊢
  cases r with
  | stalled t => exact stall_canon hf
  | fault t c va => exact fetchFault_canon hf
  | bundle t ws closed => exact checkFetched_canon hf

/-- A preemption at a boundary or in a wait, and the clock that passes where it is not yet over. -/
theorem preempted_canon {s : State} (h : Canon s) :
    Canon (if (takePreempt s).core.preempt.isSome then tick (takePreempt s) else takePreempt s) :=
  Canon.ite (tick_canon (takePreempt_canon h)) (takePreempt_canon h)

theorem boundary_canon {s : State} (h : Canon s) : FrontCanon (boundary s) := by
  unfold boundary
  exact FrontCanon.ite (stepOver_canon h) (FrontCanon.ite (takeHalt_canon h)
    (FrontCanon.ite (preempted_canon h) (nextBundle_canon h)))

theorem goOn_canon {s : State} (h : Canon s) : FrontCanon (goOn s) := by
  unfold goOn
  refine FrontCanon.ite (takeHalt_canon h) (FrontCanon.ite (preempted_canon h) ?_)
  split
  next i _ => exact h
  next => exact decodeFault_canon h

theorem front_canon {s : State} (h : Canon s) : FrontCanon (front s) := by
  unfold front
  split
  next i r _ =>
    have hr : Canon { s with inputs := r } := h.next rfl
    exact FrontCanon.ite hr (FrontCanon.ite (FrontCanon.ite hr hr) (goOn_canon h))
  next =>
    exact FrontCanon.ite trivial (FrontCanon.ite (stallClock_canon h) (FrontCanon.ite (tick_canon h)
      (FrontCanon.ite (goOn_canon h) (FrontCanon.ite (stall_canon h) (FrontCanon.ite (scheduleClock_canon h)
        (boundary_canon h))))))

/-- Every instruction and every event keeps the memories canonical. -/
theorem exec_canon {i : Instr} {s : State} (h : Canon s) : OutCanon (exec i s) := by
  cases i with
  | nop => exact execNop_canon h
  | add _ _ _ _ => exact alu_canon h
  | sub _ _ _ _ => exact alu_canon h
  | and _ _ _ _ => exact alu_canon h
  | or _ _ _ _ => exact alu_canon h
  | xor _ _ _ _ => exact alu_canon h
  | andn _ _ _ _ => exact alu_canon h
  | sll _ _ _ _ => exact alu_canon h
  | srl _ _ _ _ => exact alu_canon h
  | sra _ _ _ _ => exact alu_canon h
  | rol _ _ _ _ => exact alu_canon h
  | mul _ _ _ _ => exact mulRes_canon h
  | mulh _ _ _ _ => exact mulRes_canon h
  | mulhw _ _ _ _ => exact mulRes_canon h
  | div _ _ _ _ => exact divRes_canon h
  | divw _ _ _ _ => exact divRes_canon h
  | rem _ _ _ _ => exact divRes_canon h
  | remw _ _ _ _ => exact divRes_canon h
  | min _ _ _ _ => exact alu_canon h
  | max _ _ _ _ => exact alu_canon h
  | minw _ _ _ _ => exact alu_canon h
  | maxw _ _ _ _ => exact alu_canon h
  | clz _ _ _ => exact alu_canon h
  | ctz _ _ _ => exact alu_canon h
  | popc _ _ _ => exact alu_canon h
  | bfx _ _ _ _ => exact alu_canon h
  | bfi _ _ _ _ => exact alu_canon h
  | sel _ _ _ _ => exact alu_canon h
  | pcmpEq _ _ _ _ => exact pred_canon h
  | pcmpNe _ _ _ _ => exact pred_canon h
  | pcmpLt _ _ _ _ => exact pred_canon h
  | pcmpGe _ _ _ _ => exact pred_canon h
  | pcmpLtw _ _ _ _ => exact pred_canon h
  | pcmpGew _ _ _ _ => exact pred_canon h
  | pand _ _ _ _ => exact pred_canon h
  | por _ _ _ _ => exact pred_canon h
  | pxor _ _ _ _ => exact pred_canon h
  | pnot _ _ _ => exact pred_canon h
  | qcount _ _ _ => exact alu_canon h
  | addi _ _ _ => exact alu_canon h
  | andi _ _ _ => exact alu_canon h
  | ori _ _ _ => exact alu_canon h
  | xori _ _ _ => exact alu_canon h
  | slli _ _ _ => exact alu_canon h
  | srli _ _ _ => exact alu_canon h
  | srai _ _ _ => exact alu_canon h
  | movi _ _ => exact alu_canon h
  | pcmpiEq _ _ _ => exact pred_canon h
  | pcmpiNe _ _ _ => exact pred_canon h
  | pcmpiLt _ _ _ => exact pred_canon h
  | pcmpiGe _ _ _ => exact pred_canon h
  | pcmpiLtw _ _ _ => exact pred_canon h
  | pcmpiGew _ _ _ => exact pred_canon h
  | lx _ => exact execLx_canon h
  | j _ _ => exact execJ_canon h
  | call _ _ => exact execCall_canon h
  | jr _ _ => exact execJr_canon h
  | ret _ => exact execRet_canon h
  | loop _ _ _ => exact execLoop_canon h
  | ldl _ _ _ _ => exact load_canon h
  | ldq _ _ _ _ => exact load_canon h
  | ldo _ _ _ _ => exact load_canon h
  | ldg _ _ _ _ => exact load_canon h
  | ldf _ _ _ _ => exact load_canon h
  | ldh _ _ _ _ => exact load_canon h
  | stl _ _ _ _ => exact store_canon h
  | stq _ _ _ _ => exact store_canon h
  | sto _ _ _ _ => exact store_canon h
  | stg _ _ _ _ => exact store_canon h
  | stf _ _ _ _ => exact store_canon h
  | sth _ _ _ _ => exact store_canon h
  | amol _ _ _ _ _ => exact amo_canon h
  | amoq _ _ _ _ _ => exact amo_canon h
  | amoo _ _ _ _ _ => exact amo_canon h
  | amog _ _ _ _ _ => exact amo_canon h
  | pfg _ _ _ => exact execPfg_canon h
  | cwb _ _ _ => exact execCwb_canon h
  | cinv _ _ _ => exact execCinv_canon h
  | hfence => exact execHfence_canon h
  | efence => exact execEfence_canon h
  | vadd _ _ _ _ _ => exact vrOp_canon h
  | vsub _ _ _ _ _ => exact vrOp_canon h
  | vmul _ _ _ _ _ => exact vrOp_canon h
  | vfma _ _ _ _ _ => exact vrOp_canon h
  | vfms _ _ _ _ _ => exact vrOp_canon h
  | vmin _ _ _ _ _ => exact vrOp_canon h
  | vmax _ _ _ _ _ => exact vrOp_canon h
  | vabs _ _ _ _ => exact vrOp_canon h
  | vneg _ _ _ _ => exact vrOp_canon h
  | vand _ _ _ _ _ => exact vrOp_canon h
  | vor _ _ _ _ _ => exact vrOp_canon h
  | vxor _ _ _ _ _ => exact vrOp_canon h
  | vshl _ _ _ _ _ => exact vrOp_canon h
  | vshr _ _ _ _ _ => exact vrOp_canon h
  | vsel _ _ _ _ => exact vrOp_canon h
  | vcvt _ _ _ _ _ => exact execVcvt_canon h
  | vcmpEq _ _ _ _ _ => exact vcmpOp_canon h
  | vcmpNe _ _ _ _ _ => exact vcmpOp_canon h
  | vcmpLt _ _ _ _ _ => exact vcmpOp_canon h
  | vcmpLe _ _ _ _ _ => exact vcmpOp_canon h
  | vcmpGt _ _ _ _ _ => exact vcmpOp_canon h
  | vcmpGe _ _ _ _ _ => exact vcmpOp_canon h
  | vwadd _ _ _ _ _ => exact execVwadd_canon h
  | vwmul _ _ _ _ _ => exact execVwmul_canon h
  | vwfma _ _ _ _ _ => exact execVwfma_canon h
  | vrcp _ _ _ _ => exact vrOp_canon h
  | vrsqrt _ _ _ _ => exact vrOp_canon h
  | vexp2 _ _ _ _ => exact vrOp_canon h
  | vlog2 _ _ _ _ => exact vrOp_canon h
  | vredsum _ _ _ _ => exact reduceOp_canon h
  | vredmax _ _ _ _ => exact reduceOp_canon h
  | vscan _ _ _ _ => exact reduceOp_canon h
  | vbcast _ _ _ _ => exact vrOp_canon h
  | vmovx _ _ _ _ => exact execVmovx_canon h
  | vins _ _ _ _ => exact vrOp_canon h
  | vperm _ _ _ _ _ => exact execVperm_canon h
  | vrot _ _ _ _ _ => exact vrOp_canon h
  | mand _ _ _ => exact maskOp_canon h
  | mor _ _ _ => exact maskOp_canon h
  | mnot _ _ => exact maskOp_canon h
  | mpop _ _ _ => exact execMpop_canon h
  | vshuf _ _ => exact execVshuf_canon h
  | vqcvt _ _ _ => exact execVqcvt_canon h
  | vdqcvt _ _ => exact execVdqcvt_canon h
  | vsetcfg _ _ => exact execVsetcfg_canon h
  | vgatherq _ _ _ => exact execVgatherq_canon h
  | vscatq _ _ _ => exact execVscatq_canon h
  | vfence => exact execVfence_canon h
  | vmskld _ _ _ => exact execVmskld_canon h
  | vldl _ _ _ => exact vmLoad_canon h
  | vldq _ _ _ => exact vmLoad_canon h
  | vldo _ _ _ => exact vmLoad_canon h
  | vldg _ _ _ => exact vmLoad_canon h
  | vldf _ _ _ => exact vmLoad_canon h
  | vldh _ _ _ => exact vmLoad_canon h
  | vstl _ _ _ => exact vmStore_canon h
  | vstq _ _ _ => exact vmStore_canon h
  | vsto _ _ _ => exact vmStore_canon h
  | vstg _ _ _ => exact vmStore_canon h
  | vstf _ _ _ => exact vmStore_canon h
  | vsth _ _ _ => exact vmStore_canon h
  | vldqRow _ _ _ => exact tileLoad_canon h
  | vstqRow _ _ _ => exact tileStore_canon h
  | vldqCol _ _ _ => exact tileLoad_canon h
  | vstqCol _ _ _ => exact tileStore_canon h
  | vldlChk _ _ _ _ => exact chkLoad_canon h
  | vldqChk _ _ _ _ => exact chkLoad_canon h
  | vldoChk _ _ _ _ => exact chkLoad_canon h
  | vldgChk _ _ _ _ => exact chkLoad_canon h
  | vldfChk _ _ _ _ => exact chkLoad_canon h
  | vldhChk _ _ _ _ => exact chkLoad_canon h
  | gclr _ _ => exact execGclr_canon h
  | gadd _ _ _ _ => exact execGadd_canon h
  | gwadd _ _ _ _ _ => exact execGwadd_canon h
  | gmerge _ _ _ => exact execGmerge_canon h
  | gfold _ _ _ => exact execGfold_canon h
  | gdrain _ _ _ _ _ => exact execGdrain_canon h
  | gld _ _ _ => exact execGld_canon h
  | gst _ _ _ => exact execGst_canon h
  | gset _ _ _ => exact execGset_canon h
  | mma _ _ _ _ _ _ => exact mmaIssue_canon h
  | mmat _ _ _ _ _ _ => exact mmaIssue_canon h
  | mmag _ _ _ _ _ _ => exact mmaIssue_canon h
  | mzero _ => exact execMzero_canon h
  | mdrain _ _ _ _ _ _ _ => exact execMdrain_canon h
  | mldc _ _ _ => exact execMldc_canon h
  | mbwr _ _ _ _ => exact execMbwr_canon h
  | mwait _ _ _ => exact execMwait_canon h
  | mstat _ _ => exact execMstat_canon h
  | mpert _ _ _ _ => exact execMpert_canon h
  | erw _ _ _ => exact execErw_canon h
  | err _ _ _ => exact execErr_canon h
  | eswap _ => exact execEswap_canon h
  | binit _ _ _ _ => exact execBinit_canon h
  | barv _ _ _ _ => exact execBarv_canon h
  | bwait _ _ _ => exact execBwait_canon h
  | btest _ _ _ _ => exact execBtest_canon h
  | badd _ _ _ => exact execBadd_canon h
  | wadv _ _ _ => exact execWadv_canon h
  | wpos _ _ => exact execWpos_canon h
  | owne _ _ _ _ => exact execOwne_canon h
  | ownc _ _ _ _ => exact execOwnc_canon h
  | rcnt _ _ _ => exact execRcnt_canon h
  | rowcpy _ _ _ => exact rowSyl_canon h
  | rowfil _ _ _ => exact rowSyl_canon h
  | rowand _ _ _ _ => exact rowSyl_canon h
  | rowor _ _ _ _ => exact rowSyl_canon h
  | rowxor _ _ _ _ => exact rowSyl_canon h
  | rownot _ _ _ => exact rowSyl_canon h
  | rowq _ _ _ => exact execRowq_canon h
  | foalloc _ _ => exact execFoalloc_canon h
  | foshare _ _ _ => exact execFoshare_canon h
  | fofree _ _ => exact execFofree_canon h
  | folook _ _ => exact execFolook_canon h
  | fopin _ _ _ _ => exact execFopin_canon h
  | founpin _ _ => exact execFounpin_canon h
  | fopool _ _ => exact execFopool_canon h
  | fsend _ _ _ _ => exact fabSyl_canon h
  | fwr _ _ _ _ => exact fabSyl_canon h
  | fwrs _ _ _ _ => exact fabSyl_canon h
  | fwrsSc _ _ _ _ => exact execFwrsSc_canon h
  | frd _ _ _ _ => exact fabSyl_canon h
  | fsig _ _ _ => exact fabSyl_canon h
  | famo _ _ _ _ _ => exact execFamo_canon h
  | fmcast _ _ _ _ _ => exact fabSyl_canon h
  | fwait _ _ _ => exact execFwait_canon h
  | fslot _ => exact execFslot_canon h
  | fslotWait _ => exact execFslotWait_canon h
  | fcnt _ _ _ => exact execFcnt_canon h
  | fseat _ => exact execFseat_canon h
  | rgload _ _ => exact execRgload_canon h
  | rgplay _ _ _ _ => exact execRgplay_canon h
  | rgwait _ _ => exact execRgwait_canon h
  | rgstat _ _ _ => exact execRgstat_canon h
  | rgfree _ => exact execRgfree_canon h
  | reshelve _ _ => exact execReshelve_canon h
  | bar _ _ => exact execBar_canon h
  | tkt _ _ => exact execTkt_canon h
  | tktn _ _ _ => exact execTktn_canon h
  | launch _ _ => exact execLaunch_canon h
  | lwait _ _ => exact execLwait_canon h
  | eta _ => exact execEta_canon h
  | endt => exact execEndt_canon h
  | ssend _ => exact execSsend_canon h
  | prio _ _ => exact execPrio_canon h
  | nodeid _ _ => exact execNodeid_canon h
  | tileid _ _ => exact execTileid_canon h
  | trap _ => exact execTrap_canon h
  | rft => exact execRft_canon h
  | rftAbort => exact execRftAbort_canon h
  | rftReplay => exact execRftReplay_canon h
  | csrr _ _ => exact execCsrr_canon h
  | csrw _ _ => exact execCsrw_canon h
  | env _ => exact execEnv_canon h
  | envc => exact execEnvc_canon h
  | xlinv _ _ _ => exact execXlinv_canon h
  | xlwait => exact execXlwait_canon h
  | qmap _ _ _ => exact execQmap_canon h
  | halt => exact execHalt_canon h
  | brk _ => exact execBrk_canon h
  | tinj _ _ _ => exact execTinj_canon h
  | sleep _ _ => exact execSleep_canon h
  | exposedWriteLand => exact landThrough_canon h
  | scoreboardResultWrite => exact writeDue_canon h
  | barrierRelease _ _ _ _ => exact barRelease_canon h
  | podBarrierRelease _ _ _ => exact podBarRelease_canon h
  | slotStart => exact slotBegin_canon h
  | seatSlotSend => exact seatSend_canon h
  | podScPerform => exact scPerform_canon h
  | seatReportTimeout => exact seatTimeout_canon h
  | preemptionTaken => exact takePreempt_canon h
  | checkpointSpill => exact spillStep_canon h
  | checkpointRestore => exact restoreStep_canon h
  | haltRequestTaken => exact takeHalt_canon h
  | mscpartGrow _ _ => exact growNow_canon h
  | mscpartGrowComplete _ => exact execMscpartGrowComplete_canon h
  | mscpartShrink _ _ => exact shrinkNow_canon h
  | formatRangeEnable _ _ => exact execFormatRangeEnable_canon h
  | formatRangeDisable _ _ => exact execFormatRangeDisable_canon h
  | formatRangeFlushDone _ _ => exact execFormatRangeFlushDone_canon h
  | cohctlWrite _ => exact cohctlStore_canon h
  | rebase => exact rebaseNow_canon h
  | hbmBatchMark a => exact execHbmBatchMark_canon (a := a) h
  | walkerMovingRetry => exact walkRetry_canon h
  | qsBankGrant => exact grantQs_canon h
  | vxCommandComplete => exact vxDone_canon h
  | matrixOpStart _ => exact mxStart_canon h
  | matrixOpComplete _ => exact mxComplete_canon h
  | bteCommandStart _ => exact bteStart_canon h
  | bteSectorTransfer _ => exact bteSector_canon h
  | completionWordPost => exact postWords_canon h
  | bteerrClear _ => exact execBteerrClear_canon h
  | ringEnable _ _ => exact enableRing_canon h
  | ringDisable _ _ => exact disableRing_canon h
  | ringSlotClaim _ => exact ringClaim_canon h
  | owncFlip => exact performFlips_canon h
  | rowStep _ => exact rowStepNow_canon h
  | bitwiseRegionEnable _ _ => exact execBitwiseRegionEnable_canon h
  | bitwiseRegionDisable _ _ => exact bwDisable_canon h
  | bankRefresh _ _ => exact refreshDue_canon h
  | bankRefreshEnd _ _ => exact refreshEnd_canon h
  | fabricCommandStart _ => exact fabBegin_canon h
  | fabricPacketSend => exact sendPackets_canon h
  | packetReceive _ _ _ _ _ => exact receivePacket_canon h
  | streamPacketPerform => exact performOne_canon h
  | acknowledgementSend _ _ _ => exact creditAck_canon h
  | linkReplayTimeout _ _ _ => exact linkTimeout_canon h
  | packetRelay => exact relayOne_canon h
  | fabricCommandTimeout _ => exact fabTimeout_canon h
  | lineLost _ _ _ => exact loseLine_canon h
  | lineDrift _ _ _ => exact driftLine_canon h
  | lineRetuned _ _ _ => exact retuneLine_canon h
  | combLost _ _ => exact loseComb_canon h
  | tableProposalLapse _ => exact proposalLapse_canon h
  | tableInstalled _ => exact installTable_canon h
  | tutblGo _ _ => exact execTutblGo_canon h
  | tuevtRead _ => exact takeEvent_canon h
  | linjctlWrite _ _ => exact linjStore_canon h
  | instanceStart _ => exact instStart_canon h
  | sendStep _ _ => exact execSendStep_canon h
  | recvStep _ _ => exact execRecvStep_canon h
  | copyStep _ _ => exact execCopyStep_canon h
  | finStep _ _ => exact execFinStep_canon h
  | nopStep _ _ => exact execNopStep_canon h
  | leadArrival _ _ _ => exact execLeadArrival_canon h
  | stepRelease _ _ => exact execStepRelease_canon h
  | recvDataTimeout _ _ => exact recvTimeout_canon h
  | sendStepTimeout _ _ => exact sendTimeout_canon h
  | instanceComplete _ => exact instFinish_canon h
  | riggingLoadComplete _ => exact loadEnd_canon h
  | reshelveHistogramExchange _ => exact execReshelveHistogramExchange_canon h
  | reshelveMove _ => exact reshMoveDone_canon h
  | reshelveTimeout _ => exact reshTimeout_canon h
  | folioStoreEnable => exact execFolioStoreEnable_canon h
  | folioStoreDisable => exact folioDisable_canon h
  | folioEviction => exact execFolioEviction_canon h
  | folioRecallComplete _ => exact recallDone_canon h
  | copyOnWriteSplit _ => exact splitNow_canon h
  | fopinDeadline _ => exact pinDeadline_canon h
  | ddoorSubmit _ => exact submitDoor_canon h
  | launchPacket _ _ => exact peerLaunch_canon h
  | computePhaseStart _ _ => exact phaseStart_canon h
  | freeCoreReport => exact reportFree_canon h
  | ticketDispatch => exact dispatchNow_canon h
  | phaseClose _ _ => exact closeNow_canon h
  | exchangePhaseEnd _ _ => exact exchangeEnd_canon h
  | nodeRetire _ _ => exact retireNow_canon h
  | selection => exact selectNow_canon h
  | tokenAging => exact ageLaunches_canon h
  | dbgctlHalt _ => exact dbgctlStore_canon h
  | dbgctlStep _ => exact dbgctlStore_canon h
  | dbgctlRun _ => exact dbgctlStore_canon h
  | dbgmaddrRead _ => exact dbgRead_canon h
  | debugReadComplete => exact dbgReadDone_canon h
  | atctlWrite _ _ => exact atStore_canon h
  | sleepWake => exact wakeStep_canon h
  | hostBar0Access _ _ => exact bar0_canon h
  | hostMemRequest _ _ _ => exact hostMem_canon h
  | hostWindowWrite _ _ _ => exact windowStore_canon h
  | hdmEnable a => exact execHdmEnable_canon (a := a) h
  | hdmDisable a => exact execHdmDisable_canon (a := a) h
  | repreqClear _ => exact execRepreqClear_canon h
  | firmwareUpdate _ => exact firmwareStart_canon h
  | firmwareUpdateDone => exact firmwareEnd_canon h
  | attestationRequest _ => exact attestStart_canon h
  | attestationDone => exact attestEnd_canon h
  | reset => exact resetPackage_canon h
  | hbmStackTrained _ => exact stackTrained_canon h
  | fullServiceEntry _ => exact enterFull_canon h
  | unitRemoval _ _ => exact removeUnit_canon h
  | thermalLimit _ _ _ => exact beginLimiting_canon h
  | thermalTrip _ _ => exact thermalHalt_canon h
  | inputUndervoltage => exact haltPackage_canon h
  | registerWrite _ _ => exact registerStore_canon h
  | cxlLinkLoss => exact hubField_canon h
  | cxlLinkReturn => exact hubField_canon h
  | powerLimitingEnd _ _ _ => exact endLimiting_canon h
  | translationWalkComplete _ => exact walkDone_canon h
  | instructionCacheFill _ => exact lineFill_canon h
  | cacheRangeComplete => exact rangeDone_canon h
  | hostAccessComplete => exact hostComplete_canon h
  | cxlCacheSnoop _ _ => exact hostLine_canon h

theorem step_canon {s : State} (h : Canon s) : OutCanon (step s) := by
  have hf : FrontCanon (front s) := front_canon h
  unfold step
  generalize front s = r at hf ⊢
  cases r with
  | pass t => exact hf
  | run t i => exact exec_canon hf
  | stop f => trivial

/-- Settles O7: the front end and every instruction and event keep each memory canonical, function by function. -/
theorem memoryStaysCanonical : Obligations.MemoryStaysCanonical := by
  unfold Obligations.MemoryStaysCanonical
  intro s t hs ht
  have hstep : OutCanon (step s) := step_canon ((canon_iff_memInv s).mpr hs)
  rw [ht] at hstep
  exact (canon_iff_memInv t).mp hstep

end Sys2Proof.Machine
end
